-- ==== Sys2Proof/Word.lean ====
section
/-!
DEFINITION. The word types of the model and their plainest arithmetic: bytes, and the sparse maps in which the state
keeps what the specification lays out over large index ranges (memories, register files, per-unit records).
-/
namespace Sys2Proof

/-- One byte. -/
abbrev Byte := BitVec 8

/-- A sparse map from a number to a value: a list of pairs with rising keys. An unlisted key holds a default that the
reader names, and no listed pair holds that default, so that equal maps are equal lists. -/
abbrev SMap (α : Type) := List (Nat × α)

/-- The value at a key, `d` where none is listed. -/
def mget {α : Type} (m : SMap α) (k : Nat) (d : α) : α :=
  match m with
  | [] => d
  | (a, x) :: r => if a = k then x else mget r k d

/-- A pair put at its place by key, replacing the pair of that key. -/
def mins {α : Type} (m : SMap α) (k : Nat) (v : α) : SMap α :=
  match m with
  | [] => [(k, v)]
  | (a, x) :: r =>
    if a < k then (a, x) :: mins r k v
    else if a = k then (k, v) :: r
    else (k, v) :: (a, x) :: r

/-- The map without a key. -/
def mdel {α : Type} (m : SMap α) (k : Nat) : SMap α := m.filter (fun p => !decide (p.1 = k))

/-- The map with `v` at `k`, where `d` is what an unlisted key holds. -/
def mset {α : Type} [DecidableEq α] (d : α) (m : SMap α) (k : Nat) (v : α) : SMap α :=
  if v = d then mdel m k else mins m k v

/-- The map without the keys from `lo` up to but not including `hi`. -/
def mclear {α : Type} (m : SMap α) (lo hi : Nat) : SMap α :=
  m.filter (fun p => !(decide (lo ≤ p.1) && decide (p.1 < hi)))

/-- The canonical form: keys strictly rising and no pair equal to the default. -/
def mwf {α : Type} [DecidableEq α] (d : α) : SMap α → Bool
  | [] => true
  | [(_, x)] => decide (x ≠ d)
  | (a, x) :: (b, y) :: r => decide (x ≠ d) && decide (a < b) && mwf d ((b, y) :: r)

end Sys2Proof
end

