-- ==== Sys2Proof/Syntax.lean ====
section
/-!
DEFINITION. The commands of the block: one constructor per row of the table, with the operands the row needs.
-/
namespace Sys2Proof.Machine

/-- A flit (16_hormen_fabric R376): header bits [95:0] without SEQ and ACK, and the payload. -/
structure Flit where
  head : Nat
  payload : List Byte
  deriving DecidableEq, Repr

/-- A module's part of a discovery report (R391, Table 19-10): its depth below the report's sender, the port to its parent,
its serial, bridge flag and firmware version, and its partners' ports and serials. -/
structure TopoRec where
  depth : Nat
  upport : Nat
  serial : Nat
  bridge : Bool
  fw : Nat
  nport : Nat
  nser : List Nat
  deriving DecidableEq, Repr

/-- How a packet comes to its destination: the number of bits of one of its words that failed on the way (R37), and the group
address it was sent to, 0 where it was sent to none (R22, R23). -/
structure PacketWay where
  flips : Nat
  group : Nat
  deriving DecidableEq, Repr

/-- A write to registers: its bytes, and the bits of type W1C of the unit that the hardware sets in the same MCLK cycle, as
pairs of a register's offset and its bits (R13). -/
structure RegWrite where
  data : List Byte
  events : List (Nat × Nat)
  deriving DecidableEq, Repr

end Sys2Proof.Machine
namespace Sys2Proof

inductive Instr where
  /-- POWER_GOOD_RISE (R508): PWR_OK is high and the busbar input enters the operating window, so power good rises and start-up begins at stage 1. -/
  | powerGoodRise (mv : Nat) (slot : Nat) (bridgeSelLow : Bool)
  /-- POWER_GOOD_FALL (R508): PWR_OK goes low or the input leaves its range, so power good falls and the module behaves as if 52 V were removed. -/
  | powerGoodFall (pwrOk : Bool)
  /-- INPUT_VOLTAGE_CHANGE (R492): The input voltage crosses 48.0 V or 56.0 V while power good holds, and PWR_STAT.VLOW or VHIGH changes. -/
  | inputVoltageChange (mv : Nat)
  /-- MOD_RST_N_ASSERT (R515): MOD_RST_N goes low, so the module is held in reset and any start-up in progress is abandoned. -/
  | modRstNAssert
  /-- MOD_RST_N_RELEASE (R513): MOD_RST_N is released and its low period, timed on TCLK, is classified as ignored, a warm reset or a cold reset. -/
  | modRstNRelease (tclk : Nat) (near : Bool)
  /-- PLL_LOSS_OF_LOCK (R29): The root PLL loses lock, so the control die drives FAULT_N low, stops every derived clock and holds the module in reset. -/
  | pllLossOfLock
  /-- PLL_LOCK (R29): The root PLL locks or regains lock, so the timestamp starts (R28) and start-up runs from the keeper ROM. -/
  | pllLock
  /-- START_UP_STAGE_DONE (R516): A start-up stage of Table 22-6 completes and SB_STAT.STAGE advances to the next stage. -/
  | startUpStageDone (bad : Bool) (ports : List (Nat × Nat)) (eths : List Nat)
  /-- PERST_N_RELEASE (R517): PERST_N is released on a bridge module, which starts the timing of PCI Express link training. -/
  | perstNRelease
  /-- PCIE_LINK_TRAINING (R517): Within 20 ms of the later of PERST_N release and the end of stage 2, the endpoint begins link training. -/
  | pcieLinkTraining
  /-- FUNCTION_LEVEL_RESET (R402): A Function Level Reset or hot reset resets only the bridge function, and in-flight host-window transactions answer LINK_DOWN. -/
  | functionLevelReset (inFlight : List (Nat × Nat))
  /-- PCIE_LINK_LOSS (R402): Loss of the PCI Express link resets the bridge function and logs LINK_DOWN for port 0. -/
  | pcieLinkLoss (inFlight : List (Nat × Nat))
  /-- THERMAL_TRIP (R496): Tj reaches 115 °C or Td reaches 105 °C, so the keeper logs THERMAL, raises a fog signal, drives FAULT_N low and removes power. -/
  | thermalTrip (tj : Nat) (tjDie : Nat) (td : Nat) (tdDie : Nat)
  /-- POWER_WINDOW_END (R495): At the end of each 1 ms window the controller evaluates the step conditions and changes the clock step by at most one. -/
  | powerWindowEnd (mv : Nat) (ma : Nat) (power : Nat) (tj : Nat) (tjDie : Nat) (td : Nat) (tdDie : Nat) (tIn : Nat) (tOut : Nat) (blocks : List Nat)
  /-- INLET_OVER_TEMP (R494): An inlet reading above 45 °C logs THERMAL of class EVENT. -/
  | inletOverTemp (tIn : Nat)
  /-- DRAM_TEMP_CHANGE (R202): A stack crosses 85 °C, which sets or clears DRAM_STAT.HOT and halves or restores the refresh interval. -/
  | dramTempChange (die : Nat) (temp : Nat)
  /-- POWER_STATE_ENTRY (R498): After 1 ms with no wake cause the module enters the deepest permitted power state. -/
  | powerStateEntry
  /-- WAKE_COMPLETE (R500): The module reaches Active after retraining, firmware reload or zero fill as the state requires, and held transactions are served. -/
  | wakeComplete
  /-- STATUS (R511): The SMBus STATUS command returns SB_STAT bits [7:0]. -/
  | status (pecOk : Bool)
  /-- RESET_CAUSE (R511): The SMBus RESET_CAUSE command returns the reset cause. -/
  | resetCause (pecOk : Bool)
  /-- SERIAL (R511): The SMBus SERIAL block read returns the module serial. -/
  | serial (pecOk : Bool)
  /-- POWER (R511): The SMBus POWER block read returns voltage, current, power and temperature words while the keeper runs. -/
  | power (pecOk : Bool)
  /-- COOL (R511): The SMBus COOL block read returns PWR_COOL while the keeper runs. -/
  | cool (pecOk : Bool)
  /-- SET_CAP (R511): The SMBus SET_CAP write asks the keeper to write PWR_CAP with the requested cap. -/
  | setCap (w : Nat) (pecOk : Bool)
  /-- GET_CAP (R511): The SMBus GET_CAP read returns PWR_CAP.W. -/
  | getCap (pecOk : Bool)
  /-- SMB_ALERT_RESPONSE (R512): A read of the Alert Response Address releases SMB_ALERT_N and returns the target's address. -/
  | smbAlertResponse
  /-- SMB_CLOCK_LOW_TIMEOUT (R510): The 25 ms SMBus clock-low timeout expires. -/
  | smbClockLowTimeout
  /-- EXTEST (R518): The EXTEST instruction selects the boundary register while the port is unlocked. -/
  | extest (pins : List Bool) (tdi : List Bool)
  /-- IDCODE (R518): The IDCODE instruction selects the 32-bit identification register. -/
  | idcode (tdi : List Bool)
  /-- SAMPLE_PRELOAD (R518): The SAMPLE/PRELOAD instruction selects the boundary register while the port is unlocked. -/
  | samplePreload (pins : List Bool) (tdi : List Bool)
  /-- BYPASS (R518): The BYPASS instruction, or any code that acts as it, selects the 1-bit bypass register. -/
  | bypass (tdi : List Bool)
  /-- DKR_CHAL (R488): DKR_CHAL shifts out a fresh 32-byte challenge. -/
  | dkrChal (tdi : List Bool)
  /-- DKR_UNLOCK (R488): DKR_UNLOCK shifts in a token that opens the port if the state, serial, challenge and signature check. -/
  | dkrUnlock (token : List Byte) (withLoad : Bool)
  /-- TAP_RESET (R489): TRST_N or Test-Logic-Reset closes an open test port. -/
  | tapReset
  /-- PACKET_ARRIVE (R34): A package-network packet or fabric transaction reaches its destination endpoint and is served there. -/
  | packetArrive (src : Nat) (taddr : Nat) (write : Bool) (data : List Byte) (len : Nat) (way : Machine.PacketWay)
  /-- GROUP_WRITE_COMPLETE (R24): A write or send to a group completes when every leaf has acknowledged, carrying the first leaf error in depth-first order. -/
  | groupWriteComplete (group : Nat) (results : List (Nat × Nat))
  /-- REGISTER_WRITE (R12): A write to a register field without a row of its own takes effect according to its access type. -/
  | registerWrite (src : Nat) (unit : Nat) (off : Nat) (w : Machine.RegWrite)
  /-- RC_FIELD_READ (R14): A read of an RC counter returns its value and clears it, keeping events counted in the same cycle. -/
  | rcFieldRead (src : Nat) (unit : Nat) (off : Nat) (events : List (Nat × Nat))
  /-- LO_CAPTURE_READ (R30): A read of a LO register captures its 64-bit value for the matching HI register, or an 8-byte read returns both halves at once. -/
  | loCaptureRead (src : Nat) (unit : Nat) (off : Nat) (wide : Bool)
  /-- BUNDLE_ISSUE (R211): The sequencer issues one bundle and all its slots take effect in the same advancing cycle. -/
  | bundleIssue (die : Nat) (core : Nat) (frozen : Nat) (upsets : List (Nat × Nat))
  /-- CUBE_ACCUMULATE (R76): A cube issue's chunk becomes valid in its accumulator tile 18 advancing cycles after issue. -/
  | cubeAccumulate (die : Nat) (core : Nat)
  /-- MV_ACCUMULATE (R80): A matrix-vector issue's sums become valid in the unit's accumulator 9 advancing cycles after issue. -/
  | mvAccumulate (die : Nat) (core : Nat)
  /-- VU_RESULT_WRITE (R82): A vector-unit result lands in its register after the instruction's latency. -/
  | vuResultWrite (die : Nat) (core : Nat)
  /-- DRAIN_TILE_WRITE (R86): In cycle d + 11 the drain applies its epilogue, converts and writes the tile and any side operand into the banks. -/
  | drainTileWrite (die : Nat) (core : Nat)
  /-- DRAIN_GROUP_WRITE (R88): A completed or closed strip band is converted to MX blocks and written as a group on the free drain ports. -/
  | drainGroupWrite (die : Nat) (core : Nat)
  /-- TAG_RETURN (R228): A tag returns to its core and is recorded DONE, or ERR for an error response. -/
  | tagReturn (die : Nat) (core : Nat) (tag : Nat) (err : Nat) (period : Nat) (upsets : List (Nat × Nat))
  /-- WAIT_LIMIT_EXPIRY (R232): A limited wait is not satisfied by the end of its last MCLK period, so the core halts with TIMEOUT. -/
  | waitLimitExpiry (die : Nat) (core : Nat)
  /-- BARRIER_ARRIVAL (R235): A barrier arrival is received and counted, and the BAR tag returns once every leaf has arrived. -/
  | barrierArrival (die : Nat) (core : Nat) (group : Nat) (src : Nat) (gen : Nat)
  /-- SEQ_EVT (R234): A write of 1s to SEQ_EVT sets pending sequencer events. -/
  | seqEvt (die : Nat) (core : Nat) (bits : Nat) (period : Nat)
  /-- DESCRIPTOR_FETCH (R178): The DMA engine fetches a 1 KiB burst of descriptors when 16 places are free, halting the core on a fetch fault. -/
  | descriptorFetch (die : Nat) (core : Nat) (ring : Nat) (upsets : List (Nat × Nat))
  /-- DMA_TRANSFER_START (R177): An issued transfer starts once its descriptor has arrived. -/
  | dmaTransferStart (die : Nat) (core : Nat)
  /-- DMA_ACCESS_FAULT (R180): A transfer access faults, aborting the transfer, capturing the fault and returning the tag with an error. -/
  | dmaAccessFault (die : Nat) (core : Nat) (tag : Nat) (first : Nat) (remote : Nat) (upsets : List (Nat × Nat))
  /-- DMA_TRANSFER_COMPLETE (R162): Every write of a transfer is visible, so its tag returns and any requested doorbell bit is set. -/
  | dmaTransferComplete (die : Nat) (core : Nat) (tag : Nat) (upsets : List (Nat × Nat))
  /-- MULTICAST_COPY_COMPLETE (R175): A multicast copy completes at a leaf, returning the leaf's tag or halting the leaf if the tag was not FREE. -/
  | multicastCopyComplete (die : Nat) (core : Nat) (tag : Nat) (leaf : Nat) (upsets : List (Nat × Nat))
  /-- PACK_TILE_WRITE (R110): The packer writes one whole sparse tile, counting overfull groups and capacity drops or ending with PACK_OVERFULL. -/
  | packTileWrite (die : Nat) (core : Nat) (tag : Nat) (upsets : List (Nat × Nat))
  /-- EXPAND_TILE (R111): The packer expands a sparse tile into dense data at the local end. -/
  | expandTile (die : Nat) (core : Nat) (tag : Nat) (upsets : List (Nat × Nat))
  /-- GATHER (R124): A GATHER operation writes destination rows from indexed source rows in ascending position. -/
  | gather (die : Nat) (engine : Nat) (upsets : List (Nat × Nat))
  /-- SCATTER (R124): A SCATTER operation writes source rows to indexed destination rows in ascending position. -/
  | scatter (die : Nat) (engine : Nat) (upsets : List (Nat × Nat))
  /-- SCATTER_ADD (R125): A SCATTER_ADD operation adds contributions into indexed FP32 target rows in ascending position. -/
  | scatterAdd (die : Nat) (engine : Nat) (upsets : List (Nat × Nat))
  /-- SEGMENT_REDUCE (R126): A SEGMENT_REDUCE operation sums or maxes the rows of each segment into one destination row. -/
  | segmentReduce (die : Nat) (engine : Nat) (upsets : List (Nat × Nat))
  /-- SORT_BY_KEY (R128): A SORT_BY_KEY operation stably sorts keys and moves payload rows or source positions. -/
  | sortByKey (die : Nat) (engine : Nat) (upsets : List (Nat × Nat))
  /-- BUCKET (R129): A BUCKET operation routes entries into bucket and spill lists and writes slot numbers and counts. -/
  | bucket (die : Nat) (engine : Nat) (upsets : List (Nat × Nat))
  /-- PACK (R127): A PACK operation writes the rows of padded sequences into packed rows. -/
  | packRows (die : Nat) (engine : Nat) (upsets : List (Nat × Nat))
  /-- UNPACK (R127): An UNPACK operation writes every padded row from packed rows or as zero rows. -/
  | unpack (die : Nat) (engine : Nat) (upsets : List (Nat × Nat))
  /-- MASK_COMPACT (R130): A MASK_COMPACT operation writes the positions of set mask bits into lists and counts. -/
  | maskCompact (die : Nat) (engine : Nat) (upsets : List (Nat × Nat))
  /-- GME_OP_FAULT (R123): A gather-merge operation faults at its first offending position, logs the cause and returns its tag with an error. -/
  | gmeOpFault (die : Nat) (engine : Nat)
  /-- GME_OP_COMPLETE (R115): Every write of a gather-merge operation is visible, so its tag returns and the next queued operation may start. -/
  | gmeOpComplete (die : Nat) (engine : Nat)
  /-- ARBITRATED_ACCESS (R145): A pending arbitrated request is granted a bank not used by scheduled traffic and is performed. -/
  | arbitratedAccess (die : Nat) (core : Nat) (sched : Nat) (next : Nat) (upsets : List (Nat × Nat))
  /-- REQUEST_PROMOTION (R146): An arbitrated request pending for 256 CCLK is promoted above unpromoted requests at its bank. -/
  | requestPromotion (die : Nat) (core : Nat)
  /-- SCRATCHPAD_SCRUB (R157): A bank's scrubber rewrites a queued or visited word in a free bank cycle. -/
  | scratchpadScrub (die : Nat) (core : Nat) (bank : Nat) (sched : Bool) (upsets : List (Nat × Nat))
  /-- DRAM_READ (R199): The DRAM controller performs a read, correcting and rewriting a single-bit error. -/
  | dramRead (src : Nat) (die : Nat) (off : Nat) (len : Nat) (upsets : List (Nat × Nat))
  /-- DRAM_WRITE (R188): The DRAM controller performs a write, as a read and write for a sub-word write. -/
  | dramWrite (src : Nat) (die : Nat) (off : Nat) (data : List Byte) (upsets : List (Nat × Nat))
  /-- PATROL_SCRUB (R201): Every INTERVAL NCLK a channel's patrol scrubber reads and if needed corrects one 64-byte block. -/
  | patrolScrub (die : Nat) (channel : Nat) (upsets : List (Nat × Nat))
  /-- DRAM_REFRESH (R202): The controller refreshes a bank when its refresh interval expires. -/
  | dramRefresh (die : Nat) (delayed : Nat)
  /-- TRANSLATION_WALK (R194): A translation miss walks the four-level table and yields a target address or a fault. -/
  | translationWalk (die : Nat) (agent : Nat) (va : Nat) (need : Nat) (upsets : List (Nat × Nat))
  /-- TU_INVAL (R197): A keeper write of TU_INVAL.ALL sets INVAL_BUSY and begins discarding the translation cache. -/
  | tuInval (src : Nat) (die : Nat)
  /-- INVALIDATION_DONE (R197): After walks in flight finish, every cached entry is discarded and TU_STAT.INVAL_BUSY clears. -/
  | invalidationDone (die : Nat)
  /-- STACK_PUSH_START (R274): The stack unit starts a push when the previous stack issue is complete, halting on overflow or copying stamps and starting transfers. -/
  | stackPushStart (die : Nat) (core : Nat) (upsets : List (Nat × Nat))
  /-- FRAME_HEADER_WRITE (R274): Once the stamp block and every push transfer are complete, the frame header is written and the last tag returns. -/
  | frameHeaderWrite (die : Nat) (core : Nat)
  /-- STACK_POP_START (R275): The stack unit starts a pop, checking the header, comparing stamps and starting the transfers. -/
  | stackPopStart (die : Nat) (core : Nat) (upsets : List (Nat × Nat))
  /-- POP_COMPLETE (R275): Once every pop transfer is complete, TOP, LAST and DEPTH are updated and the last tag returns. -/
  | popComplete (die : Nat) (core : Nat)
  /-- UPDATE_RECORD_START (R293): An update record starts once the previous record is complete and its layer's sums are delivered. -/
  | updateRecordStart (die : Nat) (upsets : List (Nat × Nat))
  /-- UPDATE_RECORD_DONE (R293): An update record finishes writing its block in the idle buffer and its stamp last. -/
  | updateRecordDone (die : Nat) (upsets : List (Nat × Nat))
  /-- UPDATE_FAULT (R299): A fault on an update-engine access stops the engine, logs a HALT entry and raises a fog signal. -/
  | updateFault (die : Nat) (upsets : List (Nat × Nat))
  /-- VOTE_SEND (R301): Once its cores, records, reductions and ingest slots are done, a module sends its vote. -/
  | voteSend
  /-- VOTE_RECEIVE (R302): A child's vote arrives and is combined; when all children have voted the result goes to the parent or module 0 forms the decision. -/
  | voteReceive (child : Nat) (step : Nat) (flags : Nat) (count : Nat) (amax : List Nat)
  /-- DECISION_RECEIVE (R303): A module receives the decision and completes the step boundary of R286. -/
  | decisionReceive (step : Nat) (flags : Nat) (count : Nat) (amax : List Nat)
  /-- FIXER_COMMIT (R303): For a committed step the fixer, after any running drain completes, inverts ACTIVE and increments UPD_COUNT. -/
  | fixerCommit (mclk : Nat)
  /-- CHECKPOINT_DRAIN_COMPLETE (R307): The destination has acknowledged every drained byte, so FX_CKSTEP takes the snapshot's STEP and a CKPT_DONE notice is sent. -/
  | checkpointDrainComplete
  /-- DRAINED (R434): A DRAINED message arrives in the vote tree and is forwarded, and at module 0 the step is sent back down to set RCV_CKJOB. -/
  | drained (child : Nat) (step : Nat) (down : Bool)
  /-- RD_READY (R317): A ready word is written to the L0 reduction unit and counted for its layer and step. -/
  | rdReady (layer : Nat) (step : Nat)
  /-- LANE_SEGMENT_SEND (R322): A lane converts its staged values for a segment, adds them to any received sum and forwards or writes the result. -/
  | laneSegmentSend (layer : Nat) (seg : Nat) (upsets : List (Nat × Nat))
  /-- RSEG_RECEIVE (R322): A reduction segment arrives from the ring predecessor and is buffered until the own contribution is ready. -/
  | rsegReceive (layer : Nat) (seg : Nat) (step : Nat) (data : List Byte)
  /-- RWORD_RECEIVE (R323): A chunk's flag word arrives, is combined and forwarded, or checked at the owner. -/
  | rwordReceive (lane : Nat) (chunk : Nat) (data : List Byte)
  /-- CHECK_SAMPLE_READ (R326): The L4 unit reads and converts the staged values of the sampled elements. -/
  | checkSampleRead (layer : Nat) (upsets : List (Nat × Nat))
  /-- CHK_RECEIVE (R326): Sampled totals arrive on the check tree and are summed upward or delivered downward. -/
  | chkReceive (layer : Nat) (pos : Nat) (ord : Nat) (step : Nat) (data : List Byte)
  /-- CWORD_RECEIVE (R326): A check-path flag word arrives and is combined upward or stored in the layer-word store on the way down. -/
  | cwordReceive (pos : Nat) (data : List Byte)
  /-- REDUCTION_FAULT (R522): A fault on a reduction unit access stops the layer, logs a HALT entry and raises a fog signal. -/
  | reductionFault (layer : Nat) (upsets : List (Nat × Nat))
  /-- ETH_FRAME_RECEIVE (R333): An Ethernet frame arrives and is handed to RoCE, answered as ARP or Neighbor Discovery, or discarded. -/
  | ethFrameReceive (port : Nat) (frame : List Byte) (ok : Bool) (icrc : Bool)
  /-- SAMPLE_START (R346): The ingest die starts a sample in ascending draw order, drawing it and sending its READ requests. -/
  | sampleStart (slot : Nat) (upsets : List (Nat × Nat))
  /-- READ_RESPONSE_RECEIVE (R334): A RoCE READ response, ACK or NAK arrives for a queue pair and its bytes land in the window. -/
  | readResponseReceive (qp : Nat) (psn : Nat) (kind : Nat) (syndrome : Nat) (data : List Byte) (ce : Bool)
  /-- ROCE_ACK_TIMEOUT (R334): A READ request's ACK timeout expires and the request is retried or the read attempt fails. -/
  | roceAckTimeout (qp : Nat)
  /-- ROCE_WRITE_RECEIVE (R338): An RDMA WRITE into a window is stored, discarded, answered with RNR NAK or NAK by its position and key. -/
  | roceWriteReceive (qp : Nat) (psn : Nat) (slot : Nat) (keyOk : Bool) (p : Nat) (data : List Byte) (ce : Bool)
  /-- TS_PACKET (R339): The demultiplexer takes a transport-stream packet, filters it and reassembles or forwards its contents. -/
  | tsPacket (slot : Nat) (draw : Nat) (pid : Nat) (upsets : List (Nat × Nat))
  /-- ACCESS_UNIT_CONSUME (R372): A pipeline consumes an access-unit record, advances STR_AUCONS and frees window bytes after a LAST record. -/
  | accessUnitConsume (slot : Nat) (upsets : List (Nat × Nat))
  /-- DECODE_FRAME (R348): A decode pipeline decodes one frame bit-exactly from its access units. -/
  | decodeFrame (die : Nat) (pipe : Nat) (slot : Nat) (draw : Nat)
  /-- TENSORIZE_FRAME (R351): A tensorizer crops, converts colour, resizes, normalises and converts a kept frame into tubelet rows. -/
  | tensorizeFrame (die : Nat) (unit : Nat) (slot : Nat) (draw : Nat) (q : Nat) (upsets : List (Nat × Nat))
  /-- SLOT_WRITE_COMPLETE (R350): A batch slot is written with its header and status under ERRPOL. -/
  | slotWriteComplete (slot : Nat) (draw : Nat) (upsets : List (Nat × Nat))
  /-- STR_ARR_LO_READ (R371): A read of STR_ARR_LO removes the oldest arrival and captures its draw, position and length. -/
  | strArrLoRead (slot : Nat) (wide : Bool)
  /-- STR_AUPROD (R372): A write of STR_AUPROD publishes the access-unit records produced, or is ignored and logged if too far ahead. -/
  | strAuprod (slot : Nat) (count : Nat)
  /-- EXIT (R366): The EXIT monitor service stops the core until the next START_JOB. -/
  | exit (core : Nat)
  /-- DB_WAIT (R366): The DB_WAIT monitor service waits for delivered doorbell bits within a mask. -/
  | dbWait (core : Nat) (mask : Nat) (limit : Nat)
  /-- ARR_WAIT (R366): The ARR_WAIT monitor service waits for AC_SPEND bits within a mask. -/
  | arrWait (core : Nat) (mask : Nat) (limit : Nat)
  /-- MONITOR_WAIT_EXPIRY (R366): A monitor wait's limit in MCLK expires and the service returns 0. -/
  | monitorWaitExpiry (core : Nat) (near : Bool)
  /-- APP_EXCEPTION (R367): An exception the monitor does not serve stops the application core and logs the trap. -/
  | appException (core : Nat) (cause : Nat) (tval : Nat) (kind : Nat)
  /-- APP_FENCE (R362): A FENCE with predecessor w completes once earlier cache write-backs are visible. -/
  | appFence (core : Nat) (acts : List (Nat × Nat × List Byte))
  /-- FLIT_SEND (R379): In each flit slot a port sends a due LINK flit, a replay, a new sequenced flit with credit, or IDLE. -/
  | flitSend (port : Nat) (new : List Machine.Flit)
  /-- FLIT_RECEIVE (R380): A receiver accepts an in-sequence flit with good CRC, or discards it. -/
  | flitReceive (port : Nat) (data : List Byte) (fec : Bool) (corrected : Nat) (failed : Nat)
  /-- NAK_RECEIVE (R382): A received NAK makes the sender resend from EXPSEQ. -/
  | nakReceive (port : Nat) (expSeq : Nat)
  /-- CREDIT_RETURN (R378): A LINK flit's cumulative freed-flit counts restore credits per VC. -/
  | creditReturn (port : Nat) (cred : List Nat)
  /-- ACK_DUE (R381): After 64 accepted flits or 500 ns with an unacknowledged flit, the receiver sends an IDLE or LINK flit carrying the ACK. -/
  | ackDue (port : Nat)
  /-- REPLAY_TIMEOUT (R382): The oldest unacknowledged flit is not acknowledged within 2 × FAB_RTT + 1 µs, so the sender resends from it. -/
  | replayTimeout (port : Nat)
  /-- RETRAIN_COMPLETE (R383): A retrain completes and replay resumes from the exchanged ACKs. -/
  | retrainComplete (port : Nat) (ack : Nat) (rtt : Nat)
  /-- PORT_DOWN (R383): A retrain fails, lasts 100 ms or is the third within one second, so the port goes down. -/
  | portDown (port : Nat)
  /-- BEACON_SEND (R385): Every FAB_BCN.PERIOD µs an up port sends a beacon LINK flit. -/
  | beaconSend (port : Nat)
  /-- BEACON_RECEIVE (R385): A beacon arrives and updates the partner's liveness, keeper status and ids. -/
  | beaconReceive (port : Nat) (modId : Nat) (kok : Bool) (prov : Nat) (epoch : Nat) (tSend : Nat) (tLastRx : Nat) (tLastTx : Nat) (tsoff : Nat)
  /-- BEACON_SILENCE (R386): No beacon arrives for FAB_BCN.LIMIT periods, so the port sets SILENT, logs LINK_DOWN and goes down. -/
  | beaconSilence (port : Nat) (near : Bool)
  /-- FAB_KHB (R385): A keeper write of FAB_KHB.ALIVE keeps KOK at 1. -/
  | fabKhb (port : Nat)
  /-- KOK_EXPIRY (R385): Two milliseconds pass without a heartbeat write, so KOK falls to 0. -/
  | kokExpiry (port : Nat)
  /-- TSOFF_UPDATE (R387): Once per second a keeper sets TSOFF from the beacons of its parent port. -/
  | tsoffUpdate
  /-- ID_BLOCK_RECEIVE (R390): After training, a received ID block is recorded in FAB_NBR_SER and FAB_NBR_INFO. -/
  | idBlockReceive (port : Nat) (serial : Nat) (partnerPort : Nat) (bridge : Bool)
  /-- OFFER_RECEIVE (R391): A keeper receives a discovery OFFER and starts or continues collecting offers. -/
  | offerReceive (port : Nat) (num : Nat) (hops : Nat) (serial : Nat)
  /-- OFFER_COLLECT_END (R391): 500 µs after the first offer the keeper chooses its parent, sends CHILD and forwards OFFER. -/
  | offerCollectEnd
  /-- CHILD_RECEIVE (R391): A keeper records a CHILD message from a neighbour. -/
  | childReceive (port : Nat) (num : Nat)
  /-- REPORT_SEND (R391): Once 2 ms have passed and every child has reported, the keeper sends REPORT to its parent. -/
  | reportSend
  /-- REPORT_RECEIVE (R391): A REPORT arrives from a child, and at the root discovery proceeds to numbering. -/
  | reportReceive (port : Nat) (num : Nat) (recs : List Machine.TopoRec)
  /-- ASSIGN_RECEIVE (R391): An ASSIGN arrives, and the keeper takes its provisional id and installs its tree routes. -/
  | assignReceive (port : Nat) (num : Nat) (id : Nat)
  /-- HOST_BAR0_ACCESS (R400): A host access through BAR0 reaches the mailbox block, the bridge registers or the MSI-X table. -/
  | hostBar0Access (off : Nat) (write : Bool) (data : List Byte) (len : Nat)
  /-- HOST_BAR2_ACCESS (R400): A host access through a BAR2 window travels as transactions to the window's target address. -/
  | hostBar2Access (off : Nat) (write : Bool) (data : List Byte) (len : Nat)
  /-- HOST_WINDOW_ACCESS (R401): An access to the host window on L0 becomes a posted write or memory read of host memory through HB_ATT. -/
  | hostWindowAccess (off : Nat) (write : Bool) (data : List Byte) (len : Nat) (host : List Byte)
  /-- STQ_POST (R409): A 16-byte store to STQ_POST posts an entry to a send queue. -/
  | stqPost (src : Nat) (ep : Nat) (q : Nat) (data : List Byte)
  /-- STAGE_ENTRY_SEND (R410): When the partner ring has a free slot, the queue sends the next posted entry as STG flits. -/
  | stageEntrySend (ep : Nat) (queue : Nat) (held : Nat) (upsets : List (Nat × Nat))
  /-- STAGE_ENTRY_ARRIVE (R410): An entry is written into its ring slot and waiting loads for it complete. -/
  | stageEntryArrive (ep : Nat) (queue : Nat) (mb : Nat) (epoch : Nat) (data : List Byte) (upsets : List (Nat × Nat))
  /-- STAGE_POST_COMPLETE (R410): Every byte of a posted entry is in the ring, so the post's store completes and its tag returns. -/
  | stagePostComplete (ep : Nat) (queue : Nat)
  /-- STAGE_ENTRY_WAIT (R411): An 8-byte load waits for a receive-queue entry and returns its slot and micro-batch. -/
  | stageEntryWait (src : Nat) (ep : Nat) (queue : Nat) (index : Nat)
  /-- STQ_REL (R412): A store to STQ_REL releases entries and sends a RELEASE flit, or is ignored if the count is invalid. -/
  | stqRel (ep : Nat) (q : Nat) (count : Nat)
  /-- RELEASE_FLIT_RECEIVE (R413): A RELEASE flit tells the sender the cumulative count of freed ring slots. -/
  | releaseFlitReceive (ep : Nat) (queue : Nat) (count : Nat) (epoch : Nat)
  /-- FOG_RECEIVE (R432): A new fog signal is forwarded on every other port and the job is stopped. -/
  | fogReceive (port : Nat) (data : List Byte)
  /-- STEP_WATCHDOG_EXPIRY (R430): No decision arrives within STEP_MS after a release, so the keeper logs TIMEOUT of class HALT. -/
  | stepWatchdogExpiry (near : Bool)
  /-- SURVEY_REPLY_RECEIVE (R437): A surveyed module answers the coordinator with its state, checkpoint step and fault set. -/
  | surveyReplyReceive (module : Nat) (ckjob : Nat) (faults : List (Nat × Nat × Nat × Nat))
  /-- SURVEY_REPLY_TIMEOUT (R437): A module fails to answer within REPLY_MS and joins the fault set as MODULE. -/
  | surveyReplyTimeout (module : Nat) (prov : Bool)
  /-- RELIEF_CABLED (R437): The relief is seen cabled into the member's place, and the attempt proceeds to reload. -/
  | reliefCabled (member : Nat)
  /-- CABLE_WAIT_EXPIRY (R437): The cabling wait of CABLE_S seconds expires and the attempt ends with CABLE_TIMEOUT. -/
  | cableWaitExpiry (near : Bool)
  /-- MBX_BUF_WRITE (R445): A write to a mailbox buffer locks an EMPTY channel to its sender, or is refused. -/
  | mbxBufWrite (src : Nat) (chan : Nat) (off : Nat) (data : List Byte)
  /-- MBX_SEND (R445): A commit write makes a LOCKED channel FULL and sets its doorbell bit, or is refused. -/
  | mbxSend (src : Nat) (chan : Nat) (len : Nat)
  /-- MBX_BUF_READ (R448): The receiver reads a FULL channel's buffer; any other read is answered PROT_FAULT. -/
  | mbxBufRead (src : Nat) (chan : Nat) (off : Nat) (len : Nat)
  /-- MBX_DONE (R448): The receiver releases a message, emptying the channel and answering the commit with WRACK. -/
  | mbxDone (src : Nat) (chan : Nat)
  /-- MBX_LOCK_BREAK (R447): A LOCKED channel without a write for 475,000 MCLK is cleared and returns to EMPTY. -/
  | mbxLockBreak (chan : Nat)
  /-- MBX_KRST (R459): A write of 0x4B52 from the bridge host resets the keeper. -/
  | mbxKrst (src : Nat) (key : Nat)
  /-- DB_SET (R450): A write of 1s to DB_SET sets doorbell bits. -/
  | dbSet (bits : Nat)
  /-- DB_CLR (R452): A write of 1s to DB_CLR clears the doorbell bits the writer may change. -/
  | dbClr (src : Nat) (bits : Nat)
  /-- DB_MASK_WRITE (R452): A write to DB_MASK changes the mask bits the writer may change. -/
  | dbMaskWrite (src : Nat) (bits : Nat)
  /-- MINIL_REPLY_RECEIVE (R457): A reply received in channels 0–7 goes to the awaiting keeper activity or is discarded. -/
  | minilReplyReceive (image : List Byte) (ck : List Byte)
  /-- REPLY_RESEND (R456): Every 100 µs a reply refused with BUSY is resent, until it is dropped after 1 s. -/
  | replyResend (n : Nat) (code : Nat)
  /-- QUERY_DEVICE (R462): QUERY_DEVICE returns serial, versions, ids, job and recovery state, reset cause and image hash. -/
  | queryDevice
  /-- SET_WAKE_TOLERANCE (R498): SET_WAKE_TOLERANCE sets the tolerable wake latency and returns the deepest permitted power state. -/
  | setWakeTolerance
  /-- LOAD_JOB (R464): LOAD_JOB takes the job id, reads, hashes and checks the image, and loads it or rejects it. -/
  | loadJob (fin : Bool) (image : List Byte)
  /-- LOAD_CABLING_TIMEOUT (R464): A partner does not show the expected job id and port within 1 s, so the load is rejected with COUNT. -/
  | loadCablingTimeout (image : List Byte) (ck : List Byte)
  /-- START_JOB (R465): START_JOB starts the application cores, the sequencers, the queue pairs and the ingest streams. -/
  | startJob
  /-- STOP_JOB (R466): STOP_JOB stops cores, engines, reductions, queues and streams, and with END = 1 ends the job and scrubs. -/
  | stopJob (fin : Bool)
  /-- CHECKPOINT_REQUEST (R468): CHECKPOINT_REQUEST sets CKPT in the next vote, or holds it while a drain runs. -/
  | checkpointRequest
  /-- RESTORE (R467): RESTORE checks a checkpoint and brings back the state of Table 12-5, leaving LOADED. -/
  | restore (fin : Bool) (ck : List Byte)
  /-- HOST_RING_CONS_POLL (R469): A host-ring writer lacking room rereads CONS at most once every 2 µs. -/
  | hostRingConsPoll (cons : Nat)
  /-- READ_LOG (R463): READ_LOG writes log entries from the ring or sticky store into the result buffer. -/
  | readLog
  /-- CLEAR_LOG (R424): CLEAR_LOG empties the log ring and/or the sticky store. -/
  | clearLog
  /-- READ_TELEMETRY (R310): READ_TELEMETRY writes a contact sheet or the power record into the result buffer. -/
  | readTelemetry
  /-- FW_STAGE (R481): FW_STAGE copies a firmware image or enrolment record into the reserved region and verifies it. -/
  | fwStage (fin : Bool) (image : List Byte)
  /-- FW_COMMIT (R481): FW_COMMIT reverifies the staged image, writes it to flash and reads it back. -/
  | fwCommit (fin : Bool) (ue : Bool) (bad : Nat)
  /-- ATTEST (R486): ATTEST writes a signed attestation report with the nonce and certificate to the result buffer. -/
  | attest (fin : Bool)
  /-- FABRIC_DISCOVER (R471): FABRIC_DISCOVER makes the keeper the root, runs discovery and writes the topology. -/
  | fabricDiscover
  /-- FABRIC_ROUTE_SET (R472): FABRIC_ROUTE_SET installs the job id, route table, group table and epoch, or rejects them whole. -/
  | fabricRouteSet (fin : Bool) (set : List Byte)
  /-- RELIEF_TAKEOVER (R437): RELIEF_TAKEOVER makes the keeper coordinator of an attempt to survey, assign reliefs, reload, route, restore and resume. -/
  | reliefTakeover (image : List Byte) (ck : List Byte)
  /-- INJECT_LINK_FAULT (R397): INJECT_LINK_FAULT writes FAB_INJ_CFG and FAB_INJ_SEED of a Hormen port. -/
  | injectLinkFault
  /-- RESET_UNIT (R473): RESET_UNIT retrains a port, returns a core to idle, or resets the keeper. -/
  | resetUnit (fin : Bool)
  /-- PERST_N_ASSERT (R513): PERST_N is asserted on a bridge module, which resets only the bridge function as R402 gives. -/
  | perstNAssert (inFlight : List (Nat × Nat))
  /-- CONFIGURATION_REQUEST (R517): A host PCI Express Configuration Request reaches the endpoint and is answered with Request Retry Status until stage 4 completes, or is served. -/
  | configurationRequest (write : Bool) (reg : Nat) (data : Nat)
  /-- PCIE_LINK_UP (R399): PCI Express link training completes and HB_STAT.LINKUP, SPEED, WIDTH and FLIT take the negotiated values. -/
  | pcieLinkUp (speed : Nat) (width : Nat) (flit : Bool)
  /-- ETH_LINK_CHANGE (R332): An Ethernet port's link or FEC alignment comes up or goes down, changing ETH_STAT.LINK and FECLOCK. -/
  | ethLinkChange (port : Nat) (link : Bool) (fec : Bool) (pmd : Nat)
  /-- CHECKPOINT_DRAIN_FAULT (R307): A fault stops a checkpoint drain, leaving FX_CKSTEP unchanged and sending a CKPT_ABORTED notice. -/
  | checkpointDrainFault (code : Nat)
  deriving DecidableEq, Repr

end Sys2Proof
end

