-- ==== Sys2Proof/Config.lean ====
section
/-!
DEFINITION. What the specification leaves open, as constants with no body: nothing can be proved of their values, so a
statement that holds of the model holds for every value of them.
-/
namespace Sys2Proof.Config

/-- The free values: the n-th value that the specification leaves unspecified (assumption 1). -/
opaque freeNat : Nat → Nat

/-- The free bytes: the n-th byte that the specification leaves unspecified (assumption 1). -/
opaque freeByte : Nat → Byte

/-- The random 16 bits of stochastic rounding in a vector unit, which names no tensor and no index (02_number_formats R60,
assumption 18): from the job seed, the step, the core's unit address, its SEQ_CYC and the element's place, so that runs that
share what R4 lists draw the same bits. -/
opaque vuRandom : Nat → Nat → Nat → Nat → Nat → Nat

/-- Whether an MVL vector load, given its 32-bit read slot, takes FP32 data rather than BF16 data: no field of the slot
says it (assumption 5). -/
opaque mvlVectorIsF32 : Nat → Bool

/-- The samples of a step that a module's cores left out under OVERSHAPE = DROP (10_tiling_job_images R260): no command or
register tells the module of one, so nothing constrains the number beyond what the step is fixed by: the image, the seed, the
step and what the module's memory holds (assumption 88). -/
opaque droppedSamples : List Byte → Nat → Nat → List (Nat × Byte) → Nat

/-- What the reserved optimizer 3 would make of an element's gradient, weight and moments (12_update_and_fixer R289, Table
12-1; assumption 64). -/
opaque reservedOpt : Nat → Nat → Nat → Nat → Nat × Nat × Nat

/-- The MAC address of an Ethernet port, assigned at manufacture (14_video_ingest_developer R333). -/
opaque portMac : Nat → Nat

/-- What a codec's standard says of one displayed frame of a stream of access units: whether the frame is there, whether
its decoding reports an error, the frames it refers to, its access unit, coded size, bit depth, matrix_coefficients, the
full-range flag (0 where the bitstream has none, 1 limited, 2 full), and whether it is monochrome. -/
structure FrameInfo where
  found : Bool
  err : Bool
  refs : List Nat
  unit : Nat
  w : Nat
  h : Nat
  depth : Nat
  matrix : Nat
  range : Nat
  mono : Bool
  deriving DecidableEq, Repr, Inhabited

/-- The decoding process of the codecs' standards (14_video_ingest_developer R348, assumption 9): codec, film grain and
field choice, access units in order, and the displayed frame's number. -/
opaque frameInfo : Nat → Nat → List (List Byte) → Nat → FrameInfo

/-- A decoded sample of a displayed frame: as `frameInfo`, then the plane (0 luma, 1 Cb, 2 Cr), x and y. -/
opaque frameSample : Nat → Nat → List (List Byte) → Nat → Nat → Nat → Nat → Nat

/-- The two copies of each fuse field (20_darkroom_security R476, Table 20-1). A hash is the little-endian number of its
bytes. -/
structure Fuses where
  serial0 : Nat
  serial1 : Nat
  root0 : Nat
  root1 : Nat
  wrap0 : Nat
  wrap1 : Nat
  owner0 : Nat
  owner1 : Nat
  set0 : Bool
  set1 : Bool
  svn0 : Nat
  svn1 : Nat
  deriving DecidableEq, Repr, Inhabited

/-- The fuses as the module leaves manufacture. -/
opaque fuses : Fuses

/-- The flash's image region as the module leaves manufacture; a byte beyond the list is erased. -/
opaque firmware : List Byte

/-- The version of the boot ROM. -/
opaque romVer : Nat

/-- Whether a copy of WRAP authenticates the identity block under AES-256-GCM (20_darkroom_security R476, R484). -/
opaque identityOpens : Nat → Bool

/-- The n-th signature of the identity key over a digest, r then s (20_darkroom_security R475, R486). -/
opaque identitySign : Nat → List Byte → List Byte

/-- The certificate of the identity block (20_darkroom_security R484). -/
opaque certificate : List Byte

/-- What a doubleword of the endpoint's configuration space reads as, given the last value written to it
(16_hormen_fabric R399): the standard's registers beside those that Table 16-7 gives. -/
opaque pciConfig : Nat → Nat → Nat

/-- Lystad's PCI-SIG Vendor ID (16_hormen_fabric Table 16-7). -/
opaque pciVendor : Nat

/-- What an object of a section whose layout the specification does not give says (assumption 45): a page of the job's
address space (MAP: virtual address, size, target address, R W MC X as in Table 8-3), a ring of a core (RING: its number
and base), the address of a section's gather-merge descriptors (GMEDESC), a group (GROUP), a multicast set (MCSET), a
barrier's group (BARRIER), a wait limit (WLIM: class, count and shift), or initial bytes of a region (DATA). -/
inductive LoadItem where
  | page (va size target perms : Nat)
  | ring (n base : Nat)
  | place (va : Nat)
  | group (num : Nat) (members : List Nat)
  | mcset (n group : Nat)
  | barrier (n group : Nat)
  | wlim (cls count shift : Nat)
  | data (region off : Nat) (bytes : List Byte)
  deriving DecidableEq, Repr, Inhabited

/-- The objects of such a section, from its type, its COUNT and its bytes (10_tiling_job_images Table 10-5, assumption
45). -/
opaque sectionItems : Nat → Nat → List Byte → List LoadItem

/-- What the loader's proofs find beyond the model's own (10_tiling_job_images Table 10-9, assumption 46), such as the order
in which several cores' operations can be in flight: for a row of the table, a module and the image, the object that fails,
if any does. -/
opaque loaderFinds : Nat → Nat → List Byte → Option Nat

end Sys2Proof.Config
end

