-- ==== Sys2Proof/Machine/Bits.lean ====
section
/-!
DEFINITION. Bit fields, sign extension and byte order: the helpers through which every multi-byte structure of the
specification is read and written (little-endian, 00_scope R10).
-/
namespace Sys2Proof.Machine

/-- Bits `hi` down to `lo` of a number. -/
def bitsOf (v hi lo : Nat) : Nat := (v / 2 ^ lo) % 2 ^ (hi + 1 - lo)

/-- Bit `i` of a number. -/
def bitAt (v i : Nat) : Bool := (v / 2 ^ i) % 2 == 1

/-- A truth value as a bit. -/
def b2n (b : Bool) : Nat := if b then 1 else 0

/-- The two's-complement value of the low `w` bits (`w > 0`). -/
def sext (w v : Nat) : Int :=
  let u := v % 2 ^ w
  if u < 2 ^ (w - 1) then (u : Int) else (u : Int) - (2 ^ w : Nat)

/-- The low `w` bits of an integer in two's complement. -/
def wrapInt (w : Nat) (i : Int) : Nat := (i % ((2 ^ w : Nat) : Int)).toNat

/-- A count that stops at a largest value. -/
def satAdd (a b top : Nat) : Nat := Nat.min (a + b) top

/-- The smallest multiple of `k` at or above `a` (`k > 0`). -/
def roundUp (a k : Nat) : Nat := (a + k - 1) / k * k

/-- Division rounded up (`k > 0`). -/
def ceilDiv (a k : Nat) : Nat := (a + k - 1) / k

/-- The number a little-endian byte string holds (R10). -/
def leNat : List Byte → Nat
  | [] => 0
  | b :: r => b.toNat + 256 * leNat r

/-- `n` bytes of a number, little-endian (R10). -/
def leBytes : Nat → Nat → List Byte
  | 0, _ => []
  | n + 1, v => BitVec.ofNat 8 v :: leBytes n (v / 256)

/-- The number a big-endian byte string holds (the coordinates and signatures of 20_darkroom_security R475). -/
def beNat (l : List Byte) : Nat := l.foldl (fun a b => 256 * a + b.toNat) 0

/-- The bytes of a string from `off`, `n` of them, zero where the string has ended. -/
def slice (l : List Byte) (off n : Nat) : List Byte :=
  (List.range n).map (fun i => l.getD (off + i) 0)

/-- A little-endian field of `n` bytes at byte `off` of a structure. -/
def leAt (l : List Byte) (off n : Nat) : Nat := leNat (slice l off n)

/-- The number of 1 bits among the low `n`. -/
def popCount : Nat → Nat → Nat
  | 0, _ => 0
  | n + 1, v => v % 2 + popCount n (v / 2)

/-- The positions of the 1 bits among the low `n`, rising. -/
def setBits (n v : Nat) : List Nat := (List.range n).filter (fun i => bitAt v i)

/-- A number with bits of `mask` cleared (both below `2 ^ 64`). -/
def clearBits (v mask : Nat) : Nat := v ^^^ (v &&& mask)

/-- The floor of the base-2 logarithm; 0 for 0. -/
def ilog2 (v : Nat) : Nat := Nat.log2 v

/-- The integer square root of a number below `4 ^ f`, bit by bit. -/
def isqrtFuel : Nat → Nat → Nat → Nat
  | 0, _, r => r
  | f + 1, v, r =>
    let c := r + 2 ^ f
    if c * c ≤ v then isqrtFuel f v c else isqrtFuel f v r

/-- The integer square root. -/
def isqrt (v : Nat) : Nat := isqrtFuel (ilog2 v / 2 + 1) v 0

/-- An element put into an ordered list, after those that it equals. -/
def insertBy {α : Type} (le : α → α → Bool) (x : α) : List α → List α
  | [] => [x]
  | y :: r => if le y x then y :: insertBy le x r else x :: y :: r

/-- A list in ascending order, equal elements in the order given. -/
def sortBy {α : Type} (le : α → α → Bool) (l : List α) : List α := l.foldl (fun r x => insertBy le x r) []

/-- The 32-bit mask value 0xFFFF_FFFF, at which the 32-bit counters stop. -/
def max32 : Nat := 0xFFFFFFFF

end Sys2Proof.Machine
end

