-- ==== Sys2Proof/Machine/Float.lean ====
section
/-!
DEFINITION. Number formats, conversion and rounding (02_number_formats R38 to R61), the FP32 and FP64 arithmetic of the
units (03_cube_array R83, 12_update_and_fixer R295, R298), and the correctly rounded primitives of R83.
Every value is held exactly, as a sign, a whole mantissa and a power of two, until one rounding writes it.
-/
namespace Sys2Proof.Machine

/-- An exact value: not a number, a signed infinity, or `(-1)^neg * m * 2^e` (a signed zero where `m = 0`). -/
inductive Num where
  | nan
  | inf (neg : Bool)
  | fin (neg : Bool) (m : Nat) (e : Int)
  deriving DecidableEq, Repr

/-- The positive zero. -/
def Num.zero : Num := .fin false 0 0

/-- The shape of a floating-point format: mantissa bits, bias, and the exponent field and mantissa of its largest
finite value (Tables 2-1 and 2-2). -/
structure FloatShape where
  mb : Nat
  bias : Nat
  topExp : Nat
  topMan : Nat
  deriving DecidableEq, Repr

def shapeF32 : FloatShape := ⟨23, 127, 254, 0x7FFFFF⟩
def shapeBF16 : FloatShape := ⟨7, 127, 254, 0x7F⟩
def shapeF16 : FloatShape := ⟨10, 15, 30, 0x3FF⟩
def shapeE4M3 : FloatShape := ⟨3, 7, 15, 6⟩
def shapeE5M2 : FloatShape := ⟨2, 15, 30, 3⟩
def shapeE3M2 : FloatShape := ⟨2, 3, 7, 3⟩
def shapeE2M3 : FloatShape := ⟨3, 1, 3, 7⟩
def shapeE2M1 : FloatShape := ⟨1, 1, 3, 1⟩
def shapeF64 : FloatShape := ⟨52, 1023, 2046, 0xFFFFFFFFFFFFF⟩

/-- The element formats by code (Table 2-1). -/
inductive Fmt where
  | fp32 | bf16 | fp16 | int8 | e4m3 | e5m2 | int32
  | mx8e4m3 | mx8e5m2 | mx6e3m2 | mx6e2m3 | mx4e2m1
  deriving DecidableEq, Repr

/-- The format a 5-bit code names; none for a code absent from Table 2-1. -/
def fmtOfCode (c : Nat) : Option Fmt :=
  match c with
  | 0x00 => some .fp32
  | 0x01 => some .bf16
  | 0x02 => some .fp16
  | 0x03 => some .int8
  | 0x04 => some .e4m3
  | 0x05 => some .e5m2
  | 0x06 => some .int32
  | 0x08 => some .mx8e4m3
  | 0x09 => some .mx8e5m2
  | 0x0A => some .mx6e3m2
  | 0x0B => some .mx6e2m3
  | 0x0C => some .mx4e2m1
  | _ => none

/-- The bits of one element (Table 2-1). -/
def Fmt.bits : Fmt → Nat
  | .fp32 | .int32 => 32
  | .bf16 | .fp16 => 16
  | .int8 | .e4m3 | .e5m2 | .mx8e4m3 | .mx8e5m2 => 8
  | .mx6e3m2 | .mx6e2m3 => 6
  | .mx4e2m1 => 4

/-- Whether elements of the format lie in scaled strips. -/
def Fmt.isMX : Fmt → Bool
  | .mx8e4m3 | .mx8e5m2 | .mx6e3m2 | .mx6e2m3 | .mx4e2m1 => true
  | _ => false

/-- The bytes of one element of an unscaled format. -/
def Fmt.bytes (f : Fmt) : Nat := f.bits / 8

/-- The bytes of one 32-element block of a strip (Table 2-5). -/
def Fmt.blockBytes (f : Fmt) : Nat := f.bits * 4

/-- The bytes of one strip (Table 2-5). -/
def Fmt.stripBytes (f : Fmt) : Nat := 8 + 8 * f.blockBytes

/-- The floating-point shape of a format's elements; none for the integers. -/
def Fmt.shape : Fmt → Option FloatShape
  | .fp32 => some shapeF32
  | .bf16 => some shapeBF16
  | .fp16 => some shapeF16
  | .e4m3 | .mx8e4m3 => some shapeE4M3
  | .e5m2 | .mx8e5m2 => some shapeE5M2
  | .mx6e3m2 => some shapeE3M2
  | .mx6e2m3 => some shapeE2M3
  | .mx4e2m1 => some shapeE2M1
  | .int8 | .int32 => none

/-- The fields of a floating-point code read as a value, all exponents taken as ordinary. -/
def decodePlain (sh : FloatShape) (width v : Nat) : Num :=
  let neg := bitAt v (width - 1)
  let man := v % 2 ^ sh.mb
  let ex := bitsOf v (width - 2) sh.mb
  if ex = 0 then .fin neg man (1 - (sh.bias : Int) - sh.mb)
  else .fin neg (man + 2 ^ sh.mb) ((ex : Int) - sh.bias - sh.mb)

/-- One element decoded exactly (R39). -/
def decodeElem (f : Fmt) (v : Nat) : Num :=
  match f with
  | .int8 => let i := sext 8 v; .fin (decide (i < 0)) i.natAbs 0
  | .int32 => let i := sext 32 v; .fin (decide (i < 0)) i.natAbs 0
  | .fp32 =>
    if bitsOf v 30 23 = 255 then (if v % 2 ^ 23 = 0 then .inf (bitAt v 31) else .nan) else decodePlain shapeF32 32 v
  | .bf16 =>
    if bitsOf v 14 7 = 255 then (if v % 2 ^ 7 = 0 then .inf (bitAt v 15) else .nan) else decodePlain shapeBF16 16 v
  | .fp16 =>
    if bitsOf v 14 10 = 31 then (if v % 2 ^ 10 = 0 then .inf (bitAt v 15) else .nan) else decodePlain shapeF16 16 v
  | .e4m3 | .mx8e4m3 => if v % 128 = 127 then .nan else decodePlain shapeE4M3 8 v
  | .e5m2 | .mx8e5m2 =>
    if bitsOf v 6 2 = 31 then (if v % 4 = 0 then .inf (bitAt v 7) else .nan) else decodePlain shapeE5M2 8 v
  | .mx6e3m2 => decodePlain shapeE3M2 6 v
  | .mx6e2m3 => decodePlain shapeE2M3 6 v
  | .mx4e2m1 => decodePlain shapeE2M1 4 v

/-- A value times a power of two. -/
def Num.scale (x : Num) (k : Int) : Num :=
  match x with
  | .fin s m e => .fin s m (e + k)
  | y => y

/-- An element of an MX block with its scale byte (R43): a scale byte of 0xFF makes it a NaN. -/
def decodeMX (f : Fmt) (scaleByte v : Nat) : Num :=
  if scaleByte = 255 then .nan else (decodeElem f v).scale ((scaleByte : Int) - 127)

/-- How a discarded fraction is rounded: to nearest even (R50) or by a 16-bit random value (R61). -/
inductive Rounding where
  | rne
  | sr (r : Nat)
  deriving DecidableEq, Repr

/-- `m * 2^e` rounded to a whole multiple of `2^q`; the answer is the multiple. -/
def roundQuantum (rd : Rounding) (m : Nat) (e q : Int) : Nat :=
  if q ≤ e then m * 2 ^ (e - q).toNat
  else
    let sh := (q - e).toNat
    let lo := m / 2 ^ sh
    let rem := m % 2 ^ sh
    match rd with
    | .rne =>
      if 2 * rem > 2 ^ sh then lo + 1
      else if 2 * rem = 2 ^ sh then lo + lo % 2
      else lo
    | .sr r =>
      let f := if sh ≤ 16 then rem * 2 ^ (16 - sh) else rem / 2 ^ (sh - 16)
      if f + r ≥ 0x10000 then lo + 1 else lo

/-- A positive `m * 2^e` rounded into a shape as if the exponent range had no upper limit (R51): the rounded multiple
and its quantum's exponent. -/
def roundShape (sh : FloatShape) (rd : Rounding) (m : Nat) (e : Int) : Nat × Int :=
  let top : Int := (ilog2 m : Int) + e
  let lowest : Int := 1 - (sh.bias : Int)
  let q : Int := (if top < lowest then lowest else top) - sh.mb
  (roundQuantum rd m e q, q)

/-- Whether a rounded `n * 2^q` lies beyond the largest finite value of a shape. -/
def beyondShape (sh : FloatShape) (n : Nat) (q : Int) : Bool :=
  let topQ : Int := (sh.topExp : Int) - sh.bias - sh.mb
  let topN := sh.topMan + 2 ^ sh.mb
  if q ≥ topQ then decide (n * 2 ^ (q - topQ).toNat > topN) else decide (n > topN * 2 ^ (topQ - q).toNat)

/-- The bits of a rounded value that lies within the shape, without its sign. -/
def packShape (sh : FloatShape) (n : Nat) (q : Int) : Nat :=
  if n < 2 ^ sh.mb then n
  else
    let n' := if n = 2 ^ (sh.mb + 1) then 2 ^ sh.mb else n
    let q' := if n = 2 ^ (sh.mb + 1) then q + 1 else q
    (q' + sh.mb + sh.bias).toNat * 2 ^ sh.mb + (n' - 2 ^ sh.mb)

/-- The bits of a shape's largest finite magnitude. -/
def topBits (sh : FloatShape) : Nat := sh.topExp * 2 ^ sh.mb + sh.topMan

/-- The events a conversion reports (R51, R52): CLAMP, NONFINITE and quiet saturation. -/
structure Events where
  clamp : Nat
  nonfin : Nat
  qsat : Nat
  deriving DecidableEq, Repr

def Events.none : Events := ⟨0, 0, 0⟩
def Events.add (a b : Events) : Events := ⟨a.clamp + b.clamp, a.nonfin + b.nonfin, a.qsat + b.qsat⟩

/-- The positive canonical NaN of an unscaled format (R40); zero for the integers (R52). -/
def nanBits : Fmt → Nat
  | .fp32 => 0x7FC00000
  | .bf16 => 0x7FC0
  | .fp16 => 0x7E00
  | .e4m3 | .mx8e4m3 => 0x7F
  | .e5m2 | .mx8e5m2 => 0x7E
  | _ => 0

/-- A signed infinity of an unscaled format (R52); a NaN in E4M3, zero in the integers. -/
def infBits (f : Fmt) (neg : Bool) : Nat :=
  match f with
  | .fp32 => 0x7F800000 + 0x80000000 * b2n neg
  | .bf16 => 0x7F80 + 0x8000 * b2n neg
  | .fp16 => 0x7C00 + 0x8000 * b2n neg
  | .e5m2 => 0x7C + 0x80 * b2n neg
  | .e4m3 => 0x7F
  | _ => 0

/-- The overflow outcomes of non-MX destinations (Table 2-7). -/
inductive Ovf where
  | clamp | saturate | nonsat
  deriving DecidableEq, Repr

/-- The overflow choice of a conversion byte for a non-MX destination; the reserved value acts as none here, for no
unit ever converts with it (R49). -/
def ovfOf (n : Nat) : Ovf := match n with | 1 => .saturate | 2 => .nonsat | _ => .clamp

/-- One element converted into an unscaled format with one rounding (R48, R50, R51, R52, R61). -/
def encodeElem (f : Fmt) (ovf : Ovf) (rd : Rounding) (x : Num) : Nat × Events :=
  match x with
  | .nan => (nanBits f, ⟨0, 1, 0⟩)
  | .inf neg => (infBits f neg, ⟨0, 1, 0⟩)
  | .fin neg m e =>
    match f.shape with
    | none =>
      let n := roundQuantum rd m e 0
      let top := 2 ^ (f.bits - 1)
      let ovr := if neg then decide (n > top) else decide (n ≥ top)
      if ovr then
        let v := if neg then top else top - 1
        match ovf with
        | .saturate => (v, ⟨0, 0, 1⟩)
        | _ => (v, ⟨1, 0, 0⟩)
      else (wrapInt f.bits (if neg then -(n : Int) else n), Events.none)
    | some sh =>
      let sbit := b2n neg * 2 ^ (f.bits - 1)
      if m = 0 then (sbit, Events.none)
      else
        let (n, q) := roundShape sh rd m e
        if beyondShape sh n q then
          match ovf with
          | .clamp => (topBits sh + sbit, ⟨1, 0, 0⟩)
          | .saturate => (topBits sh + sbit, ⟨0, 0, 1⟩)
          | .nonsat => (infBits f neg, ⟨0, 1, 0⟩)
        else (packShape sh n q + sbit, Events.none)

/-- A value as FP32 bits, rounded to nearest even, overflow to a signed infinity (R48, R57, R83). -/
def toF32 (x : Num) : Nat := (encodeElem .fp32 .nonsat .rne x).1

/-- FP32 bits as a value. -/
def ofF32 (v : Nat) : Num := decodeElem .fp32 v

/-- A magnitude that FP32 rounds to infinity (R53): `2^128 * (1 - 2^-25)` or more. -/
def roundsToInf (m : Nat) (e : Int) : Bool :=
  match encodeElem .fp32 .nonsat .rne (.fin false m e) with
  | (b, _) => b = 0x7F800000

/-- A scaled source as R53 takes it: a magnitude that rounds to infinity in FP32 counts as an infinity. -/
def mxSource (x : Num) : Num :=
  match x with
  | .fin s m e => if m ≠ 0 && roundsToInf m e then .inf s else .fin s m e
  | y => y

/-- A decoded MX source outside the FP32 range is rounded once to FP32 (R48); every other value stands. -/
def clipF32 (x : Num) : Num :=
  match x with
  | .fin s m e =>
    if m = 0 then x
    else
      let top : Int := (ilog2 m : Int) + e
      if top ≥ 128 || e < -149 then ofF32 (toF32 (.fin s m e)) else x
  | y => y

/-- The exact comparison of two non-negative dyadic magnitudes: `m1 * 2^e1 ≤ m2 * 2^e2`. -/
def magLe (m1 : Nat) (e1 : Int) (m2 : Nat) (e2 : Int) : Bool :=
  if e1 ≤ e2 then decide (m1 ≤ m2 * 2 ^ (e2 - e1).toNat) else decide (m1 * 2 ^ (e1 - e2).toNat ≤ m2)

/-- The larger magnitude of two, as mantissa and exponent. -/
def magMax (a b : Nat × Int) : Nat × Int := if magLe a.1 a.2 b.1 b.2 then b else a

/-- Whether a value is neither infinite nor a NaN. -/
def Num.isFin : Num → Bool
  | .fin _ _ _ => true
  | _ => false

/-- The magnitude of a finite value; zero otherwise. -/
def Num.mag : Num → Nat × Int
  | .fin _ m e => (m, e)
  | _ => (0, 0)

/-- One block of 32 scaled values converted to an MX format (R52, R53, R54): the scale byte, the element codes and the
events. `fit` selects MX_FIT. -/
def encodeBlock (f : Fmt) (fit : Bool) (rds : List Rounding) (xs : List Num) : Nat × List Nat × Events :=
  let ys := xs.map mxSource
  let bad := (ys.filter (fun y => !y.isFin)).length
  if bad > 0 then (255, xs.map (fun _ => 0), ⟨0, bad, 0⟩)
  else
    match f.shape with
    | none => (127, xs.map (fun _ => 0), Events.none)
    | some sh =>
      let amax := ys.foldl (fun a y => magMax a y.mag) (0, 0)
      let emax : Int := (sh.topExp : Int) - sh.bias
      let e0 : Int := if amax.1 = 0 then 0 else (ilog2 amax.1 : Int) + amax.2 - emax
      let e1 : Int :=
        if amax.1 ≠ 0 && fit then
          let (n, q) := roundShape sh .rne amax.1 (amax.2 - e0)
          if beyondShape sh n q then e0 + 1 else e0
        else e0
      let ee : Int := if e1 < -127 then -127 else e1
      let code (y : Num) (rd : Rounding) : Nat := (encodeElem f .saturate rd (y.scale (-ee))).1
      ((ee + 127).toNat, (ys.zip rds).map (fun p => code p.1 p.2), Events.none)

/-! ### Stochastic rounding's random bits (R60) -/

def mask64 : Nat := 2 ^ 64

/-- Rotation left of 64 bits. -/
def rotl64 (v n : Nat) : Nat := (v * 2 ^ n) % mask64 ||| (v % mask64) / 2 ^ (64 - n)

/-- One round of `sr_word`. -/
def srRound (ck : Nat × Nat) : Nat × Nat :=
  let c1 := ((ck.1 ^^^ ck.2) * 0x9E3779B97F4A7C15) % mask64
  let c2 := c1 ^^^ (c1 / 2 ^ 29)
  (c2, (rotl64 ck.2 23 + 0xD6E8FEB86659FD93) % mask64)

/-- The function `sr_word` of R60. -/
def srWord (seed step tensor index : Nat) : Nat :=
  let k := (seed % mask64) ^^^ (2 ^ 32 * (tensor % 2 ^ 32) + step % 2 ^ 32)
  let c := (index % mask64, k)
  (srRound (srRound (srRound (srRound c)))).1 / 2 ^ 32

/-- The 16-bit random value of an element (R60). -/
def srRandom (seed step tensor index : Nat) : Nat := srWord seed step tensor index / 2 ^ 16

/-! ### Exact arithmetic on values -/

/-- The negation. -/
def Num.neg : Num → Num
  | .nan => .nan
  | .inf s => .inf (!s)
  | .fin s m e => .fin (!s) m e

/-- A finite value as a whole multiple of `2^q`, for a `q` at or below its exponent. -/
def atExp (s : Bool) (m : Nat) (e q : Int) : Int :=
  let v : Int := (m * 2 ^ (e - q).toNat : Nat)
  if s then -v else v

/-- The exact sum; an exact sum of zero is +0 unless both terms are -0 (IEEE 754 under round to nearest even). -/
def Num.add (x y : Num) : Num :=
  match x, y with
  | .nan, _ => .nan
  | _, .nan => .nan
  | .inf a, .inf b => if a = b then .inf a else .nan
  | .inf a, _ => .inf a
  | _, .inf b => .inf b
  | .fin s1 m1 e1, .fin s2 m2 e2 =>
    let q := if e1 ≤ e2 then e1 else e2
    let t := atExp s1 m1 e1 q + atExp s2 m2 e2 q
    if t = 0 then .fin (s1 && s2 && (m1 = 0 && m2 = 0)) 0 q
    else .fin (decide (t < 0)) t.natAbs q

/-- The exact product; infinity times zero is a NaN. -/
def Num.mul (x y : Num) : Num :=
  match x, y with
  | .nan, _ => .nan
  | _, .nan => .nan
  | .inf a, .inf b => .inf (a != b)
  | .inf a, .fin b m _ => if m = 0 then .nan else .inf (a != b)
  | .fin a m _, .inf b => if m = 0 then .nan else .inf (a != b)
  | .fin s1 m1 e1, .fin s2 m2 e2 => .fin (s1 != s2) (m1 * m2) (e1 + e2)

/-- The quotient to 128 significant bits with a sticky bit below them, which every later rounding to 53 bits or fewer
reads as the exact quotient. -/
def Num.div (x y : Num) : Num :=
  match x, y with
  | .nan, _ => .nan
  | _, .nan => .nan
  | .inf _, .inf _ => .nan
  | .inf a, .fin b _ _ => .inf (a != b)
  | .fin a _ _, .inf b => .fin (a != b) 0 0
  | .fin s1 m1 e1, .fin s2 m2 e2 =>
    if m2 = 0 then (if m1 = 0 then .nan else .inf (s1 != s2))
    else if m1 = 0 then .fin (s1 != s2) 0 0
    else
      let k := 128 + ilog2 m2
      let n := m1 * 2 ^ k
      let qt := n / m2
      let st := if n % m2 = 0 then 0 else 1
      .fin (s1 != s2) (2 * qt + st) (e1 - e2 - k - 1)

/-- The square root to more than 128 significant bits with a sticky bit. -/
def Num.sqrt (x : Num) : Num :=
  match x with
  | .nan => .nan
  | .inf s => if s then .nan else .inf false
  | .fin s m e =>
    if m = 0 then .fin s 0 0
    else if s then .nan
    else
      let e' : Int := e - (e % 2)
      let m' := m * 2 ^ (e % 2).toNat * 4 ^ 128
      let r := isqrt m'
      let st := if r * r = m' then 0 else 1
      .fin false (2 * r + st) (e' / 2 - 128 - 1)

/-- Whether a value is a NaN. -/
def Num.isNan : Num → Bool
  | .nan => true
  | _ => false

/-- The order of two values that are not NaN: `x < y`. -/
def Num.lt (x y : Num) : Bool :=
  match x, y with
  | .nan, _ => false
  | _, .nan => false
  | .inf a, .inf b => a && !b
  | .inf a, _ => a
  | _, .inf b => !b
  | .fin s1 m1 e1, .fin s2 m2 e2 =>
    let q := if e1 ≤ e2 then e1 else e2
    decide (atExp s1 m1 e1 q < atExp s2 m2 e2 q)

/-- Equality of values, zeros of both signs equal. -/
def Num.eqv (x y : Num) : Bool := !x.isNan && !y.isNan && !x.lt y && !y.lt x

/-! ### FP32 operations on bits, each rounded once to nearest even (R83) -/

def fadd (a b : Nat) : Nat := toF32 ((ofF32 a).add (ofF32 b))
def fsub (a b : Nat) : Nat := toF32 ((ofF32 a).add (ofF32 b).neg)
def fmul (a b : Nat) : Nat := toF32 ((ofF32 a).mul (ofF32 b))
def fdiv (a b : Nat) : Nat := toF32 ((ofF32 a).div (ofF32 b))
def fsqrt (a : Nat) : Nat := toF32 (ofF32 a).sqrt
def ffma (a b c : Nat) : Nat := toF32 (((ofF32 a).mul (ofF32 b)).add (ofF32 c))
def fneg (a : Nat) : Nat := if (ofF32 a).isNan then 0x7FC00000 else toF32 (ofF32 a).neg
def fabs (a : Nat) : Nat := if (ofF32 a).isNan then 0x7FC00000 else a % 2 ^ 31

/-- FP32 1.0. -/
def fone : Nat := 0x3F800000

/-- The FP32 value nearest a rational `n / d`. -/
def frat (neg : Bool) (n d : Nat) : Nat := toF32 ((Num.fin neg n 0).div (.fin false d 0))

/-- Whether FP32 bits are finite. -/
def ffinite (a : Nat) : Bool := (ofF32 a).isFin

/-! ### FP64, for the norm accumulators (12_update_and_fixer R298) -/

/-- A value as FP64 bits. -/
def toF64 (x : Num) : Nat :=
  match x with
  | .nan => 0x7FF8000000000000
  | .inf s => 0x7FF0000000000000 + 2 ^ 63 * b2n s
  | .fin s m e =>
    if m = 0 then 2 ^ 63 * b2n s
    else
      let (n, q) := roundShape shapeF64 .rne m e
      if beyondShape shapeF64 n q then 0x7FF0000000000000 + 2 ^ 63 * b2n s
      else packShape shapeF64 n q + 2 ^ 63 * b2n s

/-- FP64 bits as a value. -/
def ofF64 (v : Nat) : Num :=
  if bitsOf v 62 52 = 2047 then (if v % 2 ^ 52 = 0 then .inf (bitAt v 63) else .nan)
  else decodePlain shapeF64 64 v

def dadd (a b : Nat) : Nat := toF64 ((ofF64 a).add (ofF64 b))

/-! ### The correctly rounded primitives (R83)

Each is computed in fixed point with 400 fraction bits and closed with a sticky bit; the mathematical results are never
within that error of a rounding boundary of FP32 except where they are exact, and the exact cases are taken first. -/

/-- The fraction bits of the fixed-point work. -/
def fixP : Nat := 400

/-- A non-negative finite magnitude in fixed point, truncated. -/
def toFix (m : Nat) (e : Int) : Nat :=
  let k := e + fixP
  if 0 ≤ k then m * 2 ^ k.toNat else m / 2 ^ (-k).toNat

/-- A fixed-point magnitude as a value, marked inexact. -/
def ofFix (neg : Bool) (v : Nat) : Num := .fin neg (2 * v + 1) (-(fixP : Int) - 1)

/-- Partial sums of the exponential series: `n` terms from index `i`, the current term at hand. -/
def expSeries : Nat → Nat → Nat → Nat → Nat → Nat
  | 0, _, _, _, acc => acc
  | n + 1, i, x, term, acc => expSeries n (i + 1) x (term * x / 2 ^ fixP / (i + 1)) (acc + term)

/-- `v` squared `k` times in fixed point. -/
def fixSquares : Nat → Nat → Nat
  | 0, v => v
  | k + 1, v => fixSquares k (v * v / 2 ^ fixP)

/-- `exp` of a fixed-point number between 0 and 256. -/
def fixExp (x : Nat) : Nat := fixSquares 16 (expSeries 60 0 (x / 2 ^ 16) (2 ^ fixP) 0)

/-- Partial sums of `z + z^3/3 + z^5/5 + …`. -/
def atanhSeries : Nat → Nat → Nat → Nat → Nat → Nat
  | 0, _, _, _, acc => acc
  | n + 1, k, z2, pw, acc => atanhSeries n (k + 1) z2 (pw * z2 / 2 ^ fixP) (acc + pw / (2 * k + 1))

/-- The natural logarithm of a fixed-point number between 1 and 2. -/
def fixLog1 (v : Nat) : Nat :=
  let z := (v - 2 ^ fixP) * 2 ^ fixP / (v + 2 ^ fixP)
  2 * atanhSeries 140 0 (z * z / 2 ^ fixP) z 0

/-- The natural logarithm of 2. -/
def fixLn2 : Nat := fixLog1 (2 ^ (fixP + 1))

/-- Partial sums of `z - z^3/3 + z^5/5 - …`, for the arc tangent of a reciprocal. -/
def atanSeries : Nat → Nat → Nat → Int → Int → Int
  | 0, _, _, _, acc => acc
  | n + 1, k, d2, pw, acc => atanSeries n (k + 1) d2 (-(pw / (d2 : Int))) (acc + pw / ((2 * k + 1 : Nat) : Int))

/-- Pi, by Machin's formula. -/
def fixPi : Nat :=
  let a5 := atanSeries 100 0 25 (((2 ^ fixP) / 5 : Nat) : Int) 0
  let a239 := atanSeries 40 0 57121 (((2 ^ fixP) / 239 : Nat) : Int) 0
  (16 * a5 - 4 * a239).toNat

/-- Partial sums of `Σ 2^n x^(2n+1) / (2n+1)!!`. -/
def erfSeries : Nat → Nat → Nat → Nat → Nat → Nat
  | 0, _, _, _, acc => acc
  | n + 1, k, x2, term, acc => erfSeries n (k + 1) x2 (2 * (term * x2 / 2 ^ fixP) / (2 * k + 3)) (acc + term)

/-- `erf` of a fixed-point number between 0 and 4. -/
def fixErf (x : Nat) : Nat :=
  let x2 := x * x / 2 ^ fixP
  let s := erfSeries 240 0 x2 x 0
  let e := 2 ^ (2 * fixP) / fixExp x2
  let rootPi := isqrt (fixPi * 2 ^ fixP)
  2 * (s * e / 2 ^ fixP) * 2 ^ fixP / rootPi

/-- EXP (R83). -/
def fexp (a : Nat) : Nat :=
  match ofF32 a with
  | .nan => 0x7FC00000
  | .inf s => if s then 0 else 0x7F800000
  | .fin s m e =>
    if m = 0 then fone
    else if magLe (104 * 8 + 8) (-3) m e then (if s then 0 else 0x7F800000)
    else
      let v := fixExp (toFix m e)
      if s then toF32 (ofFix false (2 ^ (2 * fixP) / v)) else toF32 (ofFix false v)

/-- LOG (R83). -/
def flog (a : Nat) : Nat :=
  match ofF32 a with
  | .nan => 0x7FC00000
  | .inf s => if s then 0x7FC00000 else 0x7F800000
  | .fin s m e =>
    if m = 0 then 0xFF800000
    else if s then 0x7FC00000
    else
      let k := ilog2 m
      let ex : Int := e + k
      let frac := fixLog1 (m * 2 ^ (fixP - k))
      let t : Int := ex * (fixLn2 : Int) + frac
      if t = 0 then 0
      else if t < 0 then toF32 (ofFix true (t.natAbs - 1)) else toF32 (ofFix false t.natAbs)

/-- TANH (R83). -/
def ftanh (a : Nat) : Nat :=
  match ofF32 a with
  | .nan => 0x7FC00000
  | .inf s => if s then 0xBF800000 else fone
  | .fin s m e =>
    if m = 0 then a
    else if magLe 16 0 m e then (if s then 0xBF800000 else fone)
    else
      let v := fixExp (toFix m (e + 1))
      toF32 (ofFix s ((v - 2 ^ fixP) * 2 ^ fixP / (v + 2 ^ fixP)))

/-- ERF (R83). -/
def ferf (a : Nat) : Nat :=
  match ofF32 a with
  | .nan => 0x7FC00000
  | .inf s => if s then 0xBF800000 else fone
  | .fin s m e =>
    if m = 0 then a
    else if magLe 4 0 m e then (if s then 0xBF800000 else fone)
    else toF32 (ofFix s (fixErf (toFix m e)))

/-- RCP and RSQRT (R83). -/
def frcp (a : Nat) : Nat := fdiv fone a
def frsqrt (a : Nat) : Nat :=
  match ofF32 a with
  | .fin s m e => if m = 0 then (if s then 0xFF800000 else 0x7F800000) else toF32 ((Num.fin false 1 0).div (Num.fin s m e).sqrt)
  | x => toF32 ((Num.fin false 1 0).div x.sqrt)

/-- SIGMOID, as the formula of Table 3-8. -/
def fsigmoid (a : Nat) : Nat :=
  if (ofF32 a).isNan then 0x7FC00000 else fdiv fone (fadd fone (fexp (fneg a)))

/-! ### Drain functions (03_cube_array R87, Table 3-8) -/

def kGelu1 : Nat := frat false 7978846 10000000
def kGelu2 : Nat := frat false 44715 1000000
def kGelu3 : Nat := frat false 134145 1000000
def kErf1 : Nat := frat false 70710678 100000000
def kErf2 : Nat := frat false 39894228 100000000
def fhalf : Nat := 0x3F000000

/-- `u` of GELU_TANH. -/
def geluU (x : Nat) : Nat := fmul kGelu1 (fadd x (fmul (fmul (fmul kGelu2 x) x) x))

/-- f(x) of Table 3-8. -/
def drainF (fn x : Nat) : Nat :=
  if (ofF32 x).isNan then 0x7FC00000
  else match fn with
  | 1 => if (Num.zero).lt (ofF32 x) then x else 0
  | 2 => fmul (fmul fhalf x) (fadd fone (ftanh (geluU x)))
  | 3 => fmul (fmul fhalf x) (fadd fone (ferf (fmul x kErf1)))
  | 4 => fmul x (fsigmoid x)
  | 5 => ftanh x
  | 6 => fsigmoid x
  | _ => x

/-- f'(z) of Table 3-8. -/
def drainD (fn z : Nat) : Nat :=
  if (ofF32 z).isNan then 0x7FC00000
  else match fn with
  | 1 => if (Num.zero).lt (ofF32 z) then fone else 0
  | 2 =>
    let t := ftanh (geluU z)
    let left := fmul fhalf (fadd fone t)
    let r1 := fmul (fmul fhalf z) (fsub fone (fmul t t))
    let r2 := fmul (fmul r1 kGelu1) (fadd fone (fmul (fmul kGelu3 z) z))
    fadd left r2
  | 3 =>
    let left := fmul fhalf (fadd fone (ferf (fmul z kErf1)))
    fadd left (fmul (fmul z kErf2) (fexp (fmul (fmul (fneg fhalf) z) z)))
  | 4 => let s := fsigmoid z; fmul s (fadd fone (fmul z (fsub fone s)))
  | 5 => let t := ftanh z; fsub fone (fmul t t)
  | 6 => let s := fsigmoid z; fmul s (fsub fone s)
  | _ => fone

/-! ### Chunks of the cubes (R56, R57, R58, R59) -/

/-- The exact value of a chunk of products under R57: a NaN product or infinities of both signs give a NaN, infinities
of one sign that infinity, and an exact sum of zero +0. -/
def chunkSum (ps : List Num) : Num :=
  let t := ps.foldl Num.add Num.zero
  match t with
  | .fin _ m e => if m = 0 then .fin false 0 0 else t
  | y => y

/-- A chunk added to an FP32 accumulator with one rounding (R56). -/
def addChunk (acc : Nat) (ps : List Num) : Nat := toF32 ((ofF32 acc).add (chunkSum ps))

/-- Products added one at a time in the order given, each addition rounded (R58). -/
def addSeq (acc : Nat) (ps : List Num) : Nat := ps.foldl (fun a p => toF32 ((ofF32 a).add p)) acc

/-- An integer clamped to two's complement of `w` bits, and whether it was clamped. -/
def satInt (w : Nat) (i : Int) : Int × Bool :=
  let top : Int := ((2 ^ (w - 1) : Nat) : Int)
  if i < -top then (-top, true) else if i > top - 1 then (top - 1, true) else (i, false)

/-- The larger of two FP32 magnitudes in the comparison of 11_backward_pass R284: bits [30:0] as unsigned integers. -/
def amaxBits (a b : Nat) : Nat := if a % 2 ^ 31 < b % 2 ^ 31 then b else a

end Sys2Proof.Machine
end

