-- ==== Sys2Proof/Machine/Regs.lean ====
section
/-!
DEFINITION. The register maps of the specification as data: for every field of every register table its offset, bits,
access type and reset value, under the name the table gives it. A register that captures a pair (R30) carries the high
register's place. Register arrays are functions of their index. Each constant names its table; the text of the tables
is not repeated.
-/
namespace Sys2Proof.Machine

/-- The access types of Table 0-5 (00_scope R12). -/
inductive Acc where
  | ro | rw | w1c | w1s | wo | rc
  deriving DecidableEq, Repr

/-- One field of a register. `cap` is the number of bits that the high register of a capturing pair holds (R30): such a
field stores the whole live value of the pair, and its high register, at the next offset, stores what the last read of
the low register captured. -/
structure Field where
  off : Nat
  hi : Nat
  lo : Nat
  acc : Acc
  reset : Nat
  cap : Option Nat := none
  deriving DecidableEq, Repr

/-- The number of bits a field stores. -/
def Field.width (f : Field) : Nat :=
  match f.cap with
  | none => f.hi + 1 - f.lo
  | some n => 32 + n

/-- The field moved by a number of bytes (a register array's next element). -/
def Field.at (f : Field) (d : Nat) : Field := { f with off := f.off + d }

/-- A run of registers that repeats: `count` copies, `stride` bytes apart, from `base`; the fields are those of copy 0. -/
structure RegGroup where
  base : Nat
  stride : Nat
  count : Nat
  fields : List Field
  deriving DecidableEq, Repr

namespace Reg

/-! Sequencer (compute die, per core, endpoint 0). -/

/-- SEQ_STAT.RUN (Table 9-10). -/
def SEQ_STAT_RUN : Field := { off := 0x0, hi := 0, lo := 0, acc := .ro, reset := 0 }

/-- SEQ_STAT.FROZEN (Table 9-10). -/
def SEQ_STAT_FROZEN : Field := { off := 0x0, hi := 1, lo := 1, acc := .ro, reset := 0 }

/-- SEQ_STAT.HALTED (Table 9-10). -/
def SEQ_STAT_HALTED : Field := { off := 0x0, hi := 2, lo := 2, acc := .ro, reset := 0 }

/-- SEQ_STAT.LOOPDEPTH (Table 9-10). -/
def SEQ_STAT_LOOPDEPTH : Field := { off := 0x0, hi := 5, lo := 3, acc := .ro, reset := 0 }

/-- SEQ_PC.PC (Table 9-10). -/
def SEQ_PC_PC : Field := { off := 0x4, hi := 12, lo := 0, acc := .ro, reset := 0 }

/-- SEQ_CYC_LO.VALUE (Table 9-10). -/
def SEQ_CYC_LO_VALUE : Field := { off := 0x8, hi := 31, lo := 0, acc := .ro, reset := 0, cap := some 32 }

/-- SEQ_CYC_HI.VALUE (Table 9-10). -/
def SEQ_CYC_HI_VALUE : Field := { off := 0xc, hi := 31, lo := 0, acc := .ro, reset := 0 }

/-- SEQ_FROZEN.COUNT (Table 9-10). -/
def SEQ_FROZEN_COUNT : Field := { off := 0x10, hi := 31, lo := 0, acc := .rc, reset := 0 }

/-- SEQ_HALT.CAUSE (Table 9-10). -/
def SEQ_HALT_CAUSE : Field := { off := 0x14, hi := 4, lo := 0, acc := .ro, reset := 0 }

/-- SEQ_HALT.VIA_TAG (Table 9-10). -/
def SEQ_HALT_VIA_TAG : Field := { off := 0x14, hi := 5, lo := 5, acc := .ro, reset := 0 }

/-- SEQ_HALT.TAG (Table 9-10). -/
def SEQ_HALT_TAG : Field := { off := 0x14, hi := 13, lo := 6, acc := .ro, reset := 0 }

/-- SEQ_WAIT.KIND (Table 9-10). -/
def SEQ_WAIT_KIND : Field := { off := 0x18, hi := 1, lo := 0, acc := .ro, reset := 0 }

/-- SEQ_WAIT.ID (Table 9-10). -/
def SEQ_WAIT_ID : Field := { off := 0x18, hi := 9, lo := 2, acc := .ro, reset := 0 }

/-- SEQ_WAIT.CLASS (Table 9-10). -/
def SEQ_WAIT_CLASS : Field := { off := 0x18, hi := 11, lo := 10, acc := .ro, reset := 0 }

/-- SEQ_WAIT.CAUSE (Table 9-10). -/
def SEQ_WAIT_CAUSE : Field := { off := 0x18, hi := 15, lo := 12, acc := .ro, reset := 0 }

/-- SEQ_NEARMISS.COUNT (Table 9-10). -/
def SEQ_NEARMISS_COUNT : Field := { off := 0x1c, hi := 31, lo := 0, acc := .rc, reset := 0 }

/-- SEQ_EVT.PEND (Table 9-10). -/
def SEQ_EVT_PEND : Field := { off := 0x20, hi := 7, lo := 0, acc := .w1s, reset := 0 }

/-- SEQ_WLIMn.COUNT (Table 9-10). -/
def SEQ_WLIM_COUNT (n : Nat) : Field := { off := 0x30 + 0x4 * n, hi := 23, lo := 0, acc := .rw, reset := 0 }

/-- SEQ_WLIMn.SHIFT (Table 9-10). -/
def SEQ_WLIM_SHIFT (n : Nat) : Field := { off := 0x30 + 0x4 * n, hi := 27, lo := 24, acc := .rw, reset := 0 }

/-- Sequencer (compute die, per core, endpoint 0). -/
def seqMap : List RegGroup :=
  [
    { base := 0x0, stride := 0x10000000, count := 1, fields := [SEQ_STAT_RUN, SEQ_STAT_FROZEN, SEQ_STAT_HALTED, SEQ_STAT_LOOPDEPTH, SEQ_PC_PC, SEQ_CYC_LO_VALUE, SEQ_CYC_HI_VALUE, SEQ_FROZEN_COUNT, SEQ_HALT_CAUSE, SEQ_HALT_VIA_TAG, SEQ_HALT_TAG, SEQ_WAIT_KIND, SEQ_WAIT_ID, SEQ_WAIT_CLASS, SEQ_WAIT_CAUSE, SEQ_NEARMISS_COUNT, SEQ_EVT_PEND] },
    { base := 0x30, stride := 0x4, count := 4, fields := [SEQ_WLIM_COUNT 0, SEQ_WLIM_SHIFT 0] } ]

/-! Scratchpad (per core, endpoint 1). -/

/-- SP_STAT.CONFLICT (Table 6-4). -/
def SP_STAT_CONFLICT : Field := { off := 0x800000, hi := 0, lo := 0, acc := .w1c, reset := 0 }

/-- SP_STAT.UE (Table 6-4). -/
def SP_STAT_UE : Field := { off := 0x800000, hi := 1, lo := 1, acc := .w1c, reset := 0 }

/-- SP_STAT.CE (Table 6-4). -/
def SP_STAT_CE : Field := { off := 0x800000, hi := 2, lo := 2, acc := .w1c, reset := 0 }

/-- SP_STAT.SCRUB_PASSES (Table 6-4). -/
def SP_STAT_SCRUB_PASSES : Field := { off := 0x800000, hi := 31, lo := 16, acc := .rc, reset := 0 }

/-- SP_CFL_BANKS.MASK (Table 6-4). -/
def SP_CFL_BANKS_MASK : Field := { off := 0x800008, hi := 31, lo := 0, acc := .ro, reset := 0 }

/-- SP_CFL_PORTS.MASK (Table 6-4). -/
def SP_CFL_PORTS_MASK : Field := { off := 0x80000c, hi := 6, lo := 0, acc := .ro, reset := 0 }

/-- SP_CFL_CYC_LO.VALUE (Table 6-4). -/
def SP_CFL_CYC_LO_VALUE : Field := { off := 0x800010, hi := 31, lo := 0, acc := .ro, reset := 0, cap := some 32 }

/-- SP_CFL_CYC_HI.VALUE (Table 6-4). -/
def SP_CFL_CYC_HI_VALUE : Field := { off := 0x800014, hi := 31, lo := 0, acc := .ro, reset := 0 }

/-- SP_ECC_CE.COUNT (Table 6-4). -/
def SP_ECC_CE_COUNT : Field := { off := 0x800018, hi := 31, lo := 0, acc := .rc, reset := 0 }

/-- SP_ECC_CAP.OFFSET (Table 6-4). -/
def SP_ECC_CAP_OFFSET : Field := { off := 0x80001c, hi := 22, lo := 0, acc := .ro, reset := 0 }

/-- SP_ECC_CAP.UE (Table 6-4). -/
def SP_ECC_CAP_UE : Field := { off := 0x80001c, hi := 23, lo := 23, acc := .ro, reset := 0 }

/-- SP_ECC_CAP.SRC (Table 6-4). -/
def SP_ECC_CAP_SRC : Field := { off := 0x80001c, hi := 26, lo := 24, acc := .ro, reset := 0 }

/-- SP_STALL_DMA.COUNT (Table 6-4). -/
def SP_STALL_DMA_COUNT : Field := { off := 0x800020, hi := 31, lo := 0, acc := .rc, reset := 0 }

/-- SP_STALL_GME.COUNT (Table 6-4). -/
def SP_STALL_GME_COUNT : Field := { off := 0x800024, hi := 31, lo := 0, acc := .rc, reset := 0 }

/-- SP_STALL_NARROW.COUNT (Table 6-4). -/
def SP_STALL_NARROW_COUNT : Field := { off := 0x800028, hi := 31, lo := 0, acc := .rc, reset := 0 }

/-- SP_PROMOTE.COUNT (Table 6-4). -/
def SP_PROMOTE_COUNT : Field := { off := 0x80002c, hi := 31, lo := 0, acc := .rc, reset := 0 }

/-- Scratchpad (per core, endpoint 1). -/
def spMap : List RegGroup :=
  [
    { base := 0x800000, stride := 0x10000000, count := 1, fields := [SP_STAT_CONFLICT, SP_STAT_UE, SP_STAT_CE, SP_STAT_SCRUB_PASSES, SP_CFL_BANKS_MASK, SP_CFL_PORTS_MASK, SP_CFL_CYC_LO_VALUE, SP_CFL_CYC_HI_VALUE, SP_ECC_CE_COUNT, SP_ECC_CAP_OFFSET, SP_ECC_CAP_UE, SP_ECC_CAP_SRC, SP_STALL_DMA_COUNT, SP_STALL_GME_COUNT, SP_STALL_NARROW_COUNT, SP_PROMOTE_COUNT] } ]

/-! DMA engine and packer (per core, endpoint 2). -/

/-- DMA_STAT.BUSY (Table 7-5). -/
def DMA_STAT_BUSY : Field := { off := 0x0, hi := 0, lo := 0, acc := .ro, reset := 0 }

/-- DMA_STAT.FAULTED (Table 7-5). -/
def DMA_STAT_FAULTED : Field := { off := 0x0, hi := 1, lo := 1, acc := .w1c, reset := 0 }

/-- DMA_STAT.TAGS_OUT (Table 7-5). -/
def DMA_STAT_TAGS_OUT : Field := { off := 0x0, hi := 16, lo := 8, acc := .ro, reset := 0 }

/-- DMA_FADDR_LO.ADDR (Table 7-5). -/
def DMA_FADDR_LO_ADDR : Field := { off := 0x8, hi := 31, lo := 0, acc := .ro, reset := 0, cap := some 32 }

/-- DMA_FADDR_HI.ADDR (Table 7-5). -/
def DMA_FADDR_HI_ADDR : Field := { off := 0xc, hi := 31, lo := 0, acc := .ro, reset := 0 }

/-- DMA_FINFO.CAUSE (Table 7-5). -/
def DMA_FINFO_CAUSE : Field := { off := 0x10, hi := 3, lo := 0, acc := .ro, reset := 0 }

/-- DMA_FINFO.TAG (Table 7-5). -/
def DMA_FINFO_TAG : Field := { off := 0x10, hi := 11, lo := 4, acc := .ro, reset := 0 }

/-- DMA_FINFO.RING (Table 7-5). -/
def DMA_FINFO_RING : Field := { off := 0x10, hi := 14, lo := 12, acc := .ro, reset := 0 }

/-- DMA_FINFO.DIR (Table 7-5). -/
def DMA_FINFO_DIR : Field := { off := 0x10, hi := 15, lo := 15, acc := .ro, reset := 0 }

/-- DMA_FINFO.MCAST (Table 7-5). -/
def DMA_FINFO_MCAST : Field := { off := 0x10, hi := 16, lo := 16, acc := .ro, reset := 0 }

/-- DMA_FINFO.FETCH (Table 7-5). -/
def DMA_FINFO_FETCH : Field := { off := 0x10, hi := 17, lo := 17, acc := .ro, reset := 0 }

/-- DMA_FINFO.LOCAL (Table 7-5). -/
def DMA_FINFO_LOCAL : Field := { off := 0x10, hi := 18, lo := 18, acc := .ro, reset := 0 }

/-- DMA_CLAMP.COUNT (Table 7-5). -/
def DMA_CLAMP_COUNT : Field := { off := 0x14, hi := 31, lo := 0, acc := .rc, reset := 0 }

/-- DMA_NONFIN.COUNT (Table 7-5). -/
def DMA_NONFIN_COUNT : Field := { off := 0x18, hi := 31, lo := 0, acc := .rc, reset := 0 }

/-- DMA_QSAT.COUNT (Table 7-5). -/
def DMA_QSAT_COUNT : Field := { off := 0x1c, hi := 31, lo := 0, acc := .rc, reset := 0 }

/-- DMA_SLOW.COUNT (Table 7-5). -/
def DMA_SLOW_COUNT : Field := { off := 0x20, hi := 31, lo := 0, acc := .rc, reset := 0 }

/-- DMA_XFERS.COUNT (Table 7-5). -/
def DMA_XFERS_COUNT : Field := { off := 0x24, hi := 31, lo := 0, acc := .rc, reset := 0 }

/-- RING_BASE_LO.ADDR (Table 7-5). -/
def RING_BASE_LO_ADDR (n : Nat) : Field := { off := 0x40 + 0x10 * n, hi := 31, lo := 0, acc := .rw, reset := 0 }

/-- RING_BASE_HI.ADDR (Table 7-5). -/
def RING_BASE_HI_ADDR (n : Nat) : Field := { off := 0x44 + 0x10 * n, hi := 24, lo := 0, acc := .rw, reset := 0 }

/-- RING_CFG.BURSTS (Table 7-5). -/
def RING_CFG_BURSTS (n : Nat) : Field := { off := 0x48 + 0x10 * n, hi := 12, lo := 0, acc := .rw, reset := 0 }

/-- RING_CFG.LAYER (Table 7-5). -/
def RING_CFG_LAYER (n : Nat) : Field := { off := 0x48 + 0x10 * n, hi := 28, lo := 13, acc := .rw, reset := 0 }

/-- RING_POS.NEXT (Table 7-5). -/
def RING_POS_NEXT (n : Nat) : Field := { off := 0x4c + 0x10 * n, hi := 15, lo := 0, acc := .ro, reset := 0 }

/-- RING_POS.AHEAD (Table 7-5). -/
def RING_POS_AHEAD (n : Nat) : Field := { off := 0x4c + 0x10 * n, hi := 21, lo := 16, acc := .ro, reset := 0 }

/-- SPK_STAT.BUSY (Table 4-3). -/
def SPK_STAT_BUSY : Field := { off := 0x100, hi := 0, lo := 0, acc := .ro, reset := 0 }

/-- SPK_STAT.FAULTED (Table 4-3). -/
def SPK_STAT_FAULTED : Field := { off := 0x100, hi := 1, lo := 1, acc := .w1c, reset := 0 }

/-- SPK_OVERFULL.COUNT (Table 4-3). -/
def SPK_OVERFULL_COUNT : Field := { off := 0x104, hi := 31, lo := 0, acc := .rc, reset := 0 }

/-- SPK_CAPDROP.COUNT (Table 4-3). -/
def SPK_CAPDROP_COUNT : Field := { off := 0x108, hi := 31, lo := 0, acc := .rc, reset := 0 }

/-- SPK_TILES.COUNT (Table 4-3). -/
def SPK_TILES_COUNT : Field := { off := 0x10c, hi := 31, lo := 0, acc := .rc, reset := 0 }

/-- DMA engine and packer (per core, endpoint 2). -/
def dmaMap : List RegGroup :=
  [
    { base := 0x0, stride := 0x40, count := 1, fields := [DMA_STAT_BUSY, DMA_STAT_FAULTED, DMA_STAT_TAGS_OUT, DMA_FADDR_LO_ADDR, DMA_FADDR_HI_ADDR, DMA_FINFO_CAUSE, DMA_FINFO_TAG, DMA_FINFO_RING, DMA_FINFO_DIR, DMA_FINFO_MCAST, DMA_FINFO_FETCH, DMA_FINFO_LOCAL, DMA_CLAMP_COUNT, DMA_NONFIN_COUNT, DMA_QSAT_COUNT, DMA_SLOW_COUNT, DMA_XFERS_COUNT] },
    { base := 0x40, stride := 0x10, count := 8, fields := [RING_BASE_LO_ADDR 0, RING_BASE_HI_ADDR 0, RING_CFG_BURSTS 0, RING_CFG_LAYER 0, RING_POS_NEXT 0, RING_POS_AHEAD 0] },
    { base := 0x100, stride := 0x10, count := 1, fields := [SPK_STAT_BUSY, SPK_STAT_FAULTED, SPK_OVERFULL_COUNT, SPK_CAPDROP_COUNT, SPK_TILES_COUNT] } ]

/-! Drain unit (per core, endpoint 3). -/

/-- DRAIN_STAT.BUSY (Table 3-9). -/
def DRAIN_STAT_BUSY : Field := { off := 0x0, hi := 0, lo := 0, acc := .ro, reset := 0 }

/-- DRAIN_STAT.OPEN (Table 3-9). -/
def DRAIN_STAT_OPEN : Field := { off := 0x0, hi := 4, lo := 1, acc := .ro, reset := 0 }

/-- DRAIN_STAT.EPI (Table 3-9). -/
def DRAIN_STAT_EPI : Field := { off := 0x0, hi := 10, lo := 5, acc := .ro, reset := 0 }

/-- DRAIN_CLAMP.COUNT (Table 3-9). -/
def DRAIN_CLAMP_COUNT : Field := { off := 0x8, hi := 31, lo := 0, acc := .rc, reset := 0 }

/-- DRAIN_NONFIN.COUNT (Table 3-9). -/
def DRAIN_NONFIN_COUNT : Field := { off := 0xc, hi := 31, lo := 0, acc := .rc, reset := 0 }

/-- DRAIN_QSAT.COUNT (Table 3-9). -/
def DRAIN_QSAT_COUNT : Field := { off := 0x10, hi := 31, lo := 0, acc := .rc, reset := 0 }

/-- Drain unit (per core, endpoint 3). -/
def drainMap : List RegGroup :=
  [
    { base := 0x0, stride := 0x10000000, count := 1, fields := [DRAIN_STAT_BUSY, DRAIN_STAT_OPEN, DRAIN_STAT_EPI, DRAIN_CLAMP_COUNT, DRAIN_NONFIN_COUNT, DRAIN_QSAT_COUNT] } ]

/-! Activation stack (per core, endpoint 4). -/

/-- STK_STAT.BUSY (Table 11-3). -/
def STK_STAT_BUSY : Field := { off := 0x0, hi := 0, lo := 0, acc := .ro, reset := 0 }

/-- STK_STAT.FAULTED (Table 11-3). -/
def STK_STAT_FAULTED : Field := { off := 0x0, hi := 1, lo := 1, acc := .w1c, reset := 0 }

/-- STK_STAT.STALE (Table 11-3). -/
def STK_STAT_STALE : Field := { off := 0x0, hi := 2, lo := 2, acc := .w1c, reset := 0 }

/-- STK_STAT.QUEUED (Table 11-3). -/
def STK_STAT_QUEUED : Field := { off := 0x0, hi := 6, lo := 3, acc := .ro, reset := 0 }

/-- STK_STAT.DEPTH (Table 11-3). -/
def STK_STAT_DEPTH : Field := { off := 0x0, hi := 31, lo := 16, acc := .ro, reset := 0 }

/-- STK_BASE_LO.ADDR (Table 11-3). -/
def STK_BASE_LO_ADDR : Field := { off := 0x8, hi := 31, lo := 0, acc := .rw, reset := 0 }

/-- STK_BASE_HI.ADDR (Table 11-3). -/
def STK_BASE_HI_ADDR : Field := { off := 0xc, hi := 24, lo := 0, acc := .rw, reset := 0 }

/-- STK_SIZE_LO.SIZE (Table 11-3). -/
def STK_SIZE_LO_SIZE : Field := { off := 0x10, hi := 31, lo := 0, acc := .rw, reset := 0 }

/-- STK_SIZE_HI.SIZE (Table 11-3). -/
def STK_SIZE_HI_SIZE : Field := { off := 0x14, hi := 3, lo := 0, acc := .rw, reset := 0 }

/-- STK_TOP_LO.OFF (Table 11-3). -/
def STK_TOP_LO_OFF : Field := { off := 0x18, hi := 31, lo := 0, acc := .ro, reset := 0, cap := some 4 }

/-- STK_TOP_HI.OFF (Table 11-3). -/
def STK_TOP_HI_OFF : Field := { off := 0x1c, hi := 3, lo := 0, acc := .ro, reset := 0 }

/-- STK_LAST_LO.OFF (Table 11-3). -/
def STK_LAST_LO_OFF : Field := { off := 0x20, hi := 31, lo := 0, acc := .ro, reset := 0, cap := some 4 }

/-- STK_LAST_HI.OFF (Table 11-3). -/
def STK_LAST_HI_OFF : Field := { off := 0x24, hi := 3, lo := 0, acc := .ro, reset := 0 }

/-- STK_HWM_LO.OFF (Table 11-3). -/
def STK_HWM_LO_OFF : Field := { off := 0x28, hi := 31, lo := 0, acc := .rc, reset := 0, cap := some 4 }

/-- STK_HWM_HI.OFF (Table 11-3). -/
def STK_HWM_HI_OFF : Field := { off := 0x2c, hi := 3, lo := 0, acc := .ro, reset := 0 }

/-- STK_FCAP.EXPECT (Table 11-3). -/
def STK_FCAP_EXPECT : Field := { off := 0x30, hi := 15, lo := 0, acc := .ro, reset := 0 }

/-- STK_FCAP.FOUND (Table 11-3). -/
def STK_FCAP_FOUND : Field := { off := 0x30, hi := 30, lo := 16, acc := .ro, reset := 0 }

/-- STK_FCAP.EMPTY (Table 11-3). -/
def STK_FCAP_EMPTY : Field := { off := 0x30, hi := 31, lo := 31, acc := .ro, reset := 0 }

/-- STK_STALE.COUNT (Table 11-3). -/
def STK_STALE_COUNT : Field := { off := 0x34, hi := 31, lo := 0, acc := .rc, reset := 0 }

/-- Activation stack (per core, endpoint 4). -/
def stkMap : List RegGroup :=
  [
    { base := 0x0, stride := 0x10000000, count := 1, fields := [STK_STAT_BUSY, STK_STAT_FAULTED, STK_STAT_STALE, STK_STAT_QUEUED, STK_STAT_DEPTH, STK_BASE_LO_ADDR, STK_BASE_HI_ADDR, STK_SIZE_LO_SIZE, STK_SIZE_HI_SIZE, STK_TOP_LO_OFF, STK_TOP_HI_OFF, STK_LAST_LO_OFF, STK_LAST_HI_OFF, STK_HWM_LO_OFF, STK_HWM_HI_OFF, STK_FCAP_EXPECT, STK_FCAP_FOUND, STK_FCAP_EMPTY, STK_STALE_COUNT] } ]

/-! DRAM controller (compute die, endpoint 32). -/

/-- DRAM_STAT.TRAINED (Table 8-4). -/
def DRAM_STAT_TRAINED : Field := { off := 0x0, hi := 0, lo := 0, acc := .ro, reset := 0 }

/-- DRAM_STAT.SELF_REF (Table 8-4). -/
def DRAM_STAT_SELF_REF : Field := { off := 0x0, hi := 1, lo := 1, acc := .ro, reset := 0 }

/-- DRAM_STAT.CE (Table 8-4). -/
def DRAM_STAT_CE : Field := { off := 0x0, hi := 2, lo := 2, acc := .w1c, reset := 0 }

/-- DRAM_STAT.UE (Table 8-4). -/
def DRAM_STAT_UE : Field := { off := 0x0, hi := 3, lo := 3, acc := .w1c, reset := 0 }

/-- DRAM_STAT.HOT (Table 8-4). -/
def DRAM_STAT_HOT : Field := { off := 0x0, hi := 4, lo := 4, acc := .ro, reset := 0 }

/-- DRAM_CE.COUNT (Table 8-4). -/
def DRAM_CE_COUNT : Field := { off := 0x8, hi := 31, lo := 0, acc := .rc, reset := 0 }

/-- DRAM_UE.COUNT (Table 8-4). -/
def DRAM_UE_COUNT : Field := { off := 0xc, hi := 31, lo := 0, acc := .rc, reset := 0 }

/-- DRAM_ECAP_LO.OFFSET (Table 8-4). -/
def DRAM_ECAP_LO_OFFSET : Field := { off := 0x10, hi := 31, lo := 0, acc := .ro, reset := 0, cap := some 8 }

/-- DRAM_ECAP_HI.OFFSET (Table 8-4). -/
def DRAM_ECAP_HI_OFFSET : Field := { off := 0x14, hi := 3, lo := 0, acc := .ro, reset := 0 }

/-- DRAM_ECAP_HI.UE (Table 8-4). -/
def DRAM_ECAP_HI_UE : Field := { off := 0x14, hi := 4, lo := 4, acc := .ro, reset := 0 }

/-- DRAM_ECAP_HI.SRC (Table 8-4). -/
def DRAM_ECAP_HI_SRC : Field := { off := 0x14, hi := 7, lo := 5, acc := .ro, reset := 0 }

/-- DRAM_REFWAIT.COUNT (Table 8-4). -/
def DRAM_REFWAIT_COUNT : Field := { off := 0x18, hi := 31, lo := 0, acc := .rc, reset := 0 }

/-- DRAM_SCRUB.INTERVAL (Table 8-4). -/
def DRAM_SCRUB_INTERVAL : Field := { off := 0x1c, hi := 15, lo := 0, acc := .rw, reset := 4096 }

/-- DRAM_SCRUB.EN (Table 8-4). -/
def DRAM_SCRUB_EN : Field := { off := 0x1c, hi := 16, lo := 16, acc := .rw, reset := 1 }

/-- DRAM_SCRUB.PASSES (Table 8-4). -/
def DRAM_SCRUB_PASSES : Field := { off := 0x1c, hi := 31, lo := 24, acc := .rc, reset := 0 }

/-- DRAM_TEMP.VALUE (Table 8-4). -/
def DRAM_TEMP_VALUE : Field := { off := 0x20, hi := 7, lo := 0, acc := .ro, reset := 0 }

/-- DRAM controller (compute die, endpoint 32). -/
def dramMap : List RegGroup :=
  [
    { base := 0x0, stride := 0x10000000, count := 1, fields := [DRAM_STAT_TRAINED, DRAM_STAT_SELF_REF, DRAM_STAT_CE, DRAM_STAT_UE, DRAM_STAT_HOT, DRAM_CE_COUNT, DRAM_UE_COUNT, DRAM_ECAP_LO_OFFSET, DRAM_ECAP_HI_OFFSET, DRAM_ECAP_HI_UE, DRAM_ECAP_HI_SRC, DRAM_REFWAIT_COUNT, DRAM_SCRUB_INTERVAL, DRAM_SCRUB_EN, DRAM_SCRUB_PASSES, DRAM_TEMP_VALUE] } ]

/-! Gather-merge engine (compute die, endpoints 33 and 34). -/

/-- GME_STAT.BUSY (Table 5-5). -/
def GME_STAT_BUSY : Field := { off := 0x0, hi := 0, lo := 0, acc := .ro, reset := 0 }

/-- GME_STAT.QDEPTH (Table 5-5). -/
def GME_STAT_QDEPTH : Field := { off := 0x0, hi := 5, lo := 1, acc := .ro, reset := 0 }

/-- GME_STAT.FAULTED (Table 5-5). -/
def GME_STAT_FAULTED : Field := { off := 0x0, hi := 6, lo := 6, acc := .w1c, reset := 0 }

/-- GME_STAT.OP (Table 5-5). -/
def GME_STAT_OP : Field := { off := 0x0, hi := 10, lo := 7, acc := .ro, reset := 0 }

/-- GME_IDXEV.COUNT (Table 5-5). -/
def GME_IDXEV_COUNT : Field := { off := 0x8, hi := 31, lo := 0, acc := .rc, reset := 0 }

/-- GME_DROP.COUNT (Table 5-5). -/
def GME_DROP_COUNT : Field := { off := 0xc, hi := 31, lo := 0, acc := .rc, reset := 0 }

/-- GME_SPILL.COUNT (Table 5-5). -/
def GME_SPILL_COUNT : Field := { off := 0x10, hi := 31, lo := 0, acc := .rc, reset := 0 }

/-- GME_HIT.COUNT (Table 5-5). -/
def GME_HIT_COUNT : Field := { off := 0x14, hi := 31, lo := 0, acc := .rc, reset := 0 }

/-- GME_MISS.COUNT (Table 5-5). -/
def GME_MISS_COUNT : Field := { off := 0x18, hi := 31, lo := 0, acc := .rc, reset := 0 }

/-- GME_NONFIN.COUNT (Table 5-5). -/
def GME_NONFIN_COUNT : Field := { off := 0x1c, hi := 31, lo := 0, acc := .rc, reset := 0 }

/-- GME_FDESC_LO.ADDR (Table 5-5). -/
def GME_FDESC_LO_ADDR : Field := { off := 0x20, hi := 31, lo := 0, acc := .ro, reset := 0 }

/-- GME_FDESC_HI.ADDR (Table 5-5). -/
def GME_FDESC_HI_ADDR : Field := { off := 0x24, hi := 31, lo := 0, acc := .ro, reset := 0 }

/-- GME_FPOS.POS (Table 5-5). -/
def GME_FPOS_POS : Field := { off := 0x28, hi := 31, lo := 0, acc := .ro, reset := 0 }

/-- GME_FVAL.VALUE (Table 5-5). -/
def GME_FVAL_VALUE : Field := { off := 0x2c, hi := 31, lo := 0, acc := .ro, reset := 0 }

/-- Gather-merge engine (compute die, endpoints 33 and 34). -/
def gmeMap : List RegGroup :=
  [
    { base := 0x0, stride := 0x10000000, count := 1, fields := [GME_STAT_BUSY, GME_STAT_QDEPTH, GME_STAT_FAULTED, GME_STAT_OP, GME_IDXEV_COUNT, GME_DROP_COUNT, GME_SPILL_COUNT, GME_HIT_COUNT, GME_MISS_COUNT, GME_NONFIN_COUNT, GME_FDESC_LO_ADDR, GME_FDESC_HI_ADDR, GME_FPOS_POS, GME_FVAL_VALUE] } ]

/-! Update engine (compute die, endpoint 35). -/

/-- UE_STAT.BUSY (Table 12-9). -/
def UE_STAT_BUSY : Field := { off := 0x0, hi := 0, lo := 0, acc := .ro, reset := 0 }

/-- UE_STAT.FAULTED (Table 12-9). -/
def UE_STAT_FAULTED : Field := { off := 0x0, hi := 1, lo := 1, acc := .w1c, reset := 0 }

/-- UE_STAT.DRAINING (Table 12-9). -/
def UE_STAT_DRAINING : Field := { off := 0x0, hi := 2, lo := 2, acc := .ro, reset := 0 }

/-- UE_STAT.REC (Table 12-9). -/
def UE_STAT_REC : Field := { off := 0x0, hi := 31, lo := 16, acc := .ro, reset := 0 }

/-- UE_LIST_LO.ADDR (Table 12-9). -/
def UE_LIST_LO_ADDR : Field := { off := 0x8, hi := 31, lo := 0, acc := .rw, reset := 0 }

/-- UE_LIST_HI.ADDR (Table 12-9). -/
def UE_LIST_HI_ADDR : Field := { off := 0xc, hi := 24, lo := 0, acc := .rw, reset := 0 }

/-- UE_PAIRRING.MASK (Table 12-9). -/
def UE_PAIRRING_MASK : Field := { off := 0x10, hi := 3, lo := 0, acc := .rw, reset := 0 }

/-- UE_NONFIN.COUNT (Table 12-9). -/
def UE_NONFIN_COUNT : Field := { off := 0x14, hi := 31, lo := 0, acc := .rc, reset := 0 }

/-- UE_CLAMP.COUNT (Table 12-9). -/
def UE_CLAMP_COUNT : Field := { off := 0x18, hi := 31, lo := 0, acc := .rc, reset := 0 }

/-- UE_ELEMS.COUNT (Table 12-9). -/
def UE_ELEMS_COUNT : Field := { off := 0x1c, hi := 31, lo := 0, acc := .rc, reset := 0 }

/-- UE_CKBYTES.COUNT (Table 12-9). -/
def UE_CKBYTES_COUNT : Field := { off := 0x20, hi := 31, lo := 0, acc := .rc, reset := 0 }

/-- Update engine (compute die, endpoint 35). -/
def ueMap : List RegGroup :=
  [
    { base := 0x0, stride := 0x10000000, count := 1, fields := [UE_STAT_BUSY, UE_STAT_FAULTED, UE_STAT_DRAINING, UE_STAT_REC, UE_LIST_LO_ADDR, UE_LIST_HI_ADDR, UE_PAIRRING_MASK, UE_NONFIN_COUNT, UE_CLAMP_COUNT, UE_ELEMS_COUNT, UE_CKBYTES_COUNT] } ]

/-! Application core (compute die, endpoints 36-39; die I, endpoints 19-26). -/

/-- AC_STAT.RUN (Table 15-5). -/
def AC_STAT_RUN : Field := { off := 0x0, hi := 0, lo := 0, acc := .ro, reset := 0 }

/-- AC_STAT.TRAPPED (Table 15-5). -/
def AC_STAT_TRAPPED : Field := { off := 0x0, hi := 1, lo := 1, acc := .w1c, reset := 0 }

/-- AC_STAT.MCAUSE (Table 15-5). -/
def AC_STAT_MCAUSE : Field := { off := 0x0, hi := 15, lo := 8, acc := .ro, reset := 0 }

/-- AC_DBSEL.MASK (Table 15-5). -/
def AC_DBSEL_MASK : Field := { off := 0x4, hi := 31, lo := 0, acc := .rw, reset := 0 }

/-- AC_SPEND.SLOT (Table 15-5). -/
def AC_SPEND_SLOT : Field := { off := 0x8, hi := 15, lo := 0, acc := .w1c, reset := 0 }

/-- AC_TVAL_LO.VALUE (Table 15-5). -/
def AC_TVAL_LO_VALUE : Field := { off := 0xc, hi := 31, lo := 0, acc := .ro, reset := 0 }

/-- AC_TVAL_HI.VALUE (Table 15-5). -/
def AC_TVAL_HI_VALUE : Field := { off := 0x10, hi := 31, lo := 0, acc := .ro, reset := 0 }

/-- AC_NEARMISS.COUNT (Table 15-5). -/
def AC_NEARMISS_COUNT : Field := { off := 0x14, hi := 31, lo := 0, acc := .rc, reset := 0 }

/-- Application core (compute die, endpoints 36-39; die I, endpoints 19-26). -/
def acMap : List RegGroup :=
  [
    { base := 0x0, stride := 0x10000000, count := 1, fields := [AC_STAT_RUN, AC_STAT_TRAPPED, AC_STAT_MCAUSE, AC_DBSEL_MASK, AC_SPEND_SLOT, AC_TVAL_LO_VALUE, AC_TVAL_HI_VALUE, AC_NEARMISS_COUNT] } ]

/-! Translation unit (compute die, endpoint 40). -/

/-- TU_STAT.FAULTED (Table 8-5). -/
def TU_STAT_FAULTED : Field := { off := 0x0, hi := 0, lo := 0, acc := .w1c, reset := 0 }

/-- TU_STAT.INVAL_BUSY (Table 8-5). -/
def TU_STAT_INVAL_BUSY : Field := { off := 0x0, hi := 1, lo := 1, acc := .ro, reset := 0 }

/-- TU_ROOT_LO.ADDR (Table 8-5). -/
def TU_ROOT_LO_ADDR : Field := { off := 0x8, hi := 31, lo := 0, acc := .rw, reset := 0 }

/-- TU_ROOT_HI.ADDR (Table 8-5). -/
def TU_ROOT_HI_ADDR : Field := { off := 0xc, hi := 30, lo := 0, acc := .rw, reset := 0 }

/-- TU_INVAL.ALL (Table 8-5). -/
def TU_INVAL_ALL : Field := { off := 0x10, hi := 0, lo := 0, acc := .wo, reset := 0 }

/-- TU_MISS.COUNT (Table 8-5). -/
def TU_MISS_COUNT : Field := { off := 0x14, hi := 31, lo := 0, acc := .rc, reset := 0 }

/-- TU_FADDR_LO.ADDR (Table 8-5). -/
def TU_FADDR_LO_ADDR : Field := { off := 0x18, hi := 31, lo := 0, acc := .ro, reset := 0, cap := some 32 }

/-- TU_FADDR_HI.ADDR (Table 8-5). -/
def TU_FADDR_HI_ADDR : Field := { off := 0x1c, hi := 31, lo := 0, acc := .ro, reset := 0 }

/-- TU_FINFO.CAUSE (Table 8-5). -/
def TU_FINFO_CAUSE : Field := { off := 0x20, hi := 3, lo := 0, acc := .ro, reset := 0 }

/-- TU_FINFO.LEVEL (Table 8-5). -/
def TU_FINFO_LEVEL : Field := { off := 0x20, hi := 5, lo := 4, acc := .ro, reset := 0 }

/-- TU_FINFO.AGENT (Table 8-5). -/
def TU_FINFO_AGENT : Field := { off := 0x20, hi := 8, lo := 6, acc := .ro, reset := 0 }

/-- Translation unit (compute die, endpoint 40). -/
def tuMap : List RegGroup :=
  [
    { base := 0x0, stride := 0x10000000, count := 1, fields := [TU_STAT_FAULTED, TU_STAT_INVAL_BUSY, TU_ROOT_LO_ADDR, TU_ROOT_HI_ADDR, TU_INVAL_ALL, TU_MISS_COUNT, TU_FADDR_LO_ADDR, TU_FADDR_HI_ADDR, TU_FINFO_CAUSE, TU_FINFO_LEVEL, TU_FINFO_AGENT] } ]

/-! Idle counters (compute die, endpoint 41; block of core k at 0x100 k). -/

/-- IDL_ADV_LO.COUNT (Table 17-5). -/
def IDL_ADV_LO_COUNT (k : Nat) : Field := { off := 0x0 + 0x100 * k, hi := 31, lo := 0, acc := .ro, reset := 0, cap := some 32 }

/-- IDL_ADV_HI.COUNT (Table 17-5). -/
def IDL_ADV_HI_COUNT (k : Nat) : Field := { off := 0x4 + 0x100 * k, hi := 31, lo := 0, acc := .ro, reset := 0 }

/-- IDL_Cc_LO.COUNT (Table 17-5). -/
def IDL_C_LO_COUNT (k c : Nat) : Field := { off := 0x8 + 0x100 * k + 8 * c, hi := 31, lo := 0, acc := .ro, reset := 0, cap := some 32 }

/-- IDL_Cc_HI.COUNT (Table 17-5). -/
def IDL_C_HI_COUNT (k c : Nat) : Field := { off := 0xc + 0x100 * k + 8 * c, hi := 31, lo := 0, acc := .ro, reset := 0 }

/-- Idle counters (compute die, endpoint 41; block of core k at 0x100 k). -/
def idlMap : List RegGroup :=
  [
    { base := 0x0, stride := 0x100, count := 16, fields := [IDL_ADV_LO_COUNT 0, IDL_ADV_HI_COUNT 0] },
    { base := 0x8, stride := 0x100, count := 16, fields := [IDL_C_LO_COUNT 0 0, IDL_C_HI_COUNT 0 0] },
    { base := 0x10, stride := 0x100, count := 16, fields := [IDL_C_LO_COUNT 0 1, IDL_C_HI_COUNT 0 1] },
    { base := 0x18, stride := 0x100, count := 16, fields := [IDL_C_LO_COUNT 0 2, IDL_C_HI_COUNT 0 2] },
    { base := 0x20, stride := 0x100, count := 16, fields := [IDL_C_LO_COUNT 0 3, IDL_C_HI_COUNT 0 3] },
    { base := 0x28, stride := 0x100, count := 16, fields := [IDL_C_LO_COUNT 0 4, IDL_C_HI_COUNT 0 4] },
    { base := 0x30, stride := 0x100, count := 16, fields := [IDL_C_LO_COUNT 0 5, IDL_C_HI_COUNT 0 5] },
    { base := 0x38, stride := 0x100, count := 16, fields := [IDL_C_LO_COUNT 0 6, IDL_C_HI_COUNT 0 6] },
    { base := 0x40, stride := 0x100, count := 16, fields := [IDL_C_LO_COUNT 0 7, IDL_C_HI_COUNT 0 7] },
    { base := 0x48, stride := 0x100, count := 16, fields := [IDL_C_LO_COUNT 0 8, IDL_C_HI_COUNT 0 8] } ]

/-! Decode pipeline (media die, endpoints 0-15). -/

/-- DEC_STAT.BUSY (Table 14-10). -/
def DEC_STAT_BUSY : Field := { off := 0x0, hi := 0, lo := 0, acc := .ro, reset := 0 }

/-- DEC_STAT.CODEC (Table 14-10). -/
def DEC_STAT_CODEC : Field := { off := 0x0, hi := 3, lo := 1, acc := .ro, reset := 0 }

/-- DEC_STAT.SLOT (Table 14-10). -/
def DEC_STAT_SLOT : Field := { off := 0x0, hi := 7, lo := 4, acc := .ro, reset := 0 }

/-- DEC_FRAMES.COUNT (Table 14-10). -/
def DEC_FRAMES_COUNT : Field := { off := 0x4, hi := 31, lo := 0, acc := .rc, reset := 0 }

/-- DEC_ERR.COUNT (Table 14-10). -/
def DEC_ERR_COUNT : Field := { off := 0x8, hi := 31, lo := 0, acc := .rc, reset := 0 }

/-- Decode pipeline (media die, endpoints 0-15). -/
def decMap : List RegGroup :=
  [
    { base := 0x0, stride := 0x10000000, count := 1, fields := [DEC_STAT_BUSY, DEC_STAT_CODEC, DEC_STAT_SLOT, DEC_FRAMES_COUNT, DEC_ERR_COUNT] } ]

/-! Tensorizer (media die, endpoints 16-19). -/

/-- TNZ_STAT.BUSY (Table 14-10). -/
def TNZ_STAT_BUSY : Field := { off := 0x0, hi := 0, lo := 0, acc := .ro, reset := 0 }

/-- TNZ_TUBES.COUNT (Table 14-10). -/
def TNZ_TUBES_COUNT : Field := { off := 0x4, hi := 31, lo := 0, acc := .rc, reset := 0 }

/-- TNZ_CLAMP.COUNT (Table 14-10). -/
def TNZ_CLAMP_COUNT : Field := { off := 0x8, hi := 31, lo := 0, acc := .rc, reset := 0 }

/-- TNZ_NONFIN.COUNT (Table 14-10). -/
def TNZ_NONFIN_COUNT : Field := { off := 0xc, hi := 31, lo := 0, acc := .rc, reset := 0 }

/-- TNZ_QSAT.COUNT (Table 14-10). -/
def TNZ_QSAT_COUNT : Field := { off := 0x10, hi := 31, lo := 0, acc := .rc, reset := 0 }

/-- Tensorizer (media die, endpoints 16-19). -/
def tnzMap : List RegGroup :=
  [
    { base := 0x0, stride := 0x10000000, count := 1, fields := [TNZ_STAT_BUSY, TNZ_TUBES_COUNT, TNZ_CLAMP_COUNT, TNZ_NONFIN_COUNT, TNZ_QSAT_COUNT] } ]

/-! Fabric port (link die, endpoints 0 and 1). -/

/-- FAB_STAT.UP (Table 16-8). -/
def FAB_STAT_UP : Field := { off := 0x0, hi := 0, lo := 0, acc := .ro, reset := 0 }

/-- FAB_STAT.MODE (Table 16-8). -/
def FAB_STAT_MODE : Field := { off := 0x0, hi := 2, lo := 1, acc := .ro, reset := 0 }

/-- FAB_STAT.PARTNER_KEEPER (Table 16-8). -/
def FAB_STAT_PARTNER_KEEPER : Field := { off := 0x0, hi := 3, lo := 3, acc := .ro, reset := 0 }

/-- FAB_STAT.SILENT (Table 16-8). -/
def FAB_STAT_SILENT : Field := { off := 0x0, hi := 4, lo := 4, acc := .w1c, reset := 0 }

/-- FAB_STAT.DOWN (Table 16-8). -/
def FAB_STAT_DOWN : Field := { off := 0x0, hi := 5, lo := 5, acc := .w1c, reset := 0 }

/-- FAB_STAT.REPLAY_USED (Table 16-8). -/
def FAB_STAT_REPLAY_USED : Field := { off := 0x0, hi := 27, lo := 16, acc := .ro, reset := 0 }

/-- FAB_NBR_SER_LO.SERIAL (Table 16-8). -/
def FAB_NBR_SER_LO_SERIAL : Field := { off := 0x8, hi := 31, lo := 0, acc := .ro, reset := 0, cap := some 32 }

/-- FAB_NBR_SER_HI.SERIAL (Table 16-8). -/
def FAB_NBR_SER_HI_SERIAL : Field := { off := 0xc, hi := 31, lo := 0, acc := .ro, reset := 0 }

/-- FAB_NBR_INFO.PORT (Table 16-8). -/
def FAB_NBR_INFO_PORT : Field := { off := 0x10, hi := 3, lo := 0, acc := .ro, reset := 0 }

/-- FAB_NBR_INFO.MODULE (Table 16-8). -/
def FAB_NBR_INFO_MODULE : Field := { off := 0x10, hi := 18, lo := 4, acc := .ro, reset := 32767 }

/-- FAB_NBR_INFO.BRIDGE (Table 16-8). -/
def FAB_NBR_INFO_BRIDGE : Field := { off := 0x10, hi := 19, lo := 19, acc := .ro, reset := 0 }

/-- FAB_RTT.NS (Table 16-8). -/
def FAB_RTT_NS : Field := { off := 0x14, hi := 15, lo := 0, acc := .ro, reset := 0 }

/-- FAB_BCN.PERIOD (Table 16-8). -/
def FAB_BCN_PERIOD : Field := { off := 0x18, hi := 15, lo := 0, acc := .rw, reset := 10 }

/-- FAB_BCN.LIMIT (Table 16-8). -/
def FAB_BCN_LIMIT : Field := { off := 0x18, hi := 23, lo := 16, acc := .rw, reset := 10 }

/-- FAB_KHB.ALIVE (Table 16-8). -/
def FAB_KHB_ALIVE : Field := { off := 0x1c, hi := 0, lo := 0, acc := .wo, reset := 0 }

/-- FAB_FEC_CE.COUNT (Table 16-8). -/
def FAB_FEC_CE_COUNT : Field := { off := 0x20, hi := 31, lo := 0, acc := .rc, reset := 0 }

/-- FAB_FEC_UE.COUNT (Table 16-8). -/
def FAB_FEC_UE_COUNT : Field := { off := 0x24, hi := 31, lo := 0, acc := .rc, reset := 0 }

/-- FAB_CRC.COUNT (Table 16-8). -/
def FAB_CRC_COUNT : Field := { off := 0x28, hi := 31, lo := 0, acc := .rc, reset := 0 }

/-- FAB_REPLAY.COUNT (Table 16-8). -/
def FAB_REPLAY_COUNT : Field := { off := 0x30, hi := 31, lo := 0, acc := .rc, reset := 0 }

/-- FAB_RETRAIN.COUNT (Table 16-8). -/
def FAB_RETRAIN_COUNT : Field := { off := 0x34, hi := 15, lo := 0, acc := .rc, reset := 0 }

/-- FAB_PROTO_RX.COUNT (Table 16-8). -/
def FAB_PROTO_RX_COUNT : Field := { off := 0x38, hi := 31, lo := 0, acc := .rc, reset := 0 }

/-- FAB_PROTO_CAP.CODE (Table 16-8). -/
def FAB_PROTO_CAP_CODE : Field := { off := 0x3c, hi := 7, lo := 0, acc := .ro, reset := 0 }

/-- FAB_PROTO_CAP.SEQ (Table 16-8). -/
def FAB_PROTO_CAP_SEQ : Field := { off := 0x3c, hi := 19, lo := 8, acc := .ro, reset := 0 }

/-- FAB_NEARMISS.COUNT (Table 16-8). -/
def FAB_NEARMISS_COUNT : Field := { off := 0x40, hi := 31, lo := 0, acc := .rc, reset := 0 }

/-- FAB_INJ_CFG.MODE (Table 16-8). -/
def FAB_INJ_CFG_MODE : Field := { off := 0x44, hi := 1, lo := 0, acc := .rw, reset := 0 }

/-- FAB_INJ_CFG.VCMASK (Table 16-8). -/
def FAB_INJ_CFG_VCMASK : Field := { off := 0x44, hi := 6, lo := 2, acc := .rw, reset := 0 }

/-- FAB_INJ_CFG.LINKF (Table 16-8). -/
def FAB_INJ_CFG_LINKF : Field := { off := 0x44, hi := 7, lo := 7, acc := .rw, reset := 0 }

/-- FAB_INJ_CFG.RATE (Table 16-8). -/
def FAB_INJ_CFG_RATE : Field := { off := 0x44, hi := 12, lo := 8, acc := .rw, reset := 0 }

/-- FAB_INJ_SEED.VALUE (Table 16-8). -/
def FAB_INJ_SEED_VALUE : Field := { off := 0x48, hi := 31, lo := 0, acc := .rw, reset := 0 }

/-- FAB_INJ_CNT.COUNT (Table 16-8). -/
def FAB_INJ_CNT_COUNT : Field := { off := 0x4c, hi := 31, lo := 0, acc := .rc, reset := 0 }

/-- FAB_TXF.COUNT (Table 16-8). -/
def FAB_TXF_COUNT : Field := { off := 0x50, hi := 31, lo := 0, acc := .rc, reset := 0 }

/-- FAB_RXF.COUNT (Table 16-8). -/
def FAB_RXF_COUNT : Field := { off := 0x54, hi := 31, lo := 0, acc := .rc, reset := 0 }

/-- Fabric port (link die, endpoints 0 and 1). -/
def fabMap : List RegGroup :=
  [
    { base := 0x0, stride := 0x10000, count := 1, fields := [FAB_STAT_UP, FAB_STAT_MODE, FAB_STAT_PARTNER_KEEPER, FAB_STAT_SILENT, FAB_STAT_DOWN, FAB_STAT_REPLAY_USED, FAB_NBR_SER_LO_SERIAL, FAB_NBR_SER_HI_SERIAL, FAB_NBR_INFO_PORT, FAB_NBR_INFO_MODULE, FAB_NBR_INFO_BRIDGE, FAB_RTT_NS, FAB_BCN_PERIOD, FAB_BCN_LIMIT, FAB_KHB_ALIVE, FAB_FEC_CE_COUNT, FAB_FEC_UE_COUNT, FAB_CRC_COUNT, FAB_REPLAY_COUNT, FAB_RETRAIN_COUNT, FAB_PROTO_RX_COUNT, FAB_PROTO_CAP_CODE, FAB_PROTO_CAP_SEQ, FAB_NEARMISS_COUNT, FAB_INJ_CFG_MODE, FAB_INJ_CFG_VCMASK, FAB_INJ_CFG_LINKF, FAB_INJ_CFG_RATE, FAB_INJ_SEED_VALUE, FAB_INJ_CNT_COUNT, FAB_TXF_COUNT, FAB_RXF_COUNT] } ]

/-! Stage queues (L5, endpoints 0 and 1). -/

/-- STQ_POSTq.ENTRY (Table 17-6). -/
def STQ_POST_ENTRY (n : Nat) : Field := { off := 0x10000 + 0x40 * n, hi := 127, lo := 0, acc := .wo, reset := 0 }

/-- STQ_SENTq.COUNT (Table 17-6). -/
def STQ_SENT_COUNT (n : Nat) : Field := { off := 0x10010 + 0x40 * n, hi := 31, lo := 0, acc := .ro, reset := 0 }

/-- STQ_HELDq.COUNT (Table 17-6). -/
def STQ_HELD_COUNT (n : Nat) : Field := { off := 0x10014 + 0x40 * n, hi := 31, lo := 0, acc := .rc, reset := 0 }

/-- STQ_ARRq.COUNT (Table 17-6). -/
def STQ_ARR_COUNT (n : Nat) : Field := { off := 0x20000 + 0x40 * n, hi := 31, lo := 0, acc := .ro, reset := 0 }

/-- STQ_RELq.COUNT (Table 17-6). -/
def STQ_REL_COUNT (n : Nat) : Field := { off := 0x20008 + 0x40 * n, hi := 31, lo := 0, acc := .wo, reset := 0 }

/-- STQ_RELDq.COUNT (Table 17-6). -/
def STQ_RELD_COUNT (n : Nat) : Field := { off := 0x2000c + 0x40 * n, hi := 31, lo := 0, acc := .ro, reset := 0 }

/-- Stage queues (L5, endpoints 0 and 1). -/
def stqMap : List RegGroup :=
  [
    { base := 0x10000, stride := 0x40, count := 8, fields := [STQ_POST_ENTRY 0, STQ_SENT_COUNT 0, STQ_HELD_COUNT 0] },
    { base := 0x20000, stride := 0x40, count := 8, fields := [STQ_ARR_COUNT 0, STQ_REL_COUNT 0, STQ_RELD_COUNT 0] } ]

/-! Bridge registers (L0 endpoint 1 of a bridge module; BAR0 + 0x100_0000). -/

/-- HB_STAT.LINKUP (Table 16-9). -/
def HB_STAT_LINKUP : Field := { off := 0x0, hi := 0, lo := 0, acc := .ro, reset := 0 }

/-- HB_STAT.SPEED (Table 16-9). -/
def HB_STAT_SPEED : Field := { off := 0x0, hi := 3, lo := 1, acc := .ro, reset := 0 }

/-- HB_STAT.WIDTH (Table 16-9). -/
def HB_STAT_WIDTH : Field := { off := 0x0, hi := 8, lo := 4, acc := .ro, reset := 0 }

/-- HB_STAT.FLIT (Table 16-9). -/
def HB_STAT_FLIT : Field := { off := 0x0, hi := 9, lo := 9, acc := .ro, reset := 0 }

/-- HB_UR.COUNT (Table 16-9). -/
def HB_UR_COUNT : Field := { off := 0x4, hi := 31, lo := 0, acc := .rc, reset := 0 }

/-- HB_OWINw_LO.EN (Table 16-9). -/
def HB_OWIN_LO_EN (n : Nat) : Field := { off := 0x100 + 0x8 * n, hi := 0, lo := 0, acc := .rw, reset := 0 }

/-- HB_OWINw_LO.W (Table 16-9). -/
def HB_OWIN_LO_W (n : Nat) : Field := { off := 0x100 + 0x8 * n, hi := 1, lo := 1, acc := .rw, reset := 0 }

/-- HB_OWINw_LO.TBASE (Table 16-9). -/
def HB_OWIN_LO_TBASE (n : Nat) : Field := { off := 0x100 + 0x8 * n, hi := 31, lo := 30, acc := .rw, reset := 0 }

/-- HB_OWINw_HI.TBASE (Table 16-9). -/
def HB_OWIN_HI_TBASE (n : Nat) : Field := { off := 0x104 + 0x8 * n, hi := 30, lo := 0, acc := .rw, reset := 0 }

/-- HB_ATTi_LO.V (Table 16-9). -/
def HB_ATT_LO_V (n : Nat) : Field := { off := 0x8000 + 0x8 * n, hi := 0, lo := 0, acc := .rw, reset := 0 }

/-- HB_ATTi_LO.ADDR (Table 16-9). -/
def HB_ATT_LO_ADDR (n : Nat) : Field := { off := 0x8000 + 0x8 * n, hi := 31, lo := 12, acc := .rw, reset := 0 }

/-- HB_ATTi_HI.ADDR (Table 16-9). -/
def HB_ATT_HI_ADDR (n : Nat) : Field := { off := 0x8004 + 0x8 * n, hi := 31, lo := 0, acc := .rw, reset := 0 }

/-- Bridge registers (L0 endpoint 1 of a bridge module; BAR0 + 0x100_0000). -/
def hbMap : List RegGroup :=
  [
    { base := 0x0, stride := 0x100, count := 1, fields := [HB_STAT_LINKUP, HB_STAT_SPEED, HB_STAT_WIDTH, HB_STAT_FLIT, HB_UR_COUNT] },
    { base := 0x100, stride := 0x8, count := 64, fields := [HB_OWIN_LO_EN 0, HB_OWIN_LO_W 0, HB_OWIN_LO_TBASE 0, HB_OWIN_HI_TBASE 0] },
    { base := 0x8000, stride := 0x8, count := 4096, fields := [HB_ATT_LO_V 0, HB_ATT_LO_ADDR 0, HB_ATT_HI_ADDR 0] } ]

/-! Reduction unit (link die, endpoint 2). -/

/-- RD_STAT.BUSY (Table 13-4). -/
def RD_STAT_BUSY : Field := { off := 0x0, hi := 0, lo := 0, acc := .ro, reset := 0 }

/-- RD_STAT.FAULTED (Table 13-4). -/
def RD_STAT_FAULTED : Field := { off := 0x0, hi := 1, lo := 1, acc := .w1c, reset := 0 }

/-- RD_STAT.MISMATCH (Table 13-4). -/
def RD_STAT_MISMATCH : Field := { off := 0x0, hi := 2, lo := 2, acc := .w1c, reset := 0 }

/-- RD_STAT.ROLE (Table 13-4). -/
def RD_STAT_ROLE : Field := { off := 0x0, hi := 4, lo := 3, acc := .ro, reset := 0 }

/-- RD_STAT.QUEUED (Table 13-4). -/
def RD_STAT_QUEUED : Field := { off := 0x0, hi := 31, lo := 16, acc := .ro, reset := 0 }

/-- RD_READY_LO.LAYER (Table 13-4). -/
def RD_READY_LO_LAYER : Field := { off := 0x8, hi := 15, lo := 0, acc := .wo, reset := 0 }

/-- RD_READY_HI.STEP (Table 13-4). -/
def RD_READY_HI_STEP : Field := { off := 0xc, hi := 31, lo := 0, acc := .wo, reset := 0 }

/-- RD_CLAMP.COUNT (Table 13-4). -/
def RD_CLAMP_COUNT : Field := { off := 0x10, hi := 31, lo := 0, acc := .rc, reset := 0 }

/-- RD_NONFIN.COUNT (Table 13-4). -/
def RD_NONFIN_COUNT : Field := { off := 0x14, hi := 31, lo := 0, acc := .rc, reset := 0 }

/-- RD_SAT.COUNT (Table 13-4). -/
def RD_SAT_COUNT : Field := { off := 0x18, hi := 31, lo := 0, acc := .rc, reset := 0 }

/-- RD_SEGS.COUNT (Table 13-4). -/
def RD_SEGS_COUNT : Field := { off := 0x1c, hi := 31, lo := 0, acc := .rc, reset := 0 }

/-- RD_SAMPLES.COUNT (Table 13-4). -/
def RD_SAMPLES_COUNT : Field := { off := 0x20, hi := 31, lo := 0, acc := .rc, reset := 0 }

/-- RD_EXTRA.COUNT (Table 13-4). -/
def RD_EXTRA_COUNT : Field := { off := 0x24, hi := 31, lo := 0, acc := .rc, reset := 0 }

/-- RD_MIS_LAYER.LAYER (Table 13-4). -/
def RD_MIS_LAYER_LAYER : Field := { off := 0x28, hi := 15, lo := 0, acc := .ro, reset := 0 }

/-- RD_MIS_LAYER.HOPS (Table 13-4). -/
def RD_MIS_LAYER_HOPS : Field := { off := 0x28, hi := 16, lo := 16, acc := .ro, reset := 0 }

/-- RD_MIS_ELEM.INDEX (Table 13-4). -/
def RD_MIS_ELEM_INDEX : Field := { off := 0x2c, hi := 31, lo := 0, acc := .ro, reset := 0 }

/-- RD_MIS_RING_LO.VALUE (Table 13-4). -/
def RD_MIS_RING_LO_VALUE : Field := { off := 0x30, hi := 31, lo := 0, acc := .ro, reset := 0, cap := some 16 }

/-- RD_MIS_RING_HI.VALUE (Table 13-4). -/
def RD_MIS_RING_HI_VALUE : Field := { off := 0x34, hi := 15, lo := 0, acc := .ro, reset := 0 }

/-- RD_MIS_TREE_LO.VALUE (Table 13-4). -/
def RD_MIS_TREE_LO_VALUE : Field := { off := 0x38, hi := 31, lo := 0, acc := .ro, reset := 0, cap := some 16 }

/-- RD_MIS_TREE_HI.VALUE (Table 13-4). -/
def RD_MIS_TREE_HI_VALUE : Field := { off := 0x3c, hi := 15, lo := 0, acc := .ro, reset := 0 }

/-- Reduction unit (link die, endpoint 2). -/
def rdMap : List RegGroup :=
  [
    { base := 0x0, stride := 0x10000, count := 1, fields := [RD_STAT_BUSY, RD_STAT_FAULTED, RD_STAT_MISMATCH, RD_STAT_ROLE, RD_STAT_QUEUED, RD_READY_LO_LAYER, RD_READY_HI_STEP, RD_CLAMP_COUNT, RD_NONFIN_COUNT, RD_SAT_COUNT, RD_SEGS_COUNT, RD_SAMPLES_COUNT, RD_EXTRA_COUNT, RD_MIS_LAYER_LAYER, RD_MIS_LAYER_HOPS, RD_MIS_ELEM_INDEX, RD_MIS_RING_LO_VALUE, RD_MIS_RING_HI_VALUE, RD_MIS_TREE_LO_VALUE, RD_MIS_TREE_HI_VALUE] } ]

/-! Ethernet port (die I, endpoints 0 and 1). -/

/-- ETH_STAT.LINK (Table 14-9). -/
def ETH_STAT_LINK : Field := { off := 0x0, hi := 0, lo := 0, acc := .ro, reset := 0 }

/-- ETH_STAT.FECLOCK (Table 14-9). -/
def ETH_STAT_FECLOCK : Field := { off := 0x0, hi := 1, lo := 1, acc := .ro, reset := 0 }

/-- ETH_STAT.PMD (Table 14-9). -/
def ETH_STAT_PMD : Field := { off := 0x0, hi := 3, lo := 2, acc := .ro, reset := 0 }

/-- ETH_FEC_CE.COUNT (Table 14-9). -/
def ETH_FEC_CE_COUNT : Field := { off := 0x4, hi := 31, lo := 0, acc := .rc, reset := 0 }

/-- ETH_FEC_UE.COUNT (Table 14-9). -/
def ETH_FEC_UE_COUNT : Field := { off := 0x8, hi := 31, lo := 0, acc := .rc, reset := 0 }

/-- ETH_DROP.COUNT (Table 14-9). -/
def ETH_DROP_COUNT : Field := { off := 0xc, hi := 31, lo := 0, acc := .rc, reset := 0 }

/-- ROCE_BAD.COUNT (Table 14-9). -/
def ROCE_BAD_COUNT : Field := { off := 0x10, hi := 31, lo := 0, acc := .rc, reset := 0 }

/-- ROCE_NAK.COUNT (Table 14-9). -/
def ROCE_NAK_COUNT : Field := { off := 0x14, hi := 31, lo := 0, acc := .rc, reset := 0 }

/-- ROCE_RETRY.COUNT (Table 14-9). -/
def ROCE_RETRY_COUNT : Field := { off := 0x18, hi := 31, lo := 0, acc := .rc, reset := 0 }

/-- Ethernet port (die I, endpoints 0 and 1). -/
def ethMap : List RegGroup :=
  [
    { base := 0x0, stride := 0x10000000, count := 1, fields := [ETH_STAT_LINK, ETH_STAT_FECLOCK, ETH_STAT_PMD, ETH_FEC_CE_COUNT, ETH_FEC_UE_COUNT, ETH_DROP_COUNT, ROCE_BAD_COUNT, ROCE_NAK_COUNT, ROCE_RETRY_COUNT] } ]

/-! Stream (die I, endpoints 3-18). -/

/-- STR_STAT.ACTIVE (Table 14-8). -/
def STR_STAT_ACTIVE : Field := { off := 0x0, hi := 0, lo := 0, acc := .ro, reset := 0 }

/-- STR_STAT.STALLED (Table 14-8). -/
def STR_STAT_STALLED : Field := { off := 0x0, hi := 1, lo := 1, acc := .ro, reset := 0 }

/-- STR_STAT.BUF (Table 14-8). -/
def STR_STAT_BUF : Field := { off := 0x0, hi := 2, lo := 2, acc := .ro, reset := 0 }

/-- STR_STAT.INFLIGHT (Table 14-8). -/
def STR_STAT_INFLIGHT : Field := { off := 0x0, hi := 31, lo := 16, acc := .ro, reset := 0 }

/-- STR_DRAW_LO.VALUE (Table 14-8). -/
def STR_DRAW_LO_VALUE : Field := { off := 0x8, hi := 31, lo := 0, acc := .ro, reset := 0, cap := some 32 }

/-- STR_DRAW_HI.VALUE (Table 14-8). -/
def STR_DRAW_HI_VALUE : Field := { off := 0xc, hi := 31, lo := 0, acc := .ro, reset := 0 }

/-- STR_DONE.COUNT (Table 14-8). -/
def STR_DONE_COUNT : Field := { off := 0x10, hi := 31, lo := 0, acc := .rc, reset := 0 }

/-- STR_DROP.COUNT (Table 14-8). -/
def STR_DROP_COUNT : Field := { off := 0x14, hi := 31, lo := 0, acc := .rc, reset := 0 }

/-- STR_MASK.COUNT (Table 14-8). -/
def STR_MASK_COUNT : Field := { off := 0x18, hi := 31, lo := 0, acc := .rc, reset := 0 }

/-- STR_FLAG.COUNT (Table 14-8). -/
def STR_FLAG_COUNT : Field := { off := 0x1c, hi := 31, lo := 0, acc := .rc, reset := 0 }

/-- STR_RDFAIL.COUNT (Table 14-8). -/
def STR_RDFAIL_COUNT : Field := { off := 0x20, hi := 31, lo := 0, acc := .rc, reset := 0 }

/-- STR_WALK.COUNT (Table 14-8). -/
def STR_WALK_COUNT : Field := { off := 0x24, hi := 31, lo := 0, acc := .rc, reset := 0 }

/-- STR_TSERR.CC (Table 14-8). -/
def STR_TSERR_CC : Field := { off := 0x28, hi := 15, lo := 0, acc := .rc, reset := 0 }

/-- STR_TSERR.TEI (Table 14-8). -/
def STR_TSERR_TEI : Field := { off := 0x28, hi := 23, lo := 16, acc := .rc, reset := 0 }

/-- STR_TSERR.SCR (Table 14-8). -/
def STR_TSERR_SCR : Field := { off := 0x28, hi := 31, lo := 24, acc := .rc, reset := 0 }

/-- STR_ARR_LO.DRAW (Table 15-5). -/
def STR_ARR_LO_DRAW : Field := { off := 0x30, hi := 31, lo := 0, acc := .ro, reset := 0 }

/-- STR_ARR_HI.DRAW (Table 15-5). -/
def STR_ARR_HI_DRAW : Field := { off := 0x34, hi := 31, lo := 0, acc := .ro, reset := 0 }

/-- STR_ARR_POS_LO.POS (Table 15-5). -/
def STR_ARR_POS_LO_POS : Field := { off := 0x38, hi := 31, lo := 0, acc := .ro, reset := 0 }

/-- STR_ARR_POS_HI.POS (Table 15-5). -/
def STR_ARR_POS_HI_POS : Field := { off := 0x3c, hi := 31, lo := 0, acc := .ro, reset := 0 }

/-- STR_ARR_LEN.LEN (Table 15-5). -/
def STR_ARR_LEN_LEN : Field := { off := 0x40, hi := 31, lo := 0, acc := .ro, reset := 0 }

/-- STR_AUPROD.COUNT (Table 15-5). -/
def STR_AUPROD_COUNT : Field := { off := 0x48, hi := 31, lo := 0, acc := .rw, reset := 0 }

/-- STR_AUCONS.COUNT (Table 15-5). -/
def STR_AUCONS_COUNT : Field := { off := 0x4c, hi := 31, lo := 0, acc := .ro, reset := 0 }

/-- Stream (die I, endpoints 3-18). -/
def strMap : List RegGroup :=
  [
    { base := 0x0, stride := 0x10000000, count := 1, fields := [STR_STAT_ACTIVE, STR_STAT_STALLED, STR_STAT_BUF, STR_STAT_INFLIGHT, STR_DRAW_LO_VALUE, STR_DRAW_HI_VALUE, STR_DONE_COUNT, STR_DROP_COUNT, STR_MASK_COUNT, STR_FLAG_COUNT, STR_RDFAIL_COUNT, STR_WALK_COUNT, STR_TSERR_CC, STR_TSERR_TEI, STR_TSERR_SCR] },
    { base := 0x0, stride := 0x10000000, count := 1, fields := [STR_ARR_LO_DRAW, STR_ARR_HI_DRAW, STR_ARR_POS_LO_POS, STR_ARR_POS_HI_POS, STR_ARR_LEN_LEN, STR_AUPROD_COUNT, STR_AUCONS_COUNT] } ]

/-! Keeper (die K, endpoint 0): fixer, epoch, recovery, log and power. -/

/-- FX_STAT.ACTIVE (Table 12-10). -/
def FX_STAT_ACTIVE : Field := { off := 0x900000, hi := 0, lo := 0, acc := .ro, reset := 0 }

/-- FX_STAT.SKIPPED (Table 12-10). -/
def FX_STAT_SKIPPED : Field := { off := 0x900000, hi := 1, lo := 1, acc := .ro, reset := 0 }

/-- FX_STAT.DRAINING (Table 12-10). -/
def FX_STAT_DRAINING : Field := { off := 0x900000, hi := 2, lo := 2, acc := .ro, reset := 0 }

/-- FX_STAT.DWAIT (Table 12-10). -/
def FX_STAT_DWAIT : Field := { off := 0x900000, hi := 3, lo := 3, acc := .ro, reset := 0 }

/-- FX_STAT.CKPEND (Table 12-10). -/
def FX_STAT_CKPEND : Field := { off := 0x900000, hi := 4, lo := 4, acc := .ro, reset := 0 }

/-- FX_STEP_LO.VALUE (Table 12-10). -/
def FX_STEP_LO_VALUE : Field := { off := 0x900008, hi := 31, lo := 0, acc := .ro, reset := 0, cap := some 32 }

/-- FX_STEP_HI.VALUE (Table 12-10). -/
def FX_STEP_HI_VALUE : Field := { off := 0x90000c, hi := 31, lo := 0, acc := .ro, reset := 0 }

/-- FX_UPD_LO.VALUE (Table 12-10). -/
def FX_UPD_LO_VALUE : Field := { off := 0x900010, hi := 31, lo := 0, acc := .ro, reset := 0, cap := some 32 }

/-- FX_UPD_HI.VALUE (Table 12-10). -/
def FX_UPD_HI_VALUE : Field := { off := 0x900014, hi := 31, lo := 0, acc := .ro, reset := 0 }

/-- FX_VOTE.FLAGS (Table 12-10). -/
def FX_VOTE_FLAGS : Field := { off := 0x900018, hi := 4, lo := 0, acc := .ro, reset := 0 }

/-- FX_JVOTE.FLAGS (Table 12-10). -/
def FX_JVOTE_FLAGS : Field := { off := 0x90001c, hi := 4, lo := 0, acc := .ro, reset := 0 }

/-- FX_SKIPS.COUNT (Table 12-10). -/
def FX_SKIPS_COUNT : Field := { off := 0x900020, hi := 31, lo := 0, acc := .rc, reset := 0 }

/-- FX_DWAIT_CYC.COUNT (Table 12-10). -/
def FX_DWAIT_CYC_COUNT : Field := { off := 0x900024, hi := 31, lo := 0, acc := .rc, reset := 0 }

/-- FX_CKSTEP_LO.VALUE (Table 12-10). -/
def FX_CKSTEP_LO_VALUE : Field := { off := 0x900028, hi := 31, lo := 0, acc := .ro, reset := 18446744073709551615, cap := some 32 }

/-- FX_CKSTEP_HI.VALUE (Table 12-10). -/
def FX_CKSTEP_HI_VALUE : Field := { off := 0x90002c, hi := 31, lo := 0, acc := .ro, reset := 4294967295 }

/-- PLC_EPOCH.VALUE (Table 17-6). -/
def PLC_EPOCH_VALUE : Field := { off := 0x900040, hi := 31, lo := 0, acc := .ro, reset := 0 }

/-- PLC_STALE.COUNT (Table 17-6). -/
def PLC_STALE_COUNT : Field := { off := 0x900044, hi := 31, lo := 0, acc := .rc, reset := 0 }

/-- RCV_STAT.STATE (Table 18-7). -/
def RCV_STAT_STATE : Field := { off := 0x900080, hi := 2, lo := 0, acc := .ro, reset := 0 }

/-- RCV_STAT.COORD (Table 18-7). -/
def RCV_STAT_COORD : Field := { off := 0x900080, hi := 3, lo := 3, acc := .ro, reset := 0 }

/-- RCV_STAT.RESULT (Table 18-7). -/
def RCV_STAT_RESULT : Field := { off := 0x900080, hi := 7, lo := 4, acc := .ro, reset := 0 }

/-- RCV_STAT.FSET (Table 18-7). -/
def RCV_STAT_FSET : Field := { off := 0x900080, hi := 15, lo := 8, acc := .ro, reset := 0 }

/-- RCV_STAT.ATTEMPT (Table 18-7). -/
def RCV_STAT_ATTEMPT : Field := { off := 0x900080, hi := 23, lo := 16, acc := .ro, reset := 0 }

/-- RCV_CFG.STEP_MS (Table 18-7). -/
def RCV_CFG_STEP_MS : Field := { off := 0x900084, hi := 15, lo := 0, acc := .rw, reset := 0 }

/-- RCV_CFG.REPLY_MS (Table 18-7). -/
def RCV_CFG_REPLY_MS : Field := { off := 0x900084, hi := 23, lo := 16, acc := .rw, reset := 20 }

/-- RCV_CFG.CABLE_S (Table 18-7). -/
def RCV_CFG_CABLE_S : Field := { off := 0x900084, hi := 31, lo := 24, acc := .rw, reset := 60 }

/-- RCV_CKJOB_LO.VALUE (Table 18-7). -/
def RCV_CKJOB_LO_VALUE : Field := { off := 0x900088, hi := 31, lo := 0, acc := .ro, reset := 18446744073709551615, cap := some 32 }

/-- RCV_CKJOB_HI.VALUE (Table 18-7). -/
def RCV_CKJOB_HI_VALUE : Field := { off := 0x90008c, hi := 31, lo := 0, acc := .ro, reset := 4294967295 }

/-- RCV_FOG1.ORIGIN (Table 18-7). -/
def RCV_FOG1_ORIGIN : Field := { off := 0x900090, hi := 15, lo := 0, acc := .ro, reset := 0 }

/-- RCV_FOG1.CODE (Table 18-7). -/
def RCV_FOG1_CODE : Field := { off := 0x900090, hi := 31, lo := 16, acc := .ro, reset := 0 }

/-- RCV_FOGS.COUNT (Table 18-7). -/
def RCV_FOGS_COUNT : Field := { off := 0x900094, hi := 31, lo := 0, acc := .rc, reset := 0 }

/-- RCV_COMPOUND.COUNT (Table 18-7). -/
def RCV_COMPOUND_COUNT : Field := { off := 0x900098, hi := 31, lo := 0, acc := .rc, reset := 0 }

/-- RCV_NEARMISS.COUNT (Table 18-7). -/
def RCV_NEARMISS_COUNT : Field := { off := 0x90009c, hi := 31, lo := 0, acc := .rc, reset := 0 }

/-- LOG_STAT.ENTRIES (Table 18-7). -/
def LOG_STAT_ENTRIES : Field := { off := 0x9000a0, hi := 15, lo := 0, acc := .ro, reset := 0 }

/-- LOG_STAT.STICKY (Table 18-7). -/
def LOG_STAT_STICKY : Field := { off := 0x9000a0, hi := 24, lo := 16, acc := .ro, reset := 0 }

/-- LOG_LOST.COUNT (Table 18-7). -/
def LOG_LOST_COUNT : Field := { off := 0x9000a4, hi := 31, lo := 0, acc := .rc, reset := 0 }

/-- LOG_STICKY_LOST.COUNT (Table 18-7). -/
def LOG_STICKY_LOST_COUNT : Field := { off := 0x9000a8, hi := 31, lo := 0, acc := .rc, reset := 0 }

/-- PWR_STAT.PSTATE (Table 21-9). -/
def PWR_STAT_PSTATE : Field := { off := 0x900100, hi := 1, lo := 0, acc := .ro, reset := 0 }

/-- PWR_STAT.TOLSTATE (Table 21-9). -/
def PWR_STAT_TOLSTATE : Field := { off := 0x900100, hi := 3, lo := 2, acc := .ro, reset := 0 }

/-- PWR_STAT.SRC (Table 21-9). -/
def PWR_STAT_SRC : Field := { off := 0x900100, hi := 5, lo := 4, acc := .ro, reset := 0 }

/-- PWR_STAT.VLOW (Table 21-9). -/
def PWR_STAT_VLOW : Field := { off := 0x900100, hi := 6, lo := 6, acc := .ro, reset := 0 }

/-- PWR_STAT.TRIP (Table 21-9). -/
def PWR_STAT_TRIP : Field := { off := 0x900100, hi := 7, lo := 7, acc := .ro, reset := 0 }

/-- PWR_STAT.VHIGH (Table 21-9). -/
def PWR_STAT_VHIGH : Field := { off := 0x900100, hi := 8, lo := 8, acc := .ro, reset := 0 }

/-- PWR_VIN.MV (Table 21-9). -/
def PWR_VIN_MV : Field := { off := 0x900104, hi := 31, lo := 0, acc := .ro, reset := 0 }

/-- PWR_IIN.MA (Table 21-9). -/
def PWR_IIN_MA : Field := { off := 0x900108, hi := 31, lo := 0, acc := .ro, reset := 0 }

/-- PWR_PIN.W (Table 21-9). -/
def PWR_PIN_W : Field := { off := 0x90010c, hi := 15, lo := 0, acc := .ro, reset := 0 }

/-- PWR_PIN.PC (Table 21-9). -/
def PWR_PIN_PC : Field := { off := 0x90010c, hi := 31, lo := 16, acc := .ro, reset := 0 }

/-- PWR_CAP.W (Table 21-9). -/
def PWR_CAP_W : Field := { off := 0x900110, hi := 15, lo := 0, acc := .rw, reset := 9600 }

/-- PWR_TEMP.TJ (Table 21-9). -/
def PWR_TEMP_TJ : Field := { off := 0x900114, hi := 7, lo := 0, acc := .ro, reset := 0 }

/-- PWR_TEMP.TJ_DIE (Table 21-9). -/
def PWR_TEMP_TJ_DIE : Field := { off := 0x900114, hi := 13, lo := 8, acc := .ro, reset := 0 }

/-- PWR_TEMP.TD (Table 21-9). -/
def PWR_TEMP_TD : Field := { off := 0x900114, hi := 23, lo := 16, acc := .ro, reset := 0 }

/-- PWR_TEMP.TD_DIE (Table 21-9). -/
def PWR_TEMP_TD_DIE : Field := { off := 0x900114, hi := 28, lo := 24, acc := .ro, reset := 0 }

/-- PWR_COOL.T_IN (Table 21-9). -/
def PWR_COOL_T_IN : Field := { off := 0x900118, hi := 15, lo := 0, acc := .ro, reset := 0 }

/-- PWR_COOL.T_OUT (Table 21-9). -/
def PWR_COOL_T_OUT : Field := { off := 0x900118, hi := 31, lo := 16, acc := .ro, reset := 0 }

/-- PWR_ENERGY_LO.J (Table 21-9). -/
def PWR_ENERGY_LO_J : Field := { off := 0x900120, hi := 31, lo := 0, acc := .ro, reset := 0, cap := some 32 }

/-- PWR_ENERGY_HI.J (Table 21-9). -/
def PWR_ENERGY_HI_J : Field := { off := 0x900124, hi := 31, lo := 0, acc := .ro, reset := 0 }

/-- PWR_THROT.THERM (Table 21-9). -/
def PWR_THROT_THERM : Field := { off := 0x900128, hi := 15, lo := 0, acc := .rc, reset := 0 }

/-- PWR_THROT.POWER (Table 21-9). -/
def PWR_THROT_POWER : Field := { off := 0x900128, hi := 31, lo := 16, acc := .rc, reset := 0 }

/-- PWR_TOL.US (Table 21-9). -/
def PWR_TOL_US : Field := { off := 0x90012c, hi := 31, lo := 0, acc := .ro, reset := 0 }

/-- Keeper (die K, endpoint 0): fixer, epoch, recovery, log and power. -/
def kprMap : List RegGroup :=
  [
    { base := 0x900000, stride := 0x40, count := 1, fields := [FX_STAT_ACTIVE, FX_STAT_SKIPPED, FX_STAT_DRAINING, FX_STAT_DWAIT, FX_STAT_CKPEND, FX_STEP_LO_VALUE, FX_STEP_HI_VALUE, FX_UPD_LO_VALUE, FX_UPD_HI_VALUE, FX_VOTE_FLAGS, FX_JVOTE_FLAGS, FX_SKIPS_COUNT, FX_DWAIT_CYC_COUNT, FX_CKSTEP_LO_VALUE, FX_CKSTEP_HI_VALUE] },
    { base := 0x900040, stride := 0x40, count := 1, fields := [PLC_EPOCH_VALUE, PLC_STALE_COUNT] },
    { base := 0x900080, stride := 0x80, count := 1, fields := [RCV_STAT_STATE, RCV_STAT_COORD, RCV_STAT_RESULT, RCV_STAT_FSET, RCV_STAT_ATTEMPT, RCV_CFG_STEP_MS, RCV_CFG_REPLY_MS, RCV_CFG_CABLE_S, RCV_CKJOB_LO_VALUE, RCV_CKJOB_HI_VALUE, RCV_FOG1_ORIGIN, RCV_FOG1_CODE, RCV_FOGS_COUNT, RCV_COMPOUND_COUNT, RCV_NEARMISS_COUNT, LOG_STAT_ENTRIES, LOG_STAT_STICKY, LOG_LOST_COUNT, LOG_STICKY_LOST_COUNT] },
    { base := 0x900100, stride := 0x100, count := 1, fields := [PWR_STAT_PSTATE, PWR_STAT_TOLSTATE, PWR_STAT_SRC, PWR_STAT_VLOW, PWR_STAT_TRIP, PWR_STAT_VHIGH, PWR_VIN_MV, PWR_IIN_MA, PWR_PIN_W, PWR_PIN_PC, PWR_CAP_W, PWR_TEMP_TJ, PWR_TEMP_TJ_DIE, PWR_TEMP_TD, PWR_TEMP_TD_DIE, PWR_COOL_T_IN, PWR_COOL_T_OUT, PWR_ENERGY_LO_J, PWR_ENERGY_HI_J, PWR_THROT_THERM, PWR_THROT_POWER, PWR_TOL_US] } ]

/-! Darkroom (die K, endpoint 1). -/

/-- DKR_STAT.OWNER_SET (Table 20-6). -/
def DKR_STAT_OWNER_SET : Field := { off := 0x0, hi := 0, lo := 0, acc := .ro, reset := 0 }

/-- DKR_STAT.JTAG_OPEN (Table 20-6). -/
def DKR_STAT_JTAG_OPEN : Field := { off := 0x0, hi := 1, lo := 1, acc := .ro, reset := 0 }

/-- DKR_STAT.RECOVERY (Table 20-6). -/
def DKR_STAT_RECOVERY : Field := { off := 0x0, hi := 2, lo := 2, acc := .ro, reset := 0 }

/-- DKR_STAT.IMG_VALID (Table 20-6). -/
def DKR_STAT_IMG_VALID : Field := { off := 0x0, hi := 3, lo := 3, acc := .ro, reset := 0 }

/-- DKR_STAT.SCRUB_BUSY (Table 20-6). -/
def DKR_STAT_SCRUB_BUSY : Field := { off := 0x0, hi := 4, lo := 4, acc := .ro, reset := 0 }

/-- DKR_STAT.SCRUBBED (Table 20-6). -/
def DKR_STAT_SCRUBBED : Field := { off := 0x0, hi := 5, lo := 5, acc := .ro, reset := 0 }

/-- DKR_STAT.SVN (Table 20-6). -/
def DKR_STAT_SVN : Field := { off := 0x0, hi := 22, lo := 16, acc := .ro, reset := 0 }

/-- DKR_VERFAIL.COUNT (Table 20-6). -/
def DKR_VERFAIL_COUNT : Field := { off := 0x4, hi := 31, lo := 0, acc := .rc, reset := 0 }

/-- DKR_UNLOCKFAIL.COUNT (Table 20-6). -/
def DKR_UNLOCKFAIL_COUNT : Field := { off := 0x8, hi := 31, lo := 0, acc := .rc, reset := 0 }

/-- DKR_SERIAL_LO.VALUE (Table 20-6). -/
def DKR_SERIAL_LO_VALUE : Field := { off := 0x10, hi := 31, lo := 0, acc := .ro, reset := 0 }

/-- DKR_SERIAL_HI.VALUE (Table 20-6). -/
def DKR_SERIAL_HI_VALUE : Field := { off := 0x14, hi := 31, lo := 0, acc := .ro, reset := 0 }

/-- DKR_FWMEASi.VALUE (Table 20-6). -/
def DKR_FWMEAS_VALUE (n : Nat) : Field := { off := 0x20 + 0x4 * n, hi := 31, lo := 0, acc := .ro, reset := 0 }

/-- DKR_IMGSHAi.VALUE (Table 20-6). -/
def DKR_IMGSHA_VALUE (n : Nat) : Field := { off := 0x40 + 0x4 * n, hi := 31, lo := 0, acc := .ro, reset := 0 }

/-- DKR_ROOTHASHi.VALUE (Table 20-6). -/
def DKR_ROOTHASH_VALUE (n : Nat) : Field := { off := 0x60 + 0x4 * n, hi := 31, lo := 0, acc := .ro, reset := 0 }

/-- DKR_OWNERHASHi.VALUE (Table 20-6). -/
def DKR_OWNERHASH_VALUE (n : Nat) : Field := { off := 0x80 + 0x4 * n, hi := 31, lo := 0, acc := .ro, reset := 0 }

/-- Darkroom (die K, endpoint 1). -/
def dkrMap : List RegGroup :=
  [
    { base := 0x0, stride := 0x20, count := 1, fields := [DKR_STAT_OWNER_SET, DKR_STAT_JTAG_OPEN, DKR_STAT_RECOVERY, DKR_STAT_IMG_VALID, DKR_STAT_SCRUB_BUSY, DKR_STAT_SCRUBBED, DKR_STAT_SVN, DKR_VERFAIL_COUNT, DKR_UNLOCKFAIL_COUNT, DKR_SERIAL_LO_VALUE, DKR_SERIAL_HI_VALUE] },
    { base := 0x20, stride := 0x4, count := 8, fields := [DKR_FWMEAS_VALUE 0] },
    { base := 0x40, stride := 0x4, count := 8, fields := [DKR_IMGSHA_VALUE 0] },
    { base := 0x60, stride := 0x4, count := 8, fields := [DKR_ROOTHASH_VALUE 0] },
    { base := 0x80, stride := 0x4, count := 8, fields := [DKR_OWNERHASH_VALUE 0] } ]

/-! Mailboxes and doorbells (die K, endpoint 2). -/

/-- MBX_SENDc.LEN (Table 19-12). -/
def MBX_SEND_LEN (n : Nat) : Field := { off := 0x100 + 0x1000 * n, hi := 8, lo := 0, acc := .wo, reset := 0 }

/-- MBX_DONEc.DONE (Table 19-12). -/
def MBX_DONE_DONE (n : Nat) : Field := { off := 0x104 + 0x1000 * n, hi := 0, lo := 0, acc := .wo, reset := 0 }

/-- MBX_STATc.STATE (Table 19-12). -/
def MBX_STAT_STATE (n : Nat) : Field := { off := 0x108 + 0x1000 * n, hi := 1, lo := 0, acc := .ro, reset := 0 }

/-- MBX_STATc.RESULT (Table 19-12). -/
def MBX_STAT_RESULT (n : Nat) : Field := { off := 0x108 + 0x1000 * n, hi := 3, lo := 2, acc := .ro, reset := 0 }

/-- MBX_STATc.LEN (Table 19-12). -/
def MBX_STAT_LEN (n : Nat) : Field := { off := 0x108 + 0x1000 * n, hi := 16, lo := 8, acc := .ro, reset := 0 }

/-- MBX_SRCc.UNIT (Table 19-12). -/
def MBX_SRC_UNIT (n : Nat) : Field := { off := 0x10c + 0x1000 * n, hi := 31, lo := 0, acc := .ro, reset := 0 }

/-- MBX_CFGc.RCV (Table 19-12). -/
def MBX_CFG_RCV (n : Nat) : Field := { off := 0x110 + 0x1000 * n, hi := 1, lo := 0, acc := .ro, reset := 0 }

/-- MBX_REFUSEDc.COUNT (Table 19-12). -/
def MBX_REFUSED_COUNT (n : Nat) : Field := { off := 0x114 + 0x1000 * n, hi := 31, lo := 0, acc := .rc, reset := 0 }

/-- DB_STAT.BITS (Table 19-12). -/
def DB_STAT_BITS : Field := { off := 0x20000, hi := 31, lo := 0, acc := .ro, reset := 0 }

/-- DB_MASK.MASK (Table 19-12). -/
def DB_MASK_MASK : Field := { off := 0x20004, hi := 31, lo := 0, acc := .rw, reset := 4294967295 }

/-- DB_SET.BITS (Table 19-12). -/
def DB_SET_BITS : Field := { off := 0x20008, hi := 31, lo := 0, acc := .wo, reset := 0 }

/-- DB_CLR.BITS (Table 19-12). -/
def DB_CLR_BITS : Field := { off := 0x2000c, hi := 31, lo := 0, acc := .wo, reset := 0 }

/-- MNL_STAT.BUSY (Table 19-12). -/
def MNL_STAT_BUSY : Field := { off := 0x20100, hi := 0, lo := 0, acc := .ro, reset := 0 }

/-- MNL_STAT.LONG (Table 19-12). -/
def MNL_STAT_LONG : Field := { off := 0x20100, hi := 1, lo := 1, acc := .ro, reset := 0 }

/-- MNL_STAT.PCT (Table 19-12). -/
def MNL_STAT_PCT : Field := { off := 0x20100, hi := 8, lo := 2, acc := .ro, reset := 0 }

/-- MNL_STAT.CMD (Table 19-12). -/
def MNL_STAT_CMD : Field := { off := 0x20100, hi := 31, lo := 16, acc := .ro, reset := 0 }

/-- MNL_SENDER.UNIT (Table 19-12). -/
def MNL_SENDER_UNIT : Field := { off := 0x20104, hi := 31, lo := 0, acc := .ro, reset := 0 }

/-- MNL_BUSYCNT.COUNT (Table 19-12). -/
def MNL_BUSYCNT_COUNT : Field := { off := 0x20108, hi := 31, lo := 0, acc := .rc, reset := 0 }

/-- MNL_RLOST.COUNT (Table 19-12). -/
def MNL_RLOST_COUNT : Field := { off := 0x2010c, hi := 31, lo := 0, acc := .rc, reset := 0 }

/-- MBX_LOCKLOST.COUNT (Table 19-12). -/
def MBX_LOCKLOST_COUNT : Field := { off := 0x20110, hi := 31, lo := 0, acc := .rc, reset := 0 }

/-- MBX_KRST.KEY (Table 19-12). -/
def MBX_KRST_KEY : Field := { off := 0x20200, hi := 15, lo := 0, acc := .wo, reset := 0 }

/-- Mailboxes and doorbells (die K, endpoint 2). -/
def mbxMap : List RegGroup :=
  [
    { base := 0x0, stride := 0x1000, count := 32, fields := [MBX_SEND_LEN 0, MBX_DONE_DONE 0, MBX_STAT_STATE 0, MBX_STAT_RESULT 0, MBX_STAT_LEN 0, MBX_SRC_UNIT 0, MBX_CFG_RCV 0, MBX_REFUSED_COUNT 0] },
    { base := 0x20000, stride := 0x1000, count := 1, fields := [DB_STAT_BITS, DB_MASK_MASK, DB_SET_BITS, DB_CLR_BITS, MNL_STAT_BUSY, MNL_STAT_LONG, MNL_STAT_PCT, MNL_STAT_CMD, MNL_SENDER_UNIT, MNL_BUSYCNT_COUNT, MNL_RLOST_COUNT, MBX_LOCKLOST_COUNT, MBX_KRST_KEY] } ]

/-! Clock and timestamp unit (die K, endpoint 3). -/

/-- CLK_STAT.ROOT_LOCK (Table 1-5). -/
def CLK_STAT_ROOT_LOCK : Field := { off := 0x0, hi := 0, lo := 0, acc := .ro, reset := 0 }

/-- CLK_STAT.STEP (Table 1-5). -/
def CLK_STAT_STEP : Field := { off := 0x0, hi := 2, lo := 1, acc := .ro, reset := 0 }

/-- CLK_STAT.THROTTLED (Table 1-5). -/
def CLK_STAT_THROTTLED : Field := { off := 0x0, hi := 3, lo := 3, acc := .ro, reset := 0 }

/-- CLK_STAT.STEP_CHANGES (Table 1-5). -/
def CLK_STAT_STEP_CHANGES : Field := { off := 0x0, hi := 31, lo := 16, acc := .rc, reset := 0 }

/-- TS_LO.VALUE (Table 1-5). -/
def TS_LO_VALUE : Field := { off := 0x8, hi := 31, lo := 0, acc := .ro, reset := 0, cap := some 32 }

/-- TS_HI.VALUE (Table 1-5). -/
def TS_HI_VALUE : Field := { off := 0xc, hi := 31, lo := 0, acc := .ro, reset := 0 }

/-- TSOFF_LO.VALUE (Table 16-10). -/
def TSOFF_LO_VALUE : Field := { off := 0x10, hi := 31, lo := 0, acc := .ro, reset := 0, cap := some 32 }

/-- TSOFF_HI.VALUE (Table 16-10). -/
def TSOFF_HI_VALUE : Field := { off := 0x14, hi := 31, lo := 0, acc := .ro, reset := 0 }

/-- TSJ_LO.VALUE (Table 16-10). -/
def TSJ_LO_VALUE : Field := { off := 0x18, hi := 31, lo := 0, acc := .ro, reset := 0, cap := some 32 }

/-- TSJ_HI.VALUE (Table 16-10). -/
def TSJ_HI_VALUE : Field := { off := 0x1c, hi := 31, lo := 0, acc := .ro, reset := 0 }

/-- Clock and timestamp unit (die K, endpoint 3). -/
def clkMap : List RegGroup :=
  [
    { base := 0x0, stride := 0x10, count := 1, fields := [CLK_STAT_ROOT_LOCK, CLK_STAT_STEP, CLK_STAT_THROTTLED, CLK_STAT_STEP_CHANGES, TS_LO_VALUE, TS_HI_VALUE] },
    { base := 0x10, stride := 0x10, count := 1, fields := [TSOFF_LO_VALUE, TSOFF_HI_VALUE, TSJ_LO_VALUE, TSJ_HI_VALUE] } ]

/-! SMBus target (die K, endpoint 4). -/

/-- SB_STAT.STAGE (Table 22-8). -/
def SB_STAT_STAGE : Field := { off := 0x0, hi := 3, lo := 0, acc := .ro, reset := 0 }

/-- SB_STAT.HALTED (Table 22-8). -/
def SB_STAT_HALTED : Field := { off := 0x0, hi := 4, lo := 4, acc := .ro, reset := 0 }

/-- SB_STAT.FAULT (Table 22-8). -/
def SB_STAT_FAULT : Field := { off := 0x0, hi := 5, lo := 5, acc := .ro, reset := 0 }

/-- SB_STAT.PWR_OK (Table 22-8). -/
def SB_STAT_PWR_OK : Field := { off := 0x0, hi := 6, lo := 6, acc := .ro, reset := 0 }

/-- SB_STAT.BRIDGE (Table 22-8). -/
def SB_STAT_BRIDGE : Field := { off := 0x0, hi := 7, lo := 7, acc := .ro, reset := 0 }

/-- SB_STAT.SLOT (Table 22-8). -/
def SB_STAT_SLOT : Field := { off := 0x0, hi := 10, lo := 8, acc := .ro, reset := 0 }

/-- SB_RSTCNT.WARM (Table 22-8). -/
def SB_RSTCNT_WARM : Field := { off := 0x4, hi := 15, lo := 0, acc := .rc, reset := 0 }

/-- SB_RSTCNT.COLD (Table 22-8). -/
def SB_RSTCNT_COLD : Field := { off := 0x4, hi := 31, lo := 16, acc := .rc, reset := 0 }

/-- SB_SMBERR.COUNT (Table 22-8). -/
def SB_SMBERR_COUNT : Field := { off := 0x8, hi := 31, lo := 0, acc := .rc, reset := 0 }

/-- SMBus target (die K, endpoint 4). -/
def sbMap : List RegGroup :=
  [
    { base := 0x0, stride := 0x10000000, count := 1, fields := [SB_STAT_STAGE, SB_STAT_HALTED, SB_STAT_FAULT, SB_STAT_PWR_OK, SB_STAT_BRIDGE, SB_STAT_SLOT, SB_RSTCNT_WARM, SB_RSTCNT_COLD, SB_SMBERR_COUNT] } ]

end Reg

end Sys2Proof.Machine
end

