-- ==== Sys2Proof/Machine/State.lean ====
section
/-!
DEFINITION. The state of the block as plain data, and the state after reset. Registers that software can read live in
`regs`, one entry a field; what the units hold beside their registers lives in the records below, one a unit.
-/
namespace Sys2Proof.Machine

/-- Why the block stops with a fault. The block answers every access and every failing command with the error the
specification gives it, so no command ends in a fault. -/
inductive Fault where
  /-- Raised by no command: every error that the specification names is an answer, a log entry or a halt of a unit,
  each of them part of a next state. Safe. -/
  | unused
  deriving DecidableEq, Repr

/-- Why a command is refused. -/
inductive Refusal where
  /-- Raised by the dispatch for a row that has no meaning yet. Safe: nothing can be proved of a run past it. -/
  | notModelled (mnemonic : String)
  /-- Raised by BUNDLE_ISSUE on a bundle whose slots hold a reserved opcode or operand code, which the specification
  gives no effect and keeps out of every loaded image (R225). Safe. -/
  | reservedBundle
  deriving DecidableEq, Repr

/-! ### The core: sequencer, cubes, matrix-vector unit, vector unit, drain -/

/-- The state of a tag (R228). A tag that holds an error holds the halt cause its engine logged (R230). -/
inductive TagSt where
  | free | out | done | err (cause : Nat)
  deriving DecidableEq, Repr

/-- One slice as the operand path holds it: sixteen rows, each its scale byte and its element bytes (R63, R64). -/
structure Slice where
  rows : List (Nat × List Byte)
  deriving DecidableEq, Repr

/-- The empty slice. -/
def Slice.empty : Slice := ⟨[]⟩

/-- How a cube issue's chunk is added: exact sum with one rounding (R56), one product at a time (R58), or integers
(R59). -/
inductive ChunkKind where
  | exact | seq | int
  deriving DecidableEq, Repr

/-- A chunk on its way into an accumulator tile: the sixteen A rows, and for each of the sixteen columns the products'
K positions and B values in the order of their addition. -/
structure Chunk where
  kind : ChunkKind
  a : List (List Num)
  b : List (List (Nat × Num))
  deriving DecidableEq, Repr

/-- A cube issue in flight (R76): the cycle in which it becomes valid, its tile, FIRST and its chunks. -/
structure CubeOp where
  due : Nat
  tile : Nat
  first : Bool
  chunks : List Chunk
  deriving DecidableEq, Repr

/-- An MX group being assembled: the cycle of its last access, its format code, for a stationary group the place of its
first slice, and its bytes (R71, R219). -/
structure GroupAsm where
  cyc : Nat
  fmt : Nat
  pos : Nat
  bytes : List Byte
  deriving DecidableEq, Repr

/-- One streamed operand of a cube: the reads of this cycle and the one before, newest first, the group being assembled,
the groups held (R219), and whether a broken sequence awaits its halt. -/
structure StreamSt where
  pairs : List (Nat × List Byte) := []
  asm : Option GroupAsm := none
  groups : List (List Slice) := []
  bad : Bool := false
  deriving DecidableEq, Repr

/-- A sparse tile being run on a cube (R102): its first read's offset, its issues so far, the bytes read, and the first
issue's tile, FIRST bit, set and slice position. -/
structure SparseRun where
  addr : Nat
  issues : Nat
  total : Nat
  bytes : List Byte
  tile : Nat
  first : Bool
  set : Nat
  spos : Nat
  deriving DecidableEq, Repr

/-- One cube (R66 to R76, R218, R219). A mode set in a cycle waits in `modeNext` with the cycle from which it holds.
Stationary slices are keyed by 32 times the set plus the position; a load waits in `sload` with the cycle from which it is
usable. `acc` holds a tile's 256 elements row by row; `cls` is 1 for FP32, 2 for INT32; `sats` counts the saturating
additions that no drain start has reported. -/
structure CubeSt where
  afmt : Nat := 0
  bfmt : Nat := 0
  sparse : Bool := false
  modeNext : Option (Nat × Nat × Nat × Bool) := none
  opA : StreamSt := {}
  opB : StreamSt := {}
  stat : SMap Slice := []
  sload : List (Nat × Nat × Slice) := []
  statAsm : List GroupAsm := []
  acc : SMap (List Nat) := []
  cls : SMap Nat := []
  sats : SMap Nat := []
  ops : List CubeOp := []
  run : Option SparseRun := none
  deriving DecidableEq, Repr

/-- A matrix-vector issue in flight (R80): due cycle, band, FIRST, and for each selected vector the chunks of products of
its sixteen outputs. -/
structure MvOp where
  due : Nat
  band : Nat
  first : Bool
  kind : ChunkKind
  vmask : Nat
  chunks : List (List (List (List Num)))
  deriving DecidableEq, Repr

/-- The matrix-vector unit (R77 to R80): its vector buffer, accumulator, next K position per band, weight group under
assembly and vector loads not yet usable. -/
structure MvSt where
  vec : SMap (List Nat) := []
  vload : List (Nat × Nat × List Nat) := []
  acc : SMap (List Nat) := []
  kpos : SMap Nat := []
  asm : Option (Nat × Bool × List Byte) := none
  ops : List MvOp := []
  deriving DecidableEq, Repr

/-- One register result of the vector unit: a vector register with the lanes it writes, or a predicate. -/
inductive VuWrite where
  | vec (reg : Nat) (lanes : List (Option Nat))
  | pred (reg : Nat) (bits : Nat) (mask : Nat)
  deriving DecidableEq, Repr

/-- Register results on their way in the vector unit (R82). -/
structure VuOp where
  due : Nat
  writes : List VuWrite
  deriving DecidableEq, Repr

/-- A drain start in flight (R84 to R86). `acc` holds the tile's elements as FP32 bits, row by row; `scaleAt` is the
place of a scale read that falls in cycle d + 1. -/
structure DrainOp where
  d : Nat
  epi : Nat
  k : Nat
  rows : Nat
  acc : List Nat
  sats : Nat
  out : Nat
  sbuf : Nat
  close : Bool
  org : Nat
  side : List Nat
  scale : List Nat
  bias : List Nat
  scaleAt : Option Nat
  deriving DecidableEq, Repr

/-- One drained tile in a strip buffer: its 256 results of step 5, its origin, its rows, and which elements have reported
a NONFINITE event already. -/
structure BandTile where
  vals : List Nat
  org : Nat
  rows : Nat
  told : List Bool
  deriving DecidableEq, Repr

/-- One strip buffer (R88): the group's address and epilogue record, how many starts it took, the tiles collected, and
the cycle from which its group may be written once it is complete or closed. -/
structure BandSt where
  out : Nat
  epi : Nat
  starts : Nat
  tiles : List BandTile
  ready : Option Nat
  deriving DecidableEq, Repr

/-- A group write under way: the strip buffer, the cycle from which it may go, and its accesses left. -/
structure GroupWrite where
  sbuf : Nat
  since : Nat
  parts : List (Nat × List Byte)
  deriving DecidableEq, Repr

/-- The drain (R84 to R90, R525). -/
structure DrainSt where
  epi : SMap Nat := []
  k : Nat := 0
  ops : List DrainOp := []
  bands : SMap (Option BandSt) := []
  writes : List GroupWrite := []
  deriving DecidableEq, Repr

/-- A barrier as one core holds it (R235): the generation of its next BAR, the tag of the one under way, and the
arrivals received as pairs of generation and leaf. -/
structure BarrierSt where
  gen : Nat := 0
  tag : Option Nat := none
  got : List (Nat × Nat) := []
  deriving DecidableEq, Repr

/-- A transfer from its issue to the return of its tag (R177, R178): its descriptor once it has arrived, and whether it
has started. `stack` marks a transfer of the stack unit, whose descriptor holds the virtual address of its payload as
BASE, and `last` the last one of a frame; `moved` says that its data has been moved and only its tag is kept back.
`held` lists the writes of one that awaits their answers, with the virtual address of each: a commit of a mailbox channel
(R446), named by the channel, or a post to a stage queue (R410), named by `postKey`. `tiles` and `pos` are the sparse tiles
done and the bytes they take (R184); `buf` and `copies` are the data of a multicast and the places in its leaf list that have
their copy (R174). `snap` holds the bytes of this module's memory that the transfer reads as they stood when it was issued
(R183), by address. -/
structure Xfer where
  ring : Nat
  desc : Option Nat
  started : Bool := false
  stack : Bool := false
  last : Bool := false
  moved : Bool := false
  held : List (Nat × Nat) := []
  tiles : Nat := 0
  pos : Nat := 0
  buf : Option (List Byte) := none
  copies : List Nat := []
  snap : Option (List Host.Cell) := none
  deriving DecidableEq, Repr

/-- An instruction load in flight (R210): tag, source address, first bundle and count. -/
structure Iload where
  tag : Nat
  src : Nat
  dst : Nat
  count : Nat
  deriving DecidableEq, Repr

/-- A STACK issue queued on the stack unit (R273, R274): push or pop, ring, transfer count, S[SL], the descriptors that
have arrived for it, and once it runs the frame's offset and payload size. -/
structure StackOp where
  pop : Bool
  ring : Nat
  count : Nat
  sl : Nat
  descs : List Nat := []
  run : Option (Nat × Nat) := none
  failed : Bool := false
  deriving DecidableEq, Repr

/-- One core's units beside their registers. -/
structure CoreSt where
  sreg : SMap Nat := []
  spend : List (Nat × Nat × Nat) := []
  vreg : SMap (List Nat) := []
  preg : SMap Nat := []
  vops : List VuOp := []
  tags : SMap TagSt := []
  loops : List (Nat × Nat × Nat) := []
  nextDue : Nat := 0
  atEnd : Bool := false
  cubes : SMap CubeSt := []
  mv : MvSt := {}
  drain : DrainSt := {}
  barGroup : SMap Nat := []
  bars : SMap BarrierSt := []
  mcset : SMap Nat := []
  fetched : SMap (List Nat) := []
  xfers : List Xfer := []
  iloads : List Iload := []
  stk : List StackOp := []
  hasCode : Bool := false
  appRegions : List (Nat × Nat) := []
  deriving DecidableEq, Repr

/-! ### The error log and the recovery state (18_faults_and_relief) -/

/-- One entry of the error log (Table 18-1). -/
structure LogEntry where
  code : Nat
  cls : Nat
  fogged : Bool
  reps : Nat
  unit : Nat
  time : Nat
  step : Nat
  seq : Nat
  epoch : Nat
  d0 : Nat
  d1 : Nat
  d2 : Nat
  d3 : Nat
  deriving DecidableEq, Repr

/-- A fog signal (Table 18-5). -/
structure Fog where
  origin : Nat
  suspect : Nat
  code : Nat
  kind : Nat
  port : Nat
  hops : Nat
  epoch : Nat
  fseq : Nat
  step : Nat
  time : Nat
  deriving DecidableEq, Repr

/-- The error log, its sticky store, and what the keeper holds of fog signals. Entries stand newest first. -/
structure LogSt where
  ring : List LogEntry := []
  sticky : List LogEntry := []
  seq : Nat := 0
  fogSeq : Nat := 0
  seen : List (Nat × Nat) := []
  faults : List (Nat × Nat) := []
  deriving DecidableEq, Repr

/-! ### Gather-merge engines and application cores -/

/-- An operation that a gather-merge engine runs: the launching core, the descriptor's address and contents (Table 5-1,
as a 512-bit number), whether its rows have been moved, and the fault it met: error code, position and value. -/
structure GmeRun where
  core : Nat
  addr : Nat
  desc : Nat
  moved : Bool
  fault : Option (Nat × Nat × Nat)
  deriving DecidableEq, Repr

/-- A gather-merge engine (R114): its launch queue, oldest first, as pairs of core and descriptor address, and the
operation under way. -/
structure GmeSt where
  queue : List (Nat × Nat) := []
  run : Option GmeRun := none
  deriving DecidableEq, Repr

/-- A monitor service that an application core waits in (R366): 1 DB_WAIT, 2 ARR_WAIT; its mask and its limit in MCLK. -/
structure MonWait where
  service : Nat
  mask : Nat
  limit : Nat
  deriving DecidableEq, Repr

/-- An application core (R364 to R368): whether the job gives it a program, its program's header, the registers that
start and monitor services set (the program counter and x2 at the start, and a0), and its pending wait. -/
structure AppSt where
  prog : Bool := false
  entry : Nat := 0
  sp : Nat := 0
  arg : Nat := 0
  slots : Nat := 0
  pc : Nat := 0
  x2 : Nat := 0
  a0 : Nat := 0
  wait : Option MonWait := none
  deriving DecidableEq, Repr

/-! ### Stage queues (17_multi_module_jobs R409 to R413) -/

/-- A post to a send queue: its number, source address, micro-batch number and the SRC of the store. -/
structure Post where
  n : Nat
  va : Nat
  mb : Nat
  src : Nat
  deriving DecidableEq, Repr

/-- A stage queue in one direction: its record (Table 17-2); for a send queue its posts not yet sent, those sent and not
complete, how many were posted and sent, and the released count the partner told; for a receive queue the ring's address,
the entries arrived and released, the micro-batch number by slot, and the loads that wait, as entry number and SRC. -/
structure StageQ where
  live : Bool := false
  esize : Nat := 0
  depth : Nat := 0
  poster : Nat := 0
  ring : Nat := 0
  posts : List Post := []
  sending : List Post := []
  posted : Nat := 0
  sent : Nat := 0
  freed : Nat := 0
  arrived : Nat := 0
  released : Nat := 0
  mbs : SMap Nat := []
  waits : List (Nat × Nat) := []
  deriving DecidableEq, Repr

/-! ### Gradient reduction (13_gradient_reduction) -/

/-- A reduction layer entry with its ring list (R314). -/
structure RedEnt where
  ring : List Nat
  nelem : Nat
  npart : Nat
  head : Nat
  nsrc : Nat
  stage : Nat
  sums : Nat
  deriving DecidableEq, Repr

/-- A flag word (Table 13-2). -/
structure FlagWord where
  flags : Nat
  layer : Nat
  ramax : Nat
  step : Nat
  hops : Nat
  deriving DecidableEq, Repr

/-- A layer in reduction at this module. `inbox` holds the sums of segments received and not yet used, `sent` the segments
forwarded or written, `own` the event flags and largest magnitude of the module's own contributions by chunk, `wordIn` and
`wordsDone` the flag words received and passed on by chunk, `final` the word that its own chunk ended with. `samples` are
the sums of the sampled elements that it formed itself, `childTot` and `childWord` what came up the tree by child
position, `down` the totals that came down, all by rank among the sampled elements. Sums are 48-bit patterns. -/
structure RedLayer where
  inbox : SMap (List Nat) := []
  sent : List Nat := []
  own : SMap (Nat × Nat) := []
  wordIn : List (Nat × FlagWord) := []
  wordsDone : List Nat := []
  final : Option FlagWord := none
  samples : Option (SMap Nat) := none
  childTot : SMap (SMap Nat) := []
  childWord : List (Nat × FlagWord) := []
  upSent : Bool := false
  upWord : Bool := false
  down : SMap Nat := []
  compared : Bool := false
  stored : Option FlagWord := none
  fault : Bool := false
  deriving DecidableEq, Repr

/-- The reduction units: the ring table's entries by layer, ready words counted by layer, the layers started in start
order, and their progress. -/
structure RedSt where
  ents : List (Nat × RedEnt) := []
  ready : SMap Nat := []
  order : List Nat := []
  layers : SMap RedLayer := []
  deriving DecidableEq, Repr

/-! ### The update engines (12_update_and_fixer) -/

/-- An update engine: the records of its list (0 where its die has none), its next or current record, whether that record runs, whether a fault has stopped it, and its partial
sums by layer as FP64 bits of the sums for GNORM, WNORM and UNORM (R298). -/
structure UeSt where
  recs : Nat := 0
  next : Nat := 0
  busy : Bool := false
  stopped : Bool := false
  sums : SMap (Nat × Nat × Nat) := []
  deriving DecidableEq, Repr

/-! ### Video ingest (14_video_ingest_developer) -/

/-- An access unit taken from a sample's bytes: its stream byte position, whether it is a random access point, whether it is
marked corrupt, and its bytes. -/
structure AccUnit where
  pos : Nat
  key : Bool
  corrupt : Bool
  data : List Byte
  deriving DecidableEq, Repr

/-- The demultiplexer's place in a run of transport-stream bytes (R339): the next byte, the packet pitch (0 while it looks
for sync), the last continuity_counter of the filtered PID and whether it was repeated, the PIDs that PAT named for PMT
sections, and the access unit being assembled. -/
structure TsSt where
  pos : Nat := 0
  pitch : Nat := 0
  cc : Option (Nat × Bool) := none
  pmts : List Nat := []
  open_ : Option AccUnit := none
  deriving DecidableEq, Repr

/-- What has been decoded of a run of access units: the units, whether no more will come, the displayed frames decoded and
those flagged, whether frames were missing at the end, whether a bitstream error has been logged, and whether a record
outside the sample's bytes has flagged all its frames (15_application_cores R372). -/
structure DecodeSt where
  units : List AccUnit := []
  ended : Bool := false
  frames : Nat := 0
  flagged : List Nat := []
  trunc : Bool := false
  told : Bool := false
  spoiled : Bool := false
  deriving DecidableEq, Repr

/-- A sample in preparation (R337, R343 to R351): its draw, step, batch slot, sample or clip number, table entry, place in
the window, READ requests sent and not complete, attempts that failed, and whether its bytes are all in the window, its
read has failed for good, or it is too long to be read; then its decoding, the kept frames tensorized, those that the crop
does not fit, and the events held with the slot by unit. -/
structure Sample where
  draw : Nat
  step : Nat
  slot : Nat
  index : Nat
  src : Nat
  pid : Nat
  skip : Nat
  off : Nat
  len : Nat
  base : Nat
  sent : Nat := 0
  left : Nat := 0
  fails : Nat := 0
  arrived : Bool := false
  readFail : Bool := false
  tooLong : Bool := false
  ts : TsSt := {}
  dec : DecodeSt := {}
  kept : List Nat := []
  bad : List Nat := []
  ev : List (Nat × Events) := []
  deriving DecidableEq, Repr

/-- A stream slot: its record (Table 14-3, as a 1024-bit number), its draw number, its window's address and size with the
counts of R338 and the extents received beyond PROD, the address of its access-unit ring, whether a failed read holds it,
the step and batch slot that its next sample fills, its samples, the batch slots written by step, the events held for
steps not yet released, and for a window stream the demultiplexing and decoding that run on across samples and the frames
discarded before clip `clip0`. -/
structure StreamRun where
  rec_ : Nat
  draw : Nat := 0
  wbase : Nat := 0
  wsize : Nat := 0
  prod : Nat := 0
  cons : Nat := 0
  extents : List (Nat × Nat) := []
  auBase : Nat := 0
  stalled : Bool := false
  step : Nat := 0
  slot : Nat := 0
  samples : List Sample := []
  written : List (Nat × Nat) := []
  held : List (Nat × Nat × Events) := []
  ts : TsSt := {}
  dec : DecodeSt := {}
  clip0 : Nat := 0
  skip0 : Nat := 0
  deriving DecidableEq, Repr

/-- A READ request that a queue pair has outstanding: the stream slot and draw it serves, its offset in the sample and
length, its first PSN, how many response packets it takes, how many have come, and its retries of each kind. -/
structure ReadReq where
  slot : Nat
  draw : Nat
  off : Nat
  len : Nat
  psn : Nat
  packets : Nat
  got : Nat := 0
  retries : Nat := 0
  rnrs : Nat := 0
  deriving DecidableEq, Repr

/-- A queue pair (R334, R335): 0 Reset, 1 Ready-to-Send, 2 Error; the next PSN sent and the PSN expected of WRITEs; the
source entry it takes from the sample table (Table 14-2, as a 512-bit number); the outstanding READs; and when it last
sent a CNP. -/
structure QueuePair where
  st : Nat := 0
  psn : Nat := 0
  exp : Nat := 0
  entry : Nat := 0
  reads : List ReadReq := []
  cnp : Option Nat := none
  deriving DecidableEq, Repr

/-- What the INGEST section gives an Ethernet port (R341): IPv4 and IPv6 address, and its VLAN, PCP and PFC word. -/
structure EthPort where
  ip4 : Nat := 0
  ip6 : Nat := 0
  word : Nat := 0
  deriving DecidableEq, Repr

/-! ### Accesses on the way -/

/-- An access of a package-network packet or fabric transaction: its SRC, its target address (R190), the bytes to write, or
how many to read, and the group address that its response carries as its sender, 0 for none (R23). -/
structure Txn where
  src : Nat
  taddr : Nat
  data : Option (List Byte)
  len : Nat
  group : Nat := 0
  deriving DecidableEq, Repr

/-- An arbitrated request that waits at a scratchpad (R145, R146): the access, its offset, how many CCLK it has waited,
whether it is promoted, and the group address that its response carries as its sender, 0 for none (R23). -/
structure ArbReq where
  src : Nat
  off : Nat
  data : Option (List Byte)
  len : Nat
  waited : Nat
  promoted : Bool
  group : Nat := 0
  deriving DecidableEq, Repr

/-- A scratchpad's arbiter: the requests in order of arrival, for each bank and class the requester granted last, and the
banks whose two-cycle write takes the coming CCLK (R147). `own` counts by class the accesses of engines that have been
served with their command and whose waits SP_STALL does not show yet, `prom` those that SP_PROMOTE does not show yet
(assumption 29); `rows` is the row at which each bank's scrubber stands (R157). -/
structure ArbSt where
  reqs : List ArbReq := []
  last : SMap Nat := []
  held : List Nat := []
  own : SMap Nat := []
  prom : Nat := 0
  rows : SMap Nat := []
  deriving DecidableEq, Repr

/-- A translation unit's cache (R196), most recently used first: leaves of 2 MiB and of 1 GiB by page number, and
non-leaf entries by level and index path. -/
structure TuSt where
  small : List (Nat × Nat) := []
  big : List (Nat × Nat) := []
  mid : List (Nat × Nat) := []
  deriving DecidableEq, Repr

/-! ### Fabric ports -/

/-- A beacon block (Table 16-4). -/
structure Beacon where
  modId : Nat
  kok : Bool
  prov : Nat
  epoch : Nat
  tSend : Nat
  tLastRx : Nat
  tLastTx : Nat
  tsoff : Nat
  deriving DecidableEq, Repr

/-- A fabric port beside its registers (R378 to R386). KOK of the module's beacons (R385), and the flits sent since the last
write of FAB_INJ_CFG (R397). The sender: flits waiting, each with the port whose receive buffer holds it where it is in
transit; the next SEQ; the replay buffer, oldest first, and the place from which a replay goes on; the SEQ at which the
latest replays started and how many have started there; per VC the flits sent and the partner's count of freed flits; a
flit exchanged with the next one. The receiver: the SEQ expected next, whether a NAK was sent for it, and per VC the flits
accepted and freed; the flits accepted since the last ACK was sent. What the next LINK flit carries. Whether the port
retrains, and when it began its retrains. The last beacon with the time it came, and how many in a row showed KOK = 0. When
each protocol code was last logged. -/
structure PortSt where
  kok : Bool := false
  injN : Nat := 0
  tx : List (Flit × Option Nat) := []
  seq : Nat := 0
  replay : List (Nat × Flit) := []
  again : Option Nat := none
  start : Nat × Nat := (0, 0)
  spent : SMap Nat := []
  credit : SMap Nat := []
  swap : Option (Nat × Flit × Bool) := none
  exp : Nat := 0
  naked : Bool := false
  got : SMap Nat := []
  freed : SMap Nat := []
  unacked : Nat := 0
  nakDue : Bool := false
  credDue : Bool := false
  idDue : Bool := false
  answer : Option (Nat × Nat) := none
  training : Bool := false
  retrains : List Nat := []
  bcn : Option Beacon := none
  bcnAt : Nat := 0
  dead : Nat := 0
  told : List (Nat × Nat) := []
  heldSeg : Nat := 0
  deriving DecidableEq, Repr

/-- What the keeper holds of discovery (R391): the number it served last, whether it is the root, the offers collected as
hops, serial and port, its hops, the port to its parent, whether its own offers are out, its children's ports and their
reports, and whether it has reported; then its tree routes: the port to its parent, and its children's ranges as port,
first id and size. -/
structure DiscSt where
  num : Nat := 0
  root : Bool := false
  collecting : Bool := false
  offers : List (Nat × Nat × Nat) := []
  hops : Nat := 0
  parent : Option Nat := none
  offered : Bool := false
  kids : List Nat := []
  reports : List (Nat × List TopoRec) := []
  reported : Bool := false
  up : Option Nat := none
  down : List (Nat × Nat × Nat) := []
  deriving DecidableEq, Repr

/-! ### The keeper -/

/-- The job states of R461. -/
inductive JobState where
  | noJob | loaded | running | stopped
  deriving DecidableEq, Repr

/-- A declared region of the job as this module's keeper needs it (10_tiling_job_images Table 10-7): its id, kind,
permissions, virtual base and size, and the target addresses that it lies at as address and size. -/
structure Region where
  id : Nat
  kind : Nat
  perms : Nat
  base : Nat
  size : Nat
  spans : List (Nat × Nat)
  deriving DecidableEq, Repr

/-- The job that the module holds (R461, R464, R393). `appChans` marks the mailbox channels that the loaded job gives to
application cores (R444); `sha` and `crc` are the image's digests, `over` is OVERSHAPE (R260), and `restored` says that a
RESTORE has set the step. -/
structure JobSt where
  st : JobState := .noJob
  dirty : Bool := false
  modId : Nat := 0x7FFF
  nmod : Nat := 0
  nlayer : Nat := 0
  seed : Nat := 0
  appChans : Nat := 0
  sha : List Byte := []
  crc : Nat := 0
  imgAddr : Nat := 0
  imgSize : Nat := 0
  ovr : Nat := 0
  restored : Bool := false
  regions : List Region := []
  deriving DecidableEq, Repr

/-- A vote or a decision (Table 12-3): its step, flags, count and amax words. -/
structure Vote where
  step : Nat
  flags : Nat
  count : Nat
  amax : List Nat
  deriving DecidableEq, Repr

/-- The step machinery beside its registers (R300 to R303): the flags of events reported in the step, the units that have
logged each, this module's own vote once it is formed, the votes received by child, whether the combined vote has been
sent, the decision that waits for a drain, the job times of the step's release and of the decision, and whether the step watchdog runs (R430). -/
structure FixSt where
  flags : Nat := 0
  logged : List (Nat × Nat) := []
  own : Option Vote := none
  votes : List (Nat × Vote) := []
  sent : Bool := false
  decision : Option Vote := none
  released : Nat := 0
  decided : Nat := 0
  watch : Bool := false
  deriving DecidableEq, Repr

/-- A checkpoint request (R468): its destination, and where its notices go. -/
structure CkReq where
  kind : Nat
  dest : Nat
  size : Nat
  ctrl : Nat
  rch : Nat
  seq : Nat
  sender : Nat
  prov : Bool
  deriving DecidableEq, Repr

/-- A drain that runs (R307, R469): its request, the checkpoint's step and bytes, for a host ring the pages written, and
the code of a fault that it has met (0 for none). -/
structure CkDrain where
  req : CkReq
  step : Nat
  data : List Byte
  pages : Nat := 0
  fault : Nat := 0
  deriving DecidableEq, Repr

/-- Checkpoints (R305 to R307, R434, R436): the request that awaits its vote, the one that the vote of this step carried,
the snapshot in the reserved region (assumption 199) with its step, the drain that runs, the step of the last drain completed, the steps
that the children of the vote tree have reported, and the destinations of the last two drained checkpoints. -/
structure CkSt where
  req : Option CkReq := none
  voted : Option CkReq := none
  snap : List Byte := []
  drain : Option CkDrain := none
  last : Option Nat := none
  kids : List (Nat × Nat) := []
  dests : List CkReq := []
  deriving DecidableEq, Repr

/-! ### Minil (19_keeper_minil) -/

/-- A Minil message as the keeper copies it (Table 19-2): its payload is what LEN gives. -/
structure Minil where
  cmd : Nat
  seq : Nat
  status : Nat
  sender : Nat
  reply : Bool
  rch : Nat
  prov : Bool
  payload : List Byte
  deriving DecidableEq, Repr

/-- A reply or notice that is not yet taken (R456): the module it goes to, whether that is a provisional id, the channel,
the bytes, and how often it has been resent. -/
structure OutMsg where
  dst : Nat
  prov : Bool
  chan : Nat
  data : List Byte
  tries : Nat := 0
  deriving DecidableEq, Repr

/-- A command that the keeper has sent to another module's keeper and whose reply it awaits (R457): its SEQ, the module,
whether that is a provisional id, its CMD, and the member of the fault set or the module for which it was sent. -/
structure Ask where
  seq : Nat
  dst : Nat
  prov : Bool
  cmd : Nat
  member : Nat
  deriving DecidableEq, Repr

/-- What the keeper's firmware holds of Minil: the channel it took last, the long command that runs (R458), the messages on
their way, and the commands it has sent with the SEQ of the next one. -/
structure KeeperSt where
  last : Nat := 7
  run : Option Minil := none
  msgs : List OutMsg := []
  asks : List Ask := []
  seq : Nat := 0
  deriving DecidableEq, Repr

/-- Recovery (18_faults_and_relief R437 to R440): the links of the fault set as suspect, origin and port; the halts of this
recovery and those of the last resumed one as code, unit and step. For the coordinator: the relief list, the step in
progress, the modules whose answers it awaits, the checkpoint steps answered, T, the assignments as member and relief, the
member whose relief is to be cabled, reliefs that are not offered again, and whether a fault has begun a new attempt. -/
structure RecSt where
  links : List (Nat × Nat × Nat) := []
  halts : List (Nat × Nat × Nat) := []
  oldHalts : List (Nat × Nat × Nat) := []
  reliefs : List Nat := []
  step : Nat := 0
  waiting : List Nat := []
  steps : List Nat := []
  t : Nat := 0
  assigned : List (Nat × Nat) := []
  cabled : List Nat := []
  failed : List Nat := []
  again : Bool := false
  deriving DecidableEq, Repr

/-! ### Reset, power, the darkroom and the sideband -/

/-- The darkroom (20_darkroom_security): its fuses, the flash's image region (a byte beyond the list is erased), the image
or record that FW_STAGE has staged in the reserved region of stack C0, and the last challenge. -/
structure DkrSt where
  fuse : Config.Fuses := Config.fuses
  flash : List Byte := Config.firmware
  staged : Option (List Byte) := none
  chal : Option (List Byte) := none
  deriving DecidableEq, Repr

/-- Reset and start-up (22_connectors_startup): whether power good holds; while MOD_RST_N is low, the stage that it
interrupted; what the start-up follows (0 power good, 1 cold, 2 warm, 3 keeper reset); RESET_CAUSE; what drives FAULT_N low
(R509: 1 fuses, 2 loss of lock, 3 thermal trip, 4 a failed stage); and whether SMB_ALERT_N is asserted. -/
structure SbSt where
  good : Bool := false
  low : Option Nat := none
  kind : Nat := 0
  cause : Nat := 0
  faults : List Nat := []
  alert : Bool := false
  deriving DecidableEq, Repr

/-- The test access port (22_connectors_startup R518): the instruction in force, and the boundary register's update stage. -/
structure TapSt where
  ir : Nat := 1
  bsr : List Bool := []
  deriving DecidableEq, Repr

/-- The power controller (21_power_cooling): how many of the last windows in a row met the temperatures for a step up, and
how many were above 105 °C at step 3; whether the last window stepped down for a thermal reason; since power good the energy
in mJ, the TCLK at each clock step and the step-downs by source; the last window's power by block; and whether a wake is
under way. -/
structure PwrSt where
  cool : Nat := 0
  hot : Nat := 0
  therm : Bool := false
  mJ : Nat := 0
  atStep : List Nat := [0, 0, 0, 0]
  thermDowns : Nat := 0
  powerDowns : Nat := 0
  blocks : List Nat := []
  waking : Bool := false
  deriving DecidableEq, Repr

/-- The PCI Express endpoint of a bridge module (16_hormen_fabric R398 to R402): whether PERST_N is released, whether its
link trains, its configuration space and its MSI-X table as the host has written them, by doubleword. -/
structure BridgeSt where
  perst : Bool := false
  training : Bool := false
  cfg : SMap Nat := []
  msix : SMap Nat := []
  deriving DecidableEq, Repr

/-! ### What the block sends -/

/-- What leaves the block, or answers a command: the model's own record, newest first. -/
inductive Out where
  /-- The answer to an access or a command: an error code of Table 18-2 (0 for none), a detail and data. -/
  | answer (err detail : Nat) (data : List Byte)
  /-- The same, with the group address that it carries as its sender (01_module_dies_clocks R23, R24). -/
  | groupAnswer (group err detail : Nat) (data : List Byte)
  /-- A read transaction to another module: its SRC, target address and length. -/
  | read (src taddr len : Nat)
  /-- A write transaction to another module: its SRC, target address and data. -/
  | write (src taddr : Nat) (data : List Byte)
  /-- A posted write to host memory. -/
  | host (addr : Nat) (data : List Byte)
  /-- A fog signal on a port. -/
  | fog (port : Nat) (f : Fog)
  /-- A barrier arrival to a core of another module: leaf unit, barrier group and generation. -/
  | arrival (leaf group gen : Nat)
  /-- The answer to a mailbox commit (R446): the sender, the channel and an error code, 0 for taken. -/
  | commit (src chan err : Nat)
  /-- An STG flit of a stage queue's port (Table 17-3): KIND, QID, FIRST, LAST, EPOCH, MB and payload. -/
  | stg (port kind qid : Nat) (first last : Bool) (epoch mb : Nat) (data : List Byte)
  /-- The answer to a load that waited for a stage entry (R411): its SRC and the 8 bytes. -/
  | entry (src value : Nat)
  /-- An MSI-X message of a vector to the host (R401). -/
  | msix (vector : Nat)
  /-- An Ethernet frame of the keeper's (14_video_ingest_developer R333), without its FCS. -/
  | eth (port : Nat) (data : List Byte)
  /-- A RoCE packet of a queue pair (R334): 0 READ Request (virtual address, R_Key, length), 1 ACK, 2 NAK (1 PSN Sequence
  Error, 2 Invalid Request, 3 Remote Access Error), 3 RNR NAK, 4 CNP. -/
  | roce (qp kind psn : Nat) (args : List Nat)
  /-- A transport-stream packet handed unchanged to the ingest die's application cores (R339). -/
  | section_ (slot : Nat) (data : List Byte)
  /-- A vote sent to the module that is the parent in the vote tree, or a decision sent to a child (R302): the message of
  Table 12-3. -/
  | vote (dst : Nat) (message : List Byte)
  | decision (dst : Nat) (message : List Byte)
  /-- DRAINED sent up the vote tree, or the job-wide checkpoint step sent down (18_faults_and_relief R434). -/
  | drained (dst step : Nat) (down : Bool)
  /-- What the keeper of the next job module holds in escrow (R436): a destination of this module's checkpoints. -/
  | escrow (dst : Nat) (req : CkReq)
  /-- A Minil reply or notice handed to the fabric (19_keeper_minil R456, R470): the module, whether it is a provisional id,
  the channel and the message. -/
  | minil (dst : Nat) (prov : Bool) (chan : Nat) (data : List Byte)
  /-- A flit, 256 bytes, put on the line of a port. -/
  | flit (port : Nat) (data : List Byte)
  /-- A flit that has arrived at this module, handed to the units it names (16_hormen_fabric R389, R392). -/
  | deliver (port : Nat) (f : Flit)
  /-- A transaction answered with ERR by a port: its SRC, TID and STATUS (16_hormen_fabric R383, R396). -/
  | txnErr (src tid status : Nat)
  /-- A discovery message to the partner keeper of a port (16_hormen_fabric R391): 0 OFFER, 1 CHILD, 2 REPORT, 3 ASSIGN; the
  discovery number, hops or id, the serial, and a report's records. -/
  | disc (port kind num arg serial : Nat) (recs : List TopoRec)
  /-- A survey query to a job module (18_faults_and_relief R437). -/
  | survey (dst : Nat)
  /-- A command that the coordinator of a recovery sends to another keeper (18_faults_and_relief R437): the module, whether
  that is a provisional id, SEQ, CMD and what it names. -/
  | order (dst : Nat) (prov : Bool) (seq cmd : Nat) (args : List Nat)
  /-- The completion of a host access (16_hormen_fabric R400): whether it is an Unsupported Request, and data. -/
  | hostDone (ur : Bool) (data : List Byte)
  /-- The completion of a Configuration Request (22_connectors_startup R517): whether it is Request Retry Status, and the
  doubleword read. -/
  | config (retry : Bool) (value : Nat)
  /-- The SMBus target's answer (22_connectors_startup R510, R511): whether it acknowledges, and its data. -/
  | smb (ack : Bool) (data : List Byte)
  /-- Bits shifted out on TDO (22_connectors_startup R518). -/
  | tdo (bits : List Bool)
  /-- A reduction flit handed to the fabric: its TYPE (2 RSEG, 3 RWORD, 4 CHK, 5 CWORD), the destination module, the
  layer, SEG, ORD or DOWN, the step counter and the payload (16_hormen_fabric Table 16-2). -/
  | reduction (kind dst layer idx step : Nat) (data : List Byte)
  deriving DecidableEq, Repr

/-- The state of the block. -/
structure State where
  /-- Every register field that differs from its reset value, by `fieldKey`. -/
  regs : SMap Nat := []
  /-- Memory of the module by target address (R190): scratchpads, instruction memories, DRAM and every other array that
  an endpoint maps. An unlisted byte reads as zero. -/
  mem : List Host.Cell := []
  /-- The 32-bit words that hold failed bits: word address to 1 or 2 (R154, R198). -/
  ecc : SMap Nat := []
  /-- How many bits of one word the next packet to a die has failed in, by die (01_module_dies_clocks R37). -/
  net : SMap Nat := []
  cores : SMap CoreSt := []
  /-- Gather-merge engines, by die times 2 plus engine. -/
  gmes : SMap GmeSt := []
  /-- Scratchpad arbiters, by die times 16 plus core. -/
  arbs : SMap ArbSt := []
  /-- Translation units, by die. -/
  tus : SMap TuSt := []
  ports : SMap PortSt := []
  /-- The route table by job module id (R392), none while no route set is installed; an unlisted entry is 0xFF. -/
  routes : Option (SMap Nat) := none
  disc : DiscSt := {}
  /-- Transactions of this module's units on other modules that await their answers, as SRC and TID (R396). -/
  awaiting : List (Nat × Nat) := []
  /-- Where the patrol scrubber of each channel stands, by die times 32 plus channel (R201). -/
  patrol : SMap Nat := []
  /-- Accesses that wait for the module's wake, oldest first (R499). -/
  heldTx : List Txn := []
  /-- Application cores, by their number in Table 1-3: four on each compute die, then the eight of die I. -/
  apps : SMap AppSt := []
  /-- The group table of the job (R19): group number and members, in order. -/
  groups : List (Nat × List Nat) := []
  /-- Stage queues, by 16 times the endpoint of L5 plus 8 for receive plus the queue number. -/
  stqs : SMap StageQ := []
  red : RedSt := {}
  /-- Update engines, by die. -/
  ues : SMap UeSt := []
  /-- Stream slots that the job uses. -/
  streams : SMap (Option StreamRun) := []
  /-- Queue pairs, by source index. -/
  qps : SMap QueuePair := []
  /-- Ethernet ports as the job configures them. -/
  eths : SMap EthPort := []
  /-- Arrivals of each stream slot as draw, position and length, oldest first (R371). -/
  arrivals : SMap (List (Nat × Nat × Nat)) := []
  /-- The size of each slot's access-unit ring as its base-2 logarithm (R372), 0 where the slot has none. -/
  auLog : SMap Nat := []
  /-- Whether this is a bridge module (R398). -/
  bridge : Bool := false
  rcv : RecSt := {}
  dkr : DkrSt := {}
  sb : SbSt := {}
  tap : TapSt := {}
  pwr : PwrSt := {}
  pcie : BridgeSt := {}
  /-- The provisional id that discovery gave, 0x7FFF before (R391, R455). -/
  provId : Nat := 0x7FFF
  /-- The version of the firmware that runs (R390; 20_darkroom_security). -/
  fwVer : Nat := 0
  log : LogSt := {}
  job : JobSt := {}
  fix : FixSt := {}
  ck : CkSt := {}
  kpr : KeeperSt := {}
  /-- The contact sheets in the reserved region of stack C0 (assumption 199), newest first, at most 16 (R310). -/
  sheets : List (List Byte) := []
  /-- Scratchpad and DRAM words waiting for the scrubber, by word address, oldest first (R155). -/
  scrubQ : List Nat := []
  /-- The die format copies of GSHIFT (R288), by die times 4,096 plus layer, as signed bytes. -/
  gshift : SMap Nat := []
  /-- What the block has sent, newest first (the model's own). -/
  out : List Out := []
  /-- How many free values have been taken (the model's own, assumption 1). -/
  free : Nat := 0
  /-- The commands that wait, first in first out. -/
  pending : List Instr := []
  deriving DecidableEq, Repr

/-- The state right after reset. -/
def State.reset : State := {}

end Sys2Proof.Machine
end

