-- ==== Sys2Proof/Machine/Ops.lean ====
section
/-!
DEFINITION. The operations over registers, memory and units through which every meaning works: field access by access
type (00_scope R12 to R14), memory in canonical form, failed bits, free values and what the block sends.
-/
namespace Sys2Proof.Machine

/-! ### Units and addresses -/

/-- A unit of the module: DIE, CORE and ENDPOINT of its unit address (00_scope R8, Table 0-4). -/
def unitOf (die core ep : Nat) : Nat := 1024 * die + 64 * core + ep

def dieOf (u : Nat) : Nat := u / 1024 % 64
def coreOf (u : Nat) : Nat := u / 64 % 16
def epOf (u : Nat) : Nat := u % 64

def dieI : Nat := 38
def dieK : Nat := 39
def keeperU : Nat := unitOf 39 0 0
def dkrU : Nat := unitOf 39 0 1
def mbxU : Nat := unitOf 39 0 2
def clkU : Nat := unitOf 39 0 3
def sbU : Nat := unitOf 39 0 4
def seqU (die core : Nat) : Nat := unitOf die core 0
def spU (die core : Nat) : Nat := unitOf die core 1
def dmaU (die core : Nat) : Nat := unitOf die core 2
def drainU (die core : Nat) : Nat := unitOf die core 3
def stkU (die core : Nat) : Nat := unitOf die core 4
def dramU (die : Nat) : Nat := unitOf die 0 32
def gmeU (die i : Nat) : Nat := unitOf die 0 (33 + i)
def ueU (die : Nat) : Nat := unitOf die 0 35
def tuU (die : Nat) : Nat := unitOf die 0 40
def idlU (die : Nat) : Nat := unitOf die 0 41
/-- The unit of fabric port `p` (R7). -/
def portU (p : Nat) : Nat := unitOf (32 + p / 2) 0 (p % 2)
/-- The reduction unit of link die `n`. -/
def rdU (n : Nat) : Nat := unitOf (32 + n) 0 2
def strU (slot : Nat) : Nat := unitOf 38 0 (3 + slot)
def ethU (p : Nat) : Nat := unitOf 38 0 p
/-- Application core `i`: four on each compute die, then the eight of die I (Table 1-3). -/
def acU (i : Nat) : Nat := if i < 96 then unitOf (i / 4) 0 (36 + i % 4) else unitOf 38 0 (19 + (i - 96))

/-- The target address of a byte of a die's DRAM stack (08_bonded_dram R190). -/
def dramAddr (die off : Nat) : Nat := 2 ^ 42 * die + off

/-- The target address of a byte of an endpoint (08_bonded_dram R190). -/
def epAddr (u off : Nat) : Nat :=
  2 ^ 41 + 2 ^ 42 * dieOf u + 2 ^ 30 * coreOf u + 2 ^ 24 * epOf u + off

/-- The size of a scratchpad (06_scratchpad R136). -/
def spBytes : Nat := 0x600000

/-! ### Register fields -/

/-- The key of a field in the register store: its unit, offset and lowest bit. -/
def fieldKey (u : Nat) (f : Field) : Nat := 32 * (2 ^ 24 * u + f.off) + f.lo

/-- The value a field holds; a field that captures holds the live value of its pair. -/
def State.rd (s : State) (u : Nat) (f : Field) : Nat := mget s.regs (fieldKey u f) f.reset

/-- The state with a field set to the low bits of a value. -/
def State.wr (s : State) (u : Nat) (f : Field) (v : Nat) : State :=
  { s with regs := mset f.reset s.regs (fieldKey u f) (v % 2 ^ f.width) }

/-- A field counted up, stopping at its largest value (R14). -/
def State.bump (s : State) (u : Nat) (f : Field) (n : Nat) : State :=
  s.wr u f (satAdd (s.rd u f) n (2 ^ f.width - 1))

/-- A field set to a truth value. -/
def State.wrB (s : State) (u : Nat) (f : Field) (b : Bool) : State := s.wr u f (b2n b)

/-- A field at its reset value. -/
def State.wrReset (s : State) (u : Nat) (f : Field) : State := s.wr u f f.reset

/-- Every field of a unit at its reset value. -/
def State.resetUnit (s : State) (u : Nat) : State :=
  { s with regs := mclear s.regs (2 ^ 29 * u) (2 ^ 29 * (u + 1)) }

/-! ### Memory -/

/-- The canonical form of memory: addresses strictly rising, no byte listed that is zero. -/
def Memory.wf (m : List Host.Cell) : Bool := mwf (0 : Byte) m

/-- One byte of memory; a byte nothing has written reads as zero (assumption 3). -/
def Memory.get (m : List Host.Cell) (a : Nat) : Byte := mget m a 0

/-- Memory with one byte written. -/
def Memory.set (m : List Host.Cell) (a : Nat) (b : Byte) : List Host.Cell := mset (0 : Byte) m a b

/-- Memory with a run of bytes written from an address. -/
def Memory.put (m : List Host.Cell) (a : Nat) : List Byte → List Host.Cell
  | [] => m
  | b :: r => Memory.put (Memory.set m a b) (a + 1) r

/-- Any memory in canonical form, every byte reading as before; a canonical memory is left as it is. -/
def Memory.canon (m : List Host.Cell) : List Host.Cell :=
  if Memory.wf m then m else m.foldr (fun c r => Memory.set r c.1 c.2) []

/-- A run of bytes. -/
def State.bytesAt (s : State) (a n : Nat) : List Byte := (List.range n).map (fun i => Memory.get s.mem (a + i))

/-- A little-endian number of `n` bytes in memory. -/
def State.numAt (s : State) (a n : Nat) : Nat := leNat (s.bytesAt a n)

/-- The words of a run of bytes, as word addresses. -/
def wordsOf (a n : Nat) : List Nat := (List.range ((a + n + 3) / 4 - a / 4)).map (fun i => a / 4 + i)

/-- Bytes written from an address. Fresh check bits replace what a word held where all of it is written, and where only
one of its bits had failed (06_scratchpad R154, 08_bonded_dram R198). -/
def State.putBytes (s : State) (a : Nat) (bs : List Byte) : State :=
  { s with
    mem := Memory.put s.mem a bs
    ecc := (wordsOf a bs.length).foldl
      (fun e w => if (decide (a ≤ 4 * w) && decide (4 * w + 4 ≤ a + bs.length)) || mget e w 0 = 1 then mdel e w else e)
      s.ecc }

/-- A number written as `n` little-endian bytes. -/
def State.putNum (s : State) (a n v : Nat) : State := s.putBytes a (leBytes n v)

/-- A range of addresses cleared to zero with valid check bits. -/
def State.zeroRange (s : State) (a n : Nat) : State :=
  { s with mem := s.mem.filter (fun c => !(decide (a ≤ c.1) && decide (c.1 < a + n))),
           ecc := mclear s.ecc (a / 4) ((a + n + 3) / 4) }

/-- Bits that have failed: each pair is a byte address of memory and a count of bits since the word was written, or 2^48
more than a die and a count of bits of one word of the next packet to that die (01_module_dies_clocks R37). -/
def State.upset (s : State) (l : List (Nat × Nat)) : State :=
  { s with
    ecc := (l.filter (fun p => decide (p.1 < 2 ^ 48))).foldl
      (fun e p => mset 0 e (p.1 / 4) (Nat.min 2 (mget e (p.1 / 4) 0 + p.2))) s.ecc
    net := (l.filter (fun p => decide (2 ^ 48 ≤ p.1))).foldl (fun e p => mset 0 e (p.1 - 2 ^ 48) p.2) s.net }

/-- The words of a run whose failed bits number `k`. -/
def State.badWords (s : State) (a n k : Nat) : List Nat := (wordsOf a n).filter (fun w => mget s.ecc w 0 = k)

/-! ### Cores and the rest -/

def State.core (s : State) (die core : Nat) : CoreSt := mget s.cores (die * 16 + core) {}

def State.setCore (s : State) (die core : Nat) (c : CoreSt) : State :=
  { s with cores := mset {} s.cores (die * 16 + core) c }

def State.emit (s : State) (o : Out) : State := { s with out := o :: s.out }

/-- An answer without error. -/
def State.ok (s : State) (data : List Byte := []) : State := s.emit (.answer 0 0 data)

/-- An error answer. -/
def State.err (s : State) (code : Nat) (detail : Nat := 0) : State := s.emit (.answer code detail [])

/-- A free value, and the state in which the next one differs. -/
def State.fresh (s : State) : Nat × State := (Config.freeNat s.free, { s with free := s.free + 1 })

/-- `n` free bytes. -/
def State.freshBytes (s : State) (n : Nat) : List Byte × State :=
  ((List.range n).map (fun i => Config.freeByte (s.free + i)), { s with free := s.free + n })

/-- The outcome of a command: the next state, its memory in canonical form. -/
def done (s : State) : Host.Outcome State Fault Refusal := .next { s with mem := Memory.canon s.mem }

/-- Whether the job runs. -/
def State.running (s : State) : Bool := s.job.st == .running

/-- The 32-bit unit address of a unit of this module. -/
def State.unitAddr (s : State) (u : Nat) : Nat := 65536 * s.job.modId + u

/-- Job time (16_hormen_fabric R387). -/
def State.jobTime (s : State) : Nat := (s.rd clkU Reg.TS_LO_VALUE + s.rd clkU Reg.TSOFF_LO_VALUE) % 2 ^ 64

/-- Apply an update for every element of a list, in order. -/
def forEach {α : Type} (l : List α) (f : State → α → State) (s : State) : State := l.foldl f s

end Sys2Proof.Machine
end

