-- ==== Sys2Proof/Machine/Faults.lean ====
section
/-!
DEFINITION. Error codes, the error log, core halts, and the fog signal (18_faults_and_relief R424 to R433, R521;
09_core_sequencer R237).
-/
namespace Sys2Proof.Machine

/-! ### Error codes (Table 18-2) -/

def eSP_CONFLICT : Nat := 0x0001
def eACC_CAPACITY : Nat := 0x0002
def eALIGN : Nat := 0x0003
def eCOUNT : Nat := 0x0004
def eXLATE : Nat := 0x0005
def ePROT : Nat := 0x0006
def eSTACK_TAG : Nat := 0x0007
def eSTACK_OVERFLOW : Nat := 0x0008
def eIDX_RANGE : Nat := 0x0009
def ePACK_OVERFULL : Nat := 0x000A
def eSP_APP_OVERLAP : Nat := 0x000E
def eSHARD_STALE : Nat := 0x0010
def eNONFINITE : Nat := 0x0011
def eCLAMP : Nat := 0x0012
def eREDUCE_MISMATCH : Nat := 0x0013
def eLINK_CRC : Nat := 0x0018
def eLINK_DOWN : Nat := 0x0019
def ePARTNER : Nat := 0x001A
def eECC_CE : Nat := 0x001B
def eECC_UE : Nat := 0x001C
def eMBX_ABORTED : Nat := 0x0020
def eBUSY : Nat := 0x0021
def eTIMEOUT : Nat := 0x0022
def eHALT : Nat := 0x0023
def eSTOPPED : Nat := 0x0024
def eAPP_TRAP : Nat := 0x0025
def eDECODE_ERR : Nat := 0x0026
def eING_READ : Nat := 0x0027
def eTHERMAL : Nat := 0x0028
def eFOG : Nat := 0x0030
def eRELIEF : Nat := 0x0031
def eCOMPOUND : Nat := 0x0032
def eMODULE_LOST : Nat := 0x0033

/-! ### Classes (Table 18-3) -/

def cEVENT : Nat := 0
def cSKIP : Nat := 1
def cREJECT : Nat := 2
def cHALT : Nat := 3
def cLINK : Nat := 4
def cMODULE : Nat := 5

/-- The error codes of SEQ_HALT.CAUSE (09_core_sequencer Table 9-10), from cause 1 on. -/
def haltCodes : List Nat :=
  [eSP_CONFLICT, eALIGN, eCOUNT, eXLATE, ePROT, eECC_UE, eIDX_RANGE, ePACK_OVERFULL, eTIMEOUT, eSTACK_TAG,
    eSTACK_OVERFLOW, eHALT, eSTOPPED, eBUSY, eLINK_DOWN, ePARTNER, eMBX_ABORTED]

/-- The error code of a halt cause. -/
def causeCode (cause : Nat) : Nat := haltCodes.getD (cause - 1) 0

/-- The halt cause of an error code. -/
def haltCause (code : Nat) : Nat :=
  match haltCodes.findIdx? (fun c => c == code) with
  | some i => i + 1
  | none => 0

/-! ### The log (R424 to R426) -/

/-- One millisecond of job time, in TCLK. -/
def msTicks : Nat := 118750

/-- An entry with its occurrence, before its details. -/
def State.newEntry (s : State) (code cls : Nat) (fogged : Bool) (unit d0 d1 d2 d3 : Nat) : LogEntry :=
  { code := code, cls := cls, fogged := fogged, reps := 0, unit := unit, time := s.jobTime,
    step := s.rd keeperU Reg.FX_STEP_LO_VALUE, seq := s.log.seq, epoch := s.rd keeperU Reg.PLC_EPOCH_VALUE,
    d0 := d0, d1 := d1, d2 := d2, d3 := d3 }

/-- The register views of the log's fill (Table 18-7). -/
def State.logStat (s : State) : State :=
  (s.wr keeperU Reg.LOG_STAT_ENTRIES s.log.ring.length).wr keeperU Reg.LOG_STAT_STICKY s.log.sticky.length

/-- An entry put into the ring, and into the sticky store where its class calls for it (R424). A THERMAL entry asserts
SMB_ALERT_N (22_connectors_startup R512). -/
def State.pushEntry (s : State) (e : LogEntry) : State :=
  let s1 := if s.log.ring.length < 16384 then s else s.bump keeperU Reg.LOG_LOST_COUNT 1
  let s2 : State := { s1 with log := { s1.log with ring := (e :: s1.log.ring).take 16384, seq := s1.log.seq + 1 } }
  let s3 :=
    if e.cls < 3 then s2
    else if s2.log.sticky.length < 256 then { s2 with log := { s2.log with sticky := e :: s2.log.sticky } }
    else s2.bump keeperU Reg.LOG_STICKY_LOST_COUNT 1
  let s4 : State := if e.code = eTHERMAL then { s3 with sb := { s3.sb with alert := true } } else s3
  s4.logStat

/-- Whether an occurrence merges into the newest entry (R426). -/
def LogEntry.merges (e : LogEntry) (code unit now : Nat) : Bool :=
  e.code == code && e.unit == unit && decide (now < e.time + msTicks + 1)

/-- An occurrence of class EVENT (R426): merged into the newest entry, or an entry of its own. `u` is a unit of this
module. -/
def State.logEvent (s : State) (code u : Nat) (d0 d1 d2 d3 : Nat := 0) : State :=
  let unit := s.unitAddr u
  match s.log.ring with
  | e :: r =>
    if e.merges code unit s.jobTime then
      { s with log := { s.log with ring := { e with reps := satAdd e.reps 1 255 } :: r } }
    else s.pushEntry (s.newEntry code cEVENT false unit d0 d1 d2 d3)
  | [] => s.pushEntry (s.newEntry code cEVENT false unit d0 d1 d2 d3)

/-- An occurrence of another class that raises no fog signal. -/
def State.logAs (s : State) (code cls u : Nat) (d0 d1 d2 d3 : Nat := 0) : State :=
  s.pushEntry (s.newEntry code cls false (s.unitAddr u) d0 d1 d2 d3)

/-! ### Stopping a core (09_core_sequencer R237) -/

/-- The scalar registers with every result that has been issued. -/
def CoreSt.landAllScalars (c : CoreSt) : CoreSt :=
  { c with
    sreg := (sortBy (fun a b => decide (a.1 ≤ b.1)) c.spend).foldl
      (fun m w => if w.2.1 = 0 then m else mset 0 m w.2.1 w.2.2) c.sreg
    spend := [] }

/-- One cube with what was in flight abandoned. A stationary slice whose load had not become usable is left to free
bytes; `n` numbers the first of them. A group under assembly has 8 slices where the cube is set to sub-byte formats, else
16 (R64). -/
def CubeSt.abandon (q : CubeSt) (n : Nat) : CubeSt × Nat :=
  let sub (code : Nat) : Bool := decide (0x0A ≤ code) && decide (code ≤ 0x0C)
  let slices := if sub q.afmt || sub q.bfmt || (match q.modeNext with
      | some (_, a, b, _) => sub a || sub b
      | none => false) then 8 else 16
  let lost := q.sload.map (fun l => l.2.1) ++
    q.statAsm.flatMap (fun g => ((List.range slices).filter (fun i => decide (g.pos % 32 + i < 32))).map (fun i => g.pos + i))
  let keys := lost.filter (fun k => decide (k < 64))
  let free (i : Nat) : Slice :=
    ⟨(List.range 16).map (fun r => ((Config.freeByte (n + i * 512 + r * 32)).toNat,
      (List.range 24).map (fun j => Config.freeByte (n + i * 512 + r * 32 + 1 + j))))⟩
  let (stat, cnt) := keys.foldl (fun (p : SMap Slice × Nat) k => (mset Slice.empty p.1 k (free p.2), p.2 + 1)) (q.stat, 0)
  ({ q with ops := [], opA := {}, opB := {}, sload := [], statAsm := [], run := none, stat := stat }, n + cnt * 512)

/-- A core's scheduled units with what was in flight abandoned (R237): accumulators, stationary slices already usable and
registers keep their values. -/
def CoreSt.abandon (c : CoreSt) (n : Nat) : CoreSt × Nat :=
  let c := c.landAllScalars
  let (cubes, n) := c.cubes.foldl
    (fun (p : SMap CubeSt × Nat) e => let (q, n) := e.2.abandon p.2; (mset {} p.1 e.1 q, n)) ([], n)
  ({ c with
     cubes := cubes
     mv := { c.mv with ops := [], asm := none, vload := [] }
     vops := []
     drain := { epi := c.drain.epi }
     loops := c.loops
     atEnd := false }, n)

/-- The registers of a core at its halt (Table 9-10). -/
def State.haltRegs (s : State) (die core cause : Nat) (via : Bool) (tag : Nat) : State :=
  let u := seqU die core
  (((((s.wr u Reg.SEQ_STAT_RUN 0).wr u Reg.SEQ_STAT_FROZEN 0).wr u Reg.SEQ_STAT_HALTED 1).wr u Reg.SEQ_HALT_CAUSE cause).wrB
    u Reg.SEQ_HALT_VIA_TAG via).wr u Reg.SEQ_HALT_TAG tag

/-- A core's units abandoned and its registers at the halt. -/
def State.coreDown (s : State) (die core cause : Nat) (via : Bool) (tag : Nat) : State :=
  let (c, n) := (s.core die core).abandon s.free
  let s1 : State := { s.setCore die core c with free := n }
  let s2 := ((s1.wr (drainU die core) Reg.DRAIN_STAT_BUSY 0).wr (drainU die core) Reg.DRAIN_STAT_OPEN 0)
  s2.haltRegs die core cause via tag

/-- A running core stopped by the keeper (R233): cause STOPPED, of class EVENT (assumption 6). -/
def State.stopCore (s : State) (die core : Nat) : State :=
  let u := seqU die core
  if s.rd u Reg.SEQ_STAT_RUN = 1 then
    (s.coreDown die core 13 false 0).logEvent eSTOPPED u (s.rd u Reg.SEQ_PC_PC) (s.rd u Reg.SEQ_CYC_LO_VALUE)
  else s

/-- The compute dies' cores as pairs of die and core. -/
def allCores : List (Nat × Nat) :=
  (List.range 24).flatMap (fun d => (List.range 16).map (fun c => (d, c)))

/-- Every running core stopped. Only a core that has left its reset state can run. -/
def State.stopCores (s : State) : State :=
  forEach (s.cores.map (fun e => (e.1 / 16, e.1 % 16))) (fun s p => s.stopCore p.1 p.2) s

end Sys2Proof.Machine
end

