-- ==== Sys2Proof/Machine/Mailbox.lean ====
section
/-!
DEFINITION. Mailbox channels and doorbells (19_keeper_minil R443 to R452; 15_application_cores R366, R368), and
how a DMA transfer ends. A requester is
named by its SRC, a 32-bit unit address (16_hormen_fabric R388).
-/
namespace Sys2Proof.Machine

def ePARTNER_PROTOCOL : Nat := ePARTNER

/-! ### Groups of units (01_module_dies_clocks R21, R23) -/

/-- The leaf units of an address in depth-first order, each once; `f` bounds the depth of nesting. Of a number that a table
defines twice the first definition counts (DESIGN CHOICE, assumption 201). -/
def leavesOf (groups : List (Nat × List Nat)) : Nat → Nat → List Nat
  | 0, _ => []
  | f + 1, a =>
    if a < 2 ^ 31 then [a]
    else
      match groups.find? (fun g => g.1 == a % 2 ^ 31) with
      | none => []
      | some g =>
        g.2.foldl (fun acc m => acc ++ (leavesOf groups f m).filter (fun x => !acc.contains x)) []

/-- The leaf set of a group address under the job's table. -/
def State.leaves (s : State) (a : Nat) : List Nat := leavesOf s.groups (s.groups.length + 2) a

/-! ### Requesters -/

def State.isKeeper (s : State) (src : Nat) : Bool := src == s.unitAddr keeperU

/-- The host of this bridge module, by the SRC that the bridge gives it (R454, R455). -/
def State.isHost (s : State) (src : Nat) : Bool :=
  s.bridge && src % 65536 == portU 0 && src / 65536 == s.provId

/-- The application core of this module that a SRC names. -/
def State.appOf (s : State) (src : Nat) : Option Nat := (List.range 104).find? (fun i => src == s.unitAddr (acU i))

/-! ### Receivers (Table 19-1) -/

/-- MBX_CFGc.RCV: 0 NONE, 1 KEEPER, 2 HOST, 3 APP. -/
def State.rcvOf (s : State) (c : Nat) : Nat :=
  if c < 8 then 1
  else if s.bridge && c < 16 then 2
  else if bitAt s.job.appChans c then 3
  else 0

/-- The doorbell bits that an application core selects. -/
def State.dbsel (s : State) (i : Nat) : Nat := s.rd (acU i) Reg.AC_DBSEL_MASK

/-- Whether a requester is the receiver of a channel. -/
def State.isReceiver (s : State) (src c : Nat) : Bool :=
  match s.rcvOf c with
  | 1 => s.isKeeper src
  | 2 => s.isHost src
  | 3 => match s.appOf src with
    | some i => bitAt (s.dbsel i) c
    | none => false
  | _ => false

/-! ### Doorbells (R450 to R452) -/

/-- The bits that are delivered (R451). -/
def State.deliveredBits (s : State) : Nat :=
  clearBits (s.rd mbxU Reg.DB_STAT_BITS) (s.rd mbxU Reg.DB_MASK_MASK)

/-- A pending DB_WAIT of an application core ended where a delivered bit lies within its mask: the bits are its result and
are cleared (R366). -/
def State.endDbWait (s : State) (i : Nat) : State :=
  let a := mget s.apps i {}
  match a.wait with
  | some w =>
    let hit := s.deliveredBits &&& s.dbsel i &&& w.mask
    if w.service = 1 && hit ≠ 0 then
      ({ s with apps := mset {} s.apps i { a with wait := none, a0 := hit } }).wr mbxU Reg.DB_STAT_BITS
        (clearBits (s.rd mbxU Reg.DB_STAT_BITS) hit)
    else s
  | none => s

/-- Bits that have become delivered, told to their receivers (R451): an MSI-X message to the host, or the end of a wait
of an application core. -/
def State.notify (s : State) (before : Nat) : State :=
  let new := clearBits s.deliveredBits before
  let s1 := forEach ((setBits 32 new).filter (fun b => s.rcvOf b == 2)) (fun s b => s.emit (.msix b)) s
  forEach ((s1.apps.map (fun e => e.1))) (fun s i => s.endDbWait i) s1

/-- Doorbell bits set. -/
def State.dbSet (s : State) (bits : Nat) : State :=
  let before := s.deliveredBits
  (s.wr mbxU Reg.DB_STAT_BITS (s.rd mbxU Reg.DB_STAT_BITS ||| bits % 2 ^ 32)).notify before

/-- The doorbell bits that a writer may clear or mask (R452). -/
def State.dbAllowed (s : State) (src : Nat) : Nat :=
  if s.isKeeper src then 2 ^ 32 - 1
  else if s.isHost src then
    packCodesBits ((List.range 32).map (fun b => s.rcvOf b == 2))
  else match s.appOf src with
    | some i => s.dbsel i
    | none => 0
where
  packCodesBits (l : List Bool) : Nat := l.foldr (fun b a => b2n b + 2 * a) 0

/-- Doorbell bits cleared by a writer. -/
def State.dbClr (s : State) (src bits : Nat) : State :=
  s.wr mbxU Reg.DB_STAT_BITS (clearBits (s.rd mbxU Reg.DB_STAT_BITS) (bits % 2 ^ 32 &&& s.dbAllowed src))

/-- The doorbell mask written by a writer in the bits that `mask` marks. -/
def State.dbMask (s : State) (src bits : Nat) (mask : Nat := 2 ^ 32 - 1) : State :=
  let before := s.deliveredBits
  let may := s.dbAllowed src &&& mask
  let old := s.rd mbxU Reg.DB_MASK_MASK
  (s.wr mbxU Reg.DB_MASK_MASK (clearBits old may ||| (bits % 2 ^ 32 &&& may))).notify before

/-! ### Transfers whose write is answered later -/

/-- The limit of a wait class in MCLK; 0 is no limit (09_core_sequencer R231). -/
def State.waitLimit (s : State) (die core cls : Nat) : Nat :=
  s.rd (seqU die core) (Reg.SEQ_WLIM_COUNT cls) * 2 ^ s.rd (seqU die core) (Reg.SEQ_WLIM_SHIFT cls)

/-- Whether a core is frozen on a limited wait for a tag (kind 1) or an event (kind 2). -/
def State.limited (s : State) (die core kind id : Nat) : Bool :=
  let u := seqU die core
  s.rd u Reg.SEQ_STAT_RUN = 1 && s.rd u Reg.SEQ_STAT_FROZEN = 1 && s.rd u Reg.SEQ_WAIT_KIND = kind &&
    s.rd u Reg.SEQ_WAIT_ID = id && decide (0 < s.waitLimit die core (s.rd u Reg.SEQ_WAIT_CLASS))

/-- A recording that falls in the last period of a limited wait counts as a near miss (09_core_sequencer R232); `period` is
the one it falls in. -/
def State.nearMiss (s : State) (die core kind id period : Nat) : State :=
  if s.limited die core kind id && s.waitLimit die core (s.rd (seqU die core) Reg.SEQ_WAIT_CLASS) == period then
    s.bump (seqU die core) Reg.SEQ_NEARMISS_COUNT 1
  else s

/-- A recording by a command that names no period: whether it falls in the last one is a free value (assumption 189). -/
def State.mayMiss (s : State) (die core kind id : Nat) : State :=
  if s.limited die core kind id then
    let (v, s1) := s.fresh
    s1.bump (seqU die core) Reg.SEQ_NEARMISS_COUNT (v % 2)
  else s

/-- A tag recorded as returned (09_core_sequencer R228): DONE, or ERR with the cause. A tag that is not out is left as it
is. -/
def State.recordTag (s : State) (die core tag : Nat) (err : Nat) : State :=
  let c := s.core die core
  match mget c.tags tag .free with
  | .out => s.setCore die core { c with tags := mset .free c.tags tag (if err = 0 then .done else .err (haltCause err)) }
  | _ => s

/-- Whether a core waits with a tag out. -/
def State.tagOut (s : State) (die core tag : Nat) : Bool := mget (s.core die core).tags tag .free == .out

/-- A tag returned by the command that completes its operation. -/
def State.returnTag (s : State) (die core tag : Nat) (err : Nat) : State :=
  if s.tagOut die core tag then (s.recordTag die core tag err).mayMiss die core 1 tag else s

/-- Pending events set at a core's sequencer (09_core_sequencer R234); `before` holds those pending before. -/
def State.newEvents (s : State) (die core before : Nat) : State :=
  let u := seqU die core
  let id := s.rd u Reg.SEQ_WAIT_ID
  if bitAt (s.rd u Reg.SEQ_EVT_PEND) id && !bitAt before id then s.mayMiss die core 2 id else s

/-- Pending events set by the command that raises them. -/
def State.raiseEvt (s : State) (die core bits : Nat) : State :=
  let u := seqU die core
  let old := s.rd u Reg.SEQ_EVT_PEND
  (s.wr u Reg.SEQ_EVT_PEND (old ||| bits % 256)).newEvents die core old

/-- The counts of a core's transfers in flight (Table 7-5). -/
def State.dmaStat (s : State) (die core : Nat) : State :=
  let n := (s.core die core).xfers.length
  (s.wrB (dmaU die core) Reg.DMA_STAT_BUSY (decide (0 < n))).wr (dmaU die core) Reg.DMA_STAT_TAGS_OUT (Nat.min n 256)

/-- The control bits of a descriptor (Table 7-2), numbered as CTL numbers them. -/
def ctlBit (d i : Nat) : Bool := bitAt d (448 + 15 + i)

/-- A transfer that ends without error (R162, R182): it leaves the engine, its tag returns and its doorbell bit is set. -/
def State.endXfer (s : State) (die core i : Nat) : State :=
  let c := s.core die core
  match c.xfers[i]? with
  | none => s
  | some x =>
    let d := x.desc.getD 0
    let s1 := (s.setCore die core { c with xfers := c.xfers.eraseIdx i }).bump (dmaU die core) Reg.DMA_XFERS_COUNT 1
    let s2 := (s1.returnTag die core (bitsOf d 455 448) 0).dmaStat die core
    if ctlBit d 10 then s2.dbSet (2 ^ bitsOf d 478 474) else s2

/-- What a transfer that awaits the answer to a post is held by: the send queue and the post's number. -/
def postKey (k n : Nat) : Nat := 32 + k + 16 * n

/-- A fault of a transfer: the error code, the address or scratchpad offset, and whether it struck the local end. -/
structure XferFault where
  code : Nat
  addr : Nat
  atLocal : Bool
  deriving DecidableEq, Repr

/-- DMA_FINFO and DMA_FADDR of a fault (07_streams_layout R180). -/
def State.dmaCapture (s : State) (die core : Nat) (e : XferFault) (tag ring : Nat) (dir mcast fetch : Bool) : State :=
  let u := dmaU die core
  let cause :=
    match [eXLATE, ePROT, eECC_UE, ePACK_OVERFULL, eALIGN, eBUSY, eLINK_DOWN, ePARTNER, eMBX_ABORTED].findIdx?
      (fun c => c == e.code) with
    | some i => i + 1
    | none => 0
  (((((((((s.wr u Reg.DMA_STAT_FAULTED 1).wr u Reg.DMA_FADDR_LO_ADDR e.addr).wr u Reg.DMA_FINFO_CAUSE cause).wr u
    Reg.DMA_FINFO_TAG tag).wr u Reg.DMA_FINFO_RING ring).wrB u Reg.DMA_FINFO_DIR dir).wrB u
    Reg.DMA_FINFO_MCAST mcast).wrB u Reg.DMA_FINFO_FETCH fetch).wrB u Reg.DMA_FINFO_LOCAL e.atLocal)

/-- The DMA_FINFO register of a core as a word. -/
def State.dmaFinfo (s : State) (die core : Nat) : Nat :=
  let d := dmaU die core
  s.rd d Reg.DMA_FINFO_CAUSE + 16 * s.rd d Reg.DMA_FINFO_TAG + 2 ^ 12 * s.rd d Reg.DMA_FINFO_RING +
    2 ^ 15 * s.rd d Reg.DMA_FINFO_DIR + 2 ^ 16 * s.rd d Reg.DMA_FINFO_MCAST + 2 ^ 17 * s.rd d Reg.DMA_FINFO_FETCH +
    2 ^ 18 * s.rd d Reg.DMA_FINFO_LOCAL

/-- A transfer ended at its issuer by a fault (07_streams_layout R180): captured, its tag in error, logged. -/
def State.failXfer (s : State) (die core i : Nat) (x : Xfer) (e : XferFault) : State :=
  let d := x.desc.getD 0
  let tag := bitsOf d 455 448
  let u := dmaU die core
  let s1 := s.dmaCapture die core e tag x.ring (ctlBit d 0) (ctlBit d 1) false
  let c := s1.core die core
  let stk := if x.stack then c.stk.zipIdx.map (fun p => if p.2 = 0 then { p.1 with failed := true } else p.1) else c.stk
  let s2 := (s1.setCore die core { c with xfers := c.xfers.eraseIdx i, stk := stk }).returnTag die core tag e.code
  (s2.dmaStat die core).logEvent e.code u e.addr (s2.dmaFinfo die core) tag (s2.rd (seqU die core) Reg.SEQ_CYC_LO_VALUE)

/-- A transfer of a core changed. -/
def State.setXfer (s : State) (die core i : Nat) (x : Xfer) : State :=
  let c := s.core die core
  s.setCore die core { c with xfers := c.xfers.zipIdx.map (fun p => if p.2 = i then x else p.1) }

/-- A write that a core's DMA engine held open is answered: the transfer ends with the last of its answers, or at once
with a refusal, whose cause and address are captured (07_streams_layout R181). -/
def State.answerHeld (s : State) (src key err : Nat) : State :=
  let u := src % 65536
  if src / 65536 == s.job.modId && dieOf u < 24 && epOf u == 2 then
    let c := s.core (dieOf u) (coreOf u)
    match c.xfers.zipIdx.find? (fun p => p.1.held.any (fun h => h.1 == key)) with
    | none => s
    | some (x, i) =>
      let left := x.held.filter (fun h => !(h.1 == key))
      let va := ((x.held.find? (fun h => h.1 == key)).map (fun h => h.2)).getD 0
      if err ≠ 0 then s.failXfer (dieOf u) (coreOf u) i x ⟨err, va, false⟩
      else if left.isEmpty then s.endXfer (dieOf u) (coreOf u) i
      else s.setXfer (dieOf u) (coreOf u) i { x with held := left }
  else s

/-! ### Channels (R445 to R449) -/

def mbxBuf (c : Nat) : Nat := epAddr mbxU (0x1000 * c)

/-- The channel states of MBX_STATc.STATE. -/
def mEMPTY : Nat := 0
def mLOCKED : Nat := 1
def mFULL : Nat := 2

def State.mbxState (s : State) (c : Nat) : Nat := s.rd mbxU (Reg.MBX_STAT_STATE c)

/-- A refused write. -/
def State.mbxRefuse (s : State) (c code : Nat) : State × Nat := (s.bump mbxU (Reg.MBX_REFUSED_COUNT c) 1, code)

/-- Whether a sender finds a channel in another's hands, or holding its own committed message. -/
def State.mbxBusy (s : State) (src c : Nat) : Bool :=
  s.mbxState c == mFULL || (s.mbxState c == mLOCKED && s.rd mbxU (Reg.MBX_SRC_UNIT c) != src)

/-- A write to a channel's buffer (R445 step 1); the answer's error code, 0 for none. -/
def State.mbxWrite (s : State) (src c off : Nat) (bs : List Byte) : State × Nat :=
  let n := bs.length
  if s.rcvOf c = 0 then s.mbxRefuse c ePROT
  else if n < 4 || 128 < n || off % n ≠ 0 || 256 < off + n then s.mbxRefuse c eALIGN
  else if s.mbxBusy src c then s.mbxRefuse c eBUSY
  else
    (((s.wr mbxU (Reg.MBX_STAT_STATE c) mLOCKED).wr mbxU (Reg.MBX_SRC_UNIT c) src).putBytes (mbxBuf c + off) bs, 0)

/-- A commit (R445 step 2). Its answer comes when the message is disposed of. -/
def State.mbxSend (s : State) (src c len : Nat) : State × Nat :=
  if s.rcvOf c = 0 then s.mbxRefuse c ePROT
  else if s.mbxState c = mEMPTY || s.mbxBusy src c then s.mbxRefuse c eBUSY
  else if len < 16 || 256 < len then s.mbxRefuse c ePARTNER
  else
    ((((s.wr mbxU (Reg.MBX_STAT_STATE c) mFULL).wr mbxU (Reg.MBX_STAT_LEN c) len).wr mbxU
      (Reg.MBX_STAT_RESULT c) 0).dbSet (2 ^ c), 0)

/-- A channel emptied: buffer, state and doorbell bit. -/
def State.mbxClear (s : State) (c : Nat) : State :=
  (((s.zeroRange (mbxBuf c) 256).wr mbxU (Reg.MBX_STAT_STATE c) mEMPTY).wr mbxU (Reg.MBX_STAT_LEN c) 0).wr mbxU
    Reg.DB_STAT_BITS (clearBits (s.rd mbxU Reg.DB_STAT_BITS) (2 ^ c))

/-- A read of a channel's buffer (R448). -/
def State.mbxRead (s : State) (src c off n : Nat) : Option (List Byte) :=
  if s.isReceiver src c && s.mbxState c == mFULL then some (s.bytesAt (mbxBuf c + off) n) else none

/-- A release (R448); the answer's error code. -/
def State.mbxDone (s : State) (src c : Nat) : State × Nat :=
  if !s.isReceiver src c then (s, ePROT)
  else if s.mbxState c ≠ mFULL then (s, 0)
  else
    let sender := s.rd mbxU (Reg.MBX_SRC_UNIT c)
    ((((s.mbxClear c).wr mbxU (Reg.MBX_STAT_RESULT c) 1).emit (.commit sender c 0)).answerHeld sender c 0, 0)

/-- A lock broken after 475,000 MCLK without a write (R447). -/
def State.mbxBreak (s : State) (c : Nat) : State :=
  if s.mbxState c = mLOCKED then
    (((s.zeroRange (mbxBuf c) 256).wr mbxU (Reg.MBX_STAT_STATE c) mEMPTY)).bump mbxU Reg.MBX_LOCKLOST_COUNT 1
  else s

/-- The reset of a receiver (R449): each of its channels is cleared, and a pending commit is aborted and logged. -/
def State.mbxReset (s : State) (chans : List Nat) : State :=
  forEach chans (fun s c =>
    if s.mbxState c = mFULL then
      let sender := s.rd mbxU (Reg.MBX_SRC_UNIT c)
      let s1 := (((s.mbxClear c).wr mbxU (Reg.MBX_STAT_RESULT c) 2).emit (.commit sender c eMBX_ABORTED)).logEvent
        eMBX_ABORTED mbxU c sender
      s1.answerHeld sender c eMBX_ABORTED
    else s.mbxClear c) s

/-- The channels of a receiver. -/
def State.chansOf (s : State) (rcv : Nat) : List Nat := (List.range 32).filter (fun c => s.rcvOf c == rcv)

end Sys2Proof.Machine
end

