-- ==== Sys2Proof/Machine/Notice.lean ====
section
/-!
DEFINITION. Minil messages as the keeper sends them: replies and notices, into a channel of its own module or of another
(19_keeper_minil R453, R455, R456, R470).
-/
namespace Sys2Proof.Machine

/-- The bytes of a Minil message (Table 19-2). -/
def Minil.bytes (m : Minil) : List Byte :=
  leBytes 2 m.cmd ++ leBytes 2 m.seq ++ leBytes 2 m.payload.length ++ leBytes 2 m.status ++ leBytes 4 m.sender ++
    leBytes 4 (b2n m.reply + 2 * (m.rch % 32) + 64 * b2n m.prov) ++ m.payload

/-- A Minil message from the bytes of a channel. -/
def Minil.ofBytes (bs : List Byte) : Minil :=
  { cmd := leAt bs 0 2, seq := leAt bs 2 2, status := leAt bs 6 2, sender := leAt bs 8 4, reply := bitAt (leAt bs 12 4) 0,
    rch := bitsOf (leAt bs 12 4) 5 1, prov := bitAt (leAt bs 12 4) 6, payload := slice bs 16 (leAt bs 4 2) }

/-- Whether a module id names this module (R455): its provisional id, or 0x7FFF, where the id is provisional. -/
def State.isHere (s : State) (dst : Nat) (prov : Bool) : Bool :=
  if prov then dst == s.provId || dst == 0x7FFF else dst == s.job.modId

/-- A message written into a channel of this module and committed, in writes of 4 bytes; the first error. -/
def State.putMsg (s : State) (chan : Nat) (bs : List Byte) : State × Nat :=
  let src := s.unitAddr keeperU
  let pad := bs ++ List.replicate ((4 - bs.length % 4) % 4) 0
  let (s1, e) := (List.range (pad.length / 4)).foldl (fun (p : State × Nat) i =>
    if p.2 ≠ 0 then p else p.1.mbxWrite src chan (4 * i) (slice pad (4 * i) 4)) (s, 0)
  if e ≠ 0 then (s1, e) else s1.mbxSend src chan bs.length

/-- A reply or notice lost (R456). -/
def State.msgLost (s : State) : State := s.bump mbxU Reg.MNL_RLOST_COUNT 1

/-- A message sent (R456). One refused with BUSY is resent later; one handed to the fabric stays until its answer is
known. -/
def State.sendMsg (s : State) (m : OutMsg) : State :=
  if s.isHere m.dst m.prov then
    let (s1, e) := s.putMsg m.chan m.data
    if e = 0 then s1
    else if e = eBUSY then { s1 with kpr := { s1.kpr with msgs := s1.kpr.msgs ++ [m] } }
    else s1.msgLost
  else
    ({ s with kpr := { s.kpr with msgs := s.kpr.msgs ++ [m] } } : State).emit (.minil m.dst m.prov m.chan m.data)

/-- A notice (R470, Table 19-8). -/
def State.notice (s : State) (dst chan seq : Nat) (prov : Bool) (kind : Nat) (fields : List Byte) : State :=
  let m : Minil := { cmd := 0x8000, seq := seq, status := 0, sender := s.unitAddr keeperU, reply := true, rch := chan,
                     prov := false, payload := leBytes 2 kind ++ List.replicate 6 0 ++ fields }
  s.sendMsg { dst := dst, prov := prov, chan := chan, data := m.bytes }

/-- A reply to a command (R456). -/
def State.reply (s : State) (m : Minil) (status : Nat) (payload : List Byte := []) : State :=
  let r : Minil := { cmd := m.cmd, seq := m.seq, status := status, sender := s.unitAddr keeperU, reply := true, rch := m.rch,
                     prov := false, payload := payload }
  s.sendMsg { dst := m.sender / 65536 % 32768, prov := m.prov, chan := m.rch, data := r.bytes }

/-- A long command that ends with its reply (R458). -/
def State.endLong (s : State) (status : Nat) (payload : List Byte := []) : State :=
  match s.kpr.run with
  | none => s
  | some m =>
    let s1 : State := { s with kpr := { s.kpr with run := none } }
    (((s1.wr mbxU Reg.MNL_STAT_BUSY 0).wr mbxU Reg.MNL_STAT_LONG 0).wr mbxU Reg.MNL_STAT_PCT 100).reply m status payload

end Sys2Proof.Machine
end

