-- ==== Sys2Proof/Machine/Fog.lean ====
section
/-!
DEFINITION. The fog signal: raising it, what an accepted one stops, and halts of units that raise one (18_faults_and_relief
R427, R431 to R433; 09_core_sequencer R237).
-/
namespace Sys2Proof.Machine

/-! ### Fog signals (R431 to R433) -/

/-- A fault-set member added once (R433); a MODULE member replaces a lighter one of the same module. -/
def addFault (l : List (Nat × Nat)) (m kind : Nat) : List (Nat × Nat) :=
  if l.any (fun p => p.1 == m && decide (kind ≤ p.2)) then l else (m, kind) :: l.filter (fun p => !(p.1 == m))

/-- The ports that pass flits to another module. -/
def State.upPorts (s : State) : List Nat :=
  (List.range 12).filter (fun p => s.rd (portU p) Reg.FAB_STAT_UP == 1 && s.rd (portU p) Reg.FAB_STAT_MODE == 0)

/-- A fog signal sent on every up Hormen port but one. -/
def State.flood (s : State) (f : Fog) (except : Nat) : State :=
  forEach (s.upPorts.filter (fun p => !(p == except))) (fun s p => s.emit (.fog p f)) s

/-! ### Stopping the engines (R365, R433, R466) -/

/-- The registers of a checkpoint drain that has ended. -/
def State.drainEnded (s : State) : State :=
  let s1 : State := { s with ck := { s.ck with drain := none } }
  forEach (s1.ues.map (fun e => e.1)) (fun s die => s.wr (ueU die) Reg.UE_STAT_DRAINING 0)
    (s1.wr keeperU Reg.FX_STAT_DRAINING 0)

/-- The notice of a drain's end, to the channel that the request named (19_keeper_minil R470). -/
def State.ckNotice (s : State) (q : CkReq) (kind : Nat) (fields : List Byte) : State :=
  s.notice (q.sender / 65536 % 32768) q.rch q.seq q.prov kind fields

/-- A drain aborted (12_update_and_fixer R307): FX_CKSTEP stays, and a CKPT_ABORTED notice carries the code. -/
def State.abortDrain (s : State) (code : Nat) : State :=
  match s.ck.drain with
  | none => s
  | some d => s.drainEnded.ckNotice d.req 2 (leBytes 8 d.step ++ leBytes 2 code)

/-- The application cores held in reset (15_application_cores R365), which clears their channels (19_keeper_minil R449). -/
def State.stopApps (s : State) : State :=
  State.mbxReset (chans := s.chansOf 3) <| forEach (s.apps.map (fun e => e.1)) (fun s i =>
    ({ s with apps := mset {} s.apps i { mget s.apps i {} with wait := none } } : State).wr (acU i) Reg.AC_STAT_RUN 0) s

/-- The update engines stopped, and every reduction layer abandoned. -/
def State.stopUpdates (s : State) : State :=
  let s1 : State := { s with ues := s.ues.map (fun e => (e.1, { e.2 with busy := false, stopped := true })),
                             red := { s.red with ready := [], order := [], layers := [] } }
  let s2 := forEach (s1.ues.map (fun e => e.1)) (fun s die => s.wr (ueU die) Reg.UE_STAT_BUSY 0) s1
  forEach (List.range 5) (fun s n => (s.wr (rdU n) Reg.RD_STAT_BUSY 0).wr (rdU n) Reg.RD_STAT_QUEUED 0) s2

/-- The stage queues emptied: no post, no entry and no load is left in them. -/
def State.emptyStages (s : State) : State :=
  { s with stqs := s.stqs.map (fun e =>
      (e.1, { e.2 with posts := [], sending := [], waits := [], released := e.2.arrived, freed := e.2.sent })) }

/-- The ingest streams stopped and their queue pairs moved to Reset. -/
def State.stopStreams (s : State) : State :=
  let s1 : State := { s with
    streams := s.streams.map (fun e => (e.1, e.2.map (fun x => { x with samples := [], held := [], stalled := false })))
    qps := s.qps.map (fun e => (e.1, { e.2 with st := 0, reads := [] })) }
  forEach (s1.streams.map (fun e => e.1)) (fun s k =>
    ((s.wr (strU k) Reg.STR_STAT_ACTIVE 0).wr (strU k) Reg.STR_STAT_STALLED 0).wr (strU k) Reg.STR_STAT_INFLIGHT 0) s1

/-- Every engine, application core, reduction layer, stage queue and ingest stream stopped, the drain aborted and the step
watchdog stopped (R433 steps 1 to 4, R466). -/
def State.stopEngines (s : State) (code : Nat) : State :=
  let s1 := (s.stopApps.stopUpdates.emptyStages.stopStreams).abortDrain code
  ({ s1 with fix := { s1.fix with watch := false, decision := none } } : State).wr keeperU Reg.FX_STAT_DWAIT 0

/-- The bytes of a signal (Table 18-5). -/
def Fog.bytes (f : Fog) : List Byte :=
  leBytes 2 f.origin ++ leBytes 2 f.suspect ++ leBytes 2 f.code ++ leBytes 1 (f.kind % 4 + 16 * (f.port % 16)) ++
    leBytes 1 f.hops ++ leBytes 4 f.epoch ++ leBytes 4 f.fseq ++ leBytes 8 f.step ++ leBytes 8 f.time

/-- What a keeper does with a signal it accepts, after forwarding it (R433); a bridge module's keeper then tells its host
(19_keeper_minil R470). `unit` is the unit at fault as far as the keeper knows it. -/
def State.fogActions (s : State) (f : Fog) (unit : Nat) : State :=
  let halts := if f.kind = 0 then (f.code, unit, f.step) :: s.rcv.halts else s.rcv.halts
  let links := if f.kind = 1 then (f.suspect, f.origin, f.port) :: s.rcv.links else s.rcv.links
  let s1 : State := { s with log := { s.log with faults := addFault s.log.faults f.suspect f.kind },
                             rcv := { s.rcv with halts := halts, links := links } }
  let s2 := (s1.wr keeperU Reg.RCV_STAT_FSET (Nat.min 255 s1.log.faults.length)).bump keeperU Reg.RCV_FOGS_COUNT 1
  let s3 := if s2.running then
      let s3 : State := { s2 with job := { s2.job with st := .stopped } }
      (s3.stopCores.stopEngines f.code).wr keeperU Reg.RCV_STAT_STATE 2
    else s2
  if s3.bridge then s3.notice s3.job.modId 9 0 false 3 f.bytes else s3

/-- The signal of an entry that this keeper raises. -/
def State.ownFog (s : State) (code kind suspect port : Nat) : Fog :=
  { origin := s.job.modId, suspect := suspect, code := code, kind := kind, port := port, hops := 0,
    epoch := s.rd keeperU Reg.PLC_EPOCH_VALUE, fseq := s.log.fogSeq, step := s.rd keeperU Reg.FX_STEP_LO_VALUE,
    time := s.jobTime }

/-- The first signal of a recovery window is recorded, and its attempts are counted anew (Table 18-7). -/
def State.noteFog (s : State) (f : Fog) : State :=
  if s.rd keeperU Reg.RCV_STAT_STATE = 1 && s.running then
    ((s.wr keeperU Reg.RCV_FOG1_ORIGIN f.origin).wr keeperU Reg.RCV_FOG1_CODE f.code).wr keeperU Reg.RCV_STAT_ATTEMPT 0
  else s

/-- An entry of class HALT, LINK or MODULE: while the job runs it raises a fog signal, which the keeper handles as its
own (R431, R433). -/
def State.logFault (s : State) (code cls u : Nat) (suspect port : Nat) (d0 d1 d2 d3 : Nat := 0) : State :=
  let raise := s.running
  let s1 := s.pushEntry (s.newEntry code cls raise (s.unitAddr u) d0 d1 d2 d3)
  if raise then
    let f := s1.ownFog code (cls - 3) suspect port
    let s2 : State := { s1 with log := { s1.log with fogSeq := s1.log.fogSeq + 1, seen := (f.origin, f.fseq) :: s1.log.seen } }
    ((s2.flood f 12).noteFog f).fogActions f (s.unitAddr u)
  else s1

/-- An entry of class HALT of a unit of this module. -/
def State.logHalt (s : State) (code u : Nat) (d0 d1 d2 d3 : Nat := 0) : State :=
  s.logFault code cHALT u s.job.modId 0 d0 d1 d2 d3

/-- A core that halts by itself (R237): what is in flight is abandoned, the cause is logged with class HALT. -/
def State.haltCore (s : State) (die core code : Nat) (via : Bool) (tag : Nat) (d0 d1 d2 d3 : Nat) : State :=
  (s.coreDown die core (haltCause code) via tag).logHalt code (seqU die core) d0 d1 d2 d3

/-- A halt whose details are the core's place and cycle. -/
def State.haltCoreAt (s : State) (die core code : Nat) : State :=
  s.haltCore die core code false 0 (s.rd (seqU die core) Reg.SEQ_PC_PC) (s.rd (seqU die core) Reg.SEQ_CYC_LO_VALUE) 0 0

end Sys2Proof.Machine
end

