-- ==== Sys2Proof/Machine/Flags.lean ====
section
/-!
DEFINITION. The event flags of a step: which events set which flag of the vote, what the layer table counts, and what is
logged once a step (11_backward_pass R284, 12_update_and_fixer R300, 18_faults_and_relief R426).
-/
namespace Sys2Proof.Machine

/-- The address of a byte of a layer-table entry (11_backward_pass R282). -/
def ltAddr (n off : Nat) : Nat := epAddr keeperU (0x800000 + 64 * n + off)

/-- A field of a layer-table entry (Table 11-5). -/
def State.lt (s : State) (n off len : Nat) : Nat := s.numAt (ltAddr n off) len

/-- A layer-table counter added to, stopping at its largest value (R284). Events of a layer that the job does not have
belong to no entry (R283). -/
def State.ltAdd (s : State) (layer off len n : Nat) : State :=
  if layer < s.job.nlayer && n ≠ 0 then
    s.putNum (ltAddr layer off) len (satAdd (s.lt layer off len) n (2 ^ (8 * len) - 1))
  else s

/-- The vote flags (Table 12-3). -/
def fNONFIN : Nat := 1
def fCLAMP : Nat := 2
def fRMIS : Nat := 4
def fSTALE : Nat := 8

/-- A flag of the vote set, with its entry of class SKIP written once a step and unit (R300, R426). -/
def State.flagEvent (s : State) (u flag code : Nat) : State :=
  let s1 : State := { s with fix := { s.fix with flags := s.fix.flags ||| flag } }
  if s.fix.logged.contains (u, code) then s1
  else { s1 with fix := { s1.fix with logged := (u, code) :: s1.fix.logged } }.logAs code cSKIP u

/-- Conversion events of a unit that belong to a layer. -/
def State.addEvents (s : State) (u layer : Nat) (ev : Events) : State :=
  let s1 := if ev.nonfin = 0 then s else s.flagEvent u fNONFIN eNONFINITE
  let s2 := if ev.clamp = 0 then s1 else s1.flagEvent u fCLAMP eCLAMP
  ((s2.ltAdd layer 0x0C 4 ev.clamp).ltAdd layer 0x10 4 ev.nonfin).ltAdd layer 0x14 2 ev.qsat

/-- Index events, drops, spills and packer events of a layer. -/
def State.addIrreg (s : State) (layer n : Nat) : State := s.ltAdd layer 0x16 2 n

/-- A contribution offered to AMAX_CUR of a layer (R284). -/
def State.offerAmax (s : State) (layer v : Nat) : State :=
  if layer < s.job.nlayer then s.putNum (ltAddr layer 0x08) 4 (amaxBits (s.lt layer 0x08 4) (v % 2 ^ 31)) else s

/-- The signed GSHIFT of a layer in a die's format copy (R288). -/
def State.gshiftOf (s : State) (die layer : Nat) : Int := sext 8 (mget s.gshift (4096 * die + layer) 0)

end Sys2Proof.Machine
end

