-- ==== Sys2Proof/Machine/Ring.lean ====
section
/-!
DEFINITION. The reduction ring: chunks and segments, contributions, flag words, and what a mismatch does
(13_gradient_reduction R314 to R323, R328).
-/
namespace Sys2Proof.Machine

/-! ### Ring positions, segments and chunks (R314, R316, R322) -/

/-- The ring entry of a layer with this module's position in its ring; none where the module takes no part. -/
def State.redEnt (s : State) (layer : Nat) : Option (RedEnt × Nat) :=
  match s.red.ents.find? (fun e => e.1 == layer) with
  | none => none
  | some (_, e) => (e.ring.findIdx? (fun m => m == s.job.modId)).map (fun p => (e, p))

def RedEnt.len (e : RedEnt) : Nat := e.ring.length

/-- The segments of a layer. -/
def RedEnt.segs (e : RedEnt) : Nat := ceilDiv e.nelem 40

/-- The first segment of a chunk. -/
def RedEnt.lo (e : RedEnt) (r : Nat) : Nat := r * e.segs / e.len

/-- The chunk of a segment. -/
def RedEnt.chunkOf (e : RedEnt) (j : Nat) : Nat := ((j + 1) * e.len - 1) / e.segs

/-- The segments of a chunk. -/
def RedEnt.chunkSegs (e : RedEnt) (r : Nat) : List Nat := (List.range (e.lo (r + 1) - e.lo r)).map (fun i => e.lo r + i)

/-- The elements of a segment. -/
def RedEnt.elems (e : RedEnt) (j : Nat) : Nat := Nat.min 40 (e.nelem - 40 * j)

/-- Whether a position is the first that adds to a chunk. -/
def RedEnt.first (e : RedEnt) (p r : Nat) : Bool := p == (r + 1) % e.len

/-- The module at a ring position. -/
def RedEnt.moduleAt (e : RedEnt) (p : Nat) : Nat := e.ring.getD (p % e.len) 0

/-! ### Sums (R319 to R321) -/

/-- A 48-bit two's-complement sum from an exact one, and whether it saturated. -/
def sum48 (i : Int) : Nat × Bool :=
  let (v, sat) := satInt 48 i
  (wrapInt 48 v, sat)

/-- Two 48-bit sums added. -/
def add48 (a b : Nat) : Nat × Bool := sum48 (sext 48 a + sext 48 b)

/-- The integer nearest to a finite value, ties to even. -/
def rneInt (s : Bool) (m : Nat) (e : Int) : Int :=
  let n := roundQuantum .rne m e 0
  if s then -(n : Int) else n

/-- A staged FP32 value as a contribution: the integer, and whether a CLAMP or a NONFINITE event is reported (R319). -/
def contribution (rshift : Int) (v : Nat) : Int × Bool × Bool :=
  match ofF32 v with
  | .fin s m e =>
    let (c, sat) := satInt 32 (rneInt s m (e + rshift))
    (c, sat, false)
  | _ => (0, false, true)

/-- A list of 48-bit sums as payload bytes (R321). -/
def sumBytes (l : List Nat) : List Byte := l.flatMap (leBytes 6)

/-- `n` sums of a payload. -/
def sumsOf (n : Nat) (bs : List Byte) : List Nat := (List.range n).map (fun i => leAt bs (6 * i) 6)

/-! ### Layers -/

def State.redLayer (s : State) (layer : Nat) : RedLayer := mget s.red.layers layer {}

def State.setRedLayer (s : State) (layer : Nat) (l : RedLayer) : State :=
  { s with red := { s.red with layers := mset {} s.red.layers layer l } }

/-- Whether a layer has started (R318). -/
def State.redStarted (s : State) (layer : Nat) : Bool := s.red.order.contains layer

/-- The RSHIFT of a layer in force for the step. -/
def State.rshift (s : State) (layer : Nat) : Int := sext 8 (s.lt layer 3 1)

/-- The low 32 bits of the step counter. -/
def State.step32 (s : State) : Nat := s.rd keeperU Reg.FX_STEP_LO_VALUE % 2 ^ 32

/-- Whether every segment of a module's own chunk is written, so that its sums are delivered to the update engines (R293,
R328). -/
def State.redDelivered (s : State) (layer : Nat) : Bool :=
  match s.redEnt layer with
  | none => false
  | some (e, p) => s.redStarted layer && (e.chunkSegs p).all (fun j => (s.redLayer layer).sent.contains j)

/-- Whether a layer's reduction is complete at this module (R328). -/
def State.redComplete (s : State) (layer : Nat) : Bool :=
  match s.redEnt layer with
  | none => true
  | some (e, _) =>
    let l := s.redLayer layer
    s.redStarted layer && decide (l.sent.length = e.segs) && decide (l.wordsDone.length = e.len) && l.upSent && l.upWord &&
      l.compared && l.stored.isSome

/-- Registers of the reduction units that show their layers (Table 13-4). -/
def State.redStat (s : State) : State :=
  let left := s.red.order.filter (fun n => !s.redComplete n)
  forEach (List.range 5) (fun s n =>
    (s.wrB (rdU n) Reg.RD_STAT_BUSY (!left.isEmpty)).wr (rdU n) Reg.RD_STAT_QUEUED left.length) s

/-! ### Flag words (Table 13-2) -/

/-- The bytes of a flag word. -/
def FlagWord.bytes (w : FlagWord) : List Byte :=
  leBytes 2 (w.flags % 4) ++ leBytes 2 w.layer ++ leBytes 4 w.ramax ++ leBytes 4 w.step ++ leBytes 2 w.hops ++ leBytes 2 0

/-- A flag word from its bytes. -/
def FlagWord.ofBytes (bs : List Byte) : FlagWord :=
  { flags := leAt bs 0 1 % 4, layer := leAt bs 2 2, ramax := leAt bs 4 4, step := leAt bs 8 4, hops := leAt bs 12 2 }

/-- Two flag words of one layer and step combined (R323). -/
def FlagWord.join (a b : FlagWord) : FlagWord :=
  { a with flags := a.flags ||| b.flags, ramax := amaxBits a.ramax b.ramax, hops := (a.hops + b.hops) % 65536 }

/-- A REDUCE_MISMATCH found by a unit (R323, R326, R327): the vote's RMIS, the entry, and the capture registers. -/
def State.redMismatch (s : State) (u layer elem ring tree : Nat) (hops : Bool) : State :=
  let s1 : State := { s with fix := { s.fix with flags := s.fix.flags ||| fRMIS } }
  let s2 := s1.logAs eREDUCE_MISMATCH cSKIP u layer elem ring tree
  (((((s2.wr u Reg.RD_STAT_MISMATCH 1).wr u Reg.RD_MIS_LAYER_LAYER layer).wrB u Reg.RD_MIS_LAYER_HOPS hops).wr u
    Reg.RD_MIS_ELEM_INDEX elem).wr u Reg.RD_MIS_RING_LO_VALUE ring).wr u Reg.RD_MIS_TREE_LO_VALUE tree

/-- A chunk's flag word passed on with this module's values, or kept by the owner, which checks HOPS (R322, R323). -/
def State.redWord (s : State) (e : RedEnt) (p layer r : Nat) : State :=
  let l := s.redLayer layer
  let o := mget l.own r (0, 0)
  let mine : FlagWord := { flags := o.1, layer := layer, ramax := o.2, step := s.step32, hops := 1 }
  let w := match l.wordIn.find? (fun x => x.1 == r) with
    | some x => x.2.join mine
    | none => mine
  let l1 : RedLayer := { l with wordsDone := r :: l.wordsDone }
  if p = r then
    let s1 := s.setRedLayer layer { l1 with final := some w }
    let lane := if e.lo (r + 1) = e.lo r then 0 else (e.lo (r + 1) - 1) % 4
    if w.hops = e.len then s1 else s1.redMismatch (rdU lane) layer max32 0 0 true
  else
    (s.setRedLayer layer l1).emit (.reduction 3 (e.moduleAt (p + 1)) layer 0 s.step32 w.bytes)

/-- Every flag word that can be passed on: its chunk's segments are done at this position, and the word of the position
before has come (R322). -/
def State.redWords (s : State) (layer : Nat) : State :=
  match s.redEnt layer with
  | none => s
  | some (e, p) =>
    (forEach (List.range e.len) (fun s r =>
      let l := s.redLayer layer
      if s.redStarted layer && !l.wordsDone.contains r && (e.chunkSegs r).all (fun j => l.sent.contains j) &&
          (e.first p r || l.wordIn.any (fun x => x.1 == r)) then s.redWord e p layer r
      else s) s).redStat

end Sys2Proof.Machine
end

