-- ==== Sys2Proof/Machine/Doors.lean ====
section
/-!
DEFINITION. Registers whose access is an operation of a unit: posts to and releases of stage queues, ready words of the
reduction, arrivals of samples, access-unit counts and the keeper's heartbeat (13_gradient_reduction R318,
15_application_cores R371, R372, 16_hormen_fabric R385, 17_multi_module_jobs R409 to R412).
-/
namespace Sys2Proof.Machine

/-! ### Stage queues -/

/-- The unit of L5's endpoint for port 10 or 11. -/
def stageU (ep : Nat) : Nat := unitOf 37 0 ep

def sendKey (ep q : Nat) : Nat := 16 * ep + q
def recvKey (ep q : Nat) : Nat := 16 * ep + 8 + q

def State.stq (s : State) (k : Nat) : StageQ := mget s.stqs k {}
def State.setStq (s : State) (k : Nat) (q : StageQ) : State := { s with stqs := mset {} s.stqs k q }

/-- A 16-byte store to STQ_POSTq (R409). The store is answered when the entry is complete. -/
def State.stqPost (s : State) (ep q src : Nat) (bs : List Byte) : State × Nat :=
  if bs.length ≠ 16 then (s, eALIGN)
  else
    let k := sendKey ep q
    let x := s.stq k
    (s.setStq k { x with posts := x.posts ++ [⟨x.posted, leAt bs 0 8, leAt bs 8 2, src⟩], posted := x.posted + 1 }, 0)

/-- The value that a load of entry `n` returns (R411). -/
def StageQ.entryWord (q : StageQ) (n : Nat) : Nat :=
  let slot := if q.depth = 0 then 0 else n % q.depth
  slot + 65536 * mget q.mbs slot 0 + 2 ^ 32 * (n % 2 ^ 32)

/-- The entry that place `i` of the wait window stands for: the lowest at or above the released count with that
residue (R411). -/
def StageQ.entryOf (q : StageQ) (i : Nat) : Nat := q.released + (4096 + i - q.released % 4096) % 4096

/-- An 8-byte load of the wait window: the entry's word, or nothing while the entry is not in the ring. -/
def State.stqLoad (s : State) (ep q i : Nat) : Option Nat :=
  let x := s.stq (recvKey ep q)
  let n := x.entryOf i
  if n < x.arrived then some (x.entryWord n) else none

/-- A store to STQ_RELq of the cumulative released count, modulo 2^32 (R412). It is ignored and logged where it goes
backwards or passes the arrived count. -/
def State.stqRel (s : State) (ep q count : Nat) : State :=
  let k := recvKey ep q
  let x := s.stq k
  let step := (2 ^ 32 + count - x.released % 2 ^ 32) % 2 ^ 32
  if x.released + step ≤ x.arrived then
    let s1 := (s.setStq k { x with released := x.released + step }).wr (stageU ep) (Reg.STQ_RELD_COUNT q)
      (x.released + step)
    s1.emit (.stg (10 + ep) 1 q false false (s.rd keeperU Reg.PLC_EPOCH_VALUE % 4096) 0
      (leBytes 4 count ++ List.replicate 236 0))
  else s.logEvent ePARTNER (stageU ep) q count x.released x.arrived

/-! ### Ready words -/

/-- A ready word at the L0 unit (R317, R318): counted, and with the last one the layer starts. -/
def State.rdReady (s : State) (layer step : Nat) : State :=
  let extra (s : State) : State := (s.bump (rdU 0) Reg.RD_EXTRA_COUNT 1).logEvent ePARTNER (rdU 0) layer step
  match s.redEnt layer with
  | none => extra s
  | some (e, _) =>
    if s.red.order.contains layer || step ≠ s.rd keeperU Reg.FX_STEP_LO_VALUE % 2 ^ 32 then extra s
    else
      let n := mget s.red.ready layer 0 + 1
      let r1 : RedSt := { s.red with ready := mset 0 s.red.ready layer n }
      if n < e.nsrc then { s with red := r1 }
      else ({ s with red := { r1 with order := r1.order ++ [layer] } } : State).redWords layer

/-! ### Streams -/

/-- A read of STR_ARR_LO (R371): the oldest arrival leaves its queue and is captured; all ones where there is none. -/
def State.strArrRead (s : State) (slot : Nat) : State × Nat :=
  let u := strU slot
  let cap (s : State) (d p l : Nat) : State :=
    (((((s.wr u Reg.STR_ARR_LO_DRAW d).wr u Reg.STR_ARR_HI_DRAW (d / 2 ^ 32)).wr u Reg.STR_ARR_POS_LO_POS p).wr u
      Reg.STR_ARR_POS_HI_POS (p / 2 ^ 32)).wr u Reg.STR_ARR_LEN_LEN l)
  match mget s.arrivals slot [] with
  | [] => (cap s (2 ^ 64 - 1) (2 ^ 64 - 1) max32, 2 ^ 64 - 1)
  | (d, p, l) :: rest => (cap { s with arrivals := mset [] s.arrivals slot rest } d p l, d)

/-- A write of STR_AUPROD (R372): ignored and logged where it is more than the ring's size ahead of STR_AUCONS. -/
def State.strAuprod (s : State) (slot count : Nat) : State :=
  let u := strU slot
  let ahead := (2 ^ 32 + count - s.rd u Reg.STR_AUCONS_COUNT) % 2 ^ 32
  if 2 ^ mget s.auLog slot 0 < ahead then s.logEvent ePARTNER u slot count (s.rd u Reg.STR_AUCONS_COUNT)
  else s.wr u Reg.STR_AUPROD_COUNT count

end Sys2Proof.Machine
end

