-- ==== Sys2Proof/Machine/Pins.lean ====
section
/-!
DEFINITION. FAULT_N and SMB_ALERT_N, the permitted power state, and what the darkroom's registers show (20_darkroom_security
R490; 21_power_cooling R498; 22_connectors_startup R509, R512).
-/
namespace Sys2Proof.Machine

/-! ### FAULT_N (R509) -/

/-- What drives FAULT_N low: a fuse mismatch, a loss of lock, a thermal trip, a failed stage. -/
def fuseFault : Nat := 1
def lockFault : Nat := 2
def tripFault : Nat := 3
def stageFault : Nat := 4

/-- FAULT_N driven for a cause; as it goes low, SMB_ALERT_N is asserted (R512). -/
def State.raiseFault (s : State) (c : Nat) : State :=
  ({ s with sb := { s.sb with faults := if s.sb.faults.contains c then s.sb.faults else c :: s.sb.faults,
                              alert := s.sb.alert || s.sb.faults.isEmpty } } : State).wr sbU Reg.SB_STAT_FAULT 1

/-- A cause released. -/
def State.dropFault (s : State) (c : Nat) : State :=
  let l := s.sb.faults.filter (fun x => !(x == c))
  ({ s with sb := { s.sb with faults := l } } : State).wrB sbU Reg.SB_STAT_FAULT (!l.isEmpty)

/-! ### Stages (Table 22-6) -/

/-- SB_STAT.STAGE, and its value in recovery. -/
def State.stage (s : State) : Nat := s.rd sbU Reg.SB_STAT_STAGE
def stRECOVERY : Nat := 14

/-- Whether the keeper firmware runs: from the end of stage 4 on. -/
def State.firmwareRuns (s : State) : Bool := decide (5 ≤ s.stage) && decide (s.stage ≤ 8)

/-- Whether the ROM runs recovery (20_darkroom_security R483). -/
def State.inRecovery (s : State) : Bool := s.stage == stRECOVERY

/-! ### The permitted power state (21_power_cooling R497, R498) -/

/-- The deepest state whose typical wake, 5, 900 or 60,000 µs, lies within the tolerance and which the job state admits. -/
def State.permitted (s : State) : Nat :=
  let t := s.rd keeperU Reg.PWR_TOL_US
  if s.running then 0
  else if 60000 ≤ t && s.job.st == .noJob then 3
  else if 900 ≤ t then 2
  else if 5 ≤ t then 1
  else 0

/-- A wake cause (21_power_cooling R499). -/
def State.wakeCause (s : State) : State :=
  if s.rd keeperU Reg.PWR_STAT_PSTATE = 0 then s else { s with pwr := { s.pwr with waking := true } }

/-! ### The darkroom's view -/

def State.serial (s : State) : Nat := s.dkr.fuse.serial0
def State.rootHash (s : State) : List Byte := leBytes 32 s.dkr.fuse.root0
/-- OWNER_SET in force: the OR of its copies (20_darkroom_security R476). -/
def State.ownerSet (s : State) : Bool := s.dkr.fuse.set0 || s.dkr.fuse.set1
def State.ownerHash (s : State) : List Byte := if s.ownerSet then leBytes 32 s.dkr.fuse.owner0 else List.replicate 32 0
/-- The count of SVN_FLOOR in force. -/
def State.svn (s : State) : Nat := popCount 64 (s.dkr.fuse.svn0 ||| s.dkr.fuse.svn1)

/-- A digest in eight hash registers (R490). -/
def State.wrHash (s : State) (f : Nat → Field) (h : List Byte) : State :=
  forEach (List.range 8) (fun s i => s.wr dkrU (f i) (leAt h (4 * i) 4)) s

/-- The darkroom's registers as its state gives them (Table 20-6). -/
def State.showDkr (s : State) : State :=
  let s1 := ((s.wrB dkrU Reg.DKR_STAT_OWNER_SET s.ownerSet).wr dkrU Reg.DKR_STAT_SVN s.svn).wrB dkrU
    Reg.DKR_STAT_IMG_VALID (s.job.sha.any (fun b => b != 0))
  let s2 := (s1.wr dkrU Reg.DKR_SERIAL_LO_VALUE s.serial).wr dkrU Reg.DKR_SERIAL_HI_VALUE (s.serial / 2 ^ 32)
  ((s2.wrHash Reg.DKR_IMGSHA_VALUE s.job.sha).wrHash Reg.DKR_ROOTHASH_VALUE s.rootHash).wrHash Reg.DKR_OWNERHASH_VALUE
    s.ownerHash

end Sys2Proof.Machine
end

