-- ==== Sys2Proof/Machine/Operands.lean ====
section
/-!
DEFINITION. Operand forms: elements packed in bytes, scaled strips, slices and groups, and the descriptor's permutation
(02_number_formats R44 to R47, 03_cube_array R63, R64, R68, 07_streams_layout R164).
-/
namespace Sys2Proof.Machine

/-! ### Elements in bytes -/

/-- Codes of `w` bits packed from the lowest bit up, which is how every format packs its elements (R44, R45). -/
def packCodes (w : Nat) (codes : List Nat) : Nat := codes.foldr (fun c a => c % 2 ^ w + 2 ^ w * a) 0

/-- Codes of `w` bits as bytes; the codes fill whole bytes. -/
def codeBytes (w : Nat) (codes : List Nat) : List Byte := leBytes ((codes.length * w + 7) / 8) (packCodes w codes)

/-- The code of element `j` of a packed run. -/
def codeAt (w : Nat) (bs : List Byte) (j : Nat) : Nat := bitsOf (leNat bs) (w * j + w - 1) (w * j)

/-- `n` codes of a packed run. -/
def codesOf (w n : Nat) (bs : List Byte) : List Nat :=
  let v := leNat bs
  (List.range n).map (fun j => bitsOf v (w * j + w - 1) (w * j))

/-- Elements of an unscaled format decoded from their bytes. -/
def decodeRun (f : Fmt) (n : Nat) (bs : List Byte) : List Num := (codesOf f.bits n bs).map (decodeElem f)

/-- Values converted into an unscaled format, each with its rounding; the bytes and the events. -/
def encodeRun (f : Fmt) (ovf : Ovf) (xs : List (Num × Rounding)) : List Byte × Events :=
  let es := xs.map (fun p => encodeElem f ovf p.2 p.1)
  (codeBytes f.bits (es.map (fun e => e.1)), es.foldl (fun a e => a.add e.2) Events.none)

/-! ### Strips (R44 to R47) -/

/-- The element of a strip decoded (R43). -/
def stripElem (f : Fmt) (strip : List Byte) (j : Nat) : Num :=
  let sc := (strip.getD (j / 32) 0).toNat
  decodeMX f sc (codeAt f.bits (slice strip (8 + j / 32 * f.blockBytes) f.blockBytes) (j % 32))

/-- All 256 elements of a strip. -/
def stripElems (f : Fmt) (strip : List Byte) : List Num :=
  (List.range 8).flatMap (fun b =>
    let sc := (strip.getD b 0).toNat
    (codesOf f.bits 32 (slice strip (8 + b * f.blockBytes) f.blockBytes)).map (decodeMX f sc))

/-- A list cut into runs of `n` (`n > 0`), each filled up to `n` with a value; `k` bounds how many. -/
def chunksOf {α : Type} (n : Nat) (pad : α) : Nat → List α → List (List α)
  | 0, _ => []
  | k + 1, l => ((l.take n) ++ List.replicate (n - l.length) pad) :: chunksOf n pad k (l.drop n)

/-- One strip formed from the elements of a row that it holds, at most 256: blocks that hold an element are converted,
positions beyond the row are zero, and blocks without an element get the scale byte 0x7F (R47, R53). -/
def encodeStrip (f : Fmt) (fit : Bool) (xs : List (Num × Rounding)) : List Byte × Events :=
  let nblk := ceilDiv xs.length 32
  let blks := (chunksOf 32 (Num.zero, Rounding.rne) nblk xs).map
    (fun b => encodeBlock f fit (b.map (fun p => p.2)) (b.map (fun p => p.1)))
  let valid (b : Nat) : Nat := Nat.min 32 (xs.length - 32 * b)
  let scales := blks.map (fun b => BitVec.ofNat 8 b.1) ++ List.replicate (8 - nblk) (0x7F : Byte)
  let data := blks.zipIdx.flatMap (fun p =>
    codeBytes f.bits ((p.1.2.1).take (valid p.2) ++ List.replicate (32 - valid p.2) 0))
  (scales ++ data ++ List.replicate ((8 - nblk) * f.blockBytes) 0,
   blks.foldl (fun a b => a.add b.2.2) Events.none)

/-! ### Slices and groups -/

/-- A 256-byte slice of an unscaled format. -/
def Slice.ofBytes (bs : List Byte) : Slice := ⟨(List.range 16).map (fun r => (127, slice bs (16 * r) 16))⟩

/-- The slices of a group, from its bytes and the strip size (R64). -/
def groupSlices (strip : Nat) (bs : List Byte) : List Slice :=
  let n := if strip = 264 then 16 else 8
  let w := if strip = 200 then 24 else 16
  (List.range n).map (fun j => ⟨(List.range 16).map (fun r =>
    ((bs.getD (r * strip + (if strip = 264 then j / 2 else j)) 0).toNat, slice bs (r * strip + 8 + w * j) w))⟩)

/-- The K positions of one slice (R63, R64). -/
def Fmt.sliceK (f : Fmt) : Nat := if f.isMX then (if f.bits = 8 then 16 else 32) else 16 / f.bytes

/-- A byte of a slice whose rows hold 16 bytes. -/
def Slice.byteAt (sl : Slice) (o : Nat) : Byte := (sl.rows.getD (o / 16) (127, [])).2.getD (o % 16) 0

/-- Row `r` of a slice as the cube multiplies it; `t` marks a K-major slice (R68), whose element (r, k) stands at element
place `16 k + r`. -/
def Slice.row (f : Fmt) (t : Bool) (sl : Slice) (r : Nat) : List Num :=
  if t && !f.isMX then
    (List.range f.sliceK).map (fun k =>
      decodeElem f (leNat ((List.range f.bytes).map (fun b => sl.byteAt ((16 * k + r) * f.bytes + b)))))
  else
    let (sc, bs) := sl.rows.getD r (127, [])
    (codesOf f.bits f.sliceK bs).map (fun c => if f.isMX then decodeMX f sc c else decodeElem f c)

/-- The sixteen rows of a slice. -/
def Slice.matrix (f : Fmt) (t : Bool) (sl : Slice) : List (List Num) := (List.range 16).map (sl.row f t)

/-- The operand class of a pair of formats, as the way its chunks are added (R55, R56, R58, R59); none where no class
holds both. -/
def pairKind (a b : Fmt) : Option ChunkKind :=
  match a, b with
  | .bf16, .bf16 => some .seq
  | .fp16, .fp16 => some .seq
  | .int8, .int8 => some .int
  | _, _ =>
    let fp8 (f : Fmt) : Bool := f == .e4m3 || f == .e5m2 || f == .mx8e4m3 || f == .mx8e5m2
    let sub (f : Fmt) : Bool := f == .mx6e3m2 || f == .mx6e2m3 || f == .mx4e2m1
    if (fp8 a && fp8 b) || (sub a && sub b) then some .exact else none

/-! ### The permutation of a descriptor (R164) -/

/-- The order of the remote dimensions on the local side, innermost first. -/
def permDecode (perm : Nat) : List Nat :=
  let stepOne (st : Nat × List Nat × List Nat) (radix : Nat) : Nat × List Nat × List Nat :=
    let c := st.1 / radix
    (st.1 % radix, st.2.1.eraseIdx c, st.2.2 ++ [st.2.1.getD c 0])
  let st := [24, 6, 2, 1].foldl stepOne (perm, [0, 1, 2, 3, 4], [])
  st.2.2 ++ [st.2.1.getD 0 0]

end Sys2Proof.Machine
end

