-- ==== Sys2Proof/Machine/Cube.lean ====
section
/-!
DEFINITION. The cubes and the matrix-vector unit: modes, streamed and stationary operands, issues, sparse tiles and the
accumulation of chunks (03_cube_array R63 to R80, 04_weight_sparsity R91 to R106, 09_core_sequencer R218 to R220).
-/
namespace Sys2Proof.Machine

/-! ### Modes and operand reads -/

/-- The modes of a cube in cycle `t`: A format, B format and sparsity (R218). -/
def CubeSt.mode (q : CubeSt) (t : Nat) : Nat × Nat × Bool :=
  match q.modeNext with
  | some (c, a, b, sp) => if c ≤ t then (a, b, sp) else (q.afmt, q.bfmt, q.sparse)
  | none => (q.afmt, q.bfmt, q.sparse)

/-- SETMODE in cycle `t`: it applies to issues from the next advancing cycle on. -/
def CubeSt.setMode (q : CubeSt) (t a b : Nat) (sp : Bool) : CubeSt :=
  let (pa, pb, ps) := q.mode t
  { q with afmt := pa, bfmt := pb, sparse := ps, modeNext := some (t + 1, a, b, sp) }

/-- The stationary loads that have become usable by cycle `t` put in place (R71). -/
def CubeSt.landLoads (q : CubeSt) (t : Nat) : CubeSt :=
  { q with
    stat := (q.sload.filter (fun l => decide (l.1 ≤ t))).foldl (fun m l => mset Slice.empty m l.2.1 l.2.2) q.stat
    sload := q.sload.filter (fun l => !decide (l.1 ≤ t)) }

/-- One access of a streamed MX group (R219). -/
def StreamSt.groupAccess (st : StreamSt) (fcode : Nat) (f : Fmt) (t : Nat) (bs : List Byte) (gstart short : Bool) :
    StreamSt :=
  let started : Option GroupAsm :=
    if gstart then some ⟨t, fcode, 0, bs⟩
    else match st.asm with
      | some g => if g.fmt = fcode && g.cyc + 1 = t then some { g with cyc := t, bytes := g.bytes ++ bs } else none
      | none => none
  let bad0 := st.bad || (gstart && (st.asm.isSome || decide (2 ≤ st.groups.length)))
  match started with
  | none => { st with asm := none, bad := true }
  | some g =>
    let size := 16 * f.stripBytes
    if short then
      if g.bytes.length = size then
        { st with asm := none, bad := bad0, groups := st.groups ++ [groupSlices f.stripBytes g.bytes] }
      else { st with asm := none, bad := true }
    else if size ≤ g.bytes.length then { st with asm := none, bad := true }
    else { st with asm := some g, bad := bad0 }

/-- One unscaled access: a pair of slices, kept for this cycle and the next (R72). -/
def StreamSt.pairAccess (st : StreamSt) (t : Nat) (bs : List Byte) : StreamSt :=
  { st with pairs := (t, bs) :: st.pairs.filter (fun p => decide (t ≤ p.1 + 1)) }

/-- The bytes that the reads of a cycle streamed, in the order of their ports (assumption 15). -/
def StreamSt.nowBytes (st : StreamSt) (t : Nat) : List Byte :=
  (st.pairs.filter (fun p => p.1 == t)).reverse.flatMap (fun p => p.2)

/-- Whether a group is left without an access in a cycle that has come (R219). -/
def StreamSt.gap (st : StreamSt) (t : Nat) : Bool :=
  match st.asm with
  | some g => decide (g.cyc < t)
  | none => false

/-- A streamed read delivered to a cube (R70, R216). A sparse operand's reads are taken as raw bytes of its tile. -/
def CubeSt.stream (q : CubeSt) (t : Nat) (isB : Bool) (bs : List Byte) (gstart short : Bool) : CubeSt :=
  let (a, b, sp) := q.mode t
  let code := if isB then b else a
  let upd (st : StreamSt) : StreamSt :=
    match fmtOfCode code with
    | some f => if f.isMX && !(isB && sp) then st.groupAccess code f t bs gstart short else st.pairAccess t bs
    | none => st.pairAccess t bs
  if isB then { q with opB := upd q.opB } else { q with opA := upd q.opA }

/-- The slices that a finished stationary group brings, by its size. -/
def statGroup (bs : List Byte) : List Slice :=
  if bs.length = 2176 then groupSlices 136 bs
  else if bs.length = 3200 then groupSlices 200 bs
  else if bs.length = 4224 then groupSlices 264 bs
  else []

/-- A stationary load's access (R71, R72): a pair of slices, or one access of a group whose slices come with its last
access. The accesses of a group name its set and its first position; a last access of no group brings no slice
(assumption 16). -/
def CubeSt.statLoad (q : CubeSt) (t set pos : Nat) (bs : List Byte) (gstart short : Bool) : CubeSt :=
  let place (p0 : Nat) (sls : List Slice) : List (Nat × Nat × Slice) :=
    (sls.zipIdx.filter (fun x => decide (p0 % 32 + x.2 < 32))).map (fun x => (t + 3, p0 + x.2, x.1))
  let p := 32 * set + pos
  let others := q.statAsm.filter (fun g => !(g.pos == p))
  if gstart then { q with statAsm := others ++ [⟨t, 0, p, bs⟩] }
  else match q.statAsm.find? (fun g => g.pos == p) with
    | some g =>
      let bytes := g.bytes ++ bs
      if short then { q with statAsm := others, sload := q.sload ++ place p (statGroup bytes) }
      else { q with statAsm := others ++ [{ g with cyc := t, bytes := bytes }] }
    | none =>
      if short then q
      else { q with sload := q.sload ++ place p [Slice.ofBytes (slice bs 0 256), Slice.ofBytes (slice bs 256 256)] }

/-! ### Sparse tiles -/

/-- The header of a sparse tile (Table 4-1). -/
structure TileHead where
  form : Nat
  fmt : Nat
  kt : Nat
  nb : Nat
  cap : Nat
  voff : Nat
  moff : Nat
  size : Nat
  pkEvents : Nat
  rownb : List Nat
  deriving DecidableEq, Repr

/-- A header read from the first bytes of a tile. -/
def tileHead (bs : List Byte) : TileHead :=
  { form := leAt bs 0 1 % 4, fmt := leAt bs 1 1 % 32, kt := leAt bs 2 2, nb := leAt bs 4 2, cap := leAt bs 6 2,
    voff := leAt bs 8 2, moff := leAt bs 10 2, size := leAt bs 12 2, pkEvents := leAt bs 14 2,
    rownb := (List.range 16).map (fun r => leAt bs (16 + r) 1) }

/-- The formats of sparse tiles (R93). -/
def sparseFmt (code : Nat) : Option Fmt :=
  match fmtOfCode code with
  | some .fp32 => none
  | some .int32 => none
  | r => r

/-- Whether KT is one that R94 gives a tile of a format. -/
def ktLegal (f : Fmt) (kt : Nat) : Bool :=
  if f.isMX then kt == 256
  else if f.bits = 8 then decide (0 < kt) && kt % 16 == 0 && decide (kt ≤ 256)
  else decide (0 < kt) && kt % 8 == 0 && decide (kt ≤ 128)

/-- The groups of a tile (R94). -/
def tileG (kt : Nat) : Nat := 4 * kt

/-- The start of the values of a compressed tile (R98). -/
def compVoff (f : Fmt) (kt : Nat) : Nat := roundUp (32 + tileG kt / 8 + (if f.isMX then 128 else 0)) 256

/-- The start of the metadata of a compressed tile (R98). -/
def compMoff (f : Fmt) (kt nb : Nat) : Nat := roundUp (compVoff f kt + ceilDiv (2 * nb * f.bits) 8) 256

/-- The size of a compressed tile (R98). -/
def compSize (f : Fmt) (kt nb : Nat) : Nat := roundUp (compMoff f kt nb + ceilDiv nb 2) 256

/-- The size of a dense-stored tile (R99). -/
def denseSize (f : Fmt) (kt : Nat) : Nat :=
  roundUp (0x100 + (if f.isMX then 16 * f.stripBytes else 16 * kt * f.bytes)) 256

/-- The form that a tile takes (R100): dense-stored if that is smaller at full capacity. -/
def tileForm (f : Fmt) (kt cap : Nat) : Nat := if denseSize f kt < compSize f kt cap then 1 else 0

/-- The dense issue cycles of a tile (R102). -/
def tileD (f : Fmt) (kt : Nat) : Nat := kt / f.sliceK

/-- The issue cycles of a tile (R102). -/
def tileT (f : Fmt) (h : TileHead) : Nat :=
  let d := tileD f h.kt
  if h.form = 1 then d else Nat.max (ceilDiv d 4) (ceilDiv (d * h.cap) (2 * tileG h.kt))

/-- Whether group `g` of row `r` is blank, from the bitmap at offset 0x20 (R96). -/
def tileBlank (bs : List Byte) (kt r g : Nat) : Bool :=
  let b := r * (kt / 4) + g
  bitAt (bs.getD (0x20 + b / 8) 0).toNat (b % 8)

/-- The header check of R106; `declared` is the format code of the issue. -/
def headOk (bs : List Byte) (h : TileHead) (f : Fmt) (declared : Nat) : Bool :=
  decide (h.form ≤ 1) && h.fmt == declared && ktLegal f h.kt && h.nb == h.rownb.foldl (· + ·) 0 && decide (h.nb ≤ h.cap) &&
  (if h.form = 1 then h.voff == 0x100 && h.moff == 0 && h.size == denseSize f h.kt
   else
    h.voff == compVoff f h.kt && h.moff == compMoff f h.kt h.nb && h.size == compSize f h.kt h.nb &&
    (List.range 16).all (fun r =>
      ((List.range (h.kt / 4)).filter (fun g => !tileBlank bs h.kt r g)).length == h.rownb.getD r 0))

/-- The stored codes of one row of a tile: dense K position and code, with K ascending and the first value of a group
before the second where both name one position (R97, R98, R104). -/
def tileRowCodes (bs : List Byte) (h : TileHead) (f : Fmt) (r : Nat) : List (Nat × Nat) :=
  let first := (h.rownb.take r).foldl (· + ·) 0
  let gs := (List.range (h.kt / 4)).filter (fun g => !tileBlank bs h.kt r g)
  let code (e : Nat) : Nat :=
    bitsOf (leNat (slice bs (h.voff + e * f.bits / 8) 3)) (e * f.bits % 8 + f.bits - 1) (e * f.bits % 8)
  gs.zipIdx.flatMap (fun p =>
    let j := first + p.2
    let mb := (bs.getD (h.moff + j / 2) 0).toNat / (if j % 2 = 0 then 1 else 16) % 16
    let k0 := 4 * p.1 + mb % 4
    let k1 := 4 * p.1 + mb / 4
    if k1 < k0 then [(k1, code (2 * j + 1)), (k0, code (2 * j))] else [(k0, code (2 * j)), (k1, code (2 * j + 1))])

/-- The scale byte of a K position of one row of a compressed tile (R96). -/
def tileScale (bs : List Byte) (h : TileHead) (r k : Nat) : Nat :=
  (bs.getD (32 + tileG h.kt / 8 + 8 * r + k / 32) 0).toNat

/-- The value of a code at a K position of one row of a compressed tile. -/
def tileVal (bs : List Byte) (h : TileHead) (f : Fmt) (r k c : Nat) : Num :=
  if f.isMX then decodeMX f (tileScale bs h r k) c else decodeElem f c

/-- The stored values of one row of a tile. -/
def tileRow (bs : List Byte) (h : TileHead) (f : Fmt) (r : Nat) : List (Nat × Num) :=
  (tileRowCodes bs h f r).map (fun p => (p.1, tileVal bs h f r p.1 p.2))

/-- The terms of one row within a chunk of `n` K positions from `k0`: every position that no stored value names takes
part with +0, which makes the result that of the dense product of the expansion (R104). -/
def chunkTerms (row : List (Nat × Num)) (k0 n : Nat) : List (Nat × Num) :=
  (List.range n).flatMap (fun i =>
    match row.filter (fun p => p.1 == k0 + i) with
    | [] => [(i, Num.zero)]
    | l => l.map (fun p => (i, p.2)))

/-- The B terms of every chunk of a tile: for each chunk, the terms of the sixteen rows. -/
def tileChunks (bs : List Byte) (h : TileHead) (f : Fmt) : List (List (List (Nat × Num))) :=
  let n := f.sliceK
  if h.form = 1 then
    let sls := if f.isMX then groupSlices f.stripBytes (slice bs 0x100 (16 * f.stripBytes))
      else (List.range (tileD f h.kt)).map (fun c => Slice.ofBytes (slice bs (0x100 + 256 * c) 256))
    sls.map (fun sl => (sl.matrix f false).map (fun row => row.zipIdx.map (fun p => (p.2, p.1))))
  else
    let rows := (List.range 16).map (tileRow bs h f)
    (List.range (tileD f h.kt)).map (fun c => rows.map (fun row => chunkTerms row (c * n) n))

/-! ### Issues -/

/-- The answer of an issue: the cube after it, or the code with which the core halts at the end of the cycle and a detail
word for the log. -/
inductive IssueRes where
  | ok (q : CubeSt)
  | halt (q : CubeSt) (code detail : Nat)
  deriving DecidableEq, Repr

/-- The fields of a cube sub-slot (Table 9-4). -/
structure CubeSlot where
  acc : Nat
  asrc : Nat
  bsrc : Nat
  spos : Nat
  first : Bool
  half : Bool
  ta : Bool
  tb : Bool
  deriving DecidableEq, Repr

def cubeSlot (v : Nat) : CubeSlot :=
  { acc := bitsOf v 4 1, asrc := bitsOf v 6 5, bsrc := bitsOf v 8 7, spos := bitsOf v 13 9, first := bitAt v 14,
    half := bitAt v 15, ta := bitAt v 16, tb := bitAt v 17 }

/-- The accumulator class that an issue meets: that of the latest issue to the tile, else the tile's (R73). -/
def CubeSt.clsAt (q : CubeSt) (tile : Nat) : Nat :=
  match (q.ops.filter (fun o => o.tile == tile)).getLast? with
  | some o => if o.chunks.any (fun c => c.kind == .int) then 2 else 1
  | none => mget q.cls tile 0

/-- A streamed operand taken by an issue in cycle `t`: the slice and the operand after it; none where no slice is
there (R219, R225). -/
def StreamSt.take (st : StreamSt) (f : Fmt) (t : Nat) (half : Bool) : Option (Slice × StreamSt) :=
  if f.isMX then
    match st.bad || st.gap t, st.groups with
    | false, (sl :: rest) :: more => some (sl, { st with groups := if rest.isEmpty then more else rest :: more })
    | _, _ => none
  else
    match st.pairs.find? (fun p => p.1 == (if half then t - 1 else t)) with
    | some (_, bs) => if half && t = 0 then none else some (Slice.ofBytes (slice bs (if half then 256 else 0) 256), st)
    | none => none

/-- The operand of an issue: streamed, or from a stationary set (R69). -/
def CubeSt.operand (q : CubeSt) (isB : Bool) (f : Fmt) (src spos t : Nat) (half : Bool) : Option (Slice × CubeSt) :=
  if src = 0 then
    match (if isB then q.opB else q.opA).take f t half with
    | some (sl, st) => some (sl, if isB then { q with opB := st } else { q with opA := st })
    | none => none
  else some (mget q.stat (32 * (src - 1) + spos) Slice.empty, q)

/-- The dense terms of a slice's rows. -/
def denseTerms (rows : List (List Num)) : List (List (Nat × Num)) :=
  rows.map (fun row => row.zipIdx.map (fun p => (p.2, p.1)))

/-- An issue put in flight (R76), valid 18 cycles later. -/
def CubeSt.launch (q : CubeSt) (t : Nat) (tile : Nat) (first : Bool) (chunks : List Chunk) : CubeSt :=
  { q with ops := q.ops ++ [⟨t + 18, tile, first, chunks⟩] }

/-- A streamed operand whose broken sequence has had its halt. -/
def CubeSt.clearBad (q : CubeSt) : CubeSt :=
  { q with opA := { q.opA with bad := false, asm := none }, opB := { q.opB with bad := false, asm := none } }

/-- The class rule of R73 on an issue. -/
def CubeSt.clsBad (q : CubeSt) (sl : CubeSlot) (kind : ChunkKind) : Bool :=
  !sl.first && !(q.clsAt sl.acc == (if kind == .int then 2 else 1))

/-- One issue of a sparse tile in cycle `t` (R101 to R106, R219). `addr` is the offset of the cycle's first read. The first
issue fixes tile, FIRST bit, set and position, and later issues are taken as issues of that tile. The A slices are read with
the last issue; places beyond slice 31 of set 0 run on into set 1. A tile of which fewer bytes than its SIZE have come by
its last issue halts the core with COUNT (DESIGN CHOICE, assumptions 187 and 188). -/
def CubeSt.issueSparse (q : CubeSt) (t addr : Nat) (sl : CubeSlot) (fa fb : Fmt) (kind : ChunkKind) (code : Nat) :
    IssueRes :=
  let got := q.opB.nowBytes t
  let begun : Option SparseRun :=
    match q.run with
    | some r => some { r with issues := r.issues + 1, bytes := r.bytes ++ got }
    | none =>
      let h := tileHead got
      if !got.isEmpty && headOk got h fb code then
        some ⟨addr, 1, tileT fb h, got, sl.acc, sl.first, sl.asrc - 1, sl.spos⟩
      else none
  if q.clsBad sl kind && q.run.isNone then .halt q eCOUNT addr
  else match begun with
  | none => .halt q eCOUNT addr
  | some r =>
    if r.issues < r.total then .ok { q with run := some r }
    else
      let h := tileHead r.bytes
      if r.bytes.length < h.size then .halt { q with run := none } eCOUNT r.addr
      else
        let chunks := (tileChunks r.bytes h fb).zipIdx.map (fun c =>
          (⟨kind, (mget q.stat (32 * r.set + (r.spos + c.2)) Slice.empty).matrix fa sl.ta, c.1⟩ : Chunk))
        .ok ({ q with run := none }.launch t r.tile r.first chunks)

/-- One cube issue in cycle `t` (R67 to R73, R219). The formats have been checked to make a class. -/
def CubeSt.issue (q : CubeSt) (t addr : Nat) (sl : CubeSlot) : IssueRes :=
  let (ca, cb, sp) := q.mode t
  match fmtOfCode ca, fmtOfCode cb with
  | some fa, some fb =>
    match pairKind fa fb with
    | none => .halt q eCOUNT 0
    | some kind =>
      if sp then q.issueSparse t addr sl fa fb kind cb
      else if q.clsBad sl kind then .halt q eCOUNT 0
      else
        match q.operand false fa sl.asrc sl.spos t sl.half with
        | none => .halt q.clearBad eCOUNT 0
        | some (sa, q1) =>
          match q1.operand true fb sl.bsrc sl.spos t sl.half with
          | none => .halt q1.clearBad eCOUNT 0
          | some (sb, q2) =>
            .ok (q2.launch t sl.acc sl.first [⟨kind, sa.matrix fa sl.ta, denseTerms (sb.matrix fb sl.tb)⟩])
  | _, _ => .halt q eCOUNT 0

/-! ### Accumulation -/

/-- A whole value as an integer. -/
def Num.toInt : Num → Int
  | .fin s m e => let v : Int := (m * 2 ^ e.toNat : Nat); if s then -v else v
  | _ => 0

/-- One element of a tile with one chunk added: its new bits, and whether an integer addition saturated (R56, R58,
R59). -/
def accElem (kind : ChunkKind) (acc : Nat) (arow : List Num) (terms : List (Nat × Num)) : Nat × Nat :=
  let ps := terms.map (fun p => (arow.getD p.1 Num.zero).mul p.2)
  match kind with
  | .exact => (addChunk acc ps, 0)
  | .seq => (addSeq acc ps, 0)
  | .int =>
    let (v, sat) := satInt 32 (sext 32 acc + ps.foldl (fun a p => a + p.toInt) 0)
    (wrapInt 32 v, b2n sat)

/-- A tile's elements with one chunk added, and the additions that saturated. -/
def addTile (acc : List Nat) (c : Chunk) : List Nat × Nat :=
  let es := (List.range 256).map (fun i =>
    accElem c.kind (acc.getD i 0) (c.a.getD (i / 16) []) (c.b.getD (i % 16) []))
  (es.map (fun e => e.1), es.foldl (fun a e => a + e.2) 0)

/-- An issue applied to its tile (R67, R73, R90). -/
def CubeSt.apply (q : CubeSt) (o : CubeOp) : CubeSt :=
  let start : List Nat × Nat := if o.first then ([], 0) else (mget q.acc o.tile [], mget q.sats o.tile 0)
  let (acc, sats) := o.chunks.foldl (fun (p : List Nat × Nat) c =>
    let (a, n) := addTile p.1 c; (a, p.2 + n)) start
  { q with
    acc := mset [] q.acc o.tile acc
    sats := mset 0 q.sats o.tile sats
    cls := mset 0 q.cls o.tile (if o.chunks.any (fun c => c.kind == .int) then 2 else 1) }

/-- Every issue due by cycle `t` applied, in the order of issue (R73). -/
def CubeSt.land (q : CubeSt) (t : Nat) : CubeSt :=
  let q := q.landLoads t
  ((q.ops.filter (fun o => decide (o.due ≤ t))).foldl CubeSt.apply
    { q with ops := q.ops.filter (fun o => !decide (o.due ≤ t)) })

/-! ### The matrix-vector unit -/

/-- The weight formats of the matrix-vector unit (Table 3-5). -/
def mvFmt (code : Nat) : Option Fmt :=
  match fmtOfCode code with
  | some .e4m3 => some .e4m3
  | some .e5m2 => some .e5m2
  | some .bf16 => some .bf16
  | some f => if f.isMX then some f else none
  | none => none

/-- The vector elements of vector `v` from K position `k`, `n` of them. -/
def MvSt.vecAt (m : MvSt) (v k n : Nat) : List Num :=
  (List.range n).map (fun i => ofF32 ((mget m.vec (v * 32 + (k + i) / 128) []).getD ((k + i) % 128) 0))

/-- The products of a slice with the selected vectors: for each vector, for each of sixteen outputs. -/
def MvSt.products (m : MvSt) (vmask k : Nat) (rows : List (List Num)) : List (List (List Num)) :=
  (setBits 8 vmask).map (fun v =>
    let x := m.vecAt v k (rows.getD 0 []).length
    rows.map (fun row => (row.zip x).map (fun p => p.1.mul p.2)))

/-- The slices of one unit read: four slices of an unscaled format, or the slices of a group. -/
def mvSlices (f : Fmt) (bs : List Byte) : List Slice :=
  if f.isMX then groupSlices f.stripBytes bs else (List.range 4).map (fun i => Slice.ofBytes (slice bs (256 * i) 256))

/-- An issue in cycle `t` with the weight bytes of its cycle (R78, R220). A group goes in with its last issue. -/
def MvSt.issue (m : MvSt) (t band vmask : Nat) (first : Bool) (f : Fmt) (bs : List Byte) : MvSt :=
  let (first0, all) := match m.asm with
    | some (_, fi, old) => (fi, old ++ bs)
    | none => (first, bs)
  let need := if f.isMX then 16 * f.stripBytes else 1024
  if all.length < need then { m with asm := some (band, first0, all) }
  else
    let sls := mvSlices f (all.take need)
    let k0 := if first0 then 0 else mget m.kpos band 0
    let chunks := sls.zipIdx.map (fun p => m.products vmask (k0 + p.2 * f.sliceK) (p.1.matrix f false))
    { m with
      asm := none
      kpos := mset 0 m.kpos band (k0 + sls.length * f.sliceK)
      ops := m.ops ++ [⟨t + 9, band, first0, if f == .bf16 then .seq else .exact, vmask, chunks⟩] }

/-- An issue applied to the accumulator (R79, R80): chunks in ascending K, every output of every selected vector. -/
def MvSt.apply (m : MvSt) (o : MvOp) : MvSt :=
  let addV (acc : List Nat) (prods : List (List Num)) : List Nat :=
    (List.range 16).map (fun n =>
      if o.kind == .seq then addSeq (acc.getD n 0) (prods.getD n []) else addChunk (acc.getD n 0) (prods.getD n []))
  { m with
    acc := ((setBits 8 o.vmask).zipIdx).foldl (fun mp p =>
      let start := if o.first then [] else mget mp (o.band * 8 + p.1) []
      mset [] mp (o.band * 8 + p.1) (o.chunks.foldl (fun a c => addV a (c.getD p.2 [])) start)) m.acc }

/-- What is due by cycle `t` in the matrix-vector unit. -/
def MvSt.land (m : MvSt) (t : Nat) : MvSt :=
  let m1 : MvSt := { m with
    vec := (m.vload.filter (fun l => decide (l.1 ≤ t))).foldl (fun mp l => mset [] mp l.2.1 l.2.2) m.vec
    vload := m.vload.filter (fun l => !decide (l.1 ≤ t)) }
  (m1.ops.filter (fun o => decide (o.due ≤ t))).foldl MvSt.apply
    { m1 with ops := m1.ops.filter (fun o => !decide (o.due ≤ t)) }

/-- An MVL vector load in cycle `t`: 128 FP32 or 256 BF16 elements, usable three cycles later (R77). -/
def MvSt.vecLoad (m : MvSt) (t v pos : Nat) (f32 : Bool) (bs : List Byte) : MvSt :=
  let blocks : List (Nat × List Nat) :=
    if f32 then [(v * 32 + pos % 32, codesOf 32 128 bs)]
    else (List.range 2).map (fun h =>
      (v * 32 + (2 * pos + h) % 32, (codesOf 16 128 (slice bs (256 * h) 256)).map (fun c => 65536 * c)))
  { m with vload := m.vload ++ blocks.map (fun b => (t + 3, b.1, b.2)) }

end Sys2Proof.Machine
end

