-- ==== Sys2Proof/Machine/Drain.lean ====
section
/-!
DEFINITION. The drain: epilogue records, the element pipeline, tile and side layouts, strip buffers and group writes
(03_cube_array R84 to R90, R525; 11_backward_pass R270, R285).
-/
namespace Sys2Proof.Machine

/-! ### Epilogue records (Table 3-7), held as 256-bit numbers -/

def epiFn (r : Nat) : Nat := bitsOf r 4 0
def epiDeriv (r : Nat) : Bool := bitAt r 5
def epiSideKind (r : Nat) : Nat := bitsOf r 7 6
def epiConv (r : Nat) : Nat := bitsOf r 15 8
def epiScaleMode (r : Nat) : Nat := bitsOf r 17 16
def epiBiasEn (r : Nat) : Bool := bitAt r 18
def epiShiftSrc (r : Nat) : Bool := bitAt r 19
def epiShift (r : Nat) : Int := sext 8 (bitsOf r 39 32)
def epiSideFmt (r : Nat) : Nat := bitsOf r 44 40
def epiLayer (r : Nat) : Nat := bitsOf r 63 48
def epiScale (r : Nat) : Nat := bitsOf r 95 64
def epiBias (r : Nat) : Nat := bitsOf r 127 96
def epiSide (r : Nat) : Nat := bitsOf r 159 128
def epiTensor (r : Nat) : Nat := bitsOf r 183 160
def epiNcols (r : Nat) : Nat := bitsOf r 223 192

/-- The code, overflow choice and rounding choice of a conversion control byte (Table 2-6). -/
def convCode (b : Nat) : Nat := bitsOf b 4 0
def convOvf (b : Nat) : Nat := bitsOf b 6 5
def convSr (b : Nat) : Bool := bitAt b 7

/-- Whether a conversion control byte holds a reserved OVF (Table 2-6, R49). -/
def ovfBad (b : Nat) : Bool :=
  match fmtOfCode (convCode b) with
  | some f => if f.isMX then decide (1 < convOvf b) else convOvf b == 3
  | none => false

/-- The format of a record's side operand. -/
def epiSideF (r : Nat) : Fmt := match fmtOfCode (epiSideFmt r) with | some f => f | none => .fp32

/-- The destination format of a record. -/
def epiOutF (r : Nat) : Fmt := match fmtOfCode (convCode (epiConv r)) with | some f => f | none => .fp32

/-! ### Tiles in slice layout -/

/-- Which element (row, column) stands at place `i` of a tile in slice layout, elements of `w` bytes (R63). -/
def slicePlace (w i : Nat) : Nat × Nat :=
  let k := 16 / w
  (i / k % 16, i / (16 * k) * k + i % k)

/-- The bytes of a tile in slice layout, from its element codes by row and column. -/
def tileBytes (f : Fmt) (codes : List Nat) : List Byte :=
  (List.range 256).flatMap (fun i =>
    let (r, c) := slicePlace f.bytes i
    leBytes f.bytes (codes.getD (16 * r + c) 0))

/-- The element codes of a tile, by row and column, from its bytes in slice layout. -/
def tileCodes (f : Fmt) (bs : List Byte) : List Nat :=
  (List.range 256).map (fun e =>
    let k := 16 / f.bytes
    let r := e / 16
    let c := e % 16
    leAt bs (256 * (c / k) + 16 * r + (c % k) * f.bytes) f.bytes)

/-- The parts of a tile's bytes that its rows fill: all of it, or rows 0 to 7 of each slice for a matrix-vector band. -/
def tileParts (off rows : Nat) (bs : List Byte) : List (Nat × List Byte) :=
  if rows = 16 then [(off, bs)]
  else (List.range (bs.length / 256)).map (fun s => (off + 256 * s, slice bs (256 * s) (16 * rows)))

/-! ### The element pipeline (R86) -/

/-- Step 1 to 3: scale and bias. -/
def epiPre (r : Nat) (o : DrainOp) (i : Nat) : Nat :=
  let c := i % 16
  let a := o.acc.getD i 0
  let a := match epiScaleMode r with
    | 1 => fmul a (epiScale r)
    | 2 => fmul a (o.scale.getD c 0)
    | _ => a
  if epiBiasEn r then fadd a (o.bias.getD c 0) else a

/-- Step 4 and 5: the function, or the derivative at the side operand. -/
def epiPost (r : Nat) (o : DrainOp) (i a : Nat) : Nat :=
  if epiDeriv r then
    let d :=
      if epiSideKind r = 2 then (if o.side.getD i 0 = 1 then fone else 0)
      else drainD (epiFn r) (toF32 (decodeElem (epiSideF r) (o.side.getD i 0)))
    fmul a d
  else drainF (epiFn r) a

/-- The exponent of step 6 (R86, R285). -/
def State.epiExp (s : State) (die r : Nat) : Int :=
  if epiShiftSrc r then
    let n := epiLayer r
    let up := s.lt n 0x04 2
    let ins := if up = 0xFFFF then 0 else s.gshiftOf die up
    match convCode (epiConv r) with
    | 0x00 => -(s.gshiftOf die n)
    | 0x06 => -(s.gshiftOf die n)
    | _ => s.gshiftOf die n - ins
  else epiShift r

/-- The power of two taken out of a gradient's magnitude before it is offered to the layer's amax (R285). -/
def State.epiIn (s : State) (die r : Nat) : Int :=
  let up := s.lt (epiLayer r) 0x04 2
  if up = 0xFFFF then 0 else s.gshiftOf die up

/-- Whether a record offers amax: layer-table exponents into E4M3, E5M2 or BF16. -/
def epiOffers (r : Nat) : Bool :=
  epiShiftSrc r && (convCode (epiConv r) == 4 || convCode (epiConv r) == 5 || convCode (epiConv r) == 1)

/-- The rounding of an element (R86 step 6): its random bits are those of its place in the output tensor. -/
def State.epiRound (s : State) (r org row col : Nat) : Rounding :=
  let f := epiOutF r
  if convSr (epiConv r) && !(f == .fp32) && !(f == .int32) then
    let index := (org % 2 ^ 32 + row) * epiNcols r + (org / 2 ^ 32 + col)
    .sr (srRandom s.job.seed (s.rd keeperU Reg.FX_STEP_LO_VALUE) (epiTensor r) index)
  else .rne

/-- The events of one element over its side conversion and its last conversion, each kind at most once (R86). -/
def Events.once (a b : Events) : Events :=
  ⟨Nat.min 1 (a.clamp + b.clamp), Nat.min 1 (a.nonfin + b.nonfin), Nat.min 1 (a.qsat + b.qsat)⟩

/-- The elements that a tile's rows fill. -/
def tileElems (rows : Nat) : List Nat := List.range (16 * rows)

/-- The drain's counts of events (R90). -/
def State.drainEvents (s : State) (die core layer : Nat) (ev : Events) : State :=
  let u := drainU die core
  (((s.bump u Reg.DRAIN_CLAMP_COUNT ev.clamp).bump u Reg.DRAIN_NONFIN_COUNT ev.nonfin).bump u Reg.DRAIN_QSAT_COUNT
    ev.qsat).addEvents u layer ev

/-- What a drain start brings in cycle d + 11: the writes of its side operand and of its tile, and the state with its events
counted and, for an MX output, its results in the strip buffer. -/
def State.drainTile (s : State) (die core : Nat) (o : DrainOp) :
    State × List (Nat × List Byte) × List (Nat × List Byte) :=
  let c := s.core die core
  let r := mget c.drain.epi o.epi 0
  let f := epiOutF r
  let els := tileElems o.rows
  let pre := els.map (epiPre r o)
  let post := els.map (fun i => epiPost r o i (pre.getD i 0))
  let sideOn := !epiDeriv r && epiSideKind r == 1
  let sideEnc := if sideOn then pre.map (fun a => encodeElem (epiSideF r) .clamp .rne (ofF32 a)) else []
  let sideEv (i : Nat) : Events := (sideEnc.getD i (0, Events.none)).2
  let sideAt := epiSide r + 256 * (epiSideF r).bytes * o.k
  let sideW : List (Nat × List Byte) :=
    if sideOn then tileParts sideAt o.rows (tileBytes (epiSideF r) (sideEnc.map (fun e => e.1)))
    else if !epiDeriv r && epiSideKind r == 2 then
      let bits := packCodes 1 (pre.map (fun a => b2n (Num.zero.lt (ofF32 a))))
      [(epiSide r + 32 * o.k, leBytes (2 * o.rows) bits)]
    else []
  let satEv : Events := ⟨o.sats, 0, 0⟩
  if f.isMX then
    let evs := els.foldl (fun a i => a.add (Events.once (sideEv i) Events.none)) satEv
    let tile : BandTile := ⟨post, o.org, o.rows, els.map (fun i => decide (0 < (sideEv i).nonfin))⟩
    let bands := match mget c.drain.bands o.sbuf none with
      | some b => mset none c.drain.bands o.sbuf (some { b with tiles := b.tiles ++ [tile] })
      | none => c.drain.bands
    let s1 := s.setCore die core { c with drain := { c.drain with bands := bands } }
    (s1.drainEvents die core (epiLayer r) evs, sideW, [])
  else
    let e := s.epiExp die r
    let enc := els.map (fun i =>
      encodeElem f (ovfOf (convOvf (epiConv r))) (s.epiRound r o.org (i / 16) (i % 16)) ((ofF32 (post.getD i 0)).scale e))
    let evs := els.foldl (fun a i => a.add (Events.once (sideEv i) (enc.getD i (0, Events.none)).2)) satEv
    let s1 := s.drainEvents die core (epiLayer r) evs
    let s2 := if epiOffers r then
        forEach post (fun s a => s.offerAmax (epiLayer r) (toF32 ((ofF32 (fabs a)).scale (-(s.epiIn die r))))) s1
      else s1
    (s2, sideW, tileParts o.out o.rows (tileBytes f (enc.map (fun e => e.1))))

/-! ### Strip buffers (R88) -/

/-- The group of a band as bytes, with the events of its conversion. -/
def State.bandGroup (s : State) (die : Nat) (r : Nat) (b : BandSt) : List Byte × Events :=
  let f := epiOutF r
  let e := s.epiExp die r
  let fit := convOvf (epiConv r) == 1
  let strips := (List.range 16).map (fun row =>
    let xs := b.tiles.zipIdx.flatMap (fun t =>
      if row < t.1.rows then
        (List.range 16).map (fun col =>
          ((ofF32 (t.1.vals.getD (16 * row + col) 0)).scale e, s.epiRound r t.1.org row col))
      else [])
    encodeStrip f fit xs)
  let told := (b.tiles.flatMap (fun t => (t.vals.zip t.told).filter (fun p =>
    p.2 && !(mxSource ((ofF32 p.1).scale e)).isFin))).length
  let evs := strips.foldl (fun a x => a.add x.2) Events.none
  (strips.flatMap (fun x => x.1), { evs with nonfin := evs.nonfin - told })

/-- The accesses of a group write: whole accesses of 512 bytes, and the rest. -/
def groupParts (off : Nat) (bs : List Byte) : List (Nat × List Byte) :=
  (List.range (ceilDiv bs.length 512)).map (fun i => (off + 512 * i, slice bs (512 * i) (Nat.min 512 (bs.length - 512 * i))))

/-- Bands whose group may be written by cycle `x`, converted and put in the queue of writes, in ascending buffer
number. -/
def State.openGroups (s : State) (die core x : Nat) : State :=
  forEach [0, 1, 2, 3] (fun s k =>
    let c := s.core die core
    match mget c.drain.bands k none with
    | some b =>
      match b.ready with
      | some t =>
        if t ≤ x && !(c.drain.writes.any (fun w => w.sbuf == k)) then
          let r := mget c.drain.epi b.epi 0
          let (bs, ev) := s.bandGroup die r b
          let w : GroupWrite := ⟨k, t, groupParts b.out bs⟩
          (s.setCore die core { c with drain := { c.drain with writes := c.drain.writes ++ [w] } }).drainEvents die core
            (epiLayer r) ev
        else s
      | none => s
    | none => s) s

/-- The group accesses that take `n` free places, with the drain after them: a buffer whose last access has gone is
empty. -/
def DrainSt.takeParts : Nat → DrainSt → DrainSt × List (Nat × List Byte)
  | 0, d => (d, [])
  | n + 1, d =>
    match d.writes with
    | [] => (d, [])
    | w :: rest =>
      match w.parts with
      | [] => DrainSt.takeParts n { d with writes := rest, bands := mset none d.bands w.sbuf none }
      | p :: ps =>
        let d1 := if ps.isEmpty then { d with writes := rest, bands := mset none d.bands w.sbuf none }
          else { d with writes := { w with parts := ps } :: rest }
        let (d2, more) := DrainSt.takeParts n d1
        (d2, p :: more)

/-- The drain's register views. A start is in flight until its result, or the group that its band's last start completes, is
written. OPEN shows a band from its first start until the last access of its group (DESIGN CHOICE, assumption 192). -/
def State.drainStat (s : State) (die core : Nat) : State :=
  let d := (s.core die core).drain
  let u := drainU die core
  let opens := (List.range 4).foldl (fun a k => if (mget d.bands k none).isSome then a + 2 ^ k else a) 0
  (s.wrB u Reg.DRAIN_STAT_BUSY (!d.ops.isEmpty || !d.writes.isEmpty ||
    d.bands.any (fun e => (e.2.bind BandSt.ready).isSome))).wr u Reg.DRAIN_STAT_OPEN opens

end Sys2Proof.Machine
end

