-- ==== Sys2Proof/Machine/Vector.lean ====
section
/-!
DEFINITION. The vector unit: lane operations, compares, reductions, conversions, loads and stores (03_cube_array R81 to
R83, 09_core_sequencer R221).
-/
namespace Sys2Proof.Machine

/-! ### The slot (Table 9-5) -/

structure VuSlot where
  op : Nat
  vd : Nat
  va : Nat
  vb : Nat
  vc : Nat
  pen : Bool
  p : Nat
  cond : Nat
  off : Nat
  xr : Nat
  fc : Nat
  deriving DecidableEq, Repr

def vuSlot (v : Nat) : VuSlot :=
  { op := bitsOf v 5 0, vd := bitsOf v 10 6, va := bitsOf v 15 11, vb := bitsOf v 20 16, vc := bitsOf v 25 21,
    pen := bitAt v 29, p := bitsOf v 28 26, cond := bitsOf v 32 30, off := bitsOf v 49 33, xr := bitsOf v 51 50,
    fc := bitsOf v 63 56 }

/-- The opcodes of Table 9-6. -/
def vuOpKnown (op : Nat) : Bool :=
  [0, 1, 2, 3, 4, 5, 6, 7, 8, 9, 0x0A, 0x0B, 0x10, 0x11, 0x12, 0x13, 0x18, 0x19, 0x1A, 0x1B, 0x1C, 0x20, 0x21, 0x30,
    0x31].contains op

/-- The formats that a vector load, store or conversion takes (R81). -/
def vuFmt (code : Nat) : Option Fmt :=
  match fmtOfCode code with
  | some f => if f.isMX then none else some f
  | none => none

/-- Whether a slot holds an opcode, compare and format that the specification gives a meaning. -/
def VuSlot.legal (v : VuSlot) : Bool :=
  vuOpKnown v.op && !(v.op == 9 && v.cond == 7) &&
  (if v.op = 0x30 then (vuFmt (convCode v.fc)).isSome
   else if v.op = 0x31 || v.op = 0x0B then (vuFmt (convCode v.fc)).isSome && decide (convOvf v.fc < 3)
   else true)

/-! ### Lane operations -/

/-- The order that the minimum and maximum of IEEE 754-2019 take: -0 below +0. -/
def fless (a b : Nat) : Bool :=
  (ofF32 a).lt (ofF32 b) || ((ofF32 a).eqv (ofF32 b) && bitAt a 31 && !bitAt b 31)

def fmin (a b : Nat) : Nat :=
  if (ofF32 a).isNan || (ofF32 b).isNan then 0x7FC00000 else if fless b a then b else a

def fmax (a b : Nat) : Nat :=
  if (ofF32 a).isNan || (ofF32 b).isNan then 0x7FC00000 else if fless a b then b else a

/-- A value rounded through a format and widened back to FP32; no event is reported (DEDUCED, assumption 190). -/
def fcvt (fc : Nat) (rd : Rounding) (a : Nat) : Nat :=
  match vuFmt (convCode fc) with
  | some f =>
    let rd' := if convSr fc && !(f == .fp32) && !(f == .int32) then rd else .rne
    toF32 (decodeElem f (encodeElem f (ovfOf (convOvf fc)) rd' (ofF32 a)).1)
  | none => a

/-- One lane of an arithmetic instruction. -/
def vuLane (op fc : Nat) (rd : Rounding) (a b c : Nat) : Nat :=
  match op with
  | 0x01 => fadd a b
  | 0x02 => fsub a b
  | 0x03 => fmul a b
  | 0x04 => ffma a b c
  | 0x05 => fmin a b
  | 0x06 => fmax a b
  | 0x07 => fabs a
  | 0x08 => fneg a
  | 0x0B => fcvt fc rd a
  | 0x10 => fdiv a b
  | 0x11 => frcp a
  | 0x12 => fsqrt a
  | 0x13 => frsqrt a
  | 0x18 => fexp a
  | 0x19 => flog a
  | 0x1A => ftanh a
  | 0x1B => ferf a
  | 0x1C => fsigmoid a
  | _ => a

/-- One lane of a compare. -/
def vuCmp (cond a b : Nat) : Bool :=
  let x := ofF32 a
  let y := ofF32 b
  match cond with
  | 0 => x.eqv y
  | 1 => !x.eqv y
  | 2 => x.lt y
  | 3 => x.lt y || x.eqv y
  | 4 => y.lt x
  | 5 => y.lt x || x.eqv y
  | _ => x.isNan || y.isNan

/-- One level of the pairwise tree of RSUM. -/
def pairSums : List Nat → List Nat
  | a :: b :: r => fadd a b :: pairSums r
  | l => l

/-- RSUM over 64 lanes (R83): six levels of pairs. -/
def rsum (l : List Nat) : Nat := ((List.range 6).foldl (fun l _ => pairSums l) l).getD 0 0

/-- RMAX over the lanes. -/
def rmax : List Nat → Nat
  | [] => 0
  | a :: r => r.foldl fmax (fmax a a)

/-! ### Registers -/

/-- A vector register's lanes. -/
def CoreSt.vec (c : CoreSt) (r : Nat) : List Nat :=
  let l := mget c.vreg r []
  (List.range 64).map (fun i => l.getD i 0)

/-- The lanes that a slot writes, as a mask. -/
def CoreSt.vmask (c : CoreSt) (v : VuSlot) : Nat := if v.pen then mget c.preg v.p 0 else 2 ^ 64 - 1

/-- The results of an instruction other than a load or store; `rnd` gives each lane's random value. -/
def CoreSt.vuWrites (c : CoreSt) (v : VuSlot) (rnd : Nat → Nat) : List VuWrite :=
  let a := c.vec v.va
  let b := c.vec v.vb
  let x := c.vec v.vc
  let mask := c.vmask v
  match v.op with
  | 0x09 =>
    [.pred (v.vd % 8) (packCodes 1 ((List.range 64).map (fun i => b2n (vuCmp v.cond (a.getD i 0) (b.getD i 0))))) mask]
  | 0x0A =>
    [.vec v.vd ((List.range 64).map (fun i => some (if bitAt mask i then a.getD i 0 else b.getD i 0)))]
  | 0x20 => [.vec v.vd [if bitAt mask 0 then some (rsum a) else none]]
  | 0x21 => [.vec v.vd [if bitAt mask 0 then some (rmax a) else none]]
  | _ =>
    [.vec v.vd ((List.range 64).map (fun i =>
      if bitAt mask i then
        some (vuLane v.op v.fc (.sr (rnd i % 65536)) (a.getD i 0) (b.getD i 0) (x.getD i 0))
      else none))]

/-- The results of a load of 128 elements. An INT32 element of more significant bits than FP32 holds is rounded to nearest
even (DESIGN CHOICE, assumption 191). -/
def CoreSt.vuLoad (c : CoreSt) (v : VuSlot) (bs : List Byte) : List VuWrite :=
  match vuFmt (convCode v.fc) with
  | none => []
  | some f =>
    let es := (decodeRun f 128 bs).map toF32
    let mask := c.vmask v
    let lanes (h : Nat) : List (Option Nat) :=
      (List.range 64).map (fun i => if bitAt mask i then some (es.getD (64 * h + i) 0) else none)
    [.vec (v.vd / 2 * 2) (lanes 0), .vec (v.vd / 2 * 2 + 1) (lanes 1)]

/-- The bytes of a store: each run of written elements with its place from the access's start. The unit reports no event for
its conversions, as its register table has no counter for one (DEDUCED, assumption 190). -/
def CoreSt.vuStore (c : CoreSt) (v : VuSlot) (rnd : Nat → Nat) : List (Nat × List Byte) :=
  match vuFmt (convCode v.fc) with
  | none => []
  | some f =>
    let mask := c.vmask v
    let sr := convSr v.fc && !(f == .fp32) && !(f == .int32)
    let els := c.vec (v.va / 2 * 2) ++ c.vec (v.va / 2 * 2 + 1)
    let code (i a : Nat) : List Byte :=
      leBytes f.bytes (encodeElem f (ovfOf (convOvf v.fc))
        (if sr then .sr (rnd i % 65536) else .rne) (ofF32 a)).1
    (els.zipIdx.filter (fun p => bitAt mask (p.2 % 64))).map (fun p => (p.2 * f.bytes, code p.2 p.1))

/-- The bytes that a load or store covers. -/
def VuSlot.len (v : VuSlot) : Nat :=
  match vuFmt (convCode v.fc) with
  | some f => 128 * f.bytes
  | none => 0

/-- One result put into its register. -/
def CoreSt.vuPut (c : CoreSt) : VuWrite → CoreSt
  | .vec r lanes =>
    let old := c.vec r
    { c with vreg := mset [] c.vreg r (old.zipIdx.map (fun p =>
        match lanes.getD p.2 none with
        | some v => v
        | none => p.1)) }
  | .pred r bits mask =>
    let old := mget c.preg r 0
    { c with preg := mset 0 c.preg r (clearBits old mask ||| (bits &&& mask)) }

/-- Every result due by cycle `t` put in its register, in the order of issue (R82, Table 9-9). -/
def CoreSt.landVu (c : CoreSt) (t : Nat) : CoreSt :=
  let due := sortBy (fun a b => decide (a.due ≤ b.due)) (c.vops.filter (fun o => decide (o.due ≤ t)))
  due.foldl (fun c o => o.writes.foldl CoreSt.vuPut c)
    { c with vops := c.vops.filter (fun o => !decide (o.due ≤ t)) }

end Sys2Proof.Machine
end

