-- ==== Sys2Proof/Machine/Scratch.lean ====
section
/-!
DEFINITION. The scratchpad: reads with error correction, scheduled accesses and their conflicts (06_scratchpad R136 to
R142, R154 to R156).
-/
namespace Sys2Proof.Machine

/-! ### Reads with error correction -/

/-- The offset of a word of a scratchpad, from its word address. -/
def spOffset (die core w : Nat) : Nat := 4 * w - epAddr (spU die core) 0

/-- A single-bit error found by a read (R155); `src` is the reader of SP_ECC_CAP.SRC. -/
def State.spCorrected (s : State) (die core src w : Nat) : State :=
  let u := spU die core
  let off := spOffset die core w
  let s1 := ((((s.bump u Reg.SP_ECC_CE_COUNT 1).wr u Reg.SP_STAT_CE 1).wr u Reg.SP_ECC_CAP_OFFSET off).wr u
    Reg.SP_ECC_CAP_UE 0).wr u Reg.SP_ECC_CAP_SRC src
  let s2 := s1.logEvent eECC_CE u off (off + 2 ^ 24 * src)
  if s2.scrubQ.contains w then s2 else { s2 with scrubQ := s2.scrubQ ++ [w] }

/-- A double-bit error found by a read (R156). -/
def State.spFailed (s : State) (die core src w : Nat) : State :=
  let u := spU die core
  let off := spOffset die core w
  let s1 := (((s.wr u Reg.SP_STAT_UE 1).wr u Reg.SP_ECC_CAP_OFFSET off).wr u Reg.SP_ECC_CAP_UE 1).wr u
    Reg.SP_ECC_CAP_SRC src
  s1.logEvent eECC_UE u off (2 ^ 23 + off + 2 ^ 24 * src)

/-- A read of a scratchpad: its bytes, or nothing where a word holds a double-bit error (R155, R156). -/
def State.spRead (s : State) (die core off n src : Nat) : Option (List Byte) × State :=
  let a := epAddr (spU die core) off
  let s1 := forEach (s.badWords a n 1) (fun s w => s.spCorrected die core src w) s
  let s2 := forEach (s.badWords a n 2) (fun s w => s.spFailed die core src w) s1
  (if (s.badWords a n 2).isEmpty then some (s.bytesAt a n) else none, s2)

/-- A write of a scratchpad. -/
def State.spWrite (s : State) (die core off : Nat) (bs : List Byte) : State :=
  s.putBytes (epAddr (spU die core) off) bs

/-! ### Scheduled accesses -/

/-- A scheduled access of one cycle: its port (Table 6-3), offset, width, whether it reads, and what it writes. -/
structure SAcc where
  port : Nat
  off : Nat
  len : Nat
  read : Bool
  data : List (Nat × List Byte)
  deriving DecidableEq, Repr

/-- The banks of an access (R136, R138). -/
def SAcc.banks (a : SAcc) : List Nat :=
  (List.range ((a.off % 64 + a.len + 63) / 64)).map (fun i => (a.off / 64 + i) % 32)

/-- The banks that two accesses of a cycle need. -/
def conflictBanks (l : List SAcc) : List Nat :=
  let used := l.flatMap SAcc.banks
  (List.range 32).filter (fun b => decide (1 < (used.filter (fun x => x == b)).length))

/-- Whether an access touches none of some banks. -/
def SAcc.clear (a : SAcc) (bad : List Nat) : Bool := !(a.banks.any (fun b => bad.contains b))

/-- A conflict recorded in the scratchpad's registers (R142). -/
def State.recordConflict (s : State) (die core cyc : Nat) (l : List SAcc) (bad : List Nat) : State :=
  let u := spU die core
  let ports := (l.filter (fun a => !a.clear bad)).map SAcc.port
  let mask (n : Nat) (ks : List Nat) : Nat := packCodes 1 ((List.range n).map (fun i => b2n (ks.contains i)))
  (((s.wr u Reg.SP_STAT_CONFLICT 1).wr u Reg.SP_CFL_BANKS_MASK (mask 32 bad)).wr u Reg.SP_CFL_PORTS_MASK
    (mask 7 ports)).wr u Reg.SP_CFL_CYC_LO_VALUE cyc

/-- The performed writes of a cycle's accesses. -/
def State.performWrites (s : State) (die core : Nat) (l : List SAcc) : State :=
  forEach (l.flatMap SAcc.data) (fun s d => s.spWrite die core d.1 d.2) s

/-- The drain's writes of a cycle as accesses: pieces within one run of 512 bytes from the first piece's offset make one
access, which occupies the eight banks of Table 6-2, and the accesses take the two drain ports in turn. -/
def drainAccesses (places : Nat) (ws : List (Nat × List Byte)) : List SAcc :=
  let cut := ws.flatMap (fun w => (List.range (ceilDiv w.2.length 512)).map (fun i =>
    (w.1 + 512 * i, slice w.2 (512 * i) (Nat.min 512 (w.2.length - 512 * i)))))
  let step (l : List SAcc) (w : Nat × List Byte) : List SAcc :=
    match l with
    | a :: r =>
      if a.off ≤ w.1 && w.1 + w.2.length ≤ a.off + 512 then
        { a with len := Nat.max a.len (w.1 + w.2.length - a.off), data := a.data ++ [w] } :: r
      else ⟨0, w.1, w.2.length, false, [w]⟩ :: l
    | [] => [⟨0, w.1, w.2.length, false, [w]⟩]
  ((cut.foldl step []).reverse.zipIdx).map (fun p =>
    { p.1 with port := 5 + (places + p.2) % 2, len := 512 - p.1.off % 64 })

end Sys2Proof.Machine
end

