-- ==== Sys2Proof/Machine/Network.lean ====
section
/-!
DEFINITION. How accesses are served: endpoints, register fields by access type, memory windows, DRAM with its error
correction, translation, and accesses to virtual addresses (00_scope R9, R12, R14; 01_module_dies_clocks R18, R30, R520;
06_scratchpad R150, R152; 08_bonded_dram R188 to R200 and the write rules of the register chapters).
-/
namespace Sys2Proof.Machine

/-- How an access is answered: an error code of Table 18-2, 0 for none, its data, and what holds its answer back. -/
structure Ans where
  err : Nat
  data : List Byte
  held : Option Nat
  deriving DecidableEq, Repr

def Ans.ok (data : List Byte := []) : Ans := ⟨0, data, none⟩
def Ans.bad (err : Nat) : Ans := ⟨err, [], none⟩

/-! ### Endpoints (R9, R18) -/

/-- Whether a unit address, without its module, names an endpoint of Table 1-3. -/
def epExists (u : Nat) : Bool :=
  let d := dieOf u
  let e := epOf u
  if d < 24 then
    if e < 32 then decide (e < 5)
    else coreOf u == 0 && (decide (e ≤ 41) || e == 63)
  else
    coreOf u == 0 &&
      (e == 63 ||
        (if d < 32 then decide (e < 20)
         else if d < 38 then decide (e < 3)
         else if d = 38 then decide (e < 27)
         else d == 39 && decide (e < 5)))

/-- The register map of an endpoint. On a bridge module endpoint 1 of L0 holds the bridge registers and endpoint 0 is
the host window (R401). -/
def State.regMap (s : State) (u : Nat) : List RegGroup :=
  let d := dieOf u
  let e := epOf u
  if d < 24 then
    match e with
    | 0 => Reg.seqMap | 1 => Reg.spMap | 2 => Reg.dmaMap | 3 => Reg.drainMap | 4 => Reg.stkMap
    | 32 => Reg.dramMap | 33 => Reg.gmeMap | 34 => Reg.gmeMap | 35 => Reg.ueMap | 40 => Reg.tuMap | 41 => Reg.idlMap
    | 63 => []
    | _ => Reg.acMap
  else if d < 32 then (if e < 16 then Reg.decMap else if e < 20 then Reg.tnzMap else [])
  else if d < 38 then
    if e < 2 then
      if d = 32 && s.bridge then (if e = 0 then [] else Reg.hbMap)
      else if d = 37 then Reg.fabMap ++ Reg.stqMap
      else Reg.fabMap
    else if e = 2 then Reg.rdMap else []
  else if d = 38 then
    if e < 2 then Reg.ethMap else if e = 2 then [] else if e < 19 then Reg.strMap else if e < 27 then Reg.acMap else []
  else
    match e with
    | 0 => Reg.kprMap | 1 => Reg.dkrMap | 2 => Reg.mbxMap | 3 => Reg.clkMap | 4 => Reg.sbMap
    | _ => []

/-- The fields of the register at an offset. -/
def fieldsAt (m : List RegGroup) (off : Nat) : List Field :=
  m.flatMap (fun g =>
    if g.base ≤ off && off < g.base + g.stride * g.count then
      let d := (off - g.base) / g.stride * g.stride
      (g.fields.map (fun f => f.at d)).filter (fun f => f.off == off)
    else [])

/-- Whether a register of the endpoint covers the word at an offset; a post to a stage queue covers four words. -/
def State.regThere (s : State) (u off : Nat) : Bool :=
  !(fieldsAt (s.regMap u) off).isEmpty ||
  (dieOf u == 37 && decide (epOf u < 2) && decide (0x10000 ≤ off) && decide (off < 0x10200) && decide (off % 64 < 16))

/-! ### Reading registers (R12, R14, R30) -/

/-- A count of waits brought up to date before a read: the waits of the engines' own accesses since the last one are a free
value (assumption 29). -/
def State.showWaits (s : State) (u off : Nat) : State :=
  let k := dieOf u * 16 + coreOf u
  let a := mget s.arbs k {}
  let stall (c : Nat) (f : Field) : State :=
    if mget a.own c 0 = 0 then s
    else
      let (v, s1) := s.fresh
      ({ s1 with arbs := mset {} s1.arbs k { a with own := mset 0 a.own c 0 } } : State).bump u f v
  if off = Reg.SP_STALL_DMA_COUNT.off then stall 0 Reg.SP_STALL_DMA_COUNT
  else if off = Reg.SP_STALL_GME_COUNT.off then stall 1 Reg.SP_STALL_GME_COUNT
  else if off = Reg.SP_STALL_NARROW_COUNT.off then stall 2 Reg.SP_STALL_NARROW_COUNT
  else if off = Reg.SP_PROMOTE_COUNT.off && a.prom ≠ 0 then
    let (v, s1) := s.fresh
    ({ s1 with arbs := mset {} s1.arbs k { a with prom := 0 } } : State).bump u Reg.SP_PROMOTE_COUNT (v % (a.prom + 1))
  else s

/-- Fields that show what other state holds, brought up to date before a read: job time, the darkroom's fuses and digests,
the permitted power state, channel receivers, roles. -/
def State.refresh (s : State) (u off : Nat) : State :=
  if u = clkU then s.wr clkU Reg.TSJ_LO_VALUE s.jobTime
  else if u = dkrU then s.showDkr
  else if u = keeperU && off = 0x900100 then s.wr keeperU Reg.PWR_STAT_TOLSTATE s.permitted
  else if u = mbxU && off % 0x1000 = 0x110 && off < 0x20000 then
    s.wr mbxU (Reg.MBX_CFG_RCV (off / 0x1000)) (s.rcvOf (off / 0x1000))
  else if 32 ≤ dieOf u && dieOf u < 38 && epOf u = 2 && off = 0 then
    s.wr u Reg.RD_STAT_ROLE (if dieOf u < 36 then 0 else if dieOf u = 36 then 1 else 2)
  else if dieOf u < 24 && epOf u = 1 then s.showWaits u off
  else s

/-- The high fields of a capturing pair take what a read of the low register captures. -/
def State.capture (s : State) (u off v : Nat) : State :=
  forEach (fieldsAt (s.regMap u) (off + 4)) (fun s f => s.wr u f (bitsOf v f.hi f.lo)) s

/-- One field as a read of its register returns it, with the side effect of the read. -/
def State.readField (s : State) (u : Nat) (f : Field) : Nat × State :=
  let v := s.rd u f
  let s1 := match f.acc with
    | .rc => s.wr u f 0
    | _ => s
  let shown := match f.acc with
    | .wo => 0
    | _ => v
  match f.cap with
  | none => (shown % 2 ^ (f.hi + 1 - f.lo), s1)
  | some _ => (shown % 2 ^ 32, s1.capture u f.off (shown / 2 ^ 32))

/-- The word at an offset of an endpoint. -/
def State.readWord (s : State) (u off : Nat) : Nat × State :=
  (fieldsAt (s.regMap u) off).foldl (fun (p : Nat × State) f =>
    let (v, s1) := p.2.readField u f
    (p.1 + v * 2 ^ f.lo, s1)) (0, s.refresh u off)

/-- An aligned 8-byte read of a capturing pair: both halves at one instant, the capture left as it is (R30). -/
def State.readPair (s : State) (u off : Nat) : Option (Nat × State) :=
  match (fieldsAt (s.regMap u) off).find? (fun f => f.cap.isSome) with
  | none => none
  | some f =>
    let s0 := s.refresh u off
    let v := s0.rd u f
    some (v, match f.acc with
      | .rc => s0.wr u f 0
      | _ => s0)

/-- A read of registers: every word that the access touches is read once. -/
def State.readRegs (s : State) (u off n : Nat) : State × Ans :=
  let w0 := off / 4
  let cnt := (off + n + 3) / 4 - w0
  if (List.range cnt).all (fun i => !s.regThere u (4 * (w0 + i))) then (s, .bad eXLATE)
  else
    match if off % 8 = 0 && n = 8 then s.readPair u off else none with
    | some (v, s1) => (s1, .ok (leBytes 8 v))
    | none =>
      let (bs, s1) := (List.range cnt).foldl (fun (p : List Byte × State) i =>
        let (v, s1) := p.2.readWord u (4 * (w0 + i))
        (p.1 ++ leBytes 4 v, s1)) ([], s)
      (s1, .ok (slice bs (off - 4 * w0) n))

/-! ### Writing registers (R11, R12) -/

/-- A field after a write of the bits of its register that `mask` marks. -/
def Field.after (f : Field) (old val mask : Nat) : Nat :=
  let v := bitsOf val f.hi f.lo
  let m := bitsOf mask f.hi f.lo
  match f.acc with
  | .rw => clearBits old m ||| (v &&& m)
  | .w1c => clearBits old (v &&& m)
  | .w1s => old ||| (v &&& m)
  | _ => old

/-- Whether a write of the word changes a field of type RW. -/
def State.hasRw (s : State) (u off : Nat) : Bool := (fieldsAt (s.regMap u) off).any (fun f => f.acc == .rw)

/-- Values that a port clamps into range before it applies them (16_hormen_fabric R403), and the count that a write of
the injection register restarts (R397). -/
def State.afterWrite (s : State) (u off : Nat) : State :=
  if 32 ≤ dieOf u && dieOf u < 38 && epOf u < 2 then
    if off = 0x18 then
      let s1 := if s.rd u Reg.FAB_BCN_PERIOD = 0 then s.wr u Reg.FAB_BCN_PERIOD 1 else s
      if s1.rd u Reg.FAB_BCN_LIMIT < 2 then s1.wr u Reg.FAB_BCN_LIMIT 2 else s1
    else if off = 0x44 then
      let p := 2 * (dieOf u - 32) + epOf u
      { s with ports := mset {} s.ports p { mget s.ports p {} with injN := 0 } }
    else s
  else s

/-- The operation that a write to a register of one word starts, none where the register is an ordinary one: commits and
releases of mailbox channels, doorbells, released counts of stage queues, access-unit counts, the keeper's heartbeat and the
invalidation of a translation cache. `m` marks the bits of the word that the access writes, and `v` holds them. -/
def State.wordDoor (s : State) (src u o v m : Nat) : Option (State × Ans) :=
  let d := dieOf u
  let e := epOf u
  let code (p : State × Nat) : State × Ans := (p.1, ⟨p.2, [], none⟩)
  if u = mbxU && o < 0x20000 && o % 0x1000 = 0x100 then
    let c := o / 0x1000
    let (s1, k) := s.mbxSend src c (v % 2 ^ 9)
    some (s1, ⟨k, [], if k = 0 then some c else none⟩)
  else if u = mbxU && o < 0x20000 && o % 0x1000 = 0x104 then
    some (if v % 2 = 1 then code (s.mbxDone src (o / 0x1000)) else (s, .ok))
  else if u = mbxU && o = 0x20004 then some (s.dbMask src v m, .ok)
  else if u = mbxU && o = 0x20008 then some (s.dbSet v, .ok)
  else if u = mbxU && o = 0x2000c then some (s.dbClr src v, .ok)
  else if d = 37 && e < 2 && 0x20000 ≤ o && o < 0x20200 && o % 64 = 8 then some (s.stqRel e (o / 64 - 2048) v, .ok)
  else if d = 38 && 3 ≤ e && e < 19 && o = 0x48 then some (s.strAuprod (e - 3) v, .ok)
  else if 32 ≤ d && d < 38 && e < 2 && o = 0x1c && !(d == 32 && s.bridge) then
    if v % 2 = 1 && s.isKeeper src then
      let p := 2 * (d - 32) + e
      some ({ s with ports := mset {} s.ports p { mget s.ports p {} with kok := true } }, .ok)
    else some (s, .ok)
  else if d < 24 && e = 40 && o = 0x10 then
    some (if v % 2 = 1 then s.wr u Reg.TU_STAT_INVAL_BUSY 1 else s, .ok)
  else none

/-- A write of the marked bits of one word of registers. -/
def State.writeWord (s : State) (src u o v m : Nat) : State × Ans :=
  match s.wordDoor src u o v m with
  | some r => r
  | none =>
    let s1 := (forEach (fieldsAt (s.regMap u) o) (fun s f => s.wr u f (f.after (s.rd u f) v m)) s).afterWrite u o
    (if dieOf u < 24 && epOf u = 0 && o = Reg.SEQ_EVT_PEND.off then
       s1.newEvents (dieOf u) (coreOf u) (s.rd u Reg.SEQ_EVT_PEND)
     else s1, .ok)

/-- The words that a write touches. -/
def touched (off n : Nat) : List Nat := (List.range ((off + n + 3) / 4 - off / 4)).map (fun i => 4 * (off / 4 + i))

/-- A write of some bytes of registers: every word that it touches is written once, in ascending order, and the first error
among them is its answer. -/
def State.writeRegs (s : State) (src u off : Nat) (bs : List Byte) : State × Ans :=
  let val := leNat bs * 2 ^ (8 * (off % 4))
  let mask := (2 ^ (8 * bs.length) - 1) * 2 ^ (8 * (off % 4))
  (touched off bs.length).zipIdx.foldl (fun (p : State × Ans) o =>
    let (s1, a) := p.1.writeWord src u o.1 (val / 2 ^ (32 * o.2) % 2 ^ 32) (mask / 2 ^ (32 * o.2) % 2 ^ 32)
    (s1, ⟨if p.2.err ≠ 0 then p.2.err else a.err, [], if p.2.held.isSome then p.2.held else a.held⟩)) (s, .ok)

/-- Bits of type W1C that the hardware sets in the MCLK cycle of a write end set (R13): pairs of a register's offset and the
bits. -/
def State.hardSet (s : State) (u : Nat) (l : List (Nat × Nat)) : State :=
  forEach l (fun s p =>
    forEach ((fieldsAt (s.regMap u) p.1).filter (fun f => f.acc == .w1c)) (fun s f =>
      s.wr u f (s.rd u f ||| bitsOf p.2 f.hi f.lo)) s) s

/-- The error with which a write to registers is refused, 0 for none: what the chapters of the registers prescribe. -/
def State.writeBar (s : State) (src u off n : Nat) : Nat :=
  let d := dieOf u
  let e := epOf u
  let ws := touched off n
  let rwBusy : Bool := s.running && ws.any (fun o => s.hasRw u o)
  if u = dkrU then ePROT
  else if d < 24 && e = 40 then (if s.isKeeper src then 0 else ePROT)
  else if d < 24 && (e = 0 || e = 2 || e = 4 || e = 35 || (36 ≤ e && e < 40)) then (if rwBusy then eBUSY else 0)
  else if d = 38 && 19 ≤ e then (if rwBusy then eBUSY else 0)
  else if u = keeperU then
    if ws.contains 0x900110 then (if s.isKeeper src then 0 else ePROT)
    else if rwBusy then eBUSY else 0
  else if 32 ≤ d && d < 38 && e < 2 then
    if d = 32 && s.bridge then (if s.isKeeper src then 0 else ePROT)
    else if s.running && ws.contains 0x18 then eBUSY else 0
  else if u = mbxU && ws.contains 0x20200 then ePROT
  else 0

/-! ### DRAM (R188, R198 to R200) -/

/-- The reader of DRAM_ECAP_HI.SRC for a requester; `walk` marks a translation walk. -/
def State.dramSrc (s : State) (die src : Nat) : Nat :=
  let u := src % 65536
  let e := epOf u
  if s.isKeeper src then 4
  else if src / 65536 ≠ s.job.modId || dieOf u ≠ die then 6
  else if e = 2 then 0
  else if e = 33 || e = 34 then 1
  else if e = 35 then 2
  else if 36 ≤ e && e < 40 then 3
  else 6

/-- A single-bit error found by a DRAM read: counted, recorded, logged, and the word rewritten (R199). -/
def State.dramCorrected (s : State) (die src w : Nat) : State :=
  let u := dramU die
  let off := 4 * w - dramAddr die 0
  let s1 := ((s.bump u Reg.DRAM_CE_COUNT 1).wr u Reg.DRAM_STAT_CE 1).wr u Reg.DRAM_ECAP_LO_OFFSET (off + 2 ^ 37 * src)
  { s1.logEvent eECC_CE u off (off / 2 ^ 32 + src * 32) with ecc := mdel s1.ecc w }

/-- A double-bit error found by a DRAM read (R200). -/
def State.dramFailed (s : State) (die src w : Nat) : State :=
  let u := dramU die
  let off := 4 * w - dramAddr die 0
  let s1 := ((s.bump u Reg.DRAM_UE_COUNT 1).wr u Reg.DRAM_STAT_UE 1).wr u Reg.DRAM_ECAP_LO_OFFSET
    (2 ^ 36 + off + 2 ^ 37 * src)
  s1.logEvent eECC_UE u off (off / 2 ^ 32 + 16 + src * 32)

/-- A read of a stack; `src` is the reader's number in DRAM_ECAP_HI.SRC. -/
def State.dramRead (s : State) (die off n src : Nat) : State × Ans :=
  let a := dramAddr die off
  let ue := s.badWords a n 2
  let s1 := forEach (s.badWords a n 1) (fun s w => s.dramCorrected die src w) s
  let s2 := forEach ue (fun s w => s.dramFailed die src w) s1
  (s2, if ue.isEmpty then .ok (s.bytesAt a n) else .bad eECC_UE)

/-- The words of an access that it covers only in part. -/
def partWords (a n : Nat) : List Nat := (wordsOf a n).filter (fun w => !(decide (a ≤ 4 * w) && decide (4 * w + 4 ≤ a + n)))

/-- A write of a stack: a word written in part is read first, and one with a double-bit error stops the write. -/
def State.dramWrite (s : State) (die off src : Nat) (bs : List Byte) : State × Ans :=
  let a := dramAddr die off
  let part := partWords a bs.length
  let ce := part.filter (fun w => mget s.ecc w 0 == 1)
  let ue := part.filter (fun w => mget s.ecc w 0 == 2)
  let s1 := forEach ce (fun s w => s.dramCorrected die src w) s
  if ue.isEmpty then (s1.putBytes a bs, .ok)
  else (forEach ue (fun s w => s.dramFailed die src w) s1, .bad eECC_UE)

/-! ### Scratchpad windows (R139, R150, R152) -/

/-- The reader of SP_ECC_CAP.SRC for a requester. -/
def spSrc (src : Nat) : Nat :=
  let e := epOf (src % 65536)
  if dieOf (src % 65536) < 24 && (e = 33 || e = 34) then 2
  else if dieOf (src % 65536) < 24 && e = 2 then 1
  else if dieOf (src % 65536) < 24 && 36 ≤ e && e < 40 then 3
  else if dieOf (src % 65536) = 39 || (dieOf (src % 65536) = 38 && 19 ≤ e) then 3
  else 1

/-- Whether a requester uses the 8-byte class: the keeper and the application cores. -/
def narrow (src : Nat) : Bool := spSrc src == 3

/-- The error with which an arbitrated access to a scratchpad is refused, 0 for none. An access of the wide classes that is
larger than Table 6-2 gives, or that leaves its aligned block, is answered with ALIGN (assumption 193). -/
def State.spBar (s : State) (src die core off n : Nat) : Nat :=
  if spBytes < off + n then eXLATE
  else if narrow src then
    if !([1, 2, 4, 8].contains n) || 8 < off % 8 + n then eALIGN
    else if s.running && !((s.core die core).appRegions.any (fun r => decide (r.1 ≤ off) && decide (off + n ≤ r.1 + r.2))) &&
        !(s.isKeeper src && s.rd (seqU die core) Reg.SEQ_STAT_HALTED == 1) then ePROT
    else 0
  else
    let w := if spSrc src = 2 then 32 else 64
    if w < off % w + n then eALIGN else 0

/-- An arbitrated read or write of a scratchpad performed. -/
def State.spAccess (s : State) (src die core off : Nat) (data : Option (List Byte)) (n : Nat) : State × Ans :=
  match data with
  | none =>
    match s.spRead die core off n (spSrc src) with
    | (some bs, s1) => (s1, .ok bs)
    | (none, s1) => (s1, .bad eECC_UE)
  | some bs =>
    let a := epAddr (spU die core) off
    let ue := (partWords a bs.length).filter (fun w => mget s.ecc w 0 == 2)
    let ce := (partWords a bs.length).filter (fun w => mget s.ecc w 0 == 1)
    let s1 := forEach ce (fun s w => s.spCorrected die core (spSrc src) w) s
    if ue.isEmpty then (s1.spWrite die core off bs, .ok)
    else (forEach ue (fun s w => s.spFailed die core (spSrc src) w) s1, .bad eECC_UE)

/-- The class of a requester: 0 for 64-byte, 1 for 32-byte, 2 for 8-byte requests (R145). -/
def arbClass (src : Nat) : Nat := if spSrc src = 2 then 1 else if narrow src then 2 else 0

/-- An access that an engine makes while its command is carried out: it has waited for its bank, and its waits and
promotion are still to be counted (R145, R146; assumption 29). -/
def State.spOwn (s : State) (src die core off : Nat) (data : Option (List Byte)) (n : Nat) : State × Ans :=
  let k := die * 16 + core
  let a := mget s.arbs k {}
  let c := arbClass src
  ({ s with arbs := mset {} s.arbs k { a with own := mset 0 a.own c (mget a.own c 0 + 1), prom := a.prom + 1 } } : State).spAccess
    src die core off data n

/-- The size of the accesses of a class (Table 6-2). -/
def classBytes (src : Nat) : Nat := [64, 32, 8].getD (arbClass src) 64

/-- The next access of a run of `n` bytes at an offset: to the end of the aligned block of the class, and for the narrow
class of a power-of-two size that its offset is a multiple of. -/
def nextPiece (src off n : Nat) : Nat :=
  let k := Nat.min n (classBytes src - off % classBytes src)
  if narrow src then ([8, 4, 2, 1].find? (fun w => decide (w ≤ k) && off % w == 0)).getD 1 else k

/-- A run of bytes of a scratchpad window as the accesses of its requester (R138, R150); `f` bounds how many. -/
def windowPieces (src : Nat) : Nat → Nat → Nat → List (Nat × Nat)
  | 0, _, _ => []
  | f + 1, off, n =>
    if n = 0 then []
    else
      let k := nextPiece src off n
      (off, k) :: windowPieces src f (off + k) (n - k)

/-! ### The host window (R401) -/

/-- The host address of an offset of the host window, none where its entry is not valid. -/
def State.hostAddr (s : State) (off : Nat) : Option Nat :=
  let i := off / 4096
  let u := portU 1
  if s.rd u (Reg.HB_ATT_LO_V i) = 1 then
    some (4096 * s.rd u (Reg.HB_ATT_LO_ADDR i) + 2 ^ 32 * s.rd u (Reg.HB_ATT_HI_ADDR i) + off % 4096)
  else none

/-! ### Endpoint accesses -/

/-- An access that names nothing (R9, R18, R520): answered with XLATE_FAULT and logged by the die's router. Dies 40 to 63
have no router, and the specification names no unit that logs for them: the keeper is taken (assumption 27). -/
def State.noSuch (s : State) (u off : Nat) : State × Ans :=
  let r := if dieOf u < 40 then unitOf (dieOf u) 0 63 else keeperU
  (s.logEvent eXLATE r (2 ^ 24 * u + off), .bad eXLATE)

/-- Whether a unit maps its memory window at an offset. -/
def inWindow (off n lo hi : Nat) : Bool := decide (lo ≤ off) && decide (off + n ≤ hi)

/-- A read at an endpoint. The layer table's store corrects a single-bit error and refuses a double-bit one
(11_backward_pass R282; DEDUCED, assumption 203). -/
def State.epRead (s : State) (src u off n : Nat) : State × Ans :=
  let d := dieOf u
  let e := epOf u
  let memory (s : State) : State × Ans := (s, .ok (s.bytesAt (epAddr u off) n))
  if !epExists u then s.noSuch u off
  else if d < 24 && e = 0 && inWindow off n 0x100000 0x180000 then memory s
  else if d < 24 && e = 1 && off < 0x800000 then
    let bar := s.spBar src d (coreOf u) off n
    if bar = eXLATE then s.noSuch u off
    else if bar ≠ 0 then (s, .bad bar)
    else s.spOwn src d (coreOf u) off none n
  else if u = keeperU && inWindow off n 0x800000 0x840000 then
    if (s.badWords (epAddr u off) n 2).isEmpty then memory s else (s, .bad eECC_UE)
  else if u = rdU 0 && inWindow off n 0x10000 0x20000 then memory s
  else if u = mbxU && off < 0x20000 && off % 0x1000 < 0x100 then
    match s.mbxRead src (off / 0x1000) (off % 0x1000) n with
    | some bs => (s, .ok bs)
    | none => (s, .bad ePROT)
  else if u = portU 0 && s.bridge then
    match s.hostAddr off with
    | none => (s, .bad eXLATE)
    | some _ =>
      if s.rd (portU 1) Reg.HB_STAT_LINKUP = 0 then (s, .bad eLINK_DOWN)
      else let (bs, s1) := s.freshBytes n; (s1, .ok bs)
  else if d = 37 && e < 2 && inWindow off n 0x100000 0x140000 then
    match s.stqLoad e (off / 0x8000 - 32) (off % 0x8000 / 8) with
    | some v => (s, .ok (slice (leBytes 8 v) (off % 8) n))
    | none => (s, ⟨0, [], some 0⟩)
  else if d = 38 && 3 ≤ e && e < 19 && off / 4 = 0x30 / 4 then
    let (s1, v) := s.strArrRead (e - 3)
    (s1, .ok (slice (leBytes 8 v) (off % 4) n))
  else
    let (s1, a) := s.readRegs u off n
    if a.err = eXLATE then s1.noSuch u off else (s1, a)

/-- The operations of accesses that count as a whole, none for a write of ordinary registers: writes of mailbox buffers,
posts to stage queues and ready words. A write that touches such a place and has not its form is refused. -/
def State.epDoor (s : State) (src u off : Nat) (bs : List Byte) : Option (State × Ans) :=
  let d := dieOf u
  let e := epOf u
  let n := bs.length
  let ws := touched off n
  if u = mbxU && ws.any (fun o => decide (o < 0x20000) && decide (o % 0x1000 < 0x100)) then
    if off % 0x1000 < 0x100 then
      let (s1, k) := s.mbxWrite src (off / 0x1000) (off % 0x1000) bs
      some (s1, ⟨k, [], none⟩)
    else some (s, .bad eALIGN)
  else if d = 37 && e < 2 && ws.any (fun o => decide (0x10000 ≤ o) && decide (o < 0x10200) && decide (o % 64 < 16)) then
    let q := off / 64 - 1024
    let num := (s.stq (sendKey e q)).posted
    let (s1, k) := if off % 64 = 0 then s.stqPost e q src bs else (s, eALIGN)
    some (s1, ⟨k, [], if k = 0 then some (postKey (sendKey e q) num) else none⟩)
  else if 32 ≤ d && d < 38 && e = 2 && (ws.contains 8 || ws.contains 12) then
    if d = 32 then
      some (if off = 8 && n = 8 then (s.rdReady (leNat bs % 65536) (leNat bs / 2 ^ 32), .ok) else (s, .bad eALIGN))
    else if s.running then some (s, .bad eBUSY)
    else none
  else none

/-- A write at an endpoint. -/
def State.epWrite (s : State) (src u off : Nat) (bs : List Byte) : State × Ans :=
  let d := dieOf u
  let e := epOf u
  let n := bs.length
  if !epExists u then s.noSuch u off
  else if d < 24 && e = 0 && inWindow off n 0x100000 0x180000 then
    if s.running then (s, .bad eBUSY) else (s.putBytes (epAddr u off) bs, .ok)
  else if d < 24 && e = 1 && off < 0x800000 then
    let bar := s.spBar src d (coreOf u) off n
    if bar = eXLATE then s.noSuch u off
    else if bar ≠ 0 then (s, .bad bar)
    else s.spOwn src d (coreOf u) off (some bs) n
  else if u = keeperU && inWindow off n 0x800000 0x840000 then
    if s.running then (s, .bad eBUSY) else (s.putBytes (epAddr u off) bs, .ok)
  else if u = rdU 0 && inWindow off n 0x10000 0x20000 then (s, .bad ePROT)
  else if u = portU 0 && s.bridge then
    match s.hostAddr off with
    | none => (s, .bad eXLATE)
    | some a => if s.rd (portU 1) Reg.HB_STAT_LINKUP = 0 then (s, .bad eLINK_DOWN) else (s.emit (.host a bs), .ok)
  else
    match s.epDoor src u off bs with
    | some r => r
    | none =>
      if (touched off n).all (fun o => !s.regThere u o) then s.noSuch u off
      else
        let bar := s.writeBar src u off n
        if bar ≠ 0 then (s, .bad bar) else s.writeRegs src u off bs

/-! ### Target addresses (R190, R191) -/

def taModule (t : Nat) : Nat := bitsOf t 62 48
def taDie (t : Nat) : Nat := bitsOf t 47 42
def taEp (t : Nat) : Bool := bitAt t 41
def taOff (t : Nat) : Nat := if taEp t then bitsOf t 23 0 else bitsOf t 35 0
def taUnit (t : Nat) : Nat := unitOf (taDie t) (bitsOf t 33 30) (bitsOf t 29 24)

/-- Whether a target address of this module names something. -/
def taNames (t : Nat) : Bool :=
  !bitAt t 63 &&
  (if taEp t then bitsOf t 40 34 == 0 && epExists (taUnit t)
   else decide (taDie t < 24) && bitsOf t 40 36 == 0 && decide (taOff t < 0xC00000000))

/-- The start of a stack's reserved region (R186). -/
def reservedOff : Nat := 0xBF0000000

/-- An access by target address served at this module. -/
def State.serveAt (s : State) (src t : Nat) (data : Option (List Byte)) (n : Nat) : State × Ans :=
  if !taNames t then s.noSuch (taUnit t) (taOff t)
  else if taEp t then
    match data with
    | none => s.epRead src (taUnit t) (taOff t) n
    | some bs => s.epWrite src (taUnit t) (taOff t) bs
  else if reservedOff < taOff t + n && !s.isKeeper src then (s, .bad ePROT)
  else
    match data with
    | none => s.dramRead (taDie t) (taOff t) n (s.dramSrc (taDie t) src)
    | some bs => s.dramWrite (taDie t) (taOff t) (s.dramSrc (taDie t) src) bs

/-- The unit that a target address of this module names: an endpoint, or the DRAM controller of a stack. -/
def taFar (t : Nat) : Nat := if taEp t then taUnit t else dramU (taDie t)

/-- A packet that a router has found bits failed in (R37): one bit is corrected and logged as ECC_CE; two or more end it, and
are logged as ECC_UE with the unit addresses of both ends. The router of the destination's die logs it, and the two ends
stand in DETAIL0 and DETAIL1 (assumption 194). -/
def State.netError (s : State) (src t flips : Nat) : State :=
  let router := if taDie t < 40 then unitOf (taDie t) 0 63 else keeperU
  if flips = 0 then s
  else s.logEvent (if flips = 1 then eECC_CE else eECC_UE) router src (s.unitAddr (taFar t))

/-- The bits that fail in the next packet to a die, and the state in which that packet has gone. -/
def State.netFlips (s : State) (die : Nat) : Nat × State := (mget s.net die 0, { s with net := mdel s.net die })

/-- The stacks out of self-refresh, and the module on its way to Active: an access of an engine waits for the wake that it
causes, so its requester sees only a longer time (08_bonded_dram R203; 21_power_cooling R499). -/
def State.stackUp (s : State) (die : Nat) : State :=
  if s.rd (dramU die) Reg.DRAM_STAT_SELF_REF = 1 then
    forEach (List.range 24) (fun s d => s.wr (dramU d) Reg.DRAM_STAT_SELF_REF 0) s.wakeCause
  else s

/-- An access of an engine served at this module: to a scratchpad window as the accesses of its class, else as one. -/
def State.serveRun (s : State) (src t : Nat) (data : Option (List Byte)) (n : Nat) : State × Ans :=
  if taNames t && taEp t && taDie t < 24 && epOf (taUnit t) = 1 && taOff t < 0x800000 then
    (windowPieces src (n + 1) (taOff t) n).foldl (fun (p : State × Ans) b =>
      if p.2.err ≠ 0 then p
      else
        let (s1, a) := p.1.serveAt src (t - taOff t + b.1) (data.map (fun bs => slice bs (b.1 - taOff t) b.2)) b.2
        (s1, ⟨a.err, p.2.data ++ a.data, none⟩)) (s, .ok)
  else (if taEp t then s else s.stackUp (taDie t)).serveAt src t data n

/-- An access by target address: at this module, or sent to the module that it names, whose answer nothing here
constrains (assumption 7) but that an address which names nothing there is answered with XLATE_FAULT (R191). An access that
leaves the issuer's die goes as packets, whose bits may fail (R37). -/
def State.access (s : State) (src t : Nat) (data : Option (List Byte)) (n : Nat) : State × Ans :=
  if taModule t = s.job.modId || bitAt t 63 then
    if taDie t = dieOf (src % 65536) then s.serveRun src t data n
    else
      let (flips, s1) := s.netFlips (taDie t)
      let s2 := s1.netError src t flips
      if 2 ≤ flips then (s2, .bad eECC_UE) else s2.serveRun src t data n
  else
    match data with
    | none =>
      let s0 := s.emit (.read src t n)
      if !taNames t then (s0, .bad eXLATE) else let (bs, s1) := s0.freshBytes n; (s1, .ok bs)
    | some bs => (s.emit (.write src t bs), if taNames t then .ok else .bad eXLATE)

/-! ### Translation (R192 to R197) -/

/-- Permissions of a leaf by their bit in the entry: read, write, multicast read (which needs R too), execute. -/
def permRead : Nat := 0
def permWrite : Nat := 1
def permMcast : Nat := 2
def permExec : Nat := 3

def entryAllows (e need : Nat) : Bool :=
  match need with
  | 0 => bitAt e 2
  | 1 => bitAt e 3
  | 2 => bitAt e 2 && bitAt e 4
  | _ => bitAt e 5

/-- Canonical virtual addresses: bits 63 to 57 copy bit 56 (R163). -/
def canonical (va : Nat) : Bool := bitsOf va 63 57 == (if bitAt va 56 then 127 else 0)

/-- A virtual base of 57 bits as a canonical address. -/
def va57 (a : Nat) : Nat := a % 2 ^ 57 + (if bitAt a 56 then 2 ^ 64 - 2 ^ 57 else 0)

/-- A key moved to the front of a cache of bounded size. -/
def lruPut (n : Nat) (l : List (Nat × Nat)) (k v : Nat) : List (Nat × Nat) :=
  ((k, v) :: l.filter (fun p => !(p.1 == k))).take n

/-- The target address that a leaf gives. -/
def leafTarget (e level va : Nat) : Nat :=
  if level = 1 then 2 ^ 30 * bitsOf e 62 30 + va % 2 ^ 30 else 2 ^ 21 * bitsOf e 62 21 + va % 2 ^ 21

/-- Why an entry stops a walk at a level, 0 where it does not: not valid, a bit that must be 0, a leaf out of place, or
a next table outside the die's own reserved region (R194). -/
def State.entryBad (s : State) (die level e : Nat) : Bool :=
  let leaf := bitAt e 1
  !bitAt e 0 || bitsOf e 11 6 != 0 || bitAt e 63 ||
  (if leaf then
     decide (2 ≤ level) || (level == 1 && bitsOf e 29 12 != 0) || (level == 0 && bitsOf e 20 12 != 0)
   else
     level == 0 || bitsOf e 5 2 != 0 ||
     !(let t := 4096 * bitsOf e 62 12
       taModule t == s.job.modId && taDie t == die && !taEp t && bitsOf t 40 36 == 0 && decide (reservedOff ≤ taOff t) &&
         decide (taOff t + 4096 ≤ 0xC00000000)))

/-- A walk through the levels listed, from the table at a target address: the error, its level, and the leaf with its
level. -/
def State.walk (s : State) (die va : Nat) : List Nat → Nat → State × Nat × Nat × Nat
  | [], _ => (s, eXLATE, 0, 0)
  | level :: more, table =>
    let idx := bitsOf va (20 + 9 * (level + 1)) (21 + 9 * level)
    let key := 2 ^ 60 * level + va % 2 ^ 57 / 2 ^ (21 + 9 * level)
    let tu := mget s.tus die {}
    let (s1, got) : State × Option Nat :=
      match tu.mid.find? (fun p => p.1 == key) with
      | some p => (s, some p.2)
      | none =>
        let (s1, a) := s.dramRead (taDie table) (taOff table + 8 * idx) 8 7
        (s1, if a.err = 0 then some (leNat a.data) else none)
    match got with
    | none => (s1, eECC_UE, level, 0)
    | some e =>
      if s1.entryBad die level e then (s1, eXLATE, level, 0)
      else if bitAt e 1 then (s1, 0, level, e)
      else
        let tu1 := mget s1.tus die {}
        let s2 : State := { s1 with tus := mset {} s1.tus die { tu1 with mid := lruPut 256 tu1.mid key e } }
        State.walk s2 die va more (4096 * bitsOf e 62 12)

/-- The root of a die's tables (Table 8-5). -/
def State.tuRoot (s : State) (die : Nat) : Nat :=
  4096 * (s.rd (tuU die) Reg.TU_ROOT_LO_ADDR / 4096) + 2 ^ 32 * s.rd (tuU die) Reg.TU_ROOT_HI_ADDR

/-- A translation's fault captured (Table 8-5). -/
def State.tuFault (s : State) (die agent va level code : Nat) : State :=
  let u := tuU die
  let cause := if code = eXLATE then 1 else if code = ePROT then 2 else 3
  ((((s.wr u Reg.TU_STAT_FAULTED 1).wr u Reg.TU_FADDR_LO_ADDR va).wr u Reg.TU_FINFO_CAUSE cause).wr u
    Reg.TU_FINFO_LEVEL level).wr u Reg.TU_FINFO_AGENT agent

/-- The leaf that maps an address, from the cache or by a walk. -/
def State.leafOf (s : State) (die va : Nat) : State × Nat × Nat × Nat :=
  let tu := mget s.tus die {}
  let p2 := va % 2 ^ 57 / 2 ^ 21
  let p1 := va % 2 ^ 57 / 2 ^ 30
  match tu.small.find? (fun p => p.1 == p2), tu.big.find? (fun p => p.1 == p1) with
  | some p, _ => ({ s with tus := mset {} s.tus die { tu with small := lruPut 4096 tu.small p2 p.2 } }, 0, 0, p.2)
  | none, some p => ({ s with tus := mset {} s.tus die { tu with big := lruPut 64 tu.big p1 p.2 } }, 0, 1, p.2)
  | none, none =>
    let (s1, err, level, e) := (s.bump (tuU die) Reg.TU_MISS_COUNT 1).walk die va [3, 2, 1, 0] (s.tuRoot die)
    if err = 0 then
      let tu1 := mget s1.tus die {}
      let tu2 : TuSt := if level = 0 then { tu1 with small := lruPut 4096 tu1.small p2 e }
        else { tu1 with big := lruPut 64 tu1.big p1 e }
      ({ s1 with tus := mset {} s1.tus die tu2 }, 0, level, e)
    else (s1, err, level, 0)

/-- A virtual address translated for an agent (Table 8-5) through the unit of a die: an error code, or the target. -/
def State.translate (s : State) (die agent va need : Nat) : State × Nat × Nat :=
  if !canonical va then (s.tuFault die agent va 3 eXLATE, eXLATE, 0)
  else
    let (s1, err, level, e) := (s.stackUp die).leafOf die va
    if err ≠ 0 then (s1.tuFault die agent va level err, err, 0)
    else if entryAllows e need then (s1, 0, leafTarget e level va)
    else (s1.tuFault die agent va level ePROT, ePROT, 0)

/-! ### Accesses to virtual addresses -/

/-- An agent as it reaches memory: its SRC, the die whose unit translates for it, and its AGENT code (Table 8-5). -/
structure Agent where
  src : Nat
  die : Nat
  code : Nat
  deriving DecidableEq, Repr

/-- The target address at an offset of spans laid end to end. -/
def spanAt : List (Nat × Nat) → Nat → Option Nat
  | [], _ => none
  | p :: r, o => if o < p.2 then some (p.1 + o) else spanAt r (o - p.2)

/-- The unit that translates an address for an agent: its own, but for a tensorizer or an ingest window that of the
destination's die (R195), which the loaded regions tell; an address of no region is left to the agent's own entry
(assumption 197). -/
def State.tuOf (s : State) (ag : Agent) (va : Nat) : Nat :=
  if ag.code = 4 || ag.code = 5 then
    match s.job.regions.findSome? (fun r =>
        if r.base ≤ va && va < r.base + r.size then spanAt r.spans (va - r.base) else none) with
    | some t => if taDie t < 24 then taDie t else ag.die
    | none => ag.die
  else ag.die

/-- A run of bytes cut into accesses that lie within aligned 64-byte blocks (R167); `f` bounds how many. -/
def blocks64 : Nat → Nat → Nat → List (Nat × Nat)
  | 0, _, _ => []
  | f + 1, va, n =>
    if n = 0 then []
    else
      let k := Nat.min n (64 - va % 64)
      (va, k) :: blocks64 f ((va + k) % 2 ^ 64) (n - k)

/-- How an access to virtual memory ended: its data, or the error code and the address that met it. -/
structure VRes where
  err : Nat
  addr : Nat
  data : List Byte
  held : Option Nat
  deriving DecidableEq, Repr

/-- A read of virtual memory; it stops at its first error. -/
def State.vread (s : State) (ag : Agent) (va n need : Nat) : State × VRes :=
  (blocks64 (n + 1) va n).foldl (fun (p : State × VRes) b =>
    if p.2.err ≠ 0 || p.2.held.isSome then p
    else
      let (s1, err, t) := p.1.translate (p.1.tuOf ag b.1) ag.code b.1 need
      if err ≠ 0 then (s1, ⟨err, b.1, [], none⟩)
      else
        let (s2, a) := s1.access ag.src t none b.2
        (s2, ⟨a.err, b.1, p.2.data ++ a.data, a.held⟩)) (s, ⟨0, 0, [], none⟩)

/-- A write of virtual memory; it stops at its first error. -/
def State.vwrite (s : State) (ag : Agent) (va : Nat) (bs : List Byte) : State × VRes :=
  let (s1, r, _) := (blocks64 (bs.length + 1) va bs.length).foldl (fun (p : State × VRes × Nat) b =>
    let (s, r, o) := p
    if r.err ≠ 0 then p
    else
      let (s1, err, t) := s.translate (s.tuOf ag b.1) ag.code b.1 permWrite
      if err ≠ 0 then (s1, ⟨err, b.1, [], none⟩, o)
      else
        let (s2, a) := s1.access ag.src t (some (slice bs o b.2)) b.2
        (s2, ⟨a.err, b.1, [], if a.held.isSome then a.held else r.held⟩, o + b.2)) (s, ⟨0, 0, [], none⟩, 0)
  (s1, r)

/-- The agent that a core's DMA engine is. -/
def State.dmaAgent (s : State) (die core : Nat) : Agent := ⟨s.unitAddr (dmaU die core), die, 0⟩

/-- The translation unit that serves a die of mesh row 4 (R195). -/
def rowFourTu (d : Nat) : Nat :=
  if d < 35 then d - 16 else if d = 38 then 19 else d - 14

end Sys2Proof.Machine
end

