-- ==== Sys2Proof/Machine/Ingest.lean ====
section
/-!
DEFINITION. The ingest die: Ethernet, the RoCE v2 subset, sample draws, windows, arrivals, the demultiplexer and
access-unit records (14_video_ingest_developer R332 to R346, 15_application_cores R366, R371, R372).
-/
namespace Sys2Proof.Machine

/-! ### Stream records (Table 14-3), as 1024-bit numbers -/

def srWindow (r : Nat) : Bool := bitAt r 4
def srCont (r : Nat) : Nat := bitsOf r 6 5
def srCodec (r : Nat) : Nat := bitsOf r 10 8
def srMaskPol (r : Nat) : Bool := bitAt r 11
def srReadDrop (r : Nat) : Bool := bitAt r 12
def srFgs (r : Nat) : Bool := bitAt r 13
def srFields (r : Nat) : Bool := bitAt r 14
def srLayer (r : Nat) : Nat := bitsOf r 31 16
def srSalt (r : Nat) : Nat := bitsOf r 47 32
def srEvt (r : Nat) : Nat := bitsOf r 50 48
def srCsc (r : Nat) : Nat := bitsOf r 53 51
def srRange (r : Nat) : Nat := bitsOf r 55 54
def srArea (r : Nat) : Bool := bitAt r 56
def srNsamp (r : Nat) : Nat := bitsOf r 111 64
def srStable (r : Nat) : Nat := bitsOf r 191 128
def srOut (r : Nat) : Nat := bitsOf r 255 192
def srBufStride (r : Nat) : Nat := bitsOf r 319 256
def srSlotStride (r : Nat) : Nat := bitsOf r 351 320
def srSps (r : Nat) : Nat := bitsOf r 367 352
def srDpn (r : Nat) : Nat := bitsOf r 383 368
def srDpr (r : Nat) : Nat := bitsOf r 399 384
def srFrames (r : Nat) : Nat := bitsOf r 415 400
def srTstride (r : Nat) : Nat := bitsOf r 423 416
def srTphase (r : Nat) : Nat := bitsOf r 431 424
def srTt (r : Nat) : Nat := bitsOf r 439 432
def srTp (r : Nat) : Nat := bitsOf r 447 440
def srCropX (r : Nat) : Nat := bitsOf r 463 448
def srCropY (r : Nat) : Nat := bitsOf r 479 464
def srCropW (r : Nat) : Nat := bitsOf r 495 480
def srCropH (r : Nat) : Nat := bitsOf r 511 496
def srOutW (r : Nat) : Nat := bitsOf r 527 512
def srOutH (r : Nat) : Nat := bitsOf r 543 528
def srCvt (r : Nat) : Nat := bitsOf r 551 544
def srRetry (r : Nat) : Nat := bitsOf r 559 552
def srMean (r c : Nat) : Nat := bitsOf r (607 + 32 * c) (576 + 32 * c)
def srRstd (r c : Nat) : Nat := bitsOf r (703 + 32 * c) (672 + 32 * c)
def srDieMask (r : Nat) : Nat := bitsOf r 791 768
def srCmask (r : Nat) : Nat := bitsOf r 815 800
def srMaxW (r : Nat) : Nat := bitsOf r 847 832
def srMaxH (r : Nat) : Nat := bitsOf r 863 848

/-- The kept frames of a clip (R342). -/
def srKept (r : Nat) : Nat := if srTstride r = 0 then 0 else ceilDiv (srFrames r - srTphase r) (srTstride r)

/-! ### Streams -/

def State.stream (s : State) (slot : Nat) : Option StreamRun := mget s.streams slot none

/-- A stream changed, with the registers that show it (Table 14-8). -/
def State.setStream (s : State) (slot : Nat) (x : StreamRun) : State :=
  let u := strU slot
  ((({ s with streams := mset none s.streams slot (some x) } : State).wrB u Reg.STR_STAT_STALLED x.stalled).wr u
    Reg.STR_STAT_BUF (x.step % 2)).wr u Reg.STR_STAT_INFLIGHT x.samples.length

/-- A sample in preparation, by its draw. -/
def StreamRun.sample (x : StreamRun) (draw : Nat) : Option Sample := x.samples.find? (fun m => m.draw == draw)

def StreamRun.setSample (x : StreamRun) (m : Sample) : StreamRun :=
  { x with samples := x.samples.map (fun y => if y.draw = m.draw then m else y) }

/-- How the ingest die reaches memory: as agent 5, through the unit of the destination's die (08_bonded_dram R195), and for an
address of no region that of C19, above die I. -/
def State.ingestAgent (s : State) (slot : Nat) : Agent := ⟨s.unitAddr (strU slot), rowFourTu 38, 5⟩

/-- The step counter. -/
def State.stepNow (s : State) : Nat := s.rd keeperU Reg.FX_STEP_LO_VALUE

/-- The draw of a batch slot in a step (R343). -/
def StreamRun.drawAt (x : StreamRun) (now step slot : Nat) : Nat :=
  x.draw + (step - now) * (srDpn x.rec_ * srSps x.rec_) + srDpr x.rec_ * srSps x.rec_ + slot

/-! ### The permutation (R344) -/

/-- One pass of the six-round network over `2 h` bits. -/
def permPass (k h x : Nat) : Nat :=
  let m := 2 ^ h
  let (l, r) := (List.range 6).foldl (fun (p : Nat × Nat) k8 => (p.2, p.1 ^^^ (srWord k k8 0 p.2 % m))) (x / m % m, x % m)
  l * m + r

/-- Passes until the value lies below `n`, with the passes beyond the first; `f` bounds them by the size of the domain. -/
def permWalk (k n h : Nat) : Nat → Nat → Nat → Nat × Nat
  | 0, x, c => (x, c)
  | f + 1, x, c => if x < n then (x, c) else permWalk k n h f (permPass k h x) (c + 1)

/-- The permutation of 0 to n − 1, and the passes beyond the first. -/
def perm (k n i : Nat) : Nat × Nat :=
  let b0 := Nat.max 2 (if n ≤ 1 then 0 else ilog2 (n - 1) + 1)
  let h := (b0 + b0 % 2) / 2
  permWalk k n h (2 ^ (2 * h)) (permPass k h i) 0

/-- The key of an epoch. -/
def permKey (seed salt e : Nat) : Nat := (seed ^^^ (2 ^ 48 * salt) ^^^ e) % 2 ^ 64

/-! ### RoCE (R334, R335) -/

def State.qp (s : State) (i : Nat) : QueuePair := mget s.qps i {}
def State.setQp (s : State) (i : Nat) (q : QueuePair) : State := { s with qps := mset {} s.qps i q }

/-- The path MTU of a source entry. -/
def QueuePair.mtu (q : QueuePair) : Nat := match bitsOf q.entry 3 2 with
  | 0 => 1024
  | 1 => 2048
  | _ => 4096

def QueuePair.port (q : QueuePair) : Nat := bitsOf q.entry 0 0
def QueuePair.rkey (q : QueuePair) : Nat := bitsOf q.entry 95 64
def QueuePair.rbase (q : QueuePair) : Nat := bitsOf q.entry 319 256

/-- A READ request of a sample's bytes sent (R334, R337). -/
def State.sendRead (s : State) (i : Nat) (r : ReadReq) (soff : Nat) : State :=
  let q := s.qp i
  s.emit (.roce i 0 ((r.psn + r.got) % 2 ^ 24)
    [(q.rbase + soff + r.off + r.got * q.mtu) % 2 ^ 64, q.rkey, r.len - r.got * q.mtu])

/-- The next READ request that a queue pair may send: at most 16 are outstanding, samples in order, offsets ascending. -/
def State.nextRead (s : State) (i : Nat) : Option (Nat × Sample) :=
  let q := s.qp i
  if q.st ≠ 1 || 16 ≤ q.reads.length then none
  else
    s.streams.findSome? (fun e => match e.2 with
      | none => none
      | some x =>
        if x.stalled || srWindow x.rec_ then none
        else (x.samples.find? (fun m => m.src == i && !m.readFail && !m.tooLong && decide (65536 * m.sent < m.len))).map
          (fun m => (e.1, m)))

/-- READ requests sent while they may be; `f` bounds them. -/
def State.pumpReads (i : Nat) : Nat → State → State
  | 0, s => s
  | f + 1, s =>
    match s.nextRead i with
    | none => s
    | some (slot, m) =>
      let q := s.qp i
      let len := Nat.min 65536 (m.len - 65536 * m.sent)
      let k := ceilDiv len q.mtu
      let r : ReadReq := { slot := slot, draw := m.draw, off := 65536 * m.sent, len := len, psn := q.psn, packets := k }
      let s1 := s.setQp i { q with psn := (q.psn + k) % 2 ^ 24, reads := q.reads ++ [r] }
      let s2 := match s1.stream slot with
        | some x => s1.setStream slot (x.setSample { m with sent := m.sent + 1, left := m.left + 1 })
        | none => s1
      State.pumpReads i f (s2.sendRead i r m.off)

/-- A congestion notification packet, at most one per queue pair per 50 µs (R334). -/
def State.cnp (s : State) (i : Nat) (ce : Bool) : State :=
  let q := s.qp i
  let now := s.rd clkU Reg.TS_LO_VALUE
  let due := match q.cnp with
    | none => true
    | some t => decide (t + 5938 ≤ now)
  if ce && due then (s.setQp i { q with cnp := some now }).emit (.roce i 4 0 []) else s

/-! ### Arrivals (R366, R371) -/

/-- The pending ARR_WAIT of a core ended where an arrival lies within its mask (R366). -/
def State.endArrWait (s : State) (i : Nat) : State :=
  let a := mget s.apps i {}
  match a.wait with
  | some w =>
    let pend := s.rd (acU i) Reg.AC_SPEND_SLOT
    let hit := pend &&& w.mask
    if w.service = 2 && hit ≠ 0 then
      ({ s with apps := mset {} s.apps i { a with wait := none, a0 := hit } }).wr (acU i) Reg.AC_SPEND_SLOT
        (clearBits pend hit)
    else s
  | none => s

/-- A sample that no later arrival waits for: its bytes are all there, or it is never read. -/
def Sample.settled (m : Sample) : Bool := m.arrived || m.readFail || m.tooLong

/-- The arrivals that a newly settled sample lets into the parser's queue: samples arrive in ascending draw order (R371), so
those behind it that were there before it follow it, and none passes a sample still being read. -/
def State.queueArrivals (s : State) (slot draw : Nat) : State :=
  match s.stream slot with
  | none => s
  | some x =>
    let before := x.samples.takeWhile (fun m => m.draw != draw)
    let run := ((x.samples.drop before.length).takeWhile Sample.settled).filter (fun m => m.arrived)
    if srCont x.rec_ = 0 || !before.all Sample.settled || run.isEmpty then s
    else
      let s1 : State := { s with
        arrivals := mset [] s.arrivals slot (mget s.arrivals slot [] ++ run.map (fun m => (m.draw, m.base, m.len))) }
      forEach ((s1.apps.filter (fun a => bitAt a.2.slots slot)).map (fun a => a.1)) (fun s i =>
        (s.wr (acU i) Reg.AC_SPEND_SLOT (s.rd (acU i) Reg.AC_SPEND_SLOT ||| 2 ^ slot)).endArrWait i) s1

/-- A sample whose bytes are all in its window: queued for its parser (R371). -/
def State.arrive (s : State) (slot : Nat) (m : Sample) : State :=
  match s.stream slot with
  | none => s
  | some x => (s.setStream slot (x.setSample { m with arrived := true })).queueArrivals slot m.draw

/-! ### Failed reads (R337) -/

/-- A read attempt that failed: the whole read is attempted again, or READPOL decides. -/
def State.readFailed (s : State) (i slot draw : Nat) : State :=
  let q := s.qp i
  let s1 := (s.setQp i { q with reads := q.reads.filter (fun r => !(r.slot == slot && r.draw == draw)) }).bump (strU slot)
    Reg.STR_RDFAIL_COUNT 1
  match s1.stream slot with
  | none => s1
  | some x =>
    match x.sample draw with
    | none => s1
    | some m =>
      let m1 : Sample := { m with sent := 0, left := 0, fails := m.fails + 1 }
      if m1.fails ≤ srRetry x.rec_ then State.pumpReads i 16 (s1.setStream slot (x.setSample m1))
      else if srReadDrop x.rec_ then
        State.pumpReads i 16 ((s1.setStream slot (x.setSample { m1 with readFail := true })).queueArrivals slot draw)
      else
        (s1.setStream slot { x.setSample m1 with stalled := true }).logEvent eING_READ (strU slot) slot draw

/-! ### Windows -/

/-- Bytes put into a window at a stream byte count; they wrap at its end (R338). -/
def State.windowPut (s : State) (slot : Nat) (x : StreamRun) (p : Nat) (bs : List Byte) : State :=
  if x.wsize = 0 || bs.isEmpty then s
  else
    let o := p % x.wsize
    let k := Nat.min bs.length (x.wsize - o)
    let put (s : State) (va : Nat) (b : List Byte) : State :=
      if b.isEmpty then s
      else
        let (s1, r) := s.vwrite (s.ingestAgent slot) va b
        if r.err = 0 then s1 else s1.logEvent r.err (strU slot) r.addr
    put (put s (x.wbase + o) (bs.take k)) x.wbase (bs.drop k)

/-- Bytes of a window from a stream byte count. -/
def State.windowGet (s : State) (slot : Nat) (x : StreamRun) (p n : Nat) : State × List Byte :=
  if x.wsize = 0 || n = 0 then (s, [])
  else
    let o := p % x.wsize
    let k := Nat.min n (x.wsize - o)
    let (s1, r1) := s.vread (s.ingestAgent slot) (x.wbase + o) k permRead
    let (s2, r2) := if n = k then (s1, ⟨0, 0, [], none⟩) else s1.vread (s.ingestAgent slot) x.wbase (n - k) permRead
    (s2, slice (r1.data ++ r2.data) 0 n)

/-- The end of the contiguous bytes after an extent is received, and the extents left beyond it (R338). -/
def joinExtents (prod : Nat) (l : List (Nat × Nat)) : Nat × List (Nat × Nat) :=
  (sortBy (fun a b => decide (a.1 ≤ b.1)) l).foldl (fun (p : Nat × List (Nat × Nat)) e =>
    if e.1 ≤ p.1 then (Nat.max p.1 e.2, p.2) else (p.1, p.2 ++ [e])) (prod, [])

/-! ### Samples (R336, R343, R346) -/

/-- The step and batch slot after a sample's. -/
def StreamRun.advance (x : StreamRun) : StreamRun :=
  if x.slot + 1 < srSps x.rec_ then { x with slot := x.slot + 1 } else { x with slot := 0, step := x.step + 1 }

/-- SAMPLE_START (R346): the next sample of a stream is started: drawn, looked up, given its place in the window, and its
READ requests sent. A sample that does not fit into the window yet waits. -/
def execSampleStart (slot : Nat) (upsets : List (Nat × Nat)) (s0 : State) : Host.Outcome State Fault Refusal :=
  let s := s0.upset upsets
  match s.stream (slot % 16) with
  | none => done s
  | some x =>
    let k := slot % 16
    let r := x.rec_
    if !s.running || x.stalled || 128 ≤ x.samples.length || s.stepNow + 1 < x.step then done s
    else
      let d := x.drawAt s.stepNow x.step x.slot
      let m0 : Sample := { draw := d, step := x.step, slot := x.slot, index := d, src := 0, pid := 0, skip := 0, off := 0,
                           len := 0, base := 0 }
      if srWindow r then done (s.setStream k { x.advance with samples := x.samples ++ [m0] })
      else
        let n := srNsamp r
        let (idx, walk) := perm (permKey s.job.seed (srSalt r) (d / n)) n (d % n)
        let ag := s.ingestAgent k
        let (s1, hd) := (s.bump (strU k) Reg.STR_WALK_COUNT walk).vread ag (srStable r) 2 permRead
        let nsrc := leNat hd.data
        let (s2, se) := s1.vread ag ((srStable r + 64 + 64 * nsrc + 32 * idx) % 2 ^ 64) 32 permRead
        let src := leAt se.data 0 2
        let (s3, en) := s2.vread ag ((srStable r + 64 + 64 * src) % 2 ^ 64) 64 permRead
        if hd.err ≠ 0 || se.err ≠ 0 || en.err ≠ 0 then
          -- The table cannot be read: logged, and the sample is not started (assumption 30).
          let bad := if hd.err ≠ 0 then hd else if se.err ≠ 0 then se else en
          done (s3.logEvent bad.err (strU k) bad.addr)
        else
          let len := leAt se.data 16 4
          let m : Sample := { m0 with index := idx, src := src, pid := leAt se.data 2 2 % 2 ^ 13, skip := leAt se.data 4 2,
                                      off := leAt se.data 8 8, len := len, base := x.prod }
          let s4 := s3.setQp src { s3.qp src with entry := leNat en.data }
          if x.wsize < 4 * len then done (s4.setStream k { x.advance with samples := x.samples ++ [{ m with tooLong := true }] })
          else if x.cons + x.wsize < x.prod + len then done s
          else
            done (State.pumpReads src 16 (s4.setStream k { x.advance with samples := x.samples ++ [m], prod := x.prod + len }))

/-- A queue pair's oldest READ resent from the packet expected next, counted as a retry (R334). -/
def State.resendRead (s : State) (i : Nat) (rnr : Bool) : State :=
  let q := s.qp i
  match q.reads with
  | [] => s
  | r :: rest =>
    let r1 : ReadReq := if rnr then { r with rnrs := r.rnrs + 1 } else { r with retries := r.retries + 1 }
    if 7 < r1.retries || 7 < r1.rnrs then s.readFailed i r.slot r.draw
    else
      let soff := match s.stream r.slot with
        | some x => ((x.sample r.draw).map (fun m => m.off)).getD 0
        | none => 0
      ((s.setQp i { q with reads := r1 :: rest }).bump (ethU q.port) Reg.ROCE_RETRY_COUNT 1).sendRead i r1 soff

/-- READ_RESPONSE_RECEIVE (R334, R337, R371): `kind` is 0 to 3 for READ Response First, Middle, Last and Only, and 4 for ACK
and NAK, whose syndrome is 0 ACK, 1 PSN Sequence Error, 5 RNR, and any other value a NAK that fails the request. A
response whose PSN is not the one expected next is dropped, and the timeout resends. -/
def execReadResponseReceive (qp psn kind syndrome : Nat) (data : List Byte) (ce : Bool) (s0 : State) :
    Host.Outcome State Fault Refusal :=
  let s := s0.cnp qp ce
  let q := s.qp qp
  if q.st ≠ 1 then done s
  else
    match q.reads with
    | [] => done s
    | r :: rest =>
      if kind = 4 then
        if syndrome = 0 then done s
        else if syndrome = 1 then done (s.resendRead qp false)
        else if syndrome = 5 then done (s.resendRead qp true)
        else done (s.readFailed qp r.slot r.draw)
      else if psn % 2 ^ 24 ≠ (r.psn + r.got) % 2 ^ 24 then done s
      else
        match s.stream r.slot with
        | none => done s
        | some x =>
          match x.sample r.draw with
          | none => done s
          | some m =>
            let s1 := s.windowPut r.slot x (m.base + r.off + r.got * q.mtu) (data.take (Nat.min q.mtu (r.len - r.got * q.mtu)))
            if r.got + 1 < r.packets then
              done (s1.setQp qp { q with reads := { r with got := r.got + 1, retries := 0, rnrs := 0 } :: rest })
            else
              let s2 := s1.setQp qp { q with reads := rest }
              let m1 : Sample := { m with left := m.left - 1 }
              let s3 := s2.setStream r.slot (x.setSample m1)
              let s4 := if m1.left = 0 && m1.len ≤ 65536 * m1.sent then s3.arrive r.slot m1 else s3
              done (State.pumpReads qp 16 s4)

/-- ROCE_ACK_TIMEOUT (R334, R337): the oldest READ of a queue pair has had no answer for the ACK timeout. -/
def execRoceAckTimeout (qp : Nat) (s : State) : Host.Outcome State Fault Refusal :=
  if (s.qp qp).st = 1 then done (s.resendRead qp false) else done s

/-- ROCE_WRITE_RECEIVE (R335, R338): a packet of an RDMA WRITE whose first byte has stream byte count `p`. `keyOk` says that
its R_Key names the window and that it lies within it; the specification does not say how R_Keys are given. -/
def execRoceWriteReceive (qp psn slot : Nat) (keyOk : Bool) (p : Nat) (data : List Byte) (ce : Bool) (s0 : State) :
    Host.Outcome State Fault Refusal :=
  let s := s0.cnp qp ce
  let q := s.qp qp
  let nak (s : State) (kind : Nat) (args : List Nat) : State :=
    (s.emit (.roce qp kind psn args)).bump (ethU q.port) Reg.ROCE_NAK_COUNT 1
  let ahead := (2 ^ 24 + psn - q.exp) % 2 ^ 24
  if q.st ≠ 1 then done s
  else if ahead ≠ 0 then
    done (if ahead < 2 ^ 23 then nak s 2 [1] else s.emit (.roce qp 1 psn []))
  else
    match (if keyOk then s.stream (slot % 16) else none) with
    | none =>
      done (((nak s 2 [3]).setQp qp { q with st := 2 }).logEvent ePARTNER (ethU q.port) qp p)
    | some x =>
      let k := slot % 16
      if !srWindow x.rec_ then
        done (((nak s 2 [3]).setQp qp { q with st := 2 }).logEvent ePARTNER (ethU q.port) qp p)
      else if x.cons + x.wsize < p + data.length then done (nak s 3 [])
      else
        let s1 := (s.setQp qp { q with exp := (q.exp + 1) % 2 ^ 24 }).emit (.roce qp 1 psn [])
        if p + data.length ≤ x.cons then done s1
        else
          let drop := x.cons - p
          let (prod, ext) := joinExtents x.prod (x.extents ++ [(p + drop, p + data.length)])
          done ((s1.windowPut k x (p + drop) (data.drop drop)).setStream k { x with prod := prod, extents := ext })

/-! ### Ethernet frames (R333, R334) -/

/-- The ones'-complement sum of 16-bit big-endian words. -/
def inetSum (bs : List Byte) : Nat :=
  let t := (List.range ((bs.length + 1) / 2)).foldl (fun a i => a + beNat (slice bs (2 * i) 2)) 0
  let f (v : Nat) : Nat := v % 65536 + v / 65536
  f (f (f t))

/-- `n` big-endian bytes of a number. -/
def beBytes (n v : Nat) : List Byte := (leBytes n v).reverse

/-- An Ethernet frame's tag, EtherType and payload. -/
def ethParse (f : List Byte) : List Byte × Nat × List Byte :=
  if beNat (slice f 12 2) = 0x8100 then (slice f 12 4, beNat (slice f 16 2), f.drop 18)
  else ([], beNat (slice f 12 2), f.drop 14)

/-- The answer to an ARP request for the port's IPv4 address. -/
def arpAnswer (mac ip4 : Nat) (tag src p : List Byte) : Option (List Byte) :=
  if beNat (slice p 0 8) = 0x0001080006040001 && beNat (slice p 24 4) = ip4 && ip4 ≠ 0 then
    some (src ++ beBytes 6 mac ++ tag ++ beBytes 2 0x0806 ++ beBytes 8 0x0001080006040002 ++ beBytes 6 mac ++
      beBytes 4 ip4 ++ slice p 8 10)
  else none

/-- The answer to an IPv6 Neighbor Solicitation for the port's address: a Neighbor Advertisement with the Solicited and
Override flags and the target's link-layer address. -/
def ndAnswer (mac ip6 : Nat) (tag src p : List Byte) : Option (List Byte) :=
  if slice p 6 1 = [58] && slice p 40 1 = [135] && beNat (slice p 48 16) = ip6 && ip6 ≠ 0 then
    let dst := slice p 8 16
    let body := beBytes 4 0x60000000 ++ beBytes 16 ip6 ++ beBytes 2 0x0201 ++ beBytes 6 mac
    let pseudo := beBytes 16 ip6 ++ dst ++ beBytes 4 32 ++ beBytes 4 58
    let sum := 65535 - inetSum (pseudo ++ beBytes 4 0x88000000 ++ body)
    some (src ++ beBytes 6 mac ++ tag ++ beBytes 2 0x86DD ++ beBytes 4 0x60000000 ++ beBytes 2 32 ++ [58, 255] ++
      beBytes 16 ip6 ++ dst ++ beBytes 2 0x8800 ++ beBytes 2 sum ++ body)
  else none

/-- The base transport header of a RoCE v2 packet, and whether the packet is marked ECN-CE; none for another packet. -/
def rocePart (etype : Nat) (p : List Byte) : Option (List Byte × Bool) :=
  if etype = 0x0800 then
    let ihl := 4 * ((p.getD 0 0).toNat % 16)
    if slice p 9 1 = [17] && beNat (slice p (ihl + 2) 2) = 4791 then
      some (p.drop (ihl + 8), (p.getD 1 0).toNat % 4 == 3)
    else none
  else if etype = 0x86DD then
    if slice p 6 1 = [17] && beNat (slice p 42 2) = 4791 then some (p.drop 48, beNat (slice p 0 2) / 16 % 4 == 3)
    else none
  else none

/-- The opcodes that the device takes: WRITE First, Middle, Last and Only, READ Response First to Only, and Acknowledge. -/
def roceTaken (op : Nat) : Bool := [6, 7, 8, 10, 13, 14, 15, 16, 17].contains op

/-- ETH_FRAME_RECEIVE (R333, R334): a frame without its FCS; `ok` says that the FCS holds, `icrc` that a RoCE packet's ICRC
does. A packet handed to RoCE acts as READ_RESPONSE_RECEIVE or ROCE_WRITE_RECEIVE, which follow as commands of their own. -/
def execEthFrameReceive (port : Nat) (frame : List Byte) (ok icrc : Bool) (s : State) : Host.Outcome State Fault Refusal :=
  let p := port % 2
  let u := ethU p
  let drop := s.bump u Reg.ETH_DROP_COUNT 1
  if !ok || 9216 < frame.length then done drop
  else
    let (tag, etype, body) := ethParse frame
    let e := mget s.eths p {}
    let src := slice frame 6 6
    match rocePart etype body with
    | some (bth, ce) =>
      if !icrc then done (s.bump u Reg.ROCE_BAD_COUNT 1)
      else
        let qp := beNat (slice bth 5 3) - 0x1000
        let s1 := s.cnp qp ce
        if roceTaken ((bth.getD 0 0).toNat) then done s1
        else if (bth.getD 0 0).toNat = 0x81 then done s1
        else done ((s1.emit (.roce qp 2 (beNat (slice bth 9 3)) [2])).bump u Reg.ROCE_NAK_COUNT 1)
    | none =>
      if etype = 0x0806 then
        match arpAnswer (Config.portMac p) e.ip4 tag src body with
        | some a => done (s.emit (.eth p a))
        | none => done s
      else if etype = 0x86DD && slice body 6 1 = [58] && [133, 134, 135, 136, 137].contains (body.getD 40 0).toNat then
        match ndAnswer (Config.portMac p) e.ip6 tag src body with
        | some a => done (s.emit (.eth p a))
        | none => done s
      else done drop

/-- ETH_LINK_CHANGE (R332): an Ethernet port's link or FEC alignment changes; `pmd` is 1 for CR8, 2 for DR8. -/
def execEthLinkChange (port : Nat) (link fec : Bool) (pmd : Nat) (s : State) : Host.Outcome State Fault Refusal :=
  let u := ethU (port % 2)
  done (((s.wrB u Reg.ETH_STAT_LINK link).wrB u Reg.ETH_STAT_FECLOCK fec).wr u Reg.ETH_STAT_PMD pmd)

/-! ### The demultiplexer (R339) -/

/-- The first place at or after `o` where three sync bytes stand at a packet pitch; `f` bounds the search. -/
def findSync (bs : List Byte) (pitch : Nat) : Nat → Nat → Option Nat
  | 0, _ => none
  | f + 1, o =>
    let pre := pitch - 188
    if bs.length < o + 3 * pitch then none
    else if (List.range 3).all (fun i => bs.getD (o + pre + i * pitch) 0 == 0x47) then some o
    else findSync bs pitch f (o + 1)

/-- The access unit under assembly closed. -/
def closeUnit (t : TsSt) (d : DecodeSt) : TsSt × DecodeSt :=
  match t.open_ with
  | none => (t, d)
  | some a => ({ t with open_ := none }, { d with units := d.units ++ [a] })

/-- The PIDs that a PAT packet's payload names for PMT sections. -/
def patPids (p : List Byte) : List Nat :=
  let o := 1 + (p.getD 0 0).toNat
  let len := beNat (slice p (o + 1) 2) % 4096
  ((List.range ((len - 9) / 4)).filter (fun i => beNat (slice p (o + 8 + 4 * i) 2) != 0)).map
    (fun i => beNat (slice p (o + 10 + 4 * i) 2) % 2 ^ 13)

/-- One transport-stream packet of 188 bytes at stream byte count `pos`, for a filtered PID. -/
def State.tsPacket (s : State) (slot pid pos : Nat) (t : TsSt) (d : DecodeSt) (pk : List Byte) : State × TsSt × DecodeSt :=
  let u := strU slot
  let b1 := (pk.getD 1 0).toNat
  let b3 := (pk.getD 3 0).toNat
  let id := 256 * (b1 % 32) + (pk.getD 2 0).toNat
  if bitAt b1 7 then (s.bump u Reg.STR_TSERR_TEI 1, t, d)
  else if b3 / 64 ≠ 0 then (s.bump u Reg.STR_TSERR_SCR 1, t, d)
  else
    let afl := if bitAt b3 5 then 1 + (pk.getD 4 0).toNat else 0
    let body := pk.drop (4 + afl)
    let pusi := bitAt b1 6
    if id ≠ pid then
      let t1 : TsSt := if id = 0 && pusi && bitAt b3 4 then { t with pmts := patPids body } else t
      (if id = 0 || t1.pmts.contains id then s.emit (.section_ slot pk) else s, t1, d)
    else if !bitAt b3 4 then (s, t, d)
    else
      let cc := b3 % 16
      let again := match t.cc with
        | some (c, rep) => c == cc && !rep
        | none => false
      if again then (s, { t with cc := some (cc, true) }, d)
      else
        let gap := match t.cc with
          | some (c, _) => cc != (c + 1) % 16
          | none => false
        let s1 := if gap then s.bump u Reg.STR_TSERR_CC 1 else s
        let t1 : TsSt := { t with cc := some (cc, false),
                                  open_ := if gap then t.open_.map (fun a => { a with corrupt := true }) else t.open_ }
        if pusi then
          let (t2, d1) := closeUnit t1 d
          let key := bitAt b3 5 && decide (0 < (pk.getD 4 0).toNat) && bitAt (pk.getD 5 0).toNat 6
          let es := body.drop (9 + (body.getD 8 0).toNat)
          (s1, { t2 with open_ := some ⟨pos, key, gap, es⟩ }, d1)
        else (s1, { t1 with open_ := t1.open_.map (fun a => { a with data := a.data ++ body }) }, d)

/-- The demultiplexer's next step over bytes that stand from stream byte count `base` to `stop`: it looks for sync, or takes
a packet. The answer says whether it moved. -/
def State.tsStep (s : State) (slot pid base stop : Nat) (x : StreamRun) (t : TsSt) (d : DecodeSt) :
    State × TsSt × DecodeSt × Bool :=
  let at_ := base + t.pos
  if t.pitch = 0 then
    let n := Nat.min (stop - at_) (3 * 192 + 192)
    let (s1, bs) := s.windowGet slot x at_ n
    match findSync bs 188 192 0, findSync bs 192 192 0 with
    | some o, none => (s1, { t with pitch := 188, pos := t.pos + o }, d, true)
    | none, some o => (s1, { t with pitch := 192, pos := t.pos + o }, d, true)
    | some a, some b => (s1, { t with pitch := if a ≤ b then 188 else 192, pos := t.pos + Nat.min a b }, d, true)
    | none, none => if n < 3 * 192 + 192 then (s1, t, d, false) else (s1, { t with pos := t.pos + 192 }, d, true)
  else if stop < at_ + t.pitch then (s, t, d, false)
  else
    let (s1, bs) := s.windowGet slot x at_ t.pitch
    let pk := bs.drop (t.pitch - 188)
    if pk.getD 0 0 = 0x47 then
      let (s2, t1, d1) := s1.tsPacket slot pid at_ t d pk
      (s2, { t1 with pos := t.pos + t.pitch }, d1, true)
    else (s1, { t with pitch := 0 }, d, true)

/-- The window's bytes freed up to the first sample that still needs some. -/
def StreamRun.freeBytes (x : StreamRun) : StreamRun :=
  match x.samples.find? (fun m => !m.dec.ended && !m.tooLong && !m.readFail) with
  | some m => { x with cons := m.base }
  | none => { x with cons := x.prod }

/-- TS_PACKET (R339): the demultiplexer takes the next packet of a sample, or of a window stream, whose PID is `pid`. At the
end of a sample's bytes its last access unit is closed, and the window frees them. -/
def execTsPacket (slot draw pid : Nat) (upsets : List (Nat × Nat)) (s0 : State) : Host.Outcome State Fault Refusal :=
  let s := s0.upset upsets
  let k := slot % 16
  match s.stream k with
  | none => done s
  | some x =>
    if srCont x.rec_ ≠ 0 then done s
    else if srWindow x.rec_ then
      let (s1, t, d, _) := s.tsStep k (pid % 2 ^ 13) 0 x.prod x x.ts x.dec
      done (s1.setStream k { x with ts := t, dec := d, cons := Nat.max x.cons (Nat.min t.pos x.prod) })
    else
      match x.sample draw with
      | none => done s
      | some m =>
        if !m.arrived || m.dec.ended then done s
        else
          let (s1, t, d, moved) := s.tsStep k m.pid m.base (m.base + m.len) x m.ts m.dec
          if moved then done (s1.setStream k (x.setSample { m with ts := t, dec := d }))
          else
            let (t1, d1) := closeUnit t d
            let x1 := x.setSample { m with ts := t1, dec := { d1 with ended := true } }
            done (s1.setStream k x1.freeBytes)

/-! ### Access-unit records (15_application_cores R372) -/

/-- ACCESS_UNIT_CONSUME (R372): a pipeline takes the next record of a slot's access-unit ring. -/
def execAccessUnitConsume (slot : Nat) (upsets : List (Nat × Nat)) (s0 : State) : Host.Outcome State Fault Refusal :=
  let s := s0.upset upsets
  let k := slot % 16
  let u := strU k
  match s.stream k with
  | none => done s
  | some x =>
    let cons := s.rd u Reg.STR_AUCONS_COUNT
    if cons = s.rd u Reg.STR_AUPROD_COUNT || mget s.auLog k 0 = 0 then done s
    else
      let size := 2 ^ mget s.auLog k 0
      let (s1, r) := s.vread (s.ingestAgent k) (x.auBase + 32 * (cons % size)) 32 permRead
      let rec_ := slice r.data 0 32
      let draw := leAt rec_ 0 8
      let pos := leAt rec_ 8 8
      let len := leAt rec_ 16 4
      let fl := leAt rec_ 20 2
      let s2 := s1.wr u Reg.STR_AUCONS_COUNT (cons + 1)
      let stray (s : State) : State := s.logEvent ePARTNER u draw pos len
      if srWindow x.rec_ then
        let (s3, bs) := s2.windowGet k x pos len
        if x.prod < pos + len then done (stray s2)
        else
          let d : DecodeSt := { x.dec with units := x.dec.units ++ [⟨pos, bitAt fl 0, bitAt fl 2, bs⟩] }
          done (s3.setStream k { x with dec := d, cons := if bitAt fl 1 then Nat.max x.cons (pos + len) else x.cons })
      else
        match x.sample draw with
        | none => done (stray s2)
        | some m =>
          if m.dec.ended then done (stray s2)
          else
            let inside := decide (m.base ≤ pos) && decide (pos + len ≤ m.base + m.len) && m.arrived
            let (s3, bs) := if inside then s2.windowGet k x pos len
              else (s2.bump u Reg.STR_FLAG_COUNT (m.dec.frames - m.dec.flagged.length), [])
            let d0 : DecodeSt := if inside then m.dec
              else { m.dec with spoiled := true, flagged := List.range m.dec.frames }
            let d : DecodeSt := { d0 with units := m.dec.units ++ [⟨pos, bitAt fl 0, bitAt fl 2 || !inside, bs⟩],
                                             ended := bitAt fl 1 }
            let x1 := x.setSample { m with dec := d }
            let s4 := s3.setStream k (if bitAt fl 1 then x1.freeBytes else x1)
            done (if inside then s4 else stray s4)

end Sys2Proof.Machine
end

