-- ==== Sys2Proof/Machine/App.lean ====
section
/-!
DEFINITION. The application cores: monitor services, traps and fences (15_application_cores R357 to R368). The code that a
core runs between its services is outside the block: a command says which service it calls and which lines it writes back.
-/
namespace Sys2Proof.Machine

def State.app (s : State) (i : Nat) : AppSt := mget s.apps i {}

def State.setApp (s : State) (i : Nat) (a : AppSt) : State := { s with apps := mset {} s.apps i a }

/-- Whether an application core runs its program, outside any service. -/
def State.appRuns (s : State) (i : Nat) : Bool :=
  decide (i < 104) && s.rd (acU i) Reg.AC_STAT_RUN == 1 && (s.app i).wait.isNone

/-- An application core as it reaches memory (R359): through its die's translation unit, or through that of C19. -/
def State.appAgent (s : State) (i : Nat) : Agent := ⟨s.unitAddr (acU i), if i < 96 then i / 4 else 19, 3⟩

/-- An exception that the monitor does not serve (R367), with the error code it is logged under. -/
def State.appTrap (s : State) (i cause tval code : Nat) : State :=
  let u := acU i
  let s1 := (((s.wr u Reg.AC_STAT_RUN 0).wr u Reg.AC_STAT_TRAPPED 1).wr u Reg.AC_STAT_MCAUSE cause).wr u
    Reg.AC_TVAL_LO_VALUE tval
  let s2 := (s1.wr u Reg.AC_TVAL_HI_VALUE (tval / 2 ^ 32)).setApp i { s1.app i with wait := none }
  if code = eAPP_TRAP then
    s2.logHalt code u (s2.rd u Reg.AC_STAT_MCAUSE * 256 + 2) (tval % 2 ^ 32) (tval / 2 ^ 32)
  else if code = eXLATE || code = ePROT then
    s2.logHalt code u tval (s2.readWord (tuU (s.appAgent i).die) Reg.TU_FINFO_CAUSE.off).1
  else s2.logHalt code u tval

/-- EXIT (R366): the core stays stopped until the next START_JOB. -/
def execExit (core : Nat) (s : State) : Host.Outcome State Fault Refusal :=
  done (if s.appRuns core then s.wr (acU core) Reg.AC_STAT_RUN 0 else s)

/-- DB_WAIT (R366, R368): it returns at once where a delivered bit lies within the mask, and otherwise waits. -/
def execDbWait (core mask limit : Nat) (s : State) : Host.Outcome State Fault Refusal :=
  if s.appRuns core then
    done ((s.setApp core { s.app core with wait := some ⟨1, mask % 2 ^ 32, limit % 2 ^ 64⟩ }).endDbWait core)
  else done s

/-- ARR_WAIT (R366, R371). -/
def execArrWait (core mask limit : Nat) (s : State) : Host.Outcome State Fault Refusal :=
  if s.appRuns core then
    done ((s.setApp core { s.app core with wait := some ⟨2, mask % 2 ^ 16, limit % 2 ^ 64⟩ }).endArrWait core)
  else done s

/-- MONITOR_WAIT_EXPIRY (R366): the limit of a wait has expired and the service returns 0; `near` says that an arrival
captured in the same MCLK cycle has ended the wait, which counts as a near miss. -/
def execMonitorWaitExpiry (core : Nat) (near : Bool) (s : State) : Host.Outcome State Fault Refusal :=
  if core < 104 && s.rd (acU core) Reg.AC_STAT_RUN = 1 then
    match (s.app core).wait with
    | none => done (if near then s.bump (acU core) Reg.AC_NEARMISS_COUNT 1 else s)
    | some w =>
      done (if w.limit = 0 || near then s else s.setApp core { s.app core with wait := none, a0 := 0 })
  else done s

/-- The error code of an exception by the kind that a command gives: 0 APP_TRAP, 1 ALIGN, 2 XLATE_FAULT, 3 PROT_FAULT,
4 ECC_UE. -/
def trapCode (kind : Nat) : Nat :=
  match kind with
  | 1 => eALIGN
  | 2 => eXLATE
  | 3 => ePROT
  | 4 => eECC_UE
  | _ => eAPP_TRAP

/-- APP_EXCEPTION (R367): an exception of a core, with its RISC-V code and trap value. -/
def execAppException (core cause tval kind : Nat) (s : State) : Host.Outcome State Fault Refusal :=
  done (if s.appRuns core then s.appTrap core (cause % 256) (tval % 2 ^ 64) (trapCode kind) else s)

/-- Whether a target is cacheable memory (R360): DRAM, or a scratchpad window. Every other endpoint space is I/O. -/
def cacheable (t : Nat) : Bool :=
  !taEp t || (decide (taDie t < 24) && epOf (taUnit t) == 1 && decide (taOff t < spBytes))

/-- The error code under which an access fault is logged (R367). -/
def accessCode (err : Nat) : Nat := if [eALIGN, eXLATE, ePROT, eECC_UE].contains err then err else eAPP_TRAP

/-- What a core does at an address of cacheable memory, or of I/O space, and the access fault (exception 5 of a load, 7 of a
store) that its translation raises. -/
def State.appAt (s : State) (i va need : Nat) (io : Bool) (f : State → State × VRes) : State :=
  let cause := if need = permWrite then 7 else 5
  let ag := s.appAgent i
  let (s1, err, t) := s.translate (s.tuOf ag va) ag.code va need
  if err ≠ 0 then s1.appTrap i cause va (accessCode err)
  else if cacheable t == io then s1
  else
    let (s2, r) := f s1
    if r.err = 0 then s2 else s2.appTrap i cause r.addr (accessCode r.err)

/-- A line of a core's cache written back, as eight 8-byte writes in ascending order (R363). I/O space is not cached, so
there a write-back finds no line (R360). -/
def State.writeBack (s : State) (i va : Nat) (line : List Byte) : State :=
  let base := va % 2 ^ 64 / 64 * 64
  s.appAt i base permWrite false (fun s =>
    (List.range 8).foldl (fun (p : State × VRes) k =>
      if p.2.err ≠ 0 then p else p.1.vwrite (p.1.appAgent i) (base + 8 * k) (slice line (8 * k) 8)) (s, ⟨0, 0, [], none⟩))

/-- A line filled from cacheable memory, as eight 8-byte reads in ascending order (R363); the line is the command's
answer. -/
def State.lineFill (s : State) (i va : Nat) : State :=
  let base := va % 2 ^ 64 / 64 * 64
  s.appAt i base permRead false (fun s =>
    let (s1, r) := (List.range 8).foldl (fun (p : State × VRes) k =>
      if p.2.err ≠ 0 then p
      else
        let (s1, r) := p.1.vread (p.1.appAgent i) (base + 8 * k) 8 permRead
        (s1, { r with data := p.2.data ++ r.data })) (s, ⟨0, 0, [], none⟩)
    (if r.err = 0 then s1.ok r.data else s1, r))

/-- An access to I/O space, uncached (R360). One that crosses an 8-byte boundary is never sent and raises an access fault
logged as ALIGN (R363). -/
def State.ioAccess (s : State) (i va n : Nat) (data : Option (List Byte)) : State :=
  let need := if data.isSome then permWrite else permRead
  s.appAt i va need true (fun s =>
    if n = 0 then (s, ⟨0, 0, [], none⟩)
    else if 8 < va % 8 + n then (s, ⟨eALIGN, va, [], none⟩)
    else match data with
      | some bs => s.vwrite (s.appAgent i) va bs
      | none =>
        let (s1, r) := s.vread (s.appAgent i) va n permRead
        (if r.err = 0 then s1.ok r.data else s1, r))

/-- One access that a core's memory system makes: 0 a line written back, 1 a line filled, 2 an I/O load of as many bytes as
the list has, 3 an I/O store. -/
def State.appAccess (s : State) (i kind va : Nat) (bs : List Byte) : State :=
  match kind with
  | 0 => s.writeBack i va bs
  | 1 => s.lineFill i va
  | 2 => s.ioAccess i va bs.length none
  | _ => s.ioAccess i va bs.length (some bs)

/-- APP_FENCE (R360 to R363): a FENCE with predecessor w. `acts` are the accesses before it that reach memory, each a kind, an
address and bytes, in program order: the write-backs of the core's earlier CBO.FLUSH and CBO.CLEAN, line fills, and I/O
accesses. All are done when the fence completes. -/
def execAppFence (core : Nat) (acts : List (Nat × Nat × List Byte)) (s : State) : Host.Outcome State Fault Refusal :=
  if s.appRuns core then
    done (forEach acts (fun s a => if s.appRuns core then s.appAccess core a.1 a.2.1 a.2.2 else s) s)
  else done s

end Sys2Proof.Machine
end

