-- ==== Sys2Proof/Machine/Access.lean ====
section
/-!
DEFINITION. The commands that are accesses: packets and transactions, register writes and reads, arbitrated scratchpad
traffic and its scrubber, DRAM reads, writes, patrol and refresh, translation and its invalidation, mailboxes and
doorbells (00_scope R12 to R14; 01_module_dies_clocks R22 to R24, R30, R34, R37; 06_scratchpad R145 to R157;
08_bonded_dram R188 to R202; 19_keeper_minil R445 to R452; 21_power_cooling R499).
-/
namespace Sys2Proof.Machine

/-! ### Answers -/

/-- An answer that carries the group address it was sent to as its sender, 0 for none (R23). -/
def State.answerAs (s : State) (group err detail : Nat) (data : List Byte) : State :=
  s.emit (if group = 0 then .answer err detail data else .groupAnswer group err detail data)

/-- The answer of an access sent; a held one is answered later. -/
def answer (r : State × Ans) (group : Nat := 0) : State :=
  if r.2.held.isSome then r.1
  else if r.2.err = 0 then r.1.answerAs group 0 0 r.2.data
  else r.1.answerAs group r.2.err 0 []

/-! ### Packets (R34, R37, R150, R499) -/

/-- Whether the module's power state gates the die of a target (21_power_cooling Table 21-6): compute, media and ingest
dies below Active. -/
def State.gated (s : State) (die : Nat) : Bool :=
  s.rd keeperU Reg.PWR_STAT_PSTATE != 0 && (decide (die < 32) || die == 38)

/-- An access to a scratchpad put among the requests that its arbiter holds. -/
def State.arbAdd (s : State) (die core : Nat) (r : ArbReq) : State :=
  let k := die * 16 + core
  let a := mget s.arbs k {}
  { s with arbs := mset {} s.arbs k { a with reqs := a.reqs ++ [r] } }

/-- An access served at its endpoint. One that reaches a scratchpad window waits for its bank; a load of a stage entry
that has not arrived waits for it. -/
def State.serve (s : State) (t : Txn) : State :=
  let u := taUnit t.taddr
  let d := dieOf u
  let off := taOff t.taddr
  let n := match t.data with
    | some bs => bs.length
    | none => t.len
  if taNames t.taddr && taEp t.taddr && d < 24 && epOf u = 1 && off < 0x800000 then
    let bar := s.spBar t.src d (coreOf u) off n
    if bar = eXLATE then answer (s.noSuch u off) t.group
    else if bar ≠ 0 then s.answerAs t.group bar 0 []
    else s.arbAdd d (coreOf u) ⟨t.src, off, t.data, n, 0, false, t.group⟩
  else
    let r := s.serveAt t.src t.taddr t.data n
    if r.2.held.isSome && t.data.isNone && d = 37 then
      let e := epOf u
      let k := recvKey e (off / 0x8000 - 32)
      let q := r.1.stq k
      r.1.setStq k { q with waits := q.waits ++ [(q.entryOf (off % 0x8000 / 8), t.src)] }
    else answer r t.group

/-- An access that arrives at this module, kept until the wake where its die is gated (R499). -/
def State.arriveTx (s : State) (t : Txn) : State :=
  if s.gated (taDie t.taddr) then { s with heldTx := s.heldTx ++ [t] } else s.serve t

/-- The target address of an offset of a unit of this module. -/
def State.unitTarget (s : State) (u off : Nat) : Nat := 2 ^ 48 * s.job.modId + epAddr u off

/-- The accesses at this module of a transaction to a group address at an offset of its units (R22, R23, R389): a write goes
to every leaf of this module once; a read goes to the representative alone, and to nobody here where that is on another
module. -/
def State.groupTxns (s : State) (group src off : Nat) (data : Option (List Byte)) (len : Nat) : List Txn :=
  let ls := s.leaves group
  match data with
  | some bs => (ls.filter (fun l => l / 65536 == s.job.modId)).map (fun l =>
      ⟨src, s.unitTarget (l % 65536) off, some bs, bs.length, 0⟩)
  | none => match ls with
    | l :: _ => if l / 65536 == s.job.modId then [⟨src, s.unitTarget (l % 65536) off, none, len, group⟩] else []
    | [] => []

/-- PACKET_ARRIVE: an access of `src` reaches its endpoint; where `way.group` is a group address, one to that group, and of
`taddr` only the offset within an endpoint counts (assumption 195). Each leaf answers a write for itself, and
GROUP_WRITE_COMPLETE combines the answers. Of `way.flips` bits of one of its words that failed on the way, one is corrected and two are not (R37). -/
def execPacketArrive (src taddr : Nat) (write : Bool) (data : List Byte) (len : Nat) (way : PacketWay) (s : State) :
    Host.Outcome State Fault Refusal :=
  let d := if write then some data else none
  let s1 := s.netError src taddr way.flips
  if 2 ≤ way.flips then done (s1.err eECC_UE)
  else if way.group < 2 ^ 31 then done (s1.arriveTx ⟨src, taddr, d, len, 0⟩)
  else if (s.leaves way.group).isEmpty then done (answer (s1.noSuch (taUnit taddr) (taOff taddr)) way.group)
  else done (forEach (s1.groupTxns way.group src (taOff taddr) d len) (fun s t => s.arriveTx t) s1)

/-- GROUP_WRITE_COMPLETE: every leaf of a group has answered; the first error in depth-first order is the group's
(R24). `results` are leaves with their error codes. -/
def execGroupWriteComplete (group : Nat) (results : List (Nat × Nat)) (s : State) : Host.Outcome State Fault Refusal :=
  let ls := s.leaves (2 ^ 31 + group % 2 ^ 31)
  if !ls.isEmpty && ls.all (fun l => results.any (fun r => r.1 == l)) then
    match ls.find? (fun l => results.any (fun r => r.1 == l && r.2 != 0)) with
    | some l =>
      match results.find? (fun r => r.1 == l && r.2 != 0) with
      | some r => done (s.answerAs (2 ^ 31 + group % 2 ^ 31) r.2 l [])
      | none => done (s.answerAs (2 ^ 31 + group % 2 ^ 31) 0 0 [])
    | none => done (s.answerAs (2 ^ 31 + group % 2 ^ 31) 0 0 [])
  else done s

/-! ### Registers (R12, R14, R30) -/

/-- REGISTER_WRITE: a write of a requester to registers of a unit of this module. The bits of type W1C that the
hardware sets in its cycle are set after it (R13). -/
def execRegisterWrite (src unit off : Nat) (w : RegWrite) (s : State) :
    Host.Outcome State Fault Refusal :=
  let (s1, a) := s.epWrite src unit off w.data
  done (answer (s1.hardSet unit w.events, a))

/-- RC_FIELD_READ: a 4-byte read of a register, whose RC fields it clears. `events` are fields of that register, by their
lowest bit, into which the hardware counts in the same cycle (R14). -/
def execRcFieldRead (src unit off : Nat) (events : List (Nat × Nat)) (s : State) : Host.Outcome State Fault Refusal :=
  let (s1, a) := s.epRead src unit off 4
  let s2 := forEach (fieldsAt (s.regMap unit) off) (fun s f =>
    match f.acc, events.find? (fun e => e.1 == f.lo) with
    | .rc, some e => s.bump unit f e.2
    | _, _ => s) s1
  done (answer (s2, a))

/-- LO_CAPTURE_READ: a read of the low register of a pair, of 4 or of 8 bytes (R30). -/
def execLoCaptureRead (src unit off : Nat) (wide : Bool) (s : State) : Host.Outcome State Fault Refusal :=
  done (answer (s.epRead src unit off (if wide then 8 else 4)))

/-! ### Scratchpad arbitration (R145 to R149) -/

/-- The banks that a request needs. -/
def ArbReq.banks (r : ArbReq) : List Nat :=
  (List.range ((r.off % 64 + r.len + 63) / 64)).map (fun i => (r.off / 64 + i) % 32)

/-- Whether a request is a write of part of a word, which takes two cycles (R147). -/
def ArbReq.splits (r : ArbReq) : Bool := r.data.isSome && (r.off % 4 != 0 || (r.off + r.len) % 4 != 0)

/-- The requester that follows another in the round of a bank: the lowest SRC above it, else the lowest. -/
def nextInRound (last : Nat) (srcs : List Nat) : Option Nat :=
  let up := srcs.filter (fun x => decide (last < x))
  let least (l : List Nat) : Option Nat := l.foldl (fun b x => match b with
    | none => some x
    | some y => some (Nat.min x y)) none
  match least up with
  | some x => some x
  | none => least srcs

/-- Of the requests at a bank, the place of the one that is granted (R145, R146): the oldest promoted one, else of the
widest class the next requester in its round. Of one requester only the oldest competes (R148). -/
def ArbSt.winner (a : ArbSt) (bank : Nat) (open_ : ArbReq → Bool) : Option Nat :=
  let here := a.reqs.zipIdx.filter (fun p => p.1.banks.contains bank && open_ p.1)
  let heads := here.filter (fun p => !(a.reqs.zipIdx.any (fun q =>
    decide (q.2 < p.2) && q.1.src == p.1.src && q.1.banks.contains bank)))
  match (sortBy (fun x y => decide (y.1.waited ≤ x.1.waited)) (heads.filter (fun p => p.1.promoted))).head? with
  | some p => some p.2
  | none =>
    let cls := [0, 1, 2].find? (fun c => heads.any (fun p => arbClass p.1.src == c))
    match cls with
    | none => none
    | some c =>
      let inC := heads.filter (fun p => arbClass p.1.src == c)
      match nextInRound (mget a.last (bank * 4 + c) 0) (inC.map (fun p => p.1.src)) with
      | none => none
      | some src => (inC.find? (fun p => p.1.src == src)).map (fun p => p.2)

/-- The banks that scheduled traffic uses in a cycle: none while the core is frozen or does not run (09_core_sequencer
R207). -/
def State.scheduled (s : State) (die core mask : Nat) : Nat :=
  let u := seqU die core
  if s.rd u Reg.SEQ_STAT_RUN = 1 && s.rd u Reg.SEQ_STAT_FROZEN = 0 then mask else 0

/-- The places of the requests granted in a cycle, bank by bank in ascending order: no two of them use one bank (R137). -/
def ArbSt.grants (a : ArbSt) (free : ArbReq → Nat → Bool) : List Nat :=
  (List.range 32).foldl (fun l b =>
    let used := l.flatMap (fun i => ((a.reqs[i]?).map ArbReq.banks).getD [])
    match a.winner b (fun r => r.banks.all (fun x => free r x && !used.contains x)) with
    | some i => if l.contains i then l else l ++ [i]
    | none => l) []

/-- ARBITRATED_ACCESS: one CCLK of a scratchpad's arbitration. `sched` marks the banks that scheduled traffic uses in it,
`next` those it uses in the next; `upsets` are bits that have failed. -/
def execArbitratedAccess (die core sched next : Nat) (upsets : List (Nat × Nat)) (s0 : State) :
    Host.Outcome State Fault Refusal :=
  let s := s0.upset upsets
  let k := die * 16 + core
  let a := mget s.arbs k {}
  let now := s.scheduled die core sched
  let soon := if s.rd (seqU die core) Reg.SEQ_STAT_RUN = 1 then next else 0
  let idxs := a.grants (fun r b => !bitAt now b && !a.held.contains b && !(r.splits && bitAt soon b))
  let granted := a.reqs.zipIdx.filter (fun p => idxs.contains p.2)
  let denied := (a.reqs.zipIdx.filter (fun p => !idxs.contains p.2)).map (fun p => { p.1 with waited := p.1.waited + 1 })
  let last := granted.foldl (fun m p =>
    mset 0 m ((p.1.banks.head?.getD 0) * 4 + arbClass p.1.src) p.1.src) a.last
  let held := (granted.filter (fun p => p.1.splits)).flatMap (fun p => p.1.banks)
  let s1 : State := { s with arbs := mset {} s.arbs k { a with reqs := denied, last := last, held := held } }
  let u := spU die core
  let stall (s : State) (c : Nat) (f : Field) : State :=
    if denied.any (fun r => arbClass r.src == c) then s.bump u f 1 else s
  let s2 := stall (stall (stall s1 0 Reg.SP_STALL_DMA_COUNT) 1 Reg.SP_STALL_GME_COUNT) 2 Reg.SP_STALL_NARROW_COUNT
  done (forEach (granted.map (fun p => p.1)) (fun s r =>
    answer (s.spAccess r.src die core r.off r.data r.len) r.group) s2)

/-- REQUEST_PROMOTION: requests that have waited 256 CCLK rank above the others at their bank (R146). -/
def execRequestPromotion (die core : Nat) (s : State) : Host.Outcome State Fault Refusal :=
  let k := die * 16 + core
  let a := mget s.arbs k {}
  let due := (a.reqs.filter (fun r => decide (256 ≤ r.waited) && !r.promoted)).length
  let reqs := a.reqs.map (fun r => if 256 ≤ r.waited then { r with promoted := true } else r)
  done (({ s with arbs := mset {} s.arbs k { a with reqs := reqs } } : State).bump (spU die core) Reg.SP_PROMOTE_COUNT due)

/-- A word rewritten by a scrubber: a single-bit error is corrected, and a double-bit error is recorded and kept. -/
def State.scrubWord (s : State) (die core w : Nat) : State :=
  match mget s.ecc w 0 with
  | 1 => { s with ecc := mdel s.ecc w }
  | 2 => s.spFailed die core 4 w
  | _ => s

/-- The row that a bank's scrubber visits, rewritten, and the scrubber at the next one; a pass of bank 0 that ends is
counted (R157). -/
def State.scrubRow (s : State) (die core bank : Nat) : State :=
  let k := die * 16 + core
  let row := mget (mget s.arbs k {}).rows bank 0
  let w0 := (epAddr (spU die core) 0 + 2048 * row + 64 * bank) / 4
  let s1 := forEach ((List.range 16).map (fun i => w0 + i)) (fun s w => s.scrubWord die core w) s
  let a := mget s1.arbs k {}
  let s2 : State := { s1 with arbs := mset {} s1.arbs k { a with rows := mset 0 a.rows bank ((row + 1) % 3072) } }
  if bank = 0 && row = 3071 then s2.bump (spU die core) Reg.SP_STAT_SCRUB_PASSES 1 else s2

/-- SCRATCHPAD_SCRUB: the scrubber of a bank takes the bank's oldest queued word (R155), else the row at which it stands
(R157), in a cycle in which neither scheduled traffic, which `sched` tells, nor an arbitrated request uses the bank. -/
def execScratchpadScrub (die core bank : Nat) (sched : Bool) (upsets : List (Nat × Nat)) (s0 : State) :
    Host.Outcome State Fault Refusal :=
  let s := s0.upset upsets
  let b := bank % 32
  let a := mget s.arbs (die * 16 + core) {}
  let base := epAddr (spU die core) 0
  if s.scheduled die core (b2n sched) ≠ 0 || a.held.contains b || a.reqs.any (fun r => r.banks.contains b) then done s
  else
    match s.scrubQ.find? (fun w => decide (base ≤ 4 * w) && decide (4 * w < base + spBytes) &&
        (4 * w - base) / 64 % 32 == b) with
    | some w => done (({ s with scrubQ := s.scrubQ.filter (fun x => !(x == w)) } : State).scrubWord die core w)
    | none => done (s.scrubRow die core b)

/-! ### DRAM (R188, R199 to R202) -/

/-- The target address of a byte of a stack of this module. -/
def State.stackTarget (s : State) (die off : Nat) : Nat := 2 ^ 48 * s.job.modId + dramAddr die off

/-- DRAM_READ: a read of a stack within one 64-byte block; `src` is the requester. While the stack is in self-refresh the
access waits for the wake that it causes (R203). -/
def execDramRead (src die off len : Nat) (upsets : List (Nat × Nat)) (s : State) : Host.Outcome State Fault Refusal :=
  let s1 := s.upset upsets
  if die < 24 && off + len ≤ 0xC00000000 then
    if s1.rd (dramU die) Reg.DRAM_STAT_SELF_REF = 1 then
      done { s1 with heldTx := s1.heldTx ++ [⟨src, s1.stackTarget die off, none, len, 0⟩] }
    else if reservedOff < off + len && !s.isKeeper src then done (s1.err ePROT)
    else done (answer (s1.dramRead die off len (s1.dramSrc die src)))
  else done (answer (s1.noSuch (dramU die) off))

/-- DRAM_WRITE: a write of a stack within one 64-byte block. -/
def execDramWrite (src die off : Nat) (data : List Byte) (upsets : List (Nat × Nat)) (s : State) :
    Host.Outcome State Fault Refusal :=
  let s1 := s.upset upsets
  if die < 24 && off + data.length ≤ 0xC00000000 then
    if s1.rd (dramU die) Reg.DRAM_STAT_SELF_REF = 1 then
      done { s1 with heldTx := s1.heldTx ++ [⟨src, s1.stackTarget die off, some data, data.length, 0⟩] }
    else if reservedOff < off + data.length && !s.isKeeper src then done (s1.err ePROT)
    else done (answer (s1.dramWrite die off (s1.dramSrc die src) data))
  else done (answer (s1.noSuch (dramU die) off))

/-- The channel of a stack offset (R187). -/
def dramChannel (off : Nat) : Nat := bitsOf off 12 8 ^^^ bitsOf off 17 13

/-- The next 64-byte block of a channel at or above an offset, wrapping at the end of the stack; `f` bounds the search. -/
def nextBlock (ch : Nat) : Nat → Nat → Nat
  | 0, off => off
  | f + 1, off =>
    let o := if 0xC00000000 ≤ off then 0 else off
    if dramChannel o = ch then o else nextBlock ch f (o / 256 * 256 + 256)

/-- PATROL_SCRUB: a channel's patrol scrubber reads its next block and corrects or records what it finds (R201). -/
def execPatrolScrub (die channel : Nat) (upsets : List (Nat × Nat)) (s0 : State) : Host.Outcome State Fault Refusal :=
  let s := s0.upset upsets
  let u := dramU die
  let ch := channel % 32
  if die < 24 && s.rd u Reg.DRAM_SCRUB_EN = 1 && s.rd u Reg.DRAM_STAT_SELF_REF = 0 then
    let key := die * 32 + ch
    let at_ := mget s.patrol key 0
    let off := nextBlock ch 64 at_
    let (s1, _) := s.dramRead die off 64 5
    let s2 : State := { s1 with patrol := mset 0 s1.patrol key (off + 64) }
    let wrapped := decide (off < at_)
    done (if wrapped && ch = 0 then s2.bump u Reg.DRAM_SCRUB_PASSES 1 else s2)
  else done s

/-- DRAM_REFRESH: a bank is refreshed; `delayed` accesses met it and waited (R202). -/
def execDramRefresh (die delayed : Nat) (s : State) : Host.Outcome State Fault Refusal :=
  if die < 24 then done (s.bump (dramU die) Reg.DRAM_REFWAIT_COUNT delayed) else done s

/-! ### Translation (R194, R197) -/

/-- TRANSLATION_WALK: a translation of a virtual address for an agent of a die; the answer is the target address or the
fault. -/
def execTranslationWalk (die agent va need : Nat) (upsets : List (Nat × Nat)) (s : State) :
    Host.Outcome State Fault Refusal :=
  let (s1, err, t) := (s.upset upsets).translate (die % 24) agent va need
  done (if err = 0 then s1.ok (leBytes 8 t) else s1.err err)

/-- TU_INVAL: a write of TU_INVAL.ALL (R197). -/
def execTuInval (src die : Nat) (s : State) : Host.Outcome State Fault Refusal :=
  done (answer (s.epWrite src (tuU (die % 24)) 0x10 (leBytes 4 1)))

/-- INVALIDATION_DONE: every cached entry is discarded. -/
def execInvalidationDone (die : Nat) (s : State) : Host.Outcome State Fault Refusal :=
  let u := tuU (die % 24)
  if s.rd u Reg.TU_STAT_INVAL_BUSY = 1 then
    done (({ s with tus := mdel s.tus (die % 24) } : State).wr u Reg.TU_STAT_INVAL_BUSY 0)
  else done s

/-! ### Mailboxes, doorbells, streams and stage queues -/

/-- MBX_BUF_WRITE (R445). -/
def execMbxBufWrite (src chan off : Nat) (data : List Byte) (s : State) : Host.Outcome State Fault Refusal :=
  let (s1, e) := s.mbxWrite src (chan % 32) off data
  done (answer (s1, ⟨e, [], none⟩))

/-- MBX_SEND (R445, R446): the answer of a commit that is taken comes with its disposal. -/
def execMbxSend (src chan len : Nat) (s : State) : Host.Outcome State Fault Refusal :=
  let (s1, e) := s.mbxSend src (chan % 32) len
  done (answer (s1, ⟨e, [], if e = 0 then some (chan % 32) else none⟩))

/-- MBX_BUF_READ (R448). -/
def execMbxBufRead (src chan off len : Nat) (s : State) : Host.Outcome State Fault Refusal :=
  match s.mbxRead src (chan % 32) off len with
  | some bs => done (s.ok bs)
  | none => done (s.err ePROT)

/-- MBX_DONE (R448). -/
def execMbxDone (src chan : Nat) (s : State) : Host.Outcome State Fault Refusal :=
  let (s1, e) := s.mbxDone src (chan % 32)
  done (answer (s1, ⟨e, [], none⟩))

/-- MBX_LOCK_BREAK (R447). -/
def execMbxLockBreak (chan : Nat) (s : State) : Host.Outcome State Fault Refusal := done (s.mbxBreak (chan % 32))

/-- DB_SET (R450, R452). -/
def execDbSet (bits : Nat) (s : State) : Host.Outcome State Fault Refusal := done ((s.dbSet bits).ok)

/-- DB_CLR (R452). -/
def execDbClr (src bits : Nat) (s : State) : Host.Outcome State Fault Refusal := done ((s.dbClr src bits).ok)

/-- DB_MASK_WRITE (R452). -/
def execDbMaskWrite (src bits : Nat) (s : State) : Host.Outcome State Fault Refusal := done ((s.dbMask src bits).ok)

/-- STR_ARR_LO_READ (15_application_cores R371), of 4 or of 8 bytes. -/
def execStrArrLoRead (slot : Nat) (wide : Bool) (s : State) : Host.Outcome State Fault Refusal :=
  let (s1, v) := s.strArrRead (slot % 16)
  done (s1.ok (leBytes (if wide then 8 else 4) v))

/-- STR_AUPROD (15_application_cores R372). -/
def execStrAuprod (slot count : Nat) (s : State) : Host.Outcome State Fault Refusal :=
  done ((s.strAuprod (slot % 16) (count % 2 ^ 32)).ok)

/-- STQ_POST (17_multi_module_jobs R409): `ep` is 0 for port 10, 1 for port 11. A post taken is answered when its entry
is in the ring. -/
def execStqPost (src ep q : Nat) (data : List Byte) (s : State) : Host.Outcome State Fault Refusal :=
  let (s1, e) := s.stqPost (ep % 2) (q % 8) src data
  done (answer (s1, ⟨e, [], if e = 0 then some 0 else none⟩))

/-- STQ_REL (17_multi_module_jobs R412). -/
def execStqRel (ep q count : Nat) (s : State) : Host.Outcome State Fault Refusal :=
  done ((s.stqRel (ep % 2) (q % 8) (count % 2 ^ 32)).ok)

/-- FAB_KHB (16_hormen_fabric R385): the keeper's heartbeat at a port. -/
def execFabKhb (port : Nat) (s : State) : Host.Outcome State Fault Refusal :=
  let p := port % 12
  done { s with ports := mset {} s.ports p { mget s.ports p {} with kok := true } }

end Sys2Proof.Machine
end

