-- ==== Sys2Proof/Machine/Crypto.lean ====
section
/-!
DEFINITION. The digests and signatures of the specification: CRC-32 (IEEE 802.3), SHA-256 and the verification of ECDSA
signatures over NIST P-256 (11_backward_pass R280, 12_update_and_fixer R306, 20_darkroom_security R475). The algorithms
are the standards' that those rules name; PRESUMED (assumption 8).
-/
namespace Sys2Proof.Machine

/-! ### CRC-32 -/

/-- One bit of the reflected division by the IEEE 802.3 polynomial. -/
def crcBit (c : Nat) : Nat := if c % 2 = 1 then (c / 2) ^^^ 0xEDB88320 else c / 2

/-- One byte taken into the remainder. -/
def crcByte (c : Nat) (b : Byte) : Nat := (List.range 8).foldl (fun x _ => crcBit x) (c ^^^ b.toNat)

/-- The CRC-32 of a byte string. -/
def crc32 (bs : List Byte) : Nat := (bs.foldl crcByte max32) ^^^ max32

/-! ### SHA-256 -/

def rotr32 (v n : Nat) : Nat := v / 2 ^ n ||| (v * 2 ^ (32 - n)) % 2 ^ 32

/-- The primes up to 311, of which the standard's constants are roots. -/
def shaPrimes : List Nat :=
  (List.range 312).filter (fun n => decide (2 ≤ n) && [2, 3, 5, 7, 11, 13, 17].all (fun d => n == d || n % d != 0))

/-- The whole part of the `k`-th root of `n`, one of its 36 bits after the other from the top. -/
def rootOf (k n : Nat) : Nat :=
  (List.range 36).foldl (fun r i =>
    let t := r + 2 ^ (35 - i)
    if t ^ k ≤ n then t else r) 0

/-- The first 32 bits of the fraction of the `k`-th root of a number. -/
def rootFrac (k p : Nat) : Nat := rootOf k (p * 2 ^ (32 * k)) % 2 ^ 32

/-- The round constants: fractions of the cube roots of the first 64 primes. -/
def shaK : List Nat := shaPrimes.map (rootFrac 3)

/-- The initial hash words: fractions of the square roots of the first eight primes. -/
def shaH : List Nat := (shaPrimes.take 8).map (rootFrac 2)

/-- The message padded to whole blocks of 64 bytes. -/
def shaPad (m : List Byte) : List Byte :=
  let n := m.length
  m ++ [0x80] ++ List.replicate ((119 - n % 64) % 64) 0 ++ (leBytes 8 (8 * n)).reverse

/-- The next word of the message schedule, from the sixteen before it, newest first. -/
def shaNext (w : List Nat) : Nat :=
  let a := w.getD 1 0
  let e := w.getD 14 0
  ((rotr32 a 17 ^^^ rotr32 a 19 ^^^ (a / 1024)) + w.getD 6 0 + (rotr32 e 7 ^^^ rotr32 e 18 ^^^ (e / 8)) + w.getD 15 0) %
    2 ^ 32

/-- The message schedule of a block, newest word first. -/
def shaSched (blk : List Byte) : List Nat :=
  (List.range 48).foldl (fun w _ => shaNext w :: w) ((List.range 16).map (fun i => beNat (slice blk (4 * i) 4))).reverse

/-- One round over the eight working words. -/
def shaRound (v : List Nat) (k w : Nat) : List Nat :=
  let a := v.getD 0 0
  let b := v.getD 1 0
  let c := v.getD 2 0
  let e := v.getD 4 0
  let f := v.getD 5 0
  let g := v.getD 6 0
  let t1 := v.getD 7 0 + (rotr32 e 6 ^^^ rotr32 e 11 ^^^ rotr32 e 25) + ((e &&& f) ^^^ ((max32 ^^^ e) &&& g)) + k + w
  let t2 := (rotr32 a 2 ^^^ rotr32 a 13 ^^^ rotr32 a 22) + ((a &&& b) ^^^ (a &&& c) ^^^ (b &&& c))
  [(t1 + t2) % 2 ^ 32, a, b, c, (v.getD 3 0 + t1) % 2 ^ 32, e, f, g]

/-- One block taken into the hash words. -/
def shaBlock (h : List Nat) (blk : List Byte) : List Nat :=
  let v := (shaK.zip (shaSched blk).reverse).foldl (fun v p => shaRound v p.1 p.2) h
  h.zipWith (fun a b => (a + b) % 2 ^ 32) v

/-- SHA-256 of blocks; `f` bounds how many. -/
def shaBlocks : Nat → List Nat → List Byte → List Nat
  | 0, h, _ => h
  | f + 1, h, m => if m.isEmpty then h else shaBlocks f (shaBlock h (m.take 64)) (m.drop 64)

/-- The SHA-256 digest of a byte string, 32 bytes. -/
def sha256 (m : List Byte) : List Byte :=
  let p := shaPad m
  (shaBlocks (p.length / 64) shaH p).flatMap (fun w => (leBytes 4 w).reverse)

/-! ### P-256 -/

def p256P : Nat := 0xFFFFFFFF00000001000000000000000000000000FFFFFFFFFFFFFFFFFFFFFFFF
def p256N : Nat := 0xFFFFFFFF00000000FFFFFFFFFFFFFFFFBCE6FAADA7179E84F3B9CAC2FC632551
def p256B : Nat := 0x5AC635D8AA3A93E7B3EBBD55769886BC651D06B0CC53B0F63BCE3C3E27D2604B
def p256G : Nat × Nat :=
  (0x6B17D1F2E12C4247F8BCE6E563A440F277037D812DEB33A0F4A13945D898C296,
   0x4FE342E2FE1A7F9B8EE7EB4A7C0F9E162BCE33576B315ECECBB6406837BF51F5)

/-- A power modulo `m` by squaring; `f` bounds the bits of the exponent. -/
def powMod (m : Nat) : Nat → Nat → Nat → Nat
  | 0, _, _ => 1 % m
  | f + 1, b, e =>
    let r := powMod m f (b * b % m) (e / 2)
    if e % 2 = 1 then r * b % m else r

/-- The inverse modulo a 256-bit prime. -/
def invMod (m a : Nat) : Nat := powMod m 256 (a % m) (m - 2)

/-- The difference modulo `m`. -/
def subMod (m a b : Nat) : Nat := (a + (m - b % m)) % m

/-- A point of the curve by three coordinates: (x, y, z) stands for (x / z², y / z³), and z = 0 for the point at
infinity. -/
abbrev EcPt := Nat × Nat × Nat

/-- A point added to itself. -/
def ecDbl (p : EcPt) : EcPt :=
  match p with
  | (x, y, z) =>
    let zz := z * z % p256P
    let a := 3 * (subMod p256P x zz * (x + zz)) % p256P
    let yy := y * y % p256P
    let b := 4 * (x * yy) % p256P
    let x3 := subMod p256P (a * a) (2 * b)
    (x3, subMod p256P (a * subMod p256P b x3) (8 * (yy * yy)), 2 * (y * z) % p256P)

/-- A sum of two points. -/
def ecAdd (p q : EcPt) : EcPt :=
  match p, q with
  | (x1, y1, z1), (x2, y2, z2) =>
    if z1 = 0 then q
    else if z2 = 0 then p
    else
      let zz1 := z1 * z1 % p256P
      let zz2 := z2 * z2 % p256P
      let u1 := x1 * zz2 % p256P
      let s1 := y1 * (z2 * zz2 % p256P) % p256P
      let h := subMod p256P (x2 * zz1) u1
      let r := subMod p256P (y2 * (z1 * zz1 % p256P)) s1
      if h = 0 then (if r = 0 then ecDbl p else (1, 1, 0))
      else
        let hh := h * h % p256P
        let hhh := h * hh % p256P
        let v := u1 * hh % p256P
        let x3 := subMod p256P (subMod p256P (r * r) hhh) (2 * v)
        (x3, subMod p256P (r * subMod p256P v x3) (s1 * hhh), h * (z1 * z2 % p256P) % p256P)

/-- A multiple of a point by doubling; `f` bounds the bits of the factor. -/
def ecMul : Nat → Nat → EcPt → EcPt
  | 0, _, _ => (1, 1, 0)
  | f + 1, k, p =>
    let r := ecMul f (k / 2) (ecDbl p)
    if k % 2 = 1 then ecAdd r p else r

/-- Whether a pair of coordinates is a point of the curve. -/
def onCurve (x y : Nat) : Bool :=
  decide (x < p256P) && decide (y < p256P) && y * y % p256P == (x * x * x + (p256P - 3) * x + p256B) % p256P

/-- Verification of an ECDSA signature r‖s by a public key X‖Y over a SHA-256 digest (R475). -/
def ecdsaVerify (pub sig digest : List Byte) : Bool :=
  let x := beNat (slice pub 0 32)
  let y := beNat (slice pub 32 32)
  let r := beNat (slice sig 0 32)
  let t := beNat (slice sig 32 32)
  if onCurve x y && decide (1 ≤ r) && decide (r < p256N) && decide (1 ≤ t) && decide (t < p256N) then
    let w := invMod p256N t
    let (px, _, pz) := ecAdd (ecMul 256 (beNat digest * w % p256N) (p256G.1, p256G.2, 1))
      (ecMul 256 (r * w % p256N) (x, y, 1))
    let iz := invMod p256P pz
    pz != 0 && px * (iz * iz % p256P) % p256P % p256N == r
  else false

end Sys2Proof.Machine
end

