-- ==== Sys2Proof/Machine/Darkroom.lean ====
section
/-!
DEFINITION. The darkroom: fuses and their check at start-up, firmware images and owner records, their verification, and the
identity key (20_darkroom_security R475 to R486).
-/
namespace Sys2Proof.Machine

/-! ### Fuses (R476) -/

/-- Whether the fuse check stops the boot ROM: copies of SERIAL or ROOT_HASH differ, or those of OWNER_HASH while OWNER_SET
is in force. -/
def fusesBad (f : Config.Fuses) : Bool :=
  f.serial0 != f.serial1 || f.root0 != f.root1 || ((f.set0 || f.set1) && f.owner0 != f.owner1)

/-- The lagging copies of SVN_FLOOR and OWNER_SET brought up to the value in force. -/
def fusesRepaired (f : Config.Fuses) : Config.Fuses :=
  { f with svn0 := f.svn0 ||| f.svn1, svn1 := f.svn0 ||| f.svn1, set0 := f.set0 || f.set1, set1 := f.set0 || f.set1 }

/-- SVN_FLOOR burned up to a security version: a thermometer, both copies. -/
def fusesAtSvn (f : Config.Fuses) (n : Nat) : Config.Fuses :=
  { f with svn0 := f.svn0 ||| (2 ^ n - 1), svn1 := f.svn1 ||| (2 ^ n - 1) }

/-! ### Images (Tables 20-2 and 20-3) -/

/-- The size of the flash's image region. -/
def imageRegion : Nat := 0x4000000

/-- A run of bytes of the flash's image region; an erased byte is 0xFF. -/
def flashBytes (fl : List Byte) (off n : Nat) : List Byte := (List.range n).map (fun i => fl.getD (off + i) 0xFF)

def fwMagic (h : List Byte) : Nat := leAt h 0 4
def fwType (h : List Byte) : Nat := leAt h 4 1
def fwVersion (h : List Byte) : Nat := leAt h 8 4
def fwSvn (h : List Byte) : Nat := leAt h 0x0C 1
def fwBodySize (h : List Byte) : Nat := leAt h 0x10 4
def fwSerial (h : List Byte) : Nat := leAt h 0x18 8
def fwBodySha (h : List Byte) : List Byte := slice h 0x20 32
def fwRootPub (h : List Byte) : List Byte := slice h 0x40 64
def fwOwnerPub (h : List Byte) : List Byte := slice h 0x80 64
def fwRootSig (h : List Byte) : List Byte := slice h 0xC0 64
def fwOwnerSig (h : List Byte) : List Byte := slice h 0x100 64

/-- Whether the reserved bytes of a header are zero. -/
def fwReserved (h : List Byte) : Bool :=
  leAt h 5 3 == 0 && leAt h 0x0D 3 == 0 && leAt h 0x14 4 == 0 && (slice h 0x140 192).all (fun b => b == 0)

/-- A section of a firmware body (R477). -/
structure FwSection where
  type : Nat
  size : Nat
  off : Nat
  sha : List Byte
  deriving DecidableEq, Repr

/-- The sections of a body. -/
def fwSections (body : List Byte) : List FwSection :=
  (List.range (leAt body 0 2)).map (fun i =>
    let o := 16 + 48 * i
    ⟨leAt body o 2, leAt body (o + 4) 4, leAt body (o + 8) 8, slice body (o + 16) 32⟩)

/-- Condition 6 of R478. -/
def fwTableOk (body : List Byte) : Bool :=
  decide (16 + 48 * leAt body 0 2 ≤ body.length) && ((fwSections body).filter (fun x => x.type == 1)).length == 1

/-- R478 for an image of which `bs` are the bytes that are held. A security version above 64, which SVN_FLOOR cannot hold,
fails, as does an image of which bytes are missing (assumption 40). -/
def State.fwPasses (s : State) (bs : List Byte) : Bool :=
  let h := slice bs 0 512
  let n := fwBodySize h
  let body := (bs.drop 512).take n
  fwMagic h == 0x57465856 && fwType h == 0 && fwReserved h && fwSerial h == 0 && decide (512 + n ≤ imageRegion) &&
    decide (512 + n ≤ bs.length) &&
    (sha256 (fwRootPub h) == s.rootHash && ecdsaVerify (fwRootPub h) (fwRootSig h) (sha256 (slice h 0 0xC0))) &&
    (!s.ownerSet ||
      (sha256 (fwOwnerPub h) == s.ownerHash && ecdsaVerify (fwOwnerPub h) (fwOwnerSig h) (sha256 (slice h 0 0x100)))) &&
    decide (s.svn ≤ fwSvn h) && decide (fwSvn h ≤ 64) && sha256 body == fwBodySha h && fwTableOk body

/-- R482 for an owner enrolment record. -/
def State.ownerPasses (s : State) (bs : List Byte) : Bool :=
  let h := slice bs 0 512
  fwMagic h == 0x57465856 && fwType h == 1 && !s.ownerSet && fwBodySize h == 0 && fwSerial h == s.serial &&
    decide (512 ≤ bs.length) && (fwOwnerPub h).any (fun b => b != 0) &&
    ecdsaVerify (fwOwnerPub h) (fwOwnerSig h) (sha256 (slice h 0 0x100))

/-- The verification of FW_STAGE and FW_COMMIT (R481): under R482 for a record, under R478 for any other image. -/
def State.stagePasses (s : State) (bs : List Byte) : Bool :=
  if fwType (slice bs 0 512) = 1 then s.ownerPasses bs else s.fwPasses bs

/-- The image that the flash holds, as far as its header says. -/
def State.flashImage (s : State) : List Byte :=
  let h := flashBytes s.dkr.flash 0 512
  if 512 + fwBodySize h ≤ imageRegion then flashBytes s.dkr.flash 0 (512 + fwBodySize h) else h

/-- FW_MEAS of an image. -/
def fwMeas (bs : List Byte) : List Byte := sha256 (slice bs 0 512)

/-- Whether every section beside the keeper's has the hash that the section table gives it (R480). -/
def State.sectionsOk (s : State) : Bool :=
  let body := s.flashImage.drop 512
  (fwSections body).all (fun x => x.type == 1 || sha256 (slice body x.off x.size) == x.sha)

/-! ### The owner slot (R482) -/

/-- An enrolment: OWNER_HASH is burned, copy 0 first, and OWNER_SET only where the bits can form the new hash. Answers
whether they can. -/
def State.enrol (s : State) (bs : List Byte) : State × Bool :=
  let h := leNat (sha256 (fwOwnerPub (slice bs 0 512)))
  let f := s.dkr.fuse
  let f1 : Config.Fuses := { f with owner0 := f.owner0 ||| h, owner1 := f.owner1 ||| h }
  let good := f1.owner0 == h && f1.owner1 == h
  let f2 : Config.Fuses := if good then { f1 with set0 := true, set1 := true } else f1
  ({ s with dkr := { s.dkr with fuse := f2 } }, good)

/-! ### Identity (R476, R484) -/

/-- Whether the identity key unwraps, by copy 0 of WRAP and then copy 1. -/
def State.identityOk (s : State) : Bool := Config.identityOpens s.dkr.fuse.wrap0 || Config.identityOpens s.dkr.fuse.wrap1

end Sys2Proof.Machine
end

