-- ==== Sys2Proof/Machine/Fabric.lean ====
section
/-!
DEFINITION. The fabric ports: flits, link-level retry, credits, beacons, job time and routing (16_hormen_fabric R374 to
R397; 18_faults_and_relief R428).
-/
namespace Sys2Proof.Machine

/-! ### Flits (R376, R377) -/

def Flit.type (f : Flit) : Nat := bitsOf f.head 3 0
def Flit.vc (f : Flit) : Nat := bitsOf f.head 6 4
def Flit.tree (f : Flit) : Bool := bitAt f.head 7
def Flit.dmod (f : Flit) : Nat := bitsOf f.head 46 32

/-- Whether a type is sequenced; a reserved type is treated as sequenced (R396). -/
def sequenced (type : Nat) : Bool := type != 0 && type != 8

/-- The bytes of a flit on the line, CRC included. -/
def Flit.bytes (f : Flit) (seq ack : Nat) : List Byte :=
  let h := bitsOf f.head 7 0 + 2 ^ 8 * (seq % 4096) + 2 ^ 20 * (ack % 4096) + 2 ^ 32 * bitsOf f.head 95 32
  let body := slice f.payload 0 240
  leBytes 12 h ++ leBytes 4 (crc32 (leBytes 12 h ++ body)) ++ body

/-- The VCs that Table 16-2 gives a type. -/
def vcsOf (type : Nat) : List Nat :=
  match type with
  | 0 => [0] | 1 => [0, 1] | 2 => [2] | 3 => [2] | 4 => [2] | 5 => [2] | 6 => [4] | 7 => [3]
  | _ => []

/-- The HOPS field of a routed flit: its lowest bit in the header. -/
def hopsBit (type : Nat) : Nat := if type = 4 || type = 5 then 82 else 50

/-- The flits that a receiver buffers for a VC (R378). -/
def vcSize (port vc : Nat) : Nat :=
  match vc with
  | 0 => 256 | 1 => 256 | 2 => 512 | 3 => 64
  | 4 => if 10 ≤ port then 1024 else 0
  | _ => 0

/-! ### Transactions (R388) -/

/-- A transaction of a flit (R388): target address, SRC, OP, data bytes, STATUS and TID. -/
structure Txnh where
  taddr : Nat
  src : Nat
  op : Nat
  len : Nat
  status : Nat
  tid : Nat

/-- The transactions packed in a payload, and whether they break a rule; `n` are expected. -/
def parseTxns : Nat → List Byte → List Txnh × Bool
  | 0, _ => ([], false)
  | n + 1, bs =>
    if bs.length < 16 then ([], true)
    else
      let op := leAt bs 12 1 % 16
      let code := leAt bs 12 1 / 16
      let len := if code = 0 then 0 else 2 ^ (code - 1)
      let t : Txnh := ⟨leAt bs 0 8, leAt bs 8 4, op, len, leAt bs 13 1, leAt bs 14 2⟩
      let data := if op = 2 || op = 3 then len else 0
      if 5 < op || 8 < code then ([], true)
      else if op = 0 then ([], false)
      else if bs.length < 16 + data then ([t], true)
      else
        let (r, bad) := parseTxns n (bs.drop (16 + data))
        (t :: r, bad)

/-- The transactions of a TXN or CTRL flit. -/
def Flit.txns (f : Flit) : List Txnh × Bool :=
  let n := bitsOf f.head 49 48
  let (l, bad) := parseTxns n f.payload
  (l, bad || n == 0)

/-! ### Ports -/

def State.port (s : State) (p : Nat) : PortSt := mget s.ports p {}

/-- A port changed, with the register that shows its replay buffer. -/
def State.setPort (s : State) (p : Nat) (x : PortSt) : State :=
  ({ s with ports := mset {} s.ports p x } : State).wr (portU p) Reg.FAB_STAT_REPLAY_USED x.replay.length

/-- Whether a port passes flits. -/
def State.portUp (s : State) (p : Nat) : Bool :=
  decide (p < 12) && s.rd (portU p) Reg.FAB_STAT_UP == 1 && s.rd (portU p) Reg.FAB_STAT_MODE == 0

/-- The local timestamp (01_module_dies_clocks R28). -/
def State.ts (s : State) : Nat := s.rd clkU Reg.TS_LO_VALUE

/-- Whether the job uses a port, so that its loss is of class LINK (18_faults_and_relief R428). -/
def State.portUsed (s : State) (p : Nat) : Bool :=
  (decide (p < 8) && s.red.ents.any (fun e => decide (1 < e.2.len) && e.2.ring.contains s.job.modId)) ||
  (decide (10 ≤ p) && s.stqs.any (fun q => q.1 / 16 == p - 10 && q.2.live)) ||
  (match s.routes with
   | some r => r.any (fun e => e.2 % 16 == p || e.2 / 16 == p)
   | none => false)

/-- The serial of a port's partner. -/
def State.nbrSerial (s : State) (p : Nat) : Nat := s.rd (portU p) Reg.FAB_NBR_SER_LO_SERIAL

/-- The module at the other end of a port, by its last beacon. -/
def State.nbrModule (s : State) (p : Nat) : Nat := s.rd (portU p) Reg.FAB_NBR_INFO_MODULE

/-- A LINK_DOWN of a port; `cause` as Table 18-4 numbers it. -/
def State.logLinkDown (s : State) (p cause : Nat) : State :=
  let m := s.nbrModule p
  if s.portUsed p then s.logFault eLINK_DOWN cLINK (portU p) m p p (s.nbrSerial p) m cause
  else s.logEvent eLINK_DOWN (portU p) p (s.nbrSerial p) m cause

/-- A neighbour lost (18_faults_and_relief R428); `m` is the id it last showed. -/
def State.logModuleLost (s : State) (p m cause : Nat) : State :=
  s.logFault eMODULE_LOST cMODULE (portU p) m p p (s.nbrSerial p) m cause

/-- A receive buffer freed. -/
def State.freeBuf (s : State) (p vc : Nat) : State :=
  let x := s.port p
  s.setPort p { x with freed := mset 0 x.freed vc ((mget x.freed vc 0 + 1) % 65536), credDue := true }

/-- The requests of a discarded flit answered with ERR (R383, R396). -/
def State.errAll (s : State) (f : Flit) (status : Nat) : State :=
  if f.type = 1 || f.type = 7 then
    forEach (f.txns.1.filter (fun t => t.op == 1 || t.op == 2)) (fun s t => s.emit (.txnErr t.src t.tid status)) s
  else s

/-- A port that goes down (R383): its replay and receive buffers are discarded, a received flit that waits at another port
with them; what waits to be sent on this port is answered as a transaction routed to a port that is down (DEDUCED,
assumption 207). -/
def State.portDown (s : State) (p cause : Nat) : State :=
  let x := s.port p
  let s0 : State := { s with ports := s.ports.map (fun e =>
    (e.1, { e.2 with tx := e.2.tx.filter (fun f => !(f.2 == some p)) })) }
  let s1 := s0.setPort p { kok := x.kok, injN := x.injN, bcn := x.bcn, bcnAt := x.bcnAt, dead := x.dead, told := x.told }
  let s2 := forEach (x.tx.filter (fun f => !(f.2 == some p))) (fun s f =>
    (match f.2 with
     | some q => s.freeBuf q f.1.vc
     | none => s).errAll f.1 6) s1
  (((s2.wr (portU p) Reg.FAB_STAT_UP 0).wr (portU p) Reg.FAB_STAT_DOWN 1)).logLinkDown p cause

/-- A retrain begun (R382, R383). -/
def State.retrain (s : State) (p : Nat) : State :=
  let x := s.port p
  ((s.setPort p { x with training := true, retrains := s.ts :: x.retrains.take 2, again := none }).wr (portU p)
    Reg.FAB_STAT_UP 0).bump (portU p) Reg.FAB_RETRAIN_COUNT 1

/-! ### Acknowledgements and replays (R381, R382) -/

/-- An ACK received: the flits that it covers leave the replay buffer. Answers whether it lies beyond the last SEQ sent. -/
def PortSt.takeAck (x : PortSt) (ack : Nat) : PortSt × Bool :=
  let u := x.replay.length
  let first := (4096 + x.seq - u) % 4096
  let n := (4096 + ack + 1 - first) % 4096
  if 0 < n && n ≤ u then
    ({ x with replay := x.replay.drop n, start := (0, 0),
              again := x.again.bind (fun i => if n < u then some (i - n) else none) }, false)
  else
    let ahead := (4096 + ack + 1 - x.seq) % 4096
    (x, decide (0 < ahead) && decide (ahead < 2048))

/-- A replay from a place in the replay buffer, counted; after eight in a row from one SEQ the port retrains (R382). -/
def State.replayFrom (s : State) (p i : Nat) : State :=
  let x := s.port p
  match x.replay[i]? with
  | none => s
  | some r =>
    let n := if x.start.1 = r.1 && 0 < x.start.2 then x.start.2 + 1 else 1
    let s1 := (s.setPort p { x with again := some i, start := (r.1, n) }).bump (portU p) Reg.FAB_REPLAY_COUNT 1
    if n < 8 then s1 else s1.retrain p

/-- A NAK received (R382). -/
def State.takeNak (s : State) (p expSeq : Nat) : State :=
  match (s.port p).replay.findIdx? (fun r => r.1 == expSeq % 4096) with
  | none => s
  | some i => s.replayFrom p i

/-- The counts of freed flits received (R378): cumulative, so the latest stands. -/
def State.takeCredit (s : State) (p : Nat) (cred : List Nat) : State :=
  let x := s.port p
  s.setPort p { x with credit := (List.range 5).foldl (fun m v => mset 0 m v (cred.getD v 0 % 65536)) x.credit }

/-- The credits of a VC. -/
def PortSt.credits (x : PortSt) (vc : Nat) : Nat := (65536 + mget x.credit vc 0 - mget x.spent vc 0 % 65536) % 65536

/-! ### Beacons and identity (R385, R386, R390) -/

/-- The beacon that this module sends on a port. -/
def State.ownBeacon (s : State) (p : Nat) : Beacon :=
  let x := s.port p
  { modId := if s.inRecovery then 0x7FFF else s.job.modId, kok := x.kok, prov := s.provId, epoch := s.rd keeperU Reg.PLC_EPOCH_VALUE, tSend := s.ts,
    tLastRx := x.bcnAt, tLastTx := (x.bcn.map (fun b => b.tSend)).getD 0, tsoff := s.rd clkU Reg.TSOFF_LO_VALUE }

/-- The bytes of a beacon block. -/
def Beacon.bytes (b : Beacon) : List Byte :=
  leBytes 2 (b.modId % 2 ^ 15 + 2 ^ 15 * b2n b.kok) ++ leBytes 2 (b.prov % 2 ^ 15) ++ leBytes 4 b.epoch ++ leBytes 8 b.tSend ++
    leBytes 8 b.tLastRx ++ leBytes 8 b.tLastTx ++ leBytes 8 b.tsoff ++ List.replicate 24 0

/-- A beacon from its bytes. -/
def Beacon.ofBytes (bs : List Byte) : Beacon :=
  { modId := leAt bs 0 2 % 2 ^ 15, kok := bitAt (leAt bs 0 2) 15, prov := leAt bs 2 2 % 2 ^ 15, epoch := leAt bs 4 4,
    tSend := leAt bs 8 8, tLastRx := leAt bs 16 8, tLastTx := leAt bs 24 8, tsoff := leAt bs 32 8 }

/-- A beacon received (R385, R386; 18_faults_and_relief R428): LIMIT beacons in a row with KOK = 0, or a job id other than
the one last recorded while a job runs, mean that the neighbour is lost. -/
def State.takeBeacon (s : State) (p : Nat) (b : Beacon) : State :=
  let x := s.port p
  let old := s.nbrModule p
  let dead := if b.kok then 0 else x.dead + 1
  let s1 := ((s.setPort p { x with bcn := some b, bcnAt := s.ts, dead := dead }).wrB (portU p) Reg.FAB_STAT_PARTNER_KEEPER
    b.kok).wr (portU p) Reg.FAB_NBR_INFO_MODULE b.modId
  let s2 := if dead = s.rd (portU p) Reg.FAB_BCN_LIMIT then s1.logModuleLost p old 2 else s1
  if x.bcn.isSome && b.modId ≠ old && s2.running then s2.logModuleLost p old 3 else s2

/-- An ID block received (R390). -/
def State.takeId (s : State) (p serial port : Nat) (bridge : Bool) : State :=
  ((s.wr (portU p) Reg.FAB_NBR_SER_LO_SERIAL serial).wr (portU p) Reg.FAB_NBR_INFO_PORT port).wrB (portU p)
    Reg.FAB_NBR_INFO_BRIDGE bridge

/-! ### Sending (R379, R397) -/

/-- Whether fault injection chooses the next flit sent. -/
def State.injects (s : State) (p : Nat) : Bool :=
  let u := portU p
  srWord (s.rd u Reg.FAB_INJ_SEED_VALUE) 0 0xFFFFFE (s.port p).injN / 2 ^ (32 - s.rd u Reg.FAB_INJ_CFG_RATE) == 0

/-- A flit put on the line: it carries the latest ACK. -/
def State.lineOut (s : State) (p : Nat) (bs : List Byte) : State :=
  let x := s.port p
  ((s.setPort p { x with unacked := 0, injN := x.injN + 1 }).bump (portU p) Reg.FAB_TXF_COUNT 1).emit (.flit p bs)

/-- The ACK that the port sends: the SEQ of the last flit accepted. -/
def PortSt.ack (x : PortSt) : Nat := (4095 + x.exp) % 4096

/-- An IDLE flit. -/
def State.sendIdle (s : State) (p : Nat) : State := s.lineOut p (({ head := 0, payload := [] } : Flit).bytes 0 (s.port p).ack)

/-- Bit 96 of a flit's header inverted. -/
def corrupted (bs : List Byte) : List Byte := bs.set 12 (bs.getD 12 0 ^^^ 1)

/-- An injected fault counted. -/
def State.countInj (s : State) (p : Nat) : State := s.bump (portU p) Reg.FAB_INJ_CNT_COUNT 1

/-- A LINK flit (Table 16-3) with all that is due, and a beacon where `beacon` says so. -/
def State.sendLink (s : State) (p : Nat) (beacon : Bool) : State :=
  let x := s.port p
  let u := portU p
  let flags := b2n x.nakDue + 2 + 4 * b2n beacon + 8 * b2n x.idDue
  let cred := (List.range 5).flatMap (fun v => leBytes 2 (vcSize p v + mget x.freed v 0))
  let (pc, ps) := x.answer.getD (0, 0)
  let bcn := if beacon then (s.ownBeacon p).bytes else List.replicate 64 0
  let id := if x.idDue then
      leBytes 8 s.serial ++ leBytes 4 (p + 16 * b2n s.bridge) ++ leBytes 4 s.fwVer ++ List.replicate 16 0
    else List.replicate 32 0
  let body := leBytes 2 flags ++ leBytes 2 (if x.nakDue then x.exp else 0) ++ cred ++ leBytes 2 0 ++ leBytes 2 pc ++ leBytes 2 ps ++
    List.replicate 12 0 ++ bcn ++ id
  let bs := ({ head := 8, payload := body } : Flit).bytes 0 x.ack
  let mode := s.rd u Reg.FAB_INJ_CFG_MODE
  let hit := s.rd u Reg.FAB_INJ_CFG_LINKF == 1 && (mode == 1 || mode == 2) && s.injects p
  let s1 := s.setPort p { x with nakDue := false, credDue := false, idDue := false, answer := none }
  if !hit then s1.lineOut p bs
  else if mode = 1 then (s1.countInj p).sendIdle p
  else (s1.countInj p).lineOut p (corrupted bs)

/-- Whether a stage port may send STG flits: no beacon of its partner has shown another epoch last
(17_multi_module_jobs R421). -/
def State.epochsAgree (s : State) (ep : Nat) : Bool :=
  match (s.port (10 + ep)).bcn with
  | some b => b.epoch == s.rd keeperU Reg.PLC_EPOCH_VALUE
  | none => true

/-- The next sequenced flit of a port, a replayed one or a new one with a credit and room (R379, R381): its SEQ and the
flit. STG flits wait while the partner shows another epoch (17_multi_module_jobs R421). -/
def State.nextSeq (s : State) (p : Nat) : Option (Nat × Flit) × State :=
  let x := s.port p
  match x.again.bind (fun i => (x.replay[i]?).map (fun r => (i, r))) with
  | some (i, r) =>
    (some r, s.setPort p { x with again := if i + 1 < x.replay.length then some (i + 1) else none })
  | none =>
    if 2048 ≤ x.replay.length then (none, s)
    else
      let pick := [3, 1, 4, 2, 0].findSome? (fun v =>
        if x.credits v = 0 || (v == 4 && !s.epochsAgree (p - 10)) then none else x.tx.findIdx? (fun e => e.1.vc == v))
      match pick.bind (fun i => (x.tx[i]?).map (fun e => (i, e))) with
      | none => (none, s)
      | some (i, f, origin) =>
        let s1 := s.setPort p { x with tx := x.tx.eraseIdx i, seq := (x.seq + 1) % 4096, replay := x.replay ++ [(x.seq, f)],
                                       spent := mset 0 x.spent f.vc ((mget x.spent f.vc 0 + 1) % 65536) }
        -- The buffer that held a flit in transit is free once the flit is sent.
        let s2 := match origin with
          | none => s1
          | some q =>
            let y := s1.port q
            s1.setPort q { y with freed := mset 0 y.freed f.vc ((mget y.freed f.vc 0 + 1) % 65536), credDue := true }
        (some (x.seq, f), s2)

/-- A sequenced flit put on the line. -/
def State.seqOut (s : State) (p : Nat) (r : Nat × Flit) : State := s.lineOut p (r.2.bytes r.1 (s.port p).ack)

/-- A sequenced flit sent, or what fault injection makes of it (R397). -/
def State.sendSeq (s : State) (p : Nat) (r : Nat × Flit) : State :=
  let u := portU p
  let mode := s.rd u Reg.FAB_INJ_CFG_MODE
  if mode = 0 || !bitAt (s.rd u Reg.FAB_INJ_CFG_VCMASK) r.2.vc || !s.injects p then s.seqOut p r
  else
    let s1 := s.countInj p
    if mode = 1 then s1.sendIdle p
    else if mode = 2 then s1.lineOut p (corrupted (r.2.bytes r.1 (s1.port p).ack))
    else
      match s1.nextSeq p with
      | (some r2, s2) => (s2.setPort p { s2.port p with swap := some (r.1, r.2, true) }).seqOut p r2
      | (none, s2) => (s2.setPort p { s2.port p with swap := some (r.1, r.2, false) }).sendIdle p

/-- Flits that this module's units hand to a port, and the requests among them for which an answer is awaited. -/
def State.handFlits (s : State) (p : Nat) (new : List Flit) : State :=
  let x := s.port p
  let asked := (new.filter (fun f => f.type == 1 || f.type == 7)).flatMap (fun f =>
    (f.txns.1.filter (fun t => t.op == 1 || t.op == 2)).map (fun t => (t.src, t.tid)))
  { s.setPort p { x with tx := x.tx ++ new.map (fun f => (f, none)) } with awaiting := s.awaiting ++ asked }

/-- FLIT_SEND (R379): one flit slot of a port. `new` are flits that this module's units hand to the port; they wait while it
trains, and a port that is down answers their requests (R383; assumption 207). -/
def execFlitSend (port : Nat) (new : List Flit) (s0 : State) : Host.Outcome State Fault Refusal :=
  if s0.portUp port then
    let s := s0.handFlits port new
    let x := s.port port
    if x.nakDue || x.credDue || x.idDue || x.answer.isSome then done (s.sendLink port false)
    else
      match x.swap with
      | some (q, f, true) => done ((s.setPort port { x with swap := none }).seqOut port (q, f))
      | some (q, f, false) =>
        match s.nextSeq port with
        | (some r, s1) => done ((s1.setPort port { s1.port port with swap := some (q, f, true) }).seqOut port r)
        | (none, s1) => done (s1.sendIdle port)
      | none =>
        match s.nextSeq port with
        | (some r, s1) => done (s1.sendSeq port r)
        | (none, s1) => done (s1.sendIdle port)
  else if (s0.port port).training then done (s0.handFlits port new)
  else done (forEach new (fun s f => s.errAll f 6) s0)

/-! ### Receiving (R380, R396) -/

/-- A violation by the partner (R396): the flit was acknowledged and is discarded. -/
def State.protocol (s : State) (p code seq : Nat) : State :=
  let x := s.port p
  let u := portU p
  let s1 := ((s.setPort p { x with answer := some (code, seq) }).bump u Reg.FAB_PROTO_RX_COUNT 1).wr u Reg.FAB_PROTO_CAP_CODE code
  let s2 := s1.wr u Reg.FAB_PROTO_CAP_SEQ seq
  match x.told.find? (fun t => t.1 == code) with
  | some t =>
    if s.ts < t.2 + msTicks then s2
    else (s2.setPort p { s2.port p with told := (code, s.ts) :: x.told.filter (fun t => !(t.1 == code)) }).logEvent ePARTNER u
      (code + 256 * seq)
  | none => (s2.setPort p { s2.port p with told := (code, s.ts) :: x.told }).logEvent ePARTNER u (code + 256 * seq)

/-- The bits of the type-specific field that Table 16-2 and, for STG, Table 17-3 give no use: reserved (assumption 206). -/
def Flit.rsvd (f : Flit) : Nat :=
  let h := f.head
  match f.type with
  | 0 => bitsOf h 95 48
  | 1 => bitsOf h 95 55
  | 3 => bitsOf h 86 60
  | 5 => bitsOf h 81 61
  | 6 => bitsOf h 49 49 + bitsOf h 55 55 + bitsOf h 95 84
  | 7 => bitsOf h 95 56
  | 8 => bitsOf h 95 48
  | _ => 0

/-- The protocol code of a sequenced flit that breaks a rule on its own, 0 where it breaks none. -/
def flitBad (p : Nat) (f : Flit) : Nat :=
  if 8 < f.type || 4 < f.vc || !(vcsOf f.type).contains f.vc then 1
  else if bitAt f.head 47 || f.rsvd ≠ 0 then 9
  else if f.type = 2 && p ≠ 2 * (bitsOf f.head 86 60 % 4) + 1 then 3
  else if f.type = 3 && !(decide (p < 8) && decide (p % 2 = 1)) then 3
  else if f.type = 6 && p < 10 then 3
  else if (f.type = 1 || f.type = 7) && f.txns.2 then 5
  else 0

/-- The entry by which a flit leaves: a port, 14 for this module, 15 for no route (R391, R392). -/
def State.route (s : State) (f : Flit) : Nat :=
  if f.tree then
    if f.dmod = s.provId then 14
    else match s.disc.down.find? (fun k => decide (k.2.1 ≤ f.dmod) && decide (f.dmod < k.2.1 + k.2.2)) with
      | some k => k.1
      | none => s.disc.up.getD 15
  else
    match s.routes with
    | none => if f.dmod = s.job.modId then 14 else 15
    | some r =>
      let e := mget r f.dmod 0xFF
      if f.type = 4 || f.type = 5 then e / 16 else e % 16

/-- A flit that ends at this module: responses must match a request (R396), and everything is handed to the units. -/
def State.arriveHere (s : State) (p seq : Nat) (f : Flit) : State :=
  let resp := if f.type = 1 then f.txns.1.filter (fun t => decide (3 ≤ t.op)) else []
  match resp.find? (fun t => !s.awaiting.contains (t.taddr % 2 ^ 32, t.tid)) with
  | some _ => s.protocol p 8 seq
  | none =>
    let gone := resp.map (fun t => (t.taddr % 2 ^ 32, t.tid))
    ({ s with awaiting := s.awaiting.filter (fun a => !gone.contains a) } : State).emit (.deliver p f)

/-- The segments that a lane holds, of all layers. -/
def State.laneHeld (s : State) (lane : Nat) : Nat :=
  (s.red.layers.map (fun l => (l.2.inbox.filter (fun x => x.1 % 4 == lane)).length)).sum

/-- Whether a lane's buffer of 1 MiB holds no further segment of 240 bytes (13_gradient_reduction R324; assumption 205). -/
def State.laneFull (s : State) (lane : Nat) : Bool := decide (2 ^ 20 / 240 ≤ s.laneHeld lane)

/-- An accepted flit routed (R391 to R395). A segment that reaches a full lane keeps its receive buffer, so its credit is
withheld (13_gradient_reduction R324). A flit for another module waits at the port that its entry names. -/
def State.routeFlit (s : State) (p seq : Nat) (f : Flit) : State :=
  let here := f.type = 2 || f.type = 3 || f.type = 6 || (f.type = 7 && bitAt f.head 55)
  let e := if here then 14 else s.route f
  if e = 14 then
    let s1 := s.arriveHere p seq f
    if f.type = 2 && s.laneFull (bitsOf f.head 86 60 % 4) then
      let x := s1.port p
      s1.setPort p { x with heldSeg := x.heldSeg + 1 }
    else s1.freeBuf p f.vc
  else if 12 ≤ e then ((s.protocol p 6 seq).errAll f 8).freeBuf p f.vc
  else
    let b := hopsBit f.type
    let h := bitsOf f.head (b + 4) b
    if h = 31 then (s.protocol p 7 seq).freeBuf p f.vc
    else if !s.portUp e && !(s.port e).training then (s.errAll f 6).freeBuf p f.vc
    else
      let y := s.port e
      s.setPort e { y with tx := y.tx ++ [({ f with head := f.head + 2 ^ b }, some p)] }

/-- An in-sequence flit accepted (R380, R396). -/
def State.acceptFlit (s : State) (p : Nat) (f : Flit) : State :=
  let x := s.port p
  let seq := x.exp
  let x1 : PortSt := { x with exp := (x.exp + 1) % 4096, naked := false, unacked := x.unacked + 1,
                              got := mset 0 x.got f.vc ((mget x.got f.vc 0 + 1) % 65536) }
  let s1 := (s.setPort p x1).bump (portU p) Reg.FAB_RXF_COUNT 1
  let bad := flitBad p f
  let full := decide (vcSize p f.vc ≤ (65536 + mget x.got f.vc 0 - mget x.freed f.vc 0) % 65536)
  if bad = 5 then ((s1.protocol p 5 seq).errAll f 8).freeBuf p f.vc
  else if bad ≠ 0 then (s1.protocol p bad seq).freeBuf p f.vc
  else if full then (s1.protocol p 2 seq).freeBuf p f.vc
  else s1.routeFlit p seq f

/-- One NAK asked for, unless one was sent for the expected number (R380). -/
def State.askNak (s : State) (p : Nat) : State :=
  let x := s.port p
  if x.naked then s else s.setPort p { x with naked := true, nakDue := true }

/-- A LINK flit's blocks taken (Table 16-3); one with a reserved bit set is discarded (R396). -/
def State.takeLink (s : State) (p seq : Nat) (f : Flit) : State :=
  let b := leAt f.payload 0 1
  if b / 16 ≠ 0 || (bitAt b 2 && leAt f.payload 0x48 24 ≠ 0) then s.protocol p 9 seq
  else
  let s1 := if bitAt b 1 then s.takeCredit p ((List.range 5).map (fun v => leAt f.payload (4 + 2 * v) 2)) else s
  let s2 := if bitAt b 2 then s1.takeBeacon p (Beacon.ofBytes (slice f.payload 32 64)) else s1
  let s3 := if bitAt b 3 then
      s2.takeId p (leAt f.payload 0x60 8) (leAt f.payload 0x68 1 % 16) (bitAt (leAt f.payload 0x68 1) 4) else s2
  if bitAt b 0 then s3.takeNak p (leAt f.payload 2 2 % 4096) else s3

/-- FLIT_RECEIVE (R375, R380, R396): a flit's 256 bytes reach a port; `fec` says that its codewords decoded, `corrected`
and `failed` how many codewords were corrected and were not. -/
def execFlitReceive (port : Nat) (data : List Byte) (fec : Bool) (corrected failed : Nat) (s0 : State) :
    Host.Outcome State Fault Refusal :=
  if s0.portUp port then
    let u := portU port
    let s := (s0.bump u Reg.FAB_FEC_CE_COUNT corrected).bump u Reg.FAB_FEC_UE_COUNT failed
    let h := leAt data 0 12
    let f : Flit := { head := bitsOf h 7 0 + 2 ^ 32 * bitsOf h 95 32, payload := slice data 16 240 }
    let seq := bitsOf h 19 8
    if !fec || crc32 (slice data 0 12 ++ f.payload) ≠ leAt data 12 4 then
      let s1 := (s.bump u Reg.FAB_CRC_COUNT 1).logEvent eLINK_CRC u
      done (if sequenced f.type then s1.askNak port else s1)
    else
      let (x, beyond) := (s.port port).takeAck (bitsOf h 31 20)
      let s1 := s.setPort port x
      let s2 := if beyond then s1.protocol port 4 seq else s1
      if !sequenced f.type && (bitAt h 47 || f.rsvd ≠ 0) then done (s2.protocol port 9 seq)
      else if f.type = 0 then done s2
      else if f.type = 8 then done (s2.takeLink port seq f)
      else
        let ahead := (4096 + seq - (s2.port port).exp) % 4096
        if ahead = 0 then done (s2.acceptFlit port f)
        else if ahead < 2048 then done (s2.askNak port)
        else done s2
  else done s0

/-- NAK_RECEIVE (R382). -/
def execNakReceive (port expSeq : Nat) (s : State) : Host.Outcome State Fault Refusal :=
  done (if s.portUp port then s.takeNak port expSeq else s)

/-- CREDIT_RETURN (R378): the cumulative counts of freed flits of VC 0 to 4. -/
def execCreditReturn (port : Nat) (cred : List Nat) (s : State) : Host.Outcome State Fault Refusal :=
  done (if s.portUp port then s.takeCredit port cred else s)

/-- ACK_DUE (R381). -/
def execAckDue (port : Nat) (s : State) : Host.Outcome State Fault Refusal :=
  done (if s.portUp port && decide (0 < (s.port port).unacked) then s.sendIdle port else s)

/-- REPLAY_TIMEOUT (R382): the oldest flit has not been acknowledged in time. -/
def execReplayTimeout (port : Nat) (s : State) : Host.Outcome State Fault Refusal :=
  done (if s.portUp port then s.replayFrom port 0 else s)

/-- A port that has finished training (R378, R390). -/
def State.portTrained (s : State) (p rtt : Nat) : State :=
  let x := s.port p
  ((s.setPort p { x with training := false, idDue := true, credDue := true }).wr (portU p) Reg.FAB_STAT_UP 1).wr (portU p)
    Reg.FAB_RTT_NS rtt

/-- RETRAIN_COMPLETE (R383): replay resumes from the ACK that the partner's first flit carries. A third retrain within one
second does not complete. -/
def execRetrainComplete (port ack rtt : Nat) (s : State) : Host.Outcome State Fault Refusal :=
  let third := match (s.port port).retrains with
    | [t1, _, t3] => decide (t1 < t3 + 1000 * msTicks)
    | _ => false
  if port < 12 && (s.port port).training && !third then
    let (x, _) := (s.port port).takeAck (ack % 4096)
    let s1 := s.setPort port { x with again := if x.replay.isEmpty then none else some 0 }
    done (s1.portTrained port rtt)
  else done s

/-- PORT_DOWN (R383): a retrain fails, lasts 100 ms or is the third within one second. -/
def execPortDown (port : Nat) (s : State) : Host.Outcome State Fault Refusal :=
  done (if port < 12 && (s.port port).training then s.portDown port 0 else s)

/-- BEACON_SEND (R385). -/
def execBeaconSend (port : Nat) (s : State) : Host.Outcome State Fault Refusal :=
  done (if s.portUp port then s.sendLink port true else s)

/-- BEACON_RECEIVE (R385, R386). -/
def execBeaconReceive (port modId : Nat) (kok : Bool) (prov epoch tSend tLastRx tLastTx tsoff : Nat) (s : State) :
    Host.Outcome State Fault Refusal :=
  done (if s.portUp port then
      s.takeBeacon port { modId := modId % 2 ^ 15, kok := kok, prov := prov % 2 ^ 15, epoch := epoch % 2 ^ 32,
                          tSend := tSend % 2 ^ 64, tLastRx := tLastRx % 2 ^ 64, tLastTx := tLastTx % 2 ^ 64,
                          tsoff := tsoff % 2 ^ 64 }
    else s)

/-- BEACON_SILENCE (R386): FAB_BCN.LIMIT periods without a beacon; `near` says that one was captured in the cycle in which
the limit expired. -/
def execBeaconSilence (port : Nat) (near : Bool) (s : State) : Host.Outcome State Fault Refusal :=
  if s.portUp port then
    if near then done (s.bump (portU port) Reg.FAB_NEARMISS_COUNT 1)
    else
      let m := s.nbrModule port
      done (((s.wr (portU port) Reg.FAB_STAT_SILENT 1).portDown port 1).logModuleLost port m 1)
  else done s

/-- KOK_EXPIRY (R385): 2 ms without a heartbeat. -/
def execKokExpiry (port : Nat) (s : State) : Host.Outcome State Fault Refusal :=
  done (if port < 12 then s.setPort port { s.port port with kok := false } else s)

/-- TSOFF_UPDATE (R387): from the last beacon of the port to the tree parent. -/
def execTsoffUpdate (s : State) : Host.Outcome State Fault Refusal :=
  if s.job.modId = 0 || (s.disc.root && s.routes.isNone) then done (s.wr clkU Reg.TSOFF_LO_VALUE 0)
  else
    match s.disc.up with
    | none => done s
    | some p =>
      let x := s.port p
      match x.bcn with
      | none => done s
      | some b =>
        let i (v : Nat) : Int := sext 64 v
        let off := ((i b.tLastRx - i b.tLastTx) + (i b.tSend - i x.bcnAt)) / 2
        done (s.wr clkU Reg.TSOFF_LO_VALUE (wrapInt 64 (i b.tsoff + off)))

/-- ID_BLOCK_RECEIVE (R390). -/
def execIdBlockReceive (port serial partnerPort : Nat) (bridge : Bool) (s : State) : Host.Outcome State Fault Refusal :=
  done (if s.portUp port then s.takeId port serial partnerPort bridge else s)

end Sys2Proof.Machine
end

