-- ==== Sys2Proof/Machine/Startup.lean ====
section
/-!
DEFINITION. Power good, resets and start-up, the scrub, and the keeper reset (01_module_dies_clocks R28, R29;
08_bonded_dram R203, R204; 19_keeper_minil R459, R460; 20_darkroom_security R479, R480, R483, R487; 22_connectors_startup
R506 to R516).
-/
namespace Sys2Proof.Machine

/-! ### What a reset leaves (R514, Table 22-5) -/

/-- Register fields carried over into a state. -/
def State.withFields (t s : State) (l : List (Nat × Field)) : State := forEach l (fun t p => t.wr p.1 p.2 (s.rd p.1 p.2)) t

/-- The module without power: its fuses, its flash and the levels of its input pins are all that is left. -/
def State.bare (s : State) : State :=
  { dkr := { fuse := s.dkr.fuse, flash := s.dkr.flash }, sb := { low := s.sb.low.map (fun _ => 0) },
    pcie := { perst := s.pcie.perst }, out := s.out, free := s.free, pending := s.pending }

/-- What counts from power good: the timestamp, the energy, SB_RSTCNT and the pins sampled then. -/
def sincePowerGood : List (Nat × Field) :=
  [(clkU, Reg.TS_LO_VALUE), (keeperU, Reg.PWR_ENERGY_LO_J), (sbU, Reg.SB_RSTCNT_WARM), (sbU, Reg.SB_RSTCNT_COLD),
   (sbU, Reg.SB_STAT_PWR_OK), (sbU, Reg.SB_STAT_BRIDGE), (sbU, Reg.SB_STAT_SLOT)]

/-- Whether a memory address lies in DRAM. -/
def inDram (a : Nat) : Bool := !bitAt a 41

/-- A module reset: everything is lost but what Table 22-5 keeps; DRAM with the log ring and the contact sheets stays where
`dram` says so. -/
def State.moduleReset (s : State) (dram : Bool) : State :=
  let t : State := { s.bare with
    mem := if dram then s.mem.filter (fun c => inDram c.1) else []
    ecc := if dram then s.ecc.filter (fun e => inDram (4 * e.1)) else []
    bridge := s.bridge
    log := { ring := if dram then s.log.ring else [], sticky := s.log.sticky, seq := s.log.seq, fogSeq := s.log.fogSeq }
    sheets := if dram then s.sheets else []
    sb := { s.sb with faults := s.sb.faults.filter (fun c => !(c == stageFault)) }
    pwr := { mJ := s.pwr.mJ, atStep := s.pwr.atStep, thermDowns := s.pwr.thermDowns, powerDowns := s.pwr.powerDowns } }
  (((t.withFields s sincePowerGood).wrB sbU Reg.SB_STAT_FAULT (!t.sb.faults.isEmpty)).logStat).wrB (portU 0)
    Reg.FAB_STAT_MODE s.bridge |>.wrB (portU 1) Reg.FAB_STAT_MODE s.bridge

/-- A warm reset (R513, R514): NO_JOB and DIRTY; a thermal trip stays. -/
def State.warmReset (s : State) : State :=
  let t := (s.moduleReset true).withFields s [(clkU, Reg.CLK_STAT_ROOT_LOCK), (keeperU, Reg.PWR_STAT_TRIP)]
  let t1 : State := { t with job := { dirty := true }, sb := { t.sb with low := none, kind := 2, cause := 2 } }
  (t1.bump sbU Reg.SB_RSTCNT_WARM 1).wr sbU Reg.SB_STAT_STAGE 1

/-- A cold reset (R513, R514): a thermal trip ends, and RESET_CAUSE tells of it. -/
def State.coldReset (s : State) : State :=
  let t := s.moduleReset false
  let t1 : State := { t with sb := { t.sb with low := none, kind := 1,
                                               cause := if s.rd keeperU Reg.PWR_STAT_TRIP = 1 then 5 else 1 } }
  ((t1.bump sbU Reg.SB_RSTCNT_COLD 1).wr sbU Reg.SB_STAT_STAGE 1).dropFault tripFault

/-! ### Power good, MOD_RST_N and the root PLL -/

/-- POWER_GOOD_RISE (R506, R508): with the input voltage in mV, the slot pins and the level of BRIDGE_SEL. -/
def execPowerGoodRise (mv slot : Nat) (bridgeSelLow : Bool) (s : State) : Host.Outcome State Fault Refusal :=
  if s.sb.good then done s
  else
    let held := s.sb.low.isSome
    let t := s.bare
    let t1 : State := { t with bridge := bridgeSelLow, sb := { good := true, low := if held then some 1 else none } }
    let t2 := ((((t1.wr sbU Reg.SB_STAT_PWR_OK 1).wrB sbU Reg.SB_STAT_BRIDGE bridgeSelLow).wr sbU Reg.SB_STAT_SLOT slot).wr
      keeperU Reg.PWR_VIN_MV mv).wr sbU Reg.SB_STAT_STAGE (if held then 0 else 1)
    done ((t2.wrB (portU 0) Reg.FAB_STAT_MODE bridgeSelLow).wrB (portU 1) Reg.FAB_STAT_MODE bridgeSelLow)

/-- POWER_GOOD_FALL (R492, R508): the module behaves as if 52 V were removed; `pwrOk` is the level of PWR_OK. -/
def execPowerGoodFall (pwrOk : Bool) (s : State) : Host.Outcome State Fault Refusal :=
  if s.sb.good then done (s.bare.wrB sbU Reg.SB_STAT_PWR_OK pwrOk) else done s

/-- MOD_RST_N_ASSERT (R515): the module is held in reset. -/
def execModRstNAssert (s : State) : Host.Outcome State Fault Refusal :=
  if s.sb.low.isSome then done s
  else done (({ s with sb := { s.sb with low := some s.stage } } : State).wr sbU Reg.SB_STAT_STAGE 0)

/-- 1 µs and 100 ms in TCLK, the former rounded up. -/
def usTicks : Nat := 119
def coldTicks : Nat := 11875000

/-- MOD_RST_N_RELEASE (R513): a low period of `tclk` TCLK ends; `near` says that the release was captured in the MCLK cycle
in which the 100 ms limit expires. -/
def execModRstNRelease (tclk : Nat) (near : Bool) (s : State) : Host.Outcome State Fault Refusal :=
  match s.sb.low with
  | none => done s
  | some stage =>
    if !s.sb.good || tclk < usTicks then
      done (({ s with sb := { s.sb with low := none } } : State).wr sbU Reg.SB_STAT_STAGE stage)
    else if tclk < coldTicks || (near && tclk == coldTicks) then done s.warmReset
    else done s.coldReset

/-- PLL_LOSS_OF_LOCK (R29): every derived clock stops and the module is held in reset. DRAM is kept (assumption 41). -/
def execPllLossOfLock (s : State) : Host.Outcome State Fault Refusal :=
  if s.sb.good && s.rd clkU Reg.CLK_STAT_ROOT_LOCK = 1 then
    let t := (s.moduleReset true).withFields s [(keeperU, Reg.PWR_STAT_TRIP)]
    let t1 : State := { t with job := { dirty := true }, sb := { t.sb with kind := 2, cause := 4 } }
    done (t1.raiseFault lockFault)
  else done s

/-- PLL_LOCK (R28, R29): the timestamp runs, and start-up goes on from the keeper ROM. -/
def execPllLock (s : State) : Host.Outcome State Fault Refusal :=
  if s.sb.good && s.rd clkU Reg.CLK_STAT_ROOT_LOCK = 0 then
    let t := (s.wr clkU Reg.CLK_STAT_ROOT_LOCK 1).dropFault lockFault
    match t.sb.low with
    | some _ => done { t with sb := { t.sb with low := some 2 } }
    | none => done (if t.rd keeperU Reg.PWR_STAT_TRIP = 1 then t else t.wr sbU Reg.SB_STAT_STAGE 2)
  else done s

/-! ### The scrub (20_darkroom_security R487) -/

/-- Whether the scrub leaves a memory byte: the reserved regions, and what is neither scratchpad, DRAM, instruction memory,
layer table nor layer-word store. -/
def scrubKeeps (a : Nat) : Bool :=
  if inDram a then decide (reservedOff ≤ a % 2 ^ 36)
  else
    let u := taUnit a
    !(decide (dieOf u < 24) && decide (epOf u < 2)) && u != keeperU && u != rdU 0

/-- The scrub, and what it resets beside memory. -/
def State.scrub (s : State) : State :=
  let s1 := s.mbxReset (s.chansOf 3)
  let s2 : State := { s1 with
    mem := s1.mem.filter (fun c => scrubKeeps c.1), ecc := s1.ecc.filter (fun e => scrubKeeps (4 * e.1)),
    cores := [], gmes := [], arbs := [], tus := [], apps := [], ues := [], red := {}, stqs := [], streams := [], qps := [],
    eths := [], arrivals := [], auLog := [], sheets := [], scrubQ := s1.scrubQ.filter (fun w => scrubKeeps (4 * w)),
    gshift := [], ck := {}, fix := {} }
  (s2.wr dkrU Reg.DKR_STAT_SCRUB_BUSY 0).wr dkrU Reg.DKR_STAT_SCRUBBED 1

/-- NO_JOB entered: what the module held of a job is gone, but the DIRTY flag says whether its memories still hold it. -/
def State.toNoJob (s : State) (dirty : Bool) : State :=
  let s1 := s.mbxReset (s.chansOf 3)
  ({ s1 with job := { dirty := dirty }, apps := [], stqs := [], red := {}, ues := [], streams := [], ck := {}, fix := {} } :
    State).wr keeperU Reg.RCV_STAT_STATE 0

/-! ### Recovery and the keeper reset -/

/-- The ROM enters recovery (R483, R516). -/
def State.enterRecovery (s : State) : State :=
  let t : State := { s with fwVer := 0 }
  ((t.wr sbU Reg.SB_STAT_STAGE stRECOVERY).wr dkrU Reg.DKR_STAT_RECOVERY 1).wrHash Reg.DKR_FWMEAS_VALUE
    (List.replicate 32 0)

/-- The keeper's channels, the staged image, the tolerance and the test port after a keeper reset. -/
def State.keeperLoses (s : State) : State :=
  let s1 := s.mbxReset (List.range 8)
  let s2 : State := { s1 with kpr := {}, dkr := { s1.dkr with staged := none }, tap := {} }
  ((((s2.wr dkrU Reg.DKR_STAT_JTAG_OPEN 0).wr mbxU Reg.MNL_STAT_BUSY 0).wr mbxU Reg.MNL_STAT_LONG 0).wr mbxU
    Reg.MNL_STAT_PCT 0).wr keeperU Reg.PWR_TOL_US 0

def cmdLOAD : Nat := 0x0010
def cmdSTOP : Nat := 0x0012
def cmdRESTORE : Nat := 0x0019

/-- The job state after a keeper reset (R460, Table 19-5). -/
def State.jobAfterReset (s : State) : State :=
  let cmd := (s.kpr.run.map (fun m => m.cmd)).getD 0
  let ends := (s.kpr.run.map (fun m => leAt m.payload 0 1 % 2 == 1)).getD false
  if cmd = cmdLOAD || (cmd = cmdSTOP && ends) then s.toNoJob true
  else if s.job.st = .noJob then s
  else { s with job := { s.job with st := .stopped } }

/-- A keeper reset (R459, R460): cores and engines stop without a notice, a recovery attempt ends where it stands, and
start-up runs stages 2 to 4. -/
def State.keeperReset (s : State) (cause : Nat) : State :=
  let s1 := if s.ck.drain.isSome then s.drainEnded else s
  let s2 := if s1.running then s1.stopCores.stopEngines eSTOPPED else s1
  let s3 := s2.jobAfterReset
  let s4 := if s3.rd keeperU Reg.RCV_STAT_COORD = 1 then
      (s3.wr keeperU Reg.RCV_STAT_COORD 0).wr keeperU Reg.RCV_STAT_STATE (if s3.job.st = .noJob then 0 else 4)
    else s3
  let s5 := s4.keeperLoses.wakeCause
  let d : DiscSt := { num := s5.disc.num, up := s5.disc.up, down := s5.disc.down }
  let s6 : State := { s5 with sb := { s5.sb with kind := 3, cause := cause }, disc := d }
  s6.wr sbU Reg.SB_STAT_STAGE 2

/-! ### Start-up (R515, R516) -/

/-- A stage that fails: start-up stops there, and FAULT_N is driven low for a cause. -/
def State.stageFails (s : State) (c : Nat) : State :=
  let t := (s.wr sbU Reg.SB_STAT_HALTED 1).raiseFault c
  { t with sb := { t.sb with alert := true } }

/-- Stage 2 (R476). -/
def State.fuseStage (s : State) : State :=
  if fusesBad s.dkr.fuse then s.stageFails fuseFault
  else ({ s with dkr := { s.dkr with fuse := fusesRepaired s.dkr.fuse } } : State).wr sbU Reg.SB_STAT_STAGE 3

/-- Stage 3 (R478, R479): the image passes, SVN_FLOOR is burned and FW_MEAS latched; or the ROM enters recovery. -/
def State.verifyStage (s : State) : State :=
  let img := s.flashImage
  if s.fwPasses img then
    let t : State := { s with fwVer := fwVersion img, dkr := { s.dkr with fuse := fusesAtSvn s.dkr.fuse (fwSvn img) } }
    ((t.wrHash Reg.DKR_FWMEAS_VALUE (fwMeas img)).wr dkrU Reg.DKR_STAT_RECOVERY 0).wr sbU Reg.SB_STAT_STAGE 4
  else (s.bump dkrU Reg.DKR_VERFAIL_COUNT 1).enterRecovery

/-- KOK set on every port, as the keeper's heartbeat does (R385). -/
def State.allAlive (s : State) : State := forEach (List.range 12) (fun s p => s.setPort p { s.port p with kok := true }) s

/-- Stage 4 (R480; 19_keeper_minil R474): the firmware of the other dies, which a keeper reset leaves in place, is checked,
and the keeper unmasks its doorbells. -/
def State.firmwareStage (s : State) : State :=
  if s.sb.kind ≠ 3 && !s.sectionsOk then s.enterRecovery
  else
    let t := s.wr mbxU Reg.DB_MASK_MASK (s.rd mbxU Reg.DB_MASK_MASK / 256 * 256)
    if s.sb.kind = 3 then (t.wr sbU Reg.SB_STAT_STAGE 8).allAlive else t.wr sbU Reg.SB_STAT_STAGE 5

/-- Stacks that have trained. -/
def State.stacksTrained (s : State) (dies : List Nat) : State :=
  forEach dies (fun s d => (s.wr (dramU d) Reg.DRAM_STAT_TRAINED 1).wr (dramU d) Reg.DRAM_STAT_SELF_REF 0) s

/-- Ports after their training: those listed are up with their round trips; each of the others that carries Hormen traffic
stays down and is logged. -/
def State.portsTrained (s : State) (ports : List (Nat × Nat)) : State :=
  forEach (List.range 12) (fun s p =>
    if s.rd (portU p) Reg.FAB_STAT_MODE = 1 then s
    else match ports.find? (fun x => x.1 == p) with
      | some x => s.portTrained p x.2
      | none => s.logEvent eLINK_DOWN (portU p) p) s

/-- Ethernet ports after their training: `eths` are the ports that are up. -/
def State.ethsTrained (s : State) (eths : List Nat) : State :=
  forEach (List.range 2) (fun s p =>
    if eths.contains p then (s.wr (ethU p) Reg.ETH_STAT_LINK 1).wr (ethU p) Reg.ETH_STAT_FECLOCK 1
    else s.logEvent eLINK_DOWN (ethU p) p) s

/-- START_UP_STAGE_DONE: the work of the stage in progress is over. `bad` says that a DRAM stack failed training twice;
`ports` are the Hormen ports that trained with their round trips in ns, `eths` the Ethernet ports. In recovery the ROM has
trained stack C0 and the ports (R483). -/
def execStartUpStageDone (bad : Bool) (ports : List (Nat × Nat)) (eths : List Nat) (s : State) :
    Host.Outcome State Fault Refusal :=
  if !s.sb.good || s.sb.low.isSome || s.rd sbU Reg.SB_STAT_HALTED = 1 || s.rd clkU Reg.CLK_STAT_ROOT_LOCK = 0 ||
      s.rd keeperU Reg.PWR_STAT_TRIP = 1 then done s
  else
    match s.stage with
    | 1 => done (s.wr sbU Reg.SB_STAT_STAGE 2)
    | 2 => done s.fuseStage
    | 3 => done s.verifyStage
    | 4 => done s.firmwareStage
    | 5 =>
      if bad then done (s.stageFails stageFault)
      else
        let t := s.stacksTrained (List.range 24)
        done ((if s.sb.kind < 2 then t.wr dkrU Reg.DKR_STAT_SCRUBBED 1 else t).wr sbU Reg.SB_STAT_STAGE 6)
    | 6 => done (((s.portsTrained ports).ethsTrained eths).wr sbU Reg.SB_STAT_STAGE 7)
    | 7 => done ((s.wr sbU Reg.SB_STAT_STAGE 8).allAlive)
    | 14 =>
      if bad then done (s.stageFails stageFault)
      else done (((s.stacksTrained [0]).portsTrained ports).allAlive)
    | _ => done s

end Sys2Proof.Machine
end

