-- ==== Sys2Proof/Machine/Bridge.lean ====
section
/-!
DEFINITION. The PCI Express endpoint of a bridge module: its resets and link, configuration requests, host accesses and the
host window (16_hormen_fabric R398 to R404; 19_keeper_minil R455, R459; 22_connectors_startup R517).
-/
namespace Sys2Proof.Machine

/-- The SRC that the bridge gives a host transaction (19_keeper_minil R455). -/
def State.hostSrc (s : State) : Nat := 65536 * s.provId + portU 0

/-- Whether the PCI Express link is up. -/
def State.pcieUp (s : State) : Bool := s.bridge && s.rd (portU 1) Reg.HB_STAT_LINKUP == 1

/-- A transaction in flight answered with ERR, its STATUS LINK_DOWN (R388), by its SRC and TID. -/
def State.failInFlight (s : State) (l : List (Nat × Nat)) : State :=
  forEach l (fun s x => s.emit (.txnErr x.1 x.2 6)) s

/-- The bridge function reset (R402; 19_keeper_minil R449): configuration space, HB_ATT, MSI-X state and the HOST
channels. -/
def State.bridgeReset (s : State) (inFlight : List (Nat × Nat)) : State :=
  let u := portU 1
  let t : State := { s with pcie := { perst := s.pcie.perst, training := s.pcie.training },
                            regs := mclear s.regs (32 * (2 ^ 24 * u + 0x8000)) (32 * (2 ^ 24 * u + 0x10000)) }
  (t.failInFlight inFlight).mbxReset (t.chansOf 2)

/-- FUNCTION_LEVEL_RESET, or a hot reset (R402); `inFlight` are the transactions in flight to the host window. -/
def execFunctionLevelReset (inFlight : List (Nat × Nat)) (s : State) : Host.Outcome State Fault Refusal :=
  done (if s.bridge then s.bridgeReset inFlight else s)

/-- HB_STAT of a link that is down. -/
def State.linkGone (s : State) : State :=
  let u := portU 1
  (((s.wr u Reg.HB_STAT_LINKUP 0).wr u Reg.HB_STAT_SPEED 0).wr u Reg.HB_STAT_WIDTH 0).wr u Reg.HB_STAT_FLIT 0

/-- PCIE_LINK_LOSS (R402): the bridge function is reset, and LINK_DOWN is logged for port 0. -/
def execPcieLinkLoss (inFlight : List (Nat × Nat)) (s : State) : Host.Outcome State Fault Refusal :=
  if s.pcieUp then
    let t := (s.bridgeReset inFlight).linkGone
    done (({ t with pcie := { t.pcie with training := true } } : State).logLinkDown 0 0)
  else done s

/-- PERST_N_ASSERT (22_connectors_startup R513): only the bridge function is reset. -/
def execPerstNAssert (inFlight : List (Nat × Nat)) (s : State) : Host.Outcome State Fault Refusal :=
  if s.bridge then
    let t : State := { s with pcie := { s.pcie with perst := false, training := false } }
    done (t.bridgeReset inFlight).linkGone
  else done { s with pcie := { s.pcie with perst := false } }

/-- PERST_N_RELEASE (22_connectors_startup R517). -/
def execPerstNRelease (s : State) : Host.Outcome State Fault Refusal := done { s with pcie := { s.pcie with perst := true } }

/-- Whether the fuse check is over, after which the endpoint may train. -/
def State.pastFuses (s : State) : Bool := decide (3 ≤ s.stage) && s.rd sbU Reg.SB_STAT_HALTED == 0

/-- PCIE_LINK_TRAINING (22_connectors_startup R517). -/
def execPcieLinkTraining (s : State) : Host.Outcome State Fault Refusal :=
  done (if s.bridge && s.pcie.perst && s.pastFuses && !s.pcieUp then { s with pcie := { s.pcie with training := true } } else s)

/-- PCIE_LINK_UP (R399): training completes with the negotiated speed, width and flit mode. -/
def execPcieLinkUp (speed width : Nat) (flit : Bool) (s : State) : Host.Outcome State Fault Refusal :=
  if s.bridge && s.pcie.training then
    let u := portU 1
    let t : State := { s with pcie := { s.pcie with training := false } }
    done ((((t.wr u Reg.HB_STAT_LINKUP 1).wr u Reg.HB_STAT_SPEED speed).wr u Reg.HB_STAT_WIDTH width).wrB u Reg.HB_STAT_FLIT flit)
  else done s

/-! ### Configuration requests (R399; 22_connectors_startup R517) -/

/-- A doubleword of the configuration space: the identity and the base address registers as Table 16-7 gives them. -/
def State.pciRead (s : State) (reg : Nat) : Nat :=
  let w := mget s.pcie.cfg reg 0
  match reg with
  | 0 => 0x0340 * 65536 + Config.pciVendor % 65536
  | 2 => 0x120000 * 256 + Config.pciConfig 2 0 % 256
  | 4 => w / 2 ^ 25 * 2 ^ 25 + 4
  | 5 => w
  | 6 => 12
  | 7 => w / 16 * 16
  | 8 => 0
  | 9 => 0
  | r => Config.pciConfig r w % 2 ^ 32

/-- CONFIGURATION_REQUEST: answered with Request Retry Status until stage 4 completes. -/
def execConfigurationRequest (write : Bool) (reg data : Nat) (s : State) : Host.Outcome State Fault Refusal :=
  if !s.bridge then done s
  else if !(s.firmwareRuns || s.inRecovery || s.sb.kind == 3) then done (s.emit (.config true 0))
  else if write then
    done (({ s with pcie := { s.pcie with cfg := mset 0 s.pcie.cfg reg (data % 2 ^ 32) } } : State).emit (.config false 0))
  else done (s.emit (.config false (s.pciRead reg)))

/-! ### Host accesses (R400, R404) -/

/-- An access completed with Unsupported Request. -/
def State.hostBad (s : State) : State := (s.bump (portU 1) Reg.HB_UR_COUNT 1).emit (.hostDone true [])

/-- The completion of a host access that a target has answered. -/
def hostAnswer (r : State × Ans) : State := if r.2.err ≠ 0 then r.1.hostBad else r.1.emit (.hostDone false r.2.data)

/-- A write to MBX_KRST (19_keeper_minil R459); the answer's error code. -/
def State.writeKrst (s : State) (src key : Nat) : State × Nat :=
  if !s.isHost src then (s, ePROT)
  else if key % 65536 = 0x4B52 then (s.keeperReset 3, 0)
  else (s, 0)

/-- The MSI-X table: 32 vectors of four doublewords. What lies behind it is free (assumption 42). -/
def State.msixAccess (s : State) (off : Nat) (data : Option (List Byte)) (n : Nat) : State × Ans :=
  let reg := off / 4
  match data with
  | some bs =>
    if reg < 128 then
      ({ s with pcie := { s.pcie with msix := mset 0 s.pcie.msix reg (leNat bs % 2 ^ 32) } }, .ok)
    else (s, .ok)
  | none =>
    if reg < 128 then (s, .ok (slice (leBytes 4 (mget s.pcie.msix reg 0)) (off % 4) n))
    else let (bs, t) := s.freshBytes n; (t, .ok bs)

/-- A host access to the bridge registers (R404): the host writes only HB_ATT. -/
def State.hostRegs (s : State) (off : Nat) (data : Option (List Byte)) (n : Nat) : State × Ans :=
  let u := portU 1
  if (touched off n).all (fun o => !s.regThere u o) then s.noSuch u off
  else match data with
    | none => s.readRegs u off n
    | some bs => if 0x8000 ≤ off then s.writeRegs s.hostSrc u off bs else (s, .ok)

/-- HOST_BAR0_ACCESS (R400). -/
def execHostBar0Access (off : Nat) (write : Bool) (data : List Byte) (len : Nat) (s : State) : Host.Outcome State Fault Refusal :=
  let d := if write then some data else none
  let n := if write then data.length else len
  if !s.pcieUp then done s
  else if off < 0x1000000 then
    if write && off = 0x20200 then
      let (t, e) := s.writeKrst s.hostSrc (leNat data)
      done (hostAnswer (t, ⟨e, [], none⟩))
    else done (hostAnswer (s.serveAt s.hostSrc (epAddr mbxU off) d n))
  else if off < 0x1010000 then done (hostAnswer (s.hostRegs (off % 0x10000) d n))
  else if off < 0x1011000 then done (hostAnswer (s.msixAccess (off % 0x10000) d n))
  else done s.hostBad

/-- HOST_BAR2_ACCESS (R400; 19_keeper_minil R455): window w of 1 GiB, whose target address names a module by provisional
id. -/
def execHostBar2Access (off : Nat) (write : Bool) (data : List Byte) (len : Nat) (s : State) : Host.Outcome State Fault Refusal :=
  let u := portU 1
  let w := off / 2 ^ 30 % 64
  let d := if write then some data else none
  let n := if write then data.length else len
  let t := 2 ^ 30 * s.rd u (Reg.HB_OWIN_LO_TBASE w) + 2 ^ 32 * s.rd u (Reg.HB_OWIN_HI_TBASE w) + off % 2 ^ 30
  if !s.pcieUp then done s
  else if s.rd u (Reg.HB_OWIN_LO_EN w) = 0 || (write && s.rd u (Reg.HB_OWIN_LO_W w) == 0) then done s.hostBad
  else if taModule t = s.provId then
    if s.gated (taDie t) then done { s with heldTx := s.heldTx ++ [⟨s.hostSrc, t, d, n, 0⟩] }
    else if taEp t && inWindow (taOff t) n 0 0x800000 && decide (taDie t < 24) && epOf (taUnit t) == 1 then
      done (s.serve ⟨s.hostSrc, t, d, n, 0⟩)
    else done (hostAnswer (s.serveAt s.hostSrc t d n))
  else if !taNames t then done ((if write then s.emit (.write s.hostSrc t data) else s.emit (.read s.hostSrc t n)).hostBad)
  else if write then done ((s.emit (.write s.hostSrc t data)).emit (.hostDone false []))
  else let (bs, s1) := (s.emit (.read s.hostSrc t n)).freshBytes n; done (s1.emit (.hostDone false bs))

/-- HOST_WINDOW_ACCESS (R401): an access to the host window; `host` is what host memory holds there. -/
def execHostWindowAccess (off : Nat) (write : Bool) (data : List Byte) (len : Nat) (host : List Byte) (s : State) :
    Host.Outcome State Fault Refusal :=
  if !s.bridge then done s
  else match s.hostAddr (off % 2 ^ 24) with
    | none => done (s.err eXLATE)
    | some a =>
      if !s.pcieUp then done (s.err eLINK_DOWN)
      else if write then done ((s.emit (.host a data)).ok)
      else done (s.ok (slice host 0 len))

/-- MBX_KRST (19_keeper_minil R459): a write to MBX_KRST by `src`. -/
def execMbxKrst (src key : Nat) (s : State) : Host.Outcome State Fault Refusal :=
  let (t, e) := s.writeKrst src key
  done (if e = 0 then t.ok else t.err e)

end Sys2Proof.Machine
end

