-- ==== Sys2Proof/Machine/Discover.lean ====
section
/-!
DEFINITION. Discovery of the fabric: offers, children, reports, numbering and tree routes (16_hormen_fabric R391;
19_keeper_minil R463, R471).
-/
namespace Sys2Proof.Machine

/-- A discovery message put on a port. -/
def State.discSend (s : State) (p kind arg : Nat) (recs : List TopoRec) : State :=
  s.emit (.disc p kind s.disc.num arg s.serial recs)

/-- This module's own record of a report. -/
def State.ownTopo (s : State) : TopoRec :=
  { depth := 0, upport := s.disc.parent.getD 15, serial := s.serial, bridge := s.bridge, fw := s.fwVer,
    nport := (List.range 12).foldr (fun p a => a * 16 + (if s.portUp p then s.rd (portU p) Reg.FAB_NBR_INFO_PORT else 15)) 0,
    nser := (List.range 12).map (fun p => if s.portUp p then s.nbrSerial p else 0) }

/-- A keeper that begins to serve a discovery number. -/
def State.discStart (s : State) (n : Nat) (root : Bool) : State :=
  { s with disc := { num := n, root := root, up := s.disc.up, down := s.disc.down } }

/-- FABRIC_DISCOVER at the root (R391 step 1). -/
def State.discRoot (s : State) : State :=
  let s1 := s.discStart (s.disc.num + 1) true
  let s2 := forEach s1.upPorts (fun s p => s.discSend p 0 0 []) s1
  { s2 with disc := { s2.disc with offered := true } }

/-- The report of a subtree: this module's record, then its children's reports by ascending port. -/
def State.topoTree (s : State) : List TopoRec :=
  s.ownTopo :: (sortBy (fun a b => Nat.ble a.1 b.1) s.disc.reports).flatMap (fun r =>
    r.2.map (fun t => { t with depth := t.depth + 1 }))

/-- A provisional id taken, the tree routes installed, and the children's ids sent (R391 step 4). -/
def State.assign (s : State) (id : Nat) : State :=
  let ranges := ((sortBy (fun a b => Nat.ble a.1 b.1) s.disc.reports).foldl (fun (p : List (Nat × Nat × Nat) × Nat) r =>
    (p.1 ++ [(r.1, p.2, r.2.length)], p.2 + r.2.length)) ([], id + 1)).1
  let s1 : State := { s with provId := id, disc := { s.disc with up := s.disc.parent, down := ranges } }
  forEach ranges (fun s r => s.discSend r.1 3 r.2.1 []) s1

/-- The parent of each record by its depth: the id of the latest record one level above. -/
def topoParents : List TopoRec → Nat → List (Nat × Nat) → List Nat
  | [], _, _ => []
  | t :: r, id, seen =>
    let up := match seen.find? (fun x => x.1 + 1 == t.depth) with
      | some x => x.2
      | none => 0x7FFF
    up :: topoParents r (id + 1) ((t.depth, id) :: seen)

/-- The bytes of a topology record (19_keeper_minil Table 19-10). -/
def TopoRec.bytes (t : TopoRec) (id parent : Nat) : List Byte :=
  leBytes 8 t.serial ++ leBytes 2 id ++ leBytes 2 parent ++ leBytes 4 (t.upport % 16 + 16 * b2n t.bridge) ++ leBytes 4 t.fw ++
    leBytes 6 t.nport ++ List.replicate 6 0 ++ t.nser.flatMap (leBytes 8)

/-- A target address that a command names, as this module serves it: without a job the module answers to its provisional
id (assumption 43). -/
def State.ownTa (s : State) (t : Nat) : Nat :=
  if s.job.modId = 0x7FFF && !bitAt t 63 && taModule t = s.provId then t % 2 ^ 48 + 2 ^ 48 * 0x7FFF else t

/-- Bytes written by the keeper to a target address, in accesses within aligned 64-byte blocks; the first error. -/
def State.putTarget (s : State) (ta : Nat) (bs : List Byte) : State × Nat :=
  let t := s.ownTa ta
  (blocks64 (bs.length + 1) t bs.length).foldl (fun (p : State × Nat) b =>
    if p.2 ≠ 0 then p
    else
      let (s1, a) := p.1.access (p.1.unitAddr keeperU) b.1 (some (slice bs (b.1 - t) b.2)) b.2
      (s1, a.err)) (s, 0)

/-- The root numbers the tree, assigns ids and writes the topology into the result buffer (R391 steps 4 and 5, R471). -/
def State.discFinish (s : State) : State :=
  let tree := s.topoTree
  let s1 := s.assign 0
  let s2 : State := { s1 with disc := { s1.disc with reported := true } }
  match s2.kpr.run with
  | none => s2
  | some m =>
    let rbuf := leAt m.payload 0 8
    let rlen := leAt m.payload 8 4
    let fit := Nat.min tree.length ((rlen - 64) / 128)
    let head := leBytes 4 0x4F504F54 ++ leBytes 2 tree.length ++ leBytes 2 0 ++ leBytes 4 s2.disc.num ++ List.replicate 52 0
    let recs := ((tree.zip (topoParents tree 0 [])).zipIdx.take fit).flatMap (fun x => x.1.1.bytes x.2 x.1.2)
    let (s3, e) := s2.putTarget rbuf ((head ++ recs).take rlen)
    if e ≠ 0 then s3.endLong e
    else s3.endLong 0 (leBytes 2 tree.length ++ leBytes 2 (b2n (Nat.blt fit tree.length)) ++ leBytes 4 s3.disc.num)

/-- OFFER_RECEIVE (R391 step 2). -/
def execOfferReceive (port num hops serial : Nat) (s : State) : Host.Outcome State Fault Refusal :=
  if !s.portUp port || num < s.disc.num then done s
  else if s.disc.num < num then
    let s1 := s.discStart num false
    done { s1 with disc := { s1.disc with collecting := true, offers := [(hops, serial, port)] } }
  else if s.disc.collecting then
    done { s with disc := { s.disc with offers := s.disc.offers ++ [(hops, serial, port)] } }
  else done s

/-- Whether an offer is to be preferred: fewest hops, then lowest serial, then lowest port. -/
def offerLe (a b : Nat × Nat × Nat) : Bool :=
  Nat.blt a.1 b.1 || (a.1 == b.1 && (Nat.blt a.2.1 b.2.1 || (a.2.1 == b.2.1 && Nat.ble a.2.2 b.2.2)))

/-- OFFER_COLLECT_END (R391 step 2): 500 µs after the first offer. -/
def execOfferCollectEnd (s : State) : Host.Outcome State Fault Refusal :=
  match (sortBy offerLe s.disc.offers).head? with
  | none => done s
  | some o =>
    if s.disc.collecting then
      let p := o.2.2
      let s1 : State := { s with disc := { s.disc with collecting := false, hops := o.1 + 1, parent := some p, offered := true } }
      let s2 := s1.discSend p 1 0 []
      done (forEach (s2.upPorts.filter (fun q => !(q == p))) (fun s q => s.discSend q 0 (o.1 + 1) []) s2)
    else done s

/-- CHILD_RECEIVE (R391). -/
def execChildReceive (port num : Nat) (s : State) : Host.Outcome State Fault Refusal :=
  if s.portUp port && num = s.disc.num && !s.disc.kids.contains port then
    done { s with disc := { s.disc with kids := s.disc.kids ++ [port] } }
  else done s

/-- Whether every child has reported. -/
def DiscSt.allIn (d : DiscSt) : Bool := d.kids.all (fun k => d.reports.any (fun r => r.1 == k))

/-- REPORT_SEND (R391 step 3): 2 ms after the keeper's own offers, once every child has reported; a root without children
numbers its tree. -/
def execReportSend (s : State) : Host.Outcome State Fault Refusal :=
  if s.disc.offered && !s.disc.reported && s.disc.allIn then
    if s.disc.root then done s.discFinish
    else
      match s.disc.parent with
      | none => done s
      | some p => done (({ s with disc := { s.disc with reported := true } } : State).discSend p 2 0 s.topoTree)
  else done s

/-- REPORT_RECEIVE (R391 steps 3 and 4): a child's report; with the last one the root numbers the tree. -/
def execReportReceive (port num : Nat) (recs : List TopoRec) (s : State) : Host.Outcome State Fault Refusal :=
  if num = s.disc.num && s.disc.kids.contains port && !s.disc.reports.any (fun r => r.1 == port) then
    let s1 : State := { s with disc := { s.disc with reports := (port, recs) :: s.disc.reports } }
    done (if s1.disc.root && !s1.disc.reported && s1.disc.allIn then s1.discFinish else s1)
  else done s

/-- ASSIGN_RECEIVE (R391 step 4). -/
def execAssignReceive (port num id : Nat) (s : State) : Host.Outcome State Fault Refusal :=
  if num = s.disc.num && s.disc.parent = some port then done (s.assign (id % 2 ^ 15)) else done s

end Sys2Proof.Machine
end

