-- ==== Sys2Proof/Machine/Media.lean ====
section
/-!
DEFINITION. The developer engines: decode pipelines, tensorizers and batch slots (14_video_ingest_developer R345 to R354).
-/
namespace Sys2Proof.Machine

/-! ### Frames (R347 to R349) -/

/-- The film-grain and field choice of a stream, as the decoding takes it. -/
def srChoice (r : Nat) : Nat := b2n (srFgs r) + 2 * b2n (srFields r)

/-- What has been decoded for a sample: a window stream's decoding runs on across its clips. -/
def StreamRun.decOf (x : StreamRun) (m : Sample) : DecodeSt := if srWindow x.rec_ then x.dec else m.dec

/-- The bytes of the access units of a decoding. -/
def DecodeSt.bytes (d : DecodeSt) : List (List Byte) := d.units.map (fun a => a.data)

/-- What the standard says of displayed frame `n`. -/
def StreamRun.info (x : StreamRun) (d : DecodeSt) (n : Nat) : Config.FrameInfo :=
  Config.frameInfo (srCodec x.rec_) (srChoice x.rec_) d.bytes n

/-- The displayed frame that is kept frame `q` of a sample (R343, R351). -/
def StreamRun.frameOf (x : StreamRun) (m : Sample) (q : Nat) : Nat :=
  (if srWindow x.rec_ then x.skip0 + (m.index - x.clip0) * srFrames x.rec_ else m.skip) +
    srTphase x.rec_ + q * srTstride x.rec_

/-- Whether a picture exceeds what the pipelines accept of the stream (R347). -/
def tooLarge (r : Nat) (i : Config.FrameInfo) : Bool :=
  decide (8192 < i.w) || decide (4320 < i.h) || decide (srMaxW r < i.w) || decide (srMaxH r < i.h)

/-- Whether a bitstream error of the sample that frame `n` belongs to has been logged (R349): the frames of a window stream
belong to its clips. -/
def StreamRun.toldOf (x : StreamRun) (d : DecodeSt) (n : Nat) : Bool :=
  d.told && !(srWindow x.rec_ && decide (x.skip0 ≤ n) && (n - x.skip0) % srFrames x.rec_ == 0)

/-- The next frame of a decoding (R348, R349): none while its access units are still to come. -/
def State.decodeNext (s : State) (u slot : Nat) (x : StreamRun) (d : DecodeSt) : State × Option DecodeSt :=
  let n := d.frames
  let i := x.info d n
  let flag (s : State) : State := (s.bump u Reg.DEC_ERR_COUNT 1).bump (strU slot) Reg.STR_FLAG_COUNT 1
  let s1 := (s.wr u Reg.DEC_STAT_CODEC (srCodec x.rec_)).wr u Reg.DEC_STAT_SLOT slot
  if i.found then
    let corrupt := ((d.units[i.unit]?).map (fun a => a.corrupt)).getD false
    let bad := i.err || corrupt || tooLarge x.rec_ i || d.spoiled || i.refs.any (fun k => d.flagged.contains k)
    let s2 := s1.bump u Reg.DEC_FRAMES_COUNT 1
    let s3 := if bad then flag s2 else s2
    let s4 := if i.err && !x.toldOf d n then s3.logEvent eDECODE_ERR u else s3
    (s4, some { d with frames := n + 1, flagged := if bad then n :: d.flagged else d.flagged, told := x.toldOf d n || i.err })
  else if d.ended then
    (flag s1, some { d with told := x.toldOf d n, frames := n + 1, flagged := n :: d.flagged, trunc := true })
  else (s, none)

/-- DECODE_FRAME (R348): pipeline `pipe` of media die `die` decodes the next displayed frame of a sample, or of a window
stream. -/
def execDecodeFrame (die pipe slot draw : Nat) (s : State) : Host.Outcome State Fault Refusal :=
  let u := unitOf (24 + die % 8) 0 (pipe % 16)
  let k := slot % 16
  match s.stream k with
  | none => done s
  | some x =>
    if srWindow x.rec_ then
      match s.decodeNext u k x x.dec with
      | (s1, some d) => done (s1.setStream k { x with dec := d })
      | (_, none) => done s
    else
      match x.sample draw with
      | none => done s
      | some m =>
        if !m.arrived || m.skip + srFrames x.rec_ ≤ m.dec.frames then done s
        else
          match s.decodeNext u k x m.dec with
          | (s1, some d) => done (s1.setStream k (x.setSample { m with dec := d }))
          | (_, none) => done s

/-! ### Tensorizing (R351 to R353) -/

/-- The crop's start and length in one dimension; a length of 0 means the full dimension. -/
def cropOf (start len full : Nat) : Nat × Nat := if len = 0 then (0, full) else (start, len)

/-- A number as FP32. -/
def fnat (v : Nat) : Nat := toF32 (.fin false v 0)

/-- A linear step between two values (R352). -/
def flerp (a b w : Nat) : Nat := fadd a (fmul w (fsub b a))

/-- The matrix used: 1 BT.601, 2 BT.709, 3 BT.2020, 4 none (R353). -/
def cscOf (r : Nat) (i : Config.FrameInfo) : Nat :=
  if srCsc r ≠ 0 then srCsc r
  else if i.matrix = 1 then 2
  else if i.matrix = 5 || i.matrix = 6 then 1
  else if i.matrix = 9 || i.matrix = 10 then 3
  else if 576 < i.h then 2 else 1

/-- The range used: 1 limited, 2 full (R353). -/
def rangeOf (r : Nat) (i : Config.FrameInfo) : Nat :=
  if srRange r ≠ 0 then srRange r else if i.range = 2 then 2 else 1

/-- A picture: the stream's record, what the standard says of the frame, and its samples by plane, x and y. -/
structure Picture where
  rec_ : Nat
  info : Config.FrameInfo
  at_ : Nat → Nat → Nat → Nat

/-- A chroma sample at a luma position (R351 step 2): co-sited across, midway down, edges repeated. -/
def Picture.chroma (p : Picture) (plane x y : Nat) : Nat :=
  if p.info.mono then fnat (2 ^ (p.info.depth - 1))
  else
    let cw := ceilDiv p.info.w 2
    let ch := ceilDiv p.info.h 2
    let row (j : Nat) : Nat :=
      let a := fnat (p.at_ plane (x / 2) j)
      if x % 2 = 0 then a else flerp a (fnat (p.at_ plane (Nat.min (x / 2 + 1) (cw - 1)) j)) fhalf
    if y = 0 then row 0
    else
      let q := 2 * y - 1
      let j0 := Nat.min (q / 4) (ch - 1)
      let j1 := Nat.min (j0 + 1) (ch - 1)
      flerp (row j0) (row j1) (frat false (q % 4) 4)

/-- The three channels at a luma position after colour conversion (R353). -/
def Picture.colour (p : Picture) (x y c : Nat) : Nat :=
  let n := p.info.depth
  let full := rangeOf p.rec_ p.info == 2
  let norm (v mid lim scale : Nat) : Nat :=
    if full then fdiv (fsub v (fnat mid)) (fnat (2 ^ n - 1)) else fdiv (fsub v (fnat (lim * 2 ^ (n - 8)))) (fnat (scale * 2 ^ (n - 8)))
  let yy := norm (fnat (p.at_ 0 x y)) 0 16 219
  let cb := norm (p.chroma 1 x y) (2 ^ (n - 1)) 128 224
  let cr := norm (p.chroma 2 x y) (2 ^ (n - 1)) 128 224
  let m := cscOf p.rec_ p.info
  if m = 4 then (match c with | 0 => yy | 1 => cb | _ => cr)
  else
    let (kr, kb) := match m with
      | 1 => (frat false 299 1000, frat false 114 1000)
      | 2 => (frat false 2126 10000, frat false 722 10000)
      | _ => (frat false 2627 10000, frat false 593 10000)
    let two := fnat 2
    let r := fadd yy (fmul (fmul two (fsub fone kr)) cr)
    let b := fadd yy (fmul (fmul two (fsub fone kb)) cb)
    match c with
    | 0 => r
    | 1 => fdiv (fsub (fsub yy (fmul kr r)) (fmul kb b)) (fsub (fsub fone kr) kb)
    | _ => b

/-- One dimension resized from length `len` to `d` at place `u` (R352). -/
def resize1 (area : Bool) (len d u : Nat) (a : Nat → Nat) : Nat :=
  if area && d < len then
    let lo := u * len / d
    let hi := ceilDiv ((u + 1) * len) d
    let ps := (List.range (hi - lo)).map (fun j =>
      let i := lo + j
      let w := Nat.min ((i + 1) * d) ((u + 1) * len) - Nat.max (i * d) (u * len)
      fmul (frat false w len) (a i))
    match ps with
    | [] => 0
    | q :: r => r.foldl fadd q
  else
    let x := fsub (fmul (fadd (fnat u) fhalf) (frat false len d)) fhalf
    let top := fnat (len - 1)
    let y := if (ofF32 x).lt Num.zero then 0 else if (ofF32 top).lt (ofF32 x) then top else x
    let i0 := match ofF32 y with
      | .fin _ m e => if e < 0 then m / 2 ^ (-e).toNat else m * 2 ^ e.toNat
      | _ => 0
    flerp (a i0) (a (Nat.min (i0 + 1) (len - 1))) (fsub y (fnat i0))

/-- One output value before conversion (R351 steps 1 to 5). -/
def Picture.output (p : Picture) (u v c : Nat) : Nat :=
  let r := p.rec_
  let (x0, sw) := cropOf (srCropX r) (srCropW r) p.info.w
  let (y0, sh) := cropOf (srCropY r) (srCropH r) p.info.h
  let line (y : Nat) : Nat := resize1 (srArea r) sw (srOutW r) u (fun x => p.colour (x0 + x) (y0 + y) c)
  fmul (fsub (resize1 (srArea r) sh (srOutH r) v line) (srMean r c)) (srRstd r c)

/-- Whether the crop rectangle lies within a frame (R351). -/
def cropFits (r : Nat) (i : Config.FrameInfo) : Bool :=
  let (x0, sw) := cropOf (srCropX r) (srCropW r) i.w
  let (y0, sh) := cropOf (srCropY r) (srCropH r) i.h
  decide (x0 + sw ≤ i.w) && decide (y0 + sh ≤ i.h)

/-- The bytes of an element of a stream's output. -/
def srElem (r : Nat) : Nat := ((fmtOfCode (bitsOf (srCvt r) 4 0)).getD .bf16).bytes

/-- The bytes of a tubelet row. -/
def srRow (r : Nat) : Nat := srTt r * srTp r * srTp r * 3 * srElem r

/-- The address of a batch slot (R345, R346). -/
def slotAddr (r step slot : Nat) : Nat := (srOut r + step % 2 * srBufStride r + slot * srSlotStride r) % 2 ^ 64

/-- The offset, within a batch slot, of the run of elements of kept frame `q` at line `v` and column `u`, a multiple of
TP (R345). -/
def runOff (r q u v : Nat) : Nat :=
  let tp := srTp r
  let row := (q / srTt r * (srOutH r / tp) + v / tp) * (srOutW r / tp) + u / tp
  64 + row * srRow r + ((q % srTt r * tp + v % tp) * tp) * 3 * srElem r

/-- The runs of a kept frame: the line and the first column of each. -/
def frameRuns (r : Nat) : List (Nat × Nat) :=
  if srTp r = 0 then []
  else (List.range (srOutH r)).flatMap (fun v => (List.range (srOutW r / srTp r)).map (fun k => (v, k * srTp r)))

/-- A write of the batch's that meets an error is logged. -/
def State.batchWrite (s : State) (ag : Agent) (u va : Nat) (bs : List Byte) : State :=
  let (s1, r) := s.vwrite ag (va % 2 ^ 64) bs
  if r.err = 0 then s1 else s1.logEvent r.err u r.addr

/-- A kept frame converted and written (R351 steps 6 and 7), with its events. -/
def State.writeFrame (s : State) (ag : Agent) (u : Nat) (p : Picture) (base q : Nat) : State × Events :=
  let r := p.rec_
  let f := (fmtOfCode (bitsOf (srCvt r) 4 0)).getD .bf16
  (frameRuns r).foldl (fun (a : State × Events) x =>
    let es := (List.range (srTp r)).flatMap (fun i => (List.range 3).map (fun c =>
      encodeElem f (ovfOf (bitsOf (srCvt r) 6 5)) .rne (ofF32 (p.output (x.2 + i) x.1 c))))
    (a.1.batchWrite ag u (base + runOff r q x.2 x.1) (codeBytes f.bits (es.map (fun e => e.1))),
      es.foldl (fun ev e => ev.add e.2) a.2)) (s, Events.none)

/-- TENSORIZE_FRAME (R351): tensorizer `unit` of media die `die` takes kept frame `q` of a sample. -/
def execTensorizeFrame (die unit slot draw q : Nat) (upsets : List (Nat × Nat)) (s0 : State) :
    Host.Outcome State Fault Refusal :=
  let s := s0.upset upsets
  let d := 24 + die % 8
  let u := unitOf d 0 (16 + unit % 4)
  let k := slot % 16
  match s.stream k with
  | none => done s
  | some x =>
    match x.sample draw with
    | none => done s
    | some m =>
      let r := x.rec_
      let dec := x.decOf m
      let n := x.frameOf m q
      if srKept r ≤ q || m.kept.contains q || m.readFail || m.tooLong || dec.frames ≤ n then done s
      else
        let m1 : Sample := { m with kept := q :: m.kept }
        let i := x.info dec n
        if dec.flagged.contains n then done (s.setStream k (x.setSample m1))
        else if !cropFits r i then
          done ((s.setStream k (x.setSample { m1 with bad := q :: m.bad })).bump (strU k) Reg.STR_FLAG_COUNT 1)
        else
          let p : Picture := ⟨r, i, Config.frameSample (srCodec r) (srChoice r) dec.bytes n⟩
          let ag : Agent := ⟨s.unitAddr u, rowFourTu d, 4⟩
          let (s1, ev) := s.writeFrame ag u p (slotAddr r m.step m.slot) q
          let time := (List.range (srTt r)).map (fun j => q / srTt r * srTt r + j)
          let rows := if time.all (fun j => m1.kept.contains j) then srOutH r / srTp r * (srOutW r / srTp r) else 0
          let s2 := ((s1.bump u Reg.TNZ_CLAMP_COUNT ev.clamp).bump u Reg.TNZ_NONFIN_COUNT ev.nonfin).bump u
            Reg.TNZ_QSAT_COUNT ev.qsat
          done ((s2.bump u Reg.TNZ_TUBES_COUNT rows).setStream k (x.setSample { m1 with ev := m.ev ++ [(u, ev)] }))

/-! ### Batch slots (R345, R346, R350) -/

/-- The batch event of a stream's step, once every slot of it is written (R346). -/
def State.batchEvent (s : State) (x : StreamRun) (step : Nat) : State :=
  let r := x.rec_
  if (List.range (srSps r)).all (fun j => x.written.contains (step, j)) then
    forEach (setBits 24 (srDieMask r)) (fun s d =>
      forEach (setBits 16 (srCmask r)) (fun s c => s.raiseEvt d c (2 ^ (srEvt r + step % 2))) s) s
  else s

/-- Events of a slot: they count as events of the step whose batch it belongs to, at once if that step has been released,
else at its release (R346). -/
def State.slotEvents (s : State) (slot : Nat) (x : StreamRun) (m : Sample) : State :=
  if m.step ≤ s.stepNow then forEach m.ev (fun s e => s.addEvents e.1 (srLayer x.rec_) e.2) s
  else s.setStream slot { x with held := x.held ++ m.ev.map (fun e => (m.step, e.1, e.2)) }

/-- The header of a slot (Table 14-4). -/
def slotHeader (m : Sample) (status fmask w h depth matrix range : Nat) : List Byte :=
  leBytes 8 m.draw ++ leBytes 6 m.index ++ leBytes 2 status ++ leBytes 8 fmask ++ leBytes 2 w ++ leBytes 2 h ++
    leBytes 1 depth ++ leBytes 1 matrix ++ leBytes 1 range ++ List.replicate 33 0

/-- SLOT_WRITE_COMPLETE (R350): a batch slot is finished under ERRPOL with its header. -/
def execSlotWriteComplete (slot draw : Nat) (upsets : List (Nat × Nat)) (s0 : State) : Host.Outcome State Fault Refusal :=
  let s := s0.upset upsets
  let k := slot % 16
  let u := strU k
  match s.stream k with
  | none => done s
  | some x =>
    match x.sample draw with
    | none => done s
    | some m =>
      let r := x.rec_
      let qs := List.range (srKept r)
      if !(m.readFail || m.tooLong || qs.all (fun q => m.kept.contains q)) then done s
      else
        let dec := x.decOf m
        let flagged := qs.filter (fun q =>
          m.readFail || m.tooLong || m.bad.contains q || dec.flagged.contains (x.frameOf m q))
        let drop := m.readFail || (!flagged.isEmpty && !srMaskPol r)
        let mask := !drop && !flagged.isEmpty
        let fmask := flagged.foldl (fun a q => a + 2 ^ q) 0
        let trunc := !srWindow r && m.dec.trunc
        let status := b2n (!drop) + 2 * b2n drop + 4 * b2n mask + 8 * b2n m.readFail + 16 * b2n trunc
        let base := slotAddr r m.step m.slot
        let ag := s.ingestAgent k
        let i := x.info dec (x.frameOf m 0)
        let none_ := m.readFail || m.tooLong || !i.found
        -- The size and colour of a frame that was never decoded are free values.
        let (bs, s1) := if none_ then s.freshBytes 7 else ([], s)
        let hdr := if none_ then
            slotHeader m status fmask (leAt bs 0 2) (leAt bs 2 2) (leAt bs 4 1) (leAt bs 5 1) (leAt bs 6 1)
          else slotHeader m status fmask i.w i.h i.depth (cscOf r i) (rangeOf r i)
        let zero (s : State) (q : Nat) : State :=
          forEach (frameRuns r) (fun s v =>
            s.batchWrite ag u (base + runOff r q v.2 v.1) (List.replicate (srTp r * 3 * srElem r) 0)) s
        let s2 := (forEach (if drop then qs else flagged) zero s1).batchWrite ag u base hdr
        let s3 := (s2.bump u Reg.STR_DONE_COUNT 1).bump u Reg.STR_DROP_COUNT (b2n drop)
        let s4 := (s3.bump u Reg.STR_MASK_COUNT (b2n mask)).bump u Reg.STR_FLAG_COUNT
          (if m.tooLong then srFrames r else 0)
        let x1 : StreamRun := { x with samples := x.samples.filter (fun y => y.draw != draw),
                                       written := (m.step, m.slot) :: x.written }
        let x2 := if srWindow r then x1 else x1.freeBytes
        done (((s4.setStream k x2).slotEvents k x2 m).batchEvent x2 m.step)

/-- Whether every slot of every ingest batch of the step is written (12_update_and_fixer R301). -/
def State.ingestDone (s : State) : Bool :=
  s.streams.all (fun e => match e.2 with
    | none => true
    | some x => (List.range (srSps x.rec_)).all (fun j => x.written.contains (s.stepNow, j)))

end Sys2Proof.Machine
end

