-- ==== Sys2Proof/Machine/Descriptor.lean ====
section
/-!
DEFINITION. Transfers as their descriptors say: traversal, padding, conversion, the accesses at both ends, what a load
and a store move, the packer and the bytes of the sources as they stood at issue (07_streams_layout R159 to R169, R180,
R183, R184; 04_weight_sparsity R107 to R111).
-/
namespace Sys2Proof.Machine

/-! ### Descriptors (Tables 7-1 and 7-2) -/

/-- The tag of a descriptor (Table 7-1). -/
def dTag (d : Nat) : Nat := bitsOf d 455 448
def dBase (d : Nat) : Nat := bitsOf d 63 0
def dStr (d n : Nat) : Int := sext 40 (bitsOf d (64 * n + 103) (64 * n + 64))
def dCnt (d n : Nat) : Nat := bitsOf d (64 * n + 127) (64 * n + 104)
/-- The low padding of dimension `n`. -/
def dPadLo (d n : Nat) : Nat := if n < 2 then bitsOf d (391 + 8 * n) (384 + 8 * n) else 0
/-- The high padding of dimension `n`. -/
def dPadHi (d n : Nat) : Nat := if n < 2 then bitsOf d (407 + 8 * n) (400 + 8 * n) else 0
def dPadVal (d : Nat) : Nat := bitsOf d 431 416
def dFmt (d : Nat) : Option Fmt := fmtOfCode (bitsOf d 436 432)
def dCvt (d : Nat) : Nat := bitsOf d 447 440
def dCvtFmt (d : Nat) : Option Fmt := fmtOfCode (convCode (dCvt d))
def dPerm (d : Nat) : Nat := bitsOf d 462 456
def dStore (d : Nat) : Bool := ctlBit d 0
def dMcast (d : Nat) : Bool := ctlBit d 1
def dMset (d : Nat) : Nat := bitsOf d 468 465
def dMatPad (d : Nat) : Bool := ctlBit d 6
def dPack (d : Nat) : Bool := ctlBit d 7
def dExpand (d : Nat) : Bool := ctlBit d 8
def dOvfFault (d : Nat) : Bool := ctlBit d 9
def dLocal (d : Nat) : Nat := bitsOf d 511 480

/-- The local extent of dimension `n` (R164). -/
def dExt (d n : Nat) : Nat := dCnt d n + dPadLo d n + dPadHi d n

/-- The local extents of the five dimensions. -/
def dExts (d : Nat) : List Nat := (List.range 5).map (dExt d)

/-- The elements of the local region, pad positions among them. -/
def dTotal (d : Nat) : Nat := (dExts d).foldl (· * ·) 1

/-- The digits of a number in mixed radix, the lowest first. -/
def digits : List Nat → Nat → List Nat
  | [], _ => []
  | r :: rs, n => n % r :: digits rs (n / r)

/-- The number that digits in mixed radix make. -/
def undigits : List Nat → List Nat → Nat
  | r :: rs, x :: xs => x + r * undigits rs xs
  | _, _ => 0

/-- The local position of the element whose place in remote order, dimension 0 innermost, is `q` (R164). -/
def dLocalPos (d q : Nat) : Nat :=
  let e := dExts d
  let j := digits e q
  let p := permDecode (dPerm d)
  undigits (p.map (fun n => e.getD n 1)) (p.map (fun n => j.getD n 0))

/-- The place in remote order of the element at a local position. -/
def dRemotePos (d pos : Nat) : Nat :=
  let e := dExts d
  let p := permDecode (dPerm d)
  let dig := digits (p.map (fun n => e.getD n 1)) pos
  undigits e ((List.range 5).map (fun n => match p.findIdx? (fun x => x == n) with
    | some k => dig.getD k 0
    | none => 0))

/-- The indices of the element at a place in remote order: negative or beyond the count in the pad range (R168). -/
def dIndex (d q : Nat) : List Int :=
  (digits (dExts d) q).zipIdx.map (fun p => (p.1 : Int) - dPadLo d p.2)

/-- Whether indices fall in the pad range. -/
def dIsPad (d : Nat) (i : List Int) : Bool :=
  i.zipIdx.any (fun p => decide (p.1 < 0) || decide ((dCnt d p.2 : Int) ≤ p.1))

/-- The address of an element (R163). -/
def dAddr (d : Nat) (i : List Int) : Nat :=
  wrapInt 64 (i.zipIdx.foldl (fun a p => a + p.1 * dStr d p.2) (dBase d : Int))

/-- The base of the MX row of an element: the terms of dimensions 1 to 4 (R165). -/
def dRowAddr (d : Nat) (i : List Int) : Nat := dAddr d (0 :: i.tail)

/-- The element size at the local end, for an unscaled format. -/
def dLocalFmt (d : Nat) : Option Fmt := if dStore d then dFmt d else dCvtFmt d

/-- The bytes of the local region (R164, R165). -/
def dLocalBytes (d : Nat) : Nat :=
  match dLocalFmt d with
  | none => 0
  | some f =>
    if f.isMX then
      let line := (dExts d).getD ((permDecode (dPerm d)).getD 0 0) 1
      if line = 0 then 0 else dTotal d / line * (ceilDiv line 256 * f.stripBytes)
    else dTotal d * f.bytes

/-! ### Accesses (R167) -/

/-- Runs of bytes as accesses of up to 64 bytes within one aligned block; a run that goes on where the last access ended
shares it. -/
def joinRuns (runs : List (Nat × Nat)) : List (Nat × Nat) :=
  (runs.flatMap (fun r => blocks64 (r.2 + 1) r.1 r.2)).foldl (fun acc r =>
    match acc with
    | [] => [r]
    | x :: rest =>
      if x.1 + x.2 = r.1 && r.1 / 64 = x.1 / 64 then (x.1, x.2 + r.2) :: rest else r :: acc) [] |>.reverse

/-- An access of a core's engine to the remote end: translation, then the access. `remote` is the error with which
another module answers it, 0 for none. -/
def State.remoteAcc (s : State) (ag : Agent) (need remote va : Nat) (data : Option (List Byte)) (n : Nat) :
    State × Ans :=
  let (s1, err, t) := s.translate ag.die ag.code va need
  if err ≠ 0 then (s1, .bad err)
  else if remote ≠ 0 && taModule t != s1.job.modId then (s1, .bad remote)
  else s1.access ag.src t data n

/-- Reads at the remote end, in the order given, up to the first fault: for each access its bytes, none where it was not
made. -/
def State.readRuns (s : State) (ag : Agent) (need remote : Nat) (accs : List (Nat × Nat)) :
    State × List (Option (List Byte)) × Option XferFault :=
  accs.foldl (fun (p : State × List (Option (List Byte)) × Option XferFault) a =>
    match p.2.2 with
    | some _ => (p.1, p.2.1 ++ [none], p.2.2)
    | none =>
      let (s1, r) := p.1.remoteAcc ag need remote a.1 none a.2
      if r.err = 0 then (s1, p.2.1 ++ [some r.data], none)
      else (s1, p.2.1 ++ [none], some ⟨r.err, a.1, false⟩)) (s, [], none)

/-- A list begun at another place, going round. -/
def rotate {α : Type} (k : Nat) (l : List α) : List α :=
  let n := l.length
  if n = 0 then l else l.drop (k % n) ++ l.take (k % n)

/-- The reads of a transfer made from access `first` on, going round: their bytes in the order of the accesses. -/
def State.readAll (s : State) (ag : Agent) (need remote first : Nat) (accs : List (Nat × Nat)) :
    State × List (Option Byte) × Option XferFault :=
  let n := accs.length
  let (s1, got, flt) := s.readRuns ag need remote (rotate first accs)
  let back := if n = 0 then got else rotate (n - first % n) got
  (s1, (back.zip accs).flatMap (fun p => match p.1 with
    | some bs => (List.range p.2.2).map (fun i => some (bs.getD i 0))
    | none => List.replicate p.2.2 none), flt)

/-- Bytes that were all read. -/
def allRead (l : List (Option Byte)) : Option (List Byte) :=
  if l.all (fun b => b.isSome) then some (l.map (fun b => b.getD 0)) else none

/-! ### Elements on their way -/

/-- An element: its code in an unscaled format, and its value. -/
abbrev Elem := Nat × Num

/-- An element of an unscaled format from its bytes. -/
def elemOf (f : Fmt) (bs : List Byte) : Elem := (leNat bs, decodeElem f (leNat bs))

/-- The elements that a part of a strip holds, from its first `nb` scale bytes and blocks (R43, R165). -/
def stripPart (f : Fmt) (nb : Nat) (bs : List Byte) : List Elem :=
  (List.range nb).flatMap (fun b =>
    (codesOf f.bits 32 (slice bs (nb + b * f.blockBytes) f.blockBytes)).map (fun c =>
      (0, clipF32 (decodeMX f (bs.getD b 0).toNat c))))

/-- One element in the destination's unscaled format: unchanged where the formats agree, else converted (R171). -/
def convElem (f g : Fmt) (cvt : Nat) (x : Elem) : List Byte × Events :=
  if f = g then (leBytes g.bytes x.1, Events.none)
  else
    let (c, ev) := encodeElem g (ovfOf (convOvf cvt)) .rne x.2
    (leBytes g.bytes c, ev)

/-- The pad element in the destination's unscaled format (R168, R169). -/
def padElem (d : Nat) (g : Fmt) : List Byte × Events :=
  let (c, ev) := encodeElem g (ovfOf (convOvf (dCvt d))) .rne (decodeElem .bf16 (dPadVal d))
  (leBytes g.bytes c, ev)

/-- A run of elements as strips of an MX format (R165, R47, R53, R54). -/
def lineStrips (g : Fmt) (cvt : Nat) (xs : List Num) : List Byte × Events :=
  let fit := convOvf cvt == 1
  (List.range (ceilDiv xs.length 256)).foldl (fun (p : List Byte × Events) k =>
    let (bs, ev) := encodeStrip g fit (((xs.drop (256 * k)).take 256).map (fun x => (x, Rounding.rne)))
    (p.1 ++ bs, p.2.add ev)) ([], Events.none)

/-- A part of a destination: where it starts, its length, and its bytes where every element of it was read. -/
structure DestPart where
  at_ : Nat
  len : Nat
  data : Option (List Byte)
  ev : Events
  deriving DecidableEq, Repr

/-! ### Loads -/

/-- The runs that a load reads at the remote end, with how many of their bytes each element or strip takes: an unscaled
element each its own, an MX row the scale bytes and blocks of its needed blocks, strip by strip. -/
def loadRuns (d : Nat) (f : Fmt) : List (Nat × Nat) :=
  if f.isMX then
    let rows := dCnt d 1 * dCnt d 2 * dCnt d 3 * dCnt d 4
    (List.range rows).flatMap (fun r =>
      let i : List Int := 0 :: (digits [dCnt d 1, dCnt d 2, dCnt d 3, dCnt d 4] r).map Int.ofNat
      let a := dRowAddr d i
      (List.range (ceilDiv (dCnt d 0) 256)).flatMap (fun k =>
        let nb := ceilDiv (Nat.min 256 (dCnt d 0 - 256 * k)) 32
        let b := (a + k * f.stripBytes) % 2 ^ 64
        [(b, nb), ((b + 8) % 2 ^ 64, nb * f.blockBytes)]))
  else
    (List.range (dTotal d)).filterMap (fun q =>
      let i := dIndex d q
      if dIsPad d i then none else some (dAddr d i, f.bytes))

/-- The interior elements that the bytes of the runs give, in remote order; none where some byte was not read. -/
def loadElems (d : Nat) (f : Fmt) (bytes : List (Option Byte)) : List (Option Elem) :=
  if f.isMX then
    let rows := dCnt d 1 * dCnt d 2 * dCnt d 3 * dCnt d 4
    let parts := (List.range rows).flatMap (fun _ =>
      (List.range (ceilDiv (dCnt d 0) 256)).map (fun k => Nat.min 256 (dCnt d 0 - 256 * k)))
    (parts.foldl (fun (p : List (Option Elem) × List (Option Byte)) n =>
      let nb := ceilDiv n 32
      let len := nb + nb * f.blockBytes
      let els := match allRead (p.2.take len) with
        | some bs => ((stripPart f nb bs).take n).map some
        | none => List.replicate n none
      (p.1 ++ els, p.2.drop len)) ([], bytes)).1
  else
    let w := f.bytes
    (List.range (bytes.length / w)).map (fun k =>
      (allRead ((bytes.drop (w * k)).take w)).map (elemOf f))

/-- The interior place of the element at a place in remote order. -/
def interiorPos (d q : Nat) : Nat :=
  undigits ((List.range 5).map (dCnt d)) ((dIndex d q).map (fun x => x.toNat))

/-- The element at every local position of a load: none for a pad position, else the element if it was read. -/
def localElems (d : Nat) (els : List (Option Elem)) : List (Option (Option Elem)) :=
  (List.range (dTotal d)).map (fun pos =>
    let q := dRemotePos d pos
    if dIsPad d (dIndex d q) then none else some ((els.getD (interiorPos d q) none)))

/-- The parts of a load's local region, by offset from LOCAL: one an element, or one a strip. -/
def loadParts (d : Nat) (f g : Fmt) (els : List (Option Elem)) : List DestPart :=
  let loc := localElems d els
  if g.isMX then
    let line := (dExts d).getD ((permDecode (dPerm d)).getD 0 0) 1
    let per := ceilDiv line 256
    (List.range (if line = 0 then 0 else dTotal d / line)).flatMap (fun l =>
      (List.range per).map (fun k =>
        let xs := ((loc.drop (l * line)).take line |>.drop (256 * k)).take 256
        let vals : List (Option Num) := xs.map (fun x => match x with
          | none => some (decodeElem .bf16 (dPadVal d))
          | some e => e.map Prod.snd)
        let at_ := (l * per + k) * g.stripBytes
        if vals.all (fun v => v.isSome) then
          let (bs, ev) := lineStrips g (dCvt d) (vals.map (fun v => v.getD .zero))
          ⟨at_, g.stripBytes, some bs, ev⟩
        else ⟨at_, g.stripBytes, none, Events.none⟩))
  else
    loc.zipIdx.map (fun p =>
      let at_ := p.2 * g.bytes
      match p.1 with
      | none => let (bs, ev) := padElem d g; ⟨at_, g.bytes, some bs, ev⟩
      | some (some x) => let (bs, ev) := convElem f g (dCvt d) x; ⟨at_, g.bytes, some bs, ev⟩
      | some none => ⟨at_, g.bytes, none, Events.none⟩)

/-- The first strip of a transfer's remote MX end that is off an 8-byte boundary (02_number_formats R46). -/
def stripFault (d : Nat) (f : Fmt) : Option XferFault :=
  if f.isMX then
    ((List.range (dCnt d 1 * dCnt d 2 * dCnt d 3 * dCnt d 4)).map (fun r =>
      dRowAddr d (0 :: (digits [dCnt d 1, dCnt d 2, dCnt d 3, dCnt d 4] r).map Int.ofNat))).find? (fun a => a % 8 != 0) |>.map
        (fun a => ⟨eALIGN, a, false⟩)
  else none

/-- A load's source read, as the parts of its destination: all of them where nothing faulted. -/
def State.loadData (s : State) (ag : Agent) (d remote first : Nat) : State × List DestPart × Option XferFault :=
  match dFmt d, dCvtFmt d with
  | some f, some g =>
    let need := if dMcast d then permMcast else permRead
    match stripFault d f with
    | some e => (s, [], some e)
    | none =>
      let (s1, bytes, flt) := s.readAll ag need remote first (joinRuns (loadRuns d f))
      (s1, loadParts d f g (loadElems d f bytes), flt)
  | _, _ => (s, [], none)

/-! ### The local end -/

/-- A write of a core's scratchpad by a DMA engine (R144, R174): the first offset that refuses it, and its code. -/
def State.localWrite (s : State) (src die core off : Nat) (bs : List Byte) : State × Option XferFault :=
  (blocks64 (bs.length + 1) off bs.length).foldl (fun (p : State × Option XferFault) b =>
    match p.2 with
    | some _ => p
    | none =>
      let data := slice bs (b.1 - off) b.2
      let bar := p.1.spBar src die core b.1 b.2
      if bar ≠ 0 then (p.1, some ⟨bar, b.1, true⟩)
      else
        let (s1, a) := p.1.spAccess src die core b.1 (some data) b.2
        (s1, if a.err = 0 then none else some ⟨a.err, b.1, true⟩)) (s, none)

/-- A read of a core's scratchpad by its DMA engine. -/
def State.localRead (s : State) (src die core off n : Nat) : State × Option (List Byte) × Option XferFault :=
  (blocks64 (n + 1) off n).foldl (fun (p : State × Option (List Byte) × Option XferFault) b =>
    match p.2.1 with
    | none => p
    | some bs =>
      let bar := p.1.spBar src die core b.1 b.2
      if bar ≠ 0 then (p.1, none, some ⟨bar, b.1, true⟩)
      else
        let (s1, a) := p.1.spAccess src die core b.1 none b.2
        if a.err = 0 then (s1, some (bs ++ a.data), none) else (s1, none, some ⟨a.err, b.1, true⟩)) (s, some [], none)

/-- Bytes mixed with what stood before, byte by byte as free values choose. -/
def State.mixBytes (s : State) (old new : List Byte) : List Byte × State :=
  ((new.zip old).zipIdx.map (fun p => if Config.freeNat (s.free + p.2) % 2 = 0 then p.1.1 else p.1.2),
   { s with free := s.free + new.length })

/-! ### Stores -/

/-- The elements of a store's local region, in local order, none where a byte was not read. -/
def storeElems (d : Nat) (f : Fmt) (bytes : List Byte) : List Elem :=
  if f.isMX then
    let line := (dExts d).getD ((permDecode (dPerm d)).getD 0 0) 1
    let per := ceilDiv line 256
    (List.range (if line = 0 then 0 else dTotal d / line)).flatMap (fun l =>
      ((List.range per).flatMap (fun k =>
        (stripElems f (slice bytes ((l * per + k) * f.stripBytes) f.stripBytes)).map (fun x => (0, clipF32 x)))).take line)
  else (List.range (dTotal d)).map (fun p => elemOf f (slice bytes (p * f.bytes) f.bytes))

/-- The runs that a store writes at the remote end, with their events (R165, R169). -/
def storeRuns (d : Nat) (f g : Fmt) (els : List Elem) : List (Nat × List Byte) × Events :=
  let elAt (q : Nat) : Elem := els.getD (dLocalPos d q) (0, .zero)
  if g.isMX then
    let rows := dExt d 1 * dCnt d 2 * dCnt d 3 * dCnt d 4
    (List.range rows).foldl (fun (p : List (Nat × List Byte) × Events) r =>
      let row := (List.range (dExt d 0)).map (fun j => j + dExt d 0 * r)
      let inner := row.filter (fun q => !dIsPad d (dIndex d q))
      match inner with
      | [] => p
      | q0 :: _ =>
        let (bs, ev) := lineStrips g (dCvt d) (inner.map (fun q => (elAt q).2))
        (p.1 ++ [(dRowAddr d (dIndex d q0), bs)], p.2.add ev)) ([], Events.none)
  else
    (List.range (dTotal d)).foldl (fun (p : List (Nat × List Byte) × Events) q =>
      let i := dIndex d q
      if dIsPad d i && !dMatPad d then p
      else
        let (bs, ev) := if dIsPad d i then padElem d g else convElem f g (dCvt d) (elAt q)
        (p.1 ++ [(dAddr d i, bs)], p.2.add ev)) ([], Events.none)

/-- Runs of bytes to be written as accesses (R167). -/
def joinWrites (runs : List (Nat × List Byte)) : List (Nat × List Byte) :=
  let bytes := runs.flatMap (fun r => r.2)
  ((joinRuns (runs.map (fun r => (r.1, r.2.length)))).foldl (fun (p : List (Nat × List Byte) × Nat) a =>
    (p.1 ++ [(a.1, slice bytes p.2 a.2)], p.2 + a.2)) ([], 0)).1

/-- Writes at the remote end up to the first fault; the answers that hold the transfer open, with their addresses. -/
def State.writeRuns (s : State) (ag : Agent) (remote : Nat) (accs : List (Nat × List Byte)) :
    State × List (Nat × Nat) × Option XferFault :=
  accs.foldl (fun (p : State × List (Nat × Nat) × Option XferFault) a =>
    match p.2.2 with
    | some _ => p
    | none =>
      let (s1, r) := p.1.remoteAcc ag permWrite remote a.1 (some a.2) a.2.length
      if r.err = 0 then (s1, p.2.1 ++ (match r.held with
        | some k => [(k, a.1)]
        | none => []), none)
      else (s1, p.2.1, some ⟨r.err, a.1, false⟩)) (s, [], none)

/-- The runs of the local region that a store reads, by offset from LOCAL: its elements that are no pad positions (R169),
of an MX strip the scale bytes and the blocks that hold one. -/
def localRuns (d : Nat) (f : Fmt) : List (Nat × Nat) :=
  let inner (pos : Nat) : Bool := !dIsPad d (dIndex d (dRemotePos d pos))
  if f.isMX then
    let line := (dExts d).getD ((permDecode (dPerm d)).getD 0 0) 1
    let per := ceilDiv line 256
    (List.range (if line = 0 then 0 else dTotal d / line * per)).flatMap (fun k =>
      let blocks := (List.range 8).filter (fun b => (List.range 32).any (fun i =>
        let j := 256 * (k % per) + 32 * b + i
        decide (j < line) && inner (k / per * line + j)))
      let at_ := k * f.stripBytes
      blocks.map (fun b => (at_ + b, 1)) ++ blocks.map (fun b => (at_ + 8 + b * f.blockBytes, f.blockBytes)))
  else ((List.range (dTotal d)).filter inner).map (fun p => (p * f.bytes, f.bytes))

/-- The accesses of a store's local end. -/
def localAccs (d : Nat) (f : Fmt) : List (Nat × Nat) := joinRuns ((localRuns d f).map (fun r => (dLocal d + r.1, r.2)))

/-- Parts of a core's scratchpad read in ascending order, filled up with zeros to a region of `n` bytes from `base`. -/
def State.localGather (s : State) (src die core base n : Nat) (accs : List (Nat × Nat)) :
    State × Option (List Byte) × Option XferFault :=
  let (s1, got, flt) := accs.foldl (fun (p : State × Option (List Byte) × Option XferFault) a =>
    match p.2.1 with
    | none => p
    | some bs =>
      match p.1.localRead src die core a.1 a.2 with
      | (s1, some data, _) => (s1, some (bs ++ List.replicate (a.1 - base - bs.length) 0 ++ data), none)
      | (s1, none, e) => (s1, none, e)) (s, some [], none)
  (s1, got.map (fun bs => bs ++ List.replicate (n - bs.length) 0), flt)

/-- What a store writes at the remote end, with its events. -/
def State.storeData (s : State) (ag : Agent) (die core d : Nat) :
    State × List (Nat × List Byte) × Events × Option XferFault :=
  match dFmt d, dCvtFmt d with
  | some f, some g =>
    match stripFault d g with
    | some e => (s, [], Events.none, some e)
    | none =>
      match s.localGather ag.src die core (dLocal d) (dLocalBytes d) (localAccs d f) with
      | (s1, some bytes, _) =>
        let (runs, ev) := storeRuns d f g (storeElems d f bytes)
        (s1, joinWrites runs, ev, none)
      | (s1, none, flt) => (s1, [], Events.none, flt)
  | _, _ => (s, [], Events.none, none)

/-! ### The packer (04_weight_sparsity R107 to R111) -/

/-- Whether one source value has a larger magnitude than another; a NaN is larger than any number (R108). -/
def magOver (x y : Num) : Bool :=
  match x, y with
  | .nan, .nan => false
  | .nan, _ => true
  | _, .nan => false
  | .inf _, .inf _ => false
  | .inf _, _ => true
  | _, .inf _ => false
  | .fin _ m e, .fin _ n k => !magLe m e n k

/-- Whether a value is +0 or -0. -/
def Num.isZero : Num → Bool
  | .fin _ m _ => m == 0
  | _ => false

/-- What the packer keeps of a group: its two indices, the larger of the kept magnitudes, and whether the group was
overfull; none for a blank group (R108). -/
def packGroup (g : List Num) : Option (Nat × Nat × Num × Bool) :=
  let nz := (List.range 4).filter (fun i => !(g.getD i .zero).isZero)
  if nz.isEmpty then none
  else
    let best (l : List Nat) : Nat := l.foldl (fun b i => if magOver (g.getD i .zero) (g.getD b .zero) then i else b) (l.headD 0)
    let a := best nz
    let b := match nz.filter (fun i => !(i == a)) with
      | [] => ((List.range 4).filter (fun i => !(i == a))).headD 0
      | l => best l
    some (Nat.min a b, Nat.max a b, g.getD a .zero, decide (2 < nz.length))

/-- The groups of a tile blanked beyond its capacity (R109): of lower rank first, and of equal ranks the later. -/
def dropGroups (cap : Nat) (gs : List (Nat × Num)) : List Nat :=
  let order := sortBy (fun a b => !magOver b.2 a.2) gs
  (order.drop cap).map (fun p => p.1)

/-- A tile as the packer has worked it out: each group's kept indices, the overfull groups and the drops in the order in
which they are found. -/
structure PackPlan where
  keep : List (Option (Nat × Nat))
  overfull : List Nat
  drops : List Nat
  deriving DecidableEq, Repr

/-- The plan of a tile from its dense source, row by row. -/
def packPlan (kt cap : Nat) (rows : List (List Num)) : PackPlan :=
  let per := kt / 4
  let found := (List.range (16 * per)).map (fun b =>
    packGroup (((rows.getD (b / per) []).drop (4 * (b % per))).take 4))
  let live := found.zipIdx.filterMap (fun p => p.1.map (fun q => (p.2, q.2.2.1)))
  let ovr := found.zipIdx.filterMap (fun p => match p.1 with
    | some q => if q.2.2.2 then some p.2 else none
    | none => none)
  let drops := dropGroups cap live
  ⟨found.zipIdx.map (fun p => if drops.contains p.2 then none else p.1.map (fun q => (q.1, q.2.1))), ovr, drops.reverse⟩

/-- The dense codes of a planned tile, row by row, with the scale bytes of an MX format: kept values converted, every other
position zero. -/
def packCodesOf (f g : Fmt) (cvt kt : Nat) (rows : List (List Elem)) (plan : PackPlan) :
    List (List Nat) × List (List Nat) × Events :=
  let per := kt / 4
  let kept (r k : Nat) : Bool :=
    match plan.keep.getD (r * per + k / 4) none with
    | some (a, b) => k % 4 == a || k % 4 == b
    | none => false
  let res := rows.zipIdx.map (fun p =>
    let el (k : Nat) : Elem := p.1.getD k (0, .zero)
    if g.isMX then
      let blks := (List.range (kt / 32)).map (fun b =>
        encodeBlock g (convOvf cvt == 1) (List.replicate 32 .rne)
          ((List.range 32).map (fun j => if kept p.2 (32 * b + j) then (el (32 * b + j)).2 else Num.zero)))
      (blks.flatMap (fun b => b.2.1), blks.map (fun b => b.1), blks.foldl (fun a b => a.add b.2.2) Events.none)
    else
      let cs := (List.range kt).map (fun k =>
        if kept p.2 k then
          (if f = g then ((el k).1, Events.none) else encodeElem g (ovfOf (convOvf cvt)) .rne (el k).2)
        else (0, Events.none))
      (cs.map (fun c => c.1), [], cs.foldl (fun a c => a.add c.2) Events.none))
  (res.map (fun r => r.1), res.map (fun r => r.2.1), res.foldl (fun a r => a.add r.2.2) Events.none)

/-- Bytes filled with zeros up to a length. -/
def padTo (n : Nat) (l : List Byte) : List Byte := l ++ List.replicate (n - l.length) 0

/-- A whole tile: FORM, FMT, KT and CAP as the destination holds them, all else computed (R95 to R99). -/
def packTile (g : Fmt) (form fmt kt cap events : Nat) (plan : PackPlan) (codes scales : List (List Nat)) : List Byte :=
  let per := kt / 4
  if form = 1 then
    let size := denseSize g kt
    let head := leBytes 1 1 ++ leBytes 1 fmt ++ leBytes 2 kt ++ leBytes 2 (tileG kt) ++ leBytes 2 cap ++
      leBytes 2 0x100 ++ leBytes 2 0 ++ leBytes 2 size ++ leBytes 2 events ++ (List.range 16).flatMap (fun _ => leBytes 1 per)
    let data := if g.isMX then
        (List.range 16).flatMap (fun r =>
          (scales.getD r []).map (fun x => BitVec.ofNat 8 x) ++ codeBytes g.bits (codes.getD r []))
      else
        (List.range (kt / g.sliceK)).flatMap (fun sl => (List.range 16).flatMap (fun r =>
          codeBytes g.bits (((codes.getD r []).drop (sl * g.sliceK)).take g.sliceK)))
    padTo size (padTo 0x100 head ++ data)
  else
    let live := plan.keep.zipIdx.filterMap (fun p => p.1.map (fun q => (p.2, q)))
    let nb := live.length
    let rownb := (List.range 16).map (fun r => (live.filter (fun e => e.1 / per == r)).length)
    let voff := compVoff g kt
    let moff := compMoff g kt nb
    let size := compSize g kt nb
    let head := leBytes 1 0 ++ leBytes 1 fmt ++ leBytes 2 kt ++ leBytes 2 nb ++ leBytes 2 cap ++ leBytes 2 voff ++
      leBytes 2 moff ++ leBytes 2 size ++ leBytes 2 events ++ rownb.flatMap (fun n => leBytes 1 n)
    let bitmap := codeBytes 1 (plan.keep.map (fun k => b2n k.isNone))
    let sc := scales.flatMap (fun r => r.map (fun x => BitVec.ofNat 8 x))
    let vals := live.flatMap (fun e =>
      let row := codes.getD (e.1 / per) []
      let k := 4 * (e.1 % per)
      [row.getD (k + e.2.1) 0, row.getD (k + e.2.2) 0])
    let metas := live.map (fun e => e.2.1 + 4 * e.2.2)
    padTo size (padTo moff (padTo voff (head ++ bitmap ++ sc) ++ codeBytes g.bits vals) ++ codeBytes 4 metas)

/-- The dense rows of one tile of a pack transfer, from the bytes of its local part (R184). -/
def packRows (f : Fmt) (kt : Nat) (bytes : List Byte) : List (List Elem) :=
  let line := if f.isMX then ceilDiv kt 256 * f.stripBytes else kt * f.bytes
  (List.range 16).map (fun r =>
    let bs := slice bytes (r * line) line
    if f.isMX then
      ((List.range (ceilDiv kt 256)).flatMap (fun k =>
        (stripElems f (slice bs (k * f.stripBytes) f.stripBytes)).map (fun x => (0, clipF32 x)))).take kt
    else (List.range kt).map (fun k => elemOf f (slice bs (k * f.bytes) f.bytes)))

/-- The bytes of one tile's dense data at the local end. -/
def tileDense (f : Fmt) (kt : Nat) : Nat := 16 * (if f.isMX then ceilDiv kt 256 * f.stripBytes else kt * f.bytes)

/-- What the next tile of a pack transfer comes to: the tile's bytes, how far the next one lies, and the counts of its
events. -/
structure PackStep where
  tile : List Byte
  stride : Nat
  ovr : Nat
  drops : Nat
  ev : Events
  deriving DecidableEq, Repr

/-- The next tile of a pack transfer worked out (R107 to R110). With the overfull-fault bit set, the first overfull group
or drop is counted and comes with the fault that ends the transfer. -/
def State.packNext (s : State) (ag : Agent) (die core d remote : Nat) (x : Xfer) :
    State × Option PackStep × Option XferFault :=
  match dFmt d, dCvtFmt d with
  | some f, some g =>
    let a := (dBase d + x.pos) % 2 ^ 64
    let (s1, got, flt) := s.readRuns ag permWrite remote (joinRuns [(a, 32)])
    match flt, allRead (got.flatMap (fun g => (g.getD []).map some)) with
    | some e, _ => (s1, none, some e)
    | none, none => (s1, none, none)
    | none, some hb =>
      let h := tileHead hb
      let n := tileDense f h.kt
      let lo := dLocal d + x.tiles * n
      match s1.localRead ag.src die core lo n with
      | (s2, none, e) => (s2, none, e)
      | (s2, some bytes, _) =>
        let rows := packRows f h.kt bytes
        let plan := packPlan h.kt (if h.form = 1 then tileG h.kt else h.cap) (rows.map (fun r => r.map (fun e => e.2)))
        let firstBad := match plan.overfull, plan.drops with
          | b :: _, _ => some b
          | [], b :: _ => some b
          | [], [] => none
        match (if dOvfFault d then firstBad else none) with
        | some b =>
          let per := h.kt / 4
          let line := n / 16
          (s2, some ⟨[], 0, b2n !plan.overfull.isEmpty, b2n plan.overfull.isEmpty, Events.none⟩,
            some ⟨ePACK_OVERFULL, lo + (b / per) * line + (if f.isMX then 8 else 0) + 4 * (b % per) * f.bits / 8, true⟩)
        | none =>
          let (codes, scales, ev) := packCodesOf f g (dCvt d) h.kt rows plan
          let events := satAdd plan.overfull.length plan.drops.length 0xFFFF
          let tile := packTile g h.form h.fmt h.kt h.cap events plan codes scales
          let stride := if h.form = 1 then denseSize g h.kt else compSize g h.kt h.cap
          (s2, some ⟨tile, stride, plan.overfull.length, plan.drops.length, ev⟩, none)
  | _, _ => (s, none, none)

/-- The dense rows of a sparse tile: its codes, with their values (R111). -/
def expandRows (f : Fmt) (bs : List Byte) : List (List Elem) :=
  let h := tileHead bs
  if h.form = 1 then
    (List.range 16).map (fun r =>
      if f.isMX then
        (stripElems f (slice bs (h.voff + r * f.stripBytes) f.stripBytes)).map (fun x => (0, clipF32 x))
      else
        (List.range h.kt).map (fun k =>
          elemOf f (slice bs (h.voff + 256 * (k / f.sliceK) + 16 * r + k % f.sliceK * f.bytes) f.bytes)))
  else
    (List.range 16).map (fun r =>
      let row := tileRowCodes bs h f r
      (List.range h.kt).map (fun k =>
        match (row.filter (fun p => p.1 == k)).getLast? with
        | some (_, c) => (c, if f.isMX then clipF32 (tileVal bs h f r k c) else decodeElem f c)
        | none => (0, Num.zero)))

/-- Dense rows in the local format of an expand transfer. -/
def denseBytes (f g : Fmt) (cvt kt : Nat) (rows : List (List Elem)) : List Byte × Events :=
  rows.foldl (fun (p : List Byte × Events) row =>
    if g.isMX then
      let (bs, ev) := lineStrips g cvt ((row.take kt).map (fun e => e.2))
      (p.1 ++ bs, p.2.add ev)
    else
      ((List.range kt).map (fun k => convElem f g cvt (row.getD k (0, .zero)))).foldl
        (fun (q : List Byte × Events) e => (q.1 ++ e.1, q.2.add e.2)) p) ([], Events.none)

/-- The next tile of an expand transfer: its dense bytes with their offset, the tile's SIZE and the events. -/
def State.expandNext (s : State) (ag : Agent) (d remote : Nat) (x : Xfer) :
    State × Option (Nat × List Byte × Nat × Events) × Option XferFault :=
  match dFmt d, dCvtFmt d with
  | some f, some g =>
    let a := (dBase d + x.pos) % 2 ^ 64
    let (s1, got, flt) := s.readRuns ag permRead remote (joinRuns [(a, 32)])
    match flt with
    | some e => (s1, none, some e)
    | none =>
      let hb := got.flatMap (fun b => b.getD [])
      let h := tileHead hb
      let (s2, rest, flt2) := s1.readRuns ag permRead remote (joinRuns [((a + 32) % 2 ^ 64, h.size - 32)])
      match flt2 with
      | some e => (s2, none, some e)
      | none =>
        let (bs, ev) := denseBytes f g (dCvt d) (dCnt d 0) (expandRows f (hb ++ rest.flatMap (fun b => b.getD [])))
        (s2, some (dLocal d + x.tiles * tileDense g (dCnt d 0), bs, h.size, ev), none)
  | _, _ => (s, none, none)

/-! ### Sources as they stood at issue (R183) -/

/-- The bytes of this module's memory that accesses to virtual addresses reach, as they stand, by address. -/
def State.spanCells (s : State) (ag : Agent) (need : Nat) (accs : List (Nat × Nat)) : List Host.Cell :=
  accs.flatMap (fun a =>
    let r := s.translate ag.die ag.code a.1 need
    let t := r.2.2
    if r.2.1 = 0 && taModule t == s.job.modId then
      (List.range a.2).map (fun i => (t % 2 ^ 48 + i, Memory.get s.mem (t % 2 ^ 48 + i)))
    else [])

/-- The bytes of parts of a core's scratchpad, by address. -/
def State.localCells (s : State) (die core : Nat) (accs : List (Nat × Nat)) : List Host.Cell :=
  accs.flatMap (fun a => (List.range a.2).map (fun i =>
    let t := epAddr (spU die core) (a.1 + i)
    (t, Memory.get s.mem t)))

/-- The places of sparse tiles stored one after another, each at the SIZE in its header (R184). -/
def State.tileSpans (s : State) (ag : Agent) : Nat → Nat → List (Nat × Nat)
  | 0, _ => []
  | n + 1, a =>
    let size := leAt ((s.spanCells ag permRead (joinRuns [(a, 32)])).map (fun c => c.2)) 12 2
    (a, size) :: State.tileSpans s ag n ((a + size) % 2 ^ 64)

/-- What a transfer of a core reads of this module's memory. -/
def State.sourceCells (s : State) (ag : Agent) (die core d : Nat) : List Host.Cell :=
  match dFmt d with
  | none => []
  | some f =>
    if dPack d then s.localCells die core [(dLocal d, dCnt d 2 * tileDense f (dCnt d 0))]
    else if dExpand d then s.spanCells ag permRead (joinRuns (s.tileSpans ag (dCnt d 2) (dBase d)))
    else if dStore d then s.localCells die core (localAccs d f)
    else s.spanCells ag (if dMcast d then permMcast else permRead) (joinRuns (loadRuns d f))

/-- The sources of a core's transfers whose descriptors have come kept as they stand at this issue. -/
def State.keepSources (s : State) (die core : Nat) : State :=
  let c := s.core die core
  let ag := s.dmaAgent die core
  s.setCore die core { c with xfers := c.xfers.map (fun x =>
    match x.desc, x.snap with
    | some d, none => { x with snap := some (s.sourceCells ag die core d) }
    | _, _ => x) }

/-- Reads made as if memory still held the bytes that a transfer found at its issue; memory itself stays. -/
def State.asIssued {α : Type} (s : State) (x : Xfer) (f : State → State × α) : State × α :=
  let r := f { s with mem := (x.snap.getD []).foldl (fun m c => Memory.set m c.1 c.2) s.mem }
  ({ r.1 with mem := s.mem }, r.2)

end Sys2Proof.Machine
end

