-- ==== Sys2Proof/Machine/Sequencer.lean ====
section
/-!
DEFINITION. The core sequencer: bundles, scalar registers, waits, control flow, read slots, and the cycle in which all
scheduled units advance (09_core_sequencer R205 to R237; 03_cube_array R84, R88, R525).
-/
namespace Sys2Proof.Machine

/-! ### Scalar registers (R212, R226) -/

/-- A scalar register as a read in cycle `t` finds it: every result visible by `t`, the one visible last remaining, and
of those visible in one cycle the one issued last. -/
def CoreSt.sval (c : CoreSt) (r t : Nat) : Nat :=
  if r = 0 then 0
  else
    (sortBy (fun a b => decide (a.1 ≤ b.1)) (c.spend.filter (fun w => w.2.1 == r && decide (w.1 ≤ t)))).foldl
      (fun _ w => w.2.2) (mget c.sreg r 0)

/-- Results visible by cycle `t` put in their registers. -/
def CoreSt.landScalars (c : CoreSt) (t : Nat) : CoreSt :=
  { c with
    sreg := (sortBy (fun a b => decide (a.1 ≤ b.1)) (c.spend.filter (fun w => decide (w.1 ≤ t)))).foldl
      (fun m w => if w.2.1 = 0 then m else mset 0 m w.2.1 w.2.2) c.sreg
    spend := c.spend.filter (fun w => !decide (w.1 ≤ t)) }

/-- The offset that an XR field adds: it is read at the bundle's decode, one cycle before cycle `t` (R217). -/
def CoreSt.xrBase (c : CoreSt) (xr t : Nat) : Nat :=
  if xr = 0 then 0 else if t = 0 then mget c.sreg xr 0 else c.sval xr (t - 1)

/-- The SALU functions (Table 9-2). -/
def salu (fn a b : Nat) : Nat :=
  let m := 2 ^ 64
  match fn with
  | 0 => (a + b) % m
  | 1 => (a + (m - b % m)) % m
  | 2 => (a * b) % m
  | 3 => a &&& b
  | 4 => a ||| b
  | 5 => (a * 2 ^ (b % 64)) % m
  | 6 => a / 2 ^ (b % 64)
  | _ => Nat.min a b

/-! ### Loops and branches (R214, R215) -/

/-- Where execution goes on when the last bundle `e` of a body has issued: the innermost loop that ends there and has
iterations left starts its body again; loops that are done are left. -/
def loopNext (e : Nat) : List (Nat × Nat × Nat) → Nat × List (Nat × Nat × Nat)
  | [] => (e + 1, [])
  | (b, le, left) :: r =>
    if le = e then (if 1 < left then (b, (b, le, left - 1) :: r) else loopNext e r) else (e + 1, (b, le, left) :: r)

/-! ### Bundles (Table 9-1) -/

/-- The bundle at a place of a core's instruction memory, as a 512-bit number. -/
def State.bundleAt (s : State) (die core pc : Nat) : Nat := s.numAt (epAddr (seqU die core) (0x100000 + 64 * pc)) 64

def bCtl (b : Nat) : Nat := bitsOf b 31 0
def bXfer (b : Nat) : Nat := bitsOf b 63 32
def bRd (b n : Nat) : Nat := bitsOf b (95 + 32 * n) (64 + 32 * n)
def bCube (b c : Nat) : Nat := bitsOf b (215 + 24 * c) (192 + 24 * c)
def bMv (b : Nat) : Nat := bitsOf b 319 288
def bVu (b : Nat) : Nat := bitsOf b 383 320
def bDrain (b : Nat) : Nat := bitsOf b 431 384
def bImm (b : Nat) : Nat := bitsOf b 495 432

/-- Whether a cube sub-slot of a bundle has a meaning in cycle `t`: known operand codes, not both operands stationary, two
formats of one operand class (R55), no transposition of an MX operand (R68), and a sparse B only streamed beside a
stationary A and not transposed (R101). -/
def cubeLegal (q : CubeSt) (t v : Nat) : Bool :=
  if bitAt v 0 then
    let sl := cubeSlot v
    let (a, b, sp) := q.mode t
    let pair := match fmtOfCode a, fmtOfCode b with
      | some fa, some fb => (pairKind fa fb).isSome && !(sl.ta && fa.isMX) && !(sl.tb && (fb.isMX || sp))
      | _, _ => false
    decide (sl.asrc < 3) && decide (sl.bsrc < 3) && !(decide (0 < sl.asrc) && decide (0 < sl.bsrc)) && pair &&
      (!sp || (decide (0 < sl.asrc) && sl.bsrc == 0))
  else true

/-- Whether every slot of a bundle has a meaning in cycle `t` (R225). -/
def CoreSt.bundleLegal (c : CoreSt) (t b : Nat) : Bool :=
  let ctl := bCtl b
  let op := bitsOf ctl 5 0
  [0, 1, 2, 3, 4, 5, 8, 9, 0x0A, 0x0B, 0x0C, 0x0E, 0x0F].contains op && !(op == 9 && bitsOf ctl 17 16 == 3) &&
  decide (bitsOf (bXfer b) 2 0 < 6) &&
  (vuSlot (bVu b)).legal &&
  (List.range 4).all (fun k => cubeLegal (mget c.cubes k {}) t (bCube b k)) &&
  (!bitAt (bMv b) 0 || (mvFmt (bitsOf (bMv b) 18 14)).isSome)

/-! ### Addresses of slots (R213, R217) -/

/-- The offset of a slot, and the code with which a bad one halts the core; `len` bytes are accessed. -/
def CoreSt.slotOff (c : CoreSt) (off xr t len : Nat) : Nat × Nat :=
  let a := (off * 64 + c.xrBase xr t) % 2 ^ 64
  (a, if a % 64 ≠ 0 then eALIGN else if spBytes < a + len then eXLATE else 0)

/-- A halt cause of a cycle: the code and its details. -/
structure Halt where
  code : Nat
  d0 : Nat
  d1 : Nat
  d2 : Nat
  d3 : Nat
  deriving DecidableEq, Repr

/-- A halt for a bad offset. -/
def badOffset (code off pc t : Nat) : Halt := ⟨code, off, pc, t, 0⟩

/-- A halt whose details are the bundle and the cycle. -/
def plainHalt (code pc t : Nat) : Halt := ⟨code, pc, t, 0, 0⟩

/-! ### Reads of one cycle -/

/-- What a read of a cycle brings, by slot: the bytes, none where nothing was read. -/
structure CycleReads where
  rd : List (Option (List Byte))
  sld : Option (List Byte)
  vu : Option (List Byte)
  drain : List (Option (List Byte))
  deriving DecidableEq, Repr

/-- One scheduled access to be made: its slot (0 to 3 read slots, 4 SLD, 5 vector unit, 6 on drain reads, 100 on
writes) and the access. -/
abbrev SlotAcc := Nat × SAcc

/-- The read slots' accesses and the halts of their offsets. -/
def CoreSt.rdAccesses (c : CoreSt) (pc t b : Nat) : List SlotAcc × List Halt :=
  (List.range 4).foldl (fun (p : List SlotAcc × List Halt) n =>
    let v := bRd b n
    if bitsOf v 1 0 = 0 then p
    else
      let len := if bitAt v 21 then 128 else 512
      let (a, bad) := c.slotOff (bitsOf v 18 2) (bitsOf v 20 19) t len
      if bad = 0 then (p.1 ++ [(n, ⟨n, a, len, true, []⟩)], p.2) else (p.1, p.2 ++ [badOffset bad a pc t])) ([], [])

/-- The access of SLD (R213). -/
def CoreSt.sldAccess (c : CoreSt) (pc t b : Nat) : List SlotAcc × List Halt :=
  let ctl := bCtl b
  if bitsOf ctl 5 0 = 0x0C then
    let a := (bitsOf (bImm b) 22 0 + c.sval (bitsOf ctl 15 11) t) % 2 ^ 64
    if a % 8 ≠ 0 then ([], [badOffset eALIGN a pc t])
    else if spBytes < a + 8 then ([], [badOffset eXLATE a pc t])
    else ([(4, ⟨4, a, 8, true, []⟩)], [])
  else ([], [])

/-- The access of a vector load or store. -/
def CoreSt.vuAccess (c : CoreSt) (pc t b : Nat) (rnd : Nat → Nat) : List SlotAcc × List Halt :=
  let v := vuSlot (bVu b)
  if v.op = 0x30 || v.op = 0x31 then
    let (a, bad) := c.slotOff v.off v.xr t v.len
    if bad ≠ 0 then ([], [badOffset bad a pc t])
    else if v.op = 0x30 then ([(5, ⟨4, a, v.len, true, []⟩)], [])
    else ([(100, ⟨4, a, v.len, false, (c.vuStore v rnd).map (fun p => (a + p.1, p.2))⟩)], [])
  else ([], [])

/-- The fields of the drain slot (R223). -/
structure DrainSlot where
  en : Bool
  mv : Bool
  cube : Nat
  tile : Nat
  epi : Nat
  out : Nat
  xr : Nat
  sbuf : Nat
  close : Bool
  org : Nat
  deriving DecidableEq, Repr

def drainSlot (v : Nat) : DrainSlot :=
  { en := bitAt v 0, mv := bitAt v 1, cube := bitsOf v 3 2, tile := bitsOf v 7 4, epi := bitsOf v 13 8,
    out := bitsOf v 30 14, xr := bitsOf v 32 31, sbuf := bitsOf v 34 33, close := bitAt v 35, org := bitsOf v 37 36 }

/-- The epilogue reads of start `k` in their order (R84, R525): the kind (0 side tile, 1 mask, 2 scale, 3 bias), the
place and the width. -/
def drainReads (r k : Nat) : List (Nat × Nat × Nat) :=
  let w := (epiSideF r).bytes
  (if epiDeriv r && epiSideKind r == 1 then
     (List.range (ceilDiv (256 * w) 512)).map (fun i =>
       (0, epiSide r + 256 * w * k + 512 * i, Nat.min 512 (256 * w)))
   else []) ++
  (if epiDeriv r && epiSideKind r == 2 then [(1, epiSide r + 32 * k, 32)] else []) ++
  (if epiScaleMode r = 2 then [(2, epiScale r + 64 * k, 64)] else []) ++
  (if epiBiasEn r then [(3, epiBias r + 64 * k, 64)] else [])

/-- The bytes that an output of a start covers. -/
def drainOutLen (r : Nat) : Nat :=
  let f := epiOutF r
  if f.isMX then 16 * f.stripBytes else 256 * f.bytes

/-! ### The drain's part of a cycle -/

/-- The reads of a start that fall in its own cycle: the first two. -/
def drainStartReads (r k : Nat) : List SlotAcc :=
  ((drainReads r k).take 2).zipIdx.map (fun p => (6 + p.2, ⟨5 + p.2, p.1.2.1, p.1.2.2, true, []⟩))

/-- The third read that falls in cycle `x`: that of the start of the cycle before. -/
def DrainSt.thirdReads (d : DrainSt) (x : Nat) : List SlotAcc :=
  d.ops.filterMap (fun o =>
    match o.scaleAt with
    | some a => if o.d + 1 = x then some (200, ⟨5, a, 64, true, []⟩) else none
    | none => none)

/-- Tiles that a start brings in cycle `x`, as write accesses after `n` places already used; starts whose tile has been
written leave the drain. -/
def State.tileWrites (s : State) (die core x n : Nat) : State × List SlotAcc :=
  let ops := (s.core die core).drain.ops.filter (fun o => o.d + 11 == x)
  let (s1, accs) := ops.foldl (fun (p : State × List SAcc) o =>
    let (s', side, tile) := p.1.drainTile die core o
    let a := drainAccesses (n + p.2.length) side
    let b := drainAccesses (n + p.2.length + a.length) tile
    (s', p.2 ++ a ++ b)) (s, [])
  let c := s1.core die core
  (s1.setCore die core { c with drain := { c.drain with ops := c.drain.ops.filter (fun o => !(o.d + 11 == x)) } },
   accs.map (fun a => (100, a)))

/-- Group accesses that go in cycle `x` on the places that `n` other drain accesses leave (R88). -/
def State.groupWrites (s : State) (die core x n : Nat) : State × List SlotAcc :=
  let s1 := s.openGroups die core x
  let c := s1.core die core
  let (d, parts) := DrainSt.takeParts (2 - n) c.drain
  (s1.setCore die core { c with drain := d },
   (parts.zipIdx.map (fun p => (100, ⟨5 + (n + p.2) % 2, p.1.1, p.1.2.length, false, [p.1]⟩))))

/-! ### One advancing cycle -/

/-- The performed reads of a cycle: for each slot its bytes, and the halts of double-bit errors. -/
def State.performReads (s : State) (die core t : Nat) (l : List SlotAcc) :
    State × List (Nat × List Byte) × List Halt :=
  (l.filter (fun a => a.2.read)).foldl (fun (p : State × List (Nat × List Byte) × List Halt) a =>
    let (bs, s') := p.1.spRead die core a.2.off a.2.len 0
    match bs with
    | some d => (s', p.2.1 ++ [(a.1, d)], p.2.2)
    | none => (s', p.2.1, p.2.2 ++ [⟨eECC_UE, a.2.off, 2 ^ 23 + s'.rd (spU die core) Reg.SP_ECC_CAP_OFFSET, 0, t⟩]))
    (s, [], [])

/-- The accesses of a cycle resolved under R142: those performed, and the halt of a conflict. -/
def State.resolve (s : State) (die core pc t : Nat) (l : List SlotAcc) : State × List SlotAcc × List Halt :=
  let accs := l.map (fun a => a.2)
  let bad := conflictBanks accs
  if bad.isEmpty then (s, l, [])
  else
    let s1 := s.recordConflict die core t accs bad
    let u := spU die core
    (s1, l.filter (fun a => a.2.clear bad),
      [⟨eSP_CONFLICT, s1.rd u Reg.SP_CFL_BANKS_MASK, s1.rd u Reg.SP_CFL_PORTS_MASK, t, pc⟩])

/-- The data of a third read in cycle `x` given to its start: its scale entries, since a record has a third read only for
an FP32 side tile with scales (R84, R85). -/
def DrainSt.giveThird (d : DrainSt) (x : Nat) (got : List (Nat × List Byte)) : DrainSt :=
  match got.find? (fun g => g.1 == 200) with
  | none => d
  | some g =>
    { d with ops := d.ops.map (fun o =>
        if o.d + 1 = x && o.scaleAt.isSome then { o with scale := codesOf 32 16 g.2 } else o) }

/-- What every cycle does first: results that have become valid by cycle `t` are put in place (Table 3-3). -/
def CoreSt.landUnits (c : CoreSt) (t : Nat) : CoreSt :=
  let c1 := c.landVu t
  { c1 with
    cubes := c1.cubes.foldl (fun m e => mset {} m e.1 (e.2.land t)) []
    mv := c1.mv.land t }

/-- The counts of one advancing cycle (R419) and SEQ_CYC (R208). -/
def State.countCycle (s : State) (die core t : Nat) : State :=
  let u := idlU die
  let s1 := s.wr u (Reg.IDL_ADV_LO_COUNT core) (s.rd u (Reg.IDL_ADV_LO_COUNT core) + 1)
  let s2 := if s1.rd clkU Reg.CLK_STAT_STEP = 0 then s1
    else s1.wr u (Reg.IDL_C_LO_COUNT core 8) (s1.rd u (Reg.IDL_C_LO_COUNT core 8) + 1)
  s2.wr (seqU die core) Reg.SEQ_CYC_LO_VALUE (t + 1)

/-- A halt of the core's own in cycle `t`, which stays the cycle of SEQ_CYC (R142, R237). -/
def State.haltIn (s : State) (die core t : Nat) (h : Halt) : State :=
  (s.wr (seqU die core) Reg.SEQ_CYC_LO_VALUE t).haltCore die core h.code false 0 h.d0 h.d1 h.d2 h.d3

/-- A bubble: only what is in flight advances. -/
def State.bubble (s : State) (die core x : Nat) : State :=
  let u := seqU die core
  if s.rd u Reg.SEQ_STAT_RUN = 0 then s
  else
    let pc := s.rd u Reg.SEQ_PC_PC
    let c := (s.core die core).landUnits x
    let s1 := s.setCore die core c
    let third := c.drain.thirdReads x
    let (s2, tiles) := s1.tileWrites die core x third.length
    let (s3, groups) := s2.groupWrites die core x (Nat.min 2 (third.length + tiles.length))
    let (s4, l, hs) := s3.resolve die core pc x (third ++ tiles ++ groups)
    let (s5, got, ue) := s4.performReads die core x l
    let c5 := s5.core die core
    let s6 := (s5.setCore die core { c5 with drain := c5.drain.giveThird x got }).performWrites die core (l.map (fun a => a.2))
    let s7 := (s6.drainStat die core).countCycle die core x
    match hs ++ ue with
    | h :: _ => s7.haltIn die core x h
    | [] => s7

/-- The bubbles before cycle `t`. -/
def State.bubblesTo (s : State) (die core t : Nat) : State :=
  let x0 := s.rd (seqU die core) Reg.SEQ_CYC_LO_VALUE
  forEach (List.range (t - x0)) (fun s i => s.bubble die core (x0 + i)) s

/-! ### Waits (R228 to R232) -/

/-- What the control slot of a bundle finds: it may issue, it waits, or a tag holds an error. -/
inductive WaitRes where
  | issue | wait | bad (cause tag : Nat)
  deriving DecidableEq, Repr

def State.waitOf (s : State) (die core b : Nat) : WaitRes :=
  let ctl := bCtl b
  match bitsOf ctl 5 0 with
  | 1 =>
    let tag := bitsOf ctl 13 6
    match mget (s.core die core).tags tag .free with
    | .done => .issue
    | .err e => .bad e tag
    | _ => .wait
  | 2 => if bitAt (s.rd (seqU die core) Reg.SEQ_EVT_PEND) (bitsOf ctl 8 6) then .issue else .wait
  | _ => .issue

/-- The registers of a wait (Table 9-10). -/
def State.noteWait (s : State) (die core b : Nat) : State :=
  let ctl := bCtl b
  let u := seqU die core
  let op := bitsOf ctl 5 0
  if op = 1 || op = 2 then
    (((s.wr u Reg.SEQ_WAIT_KIND op).wr u Reg.SEQ_WAIT_ID (if op = 1 then bitsOf ctl 13 6 else bitsOf ctl 8 6)).wr u
      Reg.SEQ_WAIT_CLASS (bitsOf ctl 15 14)).wr u Reg.SEQ_WAIT_CAUSE (bitsOf ctl 19 16)
  else s

/-- Frozen cycles counted under an idle cause (R208, R419). -/
def State.countFrozen (s : State) (die core n cause : Nat) : State :=
  if n = 0 then s
  else
    let s1 := s.bump (seqU die core) Reg.SEQ_FROZEN_COUNT n
    if cause < 9 then
      s1.wr (idlU die) (Reg.IDL_C_LO_COUNT core cause) (s1.rd (idlU die) (Reg.IDL_C_LO_COUNT core cause) + n)
    else s1

/-! ### The control slot -/

/-- A scalar result issued in cycle `t`, visible to sources from cycle `v` (R226). -/
def CoreSt.putScalar (c : CoreSt) (v r x : Nat) : CoreSt :=
  if r = 0 then c else { c with spend := c.spend ++ [(v, r, x % 2 ^ 64)] }

/-- A tag taken out for an operation (R228): nothing where it is not free (Table 9-9). -/
def CoreSt.takeTag (c : CoreSt) (tag : Nat) : Option CoreSt :=
  match mget c.tags tag .free with
  | .free => some { c with tags := mset .free c.tags tag .out }
  | _ => none

/-- BAR in a bundle (R235): the tag goes out and the arrival is sent to every leaf of the barrier's group. -/
def State.doBar (s : State) (die core tag bnum : Nat) : Option State :=
  let c := s.core die core
  match c.takeTag tag with
  | none => none
  | some c1 =>
    let br := mget c1.bars bnum {}
    let grp := mget c1.barGroup bnum 0
    let s1 := s.setCore die core
      { c1 with bars := mset {} c1.bars bnum { br with gen := (br.gen + 1) % 65536, tag := some tag } }
    some (forEach (s1.leaves grp) (fun s u => s.emit (.arrival u grp br.gen)) s1)

/-- The control slot's effect in cycle `t` beside control flow (Table 9-2). `sld` is the word that SLD read. -/
def State.doCtl (s : State) (die core pc t b : Nat) (sld : Option (List Byte)) : State × List Halt :=
  let ctl := bCtl b
  let c := s.core die core
  let put (v r x : Nat) : State × List Halt := (s.setCore die core (c.putScalar v r x), [])
  match bitsOf ctl 5 0 with
  | 1 => (s.setCore die core { c with tags := mset .free c.tags (bitsOf ctl 13 6) .free }, [])
  | 2 =>
    let u := seqU die core
    (s.wr u Reg.SEQ_EVT_PEND (clearBits (s.rd u Reg.SEQ_EVT_PEND) (2 ^ bitsOf ctl 8 6)), [])
  | 3 =>
    match s.doBar die core (bitsOf ctl 13 6) (bitsOf ctl 17 14) with
    | some s1 => (s1, [])
    | none => (s, [plainHalt eCOUNT pc t])
  | 4 =>
    let k := bitsOf ctl 7 6
    let q := (mget c.cubes k {}).setMode t (bitsOf ctl 12 8) (bitsOf ctl 17 13) (bitAt ctl 18)
    (s.setCore die core { c with cubes := mset {} c.cubes k q }, [])
  | 0x0A => put (t + 1) (bitsOf ctl 10 6) (bImm b)
  | 0x0B =>
    let y := if bitAt ctl 24 then bImm b else c.sval (bitsOf ctl 20 16) t
    put (t + 1) (bitsOf ctl 10 6) (salu (bitsOf ctl 23 21) (c.sval (bitsOf ctl 15 11) t) y)
  | 0x0C =>
    match sld with
    | some bs => put (t + 3) (bitsOf ctl 10 6) (leNat bs)
    | none => (s, [])
  | 0x0E => (s, [plainHalt eHALT pc t])
  | _ => (s, [])

/-- Where control goes after a bundle: the next place, the loops and the cycle in which it is due; none where the place
is beyond the instruction memory. -/
def CoreSt.flow (c : CoreSt) (pc t b : Nat) : Option (Nat × List (Nat × Nat × Nat) × Nat) :=
  let ctl := bCtl b
  let fallThrough (due : Nat) : Option (Nat × List (Nat × Nat × Nat) × Nat) :=
    let (n, l) := loopNext pc c.loops
    if n < 8192 then some (n, l, due) else none
  match bitsOf ctl 5 0 with
  | 5 => fallThrough (t + bitsOf ctl 21 6 + 1)
  | 8 =>
    let n := c.sval (bitsOf ctl 10 6) t
    let e := bitsOf ctl 23 11
    if n = 0 then
      let (p, l) := loopNext e c.loops
      if p < 8192 then some (p, l, t + 4) else none
    else if pc + 1 < 8192 then some (pc + 1, (pc + 1, e, n) :: c.loops, t + 1) else none
  | 9 =>
    let v := c.sval (bitsOf ctl 15 11) t
    let taken := match bitsOf ctl 17 16 with
      | 0 => true
      | 1 => decide (v ≠ 0)
      | _ => decide (v = 0)
    if taken then
      let p := c.sval (bitsOf ctl 10 6) t
      if p < 8192 then some (p, c.loops, t + 4) else none
    else fallThrough (t + 1)
  | _ => fallThrough (t + 1)

/-! ### The transfer slot (R224) -/

/-- Transfers issued to a ring, in ring order (R177): each takes its tag at once where its descriptor has been fetched.
The first that finds its tag taken halts the core, and nothing more of the issue starts. -/
def CoreSt.issueDma (c : CoreSt) (ring : Nat) : Nat → CoreSt × Bool
  | 0 => (c, true)
  | n + 1 =>
    match mget c.fetched ring [] with
    | [] => CoreSt.issueDma { c with xfers := c.xfers ++ [{ ring := ring, desc := none }] } ring n
    | d :: rest =>
      match c.takeTag (bitsOf d 455 448) with
      | none => (c, false)
      | some c1 =>
        CoreSt.issueDma
          { c1 with fetched := mset [] c1.fetched ring rest, xfers := c1.xfers ++ [{ ring := ring, desc := some d }] } ring n

/-- The slots of a ring. -/
def State.ringSlots (s : State) (die core ring : Nat) : Nat := 16 * s.rd (dmaU die core) (Reg.RING_CFG_BURSTS ring)

/-- A ring's position moved on as `n` of its descriptors start (R177). -/
def State.ringNext (s : State) (die core ring n : Nat) : State :=
  let u := dmaU die core
  let slots := s.ringSlots die core ring
  let s1 := if slots = 0 then s else s.wr u (Reg.RING_POS_NEXT ring) ((s.rd u (Reg.RING_POS_NEXT ring) + n) % slots)
  s1.wr u (Reg.RING_POS_AHEAD ring) (s1.rd u (Reg.RING_POS_AHEAD ring) - n)

/-- Descriptors that have arrived handed to a core's waiting stack issues, in order; each takes its tag. False where a
tag was not free. -/
def CoreSt.feedStack (c : CoreSt) (ring : Nat) : Nat → CoreSt × Nat × Bool
  | 0 => (c, 0, true)
  | f + 1 =>
    match mget c.fetched ring [], c.stk.findIdx? (fun o => o.ring == ring && decide (o.descs.length < o.count)) with
    | d :: rest, some i =>
      match c.takeTag (dTag d) with
      | none => (c, 0, false)
      | some c1 =>
        let stk := c1.stk.zipIdx.map (fun p => if p.2 = i then { p.1 with descs := p.1.descs ++ [d] } else p.1)
        let (c2, n, ok) := CoreSt.feedStack { c1 with fetched := mset [] c1.fetched ring rest, stk := stk } ring f
        (c2, n + 1, ok)
    | _, _ => (c, 0, true)

/-- The ring that serves a DMA issue: a paired ring's counterpart while ACTIVE is 1 (12_update_and_fixer R292). -/
def State.pairedRing (s : State) (die r : Nat) : Nat :=
  if decide (r < 4) && bitAt (s.rd (ueU die) Reg.UE_PAIRRING_MASK) r && s.rd keeperU Reg.FX_STAT_ACTIVE == 1 then r + 4
  else r

/-- The transfer slot's effect in cycle `t`. -/
def State.doXfer (s : State) (die core pc t b : Nat) : State × List Halt :=
  let x := bXfer b
  let c := s.core die core
  match bitsOf x 2 0 with
  | 1 =>
    let (c1, fine) := c.issueDma (s.pairedRing die (bitsOf x 5 3)) (bitsOf x 17 6 + 1)
    (((s.setCore die core c1).keepSources die core).dmaStat die core, if fine then [] else [plainHalt eCOUNT pc t])
  | 2 =>
    let e := bitsOf x 3 3
    let a := c.sval (bitsOf x 8 4) t
    if a % 64 ≠ 0 then (s, [badOffset eALIGN a pc t])
    else
      let g := mget s.gmes (die * 2 + e) {}
      let g1 : GmeSt := { g with queue := g.queue ++ [(core, a)] }
      (({ s with gmes := mset {} s.gmes (die * 2 + e) g1 } : State).wr (gmeU die e) Reg.GME_STAT_QDEPTH g1.queue.length, [])
  | 3 =>
    let o : StackOp :=
      { pop := bitAt x 3, ring := bitsOf x 6 4, count := bitsOf x 18 7 + 1, sl := c.sval (bitsOf x 23 19) t }
    let (c1, n, ok) := ({ c with stk := c.stk ++ [o] } : CoreSt).feedStack o.ring 64
    (((s.setCore die core c1).wr (stkU die core) Reg.STK_STAT_QUEUED c1.stk.length).ringNext die core o.ring n,
      if ok then [] else [plainHalt eCOUNT pc t])
  | 4 =>
    match c.takeTag (bitsOf x 31 24) with
    | none => (s, [plainHalt eCOUNT pc t])
    | some c1 =>
      let il : Iload := ⟨bitsOf x 31 24, c.sval (bitsOf x 7 3) t, c.sval (bitsOf x 12 8) t, bitsOf x 23 13 + 1⟩
      (s.setCore die core { c1 with iloads := c1.iloads ++ [il] }, [])
  | 5 => (s.dbSet (2 ^ bitsOf x 7 3), [])
  | _ => (s, [])

/-! ### The read slots, cubes and matrix-vector unit of a cycle -/

/-- The read slots' data delivered (R216): streamed reads, stationary loads and vector loads. -/
def CoreSt.deliver (c : CoreSt) (t b : Nat) (got : List (Nat × List Byte)) : CoreSt :=
  (List.range 4).foldl (fun (c : CoreSt) n =>
    match got.find? (fun g => g.1 == n) with
    | none => c
    | some g =>
      let v := bRd b n
      let gs := bitAt v 22
      let short := bitAt v 21
      match bitsOf v 1 0 with
      | 1 =>
        { c with cubes := (setBits 4 (bitsOf v 26 23)).foldl (fun m k =>
            mset {} m k ((mget m k {}).stream t (bitAt v 27) g.2 gs short)) c.cubes }
      | 2 =>
        let k := bitsOf v 24 23
        { c with cubes := mset {} c.cubes k ((mget c.cubes k {}).statLoad t (bitsOf v 25 25) (bitsOf v 31 27) g.2 gs short) }
      | 3 =>
        if bitAt v 23 then
          { c with mv := c.mv.vecLoad t (bitsOf v 26 24) (bitsOf v 31 27) (Config.mvlVectorIsF32 v) g.2 }
        else c
      | _ => c) c

/-- The weight bytes that MVL reads of the cycle deliver, in port order (R220). -/
def mvWeights (b : Nat) (got : List (Nat × List Byte)) : List Byte :=
  (List.range 4).flatMap (fun n =>
    let v := bRd b n
    if bitsOf v 1 0 = 3 && !bitAt v 23 then
      match got.find? (fun g => g.1 == n) with
      | some g => g.2
      | none => []
    else [])

/-- The offset of the read that streams operand B to a cube in this cycle. -/
def streamOff (b k : Nat) (l : List SlotAcc) : Nat :=
  match (List.range 4).find? (fun n => let v := bRd b n; bitsOf v 1 0 == 1 && bitAt v 27 && bitAt v (23 + k)) with
  | some n =>
    match l.find? (fun a => a.1 == n) with
    | some a => a.2.off
    | none => 0
  | none => 0

/-- The cubes' issues of a cycle. -/
def CoreSt.doCubes (c : CoreSt) (pc t b : Nat) (l : List SlotAcc) : CoreSt × List Halt :=
  (List.range 4).foldl (fun (p : CoreSt × List Halt) k =>
    let v := bCube b k
    if bitAt v 0 then
      match (mget p.1.cubes k {}).issue t (streamOff b k l) (cubeSlot v) with
      | .ok q => ({ p.1 with cubes := mset {} p.1.cubes k q }, p.2)
      | .halt q code d => ({ p.1 with cubes := mset {} p.1.cubes k q }, p.2 ++ [⟨code, pc, t, d, 0⟩])
    else p) (c, [])

/-- The matrix-vector issue of a cycle. -/
def CoreSt.doMv (c : CoreSt) (t b : Nat) (got : List (Nat × List Byte)) : CoreSt :=
  let v := bMv b
  if bitAt v 0 then
    match mvFmt (bitsOf v 18 14) with
    | some f => { c with mv := c.mv.issue t (bitsOf v 4 1) (bitsOf v 12 5) (bitAt v 13) f (mvWeights b got) }
    | none => c
  else c

/-- The vector unit's register results of a cycle (R82): loads land after 3 cycles, other results after 4. -/
def CoreSt.doVu (c : CoreSt) (t b : Nat) (rnd : Nat → Nat) (got : List (Nat × List Byte)) : CoreSt :=
  let v := vuSlot (bVu b)
  if v.op = 0 || v.op = 0x31 then c
  else if v.op = 0x30 then
    match got.find? (fun g => g.1 == 5) with
    | some g => { c with vops := c.vops ++ [⟨t + 3, c.vuLoad v g.2⟩] }
    | none => c
  else { c with vops := c.vops ++ [⟨t + 4, c.vuWrites v rnd⟩] }

/-! ### Drain starts -/

/-- The accumulator that a start takes, as FP32 bits, with the saturations it reports and the core after it (R80, R86,
R90). -/
def CoreSt.takeTile (c : CoreSt) (sl : DrainSlot) : List Nat × Nat × CoreSt :=
  if sl.mv then
    ((List.range 8).flatMap (fun v =>
      let l := mget c.mv.acc (sl.tile * 8 + v) []
      (List.range 16).map (fun i => l.getD i 0)), 0, c)
  else
    let q := mget c.cubes sl.cube {}
    let raw := mget q.acc sl.tile []
    let bits (i : Nat) : Nat :=
      let v := raw.getD i 0
      if mget q.cls sl.tile 0 = 2 then toF32 (decodeElem .int32 v) else v
    ((List.range 256).map bits, mget q.sats sl.tile 0,
     { c with cubes := mset {} c.cubes sl.cube { q with sats := mdel q.sats sl.tile } })

/-- The strip buffers after a start with an MX output (R88). -/
def DrainSt.enterBand (d : DrainSt) (t : Nat) (sl : DrainSlot) (out : Nat) : DrainSt :=
  let b0 : BandSt := match mget d.bands sl.sbuf none with
    | some b => b
    | none => ⟨out, sl.epi, 0, [], none⟩
  let b1 : BandSt := { b0 with starts := b0.starts + 1, ready := if b0.starts + 1 = 16 then some (t + 13) else b0.ready }
  { d with bands := mset none d.bands sl.sbuf (some b1) }

/-- Every open band closed by a start with CLOSE in cycle `t` (R88, R223). -/
def DrainSt.closeBands (d : DrainSt) (t : Nat) : DrainSt :=
  { d with bands := d.bands.map (fun e =>
      (e.1, match e.2 with
        | some b => some { b with ready := match b.ready with
            | some r => some r
            | none => some (t + 13) }
        | none => none)) }

/-- The drain start of a bundle in cycle `t`, with the epilogue reads that its cycle brought. -/
def State.doDrain (s : State) (die core t b : Nat) (got : List (Nat × List Byte)) (out : Nat) : State :=
  let sl := drainSlot (bDrain b)
  let c := s.core die core
  let r := mget c.drain.epi sl.epi 0
  let k := c.drain.k
  let reads := drainReads r k
  let part (kind : Nat) : List Byte :=
    ((reads.take 2).zipIdx.filter (fun p => p.1.1 == kind)).flatMap (fun p =>
      match got.find? (fun g => g.1 == 6 + p.2) with
      | some g => g.2
      | none => [])
  let side := if epiSideKind r = 2 then codesOf 1 256 (part 1) else tileCodes (epiSideF r) (part 0)
  let (acc, sats, c1) := c.takeTile sl
  let op : DrainOp :=
    { d := t, epi := sl.epi, k := k, rows := if sl.mv then 8 else 16, acc := acc, sats := sats, out := out,
      sbuf := sl.sbuf, close := sl.close, org := if sl.org = 0 then 0 else c.xrBase sl.org t, side := side,
      scale := codesOf 32 16 (part 2), bias := codesOf 32 16 (part 3),
      scaleAt := (reads.drop 2).head?.map (fun p => p.2.1) }
  let d1 : DrainSt := { c1.drain with ops := c1.drain.ops ++ [op], k := if sl.close then 0 else k + 1 }
  let d2 := if (epiOutF r).isMX then d1.enterBand t sl out else d1
  let d3 := if sl.close then d2.closeBands t else d2
  (s.setCore die core { c1 with drain := d3 }).wr (drainU die core) Reg.DRAIN_STAT_EPI sl.epi

/-! ### A bundle -/

/-- The idle cause of a core at END (R236, R418). -/
def State.endCause (s : State) : Nat :=
  if s.fix.decision.isSome && s.rd keeperU Reg.FX_STAT_DWAIT == 1 then 6 else 5

/-- The registers of the wait at END (Table 9-10). -/
def State.noteEnd (s : State) (die core : Nat) : State :=
  let u := seqU die core
  ((((s.wr u Reg.SEQ_STAT_FROZEN 1).wr u Reg.SEQ_WAIT_KIND 3).wr u Reg.SEQ_WAIT_ID 0).wr u Reg.SEQ_WAIT_CLASS 0).wr u
    Reg.SEQ_WAIT_CAUSE s.endCause

/-- The bundle `b` at place `pc` issued in cycle `t`, after everything due before `t` has come about. A start into an open
band does not use its OUT (R88). With a bad offset everything else of the bundle takes place, and the halt at the end of the
cycle abandons the start (R217, R237). -/
def State.issueBundle (s : State) (die core pc t b : Nat) : State :=
  let u := seqU die core
  let c0 := ((s.core die core).landScalars (t - 2)).landUnits t
  let s0 := s.setCore die core c0
  let rnd := Config.vuRandom s0.job.seed (s0.rd keeperU Reg.FX_STEP_LO_VALUE) (s0.unitAddr u) t
  let ds := drainSlot (bDrain b)
  let rec0 := mget c0.drain.epi ds.epi 0
  let used := ds.en && !((epiOutF rec0).isMX && (mget c0.drain.bands ds.sbuf none).isSome)
  let (out, badOut) := if used then c0.slotOff ds.out ds.xr t (drainOutLen rec0) else (0, 0)
  let third := c0.drain.thirdReads t
  let starts := if ds.en then drainStartReads rec0 c0.drain.k else []
  let (s1, tiles) := s0.tileWrites die core t (third.length + starts.length)
  let (s2, groups) := s1.groupWrites die core t (Nat.min 2 (third.length + starts.length + tiles.length))
  let (rds, h1) := c0.rdAccesses pc t b
  let (sld, h2) := c0.sldAccess pc t b
  let (vu, h3) := c0.vuAccess pc t b rnd
  let h4 := if badOut ≠ 0 then [badOffset badOut out pc t] else []
  let (s3, l, hc) := s2.resolve die core pc t (rds ++ sld ++ vu ++ starts ++ third ++ tiles ++ groups)
  let (s4, got, hu) := s3.performReads die core t l
  let word := match got.find? (fun g => g.1 == 4) with
    | some g => some g.2
    | none => none
  let c4 := s4.core die core
  let flow := c4.flow pc t b
  let s5 := s4.setCore die core ({ c4 with drain := c4.drain.giveThird t got }.deliver t b got)
  let (c5, h5) := (s5.core die core).doCubes pc t b l
  let c6 := (c5.doMv t b got).doVu t b rnd got
  let s6 := s5.setCore die core c6
  let s7 := if ds.en then s6.doDrain die core t b got out else s6
  let (s8, h6) := s7.doCtl die core pc t b word
  let (s9, h7) := s8.doXfer die core pc t b
  let s10 := ((s9.performWrites die core (l.map (fun a => a.2))).drainStat die core).countCycle die core t
  match hc ++ h1 ++ h2 ++ h3 ++ h4 ++ hu ++ h6 ++ h7 ++ h5 with
  | h :: _ => s10.haltIn die core t h
  | [] =>
    match flow with
    | none => s10.haltIn die core t (plainHalt eCOUNT pc t)
    | some (p, loops, due) =>
      let c := s10.core die core
      let ended := bitsOf (bCtl b) 5 0 == 0x0F
      let s11 := ((s10.setCore die core { c with loops := loops, nextDue := due, atEnd := ended }).wr u Reg.SEQ_PC_PC p).wr u
        Reg.SEQ_STAT_LOOPDEPTH loops.length
      if ended then s11.noteEnd die core else s11.wr u Reg.SEQ_STAT_FROZEN 0

/-- The idle cause that a wait's bundle names (R229). -/
def waitCause (b : Nat) : Nat := bitsOf (bCtl b) 19 16

/-- A core whose wait takes a tag in error halts with the cause that the engine logged (R230). -/
def State.haltViaTag (s : State) (die core cause tag : Nat) : State :=
  let u := seqU die core
  let code := causeCode cause
  let cyc := s.rd u Reg.SEQ_CYC_LO_VALUE
  let s1 := s.coreDown die core cause true tag
  if code = eXLATE || code = ePROT || code = eECC_UE then
    let d := dmaU die core
    let mine := s.rd d Reg.DMA_FINFO_TAG = tag
    s1.logHalt code u (if mine then s.rd d Reg.DMA_FADDR_LO_ADDR else 0) (if mine then s.dmaFinfo die core else 0) tag cyc
  else s1.logHalt code u (s.rd u Reg.SEQ_PC_PC) cyc tag

/-- BUNDLE_ISSUE: the core's next bundle is due. `frozen` is how many CCLK the core was frozen before it, `upsets` the
bits that have failed. -/
def execBundleIssue (die core frozen : Nat) (upsets : List (Nat × Nat)) (s0 : State) :
    Host.Outcome State Fault Refusal :=
  let s := s0.upset upsets
  let u := seqU die core
  let c := s.core die core
  if s.rd u Reg.SEQ_STAT_RUN = 0 then done s
  else if c.atEnd then done ((s.wr u Reg.SEQ_WAIT_CAUSE s.endCause).countFrozen die core frozen s.endCause)
  else
    let t := c.nextDue
    let s1 := s.bubblesTo die core t
    if s1.rd u Reg.SEQ_STAT_RUN = 0 then done s1
    else
      let pc := s1.rd u Reg.SEQ_PC_PC
      let b := s1.bundleAt die core pc
      let op := bitsOf (bCtl b) 5 0
      let s2 := if op = 1 || op = 2 then (s1.noteWait die core b).countFrozen die core frozen (waitCause b) else s1
      match s2.waitOf die core b with
      | .wait => done (s2.wr u Reg.SEQ_STAT_FROZEN 1)
      | .bad cause tag => done (s2.haltViaTag die core cause tag)
      | .issue =>
        if (s2.core die core).bundleLegal t b then done (s2.issueBundle die core pc t b)
        else .refused .reservedBundle

/-! ### Results that land in cycles of their own -/

/-- The core's clock advanced through cycle `x` where no bundle is due by then. A frozen core stays as it is (R206). -/
def State.advanceTo (s : State) (die core x : Nat) : State :=
  let c := s.core die core
  let u := seqU die core
  if s.rd u Reg.SEQ_STAT_RUN = 1 && s.rd u Reg.SEQ_STAT_FROZEN = 0 && decide (x ≤ c.nextDue) then
    let s1 := s.bubblesTo die core x
    if s1.rd (seqU die core) Reg.SEQ_STAT_RUN = 1 then s1.setCore die core ((s1.core die core).landUnits x) else s1
  else s

/-- The earliest of some cycles. -/
def earliest (l : List Nat) : Option Nat := (sortBy (fun a b => decide (a ≤ b)) l).head?

/-- The core advanced to the next of some cycles, if there is one. -/
def State.advanceNext (s : State) (die core : Nat) (l : List Nat) : State :=
  match earliest l with
  | some x => s.advanceTo die core x
  | none => s

/-- CUBE_ACCUMULATE: the oldest cube issue in flight becomes valid, 18 advancing cycles after it. -/
def execCubeAccumulate (die core : Nat) (s : State) : Host.Outcome State Fault Refusal :=
  done (s.advanceNext die core ((s.core die core).cubes.flatMap (fun e => e.2.ops.map CubeOp.due)))

/-- MV_ACCUMULATE: the oldest matrix-vector issue in flight becomes valid, 9 advancing cycles after it. -/
def execMvAccumulate (die core : Nat) (s : State) : Host.Outcome State Fault Refusal :=
  done (s.advanceNext die core ((s.core die core).mv.ops.map MvOp.due))

/-- VU_RESULT_WRITE: the next vector-unit result lands in its register. -/
def execVuResultWrite (die core : Nat) (s : State) : Host.Outcome State Fault Refusal :=
  done (s.advanceNext die core ((s.core die core).vops.map VuOp.due))

/-- DRAIN_TILE_WRITE: the cycle d + 11 of the oldest drain start comes, if no bundle is due in it. -/
def execDrainTileWrite (die core : Nat) (s : State) : Host.Outcome State Fault Refusal :=
  done (s.advanceNext die core ((s.core die core).drain.ops.map (fun o => o.d + 12)))

/-- DRAIN_GROUP_WRITE: cycles pass until the first complete or closed band has been written, as far as no bundle is
due. -/
def execDrainGroupWrite (die core : Nat) (s : State) : Host.Outcome State Fault Refusal :=
  let c := s.core die core
  let ready := c.drain.bands.filterMap (fun e => e.2.bind BandSt.ready)
  match earliest ready with
  | none => done s
  | some r =>
    if s.rd (seqU die core) Reg.SEQ_STAT_RUN = 1 then
      let last := Nat.min c.nextDue (Nat.max r (s.rd (seqU die core) Reg.SEQ_CYC_LO_VALUE) + 9)
      done (s.advanceTo die core last)
    else done s

/-! ### Tags, limits, barriers and events -/

/-- WAIT_LIMIT_EXPIRY: the last period of the limit of a core's wait ends without the recording (R232). -/
def execWaitLimitExpiry (die core : Nat) (s : State) : Host.Outcome State Fault Refusal :=
  let u := seqU die core
  let c := s.core die core
  let pc := s.rd u Reg.SEQ_PC_PC
  let b := s.bundleAt die core pc
  let lim := s.waitLimit die core (s.rd u Reg.SEQ_WAIT_CLASS)
  let kind := s.rd u Reg.SEQ_WAIT_KIND
  if s.rd u Reg.SEQ_STAT_RUN = 1 && s.rd u Reg.SEQ_STAT_FROZEN = 1 && !c.atEnd && (kind == 1 || kind == 2) &&
      s.waitOf die core b == .wait && decide (0 < lim) then
    let id := s.rd u Reg.SEQ_WAIT_ID
    done (s.haltCore die core eTIMEOUT false (if kind = 1 then id else 0) id (s.rd u Reg.SEQ_WAIT_CLASS)
      (s.rd u Reg.SEQ_CYC_LO_VALUE) lim)
  else done s

/-- BARRIER_ARRIVAL: an arrival from core `src` for a group and generation reaches a core (R235). -/
def execBarrierArrival (die core group src gen : Nat) (s : State) : Host.Outcome State Fault Refusal :=
  let c := s.core die core
  match c.barGroup.find? (fun e => e.2 == group) with
  | none => done s
  | some (b, _) =>
    let br := mget c.bars b {}
    let got := if br.got.contains (gen, src) then br.got else br.got ++ [(gen, src)]
    let cur := (br.gen + 65535) % 65536
    let all := (s.leaves group).all (fun l => got.contains (cur, l))
    match br.tag with
    | some tag =>
      if all then
        let br1 : BarrierSt := { br with tag := none, got := got.filter (fun g => !(g.1 == cur)) }
        done ((s.setCore die core { c with bars := mset {} c.bars b br1 }).returnTag die core tag 0)
      else done (s.setCore die core { c with bars := mset {} c.bars b { br with got := got } })
    | none => done (s.setCore die core { c with bars := mset {} c.bars b { br with got := got } })

/-- SEQ_EVT: a write of 1s sets pending events (R234). `period` is the MCLK period of the wait in which it falls. -/
def execSeqEvt (die core bits period : Nat) (s : State) : Host.Outcome State Fault Refusal :=
  let u := seqU die core
  let old := s.rd u Reg.SEQ_EVT_PEND
  let s1 := s.wr u Reg.SEQ_EVT_PEND (old ||| bits % 256)
  let id := s.rd u Reg.SEQ_WAIT_ID
  done ((if bitAt (bits % 256) id && !bitAt old id then s1.nearMiss die core 2 id period else s1).ok)

end Sys2Proof.Machine
end

