-- ==== Sys2Proof/Machine/Dma.lean ====
section
/-!
DEFINITION. The DMA engine: descriptors, traversal, padding, conversion, multicast, the packer, descriptor rings, and the
faults and completion of transfers (07_streams_layout R159 to R183; 04_weight_sparsity R107 to R111; 09_core_sequencer
R210, R228).
-/
namespace Sys2Proof.Machine

/-! ### Registers and rings -/

/-- Conversion events of a transfer counted and given to the layer of its ring (R171). -/
def State.dmaEvents (s : State) (die core ring : Nat) (ev : Events) : State :=
  let u := dmaU die core
  (((s.bump u Reg.DMA_CLAMP_COUNT ev.clamp).bump u Reg.DMA_NONFIN_COUNT ev.nonfin).bump u Reg.DMA_QSAT_COUNT ev.qsat
    ).addEvents u (s.rd u (Reg.RING_CFG_LAYER ring)) ev

/-- SPK_STAT.BUSY (Table 4-3). -/
def State.packStat (s : State) (die core : Nat) : State :=
  s.wrB (dmaU die core) Reg.SPK_STAT_BUSY ((s.core die core).xfers.any (fun x =>
    x.started && (dPack (x.desc.getD 0) || dExpand (x.desc.getD 0))))

/-- Descriptors that have arrived handed to the ring's stack issues; a tag that is not free halts the core with COUNT. -/
def State.feedStack (s : State) (die core ring : Nat) : State :=
  let (c, n, ok) := (s.core die core).feedStack ring 64
  let s1 := (s.setCore die core c).ringNext die core ring n
  if ok then s1 else s1.haltCoreAt die core eCOUNT

/-- Descriptors given to issued transfers that wait for them, in ring order, each taking its tag; the rest are kept. -/
def CoreSt.placeDescs (c : CoreSt) (ring : Nat) : List Nat → CoreSt × Bool
  | [] => (c, true)
  | d :: rest =>
    match c.xfers.findIdx? (fun x => x.ring == ring && !x.stack && x.desc.isNone) with
    | some i =>
      match c.takeTag (dTag d) with
      | none => (c, false)
      | some c1 =>
        CoreSt.placeDescs { c1 with xfers := c1.xfers.zipIdx.map (fun p =>
          if p.2 = i then { p.1 with desc := some d } else p.1) } ring rest
    | none => ({ c with fetched := mset [] c.fetched ring (mget c.fetched ring [] ++ (d :: rest)) }, true)

/-- DESCRIPTOR_FETCH (R178): the next 1 KiB of a ring is read where 16 places are free. A fault halts the core. -/
def execDescriptorFetch (die core ring : Nat) (upsets : List (Nat × Nat)) (s0 : State) :
    Host.Outcome State Fault Refusal :=
  let s := s0.upset upsets
  let u := dmaU die core
  let r := ring % 8
  let slots := s.ringSlots die core r
  let ahead := s.rd u (Reg.RING_POS_AHEAD r)
  if slots = 0 || 16 < ahead then done s
  else
    let slot := (s.rd u (Reg.RING_POS_NEXT r) + ahead) % slots
    let base := va57 (s.rd u (Reg.RING_BASE_LO_ADDR r) + 2 ^ 32 * s.rd u (Reg.RING_BASE_HI_ADDR r))
    let (s1, res) := s.vread (s.dmaAgent die core) (base + 64 * slot) 1024 permRead
    if res.err ≠ 0 then
      let s2 := s1.dmaCapture die core ⟨res.err, res.addr, false⟩ 0 r false false true
      done (if s2.rd (seqU die core) Reg.SEQ_STAT_RUN = 1 then
          s2.haltCore die core res.err false 0 res.addr (s2.dmaFinfo die core) 0 (s2.rd (seqU die core) Reg.SEQ_CYC_LO_VALUE)
        else s2)
    else
      let ds := (List.range 16).map (fun i => leNat (slice res.data (64 * i) 64))
      let s2 := s1.wr u (Reg.RING_POS_AHEAD r) (ahead + 16)
      let (c, ok) := (s2.core die core).placeDescs r ds
      let s3 := (s2.setCore die core c).keepSources die core
      done (if ok then s3.feedStack die core r else s3.haltCoreAt die core eCOUNT)

/-- DMA_TRANSFER_START (R177): the oldest transfer that has not started starts, if its descriptor has arrived. -/
def execDmaTransferStart (die core : Nat) (s : State) : Host.Outcome State Fault Refusal :=
  let c := s.core die core
  match c.xfers.findIdx? (fun x => !x.started) with
  | none => done s
  | some i =>
    match c.xfers[i]? with
    | some x =>
      if x.desc.isSome then
        let c1 : CoreSt := { c with xfers := c.xfers.zipIdx.map (fun p => if p.2 = i then { p.1 with started := true } else p.1) }
        let s1 := s.setCore die core c1
        done ((if x.stack then s1 else s1.ringNext die core x.ring 1).packStat die core)
      else done s
    | none => done s

/-- A core's transfer in flight by its tag: one that has started. -/
def CoreSt.xferOf (c : CoreSt) (tag : Nat) : Option (Nat × Xfer) :=
  (c.xfers.zipIdx.find? (fun p => p.1.started && !p.1.moved && p.1.held.isEmpty && dTag (p.1.desc.getD 0) == tag)).map
    (fun p => (p.2, p.1))

/-- The leaves of a transfer's multicast set, as dies and cores (R173). -/
def State.mcastLeaves (s : State) (die core d : Nat) : List (Nat × Nat) :=
  (s.leaves (mget (s.core die core).mcset (dMset d) 0)).map (fun u => (dieOf u, coreOf u))

/-- The bytes that a transfer writes at its destination: the local region, or at the remote end what `storeRuns` writes. -/
def dDestBytes (d : Nat) : Nat :=
  if !dStore d then dLocalBytes d
  else match dCvtFmt d with
    | none => 0
    | some g =>
      if g.isMX then dCnt d 1 * dCnt d 2 * dCnt d 3 * dCnt d 4 * (ceilDiv (dCnt d 0) 256 * g.stripBytes)
      else (if dMatPad d then dTotal d else dCnt d 0 * dCnt d 1 * dCnt d 2 * dCnt d 3 * dCnt d 4) * g.bytes

/-- The NCLK of a transfer on the slow path (R166). -/
def State.countSlow (s : State) (die core d : Nat) : State :=
  if 24 ≤ dPerm d then s.bump (dmaU die core) Reg.DMA_SLOW_COUNT (ceilDiv (dDestBytes d) 8) else s

/-- A transfer whose data has been moved ends, unless its tag is kept back for the end of its frame (R274, R275). -/
def State.xferMoved (s : State) (die core i : Nat) (x : Xfer) : State :=
  let s1 := s.countSlow die core (x.desc.getD 0)
  (if x.last then s1.setXfer die core i { x with moved := true } else s1.endXfer die core i).packStat die core

/-- DMA_TRANSFER_COMPLETE (R162): every write of a transfer is made and its tag returns. A transfer of which an access
faults does not complete; a multicast completes with its last copy, a pack or expand transfer with its last tile. -/
def execDmaTransferComplete (die core tag : Nat) (upsets : List (Nat × Nat)) (s0 : State) :
    Host.Outcome State Fault Refusal :=
  let s := s0.upset upsets
  match (s.core die core).xferOf (tag % 256) with
  | none => done s
  | some (i, x) =>
    let d := x.desc.getD 0
    let ag := s.dmaAgent die core
    if (dFmt d).isNone || (dCvtFmt d).isNone then done s
    else if dPack d || dExpand d then
      done (if x.tiles = dCnt d 2 then s.xferMoved die core i x else s)
    else if dMcast d then
      done (if (List.range (s.mcastLeaves die core d).length).all (fun k => x.copies.contains k) then
          s.xferMoved die core i x
        else s)
    else if dStore d then
      match s.asIssued x (fun s => s.storeData ag die core d) with
      | (_, _, _, some _) => done s
      | (s1, runs, ev, none) =>
        match s1.writeRuns ag 0 runs with
        | (_, _, some _) => done s
        | (s2, held, none) =>
          let s3 := s2.dmaEvents die core x.ring ev
          if held.isEmpty then done (s3.xferMoved die core i x)
          else done ((s3.countSlow die core d).setXfer die core i { x with held := held })
    else
      match s.asIssued x (fun s => s.loadData ag d 0 0) with
      | (_, _, some _) => done s
      | (s1, parts, none) =>
        match s1.localWrite ag.src die core (dLocal d) (parts.flatMap (fun p => p.data.getD [])) with
        | (_, some _) => done s
        | (s2, none) =>
          done ((s2.dmaEvents die core x.ring (parts.foldl (fun a p => a.add p.ev) Events.none)).xferMoved die core i x)

/-- A leaf's tag returns (R175, R228): recorded where it is FREE; else the leaf halts with COUNT. A core without code
holds no tag (10_tiling_job_images R523). -/
def State.leafTag (s : State) (die core tag err : Nat) : State :=
  let c := s.core die core
  if !c.hasCode then s
  else match mget c.tags tag .free with
  | .free =>
    (s.setCore die core { c with tags := mset .free c.tags tag (if err = 0 then .done else .err (haltCause err)) }).mayMiss die
      core 1 tag
  | _ => if s.rd (seqU die core) Reg.SEQ_STAT_RUN = 1 then s.haltCoreAt die core eCOUNT else s

/-- MULTICAST_COPY_COMPLETE (R174, R175): the copy of a multicast load for leaf number `leaf` of its set is complete. The
source is read once, with the first copy. -/
def execMulticastCopyComplete (die core tag leaf : Nat) (upsets : List (Nat × Nat)) (s0 : State) :
    Host.Outcome State Fault Refusal :=
  let s := s0.upset upsets
  match (s.core die core).xferOf (tag % 256) with
  | none => done s
  | some (i, x) =>
    let d := x.desc.getD 0
    let ag := s.dmaAgent die core
    match (s.mcastLeaves die core d)[leaf]? with
    | none => done s
    | some (ld, lc) =>
      if !dMcast d || x.copies.contains leaf || (dFmt d).isNone || (dCvtFmt d).isNone then done s
      else
        let (s1, data, flt) : State × List Byte × Option XferFault :=
          match x.buf with
          | some b => (s, b, none)
          | none =>
            let (s1, parts, flt) := s.asIssued x (fun s => s.loadData ag d 0 0)
            ((if flt.isNone then s1.dmaEvents die core x.ring (parts.foldl (fun a p => a.add p.ev) Events.none) else s1),
              parts.flatMap (fun p => p.data.getD []), flt)
        match flt with
        | some _ => done s
        | none =>
          match s1.localWrite ag.src ld lc (dLocal d) data with
          | (_, some _) => done s
          | (s2, none) =>
            let s3 := s2.setXfer die core i { x with buf := some data, copies := x.copies ++ [leaf] }
            done (if ld = die && lc = core then s3 else s3.leafTag ld lc (dTag d) 0)

/-- An overfull group or a capacity drop ends a pack transfer (R110); the log holds the scratchpad offset of the dense
group. -/
def State.packOverfull (s : State) (die core i : Nat) (x : Xfer) (st : PackStep) (e : XferFault) : State :=
  let u := dmaU die core
  let d := x.desc.getD 0
  let s0 := (((s.bump u Reg.SPK_OVERFULL_COUNT st.ovr).bump u Reg.SPK_CAPDROP_COUNT st.drops).addIrreg
    (s.rd u (Reg.RING_CFG_LAYER x.ring)) 1)
  let s1 := (s0.dmaCapture die core e (dTag d) x.ring true false false).wr u Reg.SPK_STAT_FAULTED 1
  let c := s1.core die core
  let s2 := (s1.setCore die core { c with xfers := c.xfers.eraseIdx i }).returnTag die core (dTag d) ePACK_OVERFULL
  ((s2.dmaStat die core).packStat die core).logEvent ePACK_OVERFULL u e.addr (s2.dmaFinfo die core) (dTag d)
    (s2.rd (seqU die core) Reg.SEQ_CYC_LO_VALUE)

/-- PACK_TILE_WRITE (R107 to R110): the next tile of a pack transfer is written whole. -/
def execPackTileWrite (die core tag : Nat) (upsets : List (Nat × Nat)) (s0 : State) : Host.Outcome State Fault Refusal :=
  let s := s0.upset upsets
  match (s.core die core).xferOf (tag % 256) with
  | none => done s
  | some (i, x) =>
    let d := x.desc.getD 0
    let ag := s.dmaAgent die core
    if !dPack d || dCnt d 2 ≤ x.tiles then done s
    else
      match s.asIssued x (fun s => s.packNext ag die core d 0 x) with
      | (s1, some st, none) =>
        match s1.writeRuns ag 0 (joinWrites [((dBase d + x.pos) % 2 ^ 64, st.tile)]) with
        | (s2, _, none) =>
          let u := dmaU die core
          let s3 := (((s2.bump u Reg.SPK_TILES_COUNT 1).bump u Reg.SPK_OVERFULL_COUNT st.ovr).bump u
            Reg.SPK_CAPDROP_COUNT st.drops).dmaEvents die core x.ring st.ev
          done ((s3.addIrreg (s3.rd u (Reg.RING_CFG_LAYER x.ring)) (st.ovr + st.drops)).setXfer die core i
            { x with tiles := x.tiles + 1, pos := x.pos + st.stride })
        | _ => done s
      | (s1, some st, some e) => done (s1.packOverfull die core i x st e)
      | _ => done s

/-- EXPAND_TILE (R111): the next tile of an expand transfer is written as dense data at the local end. -/
def execExpandTile (die core tag : Nat) (upsets : List (Nat × Nat)) (s0 : State) : Host.Outcome State Fault Refusal :=
  let s := s0.upset upsets
  match (s.core die core).xferOf (tag % 256) with
  | none => done s
  | some (i, x) =>
    let d := x.desc.getD 0
    let ag := s.dmaAgent die core
    if !dExpand d || dCnt d 2 ≤ x.tiles then done s
    else
      match s.asIssued x (fun s => s.expandNext ag d 0 x) with
      | (s1, some (off, bs, size, ev), none) =>
        match s1.localWrite ag.src die core off bs with
        | (s2, none) =>
          done ((s2.dmaEvents die core x.ring ev).setXfer die core i { x with tiles := x.tiles + 1, pos := x.pos + size })
        | _ => done s
      | _ => done s

/-! ### Faults (R180, R181) -/

/-- A write of a fault's mix: a part of the local region of a leaf, old and new contents mixed. -/
def State.mixLocal (s : State) (src die core off : Nat) (new : List Byte) : State :=
  let old := s.bytesAt (epAddr (spU die core) off) new.length
  let (bs, s1) := s.mixBytes old new
  (s1.localWrite src die core off bs).1

/-- The remote writes of a faulted store that were still made, as free values choose. -/
def State.mixRemote (s : State) (ag : Agent) (accs : List (Nat × List Byte)) : State :=
  forEach accs (fun s a =>
    let (v, s1) := s.fresh
    if v % 2 = 0 then (s1.remoteAcc ag permWrite 0 a.1 (some a.2) a.2.length).1 else s1) s

/-- A transfer ended by a fault: captured, logged, its tag and those of the leaves without a copy in error. -/
def State.xferFault (s : State) (die core i : Nat) (x : Xfer) (e : XferFault) : State :=
  let d := x.desc.getD 0
  let leaves := if dMcast d then (s.mcastLeaves die core d).zipIdx.filter (fun p => !x.copies.contains p.2) else []
  let s1 := forEach (leaves.filter (fun p => !(p.1 == (die, core)))) (fun s p => s.leafTag p.1.1 p.1.2 (dTag d) e.code) s
  (s1.failXfer die core i x e).packStat die core

/-- DMA_ACCESS_FAULT (R180, R181): an access of a transfer faults, and the transfer ends. Its accesses are made from
number `first` on; `remote` is the error with which another module answers, 0 for none. -/
def execDmaAccessFault (die core tag first remote : Nat) (upsets : List (Nat × Nat)) (s0 : State) :
    Host.Outcome State Fault Refusal :=
  let s := s0.upset upsets
  match (s.core die core).xferOf (tag % 256) with
  | none => done s
  | some (i, x) =>
    let d := x.desc.getD 0
    let ag := s.dmaAgent die core
    if dPack d then
      match s.asIssued x (fun s => s.packNext ag die core d remote x) with
      | (s1, none, some e) => done (s1.xferFault die core i x e)
      | (s1, some st, none) =>
        let accs := rotate first (joinWrites [((dBase d + x.pos) % 2 ^ 64, st.tile)])
        match s1.writeRuns ag remote accs with
        | (_, _, some e) =>
          let (s2, _, _) := s1.writeRuns ag remote (accs.filter (fun a => a.1 == e.addr))
          done ((s2.mixRemote ag (accs.filter (fun a => !(a.1 == e.addr)))).xferFault die core i x e)
        | _ => done s
      | _ => done s
    else if dExpand d then
      match s.asIssued x (fun s => s.expandNext ag d remote x) with
      | (s1, none, some e) => done (s1.xferFault die core i x e)
      | (s1, some (off, bs, _, _), none) =>
        match (s1.localWrite ag.src die core off bs).2 with
        | some e => done ((s1.mixLocal ag.src die core off bs).xferFault die core i x e)
        | none => done s
      | _ => done s
    else if dStore d then
      match s.asIssued x (fun s => s.storeData ag die core d) with
      | (s1, _, _, some e) => done (s1.xferFault die core i x e)
      | (s1, runs, _, none) =>
        let accs := rotate first runs
        match s1.writeRuns ag remote accs with
        | (_, _, some e) =>
          let (s2, _, _) := s1.writeRuns ag remote (accs.filter (fun a => a.1 == e.addr))
          done ((s2.mixRemote ag (accs.filter (fun a => !(a.1 == e.addr)))).xferFault die core i x e)
        | _ => done s
    else
      let leaves := if dMcast d then
          ((s.mcastLeaves die core d).zipIdx.filter (fun p => !x.copies.contains p.2)).map (fun p => p.1)
        else [(die, core)]
      let mixAll (s : State) (parts : List DestPart) : State :=
        forEach leaves (fun s l =>
          forEach parts (fun s p => match p.data with
            | some bs => s.mixLocal ag.src l.1 l.2 (dLocal d + p.at_) bs
            | none => s) s) s
      match x.buf with
      | some b =>
        match leaves.findSome? (fun l => (s.localWrite ag.src l.1 l.2 (dLocal d) b).2) with
        | some e => done ((mixAll s [⟨0, b.length, some b, Events.none⟩]).xferFault die core i x e)
        | none => done s
      | none =>
        match s.asIssued x (fun s => s.loadData ag d remote first) with
        | (s1, parts, some e) => done ((mixAll s1 parts).xferFault die core i x e)
        | (s1, parts, none) =>
          let bs := parts.flatMap (fun p => p.data.getD [])
          match leaves.findSome? (fun l => (s1.localWrite ag.src l.1 l.2 (dLocal d) bs).2) with
          | some e => done ((mixAll s1 parts).xferFault die core i x e)
          | none => done s

/-! ### Instruction loads and tags (09_core_sequencer R210, R228, R232) -/

/-- The destination of an instruction load that ended with a fault: every byte that could be read may have been written, as
free values choose (R180). -/
def State.mixLoad (s : State) (ag : Agent) (die core : Nat) (l : Iload) : State :=
  forEach (List.range (Nat.min l.count (8192 - l.dst))) (fun s k =>
    let r := (s.vread ag (l.src + 64 * k) 64 permRead).2
    let a := epAddr (seqU die core) (0x100000 + 64 * (l.dst + k))
    if r.err ≠ 0 then s
    else
      let (bs, s1) := s.mixBytes (s.bytesAt a 64) r.data
      s1.putBytes a bs) s

/-- An instruction load at its end: the bundles are written and its tag returns, or it ends as a faulted transfer. -/
def State.iloadEnd (s : State) (die core : Nat) (l : Iload) : State × Nat :=
  let c := s.core die core
  let s1 := s.setCore die core { c with iloads := c.iloads.filter (fun x => !(x == l)) }
  let ag := s1.dmaAgent die core
  let u := dmaU die core
  let bad (s : State) (code addr : Nat) : State :=
    let s2 := s.dmaCapture die core ⟨code, addr, false⟩ l.tag 0 false false false
    s2.logEvent code u addr (s2.dmaFinfo die core) l.tag (s2.rd (seqU die core) Reg.SEQ_CYC_LO_VALUE)
  if l.src % 64 ≠ 0 then (bad s1 eALIGN l.src, eALIGN)
  else
    let (s2, r) := s1.vread ag l.src (64 * l.count) permRead
    if r.err ≠ 0 then (bad (s2.mixLoad ag die core l) r.err r.addr, r.err)
    else
      let room := 64 * (8192 - Nat.min 8192 l.dst)
      (s2.putBytes (epAddr (seqU die core) (0x100000 + 64 * l.dst)) (r.data.take room), 0)

/-- TAG_RETURN (R228): a tag of a core is recorded as returned, `err` with an error response. A tag of an instruction
load brings the load to its end; a limited wait whose last period `period` holds the recording counts a near miss. -/
def execTagReturn (die core tag err period : Nat) (upsets : List (Nat × Nat)) (s0 : State) :
    Host.Outcome State Fault Refusal :=
  let s := s0.upset upsets
  let t := tag % 256
  let (s1, e) := match (s.core die core).iloads.find? (fun l => l.tag == t) with
    | some l => s.iloadEnd die core l
    | none => (s, err)
  let was := mget (s1.core die core).tags t .free
  let s2 := s1.recordTag die core t e
  done (if was == .out then s2.nearMiss die core 1 t period else s2)

end Sys2Proof.Machine
end

