-- ==== Sys2Proof/Machine/Stack.lean ====
section
/-!
DEFINITION. The activation stack: frames pushed and popped through the DMA engine, and the stamps they compare
(11_backward_pass R271 to R281). The stack unit reaches memory as its core's DMA engine does (assumption 20).
-/
namespace Sys2Proof.Machine

/-! ### Issues and frames (Table 11-2, R273) -/

def StackOp.tag (o : StackOp) : Nat := bitsOf o.sl 15 0
def StackOp.nst (o : StackOp) : Nat := bitsOf o.sl 23 16
def StackOp.stoff (o : StackOp) : Nat := bitsOf o.sl 46 24
/-- The bytes of the stamp block of a frame. -/
def StackOp.block (o : StackOp) : Nat := roundUp (16 * o.nst) 64

/-- The runs that a descriptor's remote end covers, as addresses and lengths. -/
def remoteSpans (d : Nat) : List (Nat × Nat) :=
  if dStore d then
    match dCvtFmt d with
    | none => []
    | some g =>
      if g.isMX then
        (List.range (dExt d 1 * dCnt d 2 * dCnt d 3 * dCnt d 4)).filterMap (fun r =>
          let i := dIndex d (dPadLo d 0 + dExt d 0 * r)
          if dIsPad d i then none else some (dRowAddr d i, ceilDiv (dCnt d 0) 256 * g.stripBytes))
      else
        (List.range (dTotal d)).filterMap (fun q =>
          let i := dIndex d q
          if dIsPad d i then none else some (dAddr d i, g.bytes))
  else
    match dFmt d with
    | none => []
    | some f => loadRuns d f

/-- The end of the payload bytes that some descriptors reach. -/
def payloadEnd (ds : List Nat) : Nat :=
  (ds.flatMap remoteSpans).foldl (fun a r => Nat.max a (r.1 + r.2)) 0

/-- A descriptor with its payload offset turned into an address (R274). -/
def atPayload (d payload : Nat) : Nat := d - dBase d + (dBase d + payload) % 2 ^ 64

/-- The virtual base and the size of a core's stack. -/
def State.stkBase (s : State) (u : Nat) : Nat :=
  va57 (s.rd u Reg.STK_BASE_LO_ADDR + 2 ^ 32 * s.rd u Reg.STK_BASE_HI_ADDR)
def State.stkSize (s : State) (u : Nat) : Nat := s.rd u Reg.STK_SIZE_LO_SIZE + 2 ^ 32 * s.rd u Reg.STK_SIZE_HI_SIZE

/-- A frame header (Table 11-2). -/
def frameHeader (layer nst nxfer step psize prev : Nat) : List Byte :=
  leBytes 2 layer ++ leBytes 1 nst ++ leBytes 1 0 ++ leBytes 2 nxfer ++ leBytes 2 0 ++ leBytes 8 step ++ leBytes 4 psize ++
    leBytes 4 0 ++ leBytes 8 prev ++ List.replicate 32 0

/-- The front issue of a core's stack unit changed. -/
def State.setFront (s : State) (die core : Nat) (o : StackOp) : State :=
  let c := s.core die core
  s.setCore die core { c with stk := c.stk.zipIdx.map (fun p => if p.2 = 0 then o else p.1) }

/-- The front issue of a core's stack unit leaves it; the ring's descriptors serve the issues that follow. -/
def State.popFront (s : State) (die core : Nat) : State :=
  let c := s.core die core
  let u := stkU die core
  let ring := match c.stk with
    | o :: _ => o.ring
    | [] => 0
  let s1 := s.setCore die core { c with stk := c.stk.tail }
  ((s1.wr u Reg.STK_STAT_QUEUED c.stk.tail.length).wr u Reg.STK_STAT_BUSY 0).feedStack die core ring

/-- A stack issue that halts its core leaves the unit. -/
def State.stackHalt (s : State) (die core code d0 d1 : Nat) : State :=
  let s1 := s.popFront die core
  let u := seqU die core
  if s1.rd u Reg.SEQ_STAT_RUN = 1 then
    s1.haltCore die core code false 0 d0 d1 (s1.rd u Reg.SEQ_CYC_LO_VALUE) (s1.rd u Reg.SEQ_PC_PC)
  else s1.logHalt code u d0 d1

/-- The transfers of a frame started, the last one marked. -/
def State.startFrame (s : State) (die core : Nat) (o : StackOp) (payload : Nat) : State :=
  let c := s.core die core
  let n := o.descs.length
  let one (p : Nat × Nat) : Xfer :=
    { ring := o.ring, desc := some (atPayload p.1 payload), started := true, stack := true, last := decide (p.2 + 1 = n) }
  let xs := o.descs.zipIdx.map one
  (((s.setCore die core { c with xfers := c.xfers ++ xs }).keepSources die core).wr (stkU die core)
    Reg.STK_STAT_BUSY 1).dmaStat die core

/-- Whether every transfer of the frame under way has moved its data. -/
def CoreSt.frameMoved (c : CoreSt) : Bool :=
  let mine := c.xfers.filter (fun x => x.stack)
  mine.length == 1 && mine.all (fun x => x.last && x.moved)

/-- The last tag of a frame returned. -/
def State.endFrame (s : State) (die core : Nat) : State :=
  match (s.core die core).xfers.findIdx? (fun x => x.stack) with
  | some i => (s.endXfer die core i).popFront die core
  | none => s.popFront die core

/-! ### Commands -/

/-- The front issue of a core's stack unit where it may start: every descriptor has arrived. -/
def CoreSt.stackReady (c : CoreSt) (pop : Bool) : Option StackOp :=
  match c.stk with
  | o :: _ => if o.pop == pop && o.run.isNone && o.descs.length == o.count then some o else none
  | [] => none

/-- STACK_PUSH_START (R274): the frame is placed, its stamp block copied and its transfers started. -/
def execStackPushStart (die core : Nat) (upsets : List (Nat × Nat)) (s0 : State) : Host.Outcome State Fault Refusal :=
  let s := s0.upset upsets
  let u := stkU die core
  match (s.core die core).stackReady false with
  | none => done s
  | some o =>
    let psize := roundUp (payloadEnd o.descs) 64
    let f := 64 + o.block + psize
    let top := s.rd u Reg.STK_TOP_LO_OFF
    if spBytes < o.stoff + 16 * o.nst then done (s.stackHalt die core eXLATE o.stoff 0)
    else if s.stkSize u < top + f then
      done ((s.wr u Reg.STK_STAT_FAULTED 1).stackHalt die core eSTACK_OVERFLOW (top + f) (s.stkSize u))
    else
      let depth := s.rd u Reg.STK_STAT_DEPTH
      let prev := if depth = 0 then 2 ^ 64 - 1 else s.rd u Reg.STK_LAST_LO_OFF
      let s1 := ((((s.wr u Reg.STK_TOP_LO_OFF (top + f)).wr u Reg.STK_LAST_LO_OFF top).wr u Reg.STK_STAT_DEPTH
        (depth + 1)).wr u Reg.STK_HWM_LO_OFF (Nat.max (top + f) (s.rd u Reg.STK_HWM_LO_OFF))).setFront die core
          { o with run := some (psize, prev) }
      let ag := s1.dmaAgent die core
      let at_ := s1.stkBase u + top
      match s1.localRead ag.src die core o.stoff (16 * o.nst) with
      | (s2, none, e) => done (s2.stackHalt die core ((e.map XferFault.code).getD eECC_UE) o.stoff 0)
      | (s2, some stamps, _) =>
        let (s3, r) := s2.vwrite ag (at_ + 64) (padTo o.block stamps)
        if r.err ≠ 0 then done (s3.stackHalt die core r.err r.addr 0)
        else done (s3.startFrame die core o (at_ + 64 + o.block))

/-- FRAME_HEADER_WRITE (R274): every transfer of the push is complete; the header is written and the last tag returns. -/
def execFrameHeaderWrite (die core : Nat) (s : State) : Host.Outcome State Fault Refusal :=
  let u := stkU die core
  let c := s.core die core
  match c.stk with
  | o :: _ =>
    match o.run with
    | some (psize, prev) =>
      if !o.pop && !o.failed && c.frameMoved then
        let (s1, r) := s.vwrite (s.dmaAgent die core) (s.stkBase u + s.rd u Reg.STK_LAST_LO_OFF)
          (frameHeader o.tag o.nst o.count (s.rd keeperU Reg.FX_STEP_LO_VALUE) psize prev)
        if r.err ≠ 0 then done (s1.stackHalt die core r.err r.addr 0)
        else done (s1.endFrame die core)
      else done s
    | none => done s
  | [] => done s

/-- The stamps of a frame that differ counted and logged (R281): `l` holds for each stamp that differs its index and the
STEP of both. -/
def State.staleStamps (s : State) (die core layer : Nat) (l : List (Nat × Nat × Nat)) : State :=
  let u := stkU die core
  forEach l (fun s p =>
    let s1 := ((s.bump u Reg.STK_STALE_COUNT 1).wr u Reg.STK_STAT_STALE 1).wr u Reg.STK_FCAP_FOUND p.1
    ({ s1 with fix := { s1.fix with flags := s1.fix.flags ||| fSTALE } } : State).logAs eSHARD_STALE cSKIP u layer p.1
      p.2.1 p.2.2) s

/-- STACK_POP_START (R275): the header is checked, the stamps compared and the transfers started. -/
def execStackPopStart (die core : Nat) (upsets : List (Nat × Nat)) (s0 : State) : Host.Outcome State Fault Refusal :=
  let s := s0.upset upsets
  let u := stkU die core
  match (s.core die core).stackReady true with
  | none => done s
  | some o =>
    if spBytes < o.stoff + 16 * o.nst then done (s.stackHalt die core eXLATE o.stoff 0)
    else if s.rd u Reg.STK_STAT_DEPTH = 0 then
      done ((((s.wr u Reg.STK_STAT_FAULTED 1).wr u Reg.STK_FCAP_EXPECT o.tag).wr u Reg.STK_FCAP_EMPTY 1).stackHalt die core
        eSTACK_TAG o.tag 0)
    else
      let ag := s.dmaAgent die core
      let at_ := s.stkBase u + s.rd u Reg.STK_LAST_LO_OFF
      let (s1, r) := s.vread ag at_ 64 permRead
      if r.err ≠ 0 then done (s1.stackHalt die core r.err r.addr 0)
      else
        let h := r.data
        let layer := leAt h 0 2
        let psize := leAt h 0x10 4
        if layer ≠ o.tag || leAt h 8 8 ≠ s1.rd keeperU Reg.FX_STEP_LO_VALUE || leAt h 4 2 ≠ o.count ||
            leAt h 2 1 ≠ o.nst || psize < payloadEnd o.descs then
          done (((((s1.wr u Reg.STK_STAT_FAULTED 1).wr u Reg.STK_FCAP_EXPECT o.tag).wr u Reg.STK_FCAP_FOUND layer).wr u
            Reg.STK_FCAP_EMPTY 0).stackHalt die core eSTACK_TAG o.tag layer)
        else
          match s1.localRead ag.src die core o.stoff (16 * o.nst) with
          | (s2, none, e) => done (s2.stackHalt die core ((e.map XferFault.code).getD eECC_UE) o.stoff 0)
          | (s2, some mine, _) =>
            let (s3, b) := s2.vread ag (at_ + 64) (16 * o.nst) permRead
            if b.err ≠ 0 then done (s3.stackHalt die core b.err b.addr 0)
            else
              let differ := (List.range o.nst).filterMap (fun i =>
                if slice mine (16 * i) 16 = slice b.data (16 * i) 16 then none
                else some (i, leAt mine (16 * i) 8, leAt b.data (16 * i) 8))
              let s4 := (s3.staleStamps die core o.tag differ).setFront die core { o with run := some (psize, leAt h 0x18 8) }
              done (s4.startFrame die core o (at_ + 64 + o.block))

/-- POP_COMPLETE (R275): every transfer of the pop is complete; TOP, LAST and DEPTH go back and the last tag returns. -/
def execPopComplete (die core : Nat) (s : State) : Host.Outcome State Fault Refusal :=
  let u := stkU die core
  let c := s.core die core
  match c.stk with
  | o :: _ =>
    match o.run with
    | some (_, prev) =>
      if o.pop && !o.failed && c.frameMoved then
        let s1 := ((s.wr u Reg.STK_TOP_LO_OFF (s.rd u Reg.STK_LAST_LO_OFF)).wr u Reg.STK_LAST_LO_OFF prev).wr u
          Reg.STK_STAT_DEPTH (s.rd u Reg.STK_STAT_DEPTH - 1)
        done (s1.endFrame die core)
      else done s
    | none => done s
  | [] => done s

/-- The stack of a core emptied at a step boundary (R278). -/
def State.emptyStack (s : State) (die core : Nat) : State :=
  let u := stkU die core
  ((s.wr u Reg.STK_TOP_LO_OFF 0).wr u Reg.STK_LAST_LO_OFF 0).wr u Reg.STK_STAT_DEPTH 0

end Sys2Proof.Machine
end

