-- ==== Sys2Proof/Machine/Update.lean ====
section
/-!
DEFINITION. The update engines: the records of the update list, the optimizers, the working copies and stamps, and what a
fault does (12_update_and_fixer R289 to R299).
-/
namespace Sys2Proof.Machine

def State.ue (s : State) (die : Nat) : UeSt := mget s.ues die {}
def State.setUe (s : State) (die : Nat) (u : UeSt) : State := { s with ues := mset {} s.ues die u }

/-- How an update engine reaches memory. -/
def State.ueAgent (s : State) (die : Nat) : Agent := ⟨s.unitAddr (ueU die), die, 2⟩

/-- The base of a die's update list. -/
def State.ueList (s : State) (die : Nat) : Nat :=
  va57 (s.rd (ueU die) Reg.UE_LIST_LO_ADDR + 2 ^ 32 * s.rd (ueU die) Reg.UE_LIST_HI_ADDR)

/-! ### Accesses of a record -/

/-- An engine's accesses in order: the state they leave, and the error code and address of the one that met a fault. -/
structure UeAcc where
  st : State
  err : Nat
  addr : Nat

def UeAcc.read (a : UeAcc) (ag : Agent) (va n : Nat) : UeAcc × List Byte :=
  if a.err ≠ 0 then (a, [])
  else
    let (s1, r) := a.st.vread ag (va % 2 ^ 64) n permRead
    (⟨s1, r.err, r.addr⟩, r.data)

def UeAcc.write (a : UeAcc) (ag : Agent) (va : Nat) (bs : List Byte) : UeAcc :=
  if a.err ≠ 0 || bs.isEmpty then a
  else
    let (s1, r) := a.st.vwrite ag (va % 2 ^ 64) bs
    ⟨s1, r.err, r.addr⟩

/-- A little-endian number read. -/
def UeAcc.num (a : UeAcc) (ag : Agent) (va n : Nat) : UeAcc × Nat :=
  let (a1, bs) := a.read ag va n
  (a1, leNat bs)

/-! ### Records (R289, R290; Table 12-1), as 512-bit numbers -/

def urOpt (r : Nat) : Nat := bitsOf r 1 0
def urBf16 (r : Nat) : Bool := bitAt r 2
def urSr (r : Nat) : Bool := bitAt r 3
def urWen (r : Nat) : Bool := bitAt r 4
def urCvt (r : Nat) : Nat := bitsOf r 15 8
def urLayer (r : Nat) : Nat := bitsOf r 31 16
def urNelem (r : Nat) : Nat := bitsOf r 63 32
def urGrad (r : Nat) : Nat := bitsOf r 127 64
def urBuf (r b : Nat) : Nat := if b = 0 then bitsOf r 191 128 else bitsOf r 255 192
def urMoff (r : Nat) : Nat := bitsOf r 287 256
def urVoff (r : Nat) : Nat := bitsOf r 319 288
def urWoff (r : Nat) : Nat := bitsOf r 351 320
def urTensor (r : Nat) : Nat := bitsOf r 375 352
def urHset (r : Nat) : Nat := bitsOf r 379 376
def urShard (r : Nat) : Nat := bitsOf r 399 384
def urGmul (r : Nat) : Nat := bitsOf r 447 416
def urIbase (r : Nat) : Nat := bitsOf r 495 448

/-- The bytes of one moment. -/
def urMw (r : Nat) : Nat := if urBf16 r then 2 else 4

/-- The format of the working copy. -/
def urFmt (r : Nat) : Fmt := (fmtOfCode (convCodeOf (urCvt r))).getD .fp32
where
  convCodeOf (b : Nat) : Nat := bitsOf b 4 0

/-- The bytes of the data that a block's stamp covers, and its offset in the block (R280, R290). -/
def urData (r : Nat) : Nat × Nat :=
  if urWen r then
    (urWoff r, if (urFmt r).isMX then urNelem r / 256 * (urFmt r).stripBytes else urNelem r * (urFmt r).bytes)
  else (0, 4 * urNelem r)

/-- The offset of a block's stamp. -/
def urStamp (r base : Nat) : Nat := roundUp (base + (urData r).1 + (urData r).2) 64 - base

/-- The size of a block, stamp included: from its base to the end of its stamp. -/
def urBlock (r base : Nat) : Nat :=
  Nat.max (urStamp r base + 16)
    (Nat.max (4 * urNelem r) (Nat.max (urMoff r + urMw r * urNelem r)
      (if urOpt r = 1 then urVoff r + urMw r * urNelem r else 0)))

/-! ### Hyperparameters (R294) -/

/-- The values that an engine forms once per record. -/
structure UeHyper where
  b1 : Nat
  b2 : Nat
  eps : Nat
  wd : Nat
  lr : Nat
  bc1 : Nat
  bc2 : Nat
  c1 : Nat
  c2 : Nat
  deriving DecidableEq, Repr

/-- An exact power of a value. -/
def numPow (x : Num) (t : Nat) : Num :=
  match x with
  | .fin s m e => .fin (s && t % 2 == 1) (m ^ t) (e * t)
  | .inf s => if t = 0 then .fin false 1 0 else .inf (s && t % 2 == 1)
  | .nan => .nan

/-- The FP32 value nearest 1 − B^t, the power and the difference exact. -/
def biasFix (b t : Nat) : Nat := toF32 ((Num.fin false 1 0).add (numPow (ofF32 b) t).neg)

/-- The values of a record, read from the list. -/
def UeAcc.hyper (a : UeAcc) (ag : Agent) (list r upd : Nat) : UeAcc × UeHyper :=
  let (a1, lrlen) := a.num ag (list + 8) 4
  let (a2, lrtab) := a1.num ag (list + 0x10) 8
  let (a3, set) := a2.read ag (list + 64 + 32 * urHset r) 20
  let (a4, rate) := a3.num ag (lrtab + 4 * Nat.min upd (lrlen - 1)) 4
  let b1 := leAt set 0 4
  let b2 := leAt set 4 4
  (a4, { b1 := b1, b2 := b2, eps := leAt set 8 4, wd := leAt set 12 4, lr := fmul rate (leAt set 16 4),
         bc1 := biasFix b1 (upd + 1), bc2 := biasFix b2 (upd + 1), c1 := fsub fone b1, c2 := fsub fone b2 })

/-! ### Optimizers (R295, Table 12-2) -/

/-- The sign function of R295. -/
def fsign (x : Nat) : Nat :=
  match ofF32 x with
  | .nan => 0x7FC00000
  | .inf s => if s then 0xBF800000 else fone
  | .fin s m _ => if m = 0 then 0 else if s then 0xBF800000 else fone

/-- An optimizer's step on one element: w′, m′ and v′; of the reserved one, free values (assumption 64). -/
def optStep (opt : Nat) (h : UeHyper) (g w m v : Nat) : Nat × Nat × Nat :=
  let decay := fmul h.wd w
  let apply (u : Nat) : Nat := fsub w (fmul h.lr u)
  match opt with
  | 0 =>
    let m1 := fadd (fmul h.b1 m) g
    (apply (fadd m1 decay), m1, v)
  | 1 =>
    let m1 := fadd (fmul h.b1 m) (fmul h.c1 g)
    let v1 := fadd (fmul h.b2 v) (fmul h.c2 (fmul g g))
    let u := fadd (fdiv (fdiv m1 h.bc1) (fadd (fsqrt (fdiv v1 h.bc2)) h.eps)) decay
    (apply u, m1, v1)
  | 2 =>
    let k := fadd (fmul h.b1 m) (fmul h.c1 g)
    (apply (fadd (fsign k) decay), fadd (fmul h.b2 m) (fmul h.c2 g), v)
  | _ =>
    let r := Config.reservedOpt g w m v
    (r.1 % 2 ^ 32, r.2.1 % 2 ^ 32, r.2.2 % 2 ^ 32)

/-! ### One record -/

/-- What a record has done so far: its accesses, the working copy's elements, the stored bytes, events, FP64 sums and
elements done. -/
structure UeRun where
  acc : UeAcc
  wc : List (Num × Rounding)
  ev : Events
  sums : Nat × Nat × Nat
  count : Nat

/-- A stored moment as FP32 bits. -/
def momentIn (r bits : Nat) : Nat := if urBf16 r then 65536 * bits else bits

/-- A moment as stored, with its events (R296). -/
def momentOut (r : Nat) (rd : Rounding) (v : Nat) : List Byte × Events :=
  if urBf16 r then
    let (b, ev) := encodeElem .bf16 .clamp rd (ofF32 v)
    (leBytes 2 b, ev)
  else (leBytes 4 v, Events.none)

/-- The square of FP64 bits, rounded. -/
def dsquare (v : Nat) : Nat := toF64 ((ofF64 v).mul (ofF64 v))

/-- The square of an FP32 value in FP64. -/
def squareOf (v : Nat) : Nat := toF64 ((ofF32 v).mul (ofF32 v))

/-- The rounding of a converted element of a record: stochastic with the keys of R60, or to nearest even. -/
def State.ueRound (s : State) (sr : Bool) (tensor index : Nat) : Rounding :=
  if sr then .sr (srRandom s.job.seed (s.rd keeperU Reg.FX_STEP_LO_VALUE) tensor index) else .rne

/-- One element of a record (R294 to R298). SR of an FP32 or INT32 working copy is ignored (02_number_formats R49). An element
that is not finite counts a NONFINITE event of its own beside those of its conversions (DESIGN CHOICE, assumption 204). -/
def UeRun.elem (u : UeRun) (ag : Agent) (r : Nat) (h : UeHyper) (rshift : Int) (src dst i : Nat) : UeRun :=
  if u.acc.err ≠ 0 then u
  else
    let two := urOpt r == 1
    let mw := urMw r
    let (a1, sum) := u.acc.num ag (urGrad r + 6 * i) 6
    let (a2, w) := a1.num ag (src + 4 * i) 4
    let (a3, mb) := a2.num ag (src + urMoff r + mw * i) mw
    let (a4, vb) := if two then a3.num ag (src + urVoff r + mw * i) mw else (a3, 0)
    if a4.err ≠ 0 then { u with acc := a4 }
    else
      let si := sext 48 sum
      let exact : Num := .fin (decide (si < 0)) si.natAbs 0
      let g := fmul (toF32 (exact.scale (-rshift))) (urGmul r)
      let (w1, m1, v1) := optStep (urOpt r) h g w (momentIn r mb) (momentIn r vb)
      let s := a4.st
      let (mo, me) := momentOut r (s.ueRound (urSr r) (urTensor r) (urIbase r + i)) m1
      let (vo, ve) := if two then momentOut r (s.ueRound (urSr r) (urTensor r + 1) (urIbase r + i)) v1 else ([], Events.none)
      let bad := !(ffinite g && ffinite w1 && ffinite m1 && (!two || ffinite v1))
      let rd := s.ueRound (bitAt (urCvt r) 7 && urFmt r != .fp32 && urFmt r != .int32) (urTensor r + 2) (urIbase r + i)
      let plain := urWen r && !(urFmt r).isMX
      let (wb, we) := if plain then encodeElem (urFmt r) (ovfOf (bitsOf (urCvt r) 6 5)) rd (ofF32 w1) else (0, Events.none)
      let a5 := ((a4.write ag (dst + 4 * i) (leBytes 4 w1)).write ag (dst + urMoff r + mw * i) mo).write ag
        (dst + urVoff r + mw * i) vo
      let a6 := if plain then a5.write ag (dst + urWoff r + (urFmt r).bytes * i) (leBytes (urFmt r).bytes wb) else a5
      let diff := toF64 ((ofF32 w1).add (ofF32 w).neg)
      { acc := a6
        wc := if urWen r && !plain then u.wc ++ [(ofF32 w1, rd)] else u.wc
        ev := (u.ev.add ⟨me.clamp + ve.clamp, b2n bad, 0⟩).add we
        sums := (dadd u.sums.1 (squareOf g), dadd u.sums.2.1 (squareOf w1), dadd u.sums.2.2 (dsquare diff))
        count := u.count + 1 }

/-- The strips of an MX working copy written (R290, R296). -/
def UeRun.strips (u : UeRun) (ag : Agent) (r dst : Nat) : UeRun :=
  if !(urWen r && (urFmt r).isMX) then u
  else
    let f := urFmt r
    let rows := chunksOf 256 (Num.zero, Rounding.rne) (urNelem r / 256) u.wc
    rows.zipIdx.foldl (fun (u : UeRun) x =>
      if u.acc.err ≠ 0 then u
      else
        let (bs, ev) := encodeStrip f (bitsOf (urCvt r) 6 5 == 1) x.1
        { u with acc := u.acc.write ag (dst + urWoff r + f.stripBytes * x.2) bs, ev := u.ev.add ev }) u

/-- The stamp written last (R280, R293). -/
def UeRun.stamp (u : UeRun) (ag : Agent) (r dst active : Nat) : UeRun :=
  if u.acc.err ≠ 0 then u
  else
    let (off, n) := urData r
    let (a1, bs) := u.acc.read ag (dst + off) n
    let step := a1.st.rd keeperU Reg.FX_STEP_LO_VALUE
    let stamp := leBytes 8 step ++ leBytes 4 (crc32 bs) ++ leBytes 2 (urShard r) ++ leBytes 1 (1 - active) ++ leBytes 1 0
    { u with acc := a1.write ag (dst + urStamp r dst) stamp }

/-- The record that an engine has next. -/
def UeAcc.record (a : UeAcc) (ag : Agent) (list k : Nat) : UeAcc × Nat :=
  let (a1, nset) := a.num ag (list + 4) 4
  a1.num ag (list + 64 + 32 * nset + 64 * k) 64

/-- A whole record run. -/
def State.ueRun (s : State) (die : Nat) : UeRun × Nat :=
  let ag := s.ueAgent die
  let list := s.ueList die
  let e := s.ue die
  let active := s.rd keeperU Reg.FX_STAT_ACTIVE
  let (a1, r) := UeAcc.record ⟨s, 0, 0⟩ ag list e.next
  let (a2, h) := a1.hyper ag list r (s.rd keeperU Reg.FX_UPD_LO_VALUE)
  let src := urBuf r active
  let dst := urBuf r (1 - active)
  let start : UeRun := ⟨a2, [], Events.none, mget e.sums (urLayer r) (0, 0, 0), 0⟩
  let u := (List.range (urNelem r)).foldl (fun u i => u.elem ag r h (s.rshift (urLayer r)) src dst i) start
  ((u.strips ag r dst).stamp ag r dst active, r)

/-- The counts of a record's elements and events (R297). -/
def UeRun.counted (u : UeRun) (die layer : Nat) : State :=
  let c := ueU die
  (((u.acc.st.bump c Reg.UE_NONFIN_COUNT u.ev.nonfin).bump c Reg.UE_CLAMP_COUNT u.ev.clamp).bump c Reg.UE_ELEMS_COUNT
    u.count).addEvents c layer u.ev

/-! ### The commands -/

/-- Whether an engine may start its next record: the one before is complete, and nothing has stopped it (R293, R299). -/
def State.ueMay (s : State) (die : Nat) : Bool :=
  let e := s.ue die
  s.running && decide (die < 24) && !e.stopped && decide (e.next < e.recs)

/-- UPDATE_RECORD_START (R293): the next record starts once the sums of its layer are delivered. -/
def execUpdateRecordStart (die : Nat) (upsets : List (Nat × Nat)) (s0 : State) : Host.Outcome State Fault Refusal :=
  let s := s0.upset upsets
  let e := s.ue die
  if s.ueMay die && !e.busy then
    let (a, r) := UeAcc.record ⟨s, 0, 0⟩ (s.ueAgent die) (s.ueList die) e.next
    if a.err = 0 && a.st.redDelivered (urLayer r) then
      done (((a.st.setUe die { e with busy := true }).wr (ueU die) Reg.UE_STAT_BUSY 1).wr (ueU die) Reg.UE_STAT_REC e.next)
    else done s
  else done s

/-- UPDATE_RECORD_DONE (R293 to R298): every element of the running record is updated and its stamp written. A record of
which an access faults does not complete. -/
def execUpdateRecordDone (die : Nat) (upsets : List (Nat × Nat)) (s0 : State) : Host.Outcome State Fault Refusal :=
  let s := s0.upset upsets
  let e := s.ue die
  if s.ueMay die && e.busy then
    let (u, r) := s.ueRun die
    if u.acc.err = 0 then
      let s1 := u.counted die (urLayer r)
      done ((s1.setUe die { e with busy := false, next := e.next + 1, sums := mset (0, 0, 0) e.sums (urLayer r) u.sums }).wr
        (ueU die) Reg.UE_STAT_BUSY 0)
    else done s
  else done s

/-- UPDATE_FAULT (R299): an access of a record, or of the list, meets a translation, protection or ECC fault, and the
engine stops. -/
def execUpdateFault (die : Nat) (upsets : List (Nat × Nat)) (s0 : State) : Host.Outcome State Fault Refusal :=
  let s := s0.upset upsets
  let e := s.ue die
  let stop (s1 : State) (code addr : Nat) : State :=
    let c := ueU die
    let t := tuU die
    let info := s1.rd t Reg.TU_FINFO_CAUSE + s1.rd t Reg.TU_FINFO_LEVEL * 16 + s1.rd t Reg.TU_FINFO_AGENT * 64
    (((s1.setUe die { e with busy := false, stopped := true }).wr c Reg.UE_STAT_BUSY 0).wr c Reg.UE_STAT_FAULTED 1).logHalt
      code c addr info e.next 0
  if s.ueMay die then
    if e.busy then
      let (u, r) := s.ueRun die
      if u.acc.err = 0 then done s else done (stop (u.counted die (urLayer r)) u.acc.err u.acc.addr)
    else
      let (a, _) := UeAcc.record ⟨s, 0, 0⟩ (s.ueAgent die) (s.ueList die) e.next
      if a.err = 0 then done s else done (stop a.st a.err a.addr)
  else done s

end Sys2Proof.Machine
end

