-- ==== Sys2Proof/Machine/Fixer.lean ====
section
/-!
DEFINITION. The fixer: votes and decisions, the step boundary, the contact sheet, checkpoints and their drain
(11_backward_pass R286 to R288; 12_update_and_fixer R300 to R310; 13_gradient_reduction R329; 14_video_ingest_developer
R343, R355; 18_faults_and_relief R430, R434).
-/
namespace Sys2Proof.Machine

/-! ### The layer table at a boundary -/

/-- Whether an entry is in use (Table 11-5). -/
def State.ltUsed (s : State) (n : Nat) : Bool := s.lt n 0 1 % 2 == 1

/-- The layers with an entry in use, ascending. -/
def State.ltLayers (s : State) : List Nat := (List.range s.job.nlayer).filter (fun n => s.ltUsed n)

/-- A byte field of an entry written. -/
def State.setLt (s : State) (n off len v : Nat) : State := s.putNum (ltAddr n off) len v

/-- The history code of an amax (R286 step 2). -/
def historyCode (amax : Nat) : Nat := bitsOf amax 30 23

/-- Step 2 of R286: the code of the combined amax put into the history. -/
def State.pushHistory (s : State) (n amax : Nat) : State :=
  let w := s.lt n 6 2
  let pos := bitsOf w 3 0
  let cnt := bitsOf w 8 4
  (s.setLt n (0x18 + pos) 1 (historyCode amax)).setLt n 6 2
    ((pos + 1) % 16 + 16 * Nat.min (cnt + 1) 16 + w / 512 * 512)

/-- The valid history codes of an entry (R287). -/
def State.codesValid (s : State) (n : Nat) : List Nat :=
  let w := s.lt n 6 2
  let pos := bitsOf w 3 0
  (List.range (bitsOf w 8 4)).map (fun j => s.lt n (0x18 + (pos + 31 - j) % 16) 1)

/-- The gradient formats from narrow to wide: E4M3, E5M2, BF16. -/
def gradFormats : List Nat := [0x04, 0x05, 0x01]

/-- The format and exponent for the next step by the rule of R287; `allow` has bit i for format i of `gradFormats`. -/
def nextFormat (allow gfmt : Nat) (gshift : Int) (codes : List Nat) : Nat × Int :=
  let h := codes.foldl Nat.max 0
  if h = 0 then (gfmt, gshift)
  else
    let lo := (codes.filter (fun c => c != 0 && c != 0xFF)).foldl Nat.min h
    let want := if h = 0xFF then 2 else if h - lo ≤ 4 then 0 else if h - lo ≤ 10 then 1 else 2
    let named := (List.range 3).filter (fun i => bitAt allow i)
    let i := match named.find? (fun i => decide (want ≤ i)) with
      | some i => i
      | none => named.foldl Nat.max 0
    let fmt := gradFormats.getD i 1
    let below := codes.filter (fun c => decide (c < 0xFF))
    if i = 2 then (fmt, 0)
    else if h = 0xFF && below.isEmpty then (fmt, gshift)
    else
      let top := if h = 0xFF then below.foldl Nat.max 0 else h
      let e : Int := (top : Int) - 127
      let g : Int := (if i = 0 then 6 else 13) - e
      (fmt, if g < -64 then -64 else if 63 < g then 63 else g)

/-- Step 3 of R286. -/
def State.chooseFormat (s : State) (n : Nat) : State :=
  let b := s.lt n 0 1
  let codes := s.codesValid n
  if bitAt b 1 || codes.isEmpty then s
  else
    let (f, g) := nextFormat (bitsOf b 4 2) (s.lt n 1 1 % 32) (sext 8 (s.lt n 2 1)) codes
    (s.setLt n 1 1 f).setLt n 2 1 (wrapInt 8 g)

/-- The floor of the base-2 logarithm of a positive finite FP32 value. -/
def flog2 (a : Nat) : Int :=
  if bitsOf a 30 23 = 0 then (ilog2 (a % 2 ^ 23) : Int) - 149 else (bitsOf a 30 23 : Int) - 127

/-- RSHIFT for the next step (13_gradient_reduction R329): `a` is RAMAX of the stored layer word. -/
def nextRshift (head a : Nat) (old : Int) : Int :=
  if a % 2 ^ 31 = 0 || bitsOf a 30 23 = 0xFF then old
  else
    let g : Int := 29 - (head : Int) - flog2 a
    if g < -128 then -128 else if 127 < g then 127 else g

/-- Step 4 of R286. -/
def State.chooseRshift (s : State) (n : Nat) : State :=
  match s.redEnt n, (s.redLayer n).stored with
  | some (e, _), some w => s.setLt n 3 1 (wrapInt 8 (nextRshift e.head w.ramax (sext 8 (s.lt n 3 1))))
  | _, _ => s

/-- The partial sums of the update engines added to an entry's norms, dies ascending (R303). -/
def State.addNorms (s : State) (n : Nat) : State :=
  let (g, w, u) := s.ues.foldl (fun (p : Nat × Nat × Nat) e =>
    match e.2.sums.find? (fun x => x.1 == n) with
    | some x => (dadd p.1 x.2.1, dadd p.2.1 x.2.2.1, dadd p.2.2 x.2.2.2)
    | none => p) (s.lt n 0x30 8, s.lt n 0x28 8, s.lt n 0x38 8)
  ((s.setLt n 0x28 8 w).setLt n 0x30 8 g).setLt n 0x38 8 u

/-! ### The contact sheet (R310) -/

/-- The format values of a layer in force for the step: GFMT, GSHIFT and RSHIFT as bytes. -/
def State.formatBytes (s : State) (n : Nat) : List Byte := leBytes 3 (s.lt n 1 3)

/-- A layer record (Table 12-7). -/
def State.layerRecord (s : State) (n : Nat) (used : List Byte) (amaxJob : Nat) : List Byte :=
  leBytes 2 n ++ used ++ List.replicate 3 0 ++ leBytes 4 (s.lt n 8 4) ++ leBytes 4 amaxJob ++ leBytes 8 (s.lt n 0x0C 8) ++
    leBytes 4 (s.lt n 0x14 4) ++ List.replicate 4 0 ++ leBytes 24 (s.lt n 0x28 24) ++ List.replicate 8 0

/-- A core record (Table 12-8). -/
def State.coreRecord (s : State) (die core : Nat) : List Byte :=
  let u := idlU die
  leBytes 1 die ++ leBytes 1 core ++ List.replicate 6 0 ++ leBytes 8 (s.rd u (Reg.IDL_ADV_LO_COUNT core)) ++
    (List.range 9).flatMap (fun c => leBytes 8 (s.rd u (Reg.IDL_C_LO_COUNT core c))) ++ List.replicate 8 0

/-- A sheet of its parts (Table 12-6). -/
def sheetOf (module step upd loc dec dropped active tRelease tVote : Nat) (layers cores : List Byte) : List Byte :=
  let h := leBytes 4 0x54485343 ++ leBytes 2 0x0100 ++ leBytes 2 module ++ leBytes 8 step ++ leBytes 8 upd ++ leBytes 4 loc ++
    leBytes 4 dec ++ leBytes 4 dropped ++ leBytes 2 (layers.length / 64) ++ leBytes 2 active
  let h2 := h ++ leBytes 8 tRelease ++ leBytes 8 tVote ++ leBytes 4 (crc32 (h ++ layers))
  h2 ++ leBytes 4 (crc32 (h2 ++ leBytes 4 0 ++ layers ++ cores)) ++ layers ++ cores

/-- The samples of the step dropped under OVERSHAPE = DROP (10_tiling_job_images R260, assumption 88). -/
def State.dropped (s : State) : Nat :=
  if s.job.ovr = 1 then Config.droppedSamples s.job.sha s.job.seed s.stepNow s.mem % 2 ^ 32
  else 0

/-- Step 5 of R286: the sheet is written, and what it copies is cleared. `used` holds the format values of the step by
layer. -/
def State.writeSheet (s : State) (used : List (Nat × List Byte)) (d : Vote) : State :=
  let layers := used.flatMap (fun p => s.layerRecord p.1 p.2 (d.amax.getD p.1 0))
  let cores := allCores.flatMap (fun p => s.coreRecord p.1 p.2)
  let sheet := sheetOf s.job.modId s.stepNow (s.rd keeperU Reg.FX_UPD_LO_VALUE) (s.rd keeperU Reg.FX_VOTE_FLAGS) d.flags
    s.dropped (s.rd keeperU Reg.FX_STAT_ACTIVE) s.fix.released s.fix.decided layers cores
  let s2 := forEach used (fun s p => ((s.setLt p.1 8 16 0).setLt p.1 0x28 24 0)) s
  let s3 := forEach (List.range 24) (fun s die => s.resetUnit (idlU die)) s2
  { s3 with sheets := (sheet :: s3.sheets).take 16 }

/-! ### The format window (R288) -/

/-- The format window of every core and the format copies of every die, from the layer table. -/
def State.writeWindow (s : State) : State :=
  if s.job.nlayer = 0 then s
  else
    let bs := (List.range s.job.nlayer).flatMap (fun n => leBytes 2 (s.lt n 1 2))
    let s1 := forEach allCores (fun s p => s.putBytes (epAddr (spU p.1 p.2) 0x5FE000) bs) s
    { s1 with gshift := (List.range 24).foldl (fun m die => (List.range s.job.nlayer).foldl (fun m n =>
        mset 0 m (4096 * die + n) (s.lt n 2 1)) m) s1.gshift }

/-! ### Checkpoints (R305 to R307, R355) -/

/-- The positions of a stream (Table 14-7): the random access point before the window's next clip, and the frames from it
to the clip. -/
def StreamRun.position (x : StreamRun) (draw : Nat) : List Byte :=
  let r := x.rec_
  let clip := draw + srDpr r * srSps r
  let n := x.skip0 + (clip - x.clip0) * srFrames r
  let unit := if (x.info x.dec n).found then (x.info x.dec n).unit else x.dec.units.length
  let rap := ((List.range (unit + 1)).filter (fun i => ((x.dec.units[i]?).map (fun a => a.key)).getD false)).getLast?.getD 0
  let pos := ((x.dec.units[rap]?).map (fun a => a.pos)).getD 0
  let before := ((List.range n).filter (fun k => (x.info x.dec k).found && decide ((x.info x.dec k).unit < rap))).length
  leBytes 8 (1 + 2 * b2n (srWindow r)) ++ leBytes 8 draw ++
    (if srWindow r then leBytes 8 pos ++ leBytes 8 ((n - before) % 65536) else List.replicate 16 0)

/-- The positions block (R355), with the draws of the next step. -/
def State.positions (s : State) : List Byte :=
  leBytes 16 16 ++ (List.range 16).flatMap (fun k =>
    match s.stream k with
    | none => List.replicate 32 0
    | some x => x.position (x.draw + srDpn x.rec_ * srSps x.rec_))

/-- The blocks of a buffer, die by die and record by record (R307), with the fault met. -/
def State.blocks (s : State) (active : Nat) : State × List Byte × Nat :=
  let (a, bs) := s.ues.foldl (fun (p : UeAcc × List Byte) e =>
    let ag := s.ueAgent e.1
    let list := s.ueList e.1
    (List.range e.2.recs).foldl (fun (p : UeAcc × List Byte) k =>
      let (a1, r) := p.1.record ag list k
      let base := urBuf r active
      let (a2, b) := a1.read ag base (urBlock r base)
      (a2, p.2 ++ b)) p) (⟨s, 0, 0⟩, [])
  (a.st, bs, a.err)

/-- The size of a checkpoint's blocks (R309). -/
def State.stateSize (s : State) (active : Nat) : Nat :=
  (s.ues.foldl (fun (p : UeAcc × Nat) e =>
    (List.range e.2.recs).foldl (fun (p : UeAcc × Nat) k =>
      let (a1, r) := p.1.record (s.ueAgent e.1) (s.ueList e.1) k
      (a1, p.2 + urBlock r (urBuf r active))) p) ((⟨s, 0, 0⟩ : UeAcc), 0)).2

/-- The size of a checkpoint (19_keeper_minil R468). -/
def State.ckSize (s : State) : Nat := 64 + 64 * s.job.nlayer + 528 + s.stateSize (s.rd keeperU Reg.FX_STAT_ACTIVE)

/-- The checkpoint header (Table 12-4). -/
def ckHeader (module step upd seed active nlayer stateSize imgCrc bodyCrc : Nat) : List Byte :=
  let h := leBytes 4 0x4B435856 ++ leBytes 2 0x0100 ++ leBytes 2 module ++ leBytes 8 step ++ leBytes 8 upd ++ leBytes 8 seed ++
    leBytes 4 active ++ leBytes 4 nlayer ++ leBytes 8 stateSize ++ leBytes 4 imgCrc ++ leBytes 4 528 ++ leBytes 4 bodyCrc
  h ++ leBytes 4 (crc32 h)

/-- The snapshot of R306, and the drain where this module's vote carried a request (R305, R307). -/
def State.snapshot (s : State) : State :=
  let active := s.rd keeperU Reg.FX_STAT_ACTIVE
  let step := s.stepNow + 1
  let head := s.bytesAt (ltAddr 0 0) (64 * s.job.nlayer) ++ s.positions
  let (s1, blocks, err) := s.blocks active
  let h := ckHeader s.job.modId step (s.rd keeperU Reg.FX_UPD_LO_VALUE) s.job.seed active s.job.nlayer blocks.length s.job.crc
    (crc32 (head ++ blocks))
  let s2 : State := { s1 with ck := { s1.ck with snap := h ++ head } }
  match s2.ck.voted with
  | none => s2
  | some q =>
    let d : CkDrain := { req := q, step := step, data := h ++ head ++ blocks, fault := err }
    let s3 : State := { s2 with ck := { s2.ck with voted := none, drain := some d } }
    forEach (s3.ues.filter (fun e => decide (0 < e.2.recs))) (fun s e => s.wr (ueU e.1) Reg.UE_STAT_DRAINING 1)
      (s3.wr keeperU Reg.FX_STAT_DRAINING 1)

/-- The address of byte `o` of a stream of pages (R469). -/
def ringByte (q : CkReq) (o : Nat) : Nat := q.dest + 4096 * (o / 4096 % q.size) + o % 4096

/-- A host ring filled as far as `cons` lets it (R469): the pages, and after them PROD. -/
def State.fillRing (s : State) (cons : Nat) : State :=
  match s.ck.drain with
  | none => s
  | some d =>
    let total := ceilDiv d.data.length 4096
    let upto := Nat.min total (cons + d.req.size)
    if d.req.kind ≠ 1 || upto ≤ d.pages || d.fault ≠ 0 then s
    else
      let (s1, e) := (List.range (upto - d.pages)).foldl (fun (p : State × Nat) i =>
        if p.2 ≠ 0 then p
        else
          let o := 4096 * (d.pages + i)
          p.1.putTarget (ringByte d.req o) ((d.data.drop o).take 4096)) (s, 0)
      let (s2, e2) := if e ≠ 0 then (s1, e) else s1.putTarget d.req.ctrl (leBytes 8 upto)
      { s2 with ck := { s2.ck with drain := some { d with pages := if e2 = 0 then upto else d.pages, fault := e2 } } }

/-! ### The boundary (R286, R303) -/

/-- Step 1 of R303: the fixer commits or the step is skipped. -/
def State.commitOrSkip (s : State) (d : Vote) : State :=
  if d.flags % 16 = 0 then
    ((s.wr keeperU Reg.FX_STAT_ACTIVE (1 - s.rd keeperU Reg.FX_STAT_ACTIVE)).wr keeperU Reg.FX_UPD_LO_VALUE
      (s.rd keeperU Reg.FX_UPD_LO_VALUE + 1)).wr keeperU Reg.FX_STAT_SKIPPED 0
  else (s.wr keeperU Reg.FX_STAT_SKIPPED 1).bump keeperU Reg.FX_SKIPS_COUNT 1

/-- The buffer that a skipped step leaves unspecified (R304): every block of buffer 1 − ACTIVE holds free bytes. -/
def State.spoilIdle (s : State) : State :=
  let idle := 1 - s.rd keeperU Reg.FX_STAT_ACTIVE
  forEach s.ues (fun s e => forEach (List.range e.2.recs) (fun s k =>
    let (a, r) := UeAcc.record ⟨s, 0, 0⟩ (s.ueAgent e.1) (s.ueList e.1) k
    if a.err ≠ 0 then s
    else
      let (bs, s1) := s.freshBytes (urBlock r (urBuf r idle))
      let w : UeAcc := UeAcc.write ⟨s1, 0, 0⟩ (s1.ueAgent e.1) (urBuf r idle) bs
      { s1 with mem := w.st.mem }) s) s

/-- A stream at a release (R343, R346): D moves on, and what was held for the new step becomes its events. -/
def State.releaseStream (s : State) (k : Nat) (x : StreamRun) : State :=
  let now := s.stepNow
  let d := x.draw + srDpn x.rec_ * srSps x.rec_
  let mine := x.held.filter (fun h => h.1 == now)
  let x1 : StreamRun := { x with draw := d, held := x.held.filter (fun h => h.1 != now),
                                 written := x.written.filter (fun w => decide (now ≤ w.1)) }
  forEach mine (fun s h => s.addEvents h.2.1 (srLayer x.rec_) h.2.2)
    ((s.setStream k x1).wr (strU k) Reg.STR_DRAW_LO_VALUE d)

/-- The release into the next step: cores go on (09_core_sequencer R236), the step's events, votes, records and reductions
begin anew, the L0 unit's layer words are cleared (13_gradient_reduction R327), and the watchdog starts
(18_faults_and_relief R430). -/
def State.release (s : State) : State :=
  let s1 := s.wr keeperU Reg.FX_STEP_LO_VALUE (s.stepNow + 1)
  let s2 : State := { s1 with
    cores := s1.cores.map (fun e => (e.1, { e.2 with atEnd := false }))
    ues := s1.ues.map (fun e => (e.1, { e.2 with next := 0, sums := [] }))
    red := { s1.red with ready := [], order := [], layers := [] }
    fix := { released := s1.jobTime, decided := s1.fix.decided,
             watch := s1.rd keeperU Reg.RCV_CFG_STEP_MS != 0 } }
  let s3 := forEach (s2.cores.map (fun e => e.1)) (fun s k => s.wr (seqU (k / 16) (k % 16)) Reg.SEQ_STAT_FROZEN 0) s2
  let s4 := s3.zeroRange (epAddr (rdU 0) 0x10000) 0x10000
  (forEach s4.streams (fun s e => match e.2 with
    | none => s
    | some x => s.releaseStream e.1 x) s4).redStat

/-- The whole boundary under a decision. -/
def State.boundary (s : State) (d : Vote) : State :=
  let layers := s.ltLayers
  let used := layers.map (fun n => (n, s.formatBytes n))
  let s0 := (s.wr keeperU Reg.FX_JVOTE_FLAGS d.flags).commitOrSkip d
  let s1 := if d.flags % 16 = 0 then s0 else s0.spoilIdle
  let s2 := forEach layers (fun s n => (((s.pushHistory n (d.amax.getD n 0)).chooseFormat n).chooseRshift n).addNorms n) s1
  let s3 := (s2.writeSheet used d).writeWindow
  let s4 := forEach (s3.cores.map (fun e => e.1)) (fun s k => s.emptyStack (k / 16) (k % 16)) s3
  let s5 := if bitAt d.flags 4 then s4.snapshot else s4
  s5.release.fillRing 0

/-! ### Votes (R301, R302) -/

/-- The children of this module in the vote tree. -/
def State.voteKids (s : State) : List Nat :=
  ((List.range 32).map (fun i => 32 * s.job.modId + 1 + i)).filter (fun c => decide (c < s.job.nmod))

/-- A vote or a decision as the message that Table 12-3 gives. -/
def Vote.bytes (v : Vote) : List Byte :=
  leBytes 8 v.step ++ leBytes 4 v.flags ++ leBytes 4 v.count ++ List.replicate 16 0 ++ v.amax.flatMap (leBytes 4)

/-- Two votes combined (R302). -/
def Vote.join (a b : Vote) : Vote :=
  { step := a.step, flags := a.flags ||| b.flags, count := (a.count + b.count) % 2 ^ 32,
    amax := a.amax.zipIdx.map (fun p => amaxBits p.1 (b.amax.getD p.2 0)) }

/-- A decision at this module (R303): sent on down the tree; the commit waits for a running drain. -/
def State.takeDecision (s : State) (d : Vote) : State :=
  let s1 := forEach s.voteKids (fun s c => s.emit (.decision c d.bytes)) s
  let s2 : State := { s1 with fix := { s1.fix with decided := s1.jobTime, watch := false } }
  if d.flags % 16 = 0 && s2.ck.drain.isSome then
    ({ s2 with fix := { s2.fix with decision := some d } } : State).wr keeperU Reg.FX_STAT_DWAIT 1
  else s2.boundary d

/-- The combined vote passed on once the module's own and its children's are here. -/
def State.voteOn (s : State) : State :=
  match s.fix.own with
  | none => s
  | some own =>
    if s.fix.sent || !(s.voteKids.all (fun c => s.fix.votes.any (fun v => v.1 == c))) then s
    else
      let v := s.fix.votes.foldl (fun a x => a.join x.2) own
      let s1 : State := { s with fix := { s.fix with sent := true } }
      if s.job.modId = 0 then s1.takeDecision v else s1.emit (.vote ((s.job.modId - 1) / 32) v.bytes)

/-- The four conditions of R301. -/
def State.mayVote (s : State) : Bool :=
  s.cores.all (fun e => !e.2.hasCode || e.2.atEnd) && s.ues.all (fun e => decide (e.2.next = e.2.recs)) &&
    s.red.ents.all (fun e => s.redComplete e.1) && s.ingestDone

/-- VOTE_SEND (R301, R302): the module's own vote is formed, with CKPT where a request awaits its vote and no drain
runs (R305). -/
def execVoteSend (s : State) : Host.Outcome State Fault Refusal :=
  if s.running && s.fix.own.isNone && s.mayVote then
    let ck := s.ck.req.isSome && s.ck.drain.isNone
    let flags := s.fix.flags % 16 + 16 * b2n ck
    let v : Vote := { step := s.stepNow, flags := flags, count := 1,
                      amax := (List.range s.job.nlayer).map (fun n => s.lt n 8 4) }
    let s1 : State := { s with fix := { s.fix with own := some v } }
    let s2 := s1.wr keeperU Reg.FX_VOTE_FLAGS flags
    let s3 := if ck then ({ s2 with ck := { s2.ck with req := none, voted := s2.ck.req } } : State).wr keeperU
        Reg.FX_STAT_CKPEND 0 else s2
    done s3.voteOn
  else done s

/-- VOTE_RECEIVE (R302): a vote from a child; one of another step is logged and discarded. -/
def execVoteReceive (child step flags count : Nat) (amax : List Nat) (s : State) : Host.Outcome State Fault Refusal :=
  if step ≠ s.stepNow then done (s.logEvent ePARTNER keeperU child step s.stepNow)
  else if s.running && s.voteKids.contains child && !s.fix.votes.any (fun v => v.1 == child) then
    done ({ s with fix := { s.fix with votes := (child, ⟨step, flags % 32, count, amax⟩) :: s.fix.votes } } : State).voteOn
  else done s

/-- DECISION_RECEIVE (R303): the decision comes down the tree. -/
def execDecisionReceive (step flags count : Nat) (amax : List Nat) (s : State) : Host.Outcome State Fault Refusal :=
  if s.running && s.job.modId ≠ 0 && s.fix.sent && s.fix.decision.isNone && step = s.stepNow then
    done (s.takeDecision ⟨step, flags % 32, count, amax⟩)
  else done s

/-- FIXER_COMMIT (R303): the commit that waited for a drain, `mclk` MCLK long, goes on once the drain has ended. -/
def execFixerCommit (mclk : Nat) (s : State) : Host.Outcome State Fault Refusal :=
  match s.fix.decision with
  | none => done s
  | some d =>
    if s.running && s.ck.drain.isNone then
      done (((s.wr keeperU Reg.FX_STAT_DWAIT 0).bump keeperU Reg.FX_DWAIT_CYC_COUNT mclk).boundary d)
    else done s

/-! ### The end of a drain (R307, R434, R436) -/

/-- The 64-byte units that each engine drained are counted. -/
def State.countDrained (s : State) (active : Nat) : State :=
  forEach s.ues (fun s e =>
    let n := ((List.range e.2.recs).foldl (fun (p : UeAcc × Nat) k =>
      let (a1, r) := p.1.record (s.ueAgent e.1) (s.ueList e.1) k
      (a1, p.2 + urBlock r (urBuf r active))) ((⟨s, 0, 0⟩ : UeAcc), 0)).2
    s.bump (ueU e.1) Reg.UE_CKBYTES_COUNT (ceilDiv n 64)) s

/-- The job-wide checkpoint step at a keeper, and on down the tree (R434). -/
def State.ckJob (s : State) (step : Nat) : State :=
  forEach s.voteKids (fun s c => s.emit (.drained c step true)) (s.wr keeperU Reg.RCV_CKJOB_LO_VALUE step)

/-- DRAINED passed on once this module's drain and its children's are complete for one step (R434). -/
def State.drainedOn (s : State) : State :=
  match s.ck.last with
  | none => s
  | some step =>
    if s.voteKids.all (fun c => s.ck.kids.any (fun k => k.1 == c && k.2 == step)) then
      let s1 : State := { s with ck := { s.ck with kids := s.ck.kids.filter (fun k => decide (step < k.2)) } }
      if s.job.modId = 0 then s1.ckJob step else s1.emit (.drained ((s.job.modId - 1) / 32) step false)
    else s

/-- CHECKPOINT_DRAIN_COMPLETE (R307): the destination has acknowledged every byte. The data of a drain to DRAM are written
here; those of a host ring have all been written. -/
def execCheckpointDrainComplete (s : State) : Host.Outcome State Fault Refusal :=
  match s.ck.drain with
  | none => done s
  | some d =>
    let (s1, e) := if d.req.kind = 1 then (s, 0) else s.putTarget d.req.dest d.data
    if d.fault ≠ 0 || e ≠ 0 || (d.req.kind = 1 && d.pages < ceilDiv d.data.length 4096) then done s
    else
      let active := (d.data.getD 0x20 0).toNat
      let s2 := (s1.countDrained active).drainEnded
      let s3 : State := { s2 with ck := { s2.ck with last := some d.step, dests := (d.req :: s2.ck.dests).take 2 } }
      let s4 := (s3.wr keeperU Reg.FX_CKSTEP_LO_VALUE d.step).ckNotice d.req 1 (leBytes 8 d.step ++ leBytes 8 d.data.length)
      let s5 := if s4.job.nmod ≤ 1 then s4 else s4.emit (.escrow ((s4.job.modId + 1) % s4.job.nmod) d.req)
      done s5.drainedOn

/-- CHECKPOINT_DRAIN_FAULT (R307): a fault stops the drain. It is the fault that the drain has met, or that its writes
meet, or `code`, with which the destination answered. -/
def execCheckpointDrainFault (code : Nat) (s : State) : Host.Outcome State Fault Refusal :=
  match s.ck.drain with
  | none => done s
  | some d =>
    let e := if d.fault ≠ 0 then d.fault
      else if d.req.kind ≠ 1 && (s.putTarget d.req.dest d.data).2 ≠ 0 then (s.putTarget d.req.dest d.data).2
      else code % 65536
    if e = 0 then done s else done (s.abortDrain e)

/-- DRAINED (R434): a message up or down the vote tree. -/
def execDrained (child step : Nat) (down : Bool) (s : State) : Host.Outcome State Fault Refusal :=
  if down then done (s.ckJob step)
  else if s.voteKids.contains child then
    done ({ s with ck := { s.ck with kids := (child, step) :: s.ck.kids.filter (fun k => !(k.1 == child)) } } : State).drainedOn
  else done s

end Sys2Proof.Machine
end

