-- ==== Sys2Proof/Machine/Gme.lean ====
section
/-!
DEFINITION. The gather-merge engines: descriptors, the nine operations with their range policies, the coalescing cache
and merge buffer, faults and completion (05_gather_merge R112 to R135).
-/
namespace Sys2Proof.Machine

/-! ### Descriptors (Table 5-1) -/

def gOp (d : Nat) : Nat := bitsOf d 3 0
def gIdxPol (d : Nat) : Nat := bitsOf d 5 4
def gRfn (d : Nat) : Bool := bitAt d 6
def gKsign (d : Nat) : Bool := bitAt d 7
def gOvfPol (d : Nat) : Nat := bitsOf d 9 8
def gFmt (d : Nat) : Option Fmt := fmtOfCode (bitsOf d 14 10)
def gTag (d : Nat) : Nat := bitsOf d 23 16
def gParam (d : Nat) : Nat := bitsOf d 28 24
def gRowLen (d : Nat) : Nat := bitsOf d 47 32
def gCap (d : Nat) : Nat := bitsOf d 63 48
def gNidx (d : Nat) : Nat := bitsOf d 95 64
def gNrows (d : Nat) : Nat := bitsOf d 127 96
def gSrc (d : Nat) : Nat := bitsOf d 191 128
def gDst (d : Nat) : Nat := bitsOf d 255 192
def gIdx (d : Nat) : Nat := bitsOf d 319 256
def gAux (d : Nat) : Nat := bitsOf d 383 320
def gSstride (d : Nat) : Nat := bitsOf d 415 384
def gDstride (d : Nat) : Nat := bitsOf d 447 416
def gNseg (d : Nat) : Nat := bitsOf d 479 448
def gLayer (d : Nat) : Nat := bitsOf d 495 480

/-- The null index (R119). -/
def nullIdx : Nat := 0x80000000

/-- Row `i` of a region (R116). -/
def rowAt (base stride : Nat) (i : Int) : Nat := wrapInt 64 ((base : Int) + i * stride)

/-- A zero row (R120). -/
def zeroRow (d : Nat) : List Byte :=
  match gFmt d with
  | some f =>
    if f.isMX then
      (List.range (gRowLen d)).map (fun i => if i % f.stripBytes < 8 then 0x7F else 0)
    else List.replicate (gRowLen d) 0
  | none => List.replicate (gRowLen d) 0

/-! ### An operation as it runs -/

/-- An operation under way: the state, the fault that has ended it (code, position, and value or faulting address), the
rows held by index, most recently used first, and its events; `fev` is the index event of the position that faulted. -/
structure GmeAcc where
  s : State
  fault : Option (Nat × Nat × Nat) := none
  held : List (Int × List Byte) := []
  idxev : Nat := 0
  fev : Nat := 0
  drops : Nat := 0
  spills : Nat := 0
  nonfin : Nat := 0
  hits : Nat := 0
  misses : Nat := 0

/-- One read of the operation, at a position. -/
def GmeAcc.read (g : GmeAcc) (ag : Agent) (pos va n : Nat) : GmeAcc × List Byte :=
  match g.fault with
  | some _ => (g, [])
  | none =>
    let (s1, r) := g.s.vread ag va n permRead
    if r.err = 0 then ({ g with s := s1 }, r.data) else ({ g with s := s1, fault := some (r.err, pos, r.addr) }, [])

/-- One write of the operation, at a position. -/
def GmeAcc.write (g : GmeAcc) (ag : Agent) (pos va : Nat) (bs : List Byte) : GmeAcc :=
  match g.fault with
  | some _ => g
  | none =>
    let (s1, r) := g.s.vwrite ag va bs
    if r.err = 0 then { g with s := s1 } else { g with s := s1, fault := some (r.err, pos, r.addr) }

/-- A word of an index array. -/
def GmeAcc.word (g : GmeAcc) (ag : Agent) (pos base i : Nat) : GmeAcc × Nat :=
  let (g1, bs) := g.read ag pos (rowAt base 4 i) 4
  (g1, leNat bs)

/-- A word of a list written. -/
def GmeAcc.putWord (g : GmeAcc) (ag : Agent) (pos base i v : Nat) : GmeAcc := g.write ag pos (rowAt base 4 i) (leBytes 4 v)

/-- The operation before a position, with what a fault at that position leaves (R123): the fault with its index event, and
what its accesses left in translation units, registers, the log and the counts of free values; no write, held row or event
of the position stays. -/
def GmeAcc.undo (before g : GmeAcc) : GmeAcc :=
  match g.fault with
  | none => g
  | some _ =>
    { before with
      fault := g.fault
      fev := g.fev
      s := { before.s with
        regs := g.s.regs, tus := g.s.tus, log := g.s.log, sb := g.s.sb, scrubQ := g.s.scrubQ, arbs := g.s.arbs,
        net := g.s.net, free := g.s.free } }

/-- An operation's positions in ascending order, up to the first that faults; of that one no effect stays (R123). -/
def GmeAcc.each {α : Type} (g : GmeAcc) (l : List α) (f : GmeAcc → α → GmeAcc) : GmeAcc :=
  l.foldl (fun g x =>
    match g.fault with
    | some _ => g
    | none => g.undo (f g x)) g

/-- A fault of the range policy. -/
def GmeAcc.rangeFault (g : GmeAcc) (pos val : Nat) : GmeAcc := { g with fault := some (eIDX_RANGE, pos, val) }

/-- A source row through the coalescing cache (R131). -/
def GmeAcc.cached (g : GmeAcc) (ag : Agent) (d pos : Nat) (row : Int) : GmeAcc × List Byte :=
  match g.held.find? (fun p => p.1 == row) with
  | some p => ({ g with held := p :: g.held.filter (fun q => !(q.1 == row)), hits := g.hits + 1 }, p.2)
  | none =>
    let (g1, bs) := g.read ag pos (rowAt (gSrc d) (gSstride d) row) (gRowLen d)
    ({ g1 with held := ((row, bs) :: g1.held).take 64, misses := g1.misses + 1 }, bs)

/-- The row that an index names under the range policy of a table of `n` rows (R119, R121): none for no row at all, else
the row; an index out of range counts an event, and faults under FAULT. An index that could not be read names none. -/
def GmeAcc.resolve (g : GmeAcc) (d pos v n : Nat) : GmeAcc × Option Int :=
  let i := sext 32 v
  if g.fault.isSome || v = nullIdx then (g, none)
  else if 0 ≤ i && i < (n : Int) then (g, some i)
  else
    match gIdxPol d with
    | 1 => ({ g with idxev := g.idxev + 1 }, some (if i < 0 then 0 else (n : Int) - 1))
    | 2 => (({ g with fev := 1 } : GmeAcc).rangeFault pos v, none)
    | _ => ({ g with idxev := g.idxev + 1 }, none)

/-! ### Offsets (R122) -/

/-- The offsets of the segments resolved in ascending order. -/
def GmeAcc.offsets (g : GmeAcc) (ag : Agent) (d : Nat) : GmeAcc × List Nat :=
  (List.range (gNseg d + 1)).foldl (fun (p : GmeAcc × List Nat) k =>
    match p.1.fault with
    | some _ => p
    | none =>
      let lo := p.2.getLastD 0
      let (g1, v) := p.1.word ag k (gIdx d) k
      let i := sext 32 v
      if g1.fault.isSome then (g1, p.2)
      else if (lo : Int) ≤ i && i ≤ (gNidx d : Int) then (g1, p.2 ++ [i.toNat])
      else
        let g2 := { g1 with idxev := g1.idxev + 1 }
        match gIdxPol d with
        | 1 => (g2, p.2 ++ [if i < (lo : Int) then lo else gNidx d])
        | 2 => (g2.rangeFault k v, p.2)
        | _ => (g2, p.2 ++ [lo])) (g, [])

/-! ### Row operations (R124 to R127) -/

/-- GATHER. -/
def GmeAcc.gather (g : GmeAcc) (ag : Agent) (d : Nat) : GmeAcc :=
  g.each (List.range (gNidx d)) (fun g i =>
    let (g1, v) := g.word ag i (gIdx d) i
    let (g2, row) := g1.resolve d i v (gNrows d)
    let (g3, bs) := match row with
      | some r => g2.cached ag d i r
      | none => (g2, zeroRow d)
    g3.write ag i (rowAt (gDst d) (gDstride d) i) bs)

/-- SCATTER. -/
def GmeAcc.scatter (g : GmeAcc) (ag : Agent) (d : Nat) : GmeAcc :=
  g.each (List.range (gNidx d)) (fun g i =>
    let (g1, v) := g.word ag i (gIdx d) i
    let (g2, row) := g1.resolve d i v (gNrows d)
    match row with
    | some r =>
      let (g3, bs) := g2.read ag i (rowAt (gSrc d) (gSstride d) i) (gRowLen d)
      g3.write ag i (rowAt (gDst d) (gDstride d) r) bs
    | none => g2)

/-- The FP32 words of a row. -/
def rowWords (bs : List Byte) : List Nat := codesOf 32 (bs.length / 4) bs

/-- One FP32 addition with its NONFINITE event (R125). -/
def addTold (a b : Nat) : Nat × Nat :=
  let r := fadd a b
  (r, b2n (ffinite a && ffinite b && !ffinite r && !(ofF32 r).isNan))

/-- A row added to another. -/
def addRows (a b : List Nat) : List Nat × Nat :=
  let l := (a.zip b).map (fun p => addTold p.1 p.2)
  (l.map (fun p => p.1), l.foldl (fun n p => n + p.2) 0)

/-- A held target row written back (R132), whether or not a fault stands; a fault of the write itself becomes the
operation's where it has none. -/
def GmeAcc.writeBack (g : GmeAcc) (ag : Agent) (d pos : Nat) (p : Int × List Byte) : GmeAcc :=
  let (s1, r) := g.s.vwrite ag (rowAt (gDst d) (gDstride d) p.1) p.2
  { g with s := s1, fault := if r.err ≠ 0 && g.fault.isNone then some (r.err, pos, r.addr) else g.fault }

/-- The merge buffer with room for one more row: a full one gives up the row that a free value chooses. -/
def GmeAcc.makeRoom (g : GmeAcc) (ag : Agent) (d pos : Nat) : GmeAcc :=
  if g.held.length < 64 then g
  else
    let (v, s1) := g.s.fresh
    match g.held[v % 64]? with
    | some p => ({ g with s := s1, held := g.held.eraseIdx (v % 64) } : GmeAcc).writeBack ag d pos p
    | none => { g with s := s1 }

/-- Whether an engine may write a run of virtual memory: the fault that its translation meets. -/
def GmeAcc.mayWrite (g : GmeAcc) (ag : Agent) (pos va n : Nat) : GmeAcc :=
  (blocks64 (n + 1) va n).foldl (fun g b =>
    match g.fault with
    | some _ => g
    | none =>
      let (s1, err, _) := g.s.translate ag.die ag.code b.1 permWrite
      { g with s := s1, fault := if err ≠ 0 then some (err, pos, b.1) else none }) g

/-- A target row in the merge buffer (R132): held already, or read into it. -/
def GmeAcc.hold (g : GmeAcc) (ag : Agent) (d pos : Nat) (row : Int) : GmeAcc × List Byte :=
  match g.held.find? (fun p => p.1 == row) with
  | some p => ({ g with held := g.held.filter (fun q => !(q.1 == row)), hits := g.hits + 1 }, p.2)
  | none =>
    let at_ := rowAt (gDst d) (gDstride d) row
    let (g1, bs) := ((g.makeRoom ag d pos).mayWrite ag pos at_ (gRowLen d)).read ag pos at_ (gRowLen d)
    ({ g1 with misses := g1.misses + 1 }, bs)

/-- SCATTER_ADD: contributions are merged into held rows, and every row still held at the end, or at a fault, is written
back. -/
def GmeAcc.scatterAdd (g : GmeAcc) (ag : Agent) (d : Nat) : GmeAcc :=
  let g1 := g.each (List.range (gNidx d)) (fun g i =>
    let (g1, v) := g.word ag i (gIdx d) i
    let (g2, row) := g1.resolve d i v (gNrows d)
    match row with
    | some r =>
      let (g3, c) := g2.read ag i (rowAt (gSrc d) (gSstride d) i) (gRowLen d)
      let (g4, t) := g3.hold ag d i r
      let (sum, n) := addRows (rowWords t) (rowWords c)
      { g4 with nonfin := g4.nonfin + n, held := (r, codeBytes 32 sum) :: g4.held }
    | none => g2)
  g1.held.reverse.foldl (fun g p => g.writeBack ag d (gNidx d - 1) p) g1

/-- The larger of two FP32 values with +0 above -0; the canonical NaN where either is a NaN (R126). -/
def segMax (a b : Nat) : Nat :=
  if (ofF32 a).isNan || (ofF32 b).isNan then 0x7FC00000
  else if (ofF32 a).lt (ofF32 b) then b
  else if (ofF32 b).lt (ofF32 a) then a
  else if bitAt a 31 then b else a

/-- SEGMENT_REDUCE. -/
def GmeAcc.segmentReduce (g : GmeAcc) (ag : Agent) (d : Nat) : GmeAcc :=
  let (g0, offs) := g.offsets ag d
  g0.each (List.range (gNseg d)) (fun g k =>
    let lo := offs.getD k 0
    let hi := offs.getD (k + 1) 0
    let (g1, acc) := (List.range (hi - lo)).foldl (fun (p : GmeAcc × Option (List Nat)) j =>
      let (g1, bs) := p.1.read ag (lo + j) (rowAt (gSrc d) (gSstride d) (lo + j)) (gRowLen d)
      let row := rowWords bs
      match p.2 with
      | none => (g1, some (if gRfn d then row.map (fun x => segMax x x) else row))
      | some a =>
        if gRfn d then (g1, some ((a.zip row).map (fun q => segMax q.1 q.2)))
        else
          let (sum, n) := addRows a row
          ({ g1 with nonfin := g1.nonfin + n }, some sum)) (g, none)
    g1.write ag lo (rowAt (gDst d) (gDstride d) k) (codeBytes 32 (acc.getD (List.replicate (gRowLen d / 4) 0))))

/-- PACK. -/
def GmeAcc.pack (g : GmeAcc) (ag : Agent) (d : Nat) : GmeAcc :=
  let (g0, offs) := g.offsets ag d
  let ps := (List.range (gNseg d)).flatMap (fun k =>
    (List.range (offs.getD (k + 1) 0 - offs.getD k 0)).map (fun r => (k, offs.getD k 0 + r, r)))
  g0.each ps (fun g p =>
    let (k, pos, r) := p
    let (g1, row) := g.resolve d pos r (gNrows d)
    let (g2, bs) := match row with
      | some q => g1.cached ag d pos ((k * gNrows d : Nat) + q)
      | none => (g1, zeroRow d)
    g2.write ag pos (rowAt (gDst d) (gDstride d) pos) bs)

/-- UNPACK. -/
def GmeAcc.unpack (g : GmeAcc) (ag : Agent) (d : Nat) : GmeAcc :=
  let (g0, offs) := g.offsets ag d
  let ps := (List.range (gNseg d)).flatMap (fun k =>
    let len := offs.getD (k + 1) 0 - offs.getD k 0
    (List.range (Nat.max len (gNrows d))).map (fun r => (k, offs.getD k 0 + r, r, decide (r < len))))
  g0.each ps (fun g p =>
    let (k, pos, r, live) := p
    if live then
      let (g1, row) := g.resolve d pos r (gNrows d)
      match row with
      | some q =>
        let (g2, bs) := g1.read ag pos (rowAt (gSrc d) (gSstride d) pos) (gRowLen d)
        g2.write ag pos (rowAt (gDst d) (gDstride d) ((k * gNrows d : Nat) + q)) bs
      | none => g1
    else g.write ag pos (rowAt (gDst d) (gDstride d) ((k * gNrows d + r : Nat))) (zeroRow d))

/-! ### Sorting, routing and compaction (R128 to R130) -/

/-- SORT_BY_KEY. -/
def GmeAcc.sortByKey (g : GmeAcc) (ag : Agent) (d : Nat) : GmeAcc :=
  let (g0, keys) := (List.range (gNidx d)).foldl (fun (p : GmeAcc × List (Int × Nat × Nat)) i =>
    let (g1, v) := p.1.word ag i (gIdx d) i
    let f := v % 2 ^ (gParam d + 1)
    (g1, (if gKsign d then sext (gParam d + 1) f else (f : Int), v, i) :: p.2)) (g, [])
  let order := (sortBy (fun a b => decide (a.1 ≤ b.1)) keys.reverse).zipIdx
  g0.each order (fun g p =>
    let ((_, v, i), j) := p
    let g1 := g.putWord ag j (gAux d) j v
    if gRowLen d = 0 then g1.putWord ag j (gDst d) j i
    else
      let (g2, bs) := g1.cached ag d j i
      g2.write ag j (rowAt (gDst d) (gDstride d) j) bs)

/-- The state of BUCKET beside the operation's: the count of each bucket and the entries spilled. -/
structure Buckets where
  counts : SMap Nat
  spilled : Nat

/-- BUCKET. -/
def GmeAcc.bucket (g : GmeAcc) (ag : Agent) (d : Nat) : GmeAcc :=
  let place (g : GmeAcc) (i slot : Nat) : GmeAcc :=
    (g.putWord ag i (gDst d) slot (i / (gParam d + 1))).putWord ag i (gSrc d) i slot
  let (g0, bk) := (List.range (gNidx d)).foldl (fun (p : GmeAcc × Buckets) i =>
    match p.1.fault with
    | some _ => p
    | none =>
      let (g1, v) := p.1.word ag i (gIdx d) i
      let (g2, b) := g1.resolve d i v (gNseg d)
      let back (q : GmeAcc) : GmeAcc := p.1.undo q
      if g2.fault.isSome then (back g2, p.2)
      else
        match b with
        | none => (back (g2.putWord ag i (gSrc d) i nullIdx), p.2)
        | some bi =>
          let n := mget p.2.counts bi.toNat 0
          if n < gCap d then
            (back (place g2 i (bi.toNat * gCap d + n)), { p.2 with counts := mset 0 p.2.counts bi.toNat (n + 1) })
          else if gOvfPol d = 1 && p.2.spilled < gNrows d then
            (back (place { g2 with spills := g2.spills + 1 } i (gNseg d * gCap d + p.2.spilled)),
              { p.2 with spilled := p.2.spilled + 1 })
          else if gOvfPol d = 2 then (back (g2.rangeFault i v), p.2)
          else (back ({ g2 with drops := g2.drops + 1 }.putWord ag i (gSrc d) i nullIdx), p.2)) (g, ⟨[], 0⟩)
  let nulls := (List.range (gNseg d)).flatMap (fun b =>
      (List.range (gCap d - mget bk.counts b 0)).map (fun k => b * gCap d + mget bk.counts b 0 + k)) ++
    (List.range (gNrows d - bk.spilled)).map (fun k => gNseg d * gCap d + bk.spilled + k)
  let g1 := g0.each nulls (fun g k => g.putWord ag (gNidx d) (gDst d) k nullIdx)
  let g2 := g1.each (List.range (gNseg d)) (fun g b => g.putWord ag (gNidx d) (gAux d) b (mget bk.counts b 0))
  g2.each [gNseg d] (fun g k => g.putWord ag (gNidx d) (gAux d) k bk.spilled)

/-- MASK_COMPACT. -/
def GmeAcc.maskCompact (g : GmeAcc) (ag : Agent) (d : Nat) : GmeAcc :=
  g.each (List.range (gNseg d)) (fun g k =>
    let (g1, bs) := g.read ag k (rowAt (gIdx d) (gSstride d) k) (ceilDiv (gNidx d) 8)
    let bits := setBits (gNidx d) (leNat bs)
    let n := gNrows d
    match (if gOvfPol d = 2 then bits[n]? else none) with
    | some i => g1.rangeFault k i
    | none =>
      let base := rowAt (gDst d) (gDstride d) k
      let list := bits.take n ++ List.replicate (n - bits.length) nullIdx
      let g2 := { g1 with drops := g1.drops + (bits.length - n) }.write ag k base (list.flatMap (fun v => leBytes 4 v))
      g2.putWord ag k (gAux d) k (Nat.min n bits.length))

/-! ### Running an operation -/

/-- The agent that a gather-merge engine is. -/
def State.gmeAgent (s : State) (die e : Nat) : Agent := ⟨s.unitAddr (gmeU die e), die, 1⟩

def State.gme (s : State) (die e : Nat) : GmeSt := mget s.gmes (die * 2 + e) {}
def State.setGme (s : State) (die e : Nat) (g : GmeSt) : State := { s with gmes := mset {} s.gmes (die * 2 + e) g }

/-- The events of an operation counted and given to its layer (R135). -/
def GmeAcc.finish (g : GmeAcc) (die e layer : Nat) : State :=
  let u := gmeU die e
  let ev := g.idxev + g.fev
  let s1 := (((((g.s.bump u Reg.GME_IDXEV_COUNT ev).bump u Reg.GME_DROP_COUNT g.drops).bump u Reg.GME_SPILL_COUNT
    g.spills).bump u Reg.GME_HIT_COUNT g.hits).bump u Reg.GME_MISS_COUNT g.misses).bump u Reg.GME_NONFIN_COUNT g.nonfin
  (s1.addIrreg layer (ev + g.drops + g.spills)).addEvents u layer ⟨0, g.nonfin, 0⟩

/-- The next operation of an engine, where it has the operation code `op`: its descriptor is fetched, its tag goes out
and it is run to its end or to its fault. An operation whose tag is not free halts its core and is not run. -/
def State.gmeRunOp (s : State) (die e op : Nat) (f : GmeAcc → Agent → Nat → GmeAcc) : State :=
  let u := gmeU die e
  let g := s.gme die e
  match g.run, g.queue with
  | none, (core, addr) :: rest =>
    let ag := s.gmeAgent die e
    let (s1, r) := s.vread ag addr 64 permRead
    let d := leNat r.data
    if r.err ≠ 0 || gOp d ≠ op then s
    else
      let s2 := (s1.setGme die e { g with queue := rest }).wr u Reg.GME_STAT_QDEPTH rest.length
      match (s2.core die core).takeTag (gTag d) with
      | none => if s2.rd (seqU die core) Reg.SEQ_STAT_RUN = 1 then s2.haltCoreAt die core eCOUNT else s2
      | some c =>
        let s3 := ((s2.setCore die core c).wr u Reg.GME_STAT_BUSY 1).wr u Reg.GME_STAT_OP op
        let acc := f { s := s3 } ag d
        (acc.finish die e (gLayer d)).setGme die e { queue := rest, run := some ⟨core, addr, d, true, acc.fault⟩ }
  | _, _ => s

/-- GATHER (R124). -/
def execGather (die engine : Nat) (upsets : List (Nat × Nat)) (s : State) : Host.Outcome State Fault Refusal :=
  done ((s.upset upsets).gmeRunOp die (engine % 2) 0 (fun g ag d => g.gather ag d))

/-- SCATTER (R124). -/
def execScatter (die engine : Nat) (upsets : List (Nat × Nat)) (s : State) : Host.Outcome State Fault Refusal :=
  done ((s.upset upsets).gmeRunOp die (engine % 2) 1 (fun g ag d => g.scatter ag d))

/-- SCATTER_ADD (R125). -/
def execScatterAdd (die engine : Nat) (upsets : List (Nat × Nat)) (s : State) : Host.Outcome State Fault Refusal :=
  done ((s.upset upsets).gmeRunOp die (engine % 2) 2 (fun g ag d => g.scatterAdd ag d))

/-- SEGMENT_REDUCE (R126). -/
def execSegmentReduce (die engine : Nat) (upsets : List (Nat × Nat)) (s : State) : Host.Outcome State Fault Refusal :=
  done ((s.upset upsets).gmeRunOp die (engine % 2) 3 (fun g ag d => g.segmentReduce ag d))

/-- SORT_BY_KEY (R128). -/
def execSortByKey (die engine : Nat) (upsets : List (Nat × Nat)) (s : State) : Host.Outcome State Fault Refusal :=
  done ((s.upset upsets).gmeRunOp die (engine % 2) 4 (fun g ag d => g.sortByKey ag d))

/-- BUCKET (R129). -/
def execBucket (die engine : Nat) (upsets : List (Nat × Nat)) (s : State) : Host.Outcome State Fault Refusal :=
  done ((s.upset upsets).gmeRunOp die (engine % 2) 5 (fun g ag d => g.bucket ag d))

/-- PACK (R127). -/
def execPackRows (die engine : Nat) (upsets : List (Nat × Nat)) (s : State) : Host.Outcome State Fault Refusal :=
  done ((s.upset upsets).gmeRunOp die (engine % 2) 6 (fun g ag d => g.pack ag d))

/-- UNPACK (R127). -/
def execUnpack (die engine : Nat) (upsets : List (Nat × Nat)) (s : State) : Host.Outcome State Fault Refusal :=
  done ((s.upset upsets).gmeRunOp die (engine % 2) 7 (fun g ag d => g.unpack ag d))

/-- MASK_COMPACT (R130). -/
def execMaskCompact (die engine : Nat) (upsets : List (Nat × Nat)) (s : State) : Host.Outcome State Fault Refusal :=
  done ((s.upset upsets).gmeRunOp die (engine % 2) 8 (fun g ag d => g.maskCompact ag d))

/-- A fault of an engine captured and logged (R123). -/
def State.gmeFault (s : State) (die e addr code pos val tag : Nat) : State :=
  let u := gmeU die e
  let fval := if code = eIDX_RANGE then val else 0
  let s1 := ((((s.wr u Reg.GME_STAT_FAULTED 1).wr u Reg.GME_FDESC_LO_ADDR addr).wr u Reg.GME_FDESC_HI_ADDR
    (addr / 2 ^ 32)).wr u Reg.GME_FPOS_POS pos).wr u Reg.GME_FVAL_VALUE fval
  if code = eIDX_RANGE then s1.logEvent code u addr pos val
  else
    let t := tuU die
    let info := s1.rd t Reg.TU_FINFO_CAUSE + s1.rd t Reg.TU_FINFO_LEVEL * 16 + s1.rd t Reg.TU_FINFO_AGENT * 64
    s1.logEvent code u val info tag

/-- GME_OP_FAULT (R123): the operation under way has met a fault; or the descriptor of the next one cannot be fetched, and
the tag that returns in error, which only the descriptor tells, is a free value (assumption 196). -/
def execGmeOpFault (die engine : Nat) (s : State) : Host.Outcome State Fault Refusal :=
  let e := engine % 2
  let g := s.gme die e
  let u := gmeU die e
  match g.run, g.queue with
  | some r, _ =>
    match r.fault with
    | some (code, pos, val) =>
      let s1 := ((s.gmeFault die e r.addr code pos val (gTag r.desc)).returnTag die r.core (gTag r.desc) code)
      done ((s1.setGme die e { g with run := none }).wr u Reg.GME_STAT_BUSY 0)
    | none => done s
  | none, (core, addr) :: rest =>
    let (s1, r) := s.vread (s.gmeAgent die e) addr 64 permRead
    if r.err = 0 then done s
    else
      let (v, s2) := s1.fresh
      let tag := v % 256
      let s3 := ((s2.gmeFault die e addr r.err 0 r.addr tag).setGme die e { g with queue := rest }).wr u
        Reg.GME_STAT_QDEPTH rest.length
      match (s3.core die core).takeTag tag with
      | some c => done ((s3.setCore die core c).returnTag die core tag r.err)
      | none => done s3
  | none, [] => done s

/-- GME_OP_COMPLETE (R115): every write of the operation is visible, and its tag returns. -/
def execGmeOpComplete (die engine : Nat) (s : State) : Host.Outcome State Fault Refusal :=
  let e := engine % 2
  let g := s.gme die e
  match g.run with
  | some r =>
    if r.moved && r.fault.isNone then
      let s1 := s.returnTag die r.core (gTag r.desc) 0
      done ((s1.setGme die e { g with run := none }).wr (gmeU die e) Reg.GME_STAT_BUSY 0)
    else done s
  | none => done s

end Sys2Proof.Machine
end

