-- ==== Sys2Proof/Machine/Power.lean ====
section
/-!
DEFINITION. The power controller: input voltage, the windows that choose the clock step, thermal trips, power states and
wakes (01_module_dies_clocks R26, R27; 08_bonded_dram R202, R203; 21_power_cooling R492 to R502).
-/
namespace Sys2Proof.Machine

/-! ### Input voltage and temperatures -/

/-- PWR_VIN and the flags of R492 for an input voltage in mV. -/
def State.setVin (s : State) (mv : Nat) : State :=
  ((s.wr keeperU Reg.PWR_VIN_MV mv).wrB keeperU Reg.PWR_STAT_VLOW (decide (mv < 48000))).wrB keeperU Reg.PWR_STAT_VHIGH
    (decide (56000 < mv))

/-- INPUT_VOLTAGE_CHANGE (R492). -/
def execInputVoltageChange (mv : Nat) (s : State) : Host.Outcome State Fault Refusal :=
  done (if s.sb.good then s.setVin mv else s)

/-- INLET_OVER_TEMP (R494): a reading of the inlet in 0.1 °C. -/
def execInletOverTemp (tIn : Nat) (s : State) : Host.Outcome State Fault Refusal :=
  let t := s.wr keeperU Reg.PWR_COOL_T_IN tIn
  done (if 450 < tIn then t.logEvent eTHERMAL keeperU else t)

/-- A stack's temperature in °C (08_bonded_dram R202): above 85 °C it is hot, and a stack that comes above 95 °C reports
THERMAL (assumption 198). -/
def State.stackTemp (s : State) (die temp : Nat) : State :=
  let u := dramU die
  let t := (s.wr u Reg.DRAM_TEMP_VALUE temp).wrB u Reg.DRAM_STAT_HOT (decide (85 < temp))
  if 95 < temp && s.rd u Reg.DRAM_TEMP_VALUE ≤ 95 then t.logEvent eTHERMAL u else t

/-- DRAM_TEMP_CHANGE (08_bonded_dram R202). -/
def execDramTempChange (die temp : Nat) (s : State) : Host.Outcome State Fault Refusal := done (s.stackTemp (die % 24) temp)

/-- Td, the highest DRAM_TEMP, and its die (R495), where the reading of a window shows `td` for the stack of `tdDie`. -/
def State.hottest (s : State) (td tdDie : Nat) : Nat × Nat :=
  (List.range 24).foldl (fun p d =>
    let t := s.rd (dramU d) Reg.DRAM_TEMP_VALUE
    if d ≠ tdDie && p.1 < t then (t, d) else p) (td, tdDie)

/-! ### The thermal trip (R496) -/

/-- What is lost with the power of every die but die K. -/
def State.darkDies (s : State) : State :=
  let t : State := { s with
    mem := s.mem.filter (fun c => decide (taDie c.1 = 39)), ecc := s.ecc.filter (fun e => decide (taDie (4 * e.1) = 39)),
    regs := s.regs.filter (fun e => decide (dieOf (e.1 / 2 ^ 29) = 39)),
    cores := [], gmes := [], arbs := [], tus := [], ports := [], patrol := [], heldTx := [], apps := [], stqs := [], red := {},
    net := [], ues := [], streams := [], qps := [], eths := [], arrivals := [], auLog := [], sheets := [], scrubQ := [], gshift := [] }
  (({ t with log := { t.log with ring := [] } } : State).logStat.wrB (portU 0) Reg.FAB_STAT_MODE s.bridge).wrB (portU 1)
    Reg.FAB_STAT_MODE s.bridge

/-- The keeper logs THERMAL of class MODULE and raises its fog signal, and then removes the power. -/
def State.trip (s : State) : State :=
  let t := s.logFault eTHERMAL cMODULE keeperU s.job.modId 0
  ((t.wr keeperU Reg.PWR_STAT_TRIP 1).raiseFault tripFault).darkDies

/-- Whether a trip condition holds: a junction or a stack too hot, or 100 windows at step 3 above 105 °C. -/
def State.mustTrip (s : State) (tj td : Nat) : Bool := decide (115 ≤ tj) || decide (105 ≤ td) || decide (100 ≤ s.pwr.hot)

/-- PWR_TEMP from the hottest junction and the hottest stack. -/
def State.setTemps (s : State) (tj tjDie td tdDie : Nat) : State :=
  (((s.wr keeperU Reg.PWR_TEMP_TJ tj).wr keeperU Reg.PWR_TEMP_TJ_DIE tjDie).wr keeperU Reg.PWR_TEMP_TD td).wr keeperU
    Reg.PWR_TEMP_TD_DIE tdDie

/-- Whether the controller runs. -/
def State.controlled (s : State) : Bool := s.sb.good && s.rd keeperU Reg.PWR_STAT_TRIP == 0

/-- THERMAL_TRIP (R496): temperatures in °C and the dies that show them. -/
def execThermalTrip (tj tjDie td0 tdDie : Nat) (s : State) : Host.Outcome State Fault Refusal :=
  let (td, hotDie) := s.hottest td0 (tdDie % 24)
  let t := (s.stackTemp (tdDie % 24) td0).setTemps tj tjDie td hotDie
  done (if s.controlled && s.mustTrip tj td then t.trip else if s.controlled then t else s)

/-! ### The window's end (R493, R495) -/

/-- The effective cap Pc in W: the lesser of PWR_CAP and 196 A times the input voltage. -/
def State.effectiveCap (s : State) (mv : Nat) : Nat := Nat.min (s.rd keeperU Reg.PWR_CAP_W) (mv * 196 / 1000)

/-- H(s) of Table 21-4. -/
def stepRise (step : Nat) : Nat := if step = 1 then 2600 else 1300

/-- The clock step changed (01_module_dies_clocks R27). -/
def State.setStep (s : State) (n : Nat) : State :=
  ((s.wr clkU Reg.CLK_STAT_STEP n).wrB clkU Reg.CLK_STAT_THROTTLED (decide (0 < n))).bump clkU Reg.CLK_STAT_STEP_CHANGES 1

/-- A step down for its sources. -/
def State.stepDown (s : State) (thermal power : Bool) : State :=
  let t := ((s.setStep (s.rd clkU Reg.CLK_STAT_STEP + 1)).wr keeperU Reg.PWR_STAT_SRC (b2n thermal + 2 * b2n power))
  let t1 := (t.bump keeperU Reg.PWR_THROT_THERM (b2n thermal)).bump keeperU Reg.PWR_THROT_POWER (b2n power)
  { t1 with pwr := { t1.pwr with thermDowns := (t1.pwr.thermDowns + b2n thermal) % 2 ^ 32,
                                 powerDowns := (t1.pwr.powerDowns + b2n power) % 2 ^ 32 } }

/-- The decision of Table 21-4 for a window's power in W. -/
def State.chooseStep (s : State) (power pc tj td : Nat) : State :=
  let step := s.rd clkU Reg.CLK_STAT_STEP
  let thermal := decide (105 < tj) || decide (95 < td)
  let ovr := decide (pc < power)
  let downs := (thermal || ovr) && decide (step < 3)
  let t := if downs then s.stepDown thermal ovr
    else if !thermal && !ovr && 0 < step && 10 ≤ s.pwr.cool && power + stepRise step ≤ pc then s.setStep (step - 1)
    else s
  let first := downs && thermal && !s.pwr.therm
  let t1 : State := { t with pwr := { t.pwr with therm := downs && thermal } }
  if first then t1.logEvent eTHERMAL keeperU else t1

/-- POWER_WINDOW_END (R493, R495, R496): input voltage in mV and current in mA, the window's power in W, the hottest junction
and a stack's temperature in °C with their dies, the coolant temperatures in 0.1 °C, and the power by block. -/
def execPowerWindowEnd (mv ma power tj tjDie td0 tdDie tIn tOut : Nat) (blocks : List Nat) (s : State) :
    Host.Outcome State Fault Refusal :=
  if !s.controlled then done s
  else
    let step := s.rd clkU Reg.CLK_STAT_STEP
    let pc := s.effectiveCap mv
    let t := ((((s.setVin mv).wr keeperU Reg.PWR_IIN_MA ma).wr keeperU Reg.PWR_PIN_W power).wr keeperU Reg.PWR_PIN_PC pc)
    let (td, hotDie) := s.hottest td0 (tdDie % 24)
    let t1 := (((t.stackTemp (tdDie % 24) td0).setTemps tj tjDie td hotDie).wr keeperU Reg.PWR_COOL_T_IN tIn).wr keeperU
      Reg.PWR_COOL_T_OUT tOut
    let mJ := s.pwr.mJ + power
    let p : PwrSt := { t1.pwr with
      mJ := mJ, blocks := blocks.take 8,
      atStep := t1.pwr.atStep.set step ((t1.pwr.atStep.getD step 0 + msTicks) % 2 ^ 64),
      cool := if tj ≤ 100 && td ≤ 90 then Nat.min 10 (s.pwr.cool + 1) else 0,
      hot := if 105 < tj && step = 3 then s.pwr.hot + 1 else 0 }
    let t2 := (({ t1 with pwr := p } : State).wr keeperU Reg.PWR_ENERGY_LO_J (mJ / 1000)).chooseStep power pc tj td
    done (if t2.mustTrip tj td then t2.trip else t2)

/-! ### Power states (R497 to R500) -/

/-- Whether a memory byte lies in a scratchpad. -/
def inScratch (a : Nat) : Bool := !inDram a && decide (taDie a < 24) && epOf (taUnit a) == 1

/-- POWER_STATE_ENTRY (R498): 1 ms has passed without a wake cause. -/
def execPowerStateEntry (s : State) : Host.Outcome State Fault Refusal :=
  let n := s.permitted
  if s.controlled && s.stage == 8 && s.rd keeperU Reg.PWR_STAT_PSTATE < n && !s.pwr.waking && s.heldTx.isEmpty &&
      s.kpr.run.isNone && s.rd keeperU Reg.RCV_STAT_STATE ≠ 3 then
    let t := s.wr keeperU Reg.PWR_STAT_PSTATE n
    let t1 := if 2 ≤ n then
        forEach (List.range 2) (fun s p => (s.wr (ethU p) Reg.ETH_STAT_LINK 0).wr (ethU p) Reg.ETH_STAT_FECLOCK 0)
          (forEach (List.range 24) (fun s d => s.wr (dramU d) Reg.DRAM_STAT_SELF_REF 1) t)
      else t
    done (if n = 3 then { t1 with mem := t1.mem.filter (fun c => !inScratch c.1),
                                  ecc := t1.ecc.filter (fun e => !inScratch (4 * e.1)) } else t1)
  else done s

/-- The module at Active again, with the accesses that waited served in order (R499, R500). A wake from deep reloads the
firmware of the media and ingest dies, which R480 may send into recovery. -/
def State.wakeNow (s : State) : State :=
  let old := s.rd keeperU Reg.PWR_STAT_PSTATE
  let t := ({ s with pwr := { s.pwr with waking := false }, heldTx := [] } : State).wr keeperU Reg.PWR_STAT_PSTATE 0
  let t1 := forEach (List.range 24) (fun s d => s.wr (dramU d) Reg.DRAM_STAT_SELF_REF 0) t
  let t2 := if old = 3 && !s.sectionsOk then (t1.keeperReset s.sb.cause).enterRecovery else t1
  forEach s.heldTx (fun s x => s.serve x) t2

/-- Whether the module leaves its power state (R499): a wake cause has come, an access waits, or the state is no longer
permitted. -/
def State.mustWake (s : State) : Bool :=
  decide (0 < s.rd keeperU Reg.PWR_STAT_PSTATE) &&
    (s.pwr.waking || !s.heldTx.isEmpty || decide (s.permitted < s.rd keeperU Reg.PWR_STAT_PSTATE))

/-- WAKE_COMPLETE (R500). -/
def execWakeComplete (s : State) : Host.Outcome State Fault Refusal := done (if s.mustWake then s.wakeNow else s)

/-! ### The idle step -/

/-- The idle step (assumption 2): one edge of TCLK, which the timestamp counts while the root clock runs
(01_module_dies_clocks R28). -/
def idleStep (s : State) : State :=
  if s.rd clkU Reg.CLK_STAT_ROOT_LOCK = 1 then s.wr clkU Reg.TS_LO_VALUE (s.ts + 1) else s

end Sys2Proof.Machine
end

