-- ==== Sys2Proof/Machine/Keeper.lean ====
section
/-!
DEFINITION. How the keeper takes Minil commands and answers them, and its commands that concern no job: device, tolerance,
log, telemetry, firmware, attestation, routes and units (01_module_dies_clocks R19, R20; 16_hormen_fabric R391, R393, R397;
18_faults_and_relief R424, R425; 19_keeper_minil R453 to R463, R470 to R473; 20_darkroom_security R481 to R486;
21_power_cooling R498, R499, R501).
-/
namespace Sys2Proof.Machine

/-! ### The commands (Tables 19-4 and 19-6) -/

/-- A command's row: its code, its payload length (none for RELIEF_TAKEOVER, whose list sets it), the payload bits that a
field holds, and which classes may send it: HOST, KEEPER, APP. -/
structure CmdRow where
  code : Nat
  len : Option Nat
  mask : Nat
  host : Bool
  keeper : Bool
  app : Bool
  deriving DecidableEq, Repr

/-- The bits of a field of a structure: `w` bits from byte `off`. -/
def fieldBits (off w : Nat) : Nat := (2 ^ w - 1) * 2 ^ (8 * off)

def cmdQUERY : Nat := 0x0001
def cmdSETWAKE : Nat := 0x0002
def cmdSTART : Nat := 0x0011
def cmdCKPT : Nat := 0x0018
def cmdREADLOG : Nat := 0x0020
def cmdCLEARLOG : Nat := 0x0021
def cmdTELEMETRY : Nat := 0x0022
def cmdFWSTAGE : Nat := 0x0030
def cmdFWCOMMIT : Nat := 0x0031
def cmdATTEST : Nat := 0x0032
def cmdDISCOVER : Nat := 0x0040
def cmdROUTESET : Nat := 0x0041
def cmdRELIEF : Nat := 0x0042
def cmdINJECT : Nat := 0x0050
def cmdRESETUNIT : Nat := 0x0051

/-- The rows of Table 19-4 with the payloads of Table 19-6. -/
def cmdRows : List CmdRow :=
  [⟨cmdQUERY, some 0, 0, true, true, true⟩,
   ⟨cmdSETWAKE, some 4, fieldBits 0 32, true, false, false⟩,
   ⟨cmdLOAD, some 64, fieldBits 0 192 + fieldBits 0x18 15 + fieldBits 0x20 256, true, true, false⟩,
   ⟨cmdSTART, some 0, 0, true, true, false⟩,
   ⟨cmdSTOP, some 4, fieldBits 0 1, true, true, false⟩,
   ⟨cmdCKPT, some 32, fieldBits 0 2 + fieldBits 8 192, true, true, true⟩,
   ⟨cmdRESTORE, some 40, fieldBits 0 64 + fieldBits 8 2 + fieldBits 0x0C 15 + fieldBits 0x10 192, true, true, false⟩,
   ⟨cmdREADLOG, some 24, fieldBits 0 1 + fieldBits 4 32 + fieldBits 8 64 + fieldBits 0x10 32, true, true, true⟩,
   ⟨cmdCLEARLOG, some 4, fieldBits 0 2, true, false, false⟩,
   ⟨cmdTELEMETRY, some 32, fieldBits 0 8 + fieldBits 8 128 + fieldBits 0x18 32, true, true, true⟩] ++
  [⟨cmdFWSTAGE, some 16, fieldBits 0 128, true, false, false⟩,
   ⟨cmdFWCOMMIT, some 4, fieldBits 0 1, true, false, false⟩,
   ⟨cmdATTEST, some 48, fieldBits 0 320 + fieldBits 0x28 32, true, true, false⟩,
   ⟨cmdDISCOVER, some 16, fieldBits 0 96, true, false, false⟩,
   ⟨cmdROUTESET, some 16, fieldBits 0 128, true, true, false⟩,
   ⟨cmdRELIEF, none, 0, true, false, false⟩,
   ⟨cmdINJECT, some 12, fieldBits 0 4 + fieldBits 4 64, true, false, false⟩,
   ⟨cmdRESETUNIT, some 4, fieldBits 0 32, true, true, false⟩]

/-- The row of a command. -/
def cmdRow (code : Nat) : Option CmdRow := cmdRows.find? (fun r => r.code == code)

/-- Whether a payload has the length that its command calls for, and no reserved bit set. -/
def CmdRow.fits (r : CmdRow) (pl : List Byte) : Bool :=
  match r.len with
  | some n => pl.length == n && leNat pl == leNat pl &&& r.mask
  | none =>
    let n := leAt pl 0 1
    decide (1 ≤ n) && decide (n ≤ 64) && pl.length == 4 + roundUp (2 * n) 4 &&
      leNat pl == leNat pl &&& (fieldBits 0 8 + ((List.range n).map (fun i => fieldBits (4 + 2 * i) 15)).foldl (· + ·) 0)

/-! ### Replies (Table 19-3) -/

def stBAD_COMMAND : Nat := 0x0040
def stBAD_STATE : Nat := 0x0041
def stDENIED : Nat := 0x0042
def stVERIFY_FAIL : Nat := 0x0043

/-! ### Taking a message (R454, R457, R458) -/

/-- The next FULL channel of the keeper's, in round-robin order after the one it took last. -/
def State.nextChan (s : State) : Option Nat :=
  ((List.range 8).map (fun i => (s.kpr.last + 1 + i) % 8)).find? (fun c => s.mbxState c == mFULL)

/-- The message that a channel holds. -/
def State.msgIn (s : State) (c : Nat) : Minil := Minil.ofBytes (s.bytesAt (mbxBuf c) (s.rd mbxU (Reg.MBX_STAT_LEN c)))

/-- A message copied: its channel released before the keeper acts. -/
def State.takeChan (s : State) (c : Nat) : State :=
  let s1 := (s.mbxDone (s.unitAddr keeperU) c).1
  { s1 with kpr := { s1.kpr with last := c } }

/-- The class of a sender: 0 HOST, 1 KEEPER, 2 APP, none where SENDER names no class (R454). -/
def State.classOf (s : State) (sender : Nat) : Option Nat :=
  let u := sender % 65536
  if bitAt sender 31 then none
  else if u = portU 0 then
    if s.isHere (sender / 65536) true && !s.bridge then none else some 0
  else if u = keeperU then some 1
  else if (List.range 104).any (fun i => u == acU i) then some 2
  else none

/-- Whether a class may send a command. -/
def CmdRow.allows (r : CmdRow) (cls : Nat) : Bool :=
  match cls with
  | 0 => r.host
  | 1 => r.keeper
  | _ => r.app

/-- Whether a unit that RESET_UNIT names is a core or an application core (R473). -/
def resetCore (u : Nat) : Bool := decide (dieOf u < 24) && epOf u == 0 || (List.range 104).any (fun i => u == acU i)

/-- Whether a unit is a Hormen port (R473). -/
def resetPort (u : Nat) : Option Nat := (List.range 12).find? (fun p => u == portU p)

/-- Whether the module's job, recovery and start-up state allow a command (Table 19-4; 16_hormen_fabric R393;
20_darkroom_security R481, R483, R489; 22_connectors_startup R516). -/
def State.admits (s : State) (m : Minil) : Bool :=
  let st := s.job.st
  if s.inRecovery && !([cmdQUERY, cmdFWSTAGE, cmdFWCOMMIT, cmdATTEST].contains m.cmd) then false
  else if !s.inRecovery && s.stage < 8 && !([cmdQUERY, cmdREADLOG].contains m.cmd) then false
  else if m.cmd = cmdLOAD then
    (st == .noJob || st == .stopped) && s.rd dkrU Reg.DKR_STAT_JTAG_OPEN == 0
  else if m.cmd = cmdSTART then st == .loaded
  else if m.cmd = cmdSTOP then st != .noJob || bitAt (leAt m.payload 0 1) 0
  else if m.cmd = cmdCKPT then st == .running && s.rd keeperU Reg.FX_STAT_CKPEND == 0
  else if m.cmd = cmdRESTORE then st == .loaded || st == .stopped
  else if m.cmd = cmdFWCOMMIT then
    match s.dkr.staged with
    | none => false
    | some bs => st == .noJob || (s.inRecovery && fwType (slice bs 0 512) != 1)
  else if m.cmd = cmdROUTESET then st != .running
  else if m.cmd = cmdRELIEF then
    st == .stopped && [2, 4].contains (s.rd keeperU Reg.RCV_STAT_STATE) &&
      !s.log.faults.any (fun f => f.1 == s.job.modId)
  else if m.cmd = cmdRESETUNIT && resetCore (leAt m.payload 0 4 % 65536) then st == .noJob || st == .stopped
  else true

/-- Whether a command names a unit, a port or a kind that it does not accept (R463, R468, R473). -/
def State.inadmissible (s : State) (m : Minil) : Bool :=
  if m.cmd = cmdRESETUNIT then
    let u := leAt m.payload 0 4 % 65536
    match resetPort u with
    | some p => s.rd (portU p) Reg.FAB_STAT_MODE == 1
    | none => !resetCore u && u != keeperU
  else if m.cmd = cmdINJECT then
    decide (12 ≤ leAt m.payload 0 1) || s.rd (portU (leAt m.payload 0 1)) Reg.FAB_STAT_MODE == 1
  else if m.cmd = cmdTELEMETRY then decide (1 < leAt m.payload 0 1)
  else if m.cmd = cmdCKPT then decide (1 < leAt m.payload 0 1)
  else if m.cmd = cmdRESTORE then decide (1 < leAt m.payload 8 1)
  else false

/-- The status with which a command is refused, 0 where it is not. -/
def State.refusal (s : State) (m : Minil) (len cls : Nat) (rsvd : Bool) : Nat :=
  match cmdRow m.cmd with
  | none => stBAD_COMMAND
  | some r =>
    if len ≠ 16 + m.payload.length || rsvd || !r.fits m.payload || s.inadmissible m then stBAD_COMMAND
    else if !r.allows cls then stDENIED
    else if !s.admits m then stBAD_STATE
    else 0

/-- The command of the next FULL channel taken, where it is one of this code or of none: it is discarded, refused, or
admitted and answered. A command of another code and a reply stay for their own rows. -/
def State.accept (s : State) (code : Nat) : State × Option Minil :=
  if !(s.firmwareRuns || s.inRecovery) then (s, none)
  else
    match s.nextChan with
    | none => (s, none)
    | some c =>
      let m := s.msgIn c
      let len := s.rd mbxU (Reg.MBX_STAT_LEN c)
      let rsvd := bitsOf (s.numAt (mbxBuf c + 12) 4) 31 7 != 0
      let src := s.rd mbxU (Reg.MBX_SRC_UNIT c)
      if m.reply || (m.cmd ≠ code && (cmdRow m.cmd).isSome) then (s, none)
      else
        let s1 := s.takeChan c
        match if m.sender = src then s.classOf m.sender else none with
        | none => (s1.logEvent ePARTNER keeperU m.sender src, none)
        | some cls =>
          if s1.kpr.run.isSome then
            (((s1.logEvent eBUSY keeperU m.cmd m.sender).bump mbxU Reg.MNL_BUSYCNT_COUNT 1).reply m eBUSY, none)
          else
            let s2 := (s1.wr mbxU Reg.MNL_STAT_CMD m.cmd).wr mbxU Reg.MNL_SENDER_UNIT m.sender
            let e := s2.refusal m len cls rsvd
            if e ≠ 0 then (s2.reply m e, none) else (s2, some m)

/-- A short command: taken and carried out at once. -/
def State.short (s : State) (code : Nat) (act : State → Minil → State) : State :=
  let (s1, m) := s.accept code
  match m with
  | none => s1
  | some m => act s1 m

/-- A long command begins (R458): the keeper is busy, and the module wakes (21_power_cooling R499). -/
def State.beginLong (s : State) (m : Minil) : State :=
  ((({ s with kpr := { s.kpr with run := some m } } : State).wr mbxU Reg.MNL_STAT_BUSY 1).wr mbxU Reg.MNL_STAT_LONG 1).wr
    mbxU Reg.MNL_STAT_PCT 0 |>.wakeCause

/-- The module at Active, where a command takes it there. -/
def State.awake (s : State) : State := if s.rd keeperU Reg.PWR_STAT_PSTATE = 0 then s else s.wakeNow

/-- A long command: `fin` is false for its take and true for its end, which `finish` carries out for the command that
runs. -/
def State.long (s : State) (code : Nat) (fin : Bool) (take finish : State → Minil → State) : State :=
  if fin then
    match s.kpr.run with
    | none => s
    | some m =>
      if m.cmd ≠ code then s
      else
        let s1 := s.awake
        if s1.kpr.run = some m then finish s1 m else s1
  else
    let (s1, m) := s.accept code
    match m with
    | none => s1
    | some m => take (s1.beginLong m) m

/-- A command that does nothing at its take. -/
def noTake (s : State) (_ : Minil) : State := s

/-! ### Bytes at target addresses -/

/-- Bytes that the keeper reads at a target address: this module's own memory, or `ext`, what another module or the host
holds there (assumption 7). -/
def State.fetch (s : State) (ta n : Nat) (ext : List Byte) : State × List Byte × Nat :=
  let t := s.ownTa ta
  if taModule t = s.job.modId && taUnit t ≠ portU 0 || bitAt t 63 then
    (blocks64 (n + 1) t n).foldl (fun (p : State × List Byte × Nat) b =>
      if p.2.2 ≠ 0 then p
      else
        let (s1, a) := p.1.access (p.1.unitAddr keeperU) b.1 none b.2
        (s1, p.2.1 ++ a.data, a.err)) (s, [], 0)
  else (s, slice ext 0 n, 0)

/-! ### Device, tolerance, log and telemetry -/

/-- The job state as QUERY_DEVICE numbers it. -/
def JobState.code : JobState → Nat
  | .noJob => 0
  | .loaded => 1
  | .running => 2
  | .stopped => 3

/-- The reply of QUERY_DEVICE (Table 19-7). -/
def State.deviceReply (s : State) : List Byte :=
  leBytes 8 s.serial ++ leBytes 4 s.fwVer ++ leBytes 4 Config.romVer ++ leBytes 2 s.job.modId ++ leBytes 2 s.provId ++
    leBytes 1 (s.job.st.code + 4 * b2n s.job.dirty + 8 * b2n s.bridge + 16 * s.rd keeperU Reg.RCV_STAT_STATE) ++
    leBytes 1 s.sb.cause ++ leBytes 2 (s.rd keeperU Reg.PWR_STAT_PSTATE) ++ leBytes 8 s.stepNow ++
    leBytes 4 (s.rd keeperU Reg.PLC_EPOCH_VALUE) ++ leBytes 4 (s.rd keeperU Reg.PWR_TOL_US) ++ slice s.job.sha 0 32

/-- QUERY_DEVICE (R462). -/
def execQueryDevice (s : State) : Host.Outcome State Fault Refusal :=
  done (s.short cmdQUERY (fun s m => s.reply m 0 s.deviceReply))

/-- SET_WAKE_TOLERANCE (21_power_cooling R498). -/
def execSetWakeTolerance (s : State) : Host.Outcome State Fault Refusal :=
  done (s.short cmdSETWAKE (fun s m =>
    let s1 := s.wr keeperU Reg.PWR_TOL_US (leAt m.payload 0 4)
    s1.reply m 0 (leBytes 4 s1.permitted)))

/-- The bytes of a log entry (18_faults_and_relief Table 18-1). -/
def LogEntry.bytes (e : LogEntry) : List Byte :=
  leBytes 2 e.code ++ leBytes 1 (e.cls % 8 + 8 * b2n e.fogged) ++ leBytes 1 e.reps ++ leBytes 4 e.unit ++ leBytes 8 e.time ++
    leBytes 8 e.step ++ leBytes 4 e.seq ++ leBytes 4 e.epoch ++ leBytes 8 e.d0 ++ leBytes 8 e.d1 ++ leBytes 8 e.d2 ++
    leBytes 8 e.d3

/-- The entries that READ_LOG writes: those from SEQ FIRST on, ascending, as many as the result buffer holds. -/
def State.logFrom (s : State) (sticky : Bool) (first rlen : Nat) : List LogEntry :=
  (((if sticky then s.log.sticky else s.log.ring).reverse).filter (fun e => decide (first ≤ e.seq))).take (rlen / 64)

/-- READ_LOG (R463). -/
def execReadLog (s : State) : Host.Outcome State Fault Refusal :=
  done (s.short cmdREADLOG (fun s m =>
    let first := leAt m.payload 4 4
    let es := s.logFrom (bitAt (leAt m.payload 0 1) 0) first (leAt m.payload 0x10 4)
    let (s1, e) := s.putTarget (leAt m.payload 8 8) (es.flatMap LogEntry.bytes)
    let next := match es.getLast? with
      | some x => x.seq + 1
      | none => first
    if e ≠ 0 then s1.reply m e
    else s1.reply m 0 (leBytes 4 es.length ++ leBytes 4 next ++ leBytes 4 (s1.rd keeperU Reg.LOG_LOST_COUNT))))

/-- CLEAR_LOG (18_faults_and_relief R424). -/
def execClearLog (s : State) : Host.Outcome State Fault Refusal :=
  done (s.short cmdCLEARLOG (fun s m =>
    let b := leAt m.payload 0 1
    let s1 : State := { s with log := { s.log with ring := if bitAt b 0 then [] else s.log.ring,
                                                   sticky := if bitAt b 1 then [] else s.log.sticky } }
    s1.logStat.reply m 0))

/-- The power record (21_power_cooling Table 21-8). -/
def State.powerRecord (s : State) : List Byte :=
  let k (f : Field) : Nat := s.rd keeperU f
  leBytes 4 0x57505856 ++ leBytes 2 0x0100 ++
    leBytes 2 (k Reg.PWR_STAT_PSTATE + 4 * s.rd clkU Reg.CLK_STAT_STEP + 16 * k Reg.PWR_STAT_SRC) ++ leBytes 8 s.ts ++
    leBytes 4 (k Reg.PWR_VIN_MV) ++ leBytes 4 (k Reg.PWR_IIN_MA) ++ leBytes 4 (k Reg.PWR_PIN_W) ++
    leBytes 4 (k Reg.PWR_PIN_PC) ++ leBytes 8 (k Reg.PWR_ENERGY_LO_J) ++
    (List.range 8).flatMap (fun i => leBytes 2 (s.pwr.blocks.getD i 0)) ++ leBytes 1 (k Reg.PWR_TEMP_TJ) ++
    leBytes 1 (k Reg.PWR_TEMP_TJ_DIE) ++ leBytes 1 (k Reg.PWR_TEMP_TD) ++ leBytes 1 (k Reg.PWR_TEMP_TD_DIE) ++
    leBytes 2 (k Reg.PWR_COOL_T_IN) ++ leBytes 2 (k Reg.PWR_COOL_T_OUT) ++
    (List.range 4).flatMap (fun i => leBytes 8 (s.pwr.atStep.getD i 0)) ++ leBytes 4 s.pwr.thermDowns ++
    leBytes 4 s.pwr.powerDowns ++ List.replicate 24 0

/-- READ_TELEMETRY (12_update_and_fixer R310, 21_power_cooling R501). A sheet that the ring does not hold is answered with
COUNT (assumption 44). -/
def execReadTelemetry (s : State) : Host.Outcome State Fault Refusal :=
  done (s.short cmdTELEMETRY (fun s m =>
    let want := leAt m.payload 8 8
    let send (s : State) (bs : List Byte) (step : Nat) : State :=
      let out := bs.take (leAt m.payload 0x18 4)
      let (s1, e) := s.putTarget (leAt m.payload 0x10 8) out
      if e ≠ 0 then s1.reply m e else s1.reply m 0 (leBytes 8 out.length ++ leBytes 8 step)
    if leAt m.payload 0 1 = 1 then send s s.powerRecord 0
    else
      match if want = 2 ^ 64 - 1 then s.sheets.head? else s.sheets.find? (fun x => leAt x 8 8 == want) with
      | none => s.reply m eCOUNT
      | some x => send s x (leAt x 8 8)))

/-! ### Firmware and attestation -/

/-- FW_STAGE (20_darkroom_security R481): `image` is what SRC holds where that is another module's or the host's. -/
def execFwStage (fin : Bool) (image : List Byte) (s : State) : Host.Outcome State Fault Refusal :=
  done (s.long cmdFWSTAGE fin (fun s _ => { s with dkr := { s.dkr with staged := none } }) (fun s m =>
    let size := leAt m.payload 8 8
    let fail (s : State) : State := (s.bump dkrU Reg.DKR_VERFAIL_COUNT 1).endLong stVERIFY_FAIL
    if imageRegion < size then fail s
    else
      let (s1, bs, e) := s.fetch (leAt m.payload 0 8) size image
      if e ≠ 0 then s1.endLong e
      else if s1.stagePasses bs then
        ({ s1 with dkr := { s1.dkr with staged := some bs } } : State).endLong 0 (leBytes 4 (fwVersion bs))
      else fail s1))

/-- The end of an FW_COMMIT that is answered OK: in recovery, or with RESTART = 1, the keeper resets. -/
def State.committed (s : State) (m : Minil) : State :=
  let again := s.inRecovery || bitAt (leAt m.payload 0 1) 0
  let s1 := s.endLong 0
  if again then s1.keeperReset 6 else s1

/-- FW_COMMIT (20_darkroom_security R481, R482): `ue` says that a read of the staged copy meets ECC_UE, `bad` how many of
the writes read back wrong. -/
def execFwCommit (fin ue : Bool) (bad : Nat) (s : State) : Host.Outcome State Fault Refusal :=
  done (s.long cmdFWCOMMIT fin noTake (fun s m =>
    match s.dkr.staged with
    | none => s.endLong stBAD_STATE
    | some bs =>
      if ue || !s.stagePasses bs then
        (({ s with dkr := { s.dkr with staged := none } } : State).bump dkrU Reg.DKR_VERFAIL_COUNT 1).endLong stVERIFY_FAIL
      else if fwType (slice bs 0 512) = 1 then
        let (s1, good) := s.enrol bs
        if good then s1.committed m else s1.endLong stVERIFY_FAIL
      else if 2 ≤ bad then ({ s with dkr := { s.dkr with flash := [] } } : State).endLong stVERIFY_FAIL
      else ({ s with dkr := { s.dkr with flash := bs } } : State).committed m))

/-- The attestation report up to its signature (20_darkroom_security Table 20-4). -/
def State.report (s : State) (nonce : List Byte) : List Byte :=
  let meas := (List.range 8).flatMap (fun i => leBytes 4 (s.rd dkrU (Reg.DKR_FWMEAS_VALUE i)))
  let sha := if s.inRecovery then List.replicate 32 0 else slice s.job.sha 0 32
  leBytes 4 0x54415856 ++ leBytes 2 0x0100 ++ leBytes 2 Config.certificate.length ++ leBytes 8 s.serial ++ leBytes 8 s.ts ++
    leBytes 4 s.fwVer ++ leBytes 4 Config.romVer ++ slice nonce 0 32 ++ meas ++ sha ++ s.rootHash ++ s.ownerHash ++
    leBytes 1 s.svn ++ leBytes 1 (b2n s.ownerSet + 2 * s.rd dkrU Reg.DKR_STAT_JTAG_OPEN + 4 * b2n s.inRecovery +
      8 * s.rd dkrU Reg.DKR_STAT_SCRUBBED) ++ leBytes 2 s.job.st.code ++ leBytes 2 s.job.modId ++ leBytes 2 0 ++
    leBytes 8 s.stepNow ++ List.replicate 48 0

/-- ATTEST (20_darkroom_security R484, R486): the report is formed as the command is accepted, and its signature is the
next of the identity key's. -/
def execAttest (fin : Bool) (s : State) : Host.Outcome State Fault Refusal :=
  done (s.long cmdATTEST fin noTake (fun s m =>
    let r := s.report (slice m.payload 0 32)
    let full := r ++ slice (Config.identitySign s.free (sha256 r)) 0 64 ++ Config.certificate
    let s1 : State := { s with free := s.free + 1 }
    if !s.identityOk then s.endLong stVERIFY_FAIL
    else if leAt m.payload 0x28 4 < full.length then s.endLong eCOUNT
    else
      let (s2, e) := s1.putTarget (leAt m.payload 0x20 8) full
      if e ≠ 0 then s2.endLong e else s2.endLong 0 (leBytes 8 full.length ++ leBytes 8 0)))

/-! ### The fabric -/

/-- FABRIC_DISCOVER (R471; 16_hormen_fabric R391): taken, this keeper becomes the root; the reply follows the last
report. -/
def execFabricDiscover (s : State) : Host.Outcome State Fault Refusal :=
  done (s.short cmdDISCOVER (fun s m => (s.beginLong m).discRoot))

/-- The groups that a route set names (Table 19-9). -/
def routeGroups (set : List Byte) : List (Nat × List Nat) :=
  let ng := leAt set 8 2
  (List.range ng).map (fun g =>
    let o := 0x8040 + 8 * g
    let w := leAt set (o + 4) 4
    (leAt set o 4 % 2 ^ 31, (List.range (w / 2 ^ 18)).map (fun i => leAt set (0x8040 + 8 * ng + 4 * (w % 2 ^ 18 + i)) 4)))

/-- Whether no entry of a group reaches itself or a group that the table does not define (01_module_dies_clocks R20); `f`
bounds the depth, which no sound table exceeds. Every entry counts of a number that the table defines twice
(DESIGN CHOICE, assumption 201). -/
def groupSound (groups : List (Nat × List Nat)) : Nat → Nat → Bool
  | 0, _ => false
  | f + 1, g =>
    let defs := groups.filter (fun x => x.1 == g)
    !defs.isEmpty && defs.all (fun x => x.2.all (fun m => decide (m < 2 ^ 31) || groupSound groups f (m % 2 ^ 31)))

/-- Whether a group table may be installed (01_module_dies_clocks R19, R20). -/
def groupsOk (groups : List (Nat × List Nat)) : Bool :=
  decide (groups.length ≤ 16384) && decide ((groups.map (fun g => g.2.length)).foldl (· + ·) 0 ≤ 262144) &&
    groups.all (fun g => groupSound groups (groups.length + 1) g.1)

/-- Whether one field of a route entry may name what it names (16_hormen_fabric R393): `check` marks CPORT. -/
def State.routeFieldOk (s : State) (own check : Bool) (v : Nat) : Bool :=
  if own then v == 0xE
  else v == 0xF || (decide (v < 12) && s.portUp v && !(check && decide (10 ≤ v)))

/-- Whether a route set is accepted (R472; 16_hormen_fabric R393; 17_multi_module_jobs R420). -/
def State.routesOk (s : State) (set : List Byte) (size : Nat) : Bool :=
  let id := leAt set 0 4 % 2 ^ 15
  let ng := leAt set 8 2
  let nm := leAt set 0x0C 4
  size == 0x8040 + 8 * ng + 4 * nm && decide (ng ≤ 16384) && decide (nm ≤ 262144) &&
    (s.job.st == .noJob || id == s.job.modId) && decide (s.rd keeperU Reg.PLC_EPOCH_VALUE < leAt set 4 4) &&
    (List.range ng).all (fun g =>
      let w := leAt set (0x8040 + 8 * g + 4) 4
      decide (0 < w / 2 ^ 18) && decide (w % 2 ^ 18 + w / 2 ^ 18 ≤ nm)) &&
    (set.drop 0x40 |>.take 32768).zipIdx.all (fun e =>
      s.routeFieldOk (e.2 == id) false (e.1.toNat % 16) && s.routeFieldOk (e.2 == id) true (e.1.toNat / 16)) &&
    groupsOk (routeGroups set)

/-- A route set installed: job id, route table, group table and epoch together. -/
def State.installRoutes (s : State) (set : List Byte) : State :=
  let table := (set.drop 0x40 |>.take 32768).zipIdx.foldr (fun e m => mset 0xFF m e.2 e.1.toNat) []
  ({ s with routes := some table, groups := routeGroups set,
            job := { s.job with modId := leAt set 0 4 % 2 ^ 15 } } : State).wr keeperU Reg.PLC_EPOCH_VALUE (leAt set 4 4)

/-- FABRIC_ROUTE_SET (R472): `set` is what SRC holds where that is another module's or the host's. -/
def execFabricRouteSet (fin : Bool) (set : List Byte) (s : State) : Host.Outcome State Fault Refusal :=
  done (s.long cmdROUTESET fin noTake (fun s m =>
    let size := leAt m.payload 8 8
    if size < 0x8040 || 0x8040 + 8 * 16384 + 4 * 262144 < size then s.endLong eCOUNT
    else
      let (s1, bs, e) := s.fetch (leAt m.payload 0 8) size set
      if e ≠ 0 then s1.endLong e
      else if s1.routesOk bs size then (s1.installRoutes bs).endLong 0
      else s1.endLong eCOUNT))

/-! ### Ports and units -/

/-- INJECT_LINK_FAULT (R473; 16_hormen_fabric R397). -/
def execInjectLinkFault (s : State) : Host.Outcome State Fault Refusal :=
  done (s.short cmdINJECT (fun s m =>
    let p := leAt m.payload 0 1
    let v := leAt m.payload 4 4
    let w (s : State) (off v : Nat) : State :=
      forEach (fieldsAt (s.regMap (portU p)) off) (fun s f => s.wr (portU p) f (bitsOf v f.hi f.lo)) s
    let s1 := w (w s 0x44 v) 0x48 (leAt m.payload 8 4)
    (s1.setPort p { s1.port p with injN := 0 }).reply m 0))

/-- A core's units with nothing in flight: no tag, loop, transfer, load or stack operation is left, no tile has a class
(R73), and the drain numbers its starts from 0 (R525). -/
def CoreSt.idle (c : CoreSt) : CoreSt :=
  { c with cubes := c.cubes.map (fun e => (e.1, { e.2 with cls := [], ops := [], sload := [], statAsm := [] })),
           mv := { c.mv with ops := [], asm := none, vload := [] }, drain := { epi := c.drain.epi },
           spend := [], vops := [], tags := [], loops := [], nextDue := 0, atEnd := false, bars := [], fetched := [],
           xfers := [], iloads := [], stk := [] }

/-- A core returned to idle, its halt cleared. -/
def State.idleCore (s : State) (die core : Nat) : State :=
  let u := seqU die core
  let s1 := (((((s.setCore die core (s.core die core).idle).wr u Reg.SEQ_STAT_RUN 0).wr u Reg.SEQ_STAT_FROZEN 0).wr u
    Reg.SEQ_STAT_HALTED 0).wr u Reg.SEQ_STAT_LOOPDEPTH 0).wr u Reg.SEQ_HALT_CAUSE 0
  let s2 := ((((s1.wr u Reg.SEQ_HALT_VIA_TAG 0).wr u Reg.SEQ_HALT_TAG 0).wr u Reg.SEQ_PC_PC 0).wr u
    Reg.SEQ_CYC_LO_VALUE 0).wr u Reg.SEQ_EVT_PEND 0
  let s3 := forEach (List.range 8) (fun s n =>
    (s.wr (dmaU die core) (Reg.RING_POS_NEXT n) 0).wr (dmaU die core) (Reg.RING_POS_AHEAD n) 0) s2
  let s4 := (((s3.wr u Reg.SEQ_WAIT_KIND 0).wr u Reg.SEQ_WAIT_ID 0).wr u Reg.SEQ_WAIT_CLASS 0).wr u Reg.SEQ_WAIT_CAUSE 0
  let s5 := (s4.wr (stkU die core) Reg.STK_STAT_BUSY 0).wr (stkU die core) Reg.STK_STAT_QUEUED 0
  (s5.dmaStat die core).emptyStack die core

/-- An application core returned to idle, its trap cleared. -/
def State.idleApp (s : State) (i : Nat) : State :=
  let u := acU i
  (((s.setApp i { s.app i with wait := none }).wr u Reg.AC_STAT_RUN 0).wr u Reg.AC_STAT_TRAPPED 0).wr u
    Reg.AC_STAT_MCAUSE 0

/-- RESET_UNIT (R473): a port is restarted and retrained at the take; a core is idle, or the keeper resets, at the end. -/
def execResetUnit (fin : Bool) (s : State) : Host.Outcome State Fault Refusal :=
  done (s.long cmdRESETUNIT fin (fun s m =>
    match resetPort (leAt m.payload 0 4 % 65536) with
    | some p => (s.setPort p { s.port p with retrains := [] }).retrain p
    | none => s) (fun s m =>
    let u := leAt m.payload 0 4 % 65536
    if u = keeperU then (s.endLong 0).keeperReset 3
    else if (resetPort u).isSome then s.endLong 0
    else
      match (List.range 104).find? (fun i => u == acU i) with
      | some i => (s.idleApp i).endLong 0
      | none => (s.idleCore (dieOf u) (coreOf u)).endLong 0))

/-! ### Resends (R456) and the host ring (R469) -/

/-- REPLY_RESEND: 100 µs after the `n`-th undelivered message was last tried it is sent again. `code` is the answer that a
message to another module has met, 0 where it was taken. -/
def execReplyResend (n code : Nat) (s : State) : Host.Outcome State Fault Refusal :=
  match s.kpr.msgs[n]? with
  | none => done s
  | some m =>
    let s1 : State := { s with kpr := { s.kpr with msgs := s.kpr.msgs.eraseIdx n } }
    let keep (s : State) : State :=
      { s with kpr := { s.kpr with msgs := s.kpr.msgs ++ [{ m with tries := m.tries + 1 }] } }
    let (s2, e) := if s1.isHere m.dst m.prov then s1.putMsg m.chan m.data else (s1, code % 65536)
    if e = 0 || e = eMBX_ABORTED then done s2
    else if e ≠ eBUSY || 10000 ≤ m.tries + 1 then done s2.msgLost
    else if s2.isHere m.dst m.prov then done (keep s2)
    else done ((keep s2).emit (.minil m.dst m.prov m.chan m.data))

/-- HOST_RING_CONS_POLL: the writer of a host ring reads CONS and goes on with the pages that it lets it write. -/
def execHostRingConsPoll (cons : Nat) (s : State) : Host.Outcome State Fault Refusal := done (s.fillRing (cons % 2 ^ 64))

end Sys2Proof.Machine
end

