-- ==== Sys2Proof/Machine/Job.lean ====
section
/-!
DEFINITION. The keeper's commands on a loaded job: START_JOB, STOP_JOB, CHECKPOINT_REQUEST and RESTORE (12_update_and_fixer
R305, R308, R309; 14_video_ingest_developer R335, R343, R346, R355; 15_application_cores R365; 19_keeper_minil R461, R465 to
R469; 20_darkroom_security R487; 18_faults_and_relief R430, R524).
-/
namespace Sys2Proof.Machine

/-! ### START_JOB (R465) -/

/-- An application core started (15_application_cores R365), where the job gives it a program. -/
def State.startApp (s : State) (i : Nat) : State :=
  let a := s.app i
  if a.prog then
    ((s.idleApp i).setApp i { a with pc := a.entry, x2 := a.sp, a0 := a.arg, wait := none }).wr (acU i) Reg.AC_STAT_RUN 1
  else s

/-- A core's sequencer started at bundle 0, where the job gives it code (10_tiling_job_images R523). -/
def State.startSeq (s : State) (k : Nat) : State :=
  if (mget s.cores k {}).hasCode then (s.idleCore (k / 16) (k % 16)).wr (seqU (k / 16) (k % 16)) Reg.SEQ_STAT_RUN 1 else s

/-- A stage queue with its counts at zero. -/
def State.startStage (s : State) (k : Nat) : State :=
  let q := s.stq k
  let u := stageU (k / 16)
  let s1 := s.setStq k { live := q.live, esize := q.esize, depth := q.depth, poster := q.poster, ring := q.ring }
  if k % 16 < 8 then s1.wr u (Reg.STQ_SENT_COUNT (k % 8)) 0
  else (s1.wr u (Reg.STQ_ARR_COUNT (k % 8)) 0).wr u (Reg.STQ_RELD_COUNT (k % 8)) 0

/-- An ingest stream started (14_video_ingest_developer R343, R346): its draw and its window's position are what RESTORE
set, else zero. -/
def State.startStream (s : State) (k : Nat) : State :=
  match s.stream k with
  | none => s
  | some x =>
    let b : StreamRun := { rec_ := x.rec_, wbase := x.wbase, wsize := x.wsize, auBase := x.auBase, step := s.stepNow }
    let y : StreamRun := if s.job.restored then
        { b with draw := x.draw, prod := x.prod, cons := x.cons, ts := x.ts, clip0 := x.clip0, skip0 := x.skip0 }
      else b
    let u := strU k
    let s1 := ((((s.setStream k y).wr u Reg.STR_STAT_ACTIVE 1).wr u Reg.STR_STAT_STALLED 0).wr u Reg.STR_STAT_INFLIGHT 0).wr u
      Reg.STR_DRAW_LO_VALUE y.draw
    { (s1.wr u Reg.STR_AUPROD_COUNT 0).wr u Reg.STR_AUCONS_COUNT 0 with arrivals := mdel s1.arrivals k }

/-- The queue pairs of the job in Ready-to-Send (14_video_ingest_developer R335): one for each source entry of a shuffled
stream's table, and for a window stream the one that its peer writes through, 4096 plus its slot (assumption 50). -/
def State.startPairs (s : State) : State :=
  forEach s.streams (fun s e => match e.2 with
    | none => s
    | some x =>
      if srWindow x.rec_ then s.setQp (4096 + e.1) { st := 1 }
      else
        let (s1, r) := s.vread (s.ingestAgent e.1) (srStable x.rec_) 2 permRead
        forEach (List.range (leNat r.data)) (fun s i => s.setQp i { st := 1 }) s1) { s with qps := [] }

/-- START_JOB's effect. -/
def State.startJob (s : State) : State :=
  let s1 := forEach (s.apps.map (fun e => e.1)) (fun s i => s.startApp i) s
  let s2 := s1.writeWindow
  let s3 := forEach (s2.cores.map (fun e => e.1)) (fun s k => s.startSeq k) s2
  let s4 := forEach (s3.stqs.map (fun e => e.1)) (fun s k => s.startStage k) s3
  let s5 : State := { s4 with
    gmes := [], arbs := [], scrubQ := s4.scrubQ,
    ues := s4.ues.map (fun e => (e.1, { e.2 with next := 0, busy := false, stopped := false, sums := [] }))
    red := { s4.red with ready := [], order := [], layers := [] }
    fix := { released := s4.jobTime, watch := s4.rd keeperU Reg.RCV_CFG_STEP_MS != 0 }
    ck := { dests := s4.ck.dests, snap := s4.ck.snap }
    log := { s4.log with faults := [] }
    rcv := { s4.rcv with links := [], halts := [], again := false }
    job := { s4.job with st := .running } }
  let s6 := forEach (s5.startPairs.streams.map (fun e => e.1)) (fun s k => s.startStream k) s5.startPairs
  let s7 := forEach (s6.ues.map (fun e => e.1)) (fun s d => s.wr (ueU d) Reg.UE_STAT_BUSY 0) s6
  let s8 := forEach (List.range 24) (fun s d => forEach (List.range 2) (fun s i => s.wr (gmeU d i) Reg.GME_STAT_BUSY 0) s) s7
  (((s8.wr keeperU Reg.FX_STAT_CKPEND 0).wr keeperU Reg.RCV_STAT_STATE 1).wr keeperU Reg.RCV_STAT_FSET 0).redStat

/-- START_JOB: the job starts at step 0, or at the step that RESTORE set. -/
def execStartJob (s : State) : Host.Outcome State Fault Refusal :=
  done (s.short cmdSTART (fun s m => s.awake.startJob.reply m 0))

/-! ### STOP_JOB (R466) -/

/-- Everything of the job stopped. -/
def State.stopJob (s : State) : State :=
  let s1 := if s.job.st = .noJob then s else { s with job := { s.job with st := .stopped } }
  s1.stopCores.stopEngines eSTOPPED

/-- STOP_JOB: the job stops at the take; with END = 1 the scrub runs, and NO_JOB follows with DIRTY clear. -/
def execStopJob (fin : Bool) (s : State) : Host.Outcome State Fault Refusal :=
  let ends (m : Minil) : Bool := bitAt (leAt m.payload 0 1) 0
  done (s.long cmdSTOP fin
    (fun s m => if ends m then (s.stopJob.wr dkrU Reg.DKR_STAT_SCRUB_BUSY 1).wr dkrU Reg.DKR_STAT_SCRUBBED 0 else s.stopJob)
    (fun s m => (if ends m then s.scrub.toNoJob false else s).endLong 0))

/-! ### CHECKPOINT_REQUEST (R468) -/

/-- Whether bytes at a target address lie within a DRAM buffer region with W. -/
def State.inBuffer (s : State) (ta n : Nat) : Bool :=
  s.job.regions.any (fun r => r.kind == 0 && bitAt r.perms 1 && r.spans.any (fun p =>
    decide (p.1 ≤ ta) && decide (ta + n ≤ p.1 + p.2)))

/-- Whether a host ring's places are ones that R469 allows: its pages, their number and the count pair. -/
def ringOk (dest size ctrl : Nat) : Bool :=
  let win (t : Nat) : Bool := taEp t && taUnit t == portU 0
  win dest && win ctrl && dest % 4096 == 0 && ctrl % 16 == 0 && decide (1 ≤ size) && decide (size ≤ 4095)

/-- CHECKPOINT_REQUEST (12_update_and_fixer R305): the request awaits the module's next vote. -/
def execCheckpointRequest (s : State) : Host.Outcome State Fault Refusal :=
  done (s.short cmdCKPT (fun s0 m =>
    let s := s0.awake
    let pl := m.payload
    let q : CkReq := { kind := leAt pl 0 1, dest := leAt pl 8 8, size := leAt pl 0x10 8, ctrl := leAt pl 0x18 8,
                       rch := m.rch, seq := m.seq, sender := m.sender, prov := m.prov }
    let size := s.ckSize
    if if q.kind = 0 then s.inBuffer q.dest size && decide (size ≤ q.size) else ringOk q.dest q.size q.ctrl then
      (({ s with ck := { s.ck with req := some q } } : State).wr keeperU Reg.FX_STAT_CKPEND 1).reply m 0 (leBytes 8 size)
    else s.reply m eCOUNT))

/-! ### RESTORE (R467; 12_update_and_fixer R308, R309) -/

/-- Whether a checkpoint passes R309: `need` is the size that the loaded image gives it. -/
def State.ckOk (s : State) (ck : List Byte) (need step module : Nat) : Bool :=
  leAt ck 0 4 == 0x4B435856 && leAt ck 4 2 == 0x0100 && leAt ck 0x3C 4 == crc32 (ck.take 0x3C) &&
    leAt ck 0x20 4 < 2 && leAt ck 0x26 2 == 0 && leAt ck 0x30 4 == s.job.crc && leAt ck 0x34 4 == 528 &&
    leAt ck 0x28 8 == s.stateSize (leAt ck 0x20 4) && leAt ck 0x24 2 == s.job.nlayer && leAt ck 6 2 == module &&
    leAt ck 8 8 == step && ck.length == need && leAt ck 0x38 4 == crc32 (ck.drop 64)

/-- The blocks written into buffer ACTIVE, die by die and record by record; the first error. -/
def State.putBlocks (s : State) (active : Nat) (bs : List Byte) : State × Nat :=
  let (a, _) := s.ues.foldl (fun (p : UeAcc × List Byte) e =>
    let ag := s.ueAgent e.1
    let list := s.ueList e.1
    (List.range e.2.recs).foldl (fun (p : UeAcc × List Byte) k =>
      let (a1, r) := p.1.record ag list k
      let base := urBuf r active
      let n := urBlock r base
      (a1.write ag base (p.2.take n), p.2.drop n)) p) ((⟨s, 0, 0⟩ : UeAcc), bs)
  (a.st, a.err)

/-- A stream at its saved position (14_video_ingest_developer R355): `p` is its record. -/
def State.placeStream (s : State) (k : Nat) (p : List Byte) : State :=
  match s.stream k with
  | none => s
  | some x =>
    let draw := leAt p 8 8
    let pos := if srWindow x.rec_ then leAt p 0x10 8 else 0
    s.setStream k { x with draw := draw, prod := pos, cons := pos, ts := { pos := pos }, dec := {},
                           clip0 := draw + srDpr x.rec_ * srSps x.rec_, skip0 := leAt p 0x18 2 }

/-- The state of Table 12-5 brought back from a checkpoint that passes. -/
def State.bringBack (s : State) (ck : List Byte) : State × Nat :=
  let active := leAt ck 0x20 4
  let lt := slice ck 64 (64 * s.job.nlayer)
  let pos := ck.drop (64 + 64 * s.job.nlayer)
  let (s1, e) := s.putBlocks active (pos.drop 528)
  if e ≠ 0 then ({ s1 with job := { s1.job with st := .stopped } }, e)
  else
    let s2 := ((s1.putBytes (ltAddr 0 0) lt).wr keeperU Reg.FX_STAT_ACTIVE active).wr keeperU Reg.FX_STEP_LO_VALUE
      (leAt ck 8 8)
    let s3 := s2.wr keeperU Reg.FX_UPD_LO_VALUE (leAt ck 0x10 8)
    let s4 := forEach (List.range 16) (fun s k => s.placeStream k (slice pos (16 + 32 * k) 32)) s3
    let s5 : State := { s4 with job := { s4.job with st := .loaded, seed := leAt ck 0x18 8, restored := true } }
    (s5.writeWindow, 0)

/-- A restore: its payload, and what SRC holds where that is another module's DRAM or a host ring, whose reader then writes
CONS. Answers the status. -/
def State.restore (s : State) (pl ck : List Byte) : State × Nat :=
  let src := leAt pl 0x10 8
  let size := leAt pl 0x18 8
  let ctrl := leAt pl 0x20 8
  let ring := leAt pl 8 1 == 1
  if ring && !ringOk src size ctrl then (s, eCOUNT)
  else if !ring && size < 64 then (s, eCOUNT)
  else
    let (s1, head, e1) := if ring then (s, slice ck 0 64, 0) else s.fetch src 64 ck
    let need := 64 + 64 * s.job.nlayer + 528 + s.stateSize (leAt head 0x20 4 % 2)
    if e1 ≠ 0 then (s1, e1)
    else if !ring && size < need then (s1, eCOUNT)
    else
      let (s2, bs, e2) := if ring then (s1, slice ck 0 need, 0) else s1.fetch src need ck
      if e2 ≠ 0 then (s2, e2)
      else
        let (s3, e3) := if ring then s2.putTarget (ctrl + 8) (leBytes 8 (ceilDiv need 4096)) else (s2, 0)
        if e3 ≠ 0 then (s3, e3)
        else if s3.ckOk bs need (leAt pl 0 8) (leAt pl 0x0C 2) then s3.bringBack bs
        else (s3, eCOUNT)

/-- RESTORE: `ck` is what SRC holds where that is another module's DRAM or a host ring. -/
def execRestore (fin : Bool) (ck : List Byte) (s : State) : Host.Outcome State Fault Refusal :=
  done (s.long cmdRESTORE fin noTake (fun s m =>
    let r := s.restore m.payload ck
    r.1.endLong r.2))

end Sys2Proof.Machine
end

