-- ==== Sys2Proof/Machine/Image.lean ====
section
/-!
DEFINITION. Filbo job images: the header, the section table, which sections apply, and the loader's checks
(03_cube_array R85; 05_gather_merge R117, R118; 10_tiling_job_images R241 to R263, R523; 11_backward_pass R283;
13_gradient_reduction R314, R315; 14_video_ingest_developer R341, R342; 17_multi_module_jobs R406, R407).
-/
namespace Sys2Proof.Machine

/-! ### The header and the section table (Tables 10-3 and 10-4) -/

def imNmod (im : List Byte) : Nat := leAt im 8 2
def imNlayer (im : List Byte) : Nat := leAt im 0x0A 2
def imNbucket (im : List Byte) : Nat := leAt im 0x0C 2
def imNsec (im : List Byte) : Nat := leAt im 0x10 4
def imSectOff (im : List Byte) : Nat := leAt im 0x18 8
def imOver (im : List Byte) : Nat := bitsOf (leAt im 6 2) 2 1

/-- Object ids (R256). -/
def objOf (sec i : Nat) : Nat := 2 ^ 32 * sec + i
def objWhole (sec : Nat) : Nat := objOf sec max32
def objHeader : Nat := 2 ^ 64 - 1
def objTable (i : Nat) : Nat := objOf 0xFFFFFFFE i

/-- A section. -/
structure Sec where
  idx : Nat
  type : Nat
  rsvd : Nat
  mod : Nat
  unit : Nat
  off : Nat
  size : Nat
  count : Nat
  crc : Nat
  deriving DecidableEq, Repr

/-- The sections of an image. -/
def imSecs (im : List Byte) : List Sec :=
  (List.range (imNsec im)).map (fun i =>
    let o := imSectOff im + 32 * i
    ⟨i, leAt im o 2, leAt im (o + 2) 2, leAt im (o + 4) 2, leAt im (o + 6) 2, leAt im (o + 8) 8, leAt im (o + 16) 8,
      leAt im (o + 24) 4, leAt im (o + 28) 4⟩)

/-- A section's bytes, and one of its objects of `n` bytes. -/
def Sec.bytes (x : Sec) (im : List Byte) : List Byte := (im.drop x.off).take x.size
def Sec.obj (x : Sec) (im : List Byte) (n i : Nat) : List Byte := slice im (x.off + n * i) n

def tCODE : Nat := 0x0001
def tRING : Nat := 0x0002
def tEPI : Nat := 0x0003
def tGMEDESC : Nat := 0x0004
def tREGION : Nat := 0x0005
def tMAP : Nat := 0x0006
def tGROUP : Nat := 0x0007
def tMCSET : Nat := 0x0008
def tBARRIER : Nat := 0x0009
def tLAYER : Nat := 0x000A
def tBUCKET : Nat := 0x000B
def tRINGTAB : Nat := 0x000C
def tDATA : Nat := 0x000D
def tWLIM : Nat := 0x000E
def tOPS : Nat := 0x000F
def tINGEST : Nat := 0x0010
def tSTAGE : Nat := 0x0011

/-- A failure: its error code and the object. -/
abbrev Reject := Nat × Nat

/-- A check of one object: none where it passes. -/
def failIf (b : Bool) (code obj : Nat) : Option Reject := if b then some (code, obj) else none

/-- The header's check (R253, R262, R464). -/
def headerFails (im : List Byte) (imgSize fw : Nat) (want sha : List Byte) : Option Reject :=
  let nlayer := imNlayer im
  failIf (decide (im.length < 64) || leAt im 0 4 != 0x4F424C46 || leAt im 5 1 != 3 || leAt im 0x14 4 != 0x00030040 ||
    leAt im 0x20 8 != imgSize || decide (fw < leAt im 0x28 4) || leAt im 0x3C 4 != crc32 (im.take 0x3C) ||
    bitsOf (leAt im 6 2) 15 3 != 0 || decide (2 ≤ imOver im) || leAt im 0x0E 2 != 0 || leAt im 0x2C 16 != 0 ||
    imNmod im == 0 || decide (32768 < imNmod im) || decide (4096 < nlayer) || imNbucket im == 0 ||
    decide (256 < imNbucket im) || imSectOff im % 64 != 0 || decide (imgSize < imSectOff im + 32 * imNsec im) ||
    (want.any (fun b => b != 0) && want != sha)) eCOUNT objHeader

/-- The size of a section's objects of fixed size. -/
def objSize (type : Nat) : Option Nat :=
  if type = tCODE || type = tGMEDESC || type = tLAYER || type = tOPS then some 64
  else if type = tEPI || type = tREGION || type = tBUCKET then some 32
  else none

/-- The largest COUNT of a section, by its type. -/
def objMax (type : Nat) : Option Nat :=
  if type = tCODE then some 8192 else if type = tEPI then some 64 else if type = tLAYER then some 4096
  else if type = tBUCKET then some 256 else if type = tRING then some 65536 else if type = tGROUP then some 16384
  else if type = tMCSET || type = tBARRIER then some 16 else if type = tWLIM then some 4 else none

/-- One entry of the section table (R254, R262). -/
def entryFails (im : List Byte) (imgSize : Nat) (x : Sec) (others : List Sec) : Bool :=
  x.type == 0 || decide (0x11 < x.type) || x.rsvd != 0 || x.off % 64 != 0 || decide (imgSize < x.off + x.size) ||
    others.any (fun y => decide (0 < x.size) && decide (0 < y.size) && decide (x.off < y.off + y.size) &&
      decide (y.off < x.off + x.size)) ||
    (match objSize x.type with
     | some n => x.size != n * x.count
     | none => false) ||
    (match objMax x.type with
     | some n => decide (n < x.count)
     | none => false) ||
    (x.type == tRING && (x.count % 16 != 0 || x.count == 0)) || (x.type == tLAYER && x.count != imNlayer im) ||
    (x.type == tBUCKET && x.count != imNbucket im)

/-- The section table's check. -/
def tableFails (im : List Byte) (imgSize : Nat) : Option Reject :=
  (imSecs im).findSome? (fun x =>
    failIf (entryFails im imgSize x ((imSecs im).filter (fun y => decide (y.idx < x.idx)))) eCOUNT (objTable x.idx))

/-! ### The sections that apply (R255) -/

def Sec.forModule (x : Sec) (m : Nat) : Bool := x.mod == m || x.mod == 0xFFFF

/-- The types whose sections belong to one core. Every other type concerns the module as a whole. -/
def perCore (type : Nat) : Bool := [tCODE, tRING, tEPI, tMCSET, tBARRIER, tWLIM, tOPS].contains type

/-- Whether a section applies to a unit: a core is meant by its die and core number, and a type of the module as a whole has
the module for its one unit (assumption 47). -/
def Sec.forUnit (x : Sec) (u : Nat) : Bool := x.unit == 0xFFFF || !perCore x.type || x.unit / 64 == u / 64

/-- How specific a section is: MODULE first. -/
def Sec.rank (x : Sec) : Nat := 2 * b2n (x.mod != 0xFFFF) + b2n (x.unit != 0xFFFF)

/-- The items of a section whose layout the specification does not give. -/
def itemsOf (im : List Byte) (x : Sec) : List Config.LoadItem := Config.sectionItems x.type x.count (x.bytes im)

/-- What a section fills: sections of one type that fill different things do not meet under R255. A RING section fills one
ring of a core, a DATA section bytes of a region, a GMEDESC section the place of its descriptors, and every other section
all that its type says (assumption 47). -/
def Sec.fills (x : Sec) (im : List Byte) : List (Nat × Nat) :=
  if x.type = tRING || x.type = tDATA || x.type = tGMEDESC then
    (itemsOf im x).filterMap (fun i => match i with
      | .ring n _ => some (n % 8, 0)
      | .data id off _ => some (id, off)
      | .place va => some (va, 0)
      | _ => none)
  else [(0, 0)]

/-- The sections of a type for a unit of a module, whether or not a more specific one wins. -/
def candidates (im : List Byte) (type m u : Nat) : List Sec :=
  (imSecs im).filter (fun x => x.type == type && x.forModule m && x.forUnit u)

/-- The sections of a type that apply to a unit of a module: of those that fill one thing, the most specific. -/
def appliesTo (im : List Byte) (type m u : Nat) : List Sec :=
  let c := candidates im type m u
  c.filter (fun x => (x.fills im).any (fun k => c.all (fun y => !(y.fills im).contains k || decide (y.rank ≤ x.rank))))

/-- The section of a type that applies to a unit. -/
def theSec (im : List Byte) (type m u : Nat) : Option Sec := (appliesTo im type m u).head?

/-- A core's section of a type. -/
def coreSec (im : List Byte) (m type : Nat) (p : Nat × Nat) : Option Sec := theSec im type m (seqU p.1 p.2)

/-- The units for which sections of a type are chosen: every core, or the module as a whole. -/
def unitsOf (type : Nat) : List Nat := if perCore type then allCores.map (fun p => seqU p.1 p.2) else [0xFFFF]

/-- Whether a section is as specific as an earlier one of the same thing for some unit. -/
def ambiguous (im : List Byte) (m : Nat) (x : Sec) : Bool :=
  (unitsOf x.type).any (fun u =>
    let l := appliesTo im x.type m u
    l.contains x && l.any (fun y => decide (y.idx < x.idx) && (y.fills im).any (fun k => (x.fills im).contains k)))

/-- The sections of a type that apply to some unit of a module, in ascending index. -/
def inForce (im : List Byte) (m type : Nat) : List Sec :=
  (imSecs im).filter (fun x => x.type == type && (unitsOf type).any (fun u => (appliesTo im type m u).contains x))

/-! ### Objects (step 3 of R261) -/

/-- The layout bits that a structure gives a meaning; any other set bit is a reserved one. -/
def extra (bs : List Byte) (mask : Nat) : Bool := leNat bs != leNat bs &&& mask

/-- Whether a layer id is one that the table allows (11_backward_pass R283): `used` are the layers in use. -/
def layerBad (nlayer : Nat) (used : List Nat) (n : Nat) : Bool := decide (0 < nlayer) && !used.contains n

/-- A layer entry (11_backward_pass R283). -/
def layerFails (nlayer : Nat) (e : List Byte) : Bool :=
  let b := leAt e 0 1
  let fmt := leAt e 1 1
  let g := sext 8 (leAt e 2 1)
  if b % 2 = 0 then e.any (fun x => x != 0)
  else
    bitsOf b 7 5 != 0 || bitsOf b 4 2 == 0 || decide (31 < fmt) ||
      !((fmt == 0x04 && bitAt b 2) || (fmt == 0x05 && bitAt b 3) || (fmt == 0x01 && bitAt b 4)) ||
      decide (g < -64) || decide (63 < g) || decide (16 < bitsOf (leAt e 6 2) 8 4) || decide (511 < leAt e 6 2) ||
      (leAt e 4 2 != 0xFFFF && decide (nlayer ≤ leAt e 4 2)) || leAt e 8 16 != 0

/-- A region record (Table 10-7). -/
def regionFails (e : List Byte) : Bool :=
  decide (6 < leAt e 4 1) || decide (15 < leAt e 5 1) || leAt e 0x0A 6 != 0 ||
    (leAt e 4 1 != 1 && leAt e 4 1 != 2 && leAt e 4 1 != 5 && leAt e 8 2 != 0)

/-- An operation record (Table 10-6). -/
def opFails (nlayer nbucket : Nat) (used : List Nat) (e : List Byte) : Bool :=
  let k := leAt e 0 1
  let base := fieldBits 0 8 + fieldBits 4 16 + fieldBits 0x0A 16 + fieldBits 0x20 96 + fieldBits 0x38 32
  let prod := fieldBits 1 4 + fieldBits 2 5 + fieldBits 3 5 + fieldBits 6 32 + fieldBits 0x0C 24 + fieldBits 0x10 96 +
    fieldBits 0x1C 6 + fieldBits 0x30 64
  decide (5 < k) || extra e (if k < 3 then base + prod else base) ||
    (decide (k < 3) && (leAt e 9 1 == 0 || decide (16 < leAt e 9 1))) ||
    layerBad nlayer used (leAt e 4 2) || (leAt e 0x0A 2 != 0xFFFF && decide (nbucket ≤ leAt e 0x0A 2))

/-- A shape bucket (Table 10-8). -/
def bucketFails (nbucket i : Nat) (e : List Byte) : Bool :=
  leAt e 0 2 != i || decide (nbucket ≤ leAt e 0 2) || decide (8191 < leAt e 2 2) || leAt e 0x14 12 != 0

/-- The ring lists of a RINGTAB section from an offset: RING, the modules, and the offset of the next (13_gradient_reduction
R314). -/
def ringLists (bs : List Byte) : Nat → Nat → List (Nat × List Nat) × Nat
  | 0, o => ([], o)
  | n + 1, o =>
    let p := leAt bs (o + 2) 2
    let r := ringLists bs n (o + roundUp (4 + 2 * p) 8)
    ((leAt bs o 2, (List.range p).map (fun i => leAt bs (o + 4 + 2 * i) 2)) :: r.1, r.2)

/-- The entries of a RINGTAB section with its lists. -/
def ringTab (bs : List Byte) : List (Nat × List Nat) × List (List Byte) :=
  let l := ringLists bs (leAt bs 0 2) 64
  (l.1, (List.range (leAt bs 2 2)).map (fun i => slice bs (l.2 + 64 * i) 64))

/-- HEAD of R315: how far 2 to the 16 falls short of the contributions. -/
def headroom (c : Nat) : Nat := (if c ≤ 1 then 0 else ilog2 (c - 1) + 1) - 16

/-- A list whose members are all different. -/
def noTwice (l : List Nat) : Bool := l.zipIdx.all (fun x => !((l.take x.2).contains x.1))

/-- The header and the ring lists of a RINGTAB section (13_gradient_reduction R314, R315; 11_backward_pass R283). -/
def ringListsFail (nmod nlayer : Nat) (bs : List Byte) : Bool :=
  nlayer == 0 || (slice bs 4 60).any (fun b => b != 0) ||
    (ringTab bs).1.any (fun l =>
      l.2.isEmpty || decide (32768 < l.2.length) || !noTwice l.2 || l.2.any (fun m => decide (nmod ≤ m)))

/-- One entry of a RINGTAB section, by what it and the lists say; the second entry of a layer fails (R314, R315). -/
def ringEntFails (nlayer : Nat) (used : List Nat) (bs : List Byte) (i : Nat) : Bool :=
  let (lists, ents) := ringTab bs
  let e := ents.getD i []
  ((ents.take i).map (fun x => leAt x 0 2)).contains (leAt e 0 2) ||
    match lists.find? (fun l => l.1 == leAt e 2 2) with
    | none => true
    | some l =>
      leAt e 4 4 == 0 || leAt e 8 1 == 0 || decide (24 < leAt e 8 1) || leAt e 9 1 != headroom (leAt e 8 1 * l.2.length) ||
        leAt e 0x0A 2 == 0 || leAt e 0x0C 4 != 0 || leAt e 0x10 8 % 64 != 0 || leAt e 0x18 8 % 8 != 0 ||
        leAt e 0x20 32 != 0 || layerBad nlayer used (leAt e 0 2)

/-- A stream record (14_video_ingest_developer R341, R342), as a 1024-bit number. -/
def streamFails (nlayer : Nat) (used : List Nat) (e : List Byte) : Bool :=
  let r := leNat e
  let k := srKept r
  let mask := fieldBits 0 7 + fieldBits 1 7 + fieldBits 2 32 + fieldBits 6 9 + fieldBits 8 48 + fieldBits 0x10 384 +
    fieldBits 0x40 48 + fieldBits 0x48 216 + fieldBits 0x64 16 + fieldBits 0x68 64
  extra e mask || decide (4 < srCodec r) || decide (6 < srEvt r) ||
    decide (4 < srCsc r) || decide (2 < srRange r) || (!srWindow r && srNsamp r == 0) ||
    (srWindow r && srNsamp r != 0) || srOut r % 64 != 0 || srSlotStride r % 64 != 0 || srSps r == 0 ||
    decide (4096 < srSps r) || srDpn r == 0 || decide (srDpn r ≤ srDpr r) || srFrames r == 0 || decide (1024 < srFrames r) ||
    srTstride r == 0 || decide (64 < srTstride r) || decide (srTstride r ≤ srTphase r) || srTt r == 0 ||
    decide (8 < srTt r) || !([8, 14, 16, 32].contains (srTp r)) || k == 0 || decide (64 < k) || k % srTt r != 0 ||
    !([0x01, 0x04, 0x05].contains (convCode (srCvt r))) || convSr (srCvt r) || convOvf (srCvt r) == 3 || srCropX r % 2 == 1 || srCropY r % 2 == 1 ||
    srCropW r % 2 == 1 || srCropH r % 2 == 1 || srOutW r % srTp r != 0 || srOutH r % srTp r != 0 ||
    decide (4096 < srOutW r) || decide (4096 < srOutH r) || decide (8192 * 4320 < srMaxW r * srMaxH r) ||
    decide (srSlotStride r < 64 + (k / srTt r) * (srOutH r / srTp r) * (srOutW r / srTp r) * srRow r) ||
    decide (srBufStride r < srSps r * srSlotStride r) || (decide (3 ≤ srCodec r) && srCont r == 0) || (decide (srCodec r < 3) && srCont r == 3) ||
    layerBad nlayer used (srLayer r)

/-- The stream records of an INGEST section. -/
def streamRecs (bs : List Byte) : List (List Byte) := (List.range (leAt bs 0 1)).map (fun i => slice bs (64 + 128 * i) 128)

/-- An INGEST section's header, and records that share a slot. -/
def ingestFails (bs : List Byte) : Bool :=
  extra (slice bs 0 64) (fieldBits 0 8 + fieldBits 8 32 + fieldBits 0x0C 144 + fieldBits 0x20 32 + fieldBits 0x24 144) ||
    decide (16 < leAt bs 0 1) || !noTwice ((streamRecs bs).map (fun r => leAt r 0 1 % 16))

/-- The stage map and the queue records of a STAGE section (17_multi_module_jobs R406). -/
def stageMap (bs : List Byte) : List Nat := (List.range (leAt bs 0 2 * leAt bs 2 2)).map (fun i => leAt bs (64 + 2 * i) 2)
def stageRecs (bs : List Byte) : List (List Byte) :=
  let o := roundUp (64 + 2 * (leAt bs 0 2 * leAt bs 2 2)) 64
  (List.range (leAt bs 4 2)).map (fun i => slice bs (o + 32 * i) 32)

/-- The queue that a record names: stage, port, direction and number. -/
def stageQueueOf (e : List Byte) : Nat := leAt e 0 2 * 64 + leAt e 2 2 % 64

/-- The header and the map of a STAGE section (17_multi_module_jobs R406). -/
def stageMapFails (nmod : Nat) (bs : List Byte) : Bool :=
  let ns := leAt bs 0 2
  ns == 0 || decide (256 < ns) || leAt bs 2 2 == 0 || ns * leAt bs 2 2 != nmod || leAt bs 6 2 == 0 ||
    decide (4096 < leAt bs 6 2) || leAt bs 8 56 != 0 || (stageMap bs).any (fun m => decide (nmod ≤ m)) ||
    !noTwice (stageMap bs)

/-- One queue record of a STAGE section (17_multi_module_jobs R406, R407, R415): its ranges, a queue named before, a partner
that does not agree. -/
def stageRecFails (taper : Bool) (bs : List Byte) (i : Nat) : Bool :=
  let recs := stageRecs bs
  let e := recs.getD i []
  let port (e : List Byte) : Nat := leAt e 2 1 % 2
  let dir (e : List Byte) : Nat := leAt e 2 1 / 2 % 2
  let qid (e : List Byte) : Nat := leAt e 2 1 / 4 % 8
  let like (a b : List Byte) : Bool := qid a == qid b && leAt a 4 4 == leAt b 4 4 && leAt a 8 2 == leAt b 8 2
  ((recs.take i).map stageQueueOf).contains (stageQueueOf e) || decide (31 < leAt e 2 2) || leAt e 4 4 % 64 != 0 ||
    leAt e 4 4 == 0 || decide (64 * 2 ^ 20 < leAt e 4 4) || decide (leAt e 8 2 < 2) || decide (4096 < leAt e 8 2) ||
    leAt e 0x10 16 != 0 || decide (leAt bs 0 2 ≤ leAt e 0 2) || (dir e == 0 && leAt e 0x0C 4 != 0) ||
    (dir e == 0 && !(recs.any (fun f => dir f == 1 && port f != port e && like e f &&
      (if port e = 1 then leAt f 0 2 == leAt e 0 2 + 1 else leAt f 0 2 + 1 == leAt e 0 2)))) ||
    (!taper && (recs.take i).any (fun f => dir e == dir f && port e == port f && qid e == qid f && !like e f))

end Sys2Proof.Machine
end

