-- ==== Sys2Proof/Machine/Layout.lean ====
section
/-!
DEFINITION. What an image says for a module: its address space, regions with their initial contents, groups, and each core's
program, rings and operations (08_bonded_dram R192, R195; 10_tiling_job_images R252 to R258; 07_streams_layout R173, R176;
12_update_and_fixer R289).
-/
namespace Sys2Proof.Machine

/-! ### The address space (R195) -/

/-- A page: virtual address, size, target address and permissions. -/
abbrev Page := Nat × Nat × Nat × Nat

/-- The pages of a module's address space. -/
def pagesOf (im : List Byte) (m : Nat) : List Page :=
  match theSec im tMAP m 0xFFFF with
  | none => []
  | some x => (itemsOf im x).filterMap (fun i => match i with
    | .page va size t p => some (va, size, t, p)
    | _ => none)

/-- The page that maps a virtual address. -/
def pageAt (pages : List Page) (va : Nat) : Option Page :=
  pages.find? (fun p => decide (p.1 ≤ va) && decide (va < p.1 + p.2.1))

/-- The target address that a virtual address maps to. -/
def targetOf (pages : List Page) (va : Nat) : Option Nat := (pageAt pages va).map (fun p => p.2.2.1 + (va - p.1))

/-- Where a range of virtual addresses lies, as pieces of target addresses. -/
def spansOf (pages : List Page) (base size : Nat) : List (Nat × Nat) :=
  pages.filterMap (fun p =>
    let lo := Nat.max base p.1
    let hi := Nat.min (base + size) (p.1 + p.2.1)
    if lo < hi then some (p.2.2.1 + (lo - p.1), hi - lo) else none)

/-- Adjacent pieces joined. -/
def joinSpans (l : List (Nat × Nat)) : List (Nat × Nat) :=
  l.foldr (fun x r => match r with
    | y :: r' => if x.1 + x.2 = y.1 then (x.1, x.2 + y.2) :: r' else x :: r
    | [] => [x]) []

/-- Whether pages cover a range with the permissions of a mask. -/
def covered (pages : List Page) (base size perms : Nat) : Bool :=
  (spansOf (pages.filter (fun p => p.2.2.2 &&& perms == perms)) base size).foldl (fun n x => n + x.2) 0 == size

/-- Whether a page is one that R193 and R195 allow: its size, alignment and target. -/
def pageBad (p : Page) : Bool :=
  (p.2.1 != 2 ^ 21 && p.2.1 != 2 ^ 30) || p.1 % p.2.1 != 0 || p.2.2.1 % p.2.1 != 0 ||
    (!taEp p.2.2.1 && decide (reservedOff < taOff p.2.2.1 + p.2.1)) || !canonical p.1

/-! ### Regions (Table 10-7) -/

def rgId (e : List Byte) : Nat := leAt e 0 4
def rgKind (e : List Byte) : Nat := leAt e 4 1
def rgPerm (e : List Byte) : Nat := leAt e 5 1
def rgMod (e : List Byte) : Nat := leAt e 6 2
def rgUnit (e : List Byte) : Nat := leAt e 8 2
def rgBase (e : List Byte) : Nat := leAt e 0x10 8
def rgSize (e : List Byte) : Nat := leAt e 0x18 8

/-- Whether a region's BASE is a scratchpad offset. -/
def rgLocal (e : List Byte) : Bool := rgKind e == 1 || rgKind e == 2

/-- The region records of the image, with the object id of each. -/
def regionRecs (im : List Byte) (m : Nat) : List (Nat × List Byte) :=
  match theSec im tREGION m 0xFFFF with
  | none => []
  | some x => (List.range x.count).map (fun i => (objOf x.idx i, x.obj im 32 i))

/-- The records of regions that lie on a module. -/
def regionsOn (im : List Byte) (m : Nat) : List (Nat × List Byte) :=
  (regionRecs im m).filter (fun r => rgMod r.2 == m || rgMod r.2 == 0xFFFF)

/-- A region of a module by its id. -/
def regionById (im : List Byte) (m id : Nat) : Option (Nat × List Byte) := (regionsOn im m).find? (fun r => rgId r.2 == id)

/-- Bytes laid over bytes from an offset. -/
def overlay (l : List Byte) (off : Nat) (bs : List Byte) : List Byte :=
  (List.range l.length).map (fun i => if decide (off ≤ i) && decide (i < off + bs.length) then bs.getD (i - off) 0 else l.getD i 0)

/-- `n` initial bytes of a region from an offset, zero where no DATA section says one. -/
def regionBytes (im : List Byte) (m id off n : Nat) : List Byte :=
  ((appliesTo im tDATA m 0xFFFF).flatMap (itemsOf im)).foldl (fun l i => match i with
    | .data r o bs =>
      if r = id then overlay l (o - off) (bs.drop (off - o)) else l
    | _ => l) (List.replicate n 0)

/-- `n` initial bytes at a virtual address. -/
def imageBytes (im : List Byte) (m va n : Nat) : List Byte :=
  match (regionsOn im m).find? (fun r => !rgLocal r.2 && decide (rgBase r.2 ≤ va) && decide (va < rgBase r.2 + rgSize r.2)) with
  | some (_, e) => regionBytes im m (rgId e) (va - rgBase e) n
  | none => List.replicate n 0

/-- Whether a range lies in one DRAM buffer region with the permissions of a mask. -/
def inRegion (im : List Byte) (m va n perms : Nat) : Bool :=
  (regionsOn im m).any (fun r => rgKind r.2 == 0 && rgPerm r.2 &&& perms == perms && decide (rgBase r.2 ≤ va) &&
    decide (va + n ≤ rgBase r.2 + rgSize r.2))

/-! ### Groups (01_module_dies_clocks R19; 07_streams_layout R173; 09_core_sequencer R235) -/

/-- The group table of the image. -/
def groupsIn (im : List Byte) (m : Nat) : List (Nat × List Nat) :=
  match theSec im tGROUP m 0xFFFF with
  | some x => (itemsOf im x).filterMap (fun i => match i with
    | .group n l => some (n, l)
    | _ => none)
  | none => []

/-- The leaf units of an address under the image's table. -/
def leavesIn (im : List Byte) (m a : Nat) : List Nat :=
  let g := groupsIn im m
  leavesOf g (g.length + 2) a

/-- The multicast set of a core by its number. -/
def mcsetOf (im : List Byte) (m : Nat) (p : Nat × Nat) (n : Nat) : Option Nat :=
  match coreSec im m tMCSET p with
  | none => none
  | some x => ((itemsOf im x).filterMap (fun i => match i with
    | .mcset k g => if k % 16 = n then some g else none
    | _ => none)).getLast?

/-! ### Records of update lists (12_update_and_fixer R289) -/

/-- The update list of a die: its region's object, its header and its records. -/
def updateList (im : List Byte) (m die : Nat) : Option (Nat × List Byte × List (List Byte)) :=
  (regionById im m (0x55500000 + die)).map (fun r =>
    let h := regionBytes im m (0x55500000 + die) 0 64
    (r.1, h, (List.range (leAt h 0 4)).map (fun i =>
      regionBytes im m (0x55500000 + die) (64 + 32 * leAt h 4 4 + 64 * i) 64)))

/-- Every update record of a module's lists. -/
def updateRecs (im : List Byte) (m : Nat) : List (List Byte) :=
  (List.range 24).flatMap (fun die => match updateList im m die with
    | some l => l.2.2
    | none => [])

/-- The blocks of update records, as base and size: buffer 0 and buffer 1 of each record in turn. -/
def blocksOf (recs : List (List Byte)) : List (Nat × Nat) :=
  recs.flatMap (fun e => [0, 1].map (fun b => (urBuf (leNat e) b, urBlock (leNat e) (urBuf (leNat e) b))))

/-! ### Sparse tiles at rest (04_weight_sparsity R100, R107) -/

/-- The size at which a tile is stored for good: that of its form at full capacity (R100, R107). -/
def tileRoom (f : Fmt) (h : TileHead) : Nat := if tileForm f h.kt h.cap = 1 then denseSize f h.kt else compSize f h.kt h.cap

/-- The headers of `n` sparse tiles stored one after another from a virtual address, each with where it lies. -/
def tilesAt (im : List Byte) (m : Nat) : Nat → Nat → List (Nat × TileHead)
  | 0, _ => []
  | n + 1, va =>
    let h := tileHead (imageBytes im m va 32)
    match sparseFmt h.fmt with
    | some f => if ktLegal f h.kt then (va, h) :: tilesAt im m n (va + tileRoom f h) else [(va, h)]
    | none => [(va, h)]

/-! ### A core's program -/

/-- A ring of a core: its number, its section and its descriptors. -/
structure RingView where
  num : Nat
  sec : Nat
  base : Nat
  descs : List Nat
  deriving DecidableEq, Repr

/-- What an image gives one core: its place, the section and bundles of its code, its epilogue records, its rings, and the
operation records in which it takes part, each with its object id. -/
structure CoreView where
  die : Nat
  core : Nat
  codeSec : Nat
  code : List Nat
  epiSec : Nat
  epi : List Nat
  rings : List RingView
  ops : List (Nat × List Byte)
  deriving DecidableEq, Repr

/-- The rings of a core. -/
def ringsOf (im : List Byte) (m : Nat) (p : Nat × Nat) : List RingView :=
  (appliesTo im tRING m (seqU p.1 p.2)).flatMap (fun x => (itemsOf im x).filterMap (fun i => match i with
    | .ring n base => some ⟨n % 8, x.idx, base, (List.range x.count).map (fun k => leNat (x.obj im 64 k))⟩
    | _ => none))

/-- Whether a core takes part in an operation (R249). -/
def takesPart (p : Nat × Nat) (e : List Byte) : Bool :=
  decide (2 < leAt e 0 1) || (bitAt (leAt e 0x0C 4) p.1 && decide (p.2 < leAt e 9 1))

/-- The operation records in which a core takes part. -/
def opsOf (im : List Byte) (m : Nat) (p : Nat × Nat) : List (Nat × List Byte) :=
  match coreSec im m tOPS p with
  | none => []
  | some x => ((List.range x.count).map (fun i => (objOf x.idx i, x.obj im 64 i))).filter (fun o => takesPart p o.2)

/-- Whether a core takes part in the job (R523). -/
def hasCodeIn (im : List Byte) (m : Nat) (p : Nat × Nat) : Bool := (coreSec im m tCODE p).isSome

/-- The index of a core's section of a type, and its objects of `n` bytes as numbers; none of them where it has none. -/
def coreObjs (im : List Byte) (m type n : Nat) (p : Nat × Nat) : Nat × List Nat :=
  match coreSec im m type p with
  | some x => (x.idx, (List.range x.count).map (fun i => leNat (x.obj im n i)))
  | none => (0, [])

/-- What an image gives a core. -/
def coreView (im : List Byte) (m : Nat) (p : Nat × Nat) : CoreView :=
  let code := coreObjs im m tCODE 64 p
  let epi := coreObjs im m tEPI 32 p
  { die := p.1, core := p.2, codeSec := code.1, code := code.2, epiSec := epi.1, epi := epi.2, rings := ringsOf im m p,
    ops := opsOf im m p }

/-- The cores of a module that take part in the job. -/
def coreViews (im : List Byte) (m : Nat) : List CoreView := (allCores.filter (hasCodeIn im m)).map (coreView im m)

/-- The descriptors of the gather-merge sections of a module: object id, virtual address and bytes. -/
def gmeDescs (im : List Byte) (m : Nat) : List (Nat × Nat × List Byte) :=
  (inForce im m tGMEDESC).flatMap (fun x => (itemsOf im x).flatMap (fun i => match i with
    | .place va => (List.range x.count).map (fun k => (objOf x.idx k, va + 64 * k, x.obj im 64 k))
    | _ => []))

/-- The bundle numbers of an operation. -/
def opHolds (e : List Byte) (pc : Nat) : Bool := decide (leAt e 0x38 2 ≤ pc) && decide (pc ≤ leAt e 0x3A 2)

/-- The entries of the reduction ring table with the virtual extents that each stages its partials in and receives its sums
in, for a module that holds ring position `r` (13_gradient_reduction R314 to R316): LAYER, staging, sums, and the chunk as
its first element and the one after its last. -/
structure RingExt where
  layer : Nat
  stage : Nat × Nat
  sums : Nat × Nat
  chunk : Nat × Nat
  deriving DecidableEq, Repr

/-- The elements of chunk `r` of a ring of length `p` (R316). -/
def chunkOf (nelem p r : Nat) : Nat × Nat :=
  let s := ceilDiv nelem 40
  (Nat.min nelem (40 * (r * s / p)), Nat.min nelem (40 * ((r + 1) * s / p)))

/-- What an entry of a ring table gives a module; none where the module is not in the entry's ring. -/
def ringExt (m : Nat) (lists : List (Nat × List Nat)) (e : List Byte) : Option RingExt :=
  match lists.find? (fun l => l.1 == leAt e 2 2) with
  | none => none
  | some l => (l.2.findIdx? (fun x => x == m)).map (fun r =>
      let c := chunkOf (leAt e 4 4) l.2.length r
      { layer := leAt e 0 2, stage := (leAt e 0x10 8, leAt e 0x10 8 + 4 * (leAt e 8 1 * leAt e 4 4)),
        sums := (leAt e 0x18 8, leAt e 0x18 8 + 6 * (c.2 - c.1)), chunk := c })

/-- The ring table of an image. -/
def ringTabOf (im : List Byte) (m : Nat) : List (Nat × List Nat) × List (List Byte) :=
  match theSec im tRINGTAB m 0xFFFF with
  | some x => ringTab (x.bytes im)
  | none => ([], [])

/-- The reductions in which a module takes part. -/
def ringExts (im : List Byte) (m : Nat) : List RingExt :=
  let t := ringTabOf im m
  t.2.filterMap (ringExt m t.1)

/-- The LAYERs of the transfer records whose bundles issue from a ring, by DMA, also through the ring that `mask` pairs with
it, or by STACK (R171; 12_update_and_fixer R292). -/
def ringLayers (c : CoreView) (mask ring : Nat) : List Nat :=
  ((c.ops.filter (fun o => leAt o.2 0 1 == 5 && (c.code.zipIdx.any (fun b => opHolds o.2 b.2 &&
    ((bitsOf b.1 34 32 == 1 && (bitsOf b.1 37 35 == ring || (bitsOf b.1 37 35 + 4 == ring && bitAt mask (ring - 4)))) ||
      (bitsOf b.1 34 32 == 3 && bitsOf b.1 38 36 == ring)))))).map (fun o => leAt o.2 4 2)).eraseDups

end Sys2Proof.Machine
end

