-- ==== Sys2Proof/Machine/Extents.lean ====
section
/-!
DEFINITION. The extents that the loader derives from descriptors, and what they must keep to (05_gather_merge R133;
06_scratchpad R139, R152; 07_streams_layout R161 to R165, R170, R172, R184; 10_tiling_job_images R257; 11_backward_pass R274,
R277, R288; 12_update_and_fixer R291, R292).
-/
namespace Sys2Proof.Machine

/-! ### Ranges -/

/-- Half-open ranges of addresses. -/
abbrev Spans := List (Nat × Nat)

/-- Ranges in ascending order, those that touch joined. -/
def normSpans (l : Spans) : Spans :=
  (((l.filter (fun x => decide (x.1 < x.2))).mergeSort (fun a b => decide (a.1 ≤ b.1))).foldl (fun acc x =>
    match acc with
    | y :: r => if x.1 ≤ y.2 then (y.1, Nat.max y.2 x.2) :: r else x :: acc
    | [] => [x]) []).reverse

/-- Whether ordered ranges have a byte in common; the number bounds the comparisons. -/
def meetFuel : Nat → Spans → Spans → Bool
  | n + 1, a :: as, b :: bs =>
    if a.1 < b.2 && b.1 < a.2 then true
    else if a.2 ≤ b.2 then meetFuel n as (b :: bs) else meetFuel n (a :: as) bs
  | _, _, _ => false

/-- Whether two sets of ranges have a byte in common. -/
def spansMeet (a b : Spans) : Bool := meetFuel (a.length + b.length) (normSpans a) (normSpans b)

/-- Whether two ranges of a list have a byte in common. -/
def aliasing (l : Spans) : Bool :=
  let s := (l.filter (fun x => decide (x.1 < x.2))).mergeSort (fun a b => decide (a.1 ≤ b.1))
  (s.zip (s.drop 1)).any (fun p => decide (p.2.1 < p.1.2))

/-- The smallest range that holds all of some ranges. -/
def hull (l : Spans) : Nat × Nat :=
  match l with
  | [] => (0, 0)
  | x :: r => r.foldl (fun a y => (Nat.min a.1 y.1, Nat.max a.2 y.2)) x

/-- The target addresses of ranges of virtual addresses. -/
def toTargets (pages : List Page) (l : Spans) : Spans :=
  (normSpans l).flatMap (fun x => (spansOf pages x.1 (x.2 - x.1)).map (fun p => (p.1, p.1 + p.2)))

/-- The target addresses of a range of offsets in a core's scratchpad. -/
def spTarget (m die core : Nat) (x : Nat × Nat) : Nat × Nat :=
  let a := 2 ^ 48 * m + epAddr (spU die core) 0
  (a + x.1, a + x.2)

/-! ### Transfers -/

/-- The extents of a transfer: the remote bytes that its elements occupy and those that its pad writes occupy, as virtual
addresses, its local bytes, as scratchpad offsets, and whether two remote elements occupy one byte. -/
structure XferExt where
  inner : Spans
  pads : Spans
  loc : Nat × Nat
  twice : Bool
  deriving DecidableEq, Repr

/-- The runs that a store's elements occupy at the remote end, pad positions of it apart (R165, R169). -/
def storePlaces (d : Nat) (g : Fmt) : Spans × Spans :=
  if g.isMX then
    let n := ceilDiv (dCnt d 0) 256 * g.stripBytes
    ((List.range (dCnt d 1 * dCnt d 2 * dCnt d 3 * dCnt d 4)).map (fun r =>
      let a := dRowAddr d (0 :: (digits [dCnt d 1, dCnt d 2, dCnt d 3, dCnt d 4] r).map Int.ofNat)
      (a, a + n)), [])
  else
    let at_ (q : Nat) : Nat × Nat := (dAddr d (dIndex d q), dAddr d (dIndex d q) + g.bytes)
    let qs := List.range (dTotal d)
    ((qs.filter (fun q => !dIsPad d (dIndex d q))).map at_,
     if dMatPad d then (qs.filter (fun q => dIsPad d (dIndex d q))).map at_ else [])

/-- The extents of a descriptor. A pack or expand transfer spans its tiles at the room that R107 keeps for each. -/
def xferExt (im : List Byte) (m d : Nat) : XferExt :=
  let loc := (dLocal d, dLocal d + dLocalBytes d)
  match dFmt d, dCvtFmt d with
  | some f, some g =>
    if dPack d || dExpand d then
      let k := if dPack d then g else f
      ⟨(tilesAt im m (dCnt d 2) (dBase d)).map (fun t => (t.1, t.1 + tileRoom k t.2)), [], loc, false⟩
    else if dStore d then
      let (inner, pads) := storePlaces d g
      ⟨inner, pads, loc, aliasing (inner ++ pads)⟩
    else ⟨(loadRuns d f).map (fun r => (r.1, r.1 + r.2)), [], loc, false⟩
  | _, _ => ⟨[], [], loc, false⟩

/-- The cores whose scratchpads a transfer of a core writes or reads at the local end. -/
def localCores (im : List Byte) (m : Nat) (c : CoreView) (d : Nat) : List (Nat × Nat) :=
  if dMcast d then
    match mcsetOf im m (c.die, c.core) (dMset d) with
    | some g => (leavesIn im m g).map (fun u => (dieOf u, coreOf u))
    | none => []
  else [(c.die, c.core)]

/-- The target addresses that an operation reads and those that it writes. -/
structure Reach where
  reads : Spans
  writes : Spans
  deriving DecidableEq, Repr

/-- Where a core's transfer reaches. The remote end of a frame's transfer lies in the activation stack (11_backward_pass
R274), so only its local end counts. -/
def xferReach (im : List Byte) (m : Nat) (c : CoreView) (frame : Bool) (d : Nat) : Reach :=
  let x := xferExt im m d
  let far := if frame then [] else toTargets (pagesOf im m) (x.inner ++ x.pads)
  let near := (localCores im m c d).map (fun p => spTarget m p.1 p.2 x.loc)
  if dStore d then ⟨near, far⟩ else ⟨far, near⟩

/-- The bytes that a transfer writes at its destination (R161, R184). -/
def destBytes (im : List Byte) (m d : Nat) : Nat :=
  if dPack d then (xferExt im m d).inner.foldl (fun n x => n + (x.2 - x.1)) 0 else dDestBytes d

/-- The bits that a descriptor reserves: FMT [7:5], MSET without MCAST, DBN without DB, and CTL [16] (R159, R160). -/
def descRsvd (d : Nat) : Bool :=
  bitsOf d 439 437 != 0 || (!dMcast d && dMset d != 0) || (!ctlBit d 10 && bitsOf d 478 474 != 0) || ctlBit d 16

/-- A stream descriptor that R49, R161, R165 and R184 reject with COUNT. -/
def descBad (im : List Byte) (m d : Nat) : Bool :=
  let mx (f : Option Fmt) : Bool := match f with
    | some g => g.isMX
    | none => false
  let far := if dStore d then dCvtFmt d else dFmt d
  let tiles := dPack d || dExpand d
  let padded := [0, 1].any (fun n => dPadLo d n != 0 || dPadHi d n != 0)
  (List.range 5).any (fun n => dCnt d n == 0) || decide (120 ≤ dPerm d) || descRsvd d || ovfBad (dCvt d) ||
    convSr (dCvt d) || (dMatPad d && !dStore d) || (dMcast d && (dStore d || tiles)) || (dPack d && !dStore d) ||
    (dExpand d && dStore d) || (dPack d && dExpand d) || (dOvfFault d && !dPack d) || (padded && tiles) ||
    decide (0x600000 < dLocal d + dLocalBytes d) || decide (4096 < destBytes im m d) ||
    (!tiles && mx far && (dStr d 0 != 0 || (dStore d && dMatPad d)))

/-- A pack or expand transfer that breaks the shape of R184. -/
def packBad (im : List Byte) (m d : Nat) : Bool :=
  (dPack d || dExpand d) && (dCnt d 1 != 16 || dCnt d 3 != 1 || dCnt d 4 != 1 || dPerm d != 0 ||
    (List.range 5).any (fun n => dStr d n != 0) ||
    (tilesAt im m (dCnt d 2) (dBase d)).any (fun t => t.2.kt != dCnt d 0 ||
      t.2.fmt != (if dPack d then convCode (dCvt d) else bitsOf d 436 432)))

/-- A stream descriptor that R46, R94 and R161 reject with ALIGN: LOCAL, the addresses of remote elements, the row bases of
a remote MX end, and the tiles of a pack or expand transfer. -/
def descAlign (d : Nat) : Bool :=
  let w := if dPack d || dExpand d then 256
    else match (if dStore d then dCvtFmt d else dFmt d) with
      | some f => if f.isMX then 8 else f.bytes
      | none => 1
  dLocal d % 64 != 0 || dBase d % w != 0 ||
    (List.range 5).any (fun n => decide (1 < dExt d n) && dStr d n % (w : Int) != 0)

/-- The payload bytes that a frame's transfers reach (11_backward_pass R274). -/
def frameEnd (im : List Byte) (m : Nat) (descs : List Nat) : Nat :=
  descs.foldl (fun n d => ((xferExt im m d).inner).foldl (fun n x => Nat.max n x.2) n) 0

/-- A frame descriptor that R277 rejects. -/
def frameBad (im : List Byte) (m d : Nat) : Bool :=
  dMcast d || dMatPad d || dPack d || dExpand d || (xferExt im m d).inner.any (fun x => decide (2 ^ 32 < x.2))

/-! ### Gather-merge operations (Tables 5-1 and 5-2) -/

/-- The ranges of `n` rows. -/
def rowSpans (base stride n len : Nat) : Spans :=
  if stride = len then [(base, base + n * len)] else (List.range n).map (fun i => (base + i * stride, base + i * stride + len))

/-- The operands of an operation: whether each is written, and its virtual addresses. -/
def gmeOperands (d : Nat) : List (Bool × Spans) :=
  let words (base n : Nat) : Spans := [(base, base + 4 * n)]
  let src (n : Nat) : Bool × Spans := (false, rowSpans (gSrc d) (gSstride d) n (gRowLen d))
  let dst (n : Nat) : Bool × Spans := (true, rowSpans (gDst d) (gDstride d) n (gRowLen d))
  let idx (n : Nat) : Bool × Spans := (false, words (gIdx d) n)
  match gOp d with
  | 0 => [idx (gNidx d), src (gNrows d), dst (gNidx d)]
  | 1 => [idx (gNidx d), src (gNidx d), dst (gNrows d)]
  | 2 => [idx (gNidx d), src (gNidx d), dst (gNrows d)]
  | 3 => [idx (gNseg d + 1), src (gNidx d), dst (gNseg d)]
  | 4 => [idx (gNidx d), src (gNidx d), if gRowLen d = 0 then (true, words (gDst d) (gNidx d)) else dst (gNidx d),
          (true, words (gAux d) (gNidx d))]
  | 5 => [idx (gNidx d), (true, words (gSrc d) (gNidx d)), (true, words (gDst d) (gNseg d * gCap d + gNrows d)),
          (true, words (gAux d) (gNseg d + 1))]
  | 6 => [idx (gNseg d + 1), src (gNseg d * gNrows d), dst (gNidx d)]
  | 7 => [idx (gNseg d + 1), src (gNidx d), dst (gNseg d * gNrows d)]
  | _ => [(false, rowSpans (gIdx d) (gSstride d) (gNseg d) (ceilDiv (gNidx d) 8)),
          (true, rowSpans (gDst d) (gDstride d) (gNseg d) (4 * gNrows d)), (true, words (gAux d) (gNseg d))]

/-- Where an operation reaches, its descriptor at `va` included (R133). -/
def gmeReach (pages : List Page) (d va : Nat) : Reach :=
  let part (w : Bool) : Spans := ((gmeOperands d).filter (fun o => o.1 == w)).flatMap (fun o => o.2)
  ⟨toTargets pages ((va, va + 64) :: part false), toTargets pages (part true)⟩

/-- Whether a write of an operation meets another of its own extents: a range that two operands share. The DST of
SCATTER_ADD is one operand, both read and written (R133). -/
def gmeSelf (pages : List Page) (d va : Nat) : Bool :=
  let ops := ((false, [(va, va + 64)]) :: gmeOperands d).map (fun o => (o.1, toTargets pages o.2))
  ops.zipIdx.any (fun a => a.1.1 && ops.zipIdx.any (fun b => a.2 != b.2 && spansMeet a.1.2 b.1.2))

/-! ### What extents must keep to -/

/-- Whether a write of one operation meets what another reads or writes. -/
def Reach.clash (a b : Reach) : Bool :=
  spansMeet a.writes (b.reads ++ b.writes) || spansMeet b.writes a.reads

/-- Whether one region of the right kind and permission holds a range of virtual addresses (R257): a region in the address
space, or the scratchpad region of the core to whose endpoint 1 the addresses lead. -/
def heldBy (im : List Byte) (m : Nat) (kinds : List Nat) (perms : Nat) (x : Nat × Nat) : Bool :=
  let rs := (regionsOn im m).map (fun r => r.2)
  decide (x.2 ≤ x.1) ||
    rs.any (fun e => kinds.contains (rgKind e) && rgPerm e &&& perms == perms && decide (rgBase e ≤ x.1) &&
      decide (x.2 ≤ rgBase e + rgSize e)) ||
    (let ts := toTargets (pagesOf im m) [x]
     !ts.isEmpty && rs.any (fun e => rgLocal e && rgPerm e &&& perms == perms && ts.all (fun t =>
      let w := spTarget m (dieOf (rgUnit e)) (coreOf (rgUnit e)) (rgBase e, rgBase e + rgSize e)
      decide (w.1 ≤ t.1) && decide (t.2 ≤ w.2))))

/-- Whether a scratchpad region of a core holds a range of its offsets (R257). -/
def heldLocal (im : List Byte) (m die core perms : Nat) (x : Nat × Nat) : Bool :=
  decide (x.2 ≤ x.1) || (regionsOn im m).any (fun r => rgLocal r.2 && dieOf (rgUnit r.2) == die && coreOf (rgUnit r.2) == core &&
    rgPerm r.2 &&& perms == perms && decide (rgBase r.2 ≤ x.1) && decide (x.2 ≤ rgBase r.2 + rgSize r.2))

/-- Whether a transfer's extents lie in declared regions that the tables cover with the permissions it needs (R195, R257).
A frame's remote end lies in the core's activation stack. -/
def xferHeld (im : List Byte) (m : Nat) (c : CoreView) (frame : Bool) (d : Nat) : Bool :=
  let x := xferExt im m d
  let need := if dStore d then 2 else if dMcast d then 5 else 1
  let far := hull (x.inner ++ x.pads)
  (frame || (heldBy im m (if dPack d || dExpand d then [5] else [0, 5, 6]) need far &&
    covered (pagesOf im m) far.1 (far.2 - far.1) need)) &&
    (localCores im m c d).all (fun p => heldLocal im m p.1 p.2 (if dStore d then 1 else 2) x.loc)

/-- The same of a gather-merge operation, whose descriptor needs read permission. -/
def gmeHeld (im : List Byte) (m d va : Nat) : Bool :=
  ((false, [(va, va + 64)]) :: gmeOperands d).all (fun o =>
    let need := if o.1 then 2 else 1
    let x := hull o.2
    heldBy im m [0, 5, 6] need x && covered (pagesOf im m) x.1 (x.2 - x.1) need)

/-- The application regions of a module's scratchpads (R152). -/
def appSpans (im : List Byte) (m : Nat) : Spans :=
  ((regionsOn im m).filter (fun r => rgKind r.2 == 2)).map (fun r =>
    spTarget m (dieOf (rgUnit r.2)) (coreOf (rgUnit r.2)) (rgBase r.2, rgBase r.2 + rgSize r.2))

/-- The format windows of a job that has a layer table (11_backward_pass R288). -/
def windowSpans (im : List Byte) (m : Nat) : Spans :=
  if imNlayer im = 0 then [] else allCores.map (fun p => spTarget m p.1 p.2 (0x5FE000, 0x600000))

/-- The blocks of update records that ranges of virtual addresses touch, by their places in `blocksOf`. -/
def touches (recs : List (List Byte)) (l : Spans) : List Nat :=
  ((blocksOf recs).zipIdx.filter (fun b => spansMeet [(b.1.1, b.1.1 + b.1.2)] l)).map (fun b => b.2)

/-- A descriptor of ring `r` of a core that R291 and R292 reject: one that touches a block without being paired, and one of
a paired ring r + 4 that differs from its fellow `twin` of ring r in more than BASE or reads another place than the BUF1
counterpart. -/
def blockBad (im : List Byte) (m mask r : Nat) (twin : Option Nat) (d : Nat) : Bool :=
  let recs := updateRecs im m
  let hit := touches recs (xferExt im m d).inner
  if decide (4 ≤ r) && bitAt mask (r - 4) then
    match twin with
    | none => true
    | some t =>
      let was := touches recs (xferExt im m t).inner
      d / 2 ^ 64 != t / 2 ^ 64 || hit != was.map (fun k => k + 1) || was.any (fun k => k % 2 == 1) ||
        was.any (fun k => dBase d + ((blocksOf recs).getD k (0, 0)).1 !=
          dBase t + ((blocksOf recs).getD (k + 1) (0, 0)).1)
  else !hit.isEmpty && !(decide (r < 4) && bitAt mask r)

end Sys2Proof.Machine
end

