-- ==== Sys2Proof/Machine/Check.lean ====
section
/-!
DEFINITION. The loader's checks of a core's program: what single bundles show, and a walk of every path on what the image
fixes (03_cube_array R65, R68, R73, R84, R88; 04_weight_sparsity R101; 05_gather_merge R114, R115, R133; 06_scratchpad R139,
R143, R152; 07_streams_layout R162, R172; 09_core_sequencer R210 to R236; 10_tiling_job_images R246, R247, R261;
11_backward_pass R276, R278, R288; 13_gradient_reduction R315, R317; assumption 46).
-/
namespace Sys2Proof.Machine

/-- A failed check: its row of Table 10-9 and the object. -/
abbrev Finding := Nat × Nat

/-- Findings of one row for one object. -/
def findIf (b : Bool) (row obj : Nat) : List Finding := if b then [(row, obj)] else []

/-! ### Single bundles (R225) -/

/-- A reserved field of a bundle's slots that is not zero (Tables 9-1 to 9-5, R220, R223). -/
def slotRsvd (b : Nat) : Bool :=
  bitsOf b 511 496 != 0 || bitsOf (bMv b) 31 19 != 0 || bitsOf (bVu b) 55 52 != 0 || bitsOf (bDrain b) 47 38 != 0 ||
    (List.range 4).any (fun k =>
      bitsOf (bCube b k) 23 18 != 0 || (bitsOf (bRd b k) 1 0 == 1 && bitsOf (bRd b k) 31 28 != 0) ||
        (bitsOf (bRd b k) 1 0 == 2 && bitAt (bRd b k) 26))

/-- A bundle with a format code or a pairing that its unit does not take (R38, R41, R55): those of SETMODE, of the
matrix-vector slot, and of the vector unit's conversions. -/
def bundleFmtBad (b : Nat) : Bool :=
  let v := vuSlot (bVu b)
  (bitsOf (bCtl b) 5 0 == 4 && (match fmtOfCode (bitsOf (bCtl b) 12 8), fmtOfCode (bitsOf (bCtl b) 17 13) with
    | some f, some g => (pairKind f g).isNone
    | _, _ => true)) ||
    (bitAt (bMv b) 0 && (mvFmt (bitsOf (bMv b) 18 14)).isNone) ||
    ((v.op == 0x30 || v.op == 0x31 || v.op == 0x0B) && (vuFmt (convCode v.fc)).isNone)

/-- A bundle that R139, R177, R223, R225 or R271 rejects by itself; `rings` are the core's rings, `stack` says that it has an
activation stack. -/
def bundleBad (epi rings : List Nat) (stack : Bool) (b : Nat) : Bool :=
  let op := bitsOf (bCtl b) 5 0
  let xop := bitsOf (bXfer b) 2 0
  let v := vuSlot (bVu b)
  let d := drainSlot (bDrain b)
  let r := epi.getD d.epi 0
  let far (off xr len : Nat) : Bool := xr == 0 && decide (spBytes < 64 * off + len)
  !([0, 1, 2, 3, 4, 5, 8, 9, 0x0A, 0x0B, 0x0C, 0x0E, 0x0F].contains op) || (op == 9 && bitsOf (bCtl b) 17 16 == 3) ||
    ((op == 1 || op == 2) && (bitsOf (bCtl b) 19 16 == 6 || decide (8 ≤ bitsOf (bCtl b) 19 16))) || decide (5 < xop) ||
    !v.legal || slotRsvd b || (op == 0x0C && (v.op == 0x30 || v.op == 0x31)) ||
    (List.range 4).any (fun k =>
      let q := cubeSlot (bCube b k)
      let rd := bRd b k
      (bitAt (bCube b k) 0 && (decide (2 < q.asrc) || decide (2 < q.bsrc) || (decide (0 < q.asrc) && decide (0 < q.bsrc)))) ||
        (bitsOf rd 1 0 != 0 && far (bitsOf rd 18 2) (bitsOf rd 20 19) (if bitAt rd 21 then 128 else 512))) ||
    ((v.op == 0x30 || v.op == 0x31) && far v.off v.xr v.len) ||
    (d.en && (far d.out d.xr (drainOutLen r) || (convSr (epiConv r) && d.org == 0))) ||
    (xop == 1 && !rings.contains (bitsOf (bXfer b) 5 3)) ||
    (xop == 3 && (!rings.contains (bitsOf (bXfer b) 6 4) || !stack))

/-! ### What a path has under way -/

/-- What a path has in flight against a tag: the object, whether it is a transfer (0), an operation of an engine (1, 2), an
instruction load (3) or a barrier (4), where it reaches, the part of the core's own scratchpad that it writes, and of an
instruction load the bundles it replaces. -/
structure Flight where
  tag : Nat
  obj : Nat
  kind : Nat
  reach : Reach
  own : Spans
  lo : Nat := 0
  code : List Nat := []
  deriving DecidableEq, Repr

/-- The row of an overlap that an operation's write causes. -/
def Flight.row (f : Flight) : Nat := if f.kind = 0 then 14 else 13

/-- The overlaps of two operations in flight together (R133, R172). -/
def Flight.against (f g : Flight) : List Finding :=
  findIf (spansMeet f.reach.writes (g.reach.reads ++ g.reach.writes)) f.row f.obj ++
    findIf (spansMeet g.reach.writes (f.reach.reads ++ f.reach.writes)) g.row g.obj

/-- What the walk of a core's program knows: the image's facts, worked out once. -/
structure DryEnv where
  code : List Nat
  codeSec : Nat
  epi : List Nat
  ops : List (Nat × List Byte)
  rings : List (Nat × List (Flight × Nat))
  gmes : List (Nat × Flight)
  ready : List (Nat × Flight)
  stack : Option (Nat × Nat)
  frame : List Nat → Nat
  app : Spans
  window : Bool
  bundles : Nat → Nat → List Nat

/-- A path under way: the next bundle and its cycle, the first cycle not yet passed, the cycle of the bundle before, the core
with zeros for data and 2 to the 64 for a scalar that the image does not fix, accesses that fall in later cycles with the
bundle they come from, the cycle by which every unit's latency has run out, the vector unit's next free cycle, the
matrix-vector unit's group under way (issues made, next cycle), what is in flight, the frames on the stack, the last tags of
stack issues not yet waited for, ring positions, instruction memory loaded since, and the ENDs passed. -/
structure Dry where
  pc : Nat := 0
  t : Nat := 0
  cyc : Nat := 0
  prev : Nat := 0
  core : CoreSt := {}
  later : List (Nat × Nat × SAcc) := []
  due : Nat := 0
  vu : Nat := 0
  mvRun : Nat × Nat := (0, 0)
  fly : List Flight := []
  frames : List Nat := []
  stk : List Nat := []
  pos : SMap Nat := []
  patch : List (Nat × List Nat) := []
  ends : List Nat := []
  last : Nat := 0
  deriving DecidableEq, Repr

/-- The value that stands for one that the image does not fix. -/
def anyVal : Nat := 2 ^ 64

/-- An offset that stands for one that the image does not fix. -/
def anyOff : Nat := 2 ^ 40

/-- The offset of a slot where the image fixes it. -/
def fixedOff (off xr : Nat) : Nat := if xr = 0 then 64 * off else anyOff

/-- A scalar result put in a path's registers. -/
def Dry.put (d : Dry) (v r x : Nat) : Dry :=
  if r = 0 then d else { d with core := { d.core with spend := d.core.spend ++ [(v, r, x)] } }

/-- The bundle at a place of a path's instruction memory. -/
def Dry.bundle (d : Dry) (e : DryEnv) : Option Nat :=
  match d.patch.find? (fun p => decide (p.1 ≤ d.pc) && decide (d.pc < p.1 + p.2.length)) with
  | some p => p.2[d.pc - p.1]?
  | none => e.code[d.pc]?

/-! ### Scheduled accesses (R84, R143) -/

/-- What the accesses of one cycle show, each with its bundle, in order of issue. -/
def Dry.meets (d : Dry) (e : DryEnv) (l : List (Nat × SAcc)) : List Finding :=
  let fixed := l.filter (fun a => decide (a.2.off < anyOff))
  let bad := conflictBanks (fixed.map (fun a => a.2))
  let span (a : Nat × SAcc) : Spans := [(a.2.off, a.2.off + a.2.len)]
  (match (fixed.filter (fun a => !a.2.clear bad)).getLast? with
   | some a => [(12, a.1)]
   | none => []) ++
  (match (l.filter (fun a => decide (5 ≤ a.2.port))).drop 2 with
   | [] => []
   | a :: _ => [(12, a.1)]) ++
  fixed.flatMap (fun a =>
    (d.fly.filter (fun f => spansMeet f.own (span a))).map (fun f => (f.row, f.obj)) ++
      findIf (spansMeet e.app (span a)) 16 a.1 ++
      findIf (e.window && !a.2.read && spansMeet [(0x5FE000, 0x600000)] (span a)) 7 a.1)

/-- Bands whose group may be written by cycle `x` put in the queue of writes (R88). -/
def DrainSt.queueGroups (dr : DrainSt) (x : Nat) : DrainSt :=
  [0, 1, 2, 3].foldl (fun dr k =>
    match mget dr.bands k none with
    | some b =>
      match b.ready with
      | some r =>
        if decide (r ≤ x) && !(dr.writes.any (fun w => w.sbuf == k)) then
          let f := epiOutF (mget dr.epi b.epi 0)
          { dr with writes := dr.writes ++ [⟨k, r, groupParts b.out (List.replicate (16 * f.stripBytes) 0)⟩] }
        else dr
      | none => dr
    | none => dr) dr

/-- One cycle of a path with the accesses that its bundle makes in it. -/
def Dry.cycle (d : Dry) (e : DryEnv) (x : Nat) (now : List (Nat × SAcc)) : Dry × List Finding :=
  let old := (d.later.filter (fun a => a.1 == x)).map (fun a => a.2)
  let busy := ((old ++ now).filter (fun a => decide (5 ≤ a.2.port))).length
  let (dr, parts) := DrainSt.takeParts (2 - busy) (d.core.drain.queueGroups x)
  let group : List (Nat × SAcc) := parts.map (fun p => (d.last, ⟨5, p.1, p.2.length, false, []⟩))
  ({ d with
     core := { d.core with drain := dr }, later := d.later.filter (fun a => decide (x < a.1)), cyc := x + 1,
     due := if parts.isEmpty then d.due else Nat.max d.due (x + 1) }, d.meets e (group ++ old ++ now))

/-- The cycles before a path's next bundle, of which at most 64 hold accesses of what is in flight. -/
def Dry.bubbles (d : Dry) (e : DryEnv) : Dry × List Finding :=
  (List.range (Nat.min 64 (d.t - d.cyc))).foldl (fun (p : Dry × List Finding) _ =>
    let (d1, l) := p.1.cycle e p.1.cyc []
    (d1, p.2 ++ l)) (d, [])

/-! ### One bundle of a path -/

/-- The read slots' accesses of a bundle. -/
def dryReads (b : Nat) : List SAcc :=
  (List.range 4).filterMap (fun n =>
    let v := bRd b n
    if bitsOf v 1 0 = 0 then none
    else some ⟨n, fixedOff (bitsOf v 18 2) (bitsOf v 20 19), if bitAt v 21 then 128 else 512, true, []⟩)

/-- The vector unit's and SLD's access of a bundle; the image fixes SLD's address only beside S0. -/
def dryVu (b : Nat) : List SAcc :=
  let v := vuSlot (bVu b)
  (if v.op = 0x30 || v.op = 0x31 then [⟨4, fixedOff v.off v.xr, v.len, v.op == 0x30, []⟩] else []) ++
  (if bitsOf (bCtl b) 5 0 = 0x0C then
     [⟨4, if bitsOf (bCtl b) 15 11 = 0 then bitsOf (bImm b) 22 0 else anyOff, 8, true, []⟩]
   else [])

/-- The read slots delivered to the units, with what they show: a broken sequence of a streamed group (R219), an unscaled
slice off a 256-byte boundary (R65), an unscaled pair loaded at position 31 (R225). -/
def Dry.deliver (d : Dry) (b obj : Nat) : Dry × List Finding :=
  (List.range 4).foldl (fun (p : Dry × List Finding) n =>
    let v := bRd b n
    let c := p.1.core
    let short := bitAt v 21
    let gs := bitAt v 22
    let bs : List Byte := List.replicate (if short then 128 else 512) 0
    let off := bitsOf v 20 19 == 0 && bitsOf v 18 2 % 4 != 0
    match bitsOf v 1 0 with
    | 1 =>
      (setBits 4 (bitsOf v 26 23)).foldl (fun (p : Dry × List Finding) k =>
        let c := p.1.core
        let q := mget c.cubes k {}
        let isB := bitAt v 27
        let m := q.mode d.t
        let mx := match fmtOfCode (if isB then m.2.1 else m.1) with
          | some f => f.isMX && !(isB && m.2.2)
          | none => false
        let q1 := q.stream d.t isB bs gs short
        let broken := (q1.opA.bad && !q.opA.bad) || (q1.opB.bad && !q.opB.bad)
        ({ p.1 with core := { c with cubes := mset {} c.cubes k q1 } },
          p.2 ++ findIf broken 7 obj ++ findIf (off && !mx) 4 obj)) p
    | 2 =>
      let k := bitsOf v 24 23
      let set := bitsOf v 25 25
      let pos := bitsOf v 31 27
      let q := mget c.cubes k {}
      let pair := !gs && !short && !(q.statAsm.any (fun g => g.pos == 32 * set + pos))
      ({ p.1 with core := { c with cubes := mset {} c.cubes k { q.statLoad d.t set pos bs gs short with sload := [] } } },
        p.2 ++ findIf (pair && pos == 31) 7 obj ++ findIf (pair && off) 4 obj)
    | 3 =>
      let slices := !bitAt v 23 && bitAt (bMv b) 0 && (match mvFmt (bitsOf (bMv b) 18 14) with
        | some f => !f.isMX
        | none => false)
      (p.1, p.2 ++ findIf (slices && off) 4 obj)
    | _ => p) (d, [])

/-- The operations of a path's bundle that reserve accumulators in some cube or band (R246, R247). -/
def DryEnv.reserves (e : DryEnv) (pc kind cube : Nat) : List (Nat × Nat) :=
  (e.ops.filter (fun o => opHolds o.2 pc && (if kind = 2 then leAt o.2 0 1 == 2 else decide (leAt o.2 0 1 < 2)))).map (fun o =>
    (o.1, leAt o.2 (0x30 + 2 * cube) 2))

/-- A use of a tile or band outside the reservation of every operation that holds the bundle. -/
def DryEnv.unreserved (e : DryEnv) (pc kind cube tile : Nat) : List Finding :=
  match e.reserves pc kind cube with
  | [] => []
  | o :: r => findIf ((o :: r).all (fun x => !bitAt x.2 tile)) 10 o.1

/-- The cubes' issues of a path's bundle; `old` are the cubes before the bundle's reads (R68, R73, R101, R219, R225). -/
def Dry.cubes (d : Dry) (e : DryEnv) (old : SMap CubeSt) (b obj : Nat) : Dry × List Finding :=
  (List.range 4).foldl (fun (p : Dry × List Finding) k =>
    let v := bCube b k
    if !bitAt v 0 then p
    else
      let sl := cubeSlot v
      let q := mget p.1.core.cubes k {}
      let m := q.mode d.t
      match fmtOfCode m.1, fmtOfCode m.2.1 with
      | some fa, some fb =>
        match pairKind fa fb with
        | none => (p.1, p.2 ++ [(0, obj)])
        | some kind =>
          let sp := m.2.2
          let turned := (sl.ta && fa.isMX) || (sl.tb && fb.isMX && !sp)
          let mode := sp && (sl.asrc == 0 || sl.bsrc != 0 || sl.tb)
          let have_ (isB : Bool) (f : Fmt) (src : Nat) (q : CubeSt) : Option CubeSt :=
            if isB && sp then some q
            else if sl.half && !f.isMX && src == 0 then
              let st := if isB then (mget old k {}).opB else (mget old k {}).opA
              (st.take f (d.prev + 1) true).map (fun _ => q)
            else (q.operand isB f src sl.spos d.t false).map (fun x => x.2)
          let got := match have_ false fa sl.asrc q with
            | some q1 => have_ true fb sl.bsrc q1
            | none => none
          let q2 := got.getD q.clearBad
          let q3 : CubeSt := { q2 with
            cls := if sl.first then mset 0 q2.cls sl.acc (if kind == .int then 2 else 1) else q2.cls }
          ({ p.1 with
             core := { p.1.core with cubes := mset {} p.1.core.cubes k q3 }, due := Nat.max p.1.due (d.t + 18) },
           p.2 ++ findIf turned 0 obj ++ findIf mode 2 obj ++ findIf (q.clsBad sl kind || got.isNone) 7 obj ++
             e.unreserved d.pc 0 k sl.acc)
      | _, _ => (p.1, p.2 ++ [(0, obj)])) (d, [])

/-- The matrix-vector issue of a path's bundle (R220, R225, R247): two whole accesses a cycle, the last of a group one short
access. -/
def Dry.mv (d : Dry) (e : DryEnv) (b obj : Nat) : Dry × List Finding :=
  let v := bMv b
  match (if bitAt v 0 then mvFmt (bitsOf v 18 14) else none) with
  | none => (d, [])
  | some f =>
    let got := ((List.range 4).filter (fun n => bitsOf (bRd b n) 1 0 == 3 && !bitAt (bRd b n) 23)).foldl (fun a n =>
      a + (if bitAt (bRd b n) 21 then 128 else 512)) 0
    let n := if f.isMX then ceilDiv (16 * f.stripBytes) 1024 else 1
    let i := if d.mvRun.2 = d.t then d.mvRun.1 else 0
    let broken := decide (0 < d.mvRun.1) && d.mvRun.2 != d.t
    let need := if f.isMX && i + 1 == n then 128 else 1024
    ({ d with due := Nat.max d.due (d.t + 9), mvRun := if i + 1 < n then (i + 1, d.t + 1) else (0, 0) },
      findIf (broken || got != need) 7 obj ++ e.unreserved d.pc 2 0 (bitsOf v 4 1))

/-- The issue interval of a vector-unit opcode (Table 3-6, R222). -/
def vuInterval (op : Nat) : Nat :=
  if [0x10, 0x11, 0x12, 0x13, 0x18, 0x19, 0x1A, 0x1B, 0x1C].contains op then 4
  else if op = 0x20 || op = 0x21 then 2
  else 1

/-- The vector unit's issue of a path's bundle (R82, R222). -/
def Dry.vector (d : Dry) (b obj : Nat) : Dry × List Finding :=
  let op := (vuSlot (bVu b)).op
  if op = 0 then (d, []) else ({ d with vu := d.t + vuInterval op }, findIf (decide (d.t < d.vu)) 7 obj)

/-- The drain start of a path's bundle (R65, R84, R88, R246, R247). -/
def Dry.drain (d : Dry) (e : DryEnv) (b obj : Nat) : Dry × List Finding :=
  let sl := drainSlot (bDrain b)
  if !sl.en then (d, [])
  else
    let dr := d.core.drain
    let r := mget dr.epi sl.epi 0
    let f := epiOutF r
    let rows := if sl.mv then 8 else 16
    let out := fixedOff sl.out sl.xr
    let zeros (n : Nat) : List Byte := List.replicate n 0
    let side : List (Nat × List Byte) :=
      if epiDeriv r then []
      else if epiSideKind r = 1 then
        let w := (epiSideF r).bytes
        tileParts (epiSide r + 256 * w * dr.k) rows (zeros (256 * w))
      else if epiSideKind r = 2 then [(epiSide r + 32 * dr.k, zeros (2 * rows))] else []
    let tile := if f.isMX then [] else tileParts out rows (zeros (256 * f.bytes))
    let third := ((drainReads r dr.k).drop 2).map (fun x => (d.t + 1, obj, (⟨5, x.2.1, x.2.2, true, []⟩ : SAcc)))
    let wr := (drainAccesses 0 side ++ drainAccesses 0 tile).map (fun a => (d.t + 11, obj, a))
    let band := mget dr.bands sl.sbuf none
    let mixed := f.isMX && (match band with
      | some x => x.epi != sl.epi || x.ready.isSome
      | none => false)
    let d1 : DrainSt := { dr with k := if sl.close then 0 else dr.k + 1 }
    let d2 := if f.isMX then d1.enterBand d.t sl out else d1
    let d3 := if sl.close then d2.closeBands d.t else d2
    ({ d with
       core := { d.core with drain := d3 }, later := d.later ++ third ++ wr, due := Nat.max d.due (d.t + 12), last := obj },
     findIf mixed 7 obj ++ findIf (!f.isMX && sl.xr == 0 && sl.out % 4 != 0) 4 obj ++
       e.unreserved d.pc (if sl.mv then 2 else 0) (if sl.mv then 0 else sl.cube) sl.tile)

/-- An operation set in flight: its tag must be free (R115, R162), and it must meet nothing in flight with it. -/
def Dry.launch (d : Dry) (f : Flight) (obj : Nat) : Dry × List Finding :=
  ({ d with
     core := { d.core with tags := mset .free d.core.tags f.tag .out }, fly := d.fly ++ [f] },
   findIf (mget d.core.tags f.tag .free != .free) 8 obj ++ d.fly.flatMap (fun g => f.against g))

/-- A transfer set in flight. The first ready word of a layer also sets its reduction in flight, which lasts until the step
boundary and reads the staging extent and writes the sums (13_gradient_reduction R315); a ready word must not be issued while
a transfer into the staging extent is in flight (13_gradient_reduction R317). -/
def Dry.launchXfer (d : Dry) (e : DryEnv) (f : Flight) (obj : Nat) : Dry × List Finding :=
  let (d1, l) := d.launch f obj
  match e.ready.find? (fun r => r.1 == f.obj) with
  | none => (d1, l)
  | some r =>
    if d1.fly.any (fun g => g.tag == r.2.tag) then (d1, l)
    else
      ({ d1 with fly := d1.fly ++ [r.2] },
       l ++ findIf (d1.fly.any (fun g => spansMeet g.reach.writes r.2.reach.reads)) 8 obj ++
         d1.fly.flatMap (fun g => r.2.against g))

/-- Transfers set in flight one after another. -/
def Dry.launchAll (d : Dry) (e : DryEnv) (l : List Flight) (obj : Nat) : Dry × List Finding :=
  l.foldl (fun (p : Dry × List Finding) f =>
    let (d1, x) := p.1.launchXfer e f obj
    (d1, p.2 ++ x)) (d, [])

/-- The next `n` descriptors of a ring on a path, and the path after them. -/
def Dry.fromRing (d : Dry) (e : DryEnv) (ring n : Nat) : Dry × List (Flight × Nat) :=
  match e.rings.find? (fun r => r.1 == ring) with
  | none => (d, [])
  | some r =>
    let at_ := mget d.pos ring 0
    let size := r.2.length
    ({ d with pos := mset 0 d.pos ring (if size = 0 then 0 else (at_ + n) % size) },
     (List.range n).filterMap (fun i => if size = 0 then none else r.2[(at_ + i) % size]?))

/-- The transfer slot of a path's bundle (R114, R177, R210, R274 to R278). -/
def Dry.xfer (d : Dry) (e : DryEnv) (b obj : Nat) : Dry × List Finding :=
  let x := bXfer b
  let val (r : Nat) : Nat := d.core.sval r d.t
  match bitsOf x 2 0 with
  | 1 =>
    let (d1, l) := d.fromRing e (bitsOf x 5 3) (bitsOf x 17 6 + 1)
    d1.launchAll e (l.map (fun p => p.1)) obj
  | 2 =>
    let eng := bitsOf x 3 3
    match e.gmes.find? (fun g => g.1 == val (bitsOf x 8 4)) with
    | none => (d, [])
    | some g =>
      let (d1, l) := d.launch { g.2 with kind := 1 + eng } obj
      (d1, l ++ findIf (decide (16 < (d1.fly.filter (fun f => f.kind == 1 + eng)).length)) 8 obj)
  | 3 =>
    let (d1, ds) := d.fromRing e (bitsOf x 6 4) (bitsOf x 18 7 + 1)
    let (d2, l) := d1.launchAll e (ds.map (fun p => p.1)) obj
    let stk := d2.stk ++ ((ds.getLast?).map (fun p => p.1.tag)).toList
    let sl := val (bitsOf x 23 19)
    let nst := if sl < anyVal then bitsOf sl 23 16 else 0
    let size := 64 + roundUp (16 * nst) 64 + e.frame (ds.map (fun p => p.2))
    let frames := if bitAt x 3 then d2.frames.drop 1 else size :: d2.frames
    ({ d2 with stk := stk, frames := frames },
     l ++ findIf (decide (8 < stk.length)) 8 obj ++
       findIf (bitAt x 3 && d2.frames.isEmpty) 18 obj ++
       (match e.stack with
        | some (o, n) => findIf (decide (n < frames.foldl (· + ·) 0)) 17 o
        | none => []))
  | 4 =>
    let n := bitsOf x 23 13 + 1
    let sa := val (bitsOf x 7 3)
    let sb := val (bitsOf x 12 8)
    let known := decide (sb < anyVal)
    let f : Flight := { tag := bitsOf x 31 24, obj := obj, kind := 3, reach := ⟨[], []⟩, own := [], lo := sb,
                        code := if decide (sa < anyVal) && known then e.bundles sa n else List.replicate n 0 }
    let (d1, l) := d.launch f obj
    (d1, l ++ findIf (known && decide (8192 < sb + n)) 9 obj)
  | _ => (d, [])

/-- What a WAIT leaves of a path: the operation of its tag is no longer in flight, and bundles that it loaded stand. -/
def Dry.waited (d : Dry) (tag : Nat) : Dry :=
  let patches := (d.fly.filter (fun f => f.tag == tag && f.kind == 3)).map (fun f => (f.lo, f.code))
  { d with
    core := { d.core with tags := mset .free d.core.tags tag .free }, fly := d.fly.filter (fun f => !(f.tag == tag)),
    stk := d.stk.filter (fun x => !(x == tag)), patch := patches ++ d.patch }

/-- Whether something is pending at END in a path's cycle: a tag, an open strip buffer, a latency, or a frame (R236,
R278). -/
def Dry.pending (d : Dry) : Bool :=
  d.core.tags.any (fun e => e.2 != .free) || d.core.drain.bands.any (fun e => e.2.isSome) || decide (d.t < d.due) ||
    !d.frames.isEmpty

/-- The control slot of a path's bundle beside the flow of control. -/
def Dry.ctl (d : Dry) (b obj : Nat) : Dry × List Finding :=
  let ctl := bCtl b
  let val (r : Nat) : Nat := d.core.sval r d.t
  match bitsOf ctl 5 0 with
  | 3 =>
    d.launch { tag := bitsOf ctl 13 6, obj := obj, kind := 4, reach := ⟨[], []⟩, own := [] } obj
  | 4 =>
    let k := bitsOf ctl 7 6
    let q := (mget d.core.cubes k {}).setMode d.t (bitsOf ctl 12 8) (bitsOf ctl 17 13) (bitAt ctl 18)
    ({ d with core := { d.core with cubes := mset {} d.core.cubes k q } }, [])
  | 0x0A => (d.put (d.t + 1) (bitsOf ctl 10 6) (bImm b), [])
  | 0x0B =>
    let x := val (bitsOf ctl 15 11)
    let y := if bitAt ctl 24 then bImm b else val (bitsOf ctl 20 16)
    (d.put (d.t + 1) (bitsOf ctl 10 6)
      (if decide (anyVal ≤ x) || decide (anyVal ≤ y) then anyVal else salu (bitsOf ctl 23 21) x y), [])
  | 0x0C => (d.put (d.t + 3) (bitsOf ctl 10 6) anyVal, [])
  | 0x0F => ({ d with ends := d.pc :: d.ends, fly := d.fly.filter (fun f => decide (f.tag < 256)) }, findIf d.pending 18 obj)
  | _ => (d, [])

/-- Where a path goes on, one path for each way that the image leaves open, and the flow's findings (R214, R215, R225). A
loop whose count is not fixed is taken with no, one and two iterations; a branch to a place that is not fixed is not
followed. -/
def Dry.flow (d : Dry) (b obj : Nat) : List Dry × List Finding :=
  let ctl := bCtl b
  let val (r : Nat) : Nat := d.core.sval r d.t
  let go (due : Nat) (p : Nat × List (Nat × Nat × Nat)) : Dry :=
    { d with pc := p.1, t := due, core := { d.core with loops := p.2 } }
  let next (due : Nat) : Dry := go due (loopNext d.pc d.core.loops)
  match bitsOf ctl 5 0 with
  | 5 => ([next (d.t + bitsOf ctl 21 6 + 1)], [])
  | 8 =>
    let n := val (bitsOf ctl 10 6)
    let e := bitsOf ctl 23 11
    let way (n : Nat) : Dry :=
      if n = 0 then go (d.t + 4) (loopNext e d.core.loops) else go (d.t + 1) (d.pc + 1, (d.pc + 1, e, n) :: d.core.loops)
    let deep := decide (4 ≤ d.core.loops.length)
    let out := match d.core.loops with
      | [] => false
      | l :: _ => decide (l.2.1 < e)
    (if deep then [] else if n < anyVal then [way n] else [way 0, way 1, way 2], findIf (deep || out) 7 obj)
  | 9 =>
    let p := val (bitsOf ctl 10 6)
    let c := val (bitsOf ctl 15 11)
    let out := match d.core.loops with
      | [] => false
      | l :: _ => decide (p < anyVal) && (decide (p < l.1) || decide (l.2.1 < p))
    let taken := if p < 8192 && !out then [go (d.t + 4) (p, d.core.loops)] else []
    let way := match bitsOf ctl 17 16 with
      | 0 => taken
      | k =>
        if anyVal ≤ c then taken ++ [next (d.t + 1)]
        else if (c == 0) == (k == 2) then taken else [next (d.t + 1)]
    (way, findIf out 7 obj)
  | 0x0E => ([], [])
  | 0x0F => (if (d.ends.drop 1).contains d.pc then [] else [next (d.t + 1)], [])
  | _ => ([next (d.t + 1)], [])

/-- One bundle of a path: the paths that follow and what it shows. -/
def Dry.step (d0 : Dry) (e : DryEnv) : List Dry × List Finding :=
  match d0.bundle e with
  | none => ([], [])
  | some b =>
    let obj := objOf e.codeSec d0.pc
    let (d, h0) := d0.bubbles e
    let tag := bitsOf (bCtl b) 13 6
    let dw := if bitsOf (bCtl b) 5 0 = 1 then d.waited tag else d
    let loaded := dw.fly.any (fun f => f.kind == 3 && decide (f.lo ≤ d.pc) && decide (d.pc < f.lo + f.code.length))
    let old := dw.core.cubes
    let ds := drainSlot (bDrain b)
    let starts := if ds.en then (drainStartReads (mget dw.core.drain.epi ds.epi 0) dw.core.drain.k).map (fun a => a.2) else []
    let now := (dryReads b ++ dryVu b ++ starts).map (fun a => (obj, a))
    let (d1, h1) := ({ dw with core := dw.core.landScalars (d.t - 2) } : Dry).deliver b obj
    let (d2, h2) := d1.cubes e old b obj
    let (d3, h3) := d2.mv e b obj
    let (d4, h4) := d3.vector b obj
    let (d5, h5) := d4.cycle e d.t now
    let (d6, h6) := d5.drain e b obj
    let (d7, h7) := d6.ctl b obj
    let (d8, h8) := d7.xfer e b obj
    let (ways, h9) := ({ d8 with prev := d.t } : Dry).flow b obj
    (ways, findIf loaded 9 obj ++ h0 ++ h1 ++ h2 ++ h3 ++ h4 ++ h5 ++ h6 ++ h7 ++ h8 ++ h9)

/-- The paths of a program walked one bundle at a time, depth first; the number bounds the bundles. -/
def explore (e : DryEnv) : Nat → List Dry → List Finding → List Finding
  | 0, _, found => found
  | _, [], found => found
  | n + 1, d :: rest, found =>
    let (ways, l) := d.step e
    explore e n (ways ++ rest) (found ++ l.filter (fun x => !found.contains x))

/-! ### A core's program in an image -/

/-- A transfer of a core as it flies. -/
def flightOf (im : List Byte) (m : Nat) (c : CoreView) (frame : Bool) (obj d : Nat) : Flight :=
  let r := xferReach im m c frame d
  let x := xferExt im m d
  let mine := (localCores im m c d).contains (c.die, c.core)
  { tag := dTag d, obj := obj, kind := 0, reach := ⟨normSpans r.reads, normSpans r.writes⟩,
    own := if dStore d || !mine then [] else [x.loc] }

/-- The rings that a core's STACK issues name, and those that its DMA issues name. -/
def ringsNamed (c : CoreView) (op : Nat) : List Nat :=
  ((c.code.filter (fun b => bitsOf (bXfer b) 2 0 == op)).map (fun b =>
    if op = 3 then bitsOf (bXfer b) 6 4 else bitsOf (bXfer b) 5 3)).eraseDups

/-- The activation stack's region of a core: of its kind, read and write, its base and size as R271 asks. -/
def stackRegion (im : List Byte) (m : Nat) (c : CoreView) : Option (Nat × List Byte) :=
  (regionById im m (0x53540000 + 16 * c.die + c.core)).filter (fun r =>
    rgKind r.2 == 3 && rgPerm r.2 % 4 == 3 && rgBase r.2 % 4096 == 0 && rgSize r.2 % 64 == 0)

/-- The part of a core's own scratchpad that target addresses name. -/
def ownPart (m : Nat) (c : CoreView) (l : Spans) : Spans :=
  let w := spTarget m c.die c.core (0, spBytes)
  l.filterMap (fun x => if x.1 < w.2 && w.1 < x.2 then some (Nat.max x.1 w.1 - w.1, Nat.min x.2 w.2 - w.1) else none)

/-- The target address of RD_READY of a module's L0 reduction unit (13_gradient_reduction R317). -/
def readyAt (m : Nat) : Nat := 2 ^ 48 * m + epAddr (rdU 0) Reg.RD_READY_LO_LAYER.off

/-- The descriptors by which a core stores ready words, each with its ring (13_gradient_reduction R317). -/
def readyStores (im : List Byte) (m : Nat) (c : CoreView) : List (Nat × Nat) :=
  c.rings.flatMap (fun r => r.descs.zipIdx.filterMap (fun d =>
    if dStore d.1 && (xferReach im m c false d.1).writes.any (fun x => x.1 == readyAt m) then some (objOf r.sec d.2, r.num)
    else none))

/-- The reduction that a layer's first ready word sets in flight; its number stands for the tag that it does not have. -/
def reduction (im : List Byte) (m obj : Nat) (x : RingExt) : Flight :=
  { tag := 256 + x.layer, obj := obj, kind := 0,
    reach := ⟨normSpans (toTargets (pagesOf im m) [x.stage]), normSpans (toTargets (pagesOf im m) [x.sums])⟩, own := [] }

/-- What the image fixes for the walk of a core's program. -/
def dryEnv (im : List Byte) (m mask : Nat) (c : CoreView) : DryEnv :=
  let pages := pagesOf im m
  let frames := ringsNamed c 3
  { code := c.code, codeSec := c.codeSec, epi := c.epi, ops := c.ops,
    rings := c.rings.map (fun r => (r.num, r.descs.zipIdx.map (fun d =>
      (flightOf im m c (frames.contains r.num) (objOf r.sec d.2) d.1, d.1)))),
    gmes := (gmeDescs im m).map (fun g =>
      let d := leNat g.2.2
      let r := gmeReach pages d g.2.1
      (g.2.1, { tag := gTag d, obj := g.1, kind := 1, reach := ⟨normSpans r.reads, normSpans r.writes⟩,
                own := ownPart m c r.writes })),
    ready := (readyStores im m c).flatMap (fun x =>
      ((ringExts im m).filter (fun r => (ringLayers c mask x.2).contains r.layer)).map (fun r =>
        (x.1, reduction im m x.1 r))),
    stack := (stackRegion im m c).map (fun r => (r.1, rgSize r.2)),
    frame := fun descs => roundUp (frameEnd im m descs) 64,
    app := ownPart m c (appSpans im m), window := imNlayer im != 0,
    bundles := fun va n => (List.range n).map (fun i => leNat (imageBytes im m (va + 64 * i) 64)) }

/-- What the walk of a core's program finds, from bundle 0 with nothing in flight. -/
def walkCore (im : List Byte) (m mask : Nat) (c : CoreView) : List Finding :=
  let epi := c.epi.zipIdx.foldl (fun e r => mset 0 e r.2 r.1) []
  explore (dryEnv im m mask c) (2 ^ 20) [{ core := { drain := { epi := epi } } }] []

end Sys2Proof.Machine
end

