-- ==== Sys2Proof/Machine/Rows.lean ====
section
/-!
DEFINITION. The loader's checks of an image in their order: header, section table, the sections' objects, and the rows of
Table 10-9 (01_module_dies_clocks R19, R20; 10_tiling_job_images R241 to R247, R253 to R263, R523; 11_backward_pass R269, R277,
R283, R288; 12_update_and_fixer R289, R291, R292; 13_gradient_reduction R314, R315; 14_video_ingest_developer R341;
15_application_cores R363, R364, R368; 17_multi_module_jobs R406, R407, R409, R415).
-/
namespace Sys2Proof.Machine

/-- What the checks take from the module beside the image: each compute die's UE_PAIRRING, and whether it is a bridge. -/
structure LoadFacts where
  pair : List Nat
  bridge : Bool
  deriving DecidableEq, Repr

/-- The rings that a core's die pairs. -/
def LoadFacts.mask (F : LoadFacts) (c : CoreView) : Nat := F.pair.getD c.die 0

/-- The lowest of some numbers. -/
def lowest (l : List Nat) : Option Nat :=
  l.foldl (fun r x => match r with
    | some y => some (Nat.min x y)
    | none => some x) none

/-! ### Objects of sections (step 3 of R261) -/

/-- The layers in use by the image's LAYER section for a module. -/
def layersUsed (im : List Byte) (m : Nat) : List Nat :=
  match theSec im tLAYER m 0xFFFF with
  | none => []
  | some x => (List.range x.count).filter (fun i => (x.obj im 64 i).getD 0 0 % 2 == 1)

/-- The first object of a section that fails. -/
def objectsFail (x : Sec) (n : Nat) (bad : Nat → Bool) : Option Reject :=
  ((List.range n).find? bad).map (fun i => (eCOUNT, objOf x.idx i))

/-- An update record that R291 refuses by itself: `twice` says that a block of it overlaps another. -/
def updateBad (im : List Byte) (m nset : Nat) (used : List Nat) (e : List Byte) : Bool :=
  let r := leNat e
  let mx := match fmtOfCode (convCode (urCvt r)) with
    | some f => f.isMX
    | none => false
  urOpt r == 3 || (fmtOfCode (convCode (urCvt r))).isNone || ovfBad (urCvt r) || bitsOf r 7 5 != 0 || bitsOf r 383 380 != 0 ||
    bitsOf r 415 400 != 0 || bitsOf r 511 496 != 0 ||
    urNelem r == 0 || decide (2 ^ 26 < urNelem r) || decide (nset ≤ urHset r) || !used.contains (urLayer r) ||
    (mx && (urNelem r % 256 != 0 || urIbase r % 256 != 0)) ||
    [0, 1].any (fun b => !inRegion im m (urBuf r b) (urBlock r (urBuf r b)) 3)

/-- The update list of a region that R289 and R291 refuse: its header, its records, and blocks that meet another of any
list. -/
def listBad (im : List Byte) (m die : Nat) : Bool :=
  match updateList im m die with
  | none => false
  | some (_, h, recs) =>
    let all := blocksOf (updateRecs im m)
    imNlayer im == 0 || leAt h 8 4 == 0 || leAt h 0x0C 4 != 0 || (slice h 0x18 40).any (fun b => b != 0) ||
      recs.any (updateBad im m (leAt h 4 4) (layersUsed im m)) ||
      (blocksOf recs).any (fun x => decide (1 < (all.filter (fun y => decide (x.1 < y.1 + y.2) && decide (y.1 < x.1 + x.2))).length))

/-- The region id of an application core's program (15_application_cores R364). -/
def progId (i : Nat) : Nat := 0x41500000 + (if i < 96 then 16 * (i / 4) + i % 4 else 16 * 38 + (i - 96))

/-- The header of an application core's program. -/
def progHead (im : List Byte) (m i : Nat) : Option (List Byte) :=
  (regionById im m (progId i)).map (fun _ => regionBytes im m (progId i) 0 64)

/-- The doorbell bits and the stream slots that a program's header names. -/
def progSel (h : List Byte) : Nat := leAt h 0x18 4
def progSlots (h : List Byte) : Nat := leAt h 0x1C 2

/-- The bits that an application core may select: those of channels that no other receiver holds (R368). -/
def selectable (bridge : Bool) : Nat := 2 ^ 32 - 2 ^ (if bridge then 16 else 8)

/-- The stream record of a slot in a module's INGEST section. -/
def streamAt (im : List Byte) (m k : Nat) : Option Nat :=
  match theSec im tINGEST m 0xFFFF with
  | none => none
  | some x => ((streamRecs (x.bytes im)).find? (fun r => leAt r 0 1 % 16 == k)).map leNat

/-- A program that R364 and R368 refuse: its region's kind and permissions, its header, and bits or slots that a core before
it names too. -/
def progBad (im : List Byte) (m : Nat) (F : LoadFacts) (i : Nat) : Bool :=
  match regionById im m (progId i), progHead im m i with
  | some (_, e), some h =>
    let maps (va perm : Nat) : Bool := match pageAt (pagesOf im m) va with
      | some p => p.2.2.2 &&& perm != 0
      | none => false
    let others := (List.range i).filterMap (progHead im m)
    rgKind e != 0 || rgPerm e &&& 9 != 9 || (slice h 0x1E 34).any (fun b => b != 0) || !maps (leAt h 0 8) 8 ||
      !maps (leAt h 8 8) 2 || (i < 96 && progSlots h != 0) || progSel h &&& selectable F.bridge != progSel h ||
      others.any (fun g => progSel g &&& progSel h != 0 || progSlots g &&& progSlots h != 0) ||
      (setBits 16 (progSlots h)).any (fun k => match streamAt im m k with
        | some r => srCont r == 0
        | none => true)
  | _, _ => false

/-- A region record that fails with what it names: an application region of odd bounds (15_application_cores R363), an update
list, a program. -/
def regionBad (im : List Byte) (m : Nat) (F : LoadFacts) (e : List Byte) : Bool :=
  regionFails e || (rgKind e == 2 && (rgBase e % 64 != 0 || rgSize e % 64 != 0)) ||
    ((rgMod e == m || rgMod e == 0xFFFF) &&
      ((List.range 24).any (fun die => rgId e == 0x55500000 + die && listBad im m die) ||
        (List.range 104).any (fun i => rgId e == progId i && progBad im m F i)))

/-- Whether ranges, cut to `lo` up to `hi`, cover it with each number once. -/
def coversOnce (lo hi : Nat) (l : Spans) : Bool :=
  let s := (l.map (fun x => (Nat.max lo x.1, Nat.min hi x.2))).filter (fun x => decide (x.1 < x.2))
  normSpans s == (if lo < hi then [(lo, hi)] else []) && !aliasing s

/-- The cores of a module whose program can store a ready word for a layer: those with such a store in a ring of that LAYER
(13_gradient_reduction R315, R317; DEDUCED, assumption 202). -/
def readyCores (im : List Byte) (m : Nat) (F : LoadFacts) (layer : Nat) : Nat :=
  ((coreViews im m).filter (fun c =>
    (readyStores im m c).any (fun x => (ringLayers c (F.mask c) x.2).contains layer))).length

/-- A ring table's entry that R315 refuses for a module: NSRC, the cover of its chunk by update records, and its extents. -/
def ringEntBad (im : List Byte) (m : Nat) (F : LoadFacts) (bs e : List Byte) : Bool :=
  match ringExt m (ringTab bs).1 e with
  | none => false
  | some x =>
    let recs := ((updateRecs im m).map leNat).filter (fun r => urLayer r == x.layer &&
      urGrad r + 6 * x.chunk.1 == x.sums.1 + 6 * urIbase r)
    leAt e 0x0A 2 != readyCores im m F x.layer ||
      !coversOnce x.chunk.1 x.chunk.2 (recs.map (fun r => (urIbase r, urIbase r + urNelem r))) ||
      [x.stage, x.sums].any (fun s => !inRegion im m s.1 (s.2 - s.1) 3)

/-- The STAGE section of an image for a module. -/
def stageSec (im : List Byte) (m : Nat) : List Byte :=
  match theSec im tSTAGE m 0xFFFF with
  | some x => x.bytes im
  | none => []

/-- The stage of a module. -/
def stageOf (bs : List Byte) (m : Nat) : Option Nat := ((stageMap bs).findIdx? (fun x => x == m)).map (fun i => i / leAt bs 2 2)

/-- The modules of a stage. -/
def stageMods (bs : List Byte) (k : Nat) : List Nat := (stageMap bs).filter (fun m => stageOf bs m == some k)

/-- A ring list that names modules of two stages (17_multi_module_jobs R407). -/
def listsSplit (im : List Byte) (m : Nat) (bs : List Byte) : Bool :=
  (ringTab bs).1.any (fun l => decide (1 < ((l.2.map (stageOf (stageSec im m))).eraseDups).length))

/-- The number of layers that a module's operation records name, and the sizes of its cores' activation stacks. -/
def stageShape (im : List Byte) (m : Nat) : Nat × List Nat :=
  let layers := (allCores.flatMap (fun p => (opsOf im m p).map (fun o => leAt o.2 4 2))).eraseDups
  (layers.length, allCores.map (fun p => match regionById im m (0x53540000 + 16 * p.1 + p.2) with
    | some r => if rgKind r.2 = 3 then rgSize r.2 else 0
    | none => 0))

/-- Whether the stages differ in layers or stacks (17_multi_module_jobs R415; DEDUCED, assumption 202). -/
def stagesDiffer (im : List Byte) (bs : List Byte) : Bool :=
  decide (1 < (((stageMap bs).map (stageShape im)).eraseDups).length)

/-- A queue record whose POSTER takes no part on a module of its stage, or whose ring is no DRAM buffer region with R and W
that holds its entries there (R407, R523). -/
def stageRecBad (im : List Byte) (bs : List Byte) (i : Nat) : Bool :=
  let e := (stageRecs bs).getD i []
  let u := leAt e 0x0A 2 * 64
  (stageMods bs (leAt e 0 2)).any (fun m =>
    !hasCodeIn im m (dieOf u, coreOf u) ||
      (bitAt (leAt e 2 1) 1 && (match regionById im m (leAt e 0x0C 4) with
        | some r => rgKind r.2 != 0 || rgPerm r.2 % 4 != 3 || decide (rgSize r.2 < leAt e 8 2 * leAt e 4 4)
        | none => true)))

/-- A DATA object that names no region, or bytes beyond it. -/
def dataBad (im : List Byte) (m : Nat) (i : Config.LoadItem) : Bool :=
  match i with
  | .data id off bs => match regionById im m id with
    | some r => decide (rgSize r.2 < off + bs.length)
    | none => true
  | _ => false

/-- A section's checks: its CRC, its place among the others, and, where no more specific section replaces it, its objects. -/
def sectionFails (im : List Byte) (m : Nat) (F : LoadFacts) (x : Sec) : Option Reject :=
  let bs := x.bytes im
  let nl := imNlayer im
  let used := layersUsed im m
  let taper := bitAt (leAt im 6 2) 0
  let whole (b : Bool) (r : Option Reject) : Option Reject := if b then some (eCOUNT, objWhole x.idx) else r
  let each (n : Nat) (bad : List Byte → Bool) : Option Reject := objectsFail x x.count (fun i => bad (x.obj im n i))
  if x.crc ≠ crc32 bs || ambiguous im m x then some (eCOUNT, objWhole x.idx)
  else if !(inForce im m x.type).contains x then none
  else if x.type = tLAYER then each 64 (layerFails nl)
  else if x.type = tREGION then each 32 (regionBad im m F)
  else if x.type = tOPS then each 64 (opFails nl (imNbucket im) used)
  else if x.type = tBUCKET then objectsFail x x.count (fun i => bucketFails (imNbucket im) i (x.obj im 32 i))
  else if x.type = tGROUP then whole (!groupsOk (groupsIn im m)) none
  else if x.type = tDATA then objectsFail x (itemsOf im x).length (fun i => match (itemsOf im x)[i]? with
    | some d => dataBad im m d
    | none => false)
  else if x.type = tRINGTAB then
    whole (ringListsFail (imNmod im) nl bs || listsSplit im m bs)
      (objectsFail x (leAt bs 2 2) (fun i => ringEntFails nl used bs i || ringEntBad im m F bs ((ringTab bs).2.getD i [])))
  else if x.type = tINGEST then
    whole (ingestFails bs) (objectsFail x (leAt bs 0 1) (fun i =>
      let e := (streamRecs bs).getD i []
      streamFails nl used e || (srCont (leNat e) != 0 && !(List.range 104).any (fun a => match progHead im m a with
        | some h => bitAt (progSlots h) (leAt e 0 1 % 16)
        | none => false))))
  else if x.type = tSTAGE then
    whole (stageMapFails (imNmod im) bs || (!taper && stagesDiffer im bs))
      (objectsFail x (leAt bs 4 2) (fun i => stageRecFails taper bs i || stageRecBad im bs i))
  else none

/-! ### Cross-checks of records (Table 10-9) -/

/-- The objects of a type's sections for a module that fail a check. -/
def objsOf (im : List Byte) (m type n : Nat) (bad : List Byte → Bool) : List Nat :=
  (inForce im m type).flatMap (fun x => ((List.range x.count).filter (fun i => bad (x.obj im n i))).map (objOf x.idx))

/-- The format codes of a product. -/
def opA (e : List Byte) : Option Fmt := fmtOfCode (leAt e 2 1)
def opB (e : List Byte) : Option Fmt := fmtOfCode (leAt e 3 1)

/-- Format codes and unit pairings of a product (R38, R41, R55). The A operand of a matrix-vector product is its vectors and
the B operand its weights (DEDUCED, assumption 200). -/
def pairBad (e : List Byte) : Bool :=
  let k := leAt e 0 1
  decide (k < 3) && (match opA e, opB e with
    | some a, some b =>
      if k = 2 then (a != .bf16 && a != .fp32) || (mvFmt (leAt e 3 1)).isNone else (pairKind a b).isNone
    | _, _ => true)

/-- The K positions of a slice of a product's class (Table 10-1), and the k that it allows: the class is an MX one if either
operand is. -/
def tileClass (e : List Byte) : Option (Nat × List Nat) :=
  match opA e, opB e with
  | some a, some b =>
    let mx := a.isMX || b.isMX
    let f := if a.isMX then a else b
    some (f.sliceK, if mx then (if f.bits = 8 then [16, 32] else [8, 16, 32]) else [4, 8, 16, 32])
  | _, _ => none

/-- The K positions of the largest sparse tile of a format (R94). -/
def ktMax (f : Fmt) : Nat := if f.isMX || f.bits = 8 then 256 else 128

/-- A product's tile shape and K-tile (R241, Table 10-1), and a sparse B whose tiles do not fill the K-tiles that come before
the last (R242). -/
def tileBad (e : List Byte) : Bool :=
  decide (leAt e 0 1 < 2) &&
    (!([2, 4, 8, 16].contains (leAt e 6 1)) || !([2, 4, 8, 16].contains (leAt e 7 1)) ||
      match tileClass e, opB e with
      | some (w, ks), some b =>
        let kt := w * leAt e 8 1
        !ks.contains (leAt e 8 1) || (leAt e 0 1 == 1 && decide (kt < leAt e 0x18 4) && kt % ktMax b != 0)
      | _, _ => true)

/-- The sparse tiles of a region: its headers one after another from its base while they are legal (R94, R107). -/
def regionTiles (im : List Byte) (m : Nat) (e : List Byte) : List (Nat × TileHead) :=
  (tilesAt im m (rgSize e / 256) (rgBase e)).takeWhile (fun t => decide (t.1 < rgBase e + rgSize e) &&
    (match sparseFmt t.2.fmt with
     | some f => ktLegal f t.2.kt
     | none => false))

/-- A sparse tile region with a tile whose FORM breaks R100 or whose CAP breaks R95, or too small for its tiles (R107). -/
def tilesBad (im : List Byte) (m : Nat) (e : List Byte) : Bool :=
  rgKind e == 5 && (regionTiles im m e).any (fun t => match sparseFmt t.2.fmt with
    | some f => t.2.form != tileForm f t.2.kt t.2.cap || t.2.cap == 0 || decide (tileG t.2.kt < t.2.cap) ||
        decide (rgBase e + rgSize e < t.1 + tileRoom f t.2)
    | none => false)

/-- A product with a sparse operand that its unit does not take (R101), or whose B region does not hold the tiles that it
needs: for each band of 16 columns tiles of the largest KT, the last of a band shorter (R94, R107). -/
def sparseBad (im : List Byte) (m : Nat) (e : List Byte) : Bool :=
  match regionById im m (leAt e 0x24 4) with
  | none => false
  | some (_, r) =>
    if rgKind r ≠ 5 then false
    else if leAt e 0 1 = 2 then true
    else if leAt e 0 1 ≠ 1 then false
    else match opB e with
      | none => true
      | some f =>
        let k := leAt e 0x18 4
        let bands := ceilDiv (leAt e 0x14 4) 16
        let ts := (regionTiles im m r).take (bands * ceilDiv k (ktMax f))
        let tail := if f.isMX || k % ktMax f = 0 then ktMax f else roundUp (k % ktMax f) f.sliceK
        decide (ts.length < bands * ceilDiv k (ktMax f)) ||
          ts.any (fun t => t.2.fmt != leAt e 3 1 || (t.2.kt != ktMax f && t.2.kt != tail)) ||
          (tail != ktMax f && (ts.filter (fun t => t.2.kt == tail)).length != bands)

/-- An epilogue record's COUNT checks (03_cube_array R85; 11_backward_pass R283, R285). -/
def epiBad (nlayer : Nat) (used : List Nat) (e : List Byte) : Bool :=
  let r := leNat e
  let sr := convSr (epiConv r)
  let place (b : Bool) (off : Nat) : Bool := b && decide (0x5FFFFF < off)
  decide (6 < epiFn r) || epiSideKind r == 3 || epiScaleMode r == 3 || (fmtOfCode (convCode (epiConv r))).isNone ||
    ovfBad (epiConv r) || bitsOf r 31 20 != 0 || bitsOf r 47 45 != 0 || bitsOf r 191 184 != 0 || bitsOf r 255 224 != 0 ||
    !([0, 1, 4].contains (epiSideFmt r)) || place (epiScaleMode r == 2) (epiScale r) ||
    place (epiBiasEn r) (epiBias r) || place (epiSideKind r != 0) (epiSide r) || decide (epiShift r < -64) ||
    decide (63 < epiShift r) || (epiBiasEn r && epiDeriv r) || (epiSideKind r == 2 && epiFn r != 1) ||
    (epiDeriv r && epiSideKind r == 0) ||
    (sr && (epiNcols r == 0 || epiTensor r == 0xFFFFFE || epiTensor r == 0xFFFFFF)) ||
    (!sr && (epiNcols r != 0 || epiTensor r != 0)) || (nlayer == 0 && epiShiftSrc r) ||
    (epiShiftSrc r && !([0, 1, 4, 5, 6].contains (convCode (epiConv r)))) || layerBad nlayer used (epiLayer r)

/-- What R269 compares of the products that drain through a record: BUCKET, R, N, TM, TN, NCORE and DIEMASK of each. -/
def drainedBy (c : CoreView) (i : Nat) : List (List Nat) :=
  (c.ops.filter (fun o => decide (leAt o.2 0 1 < 3) && leAt o.2 0x1C 1 % 64 == i)).map (fun o =>
    [leAt o.2 0x0A 2, leAt o.2 0x10 4, leAt o.2 0x14 4, leAt o.2 6 1, leAt o.2 7 1, leAt o.2 9 1, leAt o.2 0x0C 4])

/-- The epilogue records of a core that R269 refuses: for a record that saves a side operand and the derivative records of its
LAYER there must be one of each, alike, whose products agree. -/
def pairsBad (c : CoreView) : List Nat :=
  let recs := c.epi.zipIdx
  let fwd := recs.filter (fun r => !epiDeriv r.1 && epiSideKind r.1 != 0)
  let bwd := recs.filter (fun r => epiDeriv r.1)
  let same (r g : Nat × Nat) : Bool :=
    let a := drainedBy c r.2
    let b := drainedBy c g.2
    epiFn r.1 == epiFn g.1 && epiSideKind r.1 == epiSideKind g.1 && epiSideFmt r.1 == epiSideFmt g.1 &&
      a.all (fun x => b.contains x) && b.all (fun x => a.contains x)
  ((fwd ++ bwd).filter (fun r =>
    let at_ (l : List (Nat × Nat)) : List (Nat × Nat) := l.filter (fun g => epiLayer g.1 == epiLayer r.1)
    match at_ fwd, at_ bwd with
    | [f], [b] => !same f b
    | _, _ => true)).map (fun r => objOf c.epiSec r.2)

/-- An epilogue record's ALIGN checks. -/
def epiAlign (e : List Byte) : Bool :=
  let r := leNat e
  (epiScaleMode r == 2 && epiScale r % 64 != 0) || (epiBiasEn r && epiBias r % 64 != 0) ||
    (epiSideKind r == 1 && epiSide r % 256 != 0) || (epiSideKind r == 2 && epiSide r % 32 != 0)

/-- A gather-merge descriptor's COUNT checks (05_gather_merge R117; 11_backward_pass R283). -/
def gmeBad (nlayer : Nat) (used : List Nat) (e : List Byte) : Bool :=
  let op := leAt e 0 1 % 16
  let row := leAt e 4 2
  let idx := leAt e 8 4
  let seg := leAt e 0x38 4
  let src := leAt e 0x30 4
  let dst := leAt e 0x34 4
  let f := fmtOfCode (leAt e 1 1 / 4 % 32)
  decide (8 < op) || bitsOf (leAt e 0 1) 5 4 == 3 || leAt e 1 1 % 4 == 3 || (leAt e 1 1 % 4 == 1 && op != 5) ||
    bitAt (leAt e 1 1) 7 || bitsOf (leAt e 3 1) 7 5 != 0 || (bitAt (leAt e 0 1) 6 && op != 3) ||
    (bitAt (leAt e 0 1) 7 && op != 4) || (leAt e 3 1 != 0 && op != 4 && op != 5) || ((leAt e 6 2 == 0) == (op == 5)) ||
    leAt e 0x3E 2 != 0 || f.isNone || row % 4 != 0 ||
    decide (2048 < row) || ([0, 1, 2, 3, 6, 7].contains op && row == 0) || ((op == 5 || op == 8) && row != 0) ||
    (decide (0 < row) && (decide (src < row) || (decide (dst < row)))) || ((op == 2 || op == 3) && f != some .fp32) ||
    (match f with
     | some g => g.isMX && row % g.stripBytes != 0
     | none => false) ||
    decide (16777216 < idx) || (op == 4 && decide (32768 < idx)) || ([3, 5, 6, 7, 8].contains op && seg == 0) ||
    (op == 5 && decide (4096 < seg)) || decide (2 ^ 31 - 1 < leAt e 0x0C 4) || layerBad nlayer used (leAt e 0x3C 2)

/-- Its ALIGN checks: multiples of 4, and of 8 where its rows are in an MX format (R118). -/
def gmeAlign (e : List Byte) : Bool :=
  let k := match fmtOfCode (leAt e 1 1 / 4 % 32) with
    | some g => if g.isMX && leAt e 4 2 != 0 then 8 else 4
    | none => 4
  [leAt e 0x10 8, leAt e 0x18 8, leAt e 0x20 8, leAt e 0x28 8, leAt e 0x30 4, leAt e 0x34 4].any (fun a => a % k != 0)

/-- The live subtiles of a product (Table 10-2), and the tiles it needs in each cube (R245). -/
def liveTiles (loop tm tn : Nat) : Nat :=
  match loop with
  | 0 => tm * tn
  | 1 => tn
  | 2 => tm
  | _ => 4
def tilesNeeded (e : List Byte) : Nat :=
  ceilDiv (liveTiles (leAt e 1 1 % 4) (leAt e 6 1) (leAt e 7 1)) 4 * (1 + leAt e 1 1 / 4 % 2)

/-- A product's accumulator reservation by itself (R246, R247). -/
def accBad (e : List Byte) : Bool :=
  let k := leAt e 0 1
  if k < 2 then
    decide (16 < tilesNeeded e) || (List.range 4).any (fun c => decide (popCount 16 (leAt e (0x30 + 2 * c) 2) < tilesNeeded e))
  else k == 2 && leAt e 0x32 6 != 0

/-- Whether two products of a core that share bundles reserve a common tile or band (R246, R247). -/
def accShared (a b : List Byte) : Bool :=
  let k (e : List Byte) : Nat := if leAt e 0 1 = 2 then 1 else 0
  decide (leAt a 0 1 < 3) && decide (leAt b 0 1 < 3) && k a == k b && leAt a 0x30 8 &&& leAt b 0x30 8 != 0 &&
    decide (leAt a 0x38 2 ≤ leAt b 0x3A 2) && decide (leAt b 0x38 2 ≤ leAt a 0x3A 2)

/-- The later of two such products of a core. -/
def accPairs (c : CoreView) : List Nat :=
  (c.ops.zipIdx.filter (fun x => (c.ops.take x.2).any (fun y => accShared y.2 x.1.2))).map (fun x => x.1.1)

/-! ### Cross-checks of what a core issues -/

/-- A descriptor of a ring that a core's bundles name: its object, whether it is of a frame, its ring and its place in it. -/
structure Issued where
  obj : Nat
  frame : Bool
  ring : Nat
  pos : Nat
  d : Nat
  deriving DecidableEq, Repr

/-- The descriptors of the rings from which a core issues transfers, of its paired rings too. -/
def issuedBy (c : CoreView) (mask : Nat) : List Issued :=
  let dma := ringsNamed c 1
  let stk := ringsNamed c 3
  (c.rings.filter (fun r => dma.contains r.num || stk.contains r.num ||
    (decide (4 ≤ r.num) && bitAt mask (r.num - 4) && dma.contains (r.num - 4)))).flatMap (fun r =>
      r.descs.zipIdx.map (fun x => ⟨objOf r.sec x.2, stk.contains r.num, r.num, x.2, x.1⟩))

/-- The descriptor of ring r at the place of one of ring r + 4 (12_update_and_fixer R292). -/
def twinOf (c : CoreView) (i : Issued) : Option Nat :=
  match c.rings.find? (fun r => r.num + 4 == i.ring) with
  | some r => r.descs[i.pos]?
  | none => none

/-- Whether a paired ring has no fellow of as many descriptors. -/
def unpaired (c : CoreView) (mask : Nat) (r : RingView) : Bool :=
  decide (r.num < 4) && bitAt mask r.num &&
    !c.rings.any (fun q => q.num == r.num + 4 && q.descs.length == r.descs.length)

/-- A store to a send queue by a core that is not its POSTER (17_multi_module_jobs R409). -/
def postBad (im : List Byte) (m : Nat) (c : CoreView) (i : Issued) : Bool :=
  let bs := stageSec im m
  dStore i.d && [0, 1].any (fun p => (List.range 8).any (fun q =>
    (xferReach im m c i.frame i.d).writes.any (fun x =>
      x.1 == 2 ^ 48 * m + epAddr (portU (10 + p)) (Reg.STQ_POST_ENTRY q).off) &&
      !(stageRecs bs).any (fun e => some (leAt e 0 2) == stageOf bs m && leAt e 2 1 == p + 4 * q &&
        leAt e 0x0A 2 == 16 * c.die + c.core)))

/-- The findings of one object: a list of a row and whether its check fails. -/
def findAll (obj : Nat) (l : List (Nat × Bool)) : List Finding := (l.filter (fun x => x.2)).map (fun x => (x.1, obj))

/-- What an issued transfer shows by itself (06_scratchpad R152; 07_streams_layout R172; 10_tiling_job_images R257;
11_backward_pass R277, R288; 12_update_and_fixer R291, R292; 17_multi_module_jobs R409). -/
def xferFindings (im : List Byte) (m mask : Nat) (c : CoreView) (i : Issued) : List Finding :=
  let r := xferReach im m c i.frame i.d
  findAll i.obj [
    (5, (i.frame && frameBad im m i.d) || (!i.frame && blockBad im m mask i.ring (twinOf c i) i.d) || postBad im m c i ||
      spansMeet r.writes (windowSpans im m)),
    (6, !xferHeld im m c i.frame i.d),
    (14, (xferExt im m i.d).twice || spansMeet r.reads r.writes),
    (16, spansMeet (appSpans im m) (r.reads ++ r.writes))]

/-- What a gather-merge descriptor shows by itself (05_gather_merge R133; 06_scratchpad R152; 10_tiling_job_images R257;
11_backward_pass R288; 12_update_and_fixer R291). -/
def gmeFindings (im : List Byte) (m : Nat) (g : Nat × Nat × List Byte) : List Finding :=
  let d := leNat g.2.2
  let r := gmeReach (pagesOf im m) d g.2.1
  findAll g.1 [
    (4, g.2.1 % 64 != 0),
    (5, !(touches (updateRecs im m) ((gmeOperands d).flatMap (fun o => o.2))).isEmpty || spansMeet r.writes (windowSpans im m)),
    (6, !gmeHeld im m d g.2.1), (13, gmeSelf (pagesOf im m) d g.2.1),
    (16, spansMeet (appSpans im m) (r.reads ++ r.writes))]

/-- What a core's rings show (07_streams_layout R171, R176; 08_bonded_dram R195; 11_backward_pass R277): a base, a ring of two
LAYERs or of both DMA and STACK, and ring memory that the tables do not map read-only. -/
def ringFindings (im : List Byte) (m mask : Nat) (c : CoreView) : List Finding :=
  c.rings.flatMap (fun r =>
    let pages := pagesOf im m
    let size := 64 * r.descs.length
    findAll (objWhole r.sec) [
      (5, r.base % 1024 != 0 || decide (1 < (ringLayers c mask r.num).length) || unpaired c mask r ||
        ((ringsNamed c 1).contains r.num && (ringsNamed c 3).contains r.num)),
      (6, !covered pages r.base size 1 ||
        !(spansOf (pages.filter (fun p => p.2.2.2 &&& 2 != 0)) r.base size).isEmpty)])

/-- What a core's bundles show one by one. -/
def bundleFindings (im : List Byte) (m : Nat) (c : CoreView) : List Finding :=
  c.code.zipIdx.flatMap (fun b => findAll (objOf c.codeSec b.2) [
    (0, bundleFmtBad b.1), (7, bundleBad c.epi (c.rings.map (fun r => r.num)) (stackRegion im m c).isSome b.1)])

/-- The scratchpad ranges that a core's drain writes where the image fixes them, as target addresses. -/
def drainSpans (m : Nat) (c : CoreView) : Spans :=
  (c.code.filter (fun b => (drainSlot (bDrain b)).en && (drainSlot (bDrain b)).xr == 0)).map (fun b =>
    let d := drainSlot (bDrain b)
    spTarget m c.die c.core (64 * d.out, 64 * d.out + drainOutLen (c.epi.getD d.epi 0)))

/-- The stores whose materialized pad meets their interior or what anything else of the step writes (07_streams_layout
R170). -/
def padFindings (im : List Byte) (m : Nat) (F : LoadFacts) (cs : List CoreView) : List Finding :=
  let pages := pagesOf im m
  let xs : List (Issued × Spans) := cs.flatMap (fun c => (issuedBy c (F.mask c)).map (fun i => (i, (xferReach im m c i.frame i.d).writes)))
  let gs : Spans := (gmeDescs im m).flatMap (fun g => (gmeReach pages (leNat g.2.2) g.2.1).writes)
  let ds := cs.flatMap (drainSpans m)
  xs.zipIdx.flatMap (fun x =>
    let e := xferExt im m x.1.1.d
    let pads := toTargets pages e.pads
    findIf (dStore x.1.1.d && dMatPad x.1.1.d && (spansMeet e.pads e.inner || spansMeet pads (gs ++ ds) ||
      xs.zipIdx.any (fun y => x.2 != y.2 && spansMeet pads y.1.2))) 15 x.1.1.obj)

/-- The multicast sets and barrier groups that R173, R235 and R523 refuse. -/
def groupFindings (im : List Byte) (m : Nat) (cs : List CoreView) : List Finding :=
  let each (type : Nat) (bad : Sec → Config.LoadItem → List (Nat × Bool)) : List Finding :=
    (inForce im m type).flatMap (fun x => (itemsOf im x).zipIdx.flatMap (fun i => findAll (objOf x.idx i.2) (bad x i.1)))
  each tMCSET (fun _ i => match i with
    | .mcset _ g =>
      let ls := leavesIn im m g
      [(5, decide (384 < ls.length) || ls.any (fun u => u / 65536 != m || decide (24 ≤ dieOf u) || epOf u != 1))]
    | _ => []) ++
  each tBARRIER (fun x i => match i with
    | .barrier n g =>
      let ls := leavesIn im m g
      [(9, ls.any (fun u => decide (24 ≤ dieOf u) || epOf u != 0 || !hasCodeIn im (u / 65536) (dieOf u, coreOf u)) ||
        cs.any (fun c => (appliesTo im tBARRIER m (seqU c.die c.core)).contains x &&
          c.code.any (fun b => bitsOf (bCtl b) 5 0 == 3 && bitsOf (bCtl b) 17 14 == n % 16) &&
          !ls.contains (65536 * m + seqU c.die c.core)))]
    | _ => [])

/-- The pages and regions outside the job's space (08_bonded_dram R186, R193, R195; 06_scratchpad R139; 11_backward_pass
R288). -/
def spaceFindings (im : List Byte) (m : Nat) : List Finding :=
  (inForce im m tMAP).flatMap (fun x => (itemsOf im x).zipIdx.flatMap (fun i => match i.1 with
    | .page va size t p => findIf (pageBad (va, size, t, p)) 6 (objOf x.idx i.2)
    | _ => [])) ++
  (regionsOn im m).flatMap (fun r =>
    let e := r.2
    findIf (if rgLocal e then decide (spBytes < rgBase e + rgSize e) || decide (24 ≤ dieOf (rgUnit e)) ||
        (imNlayer im != 0 && rgPerm e &&& 2 != 0 && spansMeet [(rgBase e, rgBase e + rgSize e)] [(0x5FE000, 0x600000)])
      else !covered (pagesOf im m) (rgBase e) (rgSize e) 0) 6 r.1)

/-- Every cross-check's findings for a module. -/
def imageFindings (im : List Byte) (m : Nat) (F : LoadFacts) : List Finding :=
  let nl := imNlayer im
  let used := layersUsed im m
  let cs := coreViews im m
  let objs (row type n : Nat) (bad : List Byte → Bool) : List Finding := (objsOf im m type n bad).map (fun o => (row, o))
  let regions (row : Nat) (bad : List Byte → Bool) : List Finding :=
    ((regionsOn im m).filter (fun r => bad r.2)).map (fun r => (row, r.1))
  objs 0 tOPS 64 pairBad ++
    objs 0 tRING 64 (fun e => (dFmt (leNat e)).isNone || (dCvtFmt (leNat e)).isNone) ++
    objs 1 tOPS 64 tileBad ++
    regions 2 (tilesBad im m) ++ objs 2 tOPS 64 (sparseBad im m) ++ objs 2 tRING 64 (fun e => packBad im m (leNat e)) ++
    objs 3 tEPI 32 (epiBad nl used) ++ cs.flatMap (fun c => (pairsBad c).map (fun o => (3, o))) ++
    objs 4 tEPI 32 epiAlign ++ objs 4 tGMEDESC 64 gmeAlign ++ objs 4 tRING 64 (fun e => descAlign (leNat e)) ++
    objs 5 tGMEDESC 64 (gmeBad nl used) ++ objs 5 tRING 64 (fun e => descBad im m (leNat e)) ++
    spaceFindings im m ++ groupFindings im m cs ++ objs 10 tOPS 64 accBad ++
    cs.flatMap (fun c => (accPairs c).map (fun o => (10, o))) ++ padFindings im m F cs ++
    (gmeDescs im m).flatMap (gmeFindings im m) ++
    cs.flatMap (fun c =>
      let mask := F.mask c
      bundleFindings im m c ++ ringFindings im m mask c ++ (issuedBy c mask).flatMap (xferFindings im m mask c) ++
        walkCore im m mask c)

/-- The error codes of the rows of Table 10-9. -/
def rowCodes : List Nat :=
  [eCOUNT, eCOUNT, eCOUNT, eCOUNT, eALIGN, eCOUNT, eCOUNT, eCOUNT, eCOUNT, eCOUNT, eACC_CAPACITY, eACC_CAPACITY,
    eSP_CONFLICT, 0x000C, 0x000D, 0x000B, eSP_APP_OVERLAP, eSTACK_OVERFLOW, eCOUNT]

/-- A row of the table for a module: the lowest object that the findings name, else what `Config.loaderFinds` says. -/
def rowFails (im : List Byte) (m : Nat) (found : List Finding) (row : Nat) : Option Reject :=
  let objs : List Nat := (found.filter (fun x => x.1 == row)).map (fun x => x.2)
  (match lowest objs with
   | some o => some o
   | none => Config.loaderFinds row m im).map (fun o => (rowCodes.getD row eCOUNT, o))

/-- The checks of R261 in their order. -/
def imageFails (im : List Byte) (imgSize fw m : Nat) (F : LoadFacts) (want sha : List Byte) : Option Reject :=
  match headerFails im imgSize fw want sha with
  | some r => some r
  | none =>
    match tableFails im imgSize with
    | some r => some r
    | none =>
      match ((imSecs im).filter (fun x => x.forModule m)).findSome? (sectionFails im m F) with
      | some r => some r
      | none => (List.range 19).findSome? (rowFails im m (imageFindings im m F))

end Sys2Proof.Machine
end

