-- ==== Sys2Proof/Machine/Loader.lean ====
section
/-!
DEFINITION. LOAD_JOB: taking the job id, the scrub, what a sound image leaves in the module, and the cabling checks
(01_module_dies_clocks R20; 08_bonded_dram R195; 09_core_sequencer R210, R231, R235; 10_tiling_job_images R257, R261, R263,
R523; 11_backward_pass R271, R283; 12_update_and_fixer R289; 15_application_cores R364, R368; 16_hormen_fabric R394;
17_multi_module_jobs R407; 19_keeper_minil R444, R461, R464; 20_darkroom_security R485, R487).
-/
namespace Sys2Proof.Machine

/-! ### Parts of a load -/

/-- A region as the keeper keeps it: its pieces on every module that it lies on. -/
def toRegion (im : List Byte) (e : List Byte) : Region :=
  let mods := if rgMod e = 0xFFFF then List.range (imNmod im) else [rgMod e]
  { id := rgId e, kind := rgKind e, perms := rgPerm e, base := rgBase e, size := rgSize e,
    spans := if rgKind e = 1 || rgKind e = 2 then []
      else mods.flatMap (fun m => joinSpans (spansOf (pagesOf im m) (rgBase e) (rgSize e))) }

/-! ### A load in progress -/

/-- A load: the state so far, and the failure that ended it. -/
abbrev Load := State × Option Reject

/-- A part of the load, done where nothing has failed. -/
def Load.and (l : Load) (f : State → Load) : Load :=
  match l.2 with
  | some _ => l
  | none => f l.1

/-- A part for each element of a list. -/
def Load.each {α : Type} (l : Load) (xs : List α) (f : State → α → Load) : Load := xs.foldl (fun l x => l.and (fun s => f s x)) l

/-- Bytes written at a virtual address of the job, page by page; a fault is a failure of the object. -/
def State.loadBytes (s : State) (pages : List Page) (obj va : Nat) (bs : List Byte) : Load :=
  (blocks64 (bs.length + 1) va bs.length).foldl (fun l b => l.and (fun s =>
    match targetOf pages b.1 with
    | none => (s, some (eXLATE, obj))
    | some t =>
      if taModule t ≠ s.job.modId then (s, none)
      else
        let (s1, a) := s.access (s.unitAddr keeperU) t (some (slice bs (b.1 - va) b.2)) b.2
        (s1, failIf (a.err != 0) a.err obj))) (s, none)

/-! ### Translation tables (08_bonded_dram R192 to R195) -/

/-- The tables that the pages need, root first, as level and the bits of the address above it. -/
def tablesOf (pages : List Page) : List (Nat × Nat) :=
  let add (l : List (Nat × Nat)) (x : Nat × Nat) : List (Nat × Nat) := if l.contains x then l else l ++ [x]
  pages.foldl (fun l p =>
    let v := p.1 % 2 ^ 57
    let l1 := add (add l (2, v / 2 ^ 48)) (1, v / 2 ^ 39)
    if p.2.1 = 2 ^ 30 then l1 else add l1 (0, v / 2 ^ 30)) [(3, 0)]

/-- The entries that the tables hold for the stack of a die, as offset in the reserved region and value. Table `i` lies at
4,096 times `i` in it (assumption 48). -/
def entriesOf (pages : List Page) (module die : Nat) : List (Nat × Nat) :=
  let ts := tablesOf pages
  let at_ (x : Nat × Nat) : Nat := 4096 * (ts.findIdx? (fun y => y == x)).getD 0
  let links := (ts.drop 1).map (fun x =>
    (at_ (x.1 + 1, x.2 / 512) + 8 * (x.2 % 512), 1 + 2 ^ 48 * module + dramAddr die (reservedOff + at_ x)))
  links ++ pages.map (fun p =>
    let v := p.1 % 2 ^ 57
    let leaf := 3 + 4 * (p.2.2.2 % 16) + p.2.2.1
    if p.2.1 = 2 ^ 30 then (at_ (1, v / 2 ^ 39) + 8 * (v / 2 ^ 30 % 512), leaf)
    else (at_ (0, v / 2 ^ 30) + 8 * (v / 2 ^ 21 % 512), leaf))

/-- The tables written into every stack, the roots set, and every cached entry discarded. -/
def State.writeTables (s : State) (pages : List Page) : State :=
  let n := 4096 * (tablesOf pages).length
  let m := s.job.modId
  let s1 := forEach (List.range 24) (fun s die =>
    let s1 := forEach (entriesOf pages m die) (fun s e => s.putNum (dramAddr die (reservedOff + e.1)) 8 e.2)
      (s.zeroRange (dramAddr die reservedOff) n)
    let root := 2 ^ 48 * m + dramAddr die reservedOff
    (s1.wr (tuU die) Reg.TU_ROOT_LO_ADDR root).wr (tuU die) Reg.TU_ROOT_HI_ADDR (root / 2 ^ 32)) s
  { s1 with tus := [] }

/-! ### Sections by type -/

/-- A field of type RW of a unit back at its reset value, for every register of the unit. -/
def State.clearRw (s : State) (u : Nat) : State :=
  forEach (s.regMap u) (fun s g => forEach (List.range g.count) (fun s i =>
    forEach (g.fields.filter (fun f => f.acc == .rw)) (fun s f => s.wrReset u (f.at (g.stride * i))) s) s) s

/-- The configuration that a load starts from: nothing of an earlier job is left in the units that an image sets. -/
def State.clearJob (s : State) : State :=
  let s1 : State := { s with
    cores := s.cores.map (fun e => (e.1, { e.2.idle with hasCode := false, appRegions := [], barGroup := [], mcset := [],
                                                         drain := { e.2.drain with epi := [] } }))
    apps := [], groups := [], stqs := [], red := {}, ues := [], streams := [], qps := [], eths := [], arrivals := [],
    auLog := [], ck := {}, fix := {} }
  let units := allCores.flatMap (fun p => [seqU p.1 p.2, dmaU p.1 p.2, stkU p.1 p.2]) ++ (List.range 104).map acU
  let s2 := forEach (List.range 24) (fun s die =>
    (s.wrReset (ueU die) Reg.UE_LIST_LO_ADDR).wrReset (ueU die) Reg.UE_LIST_HI_ADDR) s1
  (forEach units (fun s u => s.clearRw u) s2).zeroRange (ltAddr 0 0) (64 * 4096)

/-- Code, epilogue records, wait limits, multicast sets and barrier groups of a core. -/
def State.loadCore (s : State) (im : List Byte) (m : Nat) (p : Nat × Nat) : State :=
  let u := seqU p.1 p.2
  let s1 := match coreSec im m tCODE p with
    | none => s
    | some x =>
      (s.putBytes (epAddr u 0x100000) (x.bytes im)).setCore p.1 p.2 { s.core p.1 p.2 with hasCode := true }
  let s2 := match coreSec im m tEPI p with
    | none => s1
    | some x =>
      let c := s1.core p.1 p.2
      let epi := (List.range x.count).foldl (fun e i => mset 0 e i (leNat (x.obj im 32 i))) []
      s1.setCore p.1 p.2 { c with drain := { c.drain with epi := epi } }
  let items := [tWLIM, tMCSET, tBARRIER].flatMap (fun t => match coreSec im m t p with
    | some x => itemsOf im x
    | none => [])
  forEach items (fun s i =>
    let c := s.core p.1 p.2
    match i with
    | .wlim k n sh => (s.wr u (Reg.SEQ_WLIM_COUNT (k % 4)) n).wr u (Reg.SEQ_WLIM_SHIFT (k % 4)) sh
    | .mcset n g => s.setCore p.1 p.2 { c with mcset := mset 0 c.mcset (n % 16) g }
    | .barrier n g => s.setCore p.1 p.2 { c with barGroup := mset 0 c.barGroup (n % 16) g }
    | _ => s) s2

/-- The rings of a core: their registers, RING_CFG.LAYER from the operation records (07_streams_layout R171), and their
descriptors written into ring memory. -/
def State.loadRings (s : State) (im : List Byte) (m : Nat) (pages : List Page) (p : Nat × Nat) : Load :=
  let u := dmaU p.1 p.2
  let c := coreView im m p
  Load.each (s, none) c.rings (fun s r =>
    let k := r.num
    let layer := ((ringLayers c (s.rd (ueU p.1) Reg.UE_PAIRRING_MASK) k).head?).getD 0
    let s1 := (((s.wr u (Reg.RING_BASE_LO_ADDR k) r.base).wr u (Reg.RING_BASE_HI_ADDR k) (r.base / 2 ^ 32)).wr u
      (Reg.RING_CFG_BURSTS k) (r.descs.length / 16)).wr u (Reg.RING_CFG_LAYER k) layer
    Load.each (s1, none) r.descs.zipIdx (fun s d => s.loadBytes pages (objOf r.sec d.2) (r.base + 64 * d.2) (leBytes 64 d.1)))

/-- A region's own effect: an application region of a scratchpad, an activation stack, an access-unit ring. -/
def State.loadRegion (s : State) (e : List Byte) : State :=
  let d := dieOf (rgUnit e)
  let c := coreOf (rgUnit e)
  let id := rgId e
  if rgKind e = 2 then
    s.setCore d c { s.core d c with appRegions := (s.core d c).appRegions ++ [(rgBase e, rgSize e)] }
  else if rgKind e = 3 && 0x53540000 ≤ id && id < 0x53540180 then
    let u := stkU (id % 2 ^ 16 / 16) (id % 16)
    (((s.wr u Reg.STK_BASE_LO_ADDR (rgBase e)).wr u Reg.STK_BASE_HI_ADDR (rgBase e / 2 ^ 32)).wr u Reg.STK_SIZE_LO_SIZE
      (rgSize e)).wr u Reg.STK_SIZE_HI_SIZE (rgSize e / 2 ^ 32)
  else if rgKind e = 0 && 0x41550000 ≤ id && id < 0x41550010 then
    { s with auLog := mset 0 s.auLog (id % 2 ^ 16) (ilog2 (rgSize e / 32)) }
  else s

/-- The initial contents of regions (DATA), written at the region's place. -/
def State.loadContents (s : State) (im : List Byte) (m : Nat) (pages : List Page) : Load :=
  Load.each (s, none) (appliesTo im tDATA m 0xFFFF) (fun s x =>
    Load.each (s, none) (itemsOf im x).zipIdx (fun s i =>
      match i.1 with
      | .data id off bs =>
        match regionById im m id with
        | none => (s, none)
        | some (_, e) =>
          if rgLocal e then
            (s.putBytes (epAddr (spU (dieOf (rgUnit e)) (coreOf (rgUnit e))) (rgBase e + off)) bs, none)
          else s.loadBytes pages (objOf x.idx i.2) (rgBase e + off) bs
      | _ => (s, none)))

/-- Gather-merge descriptors, written where their section says. -/
def State.loadDescs (s : State) (im : List Byte) (m : Nat) (pages : List Page) : Load :=
  Load.each (s, none) (gmeDescs im m) (fun s g => s.loadBytes pages g.1 g.2.1 g.2.2)

/-- The ring table's entries (13_gradient_reduction R314). -/
def ringEnts (bs : List Byte) : List (Nat × RedEnt) :=
  let (lists, ents) := ringTab bs
  ents.map (fun e =>
    let ring := match lists.find? (fun l => l.1 == leAt e 2 2) with
      | some l => l.2
      | none => []
    (leAt e 0 2, { ring := ring, nelem := leAt e 4 4, npart := leAt e 8 1, head := leAt e 9 1, nsrc := leAt e 0x0A 2,
                   stage := leAt e 0x10 8, sums := leAt e 0x18 8 }))

/-- Ports and streams of the INGEST section. -/
def State.loadIngest (s : State) (im : List Byte) (m : Nat) (bs : List Byte) : State :=
  let port (n : Nat) : EthPort := { ip4 := leAt bs (8 + 24 * n) 4, ip6 := leAt bs (12 + 24 * n) 16, word := leAt bs (28 + 24 * n) 2 }
  let s1 : State := { s with eths := mset {} (mset {} [] 0 (port 0)) 1 (port 1) }
  forEach (streamRecs bs) (fun s r =>
    let k := leAt r 0 1 % 16
    let win := regionById im m (leAt r 0x6C 4)
    let au := regionById im m (0x41550000 + k)
    let base (x : Option (Nat × List Byte)) : Nat := match x with
      | some y => rgBase y.2
      | none => 0
    let size := match win with
      | some y => rgSize y.2
      | none => 0
    s.setStream k { rec_ := leNat r, wbase := base win, wsize := size, auBase := base au }) s1

/-- The stage queues that this module owns (17_multi_module_jobs R406, Table 17-2). -/
def State.loadStages (s : State) (im : List Byte) (m : Nat) (bs : List Byte) : State :=
  match (stageMap bs).findIdx? (fun x => x == m) with
  | none => s
  | some i =>
    let mine := i / leAt bs 2 2
    forEach ((stageRecs bs).filter (fun e => leAt e 0 2 == mine)) (fun s e =>
      let b := leAt e 2 1
      let q : StageQ := { live := true, esize := leAt e 4 4, depth := leAt e 8 2, poster := leAt e 0x0A 2,
                          ring := match regionById im m (leAt e 0x0C 4) with
                            | some r => rgBase r.2
                            | none => 0 }
      let ep := b % 2
      s.setStq ((if b / 2 % 2 = 0 then sendKey ep else recvKey ep) (b / 4 % 8)) q) s

/-! ### Update lists and application programs (12_update_and_fixer R289; 15_application_cores R364, R368) -/

/-- The engine of each die that has an update list. -/
def State.loadUpdates (s : State) (im : List Byte) (m : Nat) : State :=
  forEach (List.range 24) (fun s die =>
    match updateList im m die, regionById im m (0x55500000 + die) with
    | some l, some r =>
      ((s.wr (ueU die) Reg.UE_LIST_LO_ADDR (rgBase r.2)).wr (ueU die) Reg.UE_LIST_HI_ADDR (rgBase r.2 / 2 ^ 32)).setUe die
        { recs := l.2.2.length }
    | _, _ => s) s

/-- Each application core that has a program. -/
def State.loadApps (s : State) (im : List Byte) (m : Nat) : State :=
  forEach (List.range 104) (fun s i =>
    match progHead im m i with
    | none => s
    | some h =>
      let s1 := (s.setApp i { prog := true, entry := leAt h 0 8, sp := leAt h 8 8, arg := leAt h 0x10 8,
                              slots := progSlots h }).wr (acU i) Reg.AC_DBSEL_MASK (progSel h)
      { s1 with job := { s1.job with appChans := s1.job.appChans ||| progSel h } }) s

/-! ### The whole load -/

/-- Whether a DRAM region that the load writes overlaps the image (19_keeper_minil R464 step 3). -/
def State.meetsImage (s : State) (im : List Byte) (m addr size : Nat) : Option Nat :=
  let pages := pagesOf im m
  let ids := ((appliesTo im tDATA m 0xFFFF).flatMap (itemsOf im)).filterMap (fun i => match i with
    | .data id _ _ => some id
    | _ => none)
  let ta := s.ownTa addr
  ((regionsOn im m).find? (fun r => ids.contains (rgId r.2) && rgKind r.2 != 1 && rgKind r.2 != 2 &&
    (spansOf pages (rgBase r.2) (rgSize r.2)).any (fun p => taModule p.1 == m && taModule ta == m && decide (p.1 < ta + size) &&
      decide (ta < p.1 + p.2)))).map (fun r => r.1)

/-- The bytes of a module's section of a type. -/
def secBytes (im : List Byte) (m type : Nat) : List Byte :=
  match theSec im type m 0xFFFF with
  | some x => x.bytes im
  | none => []

/-- Everything that an image whose checks pass leaves in the module. -/
def State.loadImage (s : State) (im : List Byte) (addr size : Nat) : Load :=
  let m := s.job.modId
  let pages := pagesOf im m
  match s.meetsImage im m addr size with
  | some obj => (s, some (eCOUNT, obj))
  | none =>
    let s1 := ({ s.clearJob with groups := groupsIn im m } : State).writeTables pages
    let s2 := forEach allCores (fun s p => s.loadCore im m p) s1
    let s3 := forEach ((regionsOn im m).map (fun r => r.2)) (fun s e => s.loadRegion e) s2
    let l4 := ((Load.each (s3, none) allCores (fun s p => s.loadRings im m pages p)).and (fun s =>
      s.loadContents im m pages)).and (fun s => s.loadDescs im m pages)
    l4.and (fun s =>
      let s5 : State := { s.putBytes (ltAddr 0 0) (secBytes im m tLAYER) with red := { ents := ringEnts (secBytes im m tRINGTAB) } }
      let s6 := (((s5.loadIngest im m (secBytes im m tINGEST)).loadStages im m (stageSec im m)).loadUpdates im m).loadApps im m
      ({ s6 with job := { s6.job with regions := (regionRecs im m).map (fun r => toRegion im r.2) } }, none))

/-! ### Cabling (16_hormen_fabric R394, R398; 17_multi_module_jobs R407) -/

/-- The partners that the module's beacons must show, as port, module id and partner port. -/
def State.partners (s : State) (stage : List Byte) : List (Nat × Nat × Nat) :=
  let me := s.job.modId
  let rings := (s.red.ents.filter (fun e => decide (1 < e.2.len))).flatMap (fun e =>
    match e.2.ring.findIdx? (fun x => x == me) with
    | none => []
    | some p => (List.range 4).map (fun k => (2 * k, e.2.moduleAt (p + 1), 2 * k + 1)))
  let rep := leAt stage 2 2
  let next := match (stageMap stage).findIdx? (fun x => x == me) with
    | some i => if i + rep < (stageMap stage).length then [(11, (stageMap stage).getD (i + rep) 0, 10)] else []
    | none => []
  rings ++ next

/-- Whether every partner shows what is expected of it, and no ring of more than one module names this bridge module. -/
def State.cabled (s : State) (stage : List Byte) : Bool :=
  (s.partners stage).all (fun p => s.portUp p.1 && s.nbrModule p.1 == p.2.1 && s.rd (portU p.1) Reg.FAB_NBR_INFO_PORT == p.2.2) &&
    !(s.bridge && s.red.ents.any (fun e => decide (1 < e.2.len) && e.2.ring.contains s.job.modId))

/-! ### LOAD_JOB (R464) -/

def loadAddr (m : Minil) : Nat := leAt m.payload 0 8
def loadSize (m : Minil) : Nat := leAt m.payload 8 8
def loadSeed (m : Minil) : Nat := leAt m.payload 0x10 8
def loadModule (m : Minil) : Nat := leAt m.payload 0x18 2 % 2 ^ 15
def loadSha (m : Minil) : List Byte := slice m.payload 0x20 32

/-- The take: the module's job id, shown by its beacons at once; a route set of another id is discarded. -/
def State.takeLoad (s : State) (m : Minil) : State :=
  let id := loadModule m
  let keep := match s.routes with
    | some r => mget r id 0xFF == 0xEE
    | none => true
  { s with job := { s.job with modId := id }, routes := if keep then s.routes else none,
           groups := if keep then s.groups else [] }

/-- A load that fails: REJECT logged, NO_JOB and DIRTY. -/
def State.loadFails (s : State) (m : Minil) (r : Reject) : State :=
  (s.logAs r.1 cREJECT keeperU r.2 (loadModule m)).toNoJob true

/-- A load that succeeds: the job in LOADED (R464; 12_update_and_fixer R305; 18_faults_and_relief R524). -/
def State.loadDone (s : State) (m : Minil) (im sha : List Byte) (same : Bool) : State :=
  let job : JobSt := { s.job with st := .loaded, dirty := false, nmod := imNmod im, nlayer := imNlayer im, seed := loadSeed m,
                                  sha := sha, crc := crc32 im, imgAddr := loadAddr m, imgSize := loadSize m,
                                  ovr := imOver im, restored := false }
  let s1 : State := { s with job := job }
  let s2 := forEach [Reg.FX_STAT_ACTIVE, Reg.FX_STAT_SKIPPED, Reg.FX_STEP_LO_VALUE, Reg.FX_UPD_LO_VALUE, Reg.FX_VOTE_FLAGS,
    Reg.FX_JVOTE_FLAGS, Reg.FX_STAT_CKPEND] (fun s f => s.wrReset keeperU f) s1
  let s3 := if same then s2
    else ({ ((s2.wrReset keeperU Reg.FX_CKSTEP_LO_VALUE).wrReset keeperU Reg.RCV_CKJOB_LO_VALUE) with
            rcv := { s2.rcv with oldHalts := [] } } : State)
  let s4 := if s3.rd keeperU Reg.RCV_STAT_STATE = 0 then s3.wr keeperU Reg.RCV_STAT_STATE 1 else s3
  let s5 := s4.dbMask (s4.unitAddr keeperU) (clearBits (s4.rd mbxU Reg.DB_MASK_MASK) s4.job.appChans)
  s5.wr dkrU Reg.DKR_STAT_SCRUBBED 0

/-- What the checks take from the module. -/
def State.loadFacts (s : State) : LoadFacts :=
  { pair := (List.range 24).map (fun die => s.rd (ueU die) Reg.UE_PAIRRING_MASK), bridge := s.bridge }

/-- How a load stands: it has failed, it has succeeded, or it waits for a partner's beacons (none). With it go the SHA-256
of the image and the state reached. -/
abbrev LoadEnd := State × List Byte × Option (Option Reject)

/-- The image read and hashed, the scrub where one is due, the checks and the writes; last the cabling, whose wait leaves
the load running. `expired` says that the second of that wait has ended. A load that fails leaves the group table that was in
force (01_module_dies_clocks R20). -/
def State.load (s : State) (m : Minil) (image : List Byte) (expired : Bool) : LoadEnd :=
  let (s0, im0, e0) := s.fetch (loadAddr m) (loadSize m) image
  let sha := sha256 im0
  let same := s0.job.st == .stopped && s0.job.sha == sha && s0.job.seed == loadSeed m
  let s1 := if !same && (s0.job.dirty || s0.job.st == .stopped) then s0.scrub else s0
  let (s2, im, e2) := s1.fetch (loadAddr m) (loadSize m) image
  let fails (s : State) (r : Reject) (sha : List Byte) : LoadEnd := (s.loadFails m r, sha, some (some r))
  if e0 ≠ 0 then fails s0 (e0, objHeader) (List.replicate 32 0)
  else if e2 ≠ 0 then fails s2 (e2, objHeader) sha
  else
    match imageFails im (loadSize m) s2.fwVer (loadModule m) s2.loadFacts (loadSha m) sha with
    | some r => fails s2 r sha
    | none =>
      let (s3, f) := s2.loadImage im (loadAddr m) (loadSize m)
      match f with
      | some r => fails { s3 with groups := s2.groups } r sha
      | none =>
        if s3.cabled (stageSec im (loadModule m)) then (s3.loadDone m im sha same, sha, some none)
        else if expired then fails { s3 with groups := s2.groups } (eCOUNT, objHeader) sha
        else (s, sha, none)

/-- The reply of LOAD_JOB (Table 19-7), where the load has ended. -/
def LoadEnd.answer (e : LoadEnd) (m : Minil) : State :=
  let out (code obj : Nat) : State := e.1.endLong code (leBytes 8 obj ++ leBytes 8 (loadModule m) ++ e.2.1)
  match e.2.2 with
  | none => e.1
  | some none => out 0 (2 ^ 64 - 1)
  | some (some r) => out r.1 r.2

/-- LOAD_JOB: `image` is what IMG_ADDR holds where that is another module's memory. A load that waits for a partner's
beacons goes on with a further end command, or with LOAD_CABLING_TIMEOUT. -/
def execLoadJob (fin : Bool) (image : List Byte) (s : State) : Host.Outcome State Fault Refusal :=
  done (s.long cmdLOAD fin State.takeLoad (fun s m => (s.load m image false).answer m))

end Sys2Proof.Machine
end

