-- ==== Sys2Proof/Machine/Recovery.lean ====
section
/-!
DEFINITION. Fog signals received, the step watchdog, and the coordinator of a recovery (18_faults_and_relief R428 to R440,
R524; 19_keeper_minil R457, R470).
-/
namespace Sys2Proof.Machine

def cmdASSIGN : Nat := 4

/-! ### What the coordinator holds -/

/-- The members of the fault set of a kind: 0 HALT, 1 LINK, 2 MODULE; ascending. -/
def State.members (s : State) (kind : Nat) : List Nat :=
  sortBy (fun a b => Nat.ble a b) ((s.log.faults.filter (fun f => f.2 == kind)).map (fun f => f.1))

/-- The other modules of the job. -/
def State.others (s : State) : List Nat := (List.range s.job.nmod).filter (fun m => m != s.job.modId)

/-- The other modules of the job that are not lost. -/
def State.alive (s : State) : List Nat := s.others.filter (fun m => !(s.members 2).contains m)

/-- The fault set changed, with the count that shows it (Table 18-7). -/
def State.setFaults (s : State) (l : List (Nat × Nat)) : State :=
  ({ s with log := { s.log with faults := l } } : State).wr keeperU Reg.RCV_STAT_FSET (Nat.min 255 l.length)

/-- A command sent to another keeper, whose reply is awaited. -/
def State.order (s : State) (dst : Nat) (prov : Bool) (cmd member : Nat) (args : List Nat) : State :=
  let q := s.kpr.seq
  ({ s with kpr := { s.kpr with asks := s.kpr.asks ++ [⟨q, dst, prov, cmd, member⟩], seq := (q + 1) % 65536 } } : State).emit
    (.order dst prov q cmd args)

/-- Whether the step in progress waits for nobody's answer. -/
def State.quiet (s : State) : Bool := s.rcv.waiting.isEmpty && s.kpr.asks.isEmpty

/-- The relief assigned to a member. -/
def State.reliefOf (s : State) (member : Nat) : Option Nat := (s.rcv.assigned.find? (fun a => a.1 == member)).map (fun a => a.2)

/-- The relief that is to be offered next: the first in list order that is not assigned and has not failed. -/
def State.candidate (s : State) : Option Nat :=
  s.rcv.reliefs.find? (fun r => !s.rcv.failed.contains r && !s.rcv.assigned.any (fun a => a.2 == r))

/-- The member whose relief is next to be found or cabled. -/
def State.uncabled (s : State) : Option Nat := (s.members 2).find? (fun m => !s.rcv.cabled.contains m)

/-! ### Ends and beginnings of an attempt (R437, R438, R440) -/

/-- An attempt ended: RESULT and STATE, and the reply of Table 19-7. -/
def State.attemptEnd (s : State) (result : Nat) : State :=
  let st := if result = 1 then 1 else if s.job.st = .noJob then 0 else 4
  let s1 : State := { s with rcv := { s.rcv with step := 0, waiting := [], again := false },
                             kpr := { s.kpr with asks := [] } }
  let s2 := ((s1.wr keeperU Reg.RCV_STAT_RESULT result).wr keeperU Reg.RCV_STAT_STATE st).wr keeperU Reg.RCV_STAT_COORD 0
  s2.endLong 0 (leBytes 4 result ++ leBytes 4 (s2.rd keeperU Reg.RCV_STAT_ATTEMPT) ++ leBytes 8 s2.rcv.t)

/-- The registers of an attempt that starts. -/
def State.attemptOn (s : State) : State :=
  let n := s.rd keeperU Reg.RCV_STAT_ATTEMPT
  (((s.wr keeperU Reg.RCV_STAT_STATE 3).wr keeperU Reg.RCV_STAT_COORD 1).wr keeperU Reg.RCV_STAT_RESULT 0).wr keeperU
    Reg.RCV_STAT_ATTEMPT (Nat.min 255 (n + 1))

/-- An attempt begun with its survey; assignments whose relief is still healthy stay in force. -/
def State.attempt (s : State) : State :=
  let own := s.rd keeperU Reg.RCV_CKJOB_LO_VALUE
  let kept := s.rcv.assigned.filter (fun a => !s.rcv.failed.contains a.2)
  let s1 : State := { s with
    rcv := { s.rcv with step := 1, waiting := s.others, steps := if own = 2 ^ 64 - 1 then [] else [own], t := 2 ^ 64 - 1,
                        assigned := kept, cabled := s.rcv.cabled.filter (fun m => kept.any (fun a => a.1 == m)),
                        again := false }
    kpr := { s.kpr with asks := [] } }
  forEach s.others (fun s m => s.emit (.survey m)) s1.attemptOn

/-- A failure of the attempt's own; a fault that has come meanwhile begins a new attempt in its place. -/
def State.attemptFails (s : State) (result : Nat) : State := if s.rcv.again then s.attempt else s.attemptEnd result

def State.goStep (s : State) (n : Nat) : State := { s with rcv := { s.rcv with step := n } }

/-! ### The steps (R437). `rcv.step` counts them: 1 survey, 2 links, 3 reliefs, 4 stop and 5 load of step 4, 6 routes,
7 restore, 8 resume. -/

/-- The survey's end: T, and the ports of LINK members restarted. -/
def State.surveyEnd (s : State) : State :=
  match s.rcv.steps with
  | [] => s.attemptFails 2
  | x :: r =>
    let s1 : State := { s with rcv := { s.rcv with step := 2, t := r.foldl Nat.min x } }
    forEach ((s1.members 1).flatMap (fun m => s1.rcv.links.filter (fun l => l.1 == m))) (fun s l =>
      let own (s : State) : State := match if l.2.1 = s.job.modId then some l.2.2 else s.upPorts.find? (fun p =>
          s.nbrModule p == l.2.1 && s.rd (portU p) Reg.FAB_NBR_INFO_PORT == l.2.2) with
        | some p => (s.setPort p { s.port p with retrains := [] }).retrain p
        | none => s
      forEach [(l.2.1, 0), (l.1, 1)] (fun s e =>
        if e.1 = s.job.modId then own s else s.order e.1 false cmdRESETUNIT l.1 [l.2.1, l.2.2, e.2]) s) s1

/-- The relief of the next member asked whether it answers and holds no job. -/
def State.seekRelief (s : State) (member : Nat) : State :=
  match s.candidate with
  | none => s.attemptFails 3
  | some r => s.order r true cmdQUERY member []

/-- STOP_JOB to every module of the job. -/
def State.orderStops (s : State) : State := forEach s.alive (fun s m => s.order m false cmdSTOP m [0]) (s.goStep 4)

/-- What LOAD_JOB names for a module. -/
def State.loadArgs (s : State) (m : Nat) : List Nat := [s.job.imgAddr, s.job.imgSize, s.job.seed, m, leNat s.job.sha]

/-- LOAD_JOB to every module, reliefs included. -/
def State.orderLoads (s : State) : State :=
  let s1 := (if s.running then s.stopJob else s).goStep 5
  let s2 := forEach s1.alive (fun s m => s.order m false cmdLOAD m (s.loadArgs m)) s1
  forEach s2.rcv.assigned (fun s a => s.order a.2 true cmdLOAD a.1 (s.loadArgs a.1)) s2

/-- FABRIC_ROUTE_SET to every module, where the set holds MODULE members: a relief needs its member's escrow, which the
keeper of the next module holds. -/
def State.orderRoutes (s : State) : State :=
  let lost := s.members 2
  let e := s.rd keeperU Reg.PLC_EPOCH_VALUE + 1
  if s.rcv.assigned.any (fun a => lost.contains ((a.1 + 1) % s.job.nmod)) then s.attemptFails 5
  else
    let s2 := forEach s.alive (fun s m => s.order m false cmdROUTESET m [e, m]) (s.goStep 6)
    forEach s2.rcv.assigned (fun s a => s.order a.2 true cmdROUTESET a.1 [e, a.1]) s2

/-- RESTORE to every module; a relief restores its member's escrowed checkpoint. -/
def State.orderRestores (s : State) : State :=
  forEach (s.alive ++ s.rcv.assigned.map (fun a => a.1)) (fun s m => s.order m false cmdRESTORE m [s.rcv.t, m]) (s.goStep 7)

/-- START_JOB to every module. -/
def State.orderStarts (s : State) : State :=
  forEach (s.alive ++ s.rcv.assigned.map (fun a => a.1)) (fun s m => s.order m false cmdSTART m []) (s.goStep 8)

/-- The image loaded again at the coordinator itself. -/
def State.ownLoad (s : State) (image : List Byte) (expired : Bool) : LoadEnd :=
  let pl := leBytes 8 s.job.imgAddr ++ leBytes 8 s.job.imgSize ++ leBytes 8 s.job.seed ++ leBytes 8 s.job.modId ++
    slice s.job.sha 0 32
  s.load { cmd := cmdLOAD, seq := 0, status := 0, sender := s.unitAddr keeperU, reply := false, rch := 0, prov := false,
           payload := pl } image expired

/-- The checkpoint of step T restored at the coordinator itself. -/
def State.ownRestore (s : State) (ck : List Byte) : State × Nat :=
  let ds := s.ck.dests
  match if s.rd keeperU Reg.FX_CKSTEP_LO_VALUE = s.rcv.t then ds[0]? else ds[1]? with
  | none => (s, eCOUNT)
  | some d => s.restore (leBytes 8 s.rcv.t ++ leBytes 4 d.kind ++ leBytes 4 s.job.modId ++ leBytes 8 d.dest ++
      leBytes 8 d.size ++ leBytes 8 d.ctrl) ck

/-- The job resumed: its own start, RELIEF logged, and the halts of this recovery kept for R438. -/
def State.resume (s : State) : State :=
  let s1 : State := { s with rcv := { s.rcv with oldHalts := s.rcv.halts } }
  (s1.awake.startJob.logEvent eRELIEF keeperU).attemptEnd 1

/-- The next thing that the coordinator does where nothing is awaited; none where it waits. -/
def State.recoveryNext (image ck : List Byte) (expired : Bool) (s : State) : Option State :=
  if s.rcv.step = 0 || !s.quiet then none
  else if s.rcv.step = 3 && (s.uncabled.bind s.reliefOf).isSome then none
  else if s.rcv.again then some s.attempt
  else
    match s.rcv.step with
    | 1 => some s.surveyEnd
    | 2 => some (s.goStep 3)
    | 3 => some (match s.uncabled with
      | some m => s.seekRelief m
      | none => s.orderStops)
    | 4 => some s.orderLoads
    | 5 =>
      let e := s.ownLoad image expired
      match e.2.2 with
      | none => none
      | some none => some (if e.1.rcv.assigned.isEmpty then e.1.orderRestores else e.1.orderRoutes)
      | some (some _) => some (e.1.attemptFails 7)
    | 6 => some ((s.bump keeperU Reg.PLC_EPOCH_VALUE 1).orderRestores)
    | 7 =>
      let r := s.ownRestore ck
      some (if r.2 = 0 then r.1.orderStarts else r.1.attemptFails 7)
    | _ => some s.resume

/-- The attempt carried on until it waits; a fuel of 16 covers every step. -/
def State.recover (image ck : List Byte) (expired : Bool) : Nat → State → State
  | 0, s => s
  | f + 1, s =>
    match s.recoveryNext image ck expired with
    | none => s
    | some t => State.recover image ck expired f t

/-- The attempt carried on where no image and no checkpoint can be needed. -/
def State.goOn (s : State) : State := State.recover [] [] false 16 s

/-- RELIEF_TAKEOVER (R437, R438): taken, this keeper becomes the coordinator; the reply ends the attempt. `image` and `ck`
are what another module or the host holds of the image and of the own checkpoint, where a job of one module goes through
the attempt at once. -/
def execReliefTakeover (image ck : List Byte) (s : State) : Host.Outcome State Fault Refusal :=
  done (s.short cmdRELIEF (fun s m =>
    let n := leAt m.payload 0 1
    let s1 := s.beginLong m
    let r : RecSt := { s1.rcv with reliefs := (List.range n).map (fun i => leAt m.payload (4 + 2 * i) 2), assigned := [],
                                   cabled := [], failed := [], t := 2 ^ 64 - 1 }
    if r.halts.any (fun h => r.oldHalts.contains h) then
      (({ s1 with rcv := { r with oldHalts := [] } } : State).attemptOn).attemptEnd 6
    else State.recover image ck false 16 ({ s1 with rcv := r } : State).attempt))

/-! ### The survey -/

/-- Fault-set members added, with the links among them, as suspect, kind, origin and port. -/
def State.addFaults (s : State) (l : List (Nat × Nat × Nat × Nat)) : State :=
  let links := (l.filter (fun x => x.2.1 == 1)).map (fun x => (x.1, x.2.2.1, x.2.2.2))
  let s1 : State := { s with rcv := { s.rcv with links := s.rcv.links ++ links.filter (fun x => !s.rcv.links.contains x) } }
  s1.setFaults (l.foldl (fun a x => addFault a x.1 x.2.1) s.log.faults)

/-- SURVEY_REPLY_RECEIVE (R437 step 1): a module's RCV_CKJOB and its fault set, each member as suspect, kind, and the
origin and port of its signal. -/
def execSurveyReplyReceive (module ckjob : Nat) (faults : List (Nat × Nat × Nat × Nat)) (s : State) :
    Host.Outcome State Fault Refusal :=
  if s.rcv.step = 1 && s.rcv.waiting.contains module then
    let step := ckjob % 2 ^ 64
    let r : RecSt := { s.rcv with waiting := s.rcv.waiting.filter (fun m => m != module),
                                  steps := if step = 2 ^ 64 - 1 then s.rcv.steps else s.rcv.steps ++ [step] }
    done (({ s with rcv := r } : State).addFaults faults).goOn
  else done s

/-- SURVEY_REPLY_TIMEOUT (R437): a surveyed module has not answered within REPLY_MS and joins the fault set as MODULE; with
`prov` = 1 a relief that was asked has not, and it is passed over. -/
def execSurveyReplyTimeout (module : Nat) (prov : Bool) (s : State) : Host.Outcome State Fault Refusal :=
  if prov then
    if s.kpr.asks.any (fun a => a.prov && a.cmd == cmdQUERY && a.dst == module) then
      done ({ s with kpr := { s.kpr with asks := s.kpr.asks.filter (fun a => !(a.prov && a.cmd == cmdQUERY && a.dst == module)) },
                     rcv := { s.rcv with failed := s.rcv.failed ++ [module] } } : State).goOn
    else done s
  else if s.rcv.step = 1 && s.rcv.waiting.contains module then
    done (({ s with rcv := { s.rcv with waiting := s.rcv.waiting.filter (fun m => m != module) } } : State).addFaults
      [(module, 2, module, 0)]).goOn
  else done s

/-! ### Cabling -/

/-- RELIEF_CABLED (R437 step 3): every partner port of the member shows its relief's serial. -/
def execReliefCabled (member : Nat) (s : State) : Host.Outcome State Fault Refusal :=
  if s.rcv.step = 3 && (s.reliefOf member).isSome && !s.rcv.cabled.contains member then
    done ({ s with rcv := { s.rcv with cabled := s.rcv.cabled ++ [member] } } : State).goOn
  else done s

/-- CABLE_WAIT_EXPIRY (R437 step 3, R429): CABLE_S seconds after an assignment. `near` says that the relief is cabled in the
same MCLK cycle, which counts as cabled. -/
def execCableWaitExpiry (near : Bool) (s : State) : Host.Outcome State Fault Refusal :=
  match (if s.rcv.step = 3 && s.quiet then s.uncabled else none) with
  | none => done s
  | some m =>
    if (s.reliefOf m).isNone then done s
    else if near then done ({ s with rcv := { s.rcv with cabled := s.rcv.cabled ++ [m] } } : State).goOn
    else done (s.attemptFails 4)

/-! ### Replies received (R457) -/

/-- A LINK member resolved: the link has come up, or the end with the higher job module id is a MODULE member. -/
def State.linkResult (s : State) (member : Nat) (up : Bool) : State :=
  let rest := s.log.faults.filter (fun f => !(f.1 == member && f.2 == 1))
  if !s.log.faults.any (fun f => f.1 == member && f.2 == 1) then s
  else if !up then
    let ends := (s.rcv.links.filter (fun l => l.1 == member)).map (fun l => Nat.max l.1 l.2.1)
    s.setFaults (ends.foldl (fun a m => addFault a m 2) rest)
  else if s.kpr.asks.any (fun a => a.cmd == cmdRESETUNIT && a.member == member) then s
  else s.setFaults rest

/-- A relief's answer to QUERY_DEVICE: one that holds no job is assigned, and the host told. -/
def State.reliefAnswer (s : State) (a : Ask) (m : Minil) : State :=
  if m.status = 0 && leAt m.payload 0x14 1 % 4 = 0 then
    let s1 : State := { s with rcv := { s.rcv with assigned := s.rcv.assigned ++ [(a.member, a.dst)] } }
    match s1.kpr.run with
    | none => s1
    | some q => s1.notice (q.sender / 65536 % 32768) q.rch q.seq q.prov cmdASSIGN
        (leBytes 2 a.member ++ leBytes 2 a.dst ++ leBytes 2 (s1.rd keeperU Reg.RCV_STAT_ATTEMPT))
  else { s with rcv := { s.rcv with failed := s.rcv.failed ++ [a.dst] } }

/-- What a reply to the coordinator does. -/
def State.answered (s : State) (a : Ask) (m : Minil) : State :=
  if a.cmd = cmdQUERY then s.reliefAnswer a m
  else if a.cmd = cmdRESETUNIT then s.linkResult a.member (m.status == 0)
  else if m.status = 0 then s
  else s.attemptFails (if a.cmd = cmdROUTESET then 5 else 7)

/-- MINIL_REPLY_RECEIVE (R457): the next FULL channel of the keeper's holds a reply. `image` and `ck` are what another
module or the host holds of the image and of the own checkpoint, where the reply lets the coordinator load or restore. -/
def execMinilReplyReceive (image ck : List Byte) (s : State) : Host.Outcome State Fault Refusal :=
  if !(s.firmwareRuns || s.inRecovery) then done s
  else
    match s.nextChan with
    | none => done s
    | some c =>
      let m := s.msgIn c
      if !m.reply then done s
      else
        let s1 := s.takeChan c
        match s1.kpr.asks.find? (fun a => a.seq == m.seq && a.cmd == m.cmd && m.sender % 65536 == keeperU &&
            (a.prov || m.sender / 65536 == a.dst)) with
        | none => done (s1.logEvent ePARTNER keeperU m.sender (s.rd mbxU (Reg.MBX_SRC_UNIT c)))
        | some a =>
          let s2 : State := { s1 with kpr := { s1.kpr with asks := s1.kpr.asks.filter (fun x => x.seq != a.seq) } }
          done (State.recover image ck false 16 (s2.answered a m))

/-- LOAD_CABLING_TIMEOUT (19_keeper_minil R464 step 4): the second of a load's cabling wait has ended. The load is that of a
LOAD_JOB, or the coordinator's own. -/
def execLoadCablingTimeout (image ck : List Byte) (s : State) : Host.Outcome State Fault Refusal :=
  if s.rcv.step = 5 then done (State.recover image ck true 16 s)
  else done (s.long cmdLOAD true noTake (fun s m => (s.load m image true).answer m))

/-! ### Fog signals received (R432, R433, R439, R440) -/

/-- A signal from its bytes (Table 18-5). -/
def Fog.ofBytes (bs : List Byte) : Fog :=
  { origin := leAt bs 0 2, suspect := leAt bs 2 2, code := leAt bs 4 2, kind := leAt bs 6 1 % 4, port := leAt bs 6 1 / 16,
    hops := leAt bs 7 1, epoch := leAt bs 8 4, fseq := leAt bs 0x0C 4, step := leAt bs 0x10 8, time := leAt bs 0x18 8 }

/-- Whether a signal's fault is independent of those of the recovery window (R439). Once routes have been set, a member's
fault is its relief's. -/
def State.independent (s : State) (f : Fog) : Bool :=
  decide (2 ≤ s.rd keeperU Reg.RCV_STAT_STATE) && f.code != eSTOPPED && f.code != eTIMEOUT &&
    (!s.log.faults.any (fun x => x.1 == f.suspect) || (decide (7 ≤ s.rcv.step) && (s.reliefOf f.suspect).isSome))

/-- An independent fault: COMPOUND_FAULT logged; at the coordinator a new attempt is due, a relief that has failed is not
offered again, and a lost module's answer is not waited for. -/
def State.compound (s : State) (f : Fog) : State :=
  let k (r : Field) : Nat := s.rd keeperU r
  let s1 := (s.pushEntry (s.newEntry eCOMPOUND cMODULE false (s.unitAddr keeperU) s.log.faults.length
    (k Reg.RCV_STAT_ATTEMPT) f.suspect s.rcv.t)).bump keeperU Reg.RCV_COMPOUND_COUNT 1
  if k Reg.RCV_STAT_COORD = 0 then s1
  else
    let relief := if 7 ≤ s.rcv.step then (s.reliefOf f.suspect).toList else []
    let gone (m : Nat) : Bool := f.kind == 2 && m == f.suspect
    ({ s1 with
       rcv := { s1.rcv with again := true, failed := s1.rcv.failed ++ relief,
                            waiting := s1.rcv.waiting.filter (fun m => !gone m) }
       kpr := { s1.kpr with asks := s1.kpr.asks.filter (fun a => !(gone a.member && !a.prov)) } } : State).goOn

/-- FOG_RECEIVE: a signal in a CTRL flit with NBR = 1 on a port. -/
def execFogReceive (port : Nat) (data : List Byte) (s : State) : Host.Outcome State Fault Refusal :=
  let f := Fog.ofBytes data
  if !s.firmwareRuns || s.log.seen.contains (f.origin, f.fseq) then done s
  else
    let held := s.job.st != .noJob
    let s1 : State := { s with log := { s.log with seen := (f.origin, f.fseq) :: s.log.seen } }
    if held && f.epoch ≠ s1.rd keeperU Reg.PLC_EPOCH_VALUE then done s1
    else
      let s2 := s1.flood { f with hops := (f.hops + 1) % 256 } port
      if !held then done s2
      else
        let s3 := s2.logEvent eFOG keeperU (f.origin + 2 ^ 32 * f.fseq) f.code f.suspect port
        let s4 := (s3.noteFog f).fogActions f (65536 * f.origin)
        done (if s3.independent f then s4.compound f else s4)

/-- STEP_WATCHDOG_EXPIRY (R429, R430): STEP_MS ms after a release. `near` says that the decision arrived in the same MCLK
cycle. -/
def execStepWatchdogExpiry (near : Bool) (s : State) : Host.Outcome State Fault Refusal :=
  if !s.fix.watch then done s
  else if near then done (s.bump keeperU Reg.RCV_NEARMISS_COUNT 1)
  else done (s.logHalt eTIMEOUT keeperU 0xFFFF 0 0 (475000 * s.rd keeperU Reg.RCV_CFG_STEP_MS))

end Sys2Proof.Machine
end

