-- ==== Sys2Proof/Machine/Reduce.lean ====
section
/-!
DEFINITION. The reduction units at work: segments of the ring, flag words, the check path and its tree, and what a fault
does (13_gradient_reduction R318 to R328, R522).
-/
namespace Sys2Proof.Machine

/-- How a reduction unit reaches memory: lane or check unit `n`, through the translation unit that serves its die. -/
def State.rdAgent (s : State) (n : Nat) : Agent := ⟨s.unitAddr (rdU n), rowFourTu (32 + n), 6⟩

/-! ### Staged values -/

/-- What a reduction unit has read and written: the state, and the error code and address of the access that met one. -/
structure RdAcc where
  st : State
  err : Nat
  addr : Nat

/-- A read of staged bytes. -/
def RdAcc.read (a : RdAcc) (ag : Agent) (va n : Nat) : RdAcc × List Byte :=
  if a.err ≠ 0 then (a, [])
  else
    let (s1, r) := a.st.vread ag va n permRead
    (⟨s1, r.err, r.addr⟩, r.data)

/-- The contributions of a run of elements, partial by partial: each element's own 48-bit sum, the clamps and non-finite
values met, the saturations, and the largest magnitude (R314, R319, R320). -/
structure Contrib where
  acc : RdAcc
  sums : List Nat
  clamp : Nat
  nonfin : Nat
  sat : Nat
  amax : Nat

/-- One element's values by ascending partial number, summed. -/
def elemSum (rshift : Int) (vs : List Nat) : Nat × Nat × Nat × Nat × Nat :=
  vs.foldl (fun (p : Nat × Nat × Nat × Nat × Nat) v =>
    let (sum, cl, nf, st, am) := p
    let (c, clamped, bad) := contribution rshift v
    let (s1, sat) := sum48 (sext 48 sum + c)
    (s1, cl + b2n clamped, nf + b2n bad, st + b2n sat, amaxBits am (v % 2 ^ 31))) (0, 0, 0, 0, 0)

/-- The module's own sums of `n` elements from element `e0`. -/
def State.contribs (s : State) (ag : Agent) (e : RedEnt) (rshift : Int) (e0 n : Nat) : Contrib :=
  let (a, parts) := (List.range e.npart).foldl (fun (p : RdAcc × List (List Nat)) j =>
    let (a, bs) := p.1.read ag ((e.stage + 4 * (j * e.nelem + e0)) % 2 ^ 64) (4 * n)
    (a, p.2 ++ [codesOf 32 n bs])) (⟨s, 0, 0⟩, [])
  (List.range n).foldl (fun (c : Contrib) i =>
    let (sum, cl, nf, st, am) := elemSum rshift (parts.map (fun l => l.getD i 0))
    { c with sums := c.sums ++ [sum], clamp := c.clamp + cl, nonfin := c.nonfin + nf, sat := c.sat + st,
             amax := amaxBits c.amax am }) ⟨a, [], 0, 0, 0, 0⟩

/-! ### The ring (R318, R322) -/

/-- Whether a lane may send a segment: the layer has started and was not stopped, the segment is not sent, its incoming
sums are there, and every layer that started before has sent all its segments of the lane. -/
def State.segReady (s : State) (e : RedEnt) (p layer j : Nat) : Bool :=
  let l := s.redLayer layer
  let before := s.red.order.takeWhile (fun n => n != layer)
  s.redStarted layer && !l.fault && decide (j < e.segs) && !l.sent.contains j &&
  (e.first p (e.chunkOf j) || l.inbox.any (fun x => x.1 == j)) &&
  before.all (fun n =>
    (s.redLayer n).fault ||
    (match s.redEnt n with
     | none => true
     | some (e1, _) => ((List.range e1.segs).filter (fun i => i % 4 == j % 4)).all (fun i => (s.redLayer n).sent.contains i)))

/-- A segment at this position: the module's own contributions added to the incoming sums (R320, R322), with the fault
met in place of a result. -/
def State.segmentSend (s : State) (e : RedEnt) (p layer j : Nat) : State × Option (Nat × Nat) :=
  let lane := j % 4
  let ag := s.rdAgent lane
  let r := e.chunkOf j
  let n := e.elems j
  let c := s.contribs ag e (s.rshift layer) (40 * j) n
  if c.acc.err ≠ 0 then (c.acc.st, some (c.acc.err, c.acc.addr))
  else
    let l := c.acc.st.redLayer layer
    let inc := mget l.inbox j []
    let outs := (List.range 40).map (fun i =>
      if i < n then
        (if e.first p r then (c.sums.getD i 0, false) else add48 (inc.getD i 0) (c.sums.getD i 0))
      else (inc.getD i 0, false))
    let sums := outs.map (fun x => x.1)
    let sat := c.sat + (outs.filter (fun x => x.2)).length
    let o := mget l.own r (0, 0)
    let flags := o.1 ||| b2n (decide (0 < c.nonfin)) ||| 2 * b2n (decide (0 < c.clamp + sat))
    let l1 : RedLayer := { l with inbox := mdel l.inbox j, sent := j :: l.sent,
                                  own := mset (0, 0) l.own r (flags, amaxBits o.2 c.amax) }
    let u := rdU lane
    let s1 := ((c.acc.st.setRedLayer layer l1).bump u Reg.RD_CLAMP_COUNT c.clamp).bump u Reg.RD_NONFIN_COUNT c.nonfin
    let s2 := (s1.bump u Reg.RD_SAT_COUNT sat).addEvents u layer ⟨c.clamp + sat, c.nonfin, 0⟩
    if p = r then
      let (s3, w) := s2.vwrite ag ((e.sums + 6 * (40 * j - 40 * e.lo r)) % 2 ^ 64) (sumBytes (sums.take n))
      if w.err ≠ 0 then (s3, some (w.err, w.addr)) else (s3, none)
    else
      let s3 := (s2.emit (.reduction 2 (e.moduleAt (p + 1)) layer j s2.step32 (sumBytes sums))).bump u Reg.RD_SEGS_COUNT 1
      (s3, none)

/-- A receive buffer given back to the port of a lane from which a segment was taken, where one was kept (R324). -/
def State.laneTaken (s : State) (lane : Nat) : State :=
  let p := 2 * lane + 1
  let x := s.port p
  if x.heldSeg = 0 then s else (s.setPort p { x with heldSeg := x.heldSeg - 1 }).freeBuf p 2

/-- A partner's flit that disagrees in layer or step is discarded and logged (R323). -/
def State.redStray (s : State) (u layer step : Nat) : State := s.logEvent ePARTNER u layer step

/-! ### The check path (R325 to R327) -/

/-- The sampled elements of a layer in a step, ascending (R325). -/
def sampled (nelem step : Nat) : List Nat :=
  (List.range nelem).filter (fun e => srWord 0 step 0xFFFFFF e % 1024 == 0)

/-- The children of a position in the tree of R326. -/
def treeKids (p len : Nat) : List Nat := ((List.range 8).map (fun i => 8 * p + 1 + i)).filter (fun c => decide (c < len))

def treeParent (p : Nat) : Nat := (p - 1) / 8

/-- Sums by rank sent as CHK flits of 40 to a position. -/
def State.sendTotals (s : State) (e : RedEnt) (dst layer n : Nat) (tot : SMap Nat) : State :=
  forEach (List.range (ceilDiv n 40)) (fun s k =>
    s.emit (.reduction 4 (e.moduleAt dst) layer (40 * k) s.step32
      (sumBytes ((List.range (Nat.min 40 (n - 40 * k))).map (fun i => mget tot (40 * k + i) 0))))) s

/-- The extremes of a 48-bit sum, at which it counts as saturated. -/
def saturated48 (v : Nat) : Bool := v % 2 ^ 48 == 2 ^ 47 || v % 2 ^ 48 == 2 ^ 47 - 1

/-- The owner's comparison of its own chunk's sampled sums with the tree totals (R327), with the fault met. -/
def State.compareSamples (s : State) (e : RedEnt) (p layer : Nat) (tot : SMap Nat) : State × Option (Nat × Nat) :=
  let ag := s.rdAgent 4
  let lo := 40 * e.lo p
  let hi := 40 * e.lo (p + 1)
  let (a, _) := (sampled e.nelem s.step32).zipIdx.foldl (fun (q : RdAcc × Nat) x =>
    if x.1 < lo || hi ≤ x.1 then q
    else
      let (a, bs) := q.1.read ag ((e.sums + 6 * (x.1 - lo)) % 2 ^ 64) 6
      if a.err ≠ 0 then (a, 0)
      else
        let ring := leNat bs
        let tree := mget tot x.2 0
        if saturated48 ring || saturated48 tree then (a, 0)
        else
          let s1 := a.st.bump (rdU 4) Reg.RD_SAMPLES_COUNT 1
          ({ a with st := if ring = tree then s1 else s1.redMismatch (rdU 4) layer x.1 ring tree false }, 0)) (⟨s, 0, 0⟩, 0)
  (a.st, if a.err = 0 then none else some (a.err, a.addr))

/-- The totals at a position: sent down to the children, and compared once the position's own chunk is written. -/
def State.totalsHere (s : State) (e : RedEnt) (p layer n : Nat) : State × Option (Nat × Nat) :=
  let l := s.redLayer layer
  if l.samples.isSome && l.upSent && !l.compared && decide (l.down.length = n) && s.redDelivered layer then
    match s.compareSamples e p layer l.down with
    | (s1, some f) => (s1, some f)
    | (s1, none) => (s1.setRedLayer layer { s1.redLayer layer with compared := true }, none)
  else (s, none)

/-- Totals passed down the tree once they are all here. -/
def State.passDown (s : State) (e : RedEnt) (p layer n : Nat) (tot : SMap Nat) : State :=
  forEach (treeKids p e.len) (fun s c => s.sendTotals e c layer n tot) (s.setRedLayer layer { s.redLayer layer with down := tot })

/-- Sums sent up once the module's own and all the children's are here; position 0 has the totals (R326). -/
def State.sumsUp (s : State) (e : RedEnt) (p layer n : Nat) : State :=
  let l := s.redLayer layer
  let kids := treeKids p e.len
  match l.samples with
  | none => s
  | some own =>
    if l.upSent || !kids.all (fun c => decide ((mget l.childTot c []).length = n)) then s
    else
      let (tot, sat) := (List.range n).foldl (fun (q : SMap Nat × Nat) i =>
        let (v, k) := kids.foldl (fun (x : Nat × Nat) c =>
          let (w, st) := add48 x.1 (mget (mget l.childTot c []) i 0)
          (w, x.2 + b2n st)) (mget own i 0, 0)
        (mins q.1 i v, q.2 + k)) ([], 0)
      let s1 := (s.setRedLayer layer { l with upSent := true }).bump (rdU 4) Reg.RD_SAT_COUNT sat
      if p = 0 then s1.passDown e p layer n tot else s1.sendTotals e (treeParent p) layer n tot

/-- The layer word stored at L0 and passed down (R326, R327). -/
def State.storeWord (s : State) (e : RedEnt) (p layer : Nat) (w : FlagWord) : State :=
  let s1 := s.setRedLayer layer { s.redLayer layer with stored := some w }
  let s2 := s1.putBytes (epAddr (rdU 0) (0x10000 + 16 * layer)) w.bytes
  forEach (treeKids p e.len) (fun s c => s.emit (.reduction 5 (e.moduleAt c) layer 1 s.step32 w.bytes)) s2

/-- The flag word sent up once the module's own chunk has its word and all the children's are here; position 0 has the
layer word and checks HOPS (R326). -/
def State.wordUp (s : State) (e : RedEnt) (p layer : Nat) : State :=
  let l := s.redLayer layer
  let kids := treeKids p e.len
  match l.final with
  | none => s
  | some f =>
    if l.upWord || !kids.all (fun c => l.childWord.any (fun x => x.1 == c)) then s
    else
      let w := kids.foldl (fun (a : FlagWord) c => match l.childWord.find? (fun x => x.1 == c) with
        | some x => a.join x.2
        | none => a) { f with hops := 1 }
      let s1 := s.setRedLayer layer { l with upWord := true }
      if p = 0 then
        let s2 := if w.hops = e.len then s1 else s1.redMismatch (rdU 4) layer max32 0 0 true
        s2.storeWord e p layer w
      else s1.emit (.reduction 5 (e.moduleAt (treeParent p)) layer 0 s.step32 w.bytes)

/-- Everything of the check path that can go on at a position. -/
def State.checkGoOn (s : State) (layer : Nat) : State × Option (Nat × Nat) :=
  match s.redEnt layer with
  | none => (s, none)
  | some (e, p) =>
    if (s.redLayer layer).fault || !s.redStarted layer then (s, none)
    else
      let n := (sampled e.nelem s.step32).length
      let (s1, f) := (((s.sumsUp e p layer n).wordUp e p layer).totalsHere e p layer n)
      (s1.redStat, f)

/-- The module's own sums of the sampled elements (R326), with the fault met. -/
def State.readSamples (s : State) (e : RedEnt) (layer : Nat) : State × Option (Nat × Nat) :=
  let ag := s.rdAgent 4
  let (s1, own, f) := (sampled e.nelem s.step32).foldl (fun (q : State × List Nat × Option (Nat × Nat)) x =>
    if q.2.2.isSome then q
    else
      let c := q.1.contribs ag e (s.rshift layer) x 1
      (c.acc.st, q.2.1 ++ c.sums, if c.acc.err = 0 then none else some (c.acc.err, c.acc.addr))) (s, [], none)
  (s1.setRedLayer layer { s1.redLayer layer with samples := some (own.zipIdx.map (fun x => (x.2, x.1))) }, f)

/-- The check path after a change at this position; an access that faults is left to REDUCTION_FAULT. -/
def State.redOn (s : State) (layer : Nat) : State :=
  match s.checkGoOn layer with
  | (s1, none) => s1
  | (_, some _) => s

/-! ### The commands of the reduction units -/

/-- LANE_SEGMENT_SEND (R318, R322): a lane takes one segment of a started layer, sums it, and forwards or writes it. -/
def execLaneSegmentSend (layer seg : Nat) (upsets : List (Nat × Nat)) (s0 : State) : Host.Outcome State Fault Refusal :=
  let s := s0.upset upsets
  match s.redEnt layer with
  | none => done s
  | some (e, p) =>
    if s.segReady e p layer seg then
      match s.segmentSend e p layer seg with
      | (s1, none) =>
        let s2 := if e.first p (e.chunkOf seg) then s1 else s1.laneTaken (seg % 4)
        done ((s2.redWords layer).redOn layer)
      | (_, some _) => done s
    else done s

/-- RD_READY (R317, R318): an 8-byte ready word reaches the L0 unit. -/
def execRdReady (layer step : Nat) (s : State) : Host.Outcome State Fault Refusal :=
  done ((s.rdReady (layer % 65536) (step % 2 ^ 32)).redStat.ok)

/-- RSEG_RECEIVE (R323, R324): a segment of a chunk arrives on a lane with the low 9 bits of its step. -/
def execRsegReceive (layer seg step : Nat) (data : List Byte) (s : State) : Host.Outcome State Fault Refusal :=
  let u := rdU (seg % 4)
  match s.redEnt layer with
  | none => done (s.redStray u layer step)
  | some (e, p) =>
    let l := s.redLayer layer
    if step % 512 = s.step32 % 512 && seg < e.segs && !e.first p (e.chunkOf seg) && !l.sent.contains seg &&
        !l.inbox.any (fun x => x.1 == seg) then
      done (s.setRedLayer layer { l with inbox := mins l.inbox seg (sumsOf 40 data) })
    else done (s.redStray u layer step)

/-- RWORD_RECEIVE (R322, R323): the flag word of a chunk arrives on a lane. -/
def execRwordReceive (lane chunk : Nat) (data : List Byte) (s : State) : Host.Outcome State Fault Refusal :=
  let w := FlagWord.ofBytes data
  let u := rdU (lane % 4)
  match s.redEnt w.layer with
  | none => done (s.redStray u w.layer w.step)
  | some (e, p) =>
    let l := s.redLayer w.layer
    if w.step = s.step32 && chunk < e.len && !e.first p chunk && !l.wordIn.any (fun x => x.1 == chunk) then
      done ((s.setRedLayer w.layer { l with wordIn := (chunk, w) :: l.wordIn }).redWords w.layer |>.redOn w.layer)
    else done (s.redStray u w.layer w.step)

/-- CHECK_SAMPLE_READ (R326): the L4 unit reads and sums the sampled elements; or, once it has, takes the words and sums
that the ring has finished since. -/
def execCheckSampleRead (layer : Nat) (upsets : List (Nat × Nat)) (s0 : State) : Host.Outcome State Fault Refusal :=
  let s := s0.upset upsets
  match s.redEnt layer with
  | none => done s
  | some (e, _) =>
    let l := s.redLayer layer
    if !s.redStarted layer || l.fault then done s
    else
      let (s1, f) := if l.samples.isSome then (s, none) else s.readSamples e layer
      if f.isSome then done s
      else
        match s1.checkGoOn layer with
        | (s2, none) => done s2
        | (_, some _) => done s

/-- CHK_RECEIVE (R326, R327): totals of sampled elements from rank `ord` on arrive from a position of the tree. -/
def execChkReceive (layer pos ord step : Nat) (data : List Byte) (s : State) : Host.Outcome State Fault Refusal :=
  match s.redEnt layer with
  | none => done (s.redStray (rdU 4) layer step)
  | some (e, p) =>
    let n := (sampled e.nelem s.step32).length
    let k := Nat.min 40 (n - ord)
    let l := s.redLayer layer
    let put (m : SMap Nat) : SMap Nat := (sumsOf k data).zipIdx.foldl (fun m x => mins m (ord + x.2) x.1) m
    if step % 512 ≠ s.step32 % 512 || n ≤ ord || l.fault then done (s.redStray (rdU 4) layer step)
    else if (treeKids p e.len).contains pos then
      let s1 := s.setRedLayer layer { l with childTot := mins l.childTot pos (put (mget l.childTot pos [])) }
      done (s1.redOn layer)
    else if 0 < p && pos = treeParent p then
      let tot := put l.down
      let s1 := if tot.length = n then s.passDown e p layer n tot else s.setRedLayer layer { l with down := tot }
      done (s1.redOn layer)
    else done (s.redStray (rdU 4) layer step)

/-- CWORD_RECEIVE (R326, R327): a flag word arrives from a position of the tree. -/
def execCwordReceive (pos : Nat) (data : List Byte) (s : State) : Host.Outcome State Fault Refusal :=
  let w := FlagWord.ofBytes data
  match s.redEnt w.layer with
  | none => done (s.redStray (rdU 4) w.layer w.step)
  | some (e, p) =>
    let l := s.redLayer w.layer
    if w.step ≠ s.step32 || l.fault then done (s.redStray (rdU 4) w.layer w.step)
    else if (treeKids p e.len).contains pos then
      let s1 := s.setRedLayer w.layer { l with childWord := (pos, w) :: l.childWord.filter (fun x => !(x.1 == pos)) }
      done (s1.redOn w.layer)
    else if 0 < p && pos = treeParent p then
      let s1 := (s.storeWord e p w.layer w).redStat
      done s1
    else done (s.redStray (rdU 4) w.layer w.step)

/-! ### Faults (R522) -/

/-- The fault that an access of a layer meets now: its unit, error code and address. -/
def State.redFaultNow (s : State) (e : RedEnt) (p layer : Nat) : Option (State × Nat × Nat × Nat) :=
  let seg := (List.range e.segs).find? (fun j => s.segReady e p layer j && (s.segmentSend e p layer j).2.isSome)
  match seg with
  | some j =>
    match s.segmentSend e p layer j with
    | (s1, some (c, a)) => some (s1, rdU (j % 4), c, a)
    | (_, none) => none
  | none =>
    let l := s.redLayer layer
    let (s1, f) := if l.samples.isSome then (s, none) else s.readSamples e layer
    match f with
    | some (c, a) => some (s1, rdU 4, c, a)
    | none =>
      match s1.checkGoOn layer with
      | (s2, some (c, a)) => some (s2, rdU 4, c, a)
      | (_, none) => none

/-- REDUCTION_FAULT (R522): an access of a layer's reduction meets a translation, protection or ECC fault: the layer stops
at this module, and the entry raises a fog signal. -/
def execReductionFault (layer : Nat) (upsets : List (Nat × Nat)) (s0 : State) : Host.Outcome State Fault Refusal :=
  let s := s0.upset upsets
  match s.redEnt layer with
  | none => done s
  | some (e, p) =>
    if !s.redStarted layer || (s.redLayer layer).fault then done s
    else
      match s.redFaultNow e p layer with
      | none => done s
      | some (s1, u, code, addr) =>
        let t := tuU (rowFourTu (dieOf u))
        let info := s1.rd t Reg.TU_FINFO_CAUSE + s1.rd t Reg.TU_FINFO_LEVEL * 16 + s1.rd t Reg.TU_FINFO_AGENT * 64
        let s2 : State := { s1 with red := s.red }
        let s3 := (s2.setRedLayer layer { s2.redLayer layer with fault := true }).wr u Reg.RD_STAT_FAULTED 1
        done (s3.logHalt code u addr info layer 0)

end Sys2Proof.Machine
end

