-- ==== Sys2Proof/Machine/Sideband.lean ====
section
/-!
DEFINITION. The SMBus target and the test access port (20_darkroom_security R488, R489; 22_connectors_startup R510 to R512,
R518).
-/
namespace Sys2Proof.Machine

/-! ### SMBus (R510, R511) -/

/-- A command answered: one with a wrong PEC, or one for the keeper while its firmware does not run, is NACKed and counted. A
module without power does not answer. -/
def State.smbAnswer (s : State) (pecOk keeper : Bool) (data : List Byte) : State :=
  if !s.sb.good then s
  else if !pecOk || (keeper && !s.firmwareRuns) then (s.bump sbU Reg.SB_SMBERR_COUNT 1).emit (.smb false [])
  else s.emit (.smb true data)

/-- STATUS: SB_STAT bits [7:0]. -/
def execStatus (pecOk : Bool) (s : State) : Host.Outcome State Fault Refusal :=
  done (s.smbAnswer pecOk false (leBytes 1 (s.readWord sbU 0).1))

/-- RESET_CAUSE. -/
def execResetCause (pecOk : Bool) (s : State) : Host.Outcome State Fault Refusal :=
  done (s.smbAnswer pecOk false (leBytes 1 s.sb.cause))

/-- SERIAL. -/
def execSerial (pecOk : Bool) (s : State) : Host.Outcome State Fault Refusal :=
  done (s.smbAnswer pecOk false (leBytes 8 s.serial))

/-- POWER: PWR_VIN, PWR_IIN, PWR_PIN and PWR_TEMP. -/
def execPower (pecOk : Bool) (s : State) : Host.Outcome State Fault Refusal :=
  done (s.smbAnswer pecOk true ([0x900104, 0x900108, 0x90010c, 0x900114].flatMap (fun o => leBytes 4 (s.readWord keeperU o).1)))

/-- COOL: PWR_COOL. -/
def execCool (pecOk : Bool) (s : State) : Host.Outcome State Fault Refusal :=
  done (s.smbAnswer pecOk true (leBytes 4 (s.readWord keeperU 0x900118).1))

/-- PWR_CAP as the keeper writes it (21_power_cooling R502): clamped to 4,000 to 9,600 W. -/
def State.setCap (s : State) (w : Nat) : State := s.wr keeperU Reg.PWR_CAP_W (Nat.max 4000 (Nat.min 9600 w))

/-- SET_CAP: a cap in W. -/
def execSetCap (w : Nat) (pecOk : Bool) (s : State) : Host.Outcome State Fault Refusal :=
  let t := s.smbAnswer pecOk true []
  done (if s.sb.good && pecOk && s.firmwareRuns then t.setCap (w % 65536) else t)

/-- GET_CAP: PWR_CAP.W. -/
def execGetCap (pecOk : Bool) (s : State) : Host.Outcome State Fault Refusal :=
  done (s.smbAnswer pecOk true (leBytes 2 (s.rd keeperU Reg.PWR_CAP_W)))

/-- The target's 7-bit address (R510). -/
def State.smbAddress (s : State) : Nat := 0x58 + s.rd sbU Reg.SB_STAT_SLOT

/-- SMB_ALERT_RESPONSE (R512): a read of the Alert Response Address releases SMB_ALERT_N and is answered with the target's
address, in bits [7:1]; a target that asserts nothing does not answer. -/
def execSmbAlertResponse (s : State) : Host.Outcome State Fault Refusal :=
  if s.sb.good && s.sb.alert then
    done (({ s with sb := { s.sb with alert := false } } : State).emit (.smb true (leBytes 1 (2 * s.smbAddress))))
  else done s

/-- SMB_CLOCK_LOW_TIMEOUT (R510): the target gives up the transfer in progress. Each command here is one whole transfer, so
none is in progress. -/
def execSmbClockLowTimeout (s : State) : Host.Outcome State Fault Refusal := done s

/-! ### Boundary scan (R488, R489, R518) -/

/-- A data register shifted by as many bits as come in on TDI: what goes out on TDO, and what the register then holds. -/
def shiftDr (cap tdi : List Bool) : List Bool × List Bool := ((cap ++ tdi).take tdi.length, (cap ++ tdi).drop tdi.length)

/-- The bits of a byte string as a data register shifts them: byte 0 first, least significant bit first. -/
def bitsOfBytes (l : List Byte) : List Bool := l.flatMap (fun b => (List.range 8).map (fun i => bitAt b.toNat i))

/-- Whether the port is open. -/
def State.tapOpen (s : State) : Bool := s.rd dkrU Reg.DKR_STAT_JTAG_OPEN == 1

/-- A scan of a data register under an instruction, and the port after it. -/
def State.scan (s : State) (ir : Nat) (cap tdi : List Bool) : State :=
  ({ s with tap := { s.tap with ir := ir } } : State).emit (.tdo (shiftDr cap tdi).1)

/-- A scan of the bypass register, which captures a 0. -/
def State.scanBypass (s : State) (tdi : List Bool) : State := s.scan 0xFF [false] tdi

/-- A scan of the boundary register, whose cells capture `pins`; a locked port bypasses it. -/
def State.scanBoundary (s : State) (ir : Nat) (pins tdi : List Bool) : State :=
  if s.tapOpen then
    let t := s.scan ir pins tdi
    { t with tap := { t.tap with bsr := (shiftDr pins tdi).2 } }
  else s.scanBypass tdi

/-- EXTEST. -/
def execExtest (pins tdi : List Bool) (s : State) : Host.Outcome State Fault Refusal :=
  done (if s.sb.good then s.scanBoundary 0x00 pins tdi else s)

/-- SAMPLE/PRELOAD. -/
def execSamplePreload (pins tdi : List Bool) (s : State) : Host.Outcome State Fault Refusal :=
  done (if s.sb.good then s.scanBoundary 0x02 pins tdi else s)

/-- IDCODE. -/
def execIdcode (tdi : List Bool) (s : State) : Host.Outcome State Fault Refusal :=
  done (if s.sb.good then s.scan 0x01 (bitsOfBytes (leBytes 4 0x1034045B)) tdi else s)

/-- BYPASS, and every code that acts as it. -/
def execBypass (tdi : List Bool) (s : State) : Host.Outcome State Fault Refusal :=
  done (if s.sb.good then s.scanBypass tdi else s)

/-- DKR_CHAL (R488): a challenge drawn fresh at each capture. -/
def execDkrChal (tdi : List Bool) (s : State) : Host.Outcome State Fault Refusal :=
  if s.sb.good then
    let (c, t) := s.freshBytes 32
    done (({ t with dkr := { t.dkr with chal := some c } } : State).scan 0x10 (bitsOfBytes c) tdi)
  else done s

/-- The conditions of R488 on a token (Table 20-5). -/
def State.tokenOpens (s : State) (tok : List Byte) : Bool :=
  let pub := slice tok 0x30 64
  s.job.st == .noJob && s.rd dkrU Reg.DKR_STAT_SCRUBBED == 1 && decide (tok.length = 192) && leAt tok 0 4 == 0x4C555856 &&
    leAt tok 8 8 == s.serial && s.dkr.chal == some (slice tok 0x10 32) &&
    sha256 pub == (if s.ownerSet then s.ownerHash else s.rootHash) && ecdsaVerify pub (slice tok 0x80 64) (sha256 (slice tok 0 0x80))

/-- DKR_UNLOCK (R488, R489); `withLoad` says that a LOAD_JOB reaches its admission checks in the same MCLK cycle. -/
def execDkrUnlock (token : List Byte) (withLoad : Bool) (s : State) : Host.Outcome State Fault Refusal :=
  if !s.sb.good then done s
  else
    let t : State := { s with tap := { s.tap with ir := 0x11 } }
    done (if s.tokenOpens token && !withLoad then t.wr dkrU Reg.DKR_STAT_JTAG_OPEN 1 else t.bump dkrU Reg.DKR_UNLOCKFAIL_COUNT 1)

/-- TAP_RESET (R489): TRST_N or Test-Logic-Reset closes the port and selects IDCODE. -/
def execTapReset (s : State) : Host.Outcome State Fault Refusal :=
  done (({ s with tap := {} } : State).wr dkrU Reg.DKR_STAT_JTAG_OPEN 0)

end Sys2Proof.Machine
end

