-- ==== Sys2Proof/Machine/Stage.lean ====
section
/-!
DEFINITION. The stage queues of link die L5: entries sent, arriving, waited for and released (17_multi_module_jobs R409 to
R414, R421).
-/
namespace Sys2Proof.Machine

/-- The stage queues as they reach DRAM (R409): through the translation unit of C23. -/
def State.stageAgent (s : State) (ep : Nat) : Agent := ⟨s.unitAddr (stageU ep), 23, 7⟩

/-- The STG flits of an entry (R410). -/
def stageFlits (esize : Nat) : Nat := ceilDiv esize 240

/-- Bits [11:0] of the placement epoch in force. -/
def State.epoch12 (s : State) : Nat := s.rd keeperU Reg.PLC_EPOCH_VALUE % 4096

/-- The flits of an entry handed to the port, the first and last of them marked (R410, R413). -/
def State.emitEntry (s : State) (ep q mb : Nat) (bs : List Byte) : State :=
  let n := stageFlits bs.length
  forEach (List.range n) (fun s i =>
    s.emit (.stg (10 + ep) 0 q (i == 0) (i + 1 == n) s.epoch12 mb (slice bs (240 * i) 240))) s

/-- STAGE_ENTRY_SEND (R410, R421): the next posted entry is sent once the partner ring has a free slot; `held` is how many
MCLK it has waited for one. A read of its source that meets an error ends the post with that error. -/
def execStageEntrySend (ep queue held : Nat) (upsets : List (Nat × Nat)) (s0 : State) : Host.Outcome State Fault Refusal :=
  let e := ep % 2
  let q := queue % 8
  let s := s0.upset upsets
  let x := s.stq (sendKey e q)
  match x.posts with
  | [] => done s
  | p :: rest =>
    if s.running && x.live && x.sent - x.freed < x.depth && s.epochsAgree e then
      let s1 := s.bump (stageU e) (Reg.STQ_HELD_COUNT q) held
      let (s2, r) := s1.vread (s1.stageAgent e) p.va x.esize permRead
      if r.err ≠ 0 then
        done (((s2.setStq (sendKey e q) { x with posts := rest }).logEvent r.err (stageU e) r.addr).answerHeld p.src
          (postKey (sendKey e q) p.n) r.err)
      else
        done ((s2.setStq (sendKey e q) { x with posts := rest, sending := x.sending ++ [p], sent := x.sent + 1 }).emitEntry e q p.mb
          r.data)
    else done s

/-- A load that waited for an entry answered (R411). -/
def State.answerWaits (s : State) (k n : Nat) : State :=
  let x := s.stq k
  let hit := x.waits.filter (fun w => w.1 == n)
  forEach hit (fun s w => s.emit (.entry w.2 (x.entryWord n))) (s.setStq k { x with waits := x.waits.filter (fun w => !(w.1 == n)) })

/-- STAGE_ENTRY_ARRIVE (R410, R411, R421): an entry's flits have come; it is written into its ring slot. Flits of another
epoch are counted and discarded. -/
def execStageEntryArrive (ep queue mb epoch : Nat) (data : List Byte) (upsets : List (Nat × Nat)) (s0 : State) :
    Host.Outcome State Fault Refusal :=
  let e := ep % 2
  let q := queue % 8
  let s := s0.upset upsets
  let k := recvKey e q
  let x := s.stq k
  if epoch % 4096 ≠ s.epoch12 then done (s.bump keeperU Reg.PLC_STALE_COUNT (stageFlits x.esize))
  else if s.running && x.live && x.arrived - x.released < x.depth then
    let slot := x.arrived % x.depth
    let (s1, r) := s.vwrite (s.stageAgent e) ((x.ring + slot * x.esize) % 2 ^ 64) (slice data 0 x.esize)
    if r.err ≠ 0 then done (s1.logEvent r.err (stageU e) r.addr)
    else
      let s2 := s1.setStq k { x with arrived := x.arrived + 1, mbs := mset 0 x.mbs slot (mb % 65536) }
      done ((s2.wr (stageU e) (Reg.STQ_ARR_COUNT q) (x.arrived + 1)).answerWaits k x.arrived)
  else done s

/-- STAGE_POST_COMPLETE (R410): every byte of the oldest entry on its way is in the ring, so the post's store completes. -/
def execStagePostComplete (ep queue : Nat) (s : State) : Host.Outcome State Fault Refusal :=
  let e := ep % 2
  let q := queue % 8
  let k := sendKey e q
  let x := s.stq k
  match x.sending with
  | [] => done s
  | p :: rest =>
    let s1 := (s.setStq k { x with sending := rest }).wr (stageU e) (Reg.STQ_SENT_COUNT q)
      (s.rd (stageU e) (Reg.STQ_SENT_COUNT q) + 1)
    done (s1.answerHeld p.src (postKey k p.n) 0)

/-- STAGE_ENTRY_WAIT (R411): an 8-byte load at place `index` of a queue's wait window. -/
def execStageEntryWait (src ep queue index : Nat) (s : State) : Host.Outcome State Fault Refusal :=
  let e := ep % 2
  let q := queue % 8
  match s.stqLoad e q (index % 4096) with
  | some v => done (s.emit (.entry src v))
  | none =>
    let x := s.stq (recvKey e q)
    done (s.setStq (recvKey e q) { x with waits := x.waits ++ [(x.entryOf (index % 4096), src)] })

/-- RELEASE_FLIT_RECEIVE (R412, R413, R421): the partner's cumulative count of released entries. -/
def execReleaseFlitReceive (ep queue count epoch : Nat) (s : State) : Host.Outcome State Fault Refusal :=
  let e := ep % 2
  let k := sendKey e (queue % 8)
  let x := s.stq k
  if epoch % 4096 ≠ s.epoch12 then done (s.bump keeperU Reg.PLC_STALE_COUNT 1)
  else
    let more := (2 ^ 32 + count % 2 ^ 32 - x.freed % 2 ^ 32) % 2 ^ 32
    done (if x.freed + more ≤ x.sent then s.setStq k { x with freed := x.freed + more } else s)

end Sys2Proof.Machine
end

