-- ==== Sys2Proof/Machine/Dispatch.lean ====
section
/-!
DEFINITION. The one dispatch of the model: each command of the table to its meaning.
-/
namespace Sys2Proof.Machine

/-- The effect of a command on everything but the queue. -/
def exec (i : Instr) (s : State) : Host.Outcome State Fault Refusal :=
  match i with
  | .powerGoodRise mv slot bridgeSelLow => Sys2Proof.Machine.execPowerGoodRise mv slot bridgeSelLow s
  | .powerGoodFall pwrOk => Sys2Proof.Machine.execPowerGoodFall pwrOk s
  | .inputVoltageChange mv => Sys2Proof.Machine.execInputVoltageChange mv s
  | .modRstNAssert => Sys2Proof.Machine.execModRstNAssert s
  | .modRstNRelease tclk near => Sys2Proof.Machine.execModRstNRelease tclk near s
  | .pllLossOfLock => Sys2Proof.Machine.execPllLossOfLock s
  | .pllLock => Sys2Proof.Machine.execPllLock s
  | .startUpStageDone bad ports eths => Sys2Proof.Machine.execStartUpStageDone bad ports eths s
  | .perstNRelease => Sys2Proof.Machine.execPerstNRelease s
  | .pcieLinkTraining => Sys2Proof.Machine.execPcieLinkTraining s
  | .functionLevelReset inFlight => Sys2Proof.Machine.execFunctionLevelReset inFlight s
  | .pcieLinkLoss inFlight => Sys2Proof.Machine.execPcieLinkLoss inFlight s
  | .thermalTrip tj tjDie td tdDie => Sys2Proof.Machine.execThermalTrip tj tjDie td tdDie s
  | .powerWindowEnd mv ma power tj tjDie td tdDie tIn tOut blocks => Sys2Proof.Machine.execPowerWindowEnd mv ma power tj tjDie td tdDie tIn tOut blocks s
  | .inletOverTemp tIn => Sys2Proof.Machine.execInletOverTemp tIn s
  | .dramTempChange die temp => Sys2Proof.Machine.execDramTempChange die temp s
  | .powerStateEntry => Sys2Proof.Machine.execPowerStateEntry s
  | .wakeComplete => Sys2Proof.Machine.execWakeComplete s
  | .status pecOk => Sys2Proof.Machine.execStatus pecOk s
  | .resetCause pecOk => Sys2Proof.Machine.execResetCause pecOk s
  | .serial pecOk => Sys2Proof.Machine.execSerial pecOk s
  | .power pecOk => Sys2Proof.Machine.execPower pecOk s
  | .cool pecOk => Sys2Proof.Machine.execCool pecOk s
  | .setCap w pecOk => Sys2Proof.Machine.execSetCap w pecOk s
  | .getCap pecOk => Sys2Proof.Machine.execGetCap pecOk s
  | .smbAlertResponse => Sys2Proof.Machine.execSmbAlertResponse s
  | .smbClockLowTimeout => Sys2Proof.Machine.execSmbClockLowTimeout s
  | .extest pins tdi => Sys2Proof.Machine.execExtest pins tdi s
  | .idcode tdi => Sys2Proof.Machine.execIdcode tdi s
  | .samplePreload pins tdi => Sys2Proof.Machine.execSamplePreload pins tdi s
  | .bypass tdi => Sys2Proof.Machine.execBypass tdi s
  | .dkrChal tdi => Sys2Proof.Machine.execDkrChal tdi s
  | .dkrUnlock token withLoad => Sys2Proof.Machine.execDkrUnlock token withLoad s
  | .tapReset => Sys2Proof.Machine.execTapReset s
  | .packetArrive src taddr write data len way => Sys2Proof.Machine.execPacketArrive src taddr write data len way s
  | .groupWriteComplete group results => Sys2Proof.Machine.execGroupWriteComplete group results s
  | .registerWrite src unit off w => Sys2Proof.Machine.execRegisterWrite src unit off w s
  | .rcFieldRead src unit off events => Sys2Proof.Machine.execRcFieldRead src unit off events s
  | .loCaptureRead src unit off wide => Sys2Proof.Machine.execLoCaptureRead src unit off wide s
  | .bundleIssue die core frozen upsets => Sys2Proof.Machine.execBundleIssue die core frozen upsets s
  | .cubeAccumulate die core => Sys2Proof.Machine.execCubeAccumulate die core s
  | .mvAccumulate die core => Sys2Proof.Machine.execMvAccumulate die core s
  | .vuResultWrite die core => Sys2Proof.Machine.execVuResultWrite die core s
  | .drainTileWrite die core => Sys2Proof.Machine.execDrainTileWrite die core s
  | .drainGroupWrite die core => Sys2Proof.Machine.execDrainGroupWrite die core s
  | .tagReturn die core tag err period upsets => Sys2Proof.Machine.execTagReturn die core tag err period upsets s
  | .waitLimitExpiry die core => Sys2Proof.Machine.execWaitLimitExpiry die core s
  | .barrierArrival die core group src gen => Sys2Proof.Machine.execBarrierArrival die core group src gen s
  | .seqEvt die core bits period => Sys2Proof.Machine.execSeqEvt die core bits period s
  | .descriptorFetch die core ring upsets => Sys2Proof.Machine.execDescriptorFetch die core ring upsets s
  | .dmaTransferStart die core => Sys2Proof.Machine.execDmaTransferStart die core s
  | .dmaAccessFault die core tag first remote upsets => Sys2Proof.Machine.execDmaAccessFault die core tag first remote upsets s
  | .dmaTransferComplete die core tag upsets => Sys2Proof.Machine.execDmaTransferComplete die core tag upsets s
  | .multicastCopyComplete die core tag leaf upsets => Sys2Proof.Machine.execMulticastCopyComplete die core tag leaf upsets s
  | .packTileWrite die core tag upsets => Sys2Proof.Machine.execPackTileWrite die core tag upsets s
  | .expandTile die core tag upsets => Sys2Proof.Machine.execExpandTile die core tag upsets s
  | .gather die engine upsets => Sys2Proof.Machine.execGather die engine upsets s
  | .scatter die engine upsets => Sys2Proof.Machine.execScatter die engine upsets s
  | .scatterAdd die engine upsets => Sys2Proof.Machine.execScatterAdd die engine upsets s
  | .segmentReduce die engine upsets => Sys2Proof.Machine.execSegmentReduce die engine upsets s
  | .sortByKey die engine upsets => Sys2Proof.Machine.execSortByKey die engine upsets s
  | .bucket die engine upsets => Sys2Proof.Machine.execBucket die engine upsets s
  | .packRows die engine upsets => Sys2Proof.Machine.execPackRows die engine upsets s
  | .unpack die engine upsets => Sys2Proof.Machine.execUnpack die engine upsets s
  | .maskCompact die engine upsets => Sys2Proof.Machine.execMaskCompact die engine upsets s
  | .gmeOpFault die engine => Sys2Proof.Machine.execGmeOpFault die engine s
  | .gmeOpComplete die engine => Sys2Proof.Machine.execGmeOpComplete die engine s
  | .arbitratedAccess die core sched next upsets => Sys2Proof.Machine.execArbitratedAccess die core sched next upsets s
  | .requestPromotion die core => Sys2Proof.Machine.execRequestPromotion die core s
  | .scratchpadScrub die core bank sched upsets => Sys2Proof.Machine.execScratchpadScrub die core bank sched upsets s
  | .dramRead src die off len upsets => Sys2Proof.Machine.execDramRead src die off len upsets s
  | .dramWrite src die off data upsets => Sys2Proof.Machine.execDramWrite src die off data upsets s
  | .patrolScrub die channel upsets => Sys2Proof.Machine.execPatrolScrub die channel upsets s
  | .dramRefresh die delayed => Sys2Proof.Machine.execDramRefresh die delayed s
  | .translationWalk die agent va need upsets => Sys2Proof.Machine.execTranslationWalk die agent va need upsets s
  | .tuInval src die => Sys2Proof.Machine.execTuInval src die s
  | .invalidationDone die => Sys2Proof.Machine.execInvalidationDone die s
  | .stackPushStart die core upsets => Sys2Proof.Machine.execStackPushStart die core upsets s
  | .frameHeaderWrite die core => Sys2Proof.Machine.execFrameHeaderWrite die core s
  | .stackPopStart die core upsets => Sys2Proof.Machine.execStackPopStart die core upsets s
  | .popComplete die core => Sys2Proof.Machine.execPopComplete die core s
  | .updateRecordStart die upsets => Sys2Proof.Machine.execUpdateRecordStart die upsets s
  | .updateRecordDone die upsets => Sys2Proof.Machine.execUpdateRecordDone die upsets s
  | .updateFault die upsets => Sys2Proof.Machine.execUpdateFault die upsets s
  | .voteSend => Sys2Proof.Machine.execVoteSend s
  | .voteReceive child step flags count amax => Sys2Proof.Machine.execVoteReceive child step flags count amax s
  | .decisionReceive step flags count amax => Sys2Proof.Machine.execDecisionReceive step flags count amax s
  | .fixerCommit mclk => Sys2Proof.Machine.execFixerCommit mclk s
  | .checkpointDrainComplete => Sys2Proof.Machine.execCheckpointDrainComplete s
  | .drained child step down => Sys2Proof.Machine.execDrained child step down s
  | .rdReady layer step => Sys2Proof.Machine.execRdReady layer step s
  | .laneSegmentSend layer seg upsets => Sys2Proof.Machine.execLaneSegmentSend layer seg upsets s
  | .rsegReceive layer seg step data => Sys2Proof.Machine.execRsegReceive layer seg step data s
  | .rwordReceive lane chunk data => Sys2Proof.Machine.execRwordReceive lane chunk data s
  | .checkSampleRead layer upsets => Sys2Proof.Machine.execCheckSampleRead layer upsets s
  | .chkReceive layer pos ord step data => Sys2Proof.Machine.execChkReceive layer pos ord step data s
  | .cwordReceive pos data => Sys2Proof.Machine.execCwordReceive pos data s
  | .reductionFault layer upsets => Sys2Proof.Machine.execReductionFault layer upsets s
  | .ethFrameReceive port frame ok icrc => Sys2Proof.Machine.execEthFrameReceive port frame ok icrc s
  | .sampleStart slot upsets => Sys2Proof.Machine.execSampleStart slot upsets s
  | .readResponseReceive qp psn kind syndrome data ce => Sys2Proof.Machine.execReadResponseReceive qp psn kind syndrome data ce s
  | .roceAckTimeout qp => Sys2Proof.Machine.execRoceAckTimeout qp s
  | .roceWriteReceive qp psn slot keyOk p data ce => Sys2Proof.Machine.execRoceWriteReceive qp psn slot keyOk p data ce s
  | .tsPacket slot draw pid upsets => Sys2Proof.Machine.execTsPacket slot draw pid upsets s
  | .accessUnitConsume slot upsets => Sys2Proof.Machine.execAccessUnitConsume slot upsets s
  | .decodeFrame die pipe slot draw => Sys2Proof.Machine.execDecodeFrame die pipe slot draw s
  | .tensorizeFrame die unit slot draw q upsets => Sys2Proof.Machine.execTensorizeFrame die unit slot draw q upsets s
  | .slotWriteComplete slot draw upsets => Sys2Proof.Machine.execSlotWriteComplete slot draw upsets s
  | .strArrLoRead slot wide => Sys2Proof.Machine.execStrArrLoRead slot wide s
  | .strAuprod slot count => Sys2Proof.Machine.execStrAuprod slot count s
  | .exit core => Sys2Proof.Machine.execExit core s
  | .dbWait core mask limit => Sys2Proof.Machine.execDbWait core mask limit s
  | .arrWait core mask limit => Sys2Proof.Machine.execArrWait core mask limit s
  | .monitorWaitExpiry core near => Sys2Proof.Machine.execMonitorWaitExpiry core near s
  | .appException core cause tval kind => Sys2Proof.Machine.execAppException core cause tval kind s
  | .appFence core acts => Sys2Proof.Machine.execAppFence core acts s
  | .flitSend port new => Sys2Proof.Machine.execFlitSend port new s
  | .flitReceive port data fec corrected failed => Sys2Proof.Machine.execFlitReceive port data fec corrected failed s
  | .nakReceive port expSeq => Sys2Proof.Machine.execNakReceive port expSeq s
  | .creditReturn port cred => Sys2Proof.Machine.execCreditReturn port cred s
  | .ackDue port => Sys2Proof.Machine.execAckDue port s
  | .replayTimeout port => Sys2Proof.Machine.execReplayTimeout port s
  | .retrainComplete port ack rtt => Sys2Proof.Machine.execRetrainComplete port ack rtt s
  | .portDown port => Sys2Proof.Machine.execPortDown port s
  | .beaconSend port => Sys2Proof.Machine.execBeaconSend port s
  | .beaconReceive port modId kok prov epoch tSend tLastRx tLastTx tsoff => Sys2Proof.Machine.execBeaconReceive port modId kok prov epoch tSend tLastRx tLastTx tsoff s
  | .beaconSilence port near => Sys2Proof.Machine.execBeaconSilence port near s
  | .fabKhb port => Sys2Proof.Machine.execFabKhb port s
  | .kokExpiry port => Sys2Proof.Machine.execKokExpiry port s
  | .tsoffUpdate => Sys2Proof.Machine.execTsoffUpdate s
  | .idBlockReceive port serial partnerPort bridge => Sys2Proof.Machine.execIdBlockReceive port serial partnerPort bridge s
  | .offerReceive port num hops serial => Sys2Proof.Machine.execOfferReceive port num hops serial s
  | .offerCollectEnd => Sys2Proof.Machine.execOfferCollectEnd s
  | .childReceive port num => Sys2Proof.Machine.execChildReceive port num s
  | .reportSend => Sys2Proof.Machine.execReportSend s
  | .reportReceive port num recs => Sys2Proof.Machine.execReportReceive port num recs s
  | .assignReceive port num id => Sys2Proof.Machine.execAssignReceive port num id s
  | .hostBar0Access off write data len => Sys2Proof.Machine.execHostBar0Access off write data len s
  | .hostBar2Access off write data len => Sys2Proof.Machine.execHostBar2Access off write data len s
  | .hostWindowAccess off write data len host => Sys2Proof.Machine.execHostWindowAccess off write data len host s
  | .stqPost src ep q data => Sys2Proof.Machine.execStqPost src ep q data s
  | .stageEntrySend ep queue held upsets => Sys2Proof.Machine.execStageEntrySend ep queue held upsets s
  | .stageEntryArrive ep queue mb epoch data upsets => Sys2Proof.Machine.execStageEntryArrive ep queue mb epoch data upsets s
  | .stagePostComplete ep queue => Sys2Proof.Machine.execStagePostComplete ep queue s
  | .stageEntryWait src ep queue index => Sys2Proof.Machine.execStageEntryWait src ep queue index s
  | .stqRel ep q count => Sys2Proof.Machine.execStqRel ep q count s
  | .releaseFlitReceive ep queue count epoch => Sys2Proof.Machine.execReleaseFlitReceive ep queue count epoch s
  | .fogReceive port data => Sys2Proof.Machine.execFogReceive port data s
  | .stepWatchdogExpiry near => Sys2Proof.Machine.execStepWatchdogExpiry near s
  | .surveyReplyReceive module ckjob faults => Sys2Proof.Machine.execSurveyReplyReceive module ckjob faults s
  | .surveyReplyTimeout module prov => Sys2Proof.Machine.execSurveyReplyTimeout module prov s
  | .reliefCabled member => Sys2Proof.Machine.execReliefCabled member s
  | .cableWaitExpiry near => Sys2Proof.Machine.execCableWaitExpiry near s
  | .mbxBufWrite src chan off data => Sys2Proof.Machine.execMbxBufWrite src chan off data s
  | .mbxSend src chan len => Sys2Proof.Machine.execMbxSend src chan len s
  | .mbxBufRead src chan off len => Sys2Proof.Machine.execMbxBufRead src chan off len s
  | .mbxDone src chan => Sys2Proof.Machine.execMbxDone src chan s
  | .mbxLockBreak chan => Sys2Proof.Machine.execMbxLockBreak chan s
  | .mbxKrst src key => Sys2Proof.Machine.execMbxKrst src key s
  | .dbSet bits => Sys2Proof.Machine.execDbSet bits s
  | .dbClr src bits => Sys2Proof.Machine.execDbClr src bits s
  | .dbMaskWrite src bits => Sys2Proof.Machine.execDbMaskWrite src bits s
  | .minilReplyReceive image ck => Sys2Proof.Machine.execMinilReplyReceive image ck s
  | .replyResend n code => Sys2Proof.Machine.execReplyResend n code s
  | .queryDevice => Sys2Proof.Machine.execQueryDevice s
  | .setWakeTolerance => Sys2Proof.Machine.execSetWakeTolerance s
  | .loadJob fin image => Sys2Proof.Machine.execLoadJob fin image s
  | .loadCablingTimeout image ck => Sys2Proof.Machine.execLoadCablingTimeout image ck s
  | .startJob => Sys2Proof.Machine.execStartJob s
  | .stopJob fin => Sys2Proof.Machine.execStopJob fin s
  | .checkpointRequest => Sys2Proof.Machine.execCheckpointRequest s
  | .restore fin ck => Sys2Proof.Machine.execRestore fin ck s
  | .hostRingConsPoll cons => Sys2Proof.Machine.execHostRingConsPoll cons s
  | .readLog => Sys2Proof.Machine.execReadLog s
  | .clearLog => Sys2Proof.Machine.execClearLog s
  | .readTelemetry => Sys2Proof.Machine.execReadTelemetry s
  | .fwStage fin image => Sys2Proof.Machine.execFwStage fin image s
  | .fwCommit fin ue bad => Sys2Proof.Machine.execFwCommit fin ue bad s
  | .attest fin => Sys2Proof.Machine.execAttest fin s
  | .fabricDiscover => Sys2Proof.Machine.execFabricDiscover s
  | .fabricRouteSet fin set => Sys2Proof.Machine.execFabricRouteSet fin set s
  | .reliefTakeover image ck => Sys2Proof.Machine.execReliefTakeover image ck s
  | .injectLinkFault => Sys2Proof.Machine.execInjectLinkFault s
  | .resetUnit fin => Sys2Proof.Machine.execResetUnit fin s
  | .perstNAssert inFlight => Sys2Proof.Machine.execPerstNAssert inFlight s
  | .configurationRequest write reg data => Sys2Proof.Machine.execConfigurationRequest write reg data s
  | .pcieLinkUp speed width flit => Sys2Proof.Machine.execPcieLinkUp speed width flit s
  | .ethLinkChange port link fec pmd => Sys2Proof.Machine.execEthLinkChange port link fec pmd s
  | .checkpointDrainFault code => Sys2Proof.Machine.execCheckpointDrainFault code s

end Sys2Proof.Machine
end

