-- ==== Sys2Proof/WellFormed.lean ====
section
/-!
DEFINITION. Which operands a command can have: the ports, dies, cores, slots, queues and channels that the block has, and
values within the width of the field that carries them. The meanings take any operands; this says which the specification
knows.
-/
namespace Sys2Proof

/-- Whether a command's operands are ones that the block can meet. -/
def Instr.wf (i : Instr) : Bool :=
  match i with
  | .powerGoodRise mv slot _ => decide (mv < 2 ^ 16) && decide (slot < 2 ^ 16)
  | .powerGoodFall _ => true
  | .inputVoltageChange _ => true
  | .modRstNAssert => true
  | .modRstNRelease _ _ => true
  | .pllLossOfLock => true
  | .pllLock => true
  | .startUpStageDone _ ports eths => ports.all (fun p => decide (p.1 < 12)) && eths.all (fun p => decide (p < 2))
  | .perstNRelease => true
  | .pcieLinkTraining => true
  | .functionLevelReset _ => true
  | .pcieLinkLoss _ => true
  | .thermalTrip _ _ _ _ => true
  | .powerWindowEnd _ _ _ _ _ _ _ _ _ _ => true
  | .inletOverTemp _ => true
  | .dramTempChange die _ => decide (die < 24)
  | .powerStateEntry => true
  | .wakeComplete => true
  | .status _ => true
  | .resetCause _ => true
  | .serial _ => true
  | .power _ => true
  | .cool _ => true
  | .setCap w _ => decide (w < 2 ^ 16)
  | .getCap _ => true
  | .smbAlertResponse => true
  | .smbClockLowTimeout => true
  | .extest _ _ => true
  | .idcode _ => true
  | .samplePreload _ _ => true
  | .bypass _ => true
  | .dkrChal _ => true
  | .dkrUnlock _ _ => true
  | .tapReset => true
  | .packetArrive src taddr _ _ _ way => decide (src < 2 ^ 32) && decide (taddr < 2 ^ 64) && decide (way.group < 2 ^ 32)
  | .groupWriteComplete _ _ => true
  | .registerWrite src unit off _ => decide (src < 2 ^ 32) && decide (unit < 2 ^ 16) && decide (off < 2 ^ 42)
  | .rcFieldRead src unit off _ => decide (src < 2 ^ 32) && decide (unit < 2 ^ 16) && decide (off < 2 ^ 42)
  | .loCaptureRead src unit off _ => decide (src < 2 ^ 32) && decide (unit < 2 ^ 16) && decide (off < 2 ^ 42)
  | .bundleIssue die core _ _ => decide (die < 24) && decide (core < 16)
  | .cubeAccumulate die core => decide (die < 24) && decide (core < 16)
  | .mvAccumulate die core => decide (die < 24) && decide (core < 16)
  | .vuResultWrite die core => decide (die < 24) && decide (core < 16)
  | .drainTileWrite die core => decide (die < 24) && decide (core < 16)
  | .drainGroupWrite die core => decide (die < 24) && decide (core < 16)
  | .tagReturn die core tag _ _ _ => decide (die < 24) && decide (core < 16) && decide (tag < 256)
  | .waitLimitExpiry die core => decide (die < 24) && decide (core < 16)
  | .barrierArrival die core _ src _ => decide (die < 24) && decide (core < 16) && decide (src < 2 ^ 32)
  | .seqEvt die core bits _ => decide (die < 24) && decide (core < 16) && decide (bits < 2 ^ 32)
  | .descriptorFetch die core ring _ => decide (die < 24) && decide (core < 16) && decide (ring < 8)
  | .dmaTransferStart die core => decide (die < 24) && decide (core < 16)
  | .dmaAccessFault die core tag _ _ _ => decide (die < 24) && decide (core < 16) && decide (tag < 256)
  | .dmaTransferComplete die core tag _ => decide (die < 24) && decide (core < 16) && decide (tag < 256)
  | .multicastCopyComplete die core tag leaf _ => decide (die < 24) && decide (core < 16) && decide (tag < 256) && decide (leaf < 384)
  | .packTileWrite die core tag _ => decide (die < 24) && decide (core < 16) && decide (tag < 256)
  | .expandTile die core tag _ => decide (die < 24) && decide (core < 16) && decide (tag < 256)
  | .gather die engine _ => decide (die < 24) && decide (engine < 2)
  | .scatter die engine _ => decide (die < 24) && decide (engine < 2)
  | .scatterAdd die engine _ => decide (die < 24) && decide (engine < 2)
  | .segmentReduce die engine _ => decide (die < 24) && decide (engine < 2)
  | .sortByKey die engine _ => decide (die < 24) && decide (engine < 2)
  | .bucket die engine _ => decide (die < 24) && decide (engine < 2)
  | .packRows die engine _ => decide (die < 24) && decide (engine < 2)
  | .unpack die engine _ => decide (die < 24) && decide (engine < 2)
  | .maskCompact die engine _ => decide (die < 24) && decide (engine < 2)
  | .gmeOpFault die engine => decide (die < 24) && decide (engine < 2)
  | .gmeOpComplete die engine => decide (die < 24) && decide (engine < 2)
  | .arbitratedAccess die core _ _ _ => decide (die < 24) && decide (core < 16)
  | .requestPromotion die core => decide (die < 24) && decide (core < 16)
  | .scratchpadScrub die core bank _ _ => decide (die < 24) && decide (core < 16) && decide (bank < 32)
  | .dramRead src die off _ _ => decide (src < 2 ^ 32) && decide (die < 24) && decide (off < 2 ^ 42)
  | .dramWrite src die off _ _ => decide (src < 2 ^ 32) && decide (die < 24) && decide (off < 2 ^ 42)
  | .patrolScrub die channel _ => decide (die < 24) && decide (channel < 32)
  | .dramRefresh die _ => decide (die < 24)
  | .translationWalk die agent va _ _ => decide (die < 24) && decide (agent < 64) && decide (va < 2 ^ 64)
  | .tuInval src die => decide (src < 2 ^ 32) && decide (die < 24)
  | .invalidationDone die => decide (die < 24)
  | .stackPushStart die core _ => decide (die < 24) && decide (core < 16)
  | .frameHeaderWrite die core => decide (die < 24) && decide (core < 16)
  | .stackPopStart die core _ => decide (die < 24) && decide (core < 16)
  | .popComplete die core => decide (die < 24) && decide (core < 16)
  | .updateRecordStart die _ => decide (die < 24)
  | .updateRecordDone die _ => decide (die < 24)
  | .updateFault die _ => decide (die < 24)
  | .voteSend => true
  | .voteReceive child step _ _ amax => decide (child < 2 ^ 15) && decide (step < 2 ^ 64) && amax.all (fun w => decide (w < 2 ^ 32))
  | .decisionReceive step _ _ amax => decide (step < 2 ^ 64) && amax.all (fun w => decide (w < 2 ^ 32))
  | .fixerCommit _ => true
  | .checkpointDrainComplete => true
  | .drained child step _ => decide (child < 2 ^ 15) && decide (step < 2 ^ 64)
  | .rdReady layer step => decide (layer < 4096) && decide (step < 2 ^ 64)
  | .laneSegmentSend layer _ _ => decide (layer < 4096)
  | .rsegReceive layer _ step _ => decide (layer < 4096) && decide (step < 2 ^ 64)
  | .rwordReceive lane _ _ => decide (lane < 4)
  | .checkSampleRead layer _ => decide (layer < 4096)
  | .chkReceive layer _ _ step _ => decide (layer < 4096) && decide (step < 2 ^ 64)
  | .cwordReceive _ _ => true
  | .reductionFault layer _ => decide (layer < 4096)
  | .ethFrameReceive port _ _ _ => decide (port < 2)
  | .sampleStart slot _ => decide (slot < 16)
  | .readResponseReceive qp psn kind syndrome _ _ => decide (qp < 2 ^ 24) && decide (psn < 2 ^ 24) && decide (kind < 5) && decide (syndrome < 256)
  | .roceAckTimeout qp => decide (qp < 2 ^ 24)
  | .roceWriteReceive qp psn slot _ _ _ _ => decide (qp < 2 ^ 24) && decide (psn < 2 ^ 24) && decide (slot < 16)
  | .tsPacket slot draw pid _ => decide (slot < 16) && decide (draw < 2 ^ 64) && decide (pid < 2 ^ 13)
  | .accessUnitConsume slot _ => decide (slot < 16)
  | .decodeFrame die pipe slot draw => decide (die < 8) && decide (pipe < 16) && decide (slot < 16) && decide (draw < 2 ^ 64)
  | .tensorizeFrame die unit slot draw q _ => decide (die < 8) && decide (unit < 4) && decide (slot < 16) && decide (draw < 2 ^ 64) && decide (q < 2 ^ 16)
  | .slotWriteComplete slot draw _ => decide (slot < 16) && decide (draw < 2 ^ 64)
  | .strArrLoRead slot _ => decide (slot < 16)
  | .strAuprod slot _ => decide (slot < 16)
  | .exit core => decide (core < 104)
  | .dbWait core mask _ => decide (core < 104) && decide (mask < 2 ^ 32)
  | .arrWait core mask _ => decide (core < 104) && decide (mask < 2 ^ 64)
  | .monitorWaitExpiry core _ => decide (core < 104)
  | .appException core _ _ _ => decide (core < 104)
  | .appFence core _ => decide (core < 104)
  | .flitSend port _ => decide (port < 12)
  | .flitReceive port data _ _ _ => decide (port < 12) && decide (data.length = 256)
  | .nakReceive port _ => decide (port < 12)
  | .creditReturn port _ => decide (port < 12)
  | .ackDue port => decide (port < 12)
  | .replayTimeout port => decide (port < 12)
  | .retrainComplete port _ _ => decide (port < 12)
  | .portDown port => decide (port < 12)
  | .beaconSend port => decide (port < 12)
  | .beaconReceive port _ _ _ _ _ _ _ _ => decide (port < 12)
  | .beaconSilence port _ => decide (port < 12)
  | .fabKhb port => decide (port < 12)
  | .kokExpiry port => decide (port < 12)
  | .tsoffUpdate => true
  | .idBlockReceive port _ _ _ => decide (port < 12)
  | .offerReceive port _ _ _ => decide (port < 12)
  | .offerCollectEnd => true
  | .childReceive port _ => decide (port < 12)
  | .reportSend => true
  | .reportReceive port _ _ => decide (port < 12)
  | .assignReceive port _ _ => decide (port < 12)
  | .hostBar0Access off _ _ len => decide (off < 2 ^ 42) && decide (len ≤ 64)
  | .hostBar2Access off _ _ len => decide (off < 2 ^ 42) && decide (len ≤ 64)
  | .hostWindowAccess off _ _ len _ => decide (off < 2 ^ 42) && decide (len ≤ 64)
  | .stqPost src ep q _ => decide (src < 2 ^ 32) && decide (ep < 2) && decide (q < 8)
  | .stageEntrySend ep queue _ _ => decide (ep < 2) && decide (queue < 8)
  | .stageEntryArrive ep queue _ _ _ _ => decide (ep < 2) && decide (queue < 8)
  | .stagePostComplete ep queue => decide (ep < 2) && decide (queue < 8)
  | .stageEntryWait src ep queue _ => decide (src < 2 ^ 32) && decide (ep < 2) && decide (queue < 8)
  | .stqRel ep q _ => decide (ep < 2) && decide (q < 8)
  | .releaseFlitReceive ep queue _ _ => decide (ep < 2) && decide (queue < 8)
  | .fogReceive port data => decide (port < 12) && decide (data.length = 32)
  | .stepWatchdogExpiry _ => true
  | .surveyReplyReceive module _ _ => decide (module < 2 ^ 15)
  | .surveyReplyTimeout module _ => decide (module < 2 ^ 15)
  | .reliefCabled member => decide (member < 2 ^ 15)
  | .cableWaitExpiry _ => true
  | .mbxBufWrite src chan off _ => decide (src < 2 ^ 32) && decide (chan < 32) && decide (off < 2 ^ 42)
  | .mbxSend src chan _ => decide (src < 2 ^ 32) && decide (chan < 32)
  | .mbxBufRead src chan off _ => decide (src < 2 ^ 32) && decide (chan < 32) && decide (off < 2 ^ 42)
  | .mbxDone src chan => decide (src < 2 ^ 32) && decide (chan < 32)
  | .mbxLockBreak chan => decide (chan < 32)
  | .mbxKrst src key => decide (src < 2 ^ 32) && decide (key < 2 ^ 32)
  | .dbSet bits => decide (bits < 2 ^ 32)
  | .dbClr src bits => decide (src < 2 ^ 32) && decide (bits < 2 ^ 32)
  | .dbMaskWrite src bits => decide (src < 2 ^ 32) && decide (bits < 2 ^ 32)
  | .minilReplyReceive _ _ => true
  | .replyResend _ _ => true
  | .queryDevice => true
  | .setWakeTolerance => true
  | .loadJob _ _ => true
  | .loadCablingTimeout _ _ => true
  | .startJob => true
  | .stopJob _ => true
  | .checkpointRequest => true
  | .restore _ _ => true
  | .hostRingConsPoll _ => true
  | .readLog => true
  | .clearLog => true
  | .readTelemetry => true
  | .fwStage _ _ => true
  | .fwCommit _ _ _ => true
  | .attest _ => true
  | .fabricDiscover => true
  | .fabricRouteSet _ _ => true
  | .reliefTakeover _ _ => true
  | .injectLinkFault => true
  | .resetUnit _ => true
  | .perstNAssert _ => true
  | .configurationRequest _ reg data => decide (reg < 1024) && decide (data < 2 ^ 32)
  | .pcieLinkUp speed width _ => decide (speed < 16) && decide (width < 32)
  | .ethLinkChange port _ _ _ => decide (port < 2)
  | .checkpointDrainFault _ => true

end Sys2Proof
end

