-- ==== Sys2Proof/Safety.lean ====
section
/-!
DEFINITION. What counts as a safe state and a safe step, how statements say that a command completes, and the parts of the
state by which they say what it leaves as it was.
-/
namespace Sys2Proof.Machine

/-- A sound state: its memory is in canonical form, so that equal memories are equal data. -/
def State.Sound (s : State) : Prop := Memory.wf s.mem = true

/-- A safe step: one that does not stop the block. -/
def State.Safe (s : State) : Prop := ∃ t, step s = .next t

/-- The command completes: it answers a next state, of which `P` holds. -/
def Yields (c : Instr) (s : State) (P : State → Prop) : Prop := ∃ t, exec c s = .next t ∧ P t

/-- A run of bytes stands in memory at an address. -/
def Holds (t : State) (a : Nat) (bs : List Byte) : Prop := ∀ i, i < bs.length → Memory.get t.mem (a + i) = bs.getD i 0

/-- Every byte outside `n` bytes from `a` reads in `t` as it reads in `s`. -/
def SameMemBut (a n : Nat) (s t : State) : Prop := ∀ b, b < a ∨ a + n ≤ b → Memory.get t.mem b = Memory.get s.mem b

/-- Every byte outside the addresses of `P` reads as zero. -/
def OnlyIn (P : Nat → Bool) (t : State) : Prop := ∀ a, P a = false → Memory.get t.mem a = 0

/-- Every byte at an address of `P` reads in `t` as it reads in `s`. -/
def SameIn (P : Nat → Bool) (s t : State) : Prop := ∀ a, P a = true → Memory.get t.mem a = Memory.get s.mem a

/-- The fields of a list may differ between `s` and `t`; every other register field reads the same. -/
def SameRegsBut (l : List (Nat × Field)) (s t : State) : Prop :=
  ∀ u f, (∀ p ∈ l, fieldKey u f ≠ fieldKey p.1 p.2) → t.rd u f = s.rd u f

/-- The parts of the state beside the model's own counter of free values and what has been sent. -/
inductive Part where
  | regs | mem | ecc | net | cores | gmes | arbs | tus | ports | routes | disc | awaiting | patrol | heldTx | apps | groups | stqs
  | red | ues | streams | qps | eths | arrivals | auLog | bridge | rcv | dkr | sb | tap | pwr | pcie | provId | fwVer | log
  | job | fix | ck | kpr | sheets | scrubQ | gshift | pending
  deriving DecidableEq, Repr

/-- Whether a part is the same in two states; of memory, whether every byte reads the same. -/
def Part.same (p : Part) (s t : State) : Prop :=
  match p with
  | .regs => ∀ u f, t.rd u f = s.rd u f
  | .mem => ∀ a, Memory.get t.mem a = Memory.get s.mem a
  | .ecc => t.ecc = s.ecc
  | .net => t.net = s.net
  | .cores => t.cores = s.cores
  | .gmes => t.gmes = s.gmes
  | .arbs => t.arbs = s.arbs
  | .tus => t.tus = s.tus
  | .ports => t.ports = s.ports
  | .routes => t.routes = s.routes
  | .disc => t.disc = s.disc
  | .awaiting => t.awaiting = s.awaiting
  | .patrol => t.patrol = s.patrol
  | .heldTx => t.heldTx = s.heldTx
  | .apps => t.apps = s.apps
  | .groups => t.groups = s.groups
  | .stqs => t.stqs = s.stqs
  | .red => t.red = s.red
  | .ues => t.ues = s.ues
  | .streams => t.streams = s.streams
  | .qps => t.qps = s.qps
  | .eths => t.eths = s.eths
  | .arrivals => t.arrivals = s.arrivals
  | .auLog => t.auLog = s.auLog
  | .bridge => t.bridge = s.bridge
  | .rcv => t.rcv = s.rcv
  | .dkr => t.dkr = s.dkr
  | .sb => t.sb = s.sb
  | .tap => t.tap = s.tap
  | .pwr => t.pwr = s.pwr
  | .pcie => t.pcie = s.pcie
  | .provId => t.provId = s.provId
  | .fwVer => t.fwVer = s.fwVer
  | .log => t.log = s.log
  | .job => t.job = s.job
  | .fix => t.fix = s.fix
  | .ck => t.ck = s.ck
  | .kpr => t.kpr = s.kpr
  | .sheets => t.sheets = s.sheets
  | .scrubQ => t.scrubQ = s.scrubQ
  | .gshift => t.gshift = s.gshift
  | .pending => t.pending = s.pending

/-- Every part but those of a list is the same in two states. -/
def SameBut (l : List Part) (s t : State) : Prop := ∀ p, p ∉ l → p.same s t

/-- The frame of a command: whatever next state it answers, only the parts of a list may have changed. -/
def Keeps (c : Instr) (l : List Part) : Prop := ∀ s t, exec c s = .next t → SameBut l s t

/-- The frame of a command that may change much: whatever next state it answers, the parts of a list are unchanged. -/
def Leaves (c : Instr) (l : List Part) : Prop := ∀ s t, exec c s = .next t → ∀ p ∈ l, p.same s t

/-- The newest leaf of a die's translation cache is entry `e` for the 2 MiB page `p`: it allows reads and writes and maps
the page to page `q` of this module's stack `home`, below the reserved region. -/
def State.pageAt (s : State) (die p e home q : Nat) : Bool :=
  (mget s.tus die {}).small.head? == some (p, e) && bitAt e 2 && bitAt e 3 && decide (p < 2 ^ 35) && decide (home < 24) &&
    decide ((q + 1) * 2 ^ 21 ≤ reservedOff) && decide (s.job.modId < 2 ^ 15) &&
    bitsOf e 62 21 * 2 ^ 21 == s.job.modId * 2 ^ 48 + dramAddr home (q * 2 ^ 21)

/-- The place in memory of byte `i` of page `q` of a stack. -/
def pageByte (home q i : Nat) : Nat := dramAddr home (q * 2 ^ 21 + i)

/-- The keeper's next FULL channel `c` holds the command `m`, well formed and of a class that may send it, and no long command
runs (19_keeper_minil R453, R454, R457, R458). -/
def State.standing (s : State) (c : Nat) (m : Minil) : Bool :=
  s.firmwareRuns && s.nextChan == some c && s.msgIn c == m && !m.reply && s.kpr.run.isNone &&
    s.rd mbxU (Reg.MBX_STAT_LEN c) == 16 + m.payload.length && bitsOf (s.numAt (mbxBuf c + 12) 4) 31 7 == 0 &&
    s.rd mbxU (Reg.MBX_SRC_UNIT c) == m.sender && !s.inadmissible m &&
    ((cmdRow m.cmd).bind (fun r => (s.classOf m.sender).map (fun cls => r.fits m.payload && r.allows cls))) == some true

/-- Such a command, which the module's job and start-up state admit (19_keeper_minil R461, R462). -/
def State.commanded (s : State) (c : Nat) (m : Minil) : Bool := s.standing c m && s.admits m

/-- Whether a writer may change a channel's doorbell bit and its mask (19_keeper_minil R452): the keeper every one, the host
those of its channels, an application core those that it selects. -/
def State.mayBell (s : State) (src b : Nat) : Bool :=
  if s.isKeeper src then true
  else if s.isHost src then s.rcvOf b == 2
  else match s.appOf src with
    | some i => bitAt (s.dbsel i) b
    | none => false

/-- The sender of a command is to be answered at another module. -/
def State.faraway (s : State) (m : Minil) : Bool := !s.isHere (m.sender / 65536 % 32768) m.prov

/-- The reply to a command that goes to another module, with its status and payload (19_keeper_minil Table 19-3). -/
def cmdReply (s : State) (m : Minil) (status : Nat) (payload : List Byte) : Out :=
  .minil (m.sender / 65536 % 32768) m.prov m.rch
    { cmd := m.cmd, seq := m.seq, status := status, sender := s.unitAddr keeperU, reply := true, rch := m.rch,
      prov := false, payload := payload : Minil }.bytes

/-- A long command has been taken: it runs, MNL_STAT shows it busy, and its channel is released. -/
def State.begun (t : State) (m : Minil) : Bool :=
  t.kpr.run == some m && t.rd mbxU Reg.MNL_STAT_BUSY == 1 && t.rd mbxU Reg.MNL_STAT_LONG == 1 &&
    t.rd mbxU Reg.MNL_STAT_PCT == 0

/-- A long command has ended: none runs, and MNL_STAT shows it done. -/
def State.ended (t : State) : Bool :=
  t.kpr.run.isNone && t.rd mbxU Reg.MNL_STAT_BUSY == 0 && t.rd mbxU Reg.MNL_STAT_LONG == 0 &&
    t.rd mbxU Reg.MNL_STAT_PCT == 100

/-- A target address of another module. -/
def State.elsewhere (s : State) (ta : Nat) : Bool :=
  taModule ta != s.job.modId && s.job.modId != 0x7FFF && !bitAt ta 63

/-- Whether an image or record passes the verification of FW_STAGE and FW_COMMIT under a set of fuses
(20_darkroom_security R478, R482). -/
def imagePasses (f : Config.Fuses) (bs : List Byte) : Bool :=
  ({ dkr := { fuse := f, flash := [] } } : State).stagePasses bs

/-- The bytes that a flit puts on a line; of anything else that the block sends, none. -/
def Out.line (o : Out) : List Byte :=
  match o with
  | .flit _ bs => bs
  | _ => []

end Sys2Proof.Machine
end

