-- ==== Sys2Proof/Certificates/Slice0/Obligations.lean ====
section
/-!
DEFINITION. The statements for the provers.
-/
open Sys2Proof Sys2Proof.Machine

/-- Under the conditions that each clause names: a packet that writes or reads DRAM of an absent-free, ungated die of this
module below the reserved region, its words sound, is carried out and answered; a packet to a scratchpad that the
access rules do not bar is queued at its arbiter; a packet that writes RCV_CFG while no job runs sets it and is
answered. A write to a group of two sequencers' SEQ_WLIM sets it at both, in the leaf order, each answering; a read of
RCV_FOGS of a group whose first leaf is the keeper is served there alone, its answer carrying the group. A write for a
gated die is held; a packet with two or more bits in error is answered with ECC_UE and changes no byte. A group write
whose leaves have all answered without error is answered for the group; where one leaf alone answered with an error,
with that code and leaf. A register write of four bytes sets RCV_CFG and each of the RW fields listed, clears each of
the W1C bits listed, which stays set where the hardware sets it in the same cycle, leaves the RO field SEQ_PC and is
answered; while a job runs a write of RCV_CFG is answered with BUSY and changes no field. A read of each of the RC
counters listed returns and clears it, and events that come with the read of RCV_FOGS stay counted. A four-byte read
of the low half of each of the pairs listed returns it and captures the high half; an eight-byte read of the timestamp
returns both halves. (00_scope R12; 00_scope R13; 00_scope R14; 01_module_dies_clocks R22; 01_module_dies_clocks R23;
01_module_dies_clocks R24; 01_module_dies_clocks R30; 01_module_dies_clocks R37; 18_faults_and_relief R441;
21_power_cooling R499.) -/
def Obligations.AccessesComplete : Prop :=
  (∀ (s : State) (src taddr len : Nat) (data : List Byte),
      taNames taddr = true →
      taEp taddr = false →
      taOff taddr + data.length ≤ reservedOff →
      s.gated (taDie taddr) = false →
      (∀ w ∈ wordsOf (dramAddr (taDie taddr) (taOff taddr)) data.length, mget s.ecc w 0 = 0) →
      Yields (.packetArrive src taddr true data len ⟨0, 0⟩) s (fun t => Holds t (dramAddr (taDie taddr) (taOff taddr)) data ∧ SameMemBut (dramAddr (taDie taddr) (taOff taddr)) data.length s t ∧
        t.out = .answer 0 0 [] :: s.out)) ∧
  (∀ (s : State) (src taddr len : Nat) (data : List Byte),
      taNames taddr = true →
      taEp taddr = false →
      taOff taddr + len ≤ reservedOff →
      s.gated (taDie taddr) = false →
      (∀ w ∈ wordsOf (dramAddr (taDie taddr) (taOff taddr)) len, mget s.ecc w 0 = 0) →
      Yields (.packetArrive src taddr false data len ⟨0, 0⟩) s (fun t => t.out = .answer 0 0 (s.bytesAt (dramAddr (taDie taddr) (taOff taddr)) len) :: s.out ∧ SameMemBut 0 0 s t)) ∧
  (∀ (s : State) (src die core off len : Nat) (write : Bool) (data : List Byte),
      die < 24 →
      core < 16 →
      off < 0x800000 →
      s.gated die = false →
      s.job.modId < 2 ^ 15 →
      len = (if write then data.length else len) →
      s.spBar src die core off len = 0 →
      Yields (.packetArrive src (s.unitTarget (spU die core) off) write data len ⟨0, 0⟩) s (fun t => (mget t.arbs (die * 16 + core) {}).reqs = (mget s.arbs (die * 16 + core) {}).reqs ++
          [⟨src, off, if write then some data else none, len, 0, false, 0⟩] ∧ t.out = s.out ∧ SameMemBut 0 0 s t ∧ SameRegsBut [] s t)) ∧
  (∀ (s : State) (src v len : Nat),
      s.running = false →
      s.job.modId < 2 ^ 15 →
      Yields (.packetArrive src (s.unitTarget keeperU 0x900084) true (leBytes 4 v) len ⟨0, 0⟩) s (fun t => t.rd keeperU Reg.RCV_CFG_STEP_MS = v % 2 ^ 16 ∧ t.rd keeperU Reg.RCV_CFG_REPLY_MS = v / 2 ^ 16 % 2 ^ 8 ∧
        t.rd keeperU Reg.RCV_CFG_CABLE_S = v / 2 ^ 24 % 2 ^ 8 ∧ t.out = .answer 0 0 [] :: s.out)) ∧
  (∀ (s : State) (src d1 c1 d2 c2 group v len : Nat),
      d1 < 24 →
      c1 < 16 →
      d2 < 24 →
      c2 < 16 →
      s.leaves group = [s.job.modId * 65536 + seqU d1 c1, s.job.modId * 65536 + seqU d2 c2] →
      2 ^ 31 ≤ group →
      s.gated d1 = false →
      s.gated d2 = false →
      s.running = false →
      s.job.modId < 2 ^ 15 →
      Yields (.packetArrive src 0x30 true (leBytes 4 v) len ⟨0, group⟩) s (fun t => t.rd (seqU d1 c1) (Reg.SEQ_WLIM_COUNT 0) = v % 2 ^ 24 ∧ t.rd (seqU d2 c2) (Reg.SEQ_WLIM_COUNT 0) = v % 2 ^ 24 ∧
        t.rd (seqU d1 c1) (Reg.SEQ_WLIM_SHIFT 0) = v / 2 ^ 24 % 16 ∧ t.rd (seqU d2 c2) (Reg.SEQ_WLIM_SHIFT 0) = v / 2 ^ 24 % 16 ∧
        t.out = .answer 0 0 [] :: .answer 0 0 [] :: s.out ∧ SameMemBut 0 0 s t)) ∧
  (∀ (s : State) (src group : Nat) (rest : List Nat),
      s.leaves group = (s.job.modId * 65536 + keeperU) :: rest →
      2 ^ 31 ≤ group →
      s.job.modId < 2 ^ 15 →
      Yields (.packetArrive src 0x900094 false [] 4 ⟨0, group⟩) s (fun t => t.out = .groupAnswer group 0 0 (leBytes 4 (s.rd keeperU Reg.RCV_FOGS_COUNT)) :: s.out ∧
        t.rd keeperU Reg.RCV_FOGS_COUNT = 0 ∧ SameRegsBut [(keeperU, Reg.RCV_FOGS_COUNT)] s t ∧ SameMemBut 0 0 s t)) ∧
  (∀ (s : State) (src taddr len : Nat) (data : List Byte),
      s.gated (taDie taddr) = true →
      Yields (.packetArrive src taddr true data len ⟨0, 0⟩) s (fun t => t.heldTx = s.heldTx ++ [⟨src, taddr, some data, len, 0⟩] ∧ t.out = s.out ∧ SameMemBut 0 0 s t)) ∧
  (∀ (s : State) (src taddr len flips group : Nat) (write : Bool) (data : List Byte),
      2 ≤ flips →
      Yields (.packetArrive src taddr write data len ⟨flips, group⟩) s (fun t => t.out.head? = some (.answer eECC_UE 0 []) ∧ SameMemBut 0 0 s t)) ∧
  (∀ (s : State) (group : Nat) (results : List (Nat × Nat)),
      (s.leaves (2 ^ 31 + group % 2 ^ 31)).isEmpty = false →
      (∀ l ∈ s.leaves (2 ^ 31 + group % 2 ^ 31), ∃ r ∈ results, r.1 = l) →
      (∀ r ∈ results, r.2 = 0) →
      Yields (.groupWriteComplete group results) s (fun t => t.out = .groupAnswer (2 ^ 31 + group % 2 ^ 31) 0 0 [] :: s.out ∧ SameBut [] s t)) ∧
  (∀ (s : State) (group l code : Nat) (ok rest : List Nat) (results : List (Nat × Nat)),
      s.leaves (2 ^ 31 + group % 2 ^ 31) = ok ++ l :: rest →
      results = ok.map (fun k => (k, 0)) ++ (l, code) :: rest.map (fun k => (k, 0)) →
      l ∉ ok →
      l ∉ rest →
      code ≠ 0 →
      Yields (.groupWriteComplete group results) s (fun t => t.out = .groupAnswer (2 ^ 31 + group % 2 ^ 31) code l [] :: s.out ∧ SameBut [] s t)) ∧
  (∀ (s : State) (src v : Nat),
      s.running = false →
      Yields (.registerWrite src keeperU 0x900084 ⟨leBytes 4 v, []⟩) s (fun t => t.rd keeperU Reg.RCV_CFG_STEP_MS = v % 2 ^ 16 ∧ t.rd keeperU Reg.RCV_CFG_REPLY_MS = v / 2 ^ 16 % 2 ^ 8 ∧
        t.rd keeperU Reg.RCV_CFG_CABLE_S = v / 2 ^ 24 % 2 ^ 8 ∧
        SameRegsBut [(keeperU, Reg.RCV_CFG_STEP_MS), (keeperU, Reg.RCV_CFG_REPLY_MS), (keeperU, Reg.RCV_CFG_CABLE_S)] s t ∧
        t.out = .answer 0 0 [] :: s.out)) ∧
  (∀ (s : State) (src die core eng r v u : Nat) (f : Field),
      die < 24 →
      core < 16 →
      eng < 2 →
      r < 8 →
      s.running = false →
      (u, f) ∈ [(dmaU die core, Reg.RING_BASE_LO_ADDR r), (dmaU die core, Reg.RING_BASE_HI_ADDR r), (stkU die core, Reg.STK_BASE_LO_ADDR),
        (stkU die core, Reg.STK_BASE_HI_ADDR), (stkU die core, Reg.STK_SIZE_LO_SIZE), (stkU die core, Reg.STK_SIZE_HI_SIZE),
        (ueU die, Reg.UE_LIST_LO_ADDR), (ueU die, Reg.UE_LIST_HI_ADDR), (ueU die, Reg.UE_PAIRRING_MASK), (portU (2 + eng), Reg.FAB_INJ_SEED_VALUE)] →
      Yields (.registerWrite src u f.off ⟨leBytes 4 v, []⟩) s (fun t => t.rd u f = v % 2 ^ (f.hi + 1) ∧ SameRegsBut [(u, f)] s t ∧ t.out = .answer 0 0 [] :: s.out ∧ SameMemBut 0 0 s t)) ∧
  (∀ (s : State) (src die core eng u : Nat) (f : Field),
      die < 24 →
      core < 16 →
      eng < 2 →
      (u, f) ∈ [(dmaU die core, Reg.DMA_STAT_FAULTED), (dmaU die core, Reg.SPK_STAT_FAULTED), (stkU die core, Reg.STK_STAT_FAULTED),
        (stkU die core, Reg.STK_STAT_STALE), (dramU die, Reg.DRAM_STAT_CE), (dramU die, Reg.DRAM_STAT_UE),
        (gmeU die eng, Reg.GME_STAT_FAULTED), (ueU die, Reg.UE_STAT_FAULTED), (spU die core, Reg.SP_STAT_CONFLICT)] →
      Yields (.registerWrite src u f.off ⟨leBytes 4 (2 ^ f.lo), []⟩) s (fun t => t.rd u f = 0 ∧ t.out = .answer 0 0 [] :: s.out ∧ SameMemBut 0 0 s t)) ∧
  (∀ (s : State) (src die core eng u : Nat) (f : Field),
      die < 24 →
      core < 16 →
      eng < 2 →
      (u, f) ∈ [(dmaU die core, Reg.DMA_STAT_FAULTED), (dramU die, Reg.DRAM_STAT_CE), (dramU die, Reg.DRAM_STAT_UE),
        (gmeU die eng, Reg.GME_STAT_FAULTED), (ueU die, Reg.UE_STAT_FAULTED), (spU die core, Reg.SP_STAT_CONFLICT)] →
      Yields (.registerWrite src u f.off ⟨leBytes 4 (2 ^ f.lo), [(f.off, 2 ^ f.lo)]⟩) s (fun t => t.rd u f = 1 ∧ t.out = .answer 0 0 [] :: s.out)) ∧
  (∀ (s : State) (src die core v : Nat),
      die < 24 →
      core < 16 →
      s.rd (seqU die core) Reg.SEQ_PC_PC < 8192 →
      Yields (.registerWrite src (seqU die core) 4 ⟨leBytes 4 v, []⟩) s (fun t => t.rd (seqU die core) Reg.SEQ_PC_PC = s.rd (seqU die core) Reg.SEQ_PC_PC ∧ SameRegsBut [] s t ∧ t.out = .answer 0 0 [] :: s.out)) ∧
  (∀ (s : State) (src v : Nat),
      s.running = true →
      Yields (.registerWrite src keeperU 0x900084 ⟨leBytes 4 v, []⟩) s (fun t => SameRegsBut [] s t ∧ t.out = .answer eBUSY 0 [] :: s.out)) ∧
  (∀ (s : State) (src : Nat),
      Yields (.rcFieldRead src keeperU 0x900094 []) s (fun t => t.rd keeperU Reg.RCV_FOGS_COUNT = 0 ∧ SameRegsBut [(keeperU, Reg.RCV_FOGS_COUNT)] s t ∧
        t.out = .answer 0 0 (leBytes 4 (s.rd keeperU Reg.RCV_FOGS_COUNT)) :: s.out)) ∧
  (∀ (s : State) (src die core eng p u : Nat) (f : Field),
      die < 24 →
      core < 16 →
      eng < 2 →
      2 ≤ p →
      p < 12 →
      (u, f) ∈ [(seqU die core, Reg.SEQ_FROZEN_COUNT), (seqU die core, Reg.SEQ_NEARMISS_COUNT), (dmaU die core, Reg.DMA_CLAMP_COUNT),
        (dmaU die core, Reg.DMA_XFERS_COUNT), (dmaU die core, Reg.SPK_TILES_COUNT), (drainU die core, Reg.DRAIN_NONFIN_COUNT),
        (stkU die core, Reg.STK_STALE_COUNT), (dramU die, Reg.DRAM_CE_COUNT), (dramU die, Reg.DRAM_REFWAIT_COUNT),
        (gmeU die eng, Reg.GME_HIT_COUNT), (ueU die, Reg.UE_ELEMS_COUNT), (tuU die, Reg.TU_MISS_COUNT), (portU p, Reg.FAB_CRC_COUNT),
        (portU p, Reg.FAB_RXF_COUNT)] →
      Yields (.rcFieldRead src u f.off []) s (fun t => t.rd u f = 0 ∧ SameRegsBut [(u, f)] s t ∧ t.out = .answer 0 0 (leBytes 4 (s.rd u f)) :: s.out ∧ SameMemBut 0 0 s t)) ∧
  (∀ (s : State) (src n : Nat),
      Yields (.rcFieldRead src keeperU 0x900094 [(0, n)]) s (fun t => t.rd keeperU Reg.RCV_FOGS_COUNT = Nat.min n (2 ^ 32 - 1) ∧
        t.out = .answer 0 0 (leBytes 4 (s.rd keeperU Reg.RCV_FOGS_COUNT)) :: s.out)) ∧
  (∀ (s : State) (src : Nat),
      Yields (.loCaptureRead src clkU 8 false) s (fun t => t.rd clkU Reg.TS_HI_VALUE = s.ts / 2 ^ 32 % 2 ^ 32 ∧ t.ts = s.ts ∧
        t.out = .answer 0 0 (leBytes 4 s.ts) :: s.out)) ∧
  (∀ (s : State) (src die core u : Nat) (lo hi : Field),
      die < 24 →
      core < 16 →
      (u, lo, hi) ∈ [(seqU die core, Reg.SEQ_CYC_LO_VALUE, Reg.SEQ_CYC_HI_VALUE), (dmaU die core, Reg.DMA_FADDR_LO_ADDR, Reg.DMA_FADDR_HI_ADDR),
        (tuU die, Reg.TU_FADDR_LO_ADDR, Reg.TU_FADDR_HI_ADDR), (keeperU, Reg.FX_STEP_LO_VALUE, Reg.FX_STEP_HI_VALUE),
        (keeperU, Reg.FX_UPD_LO_VALUE, Reg.FX_UPD_HI_VALUE), (keeperU, Reg.RCV_CKJOB_LO_VALUE, Reg.RCV_CKJOB_HI_VALUE)] →
      Yields (.loCaptureRead src u lo.off false) s (fun t => t.rd u hi = s.rd u lo / 2 ^ 32 % 2 ^ 32 ∧ SameRegsBut [(u, hi)] s t ∧ t.out = .answer 0 0 (leBytes 4 (s.rd u lo)) :: s.out ∧ SameMemBut 0 0 s t)) ∧
  (∀ (s : State) (src : Nat),
      Yields (.loCaptureRead src clkU 8 true) s (fun t => t.rd clkU Reg.TS_HI_VALUE = s.rd clkU Reg.TS_HI_VALUE ∧ t.ts = s.ts ∧
        t.out = .answer 0 0 (leBytes 8 s.ts) :: s.out))

/-- A read of a stack below its reserved region and out of self-refresh, whose words have at most a single-bit error,
returns the bytes and leaves every word it touched corrected; a write there, over sound words, stores its bytes and is
answered. The patrol scrubber of an enabled stack out of self-refresh moves to its channel's next block; refresh
counts the accesses it delayed. An address whose 2 MiB page is the newest such leaf cached, with the permission
needed, is translated by it; an address that is not canonical is answered with XLATE_FAULT and recorded. An
invalidation that the keeper begins shows busy, and its end clears the cache. (08_bonded_dram R188; 08_bonded_dram
R194; 08_bonded_dram R197; 08_bonded_dram R199; 08_bonded_dram R201; 08_bonded_dram R202; 07_streams_layout R163.) -/
def Obligations.DramAndTranslationComplete : Prop :=
  (∀ (s : State) (src die off len : Nat),
      die < 24 →
      s.rd (dramU die) Reg.DRAM_STAT_SELF_REF = 0 →
      off + len ≤ reservedOff →
      (∀ w ∈ wordsOf (dramAddr die off) len, mget s.ecc w 0 ≤ 1) →
      Yields (.dramRead src die off len []) s (fun t => t.out = .answer 0 0 (s.bytesAt (dramAddr die off) len) :: s.out ∧
        (∀ w ∈ wordsOf (dramAddr die off) len, mget t.ecc w 0 = 0) ∧ SameMemBut 0 0 s t)) ∧
  (∀ (s : State) (src die off : Nat) (data : List Byte),
      die < 24 →
      s.rd (dramU die) Reg.DRAM_STAT_SELF_REF = 0 →
      off + data.length ≤ reservedOff →
      (∀ w ∈ wordsOf (dramAddr die off) data.length, mget s.ecc w 0 = 0) →
      Yields (.dramWrite src die off data []) s (fun t => Holds t (dramAddr die off) data ∧ SameMemBut (dramAddr die off) data.length s t ∧
        t.out = .answer 0 0 [] :: s.out)) ∧
  (∀ (s : State) (die ch : Nat),
      die < 24 →
      ch < 32 →
      s.rd (dramU die) Reg.DRAM_SCRUB_EN = 1 →
      s.rd (dramU die) Reg.DRAM_STAT_SELF_REF = 0 →
      Yields (.patrolScrub die ch []) s (fun t => mget t.patrol (die * 32 + ch) 0 = nextBlock ch 64 (mget s.patrol (die * 32 + ch) 0) + 64 ∧ SameMemBut 0 0 s t)) ∧
  (∀ (s : State) (die delayed : Nat),
      die < 24 →
      Yields (.dramRefresh die delayed) s (fun t => t.rd (dramU die) Reg.DRAM_REFWAIT_COUNT = Nat.min (s.rd (dramU die) Reg.DRAM_REFWAIT_COUNT + delayed) (2 ^ 32 - 1) ∧
        SameRegsBut [(dramU die, Reg.DRAM_REFWAIT_COUNT)] s t)) ∧
  (∀ (s : State) (die agent va need e : Nat) (rest : List (Nat × Nat)),
      die < 24 →
      s.rd (dramU die) Reg.DRAM_STAT_SELF_REF = 0 →
      canonical va = true →
      (mget s.tus die {}).small = (va % 2 ^ 57 / 2 ^ 21, e) :: rest →
      entryAllows e need = true →
      Yields (.translationWalk die agent va need []) s (fun t => t.out = .answer 0 0 (leBytes 8 (leafTarget e 0 va)) :: s.out ∧ SameRegsBut [] s t ∧ SameMemBut 0 0 s t)) ∧
  (∀ (s : State) (die agent va need : Nat),
      die < 24 →
      canonical va = false →
      Yields (.translationWalk die agent va need []) s (fun t => t.out = .answer eXLATE 0 [] :: s.out ∧ t.rd (tuU die) Reg.TU_STAT_FAULTED = 1 ∧ t.rd (tuU die) Reg.TU_FINFO_CAUSE = 1)) ∧
  (∀ (s : State) (die : Nat),
      die < 24 →
      Yields (.tuInval (s.unitAddr keeperU) die) s (fun t => t.rd (tuU die) Reg.TU_STAT_INVAL_BUSY = 1 ∧ SameRegsBut [(tuU die, Reg.TU_STAT_INVAL_BUSY)] s t ∧ t.tus = s.tus)) ∧
  (∀ (s : State) (die : Nat),
      die < 24 →
      s.rd (tuU die) Reg.TU_STAT_INVAL_BUSY = 1 →
      Yields (.invalidationDone die) s (fun t => t.rd (tuU die) Reg.TU_STAT_INVAL_BUSY = 0 ∧ mget t.tus die {} = {} ∧
        SameRegsBut [(tuU die, Reg.TU_STAT_INVAL_BUSY)] s t))

/-- A single waiting 64-byte read of sound words, with no other request and no scheduled access, is granted and answered
with its bytes; a request that has waited 256 CCLK is promoted; the scrubber of a bank that nothing uses corrects the
bank's word at the front of the queue of words found with a single-bit error, and with nothing queued and no word
upset goes to the bank's next row, bank 0 counting the pass after its last row. (06_scratchpad R145; 06_scratchpad
R146; 06_scratchpad R155; 06_scratchpad R157.) -/
def Obligations.ScratchpadTrafficCompletes : Prop :=
  (∀ (s : State) (die core src off waited : Nat) (promoted : Bool),
      die < 24 →
      core < 16 →
      (mget s.arbs (die * 16 + core) {}).reqs = [⟨src, off, none, 64, waited, promoted, 0⟩] →
      (mget s.arbs (die * 16 + core) {}).held = [] →
      off % 64 = 0 →
      off + 64 ≤ spBytes →
      (∀ w ∈ wordsOf (epAddr (spU die core) off) 64, mget s.ecc w 0 = 0) →
      Yields (.arbitratedAccess die core 0 0 []) s (fun t => (mget t.arbs (die * 16 + core) {}).reqs = [] ∧
        t.out = .answer 0 0 (s.bytesAt (epAddr (spU die core) off) 64) :: s.out ∧ SameMemBut 0 0 s t ∧ SameRegsBut [] s t)) ∧
  (∀ (s : State) (die core : Nat) (r : ArbReq),
      r ∈ (mget s.arbs (die * 16 + core) {}).reqs →
      256 ≤ r.waited →
      Yields (.requestPromotion die core) s (fun t => { r with promoted := true } ∈ (mget t.arbs (die * 16 + core) {}).reqs ∧
        (mget t.arbs (die * 16 + core) {}).reqs.length = (mget s.arbs (die * 16 + core) {}).reqs.length)) ∧
  (∀ (s : State) (die core bank w : Nat),
      die < 24 →
      core < 16 →
      bank < 32 →
      s.scrubQ.head? = some w →
      epAddr (spU die core) 0 ≤ 4 * w →
      4 * w < epAddr (spU die core) 0 + spBytes →
      (4 * w - epAddr (spU die core) 0) / 64 % 32 = bank →
      mget s.ecc w 0 = 1 →
      (mget s.arbs (die * 16 + core) {}).reqs = [] →
      (mget s.arbs (die * 16 + core) {}).held = [] →
      Yields (.scratchpadScrub die core bank false []) s (fun t => mget t.ecc w 0 = 0 ∧ w ∉ t.scrubQ ∧ SameMemBut 0 0 s t ∧ SameRegsBut [] s t)) ∧
  (∀ (s : State) (die core bank row : Nat),
      die < 24 →
      core < 16 →
      bank < 32 →
      row < 3072 →
      s.scrubQ = [] →
      s.ecc = [] →
      (mget s.arbs (die * 16 + core) {}).reqs = [] →
      (mget s.arbs (die * 16 + core) {}).held = [] →
      mget (mget s.arbs (die * 16 + core) {}).rows bank 0 = row →
      Yields (.scratchpadScrub die core bank false []) s (fun t => mget (mget t.arbs (die * 16 + core) {}).rows bank 0 = (row + 1) % 3072 ∧ SameMemBut 0 0 s t ∧
        t.rd (spU die core) Reg.SP_STAT_SCRUB_PASSES = Nat.min (s.rd (spU die core) Reg.SP_STAT_SCRUB_PASSES % 2 ^ 16 + (if bank = 0 ∧ row = 3071 then 1 else 0)) (2 ^ 16 - 1)))

/-- An aligned write of 4 to 128 bytes within the buffer of a channel that is provided and not held by another sender
stores its bytes and locks the channel for its sender; a commit of 16 to 256 bytes by the sender that holds the lock
fills the channel; its receiver reads the message of a full channel, and releases it empty and zeroed; a lock is
broken, its channel left empty and zeroed and the loss counted. DB_SET sets its bits where no application core waits;
the keeper's writes of DB_CLR and DB_MASK clear its bits and set the mask. (19_keeper_minil R445; 19_keeper_minil
R447; 19_keeper_minil R448; 19_keeper_minil R451; 19_keeper_minil R452.) -/
def Obligations.MailboxesAndDoorbellsComplete : Prop :=
  (∀ (s : State) (src chan off : Nat) (data : List Byte),
      src < 2 ^ 32 →
      chan < 32 →
      s.rcvOf chan ≠ 0 →
      4 ≤ data.length →
      data.length ≤ 128 →
      off % data.length = 0 →
      off + data.length ≤ 256 →
      s.mbxBusy src chan = false →
      Yields (.mbxBufWrite src chan off data) s (fun t => t.mbxState chan = mLOCKED ∧ t.rd mbxU (Reg.MBX_SRC_UNIT chan) = src ∧ Holds t (mbxBuf chan + off) data ∧
        SameMemBut (mbxBuf chan + off) data.length s t ∧ t.out = .answer 0 0 [] :: s.out)) ∧
  (∀ (s : State) (src chan len : Nat),
      chan < 32 →
      s.rcvOf chan ≠ 0 →
      s.mbxState chan = mLOCKED →
      s.rd mbxU (Reg.MBX_SRC_UNIT chan) = src →
      16 ≤ len →
      len ≤ 256 →
      Yields (.mbxSend src chan len) s (fun t => t.mbxState chan = mFULL ∧ t.rd mbxU (Reg.MBX_STAT_LEN chan) = len ∧ t.rd mbxU (Reg.MBX_SRC_UNIT chan) = src ∧ SameMemBut 0 0 s t)) ∧
  (∀ (s : State) (src chan off len : Nat),
      chan < 32 →
      s.isReceiver src chan = true →
      s.mbxState chan = mFULL →
      Yields (.mbxBufRead src chan off len) s (fun t => t.out = .answer 0 0 (s.bytesAt (mbxBuf chan + off) len) :: s.out ∧ SameMemBut 0 0 s t ∧ SameRegsBut [] s t)) ∧
  (∀ (s : State) (src chan : Nat),
      chan < 32 →
      s.isReceiver src chan = true →
      s.mbxState chan = mFULL →
      Yields (.mbxDone src chan) s (fun t => t.mbxState chan = mEMPTY ∧ t.rd mbxU (Reg.MBX_STAT_RESULT chan) = 1 ∧ Holds t (mbxBuf chan) (List.replicate 256 0) ∧
        SameMemBut (mbxBuf chan) 256 s t)) ∧
  (∀ (s : State) (chan : Nat),
      chan < 32 →
      s.mbxState chan = mLOCKED →
      Yields (.mbxLockBreak chan) s (fun t => t.mbxState chan = mEMPTY ∧ Holds t (mbxBuf chan) (List.replicate 256 0) ∧ SameMemBut (mbxBuf chan) 256 s t ∧
        t.rd mbxU Reg.MBX_LOCKLOST_COUNT = Nat.min (s.rd mbxU Reg.MBX_LOCKLOST_COUNT + 1) (2 ^ 32 - 1))) ∧
  (∀ (s : State) (bits : Nat),
      (∀ e ∈ s.apps, e.2.wait = none) →
      Yields (.dbSet bits) s (fun t => t.rd mbxU Reg.DB_STAT_BITS = (s.rd mbxU Reg.DB_STAT_BITS ||| bits % 2 ^ 32) % 2 ^ 32 ∧
        SameRegsBut [(mbxU, Reg.DB_STAT_BITS)] s t)) ∧
  (∀ (s : State) (bits : Nat),
      Yields (.dbClr (s.unitAddr keeperU) bits) s (fun t => t.rd mbxU Reg.DB_STAT_BITS = clearBits (s.rd mbxU Reg.DB_STAT_BITS) (bits % 2 ^ 32) % 2 ^ 32 ∧
        SameRegsBut [(mbxU, Reg.DB_STAT_BITS)] s t)) ∧
  (∀ (s : State) (bits : Nat),
      Yields (.dbMaskWrite (s.unitAddr keeperU) bits) s (fun t => t.rd mbxU Reg.DB_MASK_MASK = bits % 2 ^ 32))

/-- The oldest arrival of a slot leaves its queue with the read; a count of access units that is at most the ring ahead of
those consumed is taken; a post of 16 bytes is queued and not yet answered; a release within the arrived count
advances the queue; a heartbeat marks its port alone. (15_application_cores R371; 15_application_cores R372;
17_multi_module_jobs R409; 17_multi_module_jobs R412; 16_hormen_fabric R385.) -/
def Obligations.UnitDoorsComplete : Prop :=
  (∀ (s : State) (slot d p l : Nat) (wide : Bool) (rest : List (Nat × Nat × Nat)),
      slot < 16 →
      mget s.arrivals slot [] = (d, p, l) :: rest →
      Yields (.strArrLoRead slot wide) s (fun t => mget t.arrivals slot [] = rest ∧ t.out = .answer 0 0 (leBytes (if wide then 8 else 4) d) :: s.out)) ∧
  (∀ (s : State) (slot count : Nat),
      slot < 16 →
      (count % 2 ^ 32 + 2 ^ 32 - s.rd (strU slot) Reg.STR_AUCONS_COUNT) % 2 ^ 32 ≤ 2 ^ mget s.auLog slot 0 →
      Yields (.strAuprod slot count) s (fun t => t.rd (strU slot) Reg.STR_AUPROD_COUNT = count % 2 ^ 32 ∧ SameRegsBut [(strU slot, Reg.STR_AUPROD_COUNT)] s t)) ∧
  (∀ (s : State) (src ep q : Nat) (data : List Byte),
      ep < 2 →
      q < 8 →
      data.length = 16 →
      Yields (.stqPost src ep q data) s (fun t => (t.stq (sendKey ep q)).posts =
          (s.stq (sendKey ep q)).posts ++ [⟨(s.stq (sendKey ep q)).posted, leAt data 0 8, leAt data 8 2, src⟩] ∧
        (t.stq (sendKey ep q)).posted = (s.stq (sendKey ep q)).posted + 1 ∧ t.out = s.out ∧ SameRegsBut [] s t)) ∧
  (∀ (s : State) (ep q count n : Nat),
      ep < 2 →
      q < 8 →
      count < 2 ^ 32 →
      n = (count + 2 ^ 32 - (s.stq (recvKey ep q)).released % 2 ^ 32) % 2 ^ 32 →
      (s.stq (recvKey ep q)).released + n ≤ (s.stq (recvKey ep q)).arrived →
      Yields (.stqRel ep q count) s (fun t => (t.stq (recvKey ep q)).released = (s.stq (recvKey ep q)).released + n ∧
        t.rd (stageU ep) (Reg.STQ_RELD_COUNT q) = ((s.stq (recvKey ep q)).released + n) % 2 ^ 32)) ∧
  (∀ (s : State) (port : Nat),
      port < 12 →
      Yields (.fabKhb port) s (fun t => (mget t.ports port {}).kok = true ∧ (∀ p, p ≠ port → mget t.ports p {} = mget s.ports p {}) ∧ SameRegsBut [] s t))

/-- In a running core with nothing in flight, a bundle that only loads an immediate into a scalar register writes it,
valid from the next cycle, and moves the program counter and the cycle on; a bundle that only waits for a tag that is
out freezes the core, which shows what it waits for, its program counter staying. A frozen core whose wait for a tag
reaches its limit halts with TIMEOUT. The arrival that completes a barrier's group returns the barrier's tag and ends
the wait for it. A write of SEQ_EVT to a core that is not frozen sets the pending bits and is answered.
(09_core_sequencer R208; 09_core_sequencer R226; 09_core_sequencer R229; 09_core_sequencer R232; 09_core_sequencer
R234; 09_core_sequencer R235.) -/
def Obligations.SequencerCompletes : Prop :=
  (∀ (s : State) (die core r v pc cyc : Nat),
      die < 24 →
      core < 16 →
      0 < r →
      r < 32 →
      v < 2 ^ 64 →
      pc + 1 < 8192 →
      cyc < 2 ^ 32 →
      s.core die core = { nextDue := cyc } →
      s.rd (seqU die core) Reg.SEQ_STAT_RUN = 1 →
      s.rd (seqU die core) Reg.SEQ_CYC_LO_VALUE = cyc →
      s.rd (seqU die core) Reg.SEQ_PC_PC = pc →
      s.bundleAt die core pc = 0x0A + 64 * r + 2 ^ 432 * v →
      Yields (.bundleIssue die core 0 []) s (fun t => (t.core die core).sval r (cyc + 1) = v ∧ t.rd (seqU die core) Reg.SEQ_PC_PC = pc + 1 ∧
        t.rd (seqU die core) Reg.SEQ_CYC_LO_VALUE = cyc + 1 ∧ SameMemBut 0 0 s t ∧ t.out = s.out)) ∧
  (∀ (s : State) (die core tag pc cyc : Nat),
      die < 24 →
      core < 16 →
      tag < 256 →
      pc < 8192 →
      cyc < 2 ^ 32 →
      s.core die core = { nextDue := cyc, tags := [(tag, .out)] } →
      s.rd (seqU die core) Reg.SEQ_STAT_RUN = 1 →
      s.rd (seqU die core) Reg.SEQ_CYC_LO_VALUE = cyc →
      s.rd (seqU die core) Reg.SEQ_PC_PC = pc →
      s.bundleAt die core pc = 1 + 64 * tag →
      Yields (.bundleIssue die core 0 []) s (fun t => t.rd (seqU die core) Reg.SEQ_STAT_FROZEN = 1 ∧ t.rd (seqU die core) Reg.SEQ_WAIT_KIND = 1 ∧
        t.rd (seqU die core) Reg.SEQ_WAIT_ID = tag ∧ t.rd (seqU die core) Reg.SEQ_PC_PC = pc ∧
        t.core die core = s.core die core ∧ SameMemBut 0 0 s t)) ∧
  (∀ (s : State) (die core tag pc : Nat),
      die < 24 →
      core < 16 →
      tag < 256 →
      pc < 8192 →
      (s.core die core).atEnd = false →
      mget (s.core die core).tags tag .free = .out →
      s.rd (seqU die core) Reg.SEQ_STAT_RUN = 1 →
      s.rd (seqU die core) Reg.SEQ_STAT_FROZEN = 1 →
      s.rd (seqU die core) Reg.SEQ_WAIT_KIND = 1 →
      s.rd (seqU die core) Reg.SEQ_PC_PC = pc →
      s.bundleAt die core pc = 1 + 64 * tag →
      0 < s.waitLimit die core (s.rd (seqU die core) Reg.SEQ_WAIT_CLASS) →
      Yields (.waitLimitExpiry die core) s (fun t => t.rd (seqU die core) Reg.SEQ_STAT_RUN = 0 ∧ t.rd (seqU die core) Reg.SEQ_STAT_HALTED = 1 ∧
        t.rd (seqU die core) Reg.SEQ_HALT_CAUSE = 9)) ∧
  (∀ (s : State) (die core b grp src gen tag : Nat) (got : List (Nat × Nat)),
      die < 24 →
      core < 16 →
      gen < 65535 →
      (s.core die core).barGroup = [(b, grp)] →
      mget (s.core die core).bars b {} = { gen := gen + 1, tag := some tag, got := got } →
      mget (s.core die core).tags tag .free = .out →
      (∀ l ∈ s.leaves grp, l = src ∨ (gen, l) ∈ got) →
      Yields (.barrierArrival die core grp src gen) s (fun t => mget (t.core die core).tags tag .free = .done ∧ (mget (t.core die core).bars b {}).tag = none ∧
        SameMemBut 0 0 s t ∧ SameRegsBut [] s t ∧ t.out = s.out)) ∧
  (∀ (s : State) (die core bits period : Nat),
      die < 24 →
      core < 16 →
      s.rd (seqU die core) Reg.SEQ_STAT_FROZEN = 0 →
      Yields (.seqEvt die core bits period) s (fun t => t.rd (seqU die core) Reg.SEQ_EVT_PEND = (s.rd (seqU die core) Reg.SEQ_EVT_PEND ||| bits % 256) % 256 ∧
        SameRegsBut [(seqU die core, Reg.SEQ_EVT_PEND)] s t ∧ t.out = .answer 0 0 [] :: s.out))

/-- In a running core that is not frozen: the one issue in flight of a cube, or of the matrix-vector unit, is added to its
accumulator in the cycle in which it becomes valid; a predicate result of the vector unit is written under its mask in
its cycle; eleven cycles after a drain start of a zero accumulator through record 0 with nothing converted, its tile
is written to the scratchpad as 1,024 zero bytes and the drain is idle; the last access of a group write stores its
bytes and frees its strip buffer. (03_cube_array R76; 03_cube_array R80; 03_cube_array R82; 03_cube_array R84;
03_cube_array R86; 03_cube_array R88.) -/
def Obligations.UnitResultsLand : Prop :=
  (∀ (s : State) (die core k : Nat) (q : CubeSt) (o : CubeOp),
      die < 24 →
      core < 16 →
      s.rd (seqU die core) Reg.SEQ_STAT_RUN = 1 →
      s.rd (seqU die core) Reg.SEQ_STAT_FROZEN = 0 →
      s.rd (seqU die core) Reg.SEQ_CYC_LO_VALUE = o.due →
      (s.core die core).cubes = [(k, q)] →
      q.sload = [] →
      q.ops = [o] →
      o.due ≤ (s.core die core).nextDue →
      Yields (.cubeAccumulate die core) s (fun t => mget (t.core die core).cubes k {} = CubeSt.apply { q with ops := [] } o ∧ SameMemBut 0 0 s t ∧ SameRegsBut [] s t ∧ t.out = s.out)) ∧
  (∀ (s : State) (die core : Nat) (o : MvOp),
      die < 24 →
      core < 16 →
      s.rd (seqU die core) Reg.SEQ_STAT_RUN = 1 →
      s.rd (seqU die core) Reg.SEQ_STAT_FROZEN = 0 →
      s.rd (seqU die core) Reg.SEQ_CYC_LO_VALUE = o.due →
      (s.core die core).mv.vload = [] →
      (s.core die core).mv.ops = [o] →
      (s.core die core).vops = [] →
      o.due ≤ (s.core die core).nextDue →
      Yields (.mvAccumulate die core) s (fun t => (t.core die core).mv = MvSt.apply { (s.core die core).mv with ops := [] } o ∧ SameMemBut 0 0 s t ∧ SameRegsBut [] s t ∧ t.out = s.out)) ∧
  (∀ (s : State) (die core r bits mask due : Nat),
      die < 24 →
      core < 16 →
      s.rd (seqU die core) Reg.SEQ_STAT_RUN = 1 →
      s.rd (seqU die core) Reg.SEQ_STAT_FROZEN = 0 →
      s.rd (seqU die core) Reg.SEQ_CYC_LO_VALUE = due →
      (s.core die core).vops = [⟨due, [.pred r bits mask]⟩] →
      due ≤ (s.core die core).nextDue →
      Yields (.vuResultWrite die core) s (fun t => (t.core die core).vops = [] ∧
        mget (t.core die core).preg r 0 = clearBits (mget (s.core die core).preg r 0) mask ||| (bits &&& mask) ∧
        SameMemBut 0 0 s t ∧ SameRegsBut [] s t ∧ t.out = s.out)) ∧
  (∀ (s : State) (die core d m : Nat),
      die < 24 →
      core < 16 →
      d < 2 ^ 32 →
      2048 * m + 1024 ≤ spBytes →
      s.rd (seqU die core) Reg.SEQ_STAT_RUN = 1 →
      s.rd (seqU die core) Reg.SEQ_STAT_FROZEN = 0 →
      s.rd (seqU die core) Reg.SEQ_CYC_LO_VALUE = d + 11 →
      s.core die core = { nextDue := d + 12, drain := { ops := [⟨d, 0, 0, 16, List.replicate 256 0, 0, 2048 * m, 0, false, 0, [], [], [], none⟩] } } →
      Yields (.drainTileWrite die core) s (fun t => Holds t (epAddr (spU die core) (2048 * m)) (List.replicate 1024 0) ∧
        SameMemBut (epAddr (spU die core) (2048 * m)) 1024 s t ∧ (t.core die core).drain.ops = [] ∧
        t.rd (drainU die core) Reg.DRAIN_STAT_BUSY = 0 ∧ t.rd (seqU die core) Reg.SEQ_CYC_LO_VALUE = d + 12)) ∧
  (∀ (s : State) (die core k cyc off : Nat) (b : BandSt) (bs : List Byte),
      die < 24 →
      core < 16 →
      k < 4 →
      cyc < 2 ^ 32 →
      off % 64 = 0 →
      0 < bs.length →
      bs.length ≤ 512 →
      off + bs.length ≤ spBytes →
      s.rd (seqU die core) Reg.SEQ_STAT_RUN = 1 →
      s.rd (seqU die core) Reg.SEQ_STAT_FROZEN = 0 →
      s.rd (seqU die core) Reg.SEQ_CYC_LO_VALUE = cyc →
      s.core die core = { nextDue := cyc + 1, drain := { bands := [(k, some { b with ready := some cyc })], writes := [⟨k, cyc, [(off, bs)]⟩] } } →
      Yields (.drainGroupWrite die core) s (fun t => Holds t (epAddr (spU die core) off) bs ∧ SameMemBut (epAddr (spU die core) off) bs.length s t ∧
        (t.core die core).drain.writes = [] ∧ mget (t.core die core).drain.bands k none = none ∧
        t.rd (drainU die core) Reg.DRAIN_STAT_OPEN = 0))

/-- A transfer whose descriptor has arrived starts; a fetch of a ring of sixteen descriptors, its page cached and its
words sound, brings all sixteen. A load of one FP32 element copies its four bytes, as they stand or as they stood at
issue, to the scratchpad and returns its tag; a store of one FP32 element copies them back and returns its tag. A copy
of 64 bytes of a multicast is written to its leaf, whose free tag is recorded done, and with every leaf's copy written
the transfer ends and returns its tag. A tile of a pack or an expand transfer that meets no fault is written, counted
and passed. An access fault at an address that is not canonical captures the address and the tag and returns the tag
in error. A tag with no instruction load is returned; an instruction load of one bundle writes it and returns its tag.
(07_streams_layout R162; 07_streams_layout R174; 07_streams_layout R177; 07_streams_layout R178; 07_streams_layout
R180; 04_weight_sparsity R110; 04_weight_sparsity R111; 09_core_sequencer R210; 09_core_sequencer R228.) -/
def Obligations.TransfersComplete : Prop :=
  (∀ (s : State) (die core r d n : Nat),
      die < 24 →
      core < 16 →
      r < 8 →
      n < 32 →
      (s.core die core).xfers = [{ ring := r, desc := some d }] →
      s.rd (dmaU die core) (Reg.RING_POS_AHEAD r) = n + 1 →
      Yields (.dmaTransferStart die core) s (fun t => (t.core die core).xfers = [{ ring := r, desc := some d, started := true }] ∧
        t.rd (dmaU die core) (Reg.RING_POS_AHEAD r) = n ∧ SameMemBut 0 0 s t)) ∧
  (∀ (s : State) (die core r p e home q i : Nat),
      die < 24 →
      core < 16 →
      r < 8 →
      i % 1024 = 0 →
      i + 1024 ≤ 2 ^ 21 →
      s.pageAt die p e home q = true →
      s.ecc = [] →
      s.net = [] →
      (s.core die core).xfers = [] →
      (s.core die core).stk = [] →
      (s.core die core).fetched = [] →
      s.ringSlots die core r = 16 →
      s.rd (dmaU die core) (Reg.RING_POS_AHEAD r) = 0 →
      s.rd (dmaU die core) (Reg.RING_POS_NEXT r) = 0 →
      s.rd (dmaU die core) (Reg.RING_BASE_LO_ADDR r) + 2 ^ 32 * s.rd (dmaU die core) (Reg.RING_BASE_HI_ADDR r) = p * 2 ^ 21 + i →
      Yields (.descriptorFetch die core r []) s (fun t => t.rd (dmaU die core) (Reg.RING_POS_AHEAD r) = 16 ∧
        mget (t.core die core).fetched r [] = (List.range 16).map (fun k => s.numAt (pageByte home q (i + 64 * k)) 64) ∧ SameMemBut 0 0 s t)) ∧
  (∀ (s : State) (die core tag r loc p e home q i d : Nat),
      die < 24 →
      core < 16 →
      tag < 256 →
      r < 8 →
      s.pageAt die p e home q = true →
      s.ecc = [] →
      s.net = [] →
      (s.core die core).xfers = [{ ring := r, desc := some d, started := true }] →
      mget (s.core die core).tags tag .free = .out →
      loc % 4 = 0 →
      loc + 4 ≤ spBytes →
      i % 4 = 0 →
      i + 4 ≤ 2 ^ 21 →
      d = p * 2 ^ 21 + i + 2 ^ 104 + 2 ^ 168 + 2 ^ 232 + 2 ^ 296 + 2 ^ 360 + tag * 2 ^ 448 + loc * 2 ^ 480 →
      Yields (.dmaTransferComplete die core tag []) s (fun t => Holds t (epAddr (spU die core) loc) (s.bytesAt (pageByte home q i) 4) ∧ SameMemBut (epAddr (spU die core) loc) 4 s t ∧
        (t.core die core).xfers = [] ∧ mget (t.core die core).tags tag .free = .done)) ∧
  (∀ (s : State) (die core tag r loc p e home q i d : Nat),
      die < 24 →
      core < 16 →
      tag < 256 →
      r < 8 →
      s.pageAt die p e home q = true →
      s.ecc = [] →
      s.net = [] →
      (s.core die core).xfers = [{ ring := r, desc := some d, started := true }] →
      mget (s.core die core).tags tag .free = .out →
      loc % 4 = 0 →
      loc + 4 ≤ spBytes →
      i % 4 = 0 →
      i + 4 ≤ 2 ^ 21 →
      d = p * 2 ^ 21 + i + 2 ^ 104 + 2 ^ 168 + 2 ^ 232 + 2 ^ 296 + 2 ^ 360 + tag * 2 ^ 448 + loc * 2 ^ 480 + 2 ^ 463 →
      Yields (.dmaTransferComplete die core tag []) s (fun t => Holds t (pageByte home q i) (s.bytesAt (epAddr (spU die core) loc) 4) ∧ SameMemBut (pageByte home q i) 4 s t ∧
        (t.core die core).xfers = [] ∧ mget (t.core die core).tags tag .free = .done)) ∧
  (∀ (s : State) (die core tag r loc p e home q i d b0 b1 b2 b3 : Nat),
      die < 24 →
      core < 16 →
      tag < 256 →
      r < 8 →
      s.pageAt die p e home q = true →
      s.ecc = [] →
      s.net = [] →
      (s.core die core).xfers = [{ ring := r, desc := some d, started := true, snap := some [(pageByte home q i, BitVec.ofNat 8 b0), (pageByte home q i + 1, BitVec.ofNat 8 b1),
        (pageByte home q i + 2, BitVec.ofNat 8 b2), (pageByte home q i + 3, BitVec.ofNat 8 b3)] }] →
      mget (s.core die core).tags tag .free = .out →
      loc % 4 = 0 →
      loc + 4 ≤ spBytes →
      i % 4 = 0 →
      i + 4 ≤ 2 ^ 21 →
      d = p * 2 ^ 21 + i + 2 ^ 104 + 2 ^ 168 + 2 ^ 232 + 2 ^ 296 + 2 ^ 360 + tag * 2 ^ 448 + loc * 2 ^ 480 →
      Yields (.dmaTransferComplete die core tag []) s (fun t => Holds t (epAddr (spU die core) loc) [BitVec.ofNat 8 b0, BitVec.ofNat 8 b1, BitVec.ofNat 8 b2, BitVec.ofNat 8 b3] ∧
        SameMemBut (epAddr (spU die core) loc) 4 s t ∧ (t.core die core).xfers = [] ∧ mget (t.core die core).tags tag .free = .done)) ∧
  (∀ (s : State) (die core tag r leaf ld lc d : Nat) (x : Xfer) (bs : List Byte),
      die < 24 →
      core < 16 →
      tag < 256 →
      r < 8 →
      ld < 24 →
      lc < 16 →
      (ld, lc) ≠ (die, core) →
      (s.core die core).xfers = [x] →
      x.desc = some d →
      x.started = true →
      x.moved = false →
      x.held = [] →
      x.buf = some bs →
      x.copies = [] →
      dTag d = tag →
      dMcast d = true →
      dFmt d = some .fp32 →
      dCvtFmt d = some .fp32 →
      (s.mcastLeaves die core d)[leaf]? = some (ld, lc) →
      bs.length = 64 →
      dLocal d % 64 = 0 →
      dLocal d + 64 ≤ spBytes →
      s.ecc = [] →
      (s.core ld lc).hasCode = true →
      mget (s.core ld lc).tags tag .free = .free →
      Yields (.multicastCopyComplete die core tag leaf []) s (fun t => Holds t (epAddr (spU ld lc) (dLocal d)) bs ∧ SameMemBut (epAddr (spU ld lc) (dLocal d)) 64 s t ∧
        (t.core die core).xfers = [{ x with copies := [leaf] }] ∧ mget (t.core ld lc).tags tag .free = .done)) ∧
  (∀ (s : State) (die core tag d : Nat) (x : Xfer),
      die < 24 →
      core < 16 →
      tag < 256 →
      (s.core die core).xfers = [x] →
      x.desc = some d →
      x.started = true →
      x.moved = false →
      x.held = [] →
      x.last = false →
      dTag d = tag →
      dMcast d = true →
      dPack d = false →
      dExpand d = false →
      dFmt d = some .fp32 →
      dCvtFmt d = some .fp32 →
      dPerm d = 0 →
      ctlBit d 10 = false →
      (∀ k, k < (s.mcastLeaves die core d).length → k ∈ x.copies) →
      mget (s.core die core).tags tag .free = .out →
      Yields (.dmaTransferComplete die core tag []) s (fun t => (t.core die core).xfers = [] ∧ mget (t.core die core).tags tag .free = .done ∧ SameMemBut 0 0 s t)) ∧
  (∀ (s : State) (die core tag r va d : Nat),
      die < 24 →
      core < 16 →
      tag < 256 →
      r < 8 →
      canonical va = false →
      va < 2 ^ 64 →
      (s.core die core).xfers = [{ ring := r, desc := some d, started := true }] →
      mget (s.core die core).tags tag .free = .out →
      d = va + 2 ^ 104 + 2 ^ 168 + 2 ^ 232 + 2 ^ 296 + 2 ^ 360 + tag * 2 ^ 448 →
      Yields (.dmaAccessFault die core tag 0 0 []) s (fun t => t.rd (dmaU die core) Reg.DMA_STAT_FAULTED = 1 ∧ t.rd (dmaU die core) Reg.DMA_FADDR_LO_ADDR = va ∧
        t.rd (dmaU die core) Reg.DMA_FINFO_CAUSE = 1 ∧ t.rd (dmaU die core) Reg.DMA_FINFO_TAG = tag ∧
        (t.core die core).xfers = [] ∧ mget (t.core die core).tags tag .free = .err 4 ∧ SameMemBut 0 0 s t)) ∧
  (∀ (s : State) (die core tag d : Nat) (x : Xfer) (st : PackStep),
      die < 24 →
      core < 16 →
      tag < 256 →
      (s.core die core).xfers = [x] →
      x.desc = some d →
      x.started = true →
      x.moved = false →
      x.held = [] →
      dTag d = tag →
      dPack d = true →
      x.tiles < dCnt d 2 →
      (s.asIssued x (fun v => v.packNext (s.dmaAgent die core) die core d 0 x)).2.1 = some st →
      (s.asIssued x (fun v => v.packNext (s.dmaAgent die core) die core d 0 x)).2.2 = none →
      ((s.asIssued x (fun v => v.packNext (s.dmaAgent die core) die core d 0 x)).1.writeRuns (s.dmaAgent die core) 0 (joinWrites [((dBase d + x.pos) % 2 ^ 64, st.tile)])).2.2 = none →
      (((s.asIssued x (fun v => v.packNext (s.dmaAgent die core) die core d 0 x)).1.writeRuns (s.dmaAgent die core) 0 (joinWrites [((dBase d + x.pos) % 2 ^ 64, st.tile)])).1.core die core).xfers = [x] →
      Yields (.packTileWrite die core tag []) s (fun t => (t.core die core).xfers = [{ x with tiles := x.tiles + 1, pos := x.pos + st.stride }] ∧
        t.rd (dmaU die core) Reg.SPK_TILES_COUNT =
          Nat.min (((s.asIssued x (fun v => v.packNext (s.dmaAgent die core) die core d 0 x)).1.writeRuns (s.dmaAgent die core) 0 (joinWrites [((dBase d + x.pos) % 2 ^ 64, st.tile)])).1.rd (dmaU die core) Reg.SPK_TILES_COUNT + 1) (2 ^ 32 - 1))) ∧
  (∀ (s : State) (die core tag d off size : Nat) (x : Xfer) (bs : List Byte),
      die < 24 →
      core < 16 →
      tag < 256 →
      (s.core die core).xfers = [x] →
      x.desc = some d →
      x.started = true →
      x.moved = false →
      x.held = [] →
      dTag d = tag →
      dPack d = false →
      dExpand d = true →
      x.tiles < dCnt d 2 →
      (s.asIssued x (fun v => v.expandNext (s.dmaAgent die core) d 0 x)).2.1 = some (off, bs, size, Events.none) →
      (s.asIssued x (fun v => v.expandNext (s.dmaAgent die core) d 0 x)).2.2 = none →
      ((s.asIssued x (fun v => v.expandNext (s.dmaAgent die core) d 0 x)).1.localWrite (s.unitAddr (dmaU die core)) die core off bs).2 = none →
      (((s.asIssued x (fun v => v.expandNext (s.dmaAgent die core) d 0 x)).1.localWrite (s.unitAddr (dmaU die core)) die core off bs).1.core die core).xfers = [x] →
      Yields (.expandTile die core tag []) s (fun t => (t.core die core).xfers = [{ x with tiles := x.tiles + 1, pos := x.pos + size }] ∧
        (∀ a, Memory.get t.mem a = Memory.get ((s.asIssued x (fun v => v.expandNext (s.dmaAgent die core) d 0 x)).1.localWrite (s.unitAddr (dmaU die core)) die core off bs).1.mem a))) ∧
  (∀ (s : State) (die core tag : Nat),
      die < 24 →
      core < 16 →
      tag < 256 →
      (s.core die core).iloads = [] →
      mget (s.core die core).tags tag .free = .out →
      Yields (.tagReturn die core tag 0 0 []) s (fun t => mget (t.core die core).tags tag .free = .done ∧ SameMemBut 0 0 s t ∧ t.out = s.out)) ∧
  (∀ (s : State) (die core tag dst p e home q i : Nat),
      die < 24 →
      core < 16 →
      tag < 256 →
      dst < 8192 →
      i % 64 = 0 →
      i + 64 ≤ 2 ^ 21 →
      s.pageAt die p e home q = true →
      s.ecc = [] →
      s.net = [] →
      (s.core die core).iloads = [⟨tag, p * 2 ^ 21 + i, dst, 1⟩] →
      mget (s.core die core).tags tag .free = .out →
      Yields (.tagReturn die core tag 0 0 []) s (fun t => Holds t (epAddr (seqU die core) (0x100000 + 64 * dst)) (s.bytesAt (pageByte home q i) 64) ∧
        SameMemBut (epAddr (seqU die core) (0x100000 + 64 * dst)) 64 s t ∧
        (t.core die core).iloads = [] ∧ mget (t.core die core).tags tag .free = .done))

/-- A push of a core with no transfer in flight, its descriptors fetched and its frame within the stack's size, places its
frame and starts its transfers; with its last transfer moved the frame header is written and the tag returned. A pop
at the front of the queue whose frame header matches and whose descriptors fit the frame's payload starts its
transfers, and with the last one moved TOP, LAST and DEPTH go back and the tag is returned. (11_backward_pass R273;
11_backward_pass R274; 11_backward_pass R275.) -/
def Obligations.StackFramesComplete : Prop :=
  (∀ (s : State) (die core p i top sz : Nat) (o : StackOp) (rest : List StackOp),
      die < 24 →
      core < 16 →
      (s.core die core).stk = o :: rest →
      (s.core die core).xfers = [] →
      o.pop = false →
      o.run = none →
      o.descs.length = o.count →
      o.nst = 0 →
      o.stoff ≤ spBytes →
      s.rd (stkU die core) Reg.STK_TOP_LO_OFF = top →
      s.stkSize (stkU die core) = sz →
      sz < 2 ^ 36 →
      s.rd (stkU die core) Reg.STK_STAT_DEPTH < 2 ^ 16 - 1 →
      s.stkBase (stkU die core) + top = p * 2 ^ 21 + i →
      top + (64 + roundUp (payloadEnd o.descs) 64) ≤ sz →
      Yields (.stackPushStart die core []) s (fun t => t.rd (stkU die core) Reg.STK_TOP_LO_OFF = top + (64 + roundUp (payloadEnd o.descs) 64) ∧ t.rd (stkU die core) Reg.STK_LAST_LO_OFF = top ∧
        t.rd (stkU die core) Reg.STK_STAT_DEPTH = s.rd (stkU die core) Reg.STK_STAT_DEPTH + 1 ∧ t.rd (stkU die core) Reg.STK_STAT_BUSY = 1 ∧
        (t.core die core).xfers.map (fun x => { x with snap := none }) = o.descs.zipIdx.map (fun a => ({ ring := o.ring, desc := some (atPayload a.1 (p * 2 ^ 21 + i + 64)), started := true, stack := true, last := decide (a.2 + 1 = o.descs.length) } : Xfer)) ∧ SameMemBut 0 0 s t)) ∧
  (∀ (s : State) (die core p e home q i psize prev d : Nat) (o : StackOp) (x : Xfer),
      die < 24 →
      core < 16 →
      s.pageAt die p e home q = true →
      s.ecc = [] →
      s.net = [] →
      i % 64 = 0 →
      i + 64 ≤ 2 ^ 21 →
      s.stkBase (stkU die core) + s.rd (stkU die core) Reg.STK_LAST_LO_OFF = p * 2 ^ 21 + i →
      (s.core die core).stk = [o] →
      (s.core die core).fetched = [] →
      o.pop = false →
      o.run = some (psize, prev) →
      o.failed = false →
      (s.core die core).xfers = [x] →
      x.stack = true →
      x.last = true →
      x.moved = true →
      x.desc = some d →
      mget (s.core die core).tags (dTag d) .free = .out →
      Yields (.frameHeaderWrite die core) s (fun t => Holds t (pageByte home q i) (frameHeader o.tag o.nst o.count (s.rd keeperU Reg.FX_STEP_LO_VALUE) psize prev) ∧
        SameMemBut (pageByte home q i) 64 s t ∧ (t.core die core).stk = [] ∧ (t.core die core).xfers = [] ∧
        mget (t.core die core).tags (dTag d) .free = .done)) ∧
  (∀ (s : State) (die core p e home q i psize prev : Nat) (o : StackOp) (rest : List StackOp),
      die < 24 →
      core < 16 →
      s.pageAt die p e home q = true →
      s.ecc = [] →
      s.net = [] →
      i % 64 = 0 →
      i + 64 ≤ 2 ^ 21 →
      s.stkBase (stkU die core) + s.rd (stkU die core) Reg.STK_LAST_LO_OFF = p * 2 ^ 21 + i →
      (s.core die core).stk = o :: rest →
      (s.core die core).xfers = [] →
      o.pop = true →
      o.run = none →
      o.descs.length = o.count →
      o.count < 2 ^ 16 →
      o.nst = 0 →
      o.stoff ≤ spBytes →
      s.rd (stkU die core) Reg.STK_STAT_DEPTH ≠ 0 →
      psize < 2 ^ 32 →
      prev < 2 ^ 64 →
      s.rd keeperU Reg.FX_STEP_LO_VALUE < 2 ^ 64 →
      payloadEnd o.descs ≤ psize →
      s.bytesAt (pageByte home q i) 64 = frameHeader o.tag 0 o.count (s.rd keeperU Reg.FX_STEP_LO_VALUE) psize prev →
      Yields (.stackPopStart die core []) s (fun t => (t.core die core).stk = { o with run := some (psize, prev) } :: rest ∧
        (t.core die core).xfers.map (fun x => { x with snap := none }) = o.descs.zipIdx.map (fun a => ({ ring := o.ring, desc := some (atPayload a.1 (p * 2 ^ 21 + i + 64)), started := true, stack := true, last := decide (a.2 + 1 = o.descs.length) } : Xfer)) ∧ t.rd (stkU die core) Reg.STK_STAT_BUSY = 1 ∧ SameMemBut 0 0 s t)) ∧
  (∀ (s : State) (die core psize prev d : Nat) (o : StackOp) (x : Xfer),
      die < 24 →
      core < 16 →
      prev < 2 ^ 36 →
      s.rd (stkU die core) Reg.STK_LAST_LO_OFF < 2 ^ 36 →
      s.rd (stkU die core) Reg.STK_STAT_DEPTH < 2 ^ 16 →
      (s.core die core).stk = [o] →
      (s.core die core).fetched = [] →
      o.pop = true →
      o.run = some (psize, prev) →
      o.failed = false →
      (s.core die core).xfers = [x] →
      x.stack = true →
      x.last = true →
      x.moved = true →
      x.desc = some d →
      mget (s.core die core).tags (dTag d) .free = .out →
      Yields (.popComplete die core) s (fun t => t.rd (stkU die core) Reg.STK_TOP_LO_OFF = s.rd (stkU die core) Reg.STK_LAST_LO_OFF ∧ t.rd (stkU die core) Reg.STK_LAST_LO_OFF = prev ∧
        t.rd (stkU die core) Reg.STK_STAT_DEPTH = s.rd (stkU die core) Reg.STK_STAT_DEPTH - 1 ∧ (t.core die core).stk = [] ∧
        (t.core die core).xfers = [] ∧ mget (t.core die core).tags (dTag d) .free = .done ∧ SameMemBut 0 0 s t))

/-- An idle engine with one operation queued, its tag free, its descriptor, operands and results within one cached page
and every word sound, takes the descriptor and the tag and makes the operation's writes: with one index that names row
0 and rows of 64 bytes, GATHER and SCATTER copy the row and SCATTER_ADD writes its sum with its target, where the sum
counts no event; SEGMENT_REDUCE by addition writes a zero row for one empty segment; SORT writes its one key and
position 0; BUCKET one key in a bucket with capacity for it; PACK and UNPACK copy the one row of one segment;
MASK_COMPACT the two positions set of a mask of eight and their count. A finished operation returns its tag done; one
that has met an index out of range is recorded, with its position and value, and returns its tag in error.
(05_gather_merge R124; 05_gather_merge R125; 05_gather_merge R126; 05_gather_merge R127; 05_gather_merge R128;
05_gather_merge R129; 05_gather_merge R130.) -/
def Obligations.MergeOperationsComplete : Prop :=
  (∀ (s : State) (die eng core tag p e home q i x y z d : Nat),
      die < 24 →
      eng < 2 →
      core < 16 →
      tag < 256 →
      s.pageAt die p e home q = true →
      s.ecc = [] →
      s.net = [] →
      i % 64 = 0 →
      i < 2 ^ 21 →
      x % 64 = 0 →
      x < 2 ^ 21 →
      y % 64 = 0 →
      y < 2 ^ 21 →
      z % 64 = 0 →
      z < 2 ^ 21 →
      (s.gme die eng).run = none →
      (s.gme die eng).queue = [(core, p * 2 ^ 21 + i)] →
      mget (s.core die core).tags tag .free = .free →
      s.numAt (pageByte home q i) 64 = d →
      gOp d = 0 →
      gTag d = tag →
      gIdx d = p * 2 ^ 21 + x →
      gSrc d = p * 2 ^ 21 + y →
      gDst d = p * 2 ^ 21 + z →
      gRowLen d = 64 →
      gNidx d = 1 →
      0 < gNrows d →
      s.numAt (pageByte home q x) 4 = 0 →
      Yields (.gather die eng []) s (fun t => Holds t (pageByte home q z) (s.bytesAt (pageByte home q y) 64) ∧ SameMemBut (pageByte home q z) 64 s t ∧
        (t.gme die eng).run = some ⟨core, p * 2 ^ 21 + i, d, true, none⟩ ∧ mget (t.core die core).tags tag .free = .out)) ∧
  (∀ (s : State) (die eng core tag p e home q i x y z d : Nat),
      die < 24 →
      eng < 2 →
      core < 16 →
      tag < 256 →
      s.pageAt die p e home q = true →
      s.ecc = [] →
      s.net = [] →
      i % 64 = 0 →
      i < 2 ^ 21 →
      x % 64 = 0 →
      x < 2 ^ 21 →
      y % 64 = 0 →
      y < 2 ^ 21 →
      z % 64 = 0 →
      z < 2 ^ 21 →
      (s.gme die eng).run = none →
      (s.gme die eng).queue = [(core, p * 2 ^ 21 + i)] →
      mget (s.core die core).tags tag .free = .free →
      s.numAt (pageByte home q i) 64 = d →
      gOp d = 1 →
      gTag d = tag →
      gIdx d = p * 2 ^ 21 + x →
      gSrc d = p * 2 ^ 21 + y →
      gDst d = p * 2 ^ 21 + z →
      gRowLen d = 64 →
      gNidx d = 1 →
      0 < gNrows d →
      s.numAt (pageByte home q x) 4 = 0 →
      Yields (.scatter die eng []) s (fun t => Holds t (pageByte home q z) (s.bytesAt (pageByte home q y) 64) ∧ SameMemBut (pageByte home q z) 64 s t ∧
        (t.gme die eng).run = some ⟨core, p * 2 ^ 21 + i, d, true, none⟩ ∧ mget (t.core die core).tags tag .free = .out)) ∧
  (∀ (s : State) (die eng core tag p e home q i x y z d : Nat),
      die < 24 →
      eng < 2 →
      core < 16 →
      tag < 256 →
      s.pageAt die p e home q = true →
      s.ecc = [] →
      s.net = [] →
      i % 64 = 0 →
      i < 2 ^ 21 →
      x % 64 = 0 →
      x < 2 ^ 21 →
      y % 64 = 0 →
      y < 2 ^ 21 →
      z % 64 = 0 →
      z < 2 ^ 21 →
      (s.gme die eng).run = none →
      (s.gme die eng).queue = [(core, p * 2 ^ 21 + i)] →
      mget (s.core die core).tags tag .free = .free →
      s.numAt (pageByte home q i) 64 = d →
      gOp d = 2 →
      gTag d = tag →
      gIdx d = p * 2 ^ 21 + x →
      gSrc d = p * 2 ^ 21 + y →
      gDst d = p * 2 ^ 21 + z →
      gRowLen d = 64 →
      gNidx d = 1 →
      0 < gNrows d →
      s.numAt (pageByte home q x) 4 = 0 →
      (addRows (rowWords (s.bytesAt (pageByte home q z) 64)) (rowWords (s.bytesAt (pageByte home q y) 64))).2 = 0 →
      Yields (.scatterAdd die eng []) s (fun t => Holds t (pageByte home q z) (codeBytes 32 (addRows (rowWords (s.bytesAt (pageByte home q z) 64)) (rowWords (s.bytesAt (pageByte home q y) 64))).1) ∧
        SameMemBut (pageByte home q z) 64 s t ∧ (t.gme die eng).run = some ⟨core, p * 2 ^ 21 + i, d, true, none⟩ ∧ mget (t.core die core).tags tag .free = .out)) ∧
  (∀ (s : State) (die eng core tag p e home q i x y z d : Nat),
      die < 24 →
      eng < 2 →
      core < 16 →
      tag < 256 →
      s.pageAt die p e home q = true →
      s.ecc = [] →
      s.net = [] →
      i % 64 = 0 →
      i < 2 ^ 21 →
      x % 64 = 0 →
      x < 2 ^ 21 →
      y % 64 = 0 →
      y < 2 ^ 21 →
      z % 64 = 0 →
      z < 2 ^ 21 →
      (s.gme die eng).run = none →
      (s.gme die eng).queue = [(core, p * 2 ^ 21 + i)] →
      mget (s.core die core).tags tag .free = .free →
      s.numAt (pageByte home q i) 64 = d →
      gOp d = 3 →
      gTag d = tag →
      gIdx d = p * 2 ^ 21 + x →
      gSrc d = p * 2 ^ 21 + y →
      gDst d = p * 2 ^ 21 + z →
      gRowLen d = 64 →
      gNseg d = 1 →
      s.numAt (pageByte home q x) 8 = 0 →
      gRfn d = false →
      x % 64 < 57 →
      Yields (.segmentReduce die eng []) s (fun t => Holds t (pageByte home q z) (List.replicate 64 0) ∧ SameMemBut (pageByte home q z) 64 s t ∧
        (t.gme die eng).run = some ⟨core, p * 2 ^ 21 + i, d, true, none⟩ ∧ mget (t.core die core).tags tag .free = .out)) ∧
  (∀ (s : State) (die eng core tag p e home q i x y z w d : Nat),
      die < 24 →
      eng < 2 →
      core < 16 →
      tag < 256 →
      s.pageAt die p e home q = true →
      s.ecc = [] →
      s.net = [] →
      i % 64 = 0 →
      i < 2 ^ 21 →
      x % 64 = 0 →
      x < 2 ^ 21 →
      y % 64 = 0 →
      y < 2 ^ 21 →
      z % 64 = 0 →
      z < 2 ^ 21 →
      w % 64 = 0 →
      w < 2 ^ 21 →
      (s.gme die eng).run = none →
      (s.gme die eng).queue = [(core, p * 2 ^ 21 + i)] →
      mget (s.core die core).tags tag .free = .free →
      s.numAt (pageByte home q i) 64 = d →
      gOp d = 4 →
      gTag d = tag →
      gIdx d = p * 2 ^ 21 + x →
      gSrc d = p * 2 ^ 21 + y →
      gDst d = p * 2 ^ 21 + z →
      gAux d = p * 2 ^ 21 + w →
      gRowLen d = 0 →
      gNidx d = 1 →
      z ≠ w →
      Yields (.sortByKey die eng []) s (fun t => Holds t (pageByte home q w) (s.bytesAt (pageByte home q x) 4) ∧ Holds t (pageByte home q z) (leBytes 4 0) ∧
        (t.gme die eng).run = some ⟨core, p * 2 ^ 21 + i, d, true, none⟩ ∧ mget (t.core die core).tags tag .free = .out)) ∧
  (∀ (s : State) (die eng core tag p e home q i x y z w d : Nat),
      die < 24 →
      eng < 2 →
      core < 16 →
      tag < 256 →
      s.pageAt die p e home q = true →
      s.ecc = [] →
      s.net = [] →
      i % 64 = 0 →
      i < 2 ^ 21 →
      x % 64 = 0 →
      x < 2 ^ 21 →
      y % 64 = 0 →
      y < 2 ^ 21 →
      z % 64 = 0 →
      z < 2 ^ 21 →
      w % 64 = 0 →
      w < 2 ^ 21 →
      (s.gme die eng).run = none →
      (s.gme die eng).queue = [(core, p * 2 ^ 21 + i)] →
      mget (s.core die core).tags tag .free = .free →
      s.numAt (pageByte home q i) 64 = d →
      gOp d = 5 →
      gTag d = tag →
      gIdx d = p * 2 ^ 21 + x →
      gSrc d = p * 2 ^ 21 + y →
      gDst d = p * 2 ^ 21 + z →
      gAux d = p * 2 ^ 21 + w →
      gRowLen d = 0 →
      gNidx d = 1 →
      gNseg d = 1 →
      gCap d = 1 →
      gNrows d = 0 →
      z ≠ w →
      y ≠ w →
      y ≠ z →
      s.numAt (pageByte home q x) 4 = 0 →
      Yields (.bucket die eng []) s (fun t => Holds t (pageByte home q z) (leBytes 4 0) ∧ Holds t (pageByte home q y) (leBytes 4 0) ∧ Holds t (pageByte home q w) (leBytes 4 1 ++ leBytes 4 0) ∧
        (t.gme die eng).run = some ⟨core, p * 2 ^ 21 + i, d, true, none⟩ ∧ mget (t.core die core).tags tag .free = .out)) ∧
  (∀ (s : State) (die eng core tag p e home q i x y z d : Nat),
      die < 24 →
      eng < 2 →
      core < 16 →
      tag < 256 →
      s.pageAt die p e home q = true →
      s.ecc = [] →
      s.net = [] →
      i % 64 = 0 →
      i < 2 ^ 21 →
      x % 64 = 0 →
      x < 2 ^ 21 →
      y % 64 = 0 →
      y < 2 ^ 21 →
      z % 64 = 0 →
      z < 2 ^ 21 →
      (s.gme die eng).run = none →
      (s.gme die eng).queue = [(core, p * 2 ^ 21 + i)] →
      mget (s.core die core).tags tag .free = .free →
      s.numAt (pageByte home q i) 64 = d →
      gOp d = 6 →
      gTag d = tag →
      gIdx d = p * 2 ^ 21 + x →
      gSrc d = p * 2 ^ 21 + y →
      gDst d = p * 2 ^ 21 + z →
      gRowLen d = 64 →
      gNseg d = 1 →
      0 < gNrows d →
      gNidx d = 1 →
      s.numAt (pageByte home q x) 4 = 0 →
      s.numAt (pageByte home q x + 4) 4 = 1 →
      Yields (.packRows die eng []) s (fun t => Holds t (pageByte home q z) (s.bytesAt (pageByte home q y) 64) ∧ SameMemBut (pageByte home q z) 64 s t ∧
        (t.gme die eng).run = some ⟨core, p * 2 ^ 21 + i, d, true, none⟩ ∧ mget (t.core die core).tags tag .free = .out)) ∧
  (∀ (s : State) (die eng core tag p e home q i x y z d : Nat),
      die < 24 →
      eng < 2 →
      core < 16 →
      tag < 256 →
      s.pageAt die p e home q = true →
      s.ecc = [] →
      s.net = [] →
      i % 64 = 0 →
      i < 2 ^ 21 →
      x % 64 = 0 →
      x < 2 ^ 21 →
      y % 64 = 0 →
      y < 2 ^ 21 →
      z % 64 = 0 →
      z < 2 ^ 21 →
      (s.gme die eng).run = none →
      (s.gme die eng).queue = [(core, p * 2 ^ 21 + i)] →
      mget (s.core die core).tags tag .free = .free →
      s.numAt (pageByte home q i) 64 = d →
      gOp d = 7 →
      gTag d = tag →
      gIdx d = p * 2 ^ 21 + x →
      gSrc d = p * 2 ^ 21 + y →
      gDst d = p * 2 ^ 21 + z →
      gRowLen d = 64 →
      gNseg d = 1 →
      gNrows d = 1 →
      gNidx d = 1 →
      s.numAt (pageByte home q x) 4 = 0 →
      s.numAt (pageByte home q x + 4) 4 = 1 →
      Yields (.unpack die eng []) s (fun t => Holds t (pageByte home q z) (s.bytesAt (pageByte home q y) 64) ∧ SameMemBut (pageByte home q z) 64 s t ∧
        (t.gme die eng).run = some ⟨core, p * 2 ^ 21 + i, d, true, none⟩ ∧ mget (t.core die core).tags tag .free = .out)) ∧
  (∀ (s : State) (die eng core tag p e home q i x y z w d : Nat),
      die < 24 →
      eng < 2 →
      core < 16 →
      tag < 256 →
      s.pageAt die p e home q = true →
      s.ecc = [] →
      s.net = [] →
      i % 64 = 0 →
      i < 2 ^ 21 →
      x % 64 = 0 →
      x < 2 ^ 21 →
      y % 64 = 0 →
      y < 2 ^ 21 →
      z % 64 = 0 →
      z < 2 ^ 21 →
      w % 64 = 0 →
      w < 2 ^ 21 →
      (s.gme die eng).run = none →
      (s.gme die eng).queue = [(core, p * 2 ^ 21 + i)] →
      mget (s.core die core).tags tag .free = .free →
      s.numAt (pageByte home q i) 64 = d →
      gOp d = 8 →
      gTag d = tag →
      gIdx d = p * 2 ^ 21 + x →
      gSrc d = p * 2 ^ 21 + y →
      gDst d = p * 2 ^ 21 + z →
      gAux d = p * 2 ^ 21 + w →
      gRowLen d = 0 →
      gNseg d = 1 →
      gNidx d = 8 →
      gNrows d = 2 →
      z ≠ w →
      Memory.get s.mem (pageByte home q x) = 0x90 →
      gOvfPol d = 0 →
      Yields (.maskCompact die eng []) s (fun t => Holds t (pageByte home q z) (leBytes 4 4 ++ leBytes 4 7) ∧ Holds t (pageByte home q w) (leBytes 4 2) ∧
        (t.gme die eng).run = some ⟨core, p * 2 ^ 21 + i, d, true, none⟩ ∧ mget (t.core die core).tags tag .free = .out)) ∧
  (∀ (s : State) (die eng core addr d : Nat),
      die < 24 →
      eng < 2 →
      core < 16 →
      (s.gme die eng).run = some ⟨core, addr, d, true, none⟩ →
      mget (s.core die core).tags (gTag d) .free = .out →
      Yields (.gmeOpComplete die eng) s (fun t => (t.gme die eng).run = none ∧ t.rd (gmeU die eng) Reg.GME_STAT_BUSY = 0 ∧ mget (t.core die core).tags (gTag d) .free = .done ∧ SameMemBut 0 0 s t)) ∧
  (∀ (s : State) (die eng core addr d pos val : Nat),
      die < 24 →
      eng < 2 →
      core < 16 →
      addr < 2 ^ 57 →
      pos < 2 ^ 32 →
      val < 2 ^ 32 →
      (s.gme die eng).run = some ⟨core, addr, d, true, some (eIDX_RANGE, pos, val)⟩ →
      mget (s.core die core).tags (gTag d) .free = .out →
      Yields (.gmeOpFault die eng) s (fun t => (t.gme die eng).run = none ∧ t.rd (gmeU die eng) Reg.GME_STAT_FAULTED = 1 ∧ t.rd (gmeU die eng) Reg.GME_FPOS_POS = pos ∧
        t.rd (gmeU die eng) Reg.GME_FVAL_VALUE = val ∧ mget (t.core die core).tags (gTag d) .free = .err 7 ∧ SameMemBut 0 0 s t))

/-- While the job runs, the next record of an engine's update list, the list's page cached and its words sound, starts
once the sums of its layer are delivered; a record begun whose accesses meet no fault and whose results count no event
leaves what it wrote, counts its elements, and the engine goes on to the next; a list at an address that is not
canonical stops the engine, faulted. (12_update_and_fixer R293; 12_update_and_fixer R297; 12_update_and_fixer R299.) -/
def Obligations.UpdateRecordsComplete : Prop :=
  (∀ (s : State) (die p e home q i n : Nat),
      die < 24 →
      n < 2 ^ 16 →
      s.pageAt die p e home q = true →
      s.ecc = [] →
      s.net = [] →
      i % 64 = 0 →
      i + 128 + 64 * n ≤ 2 ^ 21 →
      s.rd (ueU die) Reg.UE_LIST_LO_ADDR + 2 ^ 32 * s.rd (ueU die) Reg.UE_LIST_HI_ADDR = p * 2 ^ 21 + i →
      s.running = true →
      (s.ue die).stopped = false →
      (s.ue die).busy = false →
      (s.ue die).next = n →
      n < (s.ue die).recs →
      s.numAt (pageByte home q (i + 4)) 4 = 0 →
      s.redDelivered (urLayer (s.numAt (pageByte home q (i + 64 + 64 * n)) 64)) = true →
      Yields (.updateRecordStart die []) s (fun t => (t.ue die).busy = true ∧ (t.ue die).next = n ∧ t.rd (ueU die) Reg.UE_STAT_BUSY = 1 ∧ t.rd (ueU die) Reg.UE_STAT_REC = n ∧ SameMemBut 0 0 s t)) ∧
  (∀ (s : State) (die : Nat),
      die < 24 →
      s.ueMay die = true →
      (s.ue die).busy = true →
      (s.ueRun die).1.acc.err = 0 →
      (s.ueRun die).1.ev = Events.none →
      Yields (.updateRecordDone die []) s (fun t => (t.ue die).busy = false ∧ (t.ue die).next = (s.ue die).next + 1 ∧ t.rd (ueU die) Reg.UE_STAT_BUSY = 0 ∧
        t.rd (ueU die) Reg.UE_ELEMS_COUNT = Nat.min ((s.ueRun die).1.acc.st.rd (ueU die) Reg.UE_ELEMS_COUNT + (s.ueRun die).1.count) (2 ^ 32 - 1) ∧
        (∀ a, Memory.get t.mem a = Memory.get (s.ueRun die).1.acc.st.mem a))) ∧
  (∀ (s : State) (die p i e : Nat) (rest : List (Nat × Nat)),
      die < 24 →
      p < 2 ^ 35 →
      i % 64 = 0 →
      i + 64 ≤ 2 ^ 21 →
      s.ueMay die = true →
      (s.ue die).busy = false →
      s.rd (ueU die) Reg.UE_LIST_LO_ADDR + 2 ^ 32 * s.rd (ueU die) Reg.UE_LIST_HI_ADDR = p * 2 ^ 21 + i →
      (mget s.tus die {}).small = (p, e) :: rest →
      entryAllows e permRead = false →
      Yields (.updateFault die []) s (fun t => (t.ue die).stopped = true ∧ t.rd (ueU die) Reg.UE_STAT_FAULTED = 1 ∧ t.rd (ueU die) Reg.UE_STAT_BUSY = 0))

/-- A module of the running job without children, but not the root, whose conditions hold and with no checkpoint requested
forms its vote from its flags with a count of 1, shows the flags and sends it to its parent; a child's vote for the
current step is kept; one for another step is logged as PARTNER and dropped. In a module without children, layers,
cores, engines, streams or a drain, a decision of the current step without a flag advances the step, changes the
active buffer and counts the update; one with a skip flag advances the step and counts the skip, buffer and updates
staying; a decision that was held commits the same once no drain is left. (12_update_and_fixer R300;
12_update_and_fixer R301; 12_update_and_fixer R302; 12_update_and_fixer R303; 12_update_and_fixer R304.) -/
def Obligations.StepMachineryCompletes : Prop :=
  (∀ (s : State),
      s.running = true →
      s.fix.own = none →
      s.fix.sent = false →
      s.fix.votes = [] →
      s.mayVote = true →
      s.voteKids = [] →
      0 < s.job.modId →
      s.ck.req = none →
      Yields (.voteSend) s (fun t => (t.fix.own.map Vote.flags) = some (s.fix.flags % 16) ∧ (t.fix.own.map Vote.count) = some 1 ∧ t.fix.sent = true ∧
        t.rd keeperU Reg.FX_VOTE_FLAGS = s.fix.flags % 16 ∧
        (∀ v, t.fix.own = some v → t.out = .vote ((s.job.modId - 1) / 32) v.bytes :: s.out) ∧ SameMemBut 0 0 s t)) ∧
  (∀ (s : State) (child step flags count : Nat) (amax : List Nat),
      s.running = true →
      s.fix.own = none →
      child ∈ s.voteKids →
      s.fix.votes = [] →
      step = s.stepNow →
      flags < 32 →
      Yields (.voteReceive child step flags count amax) s (fun t => t.fix.votes = [(child, ⟨step, flags, count, amax⟩)] ∧ t.out = s.out ∧ SameMemBut 0 0 s t ∧ SameRegsBut [] s t)) ∧
  (∀ (s : State) (child step flags count : Nat) (amax : List Nat),
      step ≠ s.stepNow →
      Yields (.voteReceive child step flags count amax) s (fun t => (t.log.ring.head?.map LogEntry.code) = some ePARTNER ∧ t.fix = s.fix ∧ t.out = s.out ∧ SameMemBut 0 0 s t)) ∧
  (∀ (s : State) (step count : Nat) (amax : List Nat),
      s.running = true →
      s.job.modId ≠ 0 →
      s.fix.sent = true →
      s.fix.decision = none →
      step = s.stepNow →
      s.voteKids = [] →
      s.ck.drain = none →
      s.job.nlayer = 0 →
      s.cores = [] →
      s.ues = [] →
      s.streams = [] →
      s.red.ents = [] →
      s.job.ovr = 0 →
      s.rd keeperU Reg.FX_STEP_LO_VALUE < 2 ^ 64 - 1 →
      Yields (.decisionReceive step 0 count amax) s (fun t => t.rd keeperU Reg.FX_STEP_LO_VALUE = s.rd keeperU Reg.FX_STEP_LO_VALUE + 1 ∧
        t.rd keeperU Reg.FX_STAT_ACTIVE = 1 - s.rd keeperU Reg.FX_STAT_ACTIVE ∧
        t.rd keeperU Reg.FX_UPD_LO_VALUE = (s.rd keeperU Reg.FX_UPD_LO_VALUE + 1) % 2 ^ 64 ∧ t.rd keeperU Reg.FX_STAT_SKIPPED = 0 ∧ t.fix.sent = false ∧ t.out = s.out)) ∧
  (∀ (s : State) (step flags count : Nat) (amax : List Nat),
      s.running = true →
      s.job.modId ≠ 0 →
      s.fix.sent = true →
      s.fix.decision = none →
      step = s.stepNow →
      s.voteKids = [] →
      s.ck.drain = none →
      s.job.nlayer = 0 →
      s.cores = [] →
      s.ues = [] →
      s.streams = [] →
      s.red.ents = [] →
      s.job.ovr = 0 →
      s.rd keeperU Reg.FX_STEP_LO_VALUE < 2 ^ 64 - 1 →
      0 < flags →
      flags < 16 →
      Yields (.decisionReceive step flags count amax) s (fun t => t.rd keeperU Reg.FX_STEP_LO_VALUE = s.rd keeperU Reg.FX_STEP_LO_VALUE + 1 ∧
        t.rd keeperU Reg.FX_STAT_ACTIVE = s.rd keeperU Reg.FX_STAT_ACTIVE ∧
        t.rd keeperU Reg.FX_UPD_LO_VALUE = s.rd keeperU Reg.FX_UPD_LO_VALUE ∧ t.rd keeperU Reg.FX_STAT_SKIPPED = 1 ∧
        t.rd keeperU Reg.FX_SKIPS_COUNT = Nat.min (s.rd keeperU Reg.FX_SKIPS_COUNT + 1) (2 ^ 32 - 1) ∧ t.fix.sent = false ∧ t.out = s.out)) ∧
  (∀ (s : State) (mclk step count : Nat) (amax : List Nat),
      s.running = true →
      s.fix.decision = some ⟨step, 0, count, amax⟩ →
      s.ck.drain = none →
      s.job.nlayer = 0 →
      s.cores = [] →
      s.ues = [] →
      s.streams = [] →
      s.red.ents = [] →
      s.job.ovr = 0 →
      s.rd keeperU Reg.FX_STEP_LO_VALUE < 2 ^ 64 - 1 →
      Yields (.fixerCommit mclk) s (fun t => t.rd keeperU Reg.FX_STEP_LO_VALUE = s.rd keeperU Reg.FX_STEP_LO_VALUE + 1 ∧
        t.rd keeperU Reg.FX_STAT_ACTIVE = 1 - s.rd keeperU Reg.FX_STAT_ACTIVE ∧
        t.rd keeperU Reg.FX_UPD_LO_VALUE = (s.rd keeperU Reg.FX_UPD_LO_VALUE + 1) % 2 ^ 64 ∧ t.rd keeperU Reg.FX_STAT_SKIPPED = 0 ∧ t.rd keeperU Reg.FX_STAT_DWAIT = 0 ∧ t.out = s.out))

/-- A drain to a host ring whose pages have all been taken, with no update engine loaded, ends with its step in FX_CKSTEP
and its destination the newer of the two kept; a drain that has met a fault is aborted, FX_CKSTEP staying; the job-
wide checkpoint step that comes down the vote tree is shown in RCV_CKJOB and passed to every child.
(12_update_and_fixer R307; 18_faults_and_relief R434.) -/
def Obligations.CheckpointDrainsComplete : Prop :=
  (∀ (s : State) (d : CkDrain),
      s.ck.drain = some d →
      d.req.kind = 1 →
      d.fault = 0 →
      ceilDiv d.data.length 4096 ≤ d.pages →
      s.ues = [] →
      d.step < 2 ^ 64 →
      Yields (.checkpointDrainComplete) s (fun t => t.ck.drain = none ∧ t.ck.last = some d.step ∧ t.rd keeperU Reg.FX_CKSTEP_LO_VALUE = d.step ∧
        t.ck.dests = (d.req :: s.ck.dests).take 2 ∧ t.rd keeperU Reg.FX_STAT_DRAINING = 0)) ∧
  (∀ (s : State) (code : Nat) (d : CkDrain),
      s.ck.drain = some d →
      d.fault ≠ 0 →
      Yields (.checkpointDrainFault code) s (fun t => t.ck.drain = none ∧ t.ck.last = s.ck.last ∧ t.rd keeperU Reg.FX_CKSTEP_LO_VALUE = s.rd keeperU Reg.FX_CKSTEP_LO_VALUE ∧
        t.rd keeperU Reg.FX_STAT_DRAINING = 0)) ∧
  (∀ (s : State) (child step : Nat),
      step < 2 ^ 64 →
      Yields (.drained child step true) s (fun t => t.rd keeperU Reg.RCV_CKJOB_LO_VALUE = step ∧ SameRegsBut [(keeperU, Reg.RCV_CKJOB_LO_VALUE)] s t ∧ SameMemBut 0 0 s t ∧
        t.out = (s.voteKids.map (fun c => Out.drained c step true)).reverse ++ s.out))

/-- The last ready word of a layer of the current step starts the layer; a segment whose inputs have come, and whose
sources are read without a fault, is sent; a segment or a flag word that comes in order and is not the chain's first
is kept; the sampled elements of a started layer are read where no source faults; sampled sums and a tree word from a
child of the check tree are kept; a fault of a started layer marks its unit and stops the job. (13_gradient_reduction
R317; 13_gradient_reduction R318; 13_gradient_reduction R322; 13_gradient_reduction R323; 13_gradient_reduction R326;
13_gradient_reduction R522.) -/
def Obligations.ReductionsComplete : Prop :=
  (∀ (s : State) (layer step : Nat) (e : RedEnt) (p : Nat),
      layer < 65536 →
      step < 2 ^ 32 →
      step = s.rd keeperU Reg.FX_STEP_LO_VALUE % 2 ^ 32 →
      s.redEnt layer = some (e, p) →
      layer ∉ s.red.order →
      mget s.red.ready layer 0 + 1 = e.nsrc →
      Yields (.rdReady layer step) s (fun t => t.red.order = s.red.order ++ [layer] ∧ mget t.red.ready layer 0 = e.nsrc ∧ SameMemBut 0 0 s t)) ∧
  (∀ (s : State) (layer seg : Nat) (e : RedEnt) (p : Nat),
      s.redEnt layer = some (e, p) →
      s.segReady e p layer seg = true →
      (s.segmentSend e p layer seg).2 = none →
      Yields (.laneSegmentSend layer seg []) s (fun t => (t.redLayer layer).sent = seg :: (s.redLayer layer).sent)) ∧
  (∀ (s : State) (layer seg step : Nat) (e : RedEnt) (p : Nat) (data : List Byte),
      s.redEnt layer = some (e, p) →
      step % 512 = s.step32 % 512 →
      seg < e.segs →
      e.first p (e.chunkOf seg) = false →
      seg ∉ (s.redLayer layer).sent →
      (s.redLayer layer).inbox = [] →
      Yields (.rsegReceive layer seg step data) s (fun t => mget (t.redLayer layer).inbox seg [] = sumsOf 40 data ∧ (t.redLayer layer).sent = (s.redLayer layer).sent ∧
        SameMemBut 0 0 s t ∧ SameRegsBut [] s t ∧ t.out = s.out)) ∧
  (∀ (s : State) (lane chunk layer : Nat) (e : RedEnt) (p : Nat) (data : List Byte),
      (FlagWord.ofBytes data).layer = layer →
      s.redEnt layer = some (e, p) →
      (FlagWord.ofBytes data).step = s.step32 →
      chunk < e.len →
      e.first p chunk = false →
      (s.redLayer layer).wordIn = [] →
      Yields (.rwordReceive lane chunk data) s (fun t => (t.redLayer layer).wordIn = [(chunk, (FlagWord.ofBytes data))])) ∧
  (∀ (s : State) (layer : Nat) (e : RedEnt) (p : Nat),
      s.redEnt layer = some (e, p) →
      s.redStarted layer = true →
      (s.redLayer layer).fault = false →
      (s.redLayer layer).samples = none →
      (s.readSamples e layer).2 = none →
      ((s.readSamples e layer).1.checkGoOn layer).2 = none →
      Yields (.checkSampleRead layer []) s (fun t => (t.redLayer layer).samples.isSome = true)) ∧
  (∀ (s : State) (layer pos ord step n : Nat) (e : RedEnt) (p : Nat) (data : List Byte),
      s.redEnt layer = some (e, p) →
      step % 512 = s.step32 % 512 →
      n = (sampled e.nelem s.step32).length →
      ord < n →
      (s.redLayer layer).fault = false →
      pos ∈ treeKids p e.len →
      Yields (.chkReceive layer pos ord step data) s (fun t => (∀ i, i < Nat.min 40 (n - ord) →
          mget (mget (t.redLayer layer).childTot pos []) (ord + i) 0 = (sumsOf 40 data).getD i 0))) ∧
  (∀ (s : State) (pos layer : Nat) (e : RedEnt) (p : Nat) (data : List Byte),
      (FlagWord.ofBytes data).layer = layer →
      s.redEnt layer = some (e, p) →
      (FlagWord.ofBytes data).step = s.step32 →
      (s.redLayer layer).fault = false →
      pos ∈ treeKids p e.len →
      Yields (.cwordReceive pos data) s (fun t => (pos, (FlagWord.ofBytes data)) ∈ (t.redLayer layer).childWord)) ∧
  (∀ (s : State) (layer u code : Nat) (e : RedEnt) (p : Nat),
      s.redEnt layer = some (e, p) →
      s.redStarted layer = true →
      (s.redLayer layer).fault = false →
      (s.redFaultNow e p layer).map (fun x => (x.2.1, x.2.2.1)) = some (u, code) →
      Yields (.reductionFault layer []) s (fun t => t.rd u Reg.RD_STAT_FAULTED = 1 ∧ t.running = false ∧ ((t.redLayer layer).fault = true ∨ t.red.layers = [])))

/-- For a running application core: EXIT stops it; DB_WAIT and ARR_WAIT return what is pending at once, DB_WAIT clearing
those doorbell bits; a DB_WAIT with nothing pending waits, and a wait with a limit that expires returns 0; an
exception stops the core and is shown in its registers; a fence writes a dirty line of 64 bytes, its page cached and
its words sound, to its target. (15_application_cores R361; 15_application_cores R363; 15_application_cores R366;
15_application_cores R367; 15_application_cores R368.) -/
def Obligations.ApplicationCoresComplete : Prop :=
  (∀ (s : State) (i : Nat),
      i < 104 →
      s.appRuns i = true →
      Yields (.exit i) s (fun t => t.rd (acU i) Reg.AC_STAT_RUN = 0 ∧ SameRegsBut [((acU i), Reg.AC_STAT_RUN)] s t ∧ SameMemBut 0 0 s t)) ∧
  (∀ (s : State) (i mask limit : Nat),
      i < 104 →
      s.appRuns i = true →
      (s.deliveredBits &&& s.dbsel i &&& mask % 2 ^ 32) ≠ 0 →
      Yields (.dbWait i mask limit) s (fun t => (t.app i).wait = none ∧ (t.app i).a0 = (s.deliveredBits &&& s.dbsel i &&& mask % 2 ^ 32) ∧
        t.rd mbxU Reg.DB_STAT_BITS = clearBits (s.rd mbxU Reg.DB_STAT_BITS) (s.deliveredBits &&& s.dbsel i &&& mask % 2 ^ 32) % 2 ^ 32 ∧ SameMemBut 0 0 s t)) ∧
  (∀ (s : State) (i mask limit : Nat),
      i < 104 →
      s.appRuns i = true →
      (s.deliveredBits &&& s.dbsel i &&& mask % 2 ^ 32) = 0 →
      Yields (.dbWait i mask limit) s (fun t => (t.app i).wait = some ⟨1, mask % 2 ^ 32, limit % 2 ^ 64⟩ ∧ SameRegsBut [] s t ∧ SameMemBut 0 0 s t)) ∧
  (∀ (s : State) (i mask limit : Nat),
      i < 104 →
      s.appRuns i = true →
      (s.rd (acU i) Reg.AC_SPEND_SLOT &&& mask % 2 ^ 16) ≠ 0 →
      Yields (.arrWait i mask limit) s (fun t => (t.app i).wait = none ∧ (t.app i).a0 = (s.rd (acU i) Reg.AC_SPEND_SLOT &&& mask % 2 ^ 16) ∧ SameMemBut 0 0 s t)) ∧
  (∀ (s : State) (i : Nat) (w : MonWait),
      i < 104 →
      s.rd (acU i) Reg.AC_STAT_RUN = 1 →
      (s.app i).wait = some w →
      w.limit ≠ 0 →
      Yields (.monitorWaitExpiry i false) s (fun t => (t.app i).wait = none ∧ (t.app i).a0 = 0 ∧ SameRegsBut [] s t ∧ SameMemBut 0 0 s t)) ∧
  (∀ (s : State) (i cause tval : Nat),
      i < 104 →
      s.appRuns i = true →
      cause < 64 →
      Yields (.appException i cause tval 0) s (fun t => t.rd (acU i) Reg.AC_STAT_RUN = 0 ∧ t.rd (acU i) Reg.AC_STAT_TRAPPED = 1 ∧ t.rd (acU i) Reg.AC_STAT_MCAUSE = cause ∧
        (t.app i).wait = none)) ∧
  (∀ (s : State) (i p e home q k : Nat) (line : List Byte),
      i < 104 →
      s.appRuns i = true →
      s.pageAt (s.appAgent i).die p e home q = true →
      s.ecc = [] →
      s.net = [] →
      k % 64 = 0 →
      k < 2 ^ 21 →
      line.length = 64 →
      Yields (.appFence i [(0, p * 2 ^ 21 + k, line)]) s (fun t => Holds t (pageByte home q k) line ∧ SameMemBut (pageByte home q k) 64 s t ∧ t.out = s.out))

/-- An entry of 64 bytes posted to a live queue whose partner has a free slot goes out on its port with its micro-batch
number, its page cached and its words sound; an entry of 64 bytes that arrives at a live queue of depth 1 with its
slot free is written into the slot and counted; the oldest entry being sent is complete once delivered; a load of an
entry that has arrived is answered at once; a release of no more entries than were sent frees their slots.
(17_multi_module_jobs R409; 17_multi_module_jobs R410; 17_multi_module_jobs R411; 17_multi_module_jobs R412;
17_multi_module_jobs R421.) -/
def Obligations.StageQueuesComplete : Prop :=
  (∀ (s : State) (ep qn p e home q i : Nat) (a : Post) (rest : List Post),
      ep < 2 →
      qn < 8 →
      s.pageAt 23 p e home q = true →
      s.ecc = [] →
      s.net = [] →
      i % 64 = 0 →
      i + 64 ≤ 2 ^ 21 →
      s.running = true →
      s.epochsAgree ep = true →
      (s.stq (sendKey ep qn)).live = true →
      (s.stq (sendKey ep qn)).esize = 64 →
      (s.stq (sendKey ep qn)).posts = a :: rest →
      0 < (s.stq (sendKey ep qn)).depth →
      (s.stq (sendKey ep qn)).sent < (s.stq (sendKey ep qn)).freed + (s.stq (sendKey ep qn)).depth →
      a.va = p * 2 ^ 21 + i →
      Yields (.stageEntrySend ep qn 0 []) s (fun t => (t.stq (sendKey ep qn)).posts = rest ∧ (t.stq (sendKey ep qn)).sent = (s.stq (sendKey ep qn)).sent + 1 ∧
        t.out = .stg (10 + ep) 0 qn true true s.epoch12 a.mb (slice (s.bytesAt (pageByte home q i) 64) 0 240) :: s.out ∧ SameMemBut 0 0 s t)) ∧
  (∀ (s : State) (ep qn mb p e home q i : Nat) (data : List Byte),
      ep < 2 →
      qn < 8 →
      s.pageAt 23 p e home q = true →
      s.ecc = [] →
      s.net = [] →
      i % 64 = 0 →
      i + 64 ≤ 2 ^ 21 →
      s.running = true →
      (s.stq (recvKey ep qn)).live = true →
      (s.stq (recvKey ep qn)).esize = 64 →
      (s.stq (recvKey ep qn)).depth = 1 →
      (s.stq (recvKey ep qn)).arrived = (s.stq (recvKey ep qn)).released →
      (s.stq (recvKey ep qn)).waits = [] →
      (s.stq (recvKey ep qn)).ring = p * 2 ^ 21 + i →
      data.length = 64 →
      Yields (.stageEntryArrive ep qn mb s.epoch12 data []) s (fun t => Holds t (pageByte home q i) data ∧ SameMemBut (pageByte home q i) 64 s t ∧
        (t.stq (recvKey ep qn)).arrived = (s.stq (recvKey ep qn)).arrived + 1 ∧ t.out = s.out ∧
        t.rd (stageU ep) (Reg.STQ_ARR_COUNT qn) = ((s.stq (recvKey ep qn)).arrived + 1) % 2 ^ 32)) ∧
  (∀ (s : State) (ep qn : Nat) (a : Post) (rest : List Post),
      ep < 2 →
      qn < 8 →
      (s.stq (sendKey ep qn)).sending = a :: rest →
      Yields (.stagePostComplete ep qn) s (fun t => (t.stq (sendKey ep qn)).sending = rest ∧
        t.rd (stageU ep) (Reg.STQ_SENT_COUNT qn) = (s.rd (stageU ep) (Reg.STQ_SENT_COUNT qn) + 1) % 2 ^ 32 ∧ SameMemBut 0 0 s t)) ∧
  (∀ (s : State) (src ep qn index v : Nat),
      ep < 2 →
      qn < 8 →
      index < 4096 →
      s.stqLoad ep qn index = some v →
      Yields (.stageEntryWait src ep qn index) s (fun t => t.out = .entry src v :: s.out ∧ SameMemBut 0 0 s t ∧ SameRegsBut [] s t ∧ t.stqs = s.stqs)) ∧
  (∀ (s : State) (ep qn n : Nat),
      ep < 2 →
      qn < 8 →
      (s.stq (sendKey ep qn)).freed + n ≤ (s.stq (sendKey ep qn)).sent →
      n < 2 ^ 32 →
      Yields (.releaseFlitReceive ep qn ((s.stq (sendKey ep qn)).freed + n) s.epoch12) s (fun t => (t.stq (sendKey ep qn)).freed = (s.stq (sendKey ep qn)).freed + n ∧ SameRegsBut [] s t))

/-- A frame with a bad check sequence is dropped and counted, and an ARP request for the port's address is answered; a
link change is shown; the next sample of a window stream with places left is started. A middle packet of 64 bytes of a
READ response is put in the window, its page cached, and the READ that had no answer is sent again while retries are
left; a WRITE in order with room in the window is acknowledged and moves the window on. A transport-stream sample
whose bytes have ended is closed with its last access unit; an access-unit record whose bytes have come is taken from
the ring. (14_video_ingest_developer R332; 14_video_ingest_developer R333; 14_video_ingest_developer R334;
14_video_ingest_developer R335; 14_video_ingest_developer R338; 14_video_ingest_developer R339;
14_video_ingest_developer R346; 15_application_cores R372.) -/
def Obligations.IngestCompletes : Prop :=
  (∀ (s : State) (port : Nat) (frame : List Byte) (icrc : Bool),
      port < 2 →
      Yields (.ethFrameReceive port frame false icrc) s (fun t => t.rd (ethU port) Reg.ETH_DROP_COUNT = Nat.min (s.rd (ethU port) Reg.ETH_DROP_COUNT + 1) (2 ^ 32 - 1) ∧
        SameRegsBut [(ethU port, Reg.ETH_DROP_COUNT)] s t ∧ t.out = s.out)) ∧
  (∀ (s : State) (port : Nat) (frame tag body : List Byte) (icrc : Bool),
      port < 2 →
      frame.length ≤ 9216 →
      ethParse frame = (tag, 0x0806, body) →
      (arpAnswer 0 (mget s.eths port {}).ip4 tag (slice frame 6 6) body).isSome = true →
      Yields (.ethFrameReceive port frame true icrc) s (fun t => t.out = .eth port ((arpAnswer (Config.portMac port) (mget s.eths port {}).ip4 tag (slice frame 6 6) body).getD []) :: s.out ∧
        SameRegsBut [] s t)) ∧
  (∀ (s : State) (port pmd : Nat) (link fec : Bool),
      port < 2 →
      pmd < 4 →
      Yields (.ethLinkChange port link fec pmd) s (fun t => t.rd (ethU port) Reg.ETH_STAT_LINK = b2n link ∧ t.rd (ethU port) Reg.ETH_STAT_FECLOCK = b2n fec ∧
        t.rd (ethU port) Reg.ETH_STAT_PMD = pmd ∧
        SameRegsBut [(ethU port, Reg.ETH_STAT_LINK), (ethU port, Reg.ETH_STAT_FECLOCK), (ethU port, Reg.ETH_STAT_PMD)] s t)) ∧
  (∀ (s : State) (k : Nat) (x : StreamRun),
      k < 16 →
      s.stream k = some x →
      s.running = true →
      x.stalled = false →
      x.samples.length < 128 →
      x.step ≤ s.stepNow + 1 →
      srWindow x.rec_ = true →
      Yields (.sampleStart k []) s (fun t => (t.stream k).map StreamRun.samples = some (x.samples ++
          [{ draw := x.drawAt s.stepNow x.step x.slot, step := x.step, slot := x.slot, index := x.drawAt s.stepNow x.step x.slot,
             src := 0, pid := 0, skip := 0, off := 0, len := 0, base := 0 }]) ∧ SameMemBut 0 0 s t ∧ t.out = s.out)) ∧
  (∀ (s : State) (qp k p e home q i : Nat) (qu : QueuePair) (r : ReadReq) (x : StreamRun) (m : Sample) (data : List Byte),
      k < 16 →
      s.stream k = some x →
      s.pageAt (s.tuOf (s.ingestAgent k) (p * 2 ^ 21 + i)) p e home q = true →
      s.ecc = [] →
      s.net = [] →
      i % 64 = 0 →
      i + 64 ≤ 2 ^ 21 →
      s.qp qp = qu →
      qu.st = 1 →
      qu.reads = [r] →
      r.slot = k →
      r.got = 0 →
      1 < r.packets →
      x.sample r.draw = some m →
      m.base = 0 →
      r.off = 0 →
      64 ≤ r.len →
      x.wsize = 64 →
      x.wbase = p * 2 ^ 21 + i →
      data.length = 64 →
      Yields (.readResponseReceive qp r.psn 0 0 data false) s (fun t => Holds t (pageByte home q i) data ∧ SameMemBut (pageByte home q i) 64 s t ∧
        (t.qp qp).reads = [{ r with got := 1, retries := 0, rnrs := 0 }] ∧ t.out = s.out)) ∧
  (∀ (s : State) (qp : Nat) (qu : QueuePair) (r : ReadReq),
      s.qp qp = qu →
      qu.st = 1 →
      qu.reads = [r] →
      r.retries < 7 →
      r.rnrs ≤ 7 →
      Yields (.roceAckTimeout qp) s (fun t => (t.qp qp).reads = [{ r with retries := r.retries + 1 }] ∧
        t.rd (ethU qu.port) Reg.ROCE_RETRY_COUNT = Nat.min (s.rd (ethU qu.port) Reg.ROCE_RETRY_COUNT + 1) (2 ^ 32 - 1) ∧ SameMemBut 0 0 s t)) ∧
  (∀ (s : State) (qp k : Nat) (qu : QueuePair) (x : StreamRun) (data : List Byte),
      k < 16 →
      s.stream k = some x →
      s.qp qp = qu →
      qu.st = 1 →
      qu.exp < 2 ^ 24 →
      srWindow x.rec_ = true →
      x.extents = [] →
      x.cons ≤ x.prod →
      0 < data.length →
      x.prod + data.length ≤ x.cons + x.wsize →
      Yields (.roceWriteReceive qp qu.exp k true x.prod data false) s (fun t => (t.qp qp).exp = (qu.exp + 1) % 2 ^ 24 ∧ (t.stream k).map StreamRun.prod = some (x.prod + data.length) ∧
        (t.stream k).map StreamRun.extents = some [])) ∧
  (∀ (s : State) (k draw pid : Nat) (x : StreamRun) (m : Sample) (a : AccUnit),
      k < 16 →
      s.stream k = some x →
      srCont x.rec_ = 0 →
      srWindow x.rec_ = false →
      x.sample draw = some m →
      m.arrived = true →
      m.dec.ended = false →
      m.ts.pitch = 188 →
      m.len < m.ts.pos + 188 →
      m.ts.open_ = some a →
      Yields (.tsPacket k draw pid []) s (fun t => (t.stream k).bind (fun y => (y.sample draw).map (fun z => z.dec)) =
          some { m.dec with units := m.dec.units ++ [a], ended := true } ∧ SameMemBut 0 0 s t ∧ t.out = s.out)) ∧
  (∀ (s : State) (k p e home q i n : Nat) (x : StreamRun) (b : List Byte),
      k < 16 →
      s.stream k = some x →
      s.pageAt (s.tuOf (s.ingestAgent k) (p * 2 ^ 21 + i)) p e home q = true →
      s.ecc = [] →
      s.net = [] →
      i % 32 = 0 →
      i + 32 ≤ 2 ^ 21 →
      srWindow x.rec_ = true →
      s.rd (strU k) Reg.STR_AUCONS_COUNT = n →
      n ≠ s.rd (strU k) Reg.STR_AUPROD_COUNT →
      mget s.auLog k 0 ≠ 0 →
      x.auBase + 32 * (n % 2 ^ mget s.auLog k 0) = p * 2 ^ 21 + i →
      b = s.bytesAt (pageByte home q i) 32 →
      leAt b 8 8 + leAt b 16 4 ≤ x.prod →
      Yields (.accessUnitConsume k []) s (fun t => t.rd (strU k) Reg.STR_AUCONS_COUNT = (n + 1) % 2 ^ 32 ∧
        (t.stream k).map (fun y => y.dec.units.map AccUnit.pos) = some (x.dec.units.map AccUnit.pos ++ [leAt b 8 8]) ∧ t.out = s.out))

/-- The next displayed frame of a window stream whose access units have all come is decoded or flagged, and counted; a
kept frame of a sample that has been decoded is taken; a sample all of whose kept frames are taken finishes its batch
slot. (14_video_ingest_developer R348; 14_video_ingest_developer R349; 14_video_ingest_developer R350;
14_video_ingest_developer R351.) -/
def Obligations.DeveloperCompletes : Prop :=
  (∀ (s : State) (die pipe k draw : Nat) (x : StreamRun),
      k < 16 →
      s.stream k = some x →
      srWindow x.rec_ = true →
      x.dec.ended = true →
      Yields (.decodeFrame die pipe k draw) s (fun t => (t.stream k).map (fun y => y.dec.frames) = some (x.dec.frames + 1) ∧ SameMemBut 0 0 s t ∧ t.out = s.out)) ∧
  (∀ (s : State) (die un k draw n : Nat) (x : StreamRun) (m : Sample),
      k < 16 →
      s.stream k = some x →
      x.sample draw = some m →
      n < srKept x.rec_ →
      n ∉ m.kept →
      m.readFail = false →
      m.tooLong = false →
      x.frameOf m n < (x.decOf m).frames →
      Yields (.tensorizeFrame die un k draw n []) s (fun t => (t.stream k).bind (fun y => (y.sample draw).map Sample.kept) = some (n :: m.kept))) ∧
  (∀ (s : State) (k draw : Nat) (x : StreamRun) (m : Sample),
      k < 16 →
      s.stream k = some x →
      x.sample draw = some m →
      m.readFail = false →
      m.tooLong = false →
      (∀ n, n < srKept x.rec_ → n ∈ m.kept) →
      Yields (.slotWriteComplete k draw []) s (fun t => (t.stream k).map StreamRun.written = some ((m.step, m.slot) :: x.written) ∧
        (t.stream k).bind (fun y => y.sample draw) = none))

/-- On a port that is up: a flit that a unit hands to it, with nothing else due, a credit and room in the replay buffer,
goes out with the next SEQ and stays in the replay buffer; with nothing to send it sends an IDLE flit with the ACK of
the last flit accepted, and so does a port that owes an acknowledgement; a beacon goes out in a LINK flit.
(16_hormen_fabric R376; 16_hormen_fabric R379; 16_hormen_fabric R381; 16_hormen_fabric R385.) -/
def Obligations.FlitsAreSent : Prop :=
  (∀ (s : State) (p : Nat) (x : PortSt) (f : Flit),
      s.portUp p = true →
      s.port p = x →
      x.nakDue = false →
      x.credDue = false →
      x.idDue = false →
      x.answer = none →
      x.swap = none →
      x.again = none →
      x.tx = [] →
      s.rd (portU p) Reg.FAB_INJ_CFG_MODE = 0 →
      x.replay.length < 2048 →
      f.vc ≤ 4 →
      0 < x.credits f.vc →
      f.type ≠ 1 →
      f.type ≠ 7 →
      Yields (.flitSend p [f]) s (fun t => t.out = .flit p (f.bytes x.seq x.ack) :: s.out ∧ (t.port p).seq = (x.seq + 1) % 4096 ∧
        (t.port p).replay = x.replay ++ [(x.seq, f)] ∧ (t.port p).tx = [] ∧ (t.port p).unacked = 0 ∧
        t.rd (portU p) Reg.FAB_TXF_COUNT = Nat.min (s.rd (portU p) Reg.FAB_TXF_COUNT + 1) (2 ^ 32 - 1) ∧ SameRegsBut [(portU p, Reg.FAB_STAT_REPLAY_USED), (portU p, Reg.FAB_TXF_COUNT)] s t ∧ SameMemBut 0 0 s t)) ∧
  (∀ (s : State) (p : Nat) (x : PortSt),
      s.portUp p = true →
      s.port p = x →
      x.nakDue = false →
      x.credDue = false →
      x.idDue = false →
      x.answer = none →
      x.swap = none →
      x.again = none →
      x.tx = [] →
      x.replay.length < 2048 →
      Yields (.flitSend p []) s (fun t => t.out = .flit p (({ head := 0, payload := [] } : Flit).bytes 0 x.ack) :: s.out ∧ (t.port p).seq = x.seq ∧
        t.rd (portU p) Reg.FAB_TXF_COUNT = Nat.min (s.rd (portU p) Reg.FAB_TXF_COUNT + 1) (2 ^ 32 - 1) ∧ SameMemBut 0 0 s t)) ∧
  (∀ (s : State) (p : Nat) (x : PortSt),
      s.portUp p = true →
      s.port p = x →
      0 < x.unacked →
      Yields (.ackDue p) s (fun t => t.out = .flit p (({ head := 0, payload := [] } : Flit).bytes 0 x.ack) :: s.out ∧ (t.port p).unacked = 0 ∧
        (t.port p).exp = x.exp ∧ t.rd (portU p) Reg.FAB_TXF_COUNT = Nat.min (s.rd (portU p) Reg.FAB_TXF_COUNT + 1) (2 ^ 32 - 1) ∧ SameMemBut 0 0 s t)) ∧
  (∀ (s : State) (p : Nat) (x : PortSt),
      s.portUp p = true →
      s.port p = x →
      s.rd (portU p) Reg.FAB_INJ_CFG_MODE = 0 →
      Yields (.beaconSend p) s (fun t => (∀ o, t.out.head? = some o → leAt o.line 0 1 = 8 ∧ bitAt (leAt o.line 16 1) 2 = true ∧
          slice o.line 48 64 = (s.ownBeacon p).bytes) ∧ t.out.tail = s.out ∧ (t.port p).nakDue = false ∧ SameMemBut 0 0 s t))

/-- On a port that is up: a flit of type 3 on VC 2 received in sequence with a sound CRC at one of the odd lower ports
raises the expected SEQ, is counted and is handed to the unit; a flit of that type whose CRC is wrong is counted and a
NAK falls due; a NAK for the oldest flit and a replay timeout start a replay from it; the credits received are the
cumulative counts. (16_hormen_fabric R375; 16_hormen_fabric R378; 16_hormen_fabric R380; 16_hormen_fabric R382.) -/
def Obligations.FlitsAreReceived : Prop :=
  (∀ (s : State) (p seq ack : Nat) (x : PortSt) (f : Flit),
      s.portUp p = true →
      s.port p = x →
      f.head < 2 ^ 96 →
      bitsOf f.head 31 8 = 0 →
      bitAt f.head 47 = false →
      f.payload.length = 240 →
      f.type = 3 →
      f.vc = 2 →
      p % 2 = 1 →
      p < 8 →
      seq = x.exp →
      x.exp < 4096 →
      x.seq < 4096 →
      x.replay = [] →
      ack = (x.seq + 4095) % 4096 →
      ((mget x.got 2 0 + 1) % 65536 + 65536 - mget x.freed 2 0) % 65536 < 512 →
      Yields (.flitReceive p (f.bytes seq ack) true 0 0) s (fun t => t.out = .deliver p f :: s.out ∧ (t.port p).exp = (x.exp + 1) % 4096 ∧ (t.port p).unacked = x.unacked + 1 ∧
        (t.port p).credDue = true ∧ t.rd (portU p) Reg.FAB_RXF_COUNT = Nat.min (s.rd (portU p) Reg.FAB_RXF_COUNT + 1) (2 ^ 32 - 1) ∧ SameRegsBut [(portU p, Reg.FAB_STAT_REPLAY_USED), (portU p, Reg.FAB_RXF_COUNT), (portU p, Reg.FAB_FEC_CE_COUNT), (portU p, Reg.FAB_FEC_UE_COUNT)] s t ∧ SameMemBut 0 0 s t)) ∧
  (∀ (s : State) (p : Nat) (x : PortSt) (data : List Byte),
      s.portUp p = true →
      s.port p = x →
      crc32 (slice data 0 12 ++ slice data 16 240) ≠ leAt data 12 4 →
      leAt data 0 1 % 16 = 3 →
      x.naked = false →
      Yields (.flitReceive p data true 0 0) s (fun t => (t.port p).nakDue = true ∧ (t.port p).naked = true ∧ (t.port p).exp = x.exp ∧ t.rd (portU p) Reg.FAB_CRC_COUNT = Nat.min (s.rd (portU p) Reg.FAB_CRC_COUNT + 1) (2 ^ 32 - 1) ∧ t.out = s.out ∧ SameMemBut 0 0 s t)) ∧
  (∀ (s : State) (p expSeq : Nat) (x : PortSt) (r : Nat × Flit) (l : List (Nat × Flit)),
      s.portUp p = true →
      s.port p = x →
      x.replay = r :: l →
      x.start.1 ≠ r.1 →
      expSeq % 4096 = r.1 →
      Yields (.nakReceive p expSeq) s (fun t => (t.port p).again = some 0 ∧ (t.port p).start = (r.1, 1) ∧ (t.port p).replay = x.replay ∧ t.rd (portU p) Reg.FAB_REPLAY_COUNT = Nat.min (s.rd (portU p) Reg.FAB_REPLAY_COUNT + 1) (2 ^ 32 - 1) ∧
        t.out = s.out ∧ SameRegsBut [(portU p, Reg.FAB_STAT_REPLAY_USED), (portU p, Reg.FAB_REPLAY_COUNT)] s t ∧ SameMemBut 0 0 s t)) ∧
  (∀ (s : State) (p : Nat) (x : PortSt) (r : Nat × Flit) (l : List (Nat × Flit)),
      s.portUp p = true →
      s.port p = x →
      x.replay = r :: l →
      x.start.1 ≠ r.1 →
      Yields (.replayTimeout p) s (fun t => (t.port p).again = some 0 ∧ (t.port p).start = (r.1, 1) ∧ (t.port p).replay = x.replay ∧ t.rd (portU p) Reg.FAB_REPLAY_COUNT = Nat.min (s.rd (portU p) Reg.FAB_REPLAY_COUNT + 1) (2 ^ 32 - 1) ∧
        t.out = s.out ∧ SameRegsBut [(portU p, Reg.FAB_STAT_REPLAY_USED), (portU p, Reg.FAB_REPLAY_COUNT)] s t ∧ SameMemBut 0 0 s t)) ∧
  (∀ (s : State) (p : Nat) (x : PortSt) (cred : List Nat),
      s.portUp p = true →
      s.port p = x →
      Yields (.creditReturn p cred) s (fun t => (∀ v ∈ List.range 5, mget (t.port p).credit v 0 = cred.getD v 0 % 65536) ∧ t.out = s.out ∧ SameRegsBut [(portU p, Reg.FAB_STAT_REPLAY_USED)] s t ∧ SameMemBut 0 0 s t))

/-- A retrain that completes, of a port with fewer than three in its window, brings the port up with its round trip; a
training port that fails is down with its buffers discarded; a first beacon, with beacons monitored, shows the
partner's keeper and module; a silent partner takes its port down and, with no job running, is logged as MODULE_LOST,
unless a beacon came in the same cycle, which is counted; the heartbeat's end clears KOK. TSOFF follows the tree
parent's beacon and is 0 in job module 0; an ID block shows the partner's serial, port and bridge flag.
(16_hormen_fabric R383; 16_hormen_fabric R385; 16_hormen_fabric R386; 16_hormen_fabric R387; 16_hormen_fabric R390.) -/
def Obligations.LinksChange : Prop :=
  (∀ (s : State) (p ack rtt : Nat) (x : PortSt),
      p < 12 →
      s.port p = x →
      x.training = true →
      x.retrains.length < 3 →
      Yields (.retrainComplete p ack rtt) s (fun t => t.rd (portU p) Reg.FAB_STAT_UP = 1 ∧ t.rd (portU p) Reg.FAB_RTT_NS = rtt % 2 ^ 16 ∧ (t.port p).training = false ∧
        (t.port p).idDue = true ∧ t.out = s.out ∧ SameRegsBut [(portU p, Reg.FAB_STAT_REPLAY_USED), (portU p, Reg.FAB_STAT_UP), (portU p, Reg.FAB_RTT_NS)] s t)) ∧
  (∀ (s : State) (p : Nat) (x : PortSt),
      p < 12 →
      s.port p = x →
      x.training = true →
      Yields (.portDown p) s (fun t => t.rd (portU p) Reg.FAB_STAT_UP = 0 ∧ t.rd (portU p) Reg.FAB_STAT_DOWN = 1 ∧ (t.port p).tx = [] ∧ (t.port p).replay = [] ∧
        (t.port p).training = false)) ∧
  (∀ (s : State) (p m prov epoch tSend tLastRx tLastTx off : Nat) (x : PortSt),
      s.portUp p = true →
      s.port p = x →
      x.bcn = none →
      s.rd (portU p) Reg.FAB_BCN_LIMIT ≠ 0 →
      Yields (.beaconReceive p m true prov epoch tSend tLastRx tLastTx off) s (fun t => ((t.port p).bcn.map Beacon.tSend) = some (tSend % 2 ^ 64) ∧ (t.port p).bcnAt = s.ts ∧ (t.port p).dead = 0 ∧
        t.rd (portU p) Reg.FAB_STAT_PARTNER_KEEPER = 1 ∧ t.rd (portU p) Reg.FAB_NBR_INFO_MODULE = m % 2 ^ 15 ∧ t.out = s.out ∧
        SameRegsBut [(portU p, Reg.FAB_STAT_REPLAY_USED), (portU p, Reg.FAB_STAT_PARTNER_KEEPER), (portU p, Reg.FAB_NBR_INFO_MODULE)] s t)) ∧
  (∀ (s : State) (p : Nat),
      s.portUp p = true →
      Yields (.beaconSilence p false) s (fun t => t.rd (portU p) Reg.FAB_STAT_SILENT = 1 ∧ t.rd (portU p) Reg.FAB_STAT_UP = 0 ∧ t.rd (portU p) Reg.FAB_STAT_DOWN = 1 ∧
        (t.port p).tx = [] ∧ (s.running = false → (t.log.ring.head?.map LogEntry.code) = some eMODULE_LOST))) ∧
  (∀ (s : State) (p : Nat),
      s.portUp p = true →
      Yields (.beaconSilence p true) s (fun t => t.rd (portU p) Reg.FAB_NEARMISS_COUNT = Nat.min (s.rd (portU p) Reg.FAB_NEARMISS_COUNT + 1) (2 ^ 32 - 1) ∧ t.out = s.out ∧ SameRegsBut [(portU p, Reg.FAB_NEARMISS_COUNT)] s t ∧ SameMemBut 0 0 s t)) ∧
  (∀ (s : State) (p : Nat),
      p < 12 →
      Yields (.kokExpiry p) s (fun t => (t.port p).kok = false ∧ (t.port p).bcn = (s.port p).bcn ∧ t.out = s.out ∧ SameRegsBut [(portU p, Reg.FAB_STAT_REPLAY_USED)] s t ∧ SameMemBut 0 0 s t)) ∧
  (∀ (s : State),
      s.job.modId = 0 →
      Yields (.tsoffUpdate) s (fun t => t.rd clkU Reg.TSOFF_LO_VALUE = 0 ∧ t.out = s.out ∧ SameRegsBut [(clkU, Reg.TSOFF_LO_VALUE)] s t)) ∧
  (∀ (s : State) (p : Nat) (b : Beacon),
      s.job.modId ≠ 0 →
      s.disc.root = false →
      s.disc.up = some p →
      (s.port p).bcn = some b →
      Yields (.tsoffUpdate) s (fun t => t.rd clkU Reg.TSOFF_LO_VALUE = wrapInt 64 (sext 64 b.tsoff +
          ((sext 64 b.tLastRx - sext 64 b.tLastTx) + (sext 64 b.tSend - sext 64 (s.port p).bcnAt)) / 2) ∧
        t.out = s.out ∧ SameRegsBut [(clkU, Reg.TSOFF_LO_VALUE)] s t)) ∧
  (∀ (s : State) (p serial q : Nat) (bridge : Bool),
      s.portUp p = true →
      Yields (.idBlockReceive p serial q bridge) s (fun t => t.rd (portU p) Reg.FAB_NBR_SER_LO_SERIAL = serial % 2 ^ 64 ∧ t.rd (portU p) Reg.FAB_NBR_INFO_PORT = q % 16 ∧
        t.rd (portU p) Reg.FAB_NBR_INFO_BRIDGE = b2n bridge ∧ t.out = s.out ∧
        SameRegsBut [(portU p, Reg.FAB_NBR_SER_LO_SERIAL), (portU p, Reg.FAB_NBR_INFO_PORT), (portU p, Reg.FAB_NBR_INFO_BRIDGE)] s t))

/-- A first offer of a newer number opens a collection; the collection's end, with one offer and one port up, takes that
port as the parent, which is told; a child is recorded; a module without children that has made its offers sends its
own record to its parent; a child's report is kept at a module that is not the root; an id assigned by the parent is
taken, and without children nothing more is sent. (16_hormen_fabric R391.) -/
def Obligations.DiscoveryCompletes : Prop :=
  (∀ (s : State) (p num hops serial : Nat),
      s.portUp p = true →
      s.disc.num < num →
      Yields (.offerReceive p num hops serial) s (fun t => t.disc.num = num ∧ t.disc.collecting = true ∧ t.disc.offers = [(hops, serial, p)] ∧ t.disc.root = false ∧ t.out = s.out ∧
        SameRegsBut [] s t ∧ SameMemBut 0 0 s t)) ∧
  (∀ (s : State) (hops serial p : Nat),
      s.disc.collecting = true →
      s.disc.offers = [(hops, serial, p)] →
      s.upPorts = [p] →
      Yields (.offerCollectEnd) s (fun t => t.disc.collecting = false ∧ t.disc.hops = hops + 1 ∧ t.disc.parent = some p ∧ t.disc.offered = true ∧
        t.out = .disc p 1 s.disc.num 0 s.serial [] :: s.out ∧ SameRegsBut [] s t)) ∧
  (∀ (s : State) (p num : Nat),
      s.portUp p = true →
      num = s.disc.num →
      p ∉ s.disc.kids →
      Yields (.childReceive p num) s (fun t => t.disc.kids = s.disc.kids ++ [p] ∧ t.disc.reports = s.disc.reports ∧ t.out = s.out ∧ SameRegsBut [] s t)) ∧
  (∀ (s : State) (p : Nat),
      s.disc.offered = true →
      s.disc.reported = false →
      s.disc.kids = [] →
      s.disc.reports = [] →
      s.disc.root = false →
      s.disc.parent = some p →
      Yields (.reportSend) s (fun t => t.disc.reported = true ∧ t.out = .disc p 2 s.disc.num 0 s.serial [s.ownTopo] :: s.out ∧ SameRegsBut [] s t)) ∧
  (∀ (s : State) (p num : Nat) (recs : List TopoRec),
      num = s.disc.num →
      p ∈ s.disc.kids →
      s.disc.reports = [] →
      s.disc.root = false →
      Yields (.reportReceive p num recs) s (fun t => t.disc.reports = [(p, recs)] ∧ t.disc.reported = s.disc.reported ∧ t.out = s.out ∧ SameRegsBut [] s t)) ∧
  (∀ (s : State) (p num id : Nat),
      num = s.disc.num →
      s.disc.parent = some p →
      s.disc.reports = [] →
      Yields (.assignReceive p num id) s (fun t => t.provId = id % 2 ^ 15 ∧ t.disc.up = some p ∧ t.disc.down = [] ∧ t.out = s.out ∧ SameRegsBut [] s t))

/-- In a bridge module: a function level reset clears configuration space, MSI-X state, the address table and the host
channels, and answers what was in flight with error 6; a link loss, with no fabric on port 0, does the same and the
link trains again; PERST_N asserted does the same and holds it, and released lets it train once start-up has passed
its stage; a link that comes up shows its speed, width and mode. A configuration write is kept and a read of the
command and status word answered while the firmware runs; before that, but for a keeper reset, a request is answered
with Retry. A write to MBX_KRST by the host with the key resets the keeper; one by another sender is answered with
PROT_FAULT and changes nothing. (16_hormen_fabric R399; 16_hormen_fabric R402; 19_keeper_minil R459;
22_connectors_startup R513; 22_connectors_startup R517.) -/
def Obligations.BridgeLinkCompletes : Prop :=
  (∀ (s : State) (inFlight : List (Nat × Nat)),
      s.bridge = true →
      Yields (.functionLevelReset inFlight) s (fun t => t.pcie.cfg = [] ∧ t.pcie.msix = [] ∧ (∀ n ∈ List.range 4096, t.rd (portU 1) (Reg.HB_ATT_LO_V n) = 0) ∧
        (∀ c ∈ List.range 16, 8 ≤ c → t.mbxState c = mEMPTY) ∧ (∀ x ∈ inFlight, Out.txnErr x.1 x.2 6 ∈ t.out) ∧ t.pcie.perst = s.pcie.perst)) ∧
  (∀ (s : State) (inFlight : List (Nat × Nat)),
      s.pcieUp = true →
      s.portUsed 0 = false →
      Yields (.pcieLinkLoss inFlight) s (fun t => t.pcie.cfg = [] ∧ t.pcie.msix = [] ∧ (∀ n ∈ List.range 4096, t.rd (portU 1) (Reg.HB_ATT_LO_V n) = 0) ∧
        (∀ c ∈ List.range 16, 8 ≤ c → t.mbxState c = mEMPTY) ∧ (∀ x ∈ inFlight, Out.txnErr x.1 x.2 6 ∈ t.out) ∧ t.pcie.training = true ∧ t.rd (portU 1) Reg.HB_STAT_LINKUP = 0 ∧
        t.rd (portU 1) Reg.HB_STAT_SPEED = 0 ∧ t.rd (portU 1) Reg.HB_STAT_WIDTH = 0 ∧ t.rd (portU 1) Reg.HB_STAT_FLIT = 0)) ∧
  (∀ (s : State) (inFlight : List (Nat × Nat)),
      s.bridge = true →
      Yields (.perstNAssert inFlight) s (fun t => t.pcie.cfg = [] ∧ t.pcie.msix = [] ∧ (∀ n ∈ List.range 4096, t.rd (portU 1) (Reg.HB_ATT_LO_V n) = 0) ∧
        (∀ c ∈ List.range 16, 8 ≤ c → t.mbxState c = mEMPTY) ∧ (∀ x ∈ inFlight, Out.txnErr x.1 x.2 6 ∈ t.out) ∧ t.pcie.perst = false ∧ t.pcie.training = false ∧ t.rd (portU 1) Reg.HB_STAT_LINKUP = 0)) ∧
  (∀ (s : State),
      Yields (.perstNRelease) s (fun t => t.pcie = { s.pcie with perst := true } ∧ t.out = s.out ∧ SameBut [.pcie] s t)) ∧
  (∀ (s : State),
      s.bridge = true →
      s.pcie.perst = true →
      3 ≤ s.stage →
      s.rd sbU Reg.SB_STAT_HALTED = 0 →
      s.pcieUp = false →
      Yields (.pcieLinkTraining) s (fun t => t.pcie = { s.pcie with training := true } ∧ t.out = s.out ∧ SameBut [.pcie] s t)) ∧
  (∀ (s : State) (speed width : Nat) (flit : Bool),
      s.bridge = true →
      s.pcie.training = true →
      Yields (.pcieLinkUp speed width flit) s (fun t => t.pcie.training = false ∧ t.rd (portU 1) Reg.HB_STAT_LINKUP = 1 ∧ t.rd (portU 1) Reg.HB_STAT_SPEED = speed % 8 ∧
        t.rd (portU 1) Reg.HB_STAT_WIDTH = width % 32 ∧ t.rd (portU 1) Reg.HB_STAT_FLIT = b2n flit ∧ t.out = s.out ∧ SameBut [.pcie, .regs] s t)) ∧
  (∀ (s : State) (reg data : Nat),
      s.bridge = true →
      5 ≤ s.stage →
      s.stage ≤ 8 →
      Yields (.configurationRequest true reg data) s (fun t => mget t.pcie.cfg reg 0 = data % 2 ^ 32 ∧ t.out = .config false 0 :: s.out ∧ SameBut [.pcie] s t)) ∧
  (∀ (s : State) (data : Nat),
      s.bridge = true →
      5 ≤ s.stage →
      s.stage ≤ 8 →
      Yields (.configurationRequest false 4 data) s (fun t => t.out = .config false (mget s.pcie.cfg 4 0 / 2 ^ 25 * 2 ^ 25 + 4) :: s.out ∧ SameBut [] s t)) ∧
  (∀ (s : State) (write : Bool) (reg data : Nat),
      s.bridge = true →
      s.stage < 5 →
      s.sb.kind ≠ 3 →
      Yields (.configurationRequest write reg data) s (fun t => t.out = .config true 0 :: s.out ∧ SameBut [] s t)) ∧
  (∀ (s : State) (src key : Nat),
      s.isHost src = true →
      key % 65536 = 0x4B52 →
      Yields (.mbxKrst src key) s (fun t => t.stage = 2 ∧ t.sb.kind = 3 ∧ t.sb.cause = 3 ∧ t.rd dkrU Reg.DKR_STAT_JTAG_OPEN = 0 ∧ t.kpr = {} ∧
        t.dkr.staged = none ∧ (t.out.head? = some (.answer 0 0 [])))) ∧
  (∀ (s : State) (src key : Nat),
      s.isHost src = false →
      Yields (.mbxKrst src key) s (fun t => t.out = .answer ePROT 0 [] :: s.out ∧ SameBut [] s t))

/-- With the link up: a host write to the MSI-X table is kept; a host write through a read-write window on another module
goes out as a write and completes, and any access through a window that is not enabled completes with Unsupported
Request and is counted; an access to the host window whose table entry is valid writes or reads host memory at the
entry's address. (16_hormen_fabric R400; 16_hormen_fabric R401.) -/
def Obligations.HostAccessesComplete : Prop :=
  (∀ (s : State) (n : Nat) (data : List Byte),
      s.pcieUp = true →
      n < 128 →
      Yields (.hostBar0Access (0x1010000 + 4 * n) true data 0) s (fun t => mget t.pcie.msix n 0 = leNat data % 2 ^ 32 ∧ t.out = .hostDone false [] :: s.out ∧ SameBut [.pcie] s t)) ∧
  (∀ (s : State) (w off tb : Nat) (data : List Byte),
      s.pcieUp = true →
      w < 64 →
      off < 2 ^ 30 →
      s.rd (portU 1) (Reg.HB_OWIN_LO_EN w) ≠ 0 →
      s.rd (portU 1) (Reg.HB_OWIN_LO_W w) ≠ 0 →
      tb = s.rd (portU 1) (Reg.HB_OWIN_LO_TBASE w) * 2 ^ 30 + s.rd (portU 1) (Reg.HB_OWIN_HI_TBASE w) * 2 ^ 32 →
      taModule (tb + off) ≠ s.provId →
      Yields (.hostBar2Access (w * 2 ^ 30 + off) true data 0) s (fun t => t.out = .hostDone false [] :: .write (s.provId * 65536 + portU 0) (tb + off) data :: s.out ∧ SameBut [] s t)) ∧
  (∀ (s : State) (w off len : Nat) (write : Bool) (data : List Byte),
      s.pcieUp = true →
      w < 64 →
      off < 2 ^ 30 →
      s.rd (portU 1) (Reg.HB_OWIN_LO_EN w) = 0 →
      Yields (.hostBar2Access (w * 2 ^ 30 + off) write data len) s (fun t => t.out = .hostDone true [] :: s.out ∧ t.rd (portU 1) Reg.HB_UR_COUNT = Nat.min (s.rd (portU 1) Reg.HB_UR_COUNT + 1) (2 ^ 32 - 1) ∧ SameRegsBut [(portU 1, Reg.HB_UR_COUNT)] s t ∧ SameBut [.regs] s t)) ∧
  (∀ (s : State) (off a : Nat) (data : List Byte),
      off < 2 ^ 24 →
      s.pcieUp = true →
      s.rd (portU 1) (Reg.HB_ATT_LO_V (off / 4096)) = 1 →
      a = s.rd (portU 1) (Reg.HB_ATT_LO_ADDR (off / 4096)) * 4096 + s.rd (portU 1) (Reg.HB_ATT_HI_ADDR (off / 4096)) * 2 ^ 32 + off % 4096 →
      Yields (.hostWindowAccess off true data 0 []) s (fun t => t.out = .answer 0 0 [] :: .host a data :: s.out ∧ SameBut [] s t)) ∧
  (∀ (s : State) (off a len : Nat) (host : List Byte),
      off < 2 ^ 24 →
      s.pcieUp = true →
      s.rd (portU 1) (Reg.HB_ATT_LO_V (off / 4096)) = 1 →
      a = s.rd (portU 1) (Reg.HB_ATT_LO_ADDR (off / 4096)) * 4096 + s.rd (portU 1) (Reg.HB_ATT_HI_ADDR (off / 4096)) * 2 ^ 32 + off % 4096 →
      Yields (.hostWindowAccess off false [] len host) s (fun t => t.out = .answer 0 0 (slice host 0 len) :: s.out ∧ SameBut [] s t))

/-- With power good and a right PEC each command is acknowledged with its data: STATUS, RESET_CAUSE and SERIAL from the
sideband, POWER, COOL, SET_CAP and GET_CAP from the keeper whose firmware runs, SET_CAP setting the cap clamped to
4,000 to 9,600 W, where the fields they show are within their widths; a STATUS with a wrong PEC is not acknowledged
and is counted; an alert response releases SMB_ALERT_N and answers the address; a clock-low time-out leaves everything
as it is. (22_connectors_startup R510; 22_connectors_startup R511; 22_connectors_startup R512; 21_power_cooling R502.) -/
def Obligations.SmbusAnswers : Prop :=
  (∀ (s : State),
      s.sb.good = true →
      s.rd sbU Reg.SB_STAT_STAGE < 16 →
      s.rd sbU Reg.SB_STAT_HALTED < 2 →
      s.rd sbU Reg.SB_STAT_FAULT < 2 →
      s.rd sbU Reg.SB_STAT_PWR_OK < 2 →
      s.rd sbU Reg.SB_STAT_BRIDGE < 2 →
      Yields (.status true) s (fun t => t.out = .smb true (leBytes 1 (s.rd sbU Reg.SB_STAT_STAGE + 16 * s.rd sbU Reg.SB_STAT_HALTED + 32 * s.rd sbU Reg.SB_STAT_FAULT + 64 * s.rd sbU Reg.SB_STAT_PWR_OK
          + 128 * s.rd sbU Reg.SB_STAT_BRIDGE)) :: s.out ∧ SameBut [] s t)) ∧
  (∀ (s : State),
      s.sb.good = true →
      Yields (.status false) s (fun t => t.out = .smb false [] :: s.out ∧ t.rd sbU Reg.SB_SMBERR_COUNT = Nat.min (s.rd sbU Reg.SB_SMBERR_COUNT + 1) (2 ^ 32 - 1) ∧ SameRegsBut [(sbU, Reg.SB_SMBERR_COUNT)] s t ∧ SameBut [.regs] s t)) ∧
  (∀ (s : State),
      s.sb.good = true →
      Yields (.resetCause true) s (fun t => t.out = .smb true (leBytes 1 s.sb.cause) :: s.out ∧ SameBut [] s t)) ∧
  (∀ (s : State),
      s.sb.good = true →
      Yields (.serial true) s (fun t => t.out = .smb true (leBytes 8 s.dkr.fuse.serial0) :: s.out ∧ SameBut [] s t)) ∧
  (∀ (s : State),
      s.sb.good = true →
      5 ≤ s.stage →
      s.stage ≤ 8 →
      s.rd keeperU Reg.PWR_VIN_MV < 2 ^ 32 →
      s.rd keeperU Reg.PWR_IIN_MA < 2 ^ 32 →
      s.rd keeperU Reg.PWR_PIN_W < 2 ^ 16 →
      s.rd keeperU Reg.PWR_PIN_PC < 2 ^ 16 →
      s.rd keeperU Reg.PWR_TEMP_TJ < 2 ^ 8 →
      s.rd keeperU Reg.PWR_TEMP_TJ_DIE < 2 ^ 6 →
      s.rd keeperU Reg.PWR_TEMP_TD < 2 ^ 8 →
      s.rd keeperU Reg.PWR_TEMP_TD_DIE < 2 ^ 5 →
      Yields (.power true) s (fun t => t.out = .smb true (leBytes 4 (s.rd keeperU Reg.PWR_VIN_MV) ++ leBytes 4 (s.rd keeperU Reg.PWR_IIN_MA) ++
          leBytes 4 (s.rd keeperU Reg.PWR_PIN_W + 2 ^ 16 * s.rd keeperU Reg.PWR_PIN_PC) ++
          leBytes 4 (s.rd keeperU Reg.PWR_TEMP_TJ + 2 ^ 8 * s.rd keeperU Reg.PWR_TEMP_TJ_DIE + 2 ^ 16 * s.rd keeperU Reg.PWR_TEMP_TD +
            2 ^ 24 * s.rd keeperU Reg.PWR_TEMP_TD_DIE)) :: s.out ∧ SameBut [] s t)) ∧
  (∀ (s : State),
      s.sb.good = true →
      5 ≤ s.stage →
      s.stage ≤ 8 →
      s.rd keeperU Reg.PWR_COOL_T_IN < 2 ^ 16 →
      s.rd keeperU Reg.PWR_COOL_T_OUT < 2 ^ 16 →
      Yields (.cool true) s (fun t => t.out = .smb true (leBytes 4 (s.rd keeperU Reg.PWR_COOL_T_IN + 2 ^ 16 * s.rd keeperU Reg.PWR_COOL_T_OUT)) :: s.out ∧ SameBut [] s t)) ∧
  (∀ (s : State) (w : Nat),
      s.sb.good = true →
      5 ≤ s.stage →
      s.stage ≤ 8 →
      Yields (.setCap w true) s (fun t => t.rd keeperU Reg.PWR_CAP_W = Nat.max 4000 (Nat.min 9600 (w % 65536)) ∧ t.out = .smb true [] :: s.out ∧
        SameRegsBut [(keeperU, Reg.PWR_CAP_W)] s t ∧ SameBut [.regs] s t)) ∧
  (∀ (s : State),
      s.sb.good = true →
      5 ≤ s.stage →
      s.stage ≤ 8 →
      Yields (.getCap true) s (fun t => t.out = .smb true (leBytes 2 (s.rd keeperU Reg.PWR_CAP_W)) :: s.out ∧ SameBut [] s t)) ∧
  (∀ (s : State),
      s.sb.good = true →
      s.sb.alert = true →
      Yields (.smbAlertResponse) s (fun t => t.sb = { s.sb with alert := false } ∧ t.out = .smb true (leBytes 1 (2 * (0x58 + s.rd sbU Reg.SB_STAT_SLOT))) :: s.out ∧ SameBut [.sb] s t)) ∧
  (∀ (s : State),
      Yields (.smbClockLowTimeout) s (fun t => t.out = s.out ∧ SameBut [] s t))

/-- With power good each instruction shifts its data register: EXTEST and SAMPLE/PRELOAD of an open port the boundary
register, IDCODE the identification code, BYPASS one bit, DKR_CHAL a fresh challenge; a token that meets every
condition of R488 opens the port, and one that does not, or that comes with a LOAD_JOB, leaves it and is counted; a
reset closes the port and clears the test logic. (20_darkroom_security R488; 20_darkroom_security R489;
22_connectors_startup R518.) -/
def Obligations.TestPortCompletes : Prop :=
  (∀ (s : State) (pins tdi : List Bool),
      s.sb.good = true →
      s.rd dkrU Reg.DKR_STAT_JTAG_OPEN = 1 →
      Yields (.extest pins tdi) s (fun t => t.out = .tdo ((pins ++ tdi).take tdi.length) :: s.out ∧ t.tap.ir = 0 ∧
        t.tap.bsr = (pins ++ tdi).drop tdi.length ∧ SameBut [.tap] s t)) ∧
  (∀ (s : State) (pins tdi : List Bool),
      s.sb.good = true →
      s.rd dkrU Reg.DKR_STAT_JTAG_OPEN = 1 →
      Yields (.samplePreload pins tdi) s (fun t => t.out = .tdo ((pins ++ tdi).take tdi.length) :: s.out ∧ t.tap.ir = 2 ∧
        t.tap.bsr = (pins ++ tdi).drop tdi.length ∧ SameBut [.tap] s t)) ∧
  (∀ (s : State) (tdi : List Bool),
      s.sb.good = true →
      Yields (.idcode tdi) s (fun t => t.out = .tdo (((bitsOfBytes (leBytes 4 0x1034045B)) ++ tdi).take tdi.length) :: s.out ∧ t.tap.ir = 1 ∧ SameBut [.tap] s t)) ∧
  (∀ (s : State) (tdi : List Bool),
      s.sb.good = true →
      Yields (.bypass tdi) s (fun t => t.out = .tdo (([false] ++ tdi).take tdi.length) :: s.out ∧ t.tap.ir = 0xFF ∧ SameBut [.tap] s t)) ∧
  (∀ (s : State) (tdi : List Bool) (c : List Byte),
      s.sb.good = true →
      c = (List.range 32).map (fun i => Config.freeByte (s.free + i)) →
      Yields (.dkrChal tdi) s (fun t => t.out = .tdo (((bitsOfBytes c) ++ tdi).take tdi.length) :: s.out ∧ t.tap.ir = 0x10 ∧
        t.dkr = { s.dkr with chal := some c } ∧ t.free = s.free + 32 ∧ SameBut [.tap, .dkr] s t)) ∧
  (∀ (s : State) (tok : List Byte),
      s.sb.good = true →
      s.tokenOpens tok = true →
      Yields (.dkrUnlock tok false) s (fun t => t.rd dkrU Reg.DKR_STAT_JTAG_OPEN = 1 ∧ t.tap = { s.tap with ir := 0x11 } ∧ t.out = s.out ∧
        SameRegsBut [(dkrU, Reg.DKR_STAT_JTAG_OPEN)] s t ∧ SameBut [.regs, .tap] s t)) ∧
  (∀ (s : State) (tok : List Byte) (withLoad : Bool),
      s.sb.good = true →
      s.tokenOpens tok = false ∨ withLoad = true →
      Yields (.dkrUnlock tok withLoad) s (fun t => t.rd dkrU Reg.DKR_STAT_JTAG_OPEN = s.rd dkrU Reg.DKR_STAT_JTAG_OPEN ∧ t.rd dkrU Reg.DKR_UNLOCKFAIL_COUNT = Nat.min (s.rd dkrU Reg.DKR_UNLOCKFAIL_COUNT + 1) (2 ^ 32 - 1) ∧ SameBut [.regs, .tap] s t)) ∧
  (∀ (s : State),
      Yields (.tapReset) s (fun t => t.rd dkrU Reg.DKR_STAT_JTAG_OPEN = 0 ∧ t.tap = {} ∧ t.out = s.out ∧ SameRegsBut [(dkrU, Reg.DKR_STAT_JTAG_OPEN)] s t ∧ SameBut [.regs, .tap] s t))

/-- Power good's rise starts the module with its slot, input voltage and bridge strap; its fall leaves the fuses and the
flash; MOD_RST_N asserted holds the module; its release after less than 1 microsecond has no effect, after less than
100 ms, with no near miss, is a warm reset, which keeps DRAM and leaves NO_JOB and DIRTY, and later, with no trip, a
cold reset, which keeps no memory; a loss of lock stops the clock, ends the job and drives FAULT_N, and lock, with no
trip and MOD_RST_N high, goes on at the keeper ROM's stage. (01_module_dies_clocks R28; 01_module_dies_clocks R29;
22_connectors_startup R506; 22_connectors_startup R508; 22_connectors_startup R513; 22_connectors_startup R514;
22_connectors_startup R515.) -/
def Obligations.ResetsComplete : Prop :=
  (∀ (s : State) (mv slot : Nat) (b : Bool),
      s.sb.good = false →
      Yields (.powerGoodRise mv slot b) s (fun t => t.sb.good = true ∧ t.bridge = b ∧ t.rd sbU Reg.SB_STAT_PWR_OK = 1 ∧ t.rd sbU Reg.SB_STAT_SLOT = slot % 8 ∧
        t.rd sbU Reg.SB_STAT_BRIDGE = b2n b ∧ t.rd keeperU Reg.PWR_VIN_MV = mv % 2 ^ 32 ∧ (s.sb.low = none → t.stage = 1) ∧
        t.job.st = .noJob ∧ OnlyIn (fun _ => false) t ∧ t.out = s.out)) ∧
  (∀ (s : State) (ok : Bool),
      s.sb.good = true →
      Yields (.powerGoodFall ok) s (fun t => t.sb.good = false ∧ t.rd sbU Reg.SB_STAT_PWR_OK = b2n ok ∧ t.job.st = .noJob ∧
        t.dkr.fuse = s.dkr.fuse ∧ t.dkr.flash = s.dkr.flash ∧ OnlyIn (fun _ => false) t ∧ t.stage = 0 ∧ t.out = s.out)) ∧
  (∀ (s : State),
      s.sb.low = none →
      Yields (.modRstNAssert) s (fun t => t.sb = { s.sb with low := some s.stage } ∧ t.stage = 0 ∧ t.out = s.out ∧ SameRegsBut [(sbU, Reg.SB_STAT_STAGE)] s t ∧ SameBut [.regs, .sb] s t)) ∧
  (∀ (s : State) (st n : Nat) (near : Bool),
      s.sb.low = some st →
      n < usTicks →
      st < 16 →
      Yields (.modRstNRelease n near) s (fun t => t.sb = { s.sb with low := none } ∧ t.stage = st ∧ t.out = s.out ∧ SameRegsBut [(sbU, Reg.SB_STAT_STAGE)] s t ∧ SameBut [.regs, .sb] s t)) ∧
  (∀ (s : State) (st n : Nat),
      s.sb.low = some st →
      s.sb.good = true →
      usTicks ≤ n →
      n < coldTicks →
      Yields (.modRstNRelease n false) s (fun t => t.sb.low = none ∧ t.sb.kind = 2 ∧ t.sb.cause = 2 ∧ t.stage = 1 ∧ t.job.st = .noJob ∧ t.job.dirty = true ∧
        t.rd sbU Reg.SB_RSTCNT_WARM = Nat.min (s.rd sbU Reg.SB_RSTCNT_WARM % 2 ^ 16 + 1) 65535 ∧ t.dkr.fuse = s.dkr.fuse ∧ t.out = s.out ∧
        OnlyIn inDram t ∧ SameIn inDram s t)) ∧
  (∀ (s : State) (st n : Nat),
      s.sb.low = some st →
      s.sb.good = true →
      coldTicks ≤ n →
      s.rd keeperU Reg.PWR_STAT_TRIP = 0 →
      Yields (.modRstNRelease n false) s (fun t => t.sb.low = none ∧ t.sb.kind = 1 ∧ t.sb.cause = 1 ∧ t.stage = 1 ∧ t.job.st = .noJob ∧ t.job.dirty = false ∧
        t.rd sbU Reg.SB_RSTCNT_COLD = Nat.min (s.rd sbU Reg.SB_RSTCNT_COLD % 2 ^ 16 + 1) 65535 ∧ t.dkr.fuse = s.dkr.fuse ∧ t.out = s.out ∧
        OnlyIn (fun _ => false) t)) ∧
  (∀ (s : State),
      s.sb.good = true →
      s.rd clkU Reg.CLK_STAT_ROOT_LOCK = 1 →
      Yields (.pllLossOfLock) s (fun t => t.rd clkU Reg.CLK_STAT_ROOT_LOCK = 0 ∧ t.sb.cause = 4 ∧ t.rd sbU Reg.SB_STAT_FAULT = 1 ∧ lockFault ∈ t.sb.faults ∧
        t.job.st = .noJob ∧ t.job.dirty = true ∧ t.dkr.fuse = s.dkr.fuse ∧ t.out = s.out)) ∧
  (∀ (s : State),
      s.sb.good = true →
      s.rd clkU Reg.CLK_STAT_ROOT_LOCK = 0 →
      s.sb.low = none →
      s.rd keeperU Reg.PWR_STAT_TRIP = 0 →
      Yields (.pllLock) s (fun t => t.rd clkU Reg.CLK_STAT_ROOT_LOCK = 1 ∧ t.stage = 2 ∧ lockFault ∉ t.sb.faults ∧ t.out = s.out ∧ SameBut [.regs, .sb] s t))

/-- With power good, the root clock locked, no halt, no trip and MOD_RST_N high: stage 1 ends at stage 2; stage 2 ends
with its lagging fuse copies repaired where the fuses match, and stops with FAULT_N low where they differ; stage 5
ends, where training succeeded, with every stack trained and, after power good or a cold reset, the module scrubbed;
stage 6 ends with each port that trained up, in the mode of a fabric port, shown with its round trip; stage 7 ends
with the keeper alive on every port. (20_darkroom_security R476; 20_darkroom_security R487; 22_connectors_startup
R515; 22_connectors_startup R516.) -/
def Obligations.StartUpCompletes : Prop :=
  (∀ (s : State) (bad : Bool) (ports : List (Nat × Nat)) (eths : List Nat),
      s.sb.good = true →
      s.sb.low = none →
      s.rd sbU Reg.SB_STAT_HALTED = 0 →
      s.rd clkU Reg.CLK_STAT_ROOT_LOCK = 1 →
      s.rd keeperU Reg.PWR_STAT_TRIP = 0 →
      s.stage = 1 →
      Yields (.startUpStageDone bad ports eths) s (fun t => t.stage = 2 ∧ t.out = s.out ∧ SameRegsBut [(sbU, Reg.SB_STAT_STAGE)] s t ∧ SameBut [.regs] s t)) ∧
  (∀ (s : State) (bad : Bool) (ports : List (Nat × Nat)) (eths : List Nat),
      s.sb.good = true →
      s.sb.low = none →
      s.rd sbU Reg.SB_STAT_HALTED = 0 →
      s.rd clkU Reg.CLK_STAT_ROOT_LOCK = 1 →
      s.rd keeperU Reg.PWR_STAT_TRIP = 0 →
      s.stage = 2 →
      fusesBad s.dkr.fuse = false →
      Yields (.startUpStageDone bad ports eths) s (fun t => t.stage = 3 ∧ t.dkr = { s.dkr with fuse := fusesRepaired s.dkr.fuse } ∧ t.out = s.out ∧
        SameRegsBut [(sbU, Reg.SB_STAT_STAGE)] s t ∧ SameBut [.regs, .dkr] s t)) ∧
  (∀ (s : State) (bad : Bool) (ports : List (Nat × Nat)) (eths : List Nat),
      s.sb.good = true →
      s.sb.low = none →
      s.rd sbU Reg.SB_STAT_HALTED = 0 →
      s.rd clkU Reg.CLK_STAT_ROOT_LOCK = 1 →
      s.rd keeperU Reg.PWR_STAT_TRIP = 0 →
      s.stage = 2 →
      fusesBad s.dkr.fuse = true →
      Yields (.startUpStageDone bad ports eths) s (fun t => t.stage = 2 ∧ t.rd sbU Reg.SB_STAT_HALTED = 1 ∧ t.rd sbU Reg.SB_STAT_FAULT = 1 ∧ t.sb.alert = true ∧ t.dkr = s.dkr)) ∧
  (∀ (s : State) (ports : List (Nat × Nat)) (eths : List Nat),
      s.sb.good = true →
      s.sb.low = none →
      s.rd sbU Reg.SB_STAT_HALTED = 0 →
      s.rd clkU Reg.CLK_STAT_ROOT_LOCK = 1 →
      s.rd keeperU Reg.PWR_STAT_TRIP = 0 →
      s.stage = 5 →
      s.sb.kind < 2 →
      Yields (.startUpStageDone false ports eths) s (fun t => t.stage = 6 ∧ t.rd dkrU Reg.DKR_STAT_SCRUBBED = 1 ∧ (∀ d ∈ List.range 24, t.rd (dramU d) Reg.DRAM_STAT_TRAINED = 1) ∧
        t.out = s.out ∧ SameBut [.regs] s t)) ∧
  (∀ (s : State) (bad : Bool) (p rtt : Nat) (eths : List Nat),
      s.sb.good = true →
      s.sb.low = none →
      s.rd sbU Reg.SB_STAT_HALTED = 0 →
      s.rd clkU Reg.CLK_STAT_ROOT_LOCK = 1 →
      s.rd keeperU Reg.PWR_STAT_TRIP = 0 →
      s.stage = 6 →
      p < 12 →
      s.rd (portU p) Reg.FAB_STAT_MODE = 0 →
      Yields (.startUpStageDone bad [(p, rtt)] eths) s (fun t => t.stage = 7 ∧ t.rd (portU p) Reg.FAB_STAT_UP = 1 ∧ t.rd (portU p) Reg.FAB_RTT_NS = rtt % 2 ^ 16 ∧ (t.port p).idDue = true)) ∧
  (∀ (s : State) (bad : Bool) (ports : List (Nat × Nat)) (eths : List Nat),
      s.sb.good = true →
      s.sb.low = none →
      s.rd sbU Reg.SB_STAT_HALTED = 0 →
      s.rd clkU Reg.CLK_STAT_ROOT_LOCK = 1 →
      s.rd keeperU Reg.PWR_STAT_TRIP = 0 →
      s.stage = 7 →
      Yields (.startUpStageDone bad ports eths) s (fun t => t.stage = 8 ∧ (∀ p ∈ List.range 12, (t.port p).kok = true) ∧ t.out = s.out ∧ SameBut [.regs, .ports] s t))

/-- With power good a change of the input voltage shows its flags; an inlet above 45 degrees is logged; a stack's
temperature is shown and sets HOT above 85 degrees, and one that comes above 95 is logged as THERMAL; a junction at
115 degrees or a stack at 105 trips the module; a window within its cap and temperatures at step 0 leaves the step,
and one above its cap at a step below 3 steps down; at stage 8, with nothing held and no command running, the
permitted power state is entered, and a wake from a state below 3, with nothing held, ends with the module Active.
(01_module_dies_clocks R27; 08_bonded_dram R202; 21_power_cooling R492; 21_power_cooling R493; 21_power_cooling R494;
21_power_cooling R495; 21_power_cooling R496; 21_power_cooling R498; 21_power_cooling R500.) -/
def Obligations.PowerControlCompletes : Prop :=
  (∀ (s : State) (mv : Nat),
      s.sb.good = true →
      Yields (.inputVoltageChange mv) s (fun t => t.rd keeperU Reg.PWR_VIN_MV = mv % 2 ^ 32 ∧ t.rd keeperU Reg.PWR_STAT_VLOW = b2n (decide (mv < 48000)) ∧
        t.rd keeperU Reg.PWR_STAT_VHIGH = b2n (decide (56000 < mv)) ∧ t.out = s.out ∧
        SameRegsBut [(keeperU, Reg.PWR_VIN_MV), (keeperU, Reg.PWR_STAT_VLOW), (keeperU, Reg.PWR_STAT_VHIGH)] s t ∧ SameBut [.regs] s t)) ∧
  (∀ (s : State) (v : Nat),
      450 < v →
      Yields (.inletOverTemp v) s (fun t => t.rd keeperU Reg.PWR_COOL_T_IN = v % 65536 ∧ (t.log.ring.head?.map LogEntry.code) = some eTHERMAL ∧ t.out = s.out ∧ SameBut [.regs, .log, .sb] s t)) ∧
  (∀ (s : State) (d temp : Nat),
      d < 24 →
      temp ≤ 95 →
      Yields (.dramTempChange d temp) s (fun t => t.rd (dramU d) Reg.DRAM_TEMP_VALUE = temp % 256 ∧ t.rd (dramU d) Reg.DRAM_STAT_HOT = b2n (decide (85 < temp)) ∧ t.out = s.out ∧
        SameRegsBut [(dramU d, Reg.DRAM_TEMP_VALUE), (dramU d, Reg.DRAM_STAT_HOT)] s t ∧ SameBut [.regs] s t)) ∧
  (∀ (s : State) (d temp : Nat),
      d < 24 →
      95 < temp →
      s.rd (dramU d) Reg.DRAM_TEMP_VALUE ≤ 95 →
      Yields (.dramTempChange d temp) s (fun t => t.rd (dramU d) Reg.DRAM_TEMP_VALUE = temp % 256 ∧ t.rd (dramU d) Reg.DRAM_STAT_HOT = 1 ∧ (t.log.ring.head?.map LogEntry.code) = some eTHERMAL ∧ SameMemBut 0 0 s t)) ∧
  (∀ (s : State) (tj tjDie td tdDie : Nat),
      s.sb.good = true →
      s.rd keeperU Reg.PWR_STAT_TRIP = 0 →
      115 ≤ tj ∨ 105 ≤ (s.hottest td (tdDie % 24)).1 →
      Yields (.thermalTrip tj tjDie td tdDie) s (fun t => t.rd keeperU Reg.PWR_STAT_TRIP = 1 ∧ t.rd keeperU Reg.PWR_TEMP_TJ = tj % 256 ∧ t.rd keeperU Reg.PWR_TEMP_TD = (s.hottest td (tdDie % 24)).1 % 256 ∧
        tripFault ∈ t.sb.faults ∧ t.cores = [] ∧ t.ports = [] ∧
        OnlyIn (fun a => decide (taDie a = 39)) t)) ∧
  (∀ (s : State) (mv ma power tj tjDie td tdDie tIn tOut : Nat) (blocks : List Nat),
      s.sb.good = true →
      s.rd keeperU Reg.PWR_STAT_TRIP = 0 →
      tj ≤ 105 →
      (s.hottest td (tdDie % 24)).1 ≤ 95 →
      power ≤ Nat.min (s.rd keeperU Reg.PWR_CAP_W) (mv * 196 / 1000) →
      s.rd clkU Reg.CLK_STAT_STEP = 0 →
      Yields (.powerWindowEnd mv ma power tj tjDie td tdDie tIn tOut blocks) s (fun t => t.rd keeperU Reg.PWR_VIN_MV = mv % 2 ^ 32 ∧ t.rd keeperU Reg.PWR_IIN_MA = ma % 2 ^ 32 ∧
        t.rd keeperU Reg.PWR_PIN_W = power % 2 ^ 16 ∧ t.rd keeperU Reg.PWR_TEMP_TJ = tj % 2 ^ 8 ∧ t.rd keeperU Reg.PWR_COOL_T_OUT = tOut % 2 ^ 16 ∧
        t.rd clkU Reg.CLK_STAT_STEP = 0 ∧ t.pwr.mJ = s.pwr.mJ + power ∧ t.pwr.blocks = blocks.take 8 ∧ t.out = s.out ∧ SameBut [.regs, .pwr] s t)) ∧
  (∀ (s : State) (mv ma power tj tjDie td tdDie tIn tOut : Nat) (blocks : List Nat),
      s.sb.good = true →
      s.rd keeperU Reg.PWR_STAT_TRIP = 0 →
      tj ≤ 105 →
      (s.hottest td (tdDie % 24)).1 ≤ 95 →
      Nat.min (s.rd keeperU Reg.PWR_CAP_W) (mv * 196 / 1000) < power →
      s.rd clkU Reg.CLK_STAT_STEP < 3 →
      Yields (.powerWindowEnd mv ma power tj tjDie td tdDie tIn tOut blocks) s (fun t => t.rd keeperU Reg.PWR_VIN_MV = mv % 2 ^ 32 ∧ t.rd keeperU Reg.PWR_IIN_MA = ma % 2 ^ 32 ∧
        t.rd keeperU Reg.PWR_PIN_W = power % 2 ^ 16 ∧ t.rd keeperU Reg.PWR_TEMP_TJ = tj % 2 ^ 8 ∧ t.rd keeperU Reg.PWR_COOL_T_OUT = tOut % 2 ^ 16 ∧
        t.rd clkU Reg.CLK_STAT_STEP = s.rd clkU Reg.CLK_STAT_STEP + 1 ∧ t.rd clkU Reg.CLK_STAT_THROTTLED = 1 ∧ t.rd keeperU Reg.PWR_STAT_SRC = 2 ∧
        t.pwr.powerDowns = (s.pwr.powerDowns + 1) % 2 ^ 32 ∧ SameBut [.regs, .pwr] s t)) ∧
  (∀ (s : State),
      s.sb.good = true →
      s.rd keeperU Reg.PWR_STAT_TRIP = 0 →
      s.stage = 8 →
      s.rd keeperU Reg.PWR_STAT_PSTATE < s.permitted →
      s.pwr.waking = false →
      s.heldTx = [] →
      s.kpr.run = none →
      s.rd keeperU Reg.RCV_STAT_STATE ≠ 3 →
      Yields (.powerStateEntry) s (fun t => t.rd keeperU Reg.PWR_STAT_PSTATE = s.permitted ∧ (s.permitted = 1 → SameRegsBut [(keeperU, Reg.PWR_STAT_PSTATE)] s t) ∧
        (s.permitted < 3 → SameMemBut 0 0 s t) ∧ (2 ≤ s.permitted → ∀ d ∈ List.range 24, t.rd (dramU d) Reg.DRAM_STAT_SELF_REF = 1) ∧ t.out = s.out)) ∧
  (∀ (s : State),
      s.pwr.waking = true →
      0 < s.rd keeperU Reg.PWR_STAT_PSTATE →
      s.rd keeperU Reg.PWR_STAT_PSTATE < 3 →
      s.heldTx = [] →
      Yields (.wakeComplete) s (fun t => t.rd keeperU Reg.PWR_STAT_PSTATE = 0 ∧ t.pwr = { s.pwr with waking := false } ∧ (∀ d ∈ List.range 24, t.rd (dramU d) Reg.DRAM_STAT_SELF_REF = 0) ∧
        t.out = s.out ∧ SameBut [.regs, .pwr] s t))

/-- A command that stands well formed in the keeper's next channel, from a sender that may send it, and that the job and
start-up state admit is carried out and, where its sender is in another module, answered: QUERY_DEVICE with the
device's state; SET_WAKE_TOLERANCE sets the tolerance and answers the power state that it permits; READ_LOG of a ring
of one entry, with room for one, writes it to a buffer of another module; CLEAR_LOG empties what its bits name;
READ_TELEMETRY of 64 bytes writes the power record to a buffer of another module; INJECT_LINK_FAULT sets the port's
injection registers. (16_hormen_fabric R397; 18_faults_and_relief R424; 19_keeper_minil R457; 19_keeper_minil R462;
19_keeper_minil R463; 21_power_cooling R498; 21_power_cooling R501.) -/
def Obligations.KeeperAnswers : Prop :=
  (∀ (s : State) (c : Nat) (m : Minil),
      s.commanded c m = true →
      m.cmd = cmdQUERY →
      Yields (.queryDevice) s (fun t => (s.faraway m = true → t.out = cmdReply s m 0 (s.deviceReply) :: .commit m.sender c 0 :: s.out) ∧
        t.rd mbxU Reg.MNL_STAT_CMD = 1 ∧ t.kpr.run = none ∧ t.kpr.last = c ∧ t.job = s.job ∧ t.log = s.log)) ∧
  (∀ (s : State) (c : Nat) (m : Minil),
      s.commanded c m = true →
      m.cmd = cmdSETWAKE →
      Yields (.setWakeTolerance) s (fun t => (s.faraway m = true → t.out = cmdReply s m 0 (leBytes 4 t.permitted) :: .commit m.sender c 0 :: s.out) ∧
        t.rd keeperU Reg.PWR_TOL_US = leAt m.payload 0 4 ∧ t.kpr.run = none ∧ t.job = s.job ∧ t.log = s.log)) ∧
  (∀ (s : State) (c : Nat) (m : Minil) (e : LogEntry),
      s.commanded c m = true →
      m.cmd = cmdREADLOG →
      s.log.ring = [e] →
      leAt m.payload 0 1 = 0 →
      leAt m.payload 4 4 ≤ e.seq →
      64 ≤ leAt m.payload 0x10 4 →
      leAt m.payload 0x10 4 < 128 →
      s.elsewhere (leAt m.payload 8 8) = true →
      leAt m.payload 8 8 % 64 = 0 →
      Yields (.readLog) s (fun t => (s.faraway m = true → t.out = cmdReply s m 0 (leBytes 4 1 ++ leBytes 4 (e.seq + 1) ++ leBytes 4 (s.rd keeperU Reg.LOG_LOST_COUNT)) ::
          .write (s.unitAddr keeperU) (leAt m.payload 8 8) e.bytes :: .commit m.sender c 0 :: s.out) ∧ t.log = s.log ∧ t.job = s.job)) ∧
  (∀ (s : State) (c : Nat) (m : Minil),
      s.commanded c m = true →
      m.cmd = cmdCLEARLOG →
      Yields (.clearLog) s (fun t => (s.faraway m = true → t.out = cmdReply s m 0 ([]) :: .commit m.sender c 0 :: s.out) ∧
        t.log = { s.log with ring := (if bitAt (leAt m.payload 0 1) 0 then [] else s.log.ring),
                              sticky := (if bitAt (leAt m.payload 0 1) 1 then [] else s.log.sticky) } ∧
        t.rd keeperU Reg.LOG_STAT_ENTRIES = t.log.ring.length % 2 ^ 16 ∧ t.rd keeperU Reg.LOG_STAT_STICKY = t.log.sticky.length % 2 ^ 9 ∧ t.job = s.job)) ∧
  (∀ (s : State) (c : Nat) (m : Minil),
      s.commanded c m = true →
      m.cmd = cmdTELEMETRY →
      leAt m.payload 0 1 = 1 →
      leAt m.payload 0x18 4 = 64 →
      s.elsewhere (leAt m.payload 0x10 8) = true →
      leAt m.payload 0x10 8 % 64 = 0 →
      Yields (.readTelemetry) s (fun t => (s.faraway m = true → t.out = cmdReply s m 0 (leBytes 8 64 ++ leBytes 8 0) ::
          .write (s.unitAddr keeperU) (leAt m.payload 0x10 8) (s.powerRecord.take 64) :: .commit m.sender c 0 :: s.out) ∧ t.log = s.log ∧ t.job = s.job)) ∧
  (∀ (s : State) (c p v : Nat) (m : Minil),
      s.commanded c m = true →
      m.cmd = cmdINJECT →
      p = leAt m.payload 0 1 →
      p < 12 →
      v = leAt m.payload 4 4 →
      Yields (.injectLinkFault) s (fun t => (s.faraway m = true → t.out = cmdReply s m 0 ([]) :: .commit m.sender c 0 :: s.out) ∧
        t.rd (portU p) Reg.FAB_INJ_CFG_MODE = bitsOf v 1 0 ∧ t.rd (portU p) Reg.FAB_INJ_CFG_VCMASK = bitsOf v 6 2 ∧
        t.rd (portU p) Reg.FAB_INJ_CFG_LINKF = bitsOf v 7 7 ∧ t.rd (portU p) Reg.FAB_INJ_CFG_RATE = bitsOf v 12 8 ∧
        t.rd (portU p) Reg.FAB_INJ_SEED_VALUE = leAt m.payload 8 4 ∧ (t.port p).injN = 0))

/-- A CHECKPOINT_REQUEST, with no update engine loaded, to a region that holds the checkpoint awaits the next vote;
START_JOB runs the job; STOP_JOB stops it at the take, and with END its end leaves NO_JOB, clean and scrubbed;
LOAD_JOB takes the job module id at its take, and its end, like the end of its cabling wait, leaves LOADED where the
load of the image succeeds and NO_JOB and DIRTY where it fails; a RESTORE, at its end, of a checkpoint of no layers,
engines and streams that passes brings back step, buffer and seed. (12_update_and_fixer R305; 12_update_and_fixer
R308; 12_update_and_fixer R309; 19_keeper_minil R464; 19_keeper_minil R465; 19_keeper_minil R466; 19_keeper_minil
R467; 19_keeper_minil R468.) -/
def Obligations.KeeperJobCommandsComplete : Prop :=
  (∀ (s : State) (c size : Nat) (m : Minil),
      s.commanded c m = true →
      m.cmd = cmdCKPT →
      leAt m.payload 0 1 = 0 →
      s.rd keeperU Reg.PWR_STAT_PSTATE = 0 →
      s.ues = [] →
      size = 64 + 64 * s.job.nlayer + 528 →
      s.inBuffer (leAt m.payload 8 8) size = true →
      size ≤ leAt m.payload 0x10 8 →
      Yields (.checkpointRequest) s (fun t => (t.ck.req.map CkReq.dest) = some (leAt m.payload 8 8) ∧ t.rd keeperU Reg.FX_STAT_CKPEND = 1 ∧ t.job = s.job ∧ t.ck.drain = s.ck.drain ∧
        (s.faraway m = true → t.out = cmdReply s m 0 (leBytes 8 size) :: .commit m.sender c 0 :: s.out))) ∧
  (∀ (s : State) (c : Nat) (m : Minil),
      s.commanded c m = true →
      m.cmd = cmdSTART →
      s.rd keeperU Reg.PWR_STAT_PSTATE = 0 →
      Yields (.startJob) s (fun t => t.job = { s.job with st := .running } ∧ t.rd keeperU Reg.RCV_STAT_STATE = 1 ∧ t.rd keeperU Reg.RCV_STAT_FSET = 0 ∧ t.rd keeperU Reg.FX_STAT_CKPEND = 0 ∧
        t.fix.own = none ∧ t.fix.votes = [] ∧ t.log.faults = [] ∧ (s.faraway m = true → t.out.head? = some (cmdReply s m 0 [])))) ∧
  (∀ (s : State) (c : Nat) (m : Minil),
      s.commanded c m = true →
      m.cmd = cmdSTOP →
      Yields (.stopJob false) s (fun t => t.begun m = true ∧ (s.job.st ≠ .noJob → t.job.st = .stopped) ∧ t.fix.watch = false ∧ t.ck.drain = none ∧
        (bitAt (leAt m.payload 0 1) 0 = true → t.rd dkrU Reg.DKR_STAT_SCRUB_BUSY = 1 ∧ t.rd dkrU Reg.DKR_STAT_SCRUBBED = 0))) ∧
  (∀ (s : State) (m : Minil),
      s.kpr.run = some m →
      m.rch < 32 →
      m.cmd = cmdSTOP →
      s.rd keeperU Reg.PWR_STAT_PSTATE = 0 →
      bitAt (leAt m.payload 0 1) 0 = true →
      Yields (.stopJob true) s (fun t => t.ended = true ∧ t.job = {} ∧ t.cores = [] ∧ t.streams = [] ∧ OnlyIn scrubKeeps t ∧
        t.rd dkrU Reg.DKR_STAT_SCRUBBED = 1 ∧ t.rd dkrU Reg.DKR_STAT_SCRUB_BUSY = 0)) ∧
  (∀ (s : State) (c : Nat) (m : Minil) (image : List Byte),
      s.commanded c m = true →
      m.cmd = cmdLOAD →
      Yields (.loadJob false image) s (fun t => t.begun m = true ∧ t.out = .commit m.sender c 0 :: s.out ∧ t.job = { s.job with modId := leAt m.payload 0x18 2 % 2 ^ 15 })) ∧
  (∀ (s : State) (m : Minil) (image : List Byte),
      s.kpr.run = some m →
      m.rch < 32 →
      m.cmd = cmdLOAD →
      s.rd keeperU Reg.PWR_STAT_PSTATE = 0 →
      Yields (.loadJob true image) s (fun t => ((s.load m image false).2.2 = some none → t.ended = true ∧ t.job.st = .loaded ∧ t.job.dirty = false ∧ t.job.seed = leAt m.payload 0x10 8) ∧
        (((s.load m image false).2.2.bind id).isSome = true → t.ended = true ∧ t.job = { dirty := true }) ∧
        ((s.load m image false).2.2 = none → t.kpr.run = some m))) ∧
  (∀ (s : State) (m : Minil) (image ck : List Byte),
      s.kpr.run = some m →
      m.rch < 32 →
      m.cmd = cmdLOAD →
      s.rd keeperU Reg.PWR_STAT_PSTATE = 0 →
      s.rcv.step ≠ 5 →
      Yields (.loadCablingTimeout image ck) s (fun t => ((s.load m image true).2.2 = some none → t.ended = true ∧ t.job.st = .loaded ∧ t.job.dirty = false ∧ t.job.seed = leAt m.payload 0x10 8) ∧
        (((s.load m image true).2.2.bind id).isSome = true → t.ended = true ∧ t.job = { dirty := true }) ∧ t.kpr.run = none)) ∧
  (∀ (s : State) (c : Nat) (m : Minil) (ck : List Byte),
      s.commanded c m = true →
      m.cmd = cmdRESTORE →
      Yields (.restore false ck) s (fun t => t.begun m = true ∧ t.out = .commit m.sender c 0 :: s.out ∧ t.job = s.job)) ∧
  (∀ (s : State) (m : Minil) (ck : List Byte),
      s.kpr.run = some m →
      m.rch < 32 →
      m.cmd = cmdRESTORE →
      s.rd keeperU Reg.PWR_STAT_PSTATE = 0 →
      leAt m.payload 8 1 = 1 →
      ringOk (leAt m.payload 0x10 8) (leAt m.payload 0x18 8) (leAt m.payload 0x20 8) = true →
      s.elsewhere (leAt m.payload 0x20 8) = true →
      s.job.nlayer = 0 →
      s.ues = [] →
      s.streams = [] →
      ck.length = 592 →
      s.ckOk ck 592 (leAt m.payload 0 8) (leAt m.payload 0x0C 2) = true →
      Yields (.restore true ck) s (fun t => t.job = { s.job with st := .loaded, seed := leAt ck 0x18 8, restored := true } ∧ t.rd keeperU Reg.FX_STEP_LO_VALUE = leAt ck 8 8 ∧
        t.rd keeperU Reg.FX_STAT_ACTIVE = leAt ck 0x20 4 ∧ t.rd keeperU Reg.FX_UPD_LO_VALUE = leAt ck 0x10 8 ∧ t.ended = true ∧
        (s.faraway m = true → t.out = cmdReply s m 0 [] :: .write (s.unitAddr keeperU) (leAt m.payload 0x20 8 + 8) (leBytes 8 1) :: s.out)))

/-- FW_STAGE drops what was staged at its take and at its end stages an image of another module that passes; FW_COMMIT at
its end writes a staged image that passes, and is no recovery image, to the flash; ATTEST runs from its take and ends,
and with no sound identity is answered with VERIFY_FAIL; FABRIC_ROUTE_SET runs from its take, and at its end a sound
route set is installed with its groups, id and epoch, while an unsound one leaves routes and job; FABRIC_DISCOVER
makes this keeper the root, which offers on its one port; RESET_UNIT retrains a port at its take and leaves a core
idle at its end. (16_hormen_fabric R391; 19_keeper_minil R458; 19_keeper_minil R471; 19_keeper_minil R472;
19_keeper_minil R473; 20_darkroom_security R481; 20_darkroom_security R484.) -/
def Obligations.KeeperFirmwareCommandsComplete : Prop :=
  (∀ (s : State) (c : Nat) (m : Minil) (image : List Byte),
      s.commanded c m = true →
      m.cmd = cmdFWSTAGE →
      Yields (.fwStage false image) s (fun t => t.begun m = true ∧ t.out = .commit m.sender c 0 :: s.out ∧ t.dkr = { s.dkr with staged := none })) ∧
  (∀ (s : State) (m : Minil) (image bs : List Byte),
      s.kpr.run = some m →
      m.rch < 32 →
      m.cmd = cmdFWSTAGE →
      s.rd keeperU Reg.PWR_STAT_PSTATE = 0 →
      leAt m.payload 8 8 ≤ imageRegion →
      s.elsewhere (leAt m.payload 0 8) = true →
      bs = slice image 0 (leAt m.payload 8 8) →
      imagePasses s.dkr.fuse bs = true →
      Yields (.fwStage true image) s (fun t => t.dkr = { s.dkr with staged := some bs } ∧ t.ended = true ∧
        (s.faraway m = true → t.out = cmdReply s m 0 (leBytes 4 (fwVersion bs)) :: s.out))) ∧
  (∀ (s : State) (c bad : Nat) (m : Minil) (ue : Bool),
      s.commanded c m = true →
      m.cmd = cmdFWCOMMIT →
      Yields (.fwCommit false ue bad) s (fun t => t.begun m = true ∧ t.out = .commit m.sender c 0 :: s.out ∧ t.dkr = s.dkr)) ∧
  (∀ (s : State) (m : Minil) (bad : Nat) (bs : List Byte),
      s.kpr.run = some m →
      m.rch < 32 →
      m.cmd = cmdFWCOMMIT →
      s.rd keeperU Reg.PWR_STAT_PSTATE = 0 →
      s.dkr.staged = some bs →
      bad < 2 →
      bitAt (leAt m.payload 0 1) 0 = false →
      s.inRecovery = false →
      fwType (slice bs 0 512) ≠ 1 →
      imagePasses s.dkr.fuse bs = true →
      Yields (.fwCommit true false bad) s (fun t => t.dkr = { s.dkr with flash := bs } ∧ t.ended = true ∧
        (s.faraway m = true → t.out = cmdReply s m 0 ([]) :: s.out))) ∧
  (∀ (s : State) (c : Nat) (m : Minil),
      s.commanded c m = true →
      m.cmd = cmdATTEST →
      Yields (.attest false) s (fun t => t.begun m = true ∧ t.out = .commit m.sender c 0 :: s.out ∧ t.dkr = s.dkr)) ∧
  (∀ (s : State) (m : Minil),
      s.kpr.run = some m →
      m.rch < 32 →
      m.cmd = cmdATTEST →
      s.rd keeperU Reg.PWR_STAT_PSTATE = 0 →
      s.elsewhere (leAt m.payload 0x20 8) = true →
      Yields (.attest true) s (fun t => t.ended = true ∧ t.dkr = s.dkr ∧ t.job = s.job ∧ (s.identityOk = false → s.faraway m = true → t.out = cmdReply s m stVERIFY_FAIL [] :: s.out))) ∧
  (∀ (s : State) (c p : Nat) (m : Minil),
      s.commanded c m = true →
      m.cmd = cmdDISCOVER →
      s.upPorts = [p] →
      Yields (.fabricDiscover) s (fun t => t.begun m = true ∧ t.disc.num = s.disc.num + 1 ∧ t.disc.root = true ∧ t.disc.offered = true ∧ t.disc.reported = false ∧
        t.out = .disc p 0 (s.disc.num + 1) 0 s.serial [] :: .commit m.sender c 0 :: s.out)) ∧
  (∀ (s : State) (c : Nat) (m : Minil) (set : List Byte),
      s.commanded c m = true →
      m.cmd = cmdROUTESET →
      Yields (.fabricRouteSet false set) s (fun t => t.begun m = true ∧ t.out = .commit m.sender c 0 :: s.out ∧ t.job = s.job ∧ t.routes = s.routes)) ∧
  (∀ (s : State) (m : Minil) (set bs : List Byte),
      s.kpr.run = some m →
      m.rch < 32 →
      m.cmd = cmdROUTESET →
      s.rd keeperU Reg.PWR_STAT_PSTATE = 0 →
      0x8040 ≤ leAt m.payload 8 8 →
      leAt m.payload 8 8 ≤ 0x8040 + 8 * 16384 + 4 * 262144 →
      s.elsewhere (leAt m.payload 0 8) = true →
      bs = slice set 0 (leAt m.payload 8 8) →
      Yields (.fabricRouteSet true set) s (fun t => t.ended = true ∧ (s.routesOk bs (leAt m.payload 8 8) = true → t.routes.isSome = true ∧ t.groups = routeGroups bs ∧
          t.job = { s.job with modId := leAt bs 0 4 % 2 ^ 15 } ∧ t.rd keeperU Reg.PLC_EPOCH_VALUE = leAt bs 4 4) ∧
        (s.routesOk bs (leAt m.payload 8 8) = false → t.routes = s.routes ∧ t.job = s.job))) ∧
  (∀ (s : State) (c p : Nat) (m : Minil),
      s.commanded c m = true →
      m.cmd = cmdRESETUNIT →
      p < 12 →
      leAt m.payload 0 4 % 65536 = portU p →
      Yields (.resetUnit false) s (fun t => t.begun m = true ∧ t.out = .commit m.sender c 0 :: s.out ∧ t.rd (portU p) Reg.FAB_STAT_UP = 0 ∧ (t.port p).training = true ∧
        t.rd (portU p) Reg.FAB_RETRAIN_COUNT = Nat.min (s.rd (portU p) Reg.FAB_RETRAIN_COUNT + 1) (2 ^ 16 - 1))) ∧
  (∀ (s : State) (die core : Nat) (m : Minil),
      s.kpr.run = some m →
      m.rch < 32 →
      m.cmd = cmdRESETUNIT →
      s.rd keeperU Reg.PWR_STAT_PSTATE = 0 →
      die < 24 →
      core < 16 →
      leAt m.payload 0 4 % 65536 = seqU die core →
      Yields (.resetUnit true) s (fun t => t.ended = true ∧ (s.faraway m = true → t.out = cmdReply s m 0 ([]) :: s.out) ∧
        t.rd (seqU die core) Reg.SEQ_STAT_RUN = 0 ∧ t.rd (seqU die core) Reg.SEQ_STAT_HALTED = 0 ∧ t.rd (seqU die core) Reg.SEQ_HALT_CAUSE = 0 ∧ t.rd (seqU die core) Reg.SEQ_PC_PC = 0 ∧
        (t.core die core).tags = [] ∧ (t.core die core).xfers = [] ∧ (t.core die core).loops = []))

/-- The one message out to another module is forgotten once it is taken, and sent again where it is answered with BUSY and
tries are left; a reply without error to a command that this keeper sent, outside a recovery and to no QUERY_DEVICE or
RESET_UNIT, is taken with its channel released; a host ring's writer with one page writes it and then PROD; the step
watchdog's expiry stops the running job and enters this module in its fault set, unless the decision came in the same
cycle, which is counted. (18_faults_and_relief R429; 18_faults_and_relief R430; 19_keeper_minil R456; 19_keeper_minil
R457; 19_keeper_minil R469.) -/
def Obligations.KeeperMessagesComplete : Prop :=
  (∀ (s : State) (m : OutMsg),
      s.kpr.msgs = [m] →
      s.isHere m.dst m.prov = false →
      Yields (.replyResend 0 0) s (fun t => t.kpr = { s.kpr with msgs := [] } ∧ t.out = s.out ∧ SameBut [.kpr] s t)) ∧
  (∀ (s : State) (m : OutMsg),
      s.kpr.msgs = [m] →
      s.isHere m.dst m.prov = false →
      m.tries < 9999 →
      Yields (.replyResend 0 eBUSY) s (fun t => t.kpr = { s.kpr with msgs := [{ m with tries := m.tries + 1 }] } ∧
        t.out = .minil m.dst m.prov m.chan m.data :: s.out ∧ SameBut [.kpr] s t)) ∧
  (∀ (s : State) (c : Nat) (m : Minil) (a : Ask) (l : List Ask) (image ck : List Byte),
      s.firmwareRuns = true →
      s.nextChan = some c →
      s.msgIn c = m →
      m.reply = true →
      m.status = 0 →
      m.sender % 65536 = keeperU →
      s.kpr.asks = a :: l →
      a.seq = m.seq →
      a.cmd = m.cmd →
      a.prov = true ∨ m.sender / 65536 = a.dst →
      a.cmd ≠ cmdQUERY →
      a.cmd ≠ cmdRESETUNIT →
      s.rcv.step = 0 →
      s.rd mbxU (Reg.MBX_SRC_UNIT c) = m.sender →
      Yields (.minilReplyReceive image ck) s (fun t => t.kpr = { s.kpr with last := c, asks := l.filter (fun x => x.seq != a.seq) } ∧ t.mbxState c = mEMPTY ∧
        t.out = .commit m.sender c 0 :: s.out ∧ SameBut [.kpr, .regs, .mem, .ecc] s t)) ∧
  (∀ (s : State) (cons : Nat) (d : CkDrain),
      s.ck.drain = some d →
      d.req.kind = 1 →
      d.fault = 0 →
      d.pages = 0 →
      0 < d.data.length →
      d.data.length ≤ 64 →
      1 ≤ d.req.size →
      d.req.dest % 4096 = 0 →
      d.req.ctrl % 16 = 0 →
      s.elsewhere d.req.dest = true →
      s.elsewhere d.req.ctrl = true →
      Yields (.hostRingConsPoll cons) s (fun t => t.ck = { s.ck with drain := some { d with pages := 1 } } ∧
        t.out = .write (s.unitAddr keeperU) d.req.ctrl (leBytes 8 1) :: .write (s.unitAddr keeperU) d.req.dest d.data :: s.out ∧ SameBut [.ck] s t)) ∧
  (∀ (s : State),
      s.fix.watch = true →
      s.running = true →
      Yields (.stepWatchdogExpiry false) s (fun t => t.job = { s.job with st := .stopped } ∧ t.rd keeperU Reg.RCV_STAT_STATE = 2 ∧ t.fix.watch = false ∧
        t.log.faults = addFault s.log.faults s.job.modId 0)) ∧
  (∀ (s : State),
      s.fix.watch = true →
      Yields (.stepWatchdogExpiry true) s (fun t => t.rd keeperU Reg.RCV_NEARMISS_COUNT = Nat.min (s.rd keeperU Reg.RCV_NEARMISS_COUNT + 1) (2 ^ 32 - 1) ∧ t.out = s.out ∧
        SameRegsBut [(keeperU, Reg.RCV_NEARMISS_COUNT)] s t ∧ SameBut [.regs] s t))

/-- A new fog signal of the running job's epoch stops the job and enters its suspect in the fault set, and one of another
epoch is only remembered; RELIEF_TAKEOVER of a job of more than one module with no halt recorded surveys the other
modules; while others are awaited, a survey reply is kept, and a module that does not answer joins the fault set; a
relief that does not answer QUERY_DEVICE, with other questions left, is marked failed; a relief that is cabled is
recorded while others are awaited, and one that is not cabled in time ends the attempt. (18_faults_and_relief R429;
18_faults_and_relief R432; 18_faults_and_relief R433; 18_faults_and_relief R437; 18_faults_and_relief R438.) -/
def Obligations.RecoveryCompletes : Prop :=
  (∀ (s : State) (port : Nat) (data : List Byte) (f : Fog),
      f = Fog.ofBytes data →
      s.firmwareRuns = true →
      (f.origin, f.fseq) ∉ s.log.seen →
      s.running = true →
      f.epoch = s.rd keeperU Reg.PLC_EPOCH_VALUE →
      s.rd keeperU Reg.RCV_STAT_STATE = 1 →
      Yields (.fogReceive port data) s (fun t => t.job = { s.job with st := .stopped } ∧ t.rd keeperU Reg.RCV_STAT_STATE = 2 ∧ t.rd keeperU Reg.RCV_FOG1_ORIGIN = f.origin ∧ t.rd keeperU Reg.RCV_FOG1_CODE = f.code ∧
        t.log.faults = addFault s.log.faults f.suspect f.kind ∧ (f.origin, f.fseq) ∈ t.log.seen ∧
        t.rd keeperU Reg.RCV_FOGS_COUNT = Nat.min (s.rd keeperU Reg.RCV_FOGS_COUNT + 1) (2 ^ 32 - 1))) ∧
  (∀ (s : State) (port : Nat) (data : List Byte) (f : Fog),
      f = Fog.ofBytes data →
      s.firmwareRuns = true →
      (f.origin, f.fseq) ∉ s.log.seen →
      s.job.st ≠ .noJob →
      f.epoch ≠ s.rd keeperU Reg.PLC_EPOCH_VALUE →
      Yields (.fogReceive port data) s (fun t => t.log = { s.log with seen := (f.origin, f.fseq) :: s.log.seen } ∧ t.out = s.out ∧ SameBut [.log] s t)) ∧
  (∀ (s : State) (c : Nat) (m : Minil) (image ck : List Byte),
      s.commanded c m = true →
      m.cmd = cmdRELIEF →
      s.rcv.halts = [] →
      1 < s.job.nmod →
      Yields (.reliefTakeover image ck) s (fun t => t.rcv.step = 1 ∧ t.rcv.waiting = s.others ∧ t.rcv.t = 2 ^ 64 - 1 ∧ t.kpr.run = some m ∧ t.kpr.asks = [] ∧
        t.rd keeperU Reg.RCV_STAT_STATE = 3 ∧ t.rd keeperU Reg.RCV_STAT_COORD = 1 ∧ t.rd keeperU Reg.RCV_STAT_ATTEMPT = Nat.min 255 (s.rd keeperU Reg.RCV_STAT_ATTEMPT + 1) ∧
        t.out = (s.others.map Out.survey).reverse ++ .commit m.sender c 0 :: s.out)) ∧
  (∀ (s : State) (n k ckjob : Nat),
      s.rcv.step = 1 →
      n ∈ s.rcv.waiting →
      k ∈ s.rcv.waiting →
      k ≠ n →
      ckjob < 2 ^ 64 - 1 →
      Yields (.surveyReplyReceive n ckjob []) s (fun t => t.rcv = { s.rcv with waiting := s.rcv.waiting.filter (fun i => i != n), steps := s.rcv.steps ++ [ckjob] } ∧
        t.log = s.log ∧ t.out = s.out ∧ SameRegsBut [(keeperU, Reg.RCV_STAT_FSET)] s t ∧ SameBut [.rcv, .regs] s t)) ∧
  (∀ (s : State) (n k : Nat),
      s.rcv.step = 1 →
      n ∈ s.rcv.waiting →
      k ∈ s.rcv.waiting →
      k ≠ n →
      Yields (.surveyReplyTimeout n false) s (fun t => t.rcv.waiting = s.rcv.waiting.filter (fun i => i != n) ∧ t.log.faults = addFault s.log.faults n 2 ∧ t.out = s.out ∧
        SameRegsBut [(keeperU, Reg.RCV_STAT_FSET)] s t ∧ SameBut [.rcv, .regs, .log] s t)) ∧
  (∀ (s : State) (n : Nat) (a b : Ask),
      s.kpr.asks = [a, b] →
      a = ⟨a.seq, n, true, cmdQUERY, a.member⟩ →
      b.cmd ≠ cmdQUERY →
      Yields (.surveyReplyTimeout n true) s (fun t => t.kpr = { s.kpr with asks := [b] } ∧ t.rcv = { s.rcv with failed := s.rcv.failed ++ [n] } ∧ t.out = s.out ∧ SameBut [.kpr, .rcv] s t)) ∧
  (∀ (s : State) (n : Nat),
      s.rcv.step = 3 →
      (s.reliefOf n).isSome = true →
      n ∉ s.rcv.cabled →
      s.quiet = false →
      Yields (.reliefCabled n) s (fun t => t.rcv = { s.rcv with cabled := s.rcv.cabled ++ [n] } ∧ t.out = s.out ∧ SameBut [.rcv] s t)) ∧
  (∀ (s : State) (n : Nat),
      s.rcv.step = 3 →
      s.quiet = true →
      s.uncabled = some n →
      (s.reliefOf n).isSome = true →
      s.rcv.again = false →
      s.kpr.run = none →
      Yields (.cableWaitExpiry false) s (fun t => t.rcv = { s.rcv with step := 0, waiting := [], again := false } ∧ t.rd keeperU Reg.RCV_STAT_RESULT = 4 ∧ t.rd keeperU Reg.RCV_STAT_COORD = 0 ∧
        t.rd keeperU Reg.RCV_STAT_STATE = (if s.job.st = .noJob then 0 else 4) ∧ t.out = s.out ∧ SameBut [.rcv, .kpr, .regs] s t))

/-- A write to DB_CLR clears exactly the bits of 1s that the writer may change: the keeper every bit, the host those of
its channels, an application core those that it selects, any other sender none; a write to DB_MASK changes those bits
alone; a write to DB_SET by any sender, where no application core waits, sets its bits. (19_keeper_minil R452.) -/
def Obligations.DoorbellWriters : Prop :=
  (∀ (s : State) (src bits b : Nat),
      b < 32 →
      Yields (.dbClr src bits) s (fun t => bitAt (t.rd mbxU Reg.DB_STAT_BITS) b = (bitAt (s.rd mbxU Reg.DB_STAT_BITS) b && !(bitAt bits b && s.mayBell src b)) ∧
        t.rd mbxU Reg.DB_MASK_MASK = s.rd mbxU Reg.DB_MASK_MASK)) ∧
  (∀ (s : State) (src bits b : Nat),
      b < 32 →
      Yields (.dbMaskWrite src bits) s (fun t => bitAt (t.rd mbxU Reg.DB_MASK_MASK) b = (if s.mayBell src b then bitAt bits b else bitAt (s.rd mbxU Reg.DB_MASK_MASK) b))) ∧
  (∀ (s : State) (bits b : Nat),
      b < 32 →
      (∀ e ∈ s.apps, e.2.wait = none) →
      Yields (.dbSet bits) s (fun t => bitAt (t.rd mbxU Reg.DB_STAT_BITS) b = (bitAt (s.rd mbxU Reg.DB_STAT_BITS) b || bitAt bits b)))

/-- A packet's write or read, a register write, a read of an RC field and a capturing read sent to a unit of die 40 or
above, of which the six bits of a unit address can name 40 to 63, are answered with XLATE_FAULT and logged, and change
no byte of memory. (00_scope R9.) -/
def Obligations.UnknownDiesAnswerXlate : Prop :=
  (∀ (s : State) (src u off : Nat) (data : List Byte),
      40 ≤ dieOf u →
      Yields (.registerWrite src u off ⟨data, []⟩) s (fun t => t.out = .answer eXLATE 0 [] :: s.out ∧ (t.log.ring.head?.map LogEntry.code) = some eXLATE ∧ SameMemBut 0 0 s t)) ∧
  (∀ (s : State) (src u off : Nat),
      40 ≤ dieOf u →
      Yields (.rcFieldRead src u off []) s (fun t => t.out = .answer eXLATE 0 [] :: s.out ∧ (t.log.ring.head?.map LogEntry.code) = some eXLATE ∧ SameMemBut 0 0 s t)) ∧
  (∀ (s : State) (src u off : Nat) (wide : Bool),
      40 ≤ dieOf u →
      Yields (.loCaptureRead src u off wide) s (fun t => t.out = .answer eXLATE 0 [] :: s.out ∧ (t.log.ring.head?.map LogEntry.code) = some eXLATE ∧ SameMemBut 0 0 s t)) ∧
  (∀ (s : State) (src taddr len : Nat) (write : Bool) (data : List Byte),
      taModule taddr = s.job.modId →
      40 ≤ taDie taddr →
      Yields (.packetArrive src taddr write data len ⟨0, 0⟩) s (fun t => t.out = .answer eXLATE 0 [] :: s.out ∧ (t.log.ring.head?.map LogEntry.code) = some eXLATE ∧ SameMemBut 0 0 s t))

/-- The port closes at Test-Logic-Reset, at a keeper reset, a warm reset, a cold reset, a fall of power good and a loss of
lock; while it is open, LOAD_JOB is answered with BAD_STATE, and one admitted found it closed; where a LOAD_JOB
reaches its admission checks in the cycle of a DKR_UNLOCK the unlock fails and is counted. (20_darkroom_security
R489.) -/
def Obligations.JtagPortCloses : Prop :=
  (∀ (s : State),
      Yields (.tapReset) s (fun t => t.rd dkrU Reg.DKR_STAT_JTAG_OPEN = 0)) ∧
  (∀ (s : State) (src key : Nat),
      s.isHost src = true →
      key % 65536 = 0x4B52 →
      Yields (.mbxKrst src key) s (fun t => t.rd dkrU Reg.DKR_STAT_JTAG_OPEN = 0)) ∧
  (∀ (s : State) (st n : Nat) (near : Bool),
      s.sb.low = some st →
      s.sb.good = true →
      usTicks ≤ n →
      Yields (.modRstNRelease n near) s (fun t => t.rd dkrU Reg.DKR_STAT_JTAG_OPEN = 0)) ∧
  (∀ (s : State) (ok : Bool),
      s.sb.good = true →
      Yields (.powerGoodFall ok) s (fun t => t.rd dkrU Reg.DKR_STAT_JTAG_OPEN = 0)) ∧
  (∀ (s : State),
      s.sb.good = true →
      s.rd clkU Reg.CLK_STAT_ROOT_LOCK = 1 →
      Yields (.pllLossOfLock) s (fun t => t.rd dkrU Reg.DKR_STAT_JTAG_OPEN = 0)) ∧
  (∀ (s : State) (c : Nat) (m : Minil) (image : List Byte),
      s.standing c m = true →
      m.cmd = cmdLOAD →
      s.rd dkrU Reg.DKR_STAT_JTAG_OPEN = 1 →
      Yields (.loadJob false image) s (fun t => t.job = s.job ∧ t.kpr.run = none ∧ (s.faraway m = true → t.out = cmdReply s m stBAD_STATE [] :: .commit m.sender c 0 :: s.out))) ∧
  (∀ (s : State) (c : Nat) (m : Minil) (image : List Byte),
      s.commanded c m = true →
      m.cmd = cmdLOAD →
      Yields (.loadJob false image) s (fun t => s.rd dkrU Reg.DKR_STAT_JTAG_OPEN = 0 ∧ t.begun m = true)) ∧
  (∀ (s : State) (tok : List Byte),
      s.sb.good = true →
      Yields (.dkrUnlock tok true) s (fun t => t.rd dkrU Reg.DKR_STAT_JTAG_OPEN = s.rd dkrU Reg.DKR_STAT_JTAG_OPEN ∧
        t.rd dkrU Reg.DKR_UNLOCKFAIL_COUNT = Nat.min (s.rd dkrU Reg.DKR_UNLOCKFAIL_COUNT + 1) (2 ^ 32 - 1)))

/-- An event with the CODE and UNIT of the newest entry, within 1 ms of its TIME, raises that entry's REPEAT, which stops
at 255; any other event writes an entry of its own, and so does every occurrence of another class.
(18_faults_and_relief R426.) -/
def Obligations.EventsMerge : Prop :=
  (∀ (s : State) (code u d0 d1 d2 d3 : Nat) (e : LogEntry) (r : List LogEntry),
      s.log.ring = e :: r → e.code = code → e.unit = s.unitAddr u → s.jobTime ≤ e.time + 118750 →
      (s.logEvent code u d0 d1 d2 d3).log = { s.log with ring := { e with reps := Nat.min (e.reps + 1) 255 } :: r }) ∧
  (∀ (s : State) (code u d0 d1 d2 d3 : Nat),
      (∀ e, s.log.ring.head? = some e → e.code ≠ code ∨ e.unit ≠ s.unitAddr u ∨ e.time + 118750 < s.jobTime) →
      (s.logEvent code u d0 d1 d2 d3).log.ring =
        (s.newEntry code 0 false (s.unitAddr u) d0 d1 d2 d3 :: s.log.ring).take 16384) ∧
  (∀ (s : State) (code cls u d0 d1 d2 d3 : Nat), 0 < cls →
      (s.logAs code cls u d0 d1 d2 d3).log.ring =
        (s.newEntry code cls false (s.unitAddr u) d0 d1 d2 d3 :: s.log.ring).take 16384)

/-- Whatever the group table, the leaf set of an address names no unit twice, and every member of it is an address of no
group; the leaf set of a unit is that unit. (01_module_dies_clocks R21.) -/
def Obligations.LeafSetsHaveNoRepeats : Prop :=
  ∀ (s : State) (a : Nat),
      (s.leaves a).Nodup ∧ (∀ u ∈ s.leaves a, u < 2 ^ 31) ∧ (a < 2 ^ 31 → s.leaves a = [a])

/-- A Minil message, a beacon, a fog signal and a flag word whose fields fit their widths are read from their bytes as
they were written. (13_gradient_reduction R322; 16_hormen_fabric R385; 18_faults_and_relief R431; 19_keeper_minil
R453.) -/
def Obligations.MessagesReadBack : Prop :=
  (∀ m : Minil, m.cmd < 2 ^ 16 → m.seq < 2 ^ 16 → m.status < 2 ^ 16 → m.sender < 2 ^ 32 → m.rch < 32 →
      m.payload.length < 2 ^ 16 → Minil.ofBytes m.bytes = m) ∧
  (∀ b : Beacon, b.modId < 2 ^ 15 → b.prov < 2 ^ 15 → b.epoch < 2 ^ 32 → b.tSend < 2 ^ 64 → b.tLastRx < 2 ^ 64 →
      b.tLastTx < 2 ^ 64 → b.tsoff < 2 ^ 64 → Beacon.ofBytes b.bytes = b) ∧
  (∀ f : Fog, f.origin < 2 ^ 16 → f.suspect < 2 ^ 16 → f.code < 2 ^ 16 → f.kind < 4 → f.port < 16 → f.hops < 256 →
      f.epoch < 2 ^ 32 → f.fseq < 2 ^ 32 → f.step < 2 ^ 64 → f.time < 2 ^ 64 → Fog.ofBytes f.bytes = f) ∧
  (∀ w : FlagWord, w.flags < 4 → w.layer < 2 ^ 16 → w.ramax < 2 ^ 32 → w.step < 2 ^ 32 → w.hops < 2 ^ 16 →
      FlagWord.ofBytes w.bytes = w)

/-- Where commands wait, a step is the meaning of the first of them on the state with the rest of the queue.
(01_module_dies_clocks R34.) -/
def Obligations.StepRunsFrontCommand : Prop :=
  ∀ (c : Instr) (l : List Instr) (s : State), s.pending = c :: l → step s = exec c { s with pending := l }

/-- Where no command waits, a step counts the timestamp while the root clock is locked and changes nothing else; that the
idle step is such an edge is the choice of log entry 2. (01_module_dies_clocks R28.) -/
def Obligations.IdleStepCountsTime : Prop :=
  ∀ s : State, s.pending = [] → ∃ t, step s = .next t ∧ t.out = s.out ∧ SameBut [.regs] s t ∧
      SameRegsBut [(clkU, Reg.TS_LO_VALUE)] s t ∧
      t.ts = (if s.rd clkU Reg.CLK_STAT_ROOT_LOCK = 1 then (s.ts + 1) % 2 ^ 64 else s.ts)

/-- At reset memory is in its canonical form, no command waits, the module has no power, no job and no routes, and the
register fields hold the reset values of their tables, of which these are the ones that are not zero in the families
named. (16_hormen_fabric R386; 18_faults_and_relief R441; 19_keeper_minil R461; 21_power_cooling R502.) -/
def Obligations.ResetState : Prop :=
  State.reset.Sound ∧ State.reset.pending = [] ∧ State.reset.sb.good = false ∧ State.reset.job.st = .noJob ∧
  State.reset.routes = none ∧ (∀ u f, State.reset.rd u f = f.reset) ∧ (∀ a, Memory.get State.reset.mem a = 0) ∧
  State.reset.rd keeperU Reg.PWR_CAP_W = 9600 ∧ State.reset.rd (portU 3) Reg.FAB_BCN_PERIOD = 10 ∧
  State.reset.rd (portU 3) Reg.FAB_BCN_LIMIT = 10 ∧ State.reset.rd (portU 3) Reg.FAB_NBR_INFO_MODULE = 0x7FFF ∧
  State.reset.rd keeperU Reg.RCV_CFG_REPLY_MS = 20 ∧ State.reset.rd keeperU Reg.RCV_CFG_CABLE_S = 60

/-- From every state whose memory is in canonical form, a step that answers a next state leaves memory in canonical form.
(08_bonded_dram R190.) -/
def Obligations.StepKeepsMemoryForm : Prop :=
  ∀ s t : State, s.Sound → step s = .next t → t.Sound

/-- Every command answers a next state in every state, but BUNDLE_ISSUE, which on a bundle with a reserved code is
refused; no command faults. (09_core_sequencer R225.) -/
def Obligations.OnlyBundlesRefuse : Prop :=
  ∀ (c : Instr) (s : State), (∃ t, exec c s = .next t) ∨
      ((∃ die core frozen upsets, c = .bundleIssue die core frozen upsets) ∧ exec c s = .refused .reservedBundle)

/-- No command but POWER_GOOD_RISE and POWER_GOOD_FALL changes whether the module is a bridge module, and POWER_GOOD_RISE
changes it only where power good did not hold. (16_hormen_fabric R398; 22_connectors_startup R506.) -/
def Obligations.BridgeRoleIsSampled : Prop :=
  ∀ (c : Instr) (s t : State), exec c s = .next t → (∀ mv slot b, c = .powerGoodRise mv slot b → s.sb.good = true) →
      (∀ ok, c ≠ .powerGoodFall ok) → t.bridge = s.bridge

/-- Whatever next state each of these commands answers, the parts of the state that its frame does not name are unchanged:
powerGoodRise, powerGoodFall, inputVoltageChange, modRstNAssert, modRstNRelease, pllLossOfLock, pllLock,
startUpStageDone, perstNRelease, pcieLinkTraining, functionLevelReset, pcieLinkLoss, thermalTrip, powerWindowEnd,
inletOverTemp, dramTempChange, powerStateEntry, wakeComplete. (22_connectors_startup R514; 21_power_cooling R498;
01_module_dies_clocks R29.) -/
def Obligations.PowerFrames : Prop :=
  (∀ (mv : Nat) (slot : Nat) (bridgeSelLow : Bool),
    Leaves (.powerGoodRise mv slot bridgeSelLow)
      [.pending]) ∧
  (∀ (pwrOk : Bool),
    Leaves (.powerGoodFall pwrOk)
      [.pending]) ∧
  (∀ (mv : Nat),
    Keeps (.inputVoltageChange mv)
      [.regs]) ∧
  (Keeps (.modRstNAssert) [.regs, .sb]) ∧
  (∀ (tclk : Nat) (near : Bool),
    Leaves (.modRstNRelease tclk near)
      [.pending]) ∧
  (Leaves (.pllLossOfLock)
      [.pending]) ∧
  (Keeps (.pllLock) [.regs, .sb]) ∧
  (∀ (bad : Bool) (ports : List (Nat × Nat)) (eths : List Nat),
    Keeps (.startUpStageDone bad ports eths)
      [.regs, .ports, .dkr, .sb, .fwVer, .log]) ∧
  (Keeps (.perstNRelease) [.pcie]) ∧
  (Keeps (.pcieLinkTraining) [.pcie]) ∧
  (∀ (inFlight : List (Nat × Nat)),
    Keeps (.functionLevelReset inFlight)
      [.regs, .mem, .ecc, .cores, .apps, .sb, .pcie, .log]) ∧
  (∀ (inFlight : List (Nat × Nat)),
    Leaves (.pcieLinkLoss inFlight)
      [.net, .gmes, .arbs, .tus, .ports, .routes, .disc, .awaiting, .patrol, .heldTx, .groups, .eths, .arrivals,
       .auLog, .bridge, .dkr, .tap, .pwr, .provId, .fwVer, .sheets, .scrubQ, .gshift, .pending]) ∧
  (∀ (tj : Nat) (tjDie : Nat) (td : Nat) (tdDie : Nat),
    Leaves (.thermalTrip tj tjDie td tdDie)
      [.routes, .disc, .awaiting, .groups, .bridge, .dkr, .tap, .pwr, .pcie, .provId, .fwVer, .pending]) ∧
  (∀ (mv : Nat) (ma : Nat) (power : Nat) (tj : Nat) (tjDie : Nat) (td : Nat) (tdDie : Nat) (tIn : Nat) (tOut : Nat) (blocks : List Nat),
    Leaves (.powerWindowEnd mv ma power tj tjDie td tdDie tIn tOut blocks)
      [.routes, .disc, .awaiting, .groups, .bridge, .dkr, .tap, .pcie, .provId, .fwVer, .pending]) ∧
  (∀ (tIn : Nat),
    Keeps (.inletOverTemp tIn)
      [.regs, .sb, .log]) ∧
  (∀ (die : Nat) (temp : Nat),
    Keeps (.dramTempChange die temp)
      [.regs, .sb, .log]) ∧
  (Keeps (.powerStateEntry) [.regs, .mem, .ecc]) ∧
  (Leaves (.wakeComplete)
      [.net, .gmes, .tus, .routes, .awaiting, .patrol, .groups, .eths, .auLog, .bridge, .rcv, .pcie, .provId,
       .sheets, .gshift, .pending])

/-- Whatever next state each of these commands answers, the parts of the state that its frame does not name are unchanged:
status, resetCause, serial, power, cool, setCap, getCap, smbAlertResponse, smbClockLowTimeout, extest, idcode,
samplePreload, bypass, dkrChal, dkrUnlock, tapReset. (22_connectors_startup R511; 22_connectors_startup R518;
20_darkroom_security R488.) -/
def Obligations.SidebandFrames : Prop :=
  (∀ (pecOk : Bool),
    Keeps (.status pecOk)
      [.regs, .arbs]) ∧
  (∀ (pecOk : Bool),
    Keeps (.resetCause pecOk)
      [.regs]) ∧
  (∀ (pecOk : Bool),
    Keeps (.serial pecOk)
      [.regs]) ∧
  (∀ (pecOk : Bool),
    Keeps (.power pecOk)
      [.regs, .arbs]) ∧
  (∀ (pecOk : Bool),
    Keeps (.cool pecOk)
      [.regs, .arbs]) ∧
  (∀ (w : Nat) (pecOk : Bool),
    Keeps (.setCap w pecOk)
      [.regs]) ∧
  (∀ (pecOk : Bool),
    Keeps (.getCap pecOk)
      [.regs]) ∧
  (Keeps (.smbAlertResponse) [.sb]) ∧
  (Keeps (.smbClockLowTimeout) []) ∧
  (∀ (pins : List Bool) (tdi : List Bool),
    Keeps (.extest pins tdi)
      [.tap]) ∧
  (∀ (tdi : List Bool),
    Keeps (.idcode tdi)
      [.tap]) ∧
  (∀ (pins : List Bool) (tdi : List Bool),
    Keeps (.samplePreload pins tdi)
      [.tap]) ∧
  (∀ (tdi : List Bool),
    Keeps (.bypass tdi)
      [.tap]) ∧
  (∀ (tdi : List Bool),
    Keeps (.dkrChal tdi)
      [.dkr, .tap]) ∧
  (∀ (token : List Byte) (withLoad : Bool),
    Keeps (.dkrUnlock token withLoad)
      [.regs, .tap]) ∧
  (Keeps (.tapReset) [.regs, .tap])

/-- Whatever next state each of these commands answers, the parts of the state that its frame does not name are unchanged:
packetArrive, groupWriteComplete, registerWrite, rcFieldRead, loCaptureRead. (01_module_dies_clocks R34; 00_scope R12;
00_scope R14.) -/
def Obligations.AccessFrames : Prop :=
  (∀ (src : Nat) (taddr : Nat) (write : Bool) (data : List Byte) (len : Nat) (way : PacketWay),
    Keeps (.packetArrive src taddr write data len way)
      [.regs, .mem, .ecc, .cores, .arbs, .ports, .heldTx, .apps, .stqs, .red, .arrivals, .sb, .log, .fix, .scrubQ]) ∧
  (∀ (group : Nat) (results : List (Nat × Nat)),
    Keeps (.groupWriteComplete group results)
      []) ∧
  (∀ (src : Nat) (unit : Nat) (off : Nat) (w : RegWrite),
    Keeps (.registerWrite src unit off w)
      [.regs, .mem, .ecc, .cores, .arbs, .ports, .apps, .stqs, .red, .sb, .log, .fix, .scrubQ]) ∧
  (∀ (src : Nat) (unit : Nat) (off : Nat) (events : List (Nat × Nat)),
    Keeps (.rcFieldRead src unit off events)
      [.regs, .mem, .ecc, .arbs, .arrivals, .sb, .log, .scrubQ]) ∧
  (∀ (src : Nat) (unit : Nat) (off : Nat) (wide : Bool),
    Keeps (.loCaptureRead src unit off wide)
      [.regs, .mem, .ecc, .arbs, .arrivals, .sb, .log, .scrubQ])

/-- Whatever next state each of these commands answers, the parts of the state that its frame does not name are unchanged:
bundleIssue, cubeAccumulate, mvAccumulate, vuResultWrite, drainTileWrite, drainGroupWrite, tagReturn, waitLimitExpiry,
barrierArrival, seqEvt. (09_core_sequencer R211; 03_cube_array R74; 09_core_sequencer R228.) -/
def Obligations.CoreFrames : Prop :=
  (∀ (die : Nat) (core : Nat) (frozen : Nat) (upsets : List (Nat × Nat)),
    Leaves (.bundleIssue die core frozen upsets)
      [.arbs, .tus, .ports, .routes, .disc, .awaiting, .patrol, .heldTx, .groups, .eths, .arrivals, .auLog, .bridge,
       .dkr, .tap, .pwr, .pcie, .provId, .fwVer, .sheets, .gshift, .pending]) ∧
  (∀ (die : Nat) (core : Nat),
    Leaves (.cubeAccumulate die core)
      [.net, .gmes, .arbs, .tus, .ports, .routes, .disc, .awaiting, .patrol, .heldTx, .groups, .eths, .arrivals,
       .auLog, .bridge, .dkr, .tap, .pwr, .pcie, .provId, .fwVer, .sheets, .gshift, .pending]) ∧
  (∀ (die : Nat) (core : Nat),
    Leaves (.mvAccumulate die core)
      [.net, .gmes, .arbs, .tus, .ports, .routes, .disc, .awaiting, .patrol, .heldTx, .groups, .eths, .arrivals,
       .auLog, .bridge, .dkr, .tap, .pwr, .pcie, .provId, .fwVer, .sheets, .gshift, .pending]) ∧
  (∀ (die : Nat) (core : Nat),
    Leaves (.vuResultWrite die core)
      [.net, .gmes, .arbs, .tus, .ports, .routes, .disc, .awaiting, .patrol, .heldTx, .groups, .eths, .arrivals,
       .auLog, .bridge, .dkr, .tap, .pwr, .pcie, .provId, .fwVer, .sheets, .gshift, .pending]) ∧
  (∀ (die : Nat) (core : Nat),
    Leaves (.drainTileWrite die core)
      [.net, .gmes, .arbs, .tus, .ports, .routes, .disc, .awaiting, .patrol, .heldTx, .groups, .eths, .arrivals,
       .auLog, .bridge, .dkr, .tap, .pwr, .pcie, .provId, .fwVer, .sheets, .gshift, .pending]) ∧
  (∀ (die : Nat) (core : Nat),
    Leaves (.drainGroupWrite die core)
      [.net, .gmes, .arbs, .tus, .ports, .routes, .disc, .awaiting, .patrol, .heldTx, .groups, .eths, .arrivals,
       .auLog, .bridge, .dkr, .tap, .pwr, .pcie, .provId, .fwVer, .sheets, .gshift, .pending]) ∧
  (∀ (die : Nat) (core : Nat) (tag : Nat) (err : Nat) (period : Nat) (upsets : List (Nat × Nat)),
    Leaves (.tagReturn die core tag err period upsets)
      [.gmes, .routes, .disc, .awaiting, .patrol, .heldTx, .groups, .ues, .streams, .qps, .eths, .auLog, .bridge,
       .rcv, .dkr, .tap, .pcie, .provId, .fwVer, .job, .ck, .kpr, .sheets, .gshift, .pending]) ∧
  (∀ (die : Nat) (core : Nat),
    Leaves (.waitLimitExpiry die core)
      [.net, .gmes, .arbs, .tus, .ports, .routes, .disc, .awaiting, .patrol, .heldTx, .groups, .eths, .arrivals,
       .auLog, .bridge, .dkr, .tap, .pwr, .pcie, .provId, .fwVer, .sheets, .scrubQ, .gshift, .pending]) ∧
  (∀ (die : Nat) (core : Nat) (group : Nat) (src : Nat) (gen : Nat),
    Keeps (.barrierArrival die core group src gen)
      [.regs, .cores]) ∧
  (∀ (die : Nat) (core : Nat) (bits : Nat) (period : Nat),
    Keeps (.seqEvt die core bits period)
      [.regs])

/-- Whatever next state each of these commands answers, the parts of the state that its frame does not name are unchanged:
descriptorFetch, dmaTransferStart, dmaAccessFault, dmaTransferComplete, multicastCopyComplete, packTileWrite,
expandTile. (07_streams_layout R162; 07_streams_layout R177; 07_streams_layout R178.) -/
def Obligations.TransferFrames : Prop :=
  (∀ (die : Nat) (core : Nat) (ring : Nat) (upsets : List (Nat × Nat)),
    Leaves (.descriptorFetch die core ring upsets)
      [.gmes, .routes, .disc, .awaiting, .patrol, .heldTx, .groups, .eths, .auLog, .bridge, .dkr, .tap, .pcie,
       .provId, .fwVer, .sheets, .gshift, .pending]) ∧
  (∀ (die : Nat) (core : Nat),
    Keeps (.dmaTransferStart die core)
      [.regs, .cores]) ∧
  (∀ (die : Nat) (core : Nat) (tag : Nat) (first : Nat) (remote : Nat) (upsets : List (Nat × Nat)),
    Leaves (.dmaAccessFault die core tag first remote upsets)
      [.gmes, .routes, .disc, .awaiting, .patrol, .heldTx, .groups, .eths, .auLog, .bridge, .dkr, .tap, .pcie,
       .provId, .fwVer, .sheets, .gshift, .pending]) ∧
  (∀ (die : Nat) (core : Nat) (tag : Nat) (upsets : List (Nat × Nat)),
    Leaves (.dmaTransferComplete die core tag upsets)
      [.gmes, .routes, .disc, .awaiting, .patrol, .heldTx, .groups, .ues, .streams, .qps, .eths, .auLog, .bridge,
       .rcv, .dkr, .tap, .pcie, .provId, .fwVer, .job, .ck, .kpr, .sheets, .gshift, .pending]) ∧
  (∀ (die : Nat) (core : Nat) (tag : Nat) (leaf : Nat) (upsets : List (Nat × Nat)),
    Leaves (.multicastCopyComplete die core tag leaf upsets)
      [.gmes, .routes, .disc, .awaiting, .patrol, .heldTx, .groups, .eths, .auLog, .bridge, .dkr, .tap, .pcie,
       .provId, .fwVer, .sheets, .gshift, .pending]) ∧
  (∀ (die : Nat) (core : Nat) (tag : Nat) (upsets : List (Nat × Nat)),
    Leaves (.packTileWrite die core tag upsets)
      [.gmes, .routes, .disc, .awaiting, .patrol, .heldTx, .groups, .ues, .streams, .qps, .eths, .auLog, .bridge,
       .rcv, .dkr, .tap, .pcie, .provId, .fwVer, .job, .ck, .kpr, .sheets, .gshift, .pending]) ∧
  (∀ (die : Nat) (core : Nat) (tag : Nat) (upsets : List (Nat × Nat)),
    Leaves (.expandTile die core tag upsets)
      [.gmes, .routes, .disc, .awaiting, .patrol, .heldTx, .groups, .ues, .streams, .qps, .eths, .auLog, .bridge,
       .rcv, .dkr, .tap, .pcie, .provId, .fwVer, .job, .ck, .kpr, .sheets, .gshift, .pending])

/-- Whatever next state each of these commands answers, the parts of the state that its frame does not name are unchanged:
gather, scatter, scatterAdd, segmentReduce, sortByKey, bucket, packRows, unpack, maskCompact, gmeOpFault,
gmeOpComplete. (05_gather_merge R115; 05_gather_merge R123; 05_gather_merge R124.) -/
def Obligations.GatherMergeFrames : Prop :=
  (∀ (die : Nat) (engine : Nat) (upsets : List (Nat × Nat)),
    Leaves (.gather die engine upsets)
      [.routes, .disc, .awaiting, .patrol, .heldTx, .groups, .eths, .auLog, .bridge, .dkr, .tap, .pcie, .provId,
       .fwVer, .sheets, .gshift, .pending]) ∧
  (∀ (die : Nat) (engine : Nat) (upsets : List (Nat × Nat)),
    Leaves (.scatter die engine upsets)
      [.routes, .disc, .awaiting, .patrol, .heldTx, .groups, .eths, .auLog, .bridge, .dkr, .tap, .pcie, .provId,
       .fwVer, .sheets, .gshift, .pending]) ∧
  (∀ (die : Nat) (engine : Nat) (upsets : List (Nat × Nat)),
    Leaves (.scatterAdd die engine upsets)
      [.routes, .disc, .awaiting, .patrol, .heldTx, .groups, .eths, .auLog, .bridge, .dkr, .tap, .pcie, .provId,
       .fwVer, .sheets, .gshift, .pending]) ∧
  (∀ (die : Nat) (engine : Nat) (upsets : List (Nat × Nat)),
    Leaves (.segmentReduce die engine upsets)
      [.routes, .disc, .awaiting, .patrol, .heldTx, .groups, .eths, .auLog, .bridge, .dkr, .tap, .pcie, .provId,
       .fwVer, .sheets, .gshift, .pending]) ∧
  (∀ (die : Nat) (engine : Nat) (upsets : List (Nat × Nat)),
    Leaves (.sortByKey die engine upsets)
      [.routes, .disc, .awaiting, .patrol, .heldTx, .groups, .eths, .auLog, .bridge, .dkr, .tap, .pcie, .provId,
       .fwVer, .sheets, .gshift, .pending]) ∧
  (∀ (die : Nat) (engine : Nat) (upsets : List (Nat × Nat)),
    Leaves (.bucket die engine upsets)
      [.routes, .disc, .awaiting, .patrol, .heldTx, .groups, .eths, .auLog, .bridge, .dkr, .tap, .pcie, .provId,
       .fwVer, .sheets, .gshift, .pending]) ∧
  (∀ (die : Nat) (engine : Nat) (upsets : List (Nat × Nat)),
    Leaves (.packRows die engine upsets)
      [.routes, .disc, .awaiting, .patrol, .heldTx, .groups, .eths, .auLog, .bridge, .dkr, .tap, .pcie, .provId,
       .fwVer, .sheets, .gshift, .pending]) ∧
  (∀ (die : Nat) (engine : Nat) (upsets : List (Nat × Nat)),
    Leaves (.unpack die engine upsets)
      [.routes, .disc, .awaiting, .patrol, .heldTx, .groups, .eths, .auLog, .bridge, .dkr, .tap, .pcie, .provId,
       .fwVer, .sheets, .gshift, .pending]) ∧
  (∀ (die : Nat) (engine : Nat) (upsets : List (Nat × Nat)),
    Leaves (.maskCompact die engine upsets)
      [.routes, .disc, .awaiting, .patrol, .heldTx, .groups, .eths, .auLog, .bridge, .dkr, .tap, .pcie, .provId,
       .fwVer, .sheets, .gshift, .pending]) ∧
  (∀ (die : Nat) (engine : Nat),
    Leaves (.gmeOpFault die engine)
      [.routes, .disc, .awaiting, .patrol, .heldTx, .groups, .ues, .streams, .qps, .eths, .auLog, .bridge, .rcv,
       .dkr, .tap, .pcie, .provId, .fwVer, .job, .ck, .kpr, .sheets, .gshift, .pending]) ∧
  (∀ (die : Nat) (engine : Nat),
    Keeps (.gmeOpComplete die engine)
      [.regs, .cores, .gmes])

/-- Whatever next state each of these commands answers, the parts of the state that its frame does not name are unchanged:
arbitratedAccess, requestPromotion, scratchpadScrub, dramRead, dramWrite, patrolScrub, dramRefresh, translationWalk,
tuInval, invalidationDone, stackPushStart, frameHeaderWrite, stackPopStart, popComplete. (06_scratchpad R145;
08_bonded_dram R188; 08_bonded_dram R197; 11_backward_pass R274.) -/
def Obligations.MemoryFrames : Prop :=
  (∀ (die : Nat) (core : Nat) (sched : Nat) (next : Nat) (upsets : List (Nat × Nat)),
    Keeps (.arbitratedAccess die core sched next upsets)
      [.regs, .mem, .ecc, .net, .arbs, .sb, .log, .scrubQ]) ∧
  (∀ (die : Nat) (core : Nat),
    Keeps (.requestPromotion die core)
      [.regs, .arbs]) ∧
  (∀ (die : Nat) (core : Nat) (bank : Nat) (sched : Bool) (upsets : List (Nat × Nat)),
    Keeps (.scratchpadScrub die core bank sched upsets)
      [.regs, .ecc, .net, .arbs, .sb, .log, .scrubQ]) ∧
  (∀ (src : Nat) (die : Nat) (off : Nat) (len : Nat) (upsets : List (Nat × Nat)),
    Keeps (.dramRead src die off len upsets)
      [.regs, .ecc, .net, .heldTx, .sb, .log]) ∧
  (∀ (src : Nat) (die : Nat) (off : Nat) (data : List Byte) (upsets : List (Nat × Nat)),
    Keeps (.dramWrite src die off data upsets)
      [.regs, .mem, .ecc, .net, .heldTx, .sb, .log]) ∧
  (∀ (die : Nat) (channel : Nat) (upsets : List (Nat × Nat)),
    Keeps (.patrolScrub die channel upsets)
      [.regs, .ecc, .net, .patrol, .sb, .log]) ∧
  (∀ (die : Nat) (delayed : Nat),
    Keeps (.dramRefresh die delayed)
      [.regs]) ∧
  (∀ (die : Nat) (agent : Nat) (va : Nat) (need : Nat) (upsets : List (Nat × Nat)),
    Keeps (.translationWalk die agent va need upsets)
      [.regs, .ecc, .net, .tus, .sb, .pwr, .log]) ∧
  (∀ (src : Nat) (die : Nat),
    Keeps (.tuInval src die)
      [.regs, .mem, .ecc, .cores, .arbs, .ports, .apps, .stqs, .red, .sb, .log, .fix, .scrubQ]) ∧
  (∀ (die : Nat),
    Keeps (.invalidationDone die)
      [.regs, .tus]) ∧
  (∀ (die : Nat) (core : Nat) (upsets : List (Nat × Nat)),
    Leaves (.stackPushStart die core upsets)
      [.gmes, .routes, .disc, .awaiting, .patrol, .heldTx, .groups, .eths, .auLog, .bridge, .dkr, .tap, .pcie,
       .provId, .fwVer, .sheets, .gshift, .pending]) ∧
  (∀ (die : Nat) (core : Nat),
    Leaves (.frameHeaderWrite die core)
      [.gmes, .routes, .disc, .awaiting, .patrol, .heldTx, .groups, .eths, .auLog, .bridge, .dkr, .tap, .pcie,
       .provId, .fwVer, .sheets, .gshift, .pending]) ∧
  (∀ (die : Nat) (core : Nat) (upsets : List (Nat × Nat)),
    Leaves (.stackPopStart die core upsets)
      [.gmes, .routes, .disc, .awaiting, .patrol, .heldTx, .groups, .eths, .auLog, .bridge, .dkr, .tap, .pcie,
       .provId, .fwVer, .sheets, .gshift, .pending]) ∧
  (∀ (die : Nat) (core : Nat),
    Leaves (.popComplete die core)
      [.net, .gmes, .arbs, .tus, .ports, .routes, .disc, .awaiting, .patrol, .heldTx, .groups, .eths, .arrivals,
       .auLog, .bridge, .dkr, .tap, .pwr, .pcie, .provId, .fwVer, .sheets, .scrubQ, .gshift, .pending])

/-- Whatever next state each of these commands answers, the parts of the state that its frame does not name are unchanged:
updateRecordStart, updateRecordDone, updateFault, voteSend, voteReceive, decisionReceive, fixerCommit,
checkpointDrainComplete, drained, rdReady, laneSegmentSend, rsegReceive, rwordReceive, checkSampleRead, chkReceive,
cwordReceive, reductionFault. (12_update_and_fixer R293; 12_update_and_fixer R303; 13_gradient_reduction R322.) -/
def Obligations.StepFrames : Prop :=
  (∀ (die : Nat) (upsets : List (Nat × Nat)),
    Leaves (.updateRecordStart die upsets)
      [.gmes, .routes, .disc, .awaiting, .patrol, .heldTx, .groups, .streams, .qps, .eths, .auLog, .bridge, .rcv,
       .dkr, .tap, .pcie, .provId, .fwVer, .job, .ck, .kpr, .sheets, .gshift, .pending]) ∧
  (∀ (die : Nat) (upsets : List (Nat × Nat)),
    Leaves (.updateRecordDone die upsets)
      [.gmes, .routes, .disc, .awaiting, .patrol, .heldTx, .groups, .streams, .qps, .eths, .auLog, .bridge, .rcv,
       .dkr, .tap, .pcie, .provId, .fwVer, .job, .ck, .kpr, .sheets, .gshift, .pending]) ∧
  (∀ (die : Nat) (upsets : List (Nat × Nat)),
    Leaves (.updateFault die upsets)
      [.gmes, .routes, .disc, .awaiting, .patrol, .heldTx, .groups, .eths, .auLog, .bridge, .dkr, .tap, .pcie,
       .provId, .fwVer, .sheets, .gshift, .pending]) ∧
  (Leaves (.voteSend)
      [.gmes, .routes, .disc, .awaiting, .patrol, .heldTx, .groups, .qps, .eths, .auLog, .bridge, .rcv, .dkr, .tap,
       .pcie, .provId, .fwVer, .job, .kpr, .pending]) ∧
  (∀ (child : Nat) (step : Nat) (flags : Nat) (count : Nat) (amax : List Nat),
    Leaves (.voteReceive child step flags count amax)
      [.gmes, .routes, .disc, .awaiting, .patrol, .heldTx, .groups, .qps, .eths, .auLog, .bridge, .rcv, .dkr, .tap,
       .pcie, .provId, .fwVer, .job, .kpr, .pending]) ∧
  (∀ (step : Nat) (flags : Nat) (count : Nat) (amax : List Nat),
    Leaves (.decisionReceive step flags count amax)
      [.gmes, .routes, .disc, .awaiting, .patrol, .heldTx, .groups, .qps, .eths, .auLog, .bridge, .rcv, .dkr, .tap,
       .pcie, .provId, .fwVer, .job, .kpr, .pending]) ∧
  (∀ (mclk : Nat),
    Leaves (.fixerCommit mclk)
      [.gmes, .routes, .disc, .awaiting, .patrol, .heldTx, .groups, .qps, .eths, .auLog, .bridge, .rcv, .dkr, .tap,
       .pcie, .provId, .fwVer, .job, .kpr, .pending]) ∧
  (Leaves (.checkpointDrainComplete)
      [.gmes, .routes, .disc, .awaiting, .patrol, .heldTx, .groups, .ues, .streams, .qps, .eths, .auLog, .bridge,
       .rcv, .dkr, .tap, .pcie, .provId, .fwVer, .job, .sheets, .gshift, .pending]) ∧
  (∀ (child : Nat) (step : Nat) (down : Bool),
    Keeps (.drained child step down)
      [.regs, .ck]) ∧
  (∀ (layer : Nat) (step : Nat),
    Keeps (.rdReady layer step)
      [.regs, .red, .sb, .log, .fix]) ∧
  (∀ (layer : Nat) (seg : Nat) (upsets : List (Nat × Nat)),
    Leaves (.laneSegmentSend layer seg upsets)
      [.gmes, .routes, .disc, .awaiting, .patrol, .heldTx, .groups, .ues, .streams, .qps, .eths, .auLog, .bridge,
       .rcv, .dkr, .tap, .pcie, .provId, .fwVer, .job, .ck, .kpr, .sheets, .gshift, .pending]) ∧
  (∀ (layer : Nat) (seg : Nat) (step : Nat) (data : List Byte),
    Keeps (.rsegReceive layer seg step data)
      [.regs, .red, .sb, .log]) ∧
  (∀ (lane : Nat) (chunk : Nat) (data : List Byte),
    Leaves (.rwordReceive lane chunk data)
      [.gmes, .routes, .disc, .awaiting, .patrol, .heldTx, .groups, .ues, .streams, .qps, .eths, .auLog, .bridge,
       .rcv, .dkr, .tap, .pcie, .provId, .fwVer, .job, .ck, .kpr, .sheets, .gshift, .pending]) ∧
  (∀ (layer : Nat) (upsets : List (Nat × Nat)),
    Leaves (.checkSampleRead layer upsets)
      [.gmes, .routes, .disc, .awaiting, .patrol, .heldTx, .groups, .ues, .streams, .qps, .eths, .auLog, .bridge,
       .rcv, .dkr, .tap, .pcie, .provId, .fwVer, .job, .ck, .kpr, .sheets, .gshift, .pending]) ∧
  (∀ (layer : Nat) (pos : Nat) (ord : Nat) (step : Nat) (data : List Byte),
    Leaves (.chkReceive layer pos ord step data)
      [.gmes, .routes, .disc, .awaiting, .patrol, .heldTx, .groups, .ues, .streams, .qps, .eths, .auLog, .bridge,
       .rcv, .dkr, .tap, .pcie, .provId, .fwVer, .job, .ck, .kpr, .sheets, .gshift, .pending]) ∧
  (∀ (pos : Nat) (data : List Byte),
    Leaves (.cwordReceive pos data)
      [.gmes, .routes, .disc, .awaiting, .patrol, .heldTx, .groups, .ues, .streams, .qps, .eths, .auLog, .bridge,
       .rcv, .dkr, .tap, .pcie, .provId, .fwVer, .job, .ck, .kpr, .sheets, .gshift, .pending]) ∧
  (∀ (layer : Nat) (upsets : List (Nat × Nat)),
    Leaves (.reductionFault layer upsets)
      [.gmes, .routes, .disc, .awaiting, .patrol, .heldTx, .groups, .eths, .auLog, .bridge, .dkr, .tap, .pcie,
       .provId, .fwVer, .sheets, .gshift, .pending])

/-- Whatever next state each of these commands answers, the parts of the state that its frame does not name are unchanged:
ethFrameReceive, sampleStart, readResponseReceive, roceAckTimeout, roceWriteReceive, tsPacket, accessUnitConsume,
decodeFrame, tensorizeFrame, slotWriteComplete, strArrLoRead, strAuprod, exit, dbWait, arrWait, monitorWaitExpiry,
appException, appFence. (14_video_ingest_developer R334; 14_video_ingest_developer R348; 15_application_cores R366.) -/
def Obligations.IngestFrames : Prop :=
  (∀ (port : Nat) (frame : List Byte) (ok : Bool) (icrc : Bool),
    Keeps (.ethFrameReceive port frame ok icrc)
      [.regs, .qps]) ∧
  (∀ (slot : Nat) (upsets : List (Nat × Nat)),
    Leaves (.sampleStart slot upsets)
      [.gmes, .routes, .disc, .awaiting, .patrol, .heldTx, .groups, .ues, .eths, .auLog, .bridge, .rcv, .dkr, .tap,
       .pcie, .provId, .fwVer, .job, .ck, .kpr, .sheets, .gshift, .pending]) ∧
  (∀ (qp : Nat) (psn : Nat) (kind : Nat) (syndrome : Nat) (data : List Byte) (ce : Bool),
    Leaves (.readResponseReceive qp psn kind syndrome data ce)
      [.gmes, .routes, .disc, .awaiting, .patrol, .heldTx, .groups, .ues, .eths, .auLog, .bridge, .rcv, .dkr, .tap,
       .pcie, .provId, .fwVer, .job, .ck, .kpr, .sheets, .gshift, .pending]) ∧
  (∀ (qp : Nat),
    Keeps (.roceAckTimeout qp)
      [.regs, .apps, .streams, .qps, .arrivals, .sb, .log]) ∧
  (∀ (qp : Nat) (psn : Nat) (slot : Nat) (keyOk : Bool) (p : Nat) (data : List Byte) (ce : Bool),
    Leaves (.roceWriteReceive qp psn slot keyOk p data ce)
      [.gmes, .routes, .disc, .awaiting, .patrol, .heldTx, .groups, .ues, .eths, .auLog, .bridge, .rcv, .dkr, .tap,
       .pcie, .provId, .fwVer, .job, .ck, .kpr, .sheets, .gshift, .pending]) ∧
  (∀ (slot : Nat) (draw : Nat) (pid : Nat) (upsets : List (Nat × Nat)),
    Leaves (.tsPacket slot draw pid upsets)
      [.gmes, .routes, .disc, .awaiting, .patrol, .heldTx, .groups, .ues, .qps, .eths, .auLog, .bridge, .rcv, .dkr,
       .tap, .pcie, .provId, .fwVer, .job, .ck, .kpr, .sheets, .gshift, .pending]) ∧
  (∀ (slot : Nat) (upsets : List (Nat × Nat)),
    Leaves (.accessUnitConsume slot upsets)
      [.gmes, .routes, .disc, .awaiting, .patrol, .heldTx, .groups, .ues, .qps, .eths, .auLog, .bridge, .rcv, .dkr,
       .tap, .pcie, .provId, .fwVer, .job, .ck, .kpr, .sheets, .gshift, .pending]) ∧
  (∀ (die : Nat) (pipe : Nat) (slot : Nat) (draw : Nat),
    Keeps (.decodeFrame die pipe slot draw)
      [.regs, .streams, .sb, .log]) ∧
  (∀ (die : Nat) (unit : Nat) (slot : Nat) (draw : Nat) (q : Nat) (upsets : List (Nat × Nat)),
    Leaves (.tensorizeFrame die unit slot draw q upsets)
      [.gmes, .routes, .disc, .awaiting, .patrol, .heldTx, .groups, .ues, .qps, .eths, .auLog, .bridge, .rcv, .dkr,
       .tap, .pcie, .provId, .fwVer, .job, .ck, .kpr, .sheets, .gshift, .pending]) ∧
  (∀ (slot : Nat) (draw : Nat) (upsets : List (Nat × Nat)),
    Leaves (.slotWriteComplete slot draw upsets)
      [.gmes, .routes, .disc, .awaiting, .patrol, .heldTx, .groups, .ues, .qps, .eths, .auLog, .bridge, .rcv, .dkr,
       .tap, .pcie, .provId, .fwVer, .job, .ck, .kpr, .sheets, .gshift, .pending]) ∧
  (∀ (slot : Nat) (wide : Bool),
    Keeps (.strArrLoRead slot wide)
      [.regs, .arrivals]) ∧
  (∀ (slot : Nat) (count : Nat),
    Keeps (.strAuprod slot count)
      [.regs, .sb, .log]) ∧
  (∀ (core : Nat),
    Keeps (.exit core)
      [.regs]) ∧
  (∀ (core : Nat) (mask : Nat) (limit : Nat),
    Keeps (.dbWait core mask limit)
      [.regs, .apps]) ∧
  (∀ (core : Nat) (mask : Nat) (limit : Nat),
    Keeps (.arrWait core mask limit)
      [.regs, .apps]) ∧
  (∀ (core : Nat) (near : Bool),
    Keeps (.monitorWaitExpiry core near)
      [.regs, .apps]) ∧
  (∀ (core : Nat) (cause : Nat) (tval : Nat) (kind : Nat),
    Leaves (.appException core cause tval kind)
      [.net, .gmes, .tus, .ports, .routes, .disc, .awaiting, .patrol, .heldTx, .groups, .eths, .arrivals, .auLog,
       .bridge, .dkr, .tap, .pwr, .pcie, .provId, .fwVer, .sheets, .scrubQ, .gshift, .pending]) ∧
  (∀ (core : Nat) (acts : List (Nat × Nat × List Byte)),
    Leaves (.appFence core acts)
      [.gmes, .routes, .disc, .awaiting, .patrol, .heldTx, .groups, .eths, .auLog, .bridge, .dkr, .tap, .pcie,
       .provId, .fwVer, .sheets, .gshift, .pending])

/-- Whatever next state each of these commands answers, the parts of the state that its frame does not name are unchanged:
flitSend, flitReceive, nakReceive, creditReturn, ackDue, replayTimeout, retrainComplete, portDown, beaconSend,
beaconReceive, beaconSilence, fabKhb, kokExpiry, tsoffUpdate, idBlockReceive, offerReceive, offerCollectEnd,
childReceive, reportSend, reportReceive, assignReceive, hostBar0Access, hostBar2Access, hostWindowAccess, stqPost,
stageEntrySend, stageEntryArrive, stagePostComplete, stageEntryWait, stqRel, releaseFlitReceive, perstNAssert,
configurationRequest, pcieLinkUp. (16_hormen_fabric R379; 16_hormen_fabric R391; 16_hormen_fabric R400;
17_multi_module_jobs R409.) -/
def Obligations.FabricFrames : Prop :=
  (∀ (port : Nat) (new : List Flit),
    Keeps (.flitSend port new)
      [.regs, .ports, .awaiting]) ∧
  (∀ (port : Nat) (data : List Byte) (fec : Bool) (corrected : Nat) (failed : Nat),
    Leaves (.flitReceive port data fec corrected failed)
      [.net, .gmes, .arbs, .tus, .routes, .disc, .patrol, .heldTx, .groups, .eths, .arrivals, .auLog, .bridge, .dkr,
       .tap, .pwr, .pcie, .provId, .fwVer, .sheets, .scrubQ, .gshift, .pending]) ∧
  (∀ (port : Nat) (expSeq : Nat),
    Keeps (.nakReceive port expSeq)
      [.regs, .ports]) ∧
  (∀ (port : Nat) (cred : List Nat),
    Keeps (.creditReturn port cred)
      [.regs, .ports]) ∧
  (∀ (port : Nat),
    Keeps (.ackDue port)
      [.regs, .ports]) ∧
  (∀ (port : Nat),
    Keeps (.replayTimeout port)
      [.regs, .ports]) ∧
  (∀ (port : Nat) (ack : Nat) (rtt : Nat),
    Keeps (.retrainComplete port ack rtt)
      [.regs, .ports]) ∧
  (∀ (port : Nat),
    Leaves (.portDown port)
      [.net, .gmes, .arbs, .tus, .routes, .disc, .awaiting, .patrol, .heldTx, .groups, .eths, .arrivals, .auLog,
       .bridge, .dkr, .tap, .pwr, .pcie, .provId, .fwVer, .sheets, .scrubQ, .gshift, .pending]) ∧
  (∀ (port : Nat),
    Keeps (.beaconSend port)
      [.regs, .ports]) ∧
  (∀ (port : Nat) (modId : Nat) (kok : Bool) (prov : Nat) (epoch : Nat) (tSend : Nat) (tLastRx : Nat) (tLastTx : Nat) (tsoff : Nat),
    Leaves (.beaconReceive port modId kok prov epoch tSend tLastRx tLastTx tsoff)
      [.net, .gmes, .arbs, .tus, .routes, .disc, .awaiting, .patrol, .heldTx, .groups, .eths, .arrivals, .auLog,
       .bridge, .dkr, .tap, .pwr, .pcie, .provId, .fwVer, .sheets, .scrubQ, .gshift, .pending]) ∧
  (∀ (port : Nat) (near : Bool),
    Leaves (.beaconSilence port near)
      [.net, .gmes, .arbs, .tus, .routes, .disc, .awaiting, .patrol, .heldTx, .groups, .eths, .arrivals, .auLog,
       .bridge, .dkr, .tap, .pwr, .pcie, .provId, .fwVer, .sheets, .scrubQ, .gshift, .pending]) ∧
  (∀ (port : Nat),
    Keeps (.fabKhb port)
      [.ports]) ∧
  (∀ (port : Nat),
    Keeps (.kokExpiry port)
      [.regs, .ports]) ∧
  (Keeps (.tsoffUpdate) [.regs]) ∧
  (∀ (port : Nat) (serial : Nat) (partnerPort : Nat) (bridge : Bool),
    Keeps (.idBlockReceive port serial partnerPort bridge)
      [.regs]) ∧
  (∀ (port : Nat) (num : Nat) (hops : Nat) (serial : Nat),
    Keeps (.offerReceive port num hops serial)
      [.disc]) ∧
  (Keeps (.offerCollectEnd) [.disc]) ∧
  (∀ (port : Nat) (num : Nat),
    Keeps (.childReceive port num)
      [.disc]) ∧
  (Leaves (.reportSend)
      [.gmes, .tus, .routes, .awaiting, .patrol, .heldTx, .groups, .ues, .streams, .qps, .eths, .auLog, .bridge,
       .rcv, .dkr, .tap, .pcie, .fwVer, .job, .ck, .sheets, .gshift, .pending]) ∧
  (∀ (port : Nat) (num : Nat) (recs : List TopoRec),
    Leaves (.reportReceive port num recs)
      [.gmes, .tus, .routes, .awaiting, .patrol, .heldTx, .groups, .ues, .streams, .qps, .eths, .auLog, .bridge,
       .rcv, .dkr, .tap, .pcie, .fwVer, .job, .ck, .sheets, .gshift, .pending]) ∧
  (∀ (port : Nat) (num : Nat) (id : Nat),
    Keeps (.assignReceive port num id)
      [.disc, .provId]) ∧
  (∀ (off : Nat) (write : Bool) (data : List Byte) (len : Nat),
    Leaves (.hostBar0Access off write data len)
      [.net, .gmes, .tus, .routes, .awaiting, .patrol, .heldTx, .groups, .eths, .auLog, .bridge, .rcv, .provId,
       .fwVer, .sheets, .gshift, .pending]) ∧
  (∀ (off : Nat) (write : Bool) (data : List Byte) (len : Nat),
    Keeps (.hostBar2Access off write data len)
      [.regs, .mem, .ecc, .cores, .arbs, .ports, .heldTx, .apps, .stqs, .red, .arrivals, .sb, .log, .fix, .scrubQ]) ∧
  (∀ (off : Nat) (write : Bool) (data : List Byte) (len : Nat) (host : List Byte),
    Keeps (.hostWindowAccess off write data len host)
      []) ∧
  (∀ (src : Nat) (ep : Nat) (q : Nat) (data : List Byte),
    Keeps (.stqPost src ep q data)
      [.stqs]) ∧
  (∀ (ep : Nat) (queue : Nat) (held : Nat) (upsets : List (Nat × Nat)),
    Leaves (.stageEntrySend ep queue held upsets)
      [.gmes, .routes, .disc, .awaiting, .patrol, .heldTx, .groups, .ues, .streams, .qps, .eths, .auLog, .bridge,
       .rcv, .dkr, .tap, .pcie, .provId, .fwVer, .job, .ck, .kpr, .sheets, .gshift, .pending]) ∧
  (∀ (ep : Nat) (queue : Nat) (mb : Nat) (epoch : Nat) (data : List Byte) (upsets : List (Nat × Nat)),
    Leaves (.stageEntryArrive ep queue mb epoch data upsets)
      [.gmes, .routes, .disc, .awaiting, .patrol, .heldTx, .groups, .ues, .streams, .qps, .eths, .auLog, .bridge,
       .rcv, .dkr, .tap, .pcie, .provId, .fwVer, .job, .ck, .kpr, .sheets, .gshift, .pending]) ∧
  (∀ (ep : Nat) (queue : Nat),
    Keeps (.stagePostComplete ep queue)
      [.regs, .cores, .apps, .stqs, .sb, .log]) ∧
  (∀ (src : Nat) (ep : Nat) (queue : Nat) (index : Nat),
    Keeps (.stageEntryWait src ep queue index)
      [.stqs]) ∧
  (∀ (ep : Nat) (q : Nat) (count : Nat),
    Keeps (.stqRel ep q count)
      [.regs, .stqs, .sb, .log]) ∧
  (∀ (ep : Nat) (queue : Nat) (count : Nat) (epoch : Nat),
    Keeps (.releaseFlitReceive ep queue count epoch)
      [.regs, .stqs]) ∧
  (∀ (inFlight : List (Nat × Nat)),
    Keeps (.perstNAssert inFlight)
      [.regs, .mem, .ecc, .cores, .apps, .sb, .pcie, .log]) ∧
  (∀ (write : Bool) (reg : Nat) (data : Nat),
    Keeps (.configurationRequest write reg data)
      [.pcie]) ∧
  (∀ (speed : Nat) (width : Nat) (flit : Bool),
    Keeps (.pcieLinkUp speed width flit)
      [.regs, .pcie])

/-- Whatever next state each of these commands answers, the parts of the state that its frame does not name are unchanged:
fogReceive, stepWatchdogExpiry, surveyReplyReceive, surveyReplyTimeout, reliefCabled, cableWaitExpiry, mbxBufWrite,
mbxSend, mbxBufRead, mbxDone, mbxLockBreak, mbxKrst, dbSet, dbClr, dbMaskWrite, minilReplyReceive, replyResend,
queryDevice, setWakeTolerance, loadJob, loadCablingTimeout, startJob, stopJob, checkpointRequest, restore,
hostRingConsPoll, readLog, clearLog, readTelemetry, fwStage, fwCommit, attest, fabricDiscover, fabricRouteSet,
reliefTakeover, injectLinkFault, resetUnit, ethLinkChange, checkpointDrainFault. (18_faults_and_relief R433;
19_keeper_minil R445; 19_keeper_minil R457; 20_darkroom_security R481.) -/
def Obligations.KeeperFrames : Prop :=
  (∀ (port : Nat) (data : List Byte),
    Leaves (.fogReceive port data)
      [.routes, .awaiting, .patrol, .bridge, .pcie, .provId, .pending]) ∧
  (∀ (near : Bool),
    Leaves (.stepWatchdogExpiry near)
      [.net, .gmes, .arbs, .tus, .ports, .routes, .disc, .awaiting, .patrol, .heldTx, .groups, .eths, .arrivals,
       .auLog, .bridge, .dkr, .tap, .pwr, .pcie, .provId, .fwVer, .sheets, .scrubQ, .gshift, .pending]) ∧
  (∀ (module : Nat) (ckjob : Nat) (faults : List (Nat × Nat × Nat × Nat)),
    Leaves (.surveyReplyReceive module ckjob faults)
      [.routes, .awaiting, .patrol, .bridge, .pcie, .provId, .pending]) ∧
  (∀ (module : Nat) (prov : Bool),
    Leaves (.surveyReplyTimeout module prov)
      [.routes, .awaiting, .patrol, .bridge, .pcie, .provId, .pending]) ∧
  (∀ (member : Nat),
    Leaves (.reliefCabled member)
      [.routes, .awaiting, .patrol, .bridge, .pcie, .provId, .pending]) ∧
  (∀ (near : Bool),
    Leaves (.cableWaitExpiry near)
      [.routes, .awaiting, .patrol, .bridge, .pcie, .provId, .pending]) ∧
  (∀ (src : Nat) (chan : Nat) (off : Nat) (data : List Byte),
    Keeps (.mbxBufWrite src chan off data)
      [.regs, .mem, .ecc]) ∧
  (∀ (src : Nat) (chan : Nat) (len : Nat),
    Keeps (.mbxSend src chan len)
      [.regs, .apps]) ∧
  (∀ (src : Nat) (chan : Nat) (off : Nat) (len : Nat),
    Keeps (.mbxBufRead src chan off len)
      []) ∧
  (∀ (src : Nat) (chan : Nat),
    Keeps (.mbxDone src chan)
      [.regs, .mem, .ecc, .cores, .apps, .sb, .log]) ∧
  (∀ (chan : Nat),
    Keeps (.mbxLockBreak chan)
      [.regs, .mem, .ecc]) ∧
  (∀ (src : Nat) (key : Nat),
    Leaves (.mbxKrst src key)
      [.net, .gmes, .arbs, .tus, .ports, .routes, .awaiting, .patrol, .heldTx, .groups, .eths, .arrivals, .auLog,
       .bridge, .rcv, .pcie, .provId, .fwVer, .sheets, .scrubQ, .gshift, .pending]) ∧
  (∀ (bits : Nat),
    Keeps (.dbSet bits)
      [.regs, .apps]) ∧
  (∀ (src : Nat) (bits : Nat),
    Keeps (.dbClr src bits)
      [.regs]) ∧
  (∀ (src : Nat) (bits : Nat),
    Keeps (.dbMaskWrite src bits)
      [.regs, .apps]) ∧
  (∀ (image : List Byte) (ck : List Byte),
    Leaves (.minilReplyReceive image ck)
      [.routes, .awaiting, .patrol, .bridge, .pcie, .provId, .pending]) ∧
  (∀ (n : Nat) (code : Nat),
    Keeps (.replyResend n code)
      [.regs, .mem, .ecc, .apps, .kpr]) ∧
  (Keeps (.queryDevice) [.regs, .mem, .ecc, .cores, .apps, .sb, .log, .kpr]) ∧
  (Keeps (.setWakeTolerance) [.regs, .mem, .ecc, .cores, .apps, .sb, .log, .kpr]) ∧
  (∀ (fin : Bool) (image : List Byte),
    Leaves (.loadJob fin image)
      [.awaiting, .patrol, .bridge, .pcie, .provId, .pending]) ∧
  (∀ (image : List Byte) (ck : List Byte),
    Leaves (.loadCablingTimeout image ck)
      [.routes, .awaiting, .patrol, .bridge, .pcie, .provId, .pending]) ∧
  (Leaves (.startJob)
      [.routes, .awaiting, .patrol, .groups, .eths, .auLog, .bridge, .pcie, .provId, .sheets, .pending]) ∧
  (∀ (fin : Bool),
    Leaves (.stopJob fin)
      [.net, .routes, .awaiting, .patrol, .groups, .bridge, .rcv, .pcie, .provId, .pending]) ∧
  (Leaves (.checkpointRequest)
      [.net, .gmes, .tus, .routes, .awaiting, .patrol, .groups, .eths, .auLog, .bridge, .rcv, .pcie, .provId,
       .sheets, .gshift, .pending]) ∧
  (∀ (fin : Bool) (ck : List Byte),
    Leaves (.restore fin ck)
      [.gmes, .routes, .awaiting, .patrol, .groups, .eths, .auLog, .bridge, .rcv, .pcie, .provId, .sheets, .pending]) ∧
  (∀ (cons : Nat),
    Leaves (.hostRingConsPoll cons)
      [.gmes, .tus, .routes, .disc, .awaiting, .patrol, .heldTx, .groups, .ues, .streams, .qps, .eths, .auLog,
       .bridge, .rcv, .dkr, .tap, .pcie, .provId, .fwVer, .job, .kpr, .sheets, .gshift, .pending]) ∧
  (Leaves (.readLog)
      [.gmes, .tus, .routes, .disc, .awaiting, .patrol, .heldTx, .groups, .ues, .streams, .qps, .eths, .auLog,
       .bridge, .rcv, .dkr, .tap, .pcie, .provId, .fwVer, .job, .ck, .sheets, .gshift, .pending]) ∧
  (Keeps (.clearLog) [.regs, .mem, .ecc, .cores, .apps, .sb, .log, .kpr]) ∧
  (Leaves (.readTelemetry)
      [.gmes, .tus, .routes, .disc, .awaiting, .patrol, .heldTx, .groups, .ues, .streams, .qps, .eths, .auLog,
       .bridge, .rcv, .dkr, .tap, .pcie, .provId, .fwVer, .job, .ck, .sheets, .gshift, .pending]) ∧
  (∀ (fin : Bool) (image : List Byte),
    Leaves (.fwStage fin image)
      [.gmes, .tus, .routes, .awaiting, .patrol, .groups, .eths, .auLog, .bridge, .rcv, .pcie, .provId, .sheets,
       .gshift, .pending]) ∧
  (∀ (fin : Bool) (ue : Bool) (bad : Nat),
    Leaves (.fwCommit fin ue bad)
      [.net, .gmes, .tus, .routes, .awaiting, .patrol, .groups, .eths, .auLog, .bridge, .rcv, .pcie, .provId,
       .sheets, .gshift, .pending]) ∧
  (∀ (fin : Bool),
    Leaves (.attest fin)
      [.gmes, .tus, .routes, .awaiting, .patrol, .groups, .eths, .auLog, .bridge, .rcv, .pcie, .provId, .sheets,
       .gshift, .pending]) ∧
  (Keeps (.fabricDiscover) [.regs, .mem, .ecc, .cores, .disc, .apps, .sb, .pwr, .log, .kpr]) ∧
  (∀ (fin : Bool) (set : List Byte),
    Leaves (.fabricRouteSet fin set)
      [.gmes, .tus, .awaiting, .patrol, .eths, .auLog, .bridge, .rcv, .pcie, .provId, .sheets, .gshift, .pending]) ∧
  (∀ (image : List Byte) (ck : List Byte),
    Leaves (.reliefTakeover image ck)
      [.routes, .awaiting, .patrol, .bridge, .pcie, .provId, .pending]) ∧
  (Keeps (.injectLinkFault) [.regs, .mem, .ecc, .cores, .ports, .apps, .sb, .log, .kpr]) ∧
  (∀ (fin : Bool),
    Leaves (.resetUnit fin)
      [.net, .gmes, .tus, .routes, .awaiting, .patrol, .groups, .eths, .auLog, .bridge, .rcv, .pcie, .provId,
       .sheets, .gshift, .pending]) ∧
  (∀ (port : Nat) (link : Bool) (fec : Bool) (pmd : Nat),
    Keeps (.ethLinkChange port link fec pmd)
      [.regs]) ∧
  (∀ (code : Nat),
    Leaves (.checkpointDrainFault code)
      [.gmes, .tus, .routes, .disc, .awaiting, .patrol, .heldTx, .groups, .ues, .streams, .qps, .eths, .auLog,
       .bridge, .rcv, .dkr, .tap, .pcie, .provId, .fwVer, .job, .sheets, .gshift, .pending])
end

