-- ==== Sys2Proof/Laws/Map.lean ====
section
/-!
SUPPORT. Laws of the maps that hold registers, memory and units: what a key reads as after another is set or removed, and
that every operation keeps the canonical form.
-/
namespace Sys2Proof

variable {α : Type}

theorem mget_mins (m : SMap α) (k j : Nat) (v d : α) : mget (mins m k v) j d = if j = k then v else mget m j d := by
  induction m with
  | nil => simp only [mins, mget]; split <;> split <;> simp_all
  | cons p r ih =>
    obtain ⟨a, x⟩ := p
    simp only [mins]
    split
    · simp only [mget, ih]; split <;> split <;> first | rfl | omega
    · split
      · simp only [mget]; split <;> split <;> first | rfl | omega | simp_all
      · simp only [mget, eq_comm]

theorem mget_filter_true (f : Nat → Bool) (m : SMap α) (j : Nat) (d : α) (h : f j = true) :
    mget (m.filter (fun p => f p.1)) j d = mget m j d := by
  induction m with
  | nil => rfl
  | cons p r ih =>
    obtain ⟨a, x⟩ := p
    by_cases ha : a = j
    · subst ha; simp [mget, h]
    · by_cases hf : f a = true <;> simp [hf, mget, ha, ih]

theorem mget_filter_false (f : Nat → Bool) (m : SMap α) (j : Nat) (d : α) (h : f j = false) :
    mget (m.filter (fun p => f p.1)) j d = d := by
  induction m with
  | nil => rfl
  | cons p r ih =>
    obtain ⟨a, x⟩ := p
    by_cases hf : f a = true
    · have ha : a ≠ j := by rintro rfl; simp [h] at hf
      simp [hf, mget, ha, ih]
    · simp [hf, ih]

theorem mget_mdel (m : SMap α) (k j : Nat) (d : α) : mget (mdel m k) j d = if j = k then d else mget m j d := by
  unfold mdel
  split
  · exact mget_filter_false (fun a => !decide (a = k)) m j d (by simp [*])
  · exact mget_filter_true (fun a => !decide (a = k)) m j d (by simp [*])

/-- A key reads as what was set there, and every other key as before. -/
theorem mget_mset [DecidableEq α] (d : α) (m : SMap α) (k j : Nat) (v : α) :
    mget (mset d m k v) j d = if j = k then v else mget m j d := by
  unfold mset
  split
  · rw [mget_mdel]; simp [*]
  · exact mget_mins m k j v d

@[simp] theorem mget_mset_same [DecidableEq α] (d : α) (m : SMap α) (k : Nat) (v : α) : mget (mset d m k v) k d = v := by
  simp [mget_mset]

theorem mget_mset_other [DecidableEq α] (d : α) (m : SMap α) {k j : Nat} (v : α) (h : j ≠ k) :
    mget (mset d m k v) j d = mget m j d := by
  simp [mget_mset, h]

/-- Another key reads as before whatever its own default. -/
theorem mget_mset_ne [DecidableEq α] (d e : α) (m : SMap α) {k j : Nat} (v : α) (h : j ≠ k) :
    mget (mset d m k v) j e = mget m j e := by
  unfold mset
  split
  · rw [mget_mdel]; simp [h]
  · rw [mget_mins]; simp [h]

/-- The keys from `lo` up to `hi` read as unlisted, and every other key as before. -/
theorem mget_mclear (m : SMap α) (lo hi j : Nat) (d : α) :
    mget (mclear m lo hi) j d = if lo ≤ j ∧ j < hi then d else mget m j d := by
  unfold mclear
  split
  · exact mget_filter_false (fun a => !(decide (lo ≤ a) && decide (a < hi))) m j d (by simp [*])
  · rename_i h
    exact mget_filter_true (fun a => !(decide (lo ≤ a) && decide (a < hi))) m j d (by simp at h ⊢; omega)

/-! ### The canonical form -/

/-- The canonical form as two facts about the list. -/
theorem mwf_iff [DecidableEq α] (d : α) (m : SMap α) :
    mwf d m = true ↔ (m.Pairwise fun p q => p.1 < q.1) ∧ ∀ p ∈ m, p.2 ≠ d := by
  induction m with
  | nil => simp [mwf]
  | cons p r ih =>
    obtain ⟨a, x⟩ := p
    cases r with
    | nil => simp [mwf]
    | cons q r =>
      obtain ⟨b, y⟩ := q
      simp only [mwf, Bool.and_eq_true, decide_eq_true_eq, ih, List.pairwise_cons, List.mem_cons, forall_eq_or_imp]
      constructor
      · rintro ⟨⟨hx, hab⟩, ⟨hb, hr⟩, hy, hs⟩
        exact ⟨⟨⟨hab, fun c hc => Nat.lt_trans hab (hb c hc)⟩, hb, hr⟩, hx, hy, hs⟩
      · rintro ⟨⟨⟨hab, -⟩, hb, hr⟩, hx, hy, hs⟩
        exact ⟨⟨hx, hab⟩, ⟨hb, hr⟩, hy, hs⟩

theorem mwf_filter [DecidableEq α] (d : α) (f : Nat × α → Bool) (m : SMap α) (h : mwf d m = true) :
    mwf d (m.filter f) = true := by
  rw [mwf_iff] at *
  exact ⟨h.1.filter f, fun p hp => h.2 p (List.mem_filter.1 hp).1⟩

theorem mem_mins (m : SMap α) (k : Nat) (v : α) (p : Nat × α) (h : p ∈ mins m k v) : p = (k, v) ∨ p ∈ m := by
  induction m with
  | nil => simpa [mins] using h
  | cons q r ih =>
    obtain ⟨a, x⟩ := q
    simp only [mins] at h
    split at h
    · rcases List.mem_cons.1 h with h | h
      · exact .inr (by simp [h])
      · rcases ih h with h | h
        · exact .inl h
        · exact .inr (by simp [h])
    · split at h
      · rcases List.mem_cons.1 h with h | h
        · exact .inl h
        · exact .inr (by simp [h])
      · rcases List.mem_cons.1 h with h | h
        · exact .inl h
        · exact .inr h

theorem mwf_mins [DecidableEq α] (d : α) (m : SMap α) (k : Nat) (v : α) (hv : v ≠ d) (h : mwf d m = true) :
    mwf d (mins m k v) = true := by
  rw [mwf_iff] at *
  refine ⟨?_, fun p hp => ?_⟩
  · obtain ⟨h, -⟩ := h
    induction m with
    | nil => simp [mins]
    | cons q r ih =>
      obtain ⟨a, x⟩ := q
      have hr := List.pairwise_cons.1 h
      simp only [mins]
      split
      · refine List.pairwise_cons.2 ⟨fun p hp => ?_, ih hr.2⟩
        rcases mem_mins r k v p hp with rfl | hp
        · assumption
        · exact hr.1 p hp
      · split
        · rename_i hak
          exact List.pairwise_cons.2 ⟨fun p hp => hak ▸ hr.1 p hp, hr.2⟩
        · refine List.pairwise_cons.2 ⟨fun p hp => ?_, h⟩
          rcases List.mem_cons.1 hp with rfl | hp
          · simp; omega
          · have := hr.1 p hp
            simp at this ⊢
            omega
  · rcases mem_mins m k v p hp with rfl | hp
    · exact hv
    · exact h.2 p hp

theorem mwf_mset [DecidableEq α] (d : α) (m : SMap α) (k : Nat) (v : α) (h : mwf d m = true) :
    mwf d (mset d m k v) = true := by
  unfold mset
  split
  · exact mwf_filter d _ m h
  · exact mwf_mins d m k v (by assumption) h

theorem mwf_mclear [DecidableEq α] (d : α) (m : SMap α) (lo hi : Nat) (h : mwf d m = true) :
    mwf d (mclear m lo hi) = true := mwf_filter d _ m h

/-- Maps in canonical form that read alike at every key are equal. -/
theorem mwf_ext [DecidableEq α] (d : α) (m n : SMap α) (hm : mwf d m = true) (hn : mwf d n = true)
    (h : ∀ k, mget m k d = mget n k d) : m = n := by
  rw [mwf_iff] at hm hn
  have low : ∀ (l : SMap α) (a : Nat), (∀ q ∈ l, a < q.1) → mget l a d = d := by
    intro l a hl
    induction l with
    | nil => rfl
    | cons q r ih =>
      obtain ⟨b, y⟩ := q
      have hb := hl (b, y) (by simp)
      simp only [mget]
      rw [if_neg (by simp at hb; omega)]
      exact ih fun q hq => hl q (by simp [hq])
  induction m generalizing n with
  | nil =>
    cases n with
    | nil => rfl
    | cons q r =>
      obtain ⟨b, y⟩ := q
      have := h b
      simp only [mget, if_pos] at this
      exact absurd this.symm (hn.2 (b, y) (by simp))
  | cons p l ih =>
    obtain ⟨a, x⟩ := p
    cases n with
    | nil =>
      have := h a
      simp only [mget, if_pos] at this
      exact absurd this (hm.2 (a, x) (by simp))
    | cons q r =>
      obtain ⟨b, y⟩ := q
      have hl := List.pairwise_cons.1 hm.1
      have hr := List.pairwise_cons.1 hn.1
      have hab : a = b := by
        rcases Nat.lt_trichotomy a b with hlt | heq | hgt
        · have e := h a
          simp only [mget, if_pos] at e
          rw [if_neg (by omega), low r a fun q hq => by have := hr.1 q hq; simp at this; omega] at e
          exact absurd e (hm.2 (a, x) (by simp))
        · exact heq
        · have e := h b
          simp only [mget, if_pos] at e
          rw [if_neg (by omega), low l b fun q hq => by have := hl.1 q hq; simp at this; omega] at e
          exact absurd e.symm (hn.2 (b, y) (by simp))
      subst hab
      have hxy : x = y := by simpa [mget] using h a
      subst hxy
      rw [ih r ⟨hl.2, fun p hp => hm.2 p (by simp [hp])⟩ ⟨hr.2, fun p hp => hn.2 p (by simp [hp])⟩ fun k => ?_]
      have e := h k
      simp only [mget] at e
      by_cases hk : a = k
      · subst hk
        rw [low l a fun q hq => hl.1 q hq, low r a fun q hq => hr.1 q hq]
      · rwa [if_neg hk, if_neg hk] at e

end Sys2Proof
end

