-- ==== Sys2Proof/Laws/Memory.lean ====
section
/-!
SUPPORT. Laws of memory: a read after a write, the canonical form, and little-endian numbers.
-/
namespace Sys2Proof.Machine

theorem Memory.get_set (m : List Host.Cell) (a j : Nat) (b : Byte) :
    Memory.get (Memory.set m a b) j = if j = a then b else Memory.get m j := mget_mset 0 m a j b

/-- A run of bytes reads as it was written, and every byte outside it as before. -/
theorem Memory.get_put (m : List Host.Cell) (a j : Nat) (bs : List Byte) :
    Memory.get (Memory.put m a bs) j = if a ≤ j ∧ j < a + bs.length then bs.getD (j - a) 0 else Memory.get m j := by
  induction bs generalizing m a with
  | nil => simp [Memory.put]
  | cons b r ih =>
    rw [Memory.put, ih, Memory.get_set, List.length_cons]
    by_cases h : j = a
    · subst h; simp
    · by_cases hi : a + 1 ≤ j ∧ j < a + 1 + r.length
      · rw [if_pos hi, if_pos (by omega), show j - a = (j - (a + 1)) + 1 by omega]
        simp
      · rw [if_neg hi, if_neg h, if_neg (by omega)]

theorem Memory.get_put_outside (m : List Host.Cell) (a j : Nat) (bs : List Byte) (h : j < a ∨ a + bs.length ≤ j) :
    Memory.get (Memory.put m a bs) j = Memory.get m j := by
  rw [Memory.get_put, if_neg (by omega)]

theorem Memory.get_put_inside (m : List Host.Cell) (a i : Nat) (bs : List Byte) (h : i < bs.length) :
    Memory.get (Memory.put m a bs) (a + i) = bs.getD i 0 := by
  rw [Memory.get_put, if_pos (by omega), Nat.add_sub_cancel_left]

theorem Memory.wf_set (m : List Host.Cell) (a : Nat) (b : Byte) (h : Memory.wf m = true) :
    Memory.wf (Memory.set m a b) = true := mwf_mset 0 m a b h

theorem Memory.wf_put (m : List Host.Cell) (a : Nat) (bs : List Byte) (h : Memory.wf m = true) :
    Memory.wf (Memory.put m a bs) = true := by
  induction bs generalizing m a with
  | nil => exact h
  | cons b r ih => exact ih _ _ (Memory.wf_set m a b h)

/-- Any memory put into canonical form is in it. -/
theorem Memory.wf_canon (m : List Host.Cell) : Memory.wf (Memory.canon m) = true := by
  unfold Memory.canon
  split
  · assumption
  · clear * -
    induction m with
    | nil => rfl
    | cons c r ih => exact Memory.wf_set _ _ _ ih

/-- Putting a memory into canonical form changes no byte of it. -/
@[simp] theorem Memory.get_canon (m : List Host.Cell) (a : Nat) : Memory.get (Memory.canon m) a = Memory.get m a := by
  unfold Memory.canon
  split
  · rfl
  · clear * -
    induction m with
    | nil => rfl
    | cons c r ih =>
      obtain ⟨k, b⟩ := c
      simp only [List.foldr_cons]
      rw [Memory.get_set, ih]
      simp only [Memory.get, mget, eq_comm]

/-- A memory in canonical form is left as it is. -/
theorem Memory.canon_of_wf (m : List Host.Cell) (h : Memory.wf m = true) : Memory.canon m = m := by
  simp [Memory.canon, h]

/-- Equal contents are equal data. -/
theorem Memory.ext_of_wf (m n : List Host.Cell) (hm : Memory.wf m = true) (hn : Memory.wf n = true)
    (h : ∀ a, Memory.get m a = Memory.get n a) : m = n := mwf_ext 0 m n hm hn h

theorem Memory.wf_reset : Memory.wf State.reset.mem = true := rfl

/-! ### The outcome of a command -/

/-- A command that ends with `done` answers a next state, whose memory is canonical and reads as before. -/
theorem done_next (s : State) : done s = .next { s with mem := Memory.canon s.mem } := rfl

theorem done_sound (s t : State) (h : done s = .next t) : t.Sound := by
  cases h
  exact Memory.wf_canon s.mem

theorem done_get (s t : State) (h : done s = .next t) (a : Nat) : Memory.get t.mem a = Memory.get s.mem a := by
  cases h
  exact Memory.get_canon s.mem a

theorem done_of_wf (s : State) (h : Memory.wf s.mem = true) : done s = .next s := by
  rw [done_next, Memory.canon_of_wf s.mem h]

/-! ### Runs of bytes and numbers -/

@[simp] theorem leBytes_length (n v : Nat) : (leBytes n v).length = n := by
  induction n generalizing v with
  | zero => rfl
  | succ n ih => simp [leBytes, ih]

/-- A number written little-endian is read back, modulo the bytes it has. -/
theorem leNat_leBytes (n v : Nat) : leNat (leBytes n v) = v % 2 ^ (8 * n) := by
  induction n generalizing v with
  | zero => simp [leBytes, leNat, Nat.mod_one]
  | succ n ih =>
    simp only [leBytes, leNat, ih]
    rw [show 2 ^ (8 * (n + 1)) = 256 * 2 ^ (8 * n) by rw [Nat.mul_add, Nat.pow_add]; omega, Nat.mod_mul]
    simp

theorem leBytes_leNat (bs : List Byte) : leBytes bs.length (leNat bs) = bs := by
  induction bs with
  | nil => rfl
  | cons b r ih =>
    simp only [List.length_cons, leBytes, leNat]
    have hb := b.isLt
    rw [show (b.toNat + 256 * leNat r) / 256 = leNat r by omega, ih]
    congr 1
    apply BitVec.eq_of_toNat_eq
    simp
    omega

theorem leNat_lt (bs : List Byte) : leNat bs < 2 ^ (8 * bs.length) := by
  induction bs with
  | nil => simp [leNat]
  | cons b r ih =>
    simp only [leNat, List.length_cons]
    have hb := b.isLt
    rw [show 2 ^ (8 * (r.length + 1)) = 256 * 2 ^ (8 * r.length) by rw [Nat.mul_add, Nat.pow_add]; omega]
    omega

@[simp] theorem State.bytesAt_length (s : State) (a n : Nat) : (s.bytesAt a n).length = n := by simp [State.bytesAt]

theorem State.putBytes_get (s : State) (a j : Nat) (bs : List Byte) :
    Memory.get (s.putBytes a bs).mem j =
      if a ≤ j ∧ j < a + bs.length then bs.getD (j - a) 0 else Memory.get s.mem j := Memory.get_put s.mem a j bs

theorem State.putBytes_wf (s : State) (a : Nat) (bs : List Byte) (h : Memory.wf s.mem = true) :
    Memory.wf (s.putBytes a bs).mem = true := Memory.wf_put s.mem a bs h

theorem State.zeroRange_get (s : State) (a n j : Nat) :
    Memory.get (s.zeroRange a n).mem j = if a ≤ j ∧ j < a + n then 0 else Memory.get s.mem j :=
  mget_mclear s.mem a (a + n) j 0

theorem State.zeroRange_wf (s : State) (a n : Nat) (h : Memory.wf s.mem = true) :
    Memory.wf (s.zeroRange a n).mem = true := mwf_mclear 0 s.mem a (a + n) h

/-- A run of bytes is read as it was written. -/
theorem State.bytesAt_putBytes (s : State) (a : Nat) (bs : List Byte) : (s.putBytes a bs).bytesAt a bs.length = bs := by
  apply List.ext_getElem
  · simp
  · intro i h1 h2
    simp only [State.bytesAt, List.getElem_map, List.getElem_range]
    rw [State.putBytes_get, if_pos (by omega), Nat.add_sub_cancel_left]
    simp [h2]

theorem State.numAt_putNum (s : State) (a n v : Nat) : (s.putNum a n v).numAt a n = v % 2 ^ (8 * n) := by
  unfold State.numAt State.putNum
  have h := State.bytesAt_putBytes s a (leBytes n v)
  rw [leBytes_length] at h
  rw [h, leNat_leBytes]

/-- Runs that do not meet the bytes written read as before. -/
theorem State.bytesAt_putBytes_outside (s : State) (a b n : Nat) (bs : List Byte) (h : b + n ≤ a ∨ a + bs.length ≤ b) :
    (s.putBytes a bs).bytesAt b n = s.bytesAt b n := by
  unfold State.bytesAt
  apply List.map_congr_left
  intro i hi
  rw [List.mem_range] at hi
  rw [State.putBytes_get, if_neg (by omega)]

theorem State.numAt_putNum_outside (s : State) (a n v b k : Nat) (h : b + k ≤ a ∨ a + n ≤ b) :
    (s.putNum a n v).numAt b k = s.numAt b k := by
  unfold State.numAt State.putNum
  rw [State.bytesAt_putBytes_outside s a b k _ (by simpa using h)]

end Sys2Proof.Machine
end

