-- ==== Sys2Proof/Laws/State.lean ====
section
/-!
SUPPORT. Laws of State: for each operation that writes the state directly, every field that it leaves as it is, and what a
register field reads as after a write.
-/
namespace Sys2Proof.Machine

/-! ### Register fields -/

@[simp] theorem State.rd_wr_same (s : State) (u : Nat) (f : Field) (v : Nat) : (s.wr u f v).rd u f = v % 2 ^ f.width :=
  mget_mset_same f.reset s.regs (fieldKey u f) (v % 2 ^ f.width)

/-- A field of another key reads as before. -/
theorem State.rd_wr_other (s : State) (u w : Nat) (f g : Field) (v : Nat) (h : fieldKey w g ≠ fieldKey u f) :
    (s.wr u f v).rd w g = s.rd w g := mget_mset_ne f.reset g.reset s.regs (v % 2 ^ f.width) h

theorem State.rd_bump_other (s : State) (u w : Nat) (f g : Field) (n : Nat) (h : fieldKey w g ≠ fieldKey u f) :
    (s.bump u f n).rd w g = s.rd w g := State.rd_wr_other s u w f g _ h

theorem State.rd_wrB_other (s : State) (u w : Nat) (f g : Field) (b : Bool) (h : fieldKey w g ≠ fieldKey u f) :
    (s.wrB u f b).rd w g = s.rd w g := State.rd_wr_other s u w f g _ h

/-- A counter stops at its largest value (R14). -/
theorem State.rd_bump_same (s : State) (u : Nat) (f : Field) (n : Nat) :
    (s.bump u f n).rd u f = Nat.min (s.rd u f + n) (2 ^ f.width - 1) := by
  unfold State.bump satAdd
  rw [State.rd_wr_same]
  exact Nat.mod_eq_of_lt (Nat.lt_of_le_of_lt (Nat.min_le_right _ _) (Nat.sub_lt (Nat.two_pow_pos _) Nat.one_pos))

/-- Keys tell units, offsets and places apart, within the 24 bits of an offset and the 5 of a place. -/
theorem fieldKey_inj (u w : Nat) (f g : Field) (hf : f.off < 2 ^ 24) (hg : g.off < 2 ^ 24) (hl : f.lo < 32)
    (hk : g.lo < 32) (h : fieldKey u f = fieldKey w g) : u = w ∧ f.off = g.off ∧ f.lo = g.lo := by
  unfold fieldKey at h
  omega

/-- Every field of a unit that is reset reads as at reset, and a field of any other unit as before. -/
theorem State.rd_resetUnit (s : State) (u w : Nat) (f : Field) (hf : f.off < 2 ^ 24) (hl : f.lo < 32) :
    (s.resetUnit u).rd w f = if w = u then f.reset else s.rd w f := by
  unfold State.rd State.resetUnit
  rw [mget_mclear]
  unfold fieldKey
  by_cases h : w = u
  · subst h
    rw [if_pos (by omega), if_pos rfl]
  · rw [if_neg (by omega), if_neg h]

/-! ### Cores -/

@[simp] theorem State.core_setCore_same (s : State) (die core : Nat) (c : CoreSt) :
    (s.setCore die core c).core die core = c := mget_mset_same {} s.cores (die * 16 + core) c

theorem State.core_setCore_other (s : State) (d k die core : Nat) (c : CoreSt) (h : d * 16 + k ≠ die * 16 + core) :
    (s.setCore die core c).core d k = s.core d k := mget_mset_other ({} : CoreSt) s.cores c h

/-! ### Fields that stay -/

/-! `State.wr` changes `regs` alone. -/

@[simp] theorem State.wr_mem (s : State) (u : Nat) (f : Field) (v : Nat) : (s.wr u f v).mem = s.mem := rfl
@[simp] theorem State.wr_ecc (s : State) (u : Nat) (f : Field) (v : Nat) : (s.wr u f v).ecc = s.ecc := rfl
@[simp] theorem State.wr_net (s : State) (u : Nat) (f : Field) (v : Nat) : (s.wr u f v).net = s.net := rfl
@[simp] theorem State.wr_cores (s : State) (u : Nat) (f : Field) (v : Nat) : (s.wr u f v).cores = s.cores := rfl
@[simp] theorem State.wr_gmes (s : State) (u : Nat) (f : Field) (v : Nat) : (s.wr u f v).gmes = s.gmes := rfl
@[simp] theorem State.wr_arbs (s : State) (u : Nat) (f : Field) (v : Nat) : (s.wr u f v).arbs = s.arbs := rfl
@[simp] theorem State.wr_tus (s : State) (u : Nat) (f : Field) (v : Nat) : (s.wr u f v).tus = s.tus := rfl
@[simp] theorem State.wr_ports (s : State) (u : Nat) (f : Field) (v : Nat) : (s.wr u f v).ports = s.ports := rfl
@[simp] theorem State.wr_routes (s : State) (u : Nat) (f : Field) (v : Nat) : (s.wr u f v).routes = s.routes := rfl
@[simp] theorem State.wr_disc (s : State) (u : Nat) (f : Field) (v : Nat) : (s.wr u f v).disc = s.disc := rfl
@[simp] theorem State.wr_awaiting (s : State) (u : Nat) (f : Field) (v : Nat) : (s.wr u f v).awaiting = s.awaiting := rfl
@[simp] theorem State.wr_patrol (s : State) (u : Nat) (f : Field) (v : Nat) : (s.wr u f v).patrol = s.patrol := rfl
@[simp] theorem State.wr_heldTx (s : State) (u : Nat) (f : Field) (v : Nat) : (s.wr u f v).heldTx = s.heldTx := rfl
@[simp] theorem State.wr_apps (s : State) (u : Nat) (f : Field) (v : Nat) : (s.wr u f v).apps = s.apps := rfl
@[simp] theorem State.wr_groups (s : State) (u : Nat) (f : Field) (v : Nat) : (s.wr u f v).groups = s.groups := rfl
@[simp] theorem State.wr_stqs (s : State) (u : Nat) (f : Field) (v : Nat) : (s.wr u f v).stqs = s.stqs := rfl
@[simp] theorem State.wr_red (s : State) (u : Nat) (f : Field) (v : Nat) : (s.wr u f v).red = s.red := rfl
@[simp] theorem State.wr_ues (s : State) (u : Nat) (f : Field) (v : Nat) : (s.wr u f v).ues = s.ues := rfl
@[simp] theorem State.wr_streams (s : State) (u : Nat) (f : Field) (v : Nat) : (s.wr u f v).streams = s.streams := rfl
@[simp] theorem State.wr_qps (s : State) (u : Nat) (f : Field) (v : Nat) : (s.wr u f v).qps = s.qps := rfl
@[simp] theorem State.wr_eths (s : State) (u : Nat) (f : Field) (v : Nat) : (s.wr u f v).eths = s.eths := rfl
@[simp] theorem State.wr_arrivals (s : State) (u : Nat) (f : Field) (v : Nat) : (s.wr u f v).arrivals = s.arrivals := rfl
@[simp] theorem State.wr_auLog (s : State) (u : Nat) (f : Field) (v : Nat) : (s.wr u f v).auLog = s.auLog := rfl
@[simp] theorem State.wr_bridge (s : State) (u : Nat) (f : Field) (v : Nat) : (s.wr u f v).bridge = s.bridge := rfl
@[simp] theorem State.wr_rcv (s : State) (u : Nat) (f : Field) (v : Nat) : (s.wr u f v).rcv = s.rcv := rfl
@[simp] theorem State.wr_dkr (s : State) (u : Nat) (f : Field) (v : Nat) : (s.wr u f v).dkr = s.dkr := rfl
@[simp] theorem State.wr_sb (s : State) (u : Nat) (f : Field) (v : Nat) : (s.wr u f v).sb = s.sb := rfl
@[simp] theorem State.wr_tap (s : State) (u : Nat) (f : Field) (v : Nat) : (s.wr u f v).tap = s.tap := rfl
@[simp] theorem State.wr_pwr (s : State) (u : Nat) (f : Field) (v : Nat) : (s.wr u f v).pwr = s.pwr := rfl
@[simp] theorem State.wr_pcie (s : State) (u : Nat) (f : Field) (v : Nat) : (s.wr u f v).pcie = s.pcie := rfl
@[simp] theorem State.wr_provId (s : State) (u : Nat) (f : Field) (v : Nat) : (s.wr u f v).provId = s.provId := rfl
@[simp] theorem State.wr_fwVer (s : State) (u : Nat) (f : Field) (v : Nat) : (s.wr u f v).fwVer = s.fwVer := rfl
@[simp] theorem State.wr_log (s : State) (u : Nat) (f : Field) (v : Nat) : (s.wr u f v).log = s.log := rfl
@[simp] theorem State.wr_job (s : State) (u : Nat) (f : Field) (v : Nat) : (s.wr u f v).job = s.job := rfl
@[simp] theorem State.wr_fix (s : State) (u : Nat) (f : Field) (v : Nat) : (s.wr u f v).fix = s.fix := rfl
@[simp] theorem State.wr_ck (s : State) (u : Nat) (f : Field) (v : Nat) : (s.wr u f v).ck = s.ck := rfl
@[simp] theorem State.wr_kpr (s : State) (u : Nat) (f : Field) (v : Nat) : (s.wr u f v).kpr = s.kpr := rfl
@[simp] theorem State.wr_sheets (s : State) (u : Nat) (f : Field) (v : Nat) : (s.wr u f v).sheets = s.sheets := rfl
@[simp] theorem State.wr_scrubQ (s : State) (u : Nat) (f : Field) (v : Nat) : (s.wr u f v).scrubQ = s.scrubQ := rfl
@[simp] theorem State.wr_gshift (s : State) (u : Nat) (f : Field) (v : Nat) : (s.wr u f v).gshift = s.gshift := rfl
@[simp] theorem State.wr_out (s : State) (u : Nat) (f : Field) (v : Nat) : (s.wr u f v).out = s.out := rfl
@[simp] theorem State.wr_free (s : State) (u : Nat) (f : Field) (v : Nat) : (s.wr u f v).free = s.free := rfl
@[simp] theorem State.wr_pending (s : State) (u : Nat) (f : Field) (v : Nat) : (s.wr u f v).pending = s.pending := rfl
@[simp] theorem State.wr_bytesAt (s : State) (u : Nat) (f : Field) (v : Nat) (base cnt : Nat) :
    (s.wr u f v).bytesAt base cnt = s.bytesAt base cnt := rfl
@[simp] theorem State.wr_numAt (s : State) (u : Nat) (f : Field) (v : Nat) (base cnt : Nat) :
    (s.wr u f v).numAt base cnt = s.numAt base cnt := rfl

/-! `State.bump` changes `regs` alone. -/

@[simp] theorem State.bump_mem (s : State) (u : Nat) (f : Field) (n : Nat) : (s.bump u f n).mem = s.mem := rfl
@[simp] theorem State.bump_ecc (s : State) (u : Nat) (f : Field) (n : Nat) : (s.bump u f n).ecc = s.ecc := rfl
@[simp] theorem State.bump_net (s : State) (u : Nat) (f : Field) (n : Nat) : (s.bump u f n).net = s.net := rfl
@[simp] theorem State.bump_cores (s : State) (u : Nat) (f : Field) (n : Nat) : (s.bump u f n).cores = s.cores := rfl
@[simp] theorem State.bump_gmes (s : State) (u : Nat) (f : Field) (n : Nat) : (s.bump u f n).gmes = s.gmes := rfl
@[simp] theorem State.bump_arbs (s : State) (u : Nat) (f : Field) (n : Nat) : (s.bump u f n).arbs = s.arbs := rfl
@[simp] theorem State.bump_tus (s : State) (u : Nat) (f : Field) (n : Nat) : (s.bump u f n).tus = s.tus := rfl
@[simp] theorem State.bump_ports (s : State) (u : Nat) (f : Field) (n : Nat) : (s.bump u f n).ports = s.ports := rfl
@[simp] theorem State.bump_routes (s : State) (u : Nat) (f : Field) (n : Nat) : (s.bump u f n).routes = s.routes := rfl
@[simp] theorem State.bump_disc (s : State) (u : Nat) (f : Field) (n : Nat) : (s.bump u f n).disc = s.disc := rfl
@[simp] theorem State.bump_awaiting (s : State) (u : Nat) (f : Field) (n : Nat) : (s.bump u f n).awaiting = s.awaiting := rfl
@[simp] theorem State.bump_patrol (s : State) (u : Nat) (f : Field) (n : Nat) : (s.bump u f n).patrol = s.patrol := rfl
@[simp] theorem State.bump_heldTx (s : State) (u : Nat) (f : Field) (n : Nat) : (s.bump u f n).heldTx = s.heldTx := rfl
@[simp] theorem State.bump_apps (s : State) (u : Nat) (f : Field) (n : Nat) : (s.bump u f n).apps = s.apps := rfl
@[simp] theorem State.bump_groups (s : State) (u : Nat) (f : Field) (n : Nat) : (s.bump u f n).groups = s.groups := rfl
@[simp] theorem State.bump_stqs (s : State) (u : Nat) (f : Field) (n : Nat) : (s.bump u f n).stqs = s.stqs := rfl
@[simp] theorem State.bump_red (s : State) (u : Nat) (f : Field) (n : Nat) : (s.bump u f n).red = s.red := rfl
@[simp] theorem State.bump_ues (s : State) (u : Nat) (f : Field) (n : Nat) : (s.bump u f n).ues = s.ues := rfl
@[simp] theorem State.bump_streams (s : State) (u : Nat) (f : Field) (n : Nat) : (s.bump u f n).streams = s.streams := rfl
@[simp] theorem State.bump_qps (s : State) (u : Nat) (f : Field) (n : Nat) : (s.bump u f n).qps = s.qps := rfl
@[simp] theorem State.bump_eths (s : State) (u : Nat) (f : Field) (n : Nat) : (s.bump u f n).eths = s.eths := rfl
@[simp] theorem State.bump_arrivals (s : State) (u : Nat) (f : Field) (n : Nat) : (s.bump u f n).arrivals = s.arrivals := rfl
@[simp] theorem State.bump_auLog (s : State) (u : Nat) (f : Field) (n : Nat) : (s.bump u f n).auLog = s.auLog := rfl
@[simp] theorem State.bump_bridge (s : State) (u : Nat) (f : Field) (n : Nat) : (s.bump u f n).bridge = s.bridge := rfl
@[simp] theorem State.bump_rcv (s : State) (u : Nat) (f : Field) (n : Nat) : (s.bump u f n).rcv = s.rcv := rfl
@[simp] theorem State.bump_dkr (s : State) (u : Nat) (f : Field) (n : Nat) : (s.bump u f n).dkr = s.dkr := rfl
@[simp] theorem State.bump_sb (s : State) (u : Nat) (f : Field) (n : Nat) : (s.bump u f n).sb = s.sb := rfl
@[simp] theorem State.bump_tap (s : State) (u : Nat) (f : Field) (n : Nat) : (s.bump u f n).tap = s.tap := rfl
@[simp] theorem State.bump_pwr (s : State) (u : Nat) (f : Field) (n : Nat) : (s.bump u f n).pwr = s.pwr := rfl
@[simp] theorem State.bump_pcie (s : State) (u : Nat) (f : Field) (n : Nat) : (s.bump u f n).pcie = s.pcie := rfl
@[simp] theorem State.bump_provId (s : State) (u : Nat) (f : Field) (n : Nat) : (s.bump u f n).provId = s.provId := rfl
@[simp] theorem State.bump_fwVer (s : State) (u : Nat) (f : Field) (n : Nat) : (s.bump u f n).fwVer = s.fwVer := rfl
@[simp] theorem State.bump_log (s : State) (u : Nat) (f : Field) (n : Nat) : (s.bump u f n).log = s.log := rfl
@[simp] theorem State.bump_job (s : State) (u : Nat) (f : Field) (n : Nat) : (s.bump u f n).job = s.job := rfl
@[simp] theorem State.bump_fix (s : State) (u : Nat) (f : Field) (n : Nat) : (s.bump u f n).fix = s.fix := rfl
@[simp] theorem State.bump_ck (s : State) (u : Nat) (f : Field) (n : Nat) : (s.bump u f n).ck = s.ck := rfl
@[simp] theorem State.bump_kpr (s : State) (u : Nat) (f : Field) (n : Nat) : (s.bump u f n).kpr = s.kpr := rfl
@[simp] theorem State.bump_sheets (s : State) (u : Nat) (f : Field) (n : Nat) : (s.bump u f n).sheets = s.sheets := rfl
@[simp] theorem State.bump_scrubQ (s : State) (u : Nat) (f : Field) (n : Nat) : (s.bump u f n).scrubQ = s.scrubQ := rfl
@[simp] theorem State.bump_gshift (s : State) (u : Nat) (f : Field) (n : Nat) : (s.bump u f n).gshift = s.gshift := rfl
@[simp] theorem State.bump_out (s : State) (u : Nat) (f : Field) (n : Nat) : (s.bump u f n).out = s.out := rfl
@[simp] theorem State.bump_free (s : State) (u : Nat) (f : Field) (n : Nat) : (s.bump u f n).free = s.free := rfl
@[simp] theorem State.bump_pending (s : State) (u : Nat) (f : Field) (n : Nat) : (s.bump u f n).pending = s.pending := rfl
@[simp] theorem State.bump_bytesAt (s : State) (u : Nat) (f : Field) (n : Nat) (base cnt : Nat) :
    (s.bump u f n).bytesAt base cnt = s.bytesAt base cnt := rfl
@[simp] theorem State.bump_numAt (s : State) (u : Nat) (f : Field) (n : Nat) (base cnt : Nat) :
    (s.bump u f n).numAt base cnt = s.numAt base cnt := rfl

/-! `State.wrB` changes `regs` alone. -/

@[simp] theorem State.wrB_mem (s : State) (u : Nat) (f : Field) (b : Bool) : (s.wrB u f b).mem = s.mem := rfl
@[simp] theorem State.wrB_ecc (s : State) (u : Nat) (f : Field) (b : Bool) : (s.wrB u f b).ecc = s.ecc := rfl
@[simp] theorem State.wrB_net (s : State) (u : Nat) (f : Field) (b : Bool) : (s.wrB u f b).net = s.net := rfl
@[simp] theorem State.wrB_cores (s : State) (u : Nat) (f : Field) (b : Bool) : (s.wrB u f b).cores = s.cores := rfl
@[simp] theorem State.wrB_gmes (s : State) (u : Nat) (f : Field) (b : Bool) : (s.wrB u f b).gmes = s.gmes := rfl
@[simp] theorem State.wrB_arbs (s : State) (u : Nat) (f : Field) (b : Bool) : (s.wrB u f b).arbs = s.arbs := rfl
@[simp] theorem State.wrB_tus (s : State) (u : Nat) (f : Field) (b : Bool) : (s.wrB u f b).tus = s.tus := rfl
@[simp] theorem State.wrB_ports (s : State) (u : Nat) (f : Field) (b : Bool) : (s.wrB u f b).ports = s.ports := rfl
@[simp] theorem State.wrB_routes (s : State) (u : Nat) (f : Field) (b : Bool) : (s.wrB u f b).routes = s.routes := rfl
@[simp] theorem State.wrB_disc (s : State) (u : Nat) (f : Field) (b : Bool) : (s.wrB u f b).disc = s.disc := rfl
@[simp] theorem State.wrB_awaiting (s : State) (u : Nat) (f : Field) (b : Bool) : (s.wrB u f b).awaiting = s.awaiting := rfl
@[simp] theorem State.wrB_patrol (s : State) (u : Nat) (f : Field) (b : Bool) : (s.wrB u f b).patrol = s.patrol := rfl
@[simp] theorem State.wrB_heldTx (s : State) (u : Nat) (f : Field) (b : Bool) : (s.wrB u f b).heldTx = s.heldTx := rfl
@[simp] theorem State.wrB_apps (s : State) (u : Nat) (f : Field) (b : Bool) : (s.wrB u f b).apps = s.apps := rfl
@[simp] theorem State.wrB_groups (s : State) (u : Nat) (f : Field) (b : Bool) : (s.wrB u f b).groups = s.groups := rfl
@[simp] theorem State.wrB_stqs (s : State) (u : Nat) (f : Field) (b : Bool) : (s.wrB u f b).stqs = s.stqs := rfl
@[simp] theorem State.wrB_red (s : State) (u : Nat) (f : Field) (b : Bool) : (s.wrB u f b).red = s.red := rfl
@[simp] theorem State.wrB_ues (s : State) (u : Nat) (f : Field) (b : Bool) : (s.wrB u f b).ues = s.ues := rfl
@[simp] theorem State.wrB_streams (s : State) (u : Nat) (f : Field) (b : Bool) : (s.wrB u f b).streams = s.streams := rfl
@[simp] theorem State.wrB_qps (s : State) (u : Nat) (f : Field) (b : Bool) : (s.wrB u f b).qps = s.qps := rfl
@[simp] theorem State.wrB_eths (s : State) (u : Nat) (f : Field) (b : Bool) : (s.wrB u f b).eths = s.eths := rfl
@[simp] theorem State.wrB_arrivals (s : State) (u : Nat) (f : Field) (b : Bool) : (s.wrB u f b).arrivals = s.arrivals := rfl
@[simp] theorem State.wrB_auLog (s : State) (u : Nat) (f : Field) (b : Bool) : (s.wrB u f b).auLog = s.auLog := rfl
@[simp] theorem State.wrB_bridge (s : State) (u : Nat) (f : Field) (b : Bool) : (s.wrB u f b).bridge = s.bridge := rfl
@[simp] theorem State.wrB_rcv (s : State) (u : Nat) (f : Field) (b : Bool) : (s.wrB u f b).rcv = s.rcv := rfl
@[simp] theorem State.wrB_dkr (s : State) (u : Nat) (f : Field) (b : Bool) : (s.wrB u f b).dkr = s.dkr := rfl
@[simp] theorem State.wrB_sb (s : State) (u : Nat) (f : Field) (b : Bool) : (s.wrB u f b).sb = s.sb := rfl
@[simp] theorem State.wrB_tap (s : State) (u : Nat) (f : Field) (b : Bool) : (s.wrB u f b).tap = s.tap := rfl
@[simp] theorem State.wrB_pwr (s : State) (u : Nat) (f : Field) (b : Bool) : (s.wrB u f b).pwr = s.pwr := rfl
@[simp] theorem State.wrB_pcie (s : State) (u : Nat) (f : Field) (b : Bool) : (s.wrB u f b).pcie = s.pcie := rfl
@[simp] theorem State.wrB_provId (s : State) (u : Nat) (f : Field) (b : Bool) : (s.wrB u f b).provId = s.provId := rfl
@[simp] theorem State.wrB_fwVer (s : State) (u : Nat) (f : Field) (b : Bool) : (s.wrB u f b).fwVer = s.fwVer := rfl
@[simp] theorem State.wrB_log (s : State) (u : Nat) (f : Field) (b : Bool) : (s.wrB u f b).log = s.log := rfl
@[simp] theorem State.wrB_job (s : State) (u : Nat) (f : Field) (b : Bool) : (s.wrB u f b).job = s.job := rfl
@[simp] theorem State.wrB_fix (s : State) (u : Nat) (f : Field) (b : Bool) : (s.wrB u f b).fix = s.fix := rfl
@[simp] theorem State.wrB_ck (s : State) (u : Nat) (f : Field) (b : Bool) : (s.wrB u f b).ck = s.ck := rfl
@[simp] theorem State.wrB_kpr (s : State) (u : Nat) (f : Field) (b : Bool) : (s.wrB u f b).kpr = s.kpr := rfl
@[simp] theorem State.wrB_sheets (s : State) (u : Nat) (f : Field) (b : Bool) : (s.wrB u f b).sheets = s.sheets := rfl
@[simp] theorem State.wrB_scrubQ (s : State) (u : Nat) (f : Field) (b : Bool) : (s.wrB u f b).scrubQ = s.scrubQ := rfl
@[simp] theorem State.wrB_gshift (s : State) (u : Nat) (f : Field) (b : Bool) : (s.wrB u f b).gshift = s.gshift := rfl
@[simp] theorem State.wrB_out (s : State) (u : Nat) (f : Field) (b : Bool) : (s.wrB u f b).out = s.out := rfl
@[simp] theorem State.wrB_free (s : State) (u : Nat) (f : Field) (b : Bool) : (s.wrB u f b).free = s.free := rfl
@[simp] theorem State.wrB_pending (s : State) (u : Nat) (f : Field) (b : Bool) : (s.wrB u f b).pending = s.pending := rfl
@[simp] theorem State.wrB_bytesAt (s : State) (u : Nat) (f : Field) (b : Bool) (base cnt : Nat) :
    (s.wrB u f b).bytesAt base cnt = s.bytesAt base cnt := rfl
@[simp] theorem State.wrB_numAt (s : State) (u : Nat) (f : Field) (b : Bool) (base cnt : Nat) :
    (s.wrB u f b).numAt base cnt = s.numAt base cnt := rfl

/-! `State.wrReset` changes `regs` alone. -/

@[simp] theorem State.wrReset_mem (s : State) (u : Nat) (f : Field) : (s.wrReset u f).mem = s.mem := rfl
@[simp] theorem State.wrReset_ecc (s : State) (u : Nat) (f : Field) : (s.wrReset u f).ecc = s.ecc := rfl
@[simp] theorem State.wrReset_net (s : State) (u : Nat) (f : Field) : (s.wrReset u f).net = s.net := rfl
@[simp] theorem State.wrReset_cores (s : State) (u : Nat) (f : Field) : (s.wrReset u f).cores = s.cores := rfl
@[simp] theorem State.wrReset_gmes (s : State) (u : Nat) (f : Field) : (s.wrReset u f).gmes = s.gmes := rfl
@[simp] theorem State.wrReset_arbs (s : State) (u : Nat) (f : Field) : (s.wrReset u f).arbs = s.arbs := rfl
@[simp] theorem State.wrReset_tus (s : State) (u : Nat) (f : Field) : (s.wrReset u f).tus = s.tus := rfl
@[simp] theorem State.wrReset_ports (s : State) (u : Nat) (f : Field) : (s.wrReset u f).ports = s.ports := rfl
@[simp] theorem State.wrReset_routes (s : State) (u : Nat) (f : Field) : (s.wrReset u f).routes = s.routes := rfl
@[simp] theorem State.wrReset_disc (s : State) (u : Nat) (f : Field) : (s.wrReset u f).disc = s.disc := rfl
@[simp] theorem State.wrReset_awaiting (s : State) (u : Nat) (f : Field) : (s.wrReset u f).awaiting = s.awaiting := rfl
@[simp] theorem State.wrReset_patrol (s : State) (u : Nat) (f : Field) : (s.wrReset u f).patrol = s.patrol := rfl
@[simp] theorem State.wrReset_heldTx (s : State) (u : Nat) (f : Field) : (s.wrReset u f).heldTx = s.heldTx := rfl
@[simp] theorem State.wrReset_apps (s : State) (u : Nat) (f : Field) : (s.wrReset u f).apps = s.apps := rfl
@[simp] theorem State.wrReset_groups (s : State) (u : Nat) (f : Field) : (s.wrReset u f).groups = s.groups := rfl
@[simp] theorem State.wrReset_stqs (s : State) (u : Nat) (f : Field) : (s.wrReset u f).stqs = s.stqs := rfl
@[simp] theorem State.wrReset_red (s : State) (u : Nat) (f : Field) : (s.wrReset u f).red = s.red := rfl
@[simp] theorem State.wrReset_ues (s : State) (u : Nat) (f : Field) : (s.wrReset u f).ues = s.ues := rfl
@[simp] theorem State.wrReset_streams (s : State) (u : Nat) (f : Field) : (s.wrReset u f).streams = s.streams := rfl
@[simp] theorem State.wrReset_qps (s : State) (u : Nat) (f : Field) : (s.wrReset u f).qps = s.qps := rfl
@[simp] theorem State.wrReset_eths (s : State) (u : Nat) (f : Field) : (s.wrReset u f).eths = s.eths := rfl
@[simp] theorem State.wrReset_arrivals (s : State) (u : Nat) (f : Field) : (s.wrReset u f).arrivals = s.arrivals := rfl
@[simp] theorem State.wrReset_auLog (s : State) (u : Nat) (f : Field) : (s.wrReset u f).auLog = s.auLog := rfl
@[simp] theorem State.wrReset_bridge (s : State) (u : Nat) (f : Field) : (s.wrReset u f).bridge = s.bridge := rfl
@[simp] theorem State.wrReset_rcv (s : State) (u : Nat) (f : Field) : (s.wrReset u f).rcv = s.rcv := rfl
@[simp] theorem State.wrReset_dkr (s : State) (u : Nat) (f : Field) : (s.wrReset u f).dkr = s.dkr := rfl
@[simp] theorem State.wrReset_sb (s : State) (u : Nat) (f : Field) : (s.wrReset u f).sb = s.sb := rfl
@[simp] theorem State.wrReset_tap (s : State) (u : Nat) (f : Field) : (s.wrReset u f).tap = s.tap := rfl
@[simp] theorem State.wrReset_pwr (s : State) (u : Nat) (f : Field) : (s.wrReset u f).pwr = s.pwr := rfl
@[simp] theorem State.wrReset_pcie (s : State) (u : Nat) (f : Field) : (s.wrReset u f).pcie = s.pcie := rfl
@[simp] theorem State.wrReset_provId (s : State) (u : Nat) (f : Field) : (s.wrReset u f).provId = s.provId := rfl
@[simp] theorem State.wrReset_fwVer (s : State) (u : Nat) (f : Field) : (s.wrReset u f).fwVer = s.fwVer := rfl
@[simp] theorem State.wrReset_log (s : State) (u : Nat) (f : Field) : (s.wrReset u f).log = s.log := rfl
@[simp] theorem State.wrReset_job (s : State) (u : Nat) (f : Field) : (s.wrReset u f).job = s.job := rfl
@[simp] theorem State.wrReset_fix (s : State) (u : Nat) (f : Field) : (s.wrReset u f).fix = s.fix := rfl
@[simp] theorem State.wrReset_ck (s : State) (u : Nat) (f : Field) : (s.wrReset u f).ck = s.ck := rfl
@[simp] theorem State.wrReset_kpr (s : State) (u : Nat) (f : Field) : (s.wrReset u f).kpr = s.kpr := rfl
@[simp] theorem State.wrReset_sheets (s : State) (u : Nat) (f : Field) : (s.wrReset u f).sheets = s.sheets := rfl
@[simp] theorem State.wrReset_scrubQ (s : State) (u : Nat) (f : Field) : (s.wrReset u f).scrubQ = s.scrubQ := rfl
@[simp] theorem State.wrReset_gshift (s : State) (u : Nat) (f : Field) : (s.wrReset u f).gshift = s.gshift := rfl
@[simp] theorem State.wrReset_out (s : State) (u : Nat) (f : Field) : (s.wrReset u f).out = s.out := rfl
@[simp] theorem State.wrReset_free (s : State) (u : Nat) (f : Field) : (s.wrReset u f).free = s.free := rfl
@[simp] theorem State.wrReset_pending (s : State) (u : Nat) (f : Field) : (s.wrReset u f).pending = s.pending := rfl
@[simp] theorem State.wrReset_bytesAt (s : State) (u : Nat) (f : Field) (base cnt : Nat) :
    (s.wrReset u f).bytesAt base cnt = s.bytesAt base cnt := rfl
@[simp] theorem State.wrReset_numAt (s : State) (u : Nat) (f : Field) (base cnt : Nat) :
    (s.wrReset u f).numAt base cnt = s.numAt base cnt := rfl

/-! `State.resetUnit` changes `regs` alone. -/

@[simp] theorem State.resetUnit_mem (s : State) (u : Nat) : (s.resetUnit u).mem = s.mem := rfl
@[simp] theorem State.resetUnit_ecc (s : State) (u : Nat) : (s.resetUnit u).ecc = s.ecc := rfl
@[simp] theorem State.resetUnit_net (s : State) (u : Nat) : (s.resetUnit u).net = s.net := rfl
@[simp] theorem State.resetUnit_cores (s : State) (u : Nat) : (s.resetUnit u).cores = s.cores := rfl
@[simp] theorem State.resetUnit_gmes (s : State) (u : Nat) : (s.resetUnit u).gmes = s.gmes := rfl
@[simp] theorem State.resetUnit_arbs (s : State) (u : Nat) : (s.resetUnit u).arbs = s.arbs := rfl
@[simp] theorem State.resetUnit_tus (s : State) (u : Nat) : (s.resetUnit u).tus = s.tus := rfl
@[simp] theorem State.resetUnit_ports (s : State) (u : Nat) : (s.resetUnit u).ports = s.ports := rfl
@[simp] theorem State.resetUnit_routes (s : State) (u : Nat) : (s.resetUnit u).routes = s.routes := rfl
@[simp] theorem State.resetUnit_disc (s : State) (u : Nat) : (s.resetUnit u).disc = s.disc := rfl
@[simp] theorem State.resetUnit_awaiting (s : State) (u : Nat) : (s.resetUnit u).awaiting = s.awaiting := rfl
@[simp] theorem State.resetUnit_patrol (s : State) (u : Nat) : (s.resetUnit u).patrol = s.patrol := rfl
@[simp] theorem State.resetUnit_heldTx (s : State) (u : Nat) : (s.resetUnit u).heldTx = s.heldTx := rfl
@[simp] theorem State.resetUnit_apps (s : State) (u : Nat) : (s.resetUnit u).apps = s.apps := rfl
@[simp] theorem State.resetUnit_groups (s : State) (u : Nat) : (s.resetUnit u).groups = s.groups := rfl
@[simp] theorem State.resetUnit_stqs (s : State) (u : Nat) : (s.resetUnit u).stqs = s.stqs := rfl
@[simp] theorem State.resetUnit_red (s : State) (u : Nat) : (s.resetUnit u).red = s.red := rfl
@[simp] theorem State.resetUnit_ues (s : State) (u : Nat) : (s.resetUnit u).ues = s.ues := rfl
@[simp] theorem State.resetUnit_streams (s : State) (u : Nat) : (s.resetUnit u).streams = s.streams := rfl
@[simp] theorem State.resetUnit_qps (s : State) (u : Nat) : (s.resetUnit u).qps = s.qps := rfl
@[simp] theorem State.resetUnit_eths (s : State) (u : Nat) : (s.resetUnit u).eths = s.eths := rfl
@[simp] theorem State.resetUnit_arrivals (s : State) (u : Nat) : (s.resetUnit u).arrivals = s.arrivals := rfl
@[simp] theorem State.resetUnit_auLog (s : State) (u : Nat) : (s.resetUnit u).auLog = s.auLog := rfl
@[simp] theorem State.resetUnit_bridge (s : State) (u : Nat) : (s.resetUnit u).bridge = s.bridge := rfl
@[simp] theorem State.resetUnit_rcv (s : State) (u : Nat) : (s.resetUnit u).rcv = s.rcv := rfl
@[simp] theorem State.resetUnit_dkr (s : State) (u : Nat) : (s.resetUnit u).dkr = s.dkr := rfl
@[simp] theorem State.resetUnit_sb (s : State) (u : Nat) : (s.resetUnit u).sb = s.sb := rfl
@[simp] theorem State.resetUnit_tap (s : State) (u : Nat) : (s.resetUnit u).tap = s.tap := rfl
@[simp] theorem State.resetUnit_pwr (s : State) (u : Nat) : (s.resetUnit u).pwr = s.pwr := rfl
@[simp] theorem State.resetUnit_pcie (s : State) (u : Nat) : (s.resetUnit u).pcie = s.pcie := rfl
@[simp] theorem State.resetUnit_provId (s : State) (u : Nat) : (s.resetUnit u).provId = s.provId := rfl
@[simp] theorem State.resetUnit_fwVer (s : State) (u : Nat) : (s.resetUnit u).fwVer = s.fwVer := rfl
@[simp] theorem State.resetUnit_log (s : State) (u : Nat) : (s.resetUnit u).log = s.log := rfl
@[simp] theorem State.resetUnit_job (s : State) (u : Nat) : (s.resetUnit u).job = s.job := rfl
@[simp] theorem State.resetUnit_fix (s : State) (u : Nat) : (s.resetUnit u).fix = s.fix := rfl
@[simp] theorem State.resetUnit_ck (s : State) (u : Nat) : (s.resetUnit u).ck = s.ck := rfl
@[simp] theorem State.resetUnit_kpr (s : State) (u : Nat) : (s.resetUnit u).kpr = s.kpr := rfl
@[simp] theorem State.resetUnit_sheets (s : State) (u : Nat) : (s.resetUnit u).sheets = s.sheets := rfl
@[simp] theorem State.resetUnit_scrubQ (s : State) (u : Nat) : (s.resetUnit u).scrubQ = s.scrubQ := rfl
@[simp] theorem State.resetUnit_gshift (s : State) (u : Nat) : (s.resetUnit u).gshift = s.gshift := rfl
@[simp] theorem State.resetUnit_out (s : State) (u : Nat) : (s.resetUnit u).out = s.out := rfl
@[simp] theorem State.resetUnit_free (s : State) (u : Nat) : (s.resetUnit u).free = s.free := rfl
@[simp] theorem State.resetUnit_pending (s : State) (u : Nat) : (s.resetUnit u).pending = s.pending := rfl
@[simp] theorem State.resetUnit_bytesAt (s : State) (u : Nat) (base cnt : Nat) :
    (s.resetUnit u).bytesAt base cnt = s.bytesAt base cnt := rfl
@[simp] theorem State.resetUnit_numAt (s : State) (u : Nat) (base cnt : Nat) :
    (s.resetUnit u).numAt base cnt = s.numAt base cnt := rfl

/-! `State.putBytes` changes `mem` and `ecc` alone. -/

@[simp] theorem State.putBytes_regs (s : State) (a : Nat) (bs : List Byte) : (s.putBytes a bs).regs = s.regs := rfl
@[simp] theorem State.putBytes_net (s : State) (a : Nat) (bs : List Byte) : (s.putBytes a bs).net = s.net := rfl
@[simp] theorem State.putBytes_cores (s : State) (a : Nat) (bs : List Byte) : (s.putBytes a bs).cores = s.cores := rfl
@[simp] theorem State.putBytes_gmes (s : State) (a : Nat) (bs : List Byte) : (s.putBytes a bs).gmes = s.gmes := rfl
@[simp] theorem State.putBytes_arbs (s : State) (a : Nat) (bs : List Byte) : (s.putBytes a bs).arbs = s.arbs := rfl
@[simp] theorem State.putBytes_tus (s : State) (a : Nat) (bs : List Byte) : (s.putBytes a bs).tus = s.tus := rfl
@[simp] theorem State.putBytes_ports (s : State) (a : Nat) (bs : List Byte) : (s.putBytes a bs).ports = s.ports := rfl
@[simp] theorem State.putBytes_routes (s : State) (a : Nat) (bs : List Byte) : (s.putBytes a bs).routes = s.routes := rfl
@[simp] theorem State.putBytes_disc (s : State) (a : Nat) (bs : List Byte) : (s.putBytes a bs).disc = s.disc := rfl
@[simp] theorem State.putBytes_awaiting (s : State) (a : Nat) (bs : List Byte) : (s.putBytes a bs).awaiting = s.awaiting := rfl
@[simp] theorem State.putBytes_patrol (s : State) (a : Nat) (bs : List Byte) : (s.putBytes a bs).patrol = s.patrol := rfl
@[simp] theorem State.putBytes_heldTx (s : State) (a : Nat) (bs : List Byte) : (s.putBytes a bs).heldTx = s.heldTx := rfl
@[simp] theorem State.putBytes_apps (s : State) (a : Nat) (bs : List Byte) : (s.putBytes a bs).apps = s.apps := rfl
@[simp] theorem State.putBytes_groups (s : State) (a : Nat) (bs : List Byte) : (s.putBytes a bs).groups = s.groups := rfl
@[simp] theorem State.putBytes_stqs (s : State) (a : Nat) (bs : List Byte) : (s.putBytes a bs).stqs = s.stqs := rfl
@[simp] theorem State.putBytes_red (s : State) (a : Nat) (bs : List Byte) : (s.putBytes a bs).red = s.red := rfl
@[simp] theorem State.putBytes_ues (s : State) (a : Nat) (bs : List Byte) : (s.putBytes a bs).ues = s.ues := rfl
@[simp] theorem State.putBytes_streams (s : State) (a : Nat) (bs : List Byte) : (s.putBytes a bs).streams = s.streams := rfl
@[simp] theorem State.putBytes_qps (s : State) (a : Nat) (bs : List Byte) : (s.putBytes a bs).qps = s.qps := rfl
@[simp] theorem State.putBytes_eths (s : State) (a : Nat) (bs : List Byte) : (s.putBytes a bs).eths = s.eths := rfl
@[simp] theorem State.putBytes_arrivals (s : State) (a : Nat) (bs : List Byte) : (s.putBytes a bs).arrivals = s.arrivals := rfl
@[simp] theorem State.putBytes_auLog (s : State) (a : Nat) (bs : List Byte) : (s.putBytes a bs).auLog = s.auLog := rfl
@[simp] theorem State.putBytes_bridge (s : State) (a : Nat) (bs : List Byte) : (s.putBytes a bs).bridge = s.bridge := rfl
@[simp] theorem State.putBytes_rcv (s : State) (a : Nat) (bs : List Byte) : (s.putBytes a bs).rcv = s.rcv := rfl
@[simp] theorem State.putBytes_dkr (s : State) (a : Nat) (bs : List Byte) : (s.putBytes a bs).dkr = s.dkr := rfl
@[simp] theorem State.putBytes_sb (s : State) (a : Nat) (bs : List Byte) : (s.putBytes a bs).sb = s.sb := rfl
@[simp] theorem State.putBytes_tap (s : State) (a : Nat) (bs : List Byte) : (s.putBytes a bs).tap = s.tap := rfl
@[simp] theorem State.putBytes_pwr (s : State) (a : Nat) (bs : List Byte) : (s.putBytes a bs).pwr = s.pwr := rfl
@[simp] theorem State.putBytes_pcie (s : State) (a : Nat) (bs : List Byte) : (s.putBytes a bs).pcie = s.pcie := rfl
@[simp] theorem State.putBytes_provId (s : State) (a : Nat) (bs : List Byte) : (s.putBytes a bs).provId = s.provId := rfl
@[simp] theorem State.putBytes_fwVer (s : State) (a : Nat) (bs : List Byte) : (s.putBytes a bs).fwVer = s.fwVer := rfl
@[simp] theorem State.putBytes_log (s : State) (a : Nat) (bs : List Byte) : (s.putBytes a bs).log = s.log := rfl
@[simp] theorem State.putBytes_job (s : State) (a : Nat) (bs : List Byte) : (s.putBytes a bs).job = s.job := rfl
@[simp] theorem State.putBytes_fix (s : State) (a : Nat) (bs : List Byte) : (s.putBytes a bs).fix = s.fix := rfl
@[simp] theorem State.putBytes_ck (s : State) (a : Nat) (bs : List Byte) : (s.putBytes a bs).ck = s.ck := rfl
@[simp] theorem State.putBytes_kpr (s : State) (a : Nat) (bs : List Byte) : (s.putBytes a bs).kpr = s.kpr := rfl
@[simp] theorem State.putBytes_sheets (s : State) (a : Nat) (bs : List Byte) : (s.putBytes a bs).sheets = s.sheets := rfl
@[simp] theorem State.putBytes_scrubQ (s : State) (a : Nat) (bs : List Byte) : (s.putBytes a bs).scrubQ = s.scrubQ := rfl
@[simp] theorem State.putBytes_gshift (s : State) (a : Nat) (bs : List Byte) : (s.putBytes a bs).gshift = s.gshift := rfl
@[simp] theorem State.putBytes_out (s : State) (a : Nat) (bs : List Byte) : (s.putBytes a bs).out = s.out := rfl
@[simp] theorem State.putBytes_free (s : State) (a : Nat) (bs : List Byte) : (s.putBytes a bs).free = s.free := rfl
@[simp] theorem State.putBytes_pending (s : State) (a : Nat) (bs : List Byte) : (s.putBytes a bs).pending = s.pending := rfl
@[simp] theorem State.putBytes_rd (s : State) (a : Nat) (bs : List Byte) (unit : Nat) (fld : Field) :
    (s.putBytes a bs).rd unit fld = s.rd unit fld := rfl

/-! `State.putNum` changes `mem` and `ecc` alone. -/

@[simp] theorem State.putNum_regs (s : State) (a n v : Nat) : (s.putNum a n v).regs = s.regs := rfl
@[simp] theorem State.putNum_net (s : State) (a n v : Nat) : (s.putNum a n v).net = s.net := rfl
@[simp] theorem State.putNum_cores (s : State) (a n v : Nat) : (s.putNum a n v).cores = s.cores := rfl
@[simp] theorem State.putNum_gmes (s : State) (a n v : Nat) : (s.putNum a n v).gmes = s.gmes := rfl
@[simp] theorem State.putNum_arbs (s : State) (a n v : Nat) : (s.putNum a n v).arbs = s.arbs := rfl
@[simp] theorem State.putNum_tus (s : State) (a n v : Nat) : (s.putNum a n v).tus = s.tus := rfl
@[simp] theorem State.putNum_ports (s : State) (a n v : Nat) : (s.putNum a n v).ports = s.ports := rfl
@[simp] theorem State.putNum_routes (s : State) (a n v : Nat) : (s.putNum a n v).routes = s.routes := rfl
@[simp] theorem State.putNum_disc (s : State) (a n v : Nat) : (s.putNum a n v).disc = s.disc := rfl
@[simp] theorem State.putNum_awaiting (s : State) (a n v : Nat) : (s.putNum a n v).awaiting = s.awaiting := rfl
@[simp] theorem State.putNum_patrol (s : State) (a n v : Nat) : (s.putNum a n v).patrol = s.patrol := rfl
@[simp] theorem State.putNum_heldTx (s : State) (a n v : Nat) : (s.putNum a n v).heldTx = s.heldTx := rfl
@[simp] theorem State.putNum_apps (s : State) (a n v : Nat) : (s.putNum a n v).apps = s.apps := rfl
@[simp] theorem State.putNum_groups (s : State) (a n v : Nat) : (s.putNum a n v).groups = s.groups := rfl
@[simp] theorem State.putNum_stqs (s : State) (a n v : Nat) : (s.putNum a n v).stqs = s.stqs := rfl
@[simp] theorem State.putNum_red (s : State) (a n v : Nat) : (s.putNum a n v).red = s.red := rfl
@[simp] theorem State.putNum_ues (s : State) (a n v : Nat) : (s.putNum a n v).ues = s.ues := rfl
@[simp] theorem State.putNum_streams (s : State) (a n v : Nat) : (s.putNum a n v).streams = s.streams := rfl
@[simp] theorem State.putNum_qps (s : State) (a n v : Nat) : (s.putNum a n v).qps = s.qps := rfl
@[simp] theorem State.putNum_eths (s : State) (a n v : Nat) : (s.putNum a n v).eths = s.eths := rfl
@[simp] theorem State.putNum_arrivals (s : State) (a n v : Nat) : (s.putNum a n v).arrivals = s.arrivals := rfl
@[simp] theorem State.putNum_auLog (s : State) (a n v : Nat) : (s.putNum a n v).auLog = s.auLog := rfl
@[simp] theorem State.putNum_bridge (s : State) (a n v : Nat) : (s.putNum a n v).bridge = s.bridge := rfl
@[simp] theorem State.putNum_rcv (s : State) (a n v : Nat) : (s.putNum a n v).rcv = s.rcv := rfl
@[simp] theorem State.putNum_dkr (s : State) (a n v : Nat) : (s.putNum a n v).dkr = s.dkr := rfl
@[simp] theorem State.putNum_sb (s : State) (a n v : Nat) : (s.putNum a n v).sb = s.sb := rfl
@[simp] theorem State.putNum_tap (s : State) (a n v : Nat) : (s.putNum a n v).tap = s.tap := rfl
@[simp] theorem State.putNum_pwr (s : State) (a n v : Nat) : (s.putNum a n v).pwr = s.pwr := rfl
@[simp] theorem State.putNum_pcie (s : State) (a n v : Nat) : (s.putNum a n v).pcie = s.pcie := rfl
@[simp] theorem State.putNum_provId (s : State) (a n v : Nat) : (s.putNum a n v).provId = s.provId := rfl
@[simp] theorem State.putNum_fwVer (s : State) (a n v : Nat) : (s.putNum a n v).fwVer = s.fwVer := rfl
@[simp] theorem State.putNum_log (s : State) (a n v : Nat) : (s.putNum a n v).log = s.log := rfl
@[simp] theorem State.putNum_job (s : State) (a n v : Nat) : (s.putNum a n v).job = s.job := rfl
@[simp] theorem State.putNum_fix (s : State) (a n v : Nat) : (s.putNum a n v).fix = s.fix := rfl
@[simp] theorem State.putNum_ck (s : State) (a n v : Nat) : (s.putNum a n v).ck = s.ck := rfl
@[simp] theorem State.putNum_kpr (s : State) (a n v : Nat) : (s.putNum a n v).kpr = s.kpr := rfl
@[simp] theorem State.putNum_sheets (s : State) (a n v : Nat) : (s.putNum a n v).sheets = s.sheets := rfl
@[simp] theorem State.putNum_scrubQ (s : State) (a n v : Nat) : (s.putNum a n v).scrubQ = s.scrubQ := rfl
@[simp] theorem State.putNum_gshift (s : State) (a n v : Nat) : (s.putNum a n v).gshift = s.gshift := rfl
@[simp] theorem State.putNum_out (s : State) (a n v : Nat) : (s.putNum a n v).out = s.out := rfl
@[simp] theorem State.putNum_free (s : State) (a n v : Nat) : (s.putNum a n v).free = s.free := rfl
@[simp] theorem State.putNum_pending (s : State) (a n v : Nat) : (s.putNum a n v).pending = s.pending := rfl
@[simp] theorem State.putNum_rd (s : State) (a n v : Nat) (unit : Nat) (fld : Field) :
    (s.putNum a n v).rd unit fld = s.rd unit fld := rfl

/-! `State.zeroRange` changes `mem` and `ecc` alone. -/

@[simp] theorem State.zeroRange_regs (s : State) (a n : Nat) : (s.zeroRange a n).regs = s.regs := rfl
@[simp] theorem State.zeroRange_net (s : State) (a n : Nat) : (s.zeroRange a n).net = s.net := rfl
@[simp] theorem State.zeroRange_cores (s : State) (a n : Nat) : (s.zeroRange a n).cores = s.cores := rfl
@[simp] theorem State.zeroRange_gmes (s : State) (a n : Nat) : (s.zeroRange a n).gmes = s.gmes := rfl
@[simp] theorem State.zeroRange_arbs (s : State) (a n : Nat) : (s.zeroRange a n).arbs = s.arbs := rfl
@[simp] theorem State.zeroRange_tus (s : State) (a n : Nat) : (s.zeroRange a n).tus = s.tus := rfl
@[simp] theorem State.zeroRange_ports (s : State) (a n : Nat) : (s.zeroRange a n).ports = s.ports := rfl
@[simp] theorem State.zeroRange_routes (s : State) (a n : Nat) : (s.zeroRange a n).routes = s.routes := rfl
@[simp] theorem State.zeroRange_disc (s : State) (a n : Nat) : (s.zeroRange a n).disc = s.disc := rfl
@[simp] theorem State.zeroRange_awaiting (s : State) (a n : Nat) : (s.zeroRange a n).awaiting = s.awaiting := rfl
@[simp] theorem State.zeroRange_patrol (s : State) (a n : Nat) : (s.zeroRange a n).patrol = s.patrol := rfl
@[simp] theorem State.zeroRange_heldTx (s : State) (a n : Nat) : (s.zeroRange a n).heldTx = s.heldTx := rfl
@[simp] theorem State.zeroRange_apps (s : State) (a n : Nat) : (s.zeroRange a n).apps = s.apps := rfl
@[simp] theorem State.zeroRange_groups (s : State) (a n : Nat) : (s.zeroRange a n).groups = s.groups := rfl
@[simp] theorem State.zeroRange_stqs (s : State) (a n : Nat) : (s.zeroRange a n).stqs = s.stqs := rfl
@[simp] theorem State.zeroRange_red (s : State) (a n : Nat) : (s.zeroRange a n).red = s.red := rfl
@[simp] theorem State.zeroRange_ues (s : State) (a n : Nat) : (s.zeroRange a n).ues = s.ues := rfl
@[simp] theorem State.zeroRange_streams (s : State) (a n : Nat) : (s.zeroRange a n).streams = s.streams := rfl
@[simp] theorem State.zeroRange_qps (s : State) (a n : Nat) : (s.zeroRange a n).qps = s.qps := rfl
@[simp] theorem State.zeroRange_eths (s : State) (a n : Nat) : (s.zeroRange a n).eths = s.eths := rfl
@[simp] theorem State.zeroRange_arrivals (s : State) (a n : Nat) : (s.zeroRange a n).arrivals = s.arrivals := rfl
@[simp] theorem State.zeroRange_auLog (s : State) (a n : Nat) : (s.zeroRange a n).auLog = s.auLog := rfl
@[simp] theorem State.zeroRange_bridge (s : State) (a n : Nat) : (s.zeroRange a n).bridge = s.bridge := rfl
@[simp] theorem State.zeroRange_rcv (s : State) (a n : Nat) : (s.zeroRange a n).rcv = s.rcv := rfl
@[simp] theorem State.zeroRange_dkr (s : State) (a n : Nat) : (s.zeroRange a n).dkr = s.dkr := rfl
@[simp] theorem State.zeroRange_sb (s : State) (a n : Nat) : (s.zeroRange a n).sb = s.sb := rfl
@[simp] theorem State.zeroRange_tap (s : State) (a n : Nat) : (s.zeroRange a n).tap = s.tap := rfl
@[simp] theorem State.zeroRange_pwr (s : State) (a n : Nat) : (s.zeroRange a n).pwr = s.pwr := rfl
@[simp] theorem State.zeroRange_pcie (s : State) (a n : Nat) : (s.zeroRange a n).pcie = s.pcie := rfl
@[simp] theorem State.zeroRange_provId (s : State) (a n : Nat) : (s.zeroRange a n).provId = s.provId := rfl
@[simp] theorem State.zeroRange_fwVer (s : State) (a n : Nat) : (s.zeroRange a n).fwVer = s.fwVer := rfl
@[simp] theorem State.zeroRange_log (s : State) (a n : Nat) : (s.zeroRange a n).log = s.log := rfl
@[simp] theorem State.zeroRange_job (s : State) (a n : Nat) : (s.zeroRange a n).job = s.job := rfl
@[simp] theorem State.zeroRange_fix (s : State) (a n : Nat) : (s.zeroRange a n).fix = s.fix := rfl
@[simp] theorem State.zeroRange_ck (s : State) (a n : Nat) : (s.zeroRange a n).ck = s.ck := rfl
@[simp] theorem State.zeroRange_kpr (s : State) (a n : Nat) : (s.zeroRange a n).kpr = s.kpr := rfl
@[simp] theorem State.zeroRange_sheets (s : State) (a n : Nat) : (s.zeroRange a n).sheets = s.sheets := rfl
@[simp] theorem State.zeroRange_scrubQ (s : State) (a n : Nat) : (s.zeroRange a n).scrubQ = s.scrubQ := rfl
@[simp] theorem State.zeroRange_gshift (s : State) (a n : Nat) : (s.zeroRange a n).gshift = s.gshift := rfl
@[simp] theorem State.zeroRange_out (s : State) (a n : Nat) : (s.zeroRange a n).out = s.out := rfl
@[simp] theorem State.zeroRange_free (s : State) (a n : Nat) : (s.zeroRange a n).free = s.free := rfl
@[simp] theorem State.zeroRange_pending (s : State) (a n : Nat) : (s.zeroRange a n).pending = s.pending := rfl
@[simp] theorem State.zeroRange_rd (s : State) (a n : Nat) (unit : Nat) (fld : Field) :
    (s.zeroRange a n).rd unit fld = s.rd unit fld := rfl

/-! `State.upset` changes `ecc` and `net` alone. -/

@[simp] theorem State.upset_regs (s : State) (l : List (Nat × Nat)) : (s.upset l).regs = s.regs := rfl
@[simp] theorem State.upset_mem (s : State) (l : List (Nat × Nat)) : (s.upset l).mem = s.mem := rfl
@[simp] theorem State.upset_cores (s : State) (l : List (Nat × Nat)) : (s.upset l).cores = s.cores := rfl
@[simp] theorem State.upset_gmes (s : State) (l : List (Nat × Nat)) : (s.upset l).gmes = s.gmes := rfl
@[simp] theorem State.upset_arbs (s : State) (l : List (Nat × Nat)) : (s.upset l).arbs = s.arbs := rfl
@[simp] theorem State.upset_tus (s : State) (l : List (Nat × Nat)) : (s.upset l).tus = s.tus := rfl
@[simp] theorem State.upset_ports (s : State) (l : List (Nat × Nat)) : (s.upset l).ports = s.ports := rfl
@[simp] theorem State.upset_routes (s : State) (l : List (Nat × Nat)) : (s.upset l).routes = s.routes := rfl
@[simp] theorem State.upset_disc (s : State) (l : List (Nat × Nat)) : (s.upset l).disc = s.disc := rfl
@[simp] theorem State.upset_awaiting (s : State) (l : List (Nat × Nat)) : (s.upset l).awaiting = s.awaiting := rfl
@[simp] theorem State.upset_patrol (s : State) (l : List (Nat × Nat)) : (s.upset l).patrol = s.patrol := rfl
@[simp] theorem State.upset_heldTx (s : State) (l : List (Nat × Nat)) : (s.upset l).heldTx = s.heldTx := rfl
@[simp] theorem State.upset_apps (s : State) (l : List (Nat × Nat)) : (s.upset l).apps = s.apps := rfl
@[simp] theorem State.upset_groups (s : State) (l : List (Nat × Nat)) : (s.upset l).groups = s.groups := rfl
@[simp] theorem State.upset_stqs (s : State) (l : List (Nat × Nat)) : (s.upset l).stqs = s.stqs := rfl
@[simp] theorem State.upset_red (s : State) (l : List (Nat × Nat)) : (s.upset l).red = s.red := rfl
@[simp] theorem State.upset_ues (s : State) (l : List (Nat × Nat)) : (s.upset l).ues = s.ues := rfl
@[simp] theorem State.upset_streams (s : State) (l : List (Nat × Nat)) : (s.upset l).streams = s.streams := rfl
@[simp] theorem State.upset_qps (s : State) (l : List (Nat × Nat)) : (s.upset l).qps = s.qps := rfl
@[simp] theorem State.upset_eths (s : State) (l : List (Nat × Nat)) : (s.upset l).eths = s.eths := rfl
@[simp] theorem State.upset_arrivals (s : State) (l : List (Nat × Nat)) : (s.upset l).arrivals = s.arrivals := rfl
@[simp] theorem State.upset_auLog (s : State) (l : List (Nat × Nat)) : (s.upset l).auLog = s.auLog := rfl
@[simp] theorem State.upset_bridge (s : State) (l : List (Nat × Nat)) : (s.upset l).bridge = s.bridge := rfl
@[simp] theorem State.upset_rcv (s : State) (l : List (Nat × Nat)) : (s.upset l).rcv = s.rcv := rfl
@[simp] theorem State.upset_dkr (s : State) (l : List (Nat × Nat)) : (s.upset l).dkr = s.dkr := rfl
@[simp] theorem State.upset_sb (s : State) (l : List (Nat × Nat)) : (s.upset l).sb = s.sb := rfl
@[simp] theorem State.upset_tap (s : State) (l : List (Nat × Nat)) : (s.upset l).tap = s.tap := rfl
@[simp] theorem State.upset_pwr (s : State) (l : List (Nat × Nat)) : (s.upset l).pwr = s.pwr := rfl
@[simp] theorem State.upset_pcie (s : State) (l : List (Nat × Nat)) : (s.upset l).pcie = s.pcie := rfl
@[simp] theorem State.upset_provId (s : State) (l : List (Nat × Nat)) : (s.upset l).provId = s.provId := rfl
@[simp] theorem State.upset_fwVer (s : State) (l : List (Nat × Nat)) : (s.upset l).fwVer = s.fwVer := rfl
@[simp] theorem State.upset_log (s : State) (l : List (Nat × Nat)) : (s.upset l).log = s.log := rfl
@[simp] theorem State.upset_job (s : State) (l : List (Nat × Nat)) : (s.upset l).job = s.job := rfl
@[simp] theorem State.upset_fix (s : State) (l : List (Nat × Nat)) : (s.upset l).fix = s.fix := rfl
@[simp] theorem State.upset_ck (s : State) (l : List (Nat × Nat)) : (s.upset l).ck = s.ck := rfl
@[simp] theorem State.upset_kpr (s : State) (l : List (Nat × Nat)) : (s.upset l).kpr = s.kpr := rfl
@[simp] theorem State.upset_sheets (s : State) (l : List (Nat × Nat)) : (s.upset l).sheets = s.sheets := rfl
@[simp] theorem State.upset_scrubQ (s : State) (l : List (Nat × Nat)) : (s.upset l).scrubQ = s.scrubQ := rfl
@[simp] theorem State.upset_gshift (s : State) (l : List (Nat × Nat)) : (s.upset l).gshift = s.gshift := rfl
@[simp] theorem State.upset_out (s : State) (l : List (Nat × Nat)) : (s.upset l).out = s.out := rfl
@[simp] theorem State.upset_free (s : State) (l : List (Nat × Nat)) : (s.upset l).free = s.free := rfl
@[simp] theorem State.upset_pending (s : State) (l : List (Nat × Nat)) : (s.upset l).pending = s.pending := rfl
@[simp] theorem State.upset_rd (s : State) (l : List (Nat × Nat)) (unit : Nat) (fld : Field) :
    (s.upset l).rd unit fld = s.rd unit fld := rfl
@[simp] theorem State.upset_bytesAt (s : State) (l : List (Nat × Nat)) (base cnt : Nat) :
    (s.upset l).bytesAt base cnt = s.bytesAt base cnt := rfl
@[simp] theorem State.upset_numAt (s : State) (l : List (Nat × Nat)) (base cnt : Nat) :
    (s.upset l).numAt base cnt = s.numAt base cnt := rfl

/-! `State.setCore` changes `cores` alone. -/

@[simp] theorem State.setCore_regs (s : State) (die core : Nat) (c : CoreSt) : (s.setCore die core c).regs = s.regs := rfl
@[simp] theorem State.setCore_mem (s : State) (die core : Nat) (c : CoreSt) : (s.setCore die core c).mem = s.mem := rfl
@[simp] theorem State.setCore_ecc (s : State) (die core : Nat) (c : CoreSt) : (s.setCore die core c).ecc = s.ecc := rfl
@[simp] theorem State.setCore_net (s : State) (die core : Nat) (c : CoreSt) : (s.setCore die core c).net = s.net := rfl
@[simp] theorem State.setCore_gmes (s : State) (die core : Nat) (c : CoreSt) : (s.setCore die core c).gmes = s.gmes := rfl
@[simp] theorem State.setCore_arbs (s : State) (die core : Nat) (c : CoreSt) : (s.setCore die core c).arbs = s.arbs := rfl
@[simp] theorem State.setCore_tus (s : State) (die core : Nat) (c : CoreSt) : (s.setCore die core c).tus = s.tus := rfl
@[simp] theorem State.setCore_ports (s : State) (die core : Nat) (c : CoreSt) : (s.setCore die core c).ports = s.ports := rfl
@[simp] theorem State.setCore_routes (s : State) (die core : Nat) (c : CoreSt) : (s.setCore die core c).routes = s.routes := rfl
@[simp] theorem State.setCore_disc (s : State) (die core : Nat) (c : CoreSt) : (s.setCore die core c).disc = s.disc := rfl
@[simp] theorem State.setCore_awaiting (s : State) (die core : Nat) (c : CoreSt) : (s.setCore die core c).awaiting = s.awaiting := rfl
@[simp] theorem State.setCore_patrol (s : State) (die core : Nat) (c : CoreSt) : (s.setCore die core c).patrol = s.patrol := rfl
@[simp] theorem State.setCore_heldTx (s : State) (die core : Nat) (c : CoreSt) : (s.setCore die core c).heldTx = s.heldTx := rfl
@[simp] theorem State.setCore_apps (s : State) (die core : Nat) (c : CoreSt) : (s.setCore die core c).apps = s.apps := rfl
@[simp] theorem State.setCore_groups (s : State) (die core : Nat) (c : CoreSt) : (s.setCore die core c).groups = s.groups := rfl
@[simp] theorem State.setCore_stqs (s : State) (die core : Nat) (c : CoreSt) : (s.setCore die core c).stqs = s.stqs := rfl
@[simp] theorem State.setCore_red (s : State) (die core : Nat) (c : CoreSt) : (s.setCore die core c).red = s.red := rfl
@[simp] theorem State.setCore_ues (s : State) (die core : Nat) (c : CoreSt) : (s.setCore die core c).ues = s.ues := rfl
@[simp] theorem State.setCore_streams (s : State) (die core : Nat) (c : CoreSt) : (s.setCore die core c).streams = s.streams := rfl
@[simp] theorem State.setCore_qps (s : State) (die core : Nat) (c : CoreSt) : (s.setCore die core c).qps = s.qps := rfl
@[simp] theorem State.setCore_eths (s : State) (die core : Nat) (c : CoreSt) : (s.setCore die core c).eths = s.eths := rfl
@[simp] theorem State.setCore_arrivals (s : State) (die core : Nat) (c : CoreSt) : (s.setCore die core c).arrivals = s.arrivals := rfl
@[simp] theorem State.setCore_auLog (s : State) (die core : Nat) (c : CoreSt) : (s.setCore die core c).auLog = s.auLog := rfl
@[simp] theorem State.setCore_bridge (s : State) (die core : Nat) (c : CoreSt) : (s.setCore die core c).bridge = s.bridge := rfl
@[simp] theorem State.setCore_rcv (s : State) (die core : Nat) (c : CoreSt) : (s.setCore die core c).rcv = s.rcv := rfl
@[simp] theorem State.setCore_dkr (s : State) (die core : Nat) (c : CoreSt) : (s.setCore die core c).dkr = s.dkr := rfl
@[simp] theorem State.setCore_sb (s : State) (die core : Nat) (c : CoreSt) : (s.setCore die core c).sb = s.sb := rfl
@[simp] theorem State.setCore_tap (s : State) (die core : Nat) (c : CoreSt) : (s.setCore die core c).tap = s.tap := rfl
@[simp] theorem State.setCore_pwr (s : State) (die core : Nat) (c : CoreSt) : (s.setCore die core c).pwr = s.pwr := rfl
@[simp] theorem State.setCore_pcie (s : State) (die core : Nat) (c : CoreSt) : (s.setCore die core c).pcie = s.pcie := rfl
@[simp] theorem State.setCore_provId (s : State) (die core : Nat) (c : CoreSt) : (s.setCore die core c).provId = s.provId := rfl
@[simp] theorem State.setCore_fwVer (s : State) (die core : Nat) (c : CoreSt) : (s.setCore die core c).fwVer = s.fwVer := rfl
@[simp] theorem State.setCore_log (s : State) (die core : Nat) (c : CoreSt) : (s.setCore die core c).log = s.log := rfl
@[simp] theorem State.setCore_job (s : State) (die core : Nat) (c : CoreSt) : (s.setCore die core c).job = s.job := rfl
@[simp] theorem State.setCore_fix (s : State) (die core : Nat) (c : CoreSt) : (s.setCore die core c).fix = s.fix := rfl
@[simp] theorem State.setCore_ck (s : State) (die core : Nat) (c : CoreSt) : (s.setCore die core c).ck = s.ck := rfl
@[simp] theorem State.setCore_kpr (s : State) (die core : Nat) (c : CoreSt) : (s.setCore die core c).kpr = s.kpr := rfl
@[simp] theorem State.setCore_sheets (s : State) (die core : Nat) (c : CoreSt) : (s.setCore die core c).sheets = s.sheets := rfl
@[simp] theorem State.setCore_scrubQ (s : State) (die core : Nat) (c : CoreSt) : (s.setCore die core c).scrubQ = s.scrubQ := rfl
@[simp] theorem State.setCore_gshift (s : State) (die core : Nat) (c : CoreSt) : (s.setCore die core c).gshift = s.gshift := rfl
@[simp] theorem State.setCore_out (s : State) (die core : Nat) (c : CoreSt) : (s.setCore die core c).out = s.out := rfl
@[simp] theorem State.setCore_free (s : State) (die core : Nat) (c : CoreSt) : (s.setCore die core c).free = s.free := rfl
@[simp] theorem State.setCore_pending (s : State) (die core : Nat) (c : CoreSt) : (s.setCore die core c).pending = s.pending := rfl
@[simp] theorem State.setCore_rd (s : State) (die core : Nat) (c : CoreSt) (unit : Nat) (fld : Field) :
    (s.setCore die core c).rd unit fld = s.rd unit fld := rfl
@[simp] theorem State.setCore_bytesAt (s : State) (die core : Nat) (c : CoreSt) (base cnt : Nat) :
    (s.setCore die core c).bytesAt base cnt = s.bytesAt base cnt := rfl
@[simp] theorem State.setCore_numAt (s : State) (die core : Nat) (c : CoreSt) (base cnt : Nat) :
    (s.setCore die core c).numAt base cnt = s.numAt base cnt := rfl

/-! `State.emit` changes `out` alone. -/

@[simp] theorem State.emit_regs (s : State) (o : Out) : (s.emit o).regs = s.regs := rfl
@[simp] theorem State.emit_mem (s : State) (o : Out) : (s.emit o).mem = s.mem := rfl
@[simp] theorem State.emit_ecc (s : State) (o : Out) : (s.emit o).ecc = s.ecc := rfl
@[simp] theorem State.emit_net (s : State) (o : Out) : (s.emit o).net = s.net := rfl
@[simp] theorem State.emit_cores (s : State) (o : Out) : (s.emit o).cores = s.cores := rfl
@[simp] theorem State.emit_gmes (s : State) (o : Out) : (s.emit o).gmes = s.gmes := rfl
@[simp] theorem State.emit_arbs (s : State) (o : Out) : (s.emit o).arbs = s.arbs := rfl
@[simp] theorem State.emit_tus (s : State) (o : Out) : (s.emit o).tus = s.tus := rfl
@[simp] theorem State.emit_ports (s : State) (o : Out) : (s.emit o).ports = s.ports := rfl
@[simp] theorem State.emit_routes (s : State) (o : Out) : (s.emit o).routes = s.routes := rfl
@[simp] theorem State.emit_disc (s : State) (o : Out) : (s.emit o).disc = s.disc := rfl
@[simp] theorem State.emit_awaiting (s : State) (o : Out) : (s.emit o).awaiting = s.awaiting := rfl
@[simp] theorem State.emit_patrol (s : State) (o : Out) : (s.emit o).patrol = s.patrol := rfl
@[simp] theorem State.emit_heldTx (s : State) (o : Out) : (s.emit o).heldTx = s.heldTx := rfl
@[simp] theorem State.emit_apps (s : State) (o : Out) : (s.emit o).apps = s.apps := rfl
@[simp] theorem State.emit_groups (s : State) (o : Out) : (s.emit o).groups = s.groups := rfl
@[simp] theorem State.emit_stqs (s : State) (o : Out) : (s.emit o).stqs = s.stqs := rfl
@[simp] theorem State.emit_red (s : State) (o : Out) : (s.emit o).red = s.red := rfl
@[simp] theorem State.emit_ues (s : State) (o : Out) : (s.emit o).ues = s.ues := rfl
@[simp] theorem State.emit_streams (s : State) (o : Out) : (s.emit o).streams = s.streams := rfl
@[simp] theorem State.emit_qps (s : State) (o : Out) : (s.emit o).qps = s.qps := rfl
@[simp] theorem State.emit_eths (s : State) (o : Out) : (s.emit o).eths = s.eths := rfl
@[simp] theorem State.emit_arrivals (s : State) (o : Out) : (s.emit o).arrivals = s.arrivals := rfl
@[simp] theorem State.emit_auLog (s : State) (o : Out) : (s.emit o).auLog = s.auLog := rfl
@[simp] theorem State.emit_bridge (s : State) (o : Out) : (s.emit o).bridge = s.bridge := rfl
@[simp] theorem State.emit_rcv (s : State) (o : Out) : (s.emit o).rcv = s.rcv := rfl
@[simp] theorem State.emit_dkr (s : State) (o : Out) : (s.emit o).dkr = s.dkr := rfl
@[simp] theorem State.emit_sb (s : State) (o : Out) : (s.emit o).sb = s.sb := rfl
@[simp] theorem State.emit_tap (s : State) (o : Out) : (s.emit o).tap = s.tap := rfl
@[simp] theorem State.emit_pwr (s : State) (o : Out) : (s.emit o).pwr = s.pwr := rfl
@[simp] theorem State.emit_pcie (s : State) (o : Out) : (s.emit o).pcie = s.pcie := rfl
@[simp] theorem State.emit_provId (s : State) (o : Out) : (s.emit o).provId = s.provId := rfl
@[simp] theorem State.emit_fwVer (s : State) (o : Out) : (s.emit o).fwVer = s.fwVer := rfl
@[simp] theorem State.emit_log (s : State) (o : Out) : (s.emit o).log = s.log := rfl
@[simp] theorem State.emit_job (s : State) (o : Out) : (s.emit o).job = s.job := rfl
@[simp] theorem State.emit_fix (s : State) (o : Out) : (s.emit o).fix = s.fix := rfl
@[simp] theorem State.emit_ck (s : State) (o : Out) : (s.emit o).ck = s.ck := rfl
@[simp] theorem State.emit_kpr (s : State) (o : Out) : (s.emit o).kpr = s.kpr := rfl
@[simp] theorem State.emit_sheets (s : State) (o : Out) : (s.emit o).sheets = s.sheets := rfl
@[simp] theorem State.emit_scrubQ (s : State) (o : Out) : (s.emit o).scrubQ = s.scrubQ := rfl
@[simp] theorem State.emit_gshift (s : State) (o : Out) : (s.emit o).gshift = s.gshift := rfl
@[simp] theorem State.emit_free (s : State) (o : Out) : (s.emit o).free = s.free := rfl
@[simp] theorem State.emit_pending (s : State) (o : Out) : (s.emit o).pending = s.pending := rfl
@[simp] theorem State.emit_rd (s : State) (o : Out) (unit : Nat) (fld : Field) :
    (s.emit o).rd unit fld = s.rd unit fld := rfl
@[simp] theorem State.emit_bytesAt (s : State) (o : Out) (base cnt : Nat) :
    (s.emit o).bytesAt base cnt = s.bytesAt base cnt := rfl
@[simp] theorem State.emit_numAt (s : State) (o : Out) (base cnt : Nat) :
    (s.emit o).numAt base cnt = s.numAt base cnt := rfl

/-! `State.ok` changes `out` alone. -/

@[simp] theorem State.ok_regs (s : State) (d : List Byte) : (s.ok d).regs = s.regs := rfl
@[simp] theorem State.ok_mem (s : State) (d : List Byte) : (s.ok d).mem = s.mem := rfl
@[simp] theorem State.ok_ecc (s : State) (d : List Byte) : (s.ok d).ecc = s.ecc := rfl
@[simp] theorem State.ok_net (s : State) (d : List Byte) : (s.ok d).net = s.net := rfl
@[simp] theorem State.ok_cores (s : State) (d : List Byte) : (s.ok d).cores = s.cores := rfl
@[simp] theorem State.ok_gmes (s : State) (d : List Byte) : (s.ok d).gmes = s.gmes := rfl
@[simp] theorem State.ok_arbs (s : State) (d : List Byte) : (s.ok d).arbs = s.arbs := rfl
@[simp] theorem State.ok_tus (s : State) (d : List Byte) : (s.ok d).tus = s.tus := rfl
@[simp] theorem State.ok_ports (s : State) (d : List Byte) : (s.ok d).ports = s.ports := rfl
@[simp] theorem State.ok_routes (s : State) (d : List Byte) : (s.ok d).routes = s.routes := rfl
@[simp] theorem State.ok_disc (s : State) (d : List Byte) : (s.ok d).disc = s.disc := rfl
@[simp] theorem State.ok_awaiting (s : State) (d : List Byte) : (s.ok d).awaiting = s.awaiting := rfl
@[simp] theorem State.ok_patrol (s : State) (d : List Byte) : (s.ok d).patrol = s.patrol := rfl
@[simp] theorem State.ok_heldTx (s : State) (d : List Byte) : (s.ok d).heldTx = s.heldTx := rfl
@[simp] theorem State.ok_apps (s : State) (d : List Byte) : (s.ok d).apps = s.apps := rfl
@[simp] theorem State.ok_groups (s : State) (d : List Byte) : (s.ok d).groups = s.groups := rfl
@[simp] theorem State.ok_stqs (s : State) (d : List Byte) : (s.ok d).stqs = s.stqs := rfl
@[simp] theorem State.ok_red (s : State) (d : List Byte) : (s.ok d).red = s.red := rfl
@[simp] theorem State.ok_ues (s : State) (d : List Byte) : (s.ok d).ues = s.ues := rfl
@[simp] theorem State.ok_streams (s : State) (d : List Byte) : (s.ok d).streams = s.streams := rfl
@[simp] theorem State.ok_qps (s : State) (d : List Byte) : (s.ok d).qps = s.qps := rfl
@[simp] theorem State.ok_eths (s : State) (d : List Byte) : (s.ok d).eths = s.eths := rfl
@[simp] theorem State.ok_arrivals (s : State) (d : List Byte) : (s.ok d).arrivals = s.arrivals := rfl
@[simp] theorem State.ok_auLog (s : State) (d : List Byte) : (s.ok d).auLog = s.auLog := rfl
@[simp] theorem State.ok_bridge (s : State) (d : List Byte) : (s.ok d).bridge = s.bridge := rfl
@[simp] theorem State.ok_rcv (s : State) (d : List Byte) : (s.ok d).rcv = s.rcv := rfl
@[simp] theorem State.ok_dkr (s : State) (d : List Byte) : (s.ok d).dkr = s.dkr := rfl
@[simp] theorem State.ok_sb (s : State) (d : List Byte) : (s.ok d).sb = s.sb := rfl
@[simp] theorem State.ok_tap (s : State) (d : List Byte) : (s.ok d).tap = s.tap := rfl
@[simp] theorem State.ok_pwr (s : State) (d : List Byte) : (s.ok d).pwr = s.pwr := rfl
@[simp] theorem State.ok_pcie (s : State) (d : List Byte) : (s.ok d).pcie = s.pcie := rfl
@[simp] theorem State.ok_provId (s : State) (d : List Byte) : (s.ok d).provId = s.provId := rfl
@[simp] theorem State.ok_fwVer (s : State) (d : List Byte) : (s.ok d).fwVer = s.fwVer := rfl
@[simp] theorem State.ok_log (s : State) (d : List Byte) : (s.ok d).log = s.log := rfl
@[simp] theorem State.ok_job (s : State) (d : List Byte) : (s.ok d).job = s.job := rfl
@[simp] theorem State.ok_fix (s : State) (d : List Byte) : (s.ok d).fix = s.fix := rfl
@[simp] theorem State.ok_ck (s : State) (d : List Byte) : (s.ok d).ck = s.ck := rfl
@[simp] theorem State.ok_kpr (s : State) (d : List Byte) : (s.ok d).kpr = s.kpr := rfl
@[simp] theorem State.ok_sheets (s : State) (d : List Byte) : (s.ok d).sheets = s.sheets := rfl
@[simp] theorem State.ok_scrubQ (s : State) (d : List Byte) : (s.ok d).scrubQ = s.scrubQ := rfl
@[simp] theorem State.ok_gshift (s : State) (d : List Byte) : (s.ok d).gshift = s.gshift := rfl
@[simp] theorem State.ok_free (s : State) (d : List Byte) : (s.ok d).free = s.free := rfl
@[simp] theorem State.ok_pending (s : State) (d : List Byte) : (s.ok d).pending = s.pending := rfl
@[simp] theorem State.ok_rd (s : State) (d : List Byte) (unit : Nat) (fld : Field) :
    (s.ok d).rd unit fld = s.rd unit fld := rfl
@[simp] theorem State.ok_bytesAt (s : State) (d : List Byte) (base cnt : Nat) :
    (s.ok d).bytesAt base cnt = s.bytesAt base cnt := rfl
@[simp] theorem State.ok_numAt (s : State) (d : List Byte) (base cnt : Nat) :
    (s.ok d).numAt base cnt = s.numAt base cnt := rfl

/-! `State.err` changes `out` alone. -/

@[simp] theorem State.err_regs (s : State) (code detail : Nat) : (s.err code detail).regs = s.regs := rfl
@[simp] theorem State.err_mem (s : State) (code detail : Nat) : (s.err code detail).mem = s.mem := rfl
@[simp] theorem State.err_ecc (s : State) (code detail : Nat) : (s.err code detail).ecc = s.ecc := rfl
@[simp] theorem State.err_net (s : State) (code detail : Nat) : (s.err code detail).net = s.net := rfl
@[simp] theorem State.err_cores (s : State) (code detail : Nat) : (s.err code detail).cores = s.cores := rfl
@[simp] theorem State.err_gmes (s : State) (code detail : Nat) : (s.err code detail).gmes = s.gmes := rfl
@[simp] theorem State.err_arbs (s : State) (code detail : Nat) : (s.err code detail).arbs = s.arbs := rfl
@[simp] theorem State.err_tus (s : State) (code detail : Nat) : (s.err code detail).tus = s.tus := rfl
@[simp] theorem State.err_ports (s : State) (code detail : Nat) : (s.err code detail).ports = s.ports := rfl
@[simp] theorem State.err_routes (s : State) (code detail : Nat) : (s.err code detail).routes = s.routes := rfl
@[simp] theorem State.err_disc (s : State) (code detail : Nat) : (s.err code detail).disc = s.disc := rfl
@[simp] theorem State.err_awaiting (s : State) (code detail : Nat) : (s.err code detail).awaiting = s.awaiting := rfl
@[simp] theorem State.err_patrol (s : State) (code detail : Nat) : (s.err code detail).patrol = s.patrol := rfl
@[simp] theorem State.err_heldTx (s : State) (code detail : Nat) : (s.err code detail).heldTx = s.heldTx := rfl
@[simp] theorem State.err_apps (s : State) (code detail : Nat) : (s.err code detail).apps = s.apps := rfl
@[simp] theorem State.err_groups (s : State) (code detail : Nat) : (s.err code detail).groups = s.groups := rfl
@[simp] theorem State.err_stqs (s : State) (code detail : Nat) : (s.err code detail).stqs = s.stqs := rfl
@[simp] theorem State.err_red (s : State) (code detail : Nat) : (s.err code detail).red = s.red := rfl
@[simp] theorem State.err_ues (s : State) (code detail : Nat) : (s.err code detail).ues = s.ues := rfl
@[simp] theorem State.err_streams (s : State) (code detail : Nat) : (s.err code detail).streams = s.streams := rfl
@[simp] theorem State.err_qps (s : State) (code detail : Nat) : (s.err code detail).qps = s.qps := rfl
@[simp] theorem State.err_eths (s : State) (code detail : Nat) : (s.err code detail).eths = s.eths := rfl
@[simp] theorem State.err_arrivals (s : State) (code detail : Nat) : (s.err code detail).arrivals = s.arrivals := rfl
@[simp] theorem State.err_auLog (s : State) (code detail : Nat) : (s.err code detail).auLog = s.auLog := rfl
@[simp] theorem State.err_bridge (s : State) (code detail : Nat) : (s.err code detail).bridge = s.bridge := rfl
@[simp] theorem State.err_rcv (s : State) (code detail : Nat) : (s.err code detail).rcv = s.rcv := rfl
@[simp] theorem State.err_dkr (s : State) (code detail : Nat) : (s.err code detail).dkr = s.dkr := rfl
@[simp] theorem State.err_sb (s : State) (code detail : Nat) : (s.err code detail).sb = s.sb := rfl
@[simp] theorem State.err_tap (s : State) (code detail : Nat) : (s.err code detail).tap = s.tap := rfl
@[simp] theorem State.err_pwr (s : State) (code detail : Nat) : (s.err code detail).pwr = s.pwr := rfl
@[simp] theorem State.err_pcie (s : State) (code detail : Nat) : (s.err code detail).pcie = s.pcie := rfl
@[simp] theorem State.err_provId (s : State) (code detail : Nat) : (s.err code detail).provId = s.provId := rfl
@[simp] theorem State.err_fwVer (s : State) (code detail : Nat) : (s.err code detail).fwVer = s.fwVer := rfl
@[simp] theorem State.err_log (s : State) (code detail : Nat) : (s.err code detail).log = s.log := rfl
@[simp] theorem State.err_job (s : State) (code detail : Nat) : (s.err code detail).job = s.job := rfl
@[simp] theorem State.err_fix (s : State) (code detail : Nat) : (s.err code detail).fix = s.fix := rfl
@[simp] theorem State.err_ck (s : State) (code detail : Nat) : (s.err code detail).ck = s.ck := rfl
@[simp] theorem State.err_kpr (s : State) (code detail : Nat) : (s.err code detail).kpr = s.kpr := rfl
@[simp] theorem State.err_sheets (s : State) (code detail : Nat) : (s.err code detail).sheets = s.sheets := rfl
@[simp] theorem State.err_scrubQ (s : State) (code detail : Nat) : (s.err code detail).scrubQ = s.scrubQ := rfl
@[simp] theorem State.err_gshift (s : State) (code detail : Nat) : (s.err code detail).gshift = s.gshift := rfl
@[simp] theorem State.err_free (s : State) (code detail : Nat) : (s.err code detail).free = s.free := rfl
@[simp] theorem State.err_pending (s : State) (code detail : Nat) : (s.err code detail).pending = s.pending := rfl
@[simp] theorem State.err_rd (s : State) (code detail : Nat) (unit : Nat) (fld : Field) :
    (s.err code detail).rd unit fld = s.rd unit fld := rfl
@[simp] theorem State.err_bytesAt (s : State) (code detail : Nat) (base cnt : Nat) :
    (s.err code detail).bytesAt base cnt = s.bytesAt base cnt := rfl
@[simp] theorem State.err_numAt (s : State) (code detail : Nat) (base cnt : Nat) :
    (s.err code detail).numAt base cnt = s.numAt base cnt := rfl

end Sys2Proof.Machine
end

