-- ==== Sys2Proof/Laws/Units.lean ====
section
/-!
SUPPORT. Laws of the operations that write one unit's part of the state: the fields that each leaves as it is.
-/
namespace Sys2Proof.Machine

/-! `State.setApp` changes `apps` alone. -/

@[simp] theorem State.setApp_regs (s : State) (i : Nat) (a : AppSt) : (s.setApp i a).regs = s.regs := rfl
@[simp] theorem State.setApp_mem (s : State) (i : Nat) (a : AppSt) : (s.setApp i a).mem = s.mem := rfl
@[simp] theorem State.setApp_ecc (s : State) (i : Nat) (a : AppSt) : (s.setApp i a).ecc = s.ecc := rfl
@[simp] theorem State.setApp_net (s : State) (i : Nat) (a : AppSt) : (s.setApp i a).net = s.net := rfl
@[simp] theorem State.setApp_cores (s : State) (i : Nat) (a : AppSt) : (s.setApp i a).cores = s.cores := rfl
@[simp] theorem State.setApp_gmes (s : State) (i : Nat) (a : AppSt) : (s.setApp i a).gmes = s.gmes := rfl
@[simp] theorem State.setApp_arbs (s : State) (i : Nat) (a : AppSt) : (s.setApp i a).arbs = s.arbs := rfl
@[simp] theorem State.setApp_tus (s : State) (i : Nat) (a : AppSt) : (s.setApp i a).tus = s.tus := rfl
@[simp] theorem State.setApp_ports (s : State) (i : Nat) (a : AppSt) : (s.setApp i a).ports = s.ports := rfl
@[simp] theorem State.setApp_routes (s : State) (i : Nat) (a : AppSt) : (s.setApp i a).routes = s.routes := rfl
@[simp] theorem State.setApp_disc (s : State) (i : Nat) (a : AppSt) : (s.setApp i a).disc = s.disc := rfl
@[simp] theorem State.setApp_awaiting (s : State) (i : Nat) (a : AppSt) : (s.setApp i a).awaiting = s.awaiting := rfl
@[simp] theorem State.setApp_patrol (s : State) (i : Nat) (a : AppSt) : (s.setApp i a).patrol = s.patrol := rfl
@[simp] theorem State.setApp_heldTx (s : State) (i : Nat) (a : AppSt) : (s.setApp i a).heldTx = s.heldTx := rfl
@[simp] theorem State.setApp_groups (s : State) (i : Nat) (a : AppSt) : (s.setApp i a).groups = s.groups := rfl
@[simp] theorem State.setApp_stqs (s : State) (i : Nat) (a : AppSt) : (s.setApp i a).stqs = s.stqs := rfl
@[simp] theorem State.setApp_red (s : State) (i : Nat) (a : AppSt) : (s.setApp i a).red = s.red := rfl
@[simp] theorem State.setApp_ues (s : State) (i : Nat) (a : AppSt) : (s.setApp i a).ues = s.ues := rfl
@[simp] theorem State.setApp_streams (s : State) (i : Nat) (a : AppSt) : (s.setApp i a).streams = s.streams := rfl
@[simp] theorem State.setApp_qps (s : State) (i : Nat) (a : AppSt) : (s.setApp i a).qps = s.qps := rfl
@[simp] theorem State.setApp_eths (s : State) (i : Nat) (a : AppSt) : (s.setApp i a).eths = s.eths := rfl
@[simp] theorem State.setApp_arrivals (s : State) (i : Nat) (a : AppSt) : (s.setApp i a).arrivals = s.arrivals := rfl
@[simp] theorem State.setApp_auLog (s : State) (i : Nat) (a : AppSt) : (s.setApp i a).auLog = s.auLog := rfl
@[simp] theorem State.setApp_bridge (s : State) (i : Nat) (a : AppSt) : (s.setApp i a).bridge = s.bridge := rfl
@[simp] theorem State.setApp_rcv (s : State) (i : Nat) (a : AppSt) : (s.setApp i a).rcv = s.rcv := rfl
@[simp] theorem State.setApp_dkr (s : State) (i : Nat) (a : AppSt) : (s.setApp i a).dkr = s.dkr := rfl
@[simp] theorem State.setApp_sb (s : State) (i : Nat) (a : AppSt) : (s.setApp i a).sb = s.sb := rfl
@[simp] theorem State.setApp_tap (s : State) (i : Nat) (a : AppSt) : (s.setApp i a).tap = s.tap := rfl
@[simp] theorem State.setApp_pwr (s : State) (i : Nat) (a : AppSt) : (s.setApp i a).pwr = s.pwr := rfl
@[simp] theorem State.setApp_pcie (s : State) (i : Nat) (a : AppSt) : (s.setApp i a).pcie = s.pcie := rfl
@[simp] theorem State.setApp_provId (s : State) (i : Nat) (a : AppSt) : (s.setApp i a).provId = s.provId := rfl
@[simp] theorem State.setApp_fwVer (s : State) (i : Nat) (a : AppSt) : (s.setApp i a).fwVer = s.fwVer := rfl
@[simp] theorem State.setApp_log (s : State) (i : Nat) (a : AppSt) : (s.setApp i a).log = s.log := rfl
@[simp] theorem State.setApp_job (s : State) (i : Nat) (a : AppSt) : (s.setApp i a).job = s.job := rfl
@[simp] theorem State.setApp_fix (s : State) (i : Nat) (a : AppSt) : (s.setApp i a).fix = s.fix := rfl
@[simp] theorem State.setApp_ck (s : State) (i : Nat) (a : AppSt) : (s.setApp i a).ck = s.ck := rfl
@[simp] theorem State.setApp_kpr (s : State) (i : Nat) (a : AppSt) : (s.setApp i a).kpr = s.kpr := rfl
@[simp] theorem State.setApp_sheets (s : State) (i : Nat) (a : AppSt) : (s.setApp i a).sheets = s.sheets := rfl
@[simp] theorem State.setApp_scrubQ (s : State) (i : Nat) (a : AppSt) : (s.setApp i a).scrubQ = s.scrubQ := rfl
@[simp] theorem State.setApp_gshift (s : State) (i : Nat) (a : AppSt) : (s.setApp i a).gshift = s.gshift := rfl
@[simp] theorem State.setApp_out (s : State) (i : Nat) (a : AppSt) : (s.setApp i a).out = s.out := rfl
@[simp] theorem State.setApp_free (s : State) (i : Nat) (a : AppSt) : (s.setApp i a).free = s.free := rfl
@[simp] theorem State.setApp_pending (s : State) (i : Nat) (a : AppSt) : (s.setApp i a).pending = s.pending := rfl
@[simp] theorem State.setApp_rd (s : State) (i : Nat) (a : AppSt) (unit : Nat) (fld : Field) :
    (s.setApp i a).rd unit fld = s.rd unit fld := rfl
@[simp] theorem State.setApp_bytesAt (s : State) (i : Nat) (a : AppSt) (base cnt : Nat) :
    (s.setApp i a).bytesAt base cnt = s.bytesAt base cnt := rfl
@[simp] theorem State.setApp_numAt (s : State) (i : Nat) (a : AppSt) (base cnt : Nat) :
    (s.setApp i a).numAt base cnt = s.numAt base cnt := rfl

/-! `State.setStq` changes `stqs` alone. -/

@[simp] theorem State.setStq_regs (s : State) (k : Nat) (q : StageQ) : (s.setStq k q).regs = s.regs := rfl
@[simp] theorem State.setStq_mem (s : State) (k : Nat) (q : StageQ) : (s.setStq k q).mem = s.mem := rfl
@[simp] theorem State.setStq_ecc (s : State) (k : Nat) (q : StageQ) : (s.setStq k q).ecc = s.ecc := rfl
@[simp] theorem State.setStq_net (s : State) (k : Nat) (q : StageQ) : (s.setStq k q).net = s.net := rfl
@[simp] theorem State.setStq_cores (s : State) (k : Nat) (q : StageQ) : (s.setStq k q).cores = s.cores := rfl
@[simp] theorem State.setStq_gmes (s : State) (k : Nat) (q : StageQ) : (s.setStq k q).gmes = s.gmes := rfl
@[simp] theorem State.setStq_arbs (s : State) (k : Nat) (q : StageQ) : (s.setStq k q).arbs = s.arbs := rfl
@[simp] theorem State.setStq_tus (s : State) (k : Nat) (q : StageQ) : (s.setStq k q).tus = s.tus := rfl
@[simp] theorem State.setStq_ports (s : State) (k : Nat) (q : StageQ) : (s.setStq k q).ports = s.ports := rfl
@[simp] theorem State.setStq_routes (s : State) (k : Nat) (q : StageQ) : (s.setStq k q).routes = s.routes := rfl
@[simp] theorem State.setStq_disc (s : State) (k : Nat) (q : StageQ) : (s.setStq k q).disc = s.disc := rfl
@[simp] theorem State.setStq_awaiting (s : State) (k : Nat) (q : StageQ) : (s.setStq k q).awaiting = s.awaiting := rfl
@[simp] theorem State.setStq_patrol (s : State) (k : Nat) (q : StageQ) : (s.setStq k q).patrol = s.patrol := rfl
@[simp] theorem State.setStq_heldTx (s : State) (k : Nat) (q : StageQ) : (s.setStq k q).heldTx = s.heldTx := rfl
@[simp] theorem State.setStq_apps (s : State) (k : Nat) (q : StageQ) : (s.setStq k q).apps = s.apps := rfl
@[simp] theorem State.setStq_groups (s : State) (k : Nat) (q : StageQ) : (s.setStq k q).groups = s.groups := rfl
@[simp] theorem State.setStq_red (s : State) (k : Nat) (q : StageQ) : (s.setStq k q).red = s.red := rfl
@[simp] theorem State.setStq_ues (s : State) (k : Nat) (q : StageQ) : (s.setStq k q).ues = s.ues := rfl
@[simp] theorem State.setStq_streams (s : State) (k : Nat) (q : StageQ) : (s.setStq k q).streams = s.streams := rfl
@[simp] theorem State.setStq_qps (s : State) (k : Nat) (q : StageQ) : (s.setStq k q).qps = s.qps := rfl
@[simp] theorem State.setStq_eths (s : State) (k : Nat) (q : StageQ) : (s.setStq k q).eths = s.eths := rfl
@[simp] theorem State.setStq_arrivals (s : State) (k : Nat) (q : StageQ) : (s.setStq k q).arrivals = s.arrivals := rfl
@[simp] theorem State.setStq_auLog (s : State) (k : Nat) (q : StageQ) : (s.setStq k q).auLog = s.auLog := rfl
@[simp] theorem State.setStq_bridge (s : State) (k : Nat) (q : StageQ) : (s.setStq k q).bridge = s.bridge := rfl
@[simp] theorem State.setStq_rcv (s : State) (k : Nat) (q : StageQ) : (s.setStq k q).rcv = s.rcv := rfl
@[simp] theorem State.setStq_dkr (s : State) (k : Nat) (q : StageQ) : (s.setStq k q).dkr = s.dkr := rfl
@[simp] theorem State.setStq_sb (s : State) (k : Nat) (q : StageQ) : (s.setStq k q).sb = s.sb := rfl
@[simp] theorem State.setStq_tap (s : State) (k : Nat) (q : StageQ) : (s.setStq k q).tap = s.tap := rfl
@[simp] theorem State.setStq_pwr (s : State) (k : Nat) (q : StageQ) : (s.setStq k q).pwr = s.pwr := rfl
@[simp] theorem State.setStq_pcie (s : State) (k : Nat) (q : StageQ) : (s.setStq k q).pcie = s.pcie := rfl
@[simp] theorem State.setStq_provId (s : State) (k : Nat) (q : StageQ) : (s.setStq k q).provId = s.provId := rfl
@[simp] theorem State.setStq_fwVer (s : State) (k : Nat) (q : StageQ) : (s.setStq k q).fwVer = s.fwVer := rfl
@[simp] theorem State.setStq_log (s : State) (k : Nat) (q : StageQ) : (s.setStq k q).log = s.log := rfl
@[simp] theorem State.setStq_job (s : State) (k : Nat) (q : StageQ) : (s.setStq k q).job = s.job := rfl
@[simp] theorem State.setStq_fix (s : State) (k : Nat) (q : StageQ) : (s.setStq k q).fix = s.fix := rfl
@[simp] theorem State.setStq_ck (s : State) (k : Nat) (q : StageQ) : (s.setStq k q).ck = s.ck := rfl
@[simp] theorem State.setStq_kpr (s : State) (k : Nat) (q : StageQ) : (s.setStq k q).kpr = s.kpr := rfl
@[simp] theorem State.setStq_sheets (s : State) (k : Nat) (q : StageQ) : (s.setStq k q).sheets = s.sheets := rfl
@[simp] theorem State.setStq_scrubQ (s : State) (k : Nat) (q : StageQ) : (s.setStq k q).scrubQ = s.scrubQ := rfl
@[simp] theorem State.setStq_gshift (s : State) (k : Nat) (q : StageQ) : (s.setStq k q).gshift = s.gshift := rfl
@[simp] theorem State.setStq_out (s : State) (k : Nat) (q : StageQ) : (s.setStq k q).out = s.out := rfl
@[simp] theorem State.setStq_free (s : State) (k : Nat) (q : StageQ) : (s.setStq k q).free = s.free := rfl
@[simp] theorem State.setStq_pending (s : State) (k : Nat) (q : StageQ) : (s.setStq k q).pending = s.pending := rfl
@[simp] theorem State.setStq_rd (s : State) (k : Nat) (q : StageQ) (unit : Nat) (fld : Field) :
    (s.setStq k q).rd unit fld = s.rd unit fld := rfl
@[simp] theorem State.setStq_bytesAt (s : State) (k : Nat) (q : StageQ) (base cnt : Nat) :
    (s.setStq k q).bytesAt base cnt = s.bytesAt base cnt := rfl
@[simp] theorem State.setStq_numAt (s : State) (k : Nat) (q : StageQ) (base cnt : Nat) :
    (s.setStq k q).numAt base cnt = s.numAt base cnt := rfl

/-! `State.setPort` changes `ports` and `regs` alone. -/

@[simp] theorem State.setPort_mem (s : State) (p : Nat) (x : PortSt) : (s.setPort p x).mem = s.mem := rfl
@[simp] theorem State.setPort_ecc (s : State) (p : Nat) (x : PortSt) : (s.setPort p x).ecc = s.ecc := rfl
@[simp] theorem State.setPort_net (s : State) (p : Nat) (x : PortSt) : (s.setPort p x).net = s.net := rfl
@[simp] theorem State.setPort_cores (s : State) (p : Nat) (x : PortSt) : (s.setPort p x).cores = s.cores := rfl
@[simp] theorem State.setPort_gmes (s : State) (p : Nat) (x : PortSt) : (s.setPort p x).gmes = s.gmes := rfl
@[simp] theorem State.setPort_arbs (s : State) (p : Nat) (x : PortSt) : (s.setPort p x).arbs = s.arbs := rfl
@[simp] theorem State.setPort_tus (s : State) (p : Nat) (x : PortSt) : (s.setPort p x).tus = s.tus := rfl
@[simp] theorem State.setPort_routes (s : State) (p : Nat) (x : PortSt) : (s.setPort p x).routes = s.routes := rfl
@[simp] theorem State.setPort_disc (s : State) (p : Nat) (x : PortSt) : (s.setPort p x).disc = s.disc := rfl
@[simp] theorem State.setPort_awaiting (s : State) (p : Nat) (x : PortSt) : (s.setPort p x).awaiting = s.awaiting := rfl
@[simp] theorem State.setPort_patrol (s : State) (p : Nat) (x : PortSt) : (s.setPort p x).patrol = s.patrol := rfl
@[simp] theorem State.setPort_heldTx (s : State) (p : Nat) (x : PortSt) : (s.setPort p x).heldTx = s.heldTx := rfl
@[simp] theorem State.setPort_apps (s : State) (p : Nat) (x : PortSt) : (s.setPort p x).apps = s.apps := rfl
@[simp] theorem State.setPort_groups (s : State) (p : Nat) (x : PortSt) : (s.setPort p x).groups = s.groups := rfl
@[simp] theorem State.setPort_stqs (s : State) (p : Nat) (x : PortSt) : (s.setPort p x).stqs = s.stqs := rfl
@[simp] theorem State.setPort_red (s : State) (p : Nat) (x : PortSt) : (s.setPort p x).red = s.red := rfl
@[simp] theorem State.setPort_ues (s : State) (p : Nat) (x : PortSt) : (s.setPort p x).ues = s.ues := rfl
@[simp] theorem State.setPort_streams (s : State) (p : Nat) (x : PortSt) : (s.setPort p x).streams = s.streams := rfl
@[simp] theorem State.setPort_qps (s : State) (p : Nat) (x : PortSt) : (s.setPort p x).qps = s.qps := rfl
@[simp] theorem State.setPort_eths (s : State) (p : Nat) (x : PortSt) : (s.setPort p x).eths = s.eths := rfl
@[simp] theorem State.setPort_arrivals (s : State) (p : Nat) (x : PortSt) : (s.setPort p x).arrivals = s.arrivals := rfl
@[simp] theorem State.setPort_auLog (s : State) (p : Nat) (x : PortSt) : (s.setPort p x).auLog = s.auLog := rfl
@[simp] theorem State.setPort_bridge (s : State) (p : Nat) (x : PortSt) : (s.setPort p x).bridge = s.bridge := rfl
@[simp] theorem State.setPort_rcv (s : State) (p : Nat) (x : PortSt) : (s.setPort p x).rcv = s.rcv := rfl
@[simp] theorem State.setPort_dkr (s : State) (p : Nat) (x : PortSt) : (s.setPort p x).dkr = s.dkr := rfl
@[simp] theorem State.setPort_sb (s : State) (p : Nat) (x : PortSt) : (s.setPort p x).sb = s.sb := rfl
@[simp] theorem State.setPort_tap (s : State) (p : Nat) (x : PortSt) : (s.setPort p x).tap = s.tap := rfl
@[simp] theorem State.setPort_pwr (s : State) (p : Nat) (x : PortSt) : (s.setPort p x).pwr = s.pwr := rfl
@[simp] theorem State.setPort_pcie (s : State) (p : Nat) (x : PortSt) : (s.setPort p x).pcie = s.pcie := rfl
@[simp] theorem State.setPort_provId (s : State) (p : Nat) (x : PortSt) : (s.setPort p x).provId = s.provId := rfl
@[simp] theorem State.setPort_fwVer (s : State) (p : Nat) (x : PortSt) : (s.setPort p x).fwVer = s.fwVer := rfl
@[simp] theorem State.setPort_log (s : State) (p : Nat) (x : PortSt) : (s.setPort p x).log = s.log := rfl
@[simp] theorem State.setPort_job (s : State) (p : Nat) (x : PortSt) : (s.setPort p x).job = s.job := rfl
@[simp] theorem State.setPort_fix (s : State) (p : Nat) (x : PortSt) : (s.setPort p x).fix = s.fix := rfl
@[simp] theorem State.setPort_ck (s : State) (p : Nat) (x : PortSt) : (s.setPort p x).ck = s.ck := rfl
@[simp] theorem State.setPort_kpr (s : State) (p : Nat) (x : PortSt) : (s.setPort p x).kpr = s.kpr := rfl
@[simp] theorem State.setPort_sheets (s : State) (p : Nat) (x : PortSt) : (s.setPort p x).sheets = s.sheets := rfl
@[simp] theorem State.setPort_scrubQ (s : State) (p : Nat) (x : PortSt) : (s.setPort p x).scrubQ = s.scrubQ := rfl
@[simp] theorem State.setPort_gshift (s : State) (p : Nat) (x : PortSt) : (s.setPort p x).gshift = s.gshift := rfl
@[simp] theorem State.setPort_out (s : State) (p : Nat) (x : PortSt) : (s.setPort p x).out = s.out := rfl
@[simp] theorem State.setPort_free (s : State) (p : Nat) (x : PortSt) : (s.setPort p x).free = s.free := rfl
@[simp] theorem State.setPort_pending (s : State) (p : Nat) (x : PortSt) : (s.setPort p x).pending = s.pending := rfl
@[simp] theorem State.setPort_bytesAt (s : State) (p : Nat) (x : PortSt) (base cnt : Nat) :
    (s.setPort p x).bytesAt base cnt = s.bytesAt base cnt := rfl
@[simp] theorem State.setPort_numAt (s : State) (p : Nat) (x : PortSt) (base cnt : Nat) :
    (s.setPort p x).numAt base cnt = s.numAt base cnt := rfl

/-! `State.setGme` changes `gmes` alone. -/

@[simp] theorem State.setGme_regs (s : State) (die e : Nat) (g : GmeSt) : (s.setGme die e g).regs = s.regs := rfl
@[simp] theorem State.setGme_mem (s : State) (die e : Nat) (g : GmeSt) : (s.setGme die e g).mem = s.mem := rfl
@[simp] theorem State.setGme_ecc (s : State) (die e : Nat) (g : GmeSt) : (s.setGme die e g).ecc = s.ecc := rfl
@[simp] theorem State.setGme_net (s : State) (die e : Nat) (g : GmeSt) : (s.setGme die e g).net = s.net := rfl
@[simp] theorem State.setGme_cores (s : State) (die e : Nat) (g : GmeSt) : (s.setGme die e g).cores = s.cores := rfl
@[simp] theorem State.setGme_arbs (s : State) (die e : Nat) (g : GmeSt) : (s.setGme die e g).arbs = s.arbs := rfl
@[simp] theorem State.setGme_tus (s : State) (die e : Nat) (g : GmeSt) : (s.setGme die e g).tus = s.tus := rfl
@[simp] theorem State.setGme_ports (s : State) (die e : Nat) (g : GmeSt) : (s.setGme die e g).ports = s.ports := rfl
@[simp] theorem State.setGme_routes (s : State) (die e : Nat) (g : GmeSt) : (s.setGme die e g).routes = s.routes := rfl
@[simp] theorem State.setGme_disc (s : State) (die e : Nat) (g : GmeSt) : (s.setGme die e g).disc = s.disc := rfl
@[simp] theorem State.setGme_awaiting (s : State) (die e : Nat) (g : GmeSt) : (s.setGme die e g).awaiting = s.awaiting := rfl
@[simp] theorem State.setGme_patrol (s : State) (die e : Nat) (g : GmeSt) : (s.setGme die e g).patrol = s.patrol := rfl
@[simp] theorem State.setGme_heldTx (s : State) (die e : Nat) (g : GmeSt) : (s.setGme die e g).heldTx = s.heldTx := rfl
@[simp] theorem State.setGme_apps (s : State) (die e : Nat) (g : GmeSt) : (s.setGme die e g).apps = s.apps := rfl
@[simp] theorem State.setGme_groups (s : State) (die e : Nat) (g : GmeSt) : (s.setGme die e g).groups = s.groups := rfl
@[simp] theorem State.setGme_stqs (s : State) (die e : Nat) (g : GmeSt) : (s.setGme die e g).stqs = s.stqs := rfl
@[simp] theorem State.setGme_red (s : State) (die e : Nat) (g : GmeSt) : (s.setGme die e g).red = s.red := rfl
@[simp] theorem State.setGme_ues (s : State) (die e : Nat) (g : GmeSt) : (s.setGme die e g).ues = s.ues := rfl
@[simp] theorem State.setGme_streams (s : State) (die e : Nat) (g : GmeSt) : (s.setGme die e g).streams = s.streams := rfl
@[simp] theorem State.setGme_qps (s : State) (die e : Nat) (g : GmeSt) : (s.setGme die e g).qps = s.qps := rfl
@[simp] theorem State.setGme_eths (s : State) (die e : Nat) (g : GmeSt) : (s.setGme die e g).eths = s.eths := rfl
@[simp] theorem State.setGme_arrivals (s : State) (die e : Nat) (g : GmeSt) : (s.setGme die e g).arrivals = s.arrivals := rfl
@[simp] theorem State.setGme_auLog (s : State) (die e : Nat) (g : GmeSt) : (s.setGme die e g).auLog = s.auLog := rfl
@[simp] theorem State.setGme_bridge (s : State) (die e : Nat) (g : GmeSt) : (s.setGme die e g).bridge = s.bridge := rfl
@[simp] theorem State.setGme_rcv (s : State) (die e : Nat) (g : GmeSt) : (s.setGme die e g).rcv = s.rcv := rfl
@[simp] theorem State.setGme_dkr (s : State) (die e : Nat) (g : GmeSt) : (s.setGme die e g).dkr = s.dkr := rfl
@[simp] theorem State.setGme_sb (s : State) (die e : Nat) (g : GmeSt) : (s.setGme die e g).sb = s.sb := rfl
@[simp] theorem State.setGme_tap (s : State) (die e : Nat) (g : GmeSt) : (s.setGme die e g).tap = s.tap := rfl
@[simp] theorem State.setGme_pwr (s : State) (die e : Nat) (g : GmeSt) : (s.setGme die e g).pwr = s.pwr := rfl
@[simp] theorem State.setGme_pcie (s : State) (die e : Nat) (g : GmeSt) : (s.setGme die e g).pcie = s.pcie := rfl
@[simp] theorem State.setGme_provId (s : State) (die e : Nat) (g : GmeSt) : (s.setGme die e g).provId = s.provId := rfl
@[simp] theorem State.setGme_fwVer (s : State) (die e : Nat) (g : GmeSt) : (s.setGme die e g).fwVer = s.fwVer := rfl
@[simp] theorem State.setGme_log (s : State) (die e : Nat) (g : GmeSt) : (s.setGme die e g).log = s.log := rfl
@[simp] theorem State.setGme_job (s : State) (die e : Nat) (g : GmeSt) : (s.setGme die e g).job = s.job := rfl
@[simp] theorem State.setGme_fix (s : State) (die e : Nat) (g : GmeSt) : (s.setGme die e g).fix = s.fix := rfl
@[simp] theorem State.setGme_ck (s : State) (die e : Nat) (g : GmeSt) : (s.setGme die e g).ck = s.ck := rfl
@[simp] theorem State.setGme_kpr (s : State) (die e : Nat) (g : GmeSt) : (s.setGme die e g).kpr = s.kpr := rfl
@[simp] theorem State.setGme_sheets (s : State) (die e : Nat) (g : GmeSt) : (s.setGme die e g).sheets = s.sheets := rfl
@[simp] theorem State.setGme_scrubQ (s : State) (die e : Nat) (g : GmeSt) : (s.setGme die e g).scrubQ = s.scrubQ := rfl
@[simp] theorem State.setGme_gshift (s : State) (die e : Nat) (g : GmeSt) : (s.setGme die e g).gshift = s.gshift := rfl
@[simp] theorem State.setGme_out (s : State) (die e : Nat) (g : GmeSt) : (s.setGme die e g).out = s.out := rfl
@[simp] theorem State.setGme_free (s : State) (die e : Nat) (g : GmeSt) : (s.setGme die e g).free = s.free := rfl
@[simp] theorem State.setGme_pending (s : State) (die e : Nat) (g : GmeSt) : (s.setGme die e g).pending = s.pending := rfl
@[simp] theorem State.setGme_rd (s : State) (die e : Nat) (g : GmeSt) (unit : Nat) (fld : Field) :
    (s.setGme die e g).rd unit fld = s.rd unit fld := rfl
@[simp] theorem State.setGme_bytesAt (s : State) (die e : Nat) (g : GmeSt) (base cnt : Nat) :
    (s.setGme die e g).bytesAt base cnt = s.bytesAt base cnt := rfl
@[simp] theorem State.setGme_numAt (s : State) (die e : Nat) (g : GmeSt) (base cnt : Nat) :
    (s.setGme die e g).numAt base cnt = s.numAt base cnt := rfl

/-! `State.setStream` changes `streams` and `regs` alone. -/

@[simp] theorem State.setStream_mem (s : State) (slot : Nat) (x : StreamRun) : (s.setStream slot x).mem = s.mem := rfl
@[simp] theorem State.setStream_ecc (s : State) (slot : Nat) (x : StreamRun) : (s.setStream slot x).ecc = s.ecc := rfl
@[simp] theorem State.setStream_net (s : State) (slot : Nat) (x : StreamRun) : (s.setStream slot x).net = s.net := rfl
@[simp] theorem State.setStream_cores (s : State) (slot : Nat) (x : StreamRun) : (s.setStream slot x).cores = s.cores := rfl
@[simp] theorem State.setStream_gmes (s : State) (slot : Nat) (x : StreamRun) : (s.setStream slot x).gmes = s.gmes := rfl
@[simp] theorem State.setStream_arbs (s : State) (slot : Nat) (x : StreamRun) : (s.setStream slot x).arbs = s.arbs := rfl
@[simp] theorem State.setStream_tus (s : State) (slot : Nat) (x : StreamRun) : (s.setStream slot x).tus = s.tus := rfl
@[simp] theorem State.setStream_ports (s : State) (slot : Nat) (x : StreamRun) : (s.setStream slot x).ports = s.ports := rfl
@[simp] theorem State.setStream_routes (s : State) (slot : Nat) (x : StreamRun) : (s.setStream slot x).routes = s.routes := rfl
@[simp] theorem State.setStream_disc (s : State) (slot : Nat) (x : StreamRun) : (s.setStream slot x).disc = s.disc := rfl
@[simp] theorem State.setStream_awaiting (s : State) (slot : Nat) (x : StreamRun) : (s.setStream slot x).awaiting = s.awaiting := rfl
@[simp] theorem State.setStream_patrol (s : State) (slot : Nat) (x : StreamRun) : (s.setStream slot x).patrol = s.patrol := rfl
@[simp] theorem State.setStream_heldTx (s : State) (slot : Nat) (x : StreamRun) : (s.setStream slot x).heldTx = s.heldTx := rfl
@[simp] theorem State.setStream_apps (s : State) (slot : Nat) (x : StreamRun) : (s.setStream slot x).apps = s.apps := rfl
@[simp] theorem State.setStream_groups (s : State) (slot : Nat) (x : StreamRun) : (s.setStream slot x).groups = s.groups := rfl
@[simp] theorem State.setStream_stqs (s : State) (slot : Nat) (x : StreamRun) : (s.setStream slot x).stqs = s.stqs := rfl
@[simp] theorem State.setStream_red (s : State) (slot : Nat) (x : StreamRun) : (s.setStream slot x).red = s.red := rfl
@[simp] theorem State.setStream_ues (s : State) (slot : Nat) (x : StreamRun) : (s.setStream slot x).ues = s.ues := rfl
@[simp] theorem State.setStream_qps (s : State) (slot : Nat) (x : StreamRun) : (s.setStream slot x).qps = s.qps := rfl
@[simp] theorem State.setStream_eths (s : State) (slot : Nat) (x : StreamRun) : (s.setStream slot x).eths = s.eths := rfl
@[simp] theorem State.setStream_arrivals (s : State) (slot : Nat) (x : StreamRun) : (s.setStream slot x).arrivals = s.arrivals := rfl
@[simp] theorem State.setStream_auLog (s : State) (slot : Nat) (x : StreamRun) : (s.setStream slot x).auLog = s.auLog := rfl
@[simp] theorem State.setStream_bridge (s : State) (slot : Nat) (x : StreamRun) : (s.setStream slot x).bridge = s.bridge := rfl
@[simp] theorem State.setStream_rcv (s : State) (slot : Nat) (x : StreamRun) : (s.setStream slot x).rcv = s.rcv := rfl
@[simp] theorem State.setStream_dkr (s : State) (slot : Nat) (x : StreamRun) : (s.setStream slot x).dkr = s.dkr := rfl
@[simp] theorem State.setStream_sb (s : State) (slot : Nat) (x : StreamRun) : (s.setStream slot x).sb = s.sb := rfl
@[simp] theorem State.setStream_tap (s : State) (slot : Nat) (x : StreamRun) : (s.setStream slot x).tap = s.tap := rfl
@[simp] theorem State.setStream_pwr (s : State) (slot : Nat) (x : StreamRun) : (s.setStream slot x).pwr = s.pwr := rfl
@[simp] theorem State.setStream_pcie (s : State) (slot : Nat) (x : StreamRun) : (s.setStream slot x).pcie = s.pcie := rfl
@[simp] theorem State.setStream_provId (s : State) (slot : Nat) (x : StreamRun) : (s.setStream slot x).provId = s.provId := rfl
@[simp] theorem State.setStream_fwVer (s : State) (slot : Nat) (x : StreamRun) : (s.setStream slot x).fwVer = s.fwVer := rfl
@[simp] theorem State.setStream_log (s : State) (slot : Nat) (x : StreamRun) : (s.setStream slot x).log = s.log := rfl
@[simp] theorem State.setStream_job (s : State) (slot : Nat) (x : StreamRun) : (s.setStream slot x).job = s.job := rfl
@[simp] theorem State.setStream_fix (s : State) (slot : Nat) (x : StreamRun) : (s.setStream slot x).fix = s.fix := rfl
@[simp] theorem State.setStream_ck (s : State) (slot : Nat) (x : StreamRun) : (s.setStream slot x).ck = s.ck := rfl
@[simp] theorem State.setStream_kpr (s : State) (slot : Nat) (x : StreamRun) : (s.setStream slot x).kpr = s.kpr := rfl
@[simp] theorem State.setStream_sheets (s : State) (slot : Nat) (x : StreamRun) : (s.setStream slot x).sheets = s.sheets := rfl
@[simp] theorem State.setStream_scrubQ (s : State) (slot : Nat) (x : StreamRun) : (s.setStream slot x).scrubQ = s.scrubQ := rfl
@[simp] theorem State.setStream_gshift (s : State) (slot : Nat) (x : StreamRun) : (s.setStream slot x).gshift = s.gshift := rfl
@[simp] theorem State.setStream_out (s : State) (slot : Nat) (x : StreamRun) : (s.setStream slot x).out = s.out := rfl
@[simp] theorem State.setStream_free (s : State) (slot : Nat) (x : StreamRun) : (s.setStream slot x).free = s.free := rfl
@[simp] theorem State.setStream_pending (s : State) (slot : Nat) (x : StreamRun) : (s.setStream slot x).pending = s.pending := rfl
@[simp] theorem State.setStream_bytesAt (s : State) (slot : Nat) (x : StreamRun) (base cnt : Nat) :
    (s.setStream slot x).bytesAt base cnt = s.bytesAt base cnt := rfl
@[simp] theorem State.setStream_numAt (s : State) (slot : Nat) (x : StreamRun) (base cnt : Nat) :
    (s.setStream slot x).numAt base cnt = s.numAt base cnt := rfl

/-! `State.setQp` changes `qps` alone. -/

@[simp] theorem State.setQp_regs (s : State) (i : Nat) (q : QueuePair) : (s.setQp i q).regs = s.regs := rfl
@[simp] theorem State.setQp_mem (s : State) (i : Nat) (q : QueuePair) : (s.setQp i q).mem = s.mem := rfl
@[simp] theorem State.setQp_ecc (s : State) (i : Nat) (q : QueuePair) : (s.setQp i q).ecc = s.ecc := rfl
@[simp] theorem State.setQp_net (s : State) (i : Nat) (q : QueuePair) : (s.setQp i q).net = s.net := rfl
@[simp] theorem State.setQp_cores (s : State) (i : Nat) (q : QueuePair) : (s.setQp i q).cores = s.cores := rfl
@[simp] theorem State.setQp_gmes (s : State) (i : Nat) (q : QueuePair) : (s.setQp i q).gmes = s.gmes := rfl
@[simp] theorem State.setQp_arbs (s : State) (i : Nat) (q : QueuePair) : (s.setQp i q).arbs = s.arbs := rfl
@[simp] theorem State.setQp_tus (s : State) (i : Nat) (q : QueuePair) : (s.setQp i q).tus = s.tus := rfl
@[simp] theorem State.setQp_ports (s : State) (i : Nat) (q : QueuePair) : (s.setQp i q).ports = s.ports := rfl
@[simp] theorem State.setQp_routes (s : State) (i : Nat) (q : QueuePair) : (s.setQp i q).routes = s.routes := rfl
@[simp] theorem State.setQp_disc (s : State) (i : Nat) (q : QueuePair) : (s.setQp i q).disc = s.disc := rfl
@[simp] theorem State.setQp_awaiting (s : State) (i : Nat) (q : QueuePair) : (s.setQp i q).awaiting = s.awaiting := rfl
@[simp] theorem State.setQp_patrol (s : State) (i : Nat) (q : QueuePair) : (s.setQp i q).patrol = s.patrol := rfl
@[simp] theorem State.setQp_heldTx (s : State) (i : Nat) (q : QueuePair) : (s.setQp i q).heldTx = s.heldTx := rfl
@[simp] theorem State.setQp_apps (s : State) (i : Nat) (q : QueuePair) : (s.setQp i q).apps = s.apps := rfl
@[simp] theorem State.setQp_groups (s : State) (i : Nat) (q : QueuePair) : (s.setQp i q).groups = s.groups := rfl
@[simp] theorem State.setQp_stqs (s : State) (i : Nat) (q : QueuePair) : (s.setQp i q).stqs = s.stqs := rfl
@[simp] theorem State.setQp_red (s : State) (i : Nat) (q : QueuePair) : (s.setQp i q).red = s.red := rfl
@[simp] theorem State.setQp_ues (s : State) (i : Nat) (q : QueuePair) : (s.setQp i q).ues = s.ues := rfl
@[simp] theorem State.setQp_streams (s : State) (i : Nat) (q : QueuePair) : (s.setQp i q).streams = s.streams := rfl
@[simp] theorem State.setQp_eths (s : State) (i : Nat) (q : QueuePair) : (s.setQp i q).eths = s.eths := rfl
@[simp] theorem State.setQp_arrivals (s : State) (i : Nat) (q : QueuePair) : (s.setQp i q).arrivals = s.arrivals := rfl
@[simp] theorem State.setQp_auLog (s : State) (i : Nat) (q : QueuePair) : (s.setQp i q).auLog = s.auLog := rfl
@[simp] theorem State.setQp_bridge (s : State) (i : Nat) (q : QueuePair) : (s.setQp i q).bridge = s.bridge := rfl
@[simp] theorem State.setQp_rcv (s : State) (i : Nat) (q : QueuePair) : (s.setQp i q).rcv = s.rcv := rfl
@[simp] theorem State.setQp_dkr (s : State) (i : Nat) (q : QueuePair) : (s.setQp i q).dkr = s.dkr := rfl
@[simp] theorem State.setQp_sb (s : State) (i : Nat) (q : QueuePair) : (s.setQp i q).sb = s.sb := rfl
@[simp] theorem State.setQp_tap (s : State) (i : Nat) (q : QueuePair) : (s.setQp i q).tap = s.tap := rfl
@[simp] theorem State.setQp_pwr (s : State) (i : Nat) (q : QueuePair) : (s.setQp i q).pwr = s.pwr := rfl
@[simp] theorem State.setQp_pcie (s : State) (i : Nat) (q : QueuePair) : (s.setQp i q).pcie = s.pcie := rfl
@[simp] theorem State.setQp_provId (s : State) (i : Nat) (q : QueuePair) : (s.setQp i q).provId = s.provId := rfl
@[simp] theorem State.setQp_fwVer (s : State) (i : Nat) (q : QueuePair) : (s.setQp i q).fwVer = s.fwVer := rfl
@[simp] theorem State.setQp_log (s : State) (i : Nat) (q : QueuePair) : (s.setQp i q).log = s.log := rfl
@[simp] theorem State.setQp_job (s : State) (i : Nat) (q : QueuePair) : (s.setQp i q).job = s.job := rfl
@[simp] theorem State.setQp_fix (s : State) (i : Nat) (q : QueuePair) : (s.setQp i q).fix = s.fix := rfl
@[simp] theorem State.setQp_ck (s : State) (i : Nat) (q : QueuePair) : (s.setQp i q).ck = s.ck := rfl
@[simp] theorem State.setQp_kpr (s : State) (i : Nat) (q : QueuePair) : (s.setQp i q).kpr = s.kpr := rfl
@[simp] theorem State.setQp_sheets (s : State) (i : Nat) (q : QueuePair) : (s.setQp i q).sheets = s.sheets := rfl
@[simp] theorem State.setQp_scrubQ (s : State) (i : Nat) (q : QueuePair) : (s.setQp i q).scrubQ = s.scrubQ := rfl
@[simp] theorem State.setQp_gshift (s : State) (i : Nat) (q : QueuePair) : (s.setQp i q).gshift = s.gshift := rfl
@[simp] theorem State.setQp_out (s : State) (i : Nat) (q : QueuePair) : (s.setQp i q).out = s.out := rfl
@[simp] theorem State.setQp_free (s : State) (i : Nat) (q : QueuePair) : (s.setQp i q).free = s.free := rfl
@[simp] theorem State.setQp_pending (s : State) (i : Nat) (q : QueuePair) : (s.setQp i q).pending = s.pending := rfl
@[simp] theorem State.setQp_rd (s : State) (i : Nat) (q : QueuePair) (unit : Nat) (fld : Field) :
    (s.setQp i q).rd unit fld = s.rd unit fld := rfl
@[simp] theorem State.setQp_bytesAt (s : State) (i : Nat) (q : QueuePair) (base cnt : Nat) :
    (s.setQp i q).bytesAt base cnt = s.bytesAt base cnt := rfl
@[simp] theorem State.setQp_numAt (s : State) (i : Nat) (q : QueuePair) (base cnt : Nat) :
    (s.setQp i q).numAt base cnt = s.numAt base cnt := rfl

/-! `State.setUe` changes `ues` alone. -/

@[simp] theorem State.setUe_regs (s : State) (die : Nat) (u : UeSt) : (s.setUe die u).regs = s.regs := rfl
@[simp] theorem State.setUe_mem (s : State) (die : Nat) (u : UeSt) : (s.setUe die u).mem = s.mem := rfl
@[simp] theorem State.setUe_ecc (s : State) (die : Nat) (u : UeSt) : (s.setUe die u).ecc = s.ecc := rfl
@[simp] theorem State.setUe_net (s : State) (die : Nat) (u : UeSt) : (s.setUe die u).net = s.net := rfl
@[simp] theorem State.setUe_cores (s : State) (die : Nat) (u : UeSt) : (s.setUe die u).cores = s.cores := rfl
@[simp] theorem State.setUe_gmes (s : State) (die : Nat) (u : UeSt) : (s.setUe die u).gmes = s.gmes := rfl
@[simp] theorem State.setUe_arbs (s : State) (die : Nat) (u : UeSt) : (s.setUe die u).arbs = s.arbs := rfl
@[simp] theorem State.setUe_tus (s : State) (die : Nat) (u : UeSt) : (s.setUe die u).tus = s.tus := rfl
@[simp] theorem State.setUe_ports (s : State) (die : Nat) (u : UeSt) : (s.setUe die u).ports = s.ports := rfl
@[simp] theorem State.setUe_routes (s : State) (die : Nat) (u : UeSt) : (s.setUe die u).routes = s.routes := rfl
@[simp] theorem State.setUe_disc (s : State) (die : Nat) (u : UeSt) : (s.setUe die u).disc = s.disc := rfl
@[simp] theorem State.setUe_awaiting (s : State) (die : Nat) (u : UeSt) : (s.setUe die u).awaiting = s.awaiting := rfl
@[simp] theorem State.setUe_patrol (s : State) (die : Nat) (u : UeSt) : (s.setUe die u).patrol = s.patrol := rfl
@[simp] theorem State.setUe_heldTx (s : State) (die : Nat) (u : UeSt) : (s.setUe die u).heldTx = s.heldTx := rfl
@[simp] theorem State.setUe_apps (s : State) (die : Nat) (u : UeSt) : (s.setUe die u).apps = s.apps := rfl
@[simp] theorem State.setUe_groups (s : State) (die : Nat) (u : UeSt) : (s.setUe die u).groups = s.groups := rfl
@[simp] theorem State.setUe_stqs (s : State) (die : Nat) (u : UeSt) : (s.setUe die u).stqs = s.stqs := rfl
@[simp] theorem State.setUe_red (s : State) (die : Nat) (u : UeSt) : (s.setUe die u).red = s.red := rfl
@[simp] theorem State.setUe_streams (s : State) (die : Nat) (u : UeSt) : (s.setUe die u).streams = s.streams := rfl
@[simp] theorem State.setUe_qps (s : State) (die : Nat) (u : UeSt) : (s.setUe die u).qps = s.qps := rfl
@[simp] theorem State.setUe_eths (s : State) (die : Nat) (u : UeSt) : (s.setUe die u).eths = s.eths := rfl
@[simp] theorem State.setUe_arrivals (s : State) (die : Nat) (u : UeSt) : (s.setUe die u).arrivals = s.arrivals := rfl
@[simp] theorem State.setUe_auLog (s : State) (die : Nat) (u : UeSt) : (s.setUe die u).auLog = s.auLog := rfl
@[simp] theorem State.setUe_bridge (s : State) (die : Nat) (u : UeSt) : (s.setUe die u).bridge = s.bridge := rfl
@[simp] theorem State.setUe_rcv (s : State) (die : Nat) (u : UeSt) : (s.setUe die u).rcv = s.rcv := rfl
@[simp] theorem State.setUe_dkr (s : State) (die : Nat) (u : UeSt) : (s.setUe die u).dkr = s.dkr := rfl
@[simp] theorem State.setUe_sb (s : State) (die : Nat) (u : UeSt) : (s.setUe die u).sb = s.sb := rfl
@[simp] theorem State.setUe_tap (s : State) (die : Nat) (u : UeSt) : (s.setUe die u).tap = s.tap := rfl
@[simp] theorem State.setUe_pwr (s : State) (die : Nat) (u : UeSt) : (s.setUe die u).pwr = s.pwr := rfl
@[simp] theorem State.setUe_pcie (s : State) (die : Nat) (u : UeSt) : (s.setUe die u).pcie = s.pcie := rfl
@[simp] theorem State.setUe_provId (s : State) (die : Nat) (u : UeSt) : (s.setUe die u).provId = s.provId := rfl
@[simp] theorem State.setUe_fwVer (s : State) (die : Nat) (u : UeSt) : (s.setUe die u).fwVer = s.fwVer := rfl
@[simp] theorem State.setUe_log (s : State) (die : Nat) (u : UeSt) : (s.setUe die u).log = s.log := rfl
@[simp] theorem State.setUe_job (s : State) (die : Nat) (u : UeSt) : (s.setUe die u).job = s.job := rfl
@[simp] theorem State.setUe_fix (s : State) (die : Nat) (u : UeSt) : (s.setUe die u).fix = s.fix := rfl
@[simp] theorem State.setUe_ck (s : State) (die : Nat) (u : UeSt) : (s.setUe die u).ck = s.ck := rfl
@[simp] theorem State.setUe_kpr (s : State) (die : Nat) (u : UeSt) : (s.setUe die u).kpr = s.kpr := rfl
@[simp] theorem State.setUe_sheets (s : State) (die : Nat) (u : UeSt) : (s.setUe die u).sheets = s.sheets := rfl
@[simp] theorem State.setUe_scrubQ (s : State) (die : Nat) (u : UeSt) : (s.setUe die u).scrubQ = s.scrubQ := rfl
@[simp] theorem State.setUe_gshift (s : State) (die : Nat) (u : UeSt) : (s.setUe die u).gshift = s.gshift := rfl
@[simp] theorem State.setUe_out (s : State) (die : Nat) (u : UeSt) : (s.setUe die u).out = s.out := rfl
@[simp] theorem State.setUe_free (s : State) (die : Nat) (u : UeSt) : (s.setUe die u).free = s.free := rfl
@[simp] theorem State.setUe_pending (s : State) (die : Nat) (u : UeSt) : (s.setUe die u).pending = s.pending := rfl
@[simp] theorem State.setUe_rd (s : State) (die : Nat) (u : UeSt) (unit : Nat) (fld : Field) :
    (s.setUe die u).rd unit fld = s.rd unit fld := rfl
@[simp] theorem State.setUe_bytesAt (s : State) (die : Nat) (u : UeSt) (base cnt : Nat) :
    (s.setUe die u).bytesAt base cnt = s.bytesAt base cnt := rfl
@[simp] theorem State.setUe_numAt (s : State) (die : Nat) (u : UeSt) (base cnt : Nat) :
    (s.setUe die u).numAt base cnt = s.numAt base cnt := rfl

/-! `State.setRedLayer` changes `red` alone. -/

@[simp] theorem State.setRedLayer_regs (s : State) (layer : Nat) (l : RedLayer) : (s.setRedLayer layer l).regs = s.regs := rfl
@[simp] theorem State.setRedLayer_mem (s : State) (layer : Nat) (l : RedLayer) : (s.setRedLayer layer l).mem = s.mem := rfl
@[simp] theorem State.setRedLayer_ecc (s : State) (layer : Nat) (l : RedLayer) : (s.setRedLayer layer l).ecc = s.ecc := rfl
@[simp] theorem State.setRedLayer_net (s : State) (layer : Nat) (l : RedLayer) : (s.setRedLayer layer l).net = s.net := rfl
@[simp] theorem State.setRedLayer_cores (s : State) (layer : Nat) (l : RedLayer) : (s.setRedLayer layer l).cores = s.cores := rfl
@[simp] theorem State.setRedLayer_gmes (s : State) (layer : Nat) (l : RedLayer) : (s.setRedLayer layer l).gmes = s.gmes := rfl
@[simp] theorem State.setRedLayer_arbs (s : State) (layer : Nat) (l : RedLayer) : (s.setRedLayer layer l).arbs = s.arbs := rfl
@[simp] theorem State.setRedLayer_tus (s : State) (layer : Nat) (l : RedLayer) : (s.setRedLayer layer l).tus = s.tus := rfl
@[simp] theorem State.setRedLayer_ports (s : State) (layer : Nat) (l : RedLayer) : (s.setRedLayer layer l).ports = s.ports := rfl
@[simp] theorem State.setRedLayer_routes (s : State) (layer : Nat) (l : RedLayer) : (s.setRedLayer layer l).routes = s.routes := rfl
@[simp] theorem State.setRedLayer_disc (s : State) (layer : Nat) (l : RedLayer) : (s.setRedLayer layer l).disc = s.disc := rfl
@[simp] theorem State.setRedLayer_awaiting (s : State) (layer : Nat) (l : RedLayer) : (s.setRedLayer layer l).awaiting = s.awaiting := rfl
@[simp] theorem State.setRedLayer_patrol (s : State) (layer : Nat) (l : RedLayer) : (s.setRedLayer layer l).patrol = s.patrol := rfl
@[simp] theorem State.setRedLayer_heldTx (s : State) (layer : Nat) (l : RedLayer) : (s.setRedLayer layer l).heldTx = s.heldTx := rfl
@[simp] theorem State.setRedLayer_apps (s : State) (layer : Nat) (l : RedLayer) : (s.setRedLayer layer l).apps = s.apps := rfl
@[simp] theorem State.setRedLayer_groups (s : State) (layer : Nat) (l : RedLayer) : (s.setRedLayer layer l).groups = s.groups := rfl
@[simp] theorem State.setRedLayer_stqs (s : State) (layer : Nat) (l : RedLayer) : (s.setRedLayer layer l).stqs = s.stqs := rfl
@[simp] theorem State.setRedLayer_ues (s : State) (layer : Nat) (l : RedLayer) : (s.setRedLayer layer l).ues = s.ues := rfl
@[simp] theorem State.setRedLayer_streams (s : State) (layer : Nat) (l : RedLayer) : (s.setRedLayer layer l).streams = s.streams := rfl
@[simp] theorem State.setRedLayer_qps (s : State) (layer : Nat) (l : RedLayer) : (s.setRedLayer layer l).qps = s.qps := rfl
@[simp] theorem State.setRedLayer_eths (s : State) (layer : Nat) (l : RedLayer) : (s.setRedLayer layer l).eths = s.eths := rfl
@[simp] theorem State.setRedLayer_arrivals (s : State) (layer : Nat) (l : RedLayer) : (s.setRedLayer layer l).arrivals = s.arrivals := rfl
@[simp] theorem State.setRedLayer_auLog (s : State) (layer : Nat) (l : RedLayer) : (s.setRedLayer layer l).auLog = s.auLog := rfl
@[simp] theorem State.setRedLayer_bridge (s : State) (layer : Nat) (l : RedLayer) : (s.setRedLayer layer l).bridge = s.bridge := rfl
@[simp] theorem State.setRedLayer_rcv (s : State) (layer : Nat) (l : RedLayer) : (s.setRedLayer layer l).rcv = s.rcv := rfl
@[simp] theorem State.setRedLayer_dkr (s : State) (layer : Nat) (l : RedLayer) : (s.setRedLayer layer l).dkr = s.dkr := rfl
@[simp] theorem State.setRedLayer_sb (s : State) (layer : Nat) (l : RedLayer) : (s.setRedLayer layer l).sb = s.sb := rfl
@[simp] theorem State.setRedLayer_tap (s : State) (layer : Nat) (l : RedLayer) : (s.setRedLayer layer l).tap = s.tap := rfl
@[simp] theorem State.setRedLayer_pwr (s : State) (layer : Nat) (l : RedLayer) : (s.setRedLayer layer l).pwr = s.pwr := rfl
@[simp] theorem State.setRedLayer_pcie (s : State) (layer : Nat) (l : RedLayer) : (s.setRedLayer layer l).pcie = s.pcie := rfl
@[simp] theorem State.setRedLayer_provId (s : State) (layer : Nat) (l : RedLayer) : (s.setRedLayer layer l).provId = s.provId := rfl
@[simp] theorem State.setRedLayer_fwVer (s : State) (layer : Nat) (l : RedLayer) : (s.setRedLayer layer l).fwVer = s.fwVer := rfl
@[simp] theorem State.setRedLayer_log (s : State) (layer : Nat) (l : RedLayer) : (s.setRedLayer layer l).log = s.log := rfl
@[simp] theorem State.setRedLayer_job (s : State) (layer : Nat) (l : RedLayer) : (s.setRedLayer layer l).job = s.job := rfl
@[simp] theorem State.setRedLayer_fix (s : State) (layer : Nat) (l : RedLayer) : (s.setRedLayer layer l).fix = s.fix := rfl
@[simp] theorem State.setRedLayer_ck (s : State) (layer : Nat) (l : RedLayer) : (s.setRedLayer layer l).ck = s.ck := rfl
@[simp] theorem State.setRedLayer_kpr (s : State) (layer : Nat) (l : RedLayer) : (s.setRedLayer layer l).kpr = s.kpr := rfl
@[simp] theorem State.setRedLayer_sheets (s : State) (layer : Nat) (l : RedLayer) : (s.setRedLayer layer l).sheets = s.sheets := rfl
@[simp] theorem State.setRedLayer_scrubQ (s : State) (layer : Nat) (l : RedLayer) : (s.setRedLayer layer l).scrubQ = s.scrubQ := rfl
@[simp] theorem State.setRedLayer_gshift (s : State) (layer : Nat) (l : RedLayer) : (s.setRedLayer layer l).gshift = s.gshift := rfl
@[simp] theorem State.setRedLayer_out (s : State) (layer : Nat) (l : RedLayer) : (s.setRedLayer layer l).out = s.out := rfl
@[simp] theorem State.setRedLayer_free (s : State) (layer : Nat) (l : RedLayer) : (s.setRedLayer layer l).free = s.free := rfl
@[simp] theorem State.setRedLayer_pending (s : State) (layer : Nat) (l : RedLayer) : (s.setRedLayer layer l).pending = s.pending := rfl
@[simp] theorem State.setRedLayer_rd (s : State) (layer : Nat) (l : RedLayer) (unit : Nat) (fld : Field) :
    (s.setRedLayer layer l).rd unit fld = s.rd unit fld := rfl
@[simp] theorem State.setRedLayer_bytesAt (s : State) (layer : Nat) (l : RedLayer) (base cnt : Nat) :
    (s.setRedLayer layer l).bytesAt base cnt = s.bytesAt base cnt := rfl
@[simp] theorem State.setRedLayer_numAt (s : State) (layer : Nat) (l : RedLayer) (base cnt : Nat) :
    (s.setRedLayer layer l).numAt base cnt = s.numAt base cnt := rfl

/-! `State.setFaults` changes `log` and `regs` alone. -/

@[simp] theorem State.setFaults_mem (s : State) (l : List (Nat × Nat)) : (s.setFaults l).mem = s.mem := rfl
@[simp] theorem State.setFaults_ecc (s : State) (l : List (Nat × Nat)) : (s.setFaults l).ecc = s.ecc := rfl
@[simp] theorem State.setFaults_net (s : State) (l : List (Nat × Nat)) : (s.setFaults l).net = s.net := rfl
@[simp] theorem State.setFaults_cores (s : State) (l : List (Nat × Nat)) : (s.setFaults l).cores = s.cores := rfl
@[simp] theorem State.setFaults_gmes (s : State) (l : List (Nat × Nat)) : (s.setFaults l).gmes = s.gmes := rfl
@[simp] theorem State.setFaults_arbs (s : State) (l : List (Nat × Nat)) : (s.setFaults l).arbs = s.arbs := rfl
@[simp] theorem State.setFaults_tus (s : State) (l : List (Nat × Nat)) : (s.setFaults l).tus = s.tus := rfl
@[simp] theorem State.setFaults_ports (s : State) (l : List (Nat × Nat)) : (s.setFaults l).ports = s.ports := rfl
@[simp] theorem State.setFaults_routes (s : State) (l : List (Nat × Nat)) : (s.setFaults l).routes = s.routes := rfl
@[simp] theorem State.setFaults_disc (s : State) (l : List (Nat × Nat)) : (s.setFaults l).disc = s.disc := rfl
@[simp] theorem State.setFaults_awaiting (s : State) (l : List (Nat × Nat)) : (s.setFaults l).awaiting = s.awaiting := rfl
@[simp] theorem State.setFaults_patrol (s : State) (l : List (Nat × Nat)) : (s.setFaults l).patrol = s.patrol := rfl
@[simp] theorem State.setFaults_heldTx (s : State) (l : List (Nat × Nat)) : (s.setFaults l).heldTx = s.heldTx := rfl
@[simp] theorem State.setFaults_apps (s : State) (l : List (Nat × Nat)) : (s.setFaults l).apps = s.apps := rfl
@[simp] theorem State.setFaults_groups (s : State) (l : List (Nat × Nat)) : (s.setFaults l).groups = s.groups := rfl
@[simp] theorem State.setFaults_stqs (s : State) (l : List (Nat × Nat)) : (s.setFaults l).stqs = s.stqs := rfl
@[simp] theorem State.setFaults_red (s : State) (l : List (Nat × Nat)) : (s.setFaults l).red = s.red := rfl
@[simp] theorem State.setFaults_ues (s : State) (l : List (Nat × Nat)) : (s.setFaults l).ues = s.ues := rfl
@[simp] theorem State.setFaults_streams (s : State) (l : List (Nat × Nat)) : (s.setFaults l).streams = s.streams := rfl
@[simp] theorem State.setFaults_qps (s : State) (l : List (Nat × Nat)) : (s.setFaults l).qps = s.qps := rfl
@[simp] theorem State.setFaults_eths (s : State) (l : List (Nat × Nat)) : (s.setFaults l).eths = s.eths := rfl
@[simp] theorem State.setFaults_arrivals (s : State) (l : List (Nat × Nat)) : (s.setFaults l).arrivals = s.arrivals := rfl
@[simp] theorem State.setFaults_auLog (s : State) (l : List (Nat × Nat)) : (s.setFaults l).auLog = s.auLog := rfl
@[simp] theorem State.setFaults_bridge (s : State) (l : List (Nat × Nat)) : (s.setFaults l).bridge = s.bridge := rfl
@[simp] theorem State.setFaults_rcv (s : State) (l : List (Nat × Nat)) : (s.setFaults l).rcv = s.rcv := rfl
@[simp] theorem State.setFaults_dkr (s : State) (l : List (Nat × Nat)) : (s.setFaults l).dkr = s.dkr := rfl
@[simp] theorem State.setFaults_sb (s : State) (l : List (Nat × Nat)) : (s.setFaults l).sb = s.sb := rfl
@[simp] theorem State.setFaults_tap (s : State) (l : List (Nat × Nat)) : (s.setFaults l).tap = s.tap := rfl
@[simp] theorem State.setFaults_pwr (s : State) (l : List (Nat × Nat)) : (s.setFaults l).pwr = s.pwr := rfl
@[simp] theorem State.setFaults_pcie (s : State) (l : List (Nat × Nat)) : (s.setFaults l).pcie = s.pcie := rfl
@[simp] theorem State.setFaults_provId (s : State) (l : List (Nat × Nat)) : (s.setFaults l).provId = s.provId := rfl
@[simp] theorem State.setFaults_fwVer (s : State) (l : List (Nat × Nat)) : (s.setFaults l).fwVer = s.fwVer := rfl
@[simp] theorem State.setFaults_job (s : State) (l : List (Nat × Nat)) : (s.setFaults l).job = s.job := rfl
@[simp] theorem State.setFaults_fix (s : State) (l : List (Nat × Nat)) : (s.setFaults l).fix = s.fix := rfl
@[simp] theorem State.setFaults_ck (s : State) (l : List (Nat × Nat)) : (s.setFaults l).ck = s.ck := rfl
@[simp] theorem State.setFaults_kpr (s : State) (l : List (Nat × Nat)) : (s.setFaults l).kpr = s.kpr := rfl
@[simp] theorem State.setFaults_sheets (s : State) (l : List (Nat × Nat)) : (s.setFaults l).sheets = s.sheets := rfl
@[simp] theorem State.setFaults_scrubQ (s : State) (l : List (Nat × Nat)) : (s.setFaults l).scrubQ = s.scrubQ := rfl
@[simp] theorem State.setFaults_gshift (s : State) (l : List (Nat × Nat)) : (s.setFaults l).gshift = s.gshift := rfl
@[simp] theorem State.setFaults_out (s : State) (l : List (Nat × Nat)) : (s.setFaults l).out = s.out := rfl
@[simp] theorem State.setFaults_free (s : State) (l : List (Nat × Nat)) : (s.setFaults l).free = s.free := rfl
@[simp] theorem State.setFaults_pending (s : State) (l : List (Nat × Nat)) : (s.setFaults l).pending = s.pending := rfl
@[simp] theorem State.setFaults_bytesAt (s : State) (l : List (Nat × Nat)) (base cnt : Nat) :
    (s.setFaults l).bytesAt base cnt = s.bytesAt base cnt := rfl
@[simp] theorem State.setFaults_numAt (s : State) (l : List (Nat × Nat)) (base cnt : Nat) :
    (s.setFaults l).numAt base cnt = s.numAt base cnt := rfl

/-! `State.setLt` changes `mem` and `ecc` alone. -/

@[simp] theorem State.setLt_regs (s : State) (n off len v : Nat) : (s.setLt n off len v).regs = s.regs := rfl
@[simp] theorem State.setLt_net (s : State) (n off len v : Nat) : (s.setLt n off len v).net = s.net := rfl
@[simp] theorem State.setLt_cores (s : State) (n off len v : Nat) : (s.setLt n off len v).cores = s.cores := rfl
@[simp] theorem State.setLt_gmes (s : State) (n off len v : Nat) : (s.setLt n off len v).gmes = s.gmes := rfl
@[simp] theorem State.setLt_arbs (s : State) (n off len v : Nat) : (s.setLt n off len v).arbs = s.arbs := rfl
@[simp] theorem State.setLt_tus (s : State) (n off len v : Nat) : (s.setLt n off len v).tus = s.tus := rfl
@[simp] theorem State.setLt_ports (s : State) (n off len v : Nat) : (s.setLt n off len v).ports = s.ports := rfl
@[simp] theorem State.setLt_routes (s : State) (n off len v : Nat) : (s.setLt n off len v).routes = s.routes := rfl
@[simp] theorem State.setLt_disc (s : State) (n off len v : Nat) : (s.setLt n off len v).disc = s.disc := rfl
@[simp] theorem State.setLt_awaiting (s : State) (n off len v : Nat) : (s.setLt n off len v).awaiting = s.awaiting := rfl
@[simp] theorem State.setLt_patrol (s : State) (n off len v : Nat) : (s.setLt n off len v).patrol = s.patrol := rfl
@[simp] theorem State.setLt_heldTx (s : State) (n off len v : Nat) : (s.setLt n off len v).heldTx = s.heldTx := rfl
@[simp] theorem State.setLt_apps (s : State) (n off len v : Nat) : (s.setLt n off len v).apps = s.apps := rfl
@[simp] theorem State.setLt_groups (s : State) (n off len v : Nat) : (s.setLt n off len v).groups = s.groups := rfl
@[simp] theorem State.setLt_stqs (s : State) (n off len v : Nat) : (s.setLt n off len v).stqs = s.stqs := rfl
@[simp] theorem State.setLt_red (s : State) (n off len v : Nat) : (s.setLt n off len v).red = s.red := rfl
@[simp] theorem State.setLt_ues (s : State) (n off len v : Nat) : (s.setLt n off len v).ues = s.ues := rfl
@[simp] theorem State.setLt_streams (s : State) (n off len v : Nat) : (s.setLt n off len v).streams = s.streams := rfl
@[simp] theorem State.setLt_qps (s : State) (n off len v : Nat) : (s.setLt n off len v).qps = s.qps := rfl
@[simp] theorem State.setLt_eths (s : State) (n off len v : Nat) : (s.setLt n off len v).eths = s.eths := rfl
@[simp] theorem State.setLt_arrivals (s : State) (n off len v : Nat) : (s.setLt n off len v).arrivals = s.arrivals := rfl
@[simp] theorem State.setLt_auLog (s : State) (n off len v : Nat) : (s.setLt n off len v).auLog = s.auLog := rfl
@[simp] theorem State.setLt_bridge (s : State) (n off len v : Nat) : (s.setLt n off len v).bridge = s.bridge := rfl
@[simp] theorem State.setLt_rcv (s : State) (n off len v : Nat) : (s.setLt n off len v).rcv = s.rcv := rfl
@[simp] theorem State.setLt_dkr (s : State) (n off len v : Nat) : (s.setLt n off len v).dkr = s.dkr := rfl
@[simp] theorem State.setLt_sb (s : State) (n off len v : Nat) : (s.setLt n off len v).sb = s.sb := rfl
@[simp] theorem State.setLt_tap (s : State) (n off len v : Nat) : (s.setLt n off len v).tap = s.tap := rfl
@[simp] theorem State.setLt_pwr (s : State) (n off len v : Nat) : (s.setLt n off len v).pwr = s.pwr := rfl
@[simp] theorem State.setLt_pcie (s : State) (n off len v : Nat) : (s.setLt n off len v).pcie = s.pcie := rfl
@[simp] theorem State.setLt_provId (s : State) (n off len v : Nat) : (s.setLt n off len v).provId = s.provId := rfl
@[simp] theorem State.setLt_fwVer (s : State) (n off len v : Nat) : (s.setLt n off len v).fwVer = s.fwVer := rfl
@[simp] theorem State.setLt_log (s : State) (n off len v : Nat) : (s.setLt n off len v).log = s.log := rfl
@[simp] theorem State.setLt_job (s : State) (n off len v : Nat) : (s.setLt n off len v).job = s.job := rfl
@[simp] theorem State.setLt_fix (s : State) (n off len v : Nat) : (s.setLt n off len v).fix = s.fix := rfl
@[simp] theorem State.setLt_ck (s : State) (n off len v : Nat) : (s.setLt n off len v).ck = s.ck := rfl
@[simp] theorem State.setLt_kpr (s : State) (n off len v : Nat) : (s.setLt n off len v).kpr = s.kpr := rfl
@[simp] theorem State.setLt_sheets (s : State) (n off len v : Nat) : (s.setLt n off len v).sheets = s.sheets := rfl
@[simp] theorem State.setLt_scrubQ (s : State) (n off len v : Nat) : (s.setLt n off len v).scrubQ = s.scrubQ := rfl
@[simp] theorem State.setLt_gshift (s : State) (n off len v : Nat) : (s.setLt n off len v).gshift = s.gshift := rfl
@[simp] theorem State.setLt_out (s : State) (n off len v : Nat) : (s.setLt n off len v).out = s.out := rfl
@[simp] theorem State.setLt_free (s : State) (n off len v : Nat) : (s.setLt n off len v).free = s.free := rfl
@[simp] theorem State.setLt_pending (s : State) (n off len v : Nat) : (s.setLt n off len v).pending = s.pending := rfl
@[simp] theorem State.setLt_rd (s : State) (n off len v : Nat) (unit : Nat) (fld : Field) :
    (s.setLt n off len v).rd unit fld = s.rd unit fld := rfl

end Sys2Proof.Machine
end

