-- ==== Sys2Proof/Laws/Frame.lean ====
section
/-!
SUPPORT. Laws of frames: how the parts that a state keeps are carried through the operations that make up a command. Each
lemma says of one operation which parts it may change, as a step from a state that already keeps the rest.
-/
namespace Sys2Proof.Machine

theorem Part.same_refl (p : Part) (s : State) : p.same s s := by cases p <;> simp [Part.same]

theorem Part.same_trans (p : Part) (s t r : State) (h : p.same s t) (k : p.same t r) : p.same s r := by
  cases p <;> simp only [Part.same] at * <;> first | exact k.trans h | exact fun u f => (k u f).trans (h u f) | exact fun a => (k a).trans (h a)

@[simp] theorem SameBut.of_self (l : List Part) (s : State) : SameBut l s s := fun p _ => p.same_refl s

theorem SameBut.through {l : List Part} {s t r : State} (h : SameBut l s t) (k : SameBut l t r) : SameBut l s r :=
  fun p hp => p.same_trans s t r (h p hp) (k p hp)

theorem Part.same_symm (p : Part) (s t : State) (h : p.same s t) : p.same t s := by
  cases p <;> simp only [Part.same] at * <;> first | exact h.symm | exact fun u f => (h u f).symm | exact fun a => (h a).symm

/-- A frame with more parts is weaker. -/
theorem SameBut.widen {l m : List Part} {s t : State} (h : SameBut l s t) (hl : ∀ p ∈ l, p ∈ m) : SameBut m s t :=
  fun p hp => h p fun hm => hp (hl p hm)

/-- An operation that changes only parts of the list neither makes nor breaks the frame. -/
theorem SameBut.iff_of {l m : List Part} {t r : State} (k : SameBut m t r) (hm : ∀ p ∈ m, p ∈ l) (s : State) :
    SameBut l s r ↔ SameBut l s t :=
  ⟨fun h => h.through fun p hp => p.same_symm t r (k p fun q => hp (hm p q)), fun h => h.through (k.widen hm)⟩

@[simp] theorem SameBut.ite_iff {l : List Part} {s t r : State} {c : Prop} [Decidable c] :
    SameBut l s (if c then t else r) ↔ if c then SameBut l s t else SameBut l s r := by
  split <;> rfl

theorem SameBut.choose {l : List Part} {s t r : State} {c : Prop} [Decidable c] (h : SameBut l s t)
    (k : SameBut l s r) : SameBut l s (if c then t else r) := by
  split <;> assumption

/-- An operation that keeps a frame keeps it when it is done once for each member of a list. -/
theorem SameBut.forEach {α : Type} {l : List Part} (L : List α) (f : State → α → State)
    (h : ∀ t x, SameBut l t (f t x)) (s : State) : SameBut l s (forEach L f s) := by
  unfold Machine.forEach
  induction L generalizing s with
  | nil => exact SameBut.of_self l s
  | cons x r ih => exact (h s x).through (ih (f s x))

/-- The same where the last operation of a sequence is done for each member of a list. -/
@[simp] theorem SameBut.forEach_iff {α : Type} {l : List Part} {s t : State} (L : List α) (f : State → α → State)
    (h : ∀ t x, SameBut l t (f t x)) : SameBut l s (Machine.forEach L f t) ↔ SameBut l s t :=
  iff_of (SameBut.forEach L f h t) (fun _ hp => hp) s

@[simp] theorem SameBut.foldl_iff {α : Type} {l : List Part} {s t : State} (L : List α) (f : State → α → State)
    (h : ∀ t x, SameBut l t (f t x)) : SameBut l s (L.foldl f t) ↔ SameBut l s t :=
  SameBut.forEach_iff L f h

/-- A choice between two answers that carry the state. -/
@[simp] theorem SameBut.fst_ite_iff {β : Type} {l : List Part} {s : State} {c : Prop} [Decidable c] {t r : State × β} :
    SameBut l s (if c then t else r).1 ↔ if c then SameBut l s t.1 else SameBut l s r.1 := by
  split <;> rfl

@[simp] theorem SameBut.snd_ite_iff {β : Type} {l : List Part} {s : State} {c : Prop} [Decidable c] {t r : β × State} :
    SameBut l s (if c then t else r).2 ↔ if c then SameBut l s t.2 else SameBut l s r.2 := by
  split <;> rfl

@[simp] theorem SameBut.mid_ite_iff {β γ : Type} {l : List Part} {s : State} {c : Prop} [Decidable c] {t r : β × State × γ} :
    SameBut l s (if c then t else r).2.1 ↔ if c then SameBut l s t.2.1 else SameBut l s r.2.1 := by
  split <;> rfl

/-- A fold that carries more than the state. -/
@[simp] theorem SameBut.foldl_fst_iff {α β : Type} {l : List Part} {s : State} {t : State × β} (L : List α)
    (f : State × β → α → State × β) (h : ∀ t x, SameBut l t.1 (f t x).1) :
    SameBut l s (L.foldl f t).1 ↔ SameBut l s t.1 := by
  refine iff_of (m := l) ?_ (fun _ hp => hp) s
  induction L generalizing t with
  | nil => exact SameBut.of_self l t.1
  | cons x r ih => exact (h t x).through (ih (t := f t x))

/-- The same of a fold that carries the state in any other place. -/
theorem SameBut.fold {α β : Type} {l : List Part} (π : β → State) (L : List α) (f : β → α → β)
    (h : ∀ p x, SameBut l (π p) (π (f p x))) (p : β) : SameBut l (π p) (π (L.foldl f p)) := by
  induction L generalizing p with
  | nil => exact SameBut.of_self l _
  | cons x r ih => exact (h p x).through (ih (f p x))

/-- The frame of a command that ends with `done` is that of the state it ends in. -/
theorem SameBut.of_done {l : List Part} {s r t : State} (h : SameBut l s r) (hd : done r = .next t) : SameBut l s t := by
  refine h.through ?_
  cases hd
  intro p _
  cases p <;> first | exact fun a => Memory.get_canon r.mem a | exact fun _ _ => rfl | rfl

/-- A command whose meaning is `done` of a state has that state's frame. -/
theorem Keeps.of_done {l : List Part} {c : Instr} (f : State → State) (hc : ∀ s, exec c s = done (f s))
    (h : ∀ s, SameBut l s (f s)) : Keeps c l :=
  fun s _ ht => (h s).of_done ((hc s).symm.trans ht)

/-- A frame that names every part but some leaves those. -/
theorem Leaves.of_keeps {l m : List Part} {c : Instr} (h : Keeps c l) (hm : ∀ p ∈ m, p ∉ l) : Leaves c m :=
  fun s t ht p hp => h s t ht p (hm p hp)

/-! ### The operations that write the state directly -/

theorem State.wr_frame (s : State) (u : Nat) (f : Field) (v : Nat) : SameBut [.regs] s (s.wr u f v) := fun p hp => by
  cases p <;> first | rfl | exact fun _ => rfl | simp at hp

@[simp] theorem SameBut.wr {l : List Part} {s t : State} (u : Nat) (f : Field) (v : Nat) (hregs : .regs ∈ l) :
    SameBut l s (t.wr u f v) ↔ SameBut l s t := iff_of (t.wr_frame u f v) (by simp [*]) s

theorem State.bump_frame (s : State) (u : Nat) (f : Field) (v : Nat) : SameBut [.regs] s (s.bump u f v) := fun p hp => by
  cases p <;> first | rfl | exact fun _ => rfl | simp at hp

@[simp] theorem SameBut.bump {l : List Part} {s t : State} (u : Nat) (f : Field) (v : Nat) (hregs : .regs ∈ l) :
    SameBut l s (t.bump u f v) ↔ SameBut l s t := iff_of (t.bump_frame u f v) (by simp [*]) s

theorem State.wrB_frame (s : State) (u : Nat) (f : Field) (v : Bool) : SameBut [.regs] s (s.wrB u f v) := fun p hp => by
  cases p <;> first | rfl | exact fun _ => rfl | simp at hp

@[simp] theorem SameBut.wrB {l : List Part} {s t : State} (u : Nat) (f : Field) (v : Bool) (hregs : .regs ∈ l) :
    SameBut l s (t.wrB u f v) ↔ SameBut l s t := iff_of (t.wrB_frame u f v) (by simp [*]) s

theorem State.wrReset_frame (s : State) (u : Nat) (f : Field) : SameBut [.regs] s (s.wrReset u f) := fun p hp => by
  cases p <;> first | rfl | exact fun _ => rfl | simp at hp

@[simp] theorem SameBut.wrReset {l : List Part} {s t : State} (u : Nat) (f : Field) (hregs : .regs ∈ l) :
    SameBut l s (t.wrReset u f) ↔ SameBut l s t := iff_of (t.wrReset_frame u f) (by simp [*]) s

theorem State.resetUnit_frame (s : State) (u : Nat) : SameBut [.regs] s (s.resetUnit u) := fun p hp => by
  cases p <;> first | rfl | exact fun _ => rfl | simp at hp

@[simp] theorem SameBut.resetUnit {l : List Part} {s t : State} (u : Nat) (hregs : .regs ∈ l) :
    SameBut l s (t.resetUnit u) ↔ SameBut l s t := iff_of (t.resetUnit_frame u) (by simp [*]) s

theorem State.putBytes_frame (s : State) (a : Nat) (bs : List Byte) : SameBut [.mem, .ecc] s (s.putBytes a bs) := fun p hp => by
  cases p <;> first | rfl | exact fun _ _ => rfl | simp at hp

@[simp] theorem SameBut.putBytes {l : List Part} {s t : State} (a : Nat) (bs : List Byte) (hmem : .mem ∈ l) (hecc : .ecc ∈ l) :
    SameBut l s (t.putBytes a bs) ↔ SameBut l s t := iff_of (t.putBytes_frame a bs) (by simp [*]) s

theorem State.putNum_frame (s : State) (a n v : Nat) : SameBut [.mem, .ecc] s (s.putNum a n v) := fun p hp => by
  cases p <;> first | rfl | exact fun _ _ => rfl | simp at hp

@[simp] theorem SameBut.putNum {l : List Part} {s t : State} (a n v : Nat) (hmem : .mem ∈ l) (hecc : .ecc ∈ l) :
    SameBut l s (t.putNum a n v) ↔ SameBut l s t := iff_of (t.putNum_frame a n v) (by simp [*]) s

theorem State.zeroRange_frame (s : State) (a n : Nat) : SameBut [.mem, .ecc] s (s.zeroRange a n) := fun p hp => by
  cases p <;> first | rfl | exact fun _ _ => rfl | simp at hp

@[simp] theorem SameBut.zeroRange {l : List Part} {s t : State} (a n : Nat) (hmem : .mem ∈ l) (hecc : .ecc ∈ l) :
    SameBut l s (t.zeroRange a n) ↔ SameBut l s t := iff_of (t.zeroRange_frame a n) (by simp [*]) s

theorem State.upset_frame (s : State) (u : List (Nat × Nat)) : SameBut [.ecc, .net] s (s.upset u) := fun p hp => by
  cases p <;> first | rfl | exact fun _ _ => rfl | exact fun _ => rfl | simp at hp

@[simp] theorem SameBut.upset {l : List Part} {s t : State} (u : List (Nat × Nat)) (hecc : .ecc ∈ l) (hnet : .net ∈ l) :
    SameBut l s (t.upset u) ↔ SameBut l s t := iff_of (t.upset_frame u) (by simp [*]) s

theorem State.setCore_frame (s : State) (die core : Nat) (c : CoreSt) : SameBut [.cores] s (s.setCore die core c) := fun p hp => by
  cases p <;> first | rfl | exact fun _ _ => rfl | exact fun _ => rfl | simp at hp

@[simp] theorem SameBut.setCore {l : List Part} {s t : State} (die core : Nat) (c : CoreSt) (hcores : .cores ∈ l) :
    SameBut l s (t.setCore die core c) ↔ SameBut l s t := iff_of (t.setCore_frame die core c) (by simp [*]) s

theorem State.emit_frame (s : State) (o : Out) : SameBut [] s (s.emit o) := fun p hp => by
  cases p <;> first | rfl | exact fun _ _ => rfl | exact fun _ => rfl

@[simp] theorem SameBut.emit {l : List Part} {s t : State} (o : Out) :
    SameBut l s (t.emit o) ↔ SameBut l s t := iff_of (t.emit_frame o) (by simp) s

theorem State.ok_frame (s : State) (d : List Byte) : SameBut [] s (s.ok d) := fun p hp => by
  cases p <;> first | rfl | exact fun _ _ => rfl | exact fun _ => rfl

@[simp] theorem SameBut.ok {l : List Part} {s t : State} (d : List Byte) :
    SameBut l s (t.ok d) ↔ SameBut l s t := iff_of (t.ok_frame d) (by simp) s

theorem State.err_frame (s : State) (code detail : Nat) : SameBut [] s (s.err code detail) := fun p hp => by
  cases p <;> first | rfl | exact fun _ _ => rfl | exact fun _ => rfl

@[simp] theorem SameBut.err {l : List Part} {s t : State} (code detail : Nat) :
    SameBut l s (t.err code detail) ↔ SameBut l s t := iff_of (t.err_frame code detail) (by simp) s

theorem State.setApp_frame (s : State) (i : Nat) (a : AppSt) : SameBut [.apps] s (s.setApp i a) := fun p hp => by
  cases p <;> first | rfl | exact fun _ _ => rfl | exact fun _ => rfl | simp at hp

@[simp] theorem SameBut.setApp {l : List Part} {s t : State} (i : Nat) (a : AppSt) (happs : .apps ∈ l) :
    SameBut l s (t.setApp i a) ↔ SameBut l s t := iff_of (t.setApp_frame i a) (by simp [*]) s

theorem State.setStq_frame (s : State) (k : Nat) (q : StageQ) : SameBut [.stqs] s (s.setStq k q) := fun p hp => by
  cases p <;> first | rfl | exact fun _ _ => rfl | exact fun _ => rfl | simp at hp

@[simp] theorem SameBut.setStq {l : List Part} {s t : State} (k : Nat) (q : StageQ) (hstqs : .stqs ∈ l) :
    SameBut l s (t.setStq k q) ↔ SameBut l s t := iff_of (t.setStq_frame k q) (by simp [*]) s

theorem State.setPort_frame (s : State) (p : Nat) (x : PortSt) : SameBut [.ports, .regs] s (s.setPort p x) := fun p hp => by
  cases p <;> first | rfl | exact fun _ => rfl | simp at hp

@[simp] theorem SameBut.setPort {l : List Part} {s t : State} (p : Nat) (x : PortSt) (hports : .ports ∈ l) (hregs : .regs ∈ l) :
    SameBut l s (t.setPort p x) ↔ SameBut l s t := iff_of (t.setPort_frame p x) (by simp [*]) s

theorem State.setGme_frame (s : State) (die e : Nat) (g : GmeSt) : SameBut [.gmes] s (s.setGme die e g) := fun p hp => by
  cases p <;> first | rfl | exact fun _ _ => rfl | exact fun _ => rfl | simp at hp

@[simp] theorem SameBut.setGme {l : List Part} {s t : State} (die e : Nat) (g : GmeSt) (hgmes : .gmes ∈ l) :
    SameBut l s (t.setGme die e g) ↔ SameBut l s t := iff_of (t.setGme_frame die e g) (by simp [*]) s

theorem State.setStream_frame (s : State) (slot : Nat) (x : StreamRun) : SameBut [.streams, .regs] s (s.setStream slot x) := fun p hp => by
  cases p <;> first | rfl | exact fun _ => rfl | simp at hp

@[simp] theorem SameBut.setStream {l : List Part} {s t : State} (slot : Nat) (x : StreamRun) (hstreams : .streams ∈ l) (hregs : .regs ∈ l) :
    SameBut l s (t.setStream slot x) ↔ SameBut l s t := iff_of (t.setStream_frame slot x) (by simp [*]) s

theorem State.setQp_frame (s : State) (i : Nat) (q : QueuePair) : SameBut [.qps] s (s.setQp i q) := fun p hp => by
  cases p <;> first | rfl | exact fun _ _ => rfl | exact fun _ => rfl | simp at hp

@[simp] theorem SameBut.setQp {l : List Part} {s t : State} (i : Nat) (q : QueuePair) (hqps : .qps ∈ l) :
    SameBut l s (t.setQp i q) ↔ SameBut l s t := iff_of (t.setQp_frame i q) (by simp [*]) s

theorem State.setUe_frame (s : State) (die : Nat) (u : UeSt) : SameBut [.ues] s (s.setUe die u) := fun p hp => by
  cases p <;> first | rfl | exact fun _ _ => rfl | exact fun _ => rfl | simp at hp

@[simp] theorem SameBut.setUe {l : List Part} {s t : State} (die : Nat) (u : UeSt) (hues : .ues ∈ l) :
    SameBut l s (t.setUe die u) ↔ SameBut l s t := iff_of (t.setUe_frame die u) (by simp [*]) s

theorem State.setRedLayer_frame (s : State) (layer : Nat) (x : RedLayer) : SameBut [.red] s (s.setRedLayer layer x) := fun p hp => by
  cases p <;> first | rfl | exact fun _ _ => rfl | exact fun _ => rfl | simp at hp

@[simp] theorem SameBut.setRedLayer {l : List Part} {s t : State} (layer : Nat) (x : RedLayer) (hred : .red ∈ l) :
    SameBut l s (t.setRedLayer layer x) ↔ SameBut l s t := iff_of (t.setRedLayer_frame layer x) (by simp [*]) s

theorem State.setFaults_frame (s : State) (x : List (Nat × Nat)) : SameBut [.log, .regs] s (s.setFaults x) := fun p hp => by
  cases p <;> first | rfl | exact fun _ => rfl | simp at hp

@[simp] theorem SameBut.setFaults {l : List Part} {s t : State} (x : List (Nat × Nat)) (hlog : .log ∈ l) (hregs : .regs ∈ l) :
    SameBut l s (t.setFaults x) ↔ SameBut l s t := iff_of (t.setFaults_frame x) (by simp [*]) s

theorem State.setLt_frame (s : State) (n off len v : Nat) : SameBut [.mem, .ecc] s (s.setLt n off len v) := fun p hp => by
  cases p <;> first | rfl | exact fun _ _ => rfl | simp at hp

@[simp] theorem SameBut.setLt {l : List Part} {s t : State} (n off len v : Nat) (hmem : .mem ∈ l) (hecc : .ecc ∈ l) :
    SameBut l s (t.setLt n off len v) ↔ SameBut l s t := iff_of (t.setLt_frame n off len v) (by simp [*]) s

/-! ### The operations that write one field of the state -/

@[simp] theorem SameBut.with_regs {l : List Part} {s t : State} (x : SMap Nat) (hregs : .regs ∈ l) :
    SameBut l s { t with regs := x } ↔ SameBut l s t := by
  refine iff_of (m := [.regs]) (fun p hp => ?_) (by simp [*]) s
  cases p <;> first | rfl | exact fun _ => rfl | simp at hp

@[simp] theorem SameBut.with_mem {l : List Part} {s t : State} (x : List Host.Cell) (hmem : .mem ∈ l) :
    SameBut l s { t with mem := x } ↔ SameBut l s t := by
  refine iff_of (m := [.mem]) (fun p hp => ?_) (by simp [*]) s
  cases p <;> first | rfl | exact fun _ _ => rfl | simp at hp

@[simp] theorem SameBut.with_ecc {l : List Part} {s t : State} (x : SMap Nat) (hecc : .ecc ∈ l) :
    SameBut l s { t with ecc := x } ↔ SameBut l s t := by
  refine iff_of (m := [.ecc]) (fun p hp => ?_) (by simp [*]) s
  cases p <;> first | rfl | exact fun _ _ => rfl | exact fun _ => rfl | simp at hp

@[simp] theorem SameBut.with_net {l : List Part} {s t : State} (x : SMap Nat) (hnet : .net ∈ l) :
    SameBut l s { t with net := x } ↔ SameBut l s t := by
  refine iff_of (m := [.net]) (fun p hp => ?_) (by simp [*]) s
  cases p <;> first | rfl | exact fun _ _ => rfl | exact fun _ => rfl | simp at hp

@[simp] theorem SameBut.with_cores {l : List Part} {s t : State} (x : SMap CoreSt) (hcores : .cores ∈ l) :
    SameBut l s { t with cores := x } ↔ SameBut l s t := by
  refine iff_of (m := [.cores]) (fun p hp => ?_) (by simp [*]) s
  cases p <;> first | rfl | exact fun _ _ => rfl | exact fun _ => rfl | simp at hp

@[simp] theorem SameBut.with_gmes {l : List Part} {s t : State} (x : SMap GmeSt) (hgmes : .gmes ∈ l) :
    SameBut l s { t with gmes := x } ↔ SameBut l s t := by
  refine iff_of (m := [.gmes]) (fun p hp => ?_) (by simp [*]) s
  cases p <;> first | rfl | exact fun _ _ => rfl | exact fun _ => rfl | simp at hp

@[simp] theorem SameBut.with_arbs {l : List Part} {s t : State} (x : SMap ArbSt) (harbs : .arbs ∈ l) :
    SameBut l s { t with arbs := x } ↔ SameBut l s t := by
  refine iff_of (m := [.arbs]) (fun p hp => ?_) (by simp [*]) s
  cases p <;> first | rfl | exact fun _ _ => rfl | exact fun _ => rfl | simp at hp

@[simp] theorem SameBut.with_tus {l : List Part} {s t : State} (x : SMap TuSt) (htus : .tus ∈ l) :
    SameBut l s { t with tus := x } ↔ SameBut l s t := by
  refine iff_of (m := [.tus]) (fun p hp => ?_) (by simp [*]) s
  cases p <;> first | rfl | exact fun _ _ => rfl | exact fun _ => rfl | simp at hp

@[simp] theorem SameBut.with_ports {l : List Part} {s t : State} (x : SMap PortSt) (hports : .ports ∈ l) :
    SameBut l s { t with ports := x } ↔ SameBut l s t := by
  refine iff_of (m := [.ports]) (fun p hp => ?_) (by simp [*]) s
  cases p <;> first | rfl | exact fun _ _ => rfl | exact fun _ => rfl | simp at hp

@[simp] theorem SameBut.with_routes {l : List Part} {s t : State} (x : Option (SMap Nat)) (hroutes : .routes ∈ l) :
    SameBut l s { t with routes := x } ↔ SameBut l s t := by
  refine iff_of (m := [.routes]) (fun p hp => ?_) (by simp [*]) s
  cases p <;> first | rfl | exact fun _ _ => rfl | exact fun _ => rfl | simp at hp

@[simp] theorem SameBut.with_disc {l : List Part} {s t : State} (x : DiscSt) (hdisc : .disc ∈ l) :
    SameBut l s { t with disc := x } ↔ SameBut l s t := by
  refine iff_of (m := [.disc]) (fun p hp => ?_) (by simp [*]) s
  cases p <;> first | rfl | exact fun _ _ => rfl | exact fun _ => rfl | simp at hp

@[simp] theorem SameBut.with_awaiting {l : List Part} {s t : State} (x : List (Nat × Nat)) (hawaiting : .awaiting ∈ l) :
    SameBut l s { t with awaiting := x } ↔ SameBut l s t := by
  refine iff_of (m := [.awaiting]) (fun p hp => ?_) (by simp [*]) s
  cases p <;> first | rfl | exact fun _ _ => rfl | exact fun _ => rfl | simp at hp

@[simp] theorem SameBut.with_patrol {l : List Part} {s t : State} (x : SMap Nat) (hpatrol : .patrol ∈ l) :
    SameBut l s { t with patrol := x } ↔ SameBut l s t := by
  refine iff_of (m := [.patrol]) (fun p hp => ?_) (by simp [*]) s
  cases p <;> first | rfl | exact fun _ _ => rfl | exact fun _ => rfl | simp at hp

@[simp] theorem SameBut.with_heldTx {l : List Part} {s t : State} (x : List Txn) (hheldTx : .heldTx ∈ l) :
    SameBut l s { t with heldTx := x } ↔ SameBut l s t := by
  refine iff_of (m := [.heldTx]) (fun p hp => ?_) (by simp [*]) s
  cases p <;> first | rfl | exact fun _ _ => rfl | exact fun _ => rfl | simp at hp

@[simp] theorem SameBut.with_apps {l : List Part} {s t : State} (x : SMap AppSt) (happs : .apps ∈ l) :
    SameBut l s { t with apps := x } ↔ SameBut l s t := by
  refine iff_of (m := [.apps]) (fun p hp => ?_) (by simp [*]) s
  cases p <;> first | rfl | exact fun _ _ => rfl | exact fun _ => rfl | simp at hp

@[simp] theorem SameBut.with_groups {l : List Part} {s t : State} (x : List (Nat × List Nat)) (hgroups : .groups ∈ l) :
    SameBut l s { t with groups := x } ↔ SameBut l s t := by
  refine iff_of (m := [.groups]) (fun p hp => ?_) (by simp [*]) s
  cases p <;> first | rfl | exact fun _ _ => rfl | exact fun _ => rfl | simp at hp

@[simp] theorem SameBut.with_stqs {l : List Part} {s t : State} (x : SMap StageQ) (hstqs : .stqs ∈ l) :
    SameBut l s { t with stqs := x } ↔ SameBut l s t := by
  refine iff_of (m := [.stqs]) (fun p hp => ?_) (by simp [*]) s
  cases p <;> first | rfl | exact fun _ _ => rfl | exact fun _ => rfl | simp at hp

@[simp] theorem SameBut.with_red {l : List Part} {s t : State} (x : RedSt) (hred : .red ∈ l) :
    SameBut l s { t with red := x } ↔ SameBut l s t := by
  refine iff_of (m := [.red]) (fun p hp => ?_) (by simp [*]) s
  cases p <;> first | rfl | exact fun _ _ => rfl | exact fun _ => rfl | simp at hp

@[simp] theorem SameBut.with_ues {l : List Part} {s t : State} (x : SMap UeSt) (hues : .ues ∈ l) :
    SameBut l s { t with ues := x } ↔ SameBut l s t := by
  refine iff_of (m := [.ues]) (fun p hp => ?_) (by simp [*]) s
  cases p <;> first | rfl | exact fun _ _ => rfl | exact fun _ => rfl | simp at hp

@[simp] theorem SameBut.with_streams {l : List Part} {s t : State} (x : SMap (Option StreamRun)) (hstreams : .streams ∈ l) :
    SameBut l s { t with streams := x } ↔ SameBut l s t := by
  refine iff_of (m := [.streams]) (fun p hp => ?_) (by simp [*]) s
  cases p <;> first | rfl | exact fun _ _ => rfl | exact fun _ => rfl | simp at hp

@[simp] theorem SameBut.with_qps {l : List Part} {s t : State} (x : SMap QueuePair) (hqps : .qps ∈ l) :
    SameBut l s { t with qps := x } ↔ SameBut l s t := by
  refine iff_of (m := [.qps]) (fun p hp => ?_) (by simp [*]) s
  cases p <;> first | rfl | exact fun _ _ => rfl | exact fun _ => rfl | simp at hp

@[simp] theorem SameBut.with_eths {l : List Part} {s t : State} (x : SMap EthPort) (heths : .eths ∈ l) :
    SameBut l s { t with eths := x } ↔ SameBut l s t := by
  refine iff_of (m := [.eths]) (fun p hp => ?_) (by simp [*]) s
  cases p <;> first | rfl | exact fun _ _ => rfl | exact fun _ => rfl | simp at hp

@[simp] theorem SameBut.with_arrivals {l : List Part} {s t : State} (x : SMap (List (Nat × Nat × Nat))) (harrivals : .arrivals ∈ l) :
    SameBut l s { t with arrivals := x } ↔ SameBut l s t := by
  refine iff_of (m := [.arrivals]) (fun p hp => ?_) (by simp [*]) s
  cases p <;> first | rfl | exact fun _ _ => rfl | exact fun _ => rfl | simp at hp

@[simp] theorem SameBut.with_auLog {l : List Part} {s t : State} (x : SMap Nat) (hauLog : .auLog ∈ l) :
    SameBut l s { t with auLog := x } ↔ SameBut l s t := by
  refine iff_of (m := [.auLog]) (fun p hp => ?_) (by simp [*]) s
  cases p <;> first | rfl | exact fun _ _ => rfl | exact fun _ => rfl | simp at hp

@[simp] theorem SameBut.with_bridge {l : List Part} {s t : State} (x : Bool) (hbridge : .bridge ∈ l) :
    SameBut l s { t with bridge := x } ↔ SameBut l s t := by
  refine iff_of (m := [.bridge]) (fun p hp => ?_) (by simp [*]) s
  cases p <;> first | rfl | exact fun _ _ => rfl | exact fun _ => rfl | simp at hp

@[simp] theorem SameBut.with_rcv {l : List Part} {s t : State} (x : RecSt) (hrcv : .rcv ∈ l) :
    SameBut l s { t with rcv := x } ↔ SameBut l s t := by
  refine iff_of (m := [.rcv]) (fun p hp => ?_) (by simp [*]) s
  cases p <;> first | rfl | exact fun _ _ => rfl | exact fun _ => rfl | simp at hp

@[simp] theorem SameBut.with_dkr {l : List Part} {s t : State} (x : DkrSt) (hdkr : .dkr ∈ l) :
    SameBut l s { t with dkr := x } ↔ SameBut l s t := by
  refine iff_of (m := [.dkr]) (fun p hp => ?_) (by simp [*]) s
  cases p <;> first | rfl | exact fun _ _ => rfl | exact fun _ => rfl | simp at hp

@[simp] theorem SameBut.with_sb {l : List Part} {s t : State} (x : SbSt) (hsb : .sb ∈ l) :
    SameBut l s { t with sb := x } ↔ SameBut l s t := by
  refine iff_of (m := [.sb]) (fun p hp => ?_) (by simp [*]) s
  cases p <;> first | rfl | exact fun _ _ => rfl | exact fun _ => rfl | simp at hp

@[simp] theorem SameBut.with_tap {l : List Part} {s t : State} (x : TapSt) (htap : .tap ∈ l) :
    SameBut l s { t with tap := x } ↔ SameBut l s t := by
  refine iff_of (m := [.tap]) (fun p hp => ?_) (by simp [*]) s
  cases p <;> first | rfl | exact fun _ _ => rfl | exact fun _ => rfl | simp at hp

@[simp] theorem SameBut.with_pwr {l : List Part} {s t : State} (x : PwrSt) (hpwr : .pwr ∈ l) :
    SameBut l s { t with pwr := x } ↔ SameBut l s t := by
  refine iff_of (m := [.pwr]) (fun p hp => ?_) (by simp [*]) s
  cases p <;> first | rfl | exact fun _ _ => rfl | exact fun _ => rfl | simp at hp

@[simp] theorem SameBut.with_pcie {l : List Part} {s t : State} (x : BridgeSt) (hpcie : .pcie ∈ l) :
    SameBut l s { t with pcie := x } ↔ SameBut l s t := by
  refine iff_of (m := [.pcie]) (fun p hp => ?_) (by simp [*]) s
  cases p <;> first | rfl | exact fun _ _ => rfl | exact fun _ => rfl | simp at hp

@[simp] theorem SameBut.with_provId {l : List Part} {s t : State} (x : Nat) (hprovId : .provId ∈ l) :
    SameBut l s { t with provId := x } ↔ SameBut l s t := by
  refine iff_of (m := [.provId]) (fun p hp => ?_) (by simp [*]) s
  cases p <;> first | rfl | exact fun _ _ => rfl | exact fun _ => rfl | simp at hp

@[simp] theorem SameBut.with_fwVer {l : List Part} {s t : State} (x : Nat) (hfwVer : .fwVer ∈ l) :
    SameBut l s { t with fwVer := x } ↔ SameBut l s t := by
  refine iff_of (m := [.fwVer]) (fun p hp => ?_) (by simp [*]) s
  cases p <;> first | rfl | exact fun _ _ => rfl | exact fun _ => rfl | simp at hp

@[simp] theorem SameBut.with_log {l : List Part} {s t : State} (x : LogSt) (hlog : .log ∈ l) :
    SameBut l s { t with log := x } ↔ SameBut l s t := by
  refine iff_of (m := [.log]) (fun p hp => ?_) (by simp [*]) s
  cases p <;> first | rfl | exact fun _ _ => rfl | exact fun _ => rfl | simp at hp

@[simp] theorem SameBut.with_job {l : List Part} {s t : State} (x : JobSt) (hjob : .job ∈ l) :
    SameBut l s { t with job := x } ↔ SameBut l s t := by
  refine iff_of (m := [.job]) (fun p hp => ?_) (by simp [*]) s
  cases p <;> first | rfl | exact fun _ _ => rfl | exact fun _ => rfl | simp at hp

@[simp] theorem SameBut.with_fix {l : List Part} {s t : State} (x : FixSt) (hfix : .fix ∈ l) :
    SameBut l s { t with fix := x } ↔ SameBut l s t := by
  refine iff_of (m := [.fix]) (fun p hp => ?_) (by simp [*]) s
  cases p <;> first | rfl | exact fun _ _ => rfl | exact fun _ => rfl | simp at hp

@[simp] theorem SameBut.with_ck {l : List Part} {s t : State} (x : CkSt) (hck : .ck ∈ l) :
    SameBut l s { t with ck := x } ↔ SameBut l s t := by
  refine iff_of (m := [.ck]) (fun p hp => ?_) (by simp [*]) s
  cases p <;> first | rfl | exact fun _ _ => rfl | exact fun _ => rfl | simp at hp

@[simp] theorem SameBut.with_kpr {l : List Part} {s t : State} (x : KeeperSt) (hkpr : .kpr ∈ l) :
    SameBut l s { t with kpr := x } ↔ SameBut l s t := by
  refine iff_of (m := [.kpr]) (fun p hp => ?_) (by simp [*]) s
  cases p <;> first | rfl | exact fun _ _ => rfl | exact fun _ => rfl | simp at hp

@[simp] theorem SameBut.with_sheets {l : List Part} {s t : State} (x : List (List Byte)) (hsheets : .sheets ∈ l) :
    SameBut l s { t with sheets := x } ↔ SameBut l s t := by
  refine iff_of (m := [.sheets]) (fun p hp => ?_) (by simp [*]) s
  cases p <;> first | rfl | exact fun _ _ => rfl | exact fun _ => rfl | simp at hp

@[simp] theorem SameBut.with_scrubQ {l : List Part} {s t : State} (x : List Nat) (hscrubQ : .scrubQ ∈ l) :
    SameBut l s { t with scrubQ := x } ↔ SameBut l s t := by
  refine iff_of (m := [.scrubQ]) (fun p hp => ?_) (by simp [*]) s
  cases p <;> first | rfl | exact fun _ _ => rfl | exact fun _ => rfl | simp at hp

@[simp] theorem SameBut.with_gshift {l : List Part} {s t : State} (x : SMap Nat) (hgshift : .gshift ∈ l) :
    SameBut l s { t with gshift := x } ↔ SameBut l s t := by
  refine iff_of (m := [.gshift]) (fun p hp => ?_) (by simp [*]) s
  cases p <;> first | rfl | exact fun _ _ => rfl | exact fun _ => rfl | simp at hp

@[simp] theorem SameBut.with_pending {l : List Part} {s t : State} (x : List Instr) (hpending : .pending ∈ l) :
    SameBut l s { t with pending := x } ↔ SameBut l s t := by
  refine iff_of (m := [.pending]) (fun p hp => ?_) (by simp [*]) s
  cases p <;> first | rfl | exact fun _ _ => rfl | exact fun _ => rfl | simp at hp

@[simp] theorem SameBut.with_out {l : List Part} {s t : State} (x : List Out) :
    SameBut l s { t with out := x } ↔ SameBut l s t := by
  refine iff_of (m := []) (fun p hp => ?_) (by simp) s
  cases p <;> first | rfl | exact fun _ _ => rfl | exact fun _ => rfl

@[simp] theorem SameBut.with_free {l : List Part} {s t : State} (x : Nat) :
    SameBut l s { t with free := x } ↔ SameBut l s t := by
  refine iff_of (m := []) (fun p hp => ?_) (by simp) s
  cases p <;> first | rfl | exact fun _ _ => rfl | exact fun _ => rfl

/-! ### The operations that write several fields of the state at once -/

@[simp] theorem SameBut.with_apps_stqs_red_ues_streams_job_fix_ck {l : List Part} {s t : State} (x0 : SMap AppSt) (x1 : SMap StageQ) (x2 : RedSt) (x3 : SMap UeSt) (x4 : SMap (Option StreamRun)) (x5 : JobSt) (x6 : FixSt) (x7 : CkSt) (happs : .apps ∈ l) (hstqs : .stqs ∈ l) (hred : .red ∈ l) (hues : .ues ∈ l) (hstreams : .streams ∈ l) (hjob : .job ∈ l) (hfix : .fix ∈ l) (hck : .ck ∈ l) :
    SameBut l s { t with apps := x0, stqs := x1, red := x2, ues := x3, streams := x4, job := x5, fix := x6, ck := x7 } ↔ SameBut l s t := by
  refine iff_of (m := [.apps, .stqs, .red, .ues, .streams, .job, .fix, .ck]) (fun p hp => ?_) (by simp [*]) s
  cases p <;> first | rfl | exact fun _ _ => rfl | exact fun _ => rfl | simp at hp

@[simp] theorem SameBut.with_bridge_sb {l : List Part} {s t : State} (x0 : Bool) (x1 : SbSt) (hbridge : .bridge ∈ l) (hsb : .sb ∈ l) :
    SameBut l s { t with bridge := x0, sb := x1 } ↔ SameBut l s t := by
  refine iff_of (m := [.bridge, .sb]) (fun p hp => ?_) (by simp [*]) s
  cases p <;> first | rfl | exact fun _ _ => rfl | exact fun _ => rfl | simp at hp

@[simp] theorem SameBut.with_cores_apps_groups_stqs_red_ues_streams_qps_eths_arrivals_auLog_fix_ck {l : List Part} {s t : State} (x0 : SMap CoreSt) (x1 : SMap AppSt) (x2 : List (Nat × List Nat)) (x3 : SMap StageQ) (x4 : RedSt) (x5 : SMap UeSt) (x6 : SMap (Option StreamRun)) (x7 : SMap QueuePair) (x8 : SMap EthPort) (x9 : SMap (List (Nat × Nat × Nat))) (x10 : SMap Nat) (x11 : FixSt) (x12 : CkSt) (hcores : .cores ∈ l) (happs : .apps ∈ l) (hgroups : .groups ∈ l) (hstqs : .stqs ∈ l) (hred : .red ∈ l) (hues : .ues ∈ l) (hstreams : .streams ∈ l) (hqps : .qps ∈ l) (heths : .eths ∈ l) (harrivals : .arrivals ∈ l) (hauLog : .auLog ∈ l) (hfix : .fix ∈ l) (hck : .ck ∈ l) :
    SameBut l s { t with cores := x0, apps := x1, groups := x2, stqs := x3, red := x4, ues := x5, streams := x6, qps := x7, eths := x8, arrivals := x9, auLog := x10, fix := x11, ck := x12 } ↔ SameBut l s t := by
  refine iff_of (m := [.cores, .apps, .groups, .stqs, .red, .ues, .streams, .qps, .eths, .arrivals, .auLog, .fix, .ck]) (fun p hp => ?_) (by simp [*]) s
  cases p <;> first | rfl | exact fun _ _ => rfl | exact fun _ => rfl | simp at hp

@[simp] theorem SameBut.with_cores_red_ues_fix {l : List Part} {s t : State} (x0 : SMap CoreSt) (x1 : RedSt) (x2 : SMap UeSt) (x3 : FixSt) (hcores : .cores ∈ l) (hred : .red ∈ l) (hues : .ues ∈ l) (hfix : .fix ∈ l) :
    SameBut l s { t with cores := x0, red := x1, ues := x2, fix := x3 } ↔ SameBut l s t := by
  refine iff_of (m := [.cores, .red, .ues, .fix]) (fun p hp => ?_) (by simp [*]) s
  cases p <;> first | rfl | exact fun _ _ => rfl | exact fun _ => rfl | simp at hp

@[simp] theorem SameBut.with_disc_provId {l : List Part} {s t : State} (x0 : DiscSt) (x1 : Nat) (hdisc : .disc ∈ l) (hprovId : .provId ∈ l) :
    SameBut l s { t with disc := x0, provId := x1 } ↔ SameBut l s t := by
  refine iff_of (m := [.disc, .provId]) (fun p hp => ?_) (by simp [*]) s
  cases p <;> first | rfl | exact fun _ _ => rfl | exact fun _ => rfl | simp at hp

@[simp] theorem SameBut.with_disc_sb {l : List Part} {s t : State} (x0 : DiscSt) (x1 : SbSt) (hdisc : .disc ∈ l) (hsb : .sb ∈ l) :
    SameBut l s { t with disc := x0, sb := x1 } ↔ SameBut l s t := by
  refine iff_of (m := [.disc, .sb]) (fun p hp => ?_) (by simp [*]) s
  cases p <;> first | rfl | exact fun _ _ => rfl | exact fun _ => rfl | simp at hp

@[simp] theorem SameBut.with_dkr_fwVer {l : List Part} {s t : State} (x0 : DkrSt) (x1 : Nat) (hdkr : .dkr ∈ l) (hfwVer : .fwVer ∈ l) :
    SameBut l s { t with dkr := x0, fwVer := x1 } ↔ SameBut l s t := by
  refine iff_of (m := [.dkr, .fwVer]) (fun p hp => ?_) (by simp [*]) s
  cases p <;> first | rfl | exact fun _ _ => rfl | exact fun _ => rfl | simp at hp

@[simp] theorem SameBut.with_dkr_tap_kpr {l : List Part} {s t : State} (x0 : DkrSt) (x1 : TapSt) (x2 : KeeperSt) (hdkr : .dkr ∈ l) (htap : .tap ∈ l) (hkpr : .kpr ∈ l) :
    SameBut l s { t with dkr := x0, tap := x1, kpr := x2 } ↔ SameBut l s t := by
  refine iff_of (m := [.dkr, .tap, .kpr]) (fun p hp => ?_) (by simp [*]) s
  cases p <;> first | rfl | exact fun _ _ => rfl | exact fun _ => rfl | simp at hp

@[simp] theorem SameBut.with_ecc_net {l : List Part} {s t : State} (x0 : SMap Nat) (x1 : SMap Nat) (hecc : .ecc ∈ l) (hnet : .net ∈ l) :
    SameBut l s { t with ecc := x0, net := x1 } ↔ SameBut l s t := by
  refine iff_of (m := [.ecc, .net]) (fun p hp => ?_) (by simp [*]) s
  cases p <;> first | rfl | exact fun _ _ => rfl | exact fun _ => rfl | simp at hp

@[simp] theorem SameBut.with_gmes_arbs_red_ues_rcv_log_job_fix_ck_scrubQ {l : List Part} {s t : State} (x0 : SMap GmeSt) (x1 : SMap ArbSt) (x2 : RedSt) (x3 : SMap UeSt) (x4 : RecSt) (x5 : LogSt) (x6 : JobSt) (x7 : FixSt) (x8 : CkSt) (x9 : List Nat) (hgmes : .gmes ∈ l) (harbs : .arbs ∈ l) (hred : .red ∈ l) (hues : .ues ∈ l) (hrcv : .rcv ∈ l) (hlog : .log ∈ l) (hjob : .job ∈ l) (hfix : .fix ∈ l) (hck : .ck ∈ l) (hscrubQ : .scrubQ ∈ l) :
    SameBut l s { t with gmes := x0, arbs := x1, red := x2, ues := x3, rcv := x4, log := x5, job := x6, fix := x7, ck := x8, scrubQ := x9 } ↔ SameBut l s t := by
  refine iff_of (m := [.gmes, .arbs, .red, .ues, .rcv, .log, .job, .fix, .ck, .scrubQ]) (fun p hp => ?_) (by simp [*]) s
  cases p <;> first | rfl | exact fun _ _ => rfl | exact fun _ => rfl | simp at hp

@[simp] theorem SameBut.with_heldTx_pwr {l : List Part} {s t : State} (x0 : List Txn) (x1 : PwrSt) (hheldTx : .heldTx ∈ l) (hpwr : .pwr ∈ l) :
    SameBut l s { t with heldTx := x0, pwr := x1 } ↔ SameBut l s t := by
  refine iff_of (m := [.heldTx, .pwr]) (fun p hp => ?_) (by simp [*]) s
  cases p <;> first | rfl | exact fun _ _ => rfl | exact fun _ => rfl | simp at hp

@[simp] theorem SameBut.with_mem_ecc {l : List Part} {s t : State} (x0 : List Host.Cell) (x1 : SMap Nat) (hmem : .mem ∈ l) (hecc : .ecc ∈ l) :
    SameBut l s { t with mem := x0, ecc := x1 } ↔ SameBut l s t := by
  refine iff_of (m := [.mem, .ecc]) (fun p hp => ?_) (by simp [*]) s
  cases p <;> first | rfl | exact fun _ _ => rfl | simp at hp

@[simp] theorem SameBut.with_mem_ecc_bridge_sb_pwr_log_sheets {l : List Part} {s t : State} (x0 : List Host.Cell) (x1 : SMap Nat) (x2 : Bool) (x3 : SbSt) (x4 : PwrSt) (x5 : LogSt) (x6 : List (List Byte)) (hmem : .mem ∈ l) (hecc : .ecc ∈ l) (hbridge : .bridge ∈ l) (hsb : .sb ∈ l) (hpwr : .pwr ∈ l) (hlog : .log ∈ l) (hsheets : .sheets ∈ l) :
    SameBut l s { t with mem := x0, ecc := x1, bridge := x2, sb := x3, pwr := x4, log := x5, sheets := x6 } ↔ SameBut l s t := by
  refine iff_of (m := [.mem, .ecc, .bridge, .sb, .pwr, .log, .sheets]) (fun p hp => ?_) (by simp [*]) s
  cases p <;> first | rfl | exact fun _ _ => rfl | simp at hp

@[simp] theorem SameBut.with_mem_ecc_cores_gmes_arbs_tus_apps_stqs_red_ues_streams_qps_eths_arrivals_auLog_fix_ck_sheets_scrubQ_gshift {l : List Part} {s t : State} (x0 : List Host.Cell) (x1 : SMap Nat) (x2 : SMap CoreSt) (x3 : SMap GmeSt) (x4 : SMap ArbSt) (x5 : SMap TuSt) (x6 : SMap AppSt) (x7 : SMap StageQ) (x8 : RedSt) (x9 : SMap UeSt) (x10 : SMap (Option StreamRun)) (x11 : SMap QueuePair) (x12 : SMap EthPort) (x13 : SMap (List (Nat × Nat × Nat))) (x14 : SMap Nat) (x15 : FixSt) (x16 : CkSt) (x17 : List (List Byte)) (x18 : List Nat) (x19 : SMap Nat) (hmem : .mem ∈ l) (hecc : .ecc ∈ l) (hcores : .cores ∈ l) (hgmes : .gmes ∈ l) (harbs : .arbs ∈ l) (htus : .tus ∈ l) (happs : .apps ∈ l) (hstqs : .stqs ∈ l) (hred : .red ∈ l) (hues : .ues ∈ l) (hstreams : .streams ∈ l) (hqps : .qps ∈ l) (heths : .eths ∈ l) (harrivals : .arrivals ∈ l) (hauLog : .auLog ∈ l) (hfix : .fix ∈ l) (hck : .ck ∈ l) (hsheets : .sheets ∈ l) (hscrubQ : .scrubQ ∈ l) (hgshift : .gshift ∈ l) :
    SameBut l s { t with mem := x0, ecc := x1, cores := x2, gmes := x3, arbs := x4, tus := x5, apps := x6, stqs := x7, red := x8, ues := x9, streams := x10, qps := x11, eths := x12, arrivals := x13, auLog := x14, fix := x15, ck := x16, sheets := x17, scrubQ := x18, gshift := x19 } ↔ SameBut l s t := by
  refine iff_of (m := [.mem, .ecc, .cores, .gmes, .arbs, .tus, .apps, .stqs, .red, .ues, .streams, .qps, .eths, .arrivals, .auLog, .fix, .ck, .sheets, .scrubQ, .gshift]) (fun p hp => ?_) (by simp [*]) s
  cases p <;> first | rfl | exact fun _ _ => rfl | simp at hp

@[simp] theorem SameBut.with_rcv_kpr {l : List Part} {s t : State} (x0 : RecSt) (x1 : KeeperSt) (hrcv : .rcv ∈ l) (hkpr : .kpr ∈ l) :
    SameBut l s { t with rcv := x0, kpr := x1 } ↔ SameBut l s t := by
  refine iff_of (m := [.rcv, .kpr]) (fun p hp => ?_) (by simp [*]) s
  cases p <;> first | rfl | exact fun _ _ => rfl | exact fun _ => rfl | simp at hp

@[simp] theorem SameBut.with_rcv_log {l : List Part} {s t : State} (x0 : RecSt) (x1 : LogSt) (hrcv : .rcv ∈ l) (hlog : .log ∈ l) :
    SameBut l s { t with rcv := x0, log := x1 } ↔ SameBut l s t := by
  refine iff_of (m := [.rcv, .log]) (fun p hp => ?_) (by simp [*]) s
  cases p <;> first | rfl | exact fun _ _ => rfl | exact fun _ => rfl | simp at hp

@[simp] theorem SameBut.with_red_ues {l : List Part} {s t : State} (x0 : RedSt) (x1 : SMap UeSt) (hred : .red ∈ l) (hues : .ues ∈ l) :
    SameBut l s { t with red := x0, ues := x1 } ↔ SameBut l s t := by
  refine iff_of (m := [.red, .ues]) (fun p hp => ?_) (by simp [*]) s
  cases p <;> first | rfl | exact fun _ _ => rfl | exact fun _ => rfl | simp at hp

@[simp] theorem SameBut.with_regs_mem_ecc_net_cores_gmes_arbs_tus_ports_patrol_heldTx_apps_stqs_red_ues_streams_qps_eths_arrivals_auLog_sheets_scrubQ_gshift {l : List Part} {s t : State} (x0 : SMap Nat) (x1 : List Host.Cell) (x2 : SMap Nat) (x3 : SMap Nat) (x4 : SMap CoreSt) (x5 : SMap GmeSt) (x6 : SMap ArbSt) (x7 : SMap TuSt) (x8 : SMap PortSt) (x9 : SMap Nat) (x10 : List Txn) (x11 : SMap AppSt) (x12 : SMap StageQ) (x13 : RedSt) (x14 : SMap UeSt) (x15 : SMap (Option StreamRun)) (x16 : SMap QueuePair) (x17 : SMap EthPort) (x18 : SMap (List (Nat × Nat × Nat))) (x19 : SMap Nat) (x20 : List (List Byte)) (x21 : List Nat) (x22 : SMap Nat) (hregs : .regs ∈ l) (hmem : .mem ∈ l) (hecc : .ecc ∈ l) (hnet : .net ∈ l) (hcores : .cores ∈ l) (hgmes : .gmes ∈ l) (harbs : .arbs ∈ l) (htus : .tus ∈ l) (hports : .ports ∈ l) (hpatrol : .patrol ∈ l) (hheldTx : .heldTx ∈ l) (happs : .apps ∈ l) (hstqs : .stqs ∈ l) (hred : .red ∈ l) (hues : .ues ∈ l) (hstreams : .streams ∈ l) (hqps : .qps ∈ l) (heths : .eths ∈ l) (harrivals : .arrivals ∈ l) (hauLog : .auLog ∈ l) (hsheets : .sheets ∈ l) (hscrubQ : .scrubQ ∈ l) (hgshift : .gshift ∈ l) :
    SameBut l s { t with regs := x0, mem := x1, ecc := x2, net := x3, cores := x4, gmes := x5, arbs := x6, tus := x7, ports := x8, patrol := x9, heldTx := x10, apps := x11, stqs := x12, red := x13, ues := x14, streams := x15, qps := x16, eths := x17, arrivals := x18, auLog := x19, sheets := x20, scrubQ := x21, gshift := x22 } ↔ SameBut l s t := by
  refine iff_of (m := [.regs, .mem, .ecc, .net, .cores, .gmes, .arbs, .tus, .ports, .patrol, .heldTx, .apps, .stqs, .red, .ues, .streams, .qps, .eths, .arrivals, .auLog, .sheets, .scrubQ, .gshift]) (fun p hp => ?_) (by simp [*]) s
  cases p <;> first | rfl | simp at hp

@[simp] theorem SameBut.with_regs_net_arbs_tus_sb_log_scrubQ_free {l : List Part} {s t : State} (x0 : SMap Nat) (x1 : SMap Nat) (x2 : SMap ArbSt) (x3 : SMap TuSt) (x4 : SbSt) (x5 : LogSt) (x6 : List Nat) (x7 : Nat) (hregs : .regs ∈ l) (hnet : .net ∈ l) (harbs : .arbs ∈ l) (htus : .tus ∈ l) (hsb : .sb ∈ l) (hlog : .log ∈ l) (hscrubQ : .scrubQ ∈ l) :
    SameBut l s { t with regs := x0, net := x1, arbs := x2, tus := x3, sb := x4, log := x5, scrubQ := x6, free := x7 } ↔ SameBut l s t := by
  refine iff_of (m := [.regs, .net, .arbs, .tus, .sb, .log, .scrubQ]) (fun p hp => ?_) (by simp [*]) s
  cases p <;> first | rfl | exact fun _ => rfl | simp at hp

@[simp] theorem SameBut.with_regs_pcie {l : List Part} {s t : State} (x0 : SMap Nat) (x1 : BridgeSt) (hregs : .regs ∈ l) (hpcie : .pcie ∈ l) :
    SameBut l s { t with regs := x0, pcie := x1 } ↔ SameBut l s t := by
  refine iff_of (m := [.regs, .pcie]) (fun p hp => ?_) (by simp [*]) s
  cases p <;> first | rfl | exact fun _ => rfl | simp at hp

@[simp] theorem SameBut.with_routes_groups_job {l : List Part} {s t : State} (x0 : Option (SMap Nat)) (x1 : List (Nat × List Nat)) (x2 : JobSt) (hroutes : .routes ∈ l) (hgroups : .groups ∈ l) (hjob : .job ∈ l) :
    SameBut l s { t with routes := x0, groups := x1, job := x2 } ↔ SameBut l s t := by
  refine iff_of (m := [.routes, .groups, .job]) (fun p hp => ?_) (by simp [*]) s
  cases p <;> first | rfl | exact fun _ _ => rfl | exact fun _ => rfl | simp at hp

@[simp] theorem SameBut.with_sb_job {l : List Part} {s t : State} (x0 : SbSt) (x1 : JobSt) (hsb : .sb ∈ l) (hjob : .job ∈ l) :
    SameBut l s { t with sb := x0, job := x1 } ↔ SameBut l s t := by
  refine iff_of (m := [.sb, .job]) (fun p hp => ?_) (by simp [*]) s
  cases p <;> first | rfl | exact fun _ _ => rfl | exact fun _ => rfl | simp at hp

@[simp] theorem SameBut.with_streams_qps {l : List Part} {s t : State} (x0 : SMap (Option StreamRun)) (x1 : SMap QueuePair) (hstreams : .streams ∈ l) (hqps : .qps ∈ l) :
    SameBut l s { t with streams := x0, qps := x1 } ↔ SameBut l s t := by
  refine iff_of (m := [.streams, .qps]) (fun p hp => ?_) (by simp [*]) s
  cases p <;> first | rfl | exact fun _ _ => rfl | exact fun _ => rfl | simp at hp

end Sys2Proof.Machine
end

