-- ==== Sys2Proof/Laws/Shared.lean ====
section
/-!
SUPPORT. Laws of the log, halts, mailbox channels, doorbells and the fog signal: for each operation that commands share,
the parts of the state that it may change, and with it the frame of a sequence that ends with it.
-/
namespace Sys2Proof.Machine


/-! ### The log (18_faults_and_relief R424 to R426) -/

theorem State.logStat_frame (s : State) : SameBut [.regs] s s.logStat := by
  simp [State.logStat]

@[simp] theorem SameBut.logStat {l : List Part} {s t : State}  (hregs : .regs ∈ l) :
    SameBut l s t.logStat ↔ SameBut l s t := iff_of (t.logStat_frame) (by simp [*]) s

theorem State.pushEntry_frame (s : State) (e : LogEntry) : SameBut [.regs, .log, .sb] s (s.pushEntry e) := by
  unfold State.pushEntry
  extract_lets s1 g2 s2 g3 s3 g4 s4
  have h1 : SameBut [.regs, .log, .sb] s s1 := by unfold s1; split <;> simp
  have h2 : SameBut [.regs, .log, .sb] s s2 := by simpa [s2] using h1
  have h3 : SameBut [.regs, .log, .sb] s s3 := by unfold s3; (repeat' split) <;> simpa using h2
  have h4 : SameBut [.regs, .log, .sb] s s4 := by unfold s4; split <;> simpa using h3
  simpa using h4

@[simp] theorem SameBut.pushEntry {l : List Part} {s t : State} (e : LogEntry) (hregs : .regs ∈ l) (hlog : .log ∈ l) (hsb : .sb ∈ l) :
    SameBut l s (t.pushEntry e) ↔ SameBut l s t := iff_of (t.pushEntry_frame e) (by simp [*]) s

theorem State.logEvent_frame (s : State) (code u d0 d1 d2 d3 : Nat) : SameBut [.regs, .log, .sb] s (s.logEvent code u d0 d1 d2 d3) := by
  unfold State.logEvent
  simp only []
  (repeat' split) <;> simp

@[simp] theorem SameBut.logEvent {l : List Part} {s t : State} (code u d0 d1 d2 d3 : Nat) (hregs : .regs ∈ l) (hlog : .log ∈ l) (hsb : .sb ∈ l) :
    SameBut l s (t.logEvent code u d0 d1 d2 d3) ↔ SameBut l s t := iff_of (t.logEvent_frame code u d0 d1 d2 d3) (by simp [*]) s

theorem State.logAs_frame (s : State) (code cls u d0 d1 d2 d3 : Nat) : SameBut [.regs, .log, .sb] s (s.logAs code cls u d0 d1 d2 d3) := by
  simp [State.logAs]

@[simp] theorem SameBut.logAs {l : List Part} {s t : State} (code cls u d0 d1 d2 d3 : Nat) (hregs : .regs ∈ l) (hlog : .log ∈ l) (hsb : .sb ∈ l) :
    SameBut l s (t.logAs code cls u d0 d1 d2 d3) ↔ SameBut l s t := iff_of (t.logAs_frame code cls u d0 d1 d2 d3) (by simp [*]) s

/-! ### Halts (09_core_sequencer R237) -/

theorem State.haltRegs_frame (s : State) (die core cause : Nat) (via : Bool) (tag : Nat) : SameBut [.regs] s (s.haltRegs die core cause via tag) := by
  simp [State.haltRegs]

@[simp] theorem SameBut.haltRegs {l : List Part} {s t : State} (die core cause : Nat) (via : Bool) (tag : Nat) (hregs : .regs ∈ l) :
    SameBut l s (t.haltRegs die core cause via tag) ↔ SameBut l s t := iff_of (t.haltRegs_frame die core cause via tag) (by simp [*]) s

theorem State.coreDown_frame (s : State) (die core cause : Nat) (via : Bool) (tag : Nat) : SameBut [.regs, .cores] s (s.coreDown die core cause via tag) := by
  unfold State.coreDown
  simp only [SameBut.haltRegs, SameBut.wr, List.mem_cons, true_or]
  intro p hp
  cases p <;> first | rfl | exact fun _ _ => rfl | exact fun _ => rfl | simp at hp

@[simp] theorem SameBut.coreDown {l : List Part} {s t : State} (die core cause : Nat) (via : Bool) (tag : Nat) (hregs : .regs ∈ l) (hcores : .cores ∈ l) :
    SameBut l s (t.coreDown die core cause via tag) ↔ SameBut l s t := iff_of (t.coreDown_frame die core cause via tag) (by simp [*]) s

theorem State.stopCore_frame (s : State) (die core : Nat) : SameBut [.regs, .cores, .log, .sb] s (s.stopCore die core) := by
  unfold State.stopCore
  simp only []
  split <;> simp

@[simp] theorem SameBut.stopCore {l : List Part} {s t : State} (die core : Nat) (hregs : .regs ∈ l) (hcores : .cores ∈ l) (hlog : .log ∈ l) (hsb : .sb ∈ l) :
    SameBut l s (t.stopCore die core) ↔ SameBut l s t := iff_of (t.stopCore_frame die core) (by simp [*]) s

theorem State.stopCores_frame (s : State) : SameBut [.regs, .cores, .log, .sb] s s.stopCores := by
  unfold State.stopCores
  refine SameBut.forEach _ _ (fun t p => ?_) s
  exact t.stopCore_frame p.1 p.2

@[simp] theorem SameBut.stopCores {l : List Part} {s t : State}  (hregs : .regs ∈ l) (hcores : .cores ∈ l) (hlog : .log ∈ l) (hsb : .sb ∈ l) :
    SameBut l s t.stopCores ↔ SameBut l s t := iff_of (t.stopCores_frame) (by simp [*]) s

/-! ### Layer-table counters and vote flags (11_backward_pass R284; 12_update_and_fixer R300) -/

theorem State.ltAdd_frame (s : State) (layer off len n : Nat) : SameBut [.mem, .ecc] s (s.ltAdd layer off len n) := by
  unfold State.ltAdd
  split <;> simp

@[simp] theorem SameBut.ltAdd {l : List Part} {s t : State} (layer off len n : Nat) (hmem : .mem ∈ l) (hecc : .ecc ∈ l) :
    SameBut l s (t.ltAdd layer off len n) ↔ SameBut l s t := iff_of (t.ltAdd_frame layer off len n) (by simp [*]) s

theorem State.addIrreg_frame (s : State) (layer n : Nat) : SameBut [.mem, .ecc] s (s.addIrreg layer n) := by
  simp [State.addIrreg]

@[simp] theorem SameBut.addIrreg {l : List Part} {s t : State} (layer n : Nat) (hmem : .mem ∈ l) (hecc : .ecc ∈ l) :
    SameBut l s (t.addIrreg layer n) ↔ SameBut l s t := iff_of (t.addIrreg_frame layer n) (by simp [*]) s

theorem State.offerAmax_frame (s : State) (layer v : Nat) : SameBut [.mem, .ecc] s (s.offerAmax layer v) := by
  unfold State.offerAmax
  split <;> simp

@[simp] theorem SameBut.offerAmax {l : List Part} {s t : State} (layer v : Nat) (hmem : .mem ∈ l) (hecc : .ecc ∈ l) :
    SameBut l s (t.offerAmax layer v) ↔ SameBut l s t := iff_of (t.offerAmax_frame layer v) (by simp [*]) s

theorem State.flagEvent_frame (s : State) (u flag code : Nat) : SameBut [.regs, .log, .sb, .fix] s (s.flagEvent u flag code) := by
  unfold State.flagEvent
  simp only []
  split
  all_goals
    (try rw [SameBut.logAs _ _ _ _ _ _ _ (by simp) (by simp) (by simp)])
    intro p hp
    cases p <;> first | rfl | exact fun _ _ => rfl | exact fun _ => rfl | simp at hp

@[simp] theorem SameBut.flagEvent {l : List Part} {s t : State} (u flag code : Nat) (hregs : .regs ∈ l) (hlog : .log ∈ l) (hsb : .sb ∈ l) (hfix : .fix ∈ l) :
    SameBut l s (t.flagEvent u flag code) ↔ SameBut l s t := iff_of (t.flagEvent_frame u flag code) (by simp [*]) s

theorem State.addEvents_frame (s : State) (u layer : Nat) (ev : Events) : SameBut [.regs, .mem, .ecc, .log, .sb, .fix] s (s.addEvents u layer ev) := by
  unfold State.addEvents
  simp only []
  (repeat' split) <;> simp

@[simp] theorem SameBut.addEvents {l : List Part} {s t : State} (u layer : Nat) (ev : Events) (hregs : .regs ∈ l) (hmem : .mem ∈ l) (hecc : .ecc ∈ l) (hlog : .log ∈ l) (hsb : .sb ∈ l) (hfix : .fix ∈ l) :
    SameBut l s (t.addEvents u layer ev) ↔ SameBut l s t := iff_of (t.addEvents_frame u layer ev) (by simp [*]) s

/-! ### Doorbells and tags (19_keeper_minil R450 to R452; 09_core_sequencer R228) -/

theorem State.endDbWait_frame (s : State) (i : Nat) : SameBut [.regs, .apps] s (s.endDbWait i) := by
  unfold State.endDbWait
  simp only []
  (repeat' split) <;> simp

@[simp] theorem SameBut.endDbWait {l : List Part} {s t : State} (i : Nat) (hregs : .regs ∈ l) (happs : .apps ∈ l) :
    SameBut l s (t.endDbWait i) ↔ SameBut l s t := iff_of (t.endDbWait_frame i) (by simp [*]) s

theorem State.notify_frame (s : State) (before : Nat) : SameBut [.regs, .apps] s (s.notify before) := by
  unfold State.notify
  refine SameBut.through ?_ (SameBut.forEach _ _ (fun t i => t.endDbWait_frame i) _)
  exact SameBut.forEach _ _ (fun t b => by simp) s

@[simp] theorem SameBut.notify {l : List Part} {s t : State} (before : Nat) (hregs : .regs ∈ l) (happs : .apps ∈ l) :
    SameBut l s (t.notify before) ↔ SameBut l s t := iff_of (t.notify_frame before) (by simp [*]) s

theorem State.dbSet_frame (s : State) (bits : Nat) : SameBut [.regs, .apps] s (s.dbSet bits) := by
  simp [State.dbSet]

@[simp] theorem SameBut.dbSet {l : List Part} {s t : State} (bits : Nat) (hregs : .regs ∈ l) (happs : .apps ∈ l) :
    SameBut l s (t.dbSet bits) ↔ SameBut l s t := iff_of (t.dbSet_frame bits) (by simp [*]) s

theorem State.dbClr_frame (s : State) (src bits : Nat) : SameBut [.regs] s (s.dbClr src bits) := by
  simp [State.dbClr]

@[simp] theorem SameBut.dbClr {l : List Part} {s t : State} (src bits : Nat) (hregs : .regs ∈ l) :
    SameBut l s (t.dbClr src bits) ↔ SameBut l s t := iff_of (t.dbClr_frame src bits) (by simp [*]) s

theorem State.dbMask_frame (s : State) (src bits mask : Nat) : SameBut [.regs, .apps] s (s.dbMask src bits mask) := by
  simp [State.dbMask]

@[simp] theorem SameBut.dbMask {l : List Part} {s t : State} (src bits mask : Nat) (hregs : .regs ∈ l) (happs : .apps ∈ l) :
    SameBut l s (t.dbMask src bits mask) ↔ SameBut l s t := iff_of (t.dbMask_frame src bits mask) (by simp [*]) s

theorem State.mayMiss_frame (s : State) (die core kind id : Nat) : SameBut [.regs] s (s.mayMiss die core kind id) := by
  unfold State.mayMiss
  split
  · refine (SameBut.bump _ _ _ (by simp)).2 ?_
    exact (SameBut.with_free _).2 (SameBut.of_self _ _)
  · simp

@[simp] theorem SameBut.mayMiss {l : List Part} {s t : State} (die core kind id : Nat) (hregs : .regs ∈ l) :
    SameBut l s (t.mayMiss die core kind id) ↔ SameBut l s t := iff_of (t.mayMiss_frame die core kind id) (by simp [*]) s

theorem State.nearMiss_frame (s : State) (die core kind id period : Nat) : SameBut [.regs] s (s.nearMiss die core kind id period) := by
  unfold State.nearMiss
  split <;> simp

@[simp] theorem SameBut.nearMiss {l : List Part} {s t : State} (die core kind id period : Nat) (hregs : .regs ∈ l) :
    SameBut l s (t.nearMiss die core kind id period) ↔ SameBut l s t := iff_of (t.nearMiss_frame die core kind id period) (by simp [*]) s

theorem State.recordTag_frame (s : State) (die core tag err : Nat) : SameBut [.cores] s (s.recordTag die core tag err) := by
  unfold State.recordTag
  simp only []
  split <;> simp

@[simp] theorem SameBut.recordTag {l : List Part} {s t : State} (die core tag err : Nat) (hcores : .cores ∈ l) :
    SameBut l s (t.recordTag die core tag err) ↔ SameBut l s t := iff_of (t.recordTag_frame die core tag err) (by simp [*]) s

theorem State.returnTag_frame (s : State) (die core tag err : Nat) : SameBut [.regs, .cores] s (s.returnTag die core tag err) := by
  unfold State.returnTag
  split <;> simp

@[simp] theorem SameBut.returnTag {l : List Part} {s t : State} (die core tag err : Nat) (hregs : .regs ∈ l) (hcores : .cores ∈ l) :
    SameBut l s (t.returnTag die core tag err) ↔ SameBut l s t := iff_of (t.returnTag_frame die core tag err) (by simp [*]) s

theorem State.newEvents_frame (s : State) (die core before : Nat) : SameBut [.regs] s (s.newEvents die core before) := by
  unfold State.newEvents
  simp only []
  split <;> simp

@[simp] theorem SameBut.newEvents {l : List Part} {s t : State} (die core before : Nat) (hregs : .regs ∈ l) :
    SameBut l s (t.newEvents die core before) ↔ SameBut l s t := iff_of (t.newEvents_frame die core before) (by simp [*]) s

theorem State.raiseEvt_frame (s : State) (die core bits : Nat) : SameBut [.regs] s (s.raiseEvt die core bits) := by
  simp [State.raiseEvt]

@[simp] theorem SameBut.raiseEvt {l : List Part} {s t : State} (die core bits : Nat) (hregs : .regs ∈ l) :
    SameBut l s (t.raiseEvt die core bits) ↔ SameBut l s t := iff_of (t.raiseEvt_frame die core bits) (by simp [*]) s

theorem State.dmaStat_frame (s : State) (die core : Nat) : SameBut [.regs] s (s.dmaStat die core) := by
  simp [State.dmaStat]

@[simp] theorem SameBut.dmaStat {l : List Part} {s t : State} (die core : Nat) (hregs : .regs ∈ l) :
    SameBut l s (t.dmaStat die core) ↔ SameBut l s t := iff_of (t.dmaStat_frame die core) (by simp [*]) s

theorem State.endXfer_frame (s : State) (die core i : Nat) : SameBut [.regs, .cores, .apps] s (s.endXfer die core i) := by
  unfold State.endXfer
  simp only []
  (repeat' split) <;> simp

@[simp] theorem SameBut.endXfer {l : List Part} {s t : State} (die core i : Nat) (hregs : .regs ∈ l) (hcores : .cores ∈ l) (happs : .apps ∈ l) :
    SameBut l s (t.endXfer die core i) ↔ SameBut l s t := iff_of (t.endXfer_frame die core i) (by simp [*]) s

theorem State.dmaCapture_frame (s : State) (die core : Nat) (e : XferFault) (tag ring : Nat) (dir mcast fetch : Bool) : SameBut [.regs] s (s.dmaCapture die core e tag ring dir mcast fetch) := by
  simp [State.dmaCapture]

@[simp] theorem SameBut.dmaCapture {l : List Part} {s t : State} (die core : Nat) (e : XferFault) (tag ring : Nat) (dir mcast fetch : Bool) (hregs : .regs ∈ l) :
    SameBut l s (t.dmaCapture die core e tag ring dir mcast fetch) ↔ SameBut l s t := iff_of (t.dmaCapture_frame die core e tag ring dir mcast fetch) (by simp [*]) s

theorem State.failXfer_frame (s : State) (die core i : Nat) (x : Xfer) (e : XferFault) : SameBut [.regs, .cores, .log, .sb] s (s.failXfer die core i x e) := by
  simp [State.failXfer]

@[simp] theorem SameBut.failXfer {l : List Part} {s t : State} (die core i : Nat) (x : Xfer) (e : XferFault) (hregs : .regs ∈ l) (hcores : .cores ∈ l) (hlog : .log ∈ l) (hsb : .sb ∈ l) :
    SameBut l s (t.failXfer die core i x e) ↔ SameBut l s t := iff_of (t.failXfer_frame die core i x e) (by simp [*]) s

theorem State.setXfer_frame (s : State) (die core i : Nat) (x : Xfer) : SameBut [.cores] s (s.setXfer die core i x) := by
  simp [State.setXfer]

@[simp] theorem SameBut.setXfer {l : List Part} {s t : State} (die core i : Nat) (x : Xfer) (hcores : .cores ∈ l) :
    SameBut l s (t.setXfer die core i x) ↔ SameBut l s t := iff_of (t.setXfer_frame die core i x) (by simp [*]) s

theorem State.answerHeld_frame (s : State) (src key err : Nat) : SameBut [.regs, .cores, .apps, .log, .sb] s (s.answerHeld src key err) := by
  unfold State.answerHeld
  simp only []
  (repeat' split) <;> simp

@[simp] theorem SameBut.answerHeld {l : List Part} {s t : State} (src key err : Nat) (hregs : .regs ∈ l) (hcores : .cores ∈ l) (happs : .apps ∈ l) (hlog : .log ∈ l) (hsb : .sb ∈ l) :
    SameBut l s (t.answerHeld src key err) ↔ SameBut l s t := iff_of (t.answerHeld_frame src key err) (by simp [*]) s

/-! ### Mailbox channels (19_keeper_minil R445 to R449) -/

theorem State.mbxRefuse_frame (s : State) (c code : Nat) : SameBut [.regs] s (s.mbxRefuse c code).1 := by
  simp [State.mbxRefuse]

@[simp] theorem SameBut.mbxRefuse {l : List Part} {s t : State} (c code : Nat) (hregs : .regs ∈ l) :
    SameBut l s (t.mbxRefuse c code).1 ↔ SameBut l s t := iff_of (t.mbxRefuse_frame c code) (by simp [*]) s

theorem State.mbxWrite_frame (s : State) (src c off : Nat) (bs : List Byte) : SameBut [.regs, .mem, .ecc] s (s.mbxWrite src c off bs).1 := by
  unfold State.mbxWrite
  simp only []
  (repeat' split) <;> simp

@[simp] theorem SameBut.mbxWrite {l : List Part} {s t : State} (src c off : Nat) (bs : List Byte) (hregs : .regs ∈ l) (hmem : .mem ∈ l) (hecc : .ecc ∈ l) :
    SameBut l s (t.mbxWrite src c off bs).1 ↔ SameBut l s t := iff_of (t.mbxWrite_frame src c off bs) (by simp [*]) s

theorem State.mbxSend_frame (s : State) (src c len : Nat) : SameBut [.regs, .apps] s (s.mbxSend src c len).1 := by
  unfold State.mbxSend
  (repeat' split) <;> simp

@[simp] theorem SameBut.mbxSend {l : List Part} {s t : State} (src c len : Nat) (hregs : .regs ∈ l) (happs : .apps ∈ l) :
    SameBut l s (t.mbxSend src c len).1 ↔ SameBut l s t := iff_of (t.mbxSend_frame src c len) (by simp [*]) s

theorem State.mbxClear_frame (s : State) (c : Nat) : SameBut [.regs, .mem, .ecc] s (s.mbxClear c) := by
  simp [State.mbxClear]

@[simp] theorem SameBut.mbxClear {l : List Part} {s t : State} (c : Nat) (hregs : .regs ∈ l) (hmem : .mem ∈ l) (hecc : .ecc ∈ l) :
    SameBut l s (t.mbxClear c) ↔ SameBut l s t := iff_of (t.mbxClear_frame c) (by simp [*]) s

theorem State.mbxDone_frame (s : State) (src c : Nat) : SameBut [.regs, .mem, .ecc, .cores, .apps, .log, .sb] s (s.mbxDone src c).1 := by
  unfold State.mbxDone
  simp only []
  (repeat' split) <;> simp

@[simp] theorem SameBut.mbxDone {l : List Part} {s t : State} (src c : Nat) (hregs : .regs ∈ l) (hmem : .mem ∈ l) (hecc : .ecc ∈ l) (hcores : .cores ∈ l) (happs : .apps ∈ l) (hlog : .log ∈ l) (hsb : .sb ∈ l) :
    SameBut l s (t.mbxDone src c).1 ↔ SameBut l s t := iff_of (t.mbxDone_frame src c) (by simp [*]) s

theorem State.mbxBreak_frame (s : State) (c : Nat) : SameBut [.regs, .mem, .ecc] s (s.mbxBreak c) := by
  unfold State.mbxBreak
  split <;> simp

@[simp] theorem SameBut.mbxBreak {l : List Part} {s t : State} (c : Nat) (hregs : .regs ∈ l) (hmem : .mem ∈ l) (hecc : .ecc ∈ l) :
    SameBut l s (t.mbxBreak c) ↔ SameBut l s t := iff_of (t.mbxBreak_frame c) (by simp [*]) s

theorem State.mbxReset_frame (s : State) (chans : List Nat) : SameBut [.regs, .mem, .ecc, .cores, .apps, .log, .sb] s (s.mbxReset chans) := by
  refine SameBut.forEach _ _ (fun t c => ?_) s
  simp only []
  split <;> simp

@[simp] theorem SameBut.mbxReset {l : List Part} {s t : State} (chans : List Nat) (hregs : .regs ∈ l) (hmem : .mem ∈ l) (hecc : .ecc ∈ l) (hcores : .cores ∈ l) (happs : .apps ∈ l) (hlog : .log ∈ l) (hsb : .sb ∈ l) :
    SameBut l s (t.mbxReset chans) ↔ SameBut l s t := iff_of (t.mbxReset_frame chans) (by simp [*]) s

end Sys2Proof.Machine
end

