-- ==== Sys2Proof/Laws/Ops.lean ====
section
/-!
SUPPORT. Laws of the operations of Machine/Ops.lean: the parts of the state that each may change.
-/
set_option linter.unusedSimpArgs false
set_option linter.unusedTactic false
set_option linter.unreachableTactic false
namespace Sys2Proof.Machine

theorem State.fresh_frame (s : State) :
    SameBut [] s (State.fresh s).2 := by
  simp [State.fresh]

@[simp] theorem SameBut.fresh {l : List Part} {s t : State}   :
    SameBut l s (State.fresh t).2 ↔ SameBut l s t :=
  iff_of (State.fresh_frame t) (by simp [*]) s

theorem State.freshBytes_frame (s : State) (n : ℕ) :
    SameBut [] s (State.freshBytes s n).2 := by
  simp [State.freshBytes]

@[simp] theorem SameBut.freshBytes {l : List Part} {s t : State} (n : ℕ)  :
    SameBut l s (State.freshBytes t n).2 ↔ SameBut l s t :=
  iff_of (State.freshBytes_frame t n) (by simp [*]) s

end Sys2Proof.Machine
end

