-- ==== Sys2Proof/Laws/Notice.lean ====
section
/-!
SUPPORT. Laws of the operations of Machine/Notice.lean: the parts of the state that each may change.
-/
set_option linter.unusedSimpArgs false
set_option linter.unusedTactic false
set_option linter.unreachableTactic false
namespace Sys2Proof.Machine

theorem State.msgLost_frame (s : State) :
    SameBut [.regs] s (State.msgLost s) := by
  simp [State.msgLost]

@[simp] theorem SameBut.msgLost {l : List Part} {s t : State}  (hregs : .regs ∈ l) :
    SameBut l s (State.msgLost t) ↔ SameBut l s t :=
  iff_of (State.msgLost_frame t) (by simp [*]) s

theorem State.putMsg_frame (s : State) (chan : ℕ) (bs : List Byte) :
    SameBut [.regs, .mem, .ecc, .apps] s (State.putMsg s chan bs).1 := by
  simp [State.putMsg]

@[simp] theorem SameBut.putMsg {l : List Part} {s t : State} (chan : ℕ) (bs : List Byte) (hregs : .regs ∈ l) (hmem : .mem ∈ l) (hecc : .ecc ∈ l) (happs : .apps ∈ l) :
    SameBut l s (State.putMsg t chan bs).1 ↔ SameBut l s t :=
  iff_of (State.putMsg_frame t chan bs) (by simp [*]) s

theorem State.sendMsg_frame (s : State) (m : OutMsg) :
    SameBut [.regs, .mem, .ecc, .apps, .kpr] s (State.sendMsg s m) := by
  simp [State.sendMsg]

@[simp] theorem SameBut.sendMsg {l : List Part} {s t : State} (m : OutMsg) (hregs : .regs ∈ l) (hmem : .mem ∈ l) (hecc : .ecc ∈ l) (happs : .apps ∈ l) (hkpr : .kpr ∈ l) :
    SameBut l s (State.sendMsg t m) ↔ SameBut l s t :=
  iff_of (State.sendMsg_frame t m) (by simp [*]) s

theorem State.reply_frame (s : State) (m : Minil) (status : ℕ) (payload : List Byte) :
    SameBut [.regs, .mem, .ecc, .apps, .kpr] s (State.reply s m status payload) := by
  simp [State.reply]

@[simp] theorem SameBut.reply {l : List Part} {s t : State} (m : Minil) (status : ℕ) (payload : List Byte) (hregs : .regs ∈ l) (hmem : .mem ∈ l) (hecc : .ecc ∈ l) (happs : .apps ∈ l) (hkpr : .kpr ∈ l) :
    SameBut l s (State.reply t m status payload) ↔ SameBut l s t :=
  iff_of (State.reply_frame t m status payload) (by simp [*]) s

theorem State.endLong_frame (s : State) (status : ℕ) (payload : List Byte) :
    SameBut [.regs, .mem, .ecc, .apps, .kpr] s (State.endLong s status payload) := by
  unfold State.endLong
  try simp only []
  (repeat' split) <;> simp

@[simp] theorem SameBut.endLong {l : List Part} {s t : State} (status : ℕ) (payload : List Byte) (hregs : .regs ∈ l) (hmem : .mem ∈ l) (hecc : .ecc ∈ l) (happs : .apps ∈ l) (hkpr : .kpr ∈ l) :
    SameBut l s (State.endLong t status payload) ↔ SameBut l s t :=
  iff_of (State.endLong_frame t status payload) (by simp [*]) s

theorem State.notice_frame (s : State) (dst : ℕ) (chan : ℕ) (seq : ℕ) (prov : Bool) (kind : ℕ) (fields : List Byte) :
    SameBut [.regs, .mem, .ecc, .apps, .kpr] s (State.notice s dst chan seq prov kind fields) := by
  simp [State.notice]

@[simp] theorem SameBut.notice {l : List Part} {s t : State} (dst : ℕ) (chan : ℕ) (seq : ℕ) (prov : Bool) (kind : ℕ) (fields : List Byte) (hregs : .regs ∈ l) (hmem : .mem ∈ l) (hecc : .ecc ∈ l) (happs : .apps ∈ l) (hkpr : .kpr ∈ l) :
    SameBut l s (State.notice t dst chan seq prov kind fields) ↔ SameBut l s t :=
  iff_of (State.notice_frame t dst chan seq prov kind fields) (by simp [*]) s

end Sys2Proof.Machine
end

