-- ==== Sys2Proof/Laws/Fog.lean ====
section
/-!
SUPPORT. Laws of the operations of Machine/Fog.lean: the parts of the state that each may change.
-/
set_option linter.unusedSimpArgs false
set_option linter.unusedTactic false
set_option linter.unreachableTactic false
namespace Sys2Proof.Machine

theorem State.drainEnded_frame (s : State) :
    SameBut [.regs, .ck] s (State.drainEnded s) := by
  simp [State.drainEnded]

@[simp] theorem SameBut.drainEnded {l : List Part} {s t : State}  (hregs : .regs ∈ l) (hck : .ck ∈ l) :
    SameBut l s (State.drainEnded t) ↔ SameBut l s t :=
  iff_of (State.drainEnded_frame t) (by simp [*]) s

theorem State.ckNotice_frame (s : State) (q : CkReq) (kind : ℕ) (fields : List Byte) :
    SameBut [.regs, .mem, .ecc, .apps, .kpr] s (State.ckNotice s q kind fields) := by
  simp [State.ckNotice]

@[simp] theorem SameBut.ckNotice {l : List Part} {s t : State} (q : CkReq) (kind : ℕ) (fields : List Byte) (hregs : .regs ∈ l) (hmem : .mem ∈ l) (hecc : .ecc ∈ l) (happs : .apps ∈ l) (hkpr : .kpr ∈ l) :
    SameBut l s (State.ckNotice t q kind fields) ↔ SameBut l s t :=
  iff_of (State.ckNotice_frame t q kind fields) (by simp [*]) s

theorem State.abortDrain_frame (s : State) (code : ℕ) :
    SameBut [.regs, .mem, .ecc, .apps, .ck, .kpr] s (State.abortDrain s code) := by
  unfold State.abortDrain
  try simp only []
  (repeat' split) <;> simp

@[simp] theorem SameBut.abortDrain {l : List Part} {s t : State} (code : ℕ) (hregs : .regs ∈ l) (hmem : .mem ∈ l) (hecc : .ecc ∈ l) (happs : .apps ∈ l) (hck : .ck ∈ l) (hkpr : .kpr ∈ l) :
    SameBut l s (State.abortDrain t code) ↔ SameBut l s t :=
  iff_of (State.abortDrain_frame t code) (by simp [*]) s

theorem State.emptyStages_frame (s : State) :
    SameBut [.stqs] s (State.emptyStages s) := by
  simp [State.emptyStages]

@[simp] theorem SameBut.emptyStages {l : List Part} {s t : State}  (hstqs : .stqs ∈ l) :
    SameBut l s (State.emptyStages t) ↔ SameBut l s t :=
  iff_of (State.emptyStages_frame t) (by simp [*]) s

theorem State.flood_frame (s : State) (f : Fog) (except : ℕ) :
    SameBut [] s (State.flood s f except) := by
  simp [State.flood]

@[simp] theorem SameBut.flood {l : List Part} {s t : State} (f : Fog) (except : ℕ)  :
    SameBut l s (State.flood t f except) ↔ SameBut l s t :=
  iff_of (State.flood_frame t f except) (by simp [*]) s

theorem State.stopUpdates_frame (s : State) :
    SameBut [.regs, .red, .ues] s (State.stopUpdates s) := by
  unfold State.stopUpdates
  try simp only []
  repeat' (first | (split <;> (rename_i heq; obtain ⟨rfl, rfl⟩ := Prod.ext_iff.1 heq; clear heq)) | (split <;> (rename_i heq; simp only [Prod.ext_iff] at heq; obtain ⟨rfl, rfl, rfl, rfl⟩ := heq)) | (split <;> (rename_i heq; simp only [Prod.ext_iff] at heq; obtain ⟨rfl, rfl, rfl⟩ := heq)) | split)
  all_goals (try simp)
  all_goals (repeat' split)
  all_goals first | (simp; done) | (intro p hp; cases p <;> first | rfl | exact fun _ _ => rfl | exact fun _ => rfl | (simp at hp; done)) | (intro p hp; cases p <;> first | (simp at hp; done) | (simp only [Part.same]; (try intro _); (try intro _); first | rfl | (split <;> rfl) | (simp; done) | (split <;> simp; done)))

@[simp] theorem SameBut.stopUpdates {l : List Part} {s t : State}  (hregs : .regs ∈ l) (hred : .red ∈ l) (hues : .ues ∈ l) :
    SameBut l s (State.stopUpdates t) ↔ SameBut l s t :=
  iff_of (State.stopUpdates_frame t) (by simp [*]) s

theorem State.stopApps_frame (s : State) :
    SameBut [.regs, .mem, .ecc, .cores, .apps, .sb, .log] s (State.stopApps s) := by
  simp [State.stopApps]

@[simp] theorem SameBut.stopApps {l : List Part} {s t : State}  (hregs : .regs ∈ l) (hmem : .mem ∈ l) (hecc : .ecc ∈ l) (hcores : .cores ∈ l) (happs : .apps ∈ l) (hsb : .sb ∈ l) (hlog : .log ∈ l) :
    SameBut l s (State.stopApps t) ↔ SameBut l s t :=
  iff_of (State.stopApps_frame t) (by simp [*]) s

theorem State.stopStreams_frame (s : State) :
    SameBut [.regs, .streams, .qps] s (State.stopStreams s) := by
  unfold State.stopStreams
  try simp only []
  repeat' (first | (split <;> (rename_i heq; obtain ⟨rfl, rfl⟩ := Prod.ext_iff.1 heq; clear heq)) | (split <;> (rename_i heq; simp only [Prod.ext_iff] at heq; obtain ⟨rfl, rfl, rfl, rfl⟩ := heq)) | (split <;> (rename_i heq; simp only [Prod.ext_iff] at heq; obtain ⟨rfl, rfl, rfl⟩ := heq)) | split)
  all_goals (try simp)
  all_goals (repeat' split)
  all_goals first | (simp; done) | (intro p hp; cases p <;> first | rfl | exact fun _ _ => rfl | exact fun _ => rfl | (simp at hp; done)) | (intro p hp; cases p <;> first | (simp at hp; done) | (simp only [Part.same]; (try intro _); (try intro _); first | rfl | (split <;> rfl) | (simp; done) | (split <;> simp; done)))

@[simp] theorem SameBut.stopStreams {l : List Part} {s t : State}  (hregs : .regs ∈ l) (hstreams : .streams ∈ l) (hqps : .qps ∈ l) :
    SameBut l s (State.stopStreams t) ↔ SameBut l s t :=
  iff_of (State.stopStreams_frame t) (by simp [*]) s

theorem State.stopEngines_frame (s : State) (code : ℕ) :
    SameBut [.regs, .mem, .ecc, .cores, .apps, .stqs, .red, .ues, .streams, .qps, .sb, .log, .fix, .ck, .kpr] s (State.stopEngines s code) := by
  simp [State.stopEngines]

@[simp] theorem SameBut.stopEngines {l : List Part} {s t : State} (code : ℕ) (hregs : .regs ∈ l) (hmem : .mem ∈ l) (hecc : .ecc ∈ l) (hcores : .cores ∈ l) (happs : .apps ∈ l) (hstqs : .stqs ∈ l) (hred : .red ∈ l) (hues : .ues ∈ l) (hstreams : .streams ∈ l) (hqps : .qps ∈ l) (hsb : .sb ∈ l) (hlog : .log ∈ l) (hfix : .fix ∈ l) (hck : .ck ∈ l) (hkpr : .kpr ∈ l) :
    SameBut l s (State.stopEngines t code) ↔ SameBut l s t :=
  iff_of (State.stopEngines_frame t code) (by simp [*]) s

theorem State.fogActions_frame (s : State) (f : Fog) (unit : ℕ) :
    SameBut [.regs, .mem, .ecc, .cores, .apps, .stqs, .red, .ues, .streams, .qps, .rcv, .sb, .log, .job, .fix, .ck, .kpr] s (State.fogActions s f unit) := by
  unfold State.fogActions
  try simp only []
  simp only [↓SameBut.of_self, ↓SameBut.ite_iff, ↓SameBut.forEach_iff, ↓SameBut.foldl_iff, ↓SameBut.foldl_fst_iff, ↓SameBut.fst_ite_iff, ↓SameBut.snd_ite_iff, ↓SameBut.mid_ite_iff, ↓SameBut.with_apps, ↓SameBut.with_apps_stqs_red_ues_streams_job_fix_ck, ↓SameBut.with_ck, ↓SameBut.with_cores, ↓SameBut.with_cores_red_ues_fix, ↓SameBut.with_ecc, ↓SameBut.with_fix, ↓SameBut.with_free, ↓SameBut.with_job, ↓SameBut.with_kpr, ↓SameBut.with_log, ↓SameBut.with_mem, ↓SameBut.with_mem_ecc, ↓SameBut.with_out, ↓SameBut.with_qps, ↓SameBut.with_rcv, ↓SameBut.with_rcv_kpr, ↓SameBut.with_rcv_log, ↓SameBut.with_red, ↓SameBut.with_red_ues, ↓SameBut.with_regs, ↓SameBut.with_sb, ↓SameBut.with_sb_job, ↓SameBut.with_stqs, ↓SameBut.with_streams, ↓SameBut.with_streams_qps, ↓SameBut.with_ues, ↓SameBut.bump, ↓SameBut.notice, ↓SameBut.stopCores, ↓SameBut.stopEngines, ↓SameBut.wr, List.mem_cons, true_or, or_true, reduceCtorEq, or_false, false_or, ite_self, implies_true, and_self]

@[simp] theorem SameBut.fogActions {l : List Part} {s t : State} (f : Fog) (unit : ℕ) (hregs : .regs ∈ l) (hmem : .mem ∈ l) (hecc : .ecc ∈ l) (hcores : .cores ∈ l) (happs : .apps ∈ l) (hstqs : .stqs ∈ l) (hred : .red ∈ l) (hues : .ues ∈ l) (hstreams : .streams ∈ l) (hqps : .qps ∈ l) (hrcv : .rcv ∈ l) (hsb : .sb ∈ l) (hlog : .log ∈ l) (hjob : .job ∈ l) (hfix : .fix ∈ l) (hck : .ck ∈ l) (hkpr : .kpr ∈ l) :
    SameBut l s (State.fogActions t f unit) ↔ SameBut l s t :=
  iff_of (State.fogActions_frame t f unit) (by simp [*]) s

theorem State.noteFog_frame (s : State) (f : Fog) :
    SameBut [.regs] s (State.noteFog s f) := by
  simp [State.noteFog]

@[simp] theorem SameBut.noteFog {l : List Part} {s t : State} (f : Fog) (hregs : .regs ∈ l) :
    SameBut l s (State.noteFog t f) ↔ SameBut l s t :=
  iff_of (State.noteFog_frame t f) (by simp [*]) s

theorem State.logFault_frame (s : State) (code : ℕ) (cls : ℕ) (u : ℕ) (suspect : ℕ) (port : ℕ) (d0 : ℕ) (d1 : ℕ) (d2 : ℕ) (d3 : ℕ) :
    SameBut [.regs, .mem, .ecc, .cores, .apps, .stqs, .red, .ues, .streams, .qps, .rcv, .sb, .log, .job, .fix, .ck, .kpr] s (State.logFault s code cls u suspect port d0 d1 d2 d3) := by
  unfold State.logFault
  try simp only []
  simp only [↓SameBut.of_self, ↓SameBut.ite_iff, ↓SameBut.forEach_iff, ↓SameBut.foldl_iff, ↓SameBut.foldl_fst_iff, ↓SameBut.fst_ite_iff, ↓SameBut.snd_ite_iff, ↓SameBut.mid_ite_iff, ↓SameBut.with_apps, ↓SameBut.with_apps_stqs_red_ues_streams_job_fix_ck, ↓SameBut.with_ck, ↓SameBut.with_cores, ↓SameBut.with_cores_red_ues_fix, ↓SameBut.with_ecc, ↓SameBut.with_fix, ↓SameBut.with_free, ↓SameBut.with_job, ↓SameBut.with_kpr, ↓SameBut.with_log, ↓SameBut.with_mem, ↓SameBut.with_mem_ecc, ↓SameBut.with_out, ↓SameBut.with_qps, ↓SameBut.with_rcv, ↓SameBut.with_rcv_kpr, ↓SameBut.with_rcv_log, ↓SameBut.with_red, ↓SameBut.with_red_ues, ↓SameBut.with_regs, ↓SameBut.with_sb, ↓SameBut.with_sb_job, ↓SameBut.with_stqs, ↓SameBut.with_streams, ↓SameBut.with_streams_qps, ↓SameBut.with_ues, ↓SameBut.flood, ↓SameBut.fogActions, ↓SameBut.noteFog, ↓SameBut.pushEntry, List.mem_cons, true_or, or_true, reduceCtorEq, or_false, false_or, ite_self, implies_true, and_self]

@[simp] theorem SameBut.logFault {l : List Part} {s t : State} (code : ℕ) (cls : ℕ) (u : ℕ) (suspect : ℕ) (port : ℕ) (d0 : ℕ) (d1 : ℕ) (d2 : ℕ) (d3 : ℕ) (hregs : .regs ∈ l) (hmem : .mem ∈ l) (hecc : .ecc ∈ l) (hcores : .cores ∈ l) (happs : .apps ∈ l) (hstqs : .stqs ∈ l) (hred : .red ∈ l) (hues : .ues ∈ l) (hstreams : .streams ∈ l) (hqps : .qps ∈ l) (hrcv : .rcv ∈ l) (hsb : .sb ∈ l) (hlog : .log ∈ l) (hjob : .job ∈ l) (hfix : .fix ∈ l) (hck : .ck ∈ l) (hkpr : .kpr ∈ l) :
    SameBut l s (State.logFault t code cls u suspect port d0 d1 d2 d3) ↔ SameBut l s t :=
  iff_of (State.logFault_frame t code cls u suspect port d0 d1 d2 d3) (by simp [*]) s

theorem State.logHalt_frame (s : State) (code : ℕ) (u : ℕ) (d0 : ℕ) (d1 : ℕ) (d2 : ℕ) (d3 : ℕ) :
    SameBut [.regs, .mem, .ecc, .cores, .apps, .stqs, .red, .ues, .streams, .qps, .rcv, .sb, .log, .job, .fix, .ck, .kpr] s (State.logHalt s code u d0 d1 d2 d3) := by
  unfold State.logHalt
  try simp only []
  simp only [↓SameBut.of_self, ↓SameBut.ite_iff, ↓SameBut.forEach_iff, ↓SameBut.foldl_iff, ↓SameBut.foldl_fst_iff, ↓SameBut.fst_ite_iff, ↓SameBut.snd_ite_iff, ↓SameBut.mid_ite_iff, ↓SameBut.with_apps, ↓SameBut.with_apps_stqs_red_ues_streams_job_fix_ck, ↓SameBut.with_ck, ↓SameBut.with_cores, ↓SameBut.with_cores_red_ues_fix, ↓SameBut.with_ecc, ↓SameBut.with_fix, ↓SameBut.with_free, ↓SameBut.with_job, ↓SameBut.with_kpr, ↓SameBut.with_log, ↓SameBut.with_mem, ↓SameBut.with_mem_ecc, ↓SameBut.with_out, ↓SameBut.with_qps, ↓SameBut.with_rcv, ↓SameBut.with_rcv_kpr, ↓SameBut.with_rcv_log, ↓SameBut.with_red, ↓SameBut.with_red_ues, ↓SameBut.with_regs, ↓SameBut.with_sb, ↓SameBut.with_sb_job, ↓SameBut.with_stqs, ↓SameBut.with_streams, ↓SameBut.with_streams_qps, ↓SameBut.with_ues, ↓SameBut.logFault, List.mem_cons, true_or, or_true, reduceCtorEq, or_false, false_or, ite_self, implies_true, and_self]

@[simp] theorem SameBut.logHalt {l : List Part} {s t : State} (code : ℕ) (u : ℕ) (d0 : ℕ) (d1 : ℕ) (d2 : ℕ) (d3 : ℕ) (hregs : .regs ∈ l) (hmem : .mem ∈ l) (hecc : .ecc ∈ l) (hcores : .cores ∈ l) (happs : .apps ∈ l) (hstqs : .stqs ∈ l) (hred : .red ∈ l) (hues : .ues ∈ l) (hstreams : .streams ∈ l) (hqps : .qps ∈ l) (hrcv : .rcv ∈ l) (hsb : .sb ∈ l) (hlog : .log ∈ l) (hjob : .job ∈ l) (hfix : .fix ∈ l) (hck : .ck ∈ l) (hkpr : .kpr ∈ l) :
    SameBut l s (State.logHalt t code u d0 d1 d2 d3) ↔ SameBut l s t :=
  iff_of (State.logHalt_frame t code u d0 d1 d2 d3) (by simp [*]) s

theorem State.haltCore_frame (s : State) (die : ℕ) (core : ℕ) (code : ℕ) (via : Bool) (tag : ℕ) (d0 : ℕ) (d1 : ℕ) (d2 : ℕ) (d3 : ℕ) :
    SameBut [.regs, .mem, .ecc, .cores, .apps, .stqs, .red, .ues, .streams, .qps, .rcv, .sb, .log, .job, .fix, .ck, .kpr] s (State.haltCore s die core code via tag d0 d1 d2 d3) := by
  unfold State.haltCore
  try simp only []
  simp only [↓SameBut.of_self, ↓SameBut.ite_iff, ↓SameBut.forEach_iff, ↓SameBut.foldl_iff, ↓SameBut.foldl_fst_iff, ↓SameBut.fst_ite_iff, ↓SameBut.snd_ite_iff, ↓SameBut.mid_ite_iff, ↓SameBut.with_apps, ↓SameBut.with_apps_stqs_red_ues_streams_job_fix_ck, ↓SameBut.with_ck, ↓SameBut.with_cores, ↓SameBut.with_cores_red_ues_fix, ↓SameBut.with_ecc, ↓SameBut.with_fix, ↓SameBut.with_free, ↓SameBut.with_job, ↓SameBut.with_kpr, ↓SameBut.with_log, ↓SameBut.with_mem, ↓SameBut.with_mem_ecc, ↓SameBut.with_out, ↓SameBut.with_qps, ↓SameBut.with_rcv, ↓SameBut.with_rcv_kpr, ↓SameBut.with_rcv_log, ↓SameBut.with_red, ↓SameBut.with_red_ues, ↓SameBut.with_regs, ↓SameBut.with_sb, ↓SameBut.with_sb_job, ↓SameBut.with_stqs, ↓SameBut.with_streams, ↓SameBut.with_streams_qps, ↓SameBut.with_ues, ↓SameBut.coreDown, ↓SameBut.logHalt, List.mem_cons, true_or, or_true, reduceCtorEq, or_false, false_or, ite_self, implies_true, and_self]

@[simp] theorem SameBut.haltCore {l : List Part} {s t : State} (die : ℕ) (core : ℕ) (code : ℕ) (via : Bool) (tag : ℕ) (d0 : ℕ) (d1 : ℕ) (d2 : ℕ) (d3 : ℕ) (hregs : .regs ∈ l) (hmem : .mem ∈ l) (hecc : .ecc ∈ l) (hcores : .cores ∈ l) (happs : .apps ∈ l) (hstqs : .stqs ∈ l) (hred : .red ∈ l) (hues : .ues ∈ l) (hstreams : .streams ∈ l) (hqps : .qps ∈ l) (hrcv : .rcv ∈ l) (hsb : .sb ∈ l) (hlog : .log ∈ l) (hjob : .job ∈ l) (hfix : .fix ∈ l) (hck : .ck ∈ l) (hkpr : .kpr ∈ l) :
    SameBut l s (State.haltCore t die core code via tag d0 d1 d2 d3) ↔ SameBut l s t :=
  iff_of (State.haltCore_frame t die core code via tag d0 d1 d2 d3) (by simp [*]) s

theorem State.haltCoreAt_frame (s : State) (die : ℕ) (core : ℕ) (code : ℕ) :
    SameBut [.regs, .mem, .ecc, .cores, .apps, .stqs, .red, .ues, .streams, .qps, .rcv, .sb, .log, .job, .fix, .ck, .kpr] s (State.haltCoreAt s die core code) := by
  unfold State.haltCoreAt
  try simp only []
  simp only [↓SameBut.of_self, ↓SameBut.ite_iff, ↓SameBut.forEach_iff, ↓SameBut.foldl_iff, ↓SameBut.foldl_fst_iff, ↓SameBut.fst_ite_iff, ↓SameBut.snd_ite_iff, ↓SameBut.mid_ite_iff, ↓SameBut.with_apps, ↓SameBut.with_apps_stqs_red_ues_streams_job_fix_ck, ↓SameBut.with_ck, ↓SameBut.with_cores, ↓SameBut.with_cores_red_ues_fix, ↓SameBut.with_ecc, ↓SameBut.with_fix, ↓SameBut.with_free, ↓SameBut.with_job, ↓SameBut.with_kpr, ↓SameBut.with_log, ↓SameBut.with_mem, ↓SameBut.with_mem_ecc, ↓SameBut.with_out, ↓SameBut.with_qps, ↓SameBut.with_rcv, ↓SameBut.with_rcv_kpr, ↓SameBut.with_rcv_log, ↓SameBut.with_red, ↓SameBut.with_red_ues, ↓SameBut.with_regs, ↓SameBut.with_sb, ↓SameBut.with_sb_job, ↓SameBut.with_stqs, ↓SameBut.with_streams, ↓SameBut.with_streams_qps, ↓SameBut.with_ues, ↓SameBut.haltCore, List.mem_cons, true_or, or_true, reduceCtorEq, or_false, false_or, ite_self, implies_true, and_self]

@[simp] theorem SameBut.haltCoreAt {l : List Part} {s t : State} (die : ℕ) (core : ℕ) (code : ℕ) (hregs : .regs ∈ l) (hmem : .mem ∈ l) (hecc : .ecc ∈ l) (hcores : .cores ∈ l) (happs : .apps ∈ l) (hstqs : .stqs ∈ l) (hred : .red ∈ l) (hues : .ues ∈ l) (hstreams : .streams ∈ l) (hqps : .qps ∈ l) (hrcv : .rcv ∈ l) (hsb : .sb ∈ l) (hlog : .log ∈ l) (hjob : .job ∈ l) (hfix : .fix ∈ l) (hck : .ck ∈ l) (hkpr : .kpr ∈ l) :
    SameBut l s (State.haltCoreAt t die core code) ↔ SameBut l s t :=
  iff_of (State.haltCoreAt_frame t die core code) (by simp [*]) s

end Sys2Proof.Machine
end

