-- ==== Sys2Proof/Laws/Ring.lean ====
section
/-!
SUPPORT. Laws of the operations of Machine/Ring.lean: the parts of the state that each may change.
-/
set_option linter.unusedSimpArgs false
set_option linter.unusedTactic false
set_option linter.unreachableTactic false
namespace Sys2Proof.Machine

theorem State.redMismatch_frame (s : State) (u : ℕ) (layer : ℕ) (elem : ℕ) (ring : ℕ) (tree : ℕ) (hops : Bool) :
    SameBut [.regs, .sb, .log, .fix] s (State.redMismatch s u layer elem ring tree hops) := by
  simp [State.redMismatch]

@[simp] theorem SameBut.redMismatch {l : List Part} {s t : State} (u : ℕ) (layer : ℕ) (elem : ℕ) (ring : ℕ) (tree : ℕ) (hops : Bool) (hregs : .regs ∈ l) (hsb : .sb ∈ l) (hlog : .log ∈ l) (hfix : .fix ∈ l) :
    SameBut l s (State.redMismatch t u layer elem ring tree hops) ↔ SameBut l s t :=
  iff_of (State.redMismatch_frame t u layer elem ring tree hops) (by simp [*]) s

theorem State.redStat_frame (s : State) :
    SameBut [.regs] s (State.redStat s) := by
  simp [State.redStat]

@[simp] theorem SameBut.redStat {l : List Part} {s t : State}  (hregs : .regs ∈ l) :
    SameBut l s (State.redStat t) ↔ SameBut l s t :=
  iff_of (State.redStat_frame t) (by simp [*]) s

theorem State.redWord_frame (s : State) (e : RedEnt) (p : ℕ) (layer : ℕ) (r : ℕ) :
    SameBut [.regs, .red, .sb, .log, .fix] s (State.redWord s e p layer r) := by
  simp [State.redWord]

@[simp] theorem SameBut.redWord {l : List Part} {s t : State} (e : RedEnt) (p : ℕ) (layer : ℕ) (r : ℕ) (hregs : .regs ∈ l) (hred : .red ∈ l) (hsb : .sb ∈ l) (hlog : .log ∈ l) (hfix : .fix ∈ l) :
    SameBut l s (State.redWord t e p layer r) ↔ SameBut l s t :=
  iff_of (State.redWord_frame t e p layer r) (by simp [*]) s

theorem State.redWords_frame (s : State) (layer : ℕ) :
    SameBut [.regs, .red, .sb, .log, .fix] s (State.redWords s layer) := by
  unfold State.redWords
  try simp only []
  (repeat' split) <;> simp

@[simp] theorem SameBut.redWords {l : List Part} {s t : State} (layer : ℕ) (hregs : .regs ∈ l) (hred : .red ∈ l) (hsb : .sb ∈ l) (hlog : .log ∈ l) (hfix : .fix ∈ l) :
    SameBut l s (State.redWords t layer) ↔ SameBut l s t :=
  iff_of (State.redWords_frame t layer) (by simp [*]) s

end Sys2Proof.Machine
end

