-- ==== Sys2Proof/Laws/Doors.lean ====
section
/-!
SUPPORT. Laws of the operations of Machine/Doors.lean: the parts of the state that each may change.
-/
set_option linter.unusedSimpArgs false
set_option linter.unusedTactic false
set_option linter.unreachableTactic false
namespace Sys2Proof.Machine

theorem State.rdReady_frame (s : State) (layer : ℕ) (step : ℕ) :
    SameBut [.regs, .red, .sb, .log, .fix] s (State.rdReady s layer step) := by
  unfold State.rdReady
  try simp only []
  (repeat' split) <;> simp

@[simp] theorem SameBut.rdReady {l : List Part} {s t : State} (layer : ℕ) (step : ℕ) (hregs : .regs ∈ l) (hred : .red ∈ l) (hsb : .sb ∈ l) (hlog : .log ∈ l) (hfix : .fix ∈ l) :
    SameBut l s (State.rdReady t layer step) ↔ SameBut l s t :=
  iff_of (State.rdReady_frame t layer step) (by simp [*]) s

theorem State.stqPost_frame (s : State) (ep : ℕ) (q : ℕ) (src : ℕ) (bs : List Byte) :
    SameBut [.stqs] s (State.stqPost s ep q src bs).1 := by
  unfold State.stqPost
  try simp only []
  (repeat' split) <;> simp

@[simp] theorem SameBut.stqPost {l : List Part} {s t : State} (ep : ℕ) (q : ℕ) (src : ℕ) (bs : List Byte) (hstqs : .stqs ∈ l) :
    SameBut l s (State.stqPost t ep q src bs).1 ↔ SameBut l s t :=
  iff_of (State.stqPost_frame t ep q src bs) (by simp [*]) s

theorem State.stqRel_frame (s : State) (ep : ℕ) (q : ℕ) (count : ℕ) :
    SameBut [.regs, .stqs, .sb, .log] s (State.stqRel s ep q count) := by
  simp [State.stqRel]

@[simp] theorem SameBut.stqRel {l : List Part} {s t : State} (ep : ℕ) (q : ℕ) (count : ℕ) (hregs : .regs ∈ l) (hstqs : .stqs ∈ l) (hsb : .sb ∈ l) (hlog : .log ∈ l) :
    SameBut l s (State.stqRel t ep q count) ↔ SameBut l s t :=
  iff_of (State.stqRel_frame t ep q count) (by simp [*]) s

theorem State.strArrRead_frame (s : State) (slot : ℕ) :
    SameBut [.regs, .arrivals] s (State.strArrRead s slot).1 := by
  unfold State.strArrRead
  try simp only []
  (repeat' split) <;> simp

@[simp] theorem SameBut.strArrRead {l : List Part} {s t : State} (slot : ℕ) (hregs : .regs ∈ l) (harrivals : .arrivals ∈ l) :
    SameBut l s (State.strArrRead t slot).1 ↔ SameBut l s t :=
  iff_of (State.strArrRead_frame t slot) (by simp [*]) s

theorem State.strAuprod_frame (s : State) (slot : ℕ) (count : ℕ) :
    SameBut [.regs, .sb, .log] s (State.strAuprod s slot count) := by
  simp [State.strAuprod]

@[simp] theorem SameBut.strAuprod {l : List Part} {s t : State} (slot : ℕ) (count : ℕ) (hregs : .regs ∈ l) (hsb : .sb ∈ l) (hlog : .log ∈ l) :
    SameBut l s (State.strAuprod t slot count) ↔ SameBut l s t :=
  iff_of (State.strAuprod_frame t slot count) (by simp [*]) s

end Sys2Proof.Machine
end

