-- ==== Sys2Proof/Laws/Drain.lean ====
section
/-!
SUPPORT. Laws of the operations of Machine/Drain.lean: the parts of the state that each may change.
-/
set_option linter.unusedSimpArgs false
set_option linter.unusedTactic false
set_option linter.unreachableTactic false
namespace Sys2Proof.Machine

theorem State.drainEvents_frame (s : State) (die : ℕ) (core : ℕ) (layer : ℕ) (ev : Events) :
    SameBut [.regs, .mem, .ecc, .sb, .log, .fix] s (State.drainEvents s die core layer ev) := by
  simp [State.drainEvents]

@[simp] theorem SameBut.drainEvents {l : List Part} {s t : State} (die : ℕ) (core : ℕ) (layer : ℕ) (ev : Events) (hregs : .regs ∈ l) (hmem : .mem ∈ l) (hecc : .ecc ∈ l) (hsb : .sb ∈ l) (hlog : .log ∈ l) (hfix : .fix ∈ l) :
    SameBut l s (State.drainEvents t die core layer ev) ↔ SameBut l s t :=
  iff_of (State.drainEvents_frame t die core layer ev) (by simp [*]) s

theorem State.drainStat_frame (s : State) (die : ℕ) (core : ℕ) :
    SameBut [.regs] s (State.drainStat s die core) := by
  simp [State.drainStat]

@[simp] theorem SameBut.drainStat {l : List Part} {s t : State} (die : ℕ) (core : ℕ) (hregs : .regs ∈ l) :
    SameBut l s (State.drainStat t die core) ↔ SameBut l s t :=
  iff_of (State.drainStat_frame t die core) (by simp [*]) s

theorem State.drainTile_frame (s : State) (die : ℕ) (core : ℕ) (o : DrainOp) :
    SameBut [.regs, .mem, .ecc, .cores, .sb, .log, .fix] s (State.drainTile s die core o).1 := by
  unfold State.drainTile
  try simp only []
  (repeat' split) <;> simp

@[simp] theorem SameBut.drainTile {l : List Part} {s t : State} (die : ℕ) (core : ℕ) (o : DrainOp) (hregs : .regs ∈ l) (hmem : .mem ∈ l) (hecc : .ecc ∈ l) (hcores : .cores ∈ l) (hsb : .sb ∈ l) (hlog : .log ∈ l) (hfix : .fix ∈ l) :
    SameBut l s (State.drainTile t die core o).1 ↔ SameBut l s t :=
  iff_of (State.drainTile_frame t die core o) (by simp [*]) s

theorem State.openGroups_frame (s : State) (die : ℕ) (core : ℕ) (x : ℕ) :
    SameBut [.regs, .mem, .ecc, .cores, .sb, .log, .fix] s (State.openGroups s die core x) := by
  unfold State.openGroups
  repeat' first
    | (simp only [↓SameBut.of_self, ↓SameBut.ite_iff, ↓SameBut.forEach_iff, ↓SameBut.foldl_iff, ↓SameBut.foldl_fst_iff, ↓SameBut.fst_ite_iff, ↓SameBut.snd_ite_iff, ↓SameBut.mid_ite_iff, ↓SameBut.with_cores, ↓SameBut.with_ecc, ↓SameBut.with_fix, ↓SameBut.with_free, ↓SameBut.with_log, ↓SameBut.with_mem, ↓SameBut.with_mem_ecc, ↓SameBut.with_out, ↓SameBut.with_regs, ↓SameBut.with_sb, ↓SameBut.drainEvents, ↓SameBut.setCore, List.mem_cons, true_or, or_true, reduceCtorEq, or_false, false_or, ite_self, implies_true, and_self]; done)
    | refine (SameBut.forEach_iff _ _ (fun _ _ => ?_)).2 ?_
    | refine (SameBut.foldl_iff _ _ (fun _ _ => ?_)).2 ?_
    | refine (SameBut.foldl_fst_iff _ _ (fun _ _ => ?_)).2 ?_
    | simp only [↓SameBut.of_self, ↓SameBut.ite_iff, ↓SameBut.forEach_iff, ↓SameBut.foldl_iff, ↓SameBut.foldl_fst_iff, ↓SameBut.fst_ite_iff, ↓SameBut.snd_ite_iff, ↓SameBut.mid_ite_iff, ↓SameBut.with_cores, ↓SameBut.with_ecc, ↓SameBut.with_fix, ↓SameBut.with_free, ↓SameBut.with_log, ↓SameBut.with_mem, ↓SameBut.with_mem_ecc, ↓SameBut.with_out, ↓SameBut.with_regs, ↓SameBut.with_sb, ↓SameBut.drainEvents, ↓SameBut.setCore, List.mem_cons, true_or, or_true, reduceCtorEq, or_false, false_or, ite_self, implies_true, and_self]
    | (split <;> (rename_i heq; obtain ⟨rfl, rfl⟩ := Prod.ext_iff.1 heq; clear heq)) | (split <;> (rename_i heq; simp only [Prod.ext_iff] at heq; obtain ⟨rfl, rfl, rfl⟩ := heq)) | (split <;> (rename_i heq; simp only [Prod.ext_iff] at heq; obtain ⟨rfl, rfl, rfl, rfl⟩ := heq))
    | (split <;> (rename_i heq; first | (obtain ⟨-, rfl⟩ := Prod.ext_iff.1 heq) | (obtain ⟨rfl, -⟩ := Prod.ext_iff.1 heq) | (simp only [Prod.ext_iff] at heq; obtain ⟨-, rfl, -⟩ := heq) | skip))
    | split
    | (simp [↓SameBut.of_self, ↓SameBut.ite_iff, ↓SameBut.forEach_iff, ↓SameBut.foldl_iff, ↓SameBut.foldl_fst_iff, ↓SameBut.fst_ite_iff, ↓SameBut.snd_ite_iff, ↓SameBut.mid_ite_iff, ↓SameBut.with_cores, ↓SameBut.with_ecc, ↓SameBut.with_fix, ↓SameBut.with_free, ↓SameBut.with_log, ↓SameBut.with_mem, ↓SameBut.with_mem_ecc, ↓SameBut.with_out, ↓SameBut.with_regs, ↓SameBut.with_sb, ↓SameBut.drainEvents, ↓SameBut.setCore, List.mem_cons, true_or, or_true, reduceCtorEq, or_false, false_or, ite_self, implies_true, and_self]; done)

@[simp] theorem SameBut.openGroups {l : List Part} {s t : State} (die : ℕ) (core : ℕ) (x : ℕ) (hregs : .regs ∈ l) (hmem : .mem ∈ l) (hecc : .ecc ∈ l) (hcores : .cores ∈ l) (hsb : .sb ∈ l) (hlog : .log ∈ l) (hfix : .fix ∈ l) :
    SameBut l s (State.openGroups t die core x) ↔ SameBut l s t :=
  iff_of (State.openGroups_frame t die core x) (by simp [*]) s

end Sys2Proof.Machine
end

