-- ==== Sys2Proof/Laws/Pins.lean ====
section
/-!
SUPPORT. Laws of the operations of Machine/Pins.lean: the parts of the state that each may change.
-/
set_option linter.unusedSimpArgs false
set_option linter.unusedTactic false
set_option linter.unreachableTactic false
namespace Sys2Proof.Machine

theorem State.dropFault_frame (s : State) (c : ℕ) :
    SameBut [.regs, .sb] s (State.dropFault s c) := by
  simp [State.dropFault]

@[simp] theorem SameBut.dropFault {l : List Part} {s t : State} (c : ℕ) (hregs : .regs ∈ l) (hsb : .sb ∈ l) :
    SameBut l s (State.dropFault t c) ↔ SameBut l s t :=
  iff_of (State.dropFault_frame t c) (by simp [*]) s

theorem State.raiseFault_frame (s : State) (c : ℕ) :
    SameBut [.regs, .sb] s (State.raiseFault s c) := by
  simp [State.raiseFault]

@[simp] theorem SameBut.raiseFault {l : List Part} {s t : State} (c : ℕ) (hregs : .regs ∈ l) (hsb : .sb ∈ l) :
    SameBut l s (State.raiseFault t c) ↔ SameBut l s t :=
  iff_of (State.raiseFault_frame t c) (by simp [*]) s

theorem State.wrHash_frame (s : State) (f : ℕ → Field) (h : List Byte) :
    SameBut [.regs] s (State.wrHash s f h) := by
  simp [State.wrHash]

@[simp] theorem SameBut.wrHash {l : List Part} {s t : State} (f : ℕ → Field) (h : List Byte) (hregs : .regs ∈ l) :
    SameBut l s (State.wrHash t f h) ↔ SameBut l s t :=
  iff_of (State.wrHash_frame t f h) (by simp [*]) s

theorem State.showDkr_frame (s : State) :
    SameBut [.regs] s (State.showDkr s) := by
  simp [State.showDkr]

@[simp] theorem SameBut.showDkr {l : List Part} {s t : State}  (hregs : .regs ∈ l) :
    SameBut l s (State.showDkr t) ↔ SameBut l s t :=
  iff_of (State.showDkr_frame t) (by simp [*]) s

theorem State.wakeCause_frame (s : State) :
    SameBut [.pwr] s (State.wakeCause s) := by
  simp [State.wakeCause]

@[simp] theorem SameBut.wakeCause {l : List Part} {s t : State}  (hpwr : .pwr ∈ l) :
    SameBut l s (State.wakeCause t) ↔ SameBut l s t :=
  iff_of (State.wakeCause_frame t) (by simp [*]) s

end Sys2Proof.Machine
end

