-- ==== Sys2Proof/Laws/Scratch.lean ====
section
/-!
SUPPORT. Laws of the operations of Machine/Scratch.lean: the parts of the state that each may change.
-/
set_option linter.unusedSimpArgs false
set_option linter.unusedTactic false
set_option linter.unreachableTactic false
namespace Sys2Proof.Machine

theorem State.spWrite_frame (s : State) (die : ℕ) (core : ℕ) (off : ℕ) (bs : List Byte) :
    SameBut [.mem, .ecc] s (State.spWrite s die core off bs) := by
  simp [State.spWrite]

@[simp] theorem SameBut.spWrite {l : List Part} {s t : State} (die : ℕ) (core : ℕ) (off : ℕ) (bs : List Byte) (hmem : .mem ∈ l) (hecc : .ecc ∈ l) :
    SameBut l s (State.spWrite t die core off bs) ↔ SameBut l s t :=
  iff_of (State.spWrite_frame t die core off bs) (by simp [*]) s

theorem State.performWrites_frame (s : State) (die : ℕ) (core : ℕ) (l' : List SAcc) :
    SameBut [.mem, .ecc] s (State.performWrites s die core l') := by
  simp [State.performWrites]

@[simp] theorem SameBut.performWrites {l : List Part} {s t : State} (die : ℕ) (core : ℕ) (l' : List SAcc) (hmem : .mem ∈ l) (hecc : .ecc ∈ l) :
    SameBut l s (State.performWrites t die core l') ↔ SameBut l s t :=
  iff_of (State.performWrites_frame t die core l') (by simp [*]) s

theorem State.recordConflict_frame (s : State) (die : ℕ) (core : ℕ) (cyc : ℕ) (l' : List SAcc) (bad : List ℕ) :
    SameBut [.regs] s (State.recordConflict s die core cyc l' bad) := by
  simp [State.recordConflict]

@[simp] theorem SameBut.recordConflict {l : List Part} {s t : State} (die : ℕ) (core : ℕ) (cyc : ℕ) (l' : List SAcc) (bad : List ℕ) (hregs : .regs ∈ l) :
    SameBut l s (State.recordConflict t die core cyc l' bad) ↔ SameBut l s t :=
  iff_of (State.recordConflict_frame t die core cyc l' bad) (by simp [*]) s

theorem State.spCorrected_frame (s : State) (die : ℕ) (core : ℕ) (src : ℕ) (w : ℕ) :
    SameBut [.regs, .sb, .log, .scrubQ] s (State.spCorrected s die core src w) := by
  simp [State.spCorrected]

@[simp] theorem SameBut.spCorrected {l : List Part} {s t : State} (die : ℕ) (core : ℕ) (src : ℕ) (w : ℕ) (hregs : .regs ∈ l) (hsb : .sb ∈ l) (hlog : .log ∈ l) (hscrubQ : .scrubQ ∈ l) :
    SameBut l s (State.spCorrected t die core src w) ↔ SameBut l s t :=
  iff_of (State.spCorrected_frame t die core src w) (by simp [*]) s

theorem State.spFailed_frame (s : State) (die : ℕ) (core : ℕ) (src : ℕ) (w : ℕ) :
    SameBut [.regs, .sb, .log] s (State.spFailed s die core src w) := by
  simp [State.spFailed]

@[simp] theorem SameBut.spFailed {l : List Part} {s t : State} (die : ℕ) (core : ℕ) (src : ℕ) (w : ℕ) (hregs : .regs ∈ l) (hsb : .sb ∈ l) (hlog : .log ∈ l) :
    SameBut l s (State.spFailed t die core src w) ↔ SameBut l s t :=
  iff_of (State.spFailed_frame t die core src w) (by simp [*]) s

theorem State.spRead_frame (s : State) (die : ℕ) (core : ℕ) (off : ℕ) (n : ℕ) (src : ℕ) :
    SameBut [.regs, .sb, .log, .scrubQ] s (State.spRead s die core off n src).2 := by
  simp [State.spRead]

@[simp] theorem SameBut.spRead {l : List Part} {s t : State} (die : ℕ) (core : ℕ) (off : ℕ) (n : ℕ) (src : ℕ) (hregs : .regs ∈ l) (hsb : .sb ∈ l) (hlog : .log ∈ l) (hscrubQ : .scrubQ ∈ l) :
    SameBut l s (State.spRead t die core off n src).2 ↔ SameBut l s t :=
  iff_of (State.spRead_frame t die core off n src) (by simp [*]) s

end Sys2Proof.Machine
end

