-- ==== Sys2Proof/Laws/Network.lean ====
section
/-!
SUPPORT. Laws of the operations of Machine/Network.lean: the parts of the state that each may change.
-/
set_option linter.unusedSimpArgs false
set_option linter.unusedTactic false
set_option linter.unreachableTactic false
namespace Sys2Proof.Machine

theorem State.netFlips_frame (s : State) (die : ℕ) :
    SameBut [.net] s (State.netFlips s die).2 := by
  simp [State.netFlips]

@[simp] theorem SameBut.netFlips {l : List Part} {s t : State} (die : ℕ) (hnet : .net ∈ l) :
    SameBut l s (State.netFlips t die).2 ↔ SameBut l s t :=
  iff_of (State.netFlips_frame t die) (by simp [*]) s

theorem State.stackUp_frame (s : State) (die : ℕ) :
    SameBut [.regs, .pwr] s (State.stackUp s die) := by
  simp [State.stackUp]

@[simp] theorem SameBut.stackUp {l : List Part} {s t : State} (die : ℕ) (hregs : .regs ∈ l) (hpwr : .pwr ∈ l) :
    SameBut l s (State.stackUp t die) ↔ SameBut l s t :=
  iff_of (State.stackUp_frame t die) (by simp [*]) s

theorem State.dramFailed_frame (s : State) (die : ℕ) (src : ℕ) (w : ℕ) :
    SameBut [.regs, .sb, .log] s (State.dramFailed s die src w) := by
  simp [State.dramFailed]

@[simp] theorem SameBut.dramFailed {l : List Part} {s t : State} (die : ℕ) (src : ℕ) (w : ℕ) (hregs : .regs ∈ l) (hsb : .sb ∈ l) (hlog : .log ∈ l) :
    SameBut l s (State.dramFailed t die src w) ↔ SameBut l s t :=
  iff_of (State.dramFailed_frame t die src w) (by simp [*]) s

theorem State.dramCorrected_frame (s : State) (die : ℕ) (src : ℕ) (w : ℕ) :
    SameBut [.regs, .ecc, .sb, .log] s (State.dramCorrected s die src w) := by
  unfold State.dramCorrected
  try simp only []
  simp only [↓SameBut.of_self, ↓SameBut.ite_iff, ↓SameBut.forEach_iff, ↓SameBut.foldl_iff, ↓SameBut.foldl_fst_iff, ↓SameBut.fst_ite_iff, ↓SameBut.snd_ite_iff, ↓SameBut.mid_ite_iff, ↓SameBut.with_ecc, ↓SameBut.with_free, ↓SameBut.with_log, ↓SameBut.with_out, ↓SameBut.with_regs, ↓SameBut.with_sb, ↓SameBut.bump, ↓SameBut.logEvent, ↓SameBut.wr, List.mem_cons, true_or, or_true, reduceCtorEq, or_false, false_or, ite_self, implies_true, and_self]

@[simp] theorem SameBut.dramCorrected {l : List Part} {s t : State} (die : ℕ) (src : ℕ) (w : ℕ) (hregs : .regs ∈ l) (hecc : .ecc ∈ l) (hsb : .sb ∈ l) (hlog : .log ∈ l) :
    SameBut l s (State.dramCorrected t die src w) ↔ SameBut l s t :=
  iff_of (State.dramCorrected_frame t die src w) (by simp [*]) s

theorem State.dramWrite_frame (s : State) (die : ℕ) (off : ℕ) (src : ℕ) (bs : List Byte) :
    SameBut [.regs, .mem, .ecc, .sb, .log] s (State.dramWrite s die off src bs).1 := by
  unfold State.dramWrite
  repeat' first
    | (simp only [↓SameBut.of_self, ↓SameBut.ite_iff, ↓SameBut.forEach_iff, ↓SameBut.foldl_iff, ↓SameBut.foldl_fst_iff, ↓SameBut.fst_ite_iff, ↓SameBut.snd_ite_iff, ↓SameBut.mid_ite_iff, ↓SameBut.with_ecc, ↓SameBut.with_free, ↓SameBut.with_log, ↓SameBut.with_mem, ↓SameBut.with_mem_ecc, ↓SameBut.with_out, ↓SameBut.with_regs, ↓SameBut.with_sb, ↓SameBut.dramCorrected, ↓SameBut.dramFailed, ↓SameBut.putBytes, List.mem_cons, true_or, or_true, reduceCtorEq, or_false, false_or, ite_self, implies_true, and_self]; done)
    | refine (SameBut.forEach_iff _ _ (fun _ _ => ?_)).2 ?_
    | refine (SameBut.foldl_iff _ _ (fun _ _ => ?_)).2 ?_
    | refine (SameBut.foldl_fst_iff _ _ (fun _ _ => ?_)).2 ?_
    | simp only [↓SameBut.of_self, ↓SameBut.ite_iff, ↓SameBut.forEach_iff, ↓SameBut.foldl_iff, ↓SameBut.foldl_fst_iff, ↓SameBut.fst_ite_iff, ↓SameBut.snd_ite_iff, ↓SameBut.mid_ite_iff, ↓SameBut.with_ecc, ↓SameBut.with_free, ↓SameBut.with_log, ↓SameBut.with_mem, ↓SameBut.with_mem_ecc, ↓SameBut.with_out, ↓SameBut.with_regs, ↓SameBut.with_sb, ↓SameBut.dramCorrected, ↓SameBut.dramFailed, ↓SameBut.putBytes, List.mem_cons, true_or, or_true, reduceCtorEq, or_false, false_or, ite_self, implies_true, and_self]
    | (split <;> (rename_i heq; obtain ⟨rfl, rfl⟩ := Prod.ext_iff.1 heq; clear heq)) | (split <;> (rename_i heq; simp only [Prod.ext_iff] at heq; obtain ⟨rfl, rfl, rfl⟩ := heq)) | (split <;> (rename_i heq; simp only [Prod.ext_iff] at heq; obtain ⟨rfl, rfl, rfl, rfl⟩ := heq))
    | (split <;> (rename_i heq; first | (obtain ⟨-, rfl⟩ := Prod.ext_iff.1 heq) | (obtain ⟨rfl, -⟩ := Prod.ext_iff.1 heq) | (simp only [Prod.ext_iff] at heq; obtain ⟨-, rfl, -⟩ := heq) | skip))
    | split
    | (simp [↓SameBut.of_self, ↓SameBut.ite_iff, ↓SameBut.forEach_iff, ↓SameBut.foldl_iff, ↓SameBut.foldl_fst_iff, ↓SameBut.fst_ite_iff, ↓SameBut.snd_ite_iff, ↓SameBut.mid_ite_iff, ↓SameBut.with_ecc, ↓SameBut.with_free, ↓SameBut.with_log, ↓SameBut.with_mem, ↓SameBut.with_mem_ecc, ↓SameBut.with_out, ↓SameBut.with_regs, ↓SameBut.with_sb, ↓SameBut.dramCorrected, ↓SameBut.dramFailed, ↓SameBut.putBytes, List.mem_cons, true_or, or_true, reduceCtorEq, or_false, false_or, ite_self, implies_true, and_self]; done)

@[simp] theorem SameBut.dramWrite {l : List Part} {s t : State} (die : ℕ) (off : ℕ) (src : ℕ) (bs : List Byte) (hregs : .regs ∈ l) (hmem : .mem ∈ l) (hecc : .ecc ∈ l) (hsb : .sb ∈ l) (hlog : .log ∈ l) :
    SameBut l s (State.dramWrite t die off src bs).1 ↔ SameBut l s t :=
  iff_of (State.dramWrite_frame t die off src bs) (by simp [*]) s

theorem State.noSuch_frame (s : State) (u : ℕ) (off : ℕ) :
    SameBut [.regs, .sb, .log] s (State.noSuch s u off).1 := by
  simp [State.noSuch]

@[simp] theorem SameBut.noSuch {l : List Part} {s t : State} (u : ℕ) (off : ℕ) (hregs : .regs ∈ l) (hsb : .sb ∈ l) (hlog : .log ∈ l) :
    SameBut l s (State.noSuch t u off).1 ↔ SameBut l s t :=
  iff_of (State.noSuch_frame t u off) (by simp [*]) s

theorem State.dramRead_frame (s : State) (die : ℕ) (off : ℕ) (n : ℕ) (src : ℕ) :
    SameBut [.regs, .ecc, .sb, .log] s (State.dramRead s die off n src).1 := by
  unfold State.dramRead
  try simp only []
  simp only [↓SameBut.of_self, ↓SameBut.ite_iff, ↓SameBut.forEach_iff, ↓SameBut.foldl_iff, ↓SameBut.foldl_fst_iff, ↓SameBut.fst_ite_iff, ↓SameBut.snd_ite_iff, ↓SameBut.mid_ite_iff, ↓SameBut.with_ecc, ↓SameBut.with_free, ↓SameBut.with_log, ↓SameBut.with_out, ↓SameBut.with_regs, ↓SameBut.with_sb, ↓SameBut.dramCorrected, ↓SameBut.dramFailed, List.mem_cons, true_or, or_true, reduceCtorEq, or_false, false_or, ite_self, implies_true, and_self]

@[simp] theorem SameBut.dramRead {l : List Part} {s t : State} (die : ℕ) (off : ℕ) (n : ℕ) (src : ℕ) (hregs : .regs ∈ l) (hecc : .ecc ∈ l) (hsb : .sb ∈ l) (hlog : .log ∈ l) :
    SameBut l s (State.dramRead t die off n src).1 ↔ SameBut l s t :=
  iff_of (State.dramRead_frame t die off n src) (by simp [*]) s

theorem State.afterWrite_frame (s : State) (u : ℕ) (off : ℕ) :
    SameBut [.regs, .ports] s (State.afterWrite s u off) := by
  simp [State.afterWrite]

@[simp] theorem SameBut.afterWrite {l : List Part} {s t : State} (u : ℕ) (off : ℕ) (hregs : .regs ∈ l) (hports : .ports ∈ l) :
    SameBut l s (State.afterWrite t u off) ↔ SameBut l s t :=
  iff_of (State.afterWrite_frame t u off) (by simp [*]) s

/-- What the operation that a write of one word starts may change. -/
theorem State.wordDoor_frame (s : State) (src u o v m : ℕ) : ∀ r, s.wordDoor src u o v m = some r →
    SameBut [.regs, .mem, .ecc, .cores, .ports, .apps, .stqs, .sb, .log] s r.1 := by
  have pick : ∀ {c : Prop} [Decidable c] {x y : Option (State × Ans)} {P : State × Ans → Prop},
      (∀ r, x = some r → P r) → (∀ r, y = some r → P r) → ∀ r, (if c then x else y) = some r → P r := by
    intro c _ x y P hx hy
    split <;> assumption
  have one : ∀ {x : State × Ans} {P : State × Ans → Prop}, P x → ∀ r, some x = some r → P r := by
    intro x P h r hr
    cases hr
    exact h
  unfold State.wordDoor
  simp only []
  refine pick (one (by simp)) (pick (one ?_) (pick (one (by simp)) (pick (one (by simp)) (pick (one (by simp))
    (pick (one (by simp)) (pick (one (by simp)) (pick (pick (one (by simp)) (one (by simp))) (pick (one ?_)
      (fun _ h => by cases h)))))))))
  · split <;> simp
  · simp only []
    split <;> simp

theorem State.writeWord_frame (s : State) (src : ℕ) (u : ℕ) (o : ℕ) (v : ℕ) (m : ℕ) :
    SameBut [.regs, .mem, .ecc, .cores, .ports, .apps, .stqs, .sb, .log] s (State.writeWord s src u o v m).1 := by
  unfold State.writeWord
  split
  · rename_i heq
    exact State.wordDoor_frame s src u o v m _ heq
  · simp

@[simp] theorem SameBut.writeWord {l : List Part} {s t : State} (src : ℕ) (u : ℕ) (o : ℕ) (v : ℕ) (m : ℕ) (hregs : .regs ∈ l) (hmem : .mem ∈ l) (hecc : .ecc ∈ l) (hcores : .cores ∈ l) (hports : .ports ∈ l) (happs : .apps ∈ l) (hstqs : .stqs ∈ l) (hsb : .sb ∈ l) (hlog : .log ∈ l) :
    SameBut l s (State.writeWord t src u o v m).1 ↔ SameBut l s t :=
  iff_of (State.writeWord_frame t src u o v m) (by simp [*]) s

theorem State.writeRegs_frame (s : State) (src : ℕ) (u : ℕ) (off : ℕ) (bs : List Byte) :
    SameBut [.regs, .mem, .ecc, .cores, .ports, .apps, .stqs, .sb, .log] s (State.writeRegs s src u off bs).1 := by
  unfold State.writeRegs
  exact SameBut.fold (π := Prod.fst) _ _ (fun p o => by simp) (s, Ans.ok)

@[simp] theorem SameBut.writeRegs {l : List Part} {s t : State} (src : ℕ) (u : ℕ) (off : ℕ) (bs : List Byte) (hregs : .regs ∈ l) (hmem : .mem ∈ l) (hecc : .ecc ∈ l) (hcores : .cores ∈ l) (hports : .ports ∈ l) (happs : .apps ∈ l) (hstqs : .stqs ∈ l) (hsb : .sb ∈ l) (hlog : .log ∈ l) :
    SameBut l s (State.writeRegs t src u off bs).1 ↔ SameBut l s t :=
  iff_of (State.writeRegs_frame t src u off bs) (by simp [*]) s

theorem State.spAccess_frame (s : State) (src : ℕ) (die : ℕ) (core : ℕ) (off : ℕ) (data : Option (List Byte)) (n : ℕ) :
    SameBut [.regs, .mem, .ecc, .sb, .log, .scrubQ] s (State.spAccess s src die core off data n).1 := by
  unfold State.spAccess
  repeat' first
    | (simp only [↓SameBut.of_self, ↓SameBut.ite_iff, ↓SameBut.forEach_iff, ↓SameBut.foldl_iff, ↓SameBut.foldl_fst_iff, ↓SameBut.fst_ite_iff, ↓SameBut.snd_ite_iff, ↓SameBut.mid_ite_iff, ↓SameBut.with_ecc, ↓SameBut.with_free, ↓SameBut.with_log, ↓SameBut.with_mem, ↓SameBut.with_mem_ecc, ↓SameBut.with_out, ↓SameBut.with_regs, ↓SameBut.with_sb, ↓SameBut.with_scrubQ, ↓SameBut.spCorrected, ↓SameBut.spFailed, ↓SameBut.spRead, ↓SameBut.spWrite, List.mem_cons, true_or, or_true, reduceCtorEq, or_false, false_or, ite_self, implies_true, and_self]; done)
    | refine (SameBut.forEach_iff _ _ (fun _ _ => ?_)).2 ?_
    | refine (SameBut.foldl_iff _ _ (fun _ _ => ?_)).2 ?_
    | refine (SameBut.foldl_fst_iff _ _ (fun _ _ => ?_)).2 ?_
    | simp only [↓SameBut.of_self, ↓SameBut.ite_iff, ↓SameBut.forEach_iff, ↓SameBut.foldl_iff, ↓SameBut.foldl_fst_iff, ↓SameBut.fst_ite_iff, ↓SameBut.snd_ite_iff, ↓SameBut.mid_ite_iff, ↓SameBut.with_ecc, ↓SameBut.with_free, ↓SameBut.with_log, ↓SameBut.with_mem, ↓SameBut.with_mem_ecc, ↓SameBut.with_out, ↓SameBut.with_regs, ↓SameBut.with_sb, ↓SameBut.with_scrubQ, ↓SameBut.spCorrected, ↓SameBut.spFailed, ↓SameBut.spRead, ↓SameBut.spWrite, List.mem_cons, true_or, or_true, reduceCtorEq, or_false, false_or, ite_self, implies_true, and_self]
    | (split <;> (rename_i heq; obtain ⟨rfl, rfl⟩ := Prod.ext_iff.1 heq; clear heq)) | (split <;> (rename_i heq; simp only [Prod.ext_iff] at heq; obtain ⟨rfl, rfl, rfl⟩ := heq)) | (split <;> (rename_i heq; simp only [Prod.ext_iff] at heq; obtain ⟨rfl, rfl, rfl, rfl⟩ := heq))
    | (split <;> (rename_i heq; first | (obtain ⟨-, rfl⟩ := Prod.ext_iff.1 heq) | (obtain ⟨rfl, -⟩ := Prod.ext_iff.1 heq) | (simp only [Prod.ext_iff] at heq; obtain ⟨-, rfl, -⟩ := heq) | skip))
    | split
    | (simp [↓SameBut.of_self, ↓SameBut.ite_iff, ↓SameBut.forEach_iff, ↓SameBut.foldl_iff, ↓SameBut.foldl_fst_iff, ↓SameBut.fst_ite_iff, ↓SameBut.snd_ite_iff, ↓SameBut.mid_ite_iff, ↓SameBut.with_ecc, ↓SameBut.with_free, ↓SameBut.with_log, ↓SameBut.with_mem, ↓SameBut.with_mem_ecc, ↓SameBut.with_out, ↓SameBut.with_regs, ↓SameBut.with_sb, ↓SameBut.with_scrubQ, ↓SameBut.spCorrected, ↓SameBut.spFailed, ↓SameBut.spRead, ↓SameBut.spWrite, List.mem_cons, true_or, or_true, reduceCtorEq, or_false, false_or, ite_self, implies_true, and_self]; done)

@[simp] theorem SameBut.spAccess {l : List Part} {s t : State} (src : ℕ) (die : ℕ) (core : ℕ) (off : ℕ) (data : Option (List Byte)) (n : ℕ) (hregs : .regs ∈ l) (hmem : .mem ∈ l) (hecc : .ecc ∈ l) (hsb : .sb ∈ l) (hlog : .log ∈ l) (hscrubQ : .scrubQ ∈ l) :
    SameBut l s (State.spAccess t src die core off data n).1 ↔ SameBut l s t :=
  iff_of (State.spAccess_frame t src die core off data n) (by simp [*]) s

theorem State.spOwn_frame (s : State) (src : ℕ) (die : ℕ) (core : ℕ) (off : ℕ) (data : Option (List Byte)) (n : ℕ) :
    SameBut [.regs, .mem, .ecc, .arbs, .sb, .log, .scrubQ] s (State.spOwn s src die core off data n).1 := by
  simp [State.spOwn]

@[simp] theorem SameBut.spOwn {l : List Part} {s t : State} (src : ℕ) (die : ℕ) (core : ℕ) (off : ℕ) (data : Option (List Byte)) (n : ℕ) (hregs : .regs ∈ l) (hmem : .mem ∈ l) (hecc : .ecc ∈ l) (harbs : .arbs ∈ l) (hsb : .sb ∈ l) (hlog : .log ∈ l) (hscrubQ : .scrubQ ∈ l) :
    SameBut l s (State.spOwn t src die core off data n).1 ↔ SameBut l s t :=
  iff_of (State.spOwn_frame t src die core off data n) (by simp [*]) s

/-- What the operation of a write that counts as a whole may change. -/
theorem State.epDoor_frame (s : State) (src u off : ℕ) (bs : List Byte) (r : State × Ans) (h : s.epDoor src u off bs = some r) :
    SameBut [.regs, .mem, .ecc, .stqs, .red, .sb, .log, .fix] s r.1 := by
  unfold State.epDoor at h
  simp only [Option.ite_none_right_eq_some] at h
  repeat' first
    | (simp only [Option.some.injEq, reduceCtorEq] at h; subst h; simp; done)
    | (cases h; done)
    | split at h

theorem State.epWrite_frame (s : State) (src : ℕ) (u : ℕ) (off : ℕ) (bs : List Byte) :
    SameBut [.regs, .mem, .ecc, .cores, .arbs, .ports, .apps, .stqs, .red, .sb, .log, .fix, .scrubQ] s (State.epWrite s src u off bs).1 := by
  have door := fun r h => (State.epDoor_frame s src u off bs r h).widen
    (m := [.regs, .mem, .ecc, .cores, .arbs, .ports, .apps, .stqs, .red, .sb, .log, .fix, .scrubQ]) (by simp)
  unfold State.epWrite
  simp only []
  generalize s.epDoor src u off bs = o at door ⊢
  cases o with
  | none =>
    simp only []
    repeat' first
      | split
      | (simp; done)
  | some r =>
    have d := door r rfl
    simp only []
    repeat' first
      | exact d
      | split
      | (simp; done)

@[simp] theorem SameBut.epWrite {l : List Part} {s t : State} (src : ℕ) (u : ℕ) (off : ℕ) (bs : List Byte) (hregs : .regs ∈ l) (hmem : .mem ∈ l) (hecc : .ecc ∈ l) (hcores : .cores ∈ l) (harbs : .arbs ∈ l) (hports : .ports ∈ l) (happs : .apps ∈ l) (hstqs : .stqs ∈ l) (hred : .red ∈ l) (hsb : .sb ∈ l) (hlog : .log ∈ l) (hfix : .fix ∈ l) (hscrubQ : .scrubQ ∈ l) :
    SameBut l s (State.epWrite t src u off bs).1 ↔ SameBut l s t :=
  iff_of (State.epWrite_frame t src u off bs) (by simp [*]) s

theorem State.capture_frame (s : State) (u : ℕ) (off : ℕ) (v : ℕ) :
    SameBut [.regs] s (State.capture s u off v) := by
  simp [State.capture]

@[simp] theorem SameBut.capture {l : List Part} {s t : State} (u : ℕ) (off : ℕ) (v : ℕ) (hregs : .regs ∈ l) :
    SameBut l s (State.capture t u off v) ↔ SameBut l s t :=
  iff_of (State.capture_frame t u off v) (by simp [*]) s

theorem State.readField_frame (s : State) (u : ℕ) (f : Field) :
    SameBut [.regs] s (State.readField s u f).2 := by
  unfold State.readField
  try simp only []
  (repeat' split) <;> simp

@[simp] theorem SameBut.readField {l : List Part} {s t : State} (u : ℕ) (f : Field) (hregs : .regs ∈ l) :
    SameBut l s (State.readField t u f).2 ↔ SameBut l s t :=
  iff_of (State.readField_frame t u f) (by simp [*]) s

theorem State.showWaits_frame (s : State) (u : ℕ) (off : ℕ) :
    SameBut [.regs, .arbs] s (State.showWaits s u off) := by
  simp [State.showWaits]

@[simp] theorem SameBut.showWaits {l : List Part} {s t : State} (u : ℕ) (off : ℕ) (hregs : .regs ∈ l) (harbs : .arbs ∈ l) :
    SameBut l s (State.showWaits t u off) ↔ SameBut l s t :=
  iff_of (State.showWaits_frame t u off) (by simp [*]) s

theorem State.refresh_frame (s : State) (u : ℕ) (off : ℕ) :
    SameBut [.regs, .arbs] s (State.refresh s u off) := by
  simp [State.refresh]

@[simp] theorem SameBut.refresh {l : List Part} {s t : State} (u : ℕ) (off : ℕ) (hregs : .regs ∈ l) (harbs : .arbs ∈ l) :
    SameBut l s (State.refresh t u off) ↔ SameBut l s t :=
  iff_of (State.refresh_frame t u off) (by simp [*]) s

theorem State.readWord_frame (s : State) (u : ℕ) (off : ℕ) :
    SameBut [.regs, .arbs] s (State.readWord s u off).2 := by
  unfold State.readWord
  exact SameBut.through (by simp) (SameBut.fold (π := Prod.snd) _ _ (fun p f => by simp) (0, s.refresh u off))

@[simp] theorem SameBut.readWord {l : List Part} {s t : State} (u : ℕ) (off : ℕ) (hregs : .regs ∈ l) (harbs : .arbs ∈ l) :
    SameBut l s (State.readWord t u off).2 ↔ SameBut l s t :=
  iff_of (State.readWord_frame t u off) (by simp [*]) s

/-- A read of a pair changes registers only, and the waits still to be counted. -/
theorem State.readPair_frame (s : State) (u off v : ℕ) (t : State) (h : s.readPair u off = some (v, t)) :
    SameBut [.regs, .arbs] s t := by
  unfold State.readPair at h
  split at h
  · cases h
  · simp only [Option.some.injEq, Prod.mk.injEq] at h
    obtain ⟨-, rfl⟩ := h
    split <;> simp

theorem State.readRegs_frame (s : State) (u : ℕ) (off : ℕ) (n : ℕ) :
    SameBut [.regs, .arbs] s (State.readRegs s u off n).1 := by
  unfold State.readRegs
  simp only []
  split
  · exact SameBut.of_self _ _
  · split
    · rename_i heq
      split at heq
      · exact State.readPair_frame s u off _ _ heq
      · cases heq
    · exact SameBut.fold (π := Prod.snd) _ _ (fun p i => by simp) ([], s)

@[simp] theorem SameBut.readRegs {l : List Part} {s t : State} (u : ℕ) (off : ℕ) (n : ℕ) (hregs : .regs ∈ l) (harbs : .arbs ∈ l) :
    SameBut l s (State.readRegs t u off n).1 ↔ SameBut l s t :=
  iff_of (State.readRegs_frame t u off n) (by simp [*]) s

theorem State.epRead_frame (s : State) (src : ℕ) (u : ℕ) (off : ℕ) (n : ℕ) :
    SameBut [.regs, .mem, .ecc, .arbs, .arrivals, .sb, .log, .scrubQ] s (State.epRead s src u off n).1 := by
  unfold State.epRead
  simp only []
  repeat' first
    | (simp; done)
    | split

@[simp] theorem SameBut.epRead {l : List Part} {s t : State} (src : ℕ) (u : ℕ) (off : ℕ) (n : ℕ) (hregs : .regs ∈ l) (hmem : .mem ∈ l) (hecc : .ecc ∈ l) (harbs : .arbs ∈ l) (harrivals : .arrivals ∈ l) (hsb : .sb ∈ l) (hlog : .log ∈ l) (hscrubQ : .scrubQ ∈ l) :
    SameBut l s (State.epRead t src u off n).1 ↔ SameBut l s t :=
  iff_of (State.epRead_frame t src u off n) (by simp [*]) s

theorem State.serveAt_frame (s : State) (src : ℕ) (t' : ℕ) (data : Option (List Byte)) (n : ℕ) :
    SameBut [.regs, .mem, .ecc, .cores, .arbs, .ports, .apps, .stqs, .red, .arrivals, .sb, .log, .fix, .scrubQ] s (State.serveAt s src t' data n).1 := by
  unfold State.serveAt
  repeat' first
    | (simp; done)
    | split

@[simp] theorem SameBut.serveAt {l : List Part} {s t : State} (src : ℕ) (t' : ℕ) (data : Option (List Byte)) (n : ℕ) (hregs : .regs ∈ l) (hmem : .mem ∈ l) (hecc : .ecc ∈ l) (hcores : .cores ∈ l) (harbs : .arbs ∈ l) (hports : .ports ∈ l) (happs : .apps ∈ l) (hstqs : .stqs ∈ l) (hred : .red ∈ l) (harrivals : .arrivals ∈ l) (hsb : .sb ∈ l) (hlog : .log ∈ l) (hfix : .fix ∈ l) (hscrubQ : .scrubQ ∈ l) :
    SameBut l s (State.serveAt t src t' data n).1 ↔ SameBut l s t :=
  iff_of (State.serveAt_frame t src t' data n) (by simp [*]) s

theorem State.serveRun_frame (s : State) (src : ℕ) (t' : ℕ) (data : Option (List Byte)) (n : ℕ) :
    SameBut [.regs, .mem, .ecc, .cores, .arbs, .ports, .apps, .stqs, .red, .arrivals, .sb, .pwr, .log, .fix, .scrubQ] s (State.serveRun s src t' data n).1 := by
  unfold State.serveRun
  split
  · exact SameBut.fold (π := Prod.fst) _ _ (fun p b => by simp only []; split <;> simp) (s, Ans.ok)
  · split <;> simp

@[simp] theorem SameBut.serveRun {l : List Part} {s t : State} (src : ℕ) (t' : ℕ) (data : Option (List Byte)) (n : ℕ) (hregs : .regs ∈ l) (hmem : .mem ∈ l) (hecc : .ecc ∈ l) (hcores : .cores ∈ l) (harbs : .arbs ∈ l) (hports : .ports ∈ l) (happs : .apps ∈ l) (hstqs : .stqs ∈ l) (hred : .red ∈ l) (harrivals : .arrivals ∈ l) (hsb : .sb ∈ l) (hpwr : .pwr ∈ l) (hlog : .log ∈ l) (hfix : .fix ∈ l) (hscrubQ : .scrubQ ∈ l) :
    SameBut l s (State.serveRun t src t' data n).1 ↔ SameBut l s t :=
  iff_of (State.serveRun_frame t src t' data n) (by simp [*]) s

theorem State.netError_frame (s : State) (src : ℕ) (t' : ℕ) (flips : ℕ) :
    SameBut [.regs, .sb, .log] s (State.netError s src t' flips) := by
  simp [State.netError]

@[simp] theorem SameBut.netError {l : List Part} {s t : State} (src : ℕ) (t' : ℕ) (flips : ℕ) (hregs : .regs ∈ l) (hsb : .sb ∈ l) (hlog : .log ∈ l) :
    SameBut l s (State.netError t src t' flips) ↔ SameBut l s t :=
  iff_of (State.netError_frame t src t' flips) (by simp [*]) s

theorem State.access_frame (s : State) (src : ℕ) (t' : ℕ) (data : Option (List Byte)) (n : ℕ) :
    SameBut [.regs, .mem, .ecc, .net, .cores, .arbs, .ports, .apps, .stqs, .red, .arrivals, .sb, .pwr, .log, .fix, .scrubQ] s (State.access s src t' data n).1 := by
  unfold State.access
  simp only []
  repeat' first
    | (simp; done)
    | split

@[simp] theorem SameBut.access {l : List Part} {s t : State} (src : ℕ) (t' : ℕ) (data : Option (List Byte)) (n : ℕ) (hregs : .regs ∈ l) (hmem : .mem ∈ l) (hecc : .ecc ∈ l) (hnet : .net ∈ l) (hcores : .cores ∈ l) (harbs : .arbs ∈ l) (hports : .ports ∈ l) (happs : .apps ∈ l) (hstqs : .stqs ∈ l) (hred : .red ∈ l) (harrivals : .arrivals ∈ l) (hsb : .sb ∈ l) (hpwr : .pwr ∈ l) (hlog : .log ∈ l) (hfix : .fix ∈ l) (hscrubQ : .scrubQ ∈ l) :
    SameBut l s (State.access t src t' data n).1 ↔ SameBut l s t :=
  iff_of (State.access_frame t src t' data n) (by simp [*]) s

theorem State.hardSet_frame (s : State) (u : ℕ) (l' : List (ℕ × ℕ)) :
    SameBut [.regs] s (State.hardSet s u l') := by
  unfold State.hardSet
  repeat' first
    | (simp only [↓SameBut.of_self, ↓SameBut.ite_iff, ↓SameBut.forEach_iff, ↓SameBut.foldl_iff, ↓SameBut.foldl_fst_iff, ↓SameBut.fst_ite_iff, ↓SameBut.snd_ite_iff, ↓SameBut.mid_ite_iff, ↓SameBut.with_free, ↓SameBut.with_out, ↓SameBut.with_regs, ↓SameBut.wr, List.mem_cons, true_or, or_true, reduceCtorEq, or_false, false_or, ite_self, implies_true, and_self]; done)
    | refine (SameBut.forEach_iff _ _ (fun _ _ => ?_)).2 ?_
    | refine (SameBut.foldl_iff _ _ (fun _ _ => ?_)).2 ?_
    | refine (SameBut.foldl_fst_iff _ _ (fun _ _ => ?_)).2 ?_
    | simp only [↓SameBut.of_self, ↓SameBut.ite_iff, ↓SameBut.forEach_iff, ↓SameBut.foldl_iff, ↓SameBut.foldl_fst_iff, ↓SameBut.fst_ite_iff, ↓SameBut.snd_ite_iff, ↓SameBut.mid_ite_iff, ↓SameBut.with_free, ↓SameBut.with_out, ↓SameBut.with_regs, ↓SameBut.wr, List.mem_cons, true_or, or_true, reduceCtorEq, or_false, false_or, ite_self, implies_true, and_self]
    | (split <;> (rename_i heq; obtain ⟨rfl, rfl⟩ := Prod.ext_iff.1 heq; clear heq)) | (split <;> (rename_i heq; simp only [Prod.ext_iff] at heq; obtain ⟨rfl, rfl, rfl⟩ := heq)) | (split <;> (rename_i heq; simp only [Prod.ext_iff] at heq; obtain ⟨rfl, rfl, rfl, rfl⟩ := heq))
    | (split <;> (rename_i heq; first | (obtain ⟨-, rfl⟩ := Prod.ext_iff.1 heq) | (obtain ⟨rfl, -⟩ := Prod.ext_iff.1 heq) | (simp only [Prod.ext_iff] at heq; obtain ⟨-, rfl, -⟩ := heq) | skip))
    | split
    | (simp [↓SameBut.of_self, ↓SameBut.ite_iff, ↓SameBut.forEach_iff, ↓SameBut.foldl_iff, ↓SameBut.foldl_fst_iff, ↓SameBut.fst_ite_iff, ↓SameBut.snd_ite_iff, ↓SameBut.mid_ite_iff, ↓SameBut.with_free, ↓SameBut.with_out, ↓SameBut.with_regs, ↓SameBut.wr, List.mem_cons, true_or, or_true, reduceCtorEq, or_false, false_or, ite_self, implies_true, and_self]; done)

@[simp] theorem SameBut.hardSet {l : List Part} {s t : State} (u : ℕ) (l' : List (ℕ × ℕ)) (hregs : .regs ∈ l) :
    SameBut l s (State.hardSet t u l') ↔ SameBut l s t :=
  iff_of (State.hardSet_frame t u l') (by simp [*]) s

theorem State.walk_frame (s : State) (die : ℕ) (va : ℕ) (levels : List ℕ) (table : ℕ) :
    SameBut [.regs, .ecc, .tus, .sb, .log] s (State.walk s die va levels table).1 := by
  induction levels generalizing s table with
  | nil => exact SameBut.of_self _ _
  | cons level more ih =>
    rw [State.walk]
    simp only []
    generalize (mget s.tus die {}).mid.find? _ = q
    cases q with
    | some p =>
      simp only []
      split
      · exact SameBut.of_self _ _
      · split
        · exact SameBut.of_self _ _
        · exact SameBut.through (by simp) (ih _ _)
    | none =>
      have h := State.dramRead_frame s (taDie table) (taOff table + 8 * bitsOf va (20 + 9 * (level + 1)) (21 + 9 * level)) 8 7
      generalize s.dramRead _ _ _ _ = z at h ⊢
      refine (h.widen (by simp)).through ?_
      simp only []
      generalize (if z.2.err = 0 then some (leNat z.2.data) else none) = got
      cases got with
      | none => exact SameBut.of_self _ _
      | some e =>
        simp only []
        split
        · exact SameBut.of_self _ _
        · split
          · exact SameBut.of_self _ _
          · exact SameBut.through (by simp) (ih _ _)

@[simp] theorem SameBut.walk {l : List Part} {s t : State} (die : ℕ) (va : ℕ) (levels : List ℕ) (table : ℕ) (hregs : .regs ∈ l) (hecc : .ecc ∈ l) (htus : .tus ∈ l) (hsb : .sb ∈ l) (hlog : .log ∈ l) :
    SameBut l s (State.walk t die va levels table).1 ↔ SameBut l s t :=
  iff_of (State.walk_frame t die va levels table) (by simp [*]) s

theorem State.leafOf_frame (s : State) (die : ℕ) (va : ℕ) :
    SameBut [.regs, .ecc, .tus, .sb, .log] s (State.leafOf s die va).1 := by
  unfold State.leafOf
  repeat' first
    | (simp only [↓SameBut.of_self, ↓SameBut.ite_iff, ↓SameBut.forEach_iff, ↓SameBut.foldl_iff, ↓SameBut.foldl_fst_iff, ↓SameBut.fst_ite_iff, ↓SameBut.snd_ite_iff, ↓SameBut.mid_ite_iff, ↓SameBut.with_ecc, ↓SameBut.with_free, ↓SameBut.with_log, ↓SameBut.with_out, ↓SameBut.with_regs, ↓SameBut.with_sb, ↓SameBut.with_tus, ↓SameBut.bump, ↓SameBut.walk, List.mem_cons, true_or, or_true, reduceCtorEq, or_false, false_or, ite_self, implies_true, and_self]; done)
    | refine (SameBut.forEach_iff _ _ (fun _ _ => ?_)).2 ?_
    | refine (SameBut.foldl_iff _ _ (fun _ _ => ?_)).2 ?_
    | refine (SameBut.foldl_fst_iff _ _ (fun _ _ => ?_)).2 ?_
    | simp only [↓SameBut.of_self, ↓SameBut.ite_iff, ↓SameBut.forEach_iff, ↓SameBut.foldl_iff, ↓SameBut.foldl_fst_iff, ↓SameBut.fst_ite_iff, ↓SameBut.snd_ite_iff, ↓SameBut.mid_ite_iff, ↓SameBut.with_ecc, ↓SameBut.with_free, ↓SameBut.with_log, ↓SameBut.with_out, ↓SameBut.with_regs, ↓SameBut.with_sb, ↓SameBut.with_tus, ↓SameBut.bump, ↓SameBut.walk, List.mem_cons, true_or, or_true, reduceCtorEq, or_false, false_or, ite_self, implies_true, and_self]
    | (split <;> (rename_i heq; obtain ⟨rfl, rfl⟩ := Prod.ext_iff.1 heq; clear heq)) | (split <;> (rename_i heq; simp only [Prod.ext_iff] at heq; obtain ⟨rfl, rfl, rfl⟩ := heq)) | (split <;> (rename_i heq; simp only [Prod.ext_iff] at heq; obtain ⟨rfl, rfl, rfl, rfl⟩ := heq))
    | (split <;> (rename_i heq; first | (obtain ⟨-, rfl⟩ := Prod.ext_iff.1 heq) | (obtain ⟨rfl, -⟩ := Prod.ext_iff.1 heq) | (simp only [Prod.ext_iff] at heq; obtain ⟨-, rfl, -⟩ := heq) | skip))
    | split
    | (simp [↓SameBut.of_self, ↓SameBut.ite_iff, ↓SameBut.forEach_iff, ↓SameBut.foldl_iff, ↓SameBut.foldl_fst_iff, ↓SameBut.fst_ite_iff, ↓SameBut.snd_ite_iff, ↓SameBut.mid_ite_iff, ↓SameBut.with_ecc, ↓SameBut.with_free, ↓SameBut.with_log, ↓SameBut.with_out, ↓SameBut.with_regs, ↓SameBut.with_sb, ↓SameBut.with_tus, ↓SameBut.bump, ↓SameBut.walk, List.mem_cons, true_or, or_true, reduceCtorEq, or_false, false_or, ite_self, implies_true, and_self]; done)

@[simp] theorem SameBut.leafOf {l : List Part} {s t : State} (die : ℕ) (va : ℕ) (hregs : .regs ∈ l) (hecc : .ecc ∈ l) (htus : .tus ∈ l) (hsb : .sb ∈ l) (hlog : .log ∈ l) :
    SameBut l s (State.leafOf t die va).1 ↔ SameBut l s t :=
  iff_of (State.leafOf_frame t die va) (by simp [*]) s

theorem State.tuFault_frame (s : State) (die : ℕ) (agent : ℕ) (va : ℕ) (level : ℕ) (code : ℕ) :
    SameBut [.regs] s (State.tuFault s die agent va level code) := by
  simp [State.tuFault]

@[simp] theorem SameBut.tuFault {l : List Part} {s t : State} (die : ℕ) (agent : ℕ) (va : ℕ) (level : ℕ) (code : ℕ) (hregs : .regs ∈ l) :
    SameBut l s (State.tuFault t die agent va level code) ↔ SameBut l s t :=
  iff_of (State.tuFault_frame t die agent va level code) (by simp [*]) s

theorem State.translate_frame (s : State) (die : ℕ) (agent : ℕ) (va : ℕ) (need : ℕ) :
    SameBut [.regs, .ecc, .tus, .sb, .pwr, .log] s (State.translate s die agent va need).1 := by
  unfold State.translate
  repeat' first
    | (simp only [↓SameBut.of_self, ↓SameBut.ite_iff, ↓SameBut.forEach_iff, ↓SameBut.foldl_iff, ↓SameBut.foldl_fst_iff, ↓SameBut.fst_ite_iff, ↓SameBut.snd_ite_iff, ↓SameBut.mid_ite_iff, ↓SameBut.with_ecc, ↓SameBut.with_free, ↓SameBut.with_log, ↓SameBut.with_out, ↓SameBut.with_pwr, ↓SameBut.with_regs, ↓SameBut.with_sb, ↓SameBut.with_tus, ↓SameBut.leafOf, ↓SameBut.stackUp, ↓SameBut.tuFault, List.mem_cons, true_or, or_true, reduceCtorEq, or_false, false_or, ite_self, implies_true, and_self]; done)
    | refine (SameBut.forEach_iff _ _ (fun _ _ => ?_)).2 ?_
    | refine (SameBut.foldl_iff _ _ (fun _ _ => ?_)).2 ?_
    | refine (SameBut.foldl_fst_iff _ _ (fun _ _ => ?_)).2 ?_
    | simp only [↓SameBut.of_self, ↓SameBut.ite_iff, ↓SameBut.forEach_iff, ↓SameBut.foldl_iff, ↓SameBut.foldl_fst_iff, ↓SameBut.fst_ite_iff, ↓SameBut.snd_ite_iff, ↓SameBut.mid_ite_iff, ↓SameBut.with_ecc, ↓SameBut.with_free, ↓SameBut.with_log, ↓SameBut.with_out, ↓SameBut.with_pwr, ↓SameBut.with_regs, ↓SameBut.with_sb, ↓SameBut.with_tus, ↓SameBut.leafOf, ↓SameBut.stackUp, ↓SameBut.tuFault, List.mem_cons, true_or, or_true, reduceCtorEq, or_false, false_or, ite_self, implies_true, and_self]
    | (split <;> (rename_i heq; obtain ⟨rfl, rfl⟩ := Prod.ext_iff.1 heq; clear heq)) | (split <;> (rename_i heq; simp only [Prod.ext_iff] at heq; obtain ⟨rfl, rfl, rfl⟩ := heq)) | (split <;> (rename_i heq; simp only [Prod.ext_iff] at heq; obtain ⟨rfl, rfl, rfl, rfl⟩ := heq))
    | (split <;> (rename_i heq; first | (obtain ⟨-, rfl⟩ := Prod.ext_iff.1 heq) | (obtain ⟨rfl, -⟩ := Prod.ext_iff.1 heq) | (simp only [Prod.ext_iff] at heq; obtain ⟨-, rfl, -⟩ := heq) | skip))
    | split
    | (simp [↓SameBut.of_self, ↓SameBut.ite_iff, ↓SameBut.forEach_iff, ↓SameBut.foldl_iff, ↓SameBut.foldl_fst_iff, ↓SameBut.fst_ite_iff, ↓SameBut.snd_ite_iff, ↓SameBut.mid_ite_iff, ↓SameBut.with_ecc, ↓SameBut.with_free, ↓SameBut.with_log, ↓SameBut.with_out, ↓SameBut.with_pwr, ↓SameBut.with_regs, ↓SameBut.with_sb, ↓SameBut.with_tus, ↓SameBut.leafOf, ↓SameBut.stackUp, ↓SameBut.tuFault, List.mem_cons, true_or, or_true, reduceCtorEq, or_false, false_or, ite_self, implies_true, and_self]; done)

@[simp] theorem SameBut.translate {l : List Part} {s t : State} (die : ℕ) (agent : ℕ) (va : ℕ) (need : ℕ) (hregs : .regs ∈ l) (hecc : .ecc ∈ l) (htus : .tus ∈ l) (hsb : .sb ∈ l) (hpwr : .pwr ∈ l) (hlog : .log ∈ l) :
    SameBut l s (State.translate t die agent va need).1 ↔ SameBut l s t :=
  iff_of (State.translate_frame t die agent va need) (by simp [*]) s

theorem State.vread_frame (s : State) (ag : Agent) (va : ℕ) (n : ℕ) (need : ℕ) :
    SameBut [.regs, .mem, .ecc, .net, .cores, .arbs, .tus, .ports, .apps, .stqs, .red, .arrivals, .sb, .pwr, .log, .fix, .scrubQ] s (State.vread s ag va n need).1 := by
  unfold State.vread
  refine SameBut.fold (π := Prod.fst) _ _ (fun p b => ?_) (s, (⟨0, 0, [], none⟩ : VRes))
  simp only []
  repeat' first
    | (simp; done)
    | split

@[simp] theorem SameBut.vread {l : List Part} {s t : State} (ag : Agent) (va : ℕ) (n : ℕ) (need : ℕ) (hregs : .regs ∈ l) (hmem : .mem ∈ l) (hecc : .ecc ∈ l) (hnet : .net ∈ l) (hcores : .cores ∈ l) (harbs : .arbs ∈ l) (htus : .tus ∈ l) (hports : .ports ∈ l) (happs : .apps ∈ l) (hstqs : .stqs ∈ l) (hred : .red ∈ l) (harrivals : .arrivals ∈ l) (hsb : .sb ∈ l) (hpwr : .pwr ∈ l) (hlog : .log ∈ l) (hfix : .fix ∈ l) (hscrubQ : .scrubQ ∈ l) :
    SameBut l s (State.vread t ag va n need).1 ↔ SameBut l s t :=
  iff_of (State.vread_frame t ag va n need) (by simp [*]) s

theorem State.vwrite_frame (s : State) (ag : Agent) (va : ℕ) (bs : List Byte) :
    SameBut [.regs, .mem, .ecc, .net, .cores, .arbs, .tus, .ports, .apps, .stqs, .red, .arrivals, .sb, .pwr, .log, .fix, .scrubQ] s (State.vwrite s ag va bs).1 := by
  unfold State.vwrite
  refine SameBut.fold (π := Prod.fst) _ _ (fun p b => ?_) (s, (⟨0, 0, [], none⟩ : VRes), 0)
  simp only []
  repeat' first
    | (simp; done)
    | split

@[simp] theorem SameBut.vwrite {l : List Part} {s t : State} (ag : Agent) (va : ℕ) (bs : List Byte) (hregs : .regs ∈ l) (hmem : .mem ∈ l) (hecc : .ecc ∈ l) (hnet : .net ∈ l) (hcores : .cores ∈ l) (harbs : .arbs ∈ l) (htus : .tus ∈ l) (hports : .ports ∈ l) (happs : .apps ∈ l) (hstqs : .stqs ∈ l) (hred : .red ∈ l) (harrivals : .arrivals ∈ l) (hsb : .sb ∈ l) (hpwr : .pwr ∈ l) (hlog : .log ∈ l) (hfix : .fix ∈ l) (hscrubQ : .scrubQ ∈ l) :
    SameBut l s (State.vwrite t ag va bs).1 ↔ SameBut l s t :=
  iff_of (State.vwrite_frame t ag va bs) (by simp [*]) s

end Sys2Proof.Machine
end

