-- ==== Sys2Proof/Laws/Access.lean ====
section
/-!
SUPPORT. Laws of the operations of Machine/Access.lean: the parts of the state that each may change.
-/
set_option linter.unusedSimpArgs false
set_option linter.unusedTactic false
set_option linter.unreachableTactic false
namespace Sys2Proof.Machine

theorem State.answerAs_frame (s : State) (group : ℕ) (err : ℕ) (detail : ℕ) (data : List Byte) :
    SameBut [] s (State.answerAs s group err detail data) := by
  simp [State.answerAs]

@[simp] theorem SameBut.answerAs {l : List Part} {s t : State} (group : ℕ) (err : ℕ) (detail : ℕ) (data : List Byte)  :
    SameBut l s (State.answerAs t group err detail data) ↔ SameBut l s t :=
  iff_of (State.answerAs_frame t group err detail data) (by simp [*]) s

theorem State.arbAdd_frame (s : State) (die : ℕ) (core : ℕ) (r : ArbReq) :
    SameBut [.arbs] s (State.arbAdd s die core r) := by
  simp [State.arbAdd]

@[simp] theorem SameBut.arbAdd {l : List Part} {s t : State} (die : ℕ) (core : ℕ) (r : ArbReq) (harbs : .arbs ∈ l) :
    SameBut l s (State.arbAdd t die core r) ↔ SameBut l s t :=
  iff_of (State.arbAdd_frame t die core r) (by simp [*]) s

/-- An answer sent changes what has been sent alone. -/
theorem answer_frame (r : State × Ans) (group : Nat) : SameBut [] r.1 (answer r group) := by
  unfold answer
  split
  · exact SameBut.of_self _ _
  · split <;> simp
@[simp] theorem SameBut.answer {l : List Part} {s : State} (r : State × Ans) (group : Nat) :
    SameBut l s (Sys2Proof.Machine.answer r group) ↔ SameBut l s r.1 := iff_of (answer_frame r group) (by simp) s

theorem State.serve_frame (s : State) (t' : Txn) :
    SameBut [.regs, .mem, .ecc, .cores, .arbs, .ports, .apps, .stqs, .red, .arrivals, .sb, .log, .fix, .scrubQ] s (State.serve s t') := by
  unfold State.serve
  simp only []
  generalize (match t'.data with | some bs => bs.length | none => t'.len) = n
  repeat' first
    | (simp; done)
    | split

@[simp] theorem SameBut.serve {l : List Part} {s t : State} (t' : Txn) (hregs : .regs ∈ l) (hmem : .mem ∈ l) (hecc : .ecc ∈ l) (hcores : .cores ∈ l) (harbs : .arbs ∈ l) (hports : .ports ∈ l) (happs : .apps ∈ l) (hstqs : .stqs ∈ l) (hred : .red ∈ l) (harrivals : .arrivals ∈ l) (hsb : .sb ∈ l) (hlog : .log ∈ l) (hfix : .fix ∈ l) (hscrubQ : .scrubQ ∈ l) :
    SameBut l s (State.serve t t') ↔ SameBut l s t :=
  iff_of (State.serve_frame t t') (by simp [*]) s

theorem State.arriveTx_frame (s : State) (t' : Txn) :
    SameBut [.regs, .mem, .ecc, .cores, .arbs, .ports, .heldTx, .apps, .stqs, .red, .arrivals, .sb, .log, .fix, .scrubQ] s (State.arriveTx s t') := by
  unfold State.arriveTx
  repeat' first
    | (simp only [↓SameBut.of_self, ↓SameBut.ite_iff, ↓SameBut.forEach_iff, ↓SameBut.foldl_iff, ↓SameBut.foldl_fst_iff, ↓SameBut.fst_ite_iff, ↓SameBut.snd_ite_iff, ↓SameBut.mid_ite_iff, ↓SameBut.with_apps, ↓SameBut.with_arbs, ↓SameBut.with_arrivals, ↓SameBut.with_cores, ↓SameBut.with_ecc, ↓SameBut.with_fix, ↓SameBut.with_free, ↓SameBut.with_heldTx, ↓SameBut.with_log, ↓SameBut.with_mem, ↓SameBut.with_mem_ecc, ↓SameBut.with_out, ↓SameBut.with_ports, ↓SameBut.with_red, ↓SameBut.with_regs, ↓SameBut.with_sb, ↓SameBut.with_scrubQ, ↓SameBut.with_stqs, ↓SameBut.serve, List.mem_cons, true_or, or_true, reduceCtorEq, or_false, false_or, ite_self, implies_true, and_self]; done)
    | refine (SameBut.forEach_iff _ _ (fun _ _ => ?_)).2 ?_
    | refine (SameBut.foldl_iff _ _ (fun _ _ => ?_)).2 ?_
    | refine (SameBut.foldl_fst_iff _ _ (fun _ _ => ?_)).2 ?_
    | simp only [↓SameBut.of_self, ↓SameBut.ite_iff, ↓SameBut.forEach_iff, ↓SameBut.foldl_iff, ↓SameBut.foldl_fst_iff, ↓SameBut.fst_ite_iff, ↓SameBut.snd_ite_iff, ↓SameBut.mid_ite_iff, ↓SameBut.with_apps, ↓SameBut.with_arbs, ↓SameBut.with_arrivals, ↓SameBut.with_cores, ↓SameBut.with_ecc, ↓SameBut.with_fix, ↓SameBut.with_free, ↓SameBut.with_heldTx, ↓SameBut.with_log, ↓SameBut.with_mem, ↓SameBut.with_mem_ecc, ↓SameBut.with_out, ↓SameBut.with_ports, ↓SameBut.with_red, ↓SameBut.with_regs, ↓SameBut.with_sb, ↓SameBut.with_scrubQ, ↓SameBut.with_stqs, ↓SameBut.serve, List.mem_cons, true_or, or_true, reduceCtorEq, or_false, false_or, ite_self, implies_true, and_self]
    | (split <;> (rename_i heq; obtain ⟨rfl, rfl⟩ := Prod.ext_iff.1 heq; clear heq)) | (split <;> (rename_i heq; simp only [Prod.ext_iff] at heq; obtain ⟨rfl, rfl, rfl⟩ := heq)) | (split <;> (rename_i heq; simp only [Prod.ext_iff] at heq; obtain ⟨rfl, rfl, rfl, rfl⟩ := heq))
    | (split <;> (rename_i heq; first | (obtain ⟨-, rfl⟩ := Prod.ext_iff.1 heq) | (obtain ⟨rfl, -⟩ := Prod.ext_iff.1 heq) | (simp only [Prod.ext_iff] at heq; obtain ⟨-, rfl, -⟩ := heq) | skip))
    | split
    | (simp [↓SameBut.of_self, ↓SameBut.ite_iff, ↓SameBut.forEach_iff, ↓SameBut.foldl_iff, ↓SameBut.foldl_fst_iff, ↓SameBut.fst_ite_iff, ↓SameBut.snd_ite_iff, ↓SameBut.mid_ite_iff, ↓SameBut.with_apps, ↓SameBut.with_arbs, ↓SameBut.with_arrivals, ↓SameBut.with_cores, ↓SameBut.with_ecc, ↓SameBut.with_fix, ↓SameBut.with_free, ↓SameBut.with_heldTx, ↓SameBut.with_log, ↓SameBut.with_mem, ↓SameBut.with_mem_ecc, ↓SameBut.with_out, ↓SameBut.with_ports, ↓SameBut.with_red, ↓SameBut.with_regs, ↓SameBut.with_sb, ↓SameBut.with_scrubQ, ↓SameBut.with_stqs, ↓SameBut.serve, List.mem_cons, true_or, or_true, reduceCtorEq, or_false, false_or, ite_self, implies_true, and_self]; done)

@[simp] theorem SameBut.arriveTx {l : List Part} {s t : State} (t' : Txn) (hregs : .regs ∈ l) (hmem : .mem ∈ l) (hecc : .ecc ∈ l) (hcores : .cores ∈ l) (harbs : .arbs ∈ l) (hports : .ports ∈ l) (hheldTx : .heldTx ∈ l) (happs : .apps ∈ l) (hstqs : .stqs ∈ l) (hred : .red ∈ l) (harrivals : .arrivals ∈ l) (hsb : .sb ∈ l) (hlog : .log ∈ l) (hfix : .fix ∈ l) (hscrubQ : .scrubQ ∈ l) :
    SameBut l s (State.arriveTx t t') ↔ SameBut l s t :=
  iff_of (State.arriveTx_frame t t') (by simp [*]) s

theorem State.scrubWord_frame (s : State) (die : ℕ) (core : ℕ) (w : ℕ) :
    SameBut [.regs, .ecc, .sb, .log] s (State.scrubWord s die core w) := by
  unfold State.scrubWord
  try simp only []
  (repeat' split) <;> simp

@[simp] theorem SameBut.scrubWord {l : List Part} {s t : State} (die : ℕ) (core : ℕ) (w : ℕ) (hregs : .regs ∈ l) (hecc : .ecc ∈ l) (hsb : .sb ∈ l) (hlog : .log ∈ l) :
    SameBut l s (State.scrubWord t die core w) ↔ SameBut l s t :=
  iff_of (State.scrubWord_frame t die core w) (by simp [*]) s

theorem State.scrubRow_frame (s : State) (die : ℕ) (core : ℕ) (bank : ℕ) :
    SameBut [.regs, .ecc, .arbs, .sb, .log] s (State.scrubRow s die core bank) := by
  simp [State.scrubRow]

@[simp] theorem SameBut.scrubRow {l : List Part} {s t : State} (die : ℕ) (core : ℕ) (bank : ℕ) (hregs : .regs ∈ l) (hecc : .ecc ∈ l) (harbs : .arbs ∈ l) (hsb : .sb ∈ l) (hlog : .log ∈ l) :
    SameBut l s (State.scrubRow t die core bank) ↔ SameBut l s t :=
  iff_of (State.scrubRow_frame t die core bank) (by simp [*]) s

end Sys2Proof.Machine
end

