-- ==== Sys2Proof/Laws/Ingest.lean ====
section
/-!
SUPPORT. Laws of the operations of Machine/Ingest.lean: the parts of the state that each may change.
-/
set_option linter.unusedSimpArgs false
set_option linter.unusedTactic false
set_option linter.unreachableTactic false
namespace Sys2Proof.Machine

theorem State.endArrWait_frame (s : State) (i : ℕ) :
    SameBut [.regs, .apps] s (State.endArrWait s i) := by
  unfold State.endArrWait
  try simp only []
  (repeat' split) <;> simp

@[simp] theorem SameBut.endArrWait {l : List Part} {s t : State} (i : ℕ) (hregs : .regs ∈ l) (happs : .apps ∈ l) :
    SameBut l s (State.endArrWait t i) ↔ SameBut l s t :=
  iff_of (State.endArrWait_frame t i) (by simp [*]) s

theorem State.queueArrivals_frame (s : State) (slot : ℕ) (draw : ℕ) :
    SameBut [.regs, .apps, .arrivals] s (State.queueArrivals s slot draw) := by
  unfold State.queueArrivals
  try simp only []
  (repeat' split) <;> simp

@[simp] theorem SameBut.queueArrivals {l : List Part} {s t : State} (slot : ℕ) (draw : ℕ) (hregs : .regs ∈ l) (happs : .apps ∈ l) (harrivals : .arrivals ∈ l) :
    SameBut l s (State.queueArrivals t slot draw) ↔ SameBut l s t :=
  iff_of (State.queueArrivals_frame t slot draw) (by simp [*]) s

theorem State.arrive_frame (s : State) (slot : ℕ) (m : Sample) :
    SameBut [.regs, .apps, .streams, .arrivals] s (State.arrive s slot m) := by
  unfold State.arrive
  try simp only []
  repeat' (first | (split <;> (rename_i heq; obtain ⟨rfl, rfl⟩ := Prod.ext_iff.1 heq; clear heq)) | (split <;> (rename_i heq; simp only [Prod.ext_iff] at heq; obtain ⟨rfl, rfl, rfl, rfl⟩ := heq)) | (split <;> (rename_i heq; simp only [Prod.ext_iff] at heq; obtain ⟨rfl, rfl, rfl⟩ := heq)) | split)
  all_goals (try simp)
  all_goals (repeat' split)
  all_goals first | (simp; done) | (intro p hp; cases p <;> first | rfl | exact fun _ _ => rfl | exact fun _ => rfl | (simp at hp; done)) | (intro p hp; cases p <;> first | (simp at hp; done) | (simp only [Part.same]; (try intro _); (try intro _); first | rfl | (split <;> rfl) | (simp; done) | (split <;> simp; done)))

@[simp] theorem SameBut.arrive {l : List Part} {s t : State} (slot : ℕ) (m : Sample) (hregs : .regs ∈ l) (happs : .apps ∈ l) (hstreams : .streams ∈ l) (harrivals : .arrivals ∈ l) :
    SameBut l s (State.arrive t slot m) ↔ SameBut l s t :=
  iff_of (State.arrive_frame t slot m) (by simp [*]) s

theorem State.cnp_frame (s : State) (i : ℕ) (ce : Bool) :
    SameBut [.qps] s (State.cnp s i ce) := by
  simp [State.cnp]

@[simp] theorem SameBut.cnp {l : List Part} {s t : State} (i : ℕ) (ce : Bool) (hqps : .qps ∈ l) :
    SameBut l s (State.cnp t i ce) ↔ SameBut l s t :=
  iff_of (State.cnp_frame t i ce) (by simp [*]) s

theorem State.sendRead_frame (s : State) (i : ℕ) (r : ReadReq) (soff : ℕ) :
    SameBut [] s (State.sendRead s i r soff) := by
  simp [State.sendRead]

@[simp] theorem SameBut.sendRead {l : List Part} {s t : State} (i : ℕ) (r : ReadReq) (soff : ℕ)  :
    SameBut l s (State.sendRead t i r soff) ↔ SameBut l s t :=
  iff_of (State.sendRead_frame t i r soff) (by simp [*]) s

theorem State.tsPacket_frame (s : State) (slot : ℕ) (pid : ℕ) (pos : ℕ) (t' : TsSt) (d : DecodeSt) (pk : List Byte) :
    SameBut [.regs] s (State.tsPacket s slot pid pos t' d pk).1 := by
  unfold State.tsPacket
  try simp only []
  (repeat' split) <;> simp

@[simp] theorem SameBut.tsPacket {l : List Part} {s t : State} (slot : ℕ) (pid : ℕ) (pos : ℕ) (t' : TsSt) (d : DecodeSt) (pk : List Byte) (hregs : .regs ∈ l) :
    SameBut l s (State.tsPacket t slot pid pos t' d pk).1 ↔ SameBut l s t :=
  iff_of (State.tsPacket_frame t slot pid pos t' d pk) (by simp [*]) s

theorem State.windowGet_frame (s : State) (slot : ℕ) (x : StreamRun) (p : ℕ) (n : ℕ) :
    SameBut [.regs, .mem, .ecc, .net, .cores, .arbs, .tus, .ports, .apps, .stqs, .red, .arrivals, .sb, .pwr, .log, .fix, .scrubQ] s (State.windowGet s slot x p n).1 := by
  unfold State.windowGet
  repeat' first
    | (simp only [↓SameBut.of_self, ↓SameBut.ite_iff, ↓SameBut.forEach_iff, ↓SameBut.foldl_iff, ↓SameBut.foldl_fst_iff, ↓SameBut.fst_ite_iff, ↓SameBut.snd_ite_iff, ↓SameBut.mid_ite_iff, ↓SameBut.with_apps, ↓SameBut.with_arbs, ↓SameBut.with_arrivals, ↓SameBut.with_cores, ↓SameBut.with_ecc, ↓SameBut.with_ecc_net, ↓SameBut.with_fix, ↓SameBut.with_free, ↓SameBut.with_log, ↓SameBut.with_mem, ↓SameBut.with_mem_ecc, ↓SameBut.with_net, ↓SameBut.with_out, ↓SameBut.with_ports, ↓SameBut.with_pwr, ↓SameBut.with_red, ↓SameBut.with_regs, ↓SameBut.with_regs_net_arbs_tus_sb_log_scrubQ_free, ↓SameBut.with_sb, ↓SameBut.with_scrubQ, ↓SameBut.with_stqs, ↓SameBut.with_tus, ↓SameBut.vread, List.mem_cons, true_or, or_true, reduceCtorEq, or_false, false_or, ite_self, implies_true, and_self]; done)
    | refine (SameBut.forEach_iff _ _ (fun _ _ => ?_)).2 ?_
    | refine (SameBut.foldl_iff _ _ (fun _ _ => ?_)).2 ?_
    | refine (SameBut.foldl_fst_iff _ _ (fun _ _ => ?_)).2 ?_
    | simp only [↓SameBut.of_self, ↓SameBut.ite_iff, ↓SameBut.forEach_iff, ↓SameBut.foldl_iff, ↓SameBut.foldl_fst_iff, ↓SameBut.fst_ite_iff, ↓SameBut.snd_ite_iff, ↓SameBut.mid_ite_iff, ↓SameBut.with_apps, ↓SameBut.with_arbs, ↓SameBut.with_arrivals, ↓SameBut.with_cores, ↓SameBut.with_ecc, ↓SameBut.with_ecc_net, ↓SameBut.with_fix, ↓SameBut.with_free, ↓SameBut.with_log, ↓SameBut.with_mem, ↓SameBut.with_mem_ecc, ↓SameBut.with_net, ↓SameBut.with_out, ↓SameBut.with_ports, ↓SameBut.with_pwr, ↓SameBut.with_red, ↓SameBut.with_regs, ↓SameBut.with_regs_net_arbs_tus_sb_log_scrubQ_free, ↓SameBut.with_sb, ↓SameBut.with_scrubQ, ↓SameBut.with_stqs, ↓SameBut.with_tus, ↓SameBut.vread, List.mem_cons, true_or, or_true, reduceCtorEq, or_false, false_or, ite_self, implies_true, and_self]
    | (split <;> (rename_i heq; obtain ⟨rfl, rfl⟩ := Prod.ext_iff.1 heq; clear heq)) | (split <;> (rename_i heq; simp only [Prod.ext_iff] at heq; obtain ⟨rfl, rfl, rfl⟩ := heq)) | (split <;> (rename_i heq; simp only [Prod.ext_iff] at heq; obtain ⟨rfl, rfl, rfl, rfl⟩ := heq))
    | (split <;> (rename_i heq; first | (obtain ⟨-, rfl⟩ := Prod.ext_iff.1 heq) | (obtain ⟨rfl, -⟩ := Prod.ext_iff.1 heq) | (simp only [Prod.ext_iff] at heq; obtain ⟨-, rfl, -⟩ := heq) | skip))
    | split
    | (simp [↓SameBut.of_self, ↓SameBut.ite_iff, ↓SameBut.forEach_iff, ↓SameBut.foldl_iff, ↓SameBut.foldl_fst_iff, ↓SameBut.fst_ite_iff, ↓SameBut.snd_ite_iff, ↓SameBut.mid_ite_iff, ↓SameBut.with_apps, ↓SameBut.with_arbs, ↓SameBut.with_arrivals, ↓SameBut.with_cores, ↓SameBut.with_ecc, ↓SameBut.with_ecc_net, ↓SameBut.with_fix, ↓SameBut.with_free, ↓SameBut.with_log, ↓SameBut.with_mem, ↓SameBut.with_mem_ecc, ↓SameBut.with_net, ↓SameBut.with_out, ↓SameBut.with_ports, ↓SameBut.with_pwr, ↓SameBut.with_red, ↓SameBut.with_regs, ↓SameBut.with_regs_net_arbs_tus_sb_log_scrubQ_free, ↓SameBut.with_sb, ↓SameBut.with_scrubQ, ↓SameBut.with_stqs, ↓SameBut.with_tus, ↓SameBut.vread, List.mem_cons, true_or, or_true, reduceCtorEq, or_false, false_or, ite_self, implies_true, and_self]; done)

@[simp] theorem SameBut.windowGet {l : List Part} {s t : State} (slot : ℕ) (x : StreamRun) (p : ℕ) (n : ℕ) (hregs : .regs ∈ l) (hmem : .mem ∈ l) (hecc : .ecc ∈ l) (hnet : .net ∈ l) (hcores : .cores ∈ l) (harbs : .arbs ∈ l) (htus : .tus ∈ l) (hports : .ports ∈ l) (happs : .apps ∈ l) (hstqs : .stqs ∈ l) (hred : .red ∈ l) (harrivals : .arrivals ∈ l) (hsb : .sb ∈ l) (hpwr : .pwr ∈ l) (hlog : .log ∈ l) (hfix : .fix ∈ l) (hscrubQ : .scrubQ ∈ l) :
    SameBut l s (State.windowGet t slot x p n).1 ↔ SameBut l s t :=
  iff_of (State.windowGet_frame t slot x p n) (by simp [*]) s

theorem State.tsStep_frame (s : State) (slot : ℕ) (pid : ℕ) (base : ℕ) (stop : ℕ) (x : StreamRun) (t' : TsSt) (d : DecodeSt) :
    SameBut [.regs, .mem, .ecc, .net, .cores, .arbs, .tus, .ports, .apps, .stqs, .red, .arrivals, .sb, .pwr, .log, .fix, .scrubQ] s (State.tsStep s slot pid base stop x t' d).1 := by
  unfold State.tsStep
  repeat' first
    | (simp only [↓SameBut.of_self, ↓SameBut.ite_iff, ↓SameBut.forEach_iff, ↓SameBut.foldl_iff, ↓SameBut.foldl_fst_iff, ↓SameBut.fst_ite_iff, ↓SameBut.snd_ite_iff, ↓SameBut.mid_ite_iff, ↓SameBut.with_apps, ↓SameBut.with_arbs, ↓SameBut.with_arrivals, ↓SameBut.with_cores, ↓SameBut.with_ecc, ↓SameBut.with_ecc_net, ↓SameBut.with_fix, ↓SameBut.with_free, ↓SameBut.with_log, ↓SameBut.with_mem, ↓SameBut.with_mem_ecc, ↓SameBut.with_net, ↓SameBut.with_out, ↓SameBut.with_ports, ↓SameBut.with_pwr, ↓SameBut.with_red, ↓SameBut.with_regs, ↓SameBut.with_regs_net_arbs_tus_sb_log_scrubQ_free, ↓SameBut.with_sb, ↓SameBut.with_scrubQ, ↓SameBut.with_stqs, ↓SameBut.with_tus, ↓SameBut.tsPacket, ↓SameBut.windowGet, List.mem_cons, true_or, or_true, reduceCtorEq, or_false, false_or, ite_self, implies_true, and_self]; done)
    | refine (SameBut.forEach_iff _ _ (fun _ _ => ?_)).2 ?_
    | refine (SameBut.foldl_iff _ _ (fun _ _ => ?_)).2 ?_
    | refine (SameBut.foldl_fst_iff _ _ (fun _ _ => ?_)).2 ?_
    | simp only [↓SameBut.of_self, ↓SameBut.ite_iff, ↓SameBut.forEach_iff, ↓SameBut.foldl_iff, ↓SameBut.foldl_fst_iff, ↓SameBut.fst_ite_iff, ↓SameBut.snd_ite_iff, ↓SameBut.mid_ite_iff, ↓SameBut.with_apps, ↓SameBut.with_arbs, ↓SameBut.with_arrivals, ↓SameBut.with_cores, ↓SameBut.with_ecc, ↓SameBut.with_ecc_net, ↓SameBut.with_fix, ↓SameBut.with_free, ↓SameBut.with_log, ↓SameBut.with_mem, ↓SameBut.with_mem_ecc, ↓SameBut.with_net, ↓SameBut.with_out, ↓SameBut.with_ports, ↓SameBut.with_pwr, ↓SameBut.with_red, ↓SameBut.with_regs, ↓SameBut.with_regs_net_arbs_tus_sb_log_scrubQ_free, ↓SameBut.with_sb, ↓SameBut.with_scrubQ, ↓SameBut.with_stqs, ↓SameBut.with_tus, ↓SameBut.tsPacket, ↓SameBut.windowGet, List.mem_cons, true_or, or_true, reduceCtorEq, or_false, false_or, ite_self, implies_true, and_self]
    | (split <;> (rename_i heq; obtain ⟨rfl, rfl⟩ := Prod.ext_iff.1 heq; clear heq)) | (split <;> (rename_i heq; simp only [Prod.ext_iff] at heq; obtain ⟨rfl, rfl, rfl⟩ := heq)) | (split <;> (rename_i heq; simp only [Prod.ext_iff] at heq; obtain ⟨rfl, rfl, rfl, rfl⟩ := heq))
    | (split <;> (rename_i heq; first | (obtain ⟨-, rfl⟩ := Prod.ext_iff.1 heq) | (obtain ⟨rfl, -⟩ := Prod.ext_iff.1 heq) | (simp only [Prod.ext_iff] at heq; obtain ⟨-, rfl, -⟩ := heq) | skip))
    | split
    | (simp [↓SameBut.of_self, ↓SameBut.ite_iff, ↓SameBut.forEach_iff, ↓SameBut.foldl_iff, ↓SameBut.foldl_fst_iff, ↓SameBut.fst_ite_iff, ↓SameBut.snd_ite_iff, ↓SameBut.mid_ite_iff, ↓SameBut.with_apps, ↓SameBut.with_arbs, ↓SameBut.with_arrivals, ↓SameBut.with_cores, ↓SameBut.with_ecc, ↓SameBut.with_ecc_net, ↓SameBut.with_fix, ↓SameBut.with_free, ↓SameBut.with_log, ↓SameBut.with_mem, ↓SameBut.with_mem_ecc, ↓SameBut.with_net, ↓SameBut.with_out, ↓SameBut.with_ports, ↓SameBut.with_pwr, ↓SameBut.with_red, ↓SameBut.with_regs, ↓SameBut.with_regs_net_arbs_tus_sb_log_scrubQ_free, ↓SameBut.with_sb, ↓SameBut.with_scrubQ, ↓SameBut.with_stqs, ↓SameBut.with_tus, ↓SameBut.tsPacket, ↓SameBut.windowGet, List.mem_cons, true_or, or_true, reduceCtorEq, or_false, false_or, ite_self, implies_true, and_self]; done)

@[simp] theorem SameBut.tsStep {l : List Part} {s t : State} (slot : ℕ) (pid : ℕ) (base : ℕ) (stop : ℕ) (x : StreamRun) (t' : TsSt) (d : DecodeSt) (hregs : .regs ∈ l) (hmem : .mem ∈ l) (hecc : .ecc ∈ l) (hnet : .net ∈ l) (hcores : .cores ∈ l) (harbs : .arbs ∈ l) (htus : .tus ∈ l) (hports : .ports ∈ l) (happs : .apps ∈ l) (hstqs : .stqs ∈ l) (hred : .red ∈ l) (harrivals : .arrivals ∈ l) (hsb : .sb ∈ l) (hpwr : .pwr ∈ l) (hlog : .log ∈ l) (hfix : .fix ∈ l) (hscrubQ : .scrubQ ∈ l) :
    SameBut l s (State.tsStep t slot pid base stop x t' d).1 ↔ SameBut l s t :=
  iff_of (State.tsStep_frame t slot pid base stop x t' d) (by simp [*]) s

theorem State.windowPut_frame (s : State) (slot : ℕ) (x : StreamRun) (p : ℕ) (bs : List Byte) :
    SameBut [.regs, .mem, .ecc, .net, .cores, .arbs, .tus, .ports, .apps, .stqs, .red, .arrivals, .sb, .pwr, .log, .fix, .scrubQ] s (State.windowPut s slot x p bs) := by
  unfold State.windowPut
  repeat' first
    | (simp only [↓SameBut.of_self, ↓SameBut.ite_iff, ↓SameBut.forEach_iff, ↓SameBut.foldl_iff, ↓SameBut.foldl_fst_iff, ↓SameBut.fst_ite_iff, ↓SameBut.snd_ite_iff, ↓SameBut.mid_ite_iff, ↓SameBut.with_apps, ↓SameBut.with_arbs, ↓SameBut.with_arrivals, ↓SameBut.with_cores, ↓SameBut.with_ecc, ↓SameBut.with_ecc_net, ↓SameBut.with_fix, ↓SameBut.with_free, ↓SameBut.with_log, ↓SameBut.with_mem, ↓SameBut.with_mem_ecc, ↓SameBut.with_net, ↓SameBut.with_out, ↓SameBut.with_ports, ↓SameBut.with_pwr, ↓SameBut.with_red, ↓SameBut.with_regs, ↓SameBut.with_regs_net_arbs_tus_sb_log_scrubQ_free, ↓SameBut.with_sb, ↓SameBut.with_scrubQ, ↓SameBut.with_stqs, ↓SameBut.with_tus, ↓SameBut.logEvent, ↓SameBut.vwrite, List.mem_cons, true_or, or_true, reduceCtorEq, or_false, false_or, ite_self, implies_true, and_self]; done)
    | refine (SameBut.forEach_iff _ _ (fun _ _ => ?_)).2 ?_
    | refine (SameBut.foldl_iff _ _ (fun _ _ => ?_)).2 ?_
    | refine (SameBut.foldl_fst_iff _ _ (fun _ _ => ?_)).2 ?_
    | simp only [↓SameBut.of_self, ↓SameBut.ite_iff, ↓SameBut.forEach_iff, ↓SameBut.foldl_iff, ↓SameBut.foldl_fst_iff, ↓SameBut.fst_ite_iff, ↓SameBut.snd_ite_iff, ↓SameBut.mid_ite_iff, ↓SameBut.with_apps, ↓SameBut.with_arbs, ↓SameBut.with_arrivals, ↓SameBut.with_cores, ↓SameBut.with_ecc, ↓SameBut.with_ecc_net, ↓SameBut.with_fix, ↓SameBut.with_free, ↓SameBut.with_log, ↓SameBut.with_mem, ↓SameBut.with_mem_ecc, ↓SameBut.with_net, ↓SameBut.with_out, ↓SameBut.with_ports, ↓SameBut.with_pwr, ↓SameBut.with_red, ↓SameBut.with_regs, ↓SameBut.with_regs_net_arbs_tus_sb_log_scrubQ_free, ↓SameBut.with_sb, ↓SameBut.with_scrubQ, ↓SameBut.with_stqs, ↓SameBut.with_tus, ↓SameBut.logEvent, ↓SameBut.vwrite, List.mem_cons, true_or, or_true, reduceCtorEq, or_false, false_or, ite_self, implies_true, and_self]
    | (split <;> (rename_i heq; obtain ⟨rfl, rfl⟩ := Prod.ext_iff.1 heq; clear heq)) | (split <;> (rename_i heq; simp only [Prod.ext_iff] at heq; obtain ⟨rfl, rfl, rfl⟩ := heq)) | (split <;> (rename_i heq; simp only [Prod.ext_iff] at heq; obtain ⟨rfl, rfl, rfl, rfl⟩ := heq))
    | (split <;> (rename_i heq; first | (obtain ⟨-, rfl⟩ := Prod.ext_iff.1 heq) | (obtain ⟨rfl, -⟩ := Prod.ext_iff.1 heq) | (simp only [Prod.ext_iff] at heq; obtain ⟨-, rfl, -⟩ := heq) | skip))
    | split
    | (simp [↓SameBut.of_self, ↓SameBut.ite_iff, ↓SameBut.forEach_iff, ↓SameBut.foldl_iff, ↓SameBut.foldl_fst_iff, ↓SameBut.fst_ite_iff, ↓SameBut.snd_ite_iff, ↓SameBut.mid_ite_iff, ↓SameBut.with_apps, ↓SameBut.with_arbs, ↓SameBut.with_arrivals, ↓SameBut.with_cores, ↓SameBut.with_ecc, ↓SameBut.with_ecc_net, ↓SameBut.with_fix, ↓SameBut.with_free, ↓SameBut.with_log, ↓SameBut.with_mem, ↓SameBut.with_mem_ecc, ↓SameBut.with_net, ↓SameBut.with_out, ↓SameBut.with_ports, ↓SameBut.with_pwr, ↓SameBut.with_red, ↓SameBut.with_regs, ↓SameBut.with_regs_net_arbs_tus_sb_log_scrubQ_free, ↓SameBut.with_sb, ↓SameBut.with_scrubQ, ↓SameBut.with_stqs, ↓SameBut.with_tus, ↓SameBut.logEvent, ↓SameBut.vwrite, List.mem_cons, true_or, or_true, reduceCtorEq, or_false, false_or, ite_self, implies_true, and_self]; done)

@[simp] theorem SameBut.windowPut {l : List Part} {s t : State} (slot : ℕ) (x : StreamRun) (p : ℕ) (bs : List Byte) (hregs : .regs ∈ l) (hmem : .mem ∈ l) (hecc : .ecc ∈ l) (hnet : .net ∈ l) (hcores : .cores ∈ l) (harbs : .arbs ∈ l) (htus : .tus ∈ l) (hports : .ports ∈ l) (happs : .apps ∈ l) (hstqs : .stqs ∈ l) (hred : .red ∈ l) (harrivals : .arrivals ∈ l) (hsb : .sb ∈ l) (hpwr : .pwr ∈ l) (hlog : .log ∈ l) (hfix : .fix ∈ l) (hscrubQ : .scrubQ ∈ l) :
    SameBut l s (State.windowPut t slot x p bs) ↔ SameBut l s t :=
  iff_of (State.windowPut_frame t slot x p bs) (by simp [*]) s

end Sys2Proof.Machine
end

