-- ==== Sys2Proof/Laws/App.lean ====
section
/-!
SUPPORT. Laws of the operations of Machine/App.lean: the parts of the state that each may change.
-/
set_option linter.unusedSimpArgs false
set_option linter.unusedTactic false
set_option linter.unreachableTactic false
namespace Sys2Proof.Machine

theorem State.appTrap_frame (s : State) (i : ℕ) (cause : ℕ) (tval : ℕ) (code : ℕ) :
    SameBut [.regs, .mem, .ecc, .cores, .arbs, .apps, .stqs, .red, .ues, .streams, .qps, .rcv, .sb, .log, .job, .fix, .ck, .kpr] s (State.appTrap s i cause tval code) := by
  unfold State.appTrap
  try simp only []
  simp only [↓SameBut.of_self, ↓SameBut.ite_iff, ↓SameBut.forEach_iff, ↓SameBut.foldl_iff, ↓SameBut.foldl_fst_iff, ↓SameBut.fst_ite_iff, ↓SameBut.snd_ite_iff, ↓SameBut.mid_ite_iff, ↓SameBut.with_apps, ↓SameBut.with_apps_stqs_red_ues_streams_job_fix_ck, ↓SameBut.with_arbs, ↓SameBut.with_ck, ↓SameBut.with_cores, ↓SameBut.with_cores_red_ues_fix, ↓SameBut.with_ecc, ↓SameBut.with_fix, ↓SameBut.with_free, ↓SameBut.with_job, ↓SameBut.with_kpr, ↓SameBut.with_log, ↓SameBut.with_mem, ↓SameBut.with_mem_ecc, ↓SameBut.with_out, ↓SameBut.with_qps, ↓SameBut.with_rcv, ↓SameBut.with_rcv_kpr, ↓SameBut.with_rcv_log, ↓SameBut.with_red, ↓SameBut.with_red_ues, ↓SameBut.with_regs, ↓SameBut.with_sb, ↓SameBut.with_sb_job, ↓SameBut.with_stqs, ↓SameBut.with_streams, ↓SameBut.with_streams_qps, ↓SameBut.with_ues, ↓SameBut.logHalt, ↓SameBut.readWord, ↓SameBut.setApp, ↓SameBut.wr, List.mem_cons, true_or, or_true, reduceCtorEq, or_false, false_or, ite_self, implies_true, and_self]

@[simp] theorem SameBut.appTrap {l : List Part} {s t : State} (i : ℕ) (cause : ℕ) (tval : ℕ) (code : ℕ) (hregs : .regs ∈ l) (hmem : .mem ∈ l) (hecc : .ecc ∈ l) (hcores : .cores ∈ l) (harbs : .arbs ∈ l) (happs : .apps ∈ l) (hstqs : .stqs ∈ l) (hred : .red ∈ l) (hues : .ues ∈ l) (hstreams : .streams ∈ l) (hqps : .qps ∈ l) (hrcv : .rcv ∈ l) (hsb : .sb ∈ l) (hlog : .log ∈ l) (hjob : .job ∈ l) (hfix : .fix ∈ l) (hck : .ck ∈ l) (hkpr : .kpr ∈ l) :
    SameBut l s (State.appTrap t i cause tval code) ↔ SameBut l s t :=
  iff_of (State.appTrap_frame t i cause tval code) (by simp [*]) s

/-- An access of a core's memory system changes what its access to virtual memory does, and what an access fault does. -/
theorem State.appAt_frame {l : List Part} (s : State) (i va need : ℕ) (io : Bool) (f : State → State × VRes)
    (hf : ∀ s, SameBut l s (f s).1) (hl : ∀ p ∈ [Part.regs, .mem, .ecc, .cores, .arbs, .tus, .apps, .stqs, .red, .ues, .streams, .qps, .rcv, .sb, .pwr, .log, .job, .fix, .ck, .kpr],
      p ∈ l) :
    SameBut l s (s.appAt i va need io f) := by
  have trap : ∀ (s : State) cause tval code, SameBut l s (s.appTrap i cause tval code) := fun s cause tval code =>
    (State.appTrap_frame s i cause tval code).widen (fun p hp => hl p (by simp at hp ⊢; tauto))
  have tr := (State.translate_frame s (s.tuOf (s.appAgent i) va) (s.appAgent i).code va need).widen
    (m := l) (fun p hp => hl p (by simp at hp ⊢; tauto))
  unfold State.appAt
  simp only []
  split
  · exact tr.through (trap _ _ _ _)
  · split
    · exact tr
    · split
      · exact tr.through (hf _)
      · exact tr.through ((hf _).through (trap _ _ _ _))

theorem State.lineFill_frame (s : State) (i : ℕ) (va : ℕ) :
    SameBut [.regs, .mem, .ecc, .net, .cores, .arbs, .tus, .ports, .apps, .stqs, .red, .ues, .streams, .qps, .arrivals, .rcv, .sb, .pwr, .log, .job, .fix, .ck, .kpr, .scrubQ] s (State.lineFill s i va) := by
  unfold State.lineFill
  refine State.appAt_frame s i _ _ _ _ (fun s => ?_) (by simp)
  have h := SameBut.fold (l := [.regs, .mem, .ecc, .net, .cores, .arbs, .tus, .ports, .apps, .stqs, .red, .ues, .streams, .qps, .arrivals, .rcv, .sb, .pwr, .log, .job, .fix, .ck, .kpr, .scrubQ]) (π := Prod.fst) (List.range 8) (fun (p : State × VRes) k =>
      if p.2.err ≠ 0 then p
      else
        let (s1, r) := p.1.vread (p.1.appAgent i) (va % 2 ^ 64 / 64 * 64 + 8 * k) 8 permRead
        (s1, { r with data := p.2.data ++ r.data })) (fun p k => by split <;> simp) (s, (⟨0, 0, [], none⟩ : VRes))
  refine h.through ?_
  simp only []
  split <;> simp

@[simp] theorem SameBut.lineFill {l : List Part} {s t : State} (i : ℕ) (va : ℕ) (hregs : .regs ∈ l) (hmem : .mem ∈ l) (hecc : .ecc ∈ l) (hnet : .net ∈ l) (hcores : .cores ∈ l) (harbs : .arbs ∈ l) (htus : .tus ∈ l) (hports : .ports ∈ l) (happs : .apps ∈ l) (hstqs : .stqs ∈ l) (hred : .red ∈ l) (hues : .ues ∈ l) (hstreams : .streams ∈ l) (hqps : .qps ∈ l) (harrivals : .arrivals ∈ l) (hrcv : .rcv ∈ l) (hsb : .sb ∈ l) (hpwr : .pwr ∈ l) (hlog : .log ∈ l) (hjob : .job ∈ l) (hfix : .fix ∈ l) (hck : .ck ∈ l) (hkpr : .kpr ∈ l) (hscrubQ : .scrubQ ∈ l) :
    SameBut l s (State.lineFill t i va) ↔ SameBut l s t :=
  iff_of (State.lineFill_frame t i va) (by simp [*]) s

theorem State.ioAccess_frame (s : State) (i : ℕ) (va : ℕ) (n : ℕ) (data : Option (List Byte)) :
    SameBut [.regs, .mem, .ecc, .net, .cores, .arbs, .tus, .ports, .apps, .stqs, .red, .ues, .streams, .qps, .arrivals, .rcv, .sb, .pwr, .log, .job, .fix, .ck, .kpr, .scrubQ] s (State.ioAccess s i va n data) := by
  unfold State.ioAccess
  refine State.appAt_frame s i _ _ _ _ (fun s => ?_) (by simp)
  repeat' first
    | (simp; done)
    | split

@[simp] theorem SameBut.ioAccess {l : List Part} {s t : State} (i : ℕ) (va : ℕ) (n : ℕ) (data : Option (List Byte)) (hregs : .regs ∈ l) (hmem : .mem ∈ l) (hecc : .ecc ∈ l) (hnet : .net ∈ l) (hcores : .cores ∈ l) (harbs : .arbs ∈ l) (htus : .tus ∈ l) (hports : .ports ∈ l) (happs : .apps ∈ l) (hstqs : .stqs ∈ l) (hred : .red ∈ l) (hues : .ues ∈ l) (hstreams : .streams ∈ l) (hqps : .qps ∈ l) (harrivals : .arrivals ∈ l) (hrcv : .rcv ∈ l) (hsb : .sb ∈ l) (hpwr : .pwr ∈ l) (hlog : .log ∈ l) (hjob : .job ∈ l) (hfix : .fix ∈ l) (hck : .ck ∈ l) (hkpr : .kpr ∈ l) (hscrubQ : .scrubQ ∈ l) :
    SameBut l s (State.ioAccess t i va n data) ↔ SameBut l s t :=
  iff_of (State.ioAccess_frame t i va n data) (by simp [*]) s

theorem State.writeBack_frame (s : State) (i : ℕ) (va : ℕ) (line : List Byte) :
    SameBut [.regs, .mem, .ecc, .net, .cores, .arbs, .tus, .ports, .apps, .stqs, .red, .ues, .streams, .qps, .arrivals, .rcv, .sb, .pwr, .log, .job, .fix, .ck, .kpr, .scrubQ] s (State.writeBack s i va line) := by
  unfold State.writeBack
  refine State.appAt_frame s i _ _ _ _ (fun s => ?_) (by simp)
  exact SameBut.fold (π := Prod.fst) _ _ (fun p k => by split <;> simp) (s, (⟨0, 0, [], none⟩ : VRes))

@[simp] theorem SameBut.writeBack {l : List Part} {s t : State} (i : ℕ) (va : ℕ) (line : List Byte) (hregs : .regs ∈ l) (hmem : .mem ∈ l) (hecc : .ecc ∈ l) (hnet : .net ∈ l) (hcores : .cores ∈ l) (harbs : .arbs ∈ l) (htus : .tus ∈ l) (hports : .ports ∈ l) (happs : .apps ∈ l) (hstqs : .stqs ∈ l) (hred : .red ∈ l) (hues : .ues ∈ l) (hstreams : .streams ∈ l) (hqps : .qps ∈ l) (harrivals : .arrivals ∈ l) (hrcv : .rcv ∈ l) (hsb : .sb ∈ l) (hpwr : .pwr ∈ l) (hlog : .log ∈ l) (hjob : .job ∈ l) (hfix : .fix ∈ l) (hck : .ck ∈ l) (hkpr : .kpr ∈ l) (hscrubQ : .scrubQ ∈ l) :
    SameBut l s (State.writeBack t i va line) ↔ SameBut l s t :=
  iff_of (State.writeBack_frame t i va line) (by simp [*]) s

theorem State.appAccess_frame (s : State) (i : ℕ) (kind : ℕ) (va : ℕ) (bs : List Byte) :
    SameBut [.regs, .mem, .ecc, .net, .cores, .arbs, .tus, .ports, .apps, .stqs, .red, .ues, .streams, .qps, .arrivals, .rcv, .sb, .pwr, .log, .job, .fix, .ck, .kpr, .scrubQ] s (State.appAccess s i kind va bs) := by
  unfold State.appAccess
  repeat' first
    | (simp only [↓SameBut.of_self, ↓SameBut.ite_iff, ↓SameBut.forEach_iff, ↓SameBut.foldl_iff, ↓SameBut.foldl_fst_iff, ↓SameBut.fst_ite_iff, ↓SameBut.snd_ite_iff, ↓SameBut.mid_ite_iff, ↓SameBut.with_apps, ↓SameBut.with_apps_stqs_red_ues_streams_job_fix_ck, ↓SameBut.with_arbs, ↓SameBut.with_arrivals, ↓SameBut.with_ck, ↓SameBut.with_cores, ↓SameBut.with_cores_red_ues_fix, ↓SameBut.with_ecc, ↓SameBut.with_ecc_net, ↓SameBut.with_fix, ↓SameBut.with_free, ↓SameBut.with_job, ↓SameBut.with_kpr, ↓SameBut.with_log, ↓SameBut.with_mem, ↓SameBut.with_mem_ecc, ↓SameBut.with_net, ↓SameBut.with_out, ↓SameBut.with_ports, ↓SameBut.with_pwr, ↓SameBut.with_qps, ↓SameBut.with_rcv, ↓SameBut.with_rcv_kpr, ↓SameBut.with_rcv_log, ↓SameBut.with_red, ↓SameBut.with_red_ues, ↓SameBut.with_regs, ↓SameBut.with_regs_net_arbs_tus_sb_log_scrubQ_free, ↓SameBut.with_sb, ↓SameBut.with_sb_job, ↓SameBut.with_scrubQ, ↓SameBut.with_stqs, ↓SameBut.with_streams, ↓SameBut.with_streams_qps, ↓SameBut.with_tus, ↓SameBut.with_ues, ↓SameBut.ioAccess, ↓SameBut.lineFill, ↓SameBut.writeBack, List.mem_cons, true_or, or_true, reduceCtorEq, or_false, false_or, ite_self, implies_true, and_self]; done)
    | refine (SameBut.forEach_iff _ _ (fun _ _ => ?_)).2 ?_
    | refine (SameBut.foldl_iff _ _ (fun _ _ => ?_)).2 ?_
    | refine (SameBut.foldl_fst_iff _ _ (fun _ _ => ?_)).2 ?_
    | simp only [↓SameBut.of_self, ↓SameBut.ite_iff, ↓SameBut.forEach_iff, ↓SameBut.foldl_iff, ↓SameBut.foldl_fst_iff, ↓SameBut.fst_ite_iff, ↓SameBut.snd_ite_iff, ↓SameBut.mid_ite_iff, ↓SameBut.with_apps, ↓SameBut.with_apps_stqs_red_ues_streams_job_fix_ck, ↓SameBut.with_arbs, ↓SameBut.with_arrivals, ↓SameBut.with_ck, ↓SameBut.with_cores, ↓SameBut.with_cores_red_ues_fix, ↓SameBut.with_ecc, ↓SameBut.with_ecc_net, ↓SameBut.with_fix, ↓SameBut.with_free, ↓SameBut.with_job, ↓SameBut.with_kpr, ↓SameBut.with_log, ↓SameBut.with_mem, ↓SameBut.with_mem_ecc, ↓SameBut.with_net, ↓SameBut.with_out, ↓SameBut.with_ports, ↓SameBut.with_pwr, ↓SameBut.with_qps, ↓SameBut.with_rcv, ↓SameBut.with_rcv_kpr, ↓SameBut.with_rcv_log, ↓SameBut.with_red, ↓SameBut.with_red_ues, ↓SameBut.with_regs, ↓SameBut.with_regs_net_arbs_tus_sb_log_scrubQ_free, ↓SameBut.with_sb, ↓SameBut.with_sb_job, ↓SameBut.with_scrubQ, ↓SameBut.with_stqs, ↓SameBut.with_streams, ↓SameBut.with_streams_qps, ↓SameBut.with_tus, ↓SameBut.with_ues, ↓SameBut.ioAccess, ↓SameBut.lineFill, ↓SameBut.writeBack, List.mem_cons, true_or, or_true, reduceCtorEq, or_false, false_or, ite_self, implies_true, and_self]
    | (split <;> (rename_i heq; obtain ⟨rfl, rfl⟩ := Prod.ext_iff.1 heq; clear heq)) | (split <;> (rename_i heq; simp only [Prod.ext_iff] at heq; obtain ⟨rfl, rfl, rfl⟩ := heq)) | (split <;> (rename_i heq; simp only [Prod.ext_iff] at heq; obtain ⟨rfl, rfl, rfl, rfl⟩ := heq))
    | (split <;> (rename_i heq; first | (obtain ⟨-, rfl⟩ := Prod.ext_iff.1 heq) | (obtain ⟨rfl, -⟩ := Prod.ext_iff.1 heq) | (simp only [Prod.ext_iff] at heq; obtain ⟨-, rfl, -⟩ := heq) | skip))
    | split
    | (simp [↓SameBut.of_self, ↓SameBut.ite_iff, ↓SameBut.forEach_iff, ↓SameBut.foldl_iff, ↓SameBut.foldl_fst_iff, ↓SameBut.fst_ite_iff, ↓SameBut.snd_ite_iff, ↓SameBut.mid_ite_iff, ↓SameBut.with_apps, ↓SameBut.with_apps_stqs_red_ues_streams_job_fix_ck, ↓SameBut.with_arbs, ↓SameBut.with_arrivals, ↓SameBut.with_ck, ↓SameBut.with_cores, ↓SameBut.with_cores_red_ues_fix, ↓SameBut.with_ecc, ↓SameBut.with_ecc_net, ↓SameBut.with_fix, ↓SameBut.with_free, ↓SameBut.with_job, ↓SameBut.with_kpr, ↓SameBut.with_log, ↓SameBut.with_mem, ↓SameBut.with_mem_ecc, ↓SameBut.with_net, ↓SameBut.with_out, ↓SameBut.with_ports, ↓SameBut.with_pwr, ↓SameBut.with_qps, ↓SameBut.with_rcv, ↓SameBut.with_rcv_kpr, ↓SameBut.with_rcv_log, ↓SameBut.with_red, ↓SameBut.with_red_ues, ↓SameBut.with_regs, ↓SameBut.with_regs_net_arbs_tus_sb_log_scrubQ_free, ↓SameBut.with_sb, ↓SameBut.with_sb_job, ↓SameBut.with_scrubQ, ↓SameBut.with_stqs, ↓SameBut.with_streams, ↓SameBut.with_streams_qps, ↓SameBut.with_tus, ↓SameBut.with_ues, ↓SameBut.ioAccess, ↓SameBut.lineFill, ↓SameBut.writeBack, List.mem_cons, true_or, or_true, reduceCtorEq, or_false, false_or, ite_self, implies_true, and_self]; done)

@[simp] theorem SameBut.appAccess {l : List Part} {s t : State} (i : ℕ) (kind : ℕ) (va : ℕ) (bs : List Byte) (hregs : .regs ∈ l) (hmem : .mem ∈ l) (hecc : .ecc ∈ l) (hnet : .net ∈ l) (hcores : .cores ∈ l) (harbs : .arbs ∈ l) (htus : .tus ∈ l) (hports : .ports ∈ l) (happs : .apps ∈ l) (hstqs : .stqs ∈ l) (hred : .red ∈ l) (hues : .ues ∈ l) (hstreams : .streams ∈ l) (hqps : .qps ∈ l) (harrivals : .arrivals ∈ l) (hrcv : .rcv ∈ l) (hsb : .sb ∈ l) (hpwr : .pwr ∈ l) (hlog : .log ∈ l) (hjob : .job ∈ l) (hfix : .fix ∈ l) (hck : .ck ∈ l) (hkpr : .kpr ∈ l) (hscrubQ : .scrubQ ∈ l) :
    SameBut l s (State.appAccess t i kind va bs) ↔ SameBut l s t :=
  iff_of (State.appAccess_frame t i kind va bs) (by simp [*]) s

end Sys2Proof.Machine
end

