-- ==== Sys2Proof/Laws/Darkroom.lean ====
section
/-!
SUPPORT. Laws of the operations of Machine/Darkroom.lean: the parts of the state that each may change.
-/
set_option linter.unusedSimpArgs false
set_option linter.unusedTactic false
set_option linter.unreachableTactic false
namespace Sys2Proof.Machine

theorem State.enrol_frame (s : State) (bs : List Byte) :
    SameBut [.dkr] s (State.enrol s bs).1 := by
  simp [State.enrol]

@[simp] theorem SameBut.enrol {l : List Part} {s t : State} (bs : List Byte) (hdkr : .dkr ∈ l) :
    SameBut l s (State.enrol t bs).1 ↔ SameBut l s t :=
  iff_of (State.enrol_frame t bs) (by simp [*]) s

end Sys2Proof.Machine
end

