-- ==== Sys2Proof/Laws/Fabric.lean ====
section
/-!
SUPPORT. Laws of the operations of Machine/Fabric.lean: the parts of the state that each may change.
-/
set_option linter.unusedSimpArgs false
set_option linter.unusedTactic false
set_option linter.unreachableTactic false
namespace Sys2Proof.Machine

theorem State.protocol_frame (s : State) (p : ℕ) (code : ℕ) (seq : ℕ) :
    SameBut [.regs, .ports, .sb, .log] s (State.protocol s p code seq) := by
  unfold State.protocol
  try simp only []
  (repeat' split) <;> simp

@[simp] theorem SameBut.protocol {l : List Part} {s t : State} (p : ℕ) (code : ℕ) (seq : ℕ) (hregs : .regs ∈ l) (hports : .ports ∈ l) (hsb : .sb ∈ l) (hlog : .log ∈ l) :
    SameBut l s (State.protocol t p code seq) ↔ SameBut l s t :=
  iff_of (State.protocol_frame t p code seq) (by simp [*]) s

theorem State.freeBuf_frame (s : State) (p : ℕ) (vc : ℕ) :
    SameBut [.regs, .ports] s (State.freeBuf s p vc) := by
  simp [State.freeBuf]

@[simp] theorem SameBut.freeBuf {l : List Part} {s t : State} (p : ℕ) (vc : ℕ) (hregs : .regs ∈ l) (hports : .ports ∈ l) :
    SameBut l s (State.freeBuf t p vc) ↔ SameBut l s t :=
  iff_of (State.freeBuf_frame t p vc) (by simp [*]) s

theorem State.errAll_frame (s : State) (f : Flit) (status : ℕ) :
    SameBut [] s (State.errAll s f status) := by
  simp [State.errAll]

@[simp] theorem SameBut.errAll {l : List Part} {s t : State} (f : Flit) (status : ℕ)  :
    SameBut l s (State.errAll t f status) ↔ SameBut l s t :=
  iff_of (State.errAll_frame t f status) (by simp [*]) s

theorem State.arriveHere_frame (s : State) (p : ℕ) (seq : ℕ) (f : Flit) :
    SameBut [.regs, .ports, .awaiting, .sb, .log] s (State.arriveHere s p seq f) := by
  unfold State.arriveHere
  try simp only []
  (repeat' split) <;> simp

@[simp] theorem SameBut.arriveHere {l : List Part} {s t : State} (p : ℕ) (seq : ℕ) (f : Flit) (hregs : .regs ∈ l) (hports : .ports ∈ l) (hawaiting : .awaiting ∈ l) (hsb : .sb ∈ l) (hlog : .log ∈ l) :
    SameBut l s (State.arriveHere t p seq f) ↔ SameBut l s t :=
  iff_of (State.arriveHere_frame t p seq f) (by simp [*]) s

theorem State.routeFlit_frame (s : State) (p : ℕ) (seq : ℕ) (f : Flit) :
    SameBut [.regs, .ports, .awaiting, .sb, .log] s (State.routeFlit s p seq f) := by
  simp [State.routeFlit]

@[simp] theorem SameBut.routeFlit {l : List Part} {s t : State} (p : ℕ) (seq : ℕ) (f : Flit) (hregs : .regs ∈ l) (hports : .ports ∈ l) (hawaiting : .awaiting ∈ l) (hsb : .sb ∈ l) (hlog : .log ∈ l) :
    SameBut l s (State.routeFlit t p seq f) ↔ SameBut l s t :=
  iff_of (State.routeFlit_frame t p seq f) (by simp [*]) s

theorem State.acceptFlit_frame (s : State) (p : ℕ) (f : Flit) :
    SameBut [.regs, .ports, .awaiting, .sb, .log] s (State.acceptFlit s p f) := by
  simp [State.acceptFlit]

@[simp] theorem SameBut.acceptFlit {l : List Part} {s t : State} (p : ℕ) (f : Flit) (hregs : .regs ∈ l) (hports : .ports ∈ l) (hawaiting : .awaiting ∈ l) (hsb : .sb ∈ l) (hlog : .log ∈ l) :
    SameBut l s (State.acceptFlit t p f) ↔ SameBut l s t :=
  iff_of (State.acceptFlit_frame t p f) (by simp [*]) s

theorem State.askNak_frame (s : State) (p : ℕ) :
    SameBut [.regs, .ports] s (State.askNak s p) := by
  simp [State.askNak]

@[simp] theorem SameBut.askNak {l : List Part} {s t : State} (p : ℕ) (hregs : .regs ∈ l) (hports : .ports ∈ l) :
    SameBut l s (State.askNak t p) ↔ SameBut l s t :=
  iff_of (State.askNak_frame t p) (by simp [*]) s

theorem State.countInj_frame (s : State) (p : ℕ) :
    SameBut [.regs] s (State.countInj s p) := by
  simp [State.countInj]

@[simp] theorem SameBut.countInj {l : List Part} {s t : State} (p : ℕ) (hregs : .regs ∈ l) :
    SameBut l s (State.countInj t p) ↔ SameBut l s t :=
  iff_of (State.countInj_frame t p) (by simp [*]) s

theorem State.handFlits_frame (s : State) (p : ℕ) (new : List Flit) :
    SameBut [.regs, .ports, .awaiting] s (State.handFlits s p new) := by
  unfold State.handFlits
  (intro p hp; cases p <;> first | rfl | exact fun _ _ => rfl | exact fun _ => rfl | (simp at hp; done))

@[simp] theorem SameBut.handFlits {l : List Part} {s t : State} (p : ℕ) (new : List Flit) (hregs : .regs ∈ l) (hports : .ports ∈ l) (hawaiting : .awaiting ∈ l) :
    SameBut l s (State.handFlits t p new) ↔ SameBut l s t :=
  iff_of (State.handFlits_frame t p new) (by simp [*]) s

theorem State.lineOut_frame (s : State) (p : ℕ) (bs : List Byte) :
    SameBut [.regs, .ports] s (State.lineOut s p bs) := by
  simp [State.lineOut]

@[simp] theorem SameBut.lineOut {l : List Part} {s t : State} (p : ℕ) (bs : List Byte) (hregs : .regs ∈ l) (hports : .ports ∈ l) :
    SameBut l s (State.lineOut t p bs) ↔ SameBut l s t :=
  iff_of (State.lineOut_frame t p bs) (by simp [*]) s

theorem State.logLinkDown_frame (s : State) (p : ℕ) (cause : ℕ) :
    SameBut [.regs, .mem, .ecc, .cores, .apps, .stqs, .red, .ues, .streams, .qps, .rcv, .sb, .log, .job, .fix, .ck, .kpr] s (State.logLinkDown s p cause) := by
  unfold State.logLinkDown
  try simp only []
  simp only [↓SameBut.of_self, ↓SameBut.ite_iff, ↓SameBut.forEach_iff, ↓SameBut.foldl_iff, ↓SameBut.foldl_fst_iff, ↓SameBut.fst_ite_iff, ↓SameBut.snd_ite_iff, ↓SameBut.mid_ite_iff, ↓SameBut.with_apps, ↓SameBut.with_apps_stqs_red_ues_streams_job_fix_ck, ↓SameBut.with_ck, ↓SameBut.with_cores, ↓SameBut.with_cores_red_ues_fix, ↓SameBut.with_ecc, ↓SameBut.with_fix, ↓SameBut.with_free, ↓SameBut.with_job, ↓SameBut.with_kpr, ↓SameBut.with_log, ↓SameBut.with_mem, ↓SameBut.with_mem_ecc, ↓SameBut.with_out, ↓SameBut.with_qps, ↓SameBut.with_rcv, ↓SameBut.with_rcv_kpr, ↓SameBut.with_rcv_log, ↓SameBut.with_red, ↓SameBut.with_red_ues, ↓SameBut.with_regs, ↓SameBut.with_sb, ↓SameBut.with_sb_job, ↓SameBut.with_stqs, ↓SameBut.with_streams, ↓SameBut.with_streams_qps, ↓SameBut.with_ues, ↓SameBut.logEvent, ↓SameBut.logFault, List.mem_cons, true_or, or_true, reduceCtorEq, or_false, false_or, ite_self, implies_true, and_self]

@[simp] theorem SameBut.logLinkDown {l : List Part} {s t : State} (p : ℕ) (cause : ℕ) (hregs : .regs ∈ l) (hmem : .mem ∈ l) (hecc : .ecc ∈ l) (hcores : .cores ∈ l) (happs : .apps ∈ l) (hstqs : .stqs ∈ l) (hred : .red ∈ l) (hues : .ues ∈ l) (hstreams : .streams ∈ l) (hqps : .qps ∈ l) (hrcv : .rcv ∈ l) (hsb : .sb ∈ l) (hlog : .log ∈ l) (hjob : .job ∈ l) (hfix : .fix ∈ l) (hck : .ck ∈ l) (hkpr : .kpr ∈ l) :
    SameBut l s (State.logLinkDown t p cause) ↔ SameBut l s t :=
  iff_of (State.logLinkDown_frame t p cause) (by simp [*]) s

theorem State.logModuleLost_frame (s : State) (p : ℕ) (m : ℕ) (cause : ℕ) :
    SameBut [.regs, .mem, .ecc, .cores, .apps, .stqs, .red, .ues, .streams, .qps, .rcv, .sb, .log, .job, .fix, .ck, .kpr] s (State.logModuleLost s p m cause) := by
  unfold State.logModuleLost
  try simp only []
  simp only [↓SameBut.of_self, ↓SameBut.ite_iff, ↓SameBut.forEach_iff, ↓SameBut.foldl_iff, ↓SameBut.foldl_fst_iff, ↓SameBut.fst_ite_iff, ↓SameBut.snd_ite_iff, ↓SameBut.mid_ite_iff, ↓SameBut.with_apps, ↓SameBut.with_apps_stqs_red_ues_streams_job_fix_ck, ↓SameBut.with_ck, ↓SameBut.with_cores, ↓SameBut.with_cores_red_ues_fix, ↓SameBut.with_ecc, ↓SameBut.with_fix, ↓SameBut.with_free, ↓SameBut.with_job, ↓SameBut.with_kpr, ↓SameBut.with_log, ↓SameBut.with_mem, ↓SameBut.with_mem_ecc, ↓SameBut.with_out, ↓SameBut.with_qps, ↓SameBut.with_rcv, ↓SameBut.with_rcv_kpr, ↓SameBut.with_rcv_log, ↓SameBut.with_red, ↓SameBut.with_red_ues, ↓SameBut.with_regs, ↓SameBut.with_sb, ↓SameBut.with_sb_job, ↓SameBut.with_stqs, ↓SameBut.with_streams, ↓SameBut.with_streams_qps, ↓SameBut.with_ues, ↓SameBut.logFault, List.mem_cons, true_or, or_true, reduceCtorEq, or_false, false_or, ite_self, implies_true, and_self]

@[simp] theorem SameBut.logModuleLost {l : List Part} {s t : State} (p : ℕ) (m : ℕ) (cause : ℕ) (hregs : .regs ∈ l) (hmem : .mem ∈ l) (hecc : .ecc ∈ l) (hcores : .cores ∈ l) (happs : .apps ∈ l) (hstqs : .stqs ∈ l) (hred : .red ∈ l) (hues : .ues ∈ l) (hstreams : .streams ∈ l) (hqps : .qps ∈ l) (hrcv : .rcv ∈ l) (hsb : .sb ∈ l) (hlog : .log ∈ l) (hjob : .job ∈ l) (hfix : .fix ∈ l) (hck : .ck ∈ l) (hkpr : .kpr ∈ l) :
    SameBut l s (State.logModuleLost t p m cause) ↔ SameBut l s t :=
  iff_of (State.logModuleLost_frame t p m cause) (by simp [*]) s

theorem State.nextSeq_frame (s : State) (p : ℕ) :
    SameBut [.regs, .ports] s (State.nextSeq s p).2 := by
  unfold State.nextSeq
  try simp only []
  (repeat' split) <;> simp

@[simp] theorem SameBut.nextSeq {l : List Part} {s t : State} (p : ℕ) (hregs : .regs ∈ l) (hports : .ports ∈ l) :
    SameBut l s (State.nextSeq t p).2 ↔ SameBut l s t :=
  iff_of (State.nextSeq_frame t p) (by simp [*]) s

theorem State.portDown_frame (s : State) (p : ℕ) (cause : ℕ) :
    SameBut [.regs, .mem, .ecc, .cores, .ports, .apps, .stqs, .red, .ues, .streams, .qps, .rcv, .sb, .log, .job, .fix, .ck, .kpr] s (State.portDown s p cause) := by
  unfold State.portDown
  repeat' first
    | (simp only [↓SameBut.of_self, ↓SameBut.ite_iff, ↓SameBut.forEach_iff, ↓SameBut.foldl_iff, ↓SameBut.foldl_fst_iff, ↓SameBut.fst_ite_iff, ↓SameBut.snd_ite_iff, ↓SameBut.mid_ite_iff, ↓SameBut.with_apps, ↓SameBut.with_apps_stqs_red_ues_streams_job_fix_ck, ↓SameBut.with_ck, ↓SameBut.with_cores, ↓SameBut.with_cores_red_ues_fix, ↓SameBut.with_ecc, ↓SameBut.with_fix, ↓SameBut.with_free, ↓SameBut.with_job, ↓SameBut.with_kpr, ↓SameBut.with_log, ↓SameBut.with_mem, ↓SameBut.with_mem_ecc, ↓SameBut.with_out, ↓SameBut.with_ports, ↓SameBut.with_qps, ↓SameBut.with_rcv, ↓SameBut.with_rcv_kpr, ↓SameBut.with_rcv_log, ↓SameBut.with_red, ↓SameBut.with_red_ues, ↓SameBut.with_regs, ↓SameBut.with_sb, ↓SameBut.with_sb_job, ↓SameBut.with_stqs, ↓SameBut.with_streams, ↓SameBut.with_streams_qps, ↓SameBut.with_ues, ↓SameBut.errAll, ↓SameBut.freeBuf, ↓SameBut.logLinkDown, ↓SameBut.setPort, ↓SameBut.wr, List.mem_cons, true_or, or_true, reduceCtorEq, or_false, false_or, ite_self, implies_true, and_self]; done)
    | refine (SameBut.forEach_iff _ _ (fun _ _ => ?_)).2 ?_
    | refine (SameBut.foldl_iff _ _ (fun _ _ => ?_)).2 ?_
    | refine (SameBut.foldl_fst_iff _ _ (fun _ _ => ?_)).2 ?_
    | simp only [↓SameBut.of_self, ↓SameBut.ite_iff, ↓SameBut.forEach_iff, ↓SameBut.foldl_iff, ↓SameBut.foldl_fst_iff, ↓SameBut.fst_ite_iff, ↓SameBut.snd_ite_iff, ↓SameBut.mid_ite_iff, ↓SameBut.with_apps, ↓SameBut.with_apps_stqs_red_ues_streams_job_fix_ck, ↓SameBut.with_ck, ↓SameBut.with_cores, ↓SameBut.with_cores_red_ues_fix, ↓SameBut.with_ecc, ↓SameBut.with_fix, ↓SameBut.with_free, ↓SameBut.with_job, ↓SameBut.with_kpr, ↓SameBut.with_log, ↓SameBut.with_mem, ↓SameBut.with_mem_ecc, ↓SameBut.with_out, ↓SameBut.with_ports, ↓SameBut.with_qps, ↓SameBut.with_rcv, ↓SameBut.with_rcv_kpr, ↓SameBut.with_rcv_log, ↓SameBut.with_red, ↓SameBut.with_red_ues, ↓SameBut.with_regs, ↓SameBut.with_sb, ↓SameBut.with_sb_job, ↓SameBut.with_stqs, ↓SameBut.with_streams, ↓SameBut.with_streams_qps, ↓SameBut.with_ues, ↓SameBut.errAll, ↓SameBut.freeBuf, ↓SameBut.logLinkDown, ↓SameBut.setPort, ↓SameBut.wr, List.mem_cons, true_or, or_true, reduceCtorEq, or_false, false_or, ite_self, implies_true, and_self]
    | (split <;> (rename_i heq; obtain ⟨rfl, rfl⟩ := Prod.ext_iff.1 heq; clear heq)) | (split <;> (rename_i heq; simp only [Prod.ext_iff] at heq; obtain ⟨rfl, rfl, rfl⟩ := heq)) | (split <;> (rename_i heq; simp only [Prod.ext_iff] at heq; obtain ⟨rfl, rfl, rfl, rfl⟩ := heq))
    | (split <;> (rename_i heq; first | (obtain ⟨-, rfl⟩ := Prod.ext_iff.1 heq) | (obtain ⟨rfl, -⟩ := Prod.ext_iff.1 heq) | (simp only [Prod.ext_iff] at heq; obtain ⟨-, rfl, -⟩ := heq) | skip))
    | split
    | (simp [↓SameBut.of_self, ↓SameBut.ite_iff, ↓SameBut.forEach_iff, ↓SameBut.foldl_iff, ↓SameBut.foldl_fst_iff, ↓SameBut.fst_ite_iff, ↓SameBut.snd_ite_iff, ↓SameBut.mid_ite_iff, ↓SameBut.with_apps, ↓SameBut.with_apps_stqs_red_ues_streams_job_fix_ck, ↓SameBut.with_ck, ↓SameBut.with_cores, ↓SameBut.with_cores_red_ues_fix, ↓SameBut.with_ecc, ↓SameBut.with_fix, ↓SameBut.with_free, ↓SameBut.with_job, ↓SameBut.with_kpr, ↓SameBut.with_log, ↓SameBut.with_mem, ↓SameBut.with_mem_ecc, ↓SameBut.with_out, ↓SameBut.with_ports, ↓SameBut.with_qps, ↓SameBut.with_rcv, ↓SameBut.with_rcv_kpr, ↓SameBut.with_rcv_log, ↓SameBut.with_red, ↓SameBut.with_red_ues, ↓SameBut.with_regs, ↓SameBut.with_sb, ↓SameBut.with_sb_job, ↓SameBut.with_stqs, ↓SameBut.with_streams, ↓SameBut.with_streams_qps, ↓SameBut.with_ues, ↓SameBut.errAll, ↓SameBut.freeBuf, ↓SameBut.logLinkDown, ↓SameBut.setPort, ↓SameBut.wr, List.mem_cons, true_or, or_true, reduceCtorEq, or_false, false_or, ite_self, implies_true, and_self]; done)

@[simp] theorem SameBut.portDown {l : List Part} {s t : State} (p : ℕ) (cause : ℕ) (hregs : .regs ∈ l) (hmem : .mem ∈ l) (hecc : .ecc ∈ l) (hcores : .cores ∈ l) (hports : .ports ∈ l) (happs : .apps ∈ l) (hstqs : .stqs ∈ l) (hred : .red ∈ l) (hues : .ues ∈ l) (hstreams : .streams ∈ l) (hqps : .qps ∈ l) (hrcv : .rcv ∈ l) (hsb : .sb ∈ l) (hlog : .log ∈ l) (hjob : .job ∈ l) (hfix : .fix ∈ l) (hck : .ck ∈ l) (hkpr : .kpr ∈ l) :
    SameBut l s (State.portDown t p cause) ↔ SameBut l s t :=
  iff_of (State.portDown_frame t p cause) (by simp [*]) s

theorem State.portTrained_frame (s : State) (p : ℕ) (rtt : ℕ) :
    SameBut [.regs, .ports] s (State.portTrained s p rtt) := by
  simp [State.portTrained]

@[simp] theorem SameBut.portTrained {l : List Part} {s t : State} (p : ℕ) (rtt : ℕ) (hregs : .regs ∈ l) (hports : .ports ∈ l) :
    SameBut l s (State.portTrained t p rtt) ↔ SameBut l s t :=
  iff_of (State.portTrained_frame t p rtt) (by simp [*]) s

theorem State.retrain_frame (s : State) (p : ℕ) :
    SameBut [.regs, .ports] s (State.retrain s p) := by
  simp [State.retrain]

@[simp] theorem SameBut.retrain {l : List Part} {s t : State} (p : ℕ) (hregs : .regs ∈ l) (hports : .ports ∈ l) :
    SameBut l s (State.retrain t p) ↔ SameBut l s t :=
  iff_of (State.retrain_frame t p) (by simp [*]) s

theorem State.replayFrom_frame (s : State) (p : ℕ) (i : ℕ) :
    SameBut [.regs, .ports] s (State.replayFrom s p i) := by
  unfold State.replayFrom
  try simp only []
  (repeat' split) <;> simp

@[simp] theorem SameBut.replayFrom {l : List Part} {s t : State} (p : ℕ) (i : ℕ) (hregs : .regs ∈ l) (hports : .ports ∈ l) :
    SameBut l s (State.replayFrom t p i) ↔ SameBut l s t :=
  iff_of (State.replayFrom_frame t p i) (by simp [*]) s

theorem State.sendIdle_frame (s : State) (p : ℕ) :
    SameBut [.regs, .ports] s (State.sendIdle s p) := by
  simp [State.sendIdle]

@[simp] theorem SameBut.sendIdle {l : List Part} {s t : State} (p : ℕ) (hregs : .regs ∈ l) (hports : .ports ∈ l) :
    SameBut l s (State.sendIdle t p) ↔ SameBut l s t :=
  iff_of (State.sendIdle_frame t p) (by simp [*]) s

theorem State.sendLink_frame (s : State) (p : ℕ) (beacon : Bool) :
    SameBut [.regs, .ports] s (State.sendLink s p beacon) := by
  simp [State.sendLink]

@[simp] theorem SameBut.sendLink {l : List Part} {s t : State} (p : ℕ) (beacon : Bool) (hregs : .regs ∈ l) (hports : .ports ∈ l) :
    SameBut l s (State.sendLink t p beacon) ↔ SameBut l s t :=
  iff_of (State.sendLink_frame t p beacon) (by simp [*]) s

theorem State.seqOut_frame (s : State) (p : ℕ) (r : ℕ × Flit) :
    SameBut [.regs, .ports] s (State.seqOut s p r) := by
  simp [State.seqOut]

@[simp] theorem SameBut.seqOut {l : List Part} {s t : State} (p : ℕ) (r : ℕ × Flit) (hregs : .regs ∈ l) (hports : .ports ∈ l) :
    SameBut l s (State.seqOut t p r) ↔ SameBut l s t :=
  iff_of (State.seqOut_frame t p r) (by simp [*]) s

theorem State.sendSeq_frame (s : State) (p : ℕ) (r : ℕ × Flit) :
    SameBut [.regs, .ports] s (State.sendSeq s p r) := by
  unfold State.sendSeq
  repeat' first
    | (simp only [↓SameBut.of_self, ↓SameBut.ite_iff, ↓SameBut.forEach_iff, ↓SameBut.foldl_iff, ↓SameBut.foldl_fst_iff, ↓SameBut.fst_ite_iff, ↓SameBut.snd_ite_iff, ↓SameBut.mid_ite_iff, ↓SameBut.with_free, ↓SameBut.with_out, ↓SameBut.with_ports, ↓SameBut.with_regs, ↓SameBut.countInj, ↓SameBut.lineOut, ↓SameBut.nextSeq, ↓SameBut.sendIdle, ↓SameBut.seqOut, ↓SameBut.setPort, List.mem_cons, true_or, or_true, reduceCtorEq, or_false, false_or, ite_self, implies_true, and_self]; done)
    | refine (SameBut.forEach_iff _ _ (fun _ _ => ?_)).2 ?_
    | refine (SameBut.foldl_iff _ _ (fun _ _ => ?_)).2 ?_
    | refine (SameBut.foldl_fst_iff _ _ (fun _ _ => ?_)).2 ?_
    | simp only [↓SameBut.of_self, ↓SameBut.ite_iff, ↓SameBut.forEach_iff, ↓SameBut.foldl_iff, ↓SameBut.foldl_fst_iff, ↓SameBut.fst_ite_iff, ↓SameBut.snd_ite_iff, ↓SameBut.mid_ite_iff, ↓SameBut.with_free, ↓SameBut.with_out, ↓SameBut.with_ports, ↓SameBut.with_regs, ↓SameBut.countInj, ↓SameBut.lineOut, ↓SameBut.nextSeq, ↓SameBut.sendIdle, ↓SameBut.seqOut, ↓SameBut.setPort, List.mem_cons, true_or, or_true, reduceCtorEq, or_false, false_or, ite_self, implies_true, and_self]
    | (split <;> (rename_i heq; obtain ⟨rfl, rfl⟩ := Prod.ext_iff.1 heq; clear heq)) | (split <;> (rename_i heq; simp only [Prod.ext_iff] at heq; obtain ⟨rfl, rfl, rfl⟩ := heq)) | (split <;> (rename_i heq; simp only [Prod.ext_iff] at heq; obtain ⟨rfl, rfl, rfl, rfl⟩ := heq))
    | (split <;> (rename_i heq; first | (obtain ⟨-, rfl⟩ := Prod.ext_iff.1 heq) | (obtain ⟨rfl, -⟩ := Prod.ext_iff.1 heq) | (simp only [Prod.ext_iff] at heq; obtain ⟨-, rfl, -⟩ := heq) | skip))
    | split
    | (simp [↓SameBut.of_self, ↓SameBut.ite_iff, ↓SameBut.forEach_iff, ↓SameBut.foldl_iff, ↓SameBut.foldl_fst_iff, ↓SameBut.fst_ite_iff, ↓SameBut.snd_ite_iff, ↓SameBut.mid_ite_iff, ↓SameBut.with_free, ↓SameBut.with_out, ↓SameBut.with_ports, ↓SameBut.with_regs, ↓SameBut.countInj, ↓SameBut.lineOut, ↓SameBut.nextSeq, ↓SameBut.sendIdle, ↓SameBut.seqOut, ↓SameBut.setPort, List.mem_cons, true_or, or_true, reduceCtorEq, or_false, false_or, ite_self, implies_true, and_self]; done)

@[simp] theorem SameBut.sendSeq {l : List Part} {s t : State} (p : ℕ) (r : ℕ × Flit) (hregs : .regs ∈ l) (hports : .ports ∈ l) :
    SameBut l s (State.sendSeq t p r) ↔ SameBut l s t :=
  iff_of (State.sendSeq_frame t p r) (by simp [*]) s

theorem State.takeBeacon_frame (s : State) (p : ℕ) (b : Beacon) :
    SameBut [.regs, .mem, .ecc, .cores, .ports, .apps, .stqs, .red, .ues, .streams, .qps, .rcv, .sb, .log, .job, .fix, .ck, .kpr] s (State.takeBeacon s p b) := by
  unfold State.takeBeacon
  try simp only []
  simp only [↓SameBut.of_self, ↓SameBut.ite_iff, ↓SameBut.forEach_iff, ↓SameBut.foldl_iff, ↓SameBut.foldl_fst_iff, ↓SameBut.fst_ite_iff, ↓SameBut.snd_ite_iff, ↓SameBut.mid_ite_iff, ↓SameBut.with_apps, ↓SameBut.with_apps_stqs_red_ues_streams_job_fix_ck, ↓SameBut.with_ck, ↓SameBut.with_cores, ↓SameBut.with_cores_red_ues_fix, ↓SameBut.with_ecc, ↓SameBut.with_fix, ↓SameBut.with_free, ↓SameBut.with_job, ↓SameBut.with_kpr, ↓SameBut.with_log, ↓SameBut.with_mem, ↓SameBut.with_mem_ecc, ↓SameBut.with_out, ↓SameBut.with_ports, ↓SameBut.with_qps, ↓SameBut.with_rcv, ↓SameBut.with_rcv_kpr, ↓SameBut.with_rcv_log, ↓SameBut.with_red, ↓SameBut.with_red_ues, ↓SameBut.with_regs, ↓SameBut.with_sb, ↓SameBut.with_sb_job, ↓SameBut.with_stqs, ↓SameBut.with_streams, ↓SameBut.with_streams_qps, ↓SameBut.with_ues, ↓SameBut.logModuleLost, ↓SameBut.setPort, ↓SameBut.wr, ↓SameBut.wrB, List.mem_cons, true_or, or_true, reduceCtorEq, or_false, false_or, ite_self, implies_true, and_self]

@[simp] theorem SameBut.takeBeacon {l : List Part} {s t : State} (p : ℕ) (b : Beacon) (hregs : .regs ∈ l) (hmem : .mem ∈ l) (hecc : .ecc ∈ l) (hcores : .cores ∈ l) (hports : .ports ∈ l) (happs : .apps ∈ l) (hstqs : .stqs ∈ l) (hred : .red ∈ l) (hues : .ues ∈ l) (hstreams : .streams ∈ l) (hqps : .qps ∈ l) (hrcv : .rcv ∈ l) (hsb : .sb ∈ l) (hlog : .log ∈ l) (hjob : .job ∈ l) (hfix : .fix ∈ l) (hck : .ck ∈ l) (hkpr : .kpr ∈ l) :
    SameBut l s (State.takeBeacon t p b) ↔ SameBut l s t :=
  iff_of (State.takeBeacon_frame t p b) (by simp [*]) s

theorem State.takeCredit_frame (s : State) (p : ℕ) (cred : List ℕ) :
    SameBut [.regs, .ports] s (State.takeCredit s p cred) := by
  simp [State.takeCredit]

@[simp] theorem SameBut.takeCredit {l : List Part} {s t : State} (p : ℕ) (cred : List ℕ) (hregs : .regs ∈ l) (hports : .ports ∈ l) :
    SameBut l s (State.takeCredit t p cred) ↔ SameBut l s t :=
  iff_of (State.takeCredit_frame t p cred) (by simp [*]) s

theorem State.takeId_frame (s : State) (p : ℕ) (serial : ℕ) (port : ℕ) (bridge : Bool) :
    SameBut [.regs] s (State.takeId s p serial port bridge) := by
  simp [State.takeId]

@[simp] theorem SameBut.takeId {l : List Part} {s t : State} (p : ℕ) (serial : ℕ) (port : ℕ) (bridge : Bool) (hregs : .regs ∈ l) :
    SameBut l s (State.takeId t p serial port bridge) ↔ SameBut l s t :=
  iff_of (State.takeId_frame t p serial port bridge) (by simp [*]) s

theorem State.takeNak_frame (s : State) (p : ℕ) (expSeq : ℕ) :
    SameBut [.regs, .ports] s (State.takeNak s p expSeq) := by
  unfold State.takeNak
  try simp only []
  (repeat' split) <;> simp

@[simp] theorem SameBut.takeNak {l : List Part} {s t : State} (p : ℕ) (expSeq : ℕ) (hregs : .regs ∈ l) (hports : .ports ∈ l) :
    SameBut l s (State.takeNak t p expSeq) ↔ SameBut l s t :=
  iff_of (State.takeNak_frame t p expSeq) (by simp [*]) s

theorem State.takeLink_frame (s : State) (p : ℕ) (seq : ℕ) (f : Flit) :
    SameBut [.regs, .mem, .ecc, .cores, .ports, .apps, .stqs, .red, .ues, .streams, .qps, .rcv, .sb, .log, .job, .fix, .ck, .kpr] s (State.takeLink s p seq f) := by
  unfold State.takeLink
  try simp only []
  simp only [↓SameBut.of_self, ↓SameBut.ite_iff, ↓SameBut.forEach_iff, ↓SameBut.foldl_iff, ↓SameBut.foldl_fst_iff, ↓SameBut.fst_ite_iff, ↓SameBut.snd_ite_iff, ↓SameBut.mid_ite_iff, ↓SameBut.with_apps, ↓SameBut.with_apps_stqs_red_ues_streams_job_fix_ck, ↓SameBut.with_ck, ↓SameBut.with_cores, ↓SameBut.with_cores_red_ues_fix, ↓SameBut.with_ecc, ↓SameBut.with_fix, ↓SameBut.with_free, ↓SameBut.with_job, ↓SameBut.with_kpr, ↓SameBut.with_log, ↓SameBut.with_mem, ↓SameBut.with_mem_ecc, ↓SameBut.with_out, ↓SameBut.with_ports, ↓SameBut.with_qps, ↓SameBut.with_rcv, ↓SameBut.with_rcv_kpr, ↓SameBut.with_rcv_log, ↓SameBut.with_red, ↓SameBut.with_red_ues, ↓SameBut.with_regs, ↓SameBut.with_sb, ↓SameBut.with_sb_job, ↓SameBut.with_stqs, ↓SameBut.with_streams, ↓SameBut.with_streams_qps, ↓SameBut.with_ues, ↓SameBut.protocol, ↓SameBut.takeBeacon, ↓SameBut.takeCredit, ↓SameBut.takeId, ↓SameBut.takeNak, List.mem_cons, true_or, or_true, reduceCtorEq, or_false, false_or, ite_self, implies_true, and_self]

@[simp] theorem SameBut.takeLink {l : List Part} {s t : State} (p : ℕ) (seq : ℕ) (f : Flit) (hregs : .regs ∈ l) (hmem : .mem ∈ l) (hecc : .ecc ∈ l) (hcores : .cores ∈ l) (hports : .ports ∈ l) (happs : .apps ∈ l) (hstqs : .stqs ∈ l) (hred : .red ∈ l) (hues : .ues ∈ l) (hstreams : .streams ∈ l) (hqps : .qps ∈ l) (hrcv : .rcv ∈ l) (hsb : .sb ∈ l) (hlog : .log ∈ l) (hjob : .job ∈ l) (hfix : .fix ∈ l) (hck : .ck ∈ l) (hkpr : .kpr ∈ l) :
    SameBut l s (State.takeLink t p seq f) ↔ SameBut l s t :=
  iff_of (State.takeLink_frame t p seq f) (by simp [*]) s

end Sys2Proof.Machine
end

