-- ==== Sys2Proof/Laws/Startup.lean ====
section
/-!
SUPPORT. Laws of the operations of Machine/Startup.lean: the parts of the state that each may change.
-/
set_option linter.unusedSimpArgs false
set_option linter.unusedTactic false
set_option linter.unreachableTactic false
namespace Sys2Proof.Machine

theorem State.allAlive_frame (s : State) :
    SameBut [.regs, .ports] s (State.allAlive s) := by
  simp [State.allAlive]

@[simp] theorem SameBut.allAlive {l : List Part} {s t : State}  (hregs : .regs ∈ l) (hports : .ports ∈ l) :
    SameBut l s (State.allAlive t) ↔ SameBut l s t :=
  iff_of (State.allAlive_frame t) (by simp [*]) s

theorem State.bare_frame (s : State) :
    SameBut [.regs, .mem, .ecc, .net, .cores, .gmes, .arbs, .tus, .ports, .routes, .disc, .awaiting, .patrol, .heldTx, .apps, .groups, .stqs, .red, .ues, .streams, .qps, .eths, .arrivals, .auLog, .bridge, .rcv, .dkr, .sb, .tap, .pwr, .pcie, .provId, .fwVer, .log, .job, .fix, .ck, .kpr, .sheets, .scrubQ, .gshift] s (State.bare s) := by
  unfold State.bare
  (intro p hp; cases p <;> first | rfl | exact fun _ _ => rfl | exact fun _ => rfl | (simp at hp; done))

@[simp] theorem SameBut.bare {l : List Part} {s t : State}  (hregs : .regs ∈ l) (hmem : .mem ∈ l) (hecc : .ecc ∈ l) (hnet : .net ∈ l) (hcores : .cores ∈ l) (hgmes : .gmes ∈ l) (harbs : .arbs ∈ l) (htus : .tus ∈ l) (hports : .ports ∈ l) (hroutes : .routes ∈ l) (hdisc : .disc ∈ l) (hawaiting : .awaiting ∈ l) (hpatrol : .patrol ∈ l) (hheldTx : .heldTx ∈ l) (happs : .apps ∈ l) (hgroups : .groups ∈ l) (hstqs : .stqs ∈ l) (hred : .red ∈ l) (hues : .ues ∈ l) (hstreams : .streams ∈ l) (hqps : .qps ∈ l) (heths : .eths ∈ l) (harrivals : .arrivals ∈ l) (hauLog : .auLog ∈ l) (hbridge : .bridge ∈ l) (hrcv : .rcv ∈ l) (hdkr : .dkr ∈ l) (hsb : .sb ∈ l) (htap : .tap ∈ l) (hpwr : .pwr ∈ l) (hpcie : .pcie ∈ l) (hprovId : .provId ∈ l) (hfwVer : .fwVer ∈ l) (hlog : .log ∈ l) (hjob : .job ∈ l) (hfix : .fix ∈ l) (hck : .ck ∈ l) (hkpr : .kpr ∈ l) (hsheets : .sheets ∈ l) (hscrubQ : .scrubQ ∈ l) (hgshift : .gshift ∈ l) :
    SameBut l s (State.bare t) ↔ SameBut l s t :=
  iff_of (State.bare_frame t) (by simp [*]) s

theorem State.moduleReset_frame (s : State) (dram : Bool) :
    SameBut [.regs, .mem, .ecc, .net, .cores, .gmes, .arbs, .tus, .ports, .routes, .disc, .awaiting, .patrol, .heldTx, .apps, .groups, .stqs, .red, .ues, .streams, .qps, .eths, .arrivals, .auLog, .bridge, .rcv, .dkr, .sb, .tap, .pwr, .pcie, .provId, .fwVer, .log, .job, .fix, .ck, .kpr, .sheets, .scrubQ, .gshift] s (State.moduleReset s dram) := by
  unfold State.moduleReset
  (intro p hp; cases p <;> first | rfl | exact fun _ _ => rfl | exact fun _ => rfl | (simp at hp; done))

@[simp] theorem SameBut.moduleReset {l : List Part} {s t : State} (dram : Bool) (hregs : .regs ∈ l) (hmem : .mem ∈ l) (hecc : .ecc ∈ l) (hnet : .net ∈ l) (hcores : .cores ∈ l) (hgmes : .gmes ∈ l) (harbs : .arbs ∈ l) (htus : .tus ∈ l) (hports : .ports ∈ l) (hroutes : .routes ∈ l) (hdisc : .disc ∈ l) (hawaiting : .awaiting ∈ l) (hpatrol : .patrol ∈ l) (hheldTx : .heldTx ∈ l) (happs : .apps ∈ l) (hgroups : .groups ∈ l) (hstqs : .stqs ∈ l) (hred : .red ∈ l) (hues : .ues ∈ l) (hstreams : .streams ∈ l) (hqps : .qps ∈ l) (heths : .eths ∈ l) (harrivals : .arrivals ∈ l) (hauLog : .auLog ∈ l) (hbridge : .bridge ∈ l) (hrcv : .rcv ∈ l) (hdkr : .dkr ∈ l) (hsb : .sb ∈ l) (htap : .tap ∈ l) (hpwr : .pwr ∈ l) (hpcie : .pcie ∈ l) (hprovId : .provId ∈ l) (hfwVer : .fwVer ∈ l) (hlog : .log ∈ l) (hjob : .job ∈ l) (hfix : .fix ∈ l) (hck : .ck ∈ l) (hkpr : .kpr ∈ l) (hsheets : .sheets ∈ l) (hscrubQ : .scrubQ ∈ l) (hgshift : .gshift ∈ l) :
    SameBut l s (State.moduleReset t dram) ↔ SameBut l s t :=
  iff_of (State.moduleReset_frame t dram) (by simp [*]) s

theorem State.coldReset_frame (s : State) :
    SameBut [.regs, .mem, .ecc, .net, .cores, .gmes, .arbs, .tus, .ports, .routes, .disc, .awaiting, .patrol, .heldTx, .apps, .groups, .stqs, .red, .ues, .streams, .qps, .eths, .arrivals, .auLog, .bridge, .rcv, .dkr, .sb, .tap, .pwr, .pcie, .provId, .fwVer, .log, .job, .fix, .ck, .kpr, .sheets, .scrubQ, .gshift] s (State.coldReset s) := by
  simp [State.coldReset]

@[simp] theorem SameBut.coldReset {l : List Part} {s t : State}  (hregs : .regs ∈ l) (hmem : .mem ∈ l) (hecc : .ecc ∈ l) (hnet : .net ∈ l) (hcores : .cores ∈ l) (hgmes : .gmes ∈ l) (harbs : .arbs ∈ l) (htus : .tus ∈ l) (hports : .ports ∈ l) (hroutes : .routes ∈ l) (hdisc : .disc ∈ l) (hawaiting : .awaiting ∈ l) (hpatrol : .patrol ∈ l) (hheldTx : .heldTx ∈ l) (happs : .apps ∈ l) (hgroups : .groups ∈ l) (hstqs : .stqs ∈ l) (hred : .red ∈ l) (hues : .ues ∈ l) (hstreams : .streams ∈ l) (hqps : .qps ∈ l) (heths : .eths ∈ l) (harrivals : .arrivals ∈ l) (hauLog : .auLog ∈ l) (hbridge : .bridge ∈ l) (hrcv : .rcv ∈ l) (hdkr : .dkr ∈ l) (hsb : .sb ∈ l) (htap : .tap ∈ l) (hpwr : .pwr ∈ l) (hpcie : .pcie ∈ l) (hprovId : .provId ∈ l) (hfwVer : .fwVer ∈ l) (hlog : .log ∈ l) (hjob : .job ∈ l) (hfix : .fix ∈ l) (hck : .ck ∈ l) (hkpr : .kpr ∈ l) (hsheets : .sheets ∈ l) (hscrubQ : .scrubQ ∈ l) (hgshift : .gshift ∈ l) :
    SameBut l s (State.coldReset t) ↔ SameBut l s t :=
  iff_of (State.coldReset_frame t) (by simp [*]) s

theorem State.enterRecovery_frame (s : State) :
    SameBut [.regs, .fwVer] s (State.enterRecovery s) := by
  simp [State.enterRecovery]

@[simp] theorem SameBut.enterRecovery {l : List Part} {s t : State}  (hregs : .regs ∈ l) (hfwVer : .fwVer ∈ l) :
    SameBut l s (State.enterRecovery t) ↔ SameBut l s t :=
  iff_of (State.enterRecovery_frame t) (by simp [*]) s

theorem State.ethsTrained_frame (s : State) (eths : List ℕ) :
    SameBut [.regs, .sb, .log] s (State.ethsTrained s eths) := by
  simp [State.ethsTrained]

@[simp] theorem SameBut.ethsTrained {l : List Part} {s t : State} (eths : List ℕ) (hregs : .regs ∈ l) (hsb : .sb ∈ l) (hlog : .log ∈ l) :
    SameBut l s (State.ethsTrained t eths) ↔ SameBut l s t :=
  iff_of (State.ethsTrained_frame t eths) (by simp [*]) s

theorem State.firmwareStage_frame (s : State) :
    SameBut [.regs, .ports, .fwVer] s (State.firmwareStage s) := by
  simp [State.firmwareStage]

@[simp] theorem SameBut.firmwareStage {l : List Part} {s t : State}  (hregs : .regs ∈ l) (hports : .ports ∈ l) (hfwVer : .fwVer ∈ l) :
    SameBut l s (State.firmwareStage t) ↔ SameBut l s t :=
  iff_of (State.firmwareStage_frame t) (by simp [*]) s

theorem State.stageFails_frame (s : State) (c : ℕ) :
    SameBut [.regs, .sb] s (State.stageFails s c) := by
  simp [State.stageFails]

@[simp] theorem SameBut.stageFails {l : List Part} {s t : State} (c : ℕ) (hregs : .regs ∈ l) (hsb : .sb ∈ l) :
    SameBut l s (State.stageFails t c) ↔ SameBut l s t :=
  iff_of (State.stageFails_frame t c) (by simp [*]) s

theorem State.fuseStage_frame (s : State) :
    SameBut [.regs, .dkr, .sb] s (State.fuseStage s) := by
  simp [State.fuseStage]

@[simp] theorem SameBut.fuseStage {l : List Part} {s t : State}  (hregs : .regs ∈ l) (hdkr : .dkr ∈ l) (hsb : .sb ∈ l) :
    SameBut l s (State.fuseStage t) ↔ SameBut l s t :=
  iff_of (State.fuseStage_frame t) (by simp [*]) s

theorem State.toNoJob_frame (s : State) (dirty : Bool) :
    SameBut [.regs, .mem, .ecc, .cores, .apps, .stqs, .red, .ues, .streams, .sb, .log, .job, .fix, .ck] s (State.toNoJob s dirty) := by
  unfold State.toNoJob
  try simp only []
  simp only [↓SameBut.of_self, ↓SameBut.ite_iff, ↓SameBut.forEach_iff, ↓SameBut.foldl_iff, ↓SameBut.foldl_fst_iff, ↓SameBut.fst_ite_iff, ↓SameBut.snd_ite_iff, ↓SameBut.mid_ite_iff, ↓SameBut.with_apps, ↓SameBut.with_apps_stqs_red_ues_streams_job_fix_ck, ↓SameBut.with_ck, ↓SameBut.with_cores, ↓SameBut.with_cores_red_ues_fix, ↓SameBut.with_ecc, ↓SameBut.with_fix, ↓SameBut.with_free, ↓SameBut.with_job, ↓SameBut.with_log, ↓SameBut.with_mem, ↓SameBut.with_mem_ecc, ↓SameBut.with_out, ↓SameBut.with_red, ↓SameBut.with_red_ues, ↓SameBut.with_regs, ↓SameBut.with_sb, ↓SameBut.with_sb_job, ↓SameBut.with_stqs, ↓SameBut.with_streams, ↓SameBut.with_ues, ↓SameBut.mbxReset, ↓SameBut.wr, List.mem_cons, true_or, or_true, reduceCtorEq, or_false, false_or, ite_self, implies_true, and_self]

@[simp] theorem SameBut.toNoJob {l : List Part} {s t : State} (dirty : Bool) (hregs : .regs ∈ l) (hmem : .mem ∈ l) (hecc : .ecc ∈ l) (hcores : .cores ∈ l) (happs : .apps ∈ l) (hstqs : .stqs ∈ l) (hred : .red ∈ l) (hues : .ues ∈ l) (hstreams : .streams ∈ l) (hsb : .sb ∈ l) (hlog : .log ∈ l) (hjob : .job ∈ l) (hfix : .fix ∈ l) (hck : .ck ∈ l) :
    SameBut l s (State.toNoJob t dirty) ↔ SameBut l s t :=
  iff_of (State.toNoJob_frame t dirty) (by simp [*]) s

theorem State.jobAfterReset_frame (s : State) :
    SameBut [.regs, .mem, .ecc, .cores, .apps, .stqs, .red, .ues, .streams, .sb, .log, .job, .fix, .ck] s (State.jobAfterReset s) := by
  unfold State.jobAfterReset
  try simp only []
  simp only [↓SameBut.of_self, ↓SameBut.ite_iff, ↓SameBut.forEach_iff, ↓SameBut.foldl_iff, ↓SameBut.foldl_fst_iff, ↓SameBut.fst_ite_iff, ↓SameBut.snd_ite_iff, ↓SameBut.mid_ite_iff, ↓SameBut.with_apps, ↓SameBut.with_apps_stqs_red_ues_streams_job_fix_ck, ↓SameBut.with_ck, ↓SameBut.with_cores, ↓SameBut.with_cores_red_ues_fix, ↓SameBut.with_ecc, ↓SameBut.with_fix, ↓SameBut.with_free, ↓SameBut.with_job, ↓SameBut.with_log, ↓SameBut.with_mem, ↓SameBut.with_mem_ecc, ↓SameBut.with_out, ↓SameBut.with_red, ↓SameBut.with_red_ues, ↓SameBut.with_regs, ↓SameBut.with_sb, ↓SameBut.with_sb_job, ↓SameBut.with_stqs, ↓SameBut.with_streams, ↓SameBut.with_ues, ↓SameBut.toNoJob, List.mem_cons, true_or, or_true, reduceCtorEq, or_false, false_or, ite_self, implies_true, and_self]

@[simp] theorem SameBut.jobAfterReset {l : List Part} {s t : State}  (hregs : .regs ∈ l) (hmem : .mem ∈ l) (hecc : .ecc ∈ l) (hcores : .cores ∈ l) (happs : .apps ∈ l) (hstqs : .stqs ∈ l) (hred : .red ∈ l) (hues : .ues ∈ l) (hstreams : .streams ∈ l) (hsb : .sb ∈ l) (hlog : .log ∈ l) (hjob : .job ∈ l) (hfix : .fix ∈ l) (hck : .ck ∈ l) :
    SameBut l s (State.jobAfterReset t) ↔ SameBut l s t :=
  iff_of (State.jobAfterReset_frame t) (by simp [*]) s

theorem State.keeperLoses_frame (s : State) :
    SameBut [.regs, .mem, .ecc, .cores, .apps, .dkr, .sb, .tap, .log, .kpr] s (State.keeperLoses s) := by
  unfold State.keeperLoses
  try simp only []
  simp only [↓SameBut.of_self, ↓SameBut.ite_iff, ↓SameBut.forEach_iff, ↓SameBut.foldl_iff, ↓SameBut.foldl_fst_iff, ↓SameBut.fst_ite_iff, ↓SameBut.snd_ite_iff, ↓SameBut.mid_ite_iff, ↓SameBut.with_apps, ↓SameBut.with_cores, ↓SameBut.with_dkr, ↓SameBut.with_dkr_tap_kpr, ↓SameBut.with_ecc, ↓SameBut.with_free, ↓SameBut.with_kpr, ↓SameBut.with_log, ↓SameBut.with_mem, ↓SameBut.with_mem_ecc, ↓SameBut.with_out, ↓SameBut.with_regs, ↓SameBut.with_sb, ↓SameBut.with_tap, ↓SameBut.mbxReset, ↓SameBut.wr, List.mem_cons, true_or, or_true, reduceCtorEq, or_false, false_or, ite_self, implies_true, and_self]

@[simp] theorem SameBut.keeperLoses {l : List Part} {s t : State}  (hregs : .regs ∈ l) (hmem : .mem ∈ l) (hecc : .ecc ∈ l) (hcores : .cores ∈ l) (happs : .apps ∈ l) (hdkr : .dkr ∈ l) (hsb : .sb ∈ l) (htap : .tap ∈ l) (hlog : .log ∈ l) (hkpr : .kpr ∈ l) :
    SameBut l s (State.keeperLoses t) ↔ SameBut l s t :=
  iff_of (State.keeperLoses_frame t) (by simp [*]) s

theorem State.keeperReset_frame (s : State) (cause : ℕ) :
    SameBut [.regs, .mem, .ecc, .cores, .disc, .apps, .stqs, .red, .ues, .streams, .qps, .dkr, .sb, .tap, .pwr, .log, .job, .fix, .ck, .kpr] s (State.keeperReset s cause) := by
  unfold State.keeperReset
  try simp only []
  simp only [↓SameBut.of_self, ↓SameBut.ite_iff, ↓SameBut.forEach_iff, ↓SameBut.foldl_iff, ↓SameBut.foldl_fst_iff, ↓SameBut.fst_ite_iff, ↓SameBut.snd_ite_iff, ↓SameBut.mid_ite_iff, ↓SameBut.with_apps, ↓SameBut.with_apps_stqs_red_ues_streams_job_fix_ck, ↓SameBut.with_ck, ↓SameBut.with_cores, ↓SameBut.with_cores_red_ues_fix, ↓SameBut.with_disc, ↓SameBut.with_disc_sb, ↓SameBut.with_dkr, ↓SameBut.with_dkr_tap_kpr, ↓SameBut.with_ecc, ↓SameBut.with_fix, ↓SameBut.with_free, ↓SameBut.with_job, ↓SameBut.with_kpr, ↓SameBut.with_log, ↓SameBut.with_mem, ↓SameBut.with_mem_ecc, ↓SameBut.with_out, ↓SameBut.with_pwr, ↓SameBut.with_qps, ↓SameBut.with_red, ↓SameBut.with_red_ues, ↓SameBut.with_regs, ↓SameBut.with_sb, ↓SameBut.with_sb_job, ↓SameBut.with_stqs, ↓SameBut.with_streams, ↓SameBut.with_streams_qps, ↓SameBut.with_tap, ↓SameBut.with_ues, ↓SameBut.drainEnded, ↓SameBut.jobAfterReset, ↓SameBut.keeperLoses, ↓SameBut.stopCores, ↓SameBut.stopEngines, ↓SameBut.wakeCause, ↓SameBut.wr, List.mem_cons, true_or, or_true, reduceCtorEq, or_false, false_or, ite_self, implies_true, and_self]

@[simp] theorem SameBut.keeperReset {l : List Part} {s t : State} (cause : ℕ) (hregs : .regs ∈ l) (hmem : .mem ∈ l) (hecc : .ecc ∈ l) (hcores : .cores ∈ l) (hdisc : .disc ∈ l) (happs : .apps ∈ l) (hstqs : .stqs ∈ l) (hred : .red ∈ l) (hues : .ues ∈ l) (hstreams : .streams ∈ l) (hqps : .qps ∈ l) (hdkr : .dkr ∈ l) (hsb : .sb ∈ l) (htap : .tap ∈ l) (hpwr : .pwr ∈ l) (hlog : .log ∈ l) (hjob : .job ∈ l) (hfix : .fix ∈ l) (hck : .ck ∈ l) (hkpr : .kpr ∈ l) :
    SameBut l s (State.keeperReset t cause) ↔ SameBut l s t :=
  iff_of (State.keeperReset_frame t cause) (by simp [*]) s

theorem State.portsTrained_frame (s : State) (ports : List (ℕ × ℕ)) :
    SameBut [.regs, .ports, .sb, .log] s (State.portsTrained s ports) := by
  unfold State.portsTrained
  repeat' first
    | (simp only [↓SameBut.of_self, ↓SameBut.ite_iff, ↓SameBut.forEach_iff, ↓SameBut.foldl_iff, ↓SameBut.foldl_fst_iff, ↓SameBut.fst_ite_iff, ↓SameBut.snd_ite_iff, ↓SameBut.mid_ite_iff, ↓SameBut.with_free, ↓SameBut.with_log, ↓SameBut.with_out, ↓SameBut.with_ports, ↓SameBut.with_regs, ↓SameBut.with_sb, ↓SameBut.logEvent, ↓SameBut.portTrained, List.mem_cons, true_or, or_true, reduceCtorEq, or_false, false_or, ite_self, implies_true, and_self]; done)
    | refine (SameBut.forEach_iff _ _ (fun _ _ => ?_)).2 ?_
    | refine (SameBut.foldl_iff _ _ (fun _ _ => ?_)).2 ?_
    | refine (SameBut.foldl_fst_iff _ _ (fun _ _ => ?_)).2 ?_
    | simp only [↓SameBut.of_self, ↓SameBut.ite_iff, ↓SameBut.forEach_iff, ↓SameBut.foldl_iff, ↓SameBut.foldl_fst_iff, ↓SameBut.fst_ite_iff, ↓SameBut.snd_ite_iff, ↓SameBut.mid_ite_iff, ↓SameBut.with_free, ↓SameBut.with_log, ↓SameBut.with_out, ↓SameBut.with_ports, ↓SameBut.with_regs, ↓SameBut.with_sb, ↓SameBut.logEvent, ↓SameBut.portTrained, List.mem_cons, true_or, or_true, reduceCtorEq, or_false, false_or, ite_self, implies_true, and_self]
    | (split <;> (rename_i heq; obtain ⟨rfl, rfl⟩ := Prod.ext_iff.1 heq; clear heq)) | (split <;> (rename_i heq; simp only [Prod.ext_iff] at heq; obtain ⟨rfl, rfl, rfl⟩ := heq)) | (split <;> (rename_i heq; simp only [Prod.ext_iff] at heq; obtain ⟨rfl, rfl, rfl, rfl⟩ := heq))
    | (split <;> (rename_i heq; first | (obtain ⟨-, rfl⟩ := Prod.ext_iff.1 heq) | (obtain ⟨rfl, -⟩ := Prod.ext_iff.1 heq) | (simp only [Prod.ext_iff] at heq; obtain ⟨-, rfl, -⟩ := heq) | skip))
    | split
    | (simp [↓SameBut.of_self, ↓SameBut.ite_iff, ↓SameBut.forEach_iff, ↓SameBut.foldl_iff, ↓SameBut.foldl_fst_iff, ↓SameBut.fst_ite_iff, ↓SameBut.snd_ite_iff, ↓SameBut.mid_ite_iff, ↓SameBut.with_free, ↓SameBut.with_log, ↓SameBut.with_out, ↓SameBut.with_ports, ↓SameBut.with_regs, ↓SameBut.with_sb, ↓SameBut.logEvent, ↓SameBut.portTrained, List.mem_cons, true_or, or_true, reduceCtorEq, or_false, false_or, ite_self, implies_true, and_self]; done)

@[simp] theorem SameBut.portsTrained {l : List Part} {s t : State} (ports : List (ℕ × ℕ)) (hregs : .regs ∈ l) (hports : .ports ∈ l) (hsb : .sb ∈ l) (hlog : .log ∈ l) :
    SameBut l s (State.portsTrained t ports) ↔ SameBut l s t :=
  iff_of (State.portsTrained_frame t ports) (by simp [*]) s

theorem State.scrub_frame (s : State) :
    SameBut [.regs, .mem, .ecc, .cores, .gmes, .arbs, .tus, .apps, .stqs, .red, .ues, .streams, .qps, .eths, .arrivals, .auLog, .sb, .log, .fix, .ck, .sheets, .scrubQ, .gshift] s (State.scrub s) := by
  unfold State.scrub
  try simp only []
  simp only [↓SameBut.of_self, ↓SameBut.ite_iff, ↓SameBut.forEach_iff, ↓SameBut.foldl_iff, ↓SameBut.foldl_fst_iff, ↓SameBut.fst_ite_iff, ↓SameBut.snd_ite_iff, ↓SameBut.mid_ite_iff, ↓SameBut.with_apps, ↓SameBut.with_arbs, ↓SameBut.with_arrivals, ↓SameBut.with_auLog, ↓SameBut.with_ck, ↓SameBut.with_cores, ↓SameBut.with_cores_red_ues_fix, ↓SameBut.with_ecc, ↓SameBut.with_eths, ↓SameBut.with_fix, ↓SameBut.with_free, ↓SameBut.with_gmes, ↓SameBut.with_gshift, ↓SameBut.with_log, ↓SameBut.with_mem, ↓SameBut.with_mem_ecc, ↓SameBut.with_mem_ecc_cores_gmes_arbs_tus_apps_stqs_red_ues_streams_qps_eths_arrivals_auLog_fix_ck_sheets_scrubQ_gshift, ↓SameBut.with_out, ↓SameBut.with_qps, ↓SameBut.with_red, ↓SameBut.with_red_ues, ↓SameBut.with_regs, ↓SameBut.with_sb, ↓SameBut.with_scrubQ, ↓SameBut.with_sheets, ↓SameBut.with_stqs, ↓SameBut.with_streams, ↓SameBut.with_streams_qps, ↓SameBut.with_tus, ↓SameBut.with_ues, ↓SameBut.mbxReset, ↓SameBut.wr, List.mem_cons, true_or, or_true, reduceCtorEq, or_false, false_or, ite_self, implies_true, and_self]

@[simp] theorem SameBut.scrub {l : List Part} {s t : State}  (hregs : .regs ∈ l) (hmem : .mem ∈ l) (hecc : .ecc ∈ l) (hcores : .cores ∈ l) (hgmes : .gmes ∈ l) (harbs : .arbs ∈ l) (htus : .tus ∈ l) (happs : .apps ∈ l) (hstqs : .stqs ∈ l) (hred : .red ∈ l) (hues : .ues ∈ l) (hstreams : .streams ∈ l) (hqps : .qps ∈ l) (heths : .eths ∈ l) (harrivals : .arrivals ∈ l) (hauLog : .auLog ∈ l) (hsb : .sb ∈ l) (hlog : .log ∈ l) (hfix : .fix ∈ l) (hck : .ck ∈ l) (hsheets : .sheets ∈ l) (hscrubQ : .scrubQ ∈ l) (hgshift : .gshift ∈ l) :
    SameBut l s (State.scrub t) ↔ SameBut l s t :=
  iff_of (State.scrub_frame t) (by simp [*]) s

theorem State.stacksTrained_frame (s : State) (dies : List ℕ) :
    SameBut [.regs] s (State.stacksTrained s dies) := by
  simp [State.stacksTrained]

@[simp] theorem SameBut.stacksTrained {l : List Part} {s t : State} (dies : List ℕ) (hregs : .regs ∈ l) :
    SameBut l s (State.stacksTrained t dies) ↔ SameBut l s t :=
  iff_of (State.stacksTrained_frame t dies) (by simp [*]) s

theorem State.verifyStage_frame (s : State) :
    SameBut [.regs, .dkr, .fwVer] s (State.verifyStage s) := by
  unfold State.verifyStage
  try simp only []
  simp only [↓SameBut.of_self, ↓SameBut.ite_iff, ↓SameBut.forEach_iff, ↓SameBut.foldl_iff, ↓SameBut.foldl_fst_iff, ↓SameBut.fst_ite_iff, ↓SameBut.snd_ite_iff, ↓SameBut.mid_ite_iff, ↓SameBut.with_dkr, ↓SameBut.with_dkr_fwVer, ↓SameBut.with_free, ↓SameBut.with_fwVer, ↓SameBut.with_out, ↓SameBut.with_regs, ↓SameBut.bump, ↓SameBut.enterRecovery, ↓SameBut.wr, ↓SameBut.wrHash, List.mem_cons, true_or, or_true, reduceCtorEq, or_false, false_or, ite_self, implies_true, and_self]

@[simp] theorem SameBut.verifyStage {l : List Part} {s t : State}  (hregs : .regs ∈ l) (hdkr : .dkr ∈ l) (hfwVer : .fwVer ∈ l) :
    SameBut l s (State.verifyStage t) ↔ SameBut l s t :=
  iff_of (State.verifyStage_frame t) (by simp [*]) s

theorem State.warmReset_frame (s : State) :
    SameBut [.regs, .mem, .ecc, .net, .cores, .gmes, .arbs, .tus, .ports, .routes, .disc, .awaiting, .patrol, .heldTx, .apps, .groups, .stqs, .red, .ues, .streams, .qps, .eths, .arrivals, .auLog, .bridge, .rcv, .dkr, .sb, .tap, .pwr, .pcie, .provId, .fwVer, .log, .job, .fix, .ck, .kpr, .sheets, .scrubQ, .gshift] s (State.warmReset s) := by
  unfold State.warmReset
  (intro p hp; cases p <;> first | rfl | exact fun _ _ => rfl | exact fun _ => rfl | (simp at hp; done))

@[simp] theorem SameBut.warmReset {l : List Part} {s t : State}  (hregs : .regs ∈ l) (hmem : .mem ∈ l) (hecc : .ecc ∈ l) (hnet : .net ∈ l) (hcores : .cores ∈ l) (hgmes : .gmes ∈ l) (harbs : .arbs ∈ l) (htus : .tus ∈ l) (hports : .ports ∈ l) (hroutes : .routes ∈ l) (hdisc : .disc ∈ l) (hawaiting : .awaiting ∈ l) (hpatrol : .patrol ∈ l) (hheldTx : .heldTx ∈ l) (happs : .apps ∈ l) (hgroups : .groups ∈ l) (hstqs : .stqs ∈ l) (hred : .red ∈ l) (hues : .ues ∈ l) (hstreams : .streams ∈ l) (hqps : .qps ∈ l) (heths : .eths ∈ l) (harrivals : .arrivals ∈ l) (hauLog : .auLog ∈ l) (hbridge : .bridge ∈ l) (hrcv : .rcv ∈ l) (hdkr : .dkr ∈ l) (hsb : .sb ∈ l) (htap : .tap ∈ l) (hpwr : .pwr ∈ l) (hpcie : .pcie ∈ l) (hprovId : .provId ∈ l) (hfwVer : .fwVer ∈ l) (hlog : .log ∈ l) (hjob : .job ∈ l) (hfix : .fix ∈ l) (hck : .ck ∈ l) (hkpr : .kpr ∈ l) (hsheets : .sheets ∈ l) (hscrubQ : .scrubQ ∈ l) (hgshift : .gshift ∈ l) :
    SameBut l s (State.warmReset t) ↔ SameBut l s t :=
  iff_of (State.warmReset_frame t) (by simp [*]) s

end Sys2Proof.Machine
end

