-- ==== Sys2Proof/Laws/Bridge.lean ====
section
/-!
SUPPORT. Laws of the operations of Machine/Bridge.lean: the parts of the state that each may change.
-/
set_option linter.unusedSimpArgs false
set_option linter.unusedTactic false
set_option linter.unreachableTactic false
namespace Sys2Proof.Machine

theorem State.failInFlight_frame (s : State) (l' : List (ℕ × ℕ)) :
    SameBut [] s (State.failInFlight s l') := by
  simp [State.failInFlight]

@[simp] theorem SameBut.failInFlight {l : List Part} {s t : State} (l' : List (ℕ × ℕ))  :
    SameBut l s (State.failInFlight t l') ↔ SameBut l s t :=
  iff_of (State.failInFlight_frame t l') (by simp [*]) s

theorem State.bridgeReset_frame (s : State) (inFlight : List (ℕ × ℕ)) :
    SameBut [.regs, .mem, .ecc, .cores, .apps, .sb, .pcie, .log] s (State.bridgeReset s inFlight) := by
  unfold State.bridgeReset
  try simp only []
  repeat' (first | (split <;> (rename_i heq; obtain ⟨rfl, rfl⟩ := Prod.ext_iff.1 heq; clear heq)) | (split <;> (rename_i heq; simp only [Prod.ext_iff] at heq; obtain ⟨rfl, rfl, rfl, rfl⟩ := heq)) | (split <;> (rename_i heq; simp only [Prod.ext_iff] at heq; obtain ⟨rfl, rfl, rfl⟩ := heq)) | split)
  all_goals (try simp)
  all_goals (repeat' split)
  all_goals first | (simp; done) | (intro p hp; cases p <;> first | rfl | exact fun _ _ => rfl | exact fun _ => rfl | (simp at hp; done)) | (intro p hp; cases p <;> first | (simp at hp; done) | (simp only [Part.same]; (try intro _); (try intro _); first | rfl | (split <;> rfl) | (simp; done) | (split <;> simp; done)))

@[simp] theorem SameBut.bridgeReset {l : List Part} {s t : State} (inFlight : List (ℕ × ℕ)) (hregs : .regs ∈ l) (hmem : .mem ∈ l) (hecc : .ecc ∈ l) (hcores : .cores ∈ l) (happs : .apps ∈ l) (hsb : .sb ∈ l) (hpcie : .pcie ∈ l) (hlog : .log ∈ l) :
    SameBut l s (State.bridgeReset t inFlight) ↔ SameBut l s t :=
  iff_of (State.bridgeReset_frame t inFlight) (by simp [*]) s

theorem State.hostBad_frame (s : State) :
    SameBut [.regs] s (State.hostBad s) := by
  simp [State.hostBad]

@[simp] theorem SameBut.hostBad {l : List Part} {s t : State}  (hregs : .regs ∈ l) :
    SameBut l s (State.hostBad t) ↔ SameBut l s t :=
  iff_of (State.hostBad_frame t) (by simp [*]) s

theorem State.hostRegs_frame (s : State) (off : ℕ) (data : Option (List Byte)) (n : ℕ) :
    SameBut [.regs, .mem, .ecc, .cores, .arbs, .ports, .apps, .stqs, .sb, .log] s (State.hostRegs s off data n).1 := by
  unfold State.hostRegs
  repeat' first
    | (simp only [↓SameBut.of_self, ↓SameBut.ite_iff, ↓SameBut.forEach_iff, ↓SameBut.foldl_iff, ↓SameBut.foldl_fst_iff, ↓SameBut.fst_ite_iff, ↓SameBut.snd_ite_iff, ↓SameBut.mid_ite_iff, ↓SameBut.with_apps, ↓SameBut.with_arbs, ↓SameBut.with_cores, ↓SameBut.with_ecc, ↓SameBut.with_free, ↓SameBut.with_log, ↓SameBut.with_mem, ↓SameBut.with_mem_ecc, ↓SameBut.with_out, ↓SameBut.with_ports, ↓SameBut.with_regs, ↓SameBut.with_sb, ↓SameBut.with_stqs, ↓SameBut.noSuch, ↓SameBut.readRegs, ↓SameBut.writeRegs, List.mem_cons, true_or, or_true, reduceCtorEq, or_false, false_or, ite_self, implies_true, and_self]; done)
    | refine (SameBut.forEach_iff _ _ (fun _ _ => ?_)).2 ?_
    | refine (SameBut.foldl_iff _ _ (fun _ _ => ?_)).2 ?_
    | refine (SameBut.foldl_fst_iff _ _ (fun _ _ => ?_)).2 ?_
    | simp only [↓SameBut.of_self, ↓SameBut.ite_iff, ↓SameBut.forEach_iff, ↓SameBut.foldl_iff, ↓SameBut.foldl_fst_iff, ↓SameBut.fst_ite_iff, ↓SameBut.snd_ite_iff, ↓SameBut.mid_ite_iff, ↓SameBut.with_apps, ↓SameBut.with_arbs, ↓SameBut.with_cores, ↓SameBut.with_ecc, ↓SameBut.with_free, ↓SameBut.with_log, ↓SameBut.with_mem, ↓SameBut.with_mem_ecc, ↓SameBut.with_out, ↓SameBut.with_ports, ↓SameBut.with_regs, ↓SameBut.with_sb, ↓SameBut.with_stqs, ↓SameBut.noSuch, ↓SameBut.readRegs, ↓SameBut.writeRegs, List.mem_cons, true_or, or_true, reduceCtorEq, or_false, false_or, ite_self, implies_true, and_self]
    | (split <;> (rename_i heq; obtain ⟨rfl, rfl⟩ := Prod.ext_iff.1 heq; clear heq)) | (split <;> (rename_i heq; simp only [Prod.ext_iff] at heq; obtain ⟨rfl, rfl, rfl⟩ := heq)) | (split <;> (rename_i heq; simp only [Prod.ext_iff] at heq; obtain ⟨rfl, rfl, rfl, rfl⟩ := heq))
    | (split <;> (rename_i heq; first | (obtain ⟨-, rfl⟩ := Prod.ext_iff.1 heq) | (obtain ⟨rfl, -⟩ := Prod.ext_iff.1 heq) | (simp only [Prod.ext_iff] at heq; obtain ⟨-, rfl, -⟩ := heq) | skip))
    | split
    | (simp [↓SameBut.of_self, ↓SameBut.ite_iff, ↓SameBut.forEach_iff, ↓SameBut.foldl_iff, ↓SameBut.foldl_fst_iff, ↓SameBut.fst_ite_iff, ↓SameBut.snd_ite_iff, ↓SameBut.mid_ite_iff, ↓SameBut.with_apps, ↓SameBut.with_arbs, ↓SameBut.with_cores, ↓SameBut.with_ecc, ↓SameBut.with_free, ↓SameBut.with_log, ↓SameBut.with_mem, ↓SameBut.with_mem_ecc, ↓SameBut.with_out, ↓SameBut.with_ports, ↓SameBut.with_regs, ↓SameBut.with_sb, ↓SameBut.with_stqs, ↓SameBut.noSuch, ↓SameBut.readRegs, ↓SameBut.writeRegs, List.mem_cons, true_or, or_true, reduceCtorEq, or_false, false_or, ite_self, implies_true, and_self]; done)

@[simp] theorem SameBut.hostRegs {l : List Part} {s t : State} (off : ℕ) (data : Option (List Byte)) (n : ℕ) (hregs : .regs ∈ l) (hmem : .mem ∈ l) (hecc : .ecc ∈ l) (hcores : .cores ∈ l) (harbs : .arbs ∈ l) (hports : .ports ∈ l) (happs : .apps ∈ l) (hstqs : .stqs ∈ l) (hsb : .sb ∈ l) (hlog : .log ∈ l) :
    SameBut l s (State.hostRegs t off data n).1 ↔ SameBut l s t :=
  iff_of (State.hostRegs_frame t off data n) (by simp [*]) s

theorem State.linkGone_frame (s : State) :
    SameBut [.regs] s (State.linkGone s) := by
  simp [State.linkGone]

@[simp] theorem SameBut.linkGone {l : List Part} {s t : State}  (hregs : .regs ∈ l) :
    SameBut l s (State.linkGone t) ↔ SameBut l s t :=
  iff_of (State.linkGone_frame t) (by simp [*]) s

theorem State.msixAccess_frame (s : State) (off : ℕ) (data : Option (List Byte)) (n : ℕ) :
    SameBut [.pcie] s (State.msixAccess s off data n).1 := by
  unfold State.msixAccess
  try simp only []
  (repeat' split) <;> simp

@[simp] theorem SameBut.msixAccess {l : List Part} {s t : State} (off : ℕ) (data : Option (List Byte)) (n : ℕ) (hpcie : .pcie ∈ l) :
    SameBut l s (State.msixAccess t off data n).1 ↔ SameBut l s t :=
  iff_of (State.msixAccess_frame t off data n) (by simp [*]) s

theorem State.writeKrst_frame (s : State) (src : ℕ) (key : ℕ) :
    SameBut [.regs, .mem, .ecc, .cores, .disc, .apps, .stqs, .red, .ues, .streams, .qps, .dkr, .sb, .tap, .pwr, .log, .job, .fix, .ck, .kpr] s (State.writeKrst s src key).1 := by
  unfold State.writeKrst
  try simp only []
  simp only [↓SameBut.of_self, ↓SameBut.ite_iff, ↓SameBut.forEach_iff, ↓SameBut.foldl_iff, ↓SameBut.foldl_fst_iff, ↓SameBut.fst_ite_iff, ↓SameBut.snd_ite_iff, ↓SameBut.mid_ite_iff, ↓SameBut.with_apps, ↓SameBut.with_apps_stqs_red_ues_streams_job_fix_ck, ↓SameBut.with_ck, ↓SameBut.with_cores, ↓SameBut.with_cores_red_ues_fix, ↓SameBut.with_disc, ↓SameBut.with_disc_sb, ↓SameBut.with_dkr, ↓SameBut.with_dkr_tap_kpr, ↓SameBut.with_ecc, ↓SameBut.with_fix, ↓SameBut.with_free, ↓SameBut.with_job, ↓SameBut.with_kpr, ↓SameBut.with_log, ↓SameBut.with_mem, ↓SameBut.with_mem_ecc, ↓SameBut.with_out, ↓SameBut.with_pwr, ↓SameBut.with_qps, ↓SameBut.with_red, ↓SameBut.with_red_ues, ↓SameBut.with_regs, ↓SameBut.with_sb, ↓SameBut.with_sb_job, ↓SameBut.with_stqs, ↓SameBut.with_streams, ↓SameBut.with_streams_qps, ↓SameBut.with_tap, ↓SameBut.with_ues, ↓SameBut.keeperReset, List.mem_cons, true_or, or_true, reduceCtorEq, or_false, false_or, ite_self, implies_true, and_self]

@[simp] theorem SameBut.writeKrst {l : List Part} {s t : State} (src : ℕ) (key : ℕ) (hregs : .regs ∈ l) (hmem : .mem ∈ l) (hecc : .ecc ∈ l) (hcores : .cores ∈ l) (hdisc : .disc ∈ l) (happs : .apps ∈ l) (hstqs : .stqs ∈ l) (hred : .red ∈ l) (hues : .ues ∈ l) (hstreams : .streams ∈ l) (hqps : .qps ∈ l) (hdkr : .dkr ∈ l) (hsb : .sb ∈ l) (htap : .tap ∈ l) (hpwr : .pwr ∈ l) (hlog : .log ∈ l) (hjob : .job ∈ l) (hfix : .fix ∈ l) (hck : .ck ∈ l) (hkpr : .kpr ∈ l) :
    SameBut l s (State.writeKrst t src key).1 ↔ SameBut l s t :=
  iff_of (State.writeKrst_frame t src key) (by simp [*]) s

end Sys2Proof.Machine
end

