-- ==== Sys2Proof/Laws/Descriptor.lean ====
section
/-!
SUPPORT. Laws of the operations of Machine/Descriptor.lean: the parts of the state that each may change.
-/
set_option linter.unusedSimpArgs false
set_option linter.unusedTactic false
set_option linter.unreachableTactic false
namespace Sys2Proof.Machine

theorem State.remoteAcc_frame (s : State) (ag : Agent) (need : ℕ) (remote : ℕ) (va : ℕ) (data : Option (List Byte)) (n : ℕ) :
    SameBut [.regs, .mem, .ecc, .net, .cores, .arbs, .tus, .ports, .apps, .stqs, .red, .arrivals, .sb, .pwr, .log, .fix, .scrubQ] s (State.remoteAcc s ag need remote va data n).1 := by
  unfold State.remoteAcc
  repeat' first
    | (simp only [↓SameBut.of_self, ↓SameBut.ite_iff, ↓SameBut.forEach_iff, ↓SameBut.foldl_iff, ↓SameBut.foldl_fst_iff, ↓SameBut.fst_ite_iff, ↓SameBut.snd_ite_iff, ↓SameBut.mid_ite_iff, ↓SameBut.with_apps, ↓SameBut.with_arbs, ↓SameBut.with_arrivals, ↓SameBut.with_cores, ↓SameBut.with_ecc, ↓SameBut.with_ecc_net, ↓SameBut.with_fix, ↓SameBut.with_free, ↓SameBut.with_log, ↓SameBut.with_mem, ↓SameBut.with_mem_ecc, ↓SameBut.with_net, ↓SameBut.with_out, ↓SameBut.with_ports, ↓SameBut.with_pwr, ↓SameBut.with_red, ↓SameBut.with_regs, ↓SameBut.with_regs_net_arbs_tus_sb_log_scrubQ_free, ↓SameBut.with_sb, ↓SameBut.with_scrubQ, ↓SameBut.with_stqs, ↓SameBut.with_tus, ↓SameBut.access, ↓SameBut.translate, List.mem_cons, true_or, or_true, reduceCtorEq, or_false, false_or, ite_self, implies_true, and_self]; done)
    | refine (SameBut.forEach_iff _ _ (fun _ _ => ?_)).2 ?_
    | refine (SameBut.foldl_iff _ _ (fun _ _ => ?_)).2 ?_
    | refine (SameBut.foldl_fst_iff _ _ (fun _ _ => ?_)).2 ?_
    | simp only [↓SameBut.of_self, ↓SameBut.ite_iff, ↓SameBut.forEach_iff, ↓SameBut.foldl_iff, ↓SameBut.foldl_fst_iff, ↓SameBut.fst_ite_iff, ↓SameBut.snd_ite_iff, ↓SameBut.mid_ite_iff, ↓SameBut.with_apps, ↓SameBut.with_arbs, ↓SameBut.with_arrivals, ↓SameBut.with_cores, ↓SameBut.with_ecc, ↓SameBut.with_ecc_net, ↓SameBut.with_fix, ↓SameBut.with_free, ↓SameBut.with_log, ↓SameBut.with_mem, ↓SameBut.with_mem_ecc, ↓SameBut.with_net, ↓SameBut.with_out, ↓SameBut.with_ports, ↓SameBut.with_pwr, ↓SameBut.with_red, ↓SameBut.with_regs, ↓SameBut.with_regs_net_arbs_tus_sb_log_scrubQ_free, ↓SameBut.with_sb, ↓SameBut.with_scrubQ, ↓SameBut.with_stqs, ↓SameBut.with_tus, ↓SameBut.access, ↓SameBut.translate, List.mem_cons, true_or, or_true, reduceCtorEq, or_false, false_or, ite_self, implies_true, and_self]
    | (split <;> (rename_i heq; obtain ⟨rfl, rfl⟩ := Prod.ext_iff.1 heq; clear heq)) | (split <;> (rename_i heq; simp only [Prod.ext_iff] at heq; obtain ⟨rfl, rfl, rfl⟩ := heq)) | (split <;> (rename_i heq; simp only [Prod.ext_iff] at heq; obtain ⟨rfl, rfl, rfl, rfl⟩ := heq))
    | (split <;> (rename_i heq; first | (obtain ⟨-, rfl⟩ := Prod.ext_iff.1 heq) | (obtain ⟨rfl, -⟩ := Prod.ext_iff.1 heq) | (simp only [Prod.ext_iff] at heq; obtain ⟨-, rfl, -⟩ := heq) | skip))
    | split
    | (simp [↓SameBut.of_self, ↓SameBut.ite_iff, ↓SameBut.forEach_iff, ↓SameBut.foldl_iff, ↓SameBut.foldl_fst_iff, ↓SameBut.fst_ite_iff, ↓SameBut.snd_ite_iff, ↓SameBut.mid_ite_iff, ↓SameBut.with_apps, ↓SameBut.with_arbs, ↓SameBut.with_arrivals, ↓SameBut.with_cores, ↓SameBut.with_ecc, ↓SameBut.with_ecc_net, ↓SameBut.with_fix, ↓SameBut.with_free, ↓SameBut.with_log, ↓SameBut.with_mem, ↓SameBut.with_mem_ecc, ↓SameBut.with_net, ↓SameBut.with_out, ↓SameBut.with_ports, ↓SameBut.with_pwr, ↓SameBut.with_red, ↓SameBut.with_regs, ↓SameBut.with_regs_net_arbs_tus_sb_log_scrubQ_free, ↓SameBut.with_sb, ↓SameBut.with_scrubQ, ↓SameBut.with_stqs, ↓SameBut.with_tus, ↓SameBut.access, ↓SameBut.translate, List.mem_cons, true_or, or_true, reduceCtorEq, or_false, false_or, ite_self, implies_true, and_self]; done)

@[simp] theorem SameBut.remoteAcc {l : List Part} {s t : State} (ag : Agent) (need : ℕ) (remote : ℕ) (va : ℕ) (data : Option (List Byte)) (n : ℕ) (hregs : .regs ∈ l) (hmem : .mem ∈ l) (hecc : .ecc ∈ l) (hnet : .net ∈ l) (hcores : .cores ∈ l) (harbs : .arbs ∈ l) (htus : .tus ∈ l) (hports : .ports ∈ l) (happs : .apps ∈ l) (hstqs : .stqs ∈ l) (hred : .red ∈ l) (harrivals : .arrivals ∈ l) (hsb : .sb ∈ l) (hpwr : .pwr ∈ l) (hlog : .log ∈ l) (hfix : .fix ∈ l) (hscrubQ : .scrubQ ∈ l) :
    SameBut l s (State.remoteAcc t ag need remote va data n).1 ↔ SameBut l s t :=
  iff_of (State.remoteAcc_frame t ag need remote va data n) (by simp [*]) s

theorem State.readRuns_frame (s : State) (ag : Agent) (need : ℕ) (remote : ℕ) (accs : List (ℕ × ℕ)) :
    SameBut [.regs, .mem, .ecc, .net, .cores, .arbs, .tus, .ports, .apps, .stqs, .red, .arrivals, .sb, .pwr, .log, .fix, .scrubQ] s (State.readRuns s ag need remote accs).1 := by
  unfold State.readRuns
  repeat' first
    | (simp only [↓SameBut.of_self, ↓SameBut.ite_iff, ↓SameBut.forEach_iff, ↓SameBut.foldl_iff, ↓SameBut.foldl_fst_iff, ↓SameBut.fst_ite_iff, ↓SameBut.snd_ite_iff, ↓SameBut.mid_ite_iff, ↓SameBut.with_apps, ↓SameBut.with_arbs, ↓SameBut.with_arrivals, ↓SameBut.with_cores, ↓SameBut.with_ecc, ↓SameBut.with_ecc_net, ↓SameBut.with_fix, ↓SameBut.with_free, ↓SameBut.with_log, ↓SameBut.with_mem, ↓SameBut.with_mem_ecc, ↓SameBut.with_net, ↓SameBut.with_out, ↓SameBut.with_ports, ↓SameBut.with_pwr, ↓SameBut.with_red, ↓SameBut.with_regs, ↓SameBut.with_regs_net_arbs_tus_sb_log_scrubQ_free, ↓SameBut.with_sb, ↓SameBut.with_scrubQ, ↓SameBut.with_stqs, ↓SameBut.with_tus, ↓SameBut.remoteAcc, List.mem_cons, true_or, or_true, reduceCtorEq, or_false, false_or, ite_self, implies_true, and_self]; done)
    | refine (SameBut.forEach_iff _ _ (fun _ _ => ?_)).2 ?_
    | refine (SameBut.foldl_iff _ _ (fun _ _ => ?_)).2 ?_
    | refine (SameBut.foldl_fst_iff _ _ (fun _ _ => ?_)).2 ?_
    | simp only [↓SameBut.of_self, ↓SameBut.ite_iff, ↓SameBut.forEach_iff, ↓SameBut.foldl_iff, ↓SameBut.foldl_fst_iff, ↓SameBut.fst_ite_iff, ↓SameBut.snd_ite_iff, ↓SameBut.mid_ite_iff, ↓SameBut.with_apps, ↓SameBut.with_arbs, ↓SameBut.with_arrivals, ↓SameBut.with_cores, ↓SameBut.with_ecc, ↓SameBut.with_ecc_net, ↓SameBut.with_fix, ↓SameBut.with_free, ↓SameBut.with_log, ↓SameBut.with_mem, ↓SameBut.with_mem_ecc, ↓SameBut.with_net, ↓SameBut.with_out, ↓SameBut.with_ports, ↓SameBut.with_pwr, ↓SameBut.with_red, ↓SameBut.with_regs, ↓SameBut.with_regs_net_arbs_tus_sb_log_scrubQ_free, ↓SameBut.with_sb, ↓SameBut.with_scrubQ, ↓SameBut.with_stqs, ↓SameBut.with_tus, ↓SameBut.remoteAcc, List.mem_cons, true_or, or_true, reduceCtorEq, or_false, false_or, ite_self, implies_true, and_self]
    | (split <;> (rename_i heq; obtain ⟨rfl, rfl⟩ := Prod.ext_iff.1 heq; clear heq)) | (split <;> (rename_i heq; simp only [Prod.ext_iff] at heq; obtain ⟨rfl, rfl, rfl⟩ := heq)) | (split <;> (rename_i heq; simp only [Prod.ext_iff] at heq; obtain ⟨rfl, rfl, rfl, rfl⟩ := heq))
    | (split <;> (rename_i heq; first | (obtain ⟨-, rfl⟩ := Prod.ext_iff.1 heq) | (obtain ⟨rfl, -⟩ := Prod.ext_iff.1 heq) | (simp only [Prod.ext_iff] at heq; obtain ⟨-, rfl, -⟩ := heq) | skip))
    | split
    | (simp [↓SameBut.of_self, ↓SameBut.ite_iff, ↓SameBut.forEach_iff, ↓SameBut.foldl_iff, ↓SameBut.foldl_fst_iff, ↓SameBut.fst_ite_iff, ↓SameBut.snd_ite_iff, ↓SameBut.mid_ite_iff, ↓SameBut.with_apps, ↓SameBut.with_arbs, ↓SameBut.with_arrivals, ↓SameBut.with_cores, ↓SameBut.with_ecc, ↓SameBut.with_ecc_net, ↓SameBut.with_fix, ↓SameBut.with_free, ↓SameBut.with_log, ↓SameBut.with_mem, ↓SameBut.with_mem_ecc, ↓SameBut.with_net, ↓SameBut.with_out, ↓SameBut.with_ports, ↓SameBut.with_pwr, ↓SameBut.with_red, ↓SameBut.with_regs, ↓SameBut.with_regs_net_arbs_tus_sb_log_scrubQ_free, ↓SameBut.with_sb, ↓SameBut.with_scrubQ, ↓SameBut.with_stqs, ↓SameBut.with_tus, ↓SameBut.remoteAcc, List.mem_cons, true_or, or_true, reduceCtorEq, or_false, false_or, ite_self, implies_true, and_self]; done)

@[simp] theorem SameBut.readRuns {l : List Part} {s t : State} (ag : Agent) (need : ℕ) (remote : ℕ) (accs : List (ℕ × ℕ)) (hregs : .regs ∈ l) (hmem : .mem ∈ l) (hecc : .ecc ∈ l) (hnet : .net ∈ l) (hcores : .cores ∈ l) (harbs : .arbs ∈ l) (htus : .tus ∈ l) (hports : .ports ∈ l) (happs : .apps ∈ l) (hstqs : .stqs ∈ l) (hred : .red ∈ l) (harrivals : .arrivals ∈ l) (hsb : .sb ∈ l) (hpwr : .pwr ∈ l) (hlog : .log ∈ l) (hfix : .fix ∈ l) (hscrubQ : .scrubQ ∈ l) :
    SameBut l s (State.readRuns t ag need remote accs).1 ↔ SameBut l s t :=
  iff_of (State.readRuns_frame t ag need remote accs) (by simp [*]) s

theorem State.keepSources_frame (s : State) (die : ℕ) (core : ℕ) :
    SameBut [.regs, .ecc, .cores, .tus, .sb, .pwr, .log] s (State.keepSources s die core) := by
  simp [State.keepSources]

@[simp] theorem SameBut.keepSources {l : List Part} {s t : State} (die : ℕ) (core : ℕ) (hregs : .regs ∈ l) (hecc : .ecc ∈ l) (hcores : .cores ∈ l) (htus : .tus ∈ l) (hsb : .sb ∈ l) (hpwr : .pwr ∈ l) (hlog : .log ∈ l) :
    SameBut l s (State.keepSources t die core) ↔ SameBut l s t :=
  iff_of (State.keepSources_frame t die core) (by simp [*]) s

theorem State.readAll_frame (s : State) (ag : Agent) (need : ℕ) (remote : ℕ) (first : ℕ) (accs : List (ℕ × ℕ)) :
    SameBut [.regs, .mem, .ecc, .net, .cores, .arbs, .tus, .ports, .apps, .stqs, .red, .arrivals, .sb, .pwr, .log, .fix, .scrubQ] s (State.readAll s ag need remote first accs).1 := by
  unfold State.readAll
  repeat' first
    | (simp only [↓SameBut.of_self, ↓SameBut.ite_iff, ↓SameBut.forEach_iff, ↓SameBut.foldl_iff, ↓SameBut.foldl_fst_iff, ↓SameBut.fst_ite_iff, ↓SameBut.snd_ite_iff, ↓SameBut.mid_ite_iff, ↓SameBut.with_apps, ↓SameBut.with_arbs, ↓SameBut.with_arrivals, ↓SameBut.with_cores, ↓SameBut.with_ecc, ↓SameBut.with_ecc_net, ↓SameBut.with_fix, ↓SameBut.with_free, ↓SameBut.with_log, ↓SameBut.with_mem, ↓SameBut.with_mem_ecc, ↓SameBut.with_net, ↓SameBut.with_out, ↓SameBut.with_ports, ↓SameBut.with_pwr, ↓SameBut.with_red, ↓SameBut.with_regs, ↓SameBut.with_regs_net_arbs_tus_sb_log_scrubQ_free, ↓SameBut.with_sb, ↓SameBut.with_scrubQ, ↓SameBut.with_stqs, ↓SameBut.with_tus, ↓SameBut.readRuns, List.mem_cons, true_or, or_true, reduceCtorEq, or_false, false_or, ite_self, implies_true, and_self]; done)
    | refine (SameBut.forEach_iff _ _ (fun _ _ => ?_)).2 ?_
    | refine (SameBut.foldl_iff _ _ (fun _ _ => ?_)).2 ?_
    | refine (SameBut.foldl_fst_iff _ _ (fun _ _ => ?_)).2 ?_
    | simp only [↓SameBut.of_self, ↓SameBut.ite_iff, ↓SameBut.forEach_iff, ↓SameBut.foldl_iff, ↓SameBut.foldl_fst_iff, ↓SameBut.fst_ite_iff, ↓SameBut.snd_ite_iff, ↓SameBut.mid_ite_iff, ↓SameBut.with_apps, ↓SameBut.with_arbs, ↓SameBut.with_arrivals, ↓SameBut.with_cores, ↓SameBut.with_ecc, ↓SameBut.with_ecc_net, ↓SameBut.with_fix, ↓SameBut.with_free, ↓SameBut.with_log, ↓SameBut.with_mem, ↓SameBut.with_mem_ecc, ↓SameBut.with_net, ↓SameBut.with_out, ↓SameBut.with_ports, ↓SameBut.with_pwr, ↓SameBut.with_red, ↓SameBut.with_regs, ↓SameBut.with_regs_net_arbs_tus_sb_log_scrubQ_free, ↓SameBut.with_sb, ↓SameBut.with_scrubQ, ↓SameBut.with_stqs, ↓SameBut.with_tus, ↓SameBut.readRuns, List.mem_cons, true_or, or_true, reduceCtorEq, or_false, false_or, ite_self, implies_true, and_self]
    | (split <;> (rename_i heq; obtain ⟨rfl, rfl⟩ := Prod.ext_iff.1 heq; clear heq)) | (split <;> (rename_i heq; simp only [Prod.ext_iff] at heq; obtain ⟨rfl, rfl, rfl⟩ := heq)) | (split <;> (rename_i heq; simp only [Prod.ext_iff] at heq; obtain ⟨rfl, rfl, rfl, rfl⟩ := heq))
    | (split <;> (rename_i heq; first | (obtain ⟨-, rfl⟩ := Prod.ext_iff.1 heq) | (obtain ⟨rfl, -⟩ := Prod.ext_iff.1 heq) | (simp only [Prod.ext_iff] at heq; obtain ⟨-, rfl, -⟩ := heq) | skip))
    | split
    | (simp [↓SameBut.of_self, ↓SameBut.ite_iff, ↓SameBut.forEach_iff, ↓SameBut.foldl_iff, ↓SameBut.foldl_fst_iff, ↓SameBut.fst_ite_iff, ↓SameBut.snd_ite_iff, ↓SameBut.mid_ite_iff, ↓SameBut.with_apps, ↓SameBut.with_arbs, ↓SameBut.with_arrivals, ↓SameBut.with_cores, ↓SameBut.with_ecc, ↓SameBut.with_ecc_net, ↓SameBut.with_fix, ↓SameBut.with_free, ↓SameBut.with_log, ↓SameBut.with_mem, ↓SameBut.with_mem_ecc, ↓SameBut.with_net, ↓SameBut.with_out, ↓SameBut.with_ports, ↓SameBut.with_pwr, ↓SameBut.with_red, ↓SameBut.with_regs, ↓SameBut.with_regs_net_arbs_tus_sb_log_scrubQ_free, ↓SameBut.with_sb, ↓SameBut.with_scrubQ, ↓SameBut.with_stqs, ↓SameBut.with_tus, ↓SameBut.readRuns, List.mem_cons, true_or, or_true, reduceCtorEq, or_false, false_or, ite_self, implies_true, and_self]; done)

@[simp] theorem SameBut.readAll {l : List Part} {s t : State} (ag : Agent) (need : ℕ) (remote : ℕ) (first : ℕ) (accs : List (ℕ × ℕ)) (hregs : .regs ∈ l) (hmem : .mem ∈ l) (hecc : .ecc ∈ l) (hnet : .net ∈ l) (hcores : .cores ∈ l) (harbs : .arbs ∈ l) (htus : .tus ∈ l) (hports : .ports ∈ l) (happs : .apps ∈ l) (hstqs : .stqs ∈ l) (hred : .red ∈ l) (harrivals : .arrivals ∈ l) (hsb : .sb ∈ l) (hpwr : .pwr ∈ l) (hlog : .log ∈ l) (hfix : .fix ∈ l) (hscrubQ : .scrubQ ∈ l) :
    SameBut l s (State.readAll t ag need remote first accs).1 ↔ SameBut l s t :=
  iff_of (State.readAll_frame t ag need remote first accs) (by simp [*]) s

theorem State.loadData_frame (s : State) (ag : Agent) (d : ℕ) (remote : ℕ) (first : ℕ) :
    SameBut [.regs, .mem, .ecc, .net, .cores, .arbs, .tus, .ports, .apps, .stqs, .red, .arrivals, .sb, .pwr, .log, .fix, .scrubQ] s (State.loadData s ag d remote first).1 := by
  unfold State.loadData
  repeat' first
    | (simp only [↓SameBut.of_self, ↓SameBut.ite_iff, ↓SameBut.forEach_iff, ↓SameBut.foldl_iff, ↓SameBut.foldl_fst_iff, ↓SameBut.fst_ite_iff, ↓SameBut.snd_ite_iff, ↓SameBut.mid_ite_iff, ↓SameBut.with_apps, ↓SameBut.with_arbs, ↓SameBut.with_arrivals, ↓SameBut.with_cores, ↓SameBut.with_ecc, ↓SameBut.with_ecc_net, ↓SameBut.with_fix, ↓SameBut.with_free, ↓SameBut.with_log, ↓SameBut.with_mem, ↓SameBut.with_mem_ecc, ↓SameBut.with_net, ↓SameBut.with_out, ↓SameBut.with_ports, ↓SameBut.with_pwr, ↓SameBut.with_red, ↓SameBut.with_regs, ↓SameBut.with_regs_net_arbs_tus_sb_log_scrubQ_free, ↓SameBut.with_sb, ↓SameBut.with_scrubQ, ↓SameBut.with_stqs, ↓SameBut.with_tus, ↓SameBut.readAll, List.mem_cons, true_or, or_true, reduceCtorEq, or_false, false_or, ite_self, implies_true, and_self]; done)
    | refine (SameBut.forEach_iff _ _ (fun _ _ => ?_)).2 ?_
    | refine (SameBut.foldl_iff _ _ (fun _ _ => ?_)).2 ?_
    | refine (SameBut.foldl_fst_iff _ _ (fun _ _ => ?_)).2 ?_
    | simp only [↓SameBut.of_self, ↓SameBut.ite_iff, ↓SameBut.forEach_iff, ↓SameBut.foldl_iff, ↓SameBut.foldl_fst_iff, ↓SameBut.fst_ite_iff, ↓SameBut.snd_ite_iff, ↓SameBut.mid_ite_iff, ↓SameBut.with_apps, ↓SameBut.with_arbs, ↓SameBut.with_arrivals, ↓SameBut.with_cores, ↓SameBut.with_ecc, ↓SameBut.with_ecc_net, ↓SameBut.with_fix, ↓SameBut.with_free, ↓SameBut.with_log, ↓SameBut.with_mem, ↓SameBut.with_mem_ecc, ↓SameBut.with_net, ↓SameBut.with_out, ↓SameBut.with_ports, ↓SameBut.with_pwr, ↓SameBut.with_red, ↓SameBut.with_regs, ↓SameBut.with_regs_net_arbs_tus_sb_log_scrubQ_free, ↓SameBut.with_sb, ↓SameBut.with_scrubQ, ↓SameBut.with_stqs, ↓SameBut.with_tus, ↓SameBut.readAll, List.mem_cons, true_or, or_true, reduceCtorEq, or_false, false_or, ite_self, implies_true, and_self]
    | (split <;> (rename_i heq; obtain ⟨rfl, rfl⟩ := Prod.ext_iff.1 heq; clear heq)) | (split <;> (rename_i heq; simp only [Prod.ext_iff] at heq; obtain ⟨rfl, rfl, rfl⟩ := heq)) | (split <;> (rename_i heq; simp only [Prod.ext_iff] at heq; obtain ⟨rfl, rfl, rfl, rfl⟩ := heq))
    | (split <;> (rename_i heq; first | (obtain ⟨-, rfl⟩ := Prod.ext_iff.1 heq) | (obtain ⟨rfl, -⟩ := Prod.ext_iff.1 heq) | (simp only [Prod.ext_iff] at heq; obtain ⟨-, rfl, -⟩ := heq) | skip))
    | split
    | (simp [↓SameBut.of_self, ↓SameBut.ite_iff, ↓SameBut.forEach_iff, ↓SameBut.foldl_iff, ↓SameBut.foldl_fst_iff, ↓SameBut.fst_ite_iff, ↓SameBut.snd_ite_iff, ↓SameBut.mid_ite_iff, ↓SameBut.with_apps, ↓SameBut.with_arbs, ↓SameBut.with_arrivals, ↓SameBut.with_cores, ↓SameBut.with_ecc, ↓SameBut.with_ecc_net, ↓SameBut.with_fix, ↓SameBut.with_free, ↓SameBut.with_log, ↓SameBut.with_mem, ↓SameBut.with_mem_ecc, ↓SameBut.with_net, ↓SameBut.with_out, ↓SameBut.with_ports, ↓SameBut.with_pwr, ↓SameBut.with_red, ↓SameBut.with_regs, ↓SameBut.with_regs_net_arbs_tus_sb_log_scrubQ_free, ↓SameBut.with_sb, ↓SameBut.with_scrubQ, ↓SameBut.with_stqs, ↓SameBut.with_tus, ↓SameBut.readAll, List.mem_cons, true_or, or_true, reduceCtorEq, or_false, false_or, ite_self, implies_true, and_self]; done)

@[simp] theorem SameBut.loadData {l : List Part} {s t : State} (ag : Agent) (d : ℕ) (remote : ℕ) (first : ℕ) (hregs : .regs ∈ l) (hmem : .mem ∈ l) (hecc : .ecc ∈ l) (hnet : .net ∈ l) (hcores : .cores ∈ l) (harbs : .arbs ∈ l) (htus : .tus ∈ l) (hports : .ports ∈ l) (happs : .apps ∈ l) (hstqs : .stqs ∈ l) (hred : .red ∈ l) (harrivals : .arrivals ∈ l) (hsb : .sb ∈ l) (hpwr : .pwr ∈ l) (hlog : .log ∈ l) (hfix : .fix ∈ l) (hscrubQ : .scrubQ ∈ l) :
    SameBut l s (State.loadData t ag d remote first).1 ↔ SameBut l s t :=
  iff_of (State.loadData_frame t ag d remote first) (by simp [*]) s

theorem State.localRead_frame (s : State) (src : ℕ) (die : ℕ) (core : ℕ) (off : ℕ) (n : ℕ) :
    SameBut [.regs, .mem, .ecc, .sb, .log, .scrubQ] s (State.localRead s src die core off n).1 := by
  unfold State.localRead
  repeat' first
    | (simp only [↓SameBut.of_self, ↓SameBut.ite_iff, ↓SameBut.forEach_iff, ↓SameBut.foldl_iff, ↓SameBut.foldl_fst_iff, ↓SameBut.fst_ite_iff, ↓SameBut.snd_ite_iff, ↓SameBut.mid_ite_iff, ↓SameBut.with_ecc, ↓SameBut.with_free, ↓SameBut.with_log, ↓SameBut.with_mem, ↓SameBut.with_mem_ecc, ↓SameBut.with_out, ↓SameBut.with_regs, ↓SameBut.with_sb, ↓SameBut.with_scrubQ, ↓SameBut.spAccess, List.mem_cons, true_or, or_true, reduceCtorEq, or_false, false_or, ite_self, implies_true, and_self]; done)
    | refine (SameBut.forEach_iff _ _ (fun _ _ => ?_)).2 ?_
    | refine (SameBut.foldl_iff _ _ (fun _ _ => ?_)).2 ?_
    | refine (SameBut.foldl_fst_iff _ _ (fun _ _ => ?_)).2 ?_
    | simp only [↓SameBut.of_self, ↓SameBut.ite_iff, ↓SameBut.forEach_iff, ↓SameBut.foldl_iff, ↓SameBut.foldl_fst_iff, ↓SameBut.fst_ite_iff, ↓SameBut.snd_ite_iff, ↓SameBut.mid_ite_iff, ↓SameBut.with_ecc, ↓SameBut.with_free, ↓SameBut.with_log, ↓SameBut.with_mem, ↓SameBut.with_mem_ecc, ↓SameBut.with_out, ↓SameBut.with_regs, ↓SameBut.with_sb, ↓SameBut.with_scrubQ, ↓SameBut.spAccess, List.mem_cons, true_or, or_true, reduceCtorEq, or_false, false_or, ite_self, implies_true, and_self]
    | (split <;> (rename_i heq; obtain ⟨rfl, rfl⟩ := Prod.ext_iff.1 heq; clear heq)) | (split <;> (rename_i heq; simp only [Prod.ext_iff] at heq; obtain ⟨rfl, rfl, rfl⟩ := heq)) | (split <;> (rename_i heq; simp only [Prod.ext_iff] at heq; obtain ⟨rfl, rfl, rfl, rfl⟩ := heq))
    | (split <;> (rename_i heq; first | (obtain ⟨-, rfl⟩ := Prod.ext_iff.1 heq) | (obtain ⟨rfl, -⟩ := Prod.ext_iff.1 heq) | (simp only [Prod.ext_iff] at heq; obtain ⟨-, rfl, -⟩ := heq) | skip))
    | split
    | (simp [↓SameBut.of_self, ↓SameBut.ite_iff, ↓SameBut.forEach_iff, ↓SameBut.foldl_iff, ↓SameBut.foldl_fst_iff, ↓SameBut.fst_ite_iff, ↓SameBut.snd_ite_iff, ↓SameBut.mid_ite_iff, ↓SameBut.with_ecc, ↓SameBut.with_free, ↓SameBut.with_log, ↓SameBut.with_mem, ↓SameBut.with_mem_ecc, ↓SameBut.with_out, ↓SameBut.with_regs, ↓SameBut.with_sb, ↓SameBut.with_scrubQ, ↓SameBut.spAccess, List.mem_cons, true_or, or_true, reduceCtorEq, or_false, false_or, ite_self, implies_true, and_self]; done)

@[simp] theorem SameBut.localRead {l : List Part} {s t : State} (src : ℕ) (die : ℕ) (core : ℕ) (off : ℕ) (n : ℕ) (hregs : .regs ∈ l) (hmem : .mem ∈ l) (hecc : .ecc ∈ l) (hsb : .sb ∈ l) (hlog : .log ∈ l) (hscrubQ : .scrubQ ∈ l) :
    SameBut l s (State.localRead t src die core off n).1 ↔ SameBut l s t :=
  iff_of (State.localRead_frame t src die core off n) (by simp [*]) s

theorem State.localGather_frame (s : State) (src : ℕ) (die : ℕ) (core : ℕ) (base : ℕ) (n : ℕ) (accs : List (ℕ × ℕ)) :
    SameBut [.regs, .mem, .ecc, .sb, .log, .scrubQ] s (State.localGather s src die core base n accs).1 := by
  unfold State.localGather
  repeat' first
    | (simp only [↓SameBut.of_self, ↓SameBut.ite_iff, ↓SameBut.forEach_iff, ↓SameBut.foldl_iff, ↓SameBut.foldl_fst_iff, ↓SameBut.fst_ite_iff, ↓SameBut.snd_ite_iff, ↓SameBut.mid_ite_iff, ↓SameBut.with_ecc, ↓SameBut.with_free, ↓SameBut.with_log, ↓SameBut.with_mem, ↓SameBut.with_mem_ecc, ↓SameBut.with_out, ↓SameBut.with_regs, ↓SameBut.with_sb, ↓SameBut.with_scrubQ, ↓SameBut.localRead, List.mem_cons, true_or, or_true, reduceCtorEq, or_false, false_or, ite_self, implies_true, and_self]; done)
    | refine (SameBut.forEach_iff _ _ (fun _ _ => ?_)).2 ?_
    | refine (SameBut.foldl_iff _ _ (fun _ _ => ?_)).2 ?_
    | refine (SameBut.foldl_fst_iff _ _ (fun _ _ => ?_)).2 ?_
    | simp only [↓SameBut.of_self, ↓SameBut.ite_iff, ↓SameBut.forEach_iff, ↓SameBut.foldl_iff, ↓SameBut.foldl_fst_iff, ↓SameBut.fst_ite_iff, ↓SameBut.snd_ite_iff, ↓SameBut.mid_ite_iff, ↓SameBut.with_ecc, ↓SameBut.with_free, ↓SameBut.with_log, ↓SameBut.with_mem, ↓SameBut.with_mem_ecc, ↓SameBut.with_out, ↓SameBut.with_regs, ↓SameBut.with_sb, ↓SameBut.with_scrubQ, ↓SameBut.localRead, List.mem_cons, true_or, or_true, reduceCtorEq, or_false, false_or, ite_self, implies_true, and_self]
    | (split <;> (rename_i heq; obtain ⟨rfl, rfl⟩ := Prod.ext_iff.1 heq; clear heq)) | (split <;> (rename_i heq; simp only [Prod.ext_iff] at heq; obtain ⟨rfl, rfl, rfl⟩ := heq)) | (split <;> (rename_i heq; simp only [Prod.ext_iff] at heq; obtain ⟨rfl, rfl, rfl, rfl⟩ := heq))
    | (split <;> (rename_i heq; first | (obtain ⟨-, rfl⟩ := Prod.ext_iff.1 heq) | (obtain ⟨rfl, -⟩ := Prod.ext_iff.1 heq) | (simp only [Prod.ext_iff] at heq; obtain ⟨-, rfl, -⟩ := heq) | skip))
    | split
    | (simp [↓SameBut.of_self, ↓SameBut.ite_iff, ↓SameBut.forEach_iff, ↓SameBut.foldl_iff, ↓SameBut.foldl_fst_iff, ↓SameBut.fst_ite_iff, ↓SameBut.snd_ite_iff, ↓SameBut.mid_ite_iff, ↓SameBut.with_ecc, ↓SameBut.with_free, ↓SameBut.with_log, ↓SameBut.with_mem, ↓SameBut.with_mem_ecc, ↓SameBut.with_out, ↓SameBut.with_regs, ↓SameBut.with_sb, ↓SameBut.with_scrubQ, ↓SameBut.localRead, List.mem_cons, true_or, or_true, reduceCtorEq, or_false, false_or, ite_self, implies_true, and_self]; done)

@[simp] theorem SameBut.localGather {l : List Part} {s t : State} (src : ℕ) (die : ℕ) (core : ℕ) (base : ℕ) (n : ℕ) (accs : List (ℕ × ℕ)) (hregs : .regs ∈ l) (hmem : .mem ∈ l) (hecc : .ecc ∈ l) (hsb : .sb ∈ l) (hlog : .log ∈ l) (hscrubQ : .scrubQ ∈ l) :
    SameBut l s (State.localGather t src die core base n accs).1 ↔ SameBut l s t :=
  iff_of (State.localGather_frame t src die core base n accs) (by simp [*]) s

theorem State.localWrite_frame (s : State) (src : ℕ) (die : ℕ) (core : ℕ) (off : ℕ) (bs : List Byte) :
    SameBut [.regs, .mem, .ecc, .sb, .log, .scrubQ] s (State.localWrite s src die core off bs).1 := by
  unfold State.localWrite
  repeat' first
    | (simp only [↓SameBut.of_self, ↓SameBut.ite_iff, ↓SameBut.forEach_iff, ↓SameBut.foldl_iff, ↓SameBut.foldl_fst_iff, ↓SameBut.fst_ite_iff, ↓SameBut.snd_ite_iff, ↓SameBut.mid_ite_iff, ↓SameBut.with_ecc, ↓SameBut.with_free, ↓SameBut.with_log, ↓SameBut.with_mem, ↓SameBut.with_mem_ecc, ↓SameBut.with_out, ↓SameBut.with_regs, ↓SameBut.with_sb, ↓SameBut.with_scrubQ, ↓SameBut.spAccess, List.mem_cons, true_or, or_true, reduceCtorEq, or_false, false_or, ite_self, implies_true, and_self]; done)
    | refine (SameBut.forEach_iff _ _ (fun _ _ => ?_)).2 ?_
    | refine (SameBut.foldl_iff _ _ (fun _ _ => ?_)).2 ?_
    | refine (SameBut.foldl_fst_iff _ _ (fun _ _ => ?_)).2 ?_
    | simp only [↓SameBut.of_self, ↓SameBut.ite_iff, ↓SameBut.forEach_iff, ↓SameBut.foldl_iff, ↓SameBut.foldl_fst_iff, ↓SameBut.fst_ite_iff, ↓SameBut.snd_ite_iff, ↓SameBut.mid_ite_iff, ↓SameBut.with_ecc, ↓SameBut.with_free, ↓SameBut.with_log, ↓SameBut.with_mem, ↓SameBut.with_mem_ecc, ↓SameBut.with_out, ↓SameBut.with_regs, ↓SameBut.with_sb, ↓SameBut.with_scrubQ, ↓SameBut.spAccess, List.mem_cons, true_or, or_true, reduceCtorEq, or_false, false_or, ite_self, implies_true, and_self]
    | (split <;> (rename_i heq; obtain ⟨rfl, rfl⟩ := Prod.ext_iff.1 heq; clear heq)) | (split <;> (rename_i heq; simp only [Prod.ext_iff] at heq; obtain ⟨rfl, rfl, rfl⟩ := heq)) | (split <;> (rename_i heq; simp only [Prod.ext_iff] at heq; obtain ⟨rfl, rfl, rfl, rfl⟩ := heq))
    | (split <;> (rename_i heq; first | (obtain ⟨-, rfl⟩ := Prod.ext_iff.1 heq) | (obtain ⟨rfl, -⟩ := Prod.ext_iff.1 heq) | (simp only [Prod.ext_iff] at heq; obtain ⟨-, rfl, -⟩ := heq) | skip))
    | split
    | (simp [↓SameBut.of_self, ↓SameBut.ite_iff, ↓SameBut.forEach_iff, ↓SameBut.foldl_iff, ↓SameBut.foldl_fst_iff, ↓SameBut.fst_ite_iff, ↓SameBut.snd_ite_iff, ↓SameBut.mid_ite_iff, ↓SameBut.with_ecc, ↓SameBut.with_free, ↓SameBut.with_log, ↓SameBut.with_mem, ↓SameBut.with_mem_ecc, ↓SameBut.with_out, ↓SameBut.with_regs, ↓SameBut.with_sb, ↓SameBut.with_scrubQ, ↓SameBut.spAccess, List.mem_cons, true_or, or_true, reduceCtorEq, or_false, false_or, ite_self, implies_true, and_self]; done)

@[simp] theorem SameBut.localWrite {l : List Part} {s t : State} (src : ℕ) (die : ℕ) (core : ℕ) (off : ℕ) (bs : List Byte) (hregs : .regs ∈ l) (hmem : .mem ∈ l) (hecc : .ecc ∈ l) (hsb : .sb ∈ l) (hlog : .log ∈ l) (hscrubQ : .scrubQ ∈ l) :
    SameBut l s (State.localWrite t src die core off bs).1 ↔ SameBut l s t :=
  iff_of (State.localWrite_frame t src die core off bs) (by simp [*]) s

theorem State.mixBytes_frame (s : State) (old : List Byte) (new : List Byte) :
    SameBut [] s (State.mixBytes s old new).2 := by
  simp [State.mixBytes]

@[simp] theorem SameBut.mixBytes {l : List Part} {s t : State} (old : List Byte) (new : List Byte)  :
    SameBut l s (State.mixBytes t old new).2 ↔ SameBut l s t :=
  iff_of (State.mixBytes_frame t old new) (by simp [*]) s

theorem State.storeData_frame (s : State) (ag : Agent) (die : ℕ) (core : ℕ) (d : ℕ) :
    SameBut [.regs, .mem, .ecc, .sb, .log, .scrubQ] s (State.storeData s ag die core d).1 := by
  unfold State.storeData
  repeat' first
    | (simp only [↓SameBut.of_self, ↓SameBut.ite_iff, ↓SameBut.forEach_iff, ↓SameBut.foldl_iff, ↓SameBut.foldl_fst_iff, ↓SameBut.fst_ite_iff, ↓SameBut.snd_ite_iff, ↓SameBut.mid_ite_iff, ↓SameBut.with_ecc, ↓SameBut.with_free, ↓SameBut.with_log, ↓SameBut.with_mem, ↓SameBut.with_mem_ecc, ↓SameBut.with_out, ↓SameBut.with_regs, ↓SameBut.with_sb, ↓SameBut.with_scrubQ, ↓SameBut.localGather, List.mem_cons, true_or, or_true, reduceCtorEq, or_false, false_or, ite_self, implies_true, and_self]; done)
    | refine (SameBut.forEach_iff _ _ (fun _ _ => ?_)).2 ?_
    | refine (SameBut.foldl_iff _ _ (fun _ _ => ?_)).2 ?_
    | refine (SameBut.foldl_fst_iff _ _ (fun _ _ => ?_)).2 ?_
    | simp only [↓SameBut.of_self, ↓SameBut.ite_iff, ↓SameBut.forEach_iff, ↓SameBut.foldl_iff, ↓SameBut.foldl_fst_iff, ↓SameBut.fst_ite_iff, ↓SameBut.snd_ite_iff, ↓SameBut.mid_ite_iff, ↓SameBut.with_ecc, ↓SameBut.with_free, ↓SameBut.with_log, ↓SameBut.with_mem, ↓SameBut.with_mem_ecc, ↓SameBut.with_out, ↓SameBut.with_regs, ↓SameBut.with_sb, ↓SameBut.with_scrubQ, ↓SameBut.localGather, List.mem_cons, true_or, or_true, reduceCtorEq, or_false, false_or, ite_self, implies_true, and_self]
    | (split <;> (rename_i heq; obtain ⟨rfl, rfl⟩ := Prod.ext_iff.1 heq; clear heq)) | (split <;> (rename_i heq; simp only [Prod.ext_iff] at heq; obtain ⟨rfl, rfl, rfl⟩ := heq)) | (split <;> (rename_i heq; simp only [Prod.ext_iff] at heq; obtain ⟨rfl, rfl, rfl, rfl⟩ := heq))
    | (split <;> (rename_i heq; first | (obtain ⟨-, rfl⟩ := Prod.ext_iff.1 heq) | (obtain ⟨rfl, -⟩ := Prod.ext_iff.1 heq) | (simp only [Prod.ext_iff] at heq; obtain ⟨-, rfl, -⟩ := heq) | skip))
    | split
    | (simp [↓SameBut.of_self, ↓SameBut.ite_iff, ↓SameBut.forEach_iff, ↓SameBut.foldl_iff, ↓SameBut.foldl_fst_iff, ↓SameBut.fst_ite_iff, ↓SameBut.snd_ite_iff, ↓SameBut.mid_ite_iff, ↓SameBut.with_ecc, ↓SameBut.with_free, ↓SameBut.with_log, ↓SameBut.with_mem, ↓SameBut.with_mem_ecc, ↓SameBut.with_out, ↓SameBut.with_regs, ↓SameBut.with_sb, ↓SameBut.with_scrubQ, ↓SameBut.localGather, List.mem_cons, true_or, or_true, reduceCtorEq, or_false, false_or, ite_self, implies_true, and_self]; done)

@[simp] theorem SameBut.storeData {l : List Part} {s t : State} (ag : Agent) (die : ℕ) (core : ℕ) (d : ℕ) (hregs : .regs ∈ l) (hmem : .mem ∈ l) (hecc : .ecc ∈ l) (hsb : .sb ∈ l) (hlog : .log ∈ l) (hscrubQ : .scrubQ ∈ l) :
    SameBut l s (State.storeData t ag die core d).1 ↔ SameBut l s t :=
  iff_of (State.storeData_frame t ag die core d) (by simp [*]) s

theorem State.writeRuns_frame (s : State) (ag : Agent) (remote : ℕ) (accs : List (ℕ × List Byte)) :
    SameBut [.regs, .mem, .ecc, .net, .cores, .arbs, .tus, .ports, .apps, .stqs, .red, .arrivals, .sb, .pwr, .log, .fix, .scrubQ] s (State.writeRuns s ag remote accs).1 := by
  unfold State.writeRuns
  repeat' first
    | (simp only [↓SameBut.of_self, ↓SameBut.ite_iff, ↓SameBut.forEach_iff, ↓SameBut.foldl_iff, ↓SameBut.foldl_fst_iff, ↓SameBut.fst_ite_iff, ↓SameBut.snd_ite_iff, ↓SameBut.mid_ite_iff, ↓SameBut.with_apps, ↓SameBut.with_arbs, ↓SameBut.with_arrivals, ↓SameBut.with_cores, ↓SameBut.with_ecc, ↓SameBut.with_ecc_net, ↓SameBut.with_fix, ↓SameBut.with_free, ↓SameBut.with_log, ↓SameBut.with_mem, ↓SameBut.with_mem_ecc, ↓SameBut.with_net, ↓SameBut.with_out, ↓SameBut.with_ports, ↓SameBut.with_pwr, ↓SameBut.with_red, ↓SameBut.with_regs, ↓SameBut.with_regs_net_arbs_tus_sb_log_scrubQ_free, ↓SameBut.with_sb, ↓SameBut.with_scrubQ, ↓SameBut.with_stqs, ↓SameBut.with_tus, ↓SameBut.remoteAcc, List.mem_cons, true_or, or_true, reduceCtorEq, or_false, false_or, ite_self, implies_true, and_self]; done)
    | refine (SameBut.forEach_iff _ _ (fun _ _ => ?_)).2 ?_
    | refine (SameBut.foldl_iff _ _ (fun _ _ => ?_)).2 ?_
    | refine (SameBut.foldl_fst_iff _ _ (fun _ _ => ?_)).2 ?_
    | simp only [↓SameBut.of_self, ↓SameBut.ite_iff, ↓SameBut.forEach_iff, ↓SameBut.foldl_iff, ↓SameBut.foldl_fst_iff, ↓SameBut.fst_ite_iff, ↓SameBut.snd_ite_iff, ↓SameBut.mid_ite_iff, ↓SameBut.with_apps, ↓SameBut.with_arbs, ↓SameBut.with_arrivals, ↓SameBut.with_cores, ↓SameBut.with_ecc, ↓SameBut.with_ecc_net, ↓SameBut.with_fix, ↓SameBut.with_free, ↓SameBut.with_log, ↓SameBut.with_mem, ↓SameBut.with_mem_ecc, ↓SameBut.with_net, ↓SameBut.with_out, ↓SameBut.with_ports, ↓SameBut.with_pwr, ↓SameBut.with_red, ↓SameBut.with_regs, ↓SameBut.with_regs_net_arbs_tus_sb_log_scrubQ_free, ↓SameBut.with_sb, ↓SameBut.with_scrubQ, ↓SameBut.with_stqs, ↓SameBut.with_tus, ↓SameBut.remoteAcc, List.mem_cons, true_or, or_true, reduceCtorEq, or_false, false_or, ite_self, implies_true, and_self]
    | (split <;> (rename_i heq; obtain ⟨rfl, rfl⟩ := Prod.ext_iff.1 heq; clear heq)) | (split <;> (rename_i heq; simp only [Prod.ext_iff] at heq; obtain ⟨rfl, rfl, rfl⟩ := heq)) | (split <;> (rename_i heq; simp only [Prod.ext_iff] at heq; obtain ⟨rfl, rfl, rfl, rfl⟩ := heq))
    | (split <;> (rename_i heq; first | (obtain ⟨-, rfl⟩ := Prod.ext_iff.1 heq) | (obtain ⟨rfl, -⟩ := Prod.ext_iff.1 heq) | (simp only [Prod.ext_iff] at heq; obtain ⟨-, rfl, -⟩ := heq) | skip))
    | split
    | (simp [↓SameBut.of_self, ↓SameBut.ite_iff, ↓SameBut.forEach_iff, ↓SameBut.foldl_iff, ↓SameBut.foldl_fst_iff, ↓SameBut.fst_ite_iff, ↓SameBut.snd_ite_iff, ↓SameBut.mid_ite_iff, ↓SameBut.with_apps, ↓SameBut.with_arbs, ↓SameBut.with_arrivals, ↓SameBut.with_cores, ↓SameBut.with_ecc, ↓SameBut.with_ecc_net, ↓SameBut.with_fix, ↓SameBut.with_free, ↓SameBut.with_log, ↓SameBut.with_mem, ↓SameBut.with_mem_ecc, ↓SameBut.with_net, ↓SameBut.with_out, ↓SameBut.with_ports, ↓SameBut.with_pwr, ↓SameBut.with_red, ↓SameBut.with_regs, ↓SameBut.with_regs_net_arbs_tus_sb_log_scrubQ_free, ↓SameBut.with_sb, ↓SameBut.with_scrubQ, ↓SameBut.with_stqs, ↓SameBut.with_tus, ↓SameBut.remoteAcc, List.mem_cons, true_or, or_true, reduceCtorEq, or_false, false_or, ite_self, implies_true, and_self]; done)

@[simp] theorem SameBut.writeRuns {l : List Part} {s t : State} (ag : Agent) (remote : ℕ) (accs : List (ℕ × List Byte)) (hregs : .regs ∈ l) (hmem : .mem ∈ l) (hecc : .ecc ∈ l) (hnet : .net ∈ l) (hcores : .cores ∈ l) (harbs : .arbs ∈ l) (htus : .tus ∈ l) (hports : .ports ∈ l) (happs : .apps ∈ l) (hstqs : .stqs ∈ l) (hred : .red ∈ l) (harrivals : .arrivals ∈ l) (hsb : .sb ∈ l) (hpwr : .pwr ∈ l) (hlog : .log ∈ l) (hfix : .fix ∈ l) (hscrubQ : .scrubQ ∈ l) :
    SameBut l s (State.writeRuns t ag remote accs).1 ↔ SameBut l s t :=
  iff_of (State.writeRuns_frame t ag remote accs) (by simp [*]) s

end Sys2Proof.Machine
end

