-- ==== Sys2Proof/Laws/Discover.lean ====
section
/-!
SUPPORT. Laws of the operations of Machine/Discover.lean: the parts of the state that each may change.
-/
set_option linter.unusedSimpArgs false
set_option linter.unusedTactic false
set_option linter.unreachableTactic false
namespace Sys2Proof.Machine

theorem State.discSend_frame (s : State) (p : ℕ) (kind : ℕ) (arg : ℕ) (recs : List TopoRec) :
    SameBut [] s (State.discSend s p kind arg recs) := by
  simp [State.discSend]

@[simp] theorem SameBut.discSend {l : List Part} {s t : State} (p : ℕ) (kind : ℕ) (arg : ℕ) (recs : List TopoRec)  :
    SameBut l s (State.discSend t p kind arg recs) ↔ SameBut l s t :=
  iff_of (State.discSend_frame t p kind arg recs) (by simp [*]) s

theorem State.assign_frame (s : State) (id : ℕ) :
    SameBut [.disc, .provId] s (State.assign s id) := by
  unfold State.assign
  try simp only []
  repeat' (first | (split <;> (rename_i heq; obtain ⟨rfl, rfl⟩ := Prod.ext_iff.1 heq; clear heq)) | (split <;> (rename_i heq; simp only [Prod.ext_iff] at heq; obtain ⟨rfl, rfl, rfl, rfl⟩ := heq)) | (split <;> (rename_i heq; simp only [Prod.ext_iff] at heq; obtain ⟨rfl, rfl, rfl⟩ := heq)) | split)
  all_goals (try simp)
  all_goals (repeat' split)
  all_goals first | (simp; done) | (intro p hp; cases p <;> first | rfl | exact fun _ _ => rfl | exact fun _ => rfl | (simp at hp; done)) | (intro p hp; cases p <;> first | (simp at hp; done) | (simp only [Part.same]; (try intro _); (try intro _); first | rfl | (split <;> rfl) | (simp; done) | (split <;> simp; done)))

@[simp] theorem SameBut.assign {l : List Part} {s t : State} (id : ℕ) (hdisc : .disc ∈ l) (hprovId : .provId ∈ l) :
    SameBut l s (State.assign t id) ↔ SameBut l s t :=
  iff_of (State.assign_frame t id) (by simp [*]) s

theorem State.putTarget_frame (s : State) (ta : ℕ) (bs : List Byte) :
    SameBut [.regs, .mem, .ecc, .net, .cores, .arbs, .ports, .apps, .stqs, .red, .arrivals, .sb, .pwr, .log, .fix, .scrubQ] s (State.putTarget s ta bs).1 := by
  unfold State.putTarget
  repeat' first
    | (simp only [↓SameBut.of_self, ↓SameBut.ite_iff, ↓SameBut.forEach_iff, ↓SameBut.foldl_iff, ↓SameBut.foldl_fst_iff, ↓SameBut.fst_ite_iff, ↓SameBut.snd_ite_iff, ↓SameBut.mid_ite_iff, ↓SameBut.with_apps, ↓SameBut.with_arbs, ↓SameBut.with_arrivals, ↓SameBut.with_cores, ↓SameBut.with_ecc, ↓SameBut.with_ecc_net, ↓SameBut.with_fix, ↓SameBut.with_free, ↓SameBut.with_log, ↓SameBut.with_mem, ↓SameBut.with_mem_ecc, ↓SameBut.with_net, ↓SameBut.with_out, ↓SameBut.with_ports, ↓SameBut.with_pwr, ↓SameBut.with_red, ↓SameBut.with_regs, ↓SameBut.with_sb, ↓SameBut.with_scrubQ, ↓SameBut.with_stqs, ↓SameBut.access, List.mem_cons, true_or, or_true, reduceCtorEq, or_false, false_or, ite_self, implies_true, and_self]; done)
    | refine (SameBut.forEach_iff _ _ (fun _ _ => ?_)).2 ?_
    | refine (SameBut.foldl_iff _ _ (fun _ _ => ?_)).2 ?_
    | refine (SameBut.foldl_fst_iff _ _ (fun _ _ => ?_)).2 ?_
    | simp only [↓SameBut.of_self, ↓SameBut.ite_iff, ↓SameBut.forEach_iff, ↓SameBut.foldl_iff, ↓SameBut.foldl_fst_iff, ↓SameBut.fst_ite_iff, ↓SameBut.snd_ite_iff, ↓SameBut.mid_ite_iff, ↓SameBut.with_apps, ↓SameBut.with_arbs, ↓SameBut.with_arrivals, ↓SameBut.with_cores, ↓SameBut.with_ecc, ↓SameBut.with_ecc_net, ↓SameBut.with_fix, ↓SameBut.with_free, ↓SameBut.with_log, ↓SameBut.with_mem, ↓SameBut.with_mem_ecc, ↓SameBut.with_net, ↓SameBut.with_out, ↓SameBut.with_ports, ↓SameBut.with_pwr, ↓SameBut.with_red, ↓SameBut.with_regs, ↓SameBut.with_sb, ↓SameBut.with_scrubQ, ↓SameBut.with_stqs, ↓SameBut.access, List.mem_cons, true_or, or_true, reduceCtorEq, or_false, false_or, ite_self, implies_true, and_self]
    | (split <;> (rename_i heq; obtain ⟨rfl, rfl⟩ := Prod.ext_iff.1 heq; clear heq)) | (split <;> (rename_i heq; simp only [Prod.ext_iff] at heq; obtain ⟨rfl, rfl, rfl⟩ := heq)) | (split <;> (rename_i heq; simp only [Prod.ext_iff] at heq; obtain ⟨rfl, rfl, rfl, rfl⟩ := heq))
    | (split <;> (rename_i heq; first | (obtain ⟨-, rfl⟩ := Prod.ext_iff.1 heq) | (obtain ⟨rfl, -⟩ := Prod.ext_iff.1 heq) | (simp only [Prod.ext_iff] at heq; obtain ⟨-, rfl, -⟩ := heq) | skip))
    | split
    | (simp [↓SameBut.of_self, ↓SameBut.ite_iff, ↓SameBut.forEach_iff, ↓SameBut.foldl_iff, ↓SameBut.foldl_fst_iff, ↓SameBut.fst_ite_iff, ↓SameBut.snd_ite_iff, ↓SameBut.mid_ite_iff, ↓SameBut.with_apps, ↓SameBut.with_arbs, ↓SameBut.with_arrivals, ↓SameBut.with_cores, ↓SameBut.with_ecc, ↓SameBut.with_ecc_net, ↓SameBut.with_fix, ↓SameBut.with_free, ↓SameBut.with_log, ↓SameBut.with_mem, ↓SameBut.with_mem_ecc, ↓SameBut.with_net, ↓SameBut.with_out, ↓SameBut.with_ports, ↓SameBut.with_pwr, ↓SameBut.with_red, ↓SameBut.with_regs, ↓SameBut.with_sb, ↓SameBut.with_scrubQ, ↓SameBut.with_stqs, ↓SameBut.access, List.mem_cons, true_or, or_true, reduceCtorEq, or_false, false_or, ite_self, implies_true, and_self]; done)

@[simp] theorem SameBut.putTarget {l : List Part} {s t : State} (ta : ℕ) (bs : List Byte) (hregs : .regs ∈ l) (hmem : .mem ∈ l) (hecc : .ecc ∈ l) (hnet : .net ∈ l) (hcores : .cores ∈ l) (harbs : .arbs ∈ l) (hports : .ports ∈ l) (happs : .apps ∈ l) (hstqs : .stqs ∈ l) (hred : .red ∈ l) (harrivals : .arrivals ∈ l) (hsb : .sb ∈ l) (hpwr : .pwr ∈ l) (hlog : .log ∈ l) (hfix : .fix ∈ l) (hscrubQ : .scrubQ ∈ l) :
    SameBut l s (State.putTarget t ta bs).1 ↔ SameBut l s t :=
  iff_of (State.putTarget_frame t ta bs) (by simp [*]) s

theorem State.discFinish_frame (s : State) :
    SameBut [.regs, .mem, .ecc, .net, .cores, .arbs, .ports, .disc, .apps, .stqs, .red, .arrivals, .sb, .pwr, .provId, .log, .fix, .kpr, .scrubQ] s (State.discFinish s) := by
  unfold State.discFinish
  repeat' first
    | (simp only [↓SameBut.of_self, ↓SameBut.ite_iff, ↓SameBut.forEach_iff, ↓SameBut.foldl_iff, ↓SameBut.foldl_fst_iff, ↓SameBut.fst_ite_iff, ↓SameBut.snd_ite_iff, ↓SameBut.mid_ite_iff, ↓SameBut.with_apps, ↓SameBut.with_arbs, ↓SameBut.with_arrivals, ↓SameBut.with_cores, ↓SameBut.with_disc, ↓SameBut.with_disc_provId, ↓SameBut.with_disc_sb, ↓SameBut.with_ecc, ↓SameBut.with_ecc_net, ↓SameBut.with_fix, ↓SameBut.with_free, ↓SameBut.with_kpr, ↓SameBut.with_log, ↓SameBut.with_mem, ↓SameBut.with_mem_ecc, ↓SameBut.with_net, ↓SameBut.with_out, ↓SameBut.with_ports, ↓SameBut.with_provId, ↓SameBut.with_pwr, ↓SameBut.with_red, ↓SameBut.with_regs, ↓SameBut.with_sb, ↓SameBut.with_scrubQ, ↓SameBut.with_stqs, ↓SameBut.assign, ↓SameBut.endLong, ↓SameBut.putTarget, List.mem_cons, true_or, or_true, reduceCtorEq, or_false, false_or, ite_self, implies_true, and_self]; done)
    | refine (SameBut.forEach_iff _ _ (fun _ _ => ?_)).2 ?_
    | refine (SameBut.foldl_iff _ _ (fun _ _ => ?_)).2 ?_
    | refine (SameBut.foldl_fst_iff _ _ (fun _ _ => ?_)).2 ?_
    | simp only [↓SameBut.of_self, ↓SameBut.ite_iff, ↓SameBut.forEach_iff, ↓SameBut.foldl_iff, ↓SameBut.foldl_fst_iff, ↓SameBut.fst_ite_iff, ↓SameBut.snd_ite_iff, ↓SameBut.mid_ite_iff, ↓SameBut.with_apps, ↓SameBut.with_arbs, ↓SameBut.with_arrivals, ↓SameBut.with_cores, ↓SameBut.with_disc, ↓SameBut.with_disc_provId, ↓SameBut.with_disc_sb, ↓SameBut.with_ecc, ↓SameBut.with_ecc_net, ↓SameBut.with_fix, ↓SameBut.with_free, ↓SameBut.with_kpr, ↓SameBut.with_log, ↓SameBut.with_mem, ↓SameBut.with_mem_ecc, ↓SameBut.with_net, ↓SameBut.with_out, ↓SameBut.with_ports, ↓SameBut.with_provId, ↓SameBut.with_pwr, ↓SameBut.with_red, ↓SameBut.with_regs, ↓SameBut.with_sb, ↓SameBut.with_scrubQ, ↓SameBut.with_stqs, ↓SameBut.assign, ↓SameBut.endLong, ↓SameBut.putTarget, List.mem_cons, true_or, or_true, reduceCtorEq, or_false, false_or, ite_self, implies_true, and_self]
    | (split <;> (rename_i heq; obtain ⟨rfl, rfl⟩ := Prod.ext_iff.1 heq; clear heq)) | (split <;> (rename_i heq; simp only [Prod.ext_iff] at heq; obtain ⟨rfl, rfl, rfl⟩ := heq)) | (split <;> (rename_i heq; simp only [Prod.ext_iff] at heq; obtain ⟨rfl, rfl, rfl, rfl⟩ := heq))
    | (split <;> (rename_i heq; first | (obtain ⟨-, rfl⟩ := Prod.ext_iff.1 heq) | (obtain ⟨rfl, -⟩ := Prod.ext_iff.1 heq) | (simp only [Prod.ext_iff] at heq; obtain ⟨-, rfl, -⟩ := heq) | skip))
    | split
    | (simp [↓SameBut.of_self, ↓SameBut.ite_iff, ↓SameBut.forEach_iff, ↓SameBut.foldl_iff, ↓SameBut.foldl_fst_iff, ↓SameBut.fst_ite_iff, ↓SameBut.snd_ite_iff, ↓SameBut.mid_ite_iff, ↓SameBut.with_apps, ↓SameBut.with_arbs, ↓SameBut.with_arrivals, ↓SameBut.with_cores, ↓SameBut.with_disc, ↓SameBut.with_disc_provId, ↓SameBut.with_disc_sb, ↓SameBut.with_ecc, ↓SameBut.with_ecc_net, ↓SameBut.with_fix, ↓SameBut.with_free, ↓SameBut.with_kpr, ↓SameBut.with_log, ↓SameBut.with_mem, ↓SameBut.with_mem_ecc, ↓SameBut.with_net, ↓SameBut.with_out, ↓SameBut.with_ports, ↓SameBut.with_provId, ↓SameBut.with_pwr, ↓SameBut.with_red, ↓SameBut.with_regs, ↓SameBut.with_sb, ↓SameBut.with_scrubQ, ↓SameBut.with_stqs, ↓SameBut.assign, ↓SameBut.endLong, ↓SameBut.putTarget, List.mem_cons, true_or, or_true, reduceCtorEq, or_false, false_or, ite_self, implies_true, and_self]; done)

@[simp] theorem SameBut.discFinish {l : List Part} {s t : State}  (hregs : .regs ∈ l) (hmem : .mem ∈ l) (hecc : .ecc ∈ l) (hnet : .net ∈ l) (hcores : .cores ∈ l) (harbs : .arbs ∈ l) (hports : .ports ∈ l) (hdisc : .disc ∈ l) (happs : .apps ∈ l) (hstqs : .stqs ∈ l) (hred : .red ∈ l) (harrivals : .arrivals ∈ l) (hsb : .sb ∈ l) (hpwr : .pwr ∈ l) (hprovId : .provId ∈ l) (hlog : .log ∈ l) (hfix : .fix ∈ l) (hkpr : .kpr ∈ l) (hscrubQ : .scrubQ ∈ l) :
    SameBut l s (State.discFinish t) ↔ SameBut l s t :=
  iff_of (State.discFinish_frame t) (by simp [*]) s

theorem State.discStart_frame (s : State) (n : ℕ) (root : Bool) :
    SameBut [.disc] s (State.discStart s n root) := by
  simp [State.discStart]

@[simp] theorem SameBut.discStart {l : List Part} {s t : State} (n : ℕ) (root : Bool) (hdisc : .disc ∈ l) :
    SameBut l s (State.discStart t n root) ↔ SameBut l s t :=
  iff_of (State.discStart_frame t n root) (by simp [*]) s

theorem State.discRoot_frame (s : State) :
    SameBut [.disc] s (State.discRoot s) := by
  simp [State.discRoot]

@[simp] theorem SameBut.discRoot {l : List Part} {s t : State}  (hdisc : .disc ∈ l) :
    SameBut l s (State.discRoot t) ↔ SameBut l s t :=
  iff_of (State.discRoot_frame t) (by simp [*]) s

end Sys2Proof.Machine
end

