-- ==== Sys2Proof/Laws/Sequencer.lean ====
section
/-!
SUPPORT. Laws of the operations of Machine/Sequencer.lean: the parts of the state that each may change.
-/
set_option linter.unusedSimpArgs false
set_option linter.unusedTactic false
set_option linter.unreachableTactic false
namespace Sys2Proof.Machine

theorem State.performReads_frame (s : State) (die : ℕ) (core : ℕ) (t' : ℕ) (l' : List SlotAcc) :
    SameBut [.regs, .sb, .log, .scrubQ] s (State.performReads s die core t' l').1 := by
  unfold State.performReads
  repeat' first
    | (simp only [↓SameBut.of_self, ↓SameBut.ite_iff, ↓SameBut.forEach_iff, ↓SameBut.foldl_iff, ↓SameBut.foldl_fst_iff, ↓SameBut.fst_ite_iff, ↓SameBut.snd_ite_iff, ↓SameBut.mid_ite_iff, ↓SameBut.with_free, ↓SameBut.with_log, ↓SameBut.with_out, ↓SameBut.with_regs, ↓SameBut.with_sb, ↓SameBut.with_scrubQ, ↓SameBut.spRead, List.mem_cons, true_or, or_true, reduceCtorEq, or_false, false_or, ite_self, implies_true, and_self]; done)
    | refine (SameBut.forEach_iff _ _ (fun _ _ => ?_)).2 ?_
    | refine (SameBut.foldl_iff _ _ (fun _ _ => ?_)).2 ?_
    | refine (SameBut.foldl_fst_iff _ _ (fun _ _ => ?_)).2 ?_
    | simp only [↓SameBut.of_self, ↓SameBut.ite_iff, ↓SameBut.forEach_iff, ↓SameBut.foldl_iff, ↓SameBut.foldl_fst_iff, ↓SameBut.fst_ite_iff, ↓SameBut.snd_ite_iff, ↓SameBut.mid_ite_iff, ↓SameBut.with_free, ↓SameBut.with_log, ↓SameBut.with_out, ↓SameBut.with_regs, ↓SameBut.with_sb, ↓SameBut.with_scrubQ, ↓SameBut.spRead, List.mem_cons, true_or, or_true, reduceCtorEq, or_false, false_or, ite_self, implies_true, and_self]
    | (split <;> (rename_i heq; obtain ⟨rfl, rfl⟩ := Prod.ext_iff.1 heq; clear heq)) | (split <;> (rename_i heq; simp only [Prod.ext_iff] at heq; obtain ⟨rfl, rfl, rfl⟩ := heq)) | (split <;> (rename_i heq; simp only [Prod.ext_iff] at heq; obtain ⟨rfl, rfl, rfl, rfl⟩ := heq))
    | (split <;> (rename_i heq; first | (obtain ⟨-, rfl⟩ := Prod.ext_iff.1 heq) | (obtain ⟨rfl, -⟩ := Prod.ext_iff.1 heq) | (simp only [Prod.ext_iff] at heq; obtain ⟨-, rfl, -⟩ := heq) | skip))
    | split
    | (simp [↓SameBut.of_self, ↓SameBut.ite_iff, ↓SameBut.forEach_iff, ↓SameBut.foldl_iff, ↓SameBut.foldl_fst_iff, ↓SameBut.fst_ite_iff, ↓SameBut.snd_ite_iff, ↓SameBut.mid_ite_iff, ↓SameBut.with_free, ↓SameBut.with_log, ↓SameBut.with_out, ↓SameBut.with_regs, ↓SameBut.with_sb, ↓SameBut.with_scrubQ, ↓SameBut.spRead, List.mem_cons, true_or, or_true, reduceCtorEq, or_false, false_or, ite_self, implies_true, and_self]; done)

@[simp] theorem SameBut.performReads {l : List Part} {s t : State} (die : ℕ) (core : ℕ) (t' : ℕ) (l' : List SlotAcc) (hregs : .regs ∈ l) (hsb : .sb ∈ l) (hlog : .log ∈ l) (hscrubQ : .scrubQ ∈ l) :
    SameBut l s (State.performReads t die core t' l').1 ↔ SameBut l s t :=
  iff_of (State.performReads_frame t die core t' l') (by simp [*]) s

theorem State.haltIn_frame (s : State) (die : ℕ) (core : ℕ) (t' : ℕ) (h : Halt) :
    SameBut [.regs, .mem, .ecc, .cores, .apps, .stqs, .red, .ues, .streams, .qps, .rcv, .sb, .log, .job, .fix, .ck, .kpr] s (State.haltIn s die core t' h) := by
  unfold State.haltIn
  try simp only []
  simp only [↓SameBut.of_self, ↓SameBut.ite_iff, ↓SameBut.forEach_iff, ↓SameBut.foldl_iff, ↓SameBut.foldl_fst_iff, ↓SameBut.fst_ite_iff, ↓SameBut.snd_ite_iff, ↓SameBut.mid_ite_iff, ↓SameBut.with_apps, ↓SameBut.with_apps_stqs_red_ues_streams_job_fix_ck, ↓SameBut.with_ck, ↓SameBut.with_cores, ↓SameBut.with_cores_red_ues_fix, ↓SameBut.with_ecc, ↓SameBut.with_fix, ↓SameBut.with_free, ↓SameBut.with_job, ↓SameBut.with_kpr, ↓SameBut.with_log, ↓SameBut.with_mem, ↓SameBut.with_mem_ecc, ↓SameBut.with_out, ↓SameBut.with_qps, ↓SameBut.with_rcv, ↓SameBut.with_rcv_kpr, ↓SameBut.with_rcv_log, ↓SameBut.with_red, ↓SameBut.with_red_ues, ↓SameBut.with_regs, ↓SameBut.with_sb, ↓SameBut.with_sb_job, ↓SameBut.with_stqs, ↓SameBut.with_streams, ↓SameBut.with_streams_qps, ↓SameBut.with_ues, ↓SameBut.haltCore, ↓SameBut.wr, List.mem_cons, true_or, or_true, reduceCtorEq, or_false, false_or, ite_self, implies_true, and_self]

@[simp] theorem SameBut.haltIn {l : List Part} {s t : State} (die : ℕ) (core : ℕ) (t' : ℕ) (h : Halt) (hregs : .regs ∈ l) (hmem : .mem ∈ l) (hecc : .ecc ∈ l) (hcores : .cores ∈ l) (happs : .apps ∈ l) (hstqs : .stqs ∈ l) (hred : .red ∈ l) (hues : .ues ∈ l) (hstreams : .streams ∈ l) (hqps : .qps ∈ l) (hrcv : .rcv ∈ l) (hsb : .sb ∈ l) (hlog : .log ∈ l) (hjob : .job ∈ l) (hfix : .fix ∈ l) (hck : .ck ∈ l) (hkpr : .kpr ∈ l) :
    SameBut l s (State.haltIn t die core t' h) ↔ SameBut l s t :=
  iff_of (State.haltIn_frame t die core t' h) (by simp [*]) s

theorem State.tileWrites_frame (s : State) (die : ℕ) (core : ℕ) (x : ℕ) (n : ℕ) :
    SameBut [.regs, .mem, .ecc, .cores, .sb, .log, .fix] s (State.tileWrites s die core x n).1 := by
  simp [State.tileWrites]

@[simp] theorem SameBut.tileWrites {l : List Part} {s t : State} (die : ℕ) (core : ℕ) (x : ℕ) (n : ℕ) (hregs : .regs ∈ l) (hmem : .mem ∈ l) (hecc : .ecc ∈ l) (hcores : .cores ∈ l) (hsb : .sb ∈ l) (hlog : .log ∈ l) (hfix : .fix ∈ l) :
    SameBut l s (State.tileWrites t die core x n).1 ↔ SameBut l s t :=
  iff_of (State.tileWrites_frame t die core x n) (by simp [*]) s

theorem State.resolve_frame (s : State) (die : ℕ) (core : ℕ) (pc : ℕ) (t' : ℕ) (l' : List SlotAcc) :
    SameBut [.regs] s (State.resolve s die core pc t' l').1 := by
  unfold State.resolve
  try simp only []
  (repeat' split) <;> simp

@[simp] theorem SameBut.resolve {l : List Part} {s t : State} (die : ℕ) (core : ℕ) (pc : ℕ) (t' : ℕ) (l' : List SlotAcc) (hregs : .regs ∈ l) :
    SameBut l s (State.resolve t die core pc t' l').1 ↔ SameBut l s t :=
  iff_of (State.resolve_frame t die core pc t' l') (by simp [*]) s

theorem State.countCycle_frame (s : State) (die : ℕ) (core : ℕ) (t' : ℕ) :
    SameBut [.regs] s (State.countCycle s die core t') := by
  simp [State.countCycle]

@[simp] theorem SameBut.countCycle {l : List Part} {s t : State} (die : ℕ) (core : ℕ) (t' : ℕ) (hregs : .regs ∈ l) :
    SameBut l s (State.countCycle t die core t') ↔ SameBut l s t :=
  iff_of (State.countCycle_frame t die core t') (by simp [*]) s

theorem State.groupWrites_frame (s : State) (die : ℕ) (core : ℕ) (x : ℕ) (n : ℕ) :
    SameBut [.regs, .mem, .ecc, .cores, .sb, .log, .fix] s (State.groupWrites s die core x n).1 := by
  unfold State.groupWrites
  repeat' first
    | (simp only [↓SameBut.of_self, ↓SameBut.ite_iff, ↓SameBut.forEach_iff, ↓SameBut.foldl_iff, ↓SameBut.foldl_fst_iff, ↓SameBut.fst_ite_iff, ↓SameBut.snd_ite_iff, ↓SameBut.mid_ite_iff, ↓SameBut.with_cores, ↓SameBut.with_ecc, ↓SameBut.with_fix, ↓SameBut.with_free, ↓SameBut.with_log, ↓SameBut.with_mem, ↓SameBut.with_mem_ecc, ↓SameBut.with_out, ↓SameBut.with_regs, ↓SameBut.with_sb, ↓SameBut.openGroups, ↓SameBut.setCore, List.mem_cons, true_or, or_true, reduceCtorEq, or_false, false_or, ite_self, implies_true, and_self]; done)
    | refine (SameBut.forEach_iff _ _ (fun _ _ => ?_)).2 ?_
    | refine (SameBut.foldl_iff _ _ (fun _ _ => ?_)).2 ?_
    | refine (SameBut.foldl_fst_iff _ _ (fun _ _ => ?_)).2 ?_
    | simp only [↓SameBut.of_self, ↓SameBut.ite_iff, ↓SameBut.forEach_iff, ↓SameBut.foldl_iff, ↓SameBut.foldl_fst_iff, ↓SameBut.fst_ite_iff, ↓SameBut.snd_ite_iff, ↓SameBut.mid_ite_iff, ↓SameBut.with_cores, ↓SameBut.with_ecc, ↓SameBut.with_fix, ↓SameBut.with_free, ↓SameBut.with_log, ↓SameBut.with_mem, ↓SameBut.with_mem_ecc, ↓SameBut.with_out, ↓SameBut.with_regs, ↓SameBut.with_sb, ↓SameBut.openGroups, ↓SameBut.setCore, List.mem_cons, true_or, or_true, reduceCtorEq, or_false, false_or, ite_self, implies_true, and_self]
    | (split <;> (rename_i heq; obtain ⟨rfl, rfl⟩ := Prod.ext_iff.1 heq; clear heq)) | (split <;> (rename_i heq; simp only [Prod.ext_iff] at heq; obtain ⟨rfl, rfl, rfl⟩ := heq)) | (split <;> (rename_i heq; simp only [Prod.ext_iff] at heq; obtain ⟨rfl, rfl, rfl, rfl⟩ := heq))
    | (split <;> (rename_i heq; first | (obtain ⟨-, rfl⟩ := Prod.ext_iff.1 heq) | (obtain ⟨rfl, -⟩ := Prod.ext_iff.1 heq) | (simp only [Prod.ext_iff] at heq; obtain ⟨-, rfl, -⟩ := heq) | skip))
    | split
    | (simp [↓SameBut.of_self, ↓SameBut.ite_iff, ↓SameBut.forEach_iff, ↓SameBut.foldl_iff, ↓SameBut.foldl_fst_iff, ↓SameBut.fst_ite_iff, ↓SameBut.snd_ite_iff, ↓SameBut.mid_ite_iff, ↓SameBut.with_cores, ↓SameBut.with_ecc, ↓SameBut.with_fix, ↓SameBut.with_free, ↓SameBut.with_log, ↓SameBut.with_mem, ↓SameBut.with_mem_ecc, ↓SameBut.with_out, ↓SameBut.with_regs, ↓SameBut.with_sb, ↓SameBut.openGroups, ↓SameBut.setCore, List.mem_cons, true_or, or_true, reduceCtorEq, or_false, false_or, ite_self, implies_true, and_self]; done)

@[simp] theorem SameBut.groupWrites {l : List Part} {s t : State} (die : ℕ) (core : ℕ) (x : ℕ) (n : ℕ) (hregs : .regs ∈ l) (hmem : .mem ∈ l) (hecc : .ecc ∈ l) (hcores : .cores ∈ l) (hsb : .sb ∈ l) (hlog : .log ∈ l) (hfix : .fix ∈ l) :
    SameBut l s (State.groupWrites t die core x n).1 ↔ SameBut l s t :=
  iff_of (State.groupWrites_frame t die core x n) (by simp [*]) s

theorem State.countFrozen_frame (s : State) (die : ℕ) (core : ℕ) (n : ℕ) (cause : ℕ) :
    SameBut [.regs] s (State.countFrozen s die core n cause) := by
  simp [State.countFrozen]

@[simp] theorem SameBut.countFrozen {l : List Part} {s t : State} (die : ℕ) (core : ℕ) (n : ℕ) (cause : ℕ) (hregs : .regs ∈ l) :
    SameBut l s (State.countFrozen t die core n cause) ↔ SameBut l s t :=
  iff_of (State.countFrozen_frame t die core n cause) (by simp [*]) s

theorem State.doDrain_frame (s : State) (die : ℕ) (core : ℕ) (t' : ℕ) (b : ℕ) (got : List (ℕ × List Byte)) (out : ℕ) :
    SameBut [.regs, .cores] s (State.doDrain s die core t' b got out) := by
  simp [State.doDrain]

@[simp] theorem SameBut.doDrain {l : List Part} {s t : State} (die : ℕ) (core : ℕ) (t' : ℕ) (b : ℕ) (got : List (ℕ × List Byte)) (out : ℕ) (hregs : .regs ∈ l) (hcores : .cores ∈ l) :
    SameBut l s (State.doDrain t die core t' b got out) ↔ SameBut l s t :=
  iff_of (State.doDrain_frame t die core t' b got out) (by simp [*]) s

theorem State.ringNext_frame (s : State) (die : ℕ) (core : ℕ) (ring : ℕ) (n : ℕ) :
    SameBut [.regs] s (State.ringNext s die core ring n) := by
  simp [State.ringNext]

@[simp] theorem SameBut.ringNext {l : List Part} {s t : State} (die : ℕ) (core : ℕ) (ring : ℕ) (n : ℕ) (hregs : .regs ∈ l) :
    SameBut l s (State.ringNext t die core ring n) ↔ SameBut l s t :=
  iff_of (State.ringNext_frame t die core ring n) (by simp [*]) s

theorem State.doXfer_frame (s : State) (die : ℕ) (core : ℕ) (pc : ℕ) (t' : ℕ) (b : ℕ) :
    SameBut [.regs, .ecc, .cores, .gmes, .tus, .apps, .sb, .pwr, .log] s (State.doXfer s die core pc t' b).1 := by
  unfold State.doXfer
  try simp only []
  (repeat' split) <;> simp

@[simp] theorem SameBut.doXfer {l : List Part} {s t : State} (die : ℕ) (core : ℕ) (pc : ℕ) (t' : ℕ) (b : ℕ) (hregs : .regs ∈ l) (hecc : .ecc ∈ l) (hcores : .cores ∈ l) (hgmes : .gmes ∈ l) (htus : .tus ∈ l) (happs : .apps ∈ l) (hsb : .sb ∈ l) (hpwr : .pwr ∈ l) (hlog : .log ∈ l) :
    SameBut l s (State.doXfer t die core pc t' b).1 ↔ SameBut l s t :=
  iff_of (State.doXfer_frame t die core pc t' b) (by simp [*]) s

theorem State.haltViaTag_frame (s : State) (die : ℕ) (core : ℕ) (cause : ℕ) (tag : ℕ) :
    SameBut [.regs, .mem, .ecc, .cores, .apps, .stqs, .red, .ues, .streams, .qps, .rcv, .sb, .log, .job, .fix, .ck, .kpr] s (State.haltViaTag s die core cause tag) := by
  unfold State.haltViaTag
  try simp only []
  simp only [↓SameBut.of_self, ↓SameBut.ite_iff, ↓SameBut.forEach_iff, ↓SameBut.foldl_iff, ↓SameBut.foldl_fst_iff, ↓SameBut.fst_ite_iff, ↓SameBut.snd_ite_iff, ↓SameBut.mid_ite_iff, ↓SameBut.with_apps, ↓SameBut.with_apps_stqs_red_ues_streams_job_fix_ck, ↓SameBut.with_ck, ↓SameBut.with_cores, ↓SameBut.with_cores_red_ues_fix, ↓SameBut.with_ecc, ↓SameBut.with_fix, ↓SameBut.with_free, ↓SameBut.with_job, ↓SameBut.with_kpr, ↓SameBut.with_log, ↓SameBut.with_mem, ↓SameBut.with_mem_ecc, ↓SameBut.with_out, ↓SameBut.with_qps, ↓SameBut.with_rcv, ↓SameBut.with_rcv_kpr, ↓SameBut.with_rcv_log, ↓SameBut.with_red, ↓SameBut.with_red_ues, ↓SameBut.with_regs, ↓SameBut.with_sb, ↓SameBut.with_sb_job, ↓SameBut.with_stqs, ↓SameBut.with_streams, ↓SameBut.with_streams_qps, ↓SameBut.with_ues, ↓SameBut.coreDown, ↓SameBut.logHalt, List.mem_cons, true_or, or_true, reduceCtorEq, or_false, false_or, ite_self, implies_true, and_self]

@[simp] theorem SameBut.haltViaTag {l : List Part} {s t : State} (die : ℕ) (core : ℕ) (cause : ℕ) (tag : ℕ) (hregs : .regs ∈ l) (hmem : .mem ∈ l) (hecc : .ecc ∈ l) (hcores : .cores ∈ l) (happs : .apps ∈ l) (hstqs : .stqs ∈ l) (hred : .red ∈ l) (hues : .ues ∈ l) (hstreams : .streams ∈ l) (hqps : .qps ∈ l) (hrcv : .rcv ∈ l) (hsb : .sb ∈ l) (hlog : .log ∈ l) (hjob : .job ∈ l) (hfix : .fix ∈ l) (hck : .ck ∈ l) (hkpr : .kpr ∈ l) :
    SameBut l s (State.haltViaTag t die core cause tag) ↔ SameBut l s t :=
  iff_of (State.haltViaTag_frame t die core cause tag) (by simp [*]) s

theorem State.noteEnd_frame (s : State) (die : ℕ) (core : ℕ) :
    SameBut [.regs] s (State.noteEnd s die core) := by
  simp [State.noteEnd]

@[simp] theorem SameBut.noteEnd {l : List Part} {s t : State} (die : ℕ) (core : ℕ) (hregs : .regs ∈ l) :
    SameBut l s (State.noteEnd t die core) ↔ SameBut l s t :=
  iff_of (State.noteEnd_frame t die core) (by simp [*]) s

theorem State.noteWait_frame (s : State) (die : ℕ) (core : ℕ) (b : ℕ) :
    SameBut [.regs] s (State.noteWait s die core b) := by
  simp [State.noteWait]

@[simp] theorem SameBut.noteWait {l : List Part} {s t : State} (die : ℕ) (core : ℕ) (b : ℕ) (hregs : .regs ∈ l) :
    SameBut l s (State.noteWait t die core b) ↔ SameBut l s t :=
  iff_of (State.noteWait_frame t die core b) (by simp [*]) s

end Sys2Proof.Machine
end

