-- ==== Sys2Proof/Laws/Dma.lean ====
section
/-!
SUPPORT. Laws of the operations of Machine/Dma.lean: the parts of the state that each may change.
-/
set_option linter.unusedSimpArgs false
set_option linter.unusedTactic false
set_option linter.unreachableTactic false
namespace Sys2Proof.Machine

theorem State.countSlow_frame (s : State) (die : ℕ) (core : ℕ) (d : ℕ) :
    SameBut [.regs] s (State.countSlow s die core d) := by
  simp [State.countSlow]

@[simp] theorem SameBut.countSlow {l : List Part} {s t : State} (die : ℕ) (core : ℕ) (d : ℕ) (hregs : .regs ∈ l) :
    SameBut l s (State.countSlow t die core d) ↔ SameBut l s t :=
  iff_of (State.countSlow_frame t die core d) (by simp [*]) s

theorem State.dmaEvents_frame (s : State) (die : ℕ) (core : ℕ) (ring : ℕ) (ev : Events) :
    SameBut [.regs, .mem, .ecc, .sb, .log, .fix] s (State.dmaEvents s die core ring ev) := by
  simp [State.dmaEvents]

@[simp] theorem SameBut.dmaEvents {l : List Part} {s t : State} (die : ℕ) (core : ℕ) (ring : ℕ) (ev : Events) (hregs : .regs ∈ l) (hmem : .mem ∈ l) (hecc : .ecc ∈ l) (hsb : .sb ∈ l) (hlog : .log ∈ l) (hfix : .fix ∈ l) :
    SameBut l s (State.dmaEvents t die core ring ev) ↔ SameBut l s t :=
  iff_of (State.dmaEvents_frame t die core ring ev) (by simp [*]) s

theorem State.feedStack_frame (s : State) (die : ℕ) (core : ℕ) (ring : ℕ) :
    SameBut [.regs, .mem, .ecc, .cores, .apps, .stqs, .red, .ues, .streams, .qps, .rcv, .sb, .log, .job, .fix, .ck, .kpr] s (State.feedStack s die core ring) := by
  unfold State.feedStack
  try simp only []
  simp only [↓SameBut.of_self, ↓SameBut.ite_iff, ↓SameBut.forEach_iff, ↓SameBut.foldl_iff, ↓SameBut.foldl_fst_iff, ↓SameBut.fst_ite_iff, ↓SameBut.snd_ite_iff, ↓SameBut.mid_ite_iff, ↓SameBut.with_apps, ↓SameBut.with_apps_stqs_red_ues_streams_job_fix_ck, ↓SameBut.with_ck, ↓SameBut.with_cores, ↓SameBut.with_cores_red_ues_fix, ↓SameBut.with_ecc, ↓SameBut.with_fix, ↓SameBut.with_free, ↓SameBut.with_job, ↓SameBut.with_kpr, ↓SameBut.with_log, ↓SameBut.with_mem, ↓SameBut.with_mem_ecc, ↓SameBut.with_out, ↓SameBut.with_qps, ↓SameBut.with_rcv, ↓SameBut.with_rcv_kpr, ↓SameBut.with_rcv_log, ↓SameBut.with_red, ↓SameBut.with_red_ues, ↓SameBut.with_regs, ↓SameBut.with_sb, ↓SameBut.with_sb_job, ↓SameBut.with_stqs, ↓SameBut.with_streams, ↓SameBut.with_streams_qps, ↓SameBut.with_ues, ↓SameBut.haltCoreAt, ↓SameBut.ringNext, ↓SameBut.setCore, List.mem_cons, true_or, or_true, reduceCtorEq, or_false, false_or, ite_self, implies_true, and_self]

@[simp] theorem SameBut.feedStack {l : List Part} {s t : State} (die : ℕ) (core : ℕ) (ring : ℕ) (hregs : .regs ∈ l) (hmem : .mem ∈ l) (hecc : .ecc ∈ l) (hcores : .cores ∈ l) (happs : .apps ∈ l) (hstqs : .stqs ∈ l) (hred : .red ∈ l) (hues : .ues ∈ l) (hstreams : .streams ∈ l) (hqps : .qps ∈ l) (hrcv : .rcv ∈ l) (hsb : .sb ∈ l) (hlog : .log ∈ l) (hjob : .job ∈ l) (hfix : .fix ∈ l) (hck : .ck ∈ l) (hkpr : .kpr ∈ l) :
    SameBut l s (State.feedStack t die core ring) ↔ SameBut l s t :=
  iff_of (State.feedStack_frame t die core ring) (by simp [*]) s

theorem State.mixLoad_frame (s : State) (ag : Agent) (die : ℕ) (core : ℕ) (l' : Iload) :
    SameBut [.regs, .mem, .ecc, .net, .cores, .arbs, .tus, .ports, .apps, .stqs, .red, .arrivals, .sb, .pwr, .log, .fix, .scrubQ] s (State.mixLoad s ag die core l') := by
  simp [State.mixLoad]

@[simp] theorem SameBut.mixLoad {l : List Part} {s t : State} (ag : Agent) (die : ℕ) (core : ℕ) (l' : Iload) (hregs : .regs ∈ l) (hmem : .mem ∈ l) (hecc : .ecc ∈ l) (hnet : .net ∈ l) (hcores : .cores ∈ l) (harbs : .arbs ∈ l) (htus : .tus ∈ l) (hports : .ports ∈ l) (happs : .apps ∈ l) (hstqs : .stqs ∈ l) (hred : .red ∈ l) (harrivals : .arrivals ∈ l) (hsb : .sb ∈ l) (hpwr : .pwr ∈ l) (hlog : .log ∈ l) (hfix : .fix ∈ l) (hscrubQ : .scrubQ ∈ l) :
    SameBut l s (State.mixLoad t ag die core l') ↔ SameBut l s t :=
  iff_of (State.mixLoad_frame t ag die core l') (by simp [*]) s

theorem State.iloadEnd_frame (s : State) (die : ℕ) (core : ℕ) (l' : Iload) :
    SameBut [.regs, .mem, .ecc, .net, .cores, .arbs, .tus, .ports, .apps, .stqs, .red, .arrivals, .sb, .pwr, .log, .fix, .scrubQ] s (State.iloadEnd s die core l').1 := by
  unfold State.iloadEnd
  repeat' first
    | (simp only [↓SameBut.of_self, ↓SameBut.ite_iff, ↓SameBut.forEach_iff, ↓SameBut.foldl_iff, ↓SameBut.foldl_fst_iff, ↓SameBut.fst_ite_iff, ↓SameBut.snd_ite_iff, ↓SameBut.mid_ite_iff, ↓SameBut.with_apps, ↓SameBut.with_arbs, ↓SameBut.with_arrivals, ↓SameBut.with_cores, ↓SameBut.with_ecc, ↓SameBut.with_ecc_net, ↓SameBut.with_fix, ↓SameBut.with_free, ↓SameBut.with_log, ↓SameBut.with_mem, ↓SameBut.with_mem_ecc, ↓SameBut.with_net, ↓SameBut.with_out, ↓SameBut.with_ports, ↓SameBut.with_pwr, ↓SameBut.with_red, ↓SameBut.with_regs, ↓SameBut.with_regs_net_arbs_tus_sb_log_scrubQ_free, ↓SameBut.with_sb, ↓SameBut.with_scrubQ, ↓SameBut.with_stqs, ↓SameBut.with_tus, ↓SameBut.dmaCapture, ↓SameBut.logEvent, ↓SameBut.mixLoad, ↓SameBut.putBytes, ↓SameBut.setCore, ↓SameBut.vread, List.mem_cons, true_or, or_true, reduceCtorEq, or_false, false_or, ite_self, implies_true, and_self]; done)
    | refine (SameBut.forEach_iff _ _ (fun _ _ => ?_)).2 ?_
    | refine (SameBut.foldl_iff _ _ (fun _ _ => ?_)).2 ?_
    | refine (SameBut.foldl_fst_iff _ _ (fun _ _ => ?_)).2 ?_
    | simp only [↓SameBut.of_self, ↓SameBut.ite_iff, ↓SameBut.forEach_iff, ↓SameBut.foldl_iff, ↓SameBut.foldl_fst_iff, ↓SameBut.fst_ite_iff, ↓SameBut.snd_ite_iff, ↓SameBut.mid_ite_iff, ↓SameBut.with_apps, ↓SameBut.with_arbs, ↓SameBut.with_arrivals, ↓SameBut.with_cores, ↓SameBut.with_ecc, ↓SameBut.with_ecc_net, ↓SameBut.with_fix, ↓SameBut.with_free, ↓SameBut.with_log, ↓SameBut.with_mem, ↓SameBut.with_mem_ecc, ↓SameBut.with_net, ↓SameBut.with_out, ↓SameBut.with_ports, ↓SameBut.with_pwr, ↓SameBut.with_red, ↓SameBut.with_regs, ↓SameBut.with_regs_net_arbs_tus_sb_log_scrubQ_free, ↓SameBut.with_sb, ↓SameBut.with_scrubQ, ↓SameBut.with_stqs, ↓SameBut.with_tus, ↓SameBut.dmaCapture, ↓SameBut.logEvent, ↓SameBut.mixLoad, ↓SameBut.putBytes, ↓SameBut.setCore, ↓SameBut.vread, List.mem_cons, true_or, or_true, reduceCtorEq, or_false, false_or, ite_self, implies_true, and_self]
    | (split <;> (rename_i heq; obtain ⟨rfl, rfl⟩ := Prod.ext_iff.1 heq; clear heq)) | (split <;> (rename_i heq; simp only [Prod.ext_iff] at heq; obtain ⟨rfl, rfl, rfl⟩ := heq)) | (split <;> (rename_i heq; simp only [Prod.ext_iff] at heq; obtain ⟨rfl, rfl, rfl, rfl⟩ := heq))
    | (split <;> (rename_i heq; first | (obtain ⟨-, rfl⟩ := Prod.ext_iff.1 heq) | (obtain ⟨rfl, -⟩ := Prod.ext_iff.1 heq) | (simp only [Prod.ext_iff] at heq; obtain ⟨-, rfl, -⟩ := heq) | skip))
    | split
    | (simp [↓SameBut.of_self, ↓SameBut.ite_iff, ↓SameBut.forEach_iff, ↓SameBut.foldl_iff, ↓SameBut.foldl_fst_iff, ↓SameBut.fst_ite_iff, ↓SameBut.snd_ite_iff, ↓SameBut.mid_ite_iff, ↓SameBut.with_apps, ↓SameBut.with_arbs, ↓SameBut.with_arrivals, ↓SameBut.with_cores, ↓SameBut.with_ecc, ↓SameBut.with_ecc_net, ↓SameBut.with_fix, ↓SameBut.with_free, ↓SameBut.with_log, ↓SameBut.with_mem, ↓SameBut.with_mem_ecc, ↓SameBut.with_net, ↓SameBut.with_out, ↓SameBut.with_ports, ↓SameBut.with_pwr, ↓SameBut.with_red, ↓SameBut.with_regs, ↓SameBut.with_regs_net_arbs_tus_sb_log_scrubQ_free, ↓SameBut.with_sb, ↓SameBut.with_scrubQ, ↓SameBut.with_stqs, ↓SameBut.with_tus, ↓SameBut.dmaCapture, ↓SameBut.logEvent, ↓SameBut.mixLoad, ↓SameBut.putBytes, ↓SameBut.setCore, ↓SameBut.vread, List.mem_cons, true_or, or_true, reduceCtorEq, or_false, false_or, ite_self, implies_true, and_self]; done)

@[simp] theorem SameBut.iloadEnd {l : List Part} {s t : State} (die : ℕ) (core : ℕ) (l' : Iload) (hregs : .regs ∈ l) (hmem : .mem ∈ l) (hecc : .ecc ∈ l) (hnet : .net ∈ l) (hcores : .cores ∈ l) (harbs : .arbs ∈ l) (htus : .tus ∈ l) (hports : .ports ∈ l) (happs : .apps ∈ l) (hstqs : .stqs ∈ l) (hred : .red ∈ l) (harrivals : .arrivals ∈ l) (hsb : .sb ∈ l) (hpwr : .pwr ∈ l) (hlog : .log ∈ l) (hfix : .fix ∈ l) (hscrubQ : .scrubQ ∈ l) :
    SameBut l s (State.iloadEnd t die core l').1 ↔ SameBut l s t :=
  iff_of (State.iloadEnd_frame t die core l') (by simp [*]) s

theorem State.leafTag_frame (s : State) (die : ℕ) (core : ℕ) (tag : ℕ) (err : ℕ) :
    SameBut [.regs, .mem, .ecc, .cores, .apps, .stqs, .red, .ues, .streams, .qps, .rcv, .sb, .log, .job, .fix, .ck, .kpr] s (State.leafTag s die core tag err) := by
  unfold State.leafTag
  try simp only []
  repeat' (first | (split <;> (rename_i heq; obtain ⟨rfl, rfl⟩ := Prod.ext_iff.1 heq; clear heq)) | (split <;> (rename_i heq; simp only [Prod.ext_iff] at heq; obtain ⟨rfl, rfl, rfl, rfl⟩ := heq)) | (split <;> (rename_i heq; simp only [Prod.ext_iff] at heq; obtain ⟨rfl, rfl, rfl⟩ := heq)) | split)
  all_goals simp only [↓SameBut.of_self, ↓SameBut.ite_iff, ↓SameBut.forEach_iff, ↓SameBut.foldl_iff, ↓SameBut.foldl_fst_iff, ↓SameBut.fst_ite_iff, ↓SameBut.snd_ite_iff, ↓SameBut.mid_ite_iff, ↓SameBut.with_apps, ↓SameBut.with_apps_stqs_red_ues_streams_job_fix_ck, ↓SameBut.with_ck, ↓SameBut.with_cores, ↓SameBut.with_cores_red_ues_fix, ↓SameBut.with_ecc, ↓SameBut.with_fix, ↓SameBut.with_free, ↓SameBut.with_job, ↓SameBut.with_kpr, ↓SameBut.with_log, ↓SameBut.with_mem, ↓SameBut.with_mem_ecc, ↓SameBut.with_out, ↓SameBut.with_qps, ↓SameBut.with_rcv, ↓SameBut.with_rcv_kpr, ↓SameBut.with_rcv_log, ↓SameBut.with_red, ↓SameBut.with_red_ues, ↓SameBut.with_regs, ↓SameBut.with_sb, ↓SameBut.with_sb_job, ↓SameBut.with_stqs, ↓SameBut.with_streams, ↓SameBut.with_streams_qps, ↓SameBut.with_ues, ↓SameBut.haltCoreAt, ↓SameBut.mayMiss, ↓SameBut.setCore, List.mem_cons, true_or, or_true, reduceCtorEq, or_false, false_or, ite_self, implies_true, and_self]

@[simp] theorem SameBut.leafTag {l : List Part} {s t : State} (die : ℕ) (core : ℕ) (tag : ℕ) (err : ℕ) (hregs : .regs ∈ l) (hmem : .mem ∈ l) (hecc : .ecc ∈ l) (hcores : .cores ∈ l) (happs : .apps ∈ l) (hstqs : .stqs ∈ l) (hred : .red ∈ l) (hues : .ues ∈ l) (hstreams : .streams ∈ l) (hqps : .qps ∈ l) (hrcv : .rcv ∈ l) (hsb : .sb ∈ l) (hlog : .log ∈ l) (hjob : .job ∈ l) (hfix : .fix ∈ l) (hck : .ck ∈ l) (hkpr : .kpr ∈ l) :
    SameBut l s (State.leafTag t die core tag err) ↔ SameBut l s t :=
  iff_of (State.leafTag_frame t die core tag err) (by simp [*]) s

theorem State.mixLocal_frame (s : State) (src : ℕ) (die : ℕ) (core : ℕ) (off : ℕ) (new : List Byte) :
    SameBut [.regs, .mem, .ecc, .sb, .log, .scrubQ] s (State.mixLocal s src die core off new) := by
  unfold State.mixLocal
  repeat' first
    | (simp only [↓SameBut.of_self, ↓SameBut.ite_iff, ↓SameBut.forEach_iff, ↓SameBut.foldl_iff, ↓SameBut.foldl_fst_iff, ↓SameBut.fst_ite_iff, ↓SameBut.snd_ite_iff, ↓SameBut.mid_ite_iff, ↓SameBut.with_ecc, ↓SameBut.with_free, ↓SameBut.with_log, ↓SameBut.with_mem, ↓SameBut.with_mem_ecc, ↓SameBut.with_out, ↓SameBut.with_regs, ↓SameBut.with_sb, ↓SameBut.with_scrubQ, ↓SameBut.localWrite, ↓SameBut.mixBytes, List.mem_cons, true_or, or_true, reduceCtorEq, or_false, false_or, ite_self, implies_true, and_self]; done)
    | refine (SameBut.forEach_iff _ _ (fun _ _ => ?_)).2 ?_
    | refine (SameBut.foldl_iff _ _ (fun _ _ => ?_)).2 ?_
    | refine (SameBut.foldl_fst_iff _ _ (fun _ _ => ?_)).2 ?_
    | simp only [↓SameBut.of_self, ↓SameBut.ite_iff, ↓SameBut.forEach_iff, ↓SameBut.foldl_iff, ↓SameBut.foldl_fst_iff, ↓SameBut.fst_ite_iff, ↓SameBut.snd_ite_iff, ↓SameBut.mid_ite_iff, ↓SameBut.with_ecc, ↓SameBut.with_free, ↓SameBut.with_log, ↓SameBut.with_mem, ↓SameBut.with_mem_ecc, ↓SameBut.with_out, ↓SameBut.with_regs, ↓SameBut.with_sb, ↓SameBut.with_scrubQ, ↓SameBut.localWrite, ↓SameBut.mixBytes, List.mem_cons, true_or, or_true, reduceCtorEq, or_false, false_or, ite_self, implies_true, and_self]
    | (split <;> (rename_i heq; obtain ⟨rfl, rfl⟩ := Prod.ext_iff.1 heq; clear heq)) | (split <;> (rename_i heq; simp only [Prod.ext_iff] at heq; obtain ⟨rfl, rfl, rfl⟩ := heq)) | (split <;> (rename_i heq; simp only [Prod.ext_iff] at heq; obtain ⟨rfl, rfl, rfl, rfl⟩ := heq))
    | (split <;> (rename_i heq; first | (obtain ⟨-, rfl⟩ := Prod.ext_iff.1 heq) | (obtain ⟨rfl, -⟩ := Prod.ext_iff.1 heq) | (simp only [Prod.ext_iff] at heq; obtain ⟨-, rfl, -⟩ := heq) | skip))
    | split
    | (simp [↓SameBut.of_self, ↓SameBut.ite_iff, ↓SameBut.forEach_iff, ↓SameBut.foldl_iff, ↓SameBut.foldl_fst_iff, ↓SameBut.fst_ite_iff, ↓SameBut.snd_ite_iff, ↓SameBut.mid_ite_iff, ↓SameBut.with_ecc, ↓SameBut.with_free, ↓SameBut.with_log, ↓SameBut.with_mem, ↓SameBut.with_mem_ecc, ↓SameBut.with_out, ↓SameBut.with_regs, ↓SameBut.with_sb, ↓SameBut.with_scrubQ, ↓SameBut.localWrite, ↓SameBut.mixBytes, List.mem_cons, true_or, or_true, reduceCtorEq, or_false, false_or, ite_self, implies_true, and_self]; done)

@[simp] theorem SameBut.mixLocal {l : List Part} {s t : State} (src : ℕ) (die : ℕ) (core : ℕ) (off : ℕ) (new : List Byte) (hregs : .regs ∈ l) (hmem : .mem ∈ l) (hecc : .ecc ∈ l) (hsb : .sb ∈ l) (hlog : .log ∈ l) (hscrubQ : .scrubQ ∈ l) :
    SameBut l s (State.mixLocal t src die core off new) ↔ SameBut l s t :=
  iff_of (State.mixLocal_frame t src die core off new) (by simp [*]) s

theorem State.mixRemote_frame (s : State) (ag : Agent) (accs : List (ℕ × List Byte)) :
    SameBut [.regs, .mem, .ecc, .net, .cores, .arbs, .tus, .ports, .apps, .stqs, .red, .arrivals, .sb, .pwr, .log, .fix, .scrubQ] s (State.mixRemote s ag accs) := by
  unfold State.mixRemote
  repeat' first
    | (simp only [↓SameBut.of_self, ↓SameBut.ite_iff, ↓SameBut.forEach_iff, ↓SameBut.foldl_iff, ↓SameBut.foldl_fst_iff, ↓SameBut.fst_ite_iff, ↓SameBut.snd_ite_iff, ↓SameBut.mid_ite_iff, ↓SameBut.with_apps, ↓SameBut.with_arbs, ↓SameBut.with_arrivals, ↓SameBut.with_cores, ↓SameBut.with_ecc, ↓SameBut.with_ecc_net, ↓SameBut.with_fix, ↓SameBut.with_free, ↓SameBut.with_log, ↓SameBut.with_mem, ↓SameBut.with_mem_ecc, ↓SameBut.with_net, ↓SameBut.with_out, ↓SameBut.with_ports, ↓SameBut.with_pwr, ↓SameBut.with_red, ↓SameBut.with_regs, ↓SameBut.with_regs_net_arbs_tus_sb_log_scrubQ_free, ↓SameBut.with_sb, ↓SameBut.with_scrubQ, ↓SameBut.with_stqs, ↓SameBut.with_tus, ↓SameBut.fresh, ↓SameBut.remoteAcc, List.mem_cons, true_or, or_true, reduceCtorEq, or_false, false_or, ite_self, implies_true, and_self]; done)
    | refine (SameBut.forEach_iff _ _ (fun _ _ => ?_)).2 ?_
    | refine (SameBut.foldl_iff _ _ (fun _ _ => ?_)).2 ?_
    | refine (SameBut.foldl_fst_iff _ _ (fun _ _ => ?_)).2 ?_
    | simp only [↓SameBut.of_self, ↓SameBut.ite_iff, ↓SameBut.forEach_iff, ↓SameBut.foldl_iff, ↓SameBut.foldl_fst_iff, ↓SameBut.fst_ite_iff, ↓SameBut.snd_ite_iff, ↓SameBut.mid_ite_iff, ↓SameBut.with_apps, ↓SameBut.with_arbs, ↓SameBut.with_arrivals, ↓SameBut.with_cores, ↓SameBut.with_ecc, ↓SameBut.with_ecc_net, ↓SameBut.with_fix, ↓SameBut.with_free, ↓SameBut.with_log, ↓SameBut.with_mem, ↓SameBut.with_mem_ecc, ↓SameBut.with_net, ↓SameBut.with_out, ↓SameBut.with_ports, ↓SameBut.with_pwr, ↓SameBut.with_red, ↓SameBut.with_regs, ↓SameBut.with_regs_net_arbs_tus_sb_log_scrubQ_free, ↓SameBut.with_sb, ↓SameBut.with_scrubQ, ↓SameBut.with_stqs, ↓SameBut.with_tus, ↓SameBut.fresh, ↓SameBut.remoteAcc, List.mem_cons, true_or, or_true, reduceCtorEq, or_false, false_or, ite_self, implies_true, and_self]
    | (split <;> (rename_i heq; obtain ⟨rfl, rfl⟩ := Prod.ext_iff.1 heq; clear heq)) | (split <;> (rename_i heq; simp only [Prod.ext_iff] at heq; obtain ⟨rfl, rfl, rfl⟩ := heq)) | (split <;> (rename_i heq; simp only [Prod.ext_iff] at heq; obtain ⟨rfl, rfl, rfl, rfl⟩ := heq))
    | (split <;> (rename_i heq; first | (obtain ⟨-, rfl⟩ := Prod.ext_iff.1 heq) | (obtain ⟨rfl, -⟩ := Prod.ext_iff.1 heq) | (simp only [Prod.ext_iff] at heq; obtain ⟨-, rfl, -⟩ := heq) | skip))
    | split
    | (simp [↓SameBut.of_self, ↓SameBut.ite_iff, ↓SameBut.forEach_iff, ↓SameBut.foldl_iff, ↓SameBut.foldl_fst_iff, ↓SameBut.fst_ite_iff, ↓SameBut.snd_ite_iff, ↓SameBut.mid_ite_iff, ↓SameBut.with_apps, ↓SameBut.with_arbs, ↓SameBut.with_arrivals, ↓SameBut.with_cores, ↓SameBut.with_ecc, ↓SameBut.with_ecc_net, ↓SameBut.with_fix, ↓SameBut.with_free, ↓SameBut.with_log, ↓SameBut.with_mem, ↓SameBut.with_mem_ecc, ↓SameBut.with_net, ↓SameBut.with_out, ↓SameBut.with_ports, ↓SameBut.with_pwr, ↓SameBut.with_red, ↓SameBut.with_regs, ↓SameBut.with_regs_net_arbs_tus_sb_log_scrubQ_free, ↓SameBut.with_sb, ↓SameBut.with_scrubQ, ↓SameBut.with_stqs, ↓SameBut.with_tus, ↓SameBut.fresh, ↓SameBut.remoteAcc, List.mem_cons, true_or, or_true, reduceCtorEq, or_false, false_or, ite_self, implies_true, and_self]; done)

@[simp] theorem SameBut.mixRemote {l : List Part} {s t : State} (ag : Agent) (accs : List (ℕ × List Byte)) (hregs : .regs ∈ l) (hmem : .mem ∈ l) (hecc : .ecc ∈ l) (hnet : .net ∈ l) (hcores : .cores ∈ l) (harbs : .arbs ∈ l) (htus : .tus ∈ l) (hports : .ports ∈ l) (happs : .apps ∈ l) (hstqs : .stqs ∈ l) (hred : .red ∈ l) (harrivals : .arrivals ∈ l) (hsb : .sb ∈ l) (hpwr : .pwr ∈ l) (hlog : .log ∈ l) (hfix : .fix ∈ l) (hscrubQ : .scrubQ ∈ l) :
    SameBut l s (State.mixRemote t ag accs) ↔ SameBut l s t :=
  iff_of (State.mixRemote_frame t ag accs) (by simp [*]) s

theorem State.packStat_frame (s : State) (die : ℕ) (core : ℕ) :
    SameBut [.regs] s (State.packStat s die core) := by
  simp [State.packStat]

@[simp] theorem SameBut.packStat {l : List Part} {s t : State} (die : ℕ) (core : ℕ) (hregs : .regs ∈ l) :
    SameBut l s (State.packStat t die core) ↔ SameBut l s t :=
  iff_of (State.packStat_frame t die core) (by simp [*]) s

theorem State.packOverfull_frame (s : State) (die : ℕ) (core : ℕ) (i : ℕ) (x : Xfer) (st : PackStep) (e : XferFault) :
    SameBut [.regs, .mem, .ecc, .cores, .sb, .log] s (State.packOverfull s die core i x st e) := by
  simp [State.packOverfull]

@[simp] theorem SameBut.packOverfull {l : List Part} {s t : State} (die : ℕ) (core : ℕ) (i : ℕ) (x : Xfer) (st : PackStep) (e : XferFault) (hregs : .regs ∈ l) (hmem : .mem ∈ l) (hecc : .ecc ∈ l) (hcores : .cores ∈ l) (hsb : .sb ∈ l) (hlog : .log ∈ l) :
    SameBut l s (State.packOverfull t die core i x st e) ↔ SameBut l s t :=
  iff_of (State.packOverfull_frame t die core i x st e) (by simp [*]) s

theorem State.xferFault_frame (s : State) (die : ℕ) (core : ℕ) (i : ℕ) (x : Xfer) (e : XferFault) :
    SameBut [.regs, .mem, .ecc, .cores, .apps, .stqs, .red, .ues, .streams, .qps, .rcv, .sb, .log, .job, .fix, .ck, .kpr] s (State.xferFault s die core i x e) := by
  unfold State.xferFault
  try simp only []
  simp only [↓SameBut.of_self, ↓SameBut.ite_iff, ↓SameBut.forEach_iff, ↓SameBut.foldl_iff, ↓SameBut.foldl_fst_iff, ↓SameBut.fst_ite_iff, ↓SameBut.snd_ite_iff, ↓SameBut.mid_ite_iff, ↓SameBut.with_apps, ↓SameBut.with_apps_stqs_red_ues_streams_job_fix_ck, ↓SameBut.with_ck, ↓SameBut.with_cores, ↓SameBut.with_cores_red_ues_fix, ↓SameBut.with_ecc, ↓SameBut.with_fix, ↓SameBut.with_free, ↓SameBut.with_job, ↓SameBut.with_kpr, ↓SameBut.with_log, ↓SameBut.with_mem, ↓SameBut.with_mem_ecc, ↓SameBut.with_out, ↓SameBut.with_qps, ↓SameBut.with_rcv, ↓SameBut.with_rcv_kpr, ↓SameBut.with_rcv_log, ↓SameBut.with_red, ↓SameBut.with_red_ues, ↓SameBut.with_regs, ↓SameBut.with_sb, ↓SameBut.with_sb_job, ↓SameBut.with_stqs, ↓SameBut.with_streams, ↓SameBut.with_streams_qps, ↓SameBut.with_ues, ↓SameBut.failXfer, ↓SameBut.leafTag, ↓SameBut.packStat, List.mem_cons, true_or, or_true, reduceCtorEq, or_false, false_or, ite_self, implies_true, and_self]

@[simp] theorem SameBut.xferFault {l : List Part} {s t : State} (die : ℕ) (core : ℕ) (i : ℕ) (x : Xfer) (e : XferFault) (hregs : .regs ∈ l) (hmem : .mem ∈ l) (hecc : .ecc ∈ l) (hcores : .cores ∈ l) (happs : .apps ∈ l) (hstqs : .stqs ∈ l) (hred : .red ∈ l) (hues : .ues ∈ l) (hstreams : .streams ∈ l) (hqps : .qps ∈ l) (hrcv : .rcv ∈ l) (hsb : .sb ∈ l) (hlog : .log ∈ l) (hjob : .job ∈ l) (hfix : .fix ∈ l) (hck : .ck ∈ l) (hkpr : .kpr ∈ l) :
    SameBut l s (State.xferFault t die core i x e) ↔ SameBut l s t :=
  iff_of (State.xferFault_frame t die core i x e) (by simp [*]) s

theorem State.xferMoved_frame (s : State) (die : ℕ) (core : ℕ) (i : ℕ) (x : Xfer) :
    SameBut [.regs, .cores, .apps] s (State.xferMoved s die core i x) := by
  simp [State.xferMoved]

@[simp] theorem SameBut.xferMoved {l : List Part} {s t : State} (die : ℕ) (core : ℕ) (i : ℕ) (x : Xfer) (hregs : .regs ∈ l) (hcores : .cores ∈ l) (happs : .apps ∈ l) :
    SameBut l s (State.xferMoved t die core i x) ↔ SameBut l s t :=
  iff_of (State.xferMoved_frame t die core i x) (by simp [*]) s

end Sys2Proof.Machine
end

