-- ==== Sys2Proof/Laws/Stack.lean ====
section
/-!
SUPPORT. Laws of the operations of Machine/Stack.lean: the parts of the state that each may change.
-/
set_option linter.unusedSimpArgs false
set_option linter.unusedTactic false
set_option linter.unreachableTactic false
namespace Sys2Proof.Machine

theorem State.emptyStack_frame (s : State) (die : ℕ) (core : ℕ) :
    SameBut [.regs] s (State.emptyStack s die core) := by
  simp [State.emptyStack]

@[simp] theorem SameBut.emptyStack {l : List Part} {s t : State} (die : ℕ) (core : ℕ) (hregs : .regs ∈ l) :
    SameBut l s (State.emptyStack t die core) ↔ SameBut l s t :=
  iff_of (State.emptyStack_frame t die core) (by simp [*]) s

theorem State.popFront_frame (s : State) (die : ℕ) (core : ℕ) :
    SameBut [.regs, .mem, .ecc, .cores, .apps, .stqs, .red, .ues, .streams, .qps, .rcv, .sb, .log, .job, .fix, .ck, .kpr] s (State.popFront s die core) := by
  unfold State.popFront
  try simp only []
  simp only [↓SameBut.of_self, ↓SameBut.ite_iff, ↓SameBut.forEach_iff, ↓SameBut.foldl_iff, ↓SameBut.foldl_fst_iff, ↓SameBut.fst_ite_iff, ↓SameBut.snd_ite_iff, ↓SameBut.mid_ite_iff, ↓SameBut.with_apps, ↓SameBut.with_apps_stqs_red_ues_streams_job_fix_ck, ↓SameBut.with_ck, ↓SameBut.with_cores, ↓SameBut.with_cores_red_ues_fix, ↓SameBut.with_ecc, ↓SameBut.with_fix, ↓SameBut.with_free, ↓SameBut.with_job, ↓SameBut.with_kpr, ↓SameBut.with_log, ↓SameBut.with_mem, ↓SameBut.with_mem_ecc, ↓SameBut.with_out, ↓SameBut.with_qps, ↓SameBut.with_rcv, ↓SameBut.with_rcv_kpr, ↓SameBut.with_rcv_log, ↓SameBut.with_red, ↓SameBut.with_red_ues, ↓SameBut.with_regs, ↓SameBut.with_sb, ↓SameBut.with_sb_job, ↓SameBut.with_stqs, ↓SameBut.with_streams, ↓SameBut.with_streams_qps, ↓SameBut.with_ues, ↓SameBut.feedStack, ↓SameBut.setCore, ↓SameBut.wr, List.mem_cons, true_or, or_true, reduceCtorEq, or_false, false_or, ite_self, implies_true, and_self]

@[simp] theorem SameBut.popFront {l : List Part} {s t : State} (die : ℕ) (core : ℕ) (hregs : .regs ∈ l) (hmem : .mem ∈ l) (hecc : .ecc ∈ l) (hcores : .cores ∈ l) (happs : .apps ∈ l) (hstqs : .stqs ∈ l) (hred : .red ∈ l) (hues : .ues ∈ l) (hstreams : .streams ∈ l) (hqps : .qps ∈ l) (hrcv : .rcv ∈ l) (hsb : .sb ∈ l) (hlog : .log ∈ l) (hjob : .job ∈ l) (hfix : .fix ∈ l) (hck : .ck ∈ l) (hkpr : .kpr ∈ l) :
    SameBut l s (State.popFront t die core) ↔ SameBut l s t :=
  iff_of (State.popFront_frame t die core) (by simp [*]) s

theorem State.endFrame_frame (s : State) (die : ℕ) (core : ℕ) :
    SameBut [.regs, .mem, .ecc, .cores, .apps, .stqs, .red, .ues, .streams, .qps, .rcv, .sb, .log, .job, .fix, .ck, .kpr] s (State.endFrame s die core) := by
  unfold State.endFrame
  try simp only []
  repeat' (first | (split <;> (rename_i heq; obtain ⟨rfl, rfl⟩ := Prod.ext_iff.1 heq; clear heq)) | (split <;> (rename_i heq; simp only [Prod.ext_iff] at heq; obtain ⟨rfl, rfl, rfl, rfl⟩ := heq)) | (split <;> (rename_i heq; simp only [Prod.ext_iff] at heq; obtain ⟨rfl, rfl, rfl⟩ := heq)) | split)
  all_goals simp only [↓SameBut.of_self, ↓SameBut.ite_iff, ↓SameBut.forEach_iff, ↓SameBut.foldl_iff, ↓SameBut.foldl_fst_iff, ↓SameBut.fst_ite_iff, ↓SameBut.snd_ite_iff, ↓SameBut.mid_ite_iff, ↓SameBut.with_apps, ↓SameBut.with_apps_stqs_red_ues_streams_job_fix_ck, ↓SameBut.with_ck, ↓SameBut.with_cores, ↓SameBut.with_cores_red_ues_fix, ↓SameBut.with_ecc, ↓SameBut.with_fix, ↓SameBut.with_free, ↓SameBut.with_job, ↓SameBut.with_kpr, ↓SameBut.with_log, ↓SameBut.with_mem, ↓SameBut.with_mem_ecc, ↓SameBut.with_out, ↓SameBut.with_qps, ↓SameBut.with_rcv, ↓SameBut.with_rcv_kpr, ↓SameBut.with_rcv_log, ↓SameBut.with_red, ↓SameBut.with_red_ues, ↓SameBut.with_regs, ↓SameBut.with_sb, ↓SameBut.with_sb_job, ↓SameBut.with_stqs, ↓SameBut.with_streams, ↓SameBut.with_streams_qps, ↓SameBut.with_ues, ↓SameBut.endXfer, ↓SameBut.popFront, List.mem_cons, true_or, or_true, reduceCtorEq, or_false, false_or, ite_self, implies_true, and_self]

@[simp] theorem SameBut.endFrame {l : List Part} {s t : State} (die : ℕ) (core : ℕ) (hregs : .regs ∈ l) (hmem : .mem ∈ l) (hecc : .ecc ∈ l) (hcores : .cores ∈ l) (happs : .apps ∈ l) (hstqs : .stqs ∈ l) (hred : .red ∈ l) (hues : .ues ∈ l) (hstreams : .streams ∈ l) (hqps : .qps ∈ l) (hrcv : .rcv ∈ l) (hsb : .sb ∈ l) (hlog : .log ∈ l) (hjob : .job ∈ l) (hfix : .fix ∈ l) (hck : .ck ∈ l) (hkpr : .kpr ∈ l) :
    SameBut l s (State.endFrame t die core) ↔ SameBut l s t :=
  iff_of (State.endFrame_frame t die core) (by simp [*]) s

theorem State.setFront_frame (s : State) (die : ℕ) (core : ℕ) (o : StackOp) :
    SameBut [.cores] s (State.setFront s die core o) := by
  simp [State.setFront]

@[simp] theorem SameBut.setFront {l : List Part} {s t : State} (die : ℕ) (core : ℕ) (o : StackOp) (hcores : .cores ∈ l) :
    SameBut l s (State.setFront t die core o) ↔ SameBut l s t :=
  iff_of (State.setFront_frame t die core o) (by simp [*]) s

theorem State.stackHalt_frame (s : State) (die : ℕ) (core : ℕ) (code : ℕ) (d0 : ℕ) (d1 : ℕ) :
    SameBut [.regs, .mem, .ecc, .cores, .apps, .stqs, .red, .ues, .streams, .qps, .rcv, .sb, .log, .job, .fix, .ck, .kpr] s (State.stackHalt s die core code d0 d1) := by
  unfold State.stackHalt
  try simp only []
  simp only [↓SameBut.of_self, ↓SameBut.ite_iff, ↓SameBut.forEach_iff, ↓SameBut.foldl_iff, ↓SameBut.foldl_fst_iff, ↓SameBut.fst_ite_iff, ↓SameBut.snd_ite_iff, ↓SameBut.mid_ite_iff, ↓SameBut.with_apps, ↓SameBut.with_apps_stqs_red_ues_streams_job_fix_ck, ↓SameBut.with_ck, ↓SameBut.with_cores, ↓SameBut.with_cores_red_ues_fix, ↓SameBut.with_ecc, ↓SameBut.with_fix, ↓SameBut.with_free, ↓SameBut.with_job, ↓SameBut.with_kpr, ↓SameBut.with_log, ↓SameBut.with_mem, ↓SameBut.with_mem_ecc, ↓SameBut.with_out, ↓SameBut.with_qps, ↓SameBut.with_rcv, ↓SameBut.with_rcv_kpr, ↓SameBut.with_rcv_log, ↓SameBut.with_red, ↓SameBut.with_red_ues, ↓SameBut.with_regs, ↓SameBut.with_sb, ↓SameBut.with_sb_job, ↓SameBut.with_stqs, ↓SameBut.with_streams, ↓SameBut.with_streams_qps, ↓SameBut.with_ues, ↓SameBut.haltCore, ↓SameBut.logHalt, ↓SameBut.popFront, List.mem_cons, true_or, or_true, reduceCtorEq, or_false, false_or, ite_self, implies_true, and_self]

@[simp] theorem SameBut.stackHalt {l : List Part} {s t : State} (die : ℕ) (core : ℕ) (code : ℕ) (d0 : ℕ) (d1 : ℕ) (hregs : .regs ∈ l) (hmem : .mem ∈ l) (hecc : .ecc ∈ l) (hcores : .cores ∈ l) (happs : .apps ∈ l) (hstqs : .stqs ∈ l) (hred : .red ∈ l) (hues : .ues ∈ l) (hstreams : .streams ∈ l) (hqps : .qps ∈ l) (hrcv : .rcv ∈ l) (hsb : .sb ∈ l) (hlog : .log ∈ l) (hjob : .job ∈ l) (hfix : .fix ∈ l) (hck : .ck ∈ l) (hkpr : .kpr ∈ l) :
    SameBut l s (State.stackHalt t die core code d0 d1) ↔ SameBut l s t :=
  iff_of (State.stackHalt_frame t die core code d0 d1) (by simp [*]) s

theorem State.staleStamps_frame (s : State) (die : ℕ) (core : ℕ) (layer : ℕ) (l' : List (ℕ × ℕ × ℕ)) :
    SameBut [.regs, .sb, .log, .fix] s (State.staleStamps s die core layer l') := by
  unfold State.staleStamps
  try simp only []
  simp only [↓SameBut.of_self, ↓SameBut.ite_iff, ↓SameBut.forEach_iff, ↓SameBut.foldl_iff, ↓SameBut.foldl_fst_iff, ↓SameBut.fst_ite_iff, ↓SameBut.snd_ite_iff, ↓SameBut.mid_ite_iff, ↓SameBut.with_fix, ↓SameBut.with_free, ↓SameBut.with_log, ↓SameBut.with_out, ↓SameBut.with_regs, ↓SameBut.with_sb, ↓SameBut.bump, ↓SameBut.logAs, ↓SameBut.wr, List.mem_cons, true_or, or_true, reduceCtorEq, or_false, false_or, ite_self, implies_true, and_self]

@[simp] theorem SameBut.staleStamps {l : List Part} {s t : State} (die : ℕ) (core : ℕ) (layer : ℕ) (l' : List (ℕ × ℕ × ℕ)) (hregs : .regs ∈ l) (hsb : .sb ∈ l) (hlog : .log ∈ l) (hfix : .fix ∈ l) :
    SameBut l s (State.staleStamps t die core layer l') ↔ SameBut l s t :=
  iff_of (State.staleStamps_frame t die core layer l') (by simp [*]) s

theorem State.startFrame_frame (s : State) (die : ℕ) (core : ℕ) (o : StackOp) (payload : ℕ) :
    SameBut [.regs, .ecc, .cores, .tus, .sb, .pwr, .log] s (State.startFrame s die core o payload) := by
  simp [State.startFrame]

@[simp] theorem SameBut.startFrame {l : List Part} {s t : State} (die : ℕ) (core : ℕ) (o : StackOp) (payload : ℕ) (hregs : .regs ∈ l) (hecc : .ecc ∈ l) (hcores : .cores ∈ l) (htus : .tus ∈ l) (hsb : .sb ∈ l) (hpwr : .pwr ∈ l) (hlog : .log ∈ l) :
    SameBut l s (State.startFrame t die core o payload) ↔ SameBut l s t :=
  iff_of (State.startFrame_frame t die core o payload) (by simp [*]) s

end Sys2Proof.Machine
end

