-- ==== Sys2Proof/Laws/Fixer.lean ====
section
/-!
SUPPORT. Laws of the operations of Machine/Fixer.lean: the parts of the state that each may change.
-/
set_option linter.unusedSimpArgs false
set_option linter.unusedTactic false
set_option linter.unreachableTactic false
namespace Sys2Proof.Machine

theorem State.addNorms_frame (s : State) (n : ℕ) :
    SameBut [.mem, .ecc] s (State.addNorms s n) := by
  simp [State.addNorms]

@[simp] theorem SameBut.addNorms {l : List Part} {s t : State} (n : ℕ) (hmem : .mem ∈ l) (hecc : .ecc ∈ l) :
    SameBut l s (State.addNorms t n) ↔ SameBut l s t :=
  iff_of (State.addNorms_frame t n) (by simp [*]) s

theorem State.pushHistory_frame (s : State) (n : ℕ) (amax : ℕ) :
    SameBut [.mem, .ecc] s (State.pushHistory s n amax) := by
  simp [State.pushHistory]

@[simp] theorem SameBut.pushHistory {l : List Part} {s t : State} (n : ℕ) (amax : ℕ) (hmem : .mem ∈ l) (hecc : .ecc ∈ l) :
    SameBut l s (State.pushHistory t n amax) ↔ SameBut l s t :=
  iff_of (State.pushHistory_frame t n amax) (by simp [*]) s

theorem State.chooseFormat_frame (s : State) (n : ℕ) :
    SameBut [.mem, .ecc] s (State.chooseFormat s n) := by
  simp [State.chooseFormat]

@[simp] theorem SameBut.chooseFormat {l : List Part} {s t : State} (n : ℕ) (hmem : .mem ∈ l) (hecc : .ecc ∈ l) :
    SameBut l s (State.chooseFormat t n) ↔ SameBut l s t :=
  iff_of (State.chooseFormat_frame t n) (by simp [*]) s

theorem State.fillRing_frame (s : State) (cons : ℕ) :
    SameBut [.regs, .mem, .ecc, .net, .cores, .arbs, .ports, .apps, .stqs, .red, .arrivals, .sb, .pwr, .log, .fix, .ck, .scrubQ] s (State.fillRing s cons) := by
  unfold State.fillRing
  repeat' first
    | (simp only [↓SameBut.of_self, ↓SameBut.ite_iff, ↓SameBut.forEach_iff, ↓SameBut.foldl_iff, ↓SameBut.foldl_fst_iff, ↓SameBut.fst_ite_iff, ↓SameBut.snd_ite_iff, ↓SameBut.mid_ite_iff, ↓SameBut.with_apps, ↓SameBut.with_arbs, ↓SameBut.with_arrivals, ↓SameBut.with_ck, ↓SameBut.with_cores, ↓SameBut.with_ecc, ↓SameBut.with_ecc_net, ↓SameBut.with_fix, ↓SameBut.with_free, ↓SameBut.with_log, ↓SameBut.with_mem, ↓SameBut.with_mem_ecc, ↓SameBut.with_net, ↓SameBut.with_out, ↓SameBut.with_ports, ↓SameBut.with_pwr, ↓SameBut.with_red, ↓SameBut.with_regs, ↓SameBut.with_sb, ↓SameBut.with_scrubQ, ↓SameBut.with_stqs, ↓SameBut.putTarget, List.mem_cons, true_or, or_true, reduceCtorEq, or_false, false_or, ite_self, implies_true, and_self]; done)
    | refine (SameBut.forEach_iff _ _ (fun _ _ => ?_)).2 ?_
    | refine (SameBut.foldl_iff _ _ (fun _ _ => ?_)).2 ?_
    | refine (SameBut.foldl_fst_iff _ _ (fun _ _ => ?_)).2 ?_
    | simp only [↓SameBut.of_self, ↓SameBut.ite_iff, ↓SameBut.forEach_iff, ↓SameBut.foldl_iff, ↓SameBut.foldl_fst_iff, ↓SameBut.fst_ite_iff, ↓SameBut.snd_ite_iff, ↓SameBut.mid_ite_iff, ↓SameBut.with_apps, ↓SameBut.with_arbs, ↓SameBut.with_arrivals, ↓SameBut.with_ck, ↓SameBut.with_cores, ↓SameBut.with_ecc, ↓SameBut.with_ecc_net, ↓SameBut.with_fix, ↓SameBut.with_free, ↓SameBut.with_log, ↓SameBut.with_mem, ↓SameBut.with_mem_ecc, ↓SameBut.with_net, ↓SameBut.with_out, ↓SameBut.with_ports, ↓SameBut.with_pwr, ↓SameBut.with_red, ↓SameBut.with_regs, ↓SameBut.with_sb, ↓SameBut.with_scrubQ, ↓SameBut.with_stqs, ↓SameBut.putTarget, List.mem_cons, true_or, or_true, reduceCtorEq, or_false, false_or, ite_self, implies_true, and_self]
    | (split <;> (rename_i heq; obtain ⟨rfl, rfl⟩ := Prod.ext_iff.1 heq; clear heq)) | (split <;> (rename_i heq; simp only [Prod.ext_iff] at heq; obtain ⟨rfl, rfl, rfl⟩ := heq)) | (split <;> (rename_i heq; simp only [Prod.ext_iff] at heq; obtain ⟨rfl, rfl, rfl, rfl⟩ := heq))
    | (split <;> (rename_i heq; first | (obtain ⟨-, rfl⟩ := Prod.ext_iff.1 heq) | (obtain ⟨rfl, -⟩ := Prod.ext_iff.1 heq) | (simp only [Prod.ext_iff] at heq; obtain ⟨-, rfl, -⟩ := heq) | skip))
    | split
    | (simp [↓SameBut.of_self, ↓SameBut.ite_iff, ↓SameBut.forEach_iff, ↓SameBut.foldl_iff, ↓SameBut.foldl_fst_iff, ↓SameBut.fst_ite_iff, ↓SameBut.snd_ite_iff, ↓SameBut.mid_ite_iff, ↓SameBut.with_apps, ↓SameBut.with_arbs, ↓SameBut.with_arrivals, ↓SameBut.with_ck, ↓SameBut.with_cores, ↓SameBut.with_ecc, ↓SameBut.with_ecc_net, ↓SameBut.with_fix, ↓SameBut.with_free, ↓SameBut.with_log, ↓SameBut.with_mem, ↓SameBut.with_mem_ecc, ↓SameBut.with_net, ↓SameBut.with_out, ↓SameBut.with_ports, ↓SameBut.with_pwr, ↓SameBut.with_red, ↓SameBut.with_regs, ↓SameBut.with_sb, ↓SameBut.with_scrubQ, ↓SameBut.with_stqs, ↓SameBut.putTarget, List.mem_cons, true_or, or_true, reduceCtorEq, or_false, false_or, ite_self, implies_true, and_self]; done)

@[simp] theorem SameBut.fillRing {l : List Part} {s t : State} (cons : ℕ) (hregs : .regs ∈ l) (hmem : .mem ∈ l) (hecc : .ecc ∈ l) (hnet : .net ∈ l) (hcores : .cores ∈ l) (harbs : .arbs ∈ l) (hports : .ports ∈ l) (happs : .apps ∈ l) (hstqs : .stqs ∈ l) (hred : .red ∈ l) (harrivals : .arrivals ∈ l) (hsb : .sb ∈ l) (hpwr : .pwr ∈ l) (hlog : .log ∈ l) (hfix : .fix ∈ l) (hck : .ck ∈ l) (hscrubQ : .scrubQ ∈ l) :
    SameBut l s (State.fillRing t cons) ↔ SameBut l s t :=
  iff_of (State.fillRing_frame t cons) (by simp [*]) s

theorem State.chooseRshift_frame (s : State) (n : ℕ) :
    SameBut [.mem, .ecc] s (State.chooseRshift s n) := by
  unfold State.chooseRshift
  try simp only []
  (repeat' split) <;> simp

@[simp] theorem SameBut.chooseRshift {l : List Part} {s t : State} (n : ℕ) (hmem : .mem ∈ l) (hecc : .ecc ∈ l) :
    SameBut l s (State.chooseRshift t n) ↔ SameBut l s t :=
  iff_of (State.chooseRshift_frame t n) (by simp [*]) s

theorem State.writeWindow_frame (s : State) :
    SameBut [.mem, .ecc, .gshift] s (State.writeWindow s) := by
  simp [State.writeWindow]

@[simp] theorem SameBut.writeWindow {l : List Part} {s t : State}  (hmem : .mem ∈ l) (hecc : .ecc ∈ l) (hgshift : .gshift ∈ l) :
    SameBut l s (State.writeWindow t) ↔ SameBut l s t :=
  iff_of (State.writeWindow_frame t) (by simp [*]) s

theorem State.commitOrSkip_frame (s : State) (d : Vote) :
    SameBut [.regs] s (State.commitOrSkip s d) := by
  simp [State.commitOrSkip]

@[simp] theorem SameBut.commitOrSkip {l : List Part} {s t : State} (d : Vote) (hregs : .regs ∈ l) :
    SameBut l s (State.commitOrSkip t d) ↔ SameBut l s t :=
  iff_of (State.commitOrSkip_frame t d) (by simp [*]) s

theorem State.releaseStream_frame (s : State) (k : ℕ) (x : StreamRun) :
    SameBut [.regs, .mem, .ecc, .streams, .sb, .log, .fix] s (State.releaseStream s k x) := by
  simp [State.releaseStream]

@[simp] theorem SameBut.releaseStream {l : List Part} {s t : State} (k : ℕ) (x : StreamRun) (hregs : .regs ∈ l) (hmem : .mem ∈ l) (hecc : .ecc ∈ l) (hstreams : .streams ∈ l) (hsb : .sb ∈ l) (hlog : .log ∈ l) (hfix : .fix ∈ l) :
    SameBut l s (State.releaseStream t k x) ↔ SameBut l s t :=
  iff_of (State.releaseStream_frame t k x) (by simp [*]) s

theorem State.release_frame (s : State) :
    SameBut [.regs, .mem, .ecc, .cores, .red, .ues, .streams, .sb, .log, .fix] s (State.release s) := by
  unfold State.release
  repeat' first
    | (simp only [↓SameBut.of_self, ↓SameBut.ite_iff, ↓SameBut.forEach_iff, ↓SameBut.foldl_iff, ↓SameBut.foldl_fst_iff, ↓SameBut.fst_ite_iff, ↓SameBut.snd_ite_iff, ↓SameBut.mid_ite_iff, ↓SameBut.with_cores, ↓SameBut.with_cores_red_ues_fix, ↓SameBut.with_ecc, ↓SameBut.with_fix, ↓SameBut.with_free, ↓SameBut.with_log, ↓SameBut.with_mem, ↓SameBut.with_mem_ecc, ↓SameBut.with_out, ↓SameBut.with_red, ↓SameBut.with_red_ues, ↓SameBut.with_regs, ↓SameBut.with_sb, ↓SameBut.with_streams, ↓SameBut.with_ues, ↓SameBut.redStat, ↓SameBut.releaseStream, ↓SameBut.wr, ↓SameBut.zeroRange, List.mem_cons, true_or, or_true, reduceCtorEq, or_false, false_or, ite_self, implies_true, and_self]; done)
    | refine (SameBut.forEach_iff _ _ (fun _ _ => ?_)).2 ?_
    | refine (SameBut.foldl_iff _ _ (fun _ _ => ?_)).2 ?_
    | refine (SameBut.foldl_fst_iff _ _ (fun _ _ => ?_)).2 ?_
    | simp only [↓SameBut.of_self, ↓SameBut.ite_iff, ↓SameBut.forEach_iff, ↓SameBut.foldl_iff, ↓SameBut.foldl_fst_iff, ↓SameBut.fst_ite_iff, ↓SameBut.snd_ite_iff, ↓SameBut.mid_ite_iff, ↓SameBut.with_cores, ↓SameBut.with_cores_red_ues_fix, ↓SameBut.with_ecc, ↓SameBut.with_fix, ↓SameBut.with_free, ↓SameBut.with_log, ↓SameBut.with_mem, ↓SameBut.with_mem_ecc, ↓SameBut.with_out, ↓SameBut.with_red, ↓SameBut.with_red_ues, ↓SameBut.with_regs, ↓SameBut.with_sb, ↓SameBut.with_streams, ↓SameBut.with_ues, ↓SameBut.redStat, ↓SameBut.releaseStream, ↓SameBut.wr, ↓SameBut.zeroRange, List.mem_cons, true_or, or_true, reduceCtorEq, or_false, false_or, ite_self, implies_true, and_self]
    | (split <;> (rename_i heq; obtain ⟨rfl, rfl⟩ := Prod.ext_iff.1 heq; clear heq)) | (split <;> (rename_i heq; simp only [Prod.ext_iff] at heq; obtain ⟨rfl, rfl, rfl⟩ := heq)) | (split <;> (rename_i heq; simp only [Prod.ext_iff] at heq; obtain ⟨rfl, rfl, rfl, rfl⟩ := heq))
    | (split <;> (rename_i heq; first | (obtain ⟨-, rfl⟩ := Prod.ext_iff.1 heq) | (obtain ⟨rfl, -⟩ := Prod.ext_iff.1 heq) | (simp only [Prod.ext_iff] at heq; obtain ⟨-, rfl, -⟩ := heq) | skip))
    | split
    | (simp [↓SameBut.of_self, ↓SameBut.ite_iff, ↓SameBut.forEach_iff, ↓SameBut.foldl_iff, ↓SameBut.foldl_fst_iff, ↓SameBut.fst_ite_iff, ↓SameBut.snd_ite_iff, ↓SameBut.mid_ite_iff, ↓SameBut.with_cores, ↓SameBut.with_cores_red_ues_fix, ↓SameBut.with_ecc, ↓SameBut.with_fix, ↓SameBut.with_free, ↓SameBut.with_log, ↓SameBut.with_mem, ↓SameBut.with_mem_ecc, ↓SameBut.with_out, ↓SameBut.with_red, ↓SameBut.with_red_ues, ↓SameBut.with_regs, ↓SameBut.with_sb, ↓SameBut.with_streams, ↓SameBut.with_ues, ↓SameBut.redStat, ↓SameBut.releaseStream, ↓SameBut.wr, ↓SameBut.zeroRange, List.mem_cons, true_or, or_true, reduceCtorEq, or_false, false_or, ite_self, implies_true, and_self]; done)

@[simp] theorem SameBut.release {l : List Part} {s t : State}  (hregs : .regs ∈ l) (hmem : .mem ∈ l) (hecc : .ecc ∈ l) (hcores : .cores ∈ l) (hred : .red ∈ l) (hues : .ues ∈ l) (hstreams : .streams ∈ l) (hsb : .sb ∈ l) (hlog : .log ∈ l) (hfix : .fix ∈ l) :
    SameBut l s (State.release t) ↔ SameBut l s t :=
  iff_of (State.release_frame t) (by simp [*]) s

theorem State.writeSheet_frame (s : State) (used : List (ℕ × List Byte)) (d : Vote) :
    SameBut [.regs, .mem, .ecc, .sheets] s (State.writeSheet s used d) := by
  unfold State.writeSheet
  try simp only []
  (repeat' split) <;> simp

@[simp] theorem SameBut.writeSheet {l : List Part} {s t : State} (used : List (ℕ × List Byte)) (d : Vote) (hregs : .regs ∈ l) (hmem : .mem ∈ l) (hecc : .ecc ∈ l) (hsheets : .sheets ∈ l) :
    SameBut l s (State.writeSheet t used d) ↔ SameBut l s t :=
  iff_of (State.writeSheet_frame t used d) (by simp [*]) s

theorem State.ckJob_frame (s : State) (step : ℕ) :
    SameBut [.regs] s (State.ckJob s step) := by
  simp [State.ckJob]

@[simp] theorem SameBut.ckJob {l : List Part} {s t : State} (step : ℕ) (hregs : .regs ∈ l) :
    SameBut l s (State.ckJob t step) ↔ SameBut l s t :=
  iff_of (State.ckJob_frame t step) (by simp [*]) s

theorem State.countDrained_frame (s : State) (active : ℕ) :
    SameBut [.regs, .mem, .ecc, .net, .cores, .arbs, .tus, .ports, .apps, .stqs, .red, .arrivals, .sb, .pwr, .log, .fix, .scrubQ] s (State.countDrained s active) := by
  simp [State.countDrained]

@[simp] theorem SameBut.countDrained {l : List Part} {s t : State} (active : ℕ) (hregs : .regs ∈ l) (hmem : .mem ∈ l) (hecc : .ecc ∈ l) (hnet : .net ∈ l) (hcores : .cores ∈ l) (harbs : .arbs ∈ l) (htus : .tus ∈ l) (hports : .ports ∈ l) (happs : .apps ∈ l) (hstqs : .stqs ∈ l) (hred : .red ∈ l) (harrivals : .arrivals ∈ l) (hsb : .sb ∈ l) (hpwr : .pwr ∈ l) (hlog : .log ∈ l) (hfix : .fix ∈ l) (hscrubQ : .scrubQ ∈ l) :
    SameBut l s (State.countDrained t active) ↔ SameBut l s t :=
  iff_of (State.countDrained_frame t active) (by simp [*]) s

theorem State.drainedOn_frame (s : State) :
    SameBut [.regs, .ck] s (State.drainedOn s) := by
  unfold State.drainedOn
  try simp only []
  (repeat' split) <;> simp

@[simp] theorem SameBut.drainedOn {l : List Part} {s t : State}  (hregs : .regs ∈ l) (hck : .ck ∈ l) :
    SameBut l s (State.drainedOn t) ↔ SameBut l s t :=
  iff_of (State.drainedOn_frame t) (by simp [*]) s

end Sys2Proof.Machine
end

