-- ==== Sys2Proof/Laws/Gme.lean ====
section
/-!
SUPPORT. Laws of the operations of Machine/Gme.lean: the parts of the state that each may change.
-/
set_option linter.unusedSimpArgs false
set_option linter.unusedTactic false
set_option linter.unreachableTactic false
namespace Sys2Proof.Machine

theorem State.gmeFault_frame (s : State) (die : ℕ) (e : ℕ) (addr : ℕ) (code : ℕ) (pos : ℕ) (val : ℕ) (tag : ℕ) :
    SameBut [.regs, .sb, .log] s (State.gmeFault s die e addr code pos val tag) := by
  simp [State.gmeFault]

@[simp] theorem SameBut.gmeFault {l : List Part} {s t : State} (die : ℕ) (e : ℕ) (addr : ℕ) (code : ℕ) (pos : ℕ) (val : ℕ) (tag : ℕ) (hregs : .regs ∈ l) (hsb : .sb ∈ l) (hlog : .log ∈ l) :
    SameBut l s (State.gmeFault t die e addr code pos val tag) ↔ SameBut l s t :=
  iff_of (State.gmeFault_frame t die e addr code pos val tag) (by simp [*]) s

end Sys2Proof.Machine
end

