-- ==== Sys2Proof/Laws/Power.lean ====
section
/-!
SUPPORT. Laws of the operations of Machine/Power.lean: the parts of the state that each may change.
-/
set_option linter.unusedSimpArgs false
set_option linter.unusedTactic false
set_option linter.unreachableTactic false
namespace Sys2Proof.Machine

theorem State.setStep_frame (s : State) (n : ℕ) :
    SameBut [.regs] s (State.setStep s n) := by
  simp [State.setStep]

@[simp] theorem SameBut.setStep {l : List Part} {s t : State} (n : ℕ) (hregs : .regs ∈ l) :
    SameBut l s (State.setStep t n) ↔ SameBut l s t :=
  iff_of (State.setStep_frame t n) (by simp [*]) s

theorem State.stepDown_frame (s : State) (thermal : Bool) (power : Bool) :
    SameBut [.regs, .pwr] s (State.stepDown s thermal power) := by
  unfold State.stepDown
  (intro p hp; cases p <;> first | rfl | exact fun _ _ => rfl | exact fun _ => rfl | (simp at hp; done))

@[simp] theorem SameBut.stepDown {l : List Part} {s t : State} (thermal : Bool) (power : Bool) (hregs : .regs ∈ l) (hpwr : .pwr ∈ l) :
    SameBut l s (State.stepDown t thermal power) ↔ SameBut l s t :=
  iff_of (State.stepDown_frame t thermal power) (by simp [*]) s

theorem State.chooseStep_frame (s : State) (power : ℕ) (pc : ℕ) (tj : ℕ) (td : ℕ) :
    SameBut [.regs, .sb, .pwr, .log] s (State.chooseStep s power pc tj td) := by
  simp [State.chooseStep]

@[simp] theorem SameBut.chooseStep {l : List Part} {s t : State} (power : ℕ) (pc : ℕ) (tj : ℕ) (td : ℕ) (hregs : .regs ∈ l) (hsb : .sb ∈ l) (hpwr : .pwr ∈ l) (hlog : .log ∈ l) :
    SameBut l s (State.chooseStep t power pc tj td) ↔ SameBut l s t :=
  iff_of (State.chooseStep_frame t power pc tj td) (by simp [*]) s

theorem State.darkDies_frame (s : State) :
    SameBut [.regs, .mem, .ecc, .net, .cores, .gmes, .arbs, .tus, .ports, .patrol, .heldTx, .apps, .stqs, .red, .ues, .streams, .qps, .eths, .arrivals, .auLog, .log, .sheets, .scrubQ, .gshift] s (State.darkDies s) := by
  unfold State.darkDies
  (intro p hp; cases p <;> first | rfl | exact fun _ _ => rfl | exact fun _ => rfl | (simp at hp; done))

@[simp] theorem SameBut.darkDies {l : List Part} {s t : State}  (hregs : .regs ∈ l) (hmem : .mem ∈ l) (hecc : .ecc ∈ l) (hnet : .net ∈ l) (hcores : .cores ∈ l) (hgmes : .gmes ∈ l) (harbs : .arbs ∈ l) (htus : .tus ∈ l) (hports : .ports ∈ l) (hpatrol : .patrol ∈ l) (hheldTx : .heldTx ∈ l) (happs : .apps ∈ l) (hstqs : .stqs ∈ l) (hred : .red ∈ l) (hues : .ues ∈ l) (hstreams : .streams ∈ l) (hqps : .qps ∈ l) (heths : .eths ∈ l) (harrivals : .arrivals ∈ l) (hauLog : .auLog ∈ l) (hlog : .log ∈ l) (hsheets : .sheets ∈ l) (hscrubQ : .scrubQ ∈ l) (hgshift : .gshift ∈ l) :
    SameBut l s (State.darkDies t) ↔ SameBut l s t :=
  iff_of (State.darkDies_frame t) (by simp [*]) s

theorem State.setTemps_frame (s : State) (tj : ℕ) (tjDie : ℕ) (td : ℕ) (tdDie : ℕ) :
    SameBut [.regs] s (State.setTemps s tj tjDie td tdDie) := by
  simp [State.setTemps]

@[simp] theorem SameBut.setTemps {l : List Part} {s t : State} (tj : ℕ) (tjDie : ℕ) (td : ℕ) (tdDie : ℕ) (hregs : .regs ∈ l) :
    SameBut l s (State.setTemps t tj tjDie td tdDie) ↔ SameBut l s t :=
  iff_of (State.setTemps_frame t tj tjDie td tdDie) (by simp [*]) s

theorem State.setVin_frame (s : State) (mv : ℕ) :
    SameBut [.regs] s (State.setVin s mv) := by
  simp [State.setVin]

@[simp] theorem SameBut.setVin {l : List Part} {s t : State} (mv : ℕ) (hregs : .regs ∈ l) :
    SameBut l s (State.setVin t mv) ↔ SameBut l s t :=
  iff_of (State.setVin_frame t mv) (by simp [*]) s

theorem State.stackTemp_frame (s : State) (die : ℕ) (temp : ℕ) :
    SameBut [.regs, .sb, .log] s (State.stackTemp s die temp) := by
  simp [State.stackTemp]

@[simp] theorem SameBut.stackTemp {l : List Part} {s t : State} (die : ℕ) (temp : ℕ) (hregs : .regs ∈ l) (hsb : .sb ∈ l) (hlog : .log ∈ l) :
    SameBut l s (State.stackTemp t die temp) ↔ SameBut l s t :=
  iff_of (State.stackTemp_frame t die temp) (by simp [*]) s

theorem State.trip_frame (s : State) :
    SameBut [.regs, .mem, .ecc, .net, .cores, .gmes, .arbs, .tus, .ports, .patrol, .heldTx, .apps, .stqs, .red, .ues, .streams, .qps, .eths, .arrivals, .auLog, .rcv, .sb, .log, .job, .fix, .ck, .kpr, .sheets, .scrubQ, .gshift] s (State.trip s) := by
  unfold State.trip
  try simp only []
  simp only [↓SameBut.of_self, ↓SameBut.ite_iff, ↓SameBut.forEach_iff, ↓SameBut.foldl_iff, ↓SameBut.foldl_fst_iff, ↓SameBut.fst_ite_iff, ↓SameBut.snd_ite_iff, ↓SameBut.mid_ite_iff, ↓SameBut.with_apps, ↓SameBut.with_apps_stqs_red_ues_streams_job_fix_ck, ↓SameBut.with_arbs, ↓SameBut.with_arrivals, ↓SameBut.with_auLog, ↓SameBut.with_ck, ↓SameBut.with_cores, ↓SameBut.with_cores_red_ues_fix, ↓SameBut.with_ecc, ↓SameBut.with_ecc_net, ↓SameBut.with_eths, ↓SameBut.with_fix, ↓SameBut.with_free, ↓SameBut.with_gmes, ↓SameBut.with_gmes_arbs_red_ues_rcv_log_job_fix_ck_scrubQ, ↓SameBut.with_gshift, ↓SameBut.with_heldTx, ↓SameBut.with_job, ↓SameBut.with_kpr, ↓SameBut.with_log, ↓SameBut.with_mem, ↓SameBut.with_mem_ecc, ↓SameBut.with_mem_ecc_cores_gmes_arbs_tus_apps_stqs_red_ues_streams_qps_eths_arrivals_auLog_fix_ck_sheets_scrubQ_gshift, ↓SameBut.with_net, ↓SameBut.with_out, ↓SameBut.with_patrol, ↓SameBut.with_ports, ↓SameBut.with_qps, ↓SameBut.with_rcv, ↓SameBut.with_rcv_kpr, ↓SameBut.with_rcv_log, ↓SameBut.with_red, ↓SameBut.with_red_ues, ↓SameBut.with_regs, ↓SameBut.with_regs_mem_ecc_net_cores_gmes_arbs_tus_ports_patrol_heldTx_apps_stqs_red_ues_streams_qps_eths_arrivals_auLog_sheets_scrubQ_gshift, ↓SameBut.with_regs_net_arbs_tus_sb_log_scrubQ_free, ↓SameBut.with_sb, ↓SameBut.with_sb_job, ↓SameBut.with_scrubQ, ↓SameBut.with_sheets, ↓SameBut.with_stqs, ↓SameBut.with_streams, ↓SameBut.with_streams_qps, ↓SameBut.with_tus, ↓SameBut.with_ues, ↓SameBut.darkDies, ↓SameBut.logFault, ↓SameBut.raiseFault, ↓SameBut.wr, List.mem_cons, true_or, or_true, reduceCtorEq, or_false, false_or, ite_self, implies_true, and_self]

@[simp] theorem SameBut.trip {l : List Part} {s t : State}  (hregs : .regs ∈ l) (hmem : .mem ∈ l) (hecc : .ecc ∈ l) (hnet : .net ∈ l) (hcores : .cores ∈ l) (hgmes : .gmes ∈ l) (harbs : .arbs ∈ l) (htus : .tus ∈ l) (hports : .ports ∈ l) (hpatrol : .patrol ∈ l) (hheldTx : .heldTx ∈ l) (happs : .apps ∈ l) (hstqs : .stqs ∈ l) (hred : .red ∈ l) (hues : .ues ∈ l) (hstreams : .streams ∈ l) (hqps : .qps ∈ l) (heths : .eths ∈ l) (harrivals : .arrivals ∈ l) (hauLog : .auLog ∈ l) (hrcv : .rcv ∈ l) (hsb : .sb ∈ l) (hlog : .log ∈ l) (hjob : .job ∈ l) (hfix : .fix ∈ l) (hck : .ck ∈ l) (hkpr : .kpr ∈ l) (hsheets : .sheets ∈ l) (hscrubQ : .scrubQ ∈ l) (hgshift : .gshift ∈ l) :
    SameBut l s (State.trip t) ↔ SameBut l s t :=
  iff_of (State.trip_frame t) (by simp [*]) s

theorem State.wakeNow_frame (s : State) :
    SameBut [.regs, .mem, .ecc, .cores, .arbs, .ports, .disc, .heldTx, .apps, .stqs, .red, .ues, .streams, .qps, .arrivals, .dkr, .sb, .tap, .pwr, .fwVer, .log, .job, .fix, .ck, .kpr, .scrubQ] s (State.wakeNow s) := by
  unfold State.wakeNow
  repeat' first
    | (simp only [↓SameBut.of_self, ↓SameBut.ite_iff, ↓SameBut.forEach_iff, ↓SameBut.foldl_iff, ↓SameBut.foldl_fst_iff, ↓SameBut.fst_ite_iff, ↓SameBut.snd_ite_iff, ↓SameBut.mid_ite_iff, ↓SameBut.with_apps, ↓SameBut.with_apps_stqs_red_ues_streams_job_fix_ck, ↓SameBut.with_arbs, ↓SameBut.with_arrivals, ↓SameBut.with_ck, ↓SameBut.with_cores, ↓SameBut.with_cores_red_ues_fix, ↓SameBut.with_disc, ↓SameBut.with_disc_sb, ↓SameBut.with_dkr, ↓SameBut.with_dkr_fwVer, ↓SameBut.with_dkr_tap_kpr, ↓SameBut.with_ecc, ↓SameBut.with_fix, ↓SameBut.with_free, ↓SameBut.with_fwVer, ↓SameBut.with_heldTx, ↓SameBut.with_heldTx_pwr, ↓SameBut.with_job, ↓SameBut.with_kpr, ↓SameBut.with_log, ↓SameBut.with_mem, ↓SameBut.with_mem_ecc, ↓SameBut.with_out, ↓SameBut.with_ports, ↓SameBut.with_pwr, ↓SameBut.with_qps, ↓SameBut.with_red, ↓SameBut.with_red_ues, ↓SameBut.with_regs, ↓SameBut.with_sb, ↓SameBut.with_sb_job, ↓SameBut.with_scrubQ, ↓SameBut.with_stqs, ↓SameBut.with_streams, ↓SameBut.with_streams_qps, ↓SameBut.with_tap, ↓SameBut.with_ues, ↓SameBut.enterRecovery, ↓SameBut.keeperReset, ↓SameBut.serve, ↓SameBut.wr, List.mem_cons, true_or, or_true, reduceCtorEq, or_false, false_or, ite_self, implies_true, and_self]; done)
    | refine (SameBut.forEach_iff _ _ (fun _ _ => ?_)).2 ?_
    | refine (SameBut.foldl_iff _ _ (fun _ _ => ?_)).2 ?_
    | refine (SameBut.foldl_fst_iff _ _ (fun _ _ => ?_)).2 ?_
    | simp only [↓SameBut.of_self, ↓SameBut.ite_iff, ↓SameBut.forEach_iff, ↓SameBut.foldl_iff, ↓SameBut.foldl_fst_iff, ↓SameBut.fst_ite_iff, ↓SameBut.snd_ite_iff, ↓SameBut.mid_ite_iff, ↓SameBut.with_apps, ↓SameBut.with_apps_stqs_red_ues_streams_job_fix_ck, ↓SameBut.with_arbs, ↓SameBut.with_arrivals, ↓SameBut.with_ck, ↓SameBut.with_cores, ↓SameBut.with_cores_red_ues_fix, ↓SameBut.with_disc, ↓SameBut.with_disc_sb, ↓SameBut.with_dkr, ↓SameBut.with_dkr_fwVer, ↓SameBut.with_dkr_tap_kpr, ↓SameBut.with_ecc, ↓SameBut.with_fix, ↓SameBut.with_free, ↓SameBut.with_fwVer, ↓SameBut.with_heldTx, ↓SameBut.with_heldTx_pwr, ↓SameBut.with_job, ↓SameBut.with_kpr, ↓SameBut.with_log, ↓SameBut.with_mem, ↓SameBut.with_mem_ecc, ↓SameBut.with_out, ↓SameBut.with_ports, ↓SameBut.with_pwr, ↓SameBut.with_qps, ↓SameBut.with_red, ↓SameBut.with_red_ues, ↓SameBut.with_regs, ↓SameBut.with_sb, ↓SameBut.with_sb_job, ↓SameBut.with_scrubQ, ↓SameBut.with_stqs, ↓SameBut.with_streams, ↓SameBut.with_streams_qps, ↓SameBut.with_tap, ↓SameBut.with_ues, ↓SameBut.enterRecovery, ↓SameBut.keeperReset, ↓SameBut.serve, ↓SameBut.wr, List.mem_cons, true_or, or_true, reduceCtorEq, or_false, false_or, ite_self, implies_true, and_self]
    | (split <;> (rename_i heq; obtain ⟨rfl, rfl⟩ := Prod.ext_iff.1 heq; clear heq)) | (split <;> (rename_i heq; simp only [Prod.ext_iff] at heq; obtain ⟨rfl, rfl, rfl⟩ := heq)) | (split <;> (rename_i heq; simp only [Prod.ext_iff] at heq; obtain ⟨rfl, rfl, rfl, rfl⟩ := heq))
    | (split <;> (rename_i heq; first | (obtain ⟨-, rfl⟩ := Prod.ext_iff.1 heq) | (obtain ⟨rfl, -⟩ := Prod.ext_iff.1 heq) | (simp only [Prod.ext_iff] at heq; obtain ⟨-, rfl, -⟩ := heq) | skip))
    | split
    | (simp [↓SameBut.of_self, ↓SameBut.ite_iff, ↓SameBut.forEach_iff, ↓SameBut.foldl_iff, ↓SameBut.foldl_fst_iff, ↓SameBut.fst_ite_iff, ↓SameBut.snd_ite_iff, ↓SameBut.mid_ite_iff, ↓SameBut.with_apps, ↓SameBut.with_apps_stqs_red_ues_streams_job_fix_ck, ↓SameBut.with_arbs, ↓SameBut.with_arrivals, ↓SameBut.with_ck, ↓SameBut.with_cores, ↓SameBut.with_cores_red_ues_fix, ↓SameBut.with_disc, ↓SameBut.with_disc_sb, ↓SameBut.with_dkr, ↓SameBut.with_dkr_fwVer, ↓SameBut.with_dkr_tap_kpr, ↓SameBut.with_ecc, ↓SameBut.with_fix, ↓SameBut.with_free, ↓SameBut.with_fwVer, ↓SameBut.with_heldTx, ↓SameBut.with_heldTx_pwr, ↓SameBut.with_job, ↓SameBut.with_kpr, ↓SameBut.with_log, ↓SameBut.with_mem, ↓SameBut.with_mem_ecc, ↓SameBut.with_out, ↓SameBut.with_ports, ↓SameBut.with_pwr, ↓SameBut.with_qps, ↓SameBut.with_red, ↓SameBut.with_red_ues, ↓SameBut.with_regs, ↓SameBut.with_sb, ↓SameBut.with_sb_job, ↓SameBut.with_scrubQ, ↓SameBut.with_stqs, ↓SameBut.with_streams, ↓SameBut.with_streams_qps, ↓SameBut.with_tap, ↓SameBut.with_ues, ↓SameBut.enterRecovery, ↓SameBut.keeperReset, ↓SameBut.serve, ↓SameBut.wr, List.mem_cons, true_or, or_true, reduceCtorEq, or_false, false_or, ite_self, implies_true, and_self]; done)

@[simp] theorem SameBut.wakeNow {l : List Part} {s t : State}  (hregs : .regs ∈ l) (hmem : .mem ∈ l) (hecc : .ecc ∈ l) (hcores : .cores ∈ l) (harbs : .arbs ∈ l) (hports : .ports ∈ l) (hdisc : .disc ∈ l) (hheldTx : .heldTx ∈ l) (happs : .apps ∈ l) (hstqs : .stqs ∈ l) (hred : .red ∈ l) (hues : .ues ∈ l) (hstreams : .streams ∈ l) (hqps : .qps ∈ l) (harrivals : .arrivals ∈ l) (hdkr : .dkr ∈ l) (hsb : .sb ∈ l) (htap : .tap ∈ l) (hpwr : .pwr ∈ l) (hfwVer : .fwVer ∈ l) (hlog : .log ∈ l) (hjob : .job ∈ l) (hfix : .fix ∈ l) (hck : .ck ∈ l) (hkpr : .kpr ∈ l) (hscrubQ : .scrubQ ∈ l) :
    SameBut l s (State.wakeNow t) ↔ SameBut l s t :=
  iff_of (State.wakeNow_frame t) (by simp [*]) s

theorem idleStep_frame (s : State) :
    SameBut [.regs] s (idleStep s) := by
  simp [idleStep]

@[simp] theorem SameBut.idleStep {l : List Part} {s t : State}  (hregs : .regs ∈ l) :
    SameBut l s (idleStep t) ↔ SameBut l s t :=
  iff_of (idleStep_frame t) (by simp [*]) s

end Sys2Proof.Machine
end

