-- ==== Sys2Proof/Laws/Keeper.lean ====
section
/-!
SUPPORT. Laws of the operations of Machine/Keeper.lean: the parts of the state that each may change.
-/
set_option linter.unusedSimpArgs false
set_option linter.unusedTactic false
set_option linter.unreachableTactic false
namespace Sys2Proof.Machine

theorem State.takeChan_frame (s : State) (c : ℕ) :
    SameBut [.regs, .mem, .ecc, .cores, .apps, .sb, .log, .kpr] s (State.takeChan s c) := by
  simp [State.takeChan]

@[simp] theorem SameBut.takeChan {l : List Part} {s t : State} (c : ℕ) (hregs : .regs ∈ l) (hmem : .mem ∈ l) (hecc : .ecc ∈ l) (hcores : .cores ∈ l) (happs : .apps ∈ l) (hsb : .sb ∈ l) (hlog : .log ∈ l) (hkpr : .kpr ∈ l) :
    SameBut l s (State.takeChan t c) ↔ SameBut l s t :=
  iff_of (State.takeChan_frame t c) (by simp [*]) s

theorem State.accept_frame (s : State) (code : ℕ) :
    SameBut [.regs, .mem, .ecc, .cores, .apps, .sb, .log, .kpr] s (State.accept s code).1 := by
  unfold State.accept
  try simp only []
  repeat' (first | (split <;> (rename_i heq; obtain ⟨rfl, rfl⟩ := Prod.ext_iff.1 heq; clear heq)) | (split <;> (rename_i heq; simp only [Prod.ext_iff] at heq; obtain ⟨rfl, rfl, rfl, rfl⟩ := heq)) | (split <;> (rename_i heq; simp only [Prod.ext_iff] at heq; obtain ⟨rfl, rfl, rfl⟩ := heq)) | split)
  all_goals simp only [↓SameBut.of_self, ↓SameBut.ite_iff, ↓SameBut.forEach_iff, ↓SameBut.foldl_iff, ↓SameBut.foldl_fst_iff, ↓SameBut.fst_ite_iff, ↓SameBut.snd_ite_iff, ↓SameBut.mid_ite_iff, ↓SameBut.with_apps, ↓SameBut.with_cores, ↓SameBut.with_ecc, ↓SameBut.with_free, ↓SameBut.with_kpr, ↓SameBut.with_log, ↓SameBut.with_mem, ↓SameBut.with_mem_ecc, ↓SameBut.with_out, ↓SameBut.with_regs, ↓SameBut.with_sb, ↓SameBut.bump, ↓SameBut.logEvent, ↓SameBut.reply, ↓SameBut.takeChan, ↓SameBut.wr, List.mem_cons, true_or, or_true, reduceCtorEq, or_false, false_or, ite_self, implies_true, and_self]

@[simp] theorem SameBut.accept {l : List Part} {s t : State} (code : ℕ) (hregs : .regs ∈ l) (hmem : .mem ∈ l) (hecc : .ecc ∈ l) (hcores : .cores ∈ l) (happs : .apps ∈ l) (hsb : .sb ∈ l) (hlog : .log ∈ l) (hkpr : .kpr ∈ l) :
    SameBut l s (State.accept t code).1 ↔ SameBut l s t :=
  iff_of (State.accept_frame t code) (by simp [*]) s

theorem State.awake_frame (s : State) :
    SameBut [.regs, .mem, .ecc, .cores, .arbs, .ports, .disc, .heldTx, .apps, .stqs, .red, .ues, .streams, .qps, .arrivals, .dkr, .sb, .tap, .pwr, .fwVer, .log, .job, .fix, .ck, .kpr, .scrubQ] s (State.awake s) := by
  unfold State.awake
  repeat' first
    | (simp only [↓SameBut.of_self, ↓SameBut.ite_iff, ↓SameBut.forEach_iff, ↓SameBut.foldl_iff, ↓SameBut.foldl_fst_iff, ↓SameBut.fst_ite_iff, ↓SameBut.snd_ite_iff, ↓SameBut.mid_ite_iff, ↓SameBut.with_apps, ↓SameBut.with_apps_stqs_red_ues_streams_job_fix_ck, ↓SameBut.with_arbs, ↓SameBut.with_arrivals, ↓SameBut.with_ck, ↓SameBut.with_cores, ↓SameBut.with_cores_red_ues_fix, ↓SameBut.with_disc, ↓SameBut.with_disc_sb, ↓SameBut.with_dkr, ↓SameBut.with_dkr_fwVer, ↓SameBut.with_dkr_tap_kpr, ↓SameBut.with_ecc, ↓SameBut.with_fix, ↓SameBut.with_free, ↓SameBut.with_fwVer, ↓SameBut.with_heldTx, ↓SameBut.with_heldTx_pwr, ↓SameBut.with_job, ↓SameBut.with_kpr, ↓SameBut.with_log, ↓SameBut.with_mem, ↓SameBut.with_mem_ecc, ↓SameBut.with_out, ↓SameBut.with_ports, ↓SameBut.with_pwr, ↓SameBut.with_qps, ↓SameBut.with_red, ↓SameBut.with_red_ues, ↓SameBut.with_regs, ↓SameBut.with_sb, ↓SameBut.with_sb_job, ↓SameBut.with_scrubQ, ↓SameBut.with_stqs, ↓SameBut.with_streams, ↓SameBut.with_streams_qps, ↓SameBut.with_tap, ↓SameBut.with_ues, ↓SameBut.wakeNow, List.mem_cons, true_or, or_true, reduceCtorEq, or_false, false_or, ite_self, implies_true, and_self]; done)
    | refine (SameBut.forEach_iff _ _ (fun _ _ => ?_)).2 ?_
    | refine (SameBut.foldl_iff _ _ (fun _ _ => ?_)).2 ?_
    | refine (SameBut.foldl_fst_iff _ _ (fun _ _ => ?_)).2 ?_
    | simp only [↓SameBut.of_self, ↓SameBut.ite_iff, ↓SameBut.forEach_iff, ↓SameBut.foldl_iff, ↓SameBut.foldl_fst_iff, ↓SameBut.fst_ite_iff, ↓SameBut.snd_ite_iff, ↓SameBut.mid_ite_iff, ↓SameBut.with_apps, ↓SameBut.with_apps_stqs_red_ues_streams_job_fix_ck, ↓SameBut.with_arbs, ↓SameBut.with_arrivals, ↓SameBut.with_ck, ↓SameBut.with_cores, ↓SameBut.with_cores_red_ues_fix, ↓SameBut.with_disc, ↓SameBut.with_disc_sb, ↓SameBut.with_dkr, ↓SameBut.with_dkr_fwVer, ↓SameBut.with_dkr_tap_kpr, ↓SameBut.with_ecc, ↓SameBut.with_fix, ↓SameBut.with_free, ↓SameBut.with_fwVer, ↓SameBut.with_heldTx, ↓SameBut.with_heldTx_pwr, ↓SameBut.with_job, ↓SameBut.with_kpr, ↓SameBut.with_log, ↓SameBut.with_mem, ↓SameBut.with_mem_ecc, ↓SameBut.with_out, ↓SameBut.with_ports, ↓SameBut.with_pwr, ↓SameBut.with_qps, ↓SameBut.with_red, ↓SameBut.with_red_ues, ↓SameBut.with_regs, ↓SameBut.with_sb, ↓SameBut.with_sb_job, ↓SameBut.with_scrubQ, ↓SameBut.with_stqs, ↓SameBut.with_streams, ↓SameBut.with_streams_qps, ↓SameBut.with_tap, ↓SameBut.with_ues, ↓SameBut.wakeNow, List.mem_cons, true_or, or_true, reduceCtorEq, or_false, false_or, ite_self, implies_true, and_self]
    | (split <;> (rename_i heq; obtain ⟨rfl, rfl⟩ := Prod.ext_iff.1 heq; clear heq)) | (split <;> (rename_i heq; simp only [Prod.ext_iff] at heq; obtain ⟨rfl, rfl, rfl⟩ := heq)) | (split <;> (rename_i heq; simp only [Prod.ext_iff] at heq; obtain ⟨rfl, rfl, rfl, rfl⟩ := heq))
    | (split <;> (rename_i heq; first | (obtain ⟨-, rfl⟩ := Prod.ext_iff.1 heq) | (obtain ⟨rfl, -⟩ := Prod.ext_iff.1 heq) | (simp only [Prod.ext_iff] at heq; obtain ⟨-, rfl, -⟩ := heq) | skip))
    | split
    | (simp [↓SameBut.of_self, ↓SameBut.ite_iff, ↓SameBut.forEach_iff, ↓SameBut.foldl_iff, ↓SameBut.foldl_fst_iff, ↓SameBut.fst_ite_iff, ↓SameBut.snd_ite_iff, ↓SameBut.mid_ite_iff, ↓SameBut.with_apps, ↓SameBut.with_apps_stqs_red_ues_streams_job_fix_ck, ↓SameBut.with_arbs, ↓SameBut.with_arrivals, ↓SameBut.with_ck, ↓SameBut.with_cores, ↓SameBut.with_cores_red_ues_fix, ↓SameBut.with_disc, ↓SameBut.with_disc_sb, ↓SameBut.with_dkr, ↓SameBut.with_dkr_fwVer, ↓SameBut.with_dkr_tap_kpr, ↓SameBut.with_ecc, ↓SameBut.with_fix, ↓SameBut.with_free, ↓SameBut.with_fwVer, ↓SameBut.with_heldTx, ↓SameBut.with_heldTx_pwr, ↓SameBut.with_job, ↓SameBut.with_kpr, ↓SameBut.with_log, ↓SameBut.with_mem, ↓SameBut.with_mem_ecc, ↓SameBut.with_out, ↓SameBut.with_ports, ↓SameBut.with_pwr, ↓SameBut.with_qps, ↓SameBut.with_red, ↓SameBut.with_red_ues, ↓SameBut.with_regs, ↓SameBut.with_sb, ↓SameBut.with_sb_job, ↓SameBut.with_scrubQ, ↓SameBut.with_stqs, ↓SameBut.with_streams, ↓SameBut.with_streams_qps, ↓SameBut.with_tap, ↓SameBut.with_ues, ↓SameBut.wakeNow, List.mem_cons, true_or, or_true, reduceCtorEq, or_false, false_or, ite_self, implies_true, and_self]; done)

@[simp] theorem SameBut.awake {l : List Part} {s t : State}  (hregs : .regs ∈ l) (hmem : .mem ∈ l) (hecc : .ecc ∈ l) (hcores : .cores ∈ l) (harbs : .arbs ∈ l) (hports : .ports ∈ l) (hdisc : .disc ∈ l) (hheldTx : .heldTx ∈ l) (happs : .apps ∈ l) (hstqs : .stqs ∈ l) (hred : .red ∈ l) (hues : .ues ∈ l) (hstreams : .streams ∈ l) (hqps : .qps ∈ l) (harrivals : .arrivals ∈ l) (hdkr : .dkr ∈ l) (hsb : .sb ∈ l) (htap : .tap ∈ l) (hpwr : .pwr ∈ l) (hfwVer : .fwVer ∈ l) (hlog : .log ∈ l) (hjob : .job ∈ l) (hfix : .fix ∈ l) (hck : .ck ∈ l) (hkpr : .kpr ∈ l) (hscrubQ : .scrubQ ∈ l) :
    SameBut l s (State.awake t) ↔ SameBut l s t :=
  iff_of (State.awake_frame t) (by simp [*]) s

theorem State.beginLong_frame (s : State) (m : Minil) :
    SameBut [.regs, .pwr, .kpr] s (State.beginLong s m) := by
  simp [State.beginLong]

@[simp] theorem SameBut.beginLong {l : List Part} {s t : State} (m : Minil) (hregs : .regs ∈ l) (hpwr : .pwr ∈ l) (hkpr : .kpr ∈ l) :
    SameBut l s (State.beginLong t m) ↔ SameBut l s t :=
  iff_of (State.beginLong_frame t m) (by simp [*]) s

theorem State.committed_frame (s : State) (m : Minil) :
    SameBut [.regs, .mem, .ecc, .cores, .disc, .apps, .stqs, .red, .ues, .streams, .qps, .dkr, .sb, .tap, .pwr, .log, .job, .fix, .ck, .kpr] s (State.committed s m) := by
  unfold State.committed
  try simp only []
  simp only [↓SameBut.of_self, ↓SameBut.ite_iff, ↓SameBut.forEach_iff, ↓SameBut.foldl_iff, ↓SameBut.foldl_fst_iff, ↓SameBut.fst_ite_iff, ↓SameBut.snd_ite_iff, ↓SameBut.mid_ite_iff, ↓SameBut.with_apps, ↓SameBut.with_apps_stqs_red_ues_streams_job_fix_ck, ↓SameBut.with_ck, ↓SameBut.with_cores, ↓SameBut.with_cores_red_ues_fix, ↓SameBut.with_disc, ↓SameBut.with_disc_sb, ↓SameBut.with_dkr, ↓SameBut.with_dkr_tap_kpr, ↓SameBut.with_ecc, ↓SameBut.with_fix, ↓SameBut.with_free, ↓SameBut.with_job, ↓SameBut.with_kpr, ↓SameBut.with_log, ↓SameBut.with_mem, ↓SameBut.with_mem_ecc, ↓SameBut.with_out, ↓SameBut.with_pwr, ↓SameBut.with_qps, ↓SameBut.with_red, ↓SameBut.with_red_ues, ↓SameBut.with_regs, ↓SameBut.with_sb, ↓SameBut.with_sb_job, ↓SameBut.with_stqs, ↓SameBut.with_streams, ↓SameBut.with_streams_qps, ↓SameBut.with_tap, ↓SameBut.with_ues, ↓SameBut.endLong, ↓SameBut.keeperReset, List.mem_cons, true_or, or_true, reduceCtorEq, or_false, false_or, ite_self, implies_true, and_self]

@[simp] theorem SameBut.committed {l : List Part} {s t : State} (m : Minil) (hregs : .regs ∈ l) (hmem : .mem ∈ l) (hecc : .ecc ∈ l) (hcores : .cores ∈ l) (hdisc : .disc ∈ l) (happs : .apps ∈ l) (hstqs : .stqs ∈ l) (hred : .red ∈ l) (hues : .ues ∈ l) (hstreams : .streams ∈ l) (hqps : .qps ∈ l) (hdkr : .dkr ∈ l) (hsb : .sb ∈ l) (htap : .tap ∈ l) (hpwr : .pwr ∈ l) (hlog : .log ∈ l) (hjob : .job ∈ l) (hfix : .fix ∈ l) (hck : .ck ∈ l) (hkpr : .kpr ∈ l) :
    SameBut l s (State.committed t m) ↔ SameBut l s t :=
  iff_of (State.committed_frame t m) (by simp [*]) s

theorem State.fetch_frame (s : State) (ta : ℕ) (n : ℕ) (ext : List Byte) :
    SameBut [.regs, .mem, .ecc, .net, .cores, .arbs, .ports, .apps, .stqs, .red, .arrivals, .sb, .pwr, .log, .fix, .scrubQ] s (State.fetch s ta n ext).1 := by
  unfold State.fetch
  repeat' first
    | (simp only [↓SameBut.of_self, ↓SameBut.ite_iff, ↓SameBut.forEach_iff, ↓SameBut.foldl_iff, ↓SameBut.foldl_fst_iff, ↓SameBut.fst_ite_iff, ↓SameBut.snd_ite_iff, ↓SameBut.mid_ite_iff, ↓SameBut.with_apps, ↓SameBut.with_arbs, ↓SameBut.with_arrivals, ↓SameBut.with_cores, ↓SameBut.with_ecc, ↓SameBut.with_ecc_net, ↓SameBut.with_fix, ↓SameBut.with_free, ↓SameBut.with_log, ↓SameBut.with_mem, ↓SameBut.with_mem_ecc, ↓SameBut.with_net, ↓SameBut.with_out, ↓SameBut.with_ports, ↓SameBut.with_pwr, ↓SameBut.with_red, ↓SameBut.with_regs, ↓SameBut.with_sb, ↓SameBut.with_scrubQ, ↓SameBut.with_stqs, ↓SameBut.access, List.mem_cons, true_or, or_true, reduceCtorEq, or_false, false_or, ite_self, implies_true, and_self]; done)
    | refine (SameBut.forEach_iff _ _ (fun _ _ => ?_)).2 ?_
    | refine (SameBut.foldl_iff _ _ (fun _ _ => ?_)).2 ?_
    | refine (SameBut.foldl_fst_iff _ _ (fun _ _ => ?_)).2 ?_
    | simp only [↓SameBut.of_self, ↓SameBut.ite_iff, ↓SameBut.forEach_iff, ↓SameBut.foldl_iff, ↓SameBut.foldl_fst_iff, ↓SameBut.fst_ite_iff, ↓SameBut.snd_ite_iff, ↓SameBut.mid_ite_iff, ↓SameBut.with_apps, ↓SameBut.with_arbs, ↓SameBut.with_arrivals, ↓SameBut.with_cores, ↓SameBut.with_ecc, ↓SameBut.with_ecc_net, ↓SameBut.with_fix, ↓SameBut.with_free, ↓SameBut.with_log, ↓SameBut.with_mem, ↓SameBut.with_mem_ecc, ↓SameBut.with_net, ↓SameBut.with_out, ↓SameBut.with_ports, ↓SameBut.with_pwr, ↓SameBut.with_red, ↓SameBut.with_regs, ↓SameBut.with_sb, ↓SameBut.with_scrubQ, ↓SameBut.with_stqs, ↓SameBut.access, List.mem_cons, true_or, or_true, reduceCtorEq, or_false, false_or, ite_self, implies_true, and_self]
    | (split <;> (rename_i heq; obtain ⟨rfl, rfl⟩ := Prod.ext_iff.1 heq; clear heq)) | (split <;> (rename_i heq; simp only [Prod.ext_iff] at heq; obtain ⟨rfl, rfl, rfl⟩ := heq)) | (split <;> (rename_i heq; simp only [Prod.ext_iff] at heq; obtain ⟨rfl, rfl, rfl, rfl⟩ := heq))
    | (split <;> (rename_i heq; first | (obtain ⟨-, rfl⟩ := Prod.ext_iff.1 heq) | (obtain ⟨rfl, -⟩ := Prod.ext_iff.1 heq) | (simp only [Prod.ext_iff] at heq; obtain ⟨-, rfl, -⟩ := heq) | skip))
    | split
    | (simp [↓SameBut.of_self, ↓SameBut.ite_iff, ↓SameBut.forEach_iff, ↓SameBut.foldl_iff, ↓SameBut.foldl_fst_iff, ↓SameBut.fst_ite_iff, ↓SameBut.snd_ite_iff, ↓SameBut.mid_ite_iff, ↓SameBut.with_apps, ↓SameBut.with_arbs, ↓SameBut.with_arrivals, ↓SameBut.with_cores, ↓SameBut.with_ecc, ↓SameBut.with_ecc_net, ↓SameBut.with_fix, ↓SameBut.with_free, ↓SameBut.with_log, ↓SameBut.with_mem, ↓SameBut.with_mem_ecc, ↓SameBut.with_net, ↓SameBut.with_out, ↓SameBut.with_ports, ↓SameBut.with_pwr, ↓SameBut.with_red, ↓SameBut.with_regs, ↓SameBut.with_sb, ↓SameBut.with_scrubQ, ↓SameBut.with_stqs, ↓SameBut.access, List.mem_cons, true_or, or_true, reduceCtorEq, or_false, false_or, ite_self, implies_true, and_self]; done)

@[simp] theorem SameBut.fetch {l : List Part} {s t : State} (ta : ℕ) (n : ℕ) (ext : List Byte) (hregs : .regs ∈ l) (hmem : .mem ∈ l) (hecc : .ecc ∈ l) (hnet : .net ∈ l) (hcores : .cores ∈ l) (harbs : .arbs ∈ l) (hports : .ports ∈ l) (happs : .apps ∈ l) (hstqs : .stqs ∈ l) (hred : .red ∈ l) (harrivals : .arrivals ∈ l) (hsb : .sb ∈ l) (hpwr : .pwr ∈ l) (hlog : .log ∈ l) (hfix : .fix ∈ l) (hscrubQ : .scrubQ ∈ l) :
    SameBut l s (State.fetch t ta n ext).1 ↔ SameBut l s t :=
  iff_of (State.fetch_frame t ta n ext) (by simp [*]) s

theorem State.idleApp_frame (s : State) (i : ℕ) :
    SameBut [.regs, .apps] s (State.idleApp s i) := by
  simp [State.idleApp]

@[simp] theorem SameBut.idleApp {l : List Part} {s t : State} (i : ℕ) (hregs : .regs ∈ l) (happs : .apps ∈ l) :
    SameBut l s (State.idleApp t i) ↔ SameBut l s t :=
  iff_of (State.idleApp_frame t i) (by simp [*]) s

theorem State.idleCore_frame (s : State) (die : ℕ) (core : ℕ) :
    SameBut [.regs, .cores] s (State.idleCore s die core) := by
  simp [State.idleCore]

@[simp] theorem SameBut.idleCore {l : List Part} {s t : State} (die : ℕ) (core : ℕ) (hregs : .regs ∈ l) (hcores : .cores ∈ l) :
    SameBut l s (State.idleCore t die core) ↔ SameBut l s t :=
  iff_of (State.idleCore_frame t die core) (by simp [*]) s

theorem State.installRoutes_frame (s : State) (set : List Byte) :
    SameBut [.regs, .routes, .groups, .job] s (State.installRoutes s set) := by
  unfold State.installRoutes
  try simp only []
  repeat' (first | (split <;> (rename_i heq; obtain ⟨rfl, rfl⟩ := Prod.ext_iff.1 heq; clear heq)) | (split <;> (rename_i heq; simp only [Prod.ext_iff] at heq; obtain ⟨rfl, rfl, rfl, rfl⟩ := heq)) | (split <;> (rename_i heq; simp only [Prod.ext_iff] at heq; obtain ⟨rfl, rfl, rfl⟩ := heq)) | split)
  all_goals (try simp)
  all_goals (repeat' split)
  all_goals first | (simp; done) | (intro p hp; cases p <;> first | rfl | exact fun _ _ => rfl | exact fun _ => rfl | (simp at hp; done)) | (intro p hp; cases p <;> first | (simp at hp; done) | (simp only [Part.same]; (try intro _); (try intro _); first | rfl | (split <;> rfl) | (simp; done) | (split <;> simp; done)))

@[simp] theorem SameBut.installRoutes {l : List Part} {s t : State} (set : List Byte) (hregs : .regs ∈ l) (hroutes : .routes ∈ l) (hgroups : .groups ∈ l) (hjob : .job ∈ l) :
    SameBut l s (State.installRoutes t set) ↔ SameBut l s t :=
  iff_of (State.installRoutes_frame t set) (by simp [*]) s

end Sys2Proof.Machine
end

