-- ==== Sys2Proof/Laws/Loader.lean ====
section
/-!
SUPPORT. Laws of the operations of Machine/Loader.lean: the parts of the state that each may change.
-/
set_option linter.unusedSimpArgs false
set_option linter.unusedTactic false
set_option linter.unreachableTactic false
namespace Sys2Proof.Machine

theorem State.clearRw_frame (s : State) (u : ℕ) :
    SameBut [.regs] s (State.clearRw s u) := by
  unfold State.clearRw
  repeat' first
    | (simp only [↓SameBut.of_self, ↓SameBut.ite_iff, ↓SameBut.forEach_iff, ↓SameBut.foldl_iff, ↓SameBut.foldl_fst_iff, ↓SameBut.fst_ite_iff, ↓SameBut.snd_ite_iff, ↓SameBut.mid_ite_iff, ↓SameBut.with_free, ↓SameBut.with_out, ↓SameBut.with_regs, ↓SameBut.wrReset, List.mem_cons, true_or, or_true, reduceCtorEq, or_false, false_or, ite_self, implies_true, and_self]; done)
    | refine (SameBut.forEach_iff _ _ (fun _ _ => ?_)).2 ?_
    | refine (SameBut.foldl_iff _ _ (fun _ _ => ?_)).2 ?_
    | refine (SameBut.foldl_fst_iff _ _ (fun _ _ => ?_)).2 ?_
    | simp only [↓SameBut.of_self, ↓SameBut.ite_iff, ↓SameBut.forEach_iff, ↓SameBut.foldl_iff, ↓SameBut.foldl_fst_iff, ↓SameBut.fst_ite_iff, ↓SameBut.snd_ite_iff, ↓SameBut.mid_ite_iff, ↓SameBut.with_free, ↓SameBut.with_out, ↓SameBut.with_regs, ↓SameBut.wrReset, List.mem_cons, true_or, or_true, reduceCtorEq, or_false, false_or, ite_self, implies_true, and_self]
    | (split <;> (rename_i heq; obtain ⟨rfl, rfl⟩ := Prod.ext_iff.1 heq; clear heq)) | (split <;> (rename_i heq; simp only [Prod.ext_iff] at heq; obtain ⟨rfl, rfl, rfl⟩ := heq)) | (split <;> (rename_i heq; simp only [Prod.ext_iff] at heq; obtain ⟨rfl, rfl, rfl, rfl⟩ := heq))
    | (split <;> (rename_i heq; first | (obtain ⟨-, rfl⟩ := Prod.ext_iff.1 heq) | (obtain ⟨rfl, -⟩ := Prod.ext_iff.1 heq) | (simp only [Prod.ext_iff] at heq; obtain ⟨-, rfl, -⟩ := heq) | skip))
    | split
    | (simp [↓SameBut.of_self, ↓SameBut.ite_iff, ↓SameBut.forEach_iff, ↓SameBut.foldl_iff, ↓SameBut.foldl_fst_iff, ↓SameBut.fst_ite_iff, ↓SameBut.snd_ite_iff, ↓SameBut.mid_ite_iff, ↓SameBut.with_free, ↓SameBut.with_out, ↓SameBut.with_regs, ↓SameBut.wrReset, List.mem_cons, true_or, or_true, reduceCtorEq, or_false, false_or, ite_self, implies_true, and_self]; done)

@[simp] theorem SameBut.clearRw {l : List Part} {s t : State} (u : ℕ) (hregs : .regs ∈ l) :
    SameBut l s (State.clearRw t u) ↔ SameBut l s t :=
  iff_of (State.clearRw_frame t u) (by simp [*]) s

theorem State.clearJob_frame (s : State) :
    SameBut [.regs, .mem, .ecc, .cores, .apps, .groups, .stqs, .red, .ues, .streams, .qps, .eths, .arrivals, .auLog, .fix, .ck] s (State.clearJob s) := by
  unfold State.clearJob
  repeat' first
    | (simp only [↓SameBut.of_self, ↓SameBut.ite_iff, ↓SameBut.forEach_iff, ↓SameBut.foldl_iff, ↓SameBut.foldl_fst_iff, ↓SameBut.fst_ite_iff, ↓SameBut.snd_ite_iff, ↓SameBut.mid_ite_iff, ↓SameBut.with_apps, ↓SameBut.with_arrivals, ↓SameBut.with_auLog, ↓SameBut.with_ck, ↓SameBut.with_cores, ↓SameBut.with_cores_apps_groups_stqs_red_ues_streams_qps_eths_arrivals_auLog_fix_ck, ↓SameBut.with_cores_red_ues_fix, ↓SameBut.with_ecc, ↓SameBut.with_eths, ↓SameBut.with_fix, ↓SameBut.with_free, ↓SameBut.with_groups, ↓SameBut.with_mem, ↓SameBut.with_mem_ecc, ↓SameBut.with_out, ↓SameBut.with_qps, ↓SameBut.with_red, ↓SameBut.with_red_ues, ↓SameBut.with_regs, ↓SameBut.with_stqs, ↓SameBut.with_streams, ↓SameBut.with_streams_qps, ↓SameBut.with_ues, ↓SameBut.clearRw, ↓SameBut.wrReset, ↓SameBut.zeroRange, List.mem_cons, true_or, or_true, reduceCtorEq, or_false, false_or, ite_self, implies_true, and_self]; done)
    | refine (SameBut.forEach_iff _ _ (fun _ _ => ?_)).2 ?_
    | refine (SameBut.foldl_iff _ _ (fun _ _ => ?_)).2 ?_
    | refine (SameBut.foldl_fst_iff _ _ (fun _ _ => ?_)).2 ?_
    | simp only [↓SameBut.of_self, ↓SameBut.ite_iff, ↓SameBut.forEach_iff, ↓SameBut.foldl_iff, ↓SameBut.foldl_fst_iff, ↓SameBut.fst_ite_iff, ↓SameBut.snd_ite_iff, ↓SameBut.mid_ite_iff, ↓SameBut.with_apps, ↓SameBut.with_arrivals, ↓SameBut.with_auLog, ↓SameBut.with_ck, ↓SameBut.with_cores, ↓SameBut.with_cores_apps_groups_stqs_red_ues_streams_qps_eths_arrivals_auLog_fix_ck, ↓SameBut.with_cores_red_ues_fix, ↓SameBut.with_ecc, ↓SameBut.with_eths, ↓SameBut.with_fix, ↓SameBut.with_free, ↓SameBut.with_groups, ↓SameBut.with_mem, ↓SameBut.with_mem_ecc, ↓SameBut.with_out, ↓SameBut.with_qps, ↓SameBut.with_red, ↓SameBut.with_red_ues, ↓SameBut.with_regs, ↓SameBut.with_stqs, ↓SameBut.with_streams, ↓SameBut.with_streams_qps, ↓SameBut.with_ues, ↓SameBut.clearRw, ↓SameBut.wrReset, ↓SameBut.zeroRange, List.mem_cons, true_or, or_true, reduceCtorEq, or_false, false_or, ite_self, implies_true, and_self]
    | (split <;> (rename_i heq; obtain ⟨rfl, rfl⟩ := Prod.ext_iff.1 heq; clear heq)) | (split <;> (rename_i heq; simp only [Prod.ext_iff] at heq; obtain ⟨rfl, rfl, rfl⟩ := heq)) | (split <;> (rename_i heq; simp only [Prod.ext_iff] at heq; obtain ⟨rfl, rfl, rfl, rfl⟩ := heq))
    | (split <;> (rename_i heq; first | (obtain ⟨-, rfl⟩ := Prod.ext_iff.1 heq) | (obtain ⟨rfl, -⟩ := Prod.ext_iff.1 heq) | (simp only [Prod.ext_iff] at heq; obtain ⟨-, rfl, -⟩ := heq) | skip))
    | split
    | (simp [↓SameBut.of_self, ↓SameBut.ite_iff, ↓SameBut.forEach_iff, ↓SameBut.foldl_iff, ↓SameBut.foldl_fst_iff, ↓SameBut.fst_ite_iff, ↓SameBut.snd_ite_iff, ↓SameBut.mid_ite_iff, ↓SameBut.with_apps, ↓SameBut.with_arrivals, ↓SameBut.with_auLog, ↓SameBut.with_ck, ↓SameBut.with_cores, ↓SameBut.with_cores_apps_groups_stqs_red_ues_streams_qps_eths_arrivals_auLog_fix_ck, ↓SameBut.with_cores_red_ues_fix, ↓SameBut.with_ecc, ↓SameBut.with_eths, ↓SameBut.with_fix, ↓SameBut.with_free, ↓SameBut.with_groups, ↓SameBut.with_mem, ↓SameBut.with_mem_ecc, ↓SameBut.with_out, ↓SameBut.with_qps, ↓SameBut.with_red, ↓SameBut.with_red_ues, ↓SameBut.with_regs, ↓SameBut.with_stqs, ↓SameBut.with_streams, ↓SameBut.with_streams_qps, ↓SameBut.with_ues, ↓SameBut.clearRw, ↓SameBut.wrReset, ↓SameBut.zeroRange, List.mem_cons, true_or, or_true, reduceCtorEq, or_false, false_or, ite_self, implies_true, and_self]; done)

@[simp] theorem SameBut.clearJob {l : List Part} {s t : State}  (hregs : .regs ∈ l) (hmem : .mem ∈ l) (hecc : .ecc ∈ l) (hcores : .cores ∈ l) (happs : .apps ∈ l) (hgroups : .groups ∈ l) (hstqs : .stqs ∈ l) (hred : .red ∈ l) (hues : .ues ∈ l) (hstreams : .streams ∈ l) (hqps : .qps ∈ l) (heths : .eths ∈ l) (harrivals : .arrivals ∈ l) (hauLog : .auLog ∈ l) (hfix : .fix ∈ l) (hck : .ck ∈ l) :
    SameBut l s (State.clearJob t) ↔ SameBut l s t :=
  iff_of (State.clearJob_frame t) (by simp [*]) s

theorem State.loadDone_frame (s : State) (m : Minil) (im : List Byte) (sha : List Byte) (same : Bool) :
    SameBut [.regs, .apps, .rcv, .job] s (State.loadDone s m im sha same) := by
  unfold State.loadDone
  try simp only []
  simp only [↓SameBut.of_self, ↓SameBut.ite_iff, ↓SameBut.forEach_iff, ↓SameBut.foldl_iff, ↓SameBut.foldl_fst_iff, ↓SameBut.fst_ite_iff, ↓SameBut.snd_ite_iff, ↓SameBut.mid_ite_iff, ↓SameBut.with_apps, ↓SameBut.with_free, ↓SameBut.with_job, ↓SameBut.with_out, ↓SameBut.with_rcv, ↓SameBut.with_regs, ↓SameBut.dbMask, ↓SameBut.wr, ↓SameBut.wrReset, List.mem_cons, true_or, or_true, reduceCtorEq, or_false, false_or, ite_self, implies_true, and_self]

@[simp] theorem SameBut.loadDone {l : List Part} {s t : State} (m : Minil) (im : List Byte) (sha : List Byte) (same : Bool) (hregs : .regs ∈ l) (happs : .apps ∈ l) (hrcv : .rcv ∈ l) (hjob : .job ∈ l) :
    SameBut l s (State.loadDone t m im sha same) ↔ SameBut l s t :=
  iff_of (State.loadDone_frame t m im sha same) (by simp [*]) s

theorem State.loadFails_frame (s : State) (m : Minil) (r : Reject) :
    SameBut [.regs, .mem, .ecc, .cores, .apps, .stqs, .red, .ues, .streams, .sb, .log, .job, .fix, .ck] s (State.loadFails s m r) := by
  unfold State.loadFails
  try simp only []
  simp only [↓SameBut.of_self, ↓SameBut.ite_iff, ↓SameBut.forEach_iff, ↓SameBut.foldl_iff, ↓SameBut.foldl_fst_iff, ↓SameBut.fst_ite_iff, ↓SameBut.snd_ite_iff, ↓SameBut.mid_ite_iff, ↓SameBut.with_apps, ↓SameBut.with_apps_stqs_red_ues_streams_job_fix_ck, ↓SameBut.with_ck, ↓SameBut.with_cores, ↓SameBut.with_cores_red_ues_fix, ↓SameBut.with_ecc, ↓SameBut.with_fix, ↓SameBut.with_free, ↓SameBut.with_job, ↓SameBut.with_log, ↓SameBut.with_mem, ↓SameBut.with_mem_ecc, ↓SameBut.with_out, ↓SameBut.with_red, ↓SameBut.with_red_ues, ↓SameBut.with_regs, ↓SameBut.with_sb, ↓SameBut.with_sb_job, ↓SameBut.with_stqs, ↓SameBut.with_streams, ↓SameBut.with_ues, ↓SameBut.logAs, ↓SameBut.toNoJob, List.mem_cons, true_or, or_true, reduceCtorEq, or_false, false_or, ite_self, implies_true, and_self]

@[simp] theorem SameBut.loadFails {l : List Part} {s t : State} (m : Minil) (r : Reject) (hregs : .regs ∈ l) (hmem : .mem ∈ l) (hecc : .ecc ∈ l) (hcores : .cores ∈ l) (happs : .apps ∈ l) (hstqs : .stqs ∈ l) (hred : .red ∈ l) (hues : .ues ∈ l) (hstreams : .streams ∈ l) (hsb : .sb ∈ l) (hlog : .log ∈ l) (hjob : .job ∈ l) (hfix : .fix ∈ l) (hck : .ck ∈ l) :
    SameBut l s (State.loadFails t m r) ↔ SameBut l s t :=
  iff_of (State.loadFails_frame t m r) (by simp [*]) s

theorem State.loadIngest_frame (s : State) (im : List Byte) (m : ℕ) (bs : List Byte) :
    SameBut [.regs, .streams, .eths] s (State.loadIngest s im m bs) := by
  simp [State.loadIngest]

@[simp] theorem SameBut.loadIngest {l : List Part} {s t : State} (im : List Byte) (m : ℕ) (bs : List Byte) (hregs : .regs ∈ l) (hstreams : .streams ∈ l) (heths : .eths ∈ l) :
    SameBut l s (State.loadIngest t im m bs) ↔ SameBut l s t :=
  iff_of (State.loadIngest_frame t im m bs) (by simp [*]) s

theorem State.loadRegion_frame (s : State) (e : List Byte) :
    SameBut [.regs, .cores, .auLog] s (State.loadRegion s e) := by
  simp [State.loadRegion]

@[simp] theorem SameBut.loadRegion {l : List Part} {s t : State} (e : List Byte) (hregs : .regs ∈ l) (hcores : .cores ∈ l) (hauLog : .auLog ∈ l) :
    SameBut l s (State.loadRegion t e) ↔ SameBut l s t :=
  iff_of (State.loadRegion_frame t e) (by simp [*]) s

theorem State.loadStages_frame (s : State) (im : List Byte) (m : ℕ) (bs : List Byte) :
    SameBut [.stqs] s (State.loadStages s im m bs) := by
  unfold State.loadStages
  try simp only []
  (repeat' split) <;> simp

@[simp] theorem SameBut.loadStages {l : List Part} {s t : State} (im : List Byte) (m : ℕ) (bs : List Byte) (hstqs : .stqs ∈ l) :
    SameBut l s (State.loadStages t im m bs) ↔ SameBut l s t :=
  iff_of (State.loadStages_frame t im m bs) (by simp [*]) s

theorem State.takeLoad_frame (s : State) (m : Minil) :
    SameBut [.routes, .groups, .job] s (State.takeLoad s m) := by
  unfold State.takeLoad
  (intro p hp; cases p <;> first | rfl | exact fun _ _ => rfl | exact fun _ => rfl | (simp at hp; done))

@[simp] theorem SameBut.takeLoad {l : List Part} {s t : State} (m : Minil) (hroutes : .routes ∈ l) (hgroups : .groups ∈ l) (hjob : .job ∈ l) :
    SameBut l s (State.takeLoad t m) ↔ SameBut l s t :=
  iff_of (State.takeLoad_frame t m) (by simp [*]) s

end Sys2Proof.Machine
end

