-- ==== Sys2Proof/Laws/Recovery.lean ====
section
/-!
SUPPORT. Laws of the operations of Machine/Recovery.lean: the parts of the state that each may change.
-/
set_option linter.unusedSimpArgs false
set_option linter.unusedTactic false
set_option linter.unreachableTactic false
namespace Sys2Proof.Machine

theorem State.addFaults_frame (s : State) (l' : List (ℕ × ℕ × ℕ × ℕ)) :
    SameBut [.regs, .rcv, .log] s (State.addFaults s l') := by
  simp [State.addFaults]

@[simp] theorem SameBut.addFaults {l : List Part} {s t : State} (l' : List (ℕ × ℕ × ℕ × ℕ)) (hregs : .regs ∈ l) (hrcv : .rcv ∈ l) (hlog : .log ∈ l) :
    SameBut l s (State.addFaults t l') ↔ SameBut l s t :=
  iff_of (State.addFaults_frame t l') (by simp [*]) s

theorem State.linkResult_frame (s : State) (member : ℕ) (up : Bool) :
    SameBut [.regs, .log] s (State.linkResult s member up) := by
  simp [State.linkResult]

@[simp] theorem SameBut.linkResult {l : List Part} {s t : State} (member : ℕ) (up : Bool) (hregs : .regs ∈ l) (hlog : .log ∈ l) :
    SameBut l s (State.linkResult t member up) ↔ SameBut l s t :=
  iff_of (State.linkResult_frame t member up) (by simp [*]) s

theorem State.attemptEnd_frame (s : State) (result : ℕ) :
    SameBut [.regs, .mem, .ecc, .apps, .rcv, .kpr] s (State.attemptEnd s result) := by
  unfold State.attemptEnd
  try simp only []
  simp only [↓SameBut.of_self, ↓SameBut.ite_iff, ↓SameBut.forEach_iff, ↓SameBut.foldl_iff, ↓SameBut.foldl_fst_iff, ↓SameBut.fst_ite_iff, ↓SameBut.snd_ite_iff, ↓SameBut.mid_ite_iff, ↓SameBut.with_apps, ↓SameBut.with_ecc, ↓SameBut.with_free, ↓SameBut.with_kpr, ↓SameBut.with_mem, ↓SameBut.with_mem_ecc, ↓SameBut.with_out, ↓SameBut.with_rcv, ↓SameBut.with_rcv_kpr, ↓SameBut.with_regs, ↓SameBut.endLong, ↓SameBut.wr, List.mem_cons, true_or, or_true, reduceCtorEq, or_false, false_or, ite_self, implies_true, and_self]

@[simp] theorem SameBut.attemptEnd {l : List Part} {s t : State} (result : ℕ) (hregs : .regs ∈ l) (hmem : .mem ∈ l) (hecc : .ecc ∈ l) (happs : .apps ∈ l) (hrcv : .rcv ∈ l) (hkpr : .kpr ∈ l) :
    SameBut l s (State.attemptEnd t result) ↔ SameBut l s t :=
  iff_of (State.attemptEnd_frame t result) (by simp [*]) s

theorem State.attemptOn_frame (s : State) :
    SameBut [.regs] s (State.attemptOn s) := by
  simp [State.attemptOn]

@[simp] theorem SameBut.attemptOn {l : List Part} {s t : State}  (hregs : .regs ∈ l) :
    SameBut l s (State.attemptOn t) ↔ SameBut l s t :=
  iff_of (State.attemptOn_frame t) (by simp [*]) s

theorem State.attempt_frame (s : State) :
    SameBut [.regs, .rcv, .kpr] s (State.attempt s) := by
  unfold State.attempt
  try simp only []
  repeat' (first | (split <;> (rename_i heq; obtain ⟨rfl, rfl⟩ := Prod.ext_iff.1 heq; clear heq)) | (split <;> (rename_i heq; simp only [Prod.ext_iff] at heq; obtain ⟨rfl, rfl, rfl, rfl⟩ := heq)) | (split <;> (rename_i heq; simp only [Prod.ext_iff] at heq; obtain ⟨rfl, rfl, rfl⟩ := heq)) | split)
  all_goals (try simp)
  all_goals (repeat' split)
  all_goals first | (simp; done) | (intro p hp; cases p <;> first | rfl | exact fun _ _ => rfl | exact fun _ => rfl | (simp at hp; done)) | (intro p hp; cases p <;> first | (simp at hp; done) | (simp only [Part.same]; (try intro _); (try intro _); first | rfl | (split <;> rfl) | (simp; done) | (split <;> simp; done)))

@[simp] theorem SameBut.attempt {l : List Part} {s t : State}  (hregs : .regs ∈ l) (hrcv : .rcv ∈ l) (hkpr : .kpr ∈ l) :
    SameBut l s (State.attempt t) ↔ SameBut l s t :=
  iff_of (State.attempt_frame t) (by simp [*]) s

theorem State.attemptFails_frame (s : State) (result : ℕ) :
    SameBut [.regs, .mem, .ecc, .apps, .rcv, .kpr] s (State.attemptFails s result) := by
  unfold State.attemptFails
  try simp only []
  simp only [↓SameBut.of_self, ↓SameBut.ite_iff, ↓SameBut.forEach_iff, ↓SameBut.foldl_iff, ↓SameBut.foldl_fst_iff, ↓SameBut.fst_ite_iff, ↓SameBut.snd_ite_iff, ↓SameBut.mid_ite_iff, ↓SameBut.with_apps, ↓SameBut.with_ecc, ↓SameBut.with_free, ↓SameBut.with_kpr, ↓SameBut.with_mem, ↓SameBut.with_mem_ecc, ↓SameBut.with_out, ↓SameBut.with_rcv, ↓SameBut.with_rcv_kpr, ↓SameBut.with_regs, ↓SameBut.attempt, ↓SameBut.attemptEnd, List.mem_cons, true_or, or_true, reduceCtorEq, or_false, false_or, ite_self, implies_true, and_self]

@[simp] theorem SameBut.attemptFails {l : List Part} {s t : State} (result : ℕ) (hregs : .regs ∈ l) (hmem : .mem ∈ l) (hecc : .ecc ∈ l) (happs : .apps ∈ l) (hrcv : .rcv ∈ l) (hkpr : .kpr ∈ l) :
    SameBut l s (State.attemptFails t result) ↔ SameBut l s t :=
  iff_of (State.attemptFails_frame t result) (by simp [*]) s

theorem State.reliefAnswer_frame (s : State) (a : Ask) (m : Minil) :
    SameBut [.regs, .mem, .ecc, .apps, .rcv, .kpr] s (State.reliefAnswer s a m) := by
  unfold State.reliefAnswer
  try simp only []
  repeat' (first | (split <;> (rename_i heq; obtain ⟨rfl, rfl⟩ := Prod.ext_iff.1 heq; clear heq)) | (split <;> (rename_i heq; simp only [Prod.ext_iff] at heq; obtain ⟨rfl, rfl, rfl, rfl⟩ := heq)) | (split <;> (rename_i heq; simp only [Prod.ext_iff] at heq; obtain ⟨rfl, rfl, rfl⟩ := heq)) | split)
  all_goals simp only [↓SameBut.of_self, ↓SameBut.ite_iff, ↓SameBut.forEach_iff, ↓SameBut.foldl_iff, ↓SameBut.foldl_fst_iff, ↓SameBut.fst_ite_iff, ↓SameBut.snd_ite_iff, ↓SameBut.mid_ite_iff, ↓SameBut.with_apps, ↓SameBut.with_ecc, ↓SameBut.with_free, ↓SameBut.with_kpr, ↓SameBut.with_mem, ↓SameBut.with_mem_ecc, ↓SameBut.with_out, ↓SameBut.with_rcv, ↓SameBut.with_rcv_kpr, ↓SameBut.with_regs, ↓SameBut.notice, List.mem_cons, true_or, or_true, reduceCtorEq, or_false, false_or, ite_self, implies_true, and_self]

@[simp] theorem SameBut.reliefAnswer {l : List Part} {s t : State} (a : Ask) (m : Minil) (hregs : .regs ∈ l) (hmem : .mem ∈ l) (hecc : .ecc ∈ l) (happs : .apps ∈ l) (hrcv : .rcv ∈ l) (hkpr : .kpr ∈ l) :
    SameBut l s (State.reliefAnswer t a m) ↔ SameBut l s t :=
  iff_of (State.reliefAnswer_frame t a m) (by simp [*]) s

theorem State.answered_frame (s : State) (a : Ask) (m : Minil) :
    SameBut [.regs, .mem, .ecc, .apps, .rcv, .log, .kpr] s (State.answered s a m) := by
  unfold State.answered
  try simp only []
  simp only [↓SameBut.of_self, ↓SameBut.ite_iff, ↓SameBut.forEach_iff, ↓SameBut.foldl_iff, ↓SameBut.foldl_fst_iff, ↓SameBut.fst_ite_iff, ↓SameBut.snd_ite_iff, ↓SameBut.mid_ite_iff, ↓SameBut.with_apps, ↓SameBut.with_ecc, ↓SameBut.with_free, ↓SameBut.with_kpr, ↓SameBut.with_log, ↓SameBut.with_mem, ↓SameBut.with_mem_ecc, ↓SameBut.with_out, ↓SameBut.with_rcv, ↓SameBut.with_rcv_kpr, ↓SameBut.with_rcv_log, ↓SameBut.with_regs, ↓SameBut.attemptFails, ↓SameBut.linkResult, ↓SameBut.reliefAnswer, List.mem_cons, true_or, or_true, reduceCtorEq, or_false, false_or, ite_self, implies_true, and_self]

@[simp] theorem SameBut.answered {l : List Part} {s t : State} (a : Ask) (m : Minil) (hregs : .regs ∈ l) (hmem : .mem ∈ l) (hecc : .ecc ∈ l) (happs : .apps ∈ l) (hrcv : .rcv ∈ l) (hlog : .log ∈ l) (hkpr : .kpr ∈ l) :
    SameBut l s (State.answered t a m) ↔ SameBut l s t :=
  iff_of (State.answered_frame t a m) (by simp [*]) s

theorem State.goStep_frame (s : State) (n : ℕ) :
    SameBut [.rcv] s (State.goStep s n) := by
  simp [State.goStep]

@[simp] theorem SameBut.goStep {l : List Part} {s t : State} (n : ℕ) (hrcv : .rcv ∈ l) :
    SameBut l s (State.goStep t n) ↔ SameBut l s t :=
  iff_of (State.goStep_frame t n) (by simp [*]) s

theorem State.order_frame (s : State) (dst : ℕ) (prov : Bool) (cmd : ℕ) (member : ℕ) (args : List ℕ) :
    SameBut [.kpr] s (State.order s dst prov cmd member args) := by
  simp [State.order]

@[simp] theorem SameBut.order {l : List Part} {s t : State} (dst : ℕ) (prov : Bool) (cmd : ℕ) (member : ℕ) (args : List ℕ) (hkpr : .kpr ∈ l) :
    SameBut l s (State.order t dst prov cmd member args) ↔ SameBut l s t :=
  iff_of (State.order_frame t dst prov cmd member args) (by simp [*]) s

theorem State.orderLoads_frame (s : State) :
    SameBut [.regs, .mem, .ecc, .cores, .apps, .stqs, .red, .ues, .streams, .qps, .rcv, .sb, .log, .job, .fix, .ck, .kpr] s (State.orderLoads s) := by
  unfold State.orderLoads
  try simp only []
  simp only [↓SameBut.of_self, ↓SameBut.ite_iff, ↓SameBut.forEach_iff, ↓SameBut.foldl_iff, ↓SameBut.foldl_fst_iff, ↓SameBut.fst_ite_iff, ↓SameBut.snd_ite_iff, ↓SameBut.mid_ite_iff, ↓SameBut.with_apps, ↓SameBut.with_apps_stqs_red_ues_streams_job_fix_ck, ↓SameBut.with_ck, ↓SameBut.with_cores, ↓SameBut.with_cores_red_ues_fix, ↓SameBut.with_ecc, ↓SameBut.with_fix, ↓SameBut.with_free, ↓SameBut.with_job, ↓SameBut.with_kpr, ↓SameBut.with_log, ↓SameBut.with_mem, ↓SameBut.with_mem_ecc, ↓SameBut.with_out, ↓SameBut.with_qps, ↓SameBut.with_rcv, ↓SameBut.with_rcv_kpr, ↓SameBut.with_rcv_log, ↓SameBut.with_red, ↓SameBut.with_red_ues, ↓SameBut.with_regs, ↓SameBut.with_sb, ↓SameBut.with_sb_job, ↓SameBut.with_stqs, ↓SameBut.with_streams, ↓SameBut.with_streams_qps, ↓SameBut.with_ues, ↓SameBut.goStep, ↓SameBut.order, ↓SameBut.stopJob, List.mem_cons, true_or, or_true, reduceCtorEq, or_false, false_or, ite_self, implies_true, and_self]

@[simp] theorem SameBut.orderLoads {l : List Part} {s t : State}  (hregs : .regs ∈ l) (hmem : .mem ∈ l) (hecc : .ecc ∈ l) (hcores : .cores ∈ l) (happs : .apps ∈ l) (hstqs : .stqs ∈ l) (hred : .red ∈ l) (hues : .ues ∈ l) (hstreams : .streams ∈ l) (hqps : .qps ∈ l) (hrcv : .rcv ∈ l) (hsb : .sb ∈ l) (hlog : .log ∈ l) (hjob : .job ∈ l) (hfix : .fix ∈ l) (hck : .ck ∈ l) (hkpr : .kpr ∈ l) :
    SameBut l s (State.orderLoads t) ↔ SameBut l s t :=
  iff_of (State.orderLoads_frame t) (by simp [*]) s

theorem State.orderRestores_frame (s : State) :
    SameBut [.rcv, .kpr] s (State.orderRestores s) := by
  simp [State.orderRestores]

@[simp] theorem SameBut.orderRestores {l : List Part} {s t : State}  (hrcv : .rcv ∈ l) (hkpr : .kpr ∈ l) :
    SameBut l s (State.orderRestores t) ↔ SameBut l s t :=
  iff_of (State.orderRestores_frame t) (by simp [*]) s

theorem State.orderRoutes_frame (s : State) :
    SameBut [.regs, .mem, .ecc, .apps, .rcv, .kpr] s (State.orderRoutes s) := by
  unfold State.orderRoutes
  try simp only []
  simp only [↓SameBut.of_self, ↓SameBut.ite_iff, ↓SameBut.forEach_iff, ↓SameBut.foldl_iff, ↓SameBut.foldl_fst_iff, ↓SameBut.fst_ite_iff, ↓SameBut.snd_ite_iff, ↓SameBut.mid_ite_iff, ↓SameBut.with_apps, ↓SameBut.with_ecc, ↓SameBut.with_free, ↓SameBut.with_kpr, ↓SameBut.with_mem, ↓SameBut.with_mem_ecc, ↓SameBut.with_out, ↓SameBut.with_rcv, ↓SameBut.with_rcv_kpr, ↓SameBut.with_regs, ↓SameBut.attemptFails, ↓SameBut.goStep, ↓SameBut.order, List.mem_cons, true_or, or_true, reduceCtorEq, or_false, false_or, ite_self, implies_true, and_self]

@[simp] theorem SameBut.orderRoutes {l : List Part} {s t : State}  (hregs : .regs ∈ l) (hmem : .mem ∈ l) (hecc : .ecc ∈ l) (happs : .apps ∈ l) (hrcv : .rcv ∈ l) (hkpr : .kpr ∈ l) :
    SameBut l s (State.orderRoutes t) ↔ SameBut l s t :=
  iff_of (State.orderRoutes_frame t) (by simp [*]) s

theorem State.orderStarts_frame (s : State) :
    SameBut [.rcv, .kpr] s (State.orderStarts s) := by
  simp [State.orderStarts]

@[simp] theorem SameBut.orderStarts {l : List Part} {s t : State}  (hrcv : .rcv ∈ l) (hkpr : .kpr ∈ l) :
    SameBut l s (State.orderStarts t) ↔ SameBut l s t :=
  iff_of (State.orderStarts_frame t) (by simp [*]) s

theorem State.orderStops_frame (s : State) :
    SameBut [.rcv, .kpr] s (State.orderStops s) := by
  simp [State.orderStops]

@[simp] theorem SameBut.orderStops {l : List Part} {s t : State}  (hrcv : .rcv ∈ l) (hkpr : .kpr ∈ l) :
    SameBut l s (State.orderStops t) ↔ SameBut l s t :=
  iff_of (State.orderStops_frame t) (by simp [*]) s

theorem State.seekRelief_frame (s : State) (member : ℕ) :
    SameBut [.regs, .mem, .ecc, .apps, .rcv, .kpr] s (State.seekRelief s member) := by
  unfold State.seekRelief
  try simp only []
  repeat' (first | (split <;> (rename_i heq; obtain ⟨rfl, rfl⟩ := Prod.ext_iff.1 heq; clear heq)) | (split <;> (rename_i heq; simp only [Prod.ext_iff] at heq; obtain ⟨rfl, rfl, rfl, rfl⟩ := heq)) | (split <;> (rename_i heq; simp only [Prod.ext_iff] at heq; obtain ⟨rfl, rfl, rfl⟩ := heq)) | split)
  all_goals simp only [↓SameBut.of_self, ↓SameBut.ite_iff, ↓SameBut.forEach_iff, ↓SameBut.foldl_iff, ↓SameBut.foldl_fst_iff, ↓SameBut.fst_ite_iff, ↓SameBut.snd_ite_iff, ↓SameBut.mid_ite_iff, ↓SameBut.with_apps, ↓SameBut.with_ecc, ↓SameBut.with_free, ↓SameBut.with_kpr, ↓SameBut.with_mem, ↓SameBut.with_mem_ecc, ↓SameBut.with_out, ↓SameBut.with_rcv, ↓SameBut.with_rcv_kpr, ↓SameBut.with_regs, ↓SameBut.attemptFails, ↓SameBut.order, List.mem_cons, true_or, or_true, reduceCtorEq, or_false, false_or, ite_self, implies_true, and_self]

@[simp] theorem SameBut.seekRelief {l : List Part} {s t : State} (member : ℕ) (hregs : .regs ∈ l) (hmem : .mem ∈ l) (hecc : .ecc ∈ l) (happs : .apps ∈ l) (hrcv : .rcv ∈ l) (hkpr : .kpr ∈ l) :
    SameBut l s (State.seekRelief t member) ↔ SameBut l s t :=
  iff_of (State.seekRelief_frame t member) (by simp [*]) s

theorem State.surveyEnd_frame (s : State) :
    SameBut [.regs, .mem, .ecc, .ports, .apps, .rcv, .kpr] s (State.surveyEnd s) := by
  unfold State.surveyEnd
  repeat' first
    | (simp only [↓SameBut.of_self, ↓SameBut.ite_iff, ↓SameBut.forEach_iff, ↓SameBut.foldl_iff, ↓SameBut.foldl_fst_iff, ↓SameBut.fst_ite_iff, ↓SameBut.snd_ite_iff, ↓SameBut.mid_ite_iff, ↓SameBut.with_apps, ↓SameBut.with_ecc, ↓SameBut.with_free, ↓SameBut.with_kpr, ↓SameBut.with_mem, ↓SameBut.with_mem_ecc, ↓SameBut.with_out, ↓SameBut.with_ports, ↓SameBut.with_rcv, ↓SameBut.with_rcv_kpr, ↓SameBut.with_regs, ↓SameBut.attemptFails, ↓SameBut.order, ↓SameBut.retrain, ↓SameBut.setPort, List.mem_cons, true_or, or_true, reduceCtorEq, or_false, false_or, ite_self, implies_true, and_self]; done)
    | refine (SameBut.forEach_iff _ _ (fun _ _ => ?_)).2 ?_
    | refine (SameBut.foldl_iff _ _ (fun _ _ => ?_)).2 ?_
    | refine (SameBut.foldl_fst_iff _ _ (fun _ _ => ?_)).2 ?_
    | simp only [↓SameBut.of_self, ↓SameBut.ite_iff, ↓SameBut.forEach_iff, ↓SameBut.foldl_iff, ↓SameBut.foldl_fst_iff, ↓SameBut.fst_ite_iff, ↓SameBut.snd_ite_iff, ↓SameBut.mid_ite_iff, ↓SameBut.with_apps, ↓SameBut.with_ecc, ↓SameBut.with_free, ↓SameBut.with_kpr, ↓SameBut.with_mem, ↓SameBut.with_mem_ecc, ↓SameBut.with_out, ↓SameBut.with_ports, ↓SameBut.with_rcv, ↓SameBut.with_rcv_kpr, ↓SameBut.with_regs, ↓SameBut.attemptFails, ↓SameBut.order, ↓SameBut.retrain, ↓SameBut.setPort, List.mem_cons, true_or, or_true, reduceCtorEq, or_false, false_or, ite_self, implies_true, and_self]
    | (split <;> (rename_i heq; obtain ⟨rfl, rfl⟩ := Prod.ext_iff.1 heq; clear heq)) | (split <;> (rename_i heq; simp only [Prod.ext_iff] at heq; obtain ⟨rfl, rfl, rfl⟩ := heq)) | (split <;> (rename_i heq; simp only [Prod.ext_iff] at heq; obtain ⟨rfl, rfl, rfl, rfl⟩ := heq))
    | (split <;> (rename_i heq; first | (obtain ⟨-, rfl⟩ := Prod.ext_iff.1 heq) | (obtain ⟨rfl, -⟩ := Prod.ext_iff.1 heq) | (simp only [Prod.ext_iff] at heq; obtain ⟨-, rfl, -⟩ := heq) | skip))
    | split
    | (simp [↓SameBut.of_self, ↓SameBut.ite_iff, ↓SameBut.forEach_iff, ↓SameBut.foldl_iff, ↓SameBut.foldl_fst_iff, ↓SameBut.fst_ite_iff, ↓SameBut.snd_ite_iff, ↓SameBut.mid_ite_iff, ↓SameBut.with_apps, ↓SameBut.with_ecc, ↓SameBut.with_free, ↓SameBut.with_kpr, ↓SameBut.with_mem, ↓SameBut.with_mem_ecc, ↓SameBut.with_out, ↓SameBut.with_ports, ↓SameBut.with_rcv, ↓SameBut.with_rcv_kpr, ↓SameBut.with_regs, ↓SameBut.attemptFails, ↓SameBut.order, ↓SameBut.retrain, ↓SameBut.setPort, List.mem_cons, true_or, or_true, reduceCtorEq, or_false, false_or, ite_self, implies_true, and_self]; done)

@[simp] theorem SameBut.surveyEnd {l : List Part} {s t : State}  (hregs : .regs ∈ l) (hmem : .mem ∈ l) (hecc : .ecc ∈ l) (hports : .ports ∈ l) (happs : .apps ∈ l) (hrcv : .rcv ∈ l) (hkpr : .kpr ∈ l) :
    SameBut l s (State.surveyEnd t) ↔ SameBut l s t :=
  iff_of (State.surveyEnd_frame t) (by simp [*]) s

end Sys2Proof.Machine
end

