-- ==== Sys2Proof/Laws/Reduce.lean ====
section
/-!
SUPPORT. Laws of the operations of Machine/Reduce.lean: the parts of the state that each may change.
-/
set_option linter.unusedSimpArgs false
set_option linter.unusedTactic false
set_option linter.unreachableTactic false
namespace Sys2Proof.Machine

theorem State.storeWord_frame (s : State) (e : RedEnt) (p : ℕ) (layer : ℕ) (w : FlagWord) :
    SameBut [.mem, .ecc, .red] s (State.storeWord s e p layer w) := by
  simp [State.storeWord]

@[simp] theorem SameBut.storeWord {l : List Part} {s t : State} (e : RedEnt) (p : ℕ) (layer : ℕ) (w : FlagWord) (hmem : .mem ∈ l) (hecc : .ecc ∈ l) (hred : .red ∈ l) :
    SameBut l s (State.storeWord t e p layer w) ↔ SameBut l s t :=
  iff_of (State.storeWord_frame t e p layer w) (by simp [*]) s

theorem State.wordUp_frame (s : State) (e : RedEnt) (p : ℕ) (layer : ℕ) :
    SameBut [.regs, .mem, .ecc, .red, .sb, .log, .fix] s (State.wordUp s e p layer) := by
  unfold State.wordUp
  try simp only []
  (repeat' split) <;> simp

@[simp] theorem SameBut.wordUp {l : List Part} {s t : State} (e : RedEnt) (p : ℕ) (layer : ℕ) (hregs : .regs ∈ l) (hmem : .mem ∈ l) (hecc : .ecc ∈ l) (hred : .red ∈ l) (hsb : .sb ∈ l) (hlog : .log ∈ l) (hfix : .fix ∈ l) :
    SameBut l s (State.wordUp t e p layer) ↔ SameBut l s t :=
  iff_of (State.wordUp_frame t e p layer) (by simp [*]) s

theorem State.sendTotals_frame (s : State) (e : RedEnt) (dst : ℕ) (layer : ℕ) (n : ℕ) (tot : SMap ℕ) :
    SameBut [] s (State.sendTotals s e dst layer n tot) := by
  simp [State.sendTotals]

@[simp] theorem SameBut.sendTotals {l : List Part} {s t : State} (e : RedEnt) (dst : ℕ) (layer : ℕ) (n : ℕ) (tot : SMap ℕ)  :
    SameBut l s (State.sendTotals t e dst layer n tot) ↔ SameBut l s t :=
  iff_of (State.sendTotals_frame t e dst layer n tot) (by simp [*]) s

theorem State.passDown_frame (s : State) (e : RedEnt) (p : ℕ) (layer : ℕ) (n : ℕ) (tot : SMap ℕ) :
    SameBut [.red] s (State.passDown s e p layer n tot) := by
  simp [State.passDown]

@[simp] theorem SameBut.passDown {l : List Part} {s t : State} (e : RedEnt) (p : ℕ) (layer : ℕ) (n : ℕ) (tot : SMap ℕ) (hred : .red ∈ l) :
    SameBut l s (State.passDown t e p layer n tot) ↔ SameBut l s t :=
  iff_of (State.passDown_frame t e p layer n tot) (by simp [*]) s

theorem State.sumsUp_frame (s : State) (e : RedEnt) (p : ℕ) (layer : ℕ) (n : ℕ) :
    SameBut [.regs, .red] s (State.sumsUp s e p layer n) := by
  unfold State.sumsUp
  try simp only []
  (repeat' split) <;> simp

@[simp] theorem SameBut.sumsUp {l : List Part} {s t : State} (e : RedEnt) (p : ℕ) (layer : ℕ) (n : ℕ) (hregs : .regs ∈ l) (hred : .red ∈ l) :
    SameBut l s (State.sumsUp t e p layer n) ↔ SameBut l s t :=
  iff_of (State.sumsUp_frame t e p layer n) (by simp [*]) s

theorem State.laneTaken_frame (s : State) (lane : ℕ) :
    SameBut [.regs, .ports] s (State.laneTaken s lane) := by
  simp [State.laneTaken]

@[simp] theorem SameBut.laneTaken {l : List Part} {s t : State} (lane : ℕ) (hregs : .regs ∈ l) (hports : .ports ∈ l) :
    SameBut l s (State.laneTaken t lane) ↔ SameBut l s t :=
  iff_of (State.laneTaken_frame t lane) (by simp [*]) s

theorem State.redStray_frame (s : State) (u : ℕ) (layer : ℕ) (step : ℕ) :
    SameBut [.regs, .sb, .log] s (State.redStray s u layer step) := by
  simp [State.redStray]

@[simp] theorem SameBut.redStray {l : List Part} {s t : State} (u : ℕ) (layer : ℕ) (step : ℕ) (hregs : .regs ∈ l) (hsb : .sb ∈ l) (hlog : .log ∈ l) :
    SameBut l s (State.redStray t u layer step) ↔ SameBut l s t :=
  iff_of (State.redStray_frame t u layer step) (by simp [*]) s

end Sys2Proof.Machine
end

