-- ==== Sys2Proof/Laws/Sideband.lean ====
section
/-!
SUPPORT. Laws of the operations of Machine/Sideband.lean: the parts of the state that each may change.
-/
set_option linter.unusedSimpArgs false
set_option linter.unusedTactic false
set_option linter.unreachableTactic false
namespace Sys2Proof.Machine

theorem State.scan_frame (s : State) (ir : ℕ) (cap : List Bool) (tdi : List Bool) :
    SameBut [.tap] s (State.scan s ir cap tdi) := by
  simp [State.scan]

@[simp] theorem SameBut.scan {l : List Part} {s t : State} (ir : ℕ) (cap : List Bool) (tdi : List Bool) (htap : .tap ∈ l) :
    SameBut l s (State.scan t ir cap tdi) ↔ SameBut l s t :=
  iff_of (State.scan_frame t ir cap tdi) (by simp [*]) s

theorem State.scanBypass_frame (s : State) (tdi : List Bool) :
    SameBut [.tap] s (State.scanBypass s tdi) := by
  simp [State.scanBypass]

@[simp] theorem SameBut.scanBypass {l : List Part} {s t : State} (tdi : List Bool) (htap : .tap ∈ l) :
    SameBut l s (State.scanBypass t tdi) ↔ SameBut l s t :=
  iff_of (State.scanBypass_frame t tdi) (by simp [*]) s

theorem State.scanBoundary_frame (s : State) (ir : ℕ) (pins : List Bool) (tdi : List Bool) :
    SameBut [.tap] s (State.scanBoundary s ir pins tdi) := by
  simp [State.scanBoundary]

@[simp] theorem SameBut.scanBoundary {l : List Part} {s t : State} (ir : ℕ) (pins : List Bool) (tdi : List Bool) (htap : .tap ∈ l) :
    SameBut l s (State.scanBoundary t ir pins tdi) ↔ SameBut l s t :=
  iff_of (State.scanBoundary_frame t ir pins tdi) (by simp [*]) s

theorem State.setCap_frame (s : State) (w : ℕ) :
    SameBut [.regs] s (State.setCap s w) := by
  simp [State.setCap]

@[simp] theorem SameBut.setCap {l : List Part} {s t : State} (w : ℕ) (hregs : .regs ∈ l) :
    SameBut l s (State.setCap t w) ↔ SameBut l s t :=
  iff_of (State.setCap_frame t w) (by simp [*]) s

theorem State.smbAnswer_frame (s : State) (pecOk : Bool) (keeper : Bool) (data : List Byte) :
    SameBut [.regs] s (State.smbAnswer s pecOk keeper data) := by
  simp [State.smbAnswer]

@[simp] theorem SameBut.smbAnswer {l : List Part} {s t : State} (pecOk : Bool) (keeper : Bool) (data : List Byte) (hregs : .regs ∈ l) :
    SameBut l s (State.smbAnswer t pecOk keeper data) ↔ SameBut l s t :=
  iff_of (State.smbAnswer_frame t pecOk keeper data) (by simp [*]) s

end Sys2Proof.Machine
end

