-- ==== Sys2Proof/Laws/Stage.lean ====
section
/-!
SUPPORT. Laws of the operations of Machine/Stage.lean: the parts of the state that each may change.
-/
set_option linter.unusedSimpArgs false
set_option linter.unusedTactic false
set_option linter.unreachableTactic false
namespace Sys2Proof.Machine

theorem State.answerWaits_frame (s : State) (k : ℕ) (n : ℕ) :
    SameBut [.stqs] s (State.answerWaits s k n) := by
  simp [State.answerWaits]

@[simp] theorem SameBut.answerWaits {l : List Part} {s t : State} (k : ℕ) (n : ℕ) (hstqs : .stqs ∈ l) :
    SameBut l s (State.answerWaits t k n) ↔ SameBut l s t :=
  iff_of (State.answerWaits_frame t k n) (by simp [*]) s

theorem State.emitEntry_frame (s : State) (ep : ℕ) (q : ℕ) (mb : ℕ) (bs : List Byte) :
    SameBut [] s (State.emitEntry s ep q mb bs) := by
  simp [State.emitEntry]

@[simp] theorem SameBut.emitEntry {l : List Part} {s t : State} (ep : ℕ) (q : ℕ) (mb : ℕ) (bs : List Byte)  :
    SameBut l s (State.emitEntry t ep q mb bs) ↔ SameBut l s t :=
  iff_of (State.emitEntry_frame t ep q mb bs) (by simp [*]) s

end Sys2Proof.Machine
end

