-- ==== Sys2Proof/Laws/Step.lean ====
section
/-!
SUPPORT. Laws of the operations of Machine/Step.lean: the parts of the state that each may change.
-/
set_option linter.unusedSimpArgs false
set_option linter.unusedTactic false
set_option linter.unreachableTactic false
namespace Sys2Proof.Machine

theorem State.withFetchWord_frame (s : State) (nbits : ℕ) (w : ℕ) :
    SameBut [.pending] s (State.withFetchWord s nbits w) := by
  unfold State.withFetchWord
  try simp only []
  (repeat' split) <;> simp

@[simp] theorem SameBut.withFetchWord {l : List Part} {s t : State} (nbits : ℕ) (w : ℕ) (hpending : .pending ∈ l) :
    SameBut l s (State.withFetchWord t nbits w) ↔ SameBut l s t :=
  iff_of (State.withFetchWord_frame t nbits w) (by simp [*]) s

end Sys2Proof.Machine
end

