-- ==== Sys2Proof/Tests/Slice0.lean ====
section
/-!
SUPPORT. Tests: the operands that well-formedness refuses, and for each clause of a statement a state that meets its
hypotheses.
-/
section
set_option Elab.async false
set_option maxRecDepth 100000
set_option exponentiation.threshold 2000
set_option linter.unusedVariables false
set_option synthInstance.maxHeartbeats 400000
set_option synthInstance.maxSize 1000
open Sys2Proof Sys2Proof.Machine

/-- A module that holds no job, with job module id 5. -/
def w0 : State := { State.reset with job := { State.reset.job with modId := 5 } }

/-- Fuses whose root key is a key made for these tests. -/
def fuse0 : Config.Fuses := ⟨7, 7, 0x31801acfde846d0985aed2b3c39217f8b0cbc4905819aca7e35fdcf336cfc1cb, 0x31801acfde846d0985aed2b3c39217f8b0cbc4905819aca7e35fdcf336cfc1cb, 0, 0, 0, 0, false, false, 0, 0⟩

/-- A firmware image of one empty section, signed with that key. -/
def image0 : List Byte := leBytes 576 0x55b852781b9995a44c939b64e441ae2724b96f99c8f4fb9a141cfc9842c4b0e3000000000000004000000000000000010000000000000000000000000000000100000000000000000000000000000000000000000000000000000000000000000000000000000000000000000000000000000000000000000000000000000000000000000000000000000000000000000000000000000000000000000000000000000000000000000000000000000000000000000000000000000000000000000000000000000000000000000000000000000000000000000000000000000000000000000000000000000000000000000000000000000000000000000000000000000000000000000000000000000000000000000000000000000000000000000000000000000000000000000000000000000000000000000000000000000000824a6a63a96d7a6179beb8421dfe751518a84affe9096e8c546868d8cc551dcf6cfde7c61b6641fb85a9adef21b7c6e665f14b1d95eff7c8440a33a6d1e4cb5e00000000000000000000000000000000000000000000000000000000000000000000000000000000000000000000000000000000000000000000000000000000e6d07258747040bf316f4b74055205e75ad24d70670c150d33bbc79cde8b239012d8daf9e921f9f9c99c645b9433f7b222913a8be18791664ae3e90ebdceef26a5d3d8c1d75f299403ccbd08ed78356c9185ee619d41cdf13595d6215c5adca20000000000000000000000000000004000000000000000070000000057465856

set_option maxRecDepth 100000 in
theorem image_passes : imagePasses fuse0 (slice image0 0 576) = true := by decide +kernel

/-! The operands that well-formedness refuses: for each check a command that fails that check alone, the field at the
first value past its range. -/

theorem test_ill_formed_other1 :
    ((
    [.powerGoodRise (2 ^ 16) 0 false, .startUpStageDone false [(12, 0)] [], .startUpStageDone false [] [2],
     .setCap (2 ^ 16) false, .packetArrive 0 (2 ^ 64) false [] 0 ⟨0, 0⟩, .packetArrive 0 0 false [] 0 ⟨0, 2 ^ 32⟩,
     .registerWrite 0 (2 ^ 16) 0 ⟨[], []⟩, .rcFieldRead 0 (2 ^ 16) 0 [], .loCaptureRead 0 (2 ^ 16) 0 false,
     .seqEvt 0 0 (2 ^ 32) 0, .descriptorFetch 0 0 8 [], .multicastCopyComplete 0 0 0 384 [], .gather 0 2 [],
     .scatter 0 2 [], .scatterAdd 0 2 [], .segmentReduce 0 2 [], .sortByKey 0 2 [], .bucket 0 2 [], .packRows 0 2 [],
     .unpack 0 2 [], .maskCompact 0 2 [], .gmeOpFault 0 2, .gmeOpComplete 0 2, .scratchpadScrub 0 0 32 false [],
     .patrolScrub 0 32 [], .translationWalk 0 64 0 0 [], .translationWalk 0 0 (2 ^ 64) 0 [],
     .voteReceive (2 ^ 15) 0 0 0 [], .voteReceive 0 (2 ^ 64) 0 0 [], .voteReceive 0 0 0 0 [2 ^ 32],
     .decisionReceive (2 ^ 64) 0 0 [], .decisionReceive 0 0 0 [2 ^ 32], .drained (2 ^ 15) 0 false,
     .drained 0 (2 ^ 64) false, .rdReady 4096 0, .rdReady 0 (2 ^ 64), .laneSegmentSend 4096 0 [],
     .rsegReceive 4096 0 0 [], .rsegReceive 0 0 (2 ^ 64) [], .rwordReceive 4 0 [], .checkSampleRead 4096 [],
     .chkReceive 4096 0 0 0 [], .chkReceive 0 0 0 (2 ^ 64) [], .reductionFault 4096 [],
     .readResponseReceive (2 ^ 24) 0 0 0 [] false, .readResponseReceive 0 (2 ^ 24) 0 0 [] false,
     .readResponseReceive 0 0 5 0 [] false, .readResponseReceive 0 0 0 256 [] false] : List Instr).all fun i => !i.wf) = true := by decide

theorem test_ill_formed_other2 :
    ((
    [.roceAckTimeout (2 ^ 24), .roceWriteReceive (2 ^ 24) 0 0 false 0 [] false,
     .roceWriteReceive 0 (2 ^ 24) 0 false 0 [] false, .tsPacket 0 (2 ^ 64) 0 [], .tsPacket 0 0 (2 ^ 13) [],
     .decodeFrame 0 16 0 0, .decodeFrame 0 0 0 (2 ^ 64), .tensorizeFrame 0 4 0 0 0 [],
     .tensorizeFrame 0 0 0 (2 ^ 64) 0 [], .slotWriteComplete 0 (2 ^ 64) [], .dbWait 0 (2 ^ 32) 0,
     .arrWait 0 (2 ^ 64) 0, .hostBar0Access 0 false [] 65, .hostBar2Access 0 false [] 65,
     .hostWindowAccess 0 false [] 65 [], .surveyReplyReceive (2 ^ 15) 0 [], .surveyReplyTimeout (2 ^ 15) false,
     .reliefCabled (2 ^ 15), .mbxKrst 0 (2 ^ 32), .dbSet (2 ^ 32), .dbClr 0 (2 ^ 32), .dbMaskWrite 0 (2 ^ 32),
     .configurationRequest false 1024 0, .configurationRequest false 0 (2 ^ 32), .pcieLinkUp 16 0 false,
     .pcieLinkUp 0 32 false] : List Instr).all fun i => !i.wf) = true := by decide

theorem test_ill_formed_slot :
    ((
    [.powerGoodRise 0 (2 ^ 16) false, .sampleStart 16 [], .roceWriteReceive 0 0 16 false 0 [] false,
     .tsPacket 16 0 0 [], .accessUnitConsume 16 [], .decodeFrame 0 0 16 0, .tensorizeFrame 0 0 16 0 0 [],
     .slotWriteComplete 16 0 [], .strArrLoRead 16 false, .strAuprod 16 0] : List Instr).all fun i => !i.wf) = true := by decide

theorem test_ill_formed_die :
    ((
    [.dramTempChange 24 0, .bundleIssue 24 0 0 [], .cubeAccumulate 24 0, .mvAccumulate 24 0, .vuResultWrite 24 0,
     .drainTileWrite 24 0, .drainGroupWrite 24 0, .tagReturn 24 0 0 0 0 [], .waitLimitExpiry 24 0,
     .barrierArrival 24 0 0 0 0, .seqEvt 24 0 0 0, .descriptorFetch 24 0 0 [], .dmaTransferStart 24 0,
     .dmaAccessFault 24 0 0 0 0 [], .dmaTransferComplete 24 0 0 [], .multicastCopyComplete 24 0 0 0 [],
     .packTileWrite 24 0 0 [], .expandTile 24 0 0 [], .gather 24 0 [], .scatter 24 0 [], .scatterAdd 24 0 [],
     .segmentReduce 24 0 [], .sortByKey 24 0 [], .bucket 24 0 [], .packRows 24 0 [], .unpack 24 0 [],
     .maskCompact 24 0 [], .gmeOpFault 24 0, .gmeOpComplete 24 0, .arbitratedAccess 24 0 0 0 [],
     .requestPromotion 24 0, .scratchpadScrub 24 0 0 false [], .dramRead 0 24 0 0 [], .dramWrite 0 24 0 [] [],
     .patrolScrub 24 0 [], .dramRefresh 24 0, .translationWalk 24 0 0 0 [], .tuInval 0 24, .invalidationDone 24,
     .stackPushStart 24 0 [], .frameHeaderWrite 24 0, .stackPopStart 24 0 [], .popComplete 24 0,
     .updateRecordStart 24 [], .updateRecordDone 24 [], .updateFault 24 [], .decodeFrame 8 0 0 0,
     .tensorizeFrame 8 0 0 0 0 []] : List Instr).all fun i => !i.wf) = true := by decide

theorem test_ill_formed_sender :
    ((
    [.packetArrive (2 ^ 32) 0 false [] 0 ⟨0, 0⟩, .registerWrite (2 ^ 32) 0 0 ⟨[], []⟩, .rcFieldRead (2 ^ 32) 0 0 [],
     .loCaptureRead (2 ^ 32) 0 0 false, .barrierArrival 0 0 0 (2 ^ 32) 0, .dramRead (2 ^ 32) 0 0 0 [],
     .dramWrite (2 ^ 32) 0 0 [] [], .tuInval (2 ^ 32) 0, .stqPost (2 ^ 32) 0 0 [], .stageEntryWait (2 ^ 32) 0 0 0,
     .mbxBufWrite (2 ^ 32) 0 0 [], .mbxSend (2 ^ 32) 0 0, .mbxBufRead (2 ^ 32) 0 0 0, .mbxDone (2 ^ 32) 0,
     .mbxKrst (2 ^ 32) 0, .dbClr (2 ^ 32) 0, .dbMaskWrite (2 ^ 32) 0] : List Instr).all fun i => !i.wf) = true := by decide

theorem test_ill_formed_offset :
    ((
    [.registerWrite 0 0 (2 ^ 42) ⟨[], []⟩, .rcFieldRead 0 0 (2 ^ 42) [], .loCaptureRead 0 0 (2 ^ 42) false,
     .dramRead 0 0 (2 ^ 42) 0 [], .dramWrite 0 0 (2 ^ 42) [] [], .hostBar0Access (2 ^ 42) false [] 0,
     .hostBar2Access (2 ^ 42) false [] 0, .hostWindowAccess (2 ^ 42) false [] 0 [], .mbxBufWrite 0 0 (2 ^ 42) [],
     .mbxBufRead 0 0 (2 ^ 42) 0] : List Instr).all fun i => !i.wf) = true := by decide

theorem test_ill_formed_core :
    ((
    [.bundleIssue 0 16 0 [], .cubeAccumulate 0 16, .mvAccumulate 0 16, .vuResultWrite 0 16, .drainTileWrite 0 16,
     .drainGroupWrite 0 16, .tagReturn 0 16 0 0 0 [], .waitLimitExpiry 0 16, .barrierArrival 0 16 0 0 0,
     .seqEvt 0 16 0 0, .descriptorFetch 0 16 0 [], .dmaTransferStart 0 16, .dmaAccessFault 0 16 0 0 0 [],
     .dmaTransferComplete 0 16 0 [], .multicastCopyComplete 0 16 0 0 [], .packTileWrite 0 16 0 [],
     .expandTile 0 16 0 [], .arbitratedAccess 0 16 0 0 [], .requestPromotion 0 16, .scratchpadScrub 0 16 0 false [],
     .stackPushStart 0 16 [], .frameHeaderWrite 0 16, .stackPopStart 0 16 [], .popComplete 0 16, .exit 104,
     .dbWait 104 0 0, .arrWait 104 0 0, .monitorWaitExpiry 104 false, .appException 104 0 0 0, .appFence 104 []] : List Instr).all fun i => !i.wf) = true := by decide

theorem test_ill_formed_tag :
    ((
    [.tagReturn 0 0 256 0 0 [], .dmaAccessFault 0 0 256 0 0 [], .dmaTransferComplete 0 0 256 [],
     .multicastCopyComplete 0 0 256 0 [], .packTileWrite 0 0 256 [], .expandTile 0 0 256 []] : List Instr).all fun i => !i.wf) = true := by decide

theorem test_ill_formed_port :
    ((
    [.ethFrameReceive 2 [] false false, .flitSend 12 [], .flitReceive 12 (List.replicate 256 0) false 0 0,
     .nakReceive 12 0, .creditReturn 12 [], .ackDue 12, .replayTimeout 12, .retrainComplete 12 0 0, .portDown 12,
     .beaconSend 12, .beaconReceive 12 0 false 0 0 0 0 0 0, .beaconSilence 12 false, .fabKhb 12, .kokExpiry 12,
     .idBlockReceive 12 0 0 false, .offerReceive 12 0 0 0, .childReceive 12 0, .reportReceive 12 0 [],
     .assignReceive 12 0 0, .fogReceive 12 (List.replicate 32 0), .ethLinkChange 2 false false 0] : List Instr).all fun i => !i.wf) = true := by decide

theorem test_ill_formed_queue :
    ((
    [.tensorizeFrame 0 0 0 0 (2 ^ 16) [], .stqPost 0 2 0 [], .stqPost 0 0 8 [], .stageEntrySend 2 0 0 [],
     .stageEntrySend 0 8 0 [], .stageEntryArrive 2 0 0 0 [] [], .stageEntryArrive 0 8 0 0 [] [],
     .stagePostComplete 2 0, .stagePostComplete 0 8, .stageEntryWait 0 2 0 0, .stageEntryWait 0 0 8 0, .stqRel 2 0 0,
     .stqRel 0 8 0, .releaseFlitReceive 2 0 0 0, .releaseFlitReceive 0 8 0 0] : List Instr).all fun i => !i.wf) = true := by decide

theorem test_ill_formed_length :
    ((
    [.flitReceive 0 [] false 0 0, .fogReceive 0 []] : List Instr).all fun i => !i.wf) = true := by decide

theorem test_ill_formed_channel :
    ((
    [.mbxBufWrite 0 32 0 [], .mbxSend 0 32 0, .mbxBufRead 0 32 0 0, .mbxDone 0 32, .mbxLockBreak 32] : List Instr).all fun i => !i.wf) = true := by decide

/-- With every field in its range the same commands are well-formed. -/
theorem test_well_formed1 :
    ((
    [.powerGoodRise 0 0 false, .startUpStageDone false [] [], .dramTempChange 0 0, .setCap 0 false,
     .packetArrive 0 0 false [] 0 ⟨0, 0⟩, .registerWrite 0 0 0 ⟨[], []⟩, .rcFieldRead 0 0 0 [], .loCaptureRead 0 0 0 false,
     .bundleIssue 0 0 0 [], .cubeAccumulate 0 0, .mvAccumulate 0 0, .vuResultWrite 0 0, .drainTileWrite 0 0,
     .drainGroupWrite 0 0, .tagReturn 0 0 0 0 0 [], .waitLimitExpiry 0 0, .barrierArrival 0 0 0 0 0, .seqEvt 0 0 0 0,
     .descriptorFetch 0 0 0 [], .dmaTransferStart 0 0, .dmaAccessFault 0 0 0 0 0 [], .dmaTransferComplete 0 0 0 [],
     .multicastCopyComplete 0 0 0 0 [], .packTileWrite 0 0 0 [], .expandTile 0 0 0 [], .gather 0 0 [],
     .scatter 0 0 [], .scatterAdd 0 0 [], .segmentReduce 0 0 [], .sortByKey 0 0 [], .bucket 0 0 [], .packRows 0 0 [],
     .unpack 0 0 [], .maskCompact 0 0 [], .gmeOpFault 0 0, .gmeOpComplete 0 0, .arbitratedAccess 0 0 0 0 [],
     .requestPromotion 0 0, .scratchpadScrub 0 0 0 false [], .dramRead 0 0 0 0 [], .dramWrite 0 0 0 [] [],
     .patrolScrub 0 0 [], .dramRefresh 0 0, .translationWalk 0 0 0 0 [], .tuInval 0 0, .invalidationDone 0,
     .stackPushStart 0 0 [], .frameHeaderWrite 0 0] : List Instr).all fun i => i.wf) = true := by decide

theorem test_well_formed2 :
    ((
    [.stackPopStart 0 0 [], .popComplete 0 0, .updateRecordStart 0 [], .updateRecordDone 0 [], .updateFault 0 [],
     .voteReceive 0 0 0 0 [], .decisionReceive 0 0 0 [], .drained 0 0 false, .rdReady 0 0, .laneSegmentSend 0 0 [],
     .rsegReceive 0 0 0 [], .rwordReceive 0 0 [], .checkSampleRead 0 [], .chkReceive 0 0 0 0 [],
     .reductionFault 0 [], .ethFrameReceive 0 [] false false, .sampleStart 0 [],
     .readResponseReceive 0 0 0 0 [] false, .roceAckTimeout 0, .roceWriteReceive 0 0 0 false 0 [] false,
     .tsPacket 0 0 0 [], .accessUnitConsume 0 [], .decodeFrame 0 0 0 0, .tensorizeFrame 0 0 0 0 0 [],
     .slotWriteComplete 0 0 [], .strArrLoRead 0 false, .strAuprod 0 0, .exit 0, .dbWait 0 0 0, .arrWait 0 0 0,
     .monitorWaitExpiry 0 false, .appException 0 0 0 0, .appFence 0 [], .flitSend 0 [],
     .flitReceive 0 (List.replicate 256 0) false 0 0, .nakReceive 0 0, .creditReturn 0 [], .ackDue 0,
     .replayTimeout 0, .retrainComplete 0 0 0, .portDown 0, .beaconSend 0, .beaconReceive 0 0 false 0 0 0 0 0 0,
     .beaconSilence 0 false, .fabKhb 0, .kokExpiry 0, .idBlockReceive 0 0 0 false, .offerReceive 0 0 0 0] : List Instr).all fun i => i.wf) = true := by decide

theorem test_well_formed3 :
    ((
    [.childReceive 0 0, .reportReceive 0 0 [], .assignReceive 0 0 0, .hostBar0Access 0 false [] 0,
     .hostBar2Access 0 false [] 0, .hostWindowAccess 0 false [] 0 [], .stqPost 0 0 0 [], .stageEntrySend 0 0 0 [],
     .stageEntryArrive 0 0 0 0 [] [], .stagePostComplete 0 0, .stageEntryWait 0 0 0 0, .stqRel 0 0 0,
     .releaseFlitReceive 0 0 0 0, .fogReceive 0 (List.replicate 32 0), .surveyReplyReceive 0 0 [],
     .surveyReplyTimeout 0 false, .reliefCabled 0, .mbxBufWrite 0 0 0 [], .mbxSend 0 0 0, .mbxBufRead 0 0 0 0,
     .mbxDone 0 0, .mbxLockBreak 0, .mbxKrst 0 0, .dbSet 0, .dbClr 0 0, .dbMaskWrite 0 0,
     .configurationRequest false 0 0, .pcieLinkUp 0 0 false, .ethLinkChange 0 false false 0] : List Instr).all fun i => i.wf) = true := by decide

/-! The worked examples of the specification. -/

/-- 01_module_dies_clocks, the unit addresses of module 9's die C5: application core 2, and the DMA engine of core 3. -/
theorem test_unit_addresses :
    9 * 65536 + acU 22 = 0x00091426 ∧ 9 * 65536 + dmaU 5 3 = 0x000914C2 := by decide

/-- 01_module_dies_clocks, the leaf set of group 5, which lists a keeper, group 7 and a keeper of group 7. -/
theorem test_leaf_set :
    ({ w0 with groups := [(5, [0x000C9C00, 0x80000007, 0x000D9C00]), (7, [0x000D9C00, 0x000E9C00])] } : State).leaves
      0x80000005 = [0x000C9C00, 0x000D9C00, 0x000E9C00] := by decide

/-- 02_number_formats, a block whose elements are 0.46 and 0.37, under MX_FLOOR and under MX_FIT. -/
theorem test_mx_block :
    (encodeBlock .mx8e4m3 false [.rne, .rne] [ofF32 0x3EEB851F, ofF32 0x3EBD70A4]).1 = 0x75 ∧
    (encodeBlock .mx8e4m3 false [.rne, .rne] [ofF32 0x3EEB851F, ofF32 0x3EBD70A4]).2.1.take 2 = [0x7E, 0x7C] ∧
    (encodeBlock .mx8e4m3 true [.rne, .rne] [ofF32 0x3EEB851F, ofF32 0x3EBD70A4]).1 = 0x76 ∧
    (encodeBlock .mx8e4m3 true [.rne, .rne] [ofF32 0x3EEB851F, ofF32 0x3EBD70A4]).2.1.take 2 = [0x77, 0x74] := by decide +kernel

/-- 02_number_formats, an accumulator of 2^24 takes a chunk whose exact sum is 8. -/
theorem test_chunk_sum :
    addChunk 0x4B800000 (List.replicate 16 ((decodeMX .mx4e2m1 0x7F 2).mul (decodeMX .mx4e2m1 0x7F 1))) = 0x4B800004 := by
  decide +kernel

/-- 02_number_formats, the FP32 value nearest 0.3 rounded stochastically to E4M3 at the least r that rounds up, and below. -/
theorem test_stochastic_rounding :
    (encodeElem .e4m3 .clamp (.sr 0x6667) (ofF32 0x3E99999A)).1 = 0x2A ∧
    (encodeElem .e4m3 .clamp (.sr 0x6666) (ofF32 0x3E99999A)).1 = 0x29 := by decide +kernel

/-- 04_weight_sparsity, the group 0.30, −0.55, 0.30, 0.05 keeps its elements 0 and 1 and is overfull. -/
theorem test_pack_group :
    (packGroup [ofF32 0x3E99999A, ofF32 0xBF0CCCCD, ofF32 0x3E99999A, ofF32 0x3D4CCCCD]).map
      (fun p => (p.1, p.2.1, p.2.2.2)) = some (0, 1, true) ∧
    (encodeElem .e4m3 .clamp .rne (ofF32 0x3E99999A)).1 = 0x2A ∧
    (encodeElem .e4m3 .clamp .rne (ofF32 0xBF0CCCCD)).1 = 0xB1 := by decide +kernel

/-- 08_bonded_dram, the leaf entry of module 9's die C3 and the target address that it gives. -/
theorem test_leaf_target : leafTarget 0x00090C024000000F 0 0x0000004000050200 = 0x00090C0240050200 := by decide

/-- 19_keeper_minil, the header of a LOAD_JOB that the host of bridge module 5 sends. -/
theorem test_message_header :
    (Minil.bytes ⟨0x10, 0x0107, 0, 0x00058000, false, 8, true, List.replicate 64 0⟩).take 16 =
      [0x10, 0x00, 0x07, 0x01, 0x40, 0x00, 0x00, 0x00, 0x00, 0x80, 0x05, 0x00, 0x50, 0x00, 0x00, 0x00] := by decide

/-! The state at reset, the step, and the word that spells no command. -/

theorem test_reset_sound : State.reset.Sound := rfl

/-- PWR_CAP is 9,600 W at reset (Table 21-5), and the bridge's endpoint registers are zero. -/
theorem test_reset_values : State.reset.rd keeperU Reg.PWR_CAP_W = 9600 ∧ State.reset.rd mbxU Reg.DB_STAT_BITS = 0 := by
  decide

theorem test_no_word_spells_a_command : decodeTableWord 32 0x13 = none := by decide

/-- A command that waits is run by the next step, and it leaves the queue. -/
theorem test_step_runs_the_front :
    ∃ t, step { w0 with pending := [.dbSet 5, .modRstNAssert] } = .next t ∧ t.pending = [.modRstNAssert] ∧
      t.rd mbxU Reg.DB_STAT_BITS = 5 := ⟨_, rfl, by decide, by decide⟩

/-- The timestamp wraps at 2^64. -/
theorem test_timestamp_wraps :
    ∃ t, step (((w0.wr clkU Reg.CLK_STAT_ROOT_LOCK 1).wr clkU Reg.TS_LO_VALUE (2 ^ 64 - 1))) = .next t ∧ t.ts = 0 :=
  ⟨_, rfl, by decide⟩

/-- A doorbell bit that the keeper clears stays clear, and the others stay set. -/
theorem test_dbClr :
    ∃ t, exec (.dbClr (5 * 65536 + keeperU) 2) (w0.wr mbxU Reg.DB_STAT_BITS 7) = .next t ∧
      t.rd mbxU Reg.DB_STAT_BITS = 5 := ⟨_, rfl, by decide⟩

/-! States that meet the hypotheses of the statements that are not made of clauses. -/

theorem met_StepRunsFrontCommand : ∃ (c : Instr) (l : List Instr) (s : State), s.pending = c :: l :=
  ⟨.dbSet 1, [], { w0 with pending := [.dbSet 1] }, rfl⟩

theorem met_IdleStepCountsTime : ∃ s : State, s.pending = [] := ⟨w0, rfl⟩

theorem met_StepKeepsMemoryForm : ∃ s t : State, s.Sound ∧ step s = .next t :=
  ⟨w0, _, rfl, rfl⟩

theorem met_BridgeRoleIsSampled :
    ∃ (c : Instr) (s t : State), exec c s = .next t ∧ (∀ mv slot b, c = .powerGoodRise mv slot b → s.sb.good = true) ∧
      (∀ ok, c ≠ .powerGoodFall ok) :=
  ⟨.dbSet 1, w0, _, rfl, by simp, by simp⟩

/-- An event 1 ms after the newest entry of its code and unit is merged into it. -/
theorem met_EventsMerge_merged :
    ∃ (s : State) (code u : Nat) (e : LogEntry) (r : List LogEntry),
      s.log.ring = e :: r ∧ e.code = code ∧ e.unit = s.unitAddr u ∧ s.jobTime ≤ e.time + 118750 :=
  ⟨({ w0 with log := { w0.log with ring := [⟨eFOG, 0, false, 0, 5 * 65536 + keeperU, 7, 0, 9, 0, 0, 0, 0, 0⟩] } } :
      State).wr clkU Reg.TS_LO_VALUE 118757, eFOG, keeperU, _, [], rfl, by decide, by decide, by decide⟩

/-- One TCLK later it is an entry of its own. -/
theorem met_EventsMerge_apart :
    ∃ (s : State) (code u : Nat), s.log.ring ≠ [] ∧
      ∀ e, s.log.ring.head? = some e → e.code ≠ code ∨ e.unit ≠ s.unitAddr u ∨ e.time + 118750 < s.jobTime :=
  ⟨({ w0 with log := { w0.log with ring := [⟨eFOG, 0, false, 0, 5 * 65536 + keeperU, 7, 0, 9, 0, 0, 0, 0, 0⟩] } } :
      State).wr clkU Reg.TS_LO_VALUE 118758, eFOG, keeperU, by decide, by
        intro e h
        cases h
        decide⟩

theorem met_EventsMerge_class : ∃ cls : Nat, 0 < cls := ⟨4, by decide⟩

theorem met_LeafSetsHaveNoRepeats : ∃ a : Nat, a < 2 ^ 31 := ⟨2 ^ 31 - 1, by decide⟩

theorem met_MessagesReadBack :
    (∃ m : Minil, m.cmd < 2 ^ 16 ∧ m.seq < 2 ^ 16 ∧ m.status < 2 ^ 16 ∧ m.sender < 2 ^ 32 ∧ m.rch < 32 ∧
      m.payload.length < 2 ^ 16) ∧
    (∃ b : Beacon, b.modId < 2 ^ 15 ∧ b.prov < 2 ^ 15 ∧ b.epoch < 2 ^ 32 ∧ b.tSend < 2 ^ 64 ∧ b.tLastRx < 2 ^ 64 ∧
      b.tLastTx < 2 ^ 64 ∧ b.tsoff < 2 ^ 64) ∧
    (∃ f : Fog, f.origin < 2 ^ 16 ∧ f.suspect < 2 ^ 16 ∧ f.code < 2 ^ 16 ∧ f.kind < 4 ∧ f.port < 16 ∧ f.hops < 256 ∧
      f.epoch < 2 ^ 32 ∧ f.fseq < 2 ^ 32 ∧ f.step < 2 ^ 64 ∧ f.time < 2 ^ 64) ∧
    (∃ w : FlagWord, w.flags < 4 ∧ w.layer < 2 ^ 16 ∧ w.ramax < 2 ^ 32 ∧ w.step < 2 ^ 32 ∧ w.hops < 2 ^ 16) :=
  ⟨⟨⟨0xFFFF, 0xFFFF, 0xFFFF, 0xFFFFFFFF, true, 31, true, [1, 2]⟩, by decide⟩,
    ⟨⟨0x7FFF, true, 0x7FFF, 0xFFFFFFFF, 1, 2, 3, 0xFFFFFFFFFFFFFFFF⟩, by decide⟩,
    ⟨⟨0xFFFF, 0xFFFF, 0xFFFF, 3, 15, 255, 0xFFFFFFFF, 0xFFFFFFFF, 0xFFFFFFFFFFFFFFFF, 0xFFFFFFFFFFFFFFFF⟩, by decide⟩,
    ⟨⟨3, 0xFFFF, 0xFFFFFFFF, 0xFFFFFFFF, 0xFFFF⟩, by decide⟩⟩

/-! Each frame speaks of a command that answers a next state. -/

theorem met_PowerFrames : ∃ s t, exec .modRstNAssert s = .next t := ⟨w0, _, rfl⟩
theorem met_SidebandFrames : ∃ s t, exec (.getCap true) s = .next t := ⟨w0, _, rfl⟩
theorem met_AccessFrames : ∃ s t, exec (.registerWrite 7 (unitOf 40 0 0) 0 ⟨[1], []⟩) s = .next t := ⟨w0, _, rfl⟩
theorem met_CoreFrames : ∃ s t, exec (.seqEvt 0 0 1 1) s = .next t := ⟨w0, _, rfl⟩
theorem met_TransferFrames : ∃ s t, exec (.dmaTransferStart 0 0) s = .next t := ⟨w0, _, rfl⟩
theorem met_GatherMergeFrames : ∃ s t, exec (.gmeOpComplete 0 0) s = .next t := ⟨w0, _, rfl⟩
theorem met_MemoryFrames : ∃ s t, exec (.tuInval (5 * 65536 + keeperU) 0) s = .next t := ⟨w0, _, rfl⟩
theorem met_StepFrames : ∃ s t, exec .voteSend s = .next t := ⟨w0, _, rfl⟩
theorem met_IngestFrames : ∃ s t, exec (.strArrLoRead 0 true) s = .next t := ⟨w0, _, rfl⟩
theorem met_FabricFrames : ∃ s t, exec (.ackDue 0) s = .next t := ⟨w0, _, rfl⟩
theorem met_KeeperFrames : ∃ s t, exec (.dbSet 1) s = .next t := ⟨w0, _, rfl⟩

theorem met_AccessesComplete_packetArrive_write :
    ∃ (s : State) (src taddr len : Nat) (data : List Byte), (taNames taddr = true) ∧ (taEp taddr = false) ∧ (taOff taddr + data.length ≤ reservedOff) ∧ (s.gated (taDie taddr) = false) ∧ ((∀ w ∈ wordsOf (dramAddr (taDie taddr) (taOff taddr)) data.length, mget s.ecc w 0 = 0)) :=
  ⟨w0, 7, dramAddr 3 0x100, 0, [1, 2, 3, 4], by decide⟩

theorem met_AccessesComplete_packetArrive_read :
    ∃ (s : State) (src taddr len : Nat) (data : List Byte), (taNames taddr = true) ∧ (taEp taddr = false) ∧ (taOff taddr + len ≤ reservedOff) ∧ (s.gated (taDie taddr) = false) ∧ ((∀ w ∈ wordsOf (dramAddr (taDie taddr) (taOff taddr)) len, mget s.ecc w 0 = 0)) :=
  ⟨w0.putNum (dramAddr 3 0x100) 4 77, 7, dramAddr 3 0x100, 4, [], by decide⟩

theorem met_AccessesComplete_packetArrive_window :
    ∃ (s : State) (src die core off len : Nat) (write : Bool) (data : List Byte), (die < 24) ∧ (core < 16) ∧ (off < 0x800000) ∧ (s.gated die = false) ∧ (s.job.modId < 2 ^ 15) ∧ (len = (if write then data.length else len)) ∧ (s.spBar src die core off len = 0) :=
  ⟨w0, w0.unitAddr (dmaU 2 1), 2, 3, 0x1FC0, 64, false, [], by decide⟩

theorem met_AccessesComplete_packetArrive_register :
    ∃ (s : State) (src v len : Nat), (s.running = false) ∧ (s.job.modId < 2 ^ 15) :=
  ⟨w0, 7, 0xFFFEFDFC, 0, by decide⟩

theorem met_AccessesComplete_packetArrive_group :
    ∃ (s : State) (src d1 c1 d2 c2 group v len : Nat), (d1 < 24) ∧ (c1 < 16) ∧ (d2 < 24) ∧ (c2 < 16) ∧ (s.leaves group = [s.job.modId * 65536 + seqU d1 c1, s.job.modId * 65536 + seqU d2 c2]) ∧ (2 ^ 31 ≤ group) ∧ (s.gated d1 = false) ∧ (s.gated d2 = false) ∧ (s.running = false) ∧ (s.job.modId < 2 ^ 15) :=
  ⟨{ w0 with groups := [(3, [5 * 65536 + seqU 1 2, 5 * 65536 + seqU 23 15])] }, 7, 1, 2, 23, 15, 2 ^ 31 + 3, 0xF123456, 0, by decide⟩

theorem met_AccessesComplete_packetArrive_groupread :
    ∃ (s : State) (src group : Nat) (rest : List Nat), (s.leaves group = (s.job.modId * 65536 + keeperU) :: rest) ∧ (2 ^ 31 ≤ group) ∧ (s.job.modId < 2 ^ 15) :=
  ⟨({ w0 with groups := [(3, [5 * 65536 + keeperU, 6 * 65536 + keeperU])] } : State).wr keeperU Reg.RCV_FOGS_COUNT 9, 7, 2 ^ 31 + 3, [6 * 65536 + keeperU], by decide⟩

theorem met_AccessesComplete_packetArrive_held :
    ∃ (s : State) (src taddr len : Nat) (data : List Byte), (s.gated (taDie taddr) = true) :=
  ⟨w0.wr keeperU Reg.PWR_STAT_PSTATE 1, 7, dramAddr 3 0x100, 0, [1], by decide⟩

theorem met_AccessesComplete_packetArrive_spoiled :
    ∃ (s : State) (src taddr len flips group : Nat) (write : Bool) (data : List Byte), (2 ≤ flips) :=
  ⟨w0, 7, dramAddr 3 0x100, 4, 2, 0, true, [1], by decide⟩

theorem met_AccessesComplete_groupWriteComplete :
    ∃ (s : State) (group : Nat) (results : List (Nat × Nat)), ((s.leaves (2 ^ 31 + group % 2 ^ 31)).isEmpty = false) ∧ ((∀ l ∈ s.leaves (2 ^ 31 + group % 2 ^ 31), ∃ r ∈ results, r.1 = l)) ∧ ((∀ r ∈ results, r.2 = 0)) :=
  ⟨{ w0 with groups := [(3, [327681, 327745])] }, 3, [(327745, 0), (327681, 0)], by decide⟩

theorem met_AccessesComplete_groupWriteComplete_failed :
    ∃ (s : State) (group l code : Nat) (ok rest : List Nat) (results : List (Nat × Nat)), (s.leaves (2 ^ 31 + group % 2 ^ 31) = ok ++ l :: rest) ∧ (results = ok.map (fun k => (k, 0)) ++ (l, code) :: rest.map (fun k => (k, 0))) ∧ (l ∉ ok) ∧ (l ∉ rest) ∧ (code ≠ 0) :=
  ⟨{ w0 with groups := [(3, [327681, 327745])] }, 3, 327745, 4, [327681], [], [(327681, 0), (327745, 4)], by decide⟩

theorem met_AccessesComplete_registerWrite :
    ∃ (s : State) (src v : Nat), (s.running = false) :=
  ⟨w0, 7, 0xFFFEFDFC, by decide⟩

theorem met_AccessesComplete_registerWrite_rw :
    ∃ (s : State) (src die core eng r v u : Nat) (f : Field), (die < 24) ∧ (core < 16) ∧ (eng < 2) ∧ (r < 8) ∧ (s.running = false) ∧ ((u, f) ∈ [(dmaU die core, Reg.RING_BASE_LO_ADDR r), (dmaU die core, Reg.RING_BASE_HI_ADDR r), (stkU die core, Reg.STK_BASE_LO_ADDR),
        (stkU die core, Reg.STK_BASE_HI_ADDR), (stkU die core, Reg.STK_SIZE_LO_SIZE), (stkU die core, Reg.STK_SIZE_HI_SIZE),
        (ueU die, Reg.UE_LIST_LO_ADDR), (ueU die, Reg.UE_LIST_HI_ADDR), (ueU die, Reg.UE_PAIRRING_MASK), (portU (2 + eng), Reg.FAB_INJ_SEED_VALUE)]) :=
  ⟨w0, 7, 23, 15, 1, 7, 0xFFFEFDFC, dmaU 23 15, Reg.RING_BASE_HI_ADDR 7, by decide⟩

theorem met_AccessesComplete_registerWrite_clear :
    ∃ (s : State) (src die core eng u : Nat) (f : Field), (die < 24) ∧ (core < 16) ∧ (eng < 2) ∧ ((u, f) ∈ [(dmaU die core, Reg.DMA_STAT_FAULTED), (dmaU die core, Reg.SPK_STAT_FAULTED), (stkU die core, Reg.STK_STAT_FAULTED),
        (stkU die core, Reg.STK_STAT_STALE), (dramU die, Reg.DRAM_STAT_CE), (dramU die, Reg.DRAM_STAT_UE),
        (gmeU die eng, Reg.GME_STAT_FAULTED), (ueU die, Reg.UE_STAT_FAULTED), (spU die core, Reg.SP_STAT_CONFLICT)]) :=
  ⟨w0.wr (dramU 23) Reg.DRAM_STAT_UE 1, 7, 23, 15, 1, dramU 23, Reg.DRAM_STAT_UE, by decide⟩

theorem met_AccessesComplete_registerWrite_meet :
    ∃ (s : State) (src die core eng u : Nat) (f : Field), (die < 24) ∧ (core < 16) ∧ (eng < 2) ∧ ((u, f) ∈ [(dmaU die core, Reg.DMA_STAT_FAULTED), (dramU die, Reg.DRAM_STAT_CE), (dramU die, Reg.DRAM_STAT_UE),
        (gmeU die eng, Reg.GME_STAT_FAULTED), (ueU die, Reg.UE_STAT_FAULTED), (spU die core, Reg.SP_STAT_CONFLICT)]) :=
  ⟨w0.wr (dramU 23) Reg.DRAM_STAT_UE 1, 7, 23, 15, 1, dramU 23, Reg.DRAM_STAT_UE, by decide⟩

theorem met_AccessesComplete_registerWrite_ro :
    ∃ (s : State) (src die core v : Nat), (die < 24) ∧ (core < 16) ∧ (s.rd (seqU die core) Reg.SEQ_PC_PC < 8192) :=
  ⟨w0.wr (seqU 23 15) Reg.SEQ_PC_PC 77, 7, 23, 15, 5, by decide⟩

theorem met_AccessesComplete_registerWrite_busy :
    ∃ (s : State) (src v : Nat), (s.running = true) :=
  ⟨{ w0 with job := { w0.job with st := .running } }, 7, 0xFFFEFDFC, by decide⟩

theorem met_AccessesComplete_rcFieldRead_counters :
    ∃ (s : State) (src die core eng p u : Nat) (f : Field), (die < 24) ∧ (core < 16) ∧ (eng < 2) ∧ (2 ≤ p) ∧ (p < 12) ∧ ((u, f) ∈ [(seqU die core, Reg.SEQ_FROZEN_COUNT), (seqU die core, Reg.SEQ_NEARMISS_COUNT), (dmaU die core, Reg.DMA_CLAMP_COUNT),
        (dmaU die core, Reg.DMA_XFERS_COUNT), (dmaU die core, Reg.SPK_TILES_COUNT), (drainU die core, Reg.DRAIN_NONFIN_COUNT),
        (stkU die core, Reg.STK_STALE_COUNT), (dramU die, Reg.DRAM_CE_COUNT), (dramU die, Reg.DRAM_REFWAIT_COUNT),
        (gmeU die eng, Reg.GME_HIT_COUNT), (ueU die, Reg.UE_ELEMS_COUNT), (tuU die, Reg.TU_MISS_COUNT), (portU p, Reg.FAB_CRC_COUNT),
        (portU p, Reg.FAB_RXF_COUNT)]) :=
  ⟨w0.wr (gmeU 23 1) Reg.GME_HIT_COUNT 9, 7, 23, 15, 1, 11, gmeU 23 1, Reg.GME_HIT_COUNT, by decide⟩

theorem met_AccessesComplete_loCaptureRead_pairs :
    ∃ (s : State) (src die core u : Nat) (lo hi : Field), (die < 24) ∧ (core < 16) ∧ ((u, lo, hi) ∈ [(seqU die core, Reg.SEQ_CYC_LO_VALUE, Reg.SEQ_CYC_HI_VALUE), (dmaU die core, Reg.DMA_FADDR_LO_ADDR, Reg.DMA_FADDR_HI_ADDR),
        (tuU die, Reg.TU_FADDR_LO_ADDR, Reg.TU_FADDR_HI_ADDR), (keeperU, Reg.FX_STEP_LO_VALUE, Reg.FX_STEP_HI_VALUE),
        (keeperU, Reg.FX_UPD_LO_VALUE, Reg.FX_UPD_HI_VALUE), (keeperU, Reg.RCV_CKJOB_LO_VALUE, Reg.RCV_CKJOB_HI_VALUE)]) :=
  ⟨w0.wr (seqU 23 15) Reg.SEQ_CYC_LO_VALUE (2 ^ 40 + 5), 7, 23, 15, seqU 23 15, Reg.SEQ_CYC_LO_VALUE, Reg.SEQ_CYC_HI_VALUE, by decide⟩

theorem met_DramAndTranslationComplete_dramRead :
    ∃ (s : State) (src die off len : Nat), (die < 24) ∧ (s.rd (dramU die) Reg.DRAM_STAT_SELF_REF = 0) ∧ (off + len ≤ reservedOff) ∧ ((∀ w ∈ wordsOf (dramAddr die off) len, mget s.ecc w 0 ≤ 1)) :=
  ⟨{ w0.putNum (dramAddr 3 0x100) 4 77 with ecc := [((dramAddr 3 0x100) / 4, 1)] }, 7, 3, 0x100, 4, by decide⟩

theorem met_DramAndTranslationComplete_dramWrite :
    ∃ (s : State) (src die off : Nat) (data : List Byte), (die < 24) ∧ (s.rd (dramU die) Reg.DRAM_STAT_SELF_REF = 0) ∧ (off + data.length ≤ reservedOff) ∧ ((∀ w ∈ wordsOf (dramAddr die off) data.length, mget s.ecc w 0 = 0)) :=
  ⟨w0, 7, 23, reservedOff - 2, [255, 0], by decide⟩

theorem met_DramAndTranslationComplete_patrolScrub :
    ∃ (s : State) (die ch : Nat), (die < 24) ∧ (ch < 32) ∧ (s.rd (dramU die) Reg.DRAM_SCRUB_EN = 1) ∧ (s.rd (dramU die) Reg.DRAM_STAT_SELF_REF = 0) :=
  ⟨w0.wr (dramU 0) Reg.DRAM_SCRUB_EN 1, 0, 31, by decide⟩

theorem met_DramAndTranslationComplete_dramRefresh :
    ∃ (s : State) (die delayed : Nat), (die < 24) :=
  ⟨w0, 23, 2 ^ 33, by decide⟩

theorem met_DramAndTranslationComplete_translationWalk :
    ∃ (s : State) (die agent va need e : Nat) (rest : List (Nat × Nat)), (die < 24) ∧ (s.rd (dramU die) Reg.DRAM_STAT_SELF_REF = 0) ∧ (canonical va = true) ∧ ((mget s.tus die {}).small = (va % 2 ^ 57 / 2 ^ 21, e) :: rest) ∧ (entryAllows e need = true) :=
  ⟨{ w0 with tus := [(2, { small := [(1, 0x20000F)] })] }, 2, 0, 0x200040, 1, 0x20000F, [], by decide⟩

theorem met_DramAndTranslationComplete_translationWalk_noncanonical :
    ∃ (s : State) (die agent va need : Nat), (die < 24) ∧ (canonical va = false) :=
  ⟨w0, 23, 0, 2 ^ 57, 1, by decide⟩

theorem met_DramAndTranslationComplete_tuInval :
    ∃ (s : State) (die : Nat), (die < 24) :=
  ⟨w0, 23, by decide⟩

theorem met_DramAndTranslationComplete_invalidationDone :
    ∃ (s : State) (die : Nat), (die < 24) ∧ (s.rd (tuU die) Reg.TU_STAT_INVAL_BUSY = 1) :=
  ⟨({ w0 with tus := [(2, { small := [(1, 0x20000F)] })] } : State).wr (tuU 2) Reg.TU_STAT_INVAL_BUSY 1, 2, by decide⟩

theorem met_ScratchpadTrafficCompletes_arbitratedAccess :
    ∃ (s : State) (die core src off waited : Nat) (promoted : Bool), (die < 24) ∧ (core < 16) ∧ ((mget s.arbs (die * 16 + core) {}).reqs = [⟨src, off, none, 64, waited, promoted, 0⟩]) ∧ ((mget s.arbs (die * 16 + core) {}).held = []) ∧ (off % 64 = 0) ∧ (off + 64 ≤ spBytes) ∧ ((∀ w ∈ wordsOf (epAddr (spU die core) off) 64, mget s.ecc w 0 = 0)) :=
  ⟨{ w0 with arbs := [(23 * 16 + 15, { reqs := [⟨7, 0x5FFFC0, none, 64, 3, false, 0⟩] })] }, 23, 15, 7, 0x5FFFC0, 3, false, by decide⟩

theorem met_ScratchpadTrafficCompletes_requestPromotion :
    ∃ (s : State) (die core : Nat) (r : ArbReq), (r ∈ (mget s.arbs (die * 16 + core) {}).reqs) ∧ (256 ≤ r.waited) :=
  ⟨{ w0 with arbs := [(0, { reqs := [⟨7, 0, none, 64, 256, false, 0⟩] })] }, 0, 0, ⟨7, 0, none, 64, 256, false, 0⟩, by decide⟩

theorem met_ScratchpadTrafficCompletes_scratchpadScrub :
    ∃ (s : State) (die core bank w : Nat), (die < 24) ∧ (core < 16) ∧ (bank < 32) ∧ (s.scrubQ.head? = some w) ∧ (epAddr (spU die core) 0 ≤ 4 * w) ∧ (4 * w < epAddr (spU die core) 0 + spBytes) ∧ ((4 * w - epAddr (spU die core) 0) / 64 % 32 = bank) ∧ (mget s.ecc w 0 = 1) ∧ ((mget s.arbs (die * 16 + core) {}).reqs = []) ∧ ((mget s.arbs (die * 16 + core) {}).held = []) :=
  ⟨{ w0 with scrubQ := [epAddr (spU 1 2) 0x100 / 4], ecc := [(epAddr (spU 1 2) 0x100 / 4, 1)] }, 1, 2, 4, epAddr (spU 1 2) 0x100 / 4, by decide⟩

theorem met_ScratchpadTrafficCompletes_scratchpadScrub_row :
    ∃ (s : State) (die core bank row : Nat), (die < 24) ∧ (core < 16) ∧ (bank < 32) ∧ (row < 3072) ∧ (s.scrubQ = []) ∧ (s.ecc = []) ∧ ((mget s.arbs (die * 16 + core) {}).reqs = []) ∧ ((mget s.arbs (die * 16 + core) {}).held = []) ∧ (mget (mget s.arbs (die * 16 + core) {}).rows bank 0 = row) :=
  ⟨{ w0 with arbs := [(18, { rows := [(0, 3071)] })] }, 1, 2, 0, 3071, by decide⟩

theorem met_MailboxesAndDoorbellsComplete_mbxBufWrite :
    ∃ (s : State) (src chan off : Nat) (data : List Byte), (src < 2 ^ 32) ∧ (chan < 32) ∧ (s.rcvOf chan ≠ 0) ∧ (4 ≤ data.length) ∧ (data.length ≤ 128) ∧ (off % data.length = 0) ∧ (off + data.length ≤ 256) ∧ (s.mbxBusy src chan = false) :=
  ⟨w0, 7, 7, 252, [1, 2, 3, 4], by decide⟩

theorem met_MailboxesAndDoorbellsComplete_mbxSend :
    ∃ (s : State) (src chan len : Nat), (chan < 32) ∧ (s.rcvOf chan ≠ 0) ∧ (s.mbxState chan = mLOCKED) ∧ (s.rd mbxU (Reg.MBX_SRC_UNIT chan) = src) ∧ (16 ≤ len) ∧ (len ≤ 256) :=
  ⟨(w0.wr mbxU (Reg.MBX_STAT_STATE 7) mLOCKED).wr mbxU (Reg.MBX_SRC_UNIT 7) 9, 9, 7, 256, by decide⟩

theorem met_MailboxesAndDoorbellsComplete_mbxBufRead :
    ∃ (s : State) (src chan off len : Nat), (chan < 32) ∧ (s.isReceiver src chan = true) ∧ (s.mbxState chan = mFULL) :=
  ⟨w0.wr mbxU (Reg.MBX_STAT_STATE 7) mFULL, w0.unitAddr keeperU, 7, 0, 16, by decide⟩

theorem met_MailboxesAndDoorbellsComplete_mbxDone :
    ∃ (s : State) (src chan : Nat), (chan < 32) ∧ (s.isReceiver src chan = true) ∧ (s.mbxState chan = mFULL) :=
  ⟨w0.wr mbxU (Reg.MBX_STAT_STATE 0) mFULL, w0.unitAddr keeperU, 0, by decide⟩

theorem met_MailboxesAndDoorbellsComplete_mbxLockBreak :
    ∃ (s : State) (chan : Nat), (chan < 32) ∧ (s.mbxState chan = mLOCKED) :=
  ⟨w0.wr mbxU (Reg.MBX_STAT_STATE 31) mLOCKED, 31, by decide⟩

theorem met_MailboxesAndDoorbellsComplete_dbSet :
    ∃ (s : State) (bits : Nat), ((∀ e ∈ s.apps, e.2.wait = none)) :=
  ⟨w0.wr mbxU Reg.DB_STAT_BITS 5, 2 ^ 31 + 2, by decide⟩

theorem met_UnitDoorsComplete_strArrLoRead :
    ∃ (s : State) (slot d p l : Nat) (wide : Bool) (rest : List (Nat × Nat × Nat)), (slot < 16) ∧ (mget s.arrivals slot [] = (d, p, l) :: rest) :=
  ⟨{ w0 with arrivals := [(15, [(9, 4, 2), (10, 6, 2)])] }, 15, 9, 4, 2, true, [(10, 6, 2)], by decide⟩

theorem met_UnitDoorsComplete_strAuprod :
    ∃ (s : State) (slot count : Nat), (slot < 16) ∧ ((count % 2 ^ 32 + 2 ^ 32 - s.rd (strU slot) Reg.STR_AUCONS_COUNT) % 2 ^ 32 ≤ 2 ^ mget s.auLog slot 0) :=
  ⟨{ w0 with auLog := [(15, 4)] }, 15, 16, by decide⟩

theorem met_UnitDoorsComplete_stqPost :
    ∃ (s : State) (src ep q : Nat) (data : List Byte), (ep < 2) ∧ (q < 8) ∧ (data.length = 16) :=
  ⟨w0, 7, 1, 7, leBytes 8 0x40 ++ leBytes 8 3, by decide⟩

theorem met_UnitDoorsComplete_stqRel :
    ∃ (s : State) (ep q count n : Nat), (ep < 2) ∧ (q < 8) ∧ (count < 2 ^ 32) ∧ (n = (count + 2 ^ 32 - (s.stq (recvKey ep q)).released % 2 ^ 32) % 2 ^ 32) ∧ ((s.stq (recvKey ep q)).released + n ≤ (s.stq (recvKey ep q)).arrived) :=
  ⟨{ w0 with stqs := [(31, { arrived := 3, released := 1 })] }, 1, 7, 3, 2, by decide⟩

theorem met_UnitDoorsComplete_fabKhb :
    ∃ (s : State) (port : Nat), (port < 12) :=
  ⟨w0, 11, by decide⟩

theorem met_SequencerCompletes_bundleIssue :
    ∃ (s : State) (die core r v pc cyc : Nat), (die < 24) ∧ (core < 16) ∧ (0 < r) ∧ (r < 32) ∧ (v < 2 ^ 64) ∧ (pc + 1 < 8192) ∧ (cyc < 2 ^ 32) ∧ (s.core die core = { nextDue := cyc }) ∧ (s.rd (seqU die core) Reg.SEQ_STAT_RUN = 1) ∧ (s.rd (seqU die core) Reg.SEQ_CYC_LO_VALUE = cyc) ∧ (s.rd (seqU die core) Reg.SEQ_PC_PC = pc) ∧ (s.bundleAt die core pc = 0x0A + 64 * r + 2 ^ 432 * v) :=
  ⟨({ w0 with cores := [(3 * 16 + 2, { nextDue := 40 })] } : State).wr (seqU 3 2) Reg.SEQ_STAT_RUN 1 |>.wr (seqU 3 2) Reg.SEQ_CYC_LO_VALUE 40 |>.wr (seqU 3 2) Reg.SEQ_PC_PC 1 |>.putNum (epAddr (seqU 3 2) 0x100040) 64 (0x0A + 64 * 5 + 0x1000000000000000000000000000000000000000000000000000000000000000000000000000000000000000000000000000000000000 * 77), 3, 2, 5, 77, 1, 40, by decide⟩

theorem met_SequencerCompletes_bundleIssue_wait :
    ∃ (s : State) (die core tag pc cyc : Nat), (die < 24) ∧ (core < 16) ∧ (tag < 256) ∧ (pc < 8192) ∧ (cyc < 2 ^ 32) ∧ (s.core die core = { nextDue := cyc, tags := [(tag, .out)] }) ∧ (s.rd (seqU die core) Reg.SEQ_STAT_RUN = 1) ∧ (s.rd (seqU die core) Reg.SEQ_CYC_LO_VALUE = cyc) ∧ (s.rd (seqU die core) Reg.SEQ_PC_PC = pc) ∧ (s.bundleAt die core pc = 1 + 64 * tag) :=
  ⟨({ w0 with cores := [(3 * 16 + 2, { nextDue := 40, tags := [(9, .out)] })] } : State).wr (seqU 3 2) Reg.SEQ_STAT_RUN 1 |>.wr (seqU 3 2) Reg.SEQ_CYC_LO_VALUE 40 |>.wr (seqU 3 2) Reg.SEQ_PC_PC 1 |>.putNum (epAddr (seqU 3 2) 0x100040) 64 (1 + 64 * 9), 3, 2, 9, 1, 40, by decide⟩

theorem met_SequencerCompletes_waitLimitExpiry :
    ∃ (s : State) (die core tag pc : Nat), (die < 24) ∧ (core < 16) ∧ (tag < 256) ∧ (pc < 8192) ∧ ((s.core die core).atEnd = false) ∧ (mget (s.core die core).tags tag .free = .out) ∧ (s.rd (seqU die core) Reg.SEQ_STAT_RUN = 1) ∧ (s.rd (seqU die core) Reg.SEQ_STAT_FROZEN = 1) ∧ (s.rd (seqU die core) Reg.SEQ_WAIT_KIND = 1) ∧ (s.rd (seqU die core) Reg.SEQ_PC_PC = pc) ∧ (s.bundleAt die core pc = 1 + 64 * tag) ∧ (0 < s.waitLimit die core (s.rd (seqU die core) Reg.SEQ_WAIT_CLASS)) :=
  ⟨({ w0 with cores := [(3 * 16 + 2, { nextDue := 40, tags := [(9, .out)] })] } : State).wr (seqU 3 2) Reg.SEQ_STAT_RUN 1 |>.wr (seqU 3 2) Reg.SEQ_STAT_FROZEN 1 |>.wr (seqU 3 2) Reg.SEQ_WAIT_KIND 1 |>.wr (seqU 3 2) Reg.SEQ_PC_PC 1 |>.wr (seqU 3 2) (Reg.SEQ_WLIM_COUNT 0) 4 |>.putNum (epAddr (seqU 3 2) 0x100040) 64 (1 + 64 * 9), 3, 2, 9, 1, by decide⟩

theorem met_SequencerCompletes_barrierArrival :
    ∃ (s : State) (die core b grp src gen tag : Nat) (got : List (Nat × Nat)), (die < 24) ∧ (core < 16) ∧ (gen < 65535) ∧ ((s.core die core).barGroup = [(b, grp)]) ∧ (mget (s.core die core).bars b {} = { gen := gen + 1, tag := some tag, got := got }) ∧ (mget (s.core die core).tags tag .free = .out) ∧ ((∀ l ∈ s.leaves grp, l = src ∨ (gen, l) ∈ got)) :=
  ⟨{ w0 with groups := [(3, [327680, 327744])], cores := [(17, { tags := [(9, .out)], barGroup := [(2, 2 ^ 31 + 3)], bars := [(2, { gen := 5, tag := some 9, got := [(4, 327680)] })] })] }, 1, 1, 2, 2 ^ 31 + 3, 327744, 4, 9, [(4, 327680)], by decide⟩

theorem met_SequencerCompletes_seqEvt :
    ∃ (s : State) (die core bits period : Nat), (die < 24) ∧ (core < 16) ∧ (s.rd (seqU die core) Reg.SEQ_STAT_FROZEN = 0) :=
  ⟨w0.wr (seqU 3 2) Reg.SEQ_EVT_PEND 5, 3, 2, 0x183, 0, by decide⟩

theorem met_UnitResultsLand_cubeAccumulate :
    ∃ (s : State) (die core k : Nat) (q : CubeSt) (o : CubeOp), (die < 24) ∧ (core < 16) ∧ (s.rd (seqU die core) Reg.SEQ_STAT_RUN = 1) ∧ (s.rd (seqU die core) Reg.SEQ_STAT_FROZEN = 0) ∧ (s.rd (seqU die core) Reg.SEQ_CYC_LO_VALUE = o.due) ∧ ((s.core die core).cubes = [(k, q)]) ∧ (q.sload = []) ∧ (q.ops = [o]) ∧ (o.due ≤ (s.core die core).nextDue) :=
  ⟨({ w0 with cores := [(17, { nextDue := 60, cubes := [(2, { ops := [⟨58, 1, true, []⟩], acc := [(1, List.replicate 256 7)] })] })] } : State).wr (seqU 1 1) Reg.SEQ_STAT_RUN 1 |>.wr (seqU 1 1) Reg.SEQ_CYC_LO_VALUE 58, 1, 1, 2, { ops := [⟨58, 1, true, []⟩], acc := [(1, List.replicate 256 7)] }, ⟨58, 1, true, []⟩, by decide⟩

theorem met_UnitResultsLand_mvAccumulate :
    ∃ (s : State) (die core : Nat) (o : MvOp), (die < 24) ∧ (core < 16) ∧ (s.rd (seqU die core) Reg.SEQ_STAT_RUN = 1) ∧ (s.rd (seqU die core) Reg.SEQ_STAT_FROZEN = 0) ∧ (s.rd (seqU die core) Reg.SEQ_CYC_LO_VALUE = o.due) ∧ ((s.core die core).mv.vload = []) ∧ ((s.core die core).mv.ops = [o]) ∧ ((s.core die core).vops = []) ∧ (o.due ≤ (s.core die core).nextDue) :=
  ⟨({ w0 with cores := [(17, { nextDue := 60, mv := { ops := [⟨58, 1, true, .exact, 3, []⟩] } })] } : State).wr (seqU 1 1) Reg.SEQ_STAT_RUN 1 |>.wr (seqU 1 1) Reg.SEQ_CYC_LO_VALUE 58, 1, 1, ⟨58, 1, true, .exact, 3, []⟩, by decide⟩

theorem met_UnitResultsLand_vuResultWrite :
    ∃ (s : State) (die core r bits mask due : Nat), (die < 24) ∧ (core < 16) ∧ (s.rd (seqU die core) Reg.SEQ_STAT_RUN = 1) ∧ (s.rd (seqU die core) Reg.SEQ_STAT_FROZEN = 0) ∧ (s.rd (seqU die core) Reg.SEQ_CYC_LO_VALUE = due) ∧ ((s.core die core).vops = [⟨due, [.pred r bits mask]⟩]) ∧ (due ≤ (s.core die core).nextDue) :=
  ⟨({ w0 with cores := [(17, { nextDue := 60, vops := [⟨58, [.pred 3 5 7]⟩], preg := [(3, 9)] })] } : State).wr (seqU 1 1) Reg.SEQ_STAT_RUN 1 |>.wr (seqU 1 1) Reg.SEQ_CYC_LO_VALUE 58, 1, 1, 3, 5, 7, 58, by decide⟩

theorem met_UnitResultsLand_drainTileWrite :
    ∃ (s : State) (die core d m : Nat), (die < 24) ∧ (core < 16) ∧ (d < 2 ^ 32) ∧ (2048 * m + 1024 ≤ spBytes) ∧ (s.rd (seqU die core) Reg.SEQ_STAT_RUN = 1) ∧ (s.rd (seqU die core) Reg.SEQ_STAT_FROZEN = 0) ∧ (s.rd (seqU die core) Reg.SEQ_CYC_LO_VALUE = d + 11) ∧ (s.core die core = { nextDue := d + 12, drain := { ops := [⟨d, 0, 0, 16, List.replicate 256 0, 0, 2048 * m, 0, false, 0, [], [], [], none⟩] } }) :=
  ⟨({ w0 with cores := [(17, { nextDue := 52, drain := { ops := [⟨40, 0, 0, 16, List.replicate 256 0, 0, 4096, 0, false, 0, [], [], [], none⟩] } })] } : State).wr (seqU 1 1) Reg.SEQ_STAT_RUN 1 |>.wr (seqU 1 1) Reg.SEQ_CYC_LO_VALUE 51 |>.putNum (epAddr (spU 1 1) 4096) 4 77, 1, 1, 40, 2, by decide⟩

theorem met_UnitResultsLand_drainGroupWrite :
    ∃ (s : State) (die core k cyc off : Nat) (b : BandSt) (bs : List Byte), (die < 24) ∧ (core < 16) ∧ (k < 4) ∧ (cyc < 2 ^ 32) ∧ (off % 64 = 0) ∧ (0 < bs.length) ∧ (bs.length ≤ 512) ∧ (off + bs.length ≤ spBytes) ∧ (s.rd (seqU die core) Reg.SEQ_STAT_RUN = 1) ∧ (s.rd (seqU die core) Reg.SEQ_STAT_FROZEN = 0) ∧ (s.rd (seqU die core) Reg.SEQ_CYC_LO_VALUE = cyc) ∧ (s.core die core = { nextDue := cyc + 1, drain := { bands := [(k, some { b with ready := some cyc })], writes := [⟨k, cyc, [(off, bs)]⟩] } }) :=
  ⟨({ w0 with cores := [(17, { nextDue := 52, drain := { bands := [(3, some ⟨64, 0, 16, [], some 51⟩)], writes := [⟨3, 51, [(64, [1, 2, 3])]⟩] } })] } : State).wr (seqU 1 1) Reg.SEQ_STAT_RUN 1 |>.wr (seqU 1 1) Reg.SEQ_CYC_LO_VALUE 51, 1, 1, 3, 51, 64, ⟨64, 0, 16, [], none⟩, [1, 2, 3], by decide⟩

theorem met_TransfersComplete_dmaTransferStart :
    ∃ (s : State) (die core r d n : Nat), (die < 24) ∧ (core < 16) ∧ (r < 8) ∧ (n < 32) ∧ ((s.core die core).xfers = [{ ring := r, desc := some d }]) ∧ (s.rd (dmaU die core) (Reg.RING_POS_AHEAD r) = n + 1) :=
  ⟨({ w0 with cores := [(17, { xfers := [{ ring := 7, desc := some 5 }] })] } : State).wr (dmaU 1 1) (Reg.RING_POS_AHEAD 7) 16, 1, 1, 7, 5, 15, by decide⟩

theorem met_TransfersComplete_descriptorFetch :
    ∃ (s : State) (die core r p e home q i : Nat), (die < 24) ∧ (core < 16) ∧ (r < 8) ∧ (i % 1024 = 0) ∧ (i + 1024 ≤ 2 ^ 21) ∧ (s.pageAt die p e home q = true) ∧ (s.ecc = []) ∧ (s.net = []) ∧ ((s.core die core).xfers = []) ∧ ((s.core die core).stk = []) ∧ ((s.core die core).fetched = []) ∧ (s.ringSlots die core r = 16) ∧ (s.rd (dmaU die core) (Reg.RING_POS_AHEAD r) = 0) ∧ (s.rd (dmaU die core) (Reg.RING_POS_NEXT r) = 0) ∧ (s.rd (dmaU die core) (Reg.RING_BASE_LO_ADDR r) + 2 ^ 32 * s.rd (dmaU die core) (Reg.RING_BASE_HI_ADDR r) = p * 2 ^ 21 + i) :=
  ⟨({ w0 with tus := [(1, { small := [(1, 12 + 5 * 2 ^ 48 + 3 * 2 ^ 42 + 7 * 2 ^ 21)] })] } : State).wr (dmaU 1 1) (Reg.RING_CFG_BURSTS 7) 1 |>.wr (dmaU 1 1) (Reg.RING_BASE_LO_ADDR 7) (2 ^ 21 + 1024), 1, 1, 7, 1, 12 + 5 * 2 ^ 48 + 3 * 2 ^ 42 + 7 * 2 ^ 21, 3, 7, 1024, by decide⟩

theorem met_TransfersComplete_dmaTransferComplete_load :
    ∃ (s : State) (die core tag r loc p e home q i d : Nat), (die < 24) ∧ (core < 16) ∧ (tag < 256) ∧ (r < 8) ∧ (s.pageAt die p e home q = true) ∧ (s.ecc = []) ∧ (s.net = []) ∧ ((s.core die core).xfers = [{ ring := r, desc := some d, started := true }]) ∧ (mget (s.core die core).tags tag .free = .out) ∧ (loc % 4 = 0) ∧ (loc + 4 ≤ spBytes) ∧ (i % 4 = 0) ∧ (i + 4 ≤ 2 ^ 21) ∧ (d = p * 2 ^ 21 + i + 2 ^ 104 + 2 ^ 168 + 2 ^ 232 + 2 ^ 296 + 2 ^ 360 + tag * 2 ^ 448 + loc * 2 ^ 480) :=
  ⟨({ w0 with tus := [(1, { small := [(1, 12 + 5 * 2 ^ 48 + 3 * 2 ^ 42 + 7 * 2 ^ 21)] })], cores := [(17, { xfers := [{ ring := 7, desc := some (2 ^ 21 + 64 + 2 ^ 104 + 2 ^ 168 + 0x10000000000000000000000000000000000000000000000000000000000 + 0x100000000000000000000000000000000000000000000000000000000000000000000000000 + 0x1000000000000000000000000000000000000000000000000000000000000000000000000000000000000000000 + 9 * 0x10000000000000000000000000000000000000000000000000000000000000000000000000000000000000000000000000000000000000000 + 128 * 0x1000000000000000000000000000000000000000000000000000000000000000000000000000000000000000000000000000000000000000000000000), started := true }], tags := [(9, .out)] })] } : State).putNum (pageByte 3 7 64) 4 0x3F800000, 1, 1, 9, 7, 128, 1, 12 + 5 * 2 ^ 48 + 3 * 2 ^ 42 + 7 * 2 ^ 21, 3, 7, 64, 2 ^ 21 + 64 + 2 ^ 104 + 2 ^ 168 + 0x10000000000000000000000000000000000000000000000000000000000 + 0x100000000000000000000000000000000000000000000000000000000000000000000000000 + 0x1000000000000000000000000000000000000000000000000000000000000000000000000000000000000000000 + 9 * 0x10000000000000000000000000000000000000000000000000000000000000000000000000000000000000000000000000000000000000000 + 128 * 0x1000000000000000000000000000000000000000000000000000000000000000000000000000000000000000000000000000000000000000000000000, by decide⟩

theorem met_TransfersComplete_dmaTransferComplete_store :
    ∃ (s : State) (die core tag r loc p e home q i d : Nat), (die < 24) ∧ (core < 16) ∧ (tag < 256) ∧ (r < 8) ∧ (s.pageAt die p e home q = true) ∧ (s.ecc = []) ∧ (s.net = []) ∧ ((s.core die core).xfers = [{ ring := r, desc := some d, started := true }]) ∧ (mget (s.core die core).tags tag .free = .out) ∧ (loc % 4 = 0) ∧ (loc + 4 ≤ spBytes) ∧ (i % 4 = 0) ∧ (i + 4 ≤ 2 ^ 21) ∧ (d = p * 2 ^ 21 + i + 2 ^ 104 + 2 ^ 168 + 2 ^ 232 + 2 ^ 296 + 2 ^ 360 + tag * 2 ^ 448 + loc * 2 ^ 480 + 2 ^ 463) :=
  ⟨({ w0 with tus := [(1, { small := [(1, 12 + 5 * 2 ^ 48 + 3 * 2 ^ 42 + 7 * 2 ^ 21)] })], cores := [(17, { xfers := [{ ring := 7, desc := some (2 ^ 21 + 64 + 2 ^ 104 + 2 ^ 168 + 0x10000000000000000000000000000000000000000000000000000000000 + 0x100000000000000000000000000000000000000000000000000000000000000000000000000 + 0x1000000000000000000000000000000000000000000000000000000000000000000000000000000000000000000 + 9 * 0x10000000000000000000000000000000000000000000000000000000000000000000000000000000000000000000000000000000000000000 + 128 * 0x1000000000000000000000000000000000000000000000000000000000000000000000000000000000000000000000000000000000000000000000000 + 0x80000000000000000000000000000000000000000000000000000000000000000000000000000000000000000000000000000000000000000000), started := true }], tags := [(9, .out)] })] } : State).putNum (epAddr (spU 1 1) 128) 4 0x3F800000, 1, 1, 9, 7, 128, 1, 12 + 5 * 2 ^ 48 + 3 * 2 ^ 42 + 7 * 2 ^ 21, 3, 7, 64, 2 ^ 21 + 64 + 2 ^ 104 + 2 ^ 168 + 0x10000000000000000000000000000000000000000000000000000000000 + 0x100000000000000000000000000000000000000000000000000000000000000000000000000 + 0x1000000000000000000000000000000000000000000000000000000000000000000000000000000000000000000 + 9 * 0x10000000000000000000000000000000000000000000000000000000000000000000000000000000000000000000000000000000000000000 + 128 * 0x1000000000000000000000000000000000000000000000000000000000000000000000000000000000000000000000000000000000000000000000000 + 0x80000000000000000000000000000000000000000000000000000000000000000000000000000000000000000000000000000000000000000000, by decide⟩

theorem met_TransfersComplete_dmaTransferComplete_issued :
    ∃ (s : State) (die core tag r loc p e home q i d b0 b1 b2 b3 : Nat), (die < 24) ∧ (core < 16) ∧ (tag < 256) ∧ (r < 8) ∧ (s.pageAt die p e home q = true) ∧ (s.ecc = []) ∧ (s.net = []) ∧ ((s.core die core).xfers = [{ ring := r, desc := some d, started := true, snap := some [(pageByte home q i, BitVec.ofNat 8 b0), (pageByte home q i + 1, BitVec.ofNat 8 b1),
        (pageByte home q i + 2, BitVec.ofNat 8 b2), (pageByte home q i + 3, BitVec.ofNat 8 b3)] }]) ∧ (mget (s.core die core).tags tag .free = .out) ∧ (loc % 4 = 0) ∧ (loc + 4 ≤ spBytes) ∧ (i % 4 = 0) ∧ (i + 4 ≤ 2 ^ 21) ∧ (d = p * 2 ^ 21 + i + 2 ^ 104 + 2 ^ 168 + 2 ^ 232 + 2 ^ 296 + 2 ^ 360 + tag * 2 ^ 448 + loc * 2 ^ 480) :=
  ⟨({ w0 with tus := [(1, { small := [(1, 12 + 5 * 2 ^ 48 + 3 * 2 ^ 42 + 7 * 2 ^ 21)] })], cores := [(17, { xfers := [{ ring := 7, desc := some (2 ^ 21 + 64 + 2 ^ 104 + 2 ^ 168 + 0x10000000000000000000000000000000000000000000000000000000000 + 0x100000000000000000000000000000000000000000000000000000000000000000000000000 + 0x1000000000000000000000000000000000000000000000000000000000000000000000000000000000000000000 + 9 * 0x10000000000000000000000000000000000000000000000000000000000000000000000000000000000000000000000000000000000000000 + 128 * 0x1000000000000000000000000000000000000000000000000000000000000000000000000000000000000000000000000000000000000000000000000), started := true, snap := some [(pageByte 3 7 64, 1#8), (pageByte 3 7 64 + 1, 2#8), (pageByte 3 7 64 + 2, 3#8), (pageByte 3 7 64 + 3, 4#8)] }], tags := [(9, .out)] })] } : State), 1, 1, 9, 7, 128, 1, 12 + 5 * 2 ^ 48 + 3 * 2 ^ 42 + 7 * 2 ^ 21, 3, 7, 64, 2 ^ 21 + 64 + 2 ^ 104 + 2 ^ 168 + 0x10000000000000000000000000000000000000000000000000000000000 + 0x100000000000000000000000000000000000000000000000000000000000000000000000000 + 0x1000000000000000000000000000000000000000000000000000000000000000000000000000000000000000000 + 9 * 0x10000000000000000000000000000000000000000000000000000000000000000000000000000000000000000000000000000000000000000 + 128 * 0x1000000000000000000000000000000000000000000000000000000000000000000000000000000000000000000000000000000000000000000000000, 1, 2, 3, 4, by decide⟩

theorem met_TransfersComplete_multicastCopyComplete :
    ∃ (s : State) (die core tag r leaf ld lc d : Nat) (x : Xfer) (bs : List Byte), (die < 24) ∧ (core < 16) ∧ (tag < 256) ∧ (r < 8) ∧ (ld < 24) ∧ (lc < 16) ∧ ((ld, lc) ≠ (die, core)) ∧ ((s.core die core).xfers = [x]) ∧ (x.desc = some d) ∧ (x.started = true) ∧ (x.moved = false) ∧ (x.held = []) ∧ (x.buf = some bs) ∧ (x.copies = []) ∧ (dTag d = tag) ∧ (dMcast d = true) ∧ (dFmt d = some .fp32) ∧ (dCvtFmt d = some .fp32) ∧ ((s.mcastLeaves die core d)[leaf]? = some (ld, lc)) ∧ (bs.length = 64) ∧ (dLocal d % 64 = 0) ∧ (dLocal d + 64 ≤ spBytes) ∧ (s.ecc = []) ∧ ((s.core ld lc).hasCode = true) ∧ (mget (s.core ld lc).tags tag .free = .free) :=
  ⟨{ w0 with groups := [(3, [1025, 1089])], cores := [(16, { hasCode := true }), (17, { mcset := [(0, 2 ^ 31 + 3)], xfers := [{ ring := 0, desc := some (9 * 0x10000000000000000000000000000000000000000000000000000000000000000000000000000000000000000000000000000000000000000 + 0x100000000000000000000000000000000000000000000000000000000000000000000000000000000000000000000000000000000000000000000 + 64 * 0x1000000000000000000000000000000000000000000000000000000000000000000000000000000000000000000000000000000000000000000000000), started := true, buf := some (List.replicate 64 7) }], tags := [(9, .out)] })] }, 1, 1, 9, 0, 0, 1, 0, 9 * 0x10000000000000000000000000000000000000000000000000000000000000000000000000000000000000000000000000000000000000000 + 0x100000000000000000000000000000000000000000000000000000000000000000000000000000000000000000000000000000000000000000000 + 64 * 0x1000000000000000000000000000000000000000000000000000000000000000000000000000000000000000000000000000000000000000000000000, { ring := 0, desc := some (9 * 0x10000000000000000000000000000000000000000000000000000000000000000000000000000000000000000000000000000000000000000 + 0x100000000000000000000000000000000000000000000000000000000000000000000000000000000000000000000000000000000000000000000 + 64 * 0x1000000000000000000000000000000000000000000000000000000000000000000000000000000000000000000000000000000000000000000000000), started := true, buf := some (List.replicate 64 7) }, List.replicate 64 7, by decide⟩

theorem met_TransfersComplete_dmaTransferComplete_multicast :
    ∃ (s : State) (die core tag d : Nat) (x : Xfer), (die < 24) ∧ (core < 16) ∧ (tag < 256) ∧ ((s.core die core).xfers = [x]) ∧ (x.desc = some d) ∧ (x.started = true) ∧ (x.moved = false) ∧ (x.held = []) ∧ (x.last = false) ∧ (dTag d = tag) ∧ (dMcast d = true) ∧ (dPack d = false) ∧ (dExpand d = false) ∧ (dFmt d = some .fp32) ∧ (dCvtFmt d = some .fp32) ∧ (dPerm d = 0) ∧ (ctlBit d 10 = false) ∧ ((∀ k, k < (s.mcastLeaves die core d).length → k ∈ x.copies)) ∧ (mget (s.core die core).tags tag .free = .out) :=
  ⟨{ w0 with groups := [(3, [1025, 1089])], cores := [(17, { mcset := [(0, 2 ^ 31 + 3)], xfers := [{ ring := 0, desc := some (9 * 0x10000000000000000000000000000000000000000000000000000000000000000000000000000000000000000000000000000000000000000 + 0x100000000000000000000000000000000000000000000000000000000000000000000000000000000000000000000000000000000000000000000 + 64 * 0x1000000000000000000000000000000000000000000000000000000000000000000000000000000000000000000000000000000000000000000000000), started := true, copies := [1, 0] }], tags := [(9, .out)] })] }, 1, 1, 9, 9 * 0x10000000000000000000000000000000000000000000000000000000000000000000000000000000000000000000000000000000000000000 + 0x100000000000000000000000000000000000000000000000000000000000000000000000000000000000000000000000000000000000000000000 + 64 * 0x1000000000000000000000000000000000000000000000000000000000000000000000000000000000000000000000000000000000000000000000000, { ring := 0, desc := some (9 * 0x10000000000000000000000000000000000000000000000000000000000000000000000000000000000000000000000000000000000000000 + 0x100000000000000000000000000000000000000000000000000000000000000000000000000000000000000000000000000000000000000000000 + 64 * 0x1000000000000000000000000000000000000000000000000000000000000000000000000000000000000000000000000000000000000000000000000), started := true, copies := [1, 0] }, by decide⟩

theorem met_TransfersComplete_dmaAccessFault :
    ∃ (s : State) (die core tag r va d : Nat), (die < 24) ∧ (core < 16) ∧ (tag < 256) ∧ (r < 8) ∧ (canonical va = false) ∧ (va < 2 ^ 64) ∧ ((s.core die core).xfers = [{ ring := r, desc := some d, started := true }]) ∧ (mget (s.core die core).tags tag .free = .out) ∧ (d = va + 2 ^ 104 + 2 ^ 168 + 2 ^ 232 + 2 ^ 296 + 2 ^ 360 + tag * 2 ^ 448) :=
  ⟨{ w0 with cores := [(17, { xfers := [{ ring := 7, desc := some (2 ^ 57 + 2 ^ 104 + 2 ^ 168 + 0x10000000000000000000000000000000000000000000000000000000000 + 0x100000000000000000000000000000000000000000000000000000000000000000000000000 + 0x1000000000000000000000000000000000000000000000000000000000000000000000000000000000000000000 + 9 * 0x10000000000000000000000000000000000000000000000000000000000000000000000000000000000000000000000000000000000000000), started := true }], tags := [(9, .out)] })] }, 1, 1, 9, 7, 2 ^ 57, 2 ^ 57 + 2 ^ 104 + 2 ^ 168 + 0x10000000000000000000000000000000000000000000000000000000000 + 0x100000000000000000000000000000000000000000000000000000000000000000000000000 + 0x1000000000000000000000000000000000000000000000000000000000000000000000000000000000000000000 + 9 * 0x10000000000000000000000000000000000000000000000000000000000000000000000000000000000000000000000000000000000000000, by decide⟩

theorem met_TransfersComplete_packTileWrite :
    ∃ (s : State) (die core tag d : Nat) (x : Xfer) (st : PackStep), (die < 24) ∧ (core < 16) ∧ (tag < 256) ∧ ((s.core die core).xfers = [x]) ∧ (x.desc = some d) ∧ (x.started = true) ∧ (x.moved = false) ∧ (x.held = []) ∧ (dTag d = tag) ∧ (dPack d = true) ∧ (x.tiles < dCnt d 2) ∧ ((s.asIssued x (fun v => v.packNext (s.dmaAgent die core) die core d 0 x)).2.1 = some st) ∧ ((s.asIssued x (fun v => v.packNext (s.dmaAgent die core) die core d 0 x)).2.2 = none) ∧ (((s.asIssued x (fun v => v.packNext (s.dmaAgent die core) die core d 0 x)).1.writeRuns (s.dmaAgent die core) 0 (joinWrites [((dBase d + x.pos) % 2 ^ 64, st.tile)])).2.2 = none) ∧ ((((s.asIssued x (fun v => v.packNext (s.dmaAgent die core) die core d 0 x)).1.writeRuns (s.dmaAgent die core) 0 (joinWrites [((dBase d + x.pos) % 2 ^ 64, st.tile)])).1.core die core).xfers = [x]) :=
  ⟨({ w0 with tus := [(1, { small := [(1, 12 + 5 * 2 ^ 48 + 3 * 2 ^ 42 + 7 * 2 ^ 21)] })], cores := [(17, { xfers := [{ ring := 7, desc := some (2 ^ 21 + 64 + 0x1000000000000000000000000000000000000000000000000000000000000000000000000000000000000000000000000000000000000 + 0x100000000000000000000000000000000000000000000000000000000000000000000000000000000000000000000000000000000000000 + 1 * 0x10000000000000000000000000000000000000000000000000000000000 + 9 * 0x10000000000000000000000000000000000000000000000000000000000000000000000000000000000000000000000000000000000000000 + 0x4000000000000000000000000000000000000000000000000000000000000000000000000000000000000000000000000000000000000000000000 + 64 * 0x1000000000000000000000000000000000000000000000000000000000000000000000000000000000000000000000000000000000000000000000000), started := true }], tags := [(9, .out)] })] } : State).putBytes (pageByte 3 7 64) (leBytes 1 0 ++ leBytes 1 1 ++ leBytes 2 8 ++ leBytes 2 0 ++ leBytes 2 32), 1, 1, 9, 2 ^ 21 + 64 + 0x1000000000000000000000000000000000000000000000000000000000000000000000000000000000000000000000000000000000000 + 0x100000000000000000000000000000000000000000000000000000000000000000000000000000000000000000000000000000000000000 + 1 * 0x10000000000000000000000000000000000000000000000000000000000 + 9 * 0x10000000000000000000000000000000000000000000000000000000000000000000000000000000000000000000000000000000000000000 + 0x4000000000000000000000000000000000000000000000000000000000000000000000000000000000000000000000000000000000000000000000 + 64 * 0x1000000000000000000000000000000000000000000000000000000000000000000000000000000000000000000000000000000000000000000000000, { ring := 7, desc := some (2 ^ 21 + 64 + 0x1000000000000000000000000000000000000000000000000000000000000000000000000000000000000000000000000000000000000 + 0x100000000000000000000000000000000000000000000000000000000000000000000000000000000000000000000000000000000000000 + 1 * 0x10000000000000000000000000000000000000000000000000000000000 + 9 * 0x10000000000000000000000000000000000000000000000000000000000000000000000000000000000000000000000000000000000000000 + 0x4000000000000000000000000000000000000000000000000000000000000000000000000000000000000000000000000000000000000000000000 + 64 * 0x1000000000000000000000000000000000000000000000000000000000000000000000000000000000000000000000000000000000000000000000000), started := true }, ⟨padTo 256 (padTo 32 (leBytes 1 0 ++ leBytes 1 1 ++ leBytes 2 8 ++ leBytes 2 0 ++ leBytes 2 32 ++ leBytes 2 256 ++ leBytes 2 256 ++ leBytes 2 256) ++ List.replicate 4 255), 768, 0, 0, Events.none⟩, by decide⟩

theorem met_TransfersComplete_expandTile :
    ∃ (s : State) (die core tag d off size : Nat) (x : Xfer) (bs : List Byte), (die < 24) ∧ (core < 16) ∧ (tag < 256) ∧ ((s.core die core).xfers = [x]) ∧ (x.desc = some d) ∧ (x.started = true) ∧ (x.moved = false) ∧ (x.held = []) ∧ (dTag d = tag) ∧ (dPack d = false) ∧ (dExpand d = true) ∧ (x.tiles < dCnt d 2) ∧ ((s.asIssued x (fun v => v.expandNext (s.dmaAgent die core) d 0 x)).2.1 = some (off, bs, size, Events.none)) ∧ ((s.asIssued x (fun v => v.expandNext (s.dmaAgent die core) d 0 x)).2.2 = none) ∧ (((s.asIssued x (fun v => v.expandNext (s.dmaAgent die core) d 0 x)).1.localWrite (s.unitAddr (dmaU die core)) die core off bs).2 = none) ∧ ((((s.asIssued x (fun v => v.expandNext (s.dmaAgent die core) d 0 x)).1.localWrite (s.unitAddr (dmaU die core)) die core off bs).1.core die core).xfers = [x]) :=
  ⟨({ w0 with tus := [(1, { small := [(1, 12 + 5 * 2 ^ 48 + 3 * 2 ^ 42 + 7 * 2 ^ 21)] })], cores := [(17, { xfers := [{ ring := 7, desc := some (2 ^ 21 + 64 + 0x1000000000000000000000000000000000000000000000000000000000000000000000000000000000000000000000000000000000000 + 0x100000000000000000000000000000000000000000000000000000000000000000000000000000000000000000000000000000000000000 + 8 * 2 ^ 104 + 1 * 0x10000000000000000000000000000000000000000000000000000000000 + 9 * 0x10000000000000000000000000000000000000000000000000000000000000000000000000000000000000000000000000000000000000000 + 0x8000000000000000000000000000000000000000000000000000000000000000000000000000000000000000000000000000000000000000000000 + 64 * 0x1000000000000000000000000000000000000000000000000000000000000000000000000000000000000000000000000000000000000000000000000), started := true }], tags := [(9, .out)] })] } : State).putBytes (pageByte 3 7 64) (padTo 32 (leBytes 1 0 ++ leBytes 1 1 ++ leBytes 2 8 ++ leBytes 2 0 ++ leBytes 2 32 ++ leBytes 2 256 ++ leBytes 2 256 ++ leBytes 2 36) ++ List.replicate 4 255), 1, 1, 9, 2 ^ 21 + 64 + 0x1000000000000000000000000000000000000000000000000000000000000000000000000000000000000000000000000000000000000 + 0x100000000000000000000000000000000000000000000000000000000000000000000000000000000000000000000000000000000000000 + 8 * 2 ^ 104 + 1 * 0x10000000000000000000000000000000000000000000000000000000000 + 9 * 0x10000000000000000000000000000000000000000000000000000000000000000000000000000000000000000000000000000000000000000 + 0x8000000000000000000000000000000000000000000000000000000000000000000000000000000000000000000000000000000000000000000000 + 64 * 0x1000000000000000000000000000000000000000000000000000000000000000000000000000000000000000000000000000000000000000000000000, 64, 36, { ring := 7, desc := some (2 ^ 21 + 64 + 0x1000000000000000000000000000000000000000000000000000000000000000000000000000000000000000000000000000000000000 + 0x100000000000000000000000000000000000000000000000000000000000000000000000000000000000000000000000000000000000000 + 8 * 2 ^ 104 + 1 * 0x10000000000000000000000000000000000000000000000000000000000 + 9 * 0x10000000000000000000000000000000000000000000000000000000000000000000000000000000000000000000000000000000000000000 + 0x8000000000000000000000000000000000000000000000000000000000000000000000000000000000000000000000000000000000000000000000 + 64 * 0x1000000000000000000000000000000000000000000000000000000000000000000000000000000000000000000000000000000000000000000000000), started := true }, List.replicate 256 0, by decide⟩

theorem met_TransfersComplete_tagReturn :
    ∃ (s : State) (die core tag : Nat), (die < 24) ∧ (core < 16) ∧ (tag < 256) ∧ ((s.core die core).iloads = []) ∧ (mget (s.core die core).tags tag .free = .out) :=
  ⟨{ w0 with cores := [(17, { tags := [(255, .out)] })] }, 1, 1, 255, by decide⟩

theorem met_TransfersComplete_tagReturn_iload :
    ∃ (s : State) (die core tag dst p e home q i : Nat), (die < 24) ∧ (core < 16) ∧ (tag < 256) ∧ (dst < 8192) ∧ (i % 64 = 0) ∧ (i + 64 ≤ 2 ^ 21) ∧ (s.pageAt die p e home q = true) ∧ (s.ecc = []) ∧ (s.net = []) ∧ ((s.core die core).iloads = [⟨tag, p * 2 ^ 21 + i, dst, 1⟩]) ∧ (mget (s.core die core).tags tag .free = .out) :=
  ⟨({ w0 with tus := [(1, { small := [(1, 12 + 5 * 2 ^ 48 + 3 * 2 ^ 42 + 7 * 2 ^ 21)] })], cores := [(17, { iloads := [⟨255, 2 ^ 21 + 128, 8191, 1⟩], tags := [(255, .out)] })] } : State).putNum (pageByte 3 7 128) 64 (0x80000000000000000000000000000000000000000000000000000000000000000000000000000000000000000000000000000000000000000000000000000000 + 5), 1, 1, 255, 8191, 1, 12 + 5 * 2 ^ 48 + 3 * 2 ^ 42 + 7 * 2 ^ 21, 3, 7, 128, by decide⟩

theorem met_StackFramesComplete_stackPushStart :
    ∃ (s : State) (die core p i top sz : Nat) (o : StackOp) (rest : List StackOp), (die < 24) ∧ (core < 16) ∧ ((s.core die core).stk = o :: rest) ∧ ((s.core die core).xfers = []) ∧ (o.pop = false) ∧ (o.run = none) ∧ (o.descs.length = o.count) ∧ (o.nst = 0) ∧ (o.stoff ≤ spBytes) ∧ (s.rd (stkU die core) Reg.STK_TOP_LO_OFF = top) ∧ (s.stkSize (stkU die core) = sz) ∧ (sz < 2 ^ 36) ∧ (s.rd (stkU die core) Reg.STK_STAT_DEPTH < 2 ^ 16 - 1) ∧ (s.stkBase (stkU die core) + top = p * 2 ^ 21 + i) ∧ (top + (64 + roundUp (payloadEnd o.descs) 64) ≤ sz) :=
  ⟨({ w0 with cores := [(17, { stk := [{ pop := false, ring := 6, count := 1, sl := 9, descs := [2 ^ 104 + 2 ^ 168 + 0x10000000000000000000000000000000000000000000000000000000000 + 0x100000000000000000000000000000000000000000000000000000000000000000000000000 + 0x1000000000000000000000000000000000000000000000000000000000000000000000000000000000000000000 + 0x80000000000000000000000000000000000000000000000000000000000000000000000000000000000000000000000000000000000000000000] }] })] } : State).wr (stkU 1 1) Reg.STK_BASE_LO_ADDR (2 ^ 21) |>.wr (stkU 1 1) Reg.STK_SIZE_LO_SIZE 4096 |>.wr (stkU 1 1) Reg.STK_TOP_LO_OFF 256, 1, 1, 1, 256, 256, 4096, { pop := false, ring := 6, count := 1, sl := 9, descs := [2 ^ 104 + 2 ^ 168 + 0x10000000000000000000000000000000000000000000000000000000000 + 0x100000000000000000000000000000000000000000000000000000000000000000000000000 + 0x1000000000000000000000000000000000000000000000000000000000000000000000000000000000000000000 + 0x80000000000000000000000000000000000000000000000000000000000000000000000000000000000000000000000000000000000000000000] }, [], by decide⟩

theorem met_StackFramesComplete_frameHeaderWrite :
    ∃ (s : State) (die core p e home q i psize prev d : Nat) (o : StackOp) (x : Xfer), (die < 24) ∧ (core < 16) ∧ (s.pageAt die p e home q = true) ∧ (s.ecc = []) ∧ (s.net = []) ∧ (i % 64 = 0) ∧ (i + 64 ≤ 2 ^ 21) ∧ (s.stkBase (stkU die core) + s.rd (stkU die core) Reg.STK_LAST_LO_OFF = p * 2 ^ 21 + i) ∧ ((s.core die core).stk = [o]) ∧ ((s.core die core).fetched = []) ∧ (o.pop = false) ∧ (o.run = some (psize, prev)) ∧ (o.failed = false) ∧ ((s.core die core).xfers = [x]) ∧ (x.stack = true) ∧ (x.last = true) ∧ (x.moved = true) ∧ (x.desc = some d) ∧ (mget (s.core die core).tags (dTag d) .free = .out) :=
  ⟨({ w0 with tus := [(1, { small := [(1, 12 + 5 * 2 ^ 48 + 3 * 2 ^ 42 + 7 * 2 ^ 21)] })], cores := [(17, { stk := [{ pop := false, ring := 6, count := 1, sl := 9, run := some (64, 2 ^ 64 - 1) }], xfers := [{ ring := 6, desc := some (2 ^ 21 + 320 + 2 ^ 104 + 2 ^ 168 + 0x10000000000000000000000000000000000000000000000000000000000 + 0x100000000000000000000000000000000000000000000000000000000000000000000000000 + 0x1000000000000000000000000000000000000000000000000000000000000000000000000000000000000000000 + 9 * 0x10000000000000000000000000000000000000000000000000000000000000000000000000000000000000000000000000000000000000000), started := true, stack := true, last := true, moved := true }], tags := [(9, .out)] })] } : State).wr (stkU 1 1) Reg.STK_BASE_LO_ADDR (2 ^ 21) |>.wr (stkU 1 1) Reg.STK_LAST_LO_OFF 256, 1, 1, 1, 12 + 5 * 2 ^ 48 + 3 * 2 ^ 42 + 7 * 2 ^ 21, 3, 7, 256, 64, 2 ^ 64 - 1, 2 ^ 21 + 320 + 2 ^ 104 + 2 ^ 168 + 0x10000000000000000000000000000000000000000000000000000000000 + 0x100000000000000000000000000000000000000000000000000000000000000000000000000 + 0x1000000000000000000000000000000000000000000000000000000000000000000000000000000000000000000 + 9 * 0x10000000000000000000000000000000000000000000000000000000000000000000000000000000000000000000000000000000000000000, { pop := false, ring := 6, count := 1, sl := 9, run := some (64, 2 ^ 64 - 1) }, { ring := 6, desc := some (2 ^ 21 + 320 + 2 ^ 104 + 2 ^ 168 + 0x10000000000000000000000000000000000000000000000000000000000 + 0x100000000000000000000000000000000000000000000000000000000000000000000000000 + 0x1000000000000000000000000000000000000000000000000000000000000000000000000000000000000000000 + 9 * 0x10000000000000000000000000000000000000000000000000000000000000000000000000000000000000000000000000000000000000000), started := true, stack := true, last := true, moved := true }, by decide⟩

theorem met_StackFramesComplete_stackPopStart :
    ∃ (s : State) (die core p e home q i psize prev : Nat) (o : StackOp) (rest : List StackOp), (die < 24) ∧ (core < 16) ∧ (s.pageAt die p e home q = true) ∧ (s.ecc = []) ∧ (s.net = []) ∧ (i % 64 = 0) ∧ (i + 64 ≤ 2 ^ 21) ∧ (s.stkBase (stkU die core) + s.rd (stkU die core) Reg.STK_LAST_LO_OFF = p * 2 ^ 21 + i) ∧ ((s.core die core).stk = o :: rest) ∧ ((s.core die core).xfers = []) ∧ (o.pop = true) ∧ (o.run = none) ∧ (o.descs.length = o.count) ∧ (o.count < 2 ^ 16) ∧ (o.nst = 0) ∧ (o.stoff ≤ spBytes) ∧ (s.rd (stkU die core) Reg.STK_STAT_DEPTH ≠ 0) ∧ (psize < 2 ^ 32) ∧ (prev < 2 ^ 64) ∧ (s.rd keeperU Reg.FX_STEP_LO_VALUE < 2 ^ 64) ∧ (payloadEnd o.descs ≤ psize) ∧ (s.bytesAt (pageByte home q i) 64 = frameHeader o.tag 0 o.count (s.rd keeperU Reg.FX_STEP_LO_VALUE) psize prev) :=
  ⟨({ w0 with tus := [(1, { small := [(1, 12 + 5 * 2 ^ 48 + 3 * 2 ^ 42 + 7 * 2 ^ 21)] })], cores := [(17, { stk := [{ pop := true, ring := 6, count := 1, sl := 9, descs := [2 ^ 104 + 2 ^ 168 + 0x10000000000000000000000000000000000000000000000000000000000 + 0x100000000000000000000000000000000000000000000000000000000000000000000000000 + 0x1000000000000000000000000000000000000000000000000000000000000000000000000000000000000000000 + 9 * 0x10000000000000000000000000000000000000000000000000000000000000000000000000000000000000000000000000000000000000000] }] })] } : State).wr (stkU 1 1) Reg.STK_BASE_LO_ADDR (2 ^ 21) |>.wr (stkU 1 1) Reg.STK_LAST_LO_OFF 256 |>.wr (stkU 1 1) Reg.STK_STAT_DEPTH 1 |>.putBytes (pageByte 3 7 256) (frameHeader 9 0 1 0 64 (2 ^ 64 - 1)), 1, 1, 1, 12 + 5 * 2 ^ 48 + 3 * 2 ^ 42 + 7 * 2 ^ 21, 3, 7, 256, 64, 2 ^ 64 - 1, { pop := true, ring := 6, count := 1, sl := 9, descs := [2 ^ 104 + 2 ^ 168 + 0x10000000000000000000000000000000000000000000000000000000000 + 0x100000000000000000000000000000000000000000000000000000000000000000000000000 + 0x1000000000000000000000000000000000000000000000000000000000000000000000000000000000000000000 + 9 * 0x10000000000000000000000000000000000000000000000000000000000000000000000000000000000000000000000000000000000000000] }, [], by decide⟩

theorem met_StackFramesComplete_popComplete :
    ∃ (s : State) (die core psize prev d : Nat) (o : StackOp) (x : Xfer), (die < 24) ∧ (core < 16) ∧ (prev < 2 ^ 36) ∧ (s.rd (stkU die core) Reg.STK_LAST_LO_OFF < 2 ^ 36) ∧ (s.rd (stkU die core) Reg.STK_STAT_DEPTH < 2 ^ 16) ∧ ((s.core die core).stk = [o]) ∧ ((s.core die core).fetched = []) ∧ (o.pop = true) ∧ (o.run = some (psize, prev)) ∧ (o.failed = false) ∧ ((s.core die core).xfers = [x]) ∧ (x.stack = true) ∧ (x.last = true) ∧ (x.moved = true) ∧ (x.desc = some d) ∧ (mget (s.core die core).tags (dTag d) .free = .out) :=
  ⟨({ w0 with cores := [(17, { stk := [{ pop := true, ring := 6, count := 1, sl := 9, run := some (64, 512) }], xfers := [{ ring := 6, desc := some (2 ^ 21 + 320 + 2 ^ 104 + 2 ^ 168 + 0x10000000000000000000000000000000000000000000000000000000000 + 0x100000000000000000000000000000000000000000000000000000000000000000000000000 + 0x1000000000000000000000000000000000000000000000000000000000000000000000000000000000000000000 + 9 * 0x10000000000000000000000000000000000000000000000000000000000000000000000000000000000000000000000000000000000000000), started := true, stack := true, last := true, moved := true }], tags := [(9, .out)] })] } : State).wr (stkU 1 1) Reg.STK_LAST_LO_OFF 1024 |>.wr (stkU 1 1) Reg.STK_STAT_DEPTH 2, 1, 1, 64, 512, 2 ^ 21 + 320 + 2 ^ 104 + 2 ^ 168 + 0x10000000000000000000000000000000000000000000000000000000000 + 0x100000000000000000000000000000000000000000000000000000000000000000000000000 + 0x1000000000000000000000000000000000000000000000000000000000000000000000000000000000000000000 + 9 * 0x10000000000000000000000000000000000000000000000000000000000000000000000000000000000000000000000000000000000000000, { pop := true, ring := 6, count := 1, sl := 9, run := some (64, 512) }, { ring := 6, desc := some (2 ^ 21 + 320 + 2 ^ 104 + 2 ^ 168 + 0x10000000000000000000000000000000000000000000000000000000000 + 0x100000000000000000000000000000000000000000000000000000000000000000000000000 + 0x1000000000000000000000000000000000000000000000000000000000000000000000000000000000000000000 + 9 * 0x10000000000000000000000000000000000000000000000000000000000000000000000000000000000000000000000000000000000000000), started := true, stack := true, last := true, moved := true }, by decide⟩

theorem met_MergeOperationsComplete_gather :
    ∃ (s : State) (die eng core tag p e home q i x y z d : Nat), (die < 24) ∧ (eng < 2) ∧ (core < 16) ∧ (tag < 256) ∧ (s.pageAt die p e home q = true) ∧ (s.ecc = []) ∧ (s.net = []) ∧ (i % 64 = 0) ∧ (i < 2 ^ 21) ∧ (x % 64 = 0) ∧ (x < 2 ^ 21) ∧ (y % 64 = 0) ∧ (y < 2 ^ 21) ∧ (z % 64 = 0) ∧ (z < 2 ^ 21) ∧ ((s.gme die eng).run = none) ∧ ((s.gme die eng).queue = [(core, p * 2 ^ 21 + i)]) ∧ (mget (s.core die core).tags tag .free = .free) ∧ (s.numAt (pageByte home q i) 64 = d) ∧ (gOp d = 0) ∧ (gTag d = tag) ∧ (gIdx d = p * 2 ^ 21 + x) ∧ (gSrc d = p * 2 ^ 21 + y) ∧ (gDst d = p * 2 ^ 21 + z) ∧ (gRowLen d = 64) ∧ (gNidx d = 1) ∧ (0 < gNrows d) ∧ (s.numAt (pageByte home q x) 4 = 0) :=
  ⟨({ w0 with tus := [(1, { small := [(1, 12 + 5 * 2 ^ 48 + 3 * 2 ^ 42 + 7 * 2 ^ 21)] })], gmes := [(3, { queue := [(2, 2 ^ 21 + 64)] })] } : State).putNum (pageByte 3 7 64) 64 0x20040000000000002000800000000000200200000000000020010000000001000000010000004000090000 |>.putNum (pageByte 3 7 256) 8 0x1234567890, 1, 1, 2, 9, 1, 12 + 5 * 2 ^ 48 + 3 * 2 ^ 42 + 7 * 2 ^ 21, 3, 7, 64, 128, 256, 512, 0x20040000000000002000800000000000200200000000000020010000000001000000010000004000090000, by decide⟩

theorem met_MergeOperationsComplete_scatter :
    ∃ (s : State) (die eng core tag p e home q i x y z d : Nat), (die < 24) ∧ (eng < 2) ∧ (core < 16) ∧ (tag < 256) ∧ (s.pageAt die p e home q = true) ∧ (s.ecc = []) ∧ (s.net = []) ∧ (i % 64 = 0) ∧ (i < 2 ^ 21) ∧ (x % 64 = 0) ∧ (x < 2 ^ 21) ∧ (y % 64 = 0) ∧ (y < 2 ^ 21) ∧ (z % 64 = 0) ∧ (z < 2 ^ 21) ∧ ((s.gme die eng).run = none) ∧ ((s.gme die eng).queue = [(core, p * 2 ^ 21 + i)]) ∧ (mget (s.core die core).tags tag .free = .free) ∧ (s.numAt (pageByte home q i) 64 = d) ∧ (gOp d = 1) ∧ (gTag d = tag) ∧ (gIdx d = p * 2 ^ 21 + x) ∧ (gSrc d = p * 2 ^ 21 + y) ∧ (gDst d = p * 2 ^ 21 + z) ∧ (gRowLen d = 64) ∧ (gNidx d = 1) ∧ (0 < gNrows d) ∧ (s.numAt (pageByte home q x) 4 = 0) :=
  ⟨({ w0 with tus := [(1, { small := [(1, 12 + 5 * 2 ^ 48 + 3 * 2 ^ 42 + 7 * 2 ^ 21)] })], gmes := [(3, { queue := [(2, 2 ^ 21 + 64)] })] } : State).putNum (pageByte 3 7 64) 64 0x20040000000000002000800000000000200200000000000020010000000001000000010000004000090001 |>.putNum (pageByte 3 7 256) 8 0x1234567890, 1, 1, 2, 9, 1, 12 + 5 * 2 ^ 48 + 3 * 2 ^ 42 + 7 * 2 ^ 21, 3, 7, 64, 128, 256, 512, 0x20040000000000002000800000000000200200000000000020010000000001000000010000004000090001, by decide⟩

theorem met_MergeOperationsComplete_scatterAdd :
    ∃ (s : State) (die eng core tag p e home q i x y z d : Nat), (die < 24) ∧ (eng < 2) ∧ (core < 16) ∧ (tag < 256) ∧ (s.pageAt die p e home q = true) ∧ (s.ecc = []) ∧ (s.net = []) ∧ (i % 64 = 0) ∧ (i < 2 ^ 21) ∧ (x % 64 = 0) ∧ (x < 2 ^ 21) ∧ (y % 64 = 0) ∧ (y < 2 ^ 21) ∧ (z % 64 = 0) ∧ (z < 2 ^ 21) ∧ ((s.gme die eng).run = none) ∧ ((s.gme die eng).queue = [(core, p * 2 ^ 21 + i)]) ∧ (mget (s.core die core).tags tag .free = .free) ∧ (s.numAt (pageByte home q i) 64 = d) ∧ (gOp d = 2) ∧ (gTag d = tag) ∧ (gIdx d = p * 2 ^ 21 + x) ∧ (gSrc d = p * 2 ^ 21 + y) ∧ (gDst d = p * 2 ^ 21 + z) ∧ (gRowLen d = 64) ∧ (gNidx d = 1) ∧ (0 < gNrows d) ∧ (s.numAt (pageByte home q x) 4 = 0) ∧ ((addRows (rowWords (s.bytesAt (pageByte home q z) 64)) (rowWords (s.bytesAt (pageByte home q y) 64))).2 = 0) :=
  ⟨({ w0 with tus := [(1, { small := [(1, 12 + 5 * 2 ^ 48 + 3 * 2 ^ 42 + 7 * 2 ^ 21)] })], gmes := [(3, { queue := [(2, 2 ^ 21 + 64)] })] } : State).putNum (pageByte 3 7 64) 64 0x20040000000000002000800000000000200200000000000020010000000001000000010000004000090002 |>.putNum (pageByte 3 7 256) 4 0x3F800000 |>.putNum (pageByte 3 7 512) 4 0x40000000, 1, 1, 2, 9, 1, 12 + 5 * 2 ^ 48 + 3 * 2 ^ 42 + 7 * 2 ^ 21, 3, 7, 64, 128, 256, 512, 0x20040000000000002000800000000000200200000000000020010000000001000000010000004000090002, by decide⟩

theorem met_MergeOperationsComplete_segmentReduce :
    ∃ (s : State) (die eng core tag p e home q i x y z d : Nat), (die < 24) ∧ (eng < 2) ∧ (core < 16) ∧ (tag < 256) ∧ (s.pageAt die p e home q = true) ∧ (s.ecc = []) ∧ (s.net = []) ∧ (i % 64 = 0) ∧ (i < 2 ^ 21) ∧ (x % 64 = 0) ∧ (x < 2 ^ 21) ∧ (y % 64 = 0) ∧ (y < 2 ^ 21) ∧ (z % 64 = 0) ∧ (z < 2 ^ 21) ∧ ((s.gme die eng).run = none) ∧ ((s.gme die eng).queue = [(core, p * 2 ^ 21 + i)]) ∧ (mget (s.core die core).tags tag .free = .free) ∧ (s.numAt (pageByte home q i) 64 = d) ∧ (gOp d = 3) ∧ (gTag d = tag) ∧ (gIdx d = p * 2 ^ 21 + x) ∧ (gSrc d = p * 2 ^ 21 + y) ∧ (gDst d = p * 2 ^ 21 + z) ∧ (gRowLen d = 64) ∧ (gNseg d = 1) ∧ (s.numAt (pageByte home q x) 8 = 0) ∧ (gRfn d = false) ∧ (x % 64 < 57) :=
  ⟨({ w0 with tus := [(1, { small := [(1, 12 + 5 * 2 ^ 48 + 3 * 2 ^ 42 + 7 * 2 ^ 21)] })], gmes := [(3, { queue := [(2, 2 ^ 21 + 64)] })] } : State).putNum (pageByte 3 7 64) 64 0x10000000000000000000000000020040000000000002000800000000000200200000000000020010000000001000000010000004000090003 |>.putNum (pageByte 3 7 512) 4 0x40000000, 1, 1, 2, 9, 1, 12 + 5 * 2 ^ 48 + 3 * 2 ^ 42 + 7 * 2 ^ 21, 3, 7, 64, 128, 256, 512, 0x10000000000000000000000000020040000000000002000800000000000200200000000000020010000000001000000010000004000090003, by decide⟩

theorem met_MergeOperationsComplete_sortByKey :
    ∃ (s : State) (die eng core tag p e home q i x y z w d : Nat), (die < 24) ∧ (eng < 2) ∧ (core < 16) ∧ (tag < 256) ∧ (s.pageAt die p e home q = true) ∧ (s.ecc = []) ∧ (s.net = []) ∧ (i % 64 = 0) ∧ (i < 2 ^ 21) ∧ (x % 64 = 0) ∧ (x < 2 ^ 21) ∧ (y % 64 = 0) ∧ (y < 2 ^ 21) ∧ (z % 64 = 0) ∧ (z < 2 ^ 21) ∧ (w % 64 = 0) ∧ (w < 2 ^ 21) ∧ ((s.gme die eng).run = none) ∧ ((s.gme die eng).queue = [(core, p * 2 ^ 21 + i)]) ∧ (mget (s.core die core).tags tag .free = .free) ∧ (s.numAt (pageByte home q i) 64 = d) ∧ (gOp d = 4) ∧ (gTag d = tag) ∧ (gIdx d = p * 2 ^ 21 + x) ∧ (gSrc d = p * 2 ^ 21 + y) ∧ (gDst d = p * 2 ^ 21 + z) ∧ (gAux d = p * 2 ^ 21 + w) ∧ (gRowLen d = 0) ∧ (gNidx d = 1) ∧ (z ≠ w) :=
  ⟨({ w0 with tus := [(1, { small := [(1, 12 + 5 * 2 ^ 48 + 3 * 2 ^ 42 + 7 * 2 ^ 21)] })], gmes := [(3, { queue := [(2, 2 ^ 21 + 64)] })] } : State).putNum (pageByte 3 7 64) 64 0x2004000000000000200080000000000020020000000000002001000000000100000001000000001f090004 |>.putNum (pageByte 3 7 128) 4 0xABCDE |>.putNum (pageByte 3 7 512) 4 77, 1, 1, 2, 9, 1, 12 + 5 * 2 ^ 48 + 3 * 2 ^ 42 + 7 * 2 ^ 21, 3, 7, 64, 128, 256, 512, 1024, 0x2004000000000000200080000000000020020000000000002001000000000100000001000000001f090004, by decide⟩

theorem met_MergeOperationsComplete_bucket :
    ∃ (s : State) (die eng core tag p e home q i x y z w d : Nat), (die < 24) ∧ (eng < 2) ∧ (core < 16) ∧ (tag < 256) ∧ (s.pageAt die p e home q = true) ∧ (s.ecc = []) ∧ (s.net = []) ∧ (i % 64 = 0) ∧ (i < 2 ^ 21) ∧ (x % 64 = 0) ∧ (x < 2 ^ 21) ∧ (y % 64 = 0) ∧ (y < 2 ^ 21) ∧ (z % 64 = 0) ∧ (z < 2 ^ 21) ∧ (w % 64 = 0) ∧ (w < 2 ^ 21) ∧ ((s.gme die eng).run = none) ∧ ((s.gme die eng).queue = [(core, p * 2 ^ 21 + i)]) ∧ (mget (s.core die core).tags tag .free = .free) ∧ (s.numAt (pageByte home q i) 64 = d) ∧ (gOp d = 5) ∧ (gTag d = tag) ∧ (gIdx d = p * 2 ^ 21 + x) ∧ (gSrc d = p * 2 ^ 21 + y) ∧ (gDst d = p * 2 ^ 21 + z) ∧ (gAux d = p * 2 ^ 21 + w) ∧ (gRowLen d = 0) ∧ (gNidx d = 1) ∧ (gNseg d = 1) ∧ (gCap d = 1) ∧ (gNrows d = 0) ∧ (z ≠ w) ∧ (y ≠ w) ∧ (y ≠ z) ∧ (s.numAt (pageByte home q x) 4 = 0) :=
  ⟨({ w0 with tus := [(1, { small := [(1, 12 + 5 * 2 ^ 48 + 3 * 2 ^ 42 + 7 * 2 ^ 21)] })], gmes := [(3, { queue := [(2, 2 ^ 21 + 64)] })] } : State).putNum (pageByte 3 7 64) 64 0x10000000000000000000000000020040000000000002000800000000000200200000000000020010000000000000000010001000000090005 |>.putNum (pageByte 3 7 512) 4 77 |>.putNum (pageByte 3 7 256) 4 77, 1, 1, 2, 9, 1, 12 + 5 * 2 ^ 48 + 3 * 2 ^ 42 + 7 * 2 ^ 21, 3, 7, 64, 128, 256, 512, 1024, 0x10000000000000000000000000020040000000000002000800000000000200200000000000020010000000000000000010001000000090005, by decide⟩

theorem met_MergeOperationsComplete_packRows :
    ∃ (s : State) (die eng core tag p e home q i x y z d : Nat), (die < 24) ∧ (eng < 2) ∧ (core < 16) ∧ (tag < 256) ∧ (s.pageAt die p e home q = true) ∧ (s.ecc = []) ∧ (s.net = []) ∧ (i % 64 = 0) ∧ (i < 2 ^ 21) ∧ (x % 64 = 0) ∧ (x < 2 ^ 21) ∧ (y % 64 = 0) ∧ (y < 2 ^ 21) ∧ (z % 64 = 0) ∧ (z < 2 ^ 21) ∧ ((s.gme die eng).run = none) ∧ ((s.gme die eng).queue = [(core, p * 2 ^ 21 + i)]) ∧ (mget (s.core die core).tags tag .free = .free) ∧ (s.numAt (pageByte home q i) 64 = d) ∧ (gOp d = 6) ∧ (gTag d = tag) ∧ (gIdx d = p * 2 ^ 21 + x) ∧ (gSrc d = p * 2 ^ 21 + y) ∧ (gDst d = p * 2 ^ 21 + z) ∧ (gRowLen d = 64) ∧ (gNseg d = 1) ∧ (0 < gNrows d) ∧ (gNidx d = 1) ∧ (s.numAt (pageByte home q x) 4 = 0) ∧ (s.numAt (pageByte home q x + 4) 4 = 1) :=
  ⟨({ w0 with tus := [(1, { small := [(1, 12 + 5 * 2 ^ 48 + 3 * 2 ^ 42 + 7 * 2 ^ 21)] })], gmes := [(3, { queue := [(2, 2 ^ 21 + 64)] })] } : State).putNum (pageByte 3 7 64) 64 0x10000000000000000000000000020040000000000002000800000000000200200000000000020010000000001000000010000004000090006 |>.putNum (pageByte 3 7 256) 8 0x1234567890 |>.putNum (pageByte 3 7 132) 4 1, 1, 1, 2, 9, 1, 12 + 5 * 2 ^ 48 + 3 * 2 ^ 42 + 7 * 2 ^ 21, 3, 7, 64, 128, 256, 512, 0x10000000000000000000000000020040000000000002000800000000000200200000000000020010000000001000000010000004000090006, by decide⟩

theorem met_MergeOperationsComplete_unpack :
    ∃ (s : State) (die eng core tag p e home q i x y z d : Nat), (die < 24) ∧ (eng < 2) ∧ (core < 16) ∧ (tag < 256) ∧ (s.pageAt die p e home q = true) ∧ (s.ecc = []) ∧ (s.net = []) ∧ (i % 64 = 0) ∧ (i < 2 ^ 21) ∧ (x % 64 = 0) ∧ (x < 2 ^ 21) ∧ (y % 64 = 0) ∧ (y < 2 ^ 21) ∧ (z % 64 = 0) ∧ (z < 2 ^ 21) ∧ ((s.gme die eng).run = none) ∧ ((s.gme die eng).queue = [(core, p * 2 ^ 21 + i)]) ∧ (mget (s.core die core).tags tag .free = .free) ∧ (s.numAt (pageByte home q i) 64 = d) ∧ (gOp d = 7) ∧ (gTag d = tag) ∧ (gIdx d = p * 2 ^ 21 + x) ∧ (gSrc d = p * 2 ^ 21 + y) ∧ (gDst d = p * 2 ^ 21 + z) ∧ (gRowLen d = 64) ∧ (gNseg d = 1) ∧ (gNrows d = 1) ∧ (gNidx d = 1) ∧ (s.numAt (pageByte home q x) 4 = 0) ∧ (s.numAt (pageByte home q x + 4) 4 = 1) :=
  ⟨({ w0 with tus := [(1, { small := [(1, 12 + 5 * 2 ^ 48 + 3 * 2 ^ 42 + 7 * 2 ^ 21)] })], gmes := [(3, { queue := [(2, 2 ^ 21 + 64)] })] } : State).putNum (pageByte 3 7 64) 64 0x10000000000000000000000000020040000000000002000800000000000200200000000000020010000000001000000010000004000090007 |>.putNum (pageByte 3 7 256) 8 0x1234567890 |>.putNum (pageByte 3 7 132) 4 1, 1, 1, 2, 9, 1, 12 + 5 * 2 ^ 48 + 3 * 2 ^ 42 + 7 * 2 ^ 21, 3, 7, 64, 128, 256, 512, 0x10000000000000000000000000020040000000000002000800000000000200200000000000020010000000001000000010000004000090007, by decide⟩

theorem met_MergeOperationsComplete_maskCompact :
    ∃ (s : State) (die eng core tag p e home q i x y z w d : Nat), (die < 24) ∧ (eng < 2) ∧ (core < 16) ∧ (tag < 256) ∧ (s.pageAt die p e home q = true) ∧ (s.ecc = []) ∧ (s.net = []) ∧ (i % 64 = 0) ∧ (i < 2 ^ 21) ∧ (x % 64 = 0) ∧ (x < 2 ^ 21) ∧ (y % 64 = 0) ∧ (y < 2 ^ 21) ∧ (z % 64 = 0) ∧ (z < 2 ^ 21) ∧ (w % 64 = 0) ∧ (w < 2 ^ 21) ∧ ((s.gme die eng).run = none) ∧ ((s.gme die eng).queue = [(core, p * 2 ^ 21 + i)]) ∧ (mget (s.core die core).tags tag .free = .free) ∧ (s.numAt (pageByte home q i) 64 = d) ∧ (gOp d = 8) ∧ (gTag d = tag) ∧ (gIdx d = p * 2 ^ 21 + x) ∧ (gSrc d = p * 2 ^ 21 + y) ∧ (gDst d = p * 2 ^ 21 + z) ∧ (gAux d = p * 2 ^ 21 + w) ∧ (gRowLen d = 0) ∧ (gNseg d = 1) ∧ (gNidx d = 8) ∧ (gNrows d = 2) ∧ (z ≠ w) ∧ (Memory.get s.mem (pageByte home q x) = 0x90) ∧ (gOvfPol d = 0) :=
  ⟨({ w0 with tus := [(1, { small := [(1, 12 + 5 * 2 ^ 48 + 3 * 2 ^ 42 + 7 * 2 ^ 21)] })], gmes := [(3, { queue := [(2, 2 ^ 21 + 64)] })] } : State).putNum (pageByte 3 7 64) 64 0x10000000000000000000000000020040000000000002000800000000000200200000000000020010000000002000000080000000000090008 |>.putNum (pageByte 3 7 128) 1 0x90, 1, 1, 2, 9, 1, 12 + 5 * 2 ^ 48 + 3 * 2 ^ 42 + 7 * 2 ^ 21, 3, 7, 64, 128, 256, 512, 1024, 0x10000000000000000000000000020040000000000002000800000000000200200000000000020010000000002000000080000000000090008, by decide⟩

theorem met_MergeOperationsComplete_gmeOpComplete :
    ∃ (s : State) (die eng core addr d : Nat), (die < 24) ∧ (eng < 2) ∧ (core < 16) ∧ ((s.gme die eng).run = some ⟨core, addr, d, true, none⟩) ∧ (mget (s.core die core).tags (gTag d) .free = .out) :=
  ⟨{ w0 with gmes := [(3, { run := some ⟨2, 64, 9 * 2 ^ 16, true, none⟩ })], cores := [(18, { tags := [(9, .out)] })] }, 1, 1, 2, 64, 9 * 2 ^ 16, by decide⟩

theorem met_MergeOperationsComplete_gmeOpFault :
    ∃ (s : State) (die eng core addr d pos val : Nat), (die < 24) ∧ (eng < 2) ∧ (core < 16) ∧ (addr < 2 ^ 57) ∧ (pos < 2 ^ 32) ∧ (val < 2 ^ 32) ∧ ((s.gme die eng).run = some ⟨core, addr, d, true, some (eIDX_RANGE, pos, val)⟩) ∧ (mget (s.core die core).tags (gTag d) .free = .out) :=
  ⟨{ w0 with gmes := [(3, { run := some ⟨2, 64, 9 * 2 ^ 16, true, some (eIDX_RANGE, 4, 9)⟩ })], cores := [(18, { tags := [(9, .out)] })] }, 1, 1, 2, 64, 9 * 2 ^ 16, 4, 9, by decide⟩

theorem met_UpdateRecordsComplete_updateRecordStart :
    ∃ (s : State) (die p e home q i n : Nat), (die < 24) ∧ (n < 2 ^ 16) ∧ (s.pageAt die p e home q = true) ∧ (s.ecc = []) ∧ (s.net = []) ∧ (i % 64 = 0) ∧ (i + 128 + 64 * n ≤ 2 ^ 21) ∧ (s.rd (ueU die) Reg.UE_LIST_LO_ADDR + 2 ^ 32 * s.rd (ueU die) Reg.UE_LIST_HI_ADDR = p * 2 ^ 21 + i) ∧ (s.running = true) ∧ ((s.ue die).stopped = false) ∧ ((s.ue die).busy = false) ∧ ((s.ue die).next = n) ∧ (n < (s.ue die).recs) ∧ (s.numAt (pageByte home q (i + 4)) 4 = 0) ∧ (s.redDelivered (urLayer (s.numAt (pageByte home q (i + 64 + 64 * n)) 64)) = true) :=
  ⟨({ w0 with tus := [(1, { small := [(1, 12 + 5 * 2 ^ 48 + 3 * 2 ^ 42 + 7 * 2 ^ 21)] })], ues := [(1, { recs := 3, next := 1 })], red := { ents := [(0, ⟨[5], 0, 1, 0, 1, 0, 0⟩)], order := [0] }, job := { w0.job with st := .running } } : State).wr (ueU 1) Reg.UE_LIST_LO_ADDR (2 ^ 21 + 64), 1, 1, 12 + 5 * 2 ^ 48 + 3 * 2 ^ 42 + 7 * 2 ^ 21, 3, 7, 64, 1, by decide⟩

theorem met_UpdateRecordsComplete_updateRecordDone :
    ∃ (s : State) (die : Nat), (die < 24) ∧ (s.ueMay die = true) ∧ ((s.ue die).busy = true) ∧ ((s.ueRun die).1.acc.err = 0) ∧ ((s.ueRun die).1.ev = Events.none) :=
  ⟨({ w0 with tus := [(1, { small := [(1, 12 + 5 * 2 ^ 48 + 3 * 2 ^ 42 + 7 * 2 ^ 21)] })], ues := [(1, { recs := 3, busy := true })], job := { w0.job with st := .running } } : State).wr (ueU 1) Reg.UE_LIST_LO_ADDR (2 ^ 21 + 64) |>.putNum (pageByte 3 7 68) 8 0x100000001 |>.putNum (pageByte 3 7 80) 8 (2 ^ 21 + 4096) |>.putNum (pageByte 3 7 160) 64 0x3f80000000000000000000000000000000000000000000400000000000204000000000000020300000000000002020000000000100000000, 1, by decide⟩

theorem met_UpdateRecordsComplete_updateFault :
    ∃ (s : State) (die p i e : Nat) (rest : List (Nat × Nat)), (die < 24) ∧ (p < 2 ^ 35) ∧ (i % 64 = 0) ∧ (i + 64 ≤ 2 ^ 21) ∧ (s.ueMay die = true) ∧ ((s.ue die).busy = false) ∧ (s.rd (ueU die) Reg.UE_LIST_LO_ADDR + 2 ^ 32 * s.rd (ueU die) Reg.UE_LIST_HI_ADDR = p * 2 ^ 21 + i) ∧ ((mget s.tus die {}).small = (p, e) :: rest) ∧ (entryAllows e permRead = false) :=
  ⟨({ w0 with ues := [(1, { recs := 3 })], tus := [(1, { small := [(1, 3)] })], job := { w0.job with st := .running } } : State).wr (ueU 1) Reg.UE_LIST_LO_ADDR (2 ^ 21 + 64), 1, 1, 64, 3, [], by decide⟩

theorem met_StepMachineryCompletes_voteSend :
    ∃ (s : State), (s.running = true) ∧ (s.fix.own = none) ∧ (s.fix.sent = false) ∧ (s.fix.votes = []) ∧ (s.mayVote = true) ∧ (s.voteKids = []) ∧ (0 < s.job.modId) ∧ (s.ck.req = none) :=
  ⟨{ w0 with job := { w0.job with st := .running, nmod := 6 }, fix := { flags := 10 } }, by decide⟩

theorem met_StepMachineryCompletes_voteReceive :
    ∃ (s : State) (child step flags count : Nat) (amax : List Nat), (s.running = true) ∧ (s.fix.own = none) ∧ (child ∈ s.voteKids) ∧ (s.fix.votes = []) ∧ (step = s.stepNow) ∧ (flags < 32) :=
  ⟨{ w0 with job := { w0.job with modId := 0, nmod := 3, st := .running } }, 2, 0, 17, 1, [], by decide⟩

theorem met_StepMachineryCompletes_voteReceive_stray :
    ∃ (s : State) (child step flags count : Nat) (amax : List Nat), (step ≠ s.stepNow) :=
  ⟨w0, 2, 4, 17, 1, [], by decide⟩

theorem met_StepMachineryCompletes_decisionReceive_commit :
    ∃ (s : State) (step count : Nat) (amax : List Nat), (s.running = true) ∧ (s.job.modId ≠ 0) ∧ (s.fix.sent = true) ∧ (s.fix.decision = none) ∧ (step = s.stepNow) ∧ (s.voteKids = []) ∧ (s.ck.drain = none) ∧ (s.job.nlayer = 0) ∧ (s.cores = []) ∧ (s.ues = []) ∧ (s.streams = []) ∧ (s.red.ents = []) ∧ (s.job.ovr = 0) ∧ (s.rd keeperU Reg.FX_STEP_LO_VALUE < 2 ^ 64 - 1) :=
  ⟨{ w0 with job := { w0.job with st := .running, nmod := 6 }, fix := { sent := true } }, 0, 6, [], by decide⟩

theorem met_StepMachineryCompletes_decisionReceive_skip :
    ∃ (s : State) (step flags count : Nat) (amax : List Nat), (s.running = true) ∧ (s.job.modId ≠ 0) ∧ (s.fix.sent = true) ∧ (s.fix.decision = none) ∧ (step = s.stepNow) ∧ (s.voteKids = []) ∧ (s.ck.drain = none) ∧ (s.job.nlayer = 0) ∧ (s.cores = []) ∧ (s.ues = []) ∧ (s.streams = []) ∧ (s.red.ents = []) ∧ (s.job.ovr = 0) ∧ (s.rd keeperU Reg.FX_STEP_LO_VALUE < 2 ^ 64 - 1) ∧ (0 < flags) ∧ (flags < 16) :=
  ⟨{ w0 with job := { w0.job with st := .running, nmod := 6 }, fix := { sent := true } }, 0, 4, 6, [], by decide⟩

theorem met_StepMachineryCompletes_fixerCommit :
    ∃ (s : State) (mclk step count : Nat) (amax : List Nat), (s.running = true) ∧ (s.fix.decision = some ⟨step, 0, count, amax⟩) ∧ (s.ck.drain = none) ∧ (s.job.nlayer = 0) ∧ (s.cores = []) ∧ (s.ues = []) ∧ (s.streams = []) ∧ (s.red.ents = []) ∧ (s.job.ovr = 0) ∧ (s.rd keeperU Reg.FX_STEP_LO_VALUE < 2 ^ 64 - 1) :=
  ⟨({ w0 with job := { w0.job with st := .running }, fix := { decision := some ⟨0, 0, 6, []⟩ } } : State).wr keeperU Reg.FX_STAT_DWAIT 1, 50, 0, 6, [], by decide⟩

theorem met_CheckpointDrainsComplete_checkpointDrainComplete :
    ∃ (s : State) (d : CkDrain), (s.ck.drain = some d) ∧ (d.req.kind = 1) ∧ (d.fault = 0) ∧ (ceilDiv d.data.length 4096 ≤ d.pages) ∧ (s.ues = []) ∧ (d.step < 2 ^ 64) :=
  ⟨{ w0 with ck := { drain := some ⟨⟨1, 0, 4, 0, 9, 3, 7, false⟩, 12, [1, 2, 3], 1, 0⟩ } }, ⟨⟨1, 0, 4, 0, 9, 3, 7, false⟩, 12, [1, 2, 3], 1, 0⟩, by decide⟩

theorem met_CheckpointDrainsComplete_checkpointDrainFault :
    ∃ (s : State) (code : Nat) (d : CkDrain), (s.ck.drain = some d) ∧ (d.fault ≠ 0) :=
  ⟨{ w0 with ck := { drain := some ⟨⟨1, 0, 4, 0, 9, 3, 7, false⟩, 12, [1, 2, 3], 0, eECC_UE⟩ } }, 0, ⟨⟨1, 0, 4, 0, 9, 3, 7, false⟩, 12, [1, 2, 3], 0, eECC_UE⟩, by decide⟩

theorem met_CheckpointDrainsComplete_drained :
    ∃ (s : State) (child step : Nat), (step < 2 ^ 64) :=
  ⟨{ w0 with job := { w0.job with modId := 0, nmod := 3 } }, 0, 2 ^ 40, by decide⟩

theorem met_ReductionsComplete_rdReady :
    ∃ (s : State) (layer step : Nat) (e : RedEnt) (p : Nat), (layer < 65536) ∧ (step < 2 ^ 32) ∧ (step = s.rd keeperU Reg.FX_STEP_LO_VALUE % 2 ^ 32) ∧ (s.redEnt layer = some (e, p)) ∧ (layer ∉ s.red.order) ∧ (mget s.red.ready layer 0 + 1 = e.nsrc) :=
  ⟨{ w0 with red := { ents := [(3, ⟨[5, 9], 80, 1, 4, 1, 2 ^ 21 + 4096, 2 ^ 21⟩)] } }, 3, 0, ⟨[5, 9], 80, 1, 4, 1, 2 ^ 21 + 4096, 2 ^ 21⟩, 0, by decide⟩

theorem met_ReductionsComplete_laneSegmentSend :
    ∃ (s : State) (layer seg : Nat) (e : RedEnt) (p : Nat), (s.redEnt layer = some (e, p)) ∧ (s.segReady e p layer seg = true) ∧ ((s.segmentSend e p layer seg).2 = none) :=
  ⟨{ w0 with tus := (List.range 24).map (fun d => (d, { small := [(1, 12 + 5 * 2 ^ 48 + 3 * 2 ^ 42 + 7 * 2 ^ 21)] })), red := { ents := [(3, ⟨[5, 9], 80, 1, 4, 1, 2 ^ 21 + 4096, 2 ^ 21⟩)], order := [3] } }, 3, 1, ⟨[5, 9], 80, 1, 4, 1, 2 ^ 21 + 4096, 2 ^ 21⟩, 0, by decide⟩

theorem met_ReductionsComplete_rsegReceive :
    ∃ (s : State) (layer seg step : Nat) (e : RedEnt) (p : Nat) (data : List Byte), (s.redEnt layer = some (e, p)) ∧ (step % 512 = s.step32 % 512) ∧ (seg < e.segs) ∧ (e.first p (e.chunkOf seg) = false) ∧ (seg ∉ (s.redLayer layer).sent) ∧ ((s.redLayer layer).inbox = []) :=
  ⟨{ w0 with red := { ents := [(3, ⟨[5, 9], 80, 1, 4, 1, 2 ^ 21 + 4096, 2 ^ 21⟩)], order := [3] } }, 3, 0, 512, ⟨[5, 9], 80, 1, 4, 1, 2 ^ 21 + 4096, 2 ^ 21⟩, 0, [1, 2, 3, 4, 5, 6, 7], by decide⟩

theorem met_ReductionsComplete_rwordReceive :
    ∃ (s : State) (lane chunk layer : Nat) (e : RedEnt) (p : Nat) (data : List Byte), ((FlagWord.ofBytes data).layer = layer) ∧ (s.redEnt layer = some (e, p)) ∧ ((FlagWord.ofBytes data).step = s.step32) ∧ (chunk < e.len) ∧ (e.first p chunk = false) ∧ ((s.redLayer layer).wordIn = []) :=
  ⟨{ w0 with red := { ents := [(3, ⟨[5, 9], 80, 1, 4, 1, 2 ^ 21 + 4096, 2 ^ 21⟩)], order := [3] } }, 0, 0, 3, ⟨[5, 9], 80, 1, 4, 1, 2 ^ 21 + 4096, 2 ^ 21⟩, 0, FlagWord.bytes ⟨1, 3, 9, 0, 1⟩, by decide⟩

theorem met_ReductionsComplete_checkSampleRead :
    ∃ (s : State) (layer : Nat) (e : RedEnt) (p : Nat), (s.redEnt layer = some (e, p)) ∧ (s.redStarted layer = true) ∧ ((s.redLayer layer).fault = false) ∧ ((s.redLayer layer).samples = none) ∧ ((s.readSamples e layer).2 = none) ∧ (((s.readSamples e layer).1.checkGoOn layer).2 = none) :=
  ⟨{ w0 with red := { ents := [(3, ⟨[5, 9], 4, 1, 4, 1, 2 ^ 21 + 4096, 2 ^ 21⟩)], order := [3] } }, 3, ⟨[5, 9], 4, 1, 4, 1, 2 ^ 21 + 4096, 2 ^ 21⟩, 0, by decide⟩

theorem met_ReductionsComplete_chkReceive :
    ∃ (s : State) (layer pos ord step n : Nat) (e : RedEnt) (p : Nat) (data : List Byte), (s.redEnt layer = some (e, p)) ∧ (step % 512 = s.step32 % 512) ∧ (n = (sampled e.nelem s.step32).length) ∧ (ord < n) ∧ ((s.redLayer layer).fault = false) ∧ (pos ∈ treeKids p e.len) :=
  ⟨{ w0.wr keeperU Reg.FX_STEP_LO_VALUE 2 with red := { ents := [(3, ⟨[5, 9], 100, 1, 4, 1, 2 ^ 21 + 4096, 2 ^ 21⟩)] } }, 3, 1, 0, 2, 1, ⟨[5, 9], 100, 1, 4, 1, 2 ^ 21 + 4096, 2 ^ 21⟩, 0, [1, 2, 3, 4, 5, 6, 7], by decide⟩

theorem met_ReductionsComplete_cwordReceive :
    ∃ (s : State) (pos layer : Nat) (e : RedEnt) (p : Nat) (data : List Byte), ((FlagWord.ofBytes data).layer = layer) ∧ (s.redEnt layer = some (e, p)) ∧ ((FlagWord.ofBytes data).step = s.step32) ∧ ((s.redLayer layer).fault = false) ∧ (pos ∈ treeKids p e.len) :=
  ⟨{ w0 with red := { ents := [(3, ⟨[5, 9], 80, 1, 4, 1, 2 ^ 21 + 4096, 2 ^ 21⟩)], order := [3] } }, 1, 3, ⟨[5, 9], 80, 1, 4, 1, 2 ^ 21 + 4096, 2 ^ 21⟩, 0, FlagWord.bytes ⟨1, 3, 9, 0, 1⟩, by decide⟩

theorem met_ReductionsComplete_reductionFault :
    ∃ (s : State) (layer u code : Nat) (e : RedEnt) (p : Nat), (s.redEnt layer = some (e, p)) ∧ (s.redStarted layer = true) ∧ ((s.redLayer layer).fault = false) ∧ ((s.redFaultNow e p layer).map (fun x => (x.2.1, x.2.2.1)) = some (u, code)) :=
  ⟨{ w0 with red := { ents := [(3, ⟨[5, 9], 80, 1, 4, 1, 2 ^ 21 + 4096, 2 ^ 21⟩)], order := [3] } }, 3, rdU 1, eXLATE, ⟨[5, 9], 80, 1, 4, 1, 2 ^ 21 + 4096, 2 ^ 21⟩, 0, by decide⟩

theorem met_ApplicationCoresComplete_exit :
    ∃ (s : State) (i : Nat), (i < 104) ∧ (s.appRuns i = true) :=
  ⟨(w0 : State).wr (acU 99) Reg.AC_STAT_RUN 1, 99, by decide⟩

theorem met_ApplicationCoresComplete_dbWait_hit :
    ∃ (s : State) (i mask limit : Nat), (i < 104) ∧ (s.appRuns i = true) ∧ ((s.deliveredBits &&& s.dbsel i &&& mask % 2 ^ 32) ≠ 0) :=
  ⟨(w0 : State).wr (acU 99) Reg.AC_STAT_RUN 1 |>.wr (acU 99) Reg.AC_DBSEL_MASK 6 |>.wr mbxU Reg.DB_STAT_BITS 7 |>.wr mbxU Reg.DB_MASK_MASK 0, 99, 2 ^ 32 + 5, 9, by decide⟩

theorem met_ApplicationCoresComplete_dbWait_wait :
    ∃ (s : State) (i mask limit : Nat), (i < 104) ∧ (s.appRuns i = true) ∧ ((s.deliveredBits &&& s.dbsel i &&& mask % 2 ^ 32) = 0) :=
  ⟨(w0 : State).wr (acU 99) Reg.AC_STAT_RUN 1, 99, 5, 9, by decide⟩

theorem met_ApplicationCoresComplete_arrWait :
    ∃ (s : State) (i mask limit : Nat), (i < 104) ∧ (s.appRuns i = true) ∧ ((s.rd (acU i) Reg.AC_SPEND_SLOT &&& mask % 2 ^ 16) ≠ 0) :=
  ⟨(w0 : State).wr (acU 99) Reg.AC_STAT_RUN 1 |>.wr (acU 99) Reg.AC_SPEND_SLOT 6, 99, 5, 9, by decide⟩

theorem met_ApplicationCoresComplete_monitorWaitExpiry :
    ∃ (s : State) (i : Nat) (w : MonWait), (i < 104) ∧ (s.rd (acU i) Reg.AC_STAT_RUN = 1) ∧ ((s.app i).wait = some w) ∧ (w.limit ≠ 0) :=
  ⟨({ w0 with apps := [(99, { wait := some ⟨1, 5, 9⟩, a0 := 3 })] } : State).wr (acU 99) Reg.AC_STAT_RUN 1, 99, ⟨1, 5, 9⟩, by decide⟩

theorem met_ApplicationCoresComplete_appException :
    ∃ (s : State) (i cause tval : Nat), (i < 104) ∧ (s.appRuns i = true) ∧ (cause < 64) :=
  ⟨(w0 : State).wr (acU 99) Reg.AC_STAT_RUN 1, 99, 2, 77, by decide⟩

theorem met_ApplicationCoresComplete_appFence :
    ∃ (s : State) (i p e home q k : Nat) (line : List Byte), (i < 104) ∧ (s.appRuns i = true) ∧ (s.pageAt (s.appAgent i).die p e home q = true) ∧ (s.ecc = []) ∧ (s.net = []) ∧ (k % 64 = 0) ∧ (k < 2 ^ 21) ∧ (line.length = 64) :=
  ⟨({ w0 with tus := [(19, { small := [(1, 12 + 5 * 2 ^ 48 + 3 * 2 ^ 42 + 7 * 2 ^ 21)] })] } : State).wr (acU 99) Reg.AC_STAT_RUN 1, 99, 1, 12 + 5 * 2 ^ 48 + 3 * 2 ^ 42 + 7 * 2 ^ 21, 3, 7, 64, List.replicate 64 7, by decide⟩

theorem met_StageQueuesComplete_stageEntrySend :
    ∃ (s : State) (ep qn p e home q i : Nat) (a : Post) (rest : List Post), (ep < 2) ∧ (qn < 8) ∧ (s.pageAt 23 p e home q = true) ∧ (s.ecc = []) ∧ (s.net = []) ∧ (i % 64 = 0) ∧ (i + 64 ≤ 2 ^ 21) ∧ (s.running = true) ∧ (s.epochsAgree ep = true) ∧ ((s.stq (sendKey ep qn)).live = true) ∧ ((s.stq (sendKey ep qn)).esize = 64) ∧ ((s.stq (sendKey ep qn)).posts = a :: rest) ∧ (0 < (s.stq (sendKey ep qn)).depth) ∧ ((s.stq (sendKey ep qn)).sent < (s.stq (sendKey ep qn)).freed + (s.stq (sendKey ep qn)).depth) ∧ (a.va = p * 2 ^ 21 + i) :=
  ⟨({ w0 with tus := [(23, { small := [(1, 12 + 5 * 2 ^ 48 + 3 * 2 ^ 42 + 7 * 2 ^ 21)] })], stqs := [(23, { live := true, esize := 64, depth := 2, posts := [⟨4, 2 ^ 21 + 128, 3, 7⟩] })], job := { w0.job with st := .running }, ports := [(11, { bcn := some ⟨1, true, 0, 0, 0, 0, 0, 0⟩ })] } : State).putNum (pageByte 3 7 128) 4 99, 1, 7, 1, 12 + 5 * 2 ^ 48 + 3 * 2 ^ 42 + 7 * 2 ^ 21, 3, 7, 128, ⟨4, 2 ^ 21 + 128, 3, 7⟩, [], by decide⟩

theorem met_StageQueuesComplete_stageEntryArrive :
    ∃ (s : State) (ep qn mb p e home q i : Nat) (data : List Byte), (ep < 2) ∧ (qn < 8) ∧ (s.pageAt 23 p e home q = true) ∧ (s.ecc = []) ∧ (s.net = []) ∧ (i % 64 = 0) ∧ (i + 64 ≤ 2 ^ 21) ∧ (s.running = true) ∧ ((s.stq (recvKey ep qn)).live = true) ∧ ((s.stq (recvKey ep qn)).esize = 64) ∧ ((s.stq (recvKey ep qn)).depth = 1) ∧ ((s.stq (recvKey ep qn)).arrived = (s.stq (recvKey ep qn)).released) ∧ ((s.stq (recvKey ep qn)).waits = []) ∧ ((s.stq (recvKey ep qn)).ring = p * 2 ^ 21 + i) ∧ (data.length = 64) :=
  ⟨({ w0 with tus := [(23, { small := [(1, 12 + 5 * 2 ^ 48 + 3 * 2 ^ 42 + 7 * 2 ^ 21)] })], stqs := [(31, { live := true, esize := 64, depth := 1, ring := 2 ^ 21 + 128 })], job := { w0.job with st := .running } } : State), 1, 7, 5, 1, 12 + 5 * 2 ^ 48 + 3 * 2 ^ 42 + 7 * 2 ^ 21, 3, 7, 128, List.replicate 64 9, by decide⟩

theorem met_StageQueuesComplete_stagePostComplete :
    ∃ (s : State) (ep qn : Nat) (a : Post) (rest : List Post), (ep < 2) ∧ (qn < 8) ∧ ((s.stq (sendKey ep qn)).sending = a :: rest) :=
  ⟨{ w0 with stqs := [(23, { sending := [⟨4, 2 ^ 21 + 128, 3, 7⟩] })] }, 1, 7, ⟨4, 2 ^ 21 + 128, 3, 7⟩, [], by decide⟩

theorem met_StageQueuesComplete_stageEntryWait :
    ∃ (s : State) (src ep qn index v : Nat), (ep < 2) ∧ (qn < 8) ∧ (index < 4096) ∧ (s.stqLoad ep qn index = some v) :=
  ⟨{ w0 with stqs := [(31, { depth := 2, arrived := 2, mbs := [(1, 6)] })] }, 7, 1, 7, 1, 1 + 65536 * 6 + 2 ^ 32, by decide⟩

theorem met_StageQueuesComplete_releaseFlitReceive :
    ∃ (s : State) (ep qn n : Nat), (ep < 2) ∧ (qn < 8) ∧ ((s.stq (sendKey ep qn)).freed + n ≤ (s.stq (sendKey ep qn)).sent) ∧ (n < 2 ^ 32) :=
  ⟨{ w0 with stqs := [(23, { sent := 5, freed := 2 })] }, 1, 7, 3, by decide⟩

theorem met_IngestCompletes_ethFrameReceive_dropped :
    ∃ (s : State) (port : Nat) (frame : List Byte) (icrc : Bool), (port < 2) :=
  ⟨w0, 1, [1, 2, 3], true, by decide⟩

theorem met_IngestCompletes_ethFrameReceive_arp :
    ∃ (s : State) (port : Nat) (frame tag body : List Byte) (icrc : Bool), (port < 2) ∧ (frame.length ≤ 9216) ∧ (ethParse frame = (tag, 0x0806, body)) ∧ ((arpAnswer 0 (mget s.eths port {}).ip4 tag (slice frame 6 6) body).isSome = true) :=
  ⟨{ w0 with eths := [(1, { ip4 := 0x0A000001 })] }, 1, [255, 255, 255, 255, 255, 255, 1, 2, 3, 4, 5, 6, 8, 6] ++ [0, 1, 8, 0, 6, 4, 0, 1] ++ [1, 2, 3, 4, 5, 6, 10, 0, 0, 9] ++ [0, 0, 0, 0, 0, 0, 10, 0, 0, 1], [], [0, 1, 8, 0, 6, 4, 0, 1] ++ [1, 2, 3, 4, 5, 6, 10, 0, 0, 9] ++ [0, 0, 0, 0, 0, 0, 10, 0, 0, 1], false, by decide⟩

theorem met_IngestCompletes_ethLinkChange :
    ∃ (s : State) (port pmd : Nat) (link fec : Bool), (port < 2) ∧ (pmd < 4) :=
  ⟨w0, 1, 2, true, true, by decide⟩

theorem met_IngestCompletes_sampleStart :
    ∃ (s : State) (k : Nat) (x : StreamRun), (k < 16) ∧ (s.stream k = some x) ∧ (s.running = true) ∧ (x.stalled = false) ∧ (x.samples.length < 128) ∧ (x.step ≤ s.stepNow + 1) ∧ (srWindow x.rec_ = true) :=
  ⟨{ w0 with streams := [(15, some { rec_ := 16 + 0x10000000000000000000000000000000000000000000000000000000000000000000000000000000000000000 })], job := { w0.job with st := .running } }, 15, { rec_ := 16 + 0x10000000000000000000000000000000000000000000000000000000000000000000000000000000000000000 }, by decide⟩

theorem met_IngestCompletes_readResponseReceive :
    ∃ (s : State) (qp k p e home q i : Nat) (qu : QueuePair) (r : ReadReq) (x : StreamRun) (m : Sample) (data : List Byte), (k < 16) ∧ (s.stream k = some x) ∧ (s.pageAt (s.tuOf (s.ingestAgent k) (p * 2 ^ 21 + i)) p e home q = true) ∧ (s.ecc = []) ∧ (s.net = []) ∧ (i % 64 = 0) ∧ (i + 64 ≤ 2 ^ 21) ∧ (s.qp qp = qu) ∧ (qu.st = 1) ∧ (qu.reads = [r]) ∧ (r.slot = k) ∧ (r.got = 0) ∧ (1 < r.packets) ∧ (x.sample r.draw = some m) ∧ (m.base = 0) ∧ (r.off = 0) ∧ (64 ≤ r.len) ∧ (x.wsize = 64) ∧ (x.wbase = p * 2 ^ 21 + i) ∧ (data.length = 64) :=
  ⟨{ w0 with tus := (List.range 24).map (fun d => (d, { small := [(1, 12 + 5 * 2 ^ 48 + 3 * 2 ^ 42 + 7 * 2 ^ 21)] })), qps := [(2, { st := 1, reads := [{ slot := 15, draw := 4, off := 0, len := 4096, psn := 7, packets := 4 }] })], streams := [(15, some { rec_ := 0, wbase := 2 ^ 21 + 128, wsize := 64, samples := [{ draw := 4, step := 0, slot := 0, index := 4, src := 0, pid := 9, skip := 0, off := 0, len := 4096, base := 0 }] })] }, 2, 15, 1, 12 + 5 * 2 ^ 48 + 3 * 2 ^ 42 + 7 * 2 ^ 21, 3, 7, 128, { st := 1, reads := [{ slot := 15, draw := 4, off := 0, len := 4096, psn := 7, packets := 4 }] }, { slot := 15, draw := 4, off := 0, len := 4096, psn := 7, packets := 4 }, { rec_ := 0, wbase := 2 ^ 21 + 128, wsize := 64, samples := [{ draw := 4, step := 0, slot := 0, index := 4, src := 0, pid := 9, skip := 0, off := 0, len := 4096, base := 0 }] }, { draw := 4, step := 0, slot := 0, index := 4, src := 0, pid := 9, skip := 0, off := 0, len := 4096, base := 0 }, List.replicate 64 9, by decide⟩

theorem met_IngestCompletes_roceAckTimeout :
    ∃ (s : State) (qp : Nat) (qu : QueuePair) (r : ReadReq), (s.qp qp = qu) ∧ (qu.st = 1) ∧ (qu.reads = [r]) ∧ (r.retries < 7) ∧ (r.rnrs ≤ 7) :=
  ⟨{ w0 with qps := [(2, { st := 1, reads := [{ slot := 15, draw := 4, off := 0, len := 4096, psn := 7, packets := 4 }] })] }, 2, { st := 1, reads := [{ slot := 15, draw := 4, off := 0, len := 4096, psn := 7, packets := 4 }] }, { slot := 15, draw := 4, off := 0, len := 4096, psn := 7, packets := 4 }, by decide⟩

theorem met_IngestCompletes_roceWriteReceive :
    ∃ (s : State) (qp k : Nat) (qu : QueuePair) (x : StreamRun) (data : List Byte), (k < 16) ∧ (s.stream k = some x) ∧ (s.qp qp = qu) ∧ (qu.st = 1) ∧ (qu.exp < 2 ^ 24) ∧ (srWindow x.rec_ = true) ∧ (x.extents = []) ∧ (x.cons ≤ x.prod) ∧ (0 < data.length) ∧ (x.prod + data.length ≤ x.cons + x.wsize) :=
  ⟨{ w0 with qps := [(2, { st := 1, exp := 2 ^ 24 - 1 })], streams := [(15, some { rec_ := 16, wbase := 2 ^ 21, wsize := 64 })] }, 2, 15, { st := 1, exp := 2 ^ 24 - 1 }, { rec_ := 16, wbase := 2 ^ 21, wsize := 64 }, [1, 2, 3], by decide⟩

theorem met_IngestCompletes_tsPacket :
    ∃ (s : State) (k draw pid : Nat) (x : StreamRun) (m : Sample) (a : AccUnit), (k < 16) ∧ (s.stream k = some x) ∧ (srCont x.rec_ = 0) ∧ (srWindow x.rec_ = false) ∧ (x.sample draw = some m) ∧ (m.arrived = true) ∧ (m.dec.ended = false) ∧ (m.ts.pitch = 188) ∧ (m.len < m.ts.pos + 188) ∧ (m.ts.open_ = some a) :=
  ⟨{ w0 with streams := [(15, some { rec_ := 0, samples := [{ draw := 4, step := 0, slot := 0, index := 4, src := 0, pid := 9, skip := 0, off := 0, len := 4096, base := 0, arrived := true, ts := { pitch := 188, pos := 4000, open_ := some ⟨0, true, false, [5]⟩ } }] })] }, 15, 4, 9, { rec_ := 0, samples := [{ draw := 4, step := 0, slot := 0, index := 4, src := 0, pid := 9, skip := 0, off := 0, len := 4096, base := 0, arrived := true, ts := { pitch := 188, pos := 4000, open_ := some ⟨0, true, false, [5]⟩ } }] }, { draw := 4, step := 0, slot := 0, index := 4, src := 0, pid := 9, skip := 0, off := 0, len := 4096, base := 0, arrived := true, ts := { pitch := 188, pos := 4000, open_ := some ⟨0, true, false, [5]⟩ } }, ⟨0, true, false, [5]⟩, by decide⟩

theorem met_IngestCompletes_accessUnitConsume :
    ∃ (s : State) (k p e home q i n : Nat) (x : StreamRun) (b : List Byte), (k < 16) ∧ (s.stream k = some x) ∧ (s.pageAt (s.tuOf (s.ingestAgent k) (p * 2 ^ 21 + i)) p e home q = true) ∧ (s.ecc = []) ∧ (s.net = []) ∧ (i % 32 = 0) ∧ (i + 32 ≤ 2 ^ 21) ∧ (srWindow x.rec_ = true) ∧ (s.rd (strU k) Reg.STR_AUCONS_COUNT = n) ∧ (n ≠ s.rd (strU k) Reg.STR_AUPROD_COUNT) ∧ (mget s.auLog k 0 ≠ 0) ∧ (x.auBase + 32 * (n % 2 ^ mget s.auLog k 0) = p * 2 ^ 21 + i) ∧ (b = s.bytesAt (pageByte home q i) 32) ∧ (leAt b 8 8 + leAt b 16 4 ≤ x.prod) :=
  ⟨({ w0 with tus := (List.range 24).map (fun d => (d, { small := [(1, 12 + 5 * 2 ^ 48 + 3 * 2 ^ 42 + 7 * 2 ^ 21)] })), auLog := [(15, 2)], streams := [(15, some { rec_ := 16, wbase := 2 ^ 21 + 4096, wsize := 64, auBase := 2 ^ 21 + 128, prod := 40 })] } : State).wr (strU 15) Reg.STR_AUPROD_COUNT 6 |>.wr (strU 15) Reg.STR_AUCONS_COUNT 5 |>.putNum (pageByte 3 7 168) 8 9 |>.putNum (pageByte 3 7 176) 4 30, 15, 1, 12 + 5 * 2 ^ 48 + 3 * 2 ^ 42 + 7 * 2 ^ 21, 3, 7, 160, 5, { rec_ := 16, wbase := 2 ^ 21 + 4096, wsize := 64, auBase := 2 ^ 21 + 128, prod := 40 }, leBytes 8 0 ++ leBytes 8 9 ++ leBytes 16 30, by decide⟩

theorem met_DeveloperCompletes_decodeFrame :
    ∃ (s : State) (die pipe k draw : Nat) (x : StreamRun), (k < 16) ∧ (s.stream k = some x) ∧ (srWindow x.rec_ = true) ∧ (x.dec.ended = true) :=
  ⟨{ w0 with streams := [(15, some { rec_ := 16, dec := { ended := true } })] }, 7, 15, 15, 0, { rec_ := 16, dec := { ended := true } }, by decide⟩

theorem met_DeveloperCompletes_tensorizeFrame :
    ∃ (s : State) (die un k draw n : Nat) (x : StreamRun) (m : Sample), (k < 16) ∧ (s.stream k = some x) ∧ (x.sample draw = some m) ∧ (n < srKept x.rec_) ∧ (n ∉ m.kept) ∧ (m.readFail = false) ∧ (m.tooLong = false) ∧ (x.frameOf m n < (x.decOf m).frames) :=
  ⟨{ w0 with streams := [(15, some { rec_ := 4 * 0x10000000000000000000000000000000000000000000000000000000000000000000000000000000000000000000000000000 + 0x100000000000000000000000000000000000000000000000000000000000000000000000000000000000000000000000000000000, samples := [{ draw := 4, step := 0, slot := 0, index := 4, src := 0, pid := 9, skip := 0, off := 0, len := 4096, base := 0, dec := { frames := 4 }, kept := [0, 1, 3] }] })] }, 7, 3, 15, 4, 2, { rec_ := 4 * 0x10000000000000000000000000000000000000000000000000000000000000000000000000000000000000000000000000000 + 0x100000000000000000000000000000000000000000000000000000000000000000000000000000000000000000000000000000000, samples := [{ draw := 4, step := 0, slot := 0, index := 4, src := 0, pid := 9, skip := 0, off := 0, len := 4096, base := 0, dec := { frames := 4 }, kept := [0, 1, 3] }] }, { draw := 4, step := 0, slot := 0, index := 4, src := 0, pid := 9, skip := 0, off := 0, len := 4096, base := 0, dec := { frames := 4 }, kept := [0, 1, 3] }, by decide⟩

theorem met_DeveloperCompletes_slotWriteComplete :
    ∃ (s : State) (k draw : Nat) (x : StreamRun) (m : Sample), (k < 16) ∧ (s.stream k = some x) ∧ (x.sample draw = some m) ∧ (m.readFail = false) ∧ (m.tooLong = false) ∧ ((∀ n, n < srKept x.rec_ → n ∈ m.kept)) :=
  ⟨{ w0 with streams := [(15, some { rec_ := 4 * 0x10000000000000000000000000000000000000000000000000000000000000000000000000000000000000000000000000000 + 0x100000000000000000000000000000000000000000000000000000000000000000000000000000000000000000000000000000000, samples := [{ draw := 4, step := 0, slot := 0, index := 4, src := 0, pid := 9, skip := 0, off := 0, len := 4096, base := 0, dec := { frames := 4 }, kept := [2, 0, 1, 3] }] })] }, 15, 4, { rec_ := 4 * 0x10000000000000000000000000000000000000000000000000000000000000000000000000000000000000000000000000000 + 0x100000000000000000000000000000000000000000000000000000000000000000000000000000000000000000000000000000000, samples := [{ draw := 4, step := 0, slot := 0, index := 4, src := 0, pid := 9, skip := 0, off := 0, len := 4096, base := 0, dec := { frames := 4 }, kept := [2, 0, 1, 3] }] }, { draw := 4, step := 0, slot := 0, index := 4, src := 0, pid := 9, skip := 0, off := 0, len := 4096, base := 0, dec := { frames := 4 }, kept := [2, 0, 1, 3] }, by decide⟩

theorem met_FlitsAreSent_flitSend :
    ∃ (s : State) (p : Nat) (x : PortSt) (f : Flit), (s.portUp p = true) ∧ (s.port p = x) ∧ (x.nakDue = false) ∧ (x.credDue = false) ∧ (x.idDue = false) ∧ (x.answer = none) ∧ (x.swap = none) ∧ (x.again = none) ∧ (x.tx = []) ∧ (s.rd (portU p) Reg.FAB_INJ_CFG_MODE = 0) ∧ (x.replay.length < 2048) ∧ (f.vc ≤ 4) ∧ (0 < x.credits f.vc) ∧ (f.type ≠ 1) ∧ (f.type ≠ 7) :=
  ⟨({ w0 with ports := [(3, { seq := 4095, exp := 9, credit := [(2, 1)] })] } : State).wr (portU 3) Reg.FAB_STAT_UP 1, 3, { seq := 4095, exp := 9, credit := [(2, 1)] }, { head := 3 + 2 ^ 5 + 5 * 2 ^ 32, payload := List.replicate 240 7 }, by decide⟩

theorem met_FlitsAreSent_flitSend_idle :
    ∃ (s : State) (p : Nat) (x : PortSt), (s.portUp p = true) ∧ (s.port p = x) ∧ (x.nakDue = false) ∧ (x.credDue = false) ∧ (x.idDue = false) ∧ (x.answer = none) ∧ (x.swap = none) ∧ (x.again = none) ∧ (x.tx = []) ∧ (x.replay.length < 2048) :=
  ⟨({ w0 with ports := [(3, { seq := 4095, exp := 9 })] } : State).wr (portU 3) Reg.FAB_STAT_UP 1, 3, { seq := 4095, exp := 9 }, by decide⟩

theorem met_FlitsAreSent_ackDue :
    ∃ (s : State) (p : Nat) (x : PortSt), (s.portUp p = true) ∧ (s.port p = x) ∧ (0 < x.unacked) :=
  ⟨({ w0 with ports := [(3, { unacked := 1, exp := 0 })] } : State).wr (portU 3) Reg.FAB_STAT_UP 1, 3, { unacked := 1, exp := 0 }, by decide⟩

theorem met_FlitsAreSent_beaconSend :
    ∃ (s : State) (p : Nat) (x : PortSt), (s.portUp p = true) ∧ (s.port p = x) ∧ (s.rd (portU p) Reg.FAB_INJ_CFG_MODE = 0) :=
  ⟨({ w0 with ports := [(3, { kok := true, nakDue := true })] } : State).wr (portU 3) Reg.FAB_STAT_UP 1, 3, { kok := true, nakDue := true }, by decide⟩

theorem met_FlitsAreReceived_flitReceive :
    ∃ (s : State) (p seq ack : Nat) (x : PortSt) (f : Flit), (s.portUp p = true) ∧ (s.port p = x) ∧ (f.head < 2 ^ 96) ∧ (bitsOf f.head 31 8 = 0) ∧ (bitAt f.head 47 = false) ∧ (f.payload.length = 240) ∧ (f.type = 3) ∧ (f.vc = 2) ∧ (p % 2 = 1) ∧ (p < 8) ∧ (seq = x.exp) ∧ (x.exp < 4096) ∧ (x.seq < 4096) ∧ (x.replay = []) ∧ (ack = (x.seq + 4095) % 4096) ∧ (((mget x.got 2 0 + 1) % 65536 + 65536 - mget x.freed 2 0) % 65536 < 512) :=
  ⟨({ w0 with ports := [(3, { exp := 4095, seq := 7 })] } : State).wr (portU 3) Reg.FAB_STAT_UP 1, 3, 4095, 6, { exp := 4095, seq := 7 }, { head := 3 + 2 ^ 5 + 5 * 2 ^ 32, payload := List.replicate 240 7 }, by decide⟩

theorem met_FlitsAreReceived_flitReceive_damaged :
    ∃ (s : State) (p : Nat) (x : PortSt) (data : List Byte), (s.portUp p = true) ∧ (s.port p = x) ∧ (crc32 (slice data 0 12 ++ slice data 16 240) ≠ leAt data 12 4) ∧ (leAt data 0 1 % 16 = 3) ∧ (x.naked = false) :=
  ⟨({ w0 with ports := [(3, { exp := 4095, seq := 7 })] } : State).wr (portU 3) Reg.FAB_STAT_UP 1, 3, { exp := 4095, seq := 7 }, [3, 1, 2], by decide⟩

theorem met_FlitsAreReceived_nakReceive :
    ∃ (s : State) (p expSeq : Nat) (x : PortSt) (r : Nat × Flit) (l : List (Nat × Flit)), (s.portUp p = true) ∧ (s.port p = x) ∧ (x.replay = r :: l) ∧ (x.start.1 ≠ r.1) ∧ (expSeq % 4096 = r.1) :=
  ⟨({ w0 with ports := [(11, { replay := [(9, { head := 3 + 2 ^ 5 + 5 * 2 ^ 32, payload := List.replicate 240 7 }), (10, { head := 3 + 2 ^ 5 + 5 * 2 ^ 32, payload := List.replicate 240 7 })] })] } : State).wr (portU 11) Reg.FAB_STAT_UP 1, 11, 9, { replay := [(9, { head := 3 + 2 ^ 5 + 5 * 2 ^ 32, payload := List.replicate 240 7 }), (10, { head := 3 + 2 ^ 5 + 5 * 2 ^ 32, payload := List.replicate 240 7 })] }, (9, { head := 3 + 2 ^ 5 + 5 * 2 ^ 32, payload := List.replicate 240 7 }), [(10, { head := 3 + 2 ^ 5 + 5 * 2 ^ 32, payload := List.replicate 240 7 })], by decide⟩

theorem met_FlitsAreReceived_replayTimeout :
    ∃ (s : State) (p : Nat) (x : PortSt) (r : Nat × Flit) (l : List (Nat × Flit)), (s.portUp p = true) ∧ (s.port p = x) ∧ (x.replay = r :: l) ∧ (x.start.1 ≠ r.1) :=
  ⟨({ w0 with ports := [(11, { replay := [(9, { head := 3 + 2 ^ 5 + 5 * 2 ^ 32, payload := List.replicate 240 7 }), (10, { head := 3 + 2 ^ 5 + 5 * 2 ^ 32, payload := List.replicate 240 7 })] })] } : State).wr (portU 11) Reg.FAB_STAT_UP 1, 11, { replay := [(9, { head := 3 + 2 ^ 5 + 5 * 2 ^ 32, payload := List.replicate 240 7 }), (10, { head := 3 + 2 ^ 5 + 5 * 2 ^ 32, payload := List.replicate 240 7 })] }, (9, { head := 3 + 2 ^ 5 + 5 * 2 ^ 32, payload := List.replicate 240 7 }), [(10, { head := 3 + 2 ^ 5 + 5 * 2 ^ 32, payload := List.replicate 240 7 })], by decide⟩

theorem met_FlitsAreReceived_creditReturn :
    ∃ (s : State) (p : Nat) (x : PortSt) (cred : List Nat), (s.portUp p = true) ∧ (s.port p = x) :=
  ⟨({ w0 with ports := [(0, { spent := [(2, 5)] })] } : State).wr (portU 0) Reg.FAB_STAT_UP 1, 0, { spent := [(2, 5)] }, [256, 0, 65537], by decide⟩

theorem met_LinksChange_retrainComplete :
    ∃ (s : State) (p ack rtt : Nat) (x : PortSt), (p < 12) ∧ (s.port p = x) ∧ (x.training = true) ∧ (x.retrains.length < 3) :=
  ⟨{ w0 with ports := [(11, { training := true, retrains := [5, 4] })] }, 11, 4095, 65535, { training := true, retrains := [5, 4] }, by decide⟩

theorem met_LinksChange_portDown :
    ∃ (s : State) (p : Nat) (x : PortSt), (p < 12) ∧ (s.port p = x) ∧ (x.training = true) :=
  ⟨{ w0 with ports := [(11, { training := true, replay := [(1, { head := 3 + 2 ^ 5 + 5 * 2 ^ 32, payload := List.replicate 240 7 })] })] }, 11, { training := true, replay := [(1, { head := 3 + 2 ^ 5 + 5 * 2 ^ 32, payload := List.replicate 240 7 })] }, by decide⟩

theorem met_LinksChange_beaconReceive :
    ∃ (s : State) (p m prov epoch tSend tLastRx tLastTx off : Nat) (x : PortSt), (s.portUp p = true) ∧ (s.port p = x) ∧ (x.bcn = none) ∧ (s.rd (portU p) Reg.FAB_BCN_LIMIT ≠ 0) :=
  ⟨({ w0 with ports := [(0, { dead := 3 })] } : State).wr (portU 0) Reg.FAB_STAT_UP 1, 0, 32767, 1, 2, 3, 4, 5, 6, { dead := 3 }, by decide⟩

theorem met_LinksChange_beaconSilence :
    ∃ (s : State) (p : Nat), (s.portUp p = true) :=
  ⟨({ w0 with ports := [(3, {})] } : State).wr (portU 3) Reg.FAB_STAT_UP 1, 3, by decide⟩

theorem met_LinksChange_beaconSilence_near :
    ∃ (s : State) (p : Nat), (s.portUp p = true) :=
  ⟨({ w0 with ports := [(3, {})] } : State).wr (portU 3) Reg.FAB_STAT_UP 1, 3, by decide⟩

theorem met_LinksChange_kokExpiry :
    ∃ (s : State) (p : Nat), (p < 12) :=
  ⟨({ w0 with ports := [(3, { kok := true })] } : State).wr (portU 3) Reg.FAB_STAT_UP 1, 3, by decide⟩

theorem met_LinksChange_tsoffUpdate_root :
    ∃ (s : State), (s.job.modId = 0) :=
  ⟨({ w0 with job := { w0.job with modId := 0 } } : State).wr clkU Reg.TSOFF_LO_VALUE 9, by decide⟩

theorem met_LinksChange_tsoffUpdate :
    ∃ (s : State) (p : Nat) (b : Beacon), (s.job.modId ≠ 0) ∧ (s.disc.root = false) ∧ (s.disc.up = some p) ∧ ((s.port p).bcn = some b) :=
  ⟨({ w0 with ports := [(3, { bcn := some ⟨1, true, 2, 3, 100, 40, 70, 2 ^ 64 - 5⟩, bcnAt := 90 })], disc := { up := some 3 } } : State).wr (portU 3) Reg.FAB_STAT_UP 1, 3, ⟨1, true, 2, 3, 100, 40, 70, 2 ^ 64 - 5⟩, by decide⟩

theorem met_LinksChange_idBlockReceive :
    ∃ (s : State) (p serial q : Nat) (bridge : Bool), (s.portUp p = true) :=
  ⟨({ w0 with ports := [(3, {})] } : State).wr (portU 3) Reg.FAB_STAT_UP 1, 3, 2 ^ 64 - 1, 15, true, by decide⟩

theorem met_DiscoveryCompletes_offerReceive :
    ∃ (s : State) (p num hops serial : Nat), (s.portUp p = true) ∧ (s.disc.num < num) :=
  ⟨({ w0 with ports := [(3, {})] } : State).wr (portU 3) Reg.FAB_STAT_UP 1, 3, 1, 0, 7, by decide⟩

theorem met_DiscoveryCompletes_offerCollectEnd :
    ∃ (s : State) (hops serial p : Nat), (s.disc.collecting = true) ∧ (s.disc.offers = [(hops, serial, p)]) ∧ (s.upPorts = [p]) :=
  ⟨({ w0 with ports := [(3, {})], disc := { num := 4, collecting := true, offers := [(2, 7, 3)] } } : State).wr (portU 3) Reg.FAB_STAT_UP 1, 2, 7, 3, by decide⟩

theorem met_DiscoveryCompletes_childReceive :
    ∃ (s : State) (p num : Nat), (s.portUp p = true) ∧ (num = s.disc.num) ∧ (p ∉ s.disc.kids) :=
  ⟨({ w0 with ports := [(3, {})], disc := { num := 4, kids := [2] } } : State).wr (portU 3) Reg.FAB_STAT_UP 1, 3, 4, by decide⟩

theorem met_DiscoveryCompletes_reportSend :
    ∃ (s : State) (p : Nat), (s.disc.offered = true) ∧ (s.disc.reported = false) ∧ (s.disc.kids = []) ∧ (s.disc.reports = []) ∧ (s.disc.root = false) ∧ (s.disc.parent = some p) :=
  ⟨({ w0 with ports := [(3, {})], disc := { num := 4, offered := true, parent := some 3 } } : State).wr (portU 3) Reg.FAB_STAT_UP 1, 3, by decide⟩

theorem met_DiscoveryCompletes_reportReceive :
    ∃ (s : State) (p num : Nat) (recs : List TopoRec), (num = s.disc.num) ∧ (p ∈ s.disc.kids) ∧ (s.disc.reports = []) ∧ (s.disc.root = false) :=
  ⟨({ w0 with ports := [(3, {})], disc := { num := 4, kids := [3] } } : State).wr (portU 3) Reg.FAB_STAT_UP 1, 3, 4, [], by decide⟩

theorem met_DiscoveryCompletes_assignReceive :
    ∃ (s : State) (p num id : Nat), (num = s.disc.num) ∧ (s.disc.parent = some p) ∧ (s.disc.reports = []) :=
  ⟨({ w0 with ports := [(3, {})], disc := { num := 4, parent := some 3 } } : State).wr (portU 3) Reg.FAB_STAT_UP 1, 3, 4, 32770, by decide⟩

theorem met_BridgeLinkCompletes_functionLevelReset :
    ∃ (s : State) (inFlight : List (Nat × Nat)), (s.bridge = true) :=
  ⟨(({ w0 with bridge := true, pcie := { perst := true, cfg := [(4, 9)], msix := [(3, 7)] } } : State).wr (portU 1) Reg.HB_STAT_LINKUP 1).wr (portU 1) (Reg.HB_ATT_LO_V 4095) 1 |>.wr mbxU (Reg.MBX_STAT_STATE 9) 2, [(5, 6), (7, 8)], by decide⟩

theorem met_BridgeLinkCompletes_pcieLinkLoss :
    ∃ (s : State) (inFlight : List (Nat × Nat)), (s.pcieUp = true) ∧ (s.portUsed 0 = false) :=
  ⟨(({ w0 with bridge := true, pcie := { perst := true, cfg := [(4, 9)], msix := [(3, 7)] } } : State).wr (portU 1) Reg.HB_STAT_LINKUP 1).wr (portU 1) (Reg.HB_ATT_LO_V 4095) 1 |>.wr mbxU (Reg.MBX_STAT_STATE 9) 2, [(5, 6), (7, 8)], by decide⟩

theorem met_BridgeLinkCompletes_perstNAssert :
    ∃ (s : State) (inFlight : List (Nat × Nat)), (s.bridge = true) :=
  ⟨(({ w0 with bridge := true, pcie := { perst := true, cfg := [(4, 9)], msix := [(3, 7)] } } : State).wr (portU 1) Reg.HB_STAT_LINKUP 1).wr (portU 1) (Reg.HB_ATT_LO_V 4095) 1 |>.wr mbxU (Reg.MBX_STAT_STATE 9) 2, [(5, 6), (7, 8)], by decide⟩

theorem met_BridgeLinkCompletes_pcieLinkTraining :
    ∃ (s : State), (s.bridge = true) ∧ (s.pcie.perst = true) ∧ (3 ≤ s.stage) ∧ (s.rd sbU Reg.SB_STAT_HALTED = 0) ∧ (s.pcieUp = false) :=
  ⟨({ w0 with bridge := true, pcie := { perst := true } } : State).wr sbU Reg.SB_STAT_STAGE 3, by decide⟩

theorem met_BridgeLinkCompletes_pcieLinkUp :
    ∃ (s : State) (speed width : Nat) (flit : Bool), (s.bridge = true) ∧ (s.pcie.training = true) :=
  ⟨{ w0 with bridge := true, pcie := { training := true } }, 6, 16, true, by decide⟩

theorem met_BridgeLinkCompletes_configurationRequest :
    ∃ (s : State) (reg data : Nat), (s.bridge = true) ∧ (5 ≤ s.stage) ∧ (s.stage ≤ 8) :=
  ⟨({ w0 with bridge := true } : State).wr sbU Reg.SB_STAT_STAGE 8, 4, 0xC0000000, by decide⟩

theorem met_BridgeLinkCompletes_configurationRequest_read :
    ∃ (s : State) (data : Nat), (s.bridge = true) ∧ (5 ≤ s.stage) ∧ (s.stage ≤ 8) :=
  ⟨({ w0 with bridge := true, pcie := { cfg := [(4, 0xFFFFFFFF)] } } : State).wr sbU Reg.SB_STAT_STAGE 8, 0, by decide⟩

theorem met_BridgeLinkCompletes_configurationRequest_retry :
    ∃ (s : State) (write : Bool) (reg data : Nat), (s.bridge = true) ∧ (s.stage < 5) ∧ (s.sb.kind ≠ 3) :=
  ⟨({ w0 with bridge := true } : State).wr sbU Reg.SB_STAT_STAGE 4, true, 4, 1, by decide⟩

theorem met_BridgeLinkCompletes_mbxKrst :
    ∃ (s : State) (src key : Nat), (s.isHost src = true) ∧ (key % 65536 = 0x4B52) :=
  ⟨({ w0 with bridge := true, provId := 9 } : State).wr sbU Reg.SB_STAT_STAGE 8, 9 * 65536 + portU 0, 0x14B52, by decide⟩

theorem met_BridgeLinkCompletes_mbxKrst_refused :
    ∃ (s : State) (src key : Nat), (s.isHost src = false) :=
  ⟨({ w0 with bridge := true, provId := 9 } : State).wr sbU Reg.SB_STAT_STAGE 8, 9, 0x4B52, by decide⟩

theorem met_HostAccessesComplete_hostBar0Access :
    ∃ (s : State) (n : Nat) (data : List Byte), (s.pcieUp = true) ∧ (n < 128) :=
  ⟨(({ w0 with bridge := true } : State).wr (portU 1) Reg.HB_STAT_LINKUP 1), 127, [1, 2, 3, 4], by decide⟩

theorem met_HostAccessesComplete_hostBar2Access :
    ∃ (s : State) (w off tb : Nat) (data : List Byte), (s.pcieUp = true) ∧ (w < 64) ∧ (off < 2 ^ 30) ∧ (s.rd (portU 1) (Reg.HB_OWIN_LO_EN w) ≠ 0) ∧ (s.rd (portU 1) (Reg.HB_OWIN_LO_W w) ≠ 0) ∧ (tb = s.rd (portU 1) (Reg.HB_OWIN_LO_TBASE w) * 2 ^ 30 + s.rd (portU 1) (Reg.HB_OWIN_HI_TBASE w) * 2 ^ 32) ∧ (taModule (tb + off) ≠ s.provId) :=
  ⟨(({ w0 with bridge := true } : State).wr (portU 1) Reg.HB_STAT_LINKUP 1).wr (portU 1) (Reg.HB_OWIN_LO_EN 63) 1 |>.wr (portU 1) (Reg.HB_OWIN_LO_W 63) 1 |>.wr (portU 1) (Reg.HB_OWIN_HI_TBASE 63) (7 * 2 ^ 16), 63, 64, 7 * 2 ^ 48, [1, 2, 3, 4], by decide⟩

theorem met_HostAccessesComplete_hostBar2Access_closed :
    ∃ (s : State) (w off len : Nat) (write : Bool) (data : List Byte), (s.pcieUp = true) ∧ (w < 64) ∧ (off < 2 ^ 30) ∧ (s.rd (portU 1) (Reg.HB_OWIN_LO_EN w) = 0) :=
  ⟨(({ w0 with bridge := true } : State).wr (portU 1) Reg.HB_STAT_LINKUP 1), 63, 64, 8, false, [], by decide⟩

theorem met_HostAccessesComplete_hostWindowAccess :
    ∃ (s : State) (off a : Nat) (data : List Byte), (off < 2 ^ 24) ∧ (s.pcieUp = true) ∧ (s.rd (portU 1) (Reg.HB_ATT_LO_V (off / 4096)) = 1) ∧ (a = s.rd (portU 1) (Reg.HB_ATT_LO_ADDR (off / 4096)) * 4096 + s.rd (portU 1) (Reg.HB_ATT_HI_ADDR (off / 4096)) * 2 ^ 32 + off % 4096) :=
  ⟨(({ w0 with bridge := true } : State).wr (portU 1) Reg.HB_STAT_LINKUP 1).wr (portU 1) (Reg.HB_ATT_LO_V 4095) 1 |>.wr (portU 1) (Reg.HB_ATT_HI_ADDR 4095) 5, 2 ^ 24 - 8, 5 * 2 ^ 32 + 4088, [1, 2], by decide⟩

theorem met_HostAccessesComplete_hostWindowAccess_read :
    ∃ (s : State) (off a len : Nat) (host : List Byte), (off < 2 ^ 24) ∧ (s.pcieUp = true) ∧ (s.rd (portU 1) (Reg.HB_ATT_LO_V (off / 4096)) = 1) ∧ (a = s.rd (portU 1) (Reg.HB_ATT_LO_ADDR (off / 4096)) * 4096 + s.rd (portU 1) (Reg.HB_ATT_HI_ADDR (off / 4096)) * 2 ^ 32 + off % 4096) :=
  ⟨(({ w0 with bridge := true } : State).wr (portU 1) Reg.HB_STAT_LINKUP 1).wr (portU 1) (Reg.HB_ATT_LO_V 4095) 1 |>.wr (portU 1) (Reg.HB_ATT_HI_ADDR 4095) 5, 2 ^ 24 - 8, 5 * 2 ^ 32 + 4088, 2, [1, 2], by decide⟩

theorem met_SmbusAnswers_status :
    ∃ (s : State), (s.sb.good = true) ∧ (s.rd sbU Reg.SB_STAT_STAGE < 16) ∧ (s.rd sbU Reg.SB_STAT_HALTED < 2) ∧ (s.rd sbU Reg.SB_STAT_FAULT < 2) ∧ (s.rd sbU Reg.SB_STAT_PWR_OK < 2) ∧ (s.rd sbU Reg.SB_STAT_BRIDGE < 2) :=
  ⟨({ w0 with sb := { good := true } } : State).wr sbU Reg.SB_STAT_STAGE 14 |>.wr sbU Reg.SB_STAT_PWR_OK 1, by decide⟩

theorem met_SmbusAnswers_status_pec :
    ∃ (s : State), (s.sb.good = true) :=
  ⟨({ w0 with sb := { good := true } } : State), by decide⟩

theorem met_SmbusAnswers_resetCause :
    ∃ (s : State), (s.sb.good = true) :=
  ⟨({ w0 with sb := { good := true, cause := 5 } } : State), by decide⟩

theorem met_SmbusAnswers_serial :
    ∃ (s : State), (s.sb.good = true) :=
  ⟨({ w0 with sb := { good := true } } : State), by decide⟩

theorem met_SmbusAnswers_power :
    ∃ (s : State), (s.sb.good = true) ∧ (5 ≤ s.stage) ∧ (s.stage ≤ 8) ∧ (s.rd keeperU Reg.PWR_VIN_MV < 2 ^ 32) ∧ (s.rd keeperU Reg.PWR_IIN_MA < 2 ^ 32) ∧ (s.rd keeperU Reg.PWR_PIN_W < 2 ^ 16) ∧ (s.rd keeperU Reg.PWR_PIN_PC < 2 ^ 16) ∧ (s.rd keeperU Reg.PWR_TEMP_TJ < 2 ^ 8) ∧ (s.rd keeperU Reg.PWR_TEMP_TJ_DIE < 2 ^ 6) ∧ (s.rd keeperU Reg.PWR_TEMP_TD < 2 ^ 8) ∧ (s.rd keeperU Reg.PWR_TEMP_TD_DIE < 2 ^ 5) :=
  ⟨({ w0 with sb := { good := true } } : State).wr sbU Reg.SB_STAT_STAGE 8 |>.wr keeperU Reg.PWR_VIN_MV 52000 |>.wr keeperU Reg.PWR_PIN_PC 9600 |>.wr keeperU Reg.PWR_TEMP_TD_DIE 3, by decide⟩

theorem met_SmbusAnswers_cool :
    ∃ (s : State), (s.sb.good = true) ∧ (5 ≤ s.stage) ∧ (s.stage ≤ 8) ∧ (s.rd keeperU Reg.PWR_COOL_T_IN < 2 ^ 16) ∧ (s.rd keeperU Reg.PWR_COOL_T_OUT < 2 ^ 16) :=
  ⟨({ w0 with sb := { good := true } } : State).wr sbU Reg.SB_STAT_STAGE 5 |>.wr keeperU Reg.PWR_COOL_T_OUT 300, by decide⟩

theorem met_SmbusAnswers_setCap :
    ∃ (s : State) (w : Nat), (s.sb.good = true) ∧ (5 ≤ s.stage) ∧ (s.stage ≤ 8) :=
  ⟨({ w0 with sb := { good := true } } : State).wr sbU Reg.SB_STAT_STAGE 8, 3999, by decide⟩

theorem met_SmbusAnswers_getCap :
    ∃ (s : State), (s.sb.good = true) ∧ (5 ≤ s.stage) ∧ (s.stage ≤ 8) :=
  ⟨({ w0 with sb := { good := true } } : State).wr sbU Reg.SB_STAT_STAGE 8, by decide⟩

theorem met_SmbusAnswers_smbAlertResponse :
    ∃ (s : State), (s.sb.good = true) ∧ (s.sb.alert = true) :=
  ⟨({ w0 with sb := { good := true, alert := true } } : State), by decide⟩

theorem met_TestPortCompletes_extest :
    ∃ (s : State) (pins tdi : List Bool), (s.sb.good = true) ∧ (s.rd dkrU Reg.DKR_STAT_JTAG_OPEN = 1) :=
  ⟨({ w0 with sb := { good := true } } : State).wr dkrU Reg.DKR_STAT_JTAG_OPEN 1, [true, false], [false, false, true], by decide⟩

theorem met_TestPortCompletes_samplePreload :
    ∃ (s : State) (pins tdi : List Bool), (s.sb.good = true) ∧ (s.rd dkrU Reg.DKR_STAT_JTAG_OPEN = 1) :=
  ⟨({ w0 with sb := { good := true } } : State).wr dkrU Reg.DKR_STAT_JTAG_OPEN 1, [true, false], [false, false, true], by decide⟩

theorem met_TestPortCompletes_idcode :
    ∃ (s : State) (tdi : List Bool), (s.sb.good = true) :=
  ⟨({ w0 with sb := { good := true } } : State), [true], by decide⟩

theorem met_TestPortCompletes_bypass :
    ∃ (s : State) (tdi : List Bool), (s.sb.good = true) :=
  ⟨({ w0 with sb := { good := true } } : State), [true, false], by decide⟩

theorem met_TestPortCompletes_dkrChal :
    ∃ (s : State) (tdi : List Bool) (c : List Byte), (s.sb.good = true) ∧ (c = (List.range 32).map (fun i => Config.freeByte (s.free + i))) :=
  ⟨({ w0 with sb := { good := true } } : State), [true, false], (List.range 32).map (fun i => Config.freeByte i), by simp [State.reset, w0]⟩

theorem met_TestPortCompletes_dkrUnlock :
    ∃ (s : State) (tok : List Byte), (s.sb.good = true) ∧ (s.tokenOpens tok = true) :=
  ⟨({ w0 with sb := { good := true }, dkr := { fuse := ⟨7, 7, 0x31801acfde846d0985aed2b3c39217f8b0cbc4905819aca7e35fdcf336cfc1cb, 0, 0, 0, 0, 0, false, false, 0, 0⟩, flash := [], chal := some (List.replicate 32 9) } } : State).wr dkrU Reg.DKR_STAT_SCRUBBED 1, leBytes 192 0xc6d42b86abd92f8f98af8d83dcab1c0e33cb17746972d3dc3a4a98b18438ff736cfde7c61b6641fb85a9adef21b7c6e665f14b1d95eff7c8440a33a6d1e4cb5e00000000000000000000000000000000e6d07258747040bf316f4b74055205e75ad24d70670c150d33bbc79cde8b239012d8daf9e921f9f9c99c645b9433f7b222913a8be18791664ae3e90ebdceef2609090909090909090909090909090909090909090909090909090909090909090000000000000007000000004c555856, by decide +kernel⟩

theorem met_TestPortCompletes_dkrUnlock_refused :
    ∃ (s : State) (tok : List Byte) (withLoad : Bool), (s.sb.good = true) ∧ (s.tokenOpens tok = false ∨ withLoad = true) :=
  ⟨({ w0 with sb := { good := true } } : State), [], true, by decide⟩

theorem met_ResetsComplete_powerGoodRise :
    ∃ (s : State) (mv slot : Nat) (b : Bool), (s.sb.good = false) :=
  ⟨w0, 52000, 7, true, by decide⟩

theorem met_ResetsComplete_powerGoodFall :
    ∃ (s : State) (ok : Bool), (s.sb.good = true) :=
  ⟨({ w0 with sb := { good := true } } : State).wr sbU Reg.SB_STAT_STAGE 8, true, by decide⟩

theorem met_ResetsComplete_modRstNAssert :
    ∃ (s : State), (s.sb.low = none) :=
  ⟨({ w0 with sb := { good := true } } : State).wr sbU Reg.SB_STAT_STAGE 8, by decide⟩

theorem met_ResetsComplete_modRstNRelease_short :
    ∃ (s : State) (st n : Nat) (near : Bool), (s.sb.low = some st) ∧ (n < usTicks) ∧ (st < 16) :=
  ⟨({ w0 with sb := { good := true, low := some 8 } } : State), 8, 118, false, by decide⟩

theorem met_ResetsComplete_modRstNRelease_warm :
    ∃ (s : State) (st n : Nat), (s.sb.low = some st) ∧ (s.sb.good = true) ∧ (usTicks ≤ n) ∧ (n < coldTicks) :=
  ⟨({ w0 with sb := { good := true, low := some 8 } } : State).putNum (dramAddr 23 0) 2 0x905 |>.putNum (epAddr (spU 2 0) 1) 1 7, 8, 119, by decide⟩

theorem met_ResetsComplete_modRstNRelease_cold :
    ∃ (s : State) (st n : Nat), (s.sb.low = some st) ∧ (s.sb.good = true) ∧ (coldTicks ≤ n) ∧ (s.rd keeperU Reg.PWR_STAT_TRIP = 0) :=
  ⟨({ w0 with sb := { good := true, low := some 8 } } : State).putNum (dramAddr 23 0) 2 0x905 |>.putNum (epAddr (spU 2 0) 1) 1 7, 8, coldTicks, by decide⟩

theorem met_ResetsComplete_pllLossOfLock :
    ∃ (s : State), (s.sb.good = true) ∧ (s.rd clkU Reg.CLK_STAT_ROOT_LOCK = 1) :=
  ⟨({ w0 with sb := { good := true } } : State).wr clkU Reg.CLK_STAT_ROOT_LOCK 1, by decide⟩

theorem met_ResetsComplete_pllLock :
    ∃ (s : State), (s.sb.good = true) ∧ (s.rd clkU Reg.CLK_STAT_ROOT_LOCK = 0) ∧ (s.sb.low = none) ∧ (s.rd keeperU Reg.PWR_STAT_TRIP = 0) :=
  ⟨({ w0 with sb := { good := true, faults := [2] } } : State), by decide⟩

theorem met_StartUpCompletes_startUpStageDone_rom :
    ∃ (s : State) (bad : Bool) (ports : List (Nat × Nat)) (eths : List Nat), (s.sb.good = true) ∧ (s.sb.low = none) ∧ (s.rd sbU Reg.SB_STAT_HALTED = 0) ∧ (s.rd clkU Reg.CLK_STAT_ROOT_LOCK = 1) ∧ (s.rd keeperU Reg.PWR_STAT_TRIP = 0) ∧ (s.stage = 1) :=
  ⟨(({ w0 with sb := { good := true } } : State).wr clkU Reg.CLK_STAT_ROOT_LOCK 1).wr sbU Reg.SB_STAT_STAGE 1, false, [], [], by decide⟩

theorem met_StartUpCompletes_startUpStageDone_fuses :
    ∃ (s : State) (bad : Bool) (ports : List (Nat × Nat)) (eths : List Nat), (s.sb.good = true) ∧ (s.sb.low = none) ∧ (s.rd sbU Reg.SB_STAT_HALTED = 0) ∧ (s.rd clkU Reg.CLK_STAT_ROOT_LOCK = 1) ∧ (s.rd keeperU Reg.PWR_STAT_TRIP = 0) ∧ (s.stage = 2) ∧ (fusesBad s.dkr.fuse = false) :=
  ⟨(({ w0 with sb := { good := true }, dkr := { fuse := ⟨7, 7, 5, 5, 0, 0, 0, 0, false, false, 3, 1⟩, flash := [] } } : State).wr clkU Reg.CLK_STAT_ROOT_LOCK 1).wr sbU Reg.SB_STAT_STAGE 2, false, [], [], by decide⟩

theorem met_StartUpCompletes_startUpStageDone_mismatch :
    ∃ (s : State) (bad : Bool) (ports : List (Nat × Nat)) (eths : List Nat), (s.sb.good = true) ∧ (s.sb.low = none) ∧ (s.rd sbU Reg.SB_STAT_HALTED = 0) ∧ (s.rd clkU Reg.CLK_STAT_ROOT_LOCK = 1) ∧ (s.rd keeperU Reg.PWR_STAT_TRIP = 0) ∧ (s.stage = 2) ∧ (fusesBad s.dkr.fuse = true) :=
  ⟨(({ w0 with sb := { good := true }, dkr := { fuse := ⟨7, 8, 5, 5, 0, 0, 0, 0, false, false, 3, 1⟩, flash := [] } } : State).wr clkU Reg.CLK_STAT_ROOT_LOCK 1).wr sbU Reg.SB_STAT_STAGE 2, false, [], [], by decide⟩

theorem met_StartUpCompletes_startUpStageDone_dram :
    ∃ (s : State) (ports : List (Nat × Nat)) (eths : List Nat), (s.sb.good = true) ∧ (s.sb.low = none) ∧ (s.rd sbU Reg.SB_STAT_HALTED = 0) ∧ (s.rd clkU Reg.CLK_STAT_ROOT_LOCK = 1) ∧ (s.rd keeperU Reg.PWR_STAT_TRIP = 0) ∧ (s.stage = 5) ∧ (s.sb.kind < 2) :=
  ⟨(({ w0 with sb := { good := true } } : State).wr clkU Reg.CLK_STAT_ROOT_LOCK 1).wr sbU Reg.SB_STAT_STAGE 5, [], [], by decide⟩

theorem met_StartUpCompletes_startUpStageDone_ports :
    ∃ (s : State) (bad : Bool) (p rtt : Nat) (eths : List Nat), (s.sb.good = true) ∧ (s.sb.low = none) ∧ (s.rd sbU Reg.SB_STAT_HALTED = 0) ∧ (s.rd clkU Reg.CLK_STAT_ROOT_LOCK = 1) ∧ (s.rd keeperU Reg.PWR_STAT_TRIP = 0) ∧ (s.stage = 6) ∧ (p < 12) ∧ (s.rd (portU p) Reg.FAB_STAT_MODE = 0) :=
  ⟨(({ w0 with sb := { good := true } } : State).wr clkU Reg.CLK_STAT_ROOT_LOCK 1).wr sbU Reg.SB_STAT_STAGE 6, false, 11, 40, [0], by decide⟩

theorem met_StartUpCompletes_startUpStageDone_last :
    ∃ (s : State) (bad : Bool) (ports : List (Nat × Nat)) (eths : List Nat), (s.sb.good = true) ∧ (s.sb.low = none) ∧ (s.rd sbU Reg.SB_STAT_HALTED = 0) ∧ (s.rd clkU Reg.CLK_STAT_ROOT_LOCK = 1) ∧ (s.rd keeperU Reg.PWR_STAT_TRIP = 0) ∧ (s.stage = 7) :=
  ⟨(({ w0 with sb := { good := true } } : State).wr clkU Reg.CLK_STAT_ROOT_LOCK 1).wr sbU Reg.SB_STAT_STAGE 7, false, [], [], by decide⟩

theorem met_PowerControlCompletes_inputVoltageChange :
    ∃ (s : State) (mv : Nat), (s.sb.good = true) :=
  ⟨({ w0 with sb := { good := true } } : State), 47999, by decide⟩

theorem met_PowerControlCompletes_inletOverTemp :
    ∃ (s : State) (v : Nat), (450 < v) :=
  ⟨({ w0 with sb := { good := true } } : State), 451, by decide⟩

theorem met_PowerControlCompletes_dramTempChange :
    ∃ (s : State) (d temp : Nat), (d < 24) ∧ (temp ≤ 95) :=
  ⟨w0, 23, 86, by decide⟩

theorem met_PowerControlCompletes_dramTempChange_over :
    ∃ (s : State) (d temp : Nat), (d < 24) ∧ (95 < temp) ∧ (s.rd (dramU d) Reg.DRAM_TEMP_VALUE ≤ 95) :=
  ⟨w0, 23, 96, by decide⟩

theorem met_PowerControlCompletes_thermalTrip :
    ∃ (s : State) (tj tjDie td tdDie : Nat), (s.sb.good = true) ∧ (s.rd keeperU Reg.PWR_STAT_TRIP = 0) ∧ (115 ≤ tj ∨ 105 ≤ (s.hottest td (tdDie % 24)).1) :=
  ⟨({ w0 with sb := { good := true } } : State).putNum (dramAddr 23 0) 2 0x905, 114, 4, 105, 23, by decide⟩

theorem met_PowerControlCompletes_powerWindowEnd :
    ∃ (s : State) (mv ma power tj tjDie td tdDie tIn tOut : Nat) (blocks : List Nat), (s.sb.good = true) ∧ (s.rd keeperU Reg.PWR_STAT_TRIP = 0) ∧ (tj ≤ 105) ∧ ((s.hottest td (tdDie % 24)).1 ≤ 95) ∧ (power ≤ Nat.min (s.rd keeperU Reg.PWR_CAP_W) (mv * 196 / 1000)) ∧ (s.rd clkU Reg.CLK_STAT_STEP = 0) :=
  ⟨({ w0 with sb := { good := true } } : State), 52000, 100000, 9600, 105, 3, 95, 2, 300, 400, [1, 2], by decide⟩

theorem met_PowerControlCompletes_powerWindowEnd_down :
    ∃ (s : State) (mv ma power tj tjDie td tdDie tIn tOut : Nat) (blocks : List Nat), (s.sb.good = true) ∧ (s.rd keeperU Reg.PWR_STAT_TRIP = 0) ∧ (tj ≤ 105) ∧ ((s.hottest td (tdDie % 24)).1 ≤ 95) ∧ (Nat.min (s.rd keeperU Reg.PWR_CAP_W) (mv * 196 / 1000) < power) ∧ (s.rd clkU Reg.CLK_STAT_STEP < 3) :=
  ⟨({ w0 with sb := { good := true } } : State).wr clkU Reg.CLK_STAT_STEP 2, 52000, 100000, 9601, 105, 3, 95, 2, 300, 400, [1, 2], by decide⟩

theorem met_PowerControlCompletes_powerStateEntry :
    ∃ (s : State), (s.sb.good = true) ∧ (s.rd keeperU Reg.PWR_STAT_TRIP = 0) ∧ (s.stage = 8) ∧ (s.rd keeperU Reg.PWR_STAT_PSTATE < s.permitted) ∧ (s.pwr.waking = false) ∧ (s.heldTx = []) ∧ (s.kpr.run = none) ∧ (s.rd keeperU Reg.RCV_STAT_STATE ≠ 3) :=
  ⟨({ w0 with sb := { good := true } } : State).wr sbU Reg.SB_STAT_STAGE 8 |>.wr keeperU Reg.PWR_TOL_US 900, by decide⟩

theorem met_PowerControlCompletes_wakeComplete :
    ∃ (s : State), (s.pwr.waking = true) ∧ (0 < s.rd keeperU Reg.PWR_STAT_PSTATE) ∧ (s.rd keeperU Reg.PWR_STAT_PSTATE < 3) ∧ (s.heldTx = []) :=
  ⟨({ w0 with pwr := { waking := true } } : State).wr keeperU Reg.PWR_STAT_PSTATE 2, by decide⟩

theorem met_KeeperAnswers_queryDevice :
    ∃ (s : State) (c : Nat) (m : Minil), (s.commanded c m = true) ∧ (m.cmd = cmdQUERY) :=
  ⟨({ w0 with pwr := {} } : State).wr sbU Reg.SB_STAT_STAGE 8 |>.wr mbxU (Reg.MBX_STAT_STATE 2) 2 |>.wr mbxU (Reg.MBX_STAT_LEN 2) (16 + ([] : List Byte).length) |>.wr mbxU (Reg.MBX_SRC_UNIT 2) (77 * 65536 + portU 0) |>.putBytes (mbxBuf 2) ({ cmd := cmdQUERY, seq := 3, status := 0, sender := (77 * 65536 + portU 0), reply := false, rch := 9, prov := true, payload := [] } : Minil).bytes, 2, { cmd := cmdQUERY, seq := 3, status := 0, sender := (77 * 65536 + portU 0), reply := false, rch := 9, prov := true, payload := [] }, by decide +kernel⟩

theorem met_KeeperAnswers_setWakeTolerance :
    ∃ (s : State) (c : Nat) (m : Minil), (s.commanded c m = true) ∧ (m.cmd = cmdSETWAKE) :=
  ⟨({ w0 with pwr := {} } : State).wr sbU Reg.SB_STAT_STAGE 8 |>.wr mbxU (Reg.MBX_STAT_STATE 2) 2 |>.wr mbxU (Reg.MBX_STAT_LEN 2) (16 + (leBytes 4 899 : List Byte).length) |>.wr mbxU (Reg.MBX_SRC_UNIT 2) (77 * 65536 + portU 0) |>.putBytes (mbxBuf 2) ({ cmd := cmdSETWAKE, seq := 3, status := 0, sender := (77 * 65536 + portU 0), reply := false, rch := 9, prov := true, payload := leBytes 4 899 } : Minil).bytes, 2, { cmd := cmdSETWAKE, seq := 3, status := 0, sender := (77 * 65536 + portU 0), reply := false, rch := 9, prov := true, payload := leBytes 4 899 }, by decide +kernel⟩

theorem met_KeeperAnswers_readLog :
    ∃ (s : State) (c : Nat) (m : Minil) (e : LogEntry), (s.commanded c m = true) ∧ (m.cmd = cmdREADLOG) ∧ (s.log.ring = [e]) ∧ (leAt m.payload 0 1 = 0) ∧ (leAt m.payload 4 4 ≤ e.seq) ∧ (64 ≤ leAt m.payload 0x10 4) ∧ (leAt m.payload 0x10 4 < 128) ∧ (s.elsewhere (leAt m.payload 8 8) = true) ∧ (leAt m.payload 8 8 % 64 = 0) :=
  ⟨({ w0 with pwr := {}, log := { ring := [⟨eFOG, 0, false, 2, 7, 5, 0, 9, 0, 1, 2, 3, 4⟩], seq := 10 } } : State).wr sbU Reg.SB_STAT_STAGE 8 |>.wr mbxU (Reg.MBX_STAT_STATE 2) 2 |>.wr mbxU (Reg.MBX_STAT_LEN 2) (16 + (leBytes 4 0 ++ leBytes 4 9 ++ leBytes 8 (6 * 2 ^ 48 + 64) ++ leBytes 4 64 ++ leBytes 4 0 : List Byte).length) |>.wr mbxU (Reg.MBX_SRC_UNIT 2) (77 * 65536 + portU 0) |>.putBytes (mbxBuf 2) ({ cmd := cmdREADLOG, seq := 3, status := 0, sender := (77 * 65536 + portU 0), reply := false, rch := 9, prov := true, payload := leBytes 4 0 ++ leBytes 4 9 ++ leBytes 8 (6 * 2 ^ 48 + 64) ++ leBytes 4 64 ++ leBytes 4 0 } : Minil).bytes, 2, { cmd := cmdREADLOG, seq := 3, status := 0, sender := (77 * 65536 + portU 0), reply := false, rch := 9, prov := true, payload := leBytes 4 0 ++ leBytes 4 9 ++ leBytes 8 (6 * 2 ^ 48 + 64) ++ leBytes 4 64 ++ leBytes 4 0 }, ⟨eFOG, 0, false, 2, 7, 5, 0, 9, 0, 1, 2, 3, 4⟩, by decide +kernel⟩

theorem met_KeeperAnswers_clearLog :
    ∃ (s : State) (c : Nat) (m : Minil), (s.commanded c m = true) ∧ (m.cmd = cmdCLEARLOG) :=
  ⟨({ w0 with pwr := {}, log := { ring := [⟨eFOG, 0, false, 2, 7, 5, 0, 9, 0, 1, 2, 3, 4⟩], sticky := [⟨eFOG, 0, false, 2, 7, 5, 0, 9, 0, 1, 2, 3, 4⟩], seq := 10 } } : State).wr sbU Reg.SB_STAT_STAGE 8 |>.wr mbxU (Reg.MBX_STAT_STATE 2) 2 |>.wr mbxU (Reg.MBX_STAT_LEN 2) (16 + (leBytes 4 2 : List Byte).length) |>.wr mbxU (Reg.MBX_SRC_UNIT 2) (77 * 65536 + portU 0) |>.putBytes (mbxBuf 2) ({ cmd := cmdCLEARLOG, seq := 3, status := 0, sender := (77 * 65536 + portU 0), reply := false, rch := 9, prov := true, payload := leBytes 4 2 } : Minil).bytes, 2, { cmd := cmdCLEARLOG, seq := 3, status := 0, sender := (77 * 65536 + portU 0), reply := false, rch := 9, prov := true, payload := leBytes 4 2 }, by decide +kernel⟩

theorem met_KeeperAnswers_readTelemetry :
    ∃ (s : State) (c : Nat) (m : Minil), (s.commanded c m = true) ∧ (m.cmd = cmdTELEMETRY) ∧ (leAt m.payload 0 1 = 1) ∧ (leAt m.payload 0x18 4 = 64) ∧ (s.elsewhere (leAt m.payload 0x10 8) = true) ∧ (leAt m.payload 0x10 8 % 64 = 0) :=
  ⟨({ w0 with pwr := {} } : State).wr sbU Reg.SB_STAT_STAGE 8 |>.wr mbxU (Reg.MBX_STAT_STATE 2) 2 |>.wr mbxU (Reg.MBX_STAT_LEN 2) (16 + (leBytes 4 1 ++ leBytes 4 0 ++ leBytes 8 0 ++ leBytes 8 (6 * 2 ^ 48 + 64) ++ leBytes 4 64 ++ leBytes 4 0 : List Byte).length) |>.wr mbxU (Reg.MBX_SRC_UNIT 2) (77 * 65536 + portU 0) |>.putBytes (mbxBuf 2) ({ cmd := cmdTELEMETRY, seq := 3, status := 0, sender := (77 * 65536 + portU 0), reply := false, rch := 9, prov := true, payload := leBytes 4 1 ++ leBytes 4 0 ++ leBytes 8 0 ++ leBytes 8 (6 * 2 ^ 48 + 64) ++ leBytes 4 64 ++ leBytes 4 0 } : Minil).bytes, 2, { cmd := cmdTELEMETRY, seq := 3, status := 0, sender := (77 * 65536 + portU 0), reply := false, rch := 9, prov := true, payload := leBytes 4 1 ++ leBytes 4 0 ++ leBytes 8 0 ++ leBytes 8 (6 * 2 ^ 48 + 64) ++ leBytes 4 64 ++ leBytes 4 0 }, by decide +kernel⟩

theorem met_KeeperAnswers_injectLinkFault :
    ∃ (s : State) (c p v : Nat) (m : Minil), (s.commanded c m = true) ∧ (m.cmd = cmdINJECT) ∧ (p = leAt m.payload 0 1) ∧ (p < 12) ∧ (v = leAt m.payload 4 4) :=
  ⟨({ w0 with pwr := {}, ports := [(11, { injN := 9 })] } : State).wr sbU Reg.SB_STAT_STAGE 8 |>.wr mbxU (Reg.MBX_STAT_STATE 2) 2 |>.wr mbxU (Reg.MBX_STAT_LEN 2) (16 + (leBytes 4 11 ++ leBytes 4 0xFFFFFFFF ++ leBytes 4 5 : List Byte).length) |>.wr mbxU (Reg.MBX_SRC_UNIT 2) (77 * 65536 + portU 0) |>.putBytes (mbxBuf 2) ({ cmd := cmdINJECT, seq := 3, status := 0, sender := (77 * 65536 + portU 0), reply := false, rch := 9, prov := true, payload := leBytes 4 11 ++ leBytes 4 0xFFFFFFFF ++ leBytes 4 5 } : Minil).bytes, 2, 11, 0xFFFFFFFF, { cmd := cmdINJECT, seq := 3, status := 0, sender := (77 * 65536 + portU 0), reply := false, rch := 9, prov := true, payload := leBytes 4 11 ++ leBytes 4 0xFFFFFFFF ++ leBytes 4 5 }, by decide +kernel⟩

theorem met_KeeperJobCommandsComplete_checkpointRequest :
    ∃ (s : State) (c size : Nat) (m : Minil), (s.commanded c m = true) ∧ (m.cmd = cmdCKPT) ∧ (leAt m.payload 0 1 = 0) ∧ (s.rd keeperU Reg.PWR_STAT_PSTATE = 0) ∧ (s.ues = []) ∧ (size = 64 + 64 * s.job.nlayer + 528) ∧ (s.inBuffer (leAt m.payload 8 8) size = true) ∧ (size ≤ leAt m.payload 0x10 8) :=
  ⟨({ w0 with pwr := {}, job := { w0.job with st := .running, regions := [{ id := 1, kind := 0, base := 0, size := 8192, perms := 2, spans := [(4096, 592)] }] } } : State).wr sbU Reg.SB_STAT_STAGE 8 |>.wr mbxU (Reg.MBX_STAT_STATE 2) 2 |>.wr mbxU (Reg.MBX_STAT_LEN 2) (16 + (leBytes 8 0 ++ leBytes 8 4096 ++ leBytes 8 592 ++ leBytes 8 0 : List Byte).length) |>.wr mbxU (Reg.MBX_SRC_UNIT 2) (77 * 65536 + portU 0) |>.putBytes (mbxBuf 2) ({ cmd := cmdCKPT, seq := 3, status := 0, sender := (77 * 65536 + portU 0), reply := false, rch := 9, prov := true, payload := leBytes 8 0 ++ leBytes 8 4096 ++ leBytes 8 592 ++ leBytes 8 0 } : Minil).bytes, 2, 592, { cmd := cmdCKPT, seq := 3, status := 0, sender := (77 * 65536 + portU 0), reply := false, rch := 9, prov := true, payload := leBytes 8 0 ++ leBytes 8 4096 ++ leBytes 8 592 ++ leBytes 8 0 }, by decide +kernel⟩

theorem met_KeeperJobCommandsComplete_startJob :
    ∃ (s : State) (c : Nat) (m : Minil), (s.commanded c m = true) ∧ (m.cmd = cmdSTART) ∧ (s.rd keeperU Reg.PWR_STAT_PSTATE = 0) :=
  ⟨({ w0 with pwr := {}, job := { w0.job with st := .loaded } } : State).wr sbU Reg.SB_STAT_STAGE 8 |>.wr mbxU (Reg.MBX_STAT_STATE 2) 2 |>.wr mbxU (Reg.MBX_STAT_LEN 2) (16 + ([] : List Byte).length) |>.wr mbxU (Reg.MBX_SRC_UNIT 2) (77 * 65536 + portU 0) |>.putBytes (mbxBuf 2) ({ cmd := cmdSTART, seq := 3, status := 0, sender := (77 * 65536 + portU 0), reply := false, rch := 9, prov := true, payload := [] } : Minil).bytes, 2, { cmd := cmdSTART, seq := 3, status := 0, sender := (77 * 65536 + portU 0), reply := false, rch := 9, prov := true, payload := [] }, by decide +kernel⟩

theorem met_KeeperJobCommandsComplete_stopJob_take :
    ∃ (s : State) (c : Nat) (m : Minil), (s.commanded c m = true) ∧ (m.cmd = cmdSTOP) :=
  ⟨({ w0 with pwr := {}, job := { w0.job with st := .running } } : State).wr sbU Reg.SB_STAT_STAGE 8 |>.wr mbxU (Reg.MBX_STAT_STATE 2) 2 |>.wr mbxU (Reg.MBX_STAT_LEN 2) (16 + (leBytes 4 1 : List Byte).length) |>.wr mbxU (Reg.MBX_SRC_UNIT 2) (77 * 65536 + portU 0) |>.putBytes (mbxBuf 2) ({ cmd := cmdSTOP, seq := 3, status := 0, sender := (77 * 65536 + portU 0), reply := false, rch := 9, prov := true, payload := leBytes 4 1 } : Minil).bytes, 2, { cmd := cmdSTOP, seq := 3, status := 0, sender := (77 * 65536 + portU 0), reply := false, rch := 9, prov := true, payload := leBytes 4 1 }, by decide +kernel⟩

theorem met_KeeperJobCommandsComplete_stopJob_finish :
    ∃ (s : State) (m : Minil), (s.kpr.run = some m) ∧ (m.rch < 32) ∧ (m.cmd = cmdSTOP) ∧ (s.rd keeperU Reg.PWR_STAT_PSTATE = 0) ∧ (bitAt (leAt m.payload 0 1) 0 = true) :=
  ⟨({ w0 with kpr := { run := some { cmd := cmdSTOP, seq := 3, status := 0, sender := (77 * 65536 + portU 0), reply := false, rch := 9, prov := true, payload := leBytes 4 1 } }, job := { w0.job with st := .stopped } } : State).wr sbU Reg.SB_STAT_STAGE 8 |>.putNum (dramAddr 3 8) 1 9, { cmd := cmdSTOP, seq := 3, status := 0, sender := (77 * 65536 + portU 0), reply := false, rch := 9, prov := true, payload := leBytes 4 1 }, by decide +kernel⟩

theorem met_KeeperJobCommandsComplete_loadJob_take :
    ∃ (s : State) (c : Nat) (m : Minil) (image : List Byte), (s.commanded c m = true) ∧ (m.cmd = cmdLOAD) :=
  ⟨({ w0 with pwr := {} } : State).wr sbU Reg.SB_STAT_STAGE 8 |>.wr mbxU (Reg.MBX_STAT_STATE 2) 2 |>.wr mbxU (Reg.MBX_STAT_LEN 2) (16 + (leBytes 8 (6 * 2 ^ 48) ++ leBytes 8 4 ++ leBytes 8 5 ++ leBytes 8 9 ++ List.replicate 32 0 : List Byte).length) |>.wr mbxU (Reg.MBX_SRC_UNIT 2) (77 * 65536 + portU 0) |>.putBytes (mbxBuf 2) ({ cmd := cmdLOAD, seq := 3, status := 0, sender := (77 * 65536 + portU 0), reply := false, rch := 9, prov := true, payload := leBytes 8 (6 * 2 ^ 48) ++ leBytes 8 4 ++ leBytes 8 5 ++ leBytes 8 9 ++ List.replicate 32 0 } : Minil).bytes, 2, { cmd := cmdLOAD, seq := 3, status := 0, sender := (77 * 65536 + portU 0), reply := false, rch := 9, prov := true, payload := leBytes 8 (6 * 2 ^ 48) ++ leBytes 8 4 ++ leBytes 8 5 ++ leBytes 8 9 ++ List.replicate 32 0 }, [], by decide +kernel⟩

theorem met_KeeperJobCommandsComplete_loadJob_finish :
    ∃ (s : State) (m : Minil) (image : List Byte), (s.kpr.run = some m) ∧ (m.rch < 32) ∧ (m.cmd = cmdLOAD) ∧ (s.rd keeperU Reg.PWR_STAT_PSTATE = 0) :=
  ⟨({ w0 with kpr := { run := some { cmd := cmdLOAD, seq := 3, status := 0, sender := (77 * 65536 + portU 0), reply := false, rch := 9, prov := true, payload := leBytes 8 (6 * 2 ^ 48) ++ leBytes 8 4 ++ leBytes 8 5 ++ leBytes 8 9 ++ List.replicate 32 0 } } } : State).wr sbU Reg.SB_STAT_STAGE 8, { cmd := cmdLOAD, seq := 3, status := 0, sender := (77 * 65536 + portU 0), reply := false, rch := 9, prov := true, payload := leBytes 8 (6 * 2 ^ 48) ++ leBytes 8 4 ++ leBytes 8 5 ++ leBytes 8 9 ++ List.replicate 32 0 }, [1, 2, 3, 4], by decide +kernel⟩

theorem met_KeeperJobCommandsComplete_loadCablingTimeout :
    ∃ (s : State) (m : Minil) (image ck : List Byte), (s.kpr.run = some m) ∧ (m.rch < 32) ∧ (m.cmd = cmdLOAD) ∧ (s.rd keeperU Reg.PWR_STAT_PSTATE = 0) ∧ (s.rcv.step ≠ 5) :=
  ⟨({ w0 with kpr := { run := some { cmd := cmdLOAD, seq := 3, status := 0, sender := (77 * 65536 + portU 0), reply := false, rch := 9, prov := true, payload := leBytes 8 (6 * 2 ^ 48) ++ leBytes 8 4 ++ leBytes 8 5 ++ leBytes 8 9 ++ List.replicate 32 0 } } } : State).wr sbU Reg.SB_STAT_STAGE 8, { cmd := cmdLOAD, seq := 3, status := 0, sender := (77 * 65536 + portU 0), reply := false, rch := 9, prov := true, payload := leBytes 8 (6 * 2 ^ 48) ++ leBytes 8 4 ++ leBytes 8 5 ++ leBytes 8 9 ++ List.replicate 32 0 }, [1, 2, 3, 4], [], by decide +kernel⟩

theorem met_KeeperJobCommandsComplete_restore_take :
    ∃ (s : State) (c : Nat) (m : Minil) (ck : List Byte), (s.commanded c m = true) ∧ (m.cmd = cmdRESTORE) :=
  ⟨({ w0 with pwr := {}, job := { w0.job with st := .loaded } } : State).wr sbU Reg.SB_STAT_STAGE 8 |>.wr mbxU (Reg.MBX_STAT_STATE 2) 2 |>.wr mbxU (Reg.MBX_STAT_LEN 2) (16 + (leBytes 8 12 ++ leBytes 4 1 ++ leBytes 4 3 ++ leBytes 8 (6 * 2 ^ 48 + 2 ^ 41 + 32 * 2 ^ 42) ++ leBytes 8 4 ++ leBytes 8 (6 * 2 ^ 48 + 2 ^ 41 + 32 * 2 ^ 42 + 64) : List Byte).length) |>.wr mbxU (Reg.MBX_SRC_UNIT 2) (77 * 65536 + portU 0) |>.putBytes (mbxBuf 2) ({ cmd := cmdRESTORE, seq := 3, status := 0, sender := (77 * 65536 + portU 0), reply := false, rch := 9, prov := true, payload := leBytes 8 12 ++ leBytes 4 1 ++ leBytes 4 3 ++ leBytes 8 (6 * 2 ^ 48 + 2 ^ 41 + 32 * 2 ^ 42) ++ leBytes 8 4 ++ leBytes 8 (6 * 2 ^ 48 + 2 ^ 41 + 32 * 2 ^ 42 + 64) } : Minil).bytes, 2, { cmd := cmdRESTORE, seq := 3, status := 0, sender := (77 * 65536 + portU 0), reply := false, rch := 9, prov := true, payload := leBytes 8 12 ++ leBytes 4 1 ++ leBytes 4 3 ++ leBytes 8 (6 * 2 ^ 48 + 2 ^ 41 + 32 * 2 ^ 42) ++ leBytes 8 4 ++ leBytes 8 (6 * 2 ^ 48 + 2 ^ 41 + 32 * 2 ^ 42 + 64) }, [], by decide +kernel⟩

theorem met_KeeperJobCommandsComplete_restore_finish :
    ∃ (s : State) (m : Minil) (ck : List Byte), (s.kpr.run = some m) ∧ (m.rch < 32) ∧ (m.cmd = cmdRESTORE) ∧ (s.rd keeperU Reg.PWR_STAT_PSTATE = 0) ∧ (leAt m.payload 8 1 = 1) ∧ (ringOk (leAt m.payload 0x10 8) (leAt m.payload 0x18 8) (leAt m.payload 0x20 8) = true) ∧ (s.elsewhere (leAt m.payload 0x20 8) = true) ∧ (s.job.nlayer = 0) ∧ (s.ues = []) ∧ (s.streams = []) ∧ (ck.length = 592) ∧ (s.ckOk ck 592 (leAt m.payload 0 8) (leAt m.payload 0x0C 2) = true) :=
  ⟨({ w0 with kpr := { run := some { cmd := cmdRESTORE, seq := 3, status := 0, sender := (77 * 65536 + portU 0), reply := false, rch := 9, prov := true, payload := leBytes 8 12 ++ leBytes 4 1 ++ leBytes 4 3 ++ leBytes 8 (6 * 2 ^ 48 + 2 ^ 41 + 32 * 2 ^ 42) ++ leBytes 8 4 ++ leBytes 8 (6 * 2 ^ 48 + 2 ^ 41 + 32 * 2 ^ 42 + 64) } }, job := { w0.job with st := .loaded } } : State).wr sbU Reg.SB_STAT_STAGE 8, { cmd := cmdRESTORE, seq := 3, status := 0, sender := (77 * 65536 + portU 0), reply := false, rch := 9, prov := true, payload := leBytes 8 12 ++ leBytes 4 1 ++ leBytes 4 3 ++ leBytes 8 (6 * 2 ^ 48 + 2 ^ 41 + 32 * 2 ^ 42) ++ leBytes 8 4 ++ leBytes 8 (6 * 2 ^ 48 + 2 ^ 41 + 32 * 2 ^ 42 + 64) }, leBytes 592 0x9930fc112e7a33f600000210000000000000000000000000000000000000000100000000000000050000000000000004000000000000000c000301004b435856, by decide +kernel⟩

theorem met_KeeperFirmwareCommandsComplete_fwStage_take :
    ∃ (s : State) (c : Nat) (m : Minil) (image : List Byte), (s.commanded c m = true) ∧ (m.cmd = cmdFWSTAGE) :=
  ⟨({ w0 with pwr := {}, dkr := { fuse := fuse0, flash := [], staged := some [1] } } : State).wr sbU Reg.SB_STAT_STAGE 8 |>.wr mbxU (Reg.MBX_STAT_STATE 2) 2 |>.wr mbxU (Reg.MBX_STAT_LEN 2) (16 + (leBytes 8 (6 * 2 ^ 48) ++ leBytes 8 576 : List Byte).length) |>.wr mbxU (Reg.MBX_SRC_UNIT 2) (77 * 65536 + portU 0) |>.putBytes (mbxBuf 2) ({ cmd := cmdFWSTAGE, seq := 3, status := 0, sender := (77 * 65536 + portU 0), reply := false, rch := 9, prov := true, payload := leBytes 8 (6 * 2 ^ 48) ++ leBytes 8 576 } : Minil).bytes, 2, { cmd := cmdFWSTAGE, seq := 3, status := 0, sender := (77 * 65536 + portU 0), reply := false, rch := 9, prov := true, payload := leBytes 8 (6 * 2 ^ 48) ++ leBytes 8 576 }, [], by decide +kernel⟩

theorem met_KeeperFirmwareCommandsComplete_fwStage_finish :
    ∃ (s : State) (m : Minil) (image bs : List Byte), (s.kpr.run = some m) ∧ (m.rch < 32) ∧ (m.cmd = cmdFWSTAGE) ∧ (s.rd keeperU Reg.PWR_STAT_PSTATE = 0) ∧ (leAt m.payload 8 8 ≤ imageRegion) ∧ (s.elsewhere (leAt m.payload 0 8) = true) ∧ (bs = slice image 0 (leAt m.payload 8 8)) ∧ (imagePasses s.dkr.fuse bs = true) :=
  ⟨({ w0 with kpr := { run := some { cmd := cmdFWSTAGE, seq := 3, status := 0, sender := (77 * 65536 + portU 0), reply := false, rch := 9, prov := true, payload := leBytes 8 (6 * 2 ^ 48) ++ leBytes 8 576 } }, dkr := { fuse := fuse0, flash := [] } } : State).wr sbU Reg.SB_STAT_STAGE 8, { cmd := cmdFWSTAGE, seq := 3, status := 0, sender := (77 * 65536 + portU 0), reply := false, rch := 9, prov := true, payload := leBytes 8 (6 * 2 ^ 48) ++ leBytes 8 576 }, image0, slice image0 0 576, by refine ⟨?_, ?_, ?_, ?_, ?_, ?_, ?_, image_passes⟩ <;> decide +kernel⟩

theorem met_KeeperFirmwareCommandsComplete_fwCommit_take :
    ∃ (s : State) (c bad : Nat) (m : Minil) (ue : Bool), (s.commanded c m = true) ∧ (m.cmd = cmdFWCOMMIT) :=
  ⟨({ w0 with pwr := {}, dkr := { fuse := fuse0, flash := [], staged := some [1] } } : State).wr sbU Reg.SB_STAT_STAGE 8 |>.wr mbxU (Reg.MBX_STAT_STATE 2) 2 |>.wr mbxU (Reg.MBX_STAT_LEN 2) (16 + (leBytes 4 1 : List Byte).length) |>.wr mbxU (Reg.MBX_SRC_UNIT 2) (77 * 65536 + portU 0) |>.putBytes (mbxBuf 2) ({ cmd := cmdFWCOMMIT, seq := 3, status := 0, sender := (77 * 65536 + portU 0), reply := false, rch := 9, prov := true, payload := leBytes 4 1 } : Minil).bytes, 2, 0, { cmd := cmdFWCOMMIT, seq := 3, status := 0, sender := (77 * 65536 + portU 0), reply := false, rch := 9, prov := true, payload := leBytes 4 1 }, true, by decide +kernel⟩

theorem met_KeeperFirmwareCommandsComplete_fwCommit_finish :
    ∃ (s : State) (m : Minil) (bad : Nat) (bs : List Byte), (s.kpr.run = some m) ∧ (m.rch < 32) ∧ (m.cmd = cmdFWCOMMIT) ∧ (s.rd keeperU Reg.PWR_STAT_PSTATE = 0) ∧ (s.dkr.staged = some bs) ∧ (bad < 2) ∧ (bitAt (leAt m.payload 0 1) 0 = false) ∧ (s.inRecovery = false) ∧ (fwType (slice bs 0 512) ≠ 1) ∧ (imagePasses s.dkr.fuse bs = true) :=
  ⟨({ w0 with kpr := { run := some { cmd := cmdFWCOMMIT, seq := 3, status := 0, sender := (77 * 65536 + portU 0), reply := false, rch := 9, prov := true, payload := leBytes 4 0 } }, dkr := { fuse := fuse0, flash := [], staged := some (slice image0 0 576) } } : State).wr sbU Reg.SB_STAT_STAGE 8, { cmd := cmdFWCOMMIT, seq := 3, status := 0, sender := (77 * 65536 + portU 0), reply := false, rch := 9, prov := true, payload := leBytes 4 0 }, 1, slice image0 0 576, by refine ⟨?_, ?_, ?_, ?_, ?_, ?_, ?_, ?_, ?_, image_passes⟩ <;> decide +kernel⟩

theorem met_KeeperFirmwareCommandsComplete_attest_take :
    ∃ (s : State) (c : Nat) (m : Minil), (s.commanded c m = true) ∧ (m.cmd = cmdATTEST) :=
  ⟨({ w0 with pwr := {} } : State).wr sbU Reg.SB_STAT_STAGE 8 |>.wr mbxU (Reg.MBX_STAT_STATE 2) 2 |>.wr mbxU (Reg.MBX_STAT_LEN 2) (16 + (List.replicate 32 1 ++ leBytes 8 (6 * 2 ^ 48) ++ leBytes 8 1024 : List Byte).length) |>.wr mbxU (Reg.MBX_SRC_UNIT 2) (77 * 65536 + portU 0) |>.putBytes (mbxBuf 2) ({ cmd := cmdATTEST, seq := 3, status := 0, sender := (77 * 65536 + portU 0), reply := false, rch := 9, prov := true, payload := List.replicate 32 1 ++ leBytes 8 (6 * 2 ^ 48) ++ leBytes 8 1024 } : Minil).bytes, 2, { cmd := cmdATTEST, seq := 3, status := 0, sender := (77 * 65536 + portU 0), reply := false, rch := 9, prov := true, payload := List.replicate 32 1 ++ leBytes 8 (6 * 2 ^ 48) ++ leBytes 8 1024 }, by decide +kernel⟩

theorem met_KeeperFirmwareCommandsComplete_attest_finish :
    ∃ (s : State) (m : Minil), (s.kpr.run = some m) ∧ (m.rch < 32) ∧ (m.cmd = cmdATTEST) ∧ (s.rd keeperU Reg.PWR_STAT_PSTATE = 0) ∧ (s.elsewhere (leAt m.payload 0x20 8) = true) :=
  ⟨({ w0 with kpr := { run := some { cmd := cmdATTEST, seq := 3, status := 0, sender := (77 * 65536 + portU 0), reply := false, rch := 9, prov := true, payload := List.replicate 32 1 ++ leBytes 8 (6 * 2 ^ 48) ++ leBytes 8 1024 } } } : State).wr sbU Reg.SB_STAT_STAGE 8, { cmd := cmdATTEST, seq := 3, status := 0, sender := (77 * 65536 + portU 0), reply := false, rch := 9, prov := true, payload := List.replicate 32 1 ++ leBytes 8 (6 * 2 ^ 48) ++ leBytes 8 1024 }, by decide +kernel⟩

theorem met_KeeperFirmwareCommandsComplete_fabricDiscover :
    ∃ (s : State) (c p : Nat) (m : Minil), (s.commanded c m = true) ∧ (m.cmd = cmdDISCOVER) ∧ (s.upPorts = [p]) :=
  ⟨({ w0 with pwr := {} } : State).wr sbU Reg.SB_STAT_STAGE 8 |>.wr mbxU (Reg.MBX_STAT_STATE 2) 2 |>.wr mbxU (Reg.MBX_STAT_LEN 2) (16 + (leBytes 8 (6 * 2 ^ 48) ++ leBytes 8 4096 : List Byte).length) |>.wr mbxU (Reg.MBX_SRC_UNIT 2) (77 * 65536 + portU 0) |>.putBytes (mbxBuf 2) ({ cmd := cmdDISCOVER, seq := 3, status := 0, sender := (77 * 65536 + portU 0), reply := false, rch := 9, prov := true, payload := leBytes 8 (6 * 2 ^ 48) ++ leBytes 8 4096 } : Minil).bytes |>.wr (portU 11) Reg.FAB_STAT_UP 1, 2, 11, { cmd := cmdDISCOVER, seq := 3, status := 0, sender := (77 * 65536 + portU 0), reply := false, rch := 9, prov := true, payload := leBytes 8 (6 * 2 ^ 48) ++ leBytes 8 4096 }, by decide +kernel⟩

theorem met_KeeperFirmwareCommandsComplete_fabricRouteSet_take :
    ∃ (s : State) (c : Nat) (m : Minil) (set : List Byte), (s.commanded c m = true) ∧ (m.cmd = cmdROUTESET) :=
  ⟨({ w0 with pwr := {} } : State).wr sbU Reg.SB_STAT_STAGE 8 |>.wr mbxU (Reg.MBX_STAT_STATE 2) 2 |>.wr mbxU (Reg.MBX_STAT_LEN 2) (16 + (leBytes 8 (6 * 2 ^ 48) ++ leBytes 8 0x8040 : List Byte).length) |>.wr mbxU (Reg.MBX_SRC_UNIT 2) (77 * 65536 + portU 0) |>.putBytes (mbxBuf 2) ({ cmd := cmdROUTESET, seq := 3, status := 0, sender := (77 * 65536 + portU 0), reply := false, rch := 9, prov := true, payload := leBytes 8 (6 * 2 ^ 48) ++ leBytes 8 0x8040 } : Minil).bytes, 2, { cmd := cmdROUTESET, seq := 3, status := 0, sender := (77 * 65536 + portU 0), reply := false, rch := 9, prov := true, payload := leBytes 8 (6 * 2 ^ 48) ++ leBytes 8 0x8040 }, [], by decide +kernel⟩

theorem met_KeeperFirmwareCommandsComplete_fabricRouteSet_finish :
    ∃ (s : State) (m : Minil) (set bs : List Byte), (s.kpr.run = some m) ∧ (m.rch < 32) ∧ (m.cmd = cmdROUTESET) ∧ (s.rd keeperU Reg.PWR_STAT_PSTATE = 0) ∧ (0x8040 ≤ leAt m.payload 8 8) ∧ (leAt m.payload 8 8 ≤ 0x8040 + 8 * 16384 + 4 * 262144) ∧ (s.elsewhere (leAt m.payload 0 8) = true) ∧ (bs = slice set 0 (leAt m.payload 8 8)) :=
  ⟨({ w0 with kpr := { run := some { cmd := cmdROUTESET, seq := 3, status := 0, sender := (77 * 65536 + portU 0), reply := false, rch := 9, prov := true, payload := leBytes 8 (6 * 2 ^ 48) ++ leBytes 8 0x8040 } } } : State).wr sbU Reg.SB_STAT_STAGE 8, { cmd := cmdROUTESET, seq := 3, status := 0, sender := (77 * 65536 + portU 0), reply := false, rch := 9, prov := true, payload := leBytes 8 (6 * 2 ^ 48) ++ leBytes 8 0x8040 }, [], slice [] 0 0x8040, by refine ⟨?_, ?_, ?_, ?_, ?_, ?_, ?_, rfl⟩ <;> decide +kernel⟩

theorem met_KeeperFirmwareCommandsComplete_resetUnit_take :
    ∃ (s : State) (c p : Nat) (m : Minil), (s.commanded c m = true) ∧ (m.cmd = cmdRESETUNIT) ∧ (p < 12) ∧ (leAt m.payload 0 4 % 65536 = portU p) :=
  ⟨({ w0 with pwr := {} } : State).wr sbU Reg.SB_STAT_STAGE 8 |>.wr mbxU (Reg.MBX_STAT_STATE 2) 2 |>.wr mbxU (Reg.MBX_STAT_LEN 2) (16 + (leBytes 4 (portU 11) : List Byte).length) |>.wr mbxU (Reg.MBX_SRC_UNIT 2) (77 * 65536 + portU 0) |>.putBytes (mbxBuf 2) ({ cmd := cmdRESETUNIT, seq := 3, status := 0, sender := (77 * 65536 + portU 0), reply := false, rch := 9, prov := true, payload := leBytes 4 (portU 11) } : Minil).bytes |>.wr (portU 11) Reg.FAB_STAT_UP 1, 2, 11, { cmd := cmdRESETUNIT, seq := 3, status := 0, sender := (77 * 65536 + portU 0), reply := false, rch := 9, prov := true, payload := leBytes 4 (portU 11) }, by decide +kernel⟩

theorem met_KeeperFirmwareCommandsComplete_resetUnit_finish :
    ∃ (s : State) (die core : Nat) (m : Minil), (s.kpr.run = some m) ∧ (m.rch < 32) ∧ (m.cmd = cmdRESETUNIT) ∧ (s.rd keeperU Reg.PWR_STAT_PSTATE = 0) ∧ (die < 24) ∧ (core < 16) ∧ (leAt m.payload 0 4 % 65536 = seqU die core) :=
  ⟨({ w0 with kpr := { run := some { cmd := cmdRESETUNIT, seq := 3, status := 0, sender := (77 * 65536 + portU 0), reply := false, rch := 9, prov := true, payload := leBytes 4 (seqU 23 15) } }, cores := [(383, { tags := [(3, .out)], nextDue := 5 })] } : State).wr sbU Reg.SB_STAT_STAGE 8 |>.wr (seqU 23 15) Reg.SEQ_STAT_HALTED 1, 23, 15, { cmd := cmdRESETUNIT, seq := 3, status := 0, sender := (77 * 65536 + portU 0), reply := false, rch := 9, prov := true, payload := leBytes 4 (seqU 23 15) }, by decide +kernel⟩

theorem met_KeeperMessagesComplete_replyResend_taken :
    ∃ (s : State) (m : OutMsg), (s.kpr.msgs = [m]) ∧ (s.isHere m.dst m.prov = false) :=
  ⟨{ w0 with kpr := { msgs := [{ dst := 9, prov := false, chan := 3, data := [1, 2], tries := 4 }] } }, { dst := 9, prov := false, chan := 3, data := [1, 2], tries := 4 }, by decide⟩

theorem met_KeeperMessagesComplete_replyResend_busy :
    ∃ (s : State) (m : OutMsg), (s.kpr.msgs = [m]) ∧ (s.isHere m.dst m.prov = false) ∧ (m.tries < 9999) :=
  ⟨{ w0 with kpr := { msgs := [{ dst := 9, prov := false, chan := 3, data := [1, 2], tries := 4 }] } }, { dst := 9, prov := false, chan := 3, data := [1, 2], tries := 4 }, by decide⟩

theorem met_KeeperMessagesComplete_minilReplyReceive :
    ∃ (s : State) (c : Nat) (m : Minil) (a : Ask) (l : List Ask) (image ck : List Byte), (s.firmwareRuns = true) ∧ (s.nextChan = some c) ∧ (s.msgIn c = m) ∧ (m.reply = true) ∧ (m.status = 0) ∧ (m.sender % 65536 = keeperU) ∧ (s.kpr.asks = a :: l) ∧ (a.seq = m.seq) ∧ (a.cmd = m.cmd) ∧ (a.prov = true ∨ m.sender / 65536 = a.dst) ∧ (a.cmd ≠ cmdQUERY) ∧ (a.cmd ≠ cmdRESETUNIT) ∧ (s.rcv.step = 0) ∧ (s.rd mbxU (Reg.MBX_SRC_UNIT c) = m.sender) :=
  ⟨({ w0 with kpr := { asks := [⟨6, 9, false, cmdSTOP, 2⟩, ⟨7, 9, false, cmdSTOP, 3⟩] } } : State).wr sbU Reg.SB_STAT_STAGE 8 |>.wr mbxU (Reg.MBX_STAT_STATE 2) 2 |>.wr mbxU (Reg.MBX_STAT_LEN 2) 16 |>.wr mbxU (Reg.MBX_SRC_UNIT 2) (9 * 65536 + keeperU) |>.putBytes (mbxBuf 2) ({ cmd := cmdSTOP, seq := 6, status := 0, sender := 9 * 65536 + keeperU, reply := true, rch := 0, prov := false, payload := [] } : Minil).bytes, 2, { cmd := cmdSTOP, seq := 6, status := 0, sender := 9 * 65536 + keeperU, reply := true, rch := 0, prov := false, payload := [] }, ⟨6, 9, false, cmdSTOP, 2⟩, [⟨7, 9, false, cmdSTOP, 3⟩], [], [], by decide +kernel⟩

theorem met_KeeperMessagesComplete_hostRingConsPoll :
    ∃ (s : State) (cons : Nat) (d : CkDrain), (s.ck.drain = some d) ∧ (d.req.kind = 1) ∧ (d.fault = 0) ∧ (d.pages = 0) ∧ (0 < d.data.length) ∧ (d.data.length ≤ 64) ∧ (1 ≤ d.req.size) ∧ (d.req.dest % 4096 = 0) ∧ (d.req.ctrl % 16 = 0) ∧ (s.elsewhere d.req.dest = true) ∧ (s.elsewhere d.req.ctrl = true) :=
  ⟨{ w0 with ck := { drain := some ⟨⟨1, 6 * 2 ^ 48 + 4096, 4, 6 * 2 ^ 48, 9, 3, 7, false⟩, 12, [1, 2, 3], 0, 0⟩ } }, 0, ⟨⟨1, 6 * 2 ^ 48 + 4096, 4, 6 * 2 ^ 48, 9, 3, 7, false⟩, 12, [1, 2, 3], 0, 0⟩, by decide⟩

theorem met_KeeperMessagesComplete_stepWatchdogExpiry :
    ∃ (s : State), (s.fix.watch = true) ∧ (s.running = true) :=
  ⟨{ w0 with job := { w0.job with st := .running }, fix := { watch := true } }, by decide⟩

theorem met_KeeperMessagesComplete_stepWatchdogExpiry_near :
    ∃ (s : State), (s.fix.watch = true) :=
  ⟨{ w0 with job := { w0.job with st := .running }, fix := { watch := true } }, by decide⟩

theorem met_RecoveryCompletes_fogReceive :
    ∃ (s : State) (port : Nat) (data : List Byte) (f : Fog), (f = Fog.ofBytes data) ∧ (s.firmwareRuns = true) ∧ ((f.origin, f.fseq) ∉ s.log.seen) ∧ (s.running = true) ∧ (f.epoch = s.rd keeperU Reg.PLC_EPOCH_VALUE) ∧ (s.rd keeperU Reg.RCV_STAT_STATE = 1) :=
  ⟨({ w0 with job := { w0.job with st := .running } } : State).wr sbU Reg.SB_STAT_STAGE 8 |>.wr keeperU Reg.RCV_STAT_STATE 1, 3, leBytes 2 9 ++ leBytes 2 4 ++ leBytes 2 0x22 ++ leBytes 2 0 ++ leBytes 4 0 ++ leBytes 4 6 ++ leBytes 8 3 ++ leBytes 8 0, Fog.ofBytes (leBytes 2 9 ++ leBytes 2 4 ++ leBytes 2 0x22 ++ leBytes 2 0 ++ leBytes 4 0 ++ leBytes 4 6 ++ leBytes 8 3 ++ leBytes 8 0), by decide⟩

theorem met_RecoveryCompletes_fogReceive_stale :
    ∃ (s : State) (port : Nat) (data : List Byte) (f : Fog), (f = Fog.ofBytes data) ∧ (s.firmwareRuns = true) ∧ ((f.origin, f.fseq) ∉ s.log.seen) ∧ (s.job.st ≠ .noJob) ∧ (f.epoch ≠ s.rd keeperU Reg.PLC_EPOCH_VALUE) :=
  ⟨({ w0 with job := { w0.job with st := .running } } : State).wr sbU Reg.SB_STAT_STAGE 8 |>.wr keeperU Reg.PLC_EPOCH_VALUE 1, 3, leBytes 2 9 ++ leBytes 2 4 ++ leBytes 2 0x22 ++ leBytes 2 0 ++ leBytes 4 0 ++ leBytes 4 6 ++ leBytes 8 3 ++ leBytes 8 0, Fog.ofBytes (leBytes 2 9 ++ leBytes 2 4 ++ leBytes 2 0x22 ++ leBytes 2 0 ++ leBytes 4 0 ++ leBytes 4 6 ++ leBytes 8 3 ++ leBytes 8 0), by decide⟩

theorem met_RecoveryCompletes_reliefTakeover :
    ∃ (s : State) (c : Nat) (m : Minil) (image ck : List Byte), (s.commanded c m = true) ∧ (m.cmd = cmdRELIEF) ∧ (s.rcv.halts = []) ∧ (1 < s.job.nmod) :=
  ⟨({ w0 with pwr := {}, job := { w0.job with st := .stopped, nmod := 7 } } : State).wr sbU Reg.SB_STAT_STAGE 8 |>.wr mbxU (Reg.MBX_STAT_STATE 2) 2 |>.wr mbxU (Reg.MBX_STAT_LEN 2) (16 + (leBytes 4 1 ++ leBytes 4 8 : List Byte).length) |>.wr mbxU (Reg.MBX_SRC_UNIT 2) (77 * 65536 + portU 0) |>.putBytes (mbxBuf 2) ({ cmd := cmdRELIEF, seq := 3, status := 0, sender := (77 * 65536 + portU 0), reply := false, rch := 9, prov := true, payload := leBytes 4 1 ++ leBytes 4 8 } : Minil).bytes |>.wr keeperU Reg.RCV_STAT_STATE 2, 2, { cmd := cmdRELIEF, seq := 3, status := 0, sender := (77 * 65536 + portU 0), reply := false, rch := 9, prov := true, payload := leBytes 4 1 ++ leBytes 4 8 }, [], [], by decide +kernel⟩

theorem met_RecoveryCompletes_surveyReplyReceive :
    ∃ (s : State) (n k ckjob : Nat), (s.rcv.step = 1) ∧ (n ∈ s.rcv.waiting) ∧ (k ∈ s.rcv.waiting) ∧ (k ≠ n) ∧ (ckjob < 2 ^ 64 - 1) :=
  ⟨{ w0 with rcv := { step := 1, waiting := [1, 2] } }, 2, 1, 2 ^ 64 - 2, by decide⟩

theorem met_RecoveryCompletes_surveyReplyTimeout :
    ∃ (s : State) (n k : Nat), (s.rcv.step = 1) ∧ (n ∈ s.rcv.waiting) ∧ (k ∈ s.rcv.waiting) ∧ (k ≠ n) :=
  ⟨{ w0 with rcv := { step := 1, waiting := [1, 2] } }, 2, 1, by decide⟩

theorem met_RecoveryCompletes_surveyReplyTimeout_relief :
    ∃ (s : State) (n : Nat) (a b : Ask), (s.kpr.asks = [a, b]) ∧ (a = ⟨a.seq, n, true, cmdQUERY, a.member⟩) ∧ (b.cmd ≠ cmdQUERY) :=
  ⟨{ w0 with kpr := { asks := [⟨4, 2, true, cmdQUERY, 3⟩, ⟨5, 1, false, cmdSTOP, 1⟩] } }, 2, ⟨4, 2, true, cmdQUERY, 3⟩, ⟨5, 1, false, cmdSTOP, 1⟩, by decide⟩

theorem met_RecoveryCompletes_reliefCabled :
    ∃ (s : State) (n : Nat), (s.rcv.step = 3) ∧ ((s.reliefOf n).isSome = true) ∧ (n ∉ s.rcv.cabled) ∧ (s.quiet = false) :=
  ⟨{ w0 with rcv := { step := 3, assigned := [(2, 8)], waiting := [1] } }, 2, by decide⟩

theorem met_RecoveryCompletes_cableWaitExpiry :
    ∃ (s : State) (n : Nat), (s.rcv.step = 3) ∧ (s.quiet = true) ∧ (s.uncabled = some n) ∧ ((s.reliefOf n).isSome = true) ∧ (s.rcv.again = false) ∧ (s.kpr.run = none) :=
  ⟨{ w0 with rcv := { step := 3, assigned := [(2, 8)] }, log := { w0.log with faults := [(2, 2)] } }, 2, by decide⟩

theorem met_DoorbellWriters_dbClr :
    ∃ (s : State) (src bits b : Nat), (b < 32) :=
  ⟨({ w0 with bridge := true, provId := 9 } : State).wr mbxU Reg.DB_STAT_BITS 0xFFFFFFFF, 9 * 65536 + portU 0, 0x8000FF00, 31, by decide⟩

theorem met_DoorbellWriters_dbMaskWrite :
    ∃ (s : State) (src bits b : Nat), (b < 32) :=
  ⟨({ w0 with bridge := true, provId := 9 } : State).wr mbxU Reg.DB_STAT_BITS 0xFFFFFFFF, 9 * 65536 + portU 0, 0x8000FF00, 15, by decide⟩

theorem met_DoorbellWriters_dbSet :
    ∃ (s : State) (bits b : Nat), (b < 32) ∧ ((∀ e ∈ s.apps, e.2.wait = none)) :=
  ⟨w0.wr mbxU Reg.DB_STAT_BITS 5, 0x80000000, 31, by decide⟩

theorem met_UnknownDiesAnswerXlate_registerWrite :
    ∃ (s : State) (src u off : Nat) (data : List Byte), (40 ≤ dieOf u) :=
  ⟨w0, 7, unitOf 40 0 0, 0, [1, 2, 3, 4], by decide⟩

theorem met_UnknownDiesAnswerXlate_rcFieldRead :
    ∃ (s : State) (src u off : Nat), (40 ≤ dieOf u) :=
  ⟨w0, 7, unitOf 63 15 63, 0, by decide⟩

theorem met_UnknownDiesAnswerXlate_loCaptureRead :
    ∃ (s : State) (src u off : Nat) (wide : Bool), (40 ≤ dieOf u) :=
  ⟨w0, 7, unitOf 63 15 63, 4, true, by decide⟩

theorem met_UnknownDiesAnswerXlate_packetArrive :
    ∃ (s : State) (src taddr len : Nat) (write : Bool) (data : List Byte), (taModule taddr = s.job.modId) ∧ (40 ≤ taDie taddr) :=
  ⟨w0, 7, w0.unitTarget (unitOf 40 0 0) 64, 4, true, [1, 2, 3, 4], by decide⟩

theorem met_JtagPortCloses_mbxKrst :
    ∃ (s : State) (src key : Nat), (s.isHost src = true) ∧ (key % 65536 = 0x4B52) :=
  ⟨({ w0 with bridge := true, provId := 9 } : State).wr dkrU Reg.DKR_STAT_JTAG_OPEN 1, 9 * 65536 + portU 0, 0x4B52, by decide⟩

theorem met_JtagPortCloses_modRstNRelease :
    ∃ (s : State) (st n : Nat) (near : Bool), (s.sb.low = some st) ∧ (s.sb.good = true) ∧ (usTicks ≤ n) :=
  ⟨({ w0 with sb := { good := true, low := some 8 } } : State).wr dkrU Reg.DKR_STAT_JTAG_OPEN 1, 8, coldTicks, true, by decide⟩

theorem met_JtagPortCloses_powerGoodFall :
    ∃ (s : State) (ok : Bool), (s.sb.good = true) :=
  ⟨({ w0 with sb := { good := true } } : State).wr dkrU Reg.DKR_STAT_JTAG_OPEN 1, true, by decide⟩

theorem met_JtagPortCloses_pllLossOfLock :
    ∃ (s : State), (s.sb.good = true) ∧ (s.rd clkU Reg.CLK_STAT_ROOT_LOCK = 1) :=
  ⟨({ w0 with sb := { good := true } } : State).wr dkrU Reg.DKR_STAT_JTAG_OPEN 1 |>.wr clkU Reg.CLK_STAT_ROOT_LOCK 1, by decide⟩

theorem met_JtagPortCloses_loadJob :
    ∃ (s : State) (c : Nat) (m : Minil) (image : List Byte), (s.standing c m = true) ∧ (m.cmd = cmdLOAD) ∧ (s.rd dkrU Reg.DKR_STAT_JTAG_OPEN = 1) :=
  ⟨({ w0 with pwr := {} } : State).wr sbU Reg.SB_STAT_STAGE 8 |>.wr mbxU (Reg.MBX_STAT_STATE 2) 2 |>.wr mbxU (Reg.MBX_STAT_LEN 2) (16 + (leBytes 8 (6 * 2 ^ 48) ++ leBytes 8 4 ++ leBytes 8 5 ++ leBytes 8 9 ++ List.replicate 32 0 : List Byte).length) |>.wr mbxU (Reg.MBX_SRC_UNIT 2) (77 * 65536 + portU 0) |>.putBytes (mbxBuf 2) ({ cmd := cmdLOAD, seq := 3, status := 0, sender := (77 * 65536 + portU 0), reply := false, rch := 9, prov := true, payload := leBytes 8 (6 * 2 ^ 48) ++ leBytes 8 4 ++ leBytes 8 5 ++ leBytes 8 9 ++ List.replicate 32 0 } : Minil).bytes |>.wr dkrU Reg.DKR_STAT_JTAG_OPEN 1, 2, { cmd := cmdLOAD, seq := 3, status := 0, sender := (77 * 65536 + portU 0), reply := false, rch := 9, prov := true, payload := leBytes 8 (6 * 2 ^ 48) ++ leBytes 8 4 ++ leBytes 8 5 ++ leBytes 8 9 ++ List.replicate 32 0 }, [], by decide +kernel⟩

theorem met_JtagPortCloses_loadJob_admitted :
    ∃ (s : State) (c : Nat) (m : Minil) (image : List Byte), (s.commanded c m = true) ∧ (m.cmd = cmdLOAD) :=
  ⟨({ w0 with pwr := {} } : State).wr sbU Reg.SB_STAT_STAGE 8 |>.wr mbxU (Reg.MBX_STAT_STATE 2) 2 |>.wr mbxU (Reg.MBX_STAT_LEN 2) (16 + (leBytes 8 (6 * 2 ^ 48) ++ leBytes 8 4 ++ leBytes 8 5 ++ leBytes 8 9 ++ List.replicate 32 0 : List Byte).length) |>.wr mbxU (Reg.MBX_SRC_UNIT 2) (77 * 65536 + portU 0) |>.putBytes (mbxBuf 2) ({ cmd := cmdLOAD, seq := 3, status := 0, sender := (77 * 65536 + portU 0), reply := false, rch := 9, prov := true, payload := leBytes 8 (6 * 2 ^ 48) ++ leBytes 8 4 ++ leBytes 8 5 ++ leBytes 8 9 ++ List.replicate 32 0 } : Minil).bytes, 2, { cmd := cmdLOAD, seq := 3, status := 0, sender := (77 * 65536 + portU 0), reply := false, rch := 9, prov := true, payload := leBytes 8 (6 * 2 ^ 48) ++ leBytes 8 4 ++ leBytes 8 5 ++ leBytes 8 9 ++ List.replicate 32 0 }, [], by decide +kernel⟩

theorem met_JtagPortCloses_dkrUnlock :
    ∃ (s : State) (tok : List Byte), (s.sb.good = true) :=
  ⟨({ w0 with sb := { good := true } } : State), [], by decide⟩

end
end

section
/-!
Where accesses complete, and what an access to a die that is not there answers (00_scope R9, R12).
-/
namespace Sys2Proof.Machine

/-! ### A register store that lists a field at its reset value (O1) -/

/-- A write of a field's reset value takes its key off the register store: a field at the same place with another reset
value reads as that value after it, whatever stood there. -/
theorem State.rd_wr_reset (s : State) (u : Nat) (f g : Field) (hk : fieldKey u g = fieldKey u f)
    (hf : f.reset < 2 ^ f.width) : (s.wr u f f.reset).rd u g = g.reset := by
  simp [State.rd, State.wr, Nat.mod_eq_of_lt hf, mset, mget_mdel, hk]

/-- A state whose register store lists SEQ_PC of a core at its reset value: a listing that a write of the field never makes,
in a state that the statement's quantifier admits all the same. -/
def pcListedAtReset : State := { regs := [(fieldKey (seqU 0 0) Reg.SEQ_PC_PC, Reg.SEQ_PC_PC.reset)] }

/-- The place of SEQ_PC with another reset value. -/
def pcOtherReset : Field := { Reg.SEQ_PC_PC with reset := 1 }

/-- A write of the read-only SEQ_PC stores the value that it reads, which is its reset value, and is answered. -/
theorem registerWrite_pcListedAtReset :
    exec (.registerWrite 0 (seqU 0 0) 4 ⟨leBytes 4 0, []⟩) pcListedAtReset =
      done (pcListedAtReset.wr (seqU 0 0) Reg.SEQ_PC_PC Reg.SEQ_PC_PC.reset).ok := rfl

/-! ### The log (18_faults_and_relief R424, R426) -/

@[simp] theorem State.pushEntry_out (s : State) (e : LogEntry) : (s.pushEntry e).out = s.out := by
  unfold State.pushEntry
  extract_lets s1 g2 s2 g3 s3 g4 s4
  have h1 : s1.out = s.out := by unfold s1; split <;> simp
  have h3 : s3.out = s.out := by unfold s3; (repeat' split) <;> simpa [s2] using h1
  have h4 : s4.out = s.out := by unfold s4; split <;> simpa using h3
  simpa [State.logStat] using h4

/-- An entry that is pushed is the newest. -/
theorem State.pushEntry_head (s : State) (e : LogEntry) : (s.pushEntry e).log.ring.head? = some e := by
  unfold State.pushEntry
  extract_lets s1 g2 s2 g3 s3 g4 s4
  have h3 : s3.log.ring = s2.log.ring := by unfold s3; (repeat' split) <;> rfl
  have h4 : s4.log.ring = s3.log.ring := by unfold s4; split <;> rfl
  simp [State.logStat, h4, h3, s2]

@[simp] theorem State.logEvent_out (s : State) (code u d0 d1 d2 d3 : Nat) :
    (s.logEvent code u d0 d1 d2 d3).out = s.out := by
  unfold State.logEvent
  simp only []
  (repeat' split) <;> simp

/-- An event, merged or not, leaves an entry of its code newest in the log. -/
theorem State.logEvent_head_code (s : State) (code u d0 d1 d2 d3 : Nat) :
    (s.logEvent code u d0 d1 d2 d3).log.ring.head?.map LogEntry.code = some code := by
  unfold State.logEvent
  simp only []
  split
  next e r heq =>
    split
    next hm =>
      obtain ⟨⟨hc, -⟩, -⟩ : (e.code = code ∧ _) ∧ _ := by simpa [LogEntry.merges] using hm
      simp [hc]
    next => rw [State.pushEntry_head]; rfl
  next => rw [State.pushEntry_head]; rfl

/-- An event changes no byte of memory. -/
theorem State.logEvent_get (s : State) (code u d0 d1 d2 d3 a : Nat) :
    Memory.get (s.logEvent code u d0 d1 d2 d3).mem a = Memory.get s.mem a :=
  s.logEvent_frame code u d0 d1 d2 d3 .mem (by simp) a

/-! ### Accesses that name nothing (O36) -/

/-- An access is answered with XLATE_FAULT and logged, and no byte of memory changes. -/
def AnsweredXlate (s t : State) : Prop :=
  t.out = .answer eXLATE 0 [] :: s.out ∧ (t.log.ring.head?.map LogEntry.code) = some eXLATE ∧ SameMemBut 0 0 s t

/-- The answer of an access that names nothing. -/
theorem answer_noSuch (s : State) (u off : Nat) : AnsweredXlate s (answer (s.noSuch u off)) :=
  ⟨by simp [answer, State.noSuch, Ans.bad, State.answerAs, State.emit, eXLATE],
    (s.logEvent_head_code ..), fun b _ => s.logEvent_get _ _ _ _ _ _ b⟩

/-- A command whose meaning is `done` of a state that is so answered completes so. -/
theorem AnsweredXlate.yields {c : Instr} {s r : State} (h : AnsweredXlate s r) (hc : exec c s = done r) :
    Yields c s (AnsweredXlate s) := by
  obtain ⟨hout, hlog, hmem⟩ := h
  exact ⟨_, hc.trans (done_next r), hout, hlog, fun b hb => (Memory.get_canon r.mem b).trans (hmem b hb)⟩

/-! ### Dies 40 and above (00_scope R9; 01_module_dies_clocks Table 1-3) -/

theorem ne_of_die_ge {u w : Nat} (h : 40 ≤ dieOf u) (hw : dieOf w < 40) : u ≠ w := by
  rintro rfl
  omega

/-- Of such a die the model's endpoint table names the router's number alone. -/
theorem epExists_of_die_ge {u : Nat} (h : 40 ≤ dieOf u) : epExists u = (coreOf u == 0 && epOf u == 63) := by
  have h24 : ¬ dieOf u < 24 := by omega
  have h32 : ¬ dieOf u < 32 := by omega
  have h38 : ¬ dieOf u < 38 := by omega
  have hI : dieOf u ≠ 38 := by omega
  have hK : (dieOf u == 39) = false := beq_false_of_ne (by omega)
  simp [epExists, h24, h32, h38, hI, hK]

/-- That number has no registers. -/
theorem State.regThere_of_die_ge (s : State) {u : Nat} (off : Nat) (h : 40 ≤ dieOf u) (he : epExists u = true) :
    s.regThere u off = false := by
  obtain ⟨-, h63⟩ : coreOf u = 0 ∧ epOf u = 63 := by simpa [epExists_of_die_ge h] using he
  have h24 : ¬ dieOf u < 24 := by omega
  have h32 : ¬ dieOf u < 32 := by omega
  have h38 : ¬ dieOf u < 38 := by omega
  have hI : dieOf u ≠ 38 := by omega
  simp [State.regThere, State.regMap, fieldsAt, h63, h24, h32, h38, hI]

/-- A read at a unit of such a die names nothing. -/
theorem State.epRead_of_die_ge (s : State) (src : Nat) {u : Nat} (off n : Nat) (h : 40 ≤ dieOf u) :
    s.epRead src u off n = s.noSuch u off := by
  cases he : epExists u
  case false => simp [State.epRead, he]
  case true =>
    have h24 : ¬ dieOf u < 24 := by omega
    have hL : dieOf u ≠ 37 := by omega
    have hI : dieOf u ≠ 38 := by omega
    have hread : s.readRegs u off n = (s, .bad eXLATE) := by
      simp [State.readRegs, s.regThere_of_die_ge _ h he]
    simp [State.epRead, he, h24, hL, hI, hread, Ans.bad, ne_of_die_ge h (w := keeperU) (by decide),
      ne_of_die_ge h (w := rdU 0) (by decide), ne_of_die_ge h (w := mbxU) (by decide),
      ne_of_die_ge h (w := portU 0) (by decide)]

/-- A write at a unit of such a die names nothing. -/
theorem State.epWrite_of_die_ge (s : State) (src : Nat) {u : Nat} (off : Nat) (bs : List Byte) (h : 40 ≤ dieOf u) :
    s.epWrite src u off bs = s.noSuch u off := by
  cases he : epExists u
  case false => simp [State.epWrite, he]
  case true =>
    have h24 : ¬ dieOf u < 24 := by omega
    have h38 : ¬ dieOf u < 38 := by omega
    have hL : dieOf u ≠ 37 := by omega
    have hm : u ≠ mbxU := ne_of_die_ge h (by decide)
    have hdoor : s.epDoor src u off bs = none := by simp [State.epDoor, h38, hL, hm]
    simp [State.epWrite, he, h24, hdoor, s.regThere_of_die_ge _ h he, ne_of_die_ge h (w := keeperU) (by decide),
      ne_of_die_ge h (w := rdU 0) (by decide), ne_of_die_ge h (w := portU 0) (by decide)]

/-- The die of the endpoint that a target address names. -/
theorem dieOf_taUnit (t : Nat) : dieOf (taUnit t) = taDie t := by
  have hd : taDie t < 64 := Nat.mod_lt _ (by decide)
  have hc : bitsOf t 33 30 < 16 := Nat.mod_lt _ (by decide)
  have he : bitsOf t 29 24 < 64 := Nat.mod_lt _ (by decide)
  unfold dieOf taUnit unitOf
  omega

/-- An access to a target address of such a die names nothing, whether it means an endpoint or DRAM. -/
theorem State.serveAt_of_die_ge (s : State) (src t : Nat) (data : Option (List Byte)) (n : Nat) (h : 40 ≤ taDie t) :
    s.serveAt src t data n = s.noSuch (taUnit t) (taOff t) := by
  have hu : 40 ≤ dieOf (taUnit t) := (dieOf_taUnit t).symm ▸ h
  have h24 : ¬ taDie t < 24 := by omega
  cases hn : taNames t
  case false => simp [State.serveAt, hn]
  case true =>
    cases hep : taEp t
    case false => simp [taNames, hep, h24] at hn
    case true =>
      cases data with
      | none => simp [State.serveAt, hn, hep, s.epRead_of_die_ge src _ n hu]
      | some bs => simp [State.serveAt, hn, hep, s.epWrite_of_die_ge src _ bs hu]

/-- A packet to such a die is not kept for a wake: it is answered at once. -/
theorem State.arriveTx_of_die_ge (s : State) (t : Txn) (h : 40 ≤ taDie t.taddr) :
    s.arriveTx t = answer (s.noSuch (taUnit t.taddr) (taOff t.taddr)) t.group := by
  have h24 : ¬ dieOf (taUnit t.taddr) < 24 := by rw [dieOf_taUnit]; omega
  have hg : s.gated (taDie t.taddr) = false := by
    have h32 : ¬ taDie t.taddr < 32 := by omega
    have hI : taDie t.taddr ≠ 38 := by omega
    simp [State.gated, h32, hI]
  have hheld : (s.noSuch (taUnit t.taddr) (taOff t.taddr)).2.held = none := rfl
  simp [State.arriveTx, hg, State.serve, h24, s.serveAt_of_die_ge _ _ _ _ h, hheld]

/-! ### The obligations -/

/-- Refutes O1: after a write of the read-only SEQ_PC no register field is to read otherwise. Where the register store lists
the field's key with its reset value, the write takes the key off, and a field at the same place with another reset value
reads 1 where it read 0. -/
theorem not_accessesComplete : ¬ Obligations.AccessesComplete := by
  unfold Obligations.AccessesComplete
  intro h
  obtain ⟨-, -, -, -, -, -, -, -, -, -, -, -, -, -, hro, -⟩ := h
  obtain ⟨t, ht, -, hregs, -⟩ := hro pcListedAtReset 0 0 0 0 (by decide) (by decide) (by decide)
  rw [registerWrite_pcListedAtReset, done_next, Host.Outcome.next.injEq] at ht
  have hsame : t.rd (seqU 0 0) pcOtherReset = pcListedAtReset.rd (seqU 0 0) pcOtherReset := hregs _ _ (by simp)
  have hafter : t.rd (seqU 0 0) pcOtherReset = 1 :=
    ht ▸ pcListedAtReset.rd_wr_reset (seqU 0 0) Reg.SEQ_PC_PC pcOtherReset rfl (by decide)
  have hbefore : pcListedAtReset.rd (seqU 0 0) pcOtherReset = 0 := by decide
  omega

/-- Settles O36: each access to such a die names nothing, and an access that names nothing is answered with XLATE_FAULT
and logged. -/
theorem unknownDiesAnswerXlate : Obligations.UnknownDiesAnswerXlate := by
  unfold Obligations.UnknownDiesAnswerXlate
  refine ⟨fun s src u off data h => ?_, fun s src u off h => ?_, fun s src u off wide h => ?_,
    fun s src taddr len write data _ h => ?_⟩
  · refine (answer_noSuch s u off).yields ?_
    simp [exec, execRegisterWrite, s.epWrite_of_die_ge src off data h, State.hardSet, forEach]
  · refine (answer_noSuch s u off).yields ?_
    simp [exec, execRcFieldRead, s.epRead_of_die_ge src off 4 h, forEach]
  · refine (answer_noSuch s u off).yields ?_
    simp [exec, execLoCaptureRead, s.epRead_of_die_ge src off _ h]
  · refine (answer_noSuch s (taUnit taddr) (taOff taddr)).yields ?_
    simp only [exec, execPacketArrive, State.netError]
    exact congrArg done (s.arriveTx_of_die_ge ⟨src, taddr, _, len, 0⟩ h)

end Sys2Proof.Machine
end

section
/-!
Steps, leaf sets and the frames of accesses (00_scope R12, R14; 01_module_dies_clocks R21, R28, R34).
-/
namespace Sys2Proof.Machine

/-! ### Registers named by a list -/

theorem SameRegsBut.of_self (l : List (Nat × Field)) (s : State) : SameRegsBut l s s := fun _ _ _ => rfl

/-- A write of a field of the list keeps the fields outside it. -/
theorem SameRegsBut.wr {l : List (Nat × Field)} {s t : State} (h : SameRegsBut l s t) {u : Nat} {f : Field} (v : Nat)
    (hm : (u, f) ∈ l) : SameRegsBut l s (t.wr u f v) :=
  fun w g hw => (t.rd_wr_other u w f g v (hw _ hm)).trans (h w g hw)

/-! ### Steps (01_module_dies_clocks R28, R34) -/

/-- Settles O41: the definition of a step on a queue with a first command. -/
theorem stepRunsFrontCommand : Obligations.StepRunsFrontCommand := by
  unfold Obligations.StepRunsFrontCommand
  intro c l s h
  simp only [step, h]

theorem idleStep_of_lock {s : State} (h : s.rd clkU Reg.CLK_STAT_ROOT_LOCK = 1) :
    idleStep s = s.wr clkU Reg.TS_LO_VALUE (s.ts + 1) := if_pos h

theorem idleStep_of_noLock {s : State} (h : s.rd clkU Reg.CLK_STAT_ROOT_LOCK ≠ 1) : idleStep s = s := if_neg h

/-- Settles O42: the idle step writes the timestamp alone, and that only while the root clock is locked. -/
theorem idleStepCountsTime : Obligations.IdleStepCountsTime := by
  unfold Obligations.IdleStepCountsTime
  intro s h
  refine ⟨idleStep s, by simp only [step, h], ?_⟩
  by_cases hl : s.rd clkU Reg.CLK_STAT_ROOT_LOCK = 1
  · rw [idleStep_of_lock hl, if_pos hl]
    exact ⟨rfl, s.wr_frame _ _ _, (SameRegsBut.of_self _ s).wr _ (by simp), s.rd_wr_same _ _ _⟩
  · rw [idleStep_of_noLock hl, if_neg hl]
    exact ⟨rfl, SameBut.of_self _ s, SameRegsBut.of_self _ s, rfl⟩

/-! ### Leaf sets (01_module_dies_clocks R21) -/

/-- What is collected from a list of leaf sets, each leaf once: without repeats, and of no leaf that is in none of them. -/
theorem collect_nodup_and_mem (P : Nat → Prop) (f : Nat → List Nat) (hf : ∀ m, (f m).Nodup ∧ ∀ u ∈ f m, P u) (ms acc : List Nat)
    (hacc : acc.Nodup ∧ ∀ u ∈ acc, P u) :
    (ms.foldl (fun acc m => acc ++ (f m).filter (fun x => !acc.contains x)) acc).Nodup ∧
      ∀ u ∈ ms.foldl (fun acc m => acc ++ (f m).filter (fun x => !acc.contains x)) acc, P u := by
  induction ms generalizing acc with
  | nil => exact hacc
  | cons m ms ih =>
    obtain ⟨hnd, hP⟩ := hacc
    refine ih _ ⟨?_, fun u hu => ?_⟩
    · refine hnd.append ((hf m).1.filter _) fun x hx hx' => ?_
      simp [hx] at hx'
    · rcases List.mem_append.1 hu with hu | hu
      · exact hP u hu
      · exact (hf m).2 u (List.mem_filter.1 hu).1

theorem leavesOf_nodup_and_lt (groups : List (Nat × List Nat)) (n a : Nat) :
    (leavesOf groups n a).Nodup ∧ ∀ u ∈ leavesOf groups n a, u < 2 ^ 31 := by
  induction n generalizing a with
  | zero => simp [leavesOf]
  | succ n ih =>
    rw [leavesOf]
    split
    case isTrue ha => simpa using ha
    case isFalse =>
      split
      case h_1 => simp
      case h_2 g _ => exact collect_nodup_and_mem (· < 2 ^ 31) (leavesOf groups n) ih g.2 [] (by simp)

theorem leavesOf_unit (groups : List (Nat × List Nat)) (n a : Nat) (ha : a < 2 ^ 31) : leavesOf groups (n + 1) a = [a] := by
  rw [leavesOf, if_pos ha]

/-- Settles O39, by induction on the depth of nesting: a group collects its members' leaf sets, each leaf once. -/
theorem leafSetsHaveNoRepeats : Obligations.LeafSetsHaveNoRepeats := by
  unfold Obligations.LeafSetsHaveNoRepeats
  intro s a
  obtain ⟨hnd, hlt⟩ := leavesOf_nodup_and_lt s.groups (s.groups.length + 2) a
  exact ⟨hnd, hlt, leavesOf_unit s.groups _ a⟩

/-! ### Frames of accesses (00_scope R12, R14; 01_module_dies_clocks R34) -/

theorem packetArrive_frame (src taddr : Nat) (write : Bool) (data : List Byte) (len : Nat) (way : PacketWay) :
    Keeps (.packetArrive src taddr write data len way)
      [.regs, .mem, .ecc, .cores, .arbs, .ports, .heldTx, .apps, .stqs, .red, .arrivals, .sb, .log, .fix, .scrubQ] := by
  intro s t ht
  simp only [exec, execPacketArrive] at ht
  split at ht
  case isTrue => exact SameBut.of_done (by simp) ht
  case isFalse =>
    split at ht
    case isTrue => exact SameBut.of_done (by simp) ht
    case isFalse =>
      split at ht <;> exact SameBut.of_done (by simp) ht

theorem groupWriteComplete_frame (group : Nat) (results : List (Nat × Nat)) :
    Keeps (.groupWriteComplete group results) [] := by
  intro s t ht
  simp only [exec, execGroupWriteComplete] at ht
  (repeat' split at ht) <;> exact SameBut.of_done (by simp) ht

theorem registerWrite_frame (src unit off : Nat) (w : RegWrite) :
    Keeps (.registerWrite src unit off w)
      [.regs, .mem, .ecc, .cores, .arbs, .ports, .apps, .stqs, .red, .sb, .log, .fix, .scrubQ] :=
  .of_done (fun s => answer ((s.epWrite src unit off w.data).1.hardSet unit w.events, (s.epWrite src unit off w.data).2))
    (fun _ => rfl) fun s => by simp

theorem rcFieldRead_frame (src unit off : Nat) (events : List (Nat × Nat)) :
    Keeps (.rcFieldRead src unit off events) [.regs, .mem, .ecc, .arbs, .arrivals, .sb, .log, .scrubQ] := by
  intro s t ht
  simp only [exec, execRcFieldRead] at ht
  refine SameBut.of_done ((SameBut.answer _ _).2 ?_) ht
  refine (SameBut.forEach_iff _ _ fun t f => ?_).2 (by simp)
  split <;> simp

theorem loCaptureRead_frame (src unit off : Nat) (wide : Bool) :
    Keeps (.loCaptureRead src unit off wide) [.regs, .mem, .ecc, .arbs, .arrivals, .sb, .log, .scrubQ] :=
  .of_done _ (fun _ => rfl) fun s => by simp

/-- Settles O49. -/
theorem accessFrames : Obligations.AccessFrames := by
  unfold Obligations.AccessFrames
  exact ⟨packetArrive_frame, groupWriteComplete_frame, registerWrite_frame, rcFieldRead_frame, loCaptureRead_frame⟩

end Sys2Proof.Machine
end

section
/-!
Where power good, resets and the root PLL complete (01_module_dies_clocks R28, R29; 22_connectors_startup R506 to R515).
-/
namespace Sys2Proof.Machine

/-! ### Commands whose meaning is `done` of a state -/

/-- A state as `done` answers it: its memory in canonical form. -/
def State.canon (s : State) : State := { s with mem := Memory.canon s.mem }

theorem Yields.of_done {P : State → Prop} {c : Instr} {s r : State} (hc : exec c s = done r) (h : P r.canon) : Yields c s P :=
  ⟨r.canon, hc, h⟩

@[simp] theorem State.canon_rd (s : State) (u : Nat) (f : Field) : s.canon.rd u f = s.rd u f := rfl
@[simp] theorem State.canon_stage (s : State) : s.canon.stage = s.stage := rfl
@[simp] theorem State.canon_out (s : State) : s.canon.out = s.out := rfl
@[simp] theorem State.canon_sb (s : State) : s.canon.sb = s.sb := rfl
@[simp] theorem State.canon_job (s : State) : s.canon.job = s.job := rfl
@[simp] theorem State.canon_dkr (s : State) : s.canon.dkr = s.dkr := rfl
@[simp] theorem State.canon_log (s : State) : s.canon.log = s.log := rfl
@[simp] theorem State.canon_pwr (s : State) : s.canon.pwr = s.pwr := rfl
@[simp] theorem State.canon_cores (s : State) : s.canon.cores = s.cores := rfl
@[simp] theorem State.canon_ports (s : State) : s.canon.ports = s.ports := rfl
@[simp] theorem State.canon_bridge (s : State) : s.canon.bridge = s.bridge := rfl

@[simp] theorem State.canon_get (s : State) (a : Nat) : Memory.get s.canon.mem a = Memory.get s.mem a :=
  Memory.get_canon s.mem a

@[simp] theorem SameBut.canon {l : List Part} {s r : State} : SameBut l s r.canon ↔ SameBut l s r :=
  iff_of (m := l) (SameBut.of_done (SameBut.of_self l r) rfl) (fun _ hp => hp) s

@[simp] theorem SameRegsBut.canon {l : List (Nat × Field)} {s r : State} : SameRegsBut l s r.canon ↔ SameRegsBut l s r := Iff.rfl

@[simp] theorem OnlyIn.canon {P : Nat → Bool} {r : State} : OnlyIn P r.canon ↔ OnlyIn P r := by simp [OnlyIn]

@[simp] theorem SameIn.canon {P : Nat → Bool} {s r : State} : SameIn P s r.canon ↔ SameIn P s r := by simp [SameIn]

@[simp] theorem SameMemBut.canon {a n : Nat} {s r : State} : SameMemBut a n s r.canon ↔ SameMemBut a n s r := by
  simp [SameMemBut]

theorem OnlyIn.of_nil {P : Nat → Bool} {t : State} (h : t.mem = []) : OnlyIn P t := fun a _ => by rw [h]; rfl

theorem OnlyIn.of_filter {P : Nat → Bool} {s t : State} (h : t.mem = s.mem.filter (fun c => P c.1)) : OnlyIn P t :=
  fun a ha => by rw [h]; exact mget_filter_false P s.mem a 0 ha

theorem SameIn.of_filter {P : Nat → Bool} {s t : State} (h : t.mem = s.mem.filter (fun c => P c.1)) : SameIn P s t :=
  fun a ha => by rw [h]; exact mget_filter_true P s.mem a 0 ha

theorem State.rd_wrB_same (s : State) (u : Nat) {f : Field} (b : Bool) (h : 0 < f.width) : (s.wrB u f b).rd u f = b2n b := by
  refine (s.rd_wr_same u f (b2n b)).trans (Nat.mod_eq_of_lt ?_)
  calc b2n b < 2 ^ 1 := by cases b <;> decide
    _ ≤ 2 ^ f.width := Nat.pow_le_pow_right (by decide) h

/-! ### FAULT_N (22_connectors_startup R509) -/

theorem State.mem_raiseFault (s : State) (c : Nat) : c ∈ (s.raiseFault c).sb.faults := by
  simp only [State.raiseFault, State.wr_sb]
  split
  case isTrue h => simpa using h
  case isFalse => simp

theorem State.not_mem_dropFault (s : State) (c : Nat) : c ∉ (s.dropFault c).sb.faults := by
  simp [State.dropFault]

@[simp] theorem State.stage_wr (s : State) (v : Nat) : (s.wr sbU Reg.SB_STAT_STAGE v).stage = v % 16 := s.rd_wr_same _ _ _

@[simp] theorem State.raiseFault_cause (s : State) (c : Nat) : (s.raiseFault c).sb.cause = s.sb.cause := rfl
@[simp] theorem State.raiseFault_job (s : State) (c : Nat) : (s.raiseFault c).job = s.job := rfl
@[simp] theorem State.raiseFault_dkr (s : State) (c : Nat) : (s.raiseFault c).dkr = s.dkr := rfl
@[simp] theorem State.raiseFault_out (s : State) (c : Nat) : (s.raiseFault c).out = s.out := rfl

theorem State.rd_raiseFault (s : State) (c : Nat) : (s.raiseFault c).rd sbU Reg.SB_STAT_FAULT = 1 := State.rd_wr_same _ _ _ _

theorem State.rd_raiseFault_other (s : State) (c u : Nat) (f : Field) (h : fieldKey u f ≠ fieldKey sbU Reg.SB_STAT_FAULT) :
    (s.raiseFault c).rd u f = s.rd u f := State.rd_wr_other _ _ _ _ _ _ h

theorem State.rd_dropFault_other (s : State) (c u : Nat) (f : Field) (h : fieldKey u f ≠ fieldKey sbU Reg.SB_STAT_FAULT) :
    (s.dropFault c).rd u f = s.rd u f := State.rd_wrB_other _ _ _ _ _ _ h

/-! ### What a reset keeps (22_connectors_startup R514) -/

theorem State.rd_withFields_other (t s : State) (l : List (Nat × Field)) (u : Nat) (f : Field)
    (h : ∀ p ∈ l, fieldKey u f ≠ fieldKey p.1 p.2) : (t.withFields s l).rd u f = t.rd u f := by
  induction l generalizing t with
  | nil => rfl
  | cons p l ih =>
    obtain ⟨hp, hl⟩ := List.forall_mem_cons.1 h
    exact (ih _ hl).trans (t.rd_wr_other p.1 u p.2 f _ hp)

/-- A field carried over, where no other field of the list has its key. -/
theorem State.rd_withFields_mem (t s : State) (l : List (Nat × Field)) (u : Nat) (f : Field) (hm : (u, f) ∈ l)
    (h : ∀ p ∈ l, fieldKey u f = fieldKey p.1 p.2 → p = (u, f)) :
    (t.withFields s l).rd u f = s.rd u f % 2 ^ f.width := by
  induction l generalizing t with
  | nil => simp at hm
  | cons p l ih =>
    obtain ⟨hp, hl⟩ := List.forall_mem_cons.1 h
    by_cases hin : (u, f) ∈ l
    · exact ih _ hin hl
    · obtain rfl : (u, f) = p := (List.mem_cons.1 hm).resolve_right hin
      have hrest : ∀ p ∈ l, fieldKey u f ≠ fieldKey p.1 p.2 := fun p hpl hk => hin (hl p hpl hk ▸ hpl)
      show ((t.wr u f (s.rd u f)).withFields s l).rd u f = _
      rw [State.rd_withFields_other _ s l u f hrest, State.rd_wr_same]

/-- The fields that a module reset writes itself. -/
def resetShows : List (Nat × Field) :=
  [(sbU, Reg.SB_STAT_FAULT), (keeperU, Reg.LOG_STAT_ENTRIES), (keeperU, Reg.LOG_STAT_STICKY), (portU 0, Reg.FAB_STAT_MODE),
   (portU 1, Reg.FAB_STAT_MODE)]

/-- A field that a module reset neither writes nor carries over has its reset value. -/
theorem State.rd_moduleReset_lost (s : State) (dram : Bool) (u : Nat) (f : Field)
    (hw : ∀ p ∈ resetShows, fieldKey u f ≠ fieldKey p.1 p.2) (hk : ∀ p ∈ sincePowerGood, fieldKey u f ≠ fieldKey p.1 p.2) :
    (s.moduleReset dram).rd u f = f.reset := by
  obtain ⟨h1, h2, h3, h4, h5, -⟩ := by simpa only [resetShows, List.forall_mem_cons] using hw
  unfold State.moduleReset State.logStat
  rw [State.rd_wrB_other _ _ _ _ _ _ h5, State.rd_wrB_other _ _ _ _ _ _ h4, State.rd_wr_other _ _ _ _ _ _ h3,
    State.rd_wr_other _ _ _ _ _ _ h2, State.rd_wrB_other _ _ _ _ _ _ h1, State.rd_withFields_other _ _ _ _ _ hk]
  rfl

/-- A field that counts from power good is carried over a module reset. -/
theorem State.rd_moduleReset_kept (s : State) (dram : Bool) (u : Nat) (f : Field)
    (hw : ∀ p ∈ resetShows, fieldKey u f ≠ fieldKey p.1 p.2) (hm : (u, f) ∈ sincePowerGood)
    (hk : ∀ p ∈ sincePowerGood, fieldKey u f = fieldKey p.1 p.2 → p = (u, f)) :
    (s.moduleReset dram).rd u f = s.rd u f % 2 ^ f.width := by
  obtain ⟨h1, h2, h3, h4, h5, -⟩ := by simpa only [resetShows, List.forall_mem_cons] using hw
  unfold State.moduleReset State.logStat
  rw [State.rd_wrB_other _ _ _ _ _ _ h5, State.rd_wrB_other _ _ _ _ _ _ h4, State.rd_wr_other _ _ _ _ _ _ h3,
    State.rd_wr_other _ _ _ _ _ _ h2, State.rd_wrB_other _ _ _ _ _ _ h1, State.rd_withFields_mem _ _ _ _ _ hm hk]

theorem State.moduleReset_mem (s : State) (dram : Bool) :
    (s.moduleReset dram).mem = if dram then s.mem.filter (fun c => inDram c.1) else [] := rfl

/-! ### Warm and cold resets (22_connectors_startup R513, R514) -/

theorem State.warmReset_stage (s : State) : s.warmReset.stage = 1 := State.rd_wr_same _ _ _ _

theorem State.rd_warmReset_count (s : State) :
    s.warmReset.rd sbU Reg.SB_RSTCNT_WARM = Nat.min (s.rd sbU Reg.SB_RSTCNT_WARM % 2 ^ 16 + 1) 65535 := by
  have hkept : (s.moduleReset true).rd sbU Reg.SB_RSTCNT_WARM = s.rd sbU Reg.SB_RSTCNT_WARM % 2 ^ 16 :=
    s.rd_moduleReset_kept true _ _ (by decide) (by decide) (by decide)
  unfold State.warmReset
  extract_lets t sb t1
  have ht : t.rd sbU Reg.SB_RSTCNT_WARM = _ := State.rd_withFields_other _ s _ _ _ (by decide)
  have ht1 : t1.rd sbU Reg.SB_RSTCNT_WARM = t.rd sbU Reg.SB_RSTCNT_WARM := by simp only [t1, State.rd]
  rw [State.rd_wr_other _ _ _ _ _ _ (by decide), State.rd_bump_same, ht1, ht, hkept]
  rfl

theorem State.coldReset_stage (s : State) : s.coldReset.stage = 1 :=
  (State.rd_dropFault_other _ _ _ _ (by decide)).trans (State.rd_wr_same _ _ _ _)

theorem State.rd_coldReset_count (s : State) :
    s.coldReset.rd sbU Reg.SB_RSTCNT_COLD = Nat.min (s.rd sbU Reg.SB_RSTCNT_COLD % 2 ^ 16 + 1) 65535 := by
  have hkept : (s.moduleReset false).rd sbU Reg.SB_RSTCNT_COLD = s.rd sbU Reg.SB_RSTCNT_COLD % 2 ^ 16 :=
    s.rd_moduleReset_kept false _ _ (by decide) (by decide) (by decide)
  unfold State.coldReset
  extract_lets t sb t1
  have ht1 : t1.rd sbU Reg.SB_RSTCNT_COLD = t.rd sbU Reg.SB_RSTCNT_COLD := by simp only [t1, State.rd]
  rw [State.rd_dropFault_other _ _ _ _ (by decide), State.rd_wr_other _ _ _ _ _ _ (by decide), State.rd_bump_same, ht1, hkept]
  rfl

theorem State.coldReset_cause {s : State} (h : s.rd keeperU Reg.PWR_STAT_TRIP = 0) : s.coldReset.sb.cause = 1 := by
  simp [State.coldReset, State.dropFault, h]

theorem State.warmReset_sb (s : State) : s.warmReset.sb =
    { s.sb with faults := s.sb.faults.filter (fun c => !(c == stageFault)), low := none, kind := 2, cause := 2 } := rfl

theorem State.warmReset_job (s : State) : s.warmReset.job = { dirty := true } := rfl

theorem State.warmReset_dkr (s : State) : s.warmReset.dkr = { fuse := s.dkr.fuse, flash := s.dkr.flash } := rfl

theorem State.warmReset_out (s : State) : s.warmReset.out = s.out := rfl

theorem State.warmReset_mem (s : State) : s.warmReset.mem = s.mem.filter (fun c => inDram c.1) := rfl

theorem State.coldReset_low (s : State) : s.coldReset.sb.low = none := rfl

theorem State.coldReset_kind (s : State) : s.coldReset.sb.kind = 1 := rfl

theorem State.coldReset_job (s : State) : s.coldReset.job = {} := rfl

theorem State.coldReset_dkr (s : State) : s.coldReset.dkr = { fuse := s.dkr.fuse, flash := s.dkr.flash } := rfl

theorem State.coldReset_out (s : State) : s.coldReset.out = s.out := rfl

theorem State.coldReset_mem (s : State) : s.coldReset.mem = [] := rfl

/-! ### Power good (22_connectors_startup R506, R508) -/

/-- The module as a rise of power good starts it. -/
def State.started (s : State) (mv slot : Nat) (b : Bool) : State :=
  let held := s.sb.low.isSome
  let t : State := { s.bare with bridge := b, sb := { good := true, low := if held then some 1 else none } }
  let t1 := ((((t.wr sbU Reg.SB_STAT_PWR_OK 1).wrB sbU Reg.SB_STAT_BRIDGE b).wr sbU Reg.SB_STAT_SLOT slot).wr keeperU
    Reg.PWR_VIN_MV mv).wr sbU Reg.SB_STAT_STAGE (if held then 0 else 1)
  (t1.wrB (portU 0) Reg.FAB_STAT_MODE b).wrB (portU 1) Reg.FAB_STAT_MODE b

theorem exec_powerGoodRise {s : State} (mv slot : Nat) (b : Bool) (h : s.sb.good = false) :
    exec (.powerGoodRise mv slot b) s = done (s.started mv slot b) := if_neg (by simp [h])

theorem powerGoodRise_yields (s : State) (mv slot : Nat) (b : Bool) (h : s.sb.good = false) :
    Yields (.powerGoodRise mv slot b) s (fun t => t.sb.good = true ∧ t.bridge = b ∧ t.rd sbU Reg.SB_STAT_PWR_OK = 1 ∧
      t.rd sbU Reg.SB_STAT_SLOT = slot % 8 ∧ t.rd sbU Reg.SB_STAT_BRIDGE = b2n b ∧
      t.rd keeperU Reg.PWR_VIN_MV = mv % 2 ^ 32 ∧ (s.sb.low = none → t.stage = 1) ∧ t.job.st = .noJob ∧
      OnlyIn (fun _ => false) t ∧ t.out = s.out) := by
  refine .of_done (exec_powerGoodRise mv slot b h) ?_
  refine ⟨rfl, rfl, ?_, ?_, ?_, ?_, fun hl => ?_, rfl, OnlyIn.canon.2 (.of_nil rfl), rfl⟩
  all_goals simp (disch := decide) only [State.canon_rd, State.stage, State.started, State.rd_wrB_other, State.rd_wr_other]
  · exact State.rd_wr_same _ _ _ _
  · exact State.rd_wr_same _ _ _ _
  · exact State.rd_wrB_same _ _ b (by decide)
  · exact State.rd_wr_same _ _ _ _
  · rw [hl]
    exact State.rd_wr_same _ _ _ _

theorem powerGoodFall_yields (s : State) (ok : Bool) (h : s.sb.good = true) :
    Yields (.powerGoodFall ok) s (fun t => t.sb.good = false ∧ t.rd sbU Reg.SB_STAT_PWR_OK = b2n ok ∧ t.job.st = .noJob ∧
      t.dkr.fuse = s.dkr.fuse ∧ t.dkr.flash = s.dkr.flash ∧ OnlyIn (fun _ => false) t ∧ t.stage = 0 ∧ t.out = s.out) := by
  have hc : exec (.powerGoodFall ok) s = done (s.bare.wrB sbU Reg.SB_STAT_PWR_OK ok) := if_pos h
  refine .of_done hc ?_
  refine ⟨rfl, State.rd_wrB_same _ _ ok (by decide), rfl, rfl, rfl, OnlyIn.canon.2 (.of_nil rfl), ?_, rfl⟩
  exact State.rd_wrB_other _ _ _ _ _ _ (by decide)

/-! ### MOD_RST_N (22_connectors_startup R513, R515) -/

/-- The start-up stage and MOD_RST_N's record of the stage that it interrupted are written together. -/
theorem lowAndStage_written (s : State) (low : Option Nat) (st : Nat) (hst : st < 16) :
    let t := (({ s with sb := { s.sb with low := low } } : State).wr sbU Reg.SB_STAT_STAGE st).canon
    t.sb = { s.sb with low := low } ∧ t.stage = st ∧ t.out = s.out ∧ SameRegsBut [(sbU, Reg.SB_STAT_STAGE)] s t ∧
      SameBut [.regs, .sb] s t := by
  refine ⟨rfl, ?_, rfl, ?_, by simp⟩
  · rw [State.canon_stage, State.stage_wr, Nat.mod_eq_of_lt hst]
  · exact SameRegsBut.canon.2 (SameRegsBut.wr (fun _ _ _ => rfl) st (by simp))

theorem modRstNAssert_yields (s : State) (h : s.sb.low = none) :
    Yields .modRstNAssert s (fun t => t.sb = { s.sb with low := some s.stage } ∧ t.stage = 0 ∧ t.out = s.out ∧
      SameRegsBut [(sbU, Reg.SB_STAT_STAGE)] s t ∧ SameBut [.regs, .sb] s t) :=
  .of_done (if_neg (by simp [h])) (lowAndStage_written s (some s.stage) 0 (by decide))

theorem modRstNRelease_short_yields (s : State) (st n : Nat) (near : Bool) (hl : s.sb.low = some st) (hn : n < usTicks)
    (hst : st < 16) :
    Yields (.modRstNRelease n near) s (fun t => t.sb = { s.sb with low := none } ∧ t.stage = st ∧ t.out = s.out ∧
      SameRegsBut [(sbU, Reg.SB_STAT_STAGE)] s t ∧ SameBut [.regs, .sb] s t) :=
  .of_done (by simp [exec, execModRstNRelease, hl, hn]) (lowAndStage_written s none st hst)

theorem modRstNRelease_warm_yields (s : State) (st n : Nat) (hl : s.sb.low = some st) (hg : s.sb.good = true)
    (hus : usTicks ≤ n) (hn : n < coldTicks) :
    Yields (.modRstNRelease n false) s (fun t => t.sb.low = none ∧ t.sb.kind = 2 ∧ t.sb.cause = 2 ∧ t.stage = 1 ∧
      t.job.st = .noJob ∧ t.job.dirty = true ∧
      t.rd sbU Reg.SB_RSTCNT_WARM = Nat.min (s.rd sbU Reg.SB_RSTCNT_WARM % 2 ^ 16 + 1) 65535 ∧ t.dkr.fuse = s.dkr.fuse ∧
      t.out = s.out ∧ OnlyIn inDram t ∧ SameIn inDram s t) := by
  have hc : exec (.modRstNRelease n false) s = done s.warmReset := by
    simp [exec, execModRstNRelease, hl, hg, hn, Nat.not_lt.2 hus]
  refine .of_done hc ?_
  simp [s.warmReset_sb, s.warmReset_job, s.warmReset_dkr, s.warmReset_out, s.warmReset_stage, s.rd_warmReset_count,
    OnlyIn.of_filter s.warmReset_mem, SameIn.of_filter s.warmReset_mem]

theorem modRstNRelease_cold_yields (s : State) (st n : Nat) (hl : s.sb.low = some st) (hg : s.sb.good = true)
    (hn : coldTicks ≤ n) (ht : s.rd keeperU Reg.PWR_STAT_TRIP = 0) :
    Yields (.modRstNRelease n false) s (fun t => t.sb.low = none ∧ t.sb.kind = 1 ∧ t.sb.cause = 1 ∧ t.stage = 1 ∧
      t.job.st = .noJob ∧ t.job.dirty = false ∧
      t.rd sbU Reg.SB_RSTCNT_COLD = Nat.min (s.rd sbU Reg.SB_RSTCNT_COLD % 2 ^ 16 + 1) 65535 ∧ t.dkr.fuse = s.dkr.fuse ∧
      t.out = s.out ∧ OnlyIn (fun _ => false) t) := by
  have hus : usTicks ≤ n := Nat.le_trans (by decide) hn
  have hc : exec (.modRstNRelease n false) s = done s.coldReset := by
    simp [exec, execModRstNRelease, hl, hg, Nat.not_lt.2 hn, Nat.not_lt.2 hus]
  refine .of_done hc ?_
  simp [s.coldReset_low, s.coldReset_kind, State.coldReset_cause ht, s.coldReset_job, s.coldReset_dkr, s.coldReset_out,
    s.coldReset_stage, s.rd_coldReset_count, OnlyIn.of_nil s.coldReset_mem]

/-! ### The root PLL (01_module_dies_clocks R28, R29) -/

/-- The module as a loss of lock leaves it, but for FAULT_N. -/
def State.lockLost (s : State) : State :=
  let t := (s.moduleReset true).withFields s [(keeperU, Reg.PWR_STAT_TRIP)]
  { t with job := { dirty := true }, sb := { t.sb with kind := 2, cause := 4 } }

theorem State.rd_lockLost_lock (s : State) : s.lockLost.rd clkU Reg.CLK_STAT_ROOT_LOCK = 0 := by
  unfold State.lockLost
  extract_lets t sb
  have ht : t.rd clkU Reg.CLK_STAT_ROOT_LOCK = (s.moduleReset true).rd clkU Reg.CLK_STAT_ROOT_LOCK :=
    State.rd_withFields_other _ s _ _ _ (by decide)
  simp only [State.rd] at ht ⊢
  exact ht.trans (s.rd_moduleReset_lost true _ _ (by decide) (by decide))

theorem State.lockLost_cause (s : State) : s.lockLost.sb.cause = 4 := rfl

theorem State.lockLost_job (s : State) : s.lockLost.job = { dirty := true } := rfl

theorem State.lockLost_dkr (s : State) : s.lockLost.dkr = { fuse := s.dkr.fuse, flash := s.dkr.flash } := rfl

theorem State.lockLost_out (s : State) : s.lockLost.out = s.out := rfl

theorem pllLossOfLock_yields (s : State) (hg : s.sb.good = true) (hlk : s.rd clkU Reg.CLK_STAT_ROOT_LOCK = 1) :
    Yields .pllLossOfLock s (fun t => t.rd clkU Reg.CLK_STAT_ROOT_LOCK = 0 ∧ t.sb.cause = 4 ∧
      t.rd sbU Reg.SB_STAT_FAULT = 1 ∧ lockFault ∈ t.sb.faults ∧ t.job.st = .noJob ∧ t.job.dirty = true ∧
      t.dkr.fuse = s.dkr.fuse ∧ t.out = s.out) := by
  have hc : exec .pllLossOfLock s = done (s.lockLost.raiseFault lockFault) := if_pos (by simp [hg, hlk])
  refine .of_done hc ?_
  have hlock := s.lockLost.rd_raiseFault_other lockFault clkU Reg.CLK_STAT_ROOT_LOCK (by decide)
  simp [hlock, s.rd_lockLost_lock, State.mem_raiseFault, State.rd_raiseFault, s.lockLost_cause, s.lockLost_job, s.lockLost_dkr,
    s.lockLost_out]

/-- The module as lock leaves it, but for its stage. -/
def State.locked (s : State) : State := (s.wr clkU Reg.CLK_STAT_ROOT_LOCK 1).dropFault lockFault

theorem State.rd_locked_lock (s : State) : s.locked.rd clkU Reg.CLK_STAT_ROOT_LOCK = 1 :=
  (State.rd_dropFault_other _ _ _ _ (by decide)).trans (s.rd_wr_same _ _ _)

theorem State.rd_locked_trip (s : State) : s.locked.rd keeperU Reg.PWR_STAT_TRIP = s.rd keeperU Reg.PWR_STAT_TRIP :=
  (State.rd_dropFault_other _ _ _ _ (by decide)).trans (s.rd_wr_other _ _ _ _ _ (by decide))

theorem exec_pllLock {s : State} (hg : s.sb.good = true) (hlk : s.rd clkU Reg.CLK_STAT_ROOT_LOCK = 0) (hl : s.sb.low = none)
    (ht : s.rd keeperU Reg.PWR_STAT_TRIP = 0) : exec .pllLock s = done (s.locked.wr sbU Reg.SB_STAT_STAGE 2) := by
  have hlow : s.locked.sb.low = none := hl
  have htrip : s.locked.rd keeperU Reg.PWR_STAT_TRIP = 0 := s.rd_locked_trip.trans ht
  unfold State.locked at *
  simp [exec, execPllLock, hg, hlk, hlow, htrip]

theorem pllLock_yields (s : State) (hg : s.sb.good = true) (hlk : s.rd clkU Reg.CLK_STAT_ROOT_LOCK = 0)
    (hl : s.sb.low = none) (ht : s.rd keeperU Reg.PWR_STAT_TRIP = 0) :
    Yields .pllLock s (fun t => t.rd clkU Reg.CLK_STAT_ROOT_LOCK = 1 ∧ t.stage = 2 ∧ lockFault ∉ t.sb.faults ∧
      t.out = s.out ∧ SameBut [.regs, .sb] s t) := by
  refine .of_done (exec_pllLock hg hlk hl ht) ?_
  have hlock := s.locked.rd_wr_other sbU clkU Reg.SB_STAT_STAGE Reg.CLK_STAT_ROOT_LOCK 2 (by decide)
  exact ⟨hlock.trans s.rd_locked_lock, by simp, State.not_mem_dropFault _ _, rfl, by simp [State.locked]⟩

/-- Settles O27, clause by clause: what power good and each reset write, and what a module reset keeps. -/
theorem resetsComplete : Obligations.ResetsComplete := by
  unfold Obligations.ResetsComplete
  exact ⟨powerGoodRise_yields, powerGoodFall_yields, modRstNAssert_yields, modRstNRelease_short_yields,
    modRstNRelease_warm_yields, modRstNRelease_cold_yields, pllLossOfLock_yields, pllLock_yields⟩

end Sys2Proof.Machine
end

section
/-!
What a log entry and a fog signal keep of the power controller's registers (18_faults_and_relief R424 to R433;
21_power_cooling R492 to R502).
-/
namespace Sys2Proof.Machine

/-! ### The power controller's registers (21_power_cooling R492 to R502)

A log entry and a fog signal write the registers of many units, among them units that the state names. None of these writes is of the
256 bytes of the keeper's registers in which the power controller shows its readings. -/

/-- Whether a key is of the keeper's registers from 0x900100 on, which are the power controller's. -/
def isPowerKey (k : Nat) : Bool := k / 2 ^ 13 == (2 ^ 24 * keeperU + 0x900100) / 2 ^ 8

/-- What the power controller's registers hold. -/
def powerRegs (m : SMap Nat) (k d : Nat) : Nat := if isPowerKey k then mget m k d else d

/-- Whether a field lies below the power controller's registers, in whatever unit. -/
def Field.low (f : Field) : Bool := decide (f.off < 0x900100) && decide (f.lo < 32)

theorem not_isPowerKey_of_low (u : Nat) {f : Field} (h : f.low = true) : isPowerKey (fieldKey u f) = false := by
  obtain ⟨hoff, hlo⟩ : f.off < 0x900100 ∧ f.lo < 32 := by simpa [Field.low] using h
  simp only [isPowerKey, fieldKey, keeperU, unitOf, beq_eq_false_iff_ne]
  omega

theorem not_isPowerKey_mbxU (f : Field) : isPowerKey (fieldKey mbxU f) = false := by
  simp only [isPowerKey, fieldKey, keeperU, mbxU, unitOf, beq_eq_false_iff_ne]
  omega

theorem State.rd_of_powerRegs {s t : State} (h : powerRegs t.regs = powerRegs s.regs) {f : Field}
    (hf : isPowerKey (fieldKey keeperU f) = true) : t.rd keeperU f = s.rd keeperU f := by
  simpa [State.rd, powerRegs, hf] using congrFun (congrFun h (fieldKey keeperU f)) f.reset

theorem powerRegs_mset {m : SMap Nat} {k v d : Nat} (h : isPowerKey k = false) : powerRegs (mset d m k v) = powerRegs m := by
  funext j e
  by_cases hj : isPowerKey j = true
  · have hne : j ≠ k := by rintro rfl; simp [hj] at h
    simp [powerRegs, hj, mget_mset_ne d e m v hne]
  · simp [powerRegs, hj]

@[simp] theorem powerRegs_wr (s : State) (u : Nat) {f : Field} (v : Nat) (h : f.low = true) :
    powerRegs (s.wr u f v).regs = powerRegs s.regs := powerRegs_mset (not_isPowerKey_of_low u h)

@[simp] theorem powerRegs_wrB (s : State) (u : Nat) {f : Field} (b : Bool) (h : f.low = true) :
    powerRegs (s.wrB u f b).regs = powerRegs s.regs := powerRegs_wr s u _ h

@[simp] theorem powerRegs_bump (s : State) (u : Nat) {f : Field} (n : Nat) (h : f.low = true) :
    powerRegs (s.bump u f n).regs = powerRegs s.regs := powerRegs_wr s u _ h

@[simp] theorem powerRegs_wr_mbxU (s : State) (f : Field) (v : Nat) : powerRegs (s.wr mbxU f v).regs = powerRegs s.regs :=
  powerRegs_mset (not_isPowerKey_mbxU f)

@[simp] theorem powerRegs_bump_mbxU (s : State) (f : Field) (n : Nat) : powerRegs (s.bump mbxU f n).regs = powerRegs s.regs :=
  powerRegs_wr_mbxU s f _

theorem powerRegs_forEach {α : Type} {f : State → α → State} (h : ∀ s a, powerRegs (f s a).regs = powerRegs s.regs) (l : List α)
    (s : State) : powerRegs (forEach l f s).regs = powerRegs s.regs := by
  induction l generalizing s with
  | nil => rfl
  | cons a l ih => exact (ih (f s a)).trans (h s a)

theorem powerRegs_foldl_fst {α β : Type} {f : State × β → α → State × β}
    (h : ∀ p a, powerRegs (f p a).1.regs = powerRegs p.1.regs) (l : List α) (p : State × β) :
    powerRegs (l.foldl f p).1.regs = powerRegs p.1.regs := by
  induction l generalizing p with
  | nil => rfl
  | cons a l ih => exact (ih (f p a)).trans (h p a)

/-! ### What a log entry keeps of them (18_faults_and_relief R424 to R426) -/

/-- What agrees outside some fields agrees in the power controller's registers, where none of the fields is one of them. -/
theorem SameRegsBut.powerRegs {l : List (Nat × Field)} {s t : State} (h : SameRegsBut l s t)
    (hl : ∀ p ∈ l, isPowerKey (fieldKey p.1 p.2) = false) : powerRegs t.regs = powerRegs s.regs := by
  funext k d
  by_cases hk : isPowerKey k = true
  · have hkey : fieldKey 0 { off := k / 32, hi := 0, lo := k % 32, acc := .ro, reset := d } = k := by
      simp only [fieldKey]; omega
    have hrd := h 0 { off := k / 32, hi := 0, lo := k % 32, acc := .ro, reset := d } fun p hp he => by
      simpa [← he, hkey, hk] using hl p hp
    simpa [Machine.powerRegs, hk, State.rd, hkey] using hrd
  · simp [Machine.powerRegs, hk]

/-- The fields that a log entry writes. -/
def logShows : List (Nat × Field) :=
  [(keeperU, Reg.LOG_STAT_ENTRIES), (keeperU, Reg.LOG_STAT_STICKY), (keeperU, Reg.LOG_LOST_COUNT),
   (keeperU, Reg.LOG_STICKY_LOST_COUNT)]

theorem SameRegsBut.of_regs {l : List (Nat × Field)} {s t r : State} (h : SameRegsBut l s t) (hr : r.regs = t.regs) :
    SameRegsBut l s r := fun u f hw => by rw [← h u f hw, State.rd, State.rd, hr]

theorem SameRegsBut.logStat {s t : State} (h : SameRegsBut logShows s t) : SameRegsBut logShows s t.logStat :=
  (h.wr _ (by simp [logShows])).wr _ (by simp [logShows])

theorem State.pushEntry_regs (s : State) (e : LogEntry) : SameRegsBut logShows s (s.pushEntry e) := by
  unfold State.pushEntry
  extract_lets s1 g2 s2 g3 s3 g4 s4
  have h1 : SameRegsBut logShows s s1 := by
    unfold s1
    split
    case isTrue => exact .of_self _ s
    case isFalse => exact (SameRegsBut.of_self _ s).wr _ (by simp [logShows])
  have h2 : SameRegsBut logShows s s2 := h1.of_regs rfl
  have h3 : SameRegsBut logShows s s3 := by
    unfold s3
    split
    case isTrue => exact h2
    case isFalse =>
      split
      case isTrue => exact h2.of_regs rfl
      case isFalse => exact h2.wr _ (by simp [logShows])
  have h4 : SameRegsBut logShows s s4 := by
    unfold s4
    split
    case isTrue => exact h3.of_regs rfl
    case isFalse => exact h3
  exact h4.logStat

theorem State.logEvent_regs (s : State) (code u d0 d1 d2 d3 : Nat) : SameRegsBut logShows s (s.logEvent code u d0 d1 d2 d3) := by
  unfold State.logEvent
  simp only []
  (repeat' split)
  · exact (SameRegsBut.of_self _ s).of_regs rfl
  · exact s.pushEntry_regs _
  · exact s.pushEntry_regs _

@[simp] theorem powerRegs_logStat (s : State) : powerRegs s.logStat.regs = powerRegs s.regs :=
  (SameRegsBut.of_self logShows s).logStat.powerRegs (by decide)

@[simp] theorem powerRegs_pushEntry (s : State) (e : LogEntry) : powerRegs (s.pushEntry e).regs = powerRegs s.regs :=
  (s.pushEntry_regs e).powerRegs (by decide)

@[simp] theorem powerRegs_logEvent (s : State) (code u d0 d1 d2 d3 : Nat) :
    powerRegs (s.logEvent code u d0 d1 d2 d3).regs = powerRegs s.regs :=
  (s.logEvent_regs code u d0 d1 d2 d3).powerRegs (by decide)

/-! ### What the stop of the cores keeps of them (09_core_sequencer R233, R237) -/

@[simp] theorem powerRegs_haltRegs (s : State) (die core cause : Nat) (via : Bool) (tag : Nat) :
    powerRegs (s.haltRegs die core cause via tag).regs = powerRegs s.regs := by
  simp (disch := decide) [State.haltRegs]

@[simp] theorem powerRegs_coreDown (s : State) (die core cause : Nat) (via : Bool) (tag : Nat) :
    powerRegs (s.coreDown die core cause via tag).regs = powerRegs s.regs := by
  simp (disch := decide) [State.coreDown]

@[simp] theorem powerRegs_stopCore (s : State) (die core : Nat) : powerRegs (s.stopCore die core).regs = powerRegs s.regs := by
  unfold State.stopCore
  simp only []
  split <;> simp

@[simp] theorem powerRegs_stopCores (s : State) : powerRegs s.stopCores.regs = powerRegs s.regs := by
  rw [State.stopCores, powerRegs_forEach]
  exact fun s p => powerRegs_stopCore s p.1 p.2

/-! ### What doorbells and transfers keep of them (07_streams_layout R180, R181; 19_keeper_minil R450 to R452) -/

@[simp] theorem powerRegs_endDbWait (s : State) (i : Nat) : powerRegs (s.endDbWait i).regs = powerRegs s.regs := by
  unfold State.endDbWait
  simp only []
  (repeat' split) <;> simp

@[simp] theorem powerRegs_notify (s : State) (before : Nat) : powerRegs (s.notify before).regs = powerRegs s.regs :=
  (powerRegs_forEach powerRegs_endDbWait _ _).trans
    (powerRegs_forEach (f := fun s b => s.emit (.msix b)) (fun _ _ => rfl) _ s)

@[simp] theorem powerRegs_dbSet (s : State) (bits : Nat) : powerRegs (s.dbSet bits).regs = powerRegs s.regs := by
  simp [State.dbSet]

@[simp] theorem powerRegs_mayMiss (s : State) (die core kind id : Nat) :
    powerRegs (s.mayMiss die core kind id).regs = powerRegs s.regs := by
  unfold State.mayMiss
  split <;> simp (disch := decide) [State.fresh]

@[simp] theorem powerRegs_returnTag (s : State) (die core tag err : Nat) :
    powerRegs (s.returnTag die core tag err).regs = powerRegs s.regs := by
  have hrec : powerRegs (s.recordTag die core tag err).regs = powerRegs s.regs := by
    unfold State.recordTag
    simp only []
    split <;> simp
  unfold State.returnTag
  split <;> simp [hrec]

@[simp] theorem powerRegs_dmaStat (s : State) (die core : Nat) : powerRegs (s.dmaStat die core).regs = powerRegs s.regs := by
  simp (disch := decide) [State.dmaStat]

@[simp] theorem powerRegs_endXfer (s : State) (die core i : Nat) : powerRegs (s.endXfer die core i).regs = powerRegs s.regs := by
  unfold State.endXfer
  simp only []
  (repeat' split) <;> simp (disch := decide)

@[simp] theorem powerRegs_dmaCapture (s : State) (die core : Nat) (e : XferFault) (tag ring : Nat) (dir mcast fetch : Bool) :
    powerRegs (s.dmaCapture die core e tag ring dir mcast fetch).regs = powerRegs s.regs := by
  simp (disch := decide) [State.dmaCapture]

@[simp] theorem powerRegs_failXfer (s : State) (die core i : Nat) (x : Xfer) (e : XferFault) :
    powerRegs (s.failXfer die core i x e).regs = powerRegs s.regs := by
  simp [State.failXfer]

@[simp] theorem powerRegs_answerHeld (s : State) (src key err : Nat) : powerRegs (s.answerHeld src key err).regs = powerRegs s.regs := by
  unfold State.answerHeld
  simp only []
  (repeat' split) <;> simp [State.setXfer]

/-! ### What mailbox channels and messages keep of them (19_keeper_minil R445 to R449, R456) -/

@[simp] theorem powerRegs_mbxRefuse (s : State) (c code : Nat) : powerRegs (s.mbxRefuse c code).1.regs = powerRegs s.regs := by
  simp [State.mbxRefuse]

@[simp] theorem powerRegs_mbxWrite (s : State) (src c off : Nat) (bs : List Byte) :
    powerRegs (s.mbxWrite src c off bs).1.regs = powerRegs s.regs := by
  unfold State.mbxWrite
  simp only []
  (repeat' split) <;> simp

@[simp] theorem powerRegs_mbxSend (s : State) (src c len : Nat) : powerRegs (s.mbxSend src c len).1.regs = powerRegs s.regs := by
  unfold State.mbxSend
  (repeat' split) <;> simp

@[simp] theorem powerRegs_mbxClear (s : State) (c : Nat) : powerRegs (s.mbxClear c).regs = powerRegs s.regs := by
  simp [State.mbxClear]

@[simp] theorem powerRegs_mbxReset (s : State) (chans : List Nat) : powerRegs (s.mbxReset chans).regs = powerRegs s.regs := by
  refine powerRegs_forEach (fun s c => ?_) chans s
  simp only []
  split <;> simp

@[simp] theorem powerRegs_putMsg (s : State) (chan : Nat) (bs : List Byte) : powerRegs (s.putMsg chan bs).1.regs = powerRegs s.regs := by
  unfold State.putMsg
  extract_lets src pad
  have hfold : powerRegs ((List.range (pad.length / 4)).foldl (fun (p : State × Nat) i =>
      if p.2 ≠ 0 then p else p.1.mbxWrite src chan (4 * i) (slice pad (4 * i) 4)) (s, 0)).1.regs = powerRegs s.regs :=
    powerRegs_foldl_fst (fun p i => by split <;> simp) _ _
  revert hfold
  generalize List.foldl _ _ _ = p
  intro hfold
  obtain ⟨s1, e⟩ := p
  simp only []
  split <;> simpa using hfold

@[simp] theorem powerRegs_sendMsg (s : State) (m : OutMsg) : powerRegs (s.sendMsg m).regs = powerRegs s.regs := by
  unfold State.sendMsg State.msgLost
  simp only []
  (repeat' split) <;> simp

@[simp] theorem powerRegs_notice (s : State) (dst chan seq : Nat) (prov : Bool) (kind : Nat) (fields : List Byte) :
    powerRegs (s.notice dst chan seq prov kind fields).regs = powerRegs s.regs := powerRegs_sendMsg s _

/-! ### What the stop of the engines keeps of them (18_faults_and_relief R433) -/

@[simp] theorem powerRegs_drainEnded (s : State) : powerRegs s.drainEnded.regs = powerRegs s.regs := by
  unfold State.drainEnded
  simp only []
  rw [powerRegs_forEach (fun s die => powerRegs_wr s _ _ (by decide)), powerRegs_wr _ _ _ (by decide)]

@[simp] theorem powerRegs_abortDrain (s : State) (code : Nat) : powerRegs (s.abortDrain code).regs = powerRegs s.regs := by
  unfold State.abortDrain State.ckNotice
  split <;> simp

@[simp] theorem powerRegs_stopApps (s : State) : powerRegs s.stopApps.regs = powerRegs s.regs := by
  unfold State.stopApps
  rw [powerRegs_mbxReset, powerRegs_forEach]
  exact fun s i => powerRegs_wr _ _ _ (by decide)

@[simp] theorem powerRegs_stopUpdates (s : State) : powerRegs s.stopUpdates.regs = powerRegs s.regs := by
  unfold State.stopUpdates
  simp only []
  rw [powerRegs_forEach, powerRegs_forEach]
  · exact fun s die => powerRegs_wr s _ _ (by decide)
  · exact fun s n => by simp (disch := decide)

@[simp] theorem powerRegs_stopStreams (s : State) : powerRegs s.stopStreams.regs = powerRegs s.regs := by
  unfold State.stopStreams
  simp only []
  rw [powerRegs_forEach]
  exact fun s k => by simp (disch := decide)

@[simp] theorem powerRegs_stopEngines (s : State) (code : Nat) : powerRegs (s.stopEngines code).regs = powerRegs s.regs := by
  simp (disch := decide) [State.stopEngines, State.emptyStages]

/-! ### What a fog signal keeps of them (18_faults_and_relief R431 to R433) -/

@[simp] theorem powerRegs_flood (s : State) (f : Fog) (except : Nat) : powerRegs (s.flood f except).regs = powerRegs s.regs :=
  powerRegs_forEach (f := fun s p => s.emit (.fog p f)) (fun _ _ => rfl) _ s

@[simp] theorem powerRegs_noteFog (s : State) (f : Fog) : powerRegs (s.noteFog f).regs = powerRegs s.regs := by
  unfold State.noteFog
  split <;> simp (disch := decide)

@[simp] theorem powerRegs_fogActions (s : State) (f : Fog) (unit : Nat) : powerRegs (s.fogActions f unit).regs = powerRegs s.regs := by
  unfold State.fogActions
  simp only []
  (repeat' split) <;> simp (disch := decide)

@[simp] theorem powerRegs_logFault (s : State) (code cls u suspect port d0 d1 d2 d3 : Nat) :
    powerRegs (s.logFault code cls u suspect port d0 d1 d2 d3).regs = powerRegs s.regs := by
  unfold State.logFault
  simp only []
  split <;> simp

end Sys2Proof.Machine
end

section
/-!
Where the input voltage, the temperatures and the thermal trip complete (08_bonded_dram R202; 21_power_cooling R492,
R494, R496).
-/
namespace Sys2Proof.Machine

/-! ### Input voltage and temperatures (08_bonded_dram R202; 21_power_cooling R492 to R494) -/

theorem exec_inputVoltageChange {s : State} (mv : Nat) (hg : s.sb.good = true) :
    exec (.inputVoltageChange mv) s = done (s.setVin mv) := congrArg done (if_pos hg)

theorem State.rd_setVin (s : State) (mv : Nat) : (s.setVin mv).rd keeperU Reg.PWR_VIN_MV = mv % 2 ^ 32 := by
  unfold State.setVin
  simp (disch := decide) only [State.rd_wrB_other]
  exact State.rd_wr_same _ _ _ _

theorem State.rd_setVin_vlow (s : State) (mv : Nat) : (s.setVin mv).rd keeperU Reg.PWR_STAT_VLOW = b2n (decide (mv < 48000)) :=
  (State.rd_wrB_other _ _ _ _ _ _ (by decide)).trans (State.rd_wrB_same _ _ _ (by decide))

theorem State.rd_setVin_vhigh (s : State) (mv : Nat) : (s.setVin mv).rd keeperU Reg.PWR_STAT_VHIGH = b2n (decide (56000 < mv)) :=
  State.rd_wrB_same _ _ _ (by decide)

theorem State.setVin_regs (s : State) (mv : Nat) :
    SameRegsBut [(keeperU, Reg.PWR_VIN_MV), (keeperU, Reg.PWR_STAT_VLOW), (keeperU, Reg.PWR_STAT_VHIGH)] s (s.setVin mv) :=
  (((SameRegsBut.of_self _ s).wr mv (by simp)).wr _ (by simp)).wr _ (by simp)

theorem inputVoltageChange_yields (s : State) (mv : Nat) (hg : s.sb.good = true) :
    Yields (.inputVoltageChange mv) s (fun t => t.rd keeperU Reg.PWR_VIN_MV = mv % 2 ^ 32 ∧
      t.rd keeperU Reg.PWR_STAT_VLOW = b2n (decide (mv < 48000)) ∧
      t.rd keeperU Reg.PWR_STAT_VHIGH = b2n (decide (56000 < mv)) ∧ t.out = s.out ∧
      SameRegsBut [(keeperU, Reg.PWR_VIN_MV), (keeperU, Reg.PWR_STAT_VLOW), (keeperU, Reg.PWR_STAT_VHIGH)] s t ∧
      SameBut [.regs] s t) := by
  refine .of_done (exec_inputVoltageChange mv hg) ?_
  exact ⟨s.rd_setVin mv, s.rd_setVin_vlow mv, s.rd_setVin_vhigh mv, rfl, s.setVin_regs mv, by simp⟩

theorem exec_inletOverTemp {s : State} {v : Nat} (hv : 450 < v) :
    exec (.inletOverTemp v) s = done ((s.wr keeperU Reg.PWR_COOL_T_IN v).logEvent eTHERMAL keeperU) := congrArg done (if_pos hv)

theorem inletOverTemp_yields (s : State) (v : Nat) (hv : 450 < v) :
    Yields (.inletOverTemp v) s (fun t => t.rd keeperU Reg.PWR_COOL_T_IN = v % 65536 ∧
      (t.log.ring.head?.map LogEntry.code) = some eTHERMAL ∧ t.out = s.out ∧ SameBut [.regs, .log, .sb] s t) := by
  refine .of_done (exec_inletOverTemp hv) ?_
  have hin : ((s.wr keeperU Reg.PWR_COOL_T_IN v).logEvent eTHERMAL keeperU).rd keeperU Reg.PWR_COOL_T_IN = v % 65536 :=
    (State.logEvent_regs _ _ _ _ _ _ _ _ _ (by decide)).trans (State.rd_wr_same _ _ _ _)
  exact ⟨hin, State.logEvent_head_code _ _ _ _ _ _ _, by simp, by simp⟩

/-- Fields of two units have different keys. -/
theorem fieldKey_ne_of_unit {u w : Nat} (f g : Field) (h : u ≠ w) (hf : f.off < 2 ^ 24 ∧ f.lo < 32 := by decide)
    (hg : g.off < 2 ^ 24 ∧ g.lo < 32 := by decide) : fieldKey u f ≠ fieldKey w g :=
  fun he => h (fieldKey_inj u w f g hf.1 hg.1 hf.2 hg.2 he).1

/-- The state with a stack's temperature shown. -/
def State.showStack (s : State) (d temp : Nat) : State :=
  (s.wr (dramU d) Reg.DRAM_TEMP_VALUE temp).wrB (dramU d) Reg.DRAM_STAT_HOT (decide (85 < temp))

theorem State.stackTemp_of_log {s : State} {d temp : Nat} (h : 95 < temp) (hold : s.rd (dramU d) Reg.DRAM_TEMP_VALUE ≤ 95) :
    s.stackTemp d temp = (s.showStack d temp).logEvent eTHERMAL (dramU d) := if_pos (by simp [h, hold])

theorem State.stackTemp_of_cool {s : State} {d temp : Nat} (h : temp ≤ 95) : s.stackTemp d temp = s.showStack d temp :=
  if_neg (by simp [h])

theorem State.rd_showStack_temp (s : State) (d temp : Nat) :
    (s.showStack d temp).rd (dramU d) Reg.DRAM_TEMP_VALUE = temp % 256 :=
  (State.rd_wrB_other _ _ _ _ _ _ (by simp only [fieldKey, Reg.DRAM_TEMP_VALUE, Reg.DRAM_STAT_HOT]; omega)).trans
    (State.rd_wr_same _ _ _ _)

theorem State.rd_showStack_hot (s : State) (d temp : Nat) :
    (s.showStack d temp).rd (dramU d) Reg.DRAM_STAT_HOT = b2n (decide (85 < temp)) := State.rd_wrB_same _ _ _ (by decide)

theorem State.showStack_regs (s : State) (d temp : Nat) :
    SameRegsBut [(dramU d, Reg.DRAM_TEMP_VALUE), (dramU d, Reg.DRAM_STAT_HOT)] s (s.showStack d temp) :=
  ((SameRegsBut.of_self _ s).wr temp (by simp)).wr _ (by simp)

@[simp] theorem SameBut.showStack {l : List Part} {s t : State} (d temp : Nat) (hregs : .regs ∈ l) :
    SameBut l s (t.showStack d temp) ↔ SameBut l s t := by simp [State.showStack, hregs]

theorem dramTempChange_cool_yields (s : State) (d temp : Nat) (hd : d < 24) (ht : temp ≤ 95) :
    Yields (.dramTempChange d temp) s (fun t => t.rd (dramU d) Reg.DRAM_TEMP_VALUE = temp % 256 ∧
      t.rd (dramU d) Reg.DRAM_STAT_HOT = b2n (decide (85 < temp)) ∧ t.out = s.out ∧
      SameRegsBut [(dramU d, Reg.DRAM_TEMP_VALUE), (dramU d, Reg.DRAM_STAT_HOT)] s t ∧ SameBut [.regs] s t) := by
  have hc : exec (.dramTempChange d temp) s = done (s.showStack d temp) := by
    rw [← State.stackTemp_of_cool ht]
    exact congrArg (fun k => done (s.stackTemp k temp)) (Nat.mod_eq_of_lt hd)
  refine .of_done hc ?_
  exact ⟨s.rd_showStack_temp d temp, s.rd_showStack_hot d temp, rfl, s.showStack_regs d temp, by simp⟩

theorem dramU_ne_keeperU {d : Nat} (hd : d < 24) : dramU d ≠ keeperU := by
  simp only [dramU, keeperU, unitOf]
  omega

/-- No field of a stack's controller is one that a log entry writes. -/
theorem dramU_not_logShows {d : Nat} (hd : d < 24) (f : Field) (hf : f.off < 2 ^ 24 ∧ f.lo < 32) :
    ∀ p ∈ logShows, fieldKey (dramU d) f ≠ fieldKey p.1 p.2 := by
  simp only [logShows, List.forall_mem_cons]
  refine ⟨?_, ?_, ?_, ?_, by simp⟩ <;> exact fieldKey_ne_of_unit f _ (dramU_ne_keeperU hd) hf

theorem dramTempChange_hot_yields (s : State) (d temp : Nat) (hd : d < 24) (ht : 95 < temp)
    (hold : s.rd (dramU d) Reg.DRAM_TEMP_VALUE ≤ 95) :
    Yields (.dramTempChange d temp) s (fun t => t.rd (dramU d) Reg.DRAM_TEMP_VALUE = temp % 256 ∧
      t.rd (dramU d) Reg.DRAM_STAT_HOT = 1 ∧ (t.log.ring.head?.map LogEntry.code) = some eTHERMAL ∧ SameMemBut 0 0 s t) := by
  have hc : exec (.dramTempChange d temp) s = done ((s.showStack d temp).logEvent eTHERMAL (dramU d)) := by
    rw [← State.stackTemp_of_log ht hold]
    exact congrArg (fun k => done (s.stackTemp k temp)) (Nat.mod_eq_of_lt hd)
  refine .of_done hc ?_
  have hlog (f : Field) (hf : f.off < 2 ^ 24 ∧ f.lo < 32) :=
    (s.showStack d temp).logEvent_regs eTHERMAL (dramU d) 0 0 0 0 (dramU d) f (dramU_not_logShows hd f hf)
  have hhot := s.rd_showStack_hot d temp
  rw [decide_eq_true (by omega : 85 < temp)] at hhot
  exact ⟨(hlog _ (by decide)).trans (s.rd_showStack_temp d temp), (hlog _ (by decide)).trans hhot,
    State.logEvent_head_code _ _ _ _ _ _ _, SameMemBut.canon.2 fun b _ => State.logEvent_get _ _ _ _ _ _ _ b⟩

/-! ### The thermal trip (21_power_cooling R496) -/

@[simp] theorem powerRegs_raiseFault (s : State) (c : Nat) : powerRegs (s.raiseFault c).regs = powerRegs s.regs :=
  powerRegs_wr _ _ _ (by decide)

/-- The keys of die K's units include the power controller's. -/
theorem dieOf_isPowerKey {k : Nat} (h : isPowerKey k = true) : dieOf (k / 2 ^ 29) = 39 := by
  simp only [isPowerKey, keeperU, unitOf, beq_iff_eq] at h
  simp only [dieOf]
  omega

@[simp] theorem powerRegs_darkDies (s : State) : powerRegs s.darkDies.regs = powerRegs s.regs := by
  have hfilter : powerRegs (s.regs.filter (fun e => decide (dieOf (e.1 / 2 ^ 29) = 39))) = powerRegs s.regs := by
    funext k d
    by_cases hk : isPowerKey k = true
    · simp only [powerRegs, hk, if_true]
      exact mget_filter_true (fun k => decide (dieOf (k / 2 ^ 29) = 39)) s.regs k d (decide_eq_true (dieOf_isPowerKey hk))
    · simp [powerRegs, hk]
  unfold State.darkDies
  simp (disch := decide) only [powerRegs_wrB, powerRegs_logStat]
  exact hfilter

theorem State.rd_trip (s : State) : s.trip.rd keeperU Reg.PWR_STAT_TRIP = 1 := by
  unfold State.trip
  simp only []
  rw [State.rd_of_powerRegs (powerRegs_darkDies _) (by decide), State.rd_of_powerRegs (powerRegs_raiseFault _ _) (by decide)]
  exact State.rd_wr_same _ _ _ _

/-- A trip writes no other of the power controller's registers. -/
theorem State.rd_trip_other (s : State) {f : Field} (hf : isPowerKey (fieldKey keeperU f) = true)
    (hne : fieldKey keeperU f ≠ fieldKey keeperU Reg.PWR_STAT_TRIP) : s.trip.rd keeperU f = s.rd keeperU f := by
  unfold State.trip
  simp only []
  rw [State.rd_of_powerRegs (powerRegs_darkDies _) hf, State.rd_of_powerRegs (powerRegs_raiseFault _ _) hf,
    State.rd_wr_other _ _ _ _ _ _ hne, State.rd_of_powerRegs (powerRegs_logFault ..) hf]

theorem State.mem_trip_faults (s : State) : tripFault ∈ s.trip.sb.faults := State.mem_raiseFault _ _

theorem State.trip_cores (s : State) : s.trip.cores = [] := rfl

theorem State.trip_ports (s : State) : s.trip.ports = [] := rfl

theorem State.trip_onlyIn (s : State) : OnlyIn (fun a => decide (taDie a = 39)) s.trip := OnlyIn.of_filter rfl

theorem State.rd_setTemps_tj (s : State) (tj tjDie td tdDie : Nat) :
    (s.setTemps tj tjDie td tdDie).rd keeperU Reg.PWR_TEMP_TJ = tj % 256 := by
  unfold State.setTemps
  simp (disch := decide) only [State.rd_wr_other]
  exact State.rd_wr_same _ _ _ _

theorem State.rd_setTemps_td (s : State) (tj tjDie td tdDie : Nat) :
    (s.setTemps tj tjDie td tdDie).rd keeperU Reg.PWR_TEMP_TD = td % 256 := by
  unfold State.setTemps
  simp (disch := decide) only [State.rd_wr_other]
  exact State.rd_wr_same _ _ _ _

theorem State.controlled_of {s : State} (hg : s.sb.good = true) (ht : s.rd keeperU Reg.PWR_STAT_TRIP = 0) :
    s.controlled = true := by simp [State.controlled, hg, ht]

theorem exec_thermalTrip {s : State} {tj td : Nat} (tjDie tdDie : Nat) (hs : s.controlled = true)
    (h : 115 ≤ tj ∨ 105 ≤ (s.hottest td (tdDie % 24)).1) :
    exec (.thermalTrip tj tjDie td tdDie) s =
      done ((s.stackTemp (tdDie % 24) td).setTemps tj tjDie (s.hottest td (tdDie % 24)).1 (s.hottest td (tdDie % 24)).2).trip := by
  have hmust : s.mustTrip tj (s.hottest td (tdDie % 24)).1 = true := by
    rcases h with h | h <;> simp [State.mustTrip, h]
  simp only [exec, execThermalTrip]
  rw [if_pos (by rw [hs, hmust]; rfl)]

theorem thermalTrip_yields (s : State) (tj tjDie td tdDie : Nat) (hg : s.sb.good = true)
    (ht : s.rd keeperU Reg.PWR_STAT_TRIP = 0) (h : 115 ≤ tj ∨ 105 ≤ (s.hottest td (tdDie % 24)).1) :
    Yields (.thermalTrip tj tjDie td tdDie) s (fun t => t.rd keeperU Reg.PWR_STAT_TRIP = 1 ∧
      t.rd keeperU Reg.PWR_TEMP_TJ = tj % 256 ∧ t.rd keeperU Reg.PWR_TEMP_TD = (s.hottest td (tdDie % 24)).1 % 256 ∧
      tripFault ∈ t.sb.faults ∧ t.cores = [] ∧ t.ports = [] ∧ OnlyIn (fun a => decide (taDie a = 39)) t) := by
  refine .of_done (exec_thermalTrip tjDie tdDie (State.controlled_of hg ht) h) ?_
  clear h
  generalize s.hottest td (tdDie % 24) = hot
  generalize s.stackTemp (tdDie % 24) td = t
  have htj := (State.rd_trip_other _ (by decide) (by decide)).trans (t.rd_setTemps_tj tj tjDie hot.1 hot.2)
  have htd := (State.rd_trip_other _ (by decide) (by decide)).trans (t.rd_setTemps_td tj tjDie hot.1 hot.2)
  simp only [State.canon_rd, State.canon_sb, State.canon_cores, State.canon_ports, OnlyIn.canon]
  exact ⟨State.rd_trip _, htj, htd, State.mem_trip_faults _, State.trip_cores _, State.trip_ports _, State.trip_onlyIn _⟩

end Sys2Proof.Machine
end

section
/-!
Where a window of the power controller completes (01_module_dies_clocks R27; 21_power_cooling R493, R495).
-/
namespace Sys2Proof.Machine

/-! ### The window's end (21_power_cooling R493, R495) -/

/-- No stack's reading makes the hottest less than the window's own. -/
theorem State.le_hottest (s : State) (td tdDie : Nat) : td ≤ (s.hottest td tdDie).1 := by
  unfold State.hottest
  refine List.foldlRecOn (motive := fun p : Nat × Nat => td ≤ p.1) _ _ (Nat.le_refl td) fun p hp d _ => ?_
  simp only []
  split
  case isTrue h =>
    obtain ⟨-, hlt⟩ : d ≠ tdDie ∧ p.1 < s.rd (dramU d) Reg.DRAM_TEMP_VALUE := by simpa using h
    exact hp.trans hlt.le
  case isFalse => exact hp

theorem State.rd_showStack_other (s : State) {d u : Nat} (temp : Nat) {f : Field} (hu : u ≠ dramU d)
    (hf : f.off < 2 ^ 24 ∧ f.lo < 32) : (s.showStack d temp).rd u f = s.rd u f :=
  (State.rd_wrB_other _ _ _ _ _ _ (fieldKey_ne_of_unit _ _ hu hf)).trans
    (State.rd_wr_other _ _ _ _ _ _ (fieldKey_ne_of_unit _ _ hu hf))

/-- What the power controller reads at a window's end, in the order of the command's operands. -/
structure Reading where
  mv : Nat
  ma : Nat
  power : Nat
  tj : Nat
  tjDie : Nat
  td : Nat
  tdDie : Nat
  tIn : Nat
  tOut : Nat
  blocks : List Nat

/-- The command of a window that ends with a reading. -/
def Reading.cmd (w : Reading) : Instr :=
  .powerWindowEnd w.mv w.ma w.power w.tj w.tjDie w.td w.tdDie w.tIn w.tOut w.blocks

/-- Td and its die as a reading finds them. -/
def State.hottestIn (s : State) (w : Reading) : Nat × Nat := s.hottest w.td (w.tdDie % 24)

/-- The registers that a window shows, where its stack is not above 95 degrees. -/
def State.windowRegs (s : State) (w : Reading) : State :=
  let t := ((((s.setVin w.mv).wr keeperU Reg.PWR_IIN_MA w.ma).wr keeperU Reg.PWR_PIN_W w.power).wr keeperU Reg.PWR_PIN_PC
    (s.effectiveCap w.mv))
  (((t.showStack (w.tdDie % 24) w.td).setTemps w.tj w.tjDie (s.hottestIn w).1 (s.hottestIn w).2).wr keeperU Reg.PWR_COOL_T_IN
    w.tIn).wr keeperU Reg.PWR_COOL_T_OUT w.tOut

/-- The power controller's own counts after a window at a clock step, where the hottest stack is at `td`. -/
def PwrSt.window (p : PwrSt) (w : Reading) (step td : Nat) : PwrSt :=
  { p with
    mJ := p.mJ + w.power, blocks := w.blocks.take 8,
    atStep := p.atStep.set step ((p.atStep.getD step 0 + msTicks) % 2 ^ 64),
    cool := if w.tj ≤ 100 && td ≤ 90 then Nat.min 10 (p.cool + 1) else 0,
    hot := if 105 < w.tj && step = 3 then p.hot + 1 else 0 }

/-- The module as a window finds it, before the decision on the clock step. -/
def State.window (s : State) (w : Reading) : State :=
  ({ s.windowRegs w with
     pwr := s.pwr.window w (s.rd clkU Reg.CLK_STAT_STEP) (s.hottestIn w).1 } : State).wr keeperU Reg.PWR_ENERGY_LO_J
    ((s.pwr.mJ + w.power) / 1000)

/-- The module after the decision. -/
def State.decided (s : State) (w : Reading) : State :=
  (s.window w).chooseStep w.power (s.effectiveCap w.mv) w.tj (s.hottestIn w).1

theorem keeperU_ne_dramU (die : Nat) : keeperU ≠ dramU (die % 24) := (dramU_ne_keeperU (Nat.mod_lt die (by decide))).symm

theorem clkU_ne_dramU (die : Nat) : clkU ≠ dramU (die % 24) := by
  simp only [clkU, dramU, unitOf]
  omega

theorem State.rd_with_pwr (s : State) (p : PwrSt) (u : Nat) (f : Field) : ({ s with pwr := p } : State).rd u f = s.rd u f := by
  simp only [State.rd]

theorem State.mustTrip_of_cool {s : State} {tj td : Nat} (htj : tj ≤ 105) (htd : td ≤ 95) (hhot : s.pwr.hot = 0) :
    s.mustTrip tj td = false := by
  simp [State.mustTrip, hhot]
  omega

/-- What a window comes to that neither finds the module too hot nor counts it at step 3. -/
theorem exec_powerWindowEnd {s : State} {w : Reading} (hs : s.controlled = true) (htj : w.tj ≤ 105)
    (htd : (s.hottestIn w).1 ≤ 95) (hhot : (s.decided w).pwr.hot = 0) : exec w.cmd s = done (s.decided w) := by
  have hstack : w.td ≤ 95 := (s.le_hottest w.td (w.tdDie % 24)).trans htd
  have hmust : ¬ (s.decided w).mustTrip w.tj (s.hottestIn w).1 = true := by simp [State.mustTrip_of_cool htj htd hhot]
  simp only [Reading.cmd, exec, execPowerWindowEnd, State.stackTemp_of_cool hstack]
  rw [if_neg (by simp [hs])]
  exact congrArg done (if_neg hmust)

theorem State.rd_window_other (s : State) (w : Reading) {u : Nat} {f : Field}
    (h : fieldKey u f ≠ fieldKey keeperU Reg.PWR_ENERGY_LO_J) : (s.window w).rd u f = (s.windowRegs w).rd u f := by
  rw [State.window, State.rd_wr_other _ _ _ _ _ _ h, State.rd_with_pwr]

/-- A window shows the input, the temperatures and the coolant's outlet, and the clock step stays. -/
theorem State.rd_window (s : State) (w : Reading) :
    (s.window w).rd keeperU Reg.PWR_VIN_MV = w.mv % 2 ^ 32 ∧ (s.window w).rd keeperU Reg.PWR_IIN_MA = w.ma % 2 ^ 32 ∧
      (s.window w).rd keeperU Reg.PWR_PIN_W = w.power % 2 ^ 16 ∧ (s.window w).rd keeperU Reg.PWR_TEMP_TJ = w.tj % 2 ^ 8 ∧
      (s.window w).rd keeperU Reg.PWR_COOL_T_OUT = w.tOut % 2 ^ 16 ∧
      (s.window w).rd clkU Reg.CLK_STAT_STEP = s.rd clkU Reg.CLK_STAT_STEP := by
  have hkeeper (t : State) (f : Field) (hf : f.off < 2 ^ 24 ∧ f.lo < 32) :=
    t.rd_showStack_other w.td (keeperU_ne_dramU w.tdDie) hf
  have hclk (t : State) (f : Field) (hf : f.off < 2 ^ 24 ∧ f.lo < 32) := t.rd_showStack_other w.td (clkU_ne_dramU w.tdDie) hf
  simp (disch := decide) only [State.rd_window_other, State.windowRegs, State.setTemps, State.setVin, State.rd_wr_other,
    State.rd_wrB_other, State.rd_wr_same, hkeeper, hclk]
  exact ⟨rfl, rfl, rfl, rfl, rfl, trivial⟩

theorem State.window_pwr (s : State) (w : Reading) :
    (s.window w).pwr = s.pwr.window w (s.rd clkU Reg.CLK_STAT_STEP) (s.hottestIn w).1 := rfl

theorem State.window_out (s : State) (w : Reading) : (s.window w).out = s.out := rfl

theorem State.window_hot (s : State) {w : Reading} (htj : w.tj ≤ 105) : (s.window w).pwr.hot = 0 := by
  rw [State.window_pwr]
  exact if_neg (by simp [htj])

theorem State.window_frame (s : State) (w : Reading) : SameBut [.regs, .pwr] s (s.window w) := by
  have hregs : SameBut [.regs, .pwr] s (s.windowRegs w) := by simp [State.windowRegs]
  rw [State.window, SameBut.wr _ _ _ (by simp), SameBut.with_pwr _ (by simp)]
  exact hregs

/-! ### The decision of a window (Table 21-4) -/

/-- The state with no thermal step down noted. -/
def State.calm (s : State) : State := { s with pwr := { s.pwr with therm := false } }

@[simp] theorem State.calm_rd (s : State) (u : Nat) (f : Field) : s.calm.rd u f = s.rd u f := s.rd_with_pwr _ u f

theorem State.calm_pwr (s : State) : s.calm.pwr = { s.pwr with therm := false } := rfl

@[simp] theorem SameBut.calm {l : List Part} {s t : State} (hpwr : .pwr ∈ l) : SameBut l s t.calm ↔ SameBut l s t :=
  SameBut.with_pwr _ hpwr

theorem State.chooseStep_of_within {s : State} {power pc tj td : Nat} (htj : tj ≤ 105) (htd : td ≤ 95) (hp : power ≤ pc)
    (hstep : s.rd clkU Reg.CLK_STAT_STEP = 0) : s.chooseStep power pc tj td = s.calm := by
  have hthermal : (decide (105 < tj) || decide (95 < td)) = false := by simp [htj, htd]
  have hover : decide (pc < power) = false := by simpa using hp
  simp [State.chooseStep, hthermal, hover, hstep, State.calm]

theorem State.chooseStep_of_over {s : State} {power pc tj td : Nat} (htj : tj ≤ 105) (htd : td ≤ 95) (hp : pc < power)
    (hstep : s.rd clkU Reg.CLK_STAT_STEP < 3) : s.chooseStep power pc tj td = (s.stepDown false true).calm := by
  have hthermal : (decide (105 < tj) || decide (95 < td)) = false := by simp [htj, htd]
  simp [State.chooseStep, hthermal, hp, hstep, State.calm]

/-- A step down for power shows the next step, its source and the count of its cause. -/
theorem State.rd_stepDown_power (s : State) (hstep : s.rd clkU Reg.CLK_STAT_STEP < 3) :
    let t := s.stepDown false true
    t.rd clkU Reg.CLK_STAT_STEP = s.rd clkU Reg.CLK_STAT_STEP + 1 ∧ t.rd clkU Reg.CLK_STAT_THROTTLED = 1 ∧
      t.rd keeperU Reg.PWR_STAT_SRC = 2 := by
  simp (disch := decide) only [State.stepDown, State.setStep, State.rd_with_pwr, State.rd_bump_other, State.rd_wr_other,
    State.rd_wrB_other, State.rd_wr_same]
  refine ⟨Nat.mod_eq_of_lt (Nat.succ_lt_succ hstep), ?_, rfl⟩
  exact (State.rd_wrB_same _ _ _ (by decide)).trans (congrArg b2n (decide_eq_true (Nat.succ_pos _)))

theorem State.stepDown_pwr (s : State) (thermal power : Bool) : (s.stepDown thermal power).pwr =
    { s.pwr with thermDowns := (s.pwr.thermDowns + b2n thermal) % 2 ^ 32, powerDowns := (s.pwr.powerDowns + b2n power) % 2 ^ 32 } :=
  rfl

/-- The fields that a step down writes. -/
def stepShows : List (Nat × Field) :=
  [(clkU, Reg.CLK_STAT_STEP), (clkU, Reg.CLK_STAT_THROTTLED), (clkU, Reg.CLK_STAT_STEP_CHANGES), (keeperU, Reg.PWR_STAT_SRC),
   (keeperU, Reg.PWR_THROT_THERM), (keeperU, Reg.PWR_THROT_POWER)]

theorem SameRegsBut.bump {l : List (Nat × Field)} {s t : State} (h : SameRegsBut l s t) {u : Nat} {f : Field} (n : Nat)
    (hm : (u, f) ∈ l) : SameRegsBut l s (t.bump u f n) := h.wr _ hm

theorem State.stepDown_regs (s : State) (thermal power : Bool) : SameRegsBut stepShows s (s.stepDown thermal power) := by
  have hstep : SameRegsBut stepShows s (s.setStep (s.rd clkU Reg.CLK_STAT_STEP + 1)) :=
    (((SameRegsBut.of_self _ s).wr _ (by simp [stepShows])).wr _ (by simp [stepShows])).bump _ (by simp [stepShows])
  have hshow := ((hstep.wr (u := keeperU) (f := Reg.PWR_STAT_SRC) (b2n thermal + 2 * b2n power) (by simp [stepShows])).bump
    (u := keeperU) (f := Reg.PWR_THROT_THERM) (b2n thermal) (by simp [stepShows])).bump
    (u := keeperU) (f := Reg.PWR_THROT_POWER) (b2n power) (by simp [stepShows])
  intro u f hw
  simpa only [State.stepDown, State.rd_with_pwr] using hshow u f hw

theorem powerWindowEnd_within_yields (s : State) (w : Reading) (hg : s.sb.good = true) (ht : s.rd keeperU Reg.PWR_STAT_TRIP = 0)
    (htj : w.tj ≤ 105) (htd : (s.hottestIn w).1 ≤ 95)
    (hp : w.power ≤ Nat.min (s.rd keeperU Reg.PWR_CAP_W) (w.mv * 196 / 1000)) (hstep : s.rd clkU Reg.CLK_STAT_STEP = 0) :
    Yields w.cmd s (fun t => t.rd keeperU Reg.PWR_VIN_MV = w.mv % 2 ^ 32 ∧ t.rd keeperU Reg.PWR_IIN_MA = w.ma % 2 ^ 32 ∧
      t.rd keeperU Reg.PWR_PIN_W = w.power % 2 ^ 16 ∧ t.rd keeperU Reg.PWR_TEMP_TJ = w.tj % 2 ^ 8 ∧
      t.rd keeperU Reg.PWR_COOL_T_OUT = w.tOut % 2 ^ 16 ∧ t.rd clkU Reg.CLK_STAT_STEP = 0 ∧ t.pwr.mJ = s.pwr.mJ + w.power ∧
      t.pwr.blocks = w.blocks.take 8 ∧ t.out = s.out ∧ SameBut [.regs, .pwr] s t) := by
  obtain ⟨hvin, hiin, hpin, htemp, hout, hsame⟩ := s.rd_window w
  have hdec : s.decided w = (s.window w).calm := State.chooseStep_of_within htj htd hp (hsame.trans hstep)
  have hhot : (s.decided w).pwr.hot = 0 := by rw [hdec]; exact s.window_hot htj
  refine .of_done (exec_powerWindowEnd (State.controlled_of hg ht) htj htd hhot) ?_
  rw [hdec]
  simp only [State.canon_rd, State.calm_rd, State.canon_out, State.canon_pwr, SameBut.canon]
  exact ⟨hvin, hiin, hpin, htemp, hout, hsame.trans hstep, rfl, rfl, s.window_out w,
    (SameBut.calm (by simp)).2 (s.window_frame w)⟩

theorem powerWindowEnd_over_yields (s : State) (w : Reading) (hg : s.sb.good = true) (ht : s.rd keeperU Reg.PWR_STAT_TRIP = 0)
    (htj : w.tj ≤ 105) (htd : (s.hottestIn w).1 ≤ 95)
    (hp : Nat.min (s.rd keeperU Reg.PWR_CAP_W) (w.mv * 196 / 1000) < w.power) (hstep : s.rd clkU Reg.CLK_STAT_STEP < 3) :
    Yields w.cmd s (fun t => t.rd keeperU Reg.PWR_VIN_MV = w.mv % 2 ^ 32 ∧ t.rd keeperU Reg.PWR_IIN_MA = w.ma % 2 ^ 32 ∧
      t.rd keeperU Reg.PWR_PIN_W = w.power % 2 ^ 16 ∧ t.rd keeperU Reg.PWR_TEMP_TJ = w.tj % 2 ^ 8 ∧
      t.rd keeperU Reg.PWR_COOL_T_OUT = w.tOut % 2 ^ 16 ∧ t.rd clkU Reg.CLK_STAT_STEP = s.rd clkU Reg.CLK_STAT_STEP + 1 ∧
      t.rd clkU Reg.CLK_STAT_THROTTLED = 1 ∧ t.rd keeperU Reg.PWR_STAT_SRC = 2 ∧
      t.pwr.powerDowns = (s.pwr.powerDowns + 1) % 2 ^ 32 ∧ SameBut [.regs, .pwr] s t) := by
  obtain ⟨hvin, hiin, hpin, htemp, hout, hsame⟩ := s.rd_window w
  have hlt : (s.window w).rd clkU Reg.CLK_STAT_STEP < 3 := hsame ▸ hstep
  have hdec : s.decided w = ((s.window w).stepDown false true).calm := State.chooseStep_of_over htj htd hp hlt
  have hhot : (s.decided w).pwr.hot = 0 := by rw [hdec, State.calm_pwr, State.stepDown_pwr]; exact s.window_hot htj
  refine .of_done (exec_powerWindowEnd (State.controlled_of hg ht) htj htd hhot) ?_
  rw [hdec]
  obtain ⟨hnext, hthrot, hsrc⟩ := State.rd_stepDown_power _ hlt
  have hkeep (f : Field) (hf : ∀ p ∈ stepShows, fieldKey keeperU f ≠ fieldKey p.1 p.2) :=
    (s.window w).stepDown_regs false true keeperU f hf
  have hframe := (SameBut.stepDown false true (by simp) (by simp)).2 (s.window_frame w)
  have hdowns : ((s.window w).stepDown false true).calm.pwr.powerDowns = (s.pwr.powerDowns + 1) % 2 ^ 32 := by
    rw [State.calm_pwr, State.stepDown_pwr, State.window_pwr]
    rfl
  simp only [State.canon_rd, State.calm_rd, State.canon_pwr, SameBut.canon]
  exact ⟨(hkeep _ (by decide)).trans hvin, (hkeep _ (by decide)).trans hiin, (hkeep _ (by decide)).trans hpin,
    (hkeep _ (by decide)).trans htemp, (hkeep _ (by decide)).trans hout, hnext.trans (congrArg (· + 1) hsame), hthrot, hsrc, hdowns,
    (SameBut.calm (by simp)).2 hframe⟩

end Sys2Proof.Machine
end

section
/-!
Where power states and wakes complete, and the settlement of O29 (21_power_cooling R497 to R500).
-/
namespace Sys2Proof.Machine

/-! ### Power states (08_bonded_dram R202; 21_power_cooling R497 to R500) -/

/-- A field that every update leaves is left by all of them. -/
theorem State.rd_forEach_other {α : Type} {f : State → α → State} {u : Nat} {g : Field} (l : List α)
    (h : ∀ t : State, ∀ a ∈ l, (f t a).rd u g = t.rd u g) (s : State) : (forEach l f s).rd u g = s.rd u g := by
  induction l generalizing s with
  | nil => rfl
  | cons a l ih => exact (ih (fun t b hb => h t b (List.mem_cons_of_mem a hb)) _).trans (h s a List.mem_cons_self)

/-- SELF_REF of every stack written with one value. -/
def State.setSelfRef (s : State) (v : Nat) : State :=
  forEach (List.range 24) (fun s d => s.wr (dramU d) Reg.DRAM_STAT_SELF_REF v) s

/-- A write of SELF_REF of a stack keeps every SELF_REF that holds the value already. -/
theorem State.rd_wr_selfRef {s : State} {d v : Nat} (h : s.rd (dramU d) Reg.DRAM_STAT_SELF_REF = v % 2 ^ 1) (k : Nat) :
    (s.wr (dramU k) Reg.DRAM_STAT_SELF_REF v).rd (dramU d) Reg.DRAM_STAT_SELF_REF = v % 2 ^ 1 := by
  by_cases hu : dramU d = dramU k
  · rw [hu]
    exact State.rd_wr_same _ _ _ _
  · exact (State.rd_wr_other _ _ _ _ _ _ (fieldKey_ne_of_unit _ _ hu)).trans h

theorem State.rd_setSelfRef (s : State) (v : Nat) : ∀ d ∈ List.range 24,
    (s.setSelfRef v).rd (dramU d) Reg.DRAM_STAT_SELF_REF = v % 2 ^ 1 := by
  unfold State.setSelfRef
  generalize List.range 24 = l
  intro d hd
  have hkeep (l : List Nat) (t : State) (ht : t.rd (dramU d) Reg.DRAM_STAT_SELF_REF = v % 2 ^ 1) :
      (forEach l (fun s d => s.wr (dramU d) Reg.DRAM_STAT_SELF_REF v) t).rd (dramU d) Reg.DRAM_STAT_SELF_REF = v % 2 ^ 1 :=
    List.foldlRecOn (motive := fun t : State => t.rd (dramU d) Reg.DRAM_STAT_SELF_REF = v % 2 ^ 1) l _ ht
      fun _ ht k _ => State.rd_wr_selfRef ht k
  obtain ⟨l₁, l₂, rfl⟩ := List.append_of_mem hd
  rw [forEach, List.foldl_append]
  exact hkeep l₂ _ (State.rd_wr_same _ _ _ _)

theorem State.rd_setSelfRef_other (s : State) (v : Nat) {u : Nat} {f : Field} (hu : ∀ d < 24, u ≠ dramU d)
    (hf : f.off < 2 ^ 24 ∧ f.lo < 32) : (s.setSelfRef v).rd u f = s.rd u f :=
  State.rd_forEach_other _ (fun t d hd => t.rd_wr_other _ _ _ _ _ (fieldKey_ne_of_unit _ _ (hu d (List.mem_range.1 hd)) hf)) s

theorem State.setSelfRef_pwr (s : State) (v : Nat) : (s.setSelfRef v).pwr = s.pwr :=
  List.foldlRecOn (motive := fun t : State => t.pwr = s.pwr) _ _ rfl fun _ ht _ _ => ht

theorem State.setSelfRef_out (s : State) (v : Nat) : (s.setSelfRef v).out = s.out :=
  List.foldlRecOn (motive := fun t : State => t.out = s.out) _ _ rfl fun _ ht _ _ => ht

@[simp] theorem SameBut.setSelfRef {l : List Part} {s t : State} (v : Nat) (hregs : .regs ∈ l) :
    SameBut l s (t.setSelfRef v) ↔ SameBut l s t := by simp [State.setSelfRef, hregs]

/-- The module Active, its stacks not yet out of self refresh. -/
def State.active (s : State) : State :=
  ({ s with pwr := { s.pwr with waking := false } } : State).wr keeperU Reg.PWR_STAT_PSTATE 0

theorem State.rd_active (s : State) : s.active.rd keeperU Reg.PWR_STAT_PSTATE = 0 := State.rd_wr_same _ _ _ _

theorem State.active_pwr (s : State) : s.active.pwr = { s.pwr with waking := false } := rfl

theorem State.active_out (s : State) : s.active.out = s.out := rfl

theorem State.active_frame (s : State) : SameBut [.regs, .pwr] s s.active := by simp [State.active]

theorem State.wakeNow_of_light {s : State} (h : s.rd keeperU Reg.PWR_STAT_PSTATE < 3) (hh : s.heldTx = []) :
    s.wakeNow = s.active.setSelfRef 0 := by
  have hne : s.rd keeperU Reg.PWR_STAT_PSTATE ≠ 3 := Nat.ne_of_lt h
  have hsame : ({ s with pwr := { s.pwr with waking := false }, heldTx := [] } : State) =
      { s with pwr := { s.pwr with waking := false } } := by rw [← hh]
  simp only [State.wakeNow, hne, decide_false, Bool.false_and, Bool.false_eq_true, if_false, hsame, hh]
  rw [forEach.eq_1 [], List.foldl_nil, State.setSelfRef, State.active]

theorem wakeComplete_yields (s : State) (hw : s.pwr.waking = true) (hpos : 0 < s.rd keeperU Reg.PWR_STAT_PSTATE)
    (hlt : s.rd keeperU Reg.PWR_STAT_PSTATE < 3) (hh : s.heldTx = []) :
    Yields .wakeComplete s (fun t => t.rd keeperU Reg.PWR_STAT_PSTATE = 0 ∧ t.pwr = { s.pwr with waking := false } ∧
      (∀ d ∈ List.range 24, t.rd (dramU d) Reg.DRAM_STAT_SELF_REF = 0) ∧ t.out = s.out ∧ SameBut [.regs, .pwr] s t) := by
  have hc : exec .wakeComplete s = done s.wakeNow := congrArg done (if_pos (by simp [State.mustWake, hw, hpos]))
  rw [State.wakeNow_of_light hlt hh] at hc
  refine .of_done hc ?_
  have hstate : (s.active.setSelfRef 0).rd keeperU Reg.PWR_STAT_PSTATE = 0 :=
    (State.rd_setSelfRef_other _ 0 (fun d hd => (dramU_ne_keeperU hd).symm) (by decide)).trans s.rd_active
  simp only [State.canon_rd, State.canon_pwr, State.canon_out, SameBut.canon]
  exact ⟨hstate, (State.setSelfRef_pwr _ 0).trans s.active_pwr, State.rd_setSelfRef _ 0, (State.setSelfRef_out _ 0).trans s.active_out,
    (SameBut.setSelfRef 0 (by simp)).2 s.active_frame⟩

theorem State.permitted_le (s : State) : s.permitted ≤ 3 := by
  unfold State.permitted
  simp only []
  (repeat' split) <;> decide

/-- The Ethernet links down, as a power state from 2 on leaves them. -/
def State.linksDown (s : State) : State :=
  forEach (List.range 2) (fun s p => (s.wr (ethU p) Reg.ETH_STAT_LINK 0).wr (ethU p) Reg.ETH_STAT_FECLOCK 0) s

theorem State.rd_linksDown_other (s : State) {u : Nat} {f : Field} (hu : ∀ p < 2, u ≠ ethU p) (hf : f.off < 2 ^ 24 ∧ f.lo < 32) :
    s.linksDown.rd u f = s.rd u f :=
  State.rd_forEach_other _ (fun t p hp =>
    have hne := hu p (List.mem_range.1 hp)
    (State.rd_wr_other _ _ _ _ _ _ (fieldKey_ne_of_unit _ _ hne hf)).trans
      (t.rd_wr_other _ _ _ _ _ (fieldKey_ne_of_unit _ _ hne hf))) s

theorem State.linksDown_out (s : State) : s.linksDown.out = s.out :=
  List.foldlRecOn (motive := fun t : State => t.out = s.out) _ _ rfl fun _ ht _ _ => ht

@[simp] theorem SameBut.linksDown {l : List Part} {s t : State} (hregs : .regs ∈ l) :
    SameBut l s t.linksDown ↔ SameBut l s t := by simp [State.linksDown, hregs]

theorem keeperU_ne_ethU : ∀ p < 2, keeperU ≠ ethU p := by decide

theorem dramU_ne_ethU (d : Nat) : ∀ p < 2, dramU d ≠ ethU p := fun p hp => by
  simp only [dramU, ethU, unitOf]
  omega

/-- The registers of a power state. -/
def State.sleepRegs (s : State) (n : Nat) : State :=
  if 2 ≤ n then ((s.wr keeperU Reg.PWR_STAT_PSTATE n).setSelfRef 1).linksDown else s.wr keeperU Reg.PWR_STAT_PSTATE n

/-- The module in a power state; the deepest loses its scratchpads. -/
def State.sleep (s : State) (n : Nat) : State :=
  if n = 3 then
    { s.sleepRegs n with mem := (s.sleepRegs n).mem.filter (fun c => !inScratch c.1),
                         ecc := (s.sleepRegs n).ecc.filter (fun e => !inScratch (4 * e.1)) }
  else s.sleepRegs n

theorem State.sleepRegs_of_light {s : State} {n : Nat} (h : n < 2) : s.sleepRegs n = s.wr keeperU Reg.PWR_STAT_PSTATE n :=
  if_neg (by omega)

theorem State.sleepRegs_of_deep {s : State} {n : Nat} (h : 2 ≤ n) :
    s.sleepRegs n = ((s.wr keeperU Reg.PWR_STAT_PSTATE n).setSelfRef 1).linksDown := if_pos h

theorem State.sleepRegs_out (s : State) (n : Nat) : (s.sleepRegs n).out = s.out := by
  unfold State.sleepRegs
  split
  · rw [State.linksDown_out, State.setSelfRef_out, State.wr_out]
  · rfl

theorem State.sleepRegs_frame (s : State) (n : Nat) : SameBut [.regs] s (s.sleepRegs n) := by
  unfold State.sleepRegs
  split <;> simp

theorem State.rd_sleepRegs (s : State) {n : Nat} (h : n ≤ 3) : (s.sleepRegs n).rd keeperU Reg.PWR_STAT_PSTATE = n := by
  have hwr : (s.wr keeperU Reg.PWR_STAT_PSTATE n).rd keeperU Reg.PWR_STAT_PSTATE = n :=
    (State.rd_wr_same _ _ _ _).trans (Nat.mod_eq_of_lt (Nat.lt_succ_of_le h))
  unfold State.sleepRegs
  split
  · rw [State.rd_linksDown_other _ keeperU_ne_ethU (by decide),
      State.rd_setSelfRef_other _ 1 (fun d hd => (dramU_ne_keeperU hd).symm) (by decide), hwr]
  · exact hwr

theorem State.rd_sleepRegs_selfRef (s : State) {n : Nat} (h : 2 ≤ n) :
    ∀ d ∈ List.range 24, (s.sleepRegs n).rd (dramU d) Reg.DRAM_STAT_SELF_REF = 1 := fun d hd => by
  rw [State.sleepRegs_of_deep h, State.rd_linksDown_other _ (dramU_ne_ethU d) (by decide),
    State.rd_setSelfRef _ 1 d hd]
  decide

theorem State.rd_sleep (s : State) (n u : Nat) (f : Field) : (s.sleep n).rd u f = (s.sleepRegs n).rd u f := by
  unfold State.sleep
  split
  · simp only [State.rd]
  · rfl

theorem State.sleep_out (s : State) (n : Nat) : (s.sleep n).out = s.out := by
  unfold State.sleep
  split <;> exact s.sleepRegs_out n

theorem exec_powerStateEntry {s : State} (hs : s.controlled = true) (h8 : s.stage = 8)
    (hlt : s.rd keeperU Reg.PWR_STAT_PSTATE < s.permitted) (hw : s.pwr.waking = false) (hh : s.heldTx = [])
    (hr : s.kpr.run = none) (hst : s.rd keeperU Reg.RCV_STAT_STATE ≠ 3) : exec .powerStateEntry s = done (s.sleep s.permitted) :=
  if_pos (by simp [hs, h8, hlt, hw, hh, hr, hst])

theorem powerStateEntry_yields (s : State) (hg : s.sb.good = true) (ht : s.rd keeperU Reg.PWR_STAT_TRIP = 0) (h8 : s.stage = 8)
    (hlt : s.rd keeperU Reg.PWR_STAT_PSTATE < s.permitted) (hw : s.pwr.waking = false) (hh : s.heldTx = [])
    (hr : s.kpr.run = none) (hst : s.rd keeperU Reg.RCV_STAT_STATE ≠ 3) :
    Yields .powerStateEntry s (fun t => t.rd keeperU Reg.PWR_STAT_PSTATE = s.permitted ∧
      (s.permitted = 1 → SameRegsBut [(keeperU, Reg.PWR_STAT_PSTATE)] s t) ∧ (s.permitted < 3 → SameMemBut 0 0 s t) ∧
      (2 ≤ s.permitted → ∀ d ∈ List.range 24, t.rd (dramU d) Reg.DRAM_STAT_SELF_REF = 1) ∧ t.out = s.out) := by
  refine .of_done (exec_powerStateEntry (State.controlled_of hg ht) h8 hlt hw hh hr hst) ?_
  simp only [State.canon_rd, State.canon_out, SameRegsBut.canon, SameMemBut.canon, State.rd_sleep]
  refine ⟨s.rd_sleepRegs s.permitted_le, fun h1 => ?_, fun h3 => ?_, s.rd_sleepRegs_selfRef, s.sleep_out _⟩
  · intro u f hf
    rw [State.rd_sleep, h1, State.sleepRegs_of_light (by decide)]
    exact (SameRegsBut.of_self _ s).wr 1 (by simp) u f hf
  · intro a _
    rw [State.sleep, if_neg (Nat.ne_of_lt h3)]
    exact s.sleepRegs_frame _ .mem (by simp) a

/-- Settles O29, command by command: what each reading writes, and what a log entry and a fog signal keep of what the power
controller shows. -/
theorem powerControlCompletes : Obligations.PowerControlCompletes := by
  unfold Obligations.PowerControlCompletes
  exact ⟨inputVoltageChange_yields, inletOverTemp_yields, dramTempChange_cool_yields, dramTempChange_hot_yields,
    thermalTrip_yields, fun s mv ma power tj tjDie td tdDie tIn tOut blocks =>
      powerWindowEnd_within_yields s ⟨mv, ma, power, tj, tjDie, td, tdDie, tIn, tOut, blocks⟩,
    fun s mv ma power tj tjDie td tdDie tIn tOut blocks =>
      powerWindowEnd_over_yields s ⟨mv, ma, power, tj, tjDie, td, tdDie, tIn, tOut, blocks⟩,
    powerStateEntry_yields, wakeComplete_yields⟩

end Sys2Proof.Machine
end

section
/-!
Where results of the cubes, the matrix-vector unit and the vector unit land in cycles of their own (03_cube_array R76, R80, R82);
what a cycle's writes to a scratchpad bring (06_scratchpad R136, R142).
-/
namespace Sys2Proof.Machine

/-! ### The core's clock (09_core_sequencer R206, R208) -/

@[simp] theorem earliest_singleton (x : Nat) : earliest [x] = some x := rfl

/-- The core runs, is not frozen, and is in cycle `x`. -/
structure State.RunsIn (s : State) (die core x : Nat) : Prop where
  run : s.rd (seqU die core) Reg.SEQ_STAT_RUN = 1
  unfrozen : s.rd (seqU die core) Reg.SEQ_STAT_FROZEN = 0
  cyc : s.rd (seqU die core) Reg.SEQ_CYC_LO_VALUE = x

/-- No cycle passes to the cycle in which the core is. -/
theorem State.bubblesTo_self {s : State} {die core x : Nat} (h : s.rd (seqU die core) Reg.SEQ_CYC_LO_VALUE = x) :
    s.bubblesTo die core x = s := by
  simp [State.bubblesTo, h, forEach]

/-- One cycle passes to the next one. -/
theorem State.bubblesTo_succ {s : State} {die core x : Nat} (h : s.rd (seqU die core) Reg.SEQ_CYC_LO_VALUE = x) :
    s.bubblesTo die core (x + 1) = s.bubble die core x := by
  simp [State.bubblesTo, h, forEach]

/-- A core that may advance, with no bundle due before cycle `x`, advances through it. -/
theorem State.RunsIn.advanceTo {s r : State} {die core x0 x : Nat} (hs : s.RunsIn die core x0)
    (hx : x ≤ (s.core die core).nextDue) (hr : s.bubblesTo die core x = r) (hr1 : r.rd (seqU die core) Reg.SEQ_STAT_RUN = 1) :
    s.advanceTo die core x = r.setCore die core ((r.core die core).landUnits x) := by
  simp only [State.advanceTo]
  rw [if_pos (by simp [hs.run, hs.unfrozen, hx]), hr, if_pos hr1]

/-- In a running core that is not frozen, a command whose result falls due in the current cycle lands what is due and
changes nothing else. -/
theorem yields_landUnits {c : Instr} {s : State} {die core x : Nat} (Q : CoreSt → Prop)
    (hc : exec c s = done (s.advanceNext die core [x])) (hs : s.RunsIn die core x)
    (hx : x ≤ (s.core die core).nextDue) (hQ : Q ((s.core die core).landUnits x)) :
    Yields c s (fun t => Q (t.core die core) ∧ SameMemBut 0 0 s t ∧ SameRegsBut [] s t ∧ t.out = s.out) := by
  have hnext : s.advanceNext die core [x] = s.setCore die core ((s.core die core).landUnits x) := by
    simp only [State.advanceNext, earliest_singleton]
    exact hs.advanceTo hx (State.bubblesTo_self hs.cyc) hs.run
  refine .of_done (hc.trans (congrArg done hnext)) ⟨?_, ?_, ?_, rfl⟩
  · exact (congrArg Q (State.core_setCore_same s die core _)).mpr hQ
  · exact SameMemBut.canon.2 fun _ _ => rfl
  · exact SameRegsBut.canon.2 fun _ _ _ => rfl

/-! ### What lands in a cycle (03_cube_array R76, R80, R82) -/

/-- A cube with one issue in flight and no load on its way adds it in the cycle in which it becomes valid. -/
theorem CubeSt.land_of_single {q : CubeSt} {o : CubeOp} (hload : q.sload = []) (hops : q.ops = [o]) :
    q.land o.due = CubeSt.apply { q with ops := [] } o := by
  cases q
  cases hload
  cases hops
  simp [CubeSt.land, CubeSt.landLoads]

/-- The matrix-vector unit with one issue in flight and no vector on its way adds it in that cycle. -/
theorem MvSt.land_of_single {m : MvSt} {o : MvOp} (hload : m.vload = []) (hops : m.ops = [o]) :
    m.land o.due = MvSt.apply { m with ops := [] } o := by
  cases m
  cases hload
  cases hops
  simp [MvSt.land]

theorem CoreSt.landVu_cubes (c : CoreSt) (t : Nat) : (c.landVu t).cubes = c.cubes := by
  have hput (c : CoreSt) (w : VuWrite) : (c.vuPut w).cubes = c.cubes := by cases w <;> rfl
  have hputs (ws : List VuWrite) (c : CoreSt) : (ws.foldl CoreSt.vuPut c).cubes = c.cubes := by
    induction ws generalizing c with
    | nil => rfl
    | cons w ws ih => exact (ih _).trans (hput c w)
  unfold CoreSt.landVu
  exact List.foldlRecOn (motive := fun c' : CoreSt => c'.cubes = c.cubes) _ _ rfl fun c' h o _ => (hputs o.writes c').trans h

theorem CoreSt.landVu_of_nil {c : CoreSt} (t : Nat) (h : c.vops = []) : c.landVu t = c := by
  cases c
  cases h
  rfl

/-- A predicate result due in a cycle is written under its mask. -/
theorem CoreSt.landVu_of_pred {c : CoreSt} {r bits mask due : Nat} (h : c.vops = [⟨due, [.pred r bits mask]⟩]) :
    c.landVu due = { c with
      vops := []
      preg := mset 0 c.preg r (clearBits (mget c.preg r 0) mask ||| (bits &&& mask)) } := by
  simp [CoreSt.landVu, h, sortBy, insertBy, CoreSt.vuPut]

theorem CoreSt.landUnits_cubes (c : CoreSt) (t : Nat) :
    (c.landUnits t).cubes = c.cubes.foldl (fun m e => mset {} m e.1 (e.2.land t)) [] := by
  simp only [CoreSt.landUnits, CoreSt.landVu_cubes]

theorem CoreSt.landUnits_mv {c : CoreSt} (t : Nat) (h : c.vops = []) : (c.landUnits t).mv = c.mv.land t := by
  simp only [CoreSt.landUnits, CoreSt.landVu_of_nil t h]

theorem CoreSt.landUnits_vops (c : CoreSt) (t : Nat) : (c.landUnits t).vops = (c.landVu t).vops := rfl

theorem CoreSt.landUnits_preg (c : CoreSt) (t : Nat) : (c.landUnits t).preg = (c.landVu t).preg := rfl

theorem cubeAccumulate_yields (s : State) (die core k : Nat) (q : CubeSt) (o : CubeOp)
    (hs : s.RunsIn die core o.due) (hcubes : (s.core die core).cubes = [(k, q)])
    (hload : q.sload = []) (hops : q.ops = [o]) (hdue : o.due ≤ (s.core die core).nextDue) :
    Yields (.cubeAccumulate die core) s (fun t => mget (t.core die core).cubes k {} = CubeSt.apply { q with ops := [] } o ∧
      SameMemBut 0 0 s t ∧ SameRegsBut [] s t ∧ t.out = s.out) := by
  refine yields_landUnits (fun c => mget c.cubes k {} = CubeSt.apply { q with ops := [] } o) ?_ hs hdue ?_
  · simp [exec, execCubeAccumulate, hcubes, hops]
  · simp [CoreSt.landUnits_cubes, hcubes, CubeSt.land_of_single hload hops]

theorem mvAccumulate_yields (s : State) (die core : Nat) (o : MvOp) (hs : s.RunsIn die core o.due)
    (hload : (s.core die core).mv.vload = [])
    (hops : (s.core die core).mv.ops = [o]) (hvops : (s.core die core).vops = [])
    (hdue : o.due ≤ (s.core die core).nextDue) :
    Yields (.mvAccumulate die core) s (fun t =>
      (t.core die core).mv = MvSt.apply { (s.core die core).mv with ops := [] } o ∧
        SameMemBut 0 0 s t ∧ SameRegsBut [] s t ∧ t.out = s.out) := by
  refine yields_landUnits (fun c => c.mv = MvSt.apply { (s.core die core).mv with ops := [] } o) ?_ hs hdue ?_
  · simp [exec, execMvAccumulate, hops]
  · rw [CoreSt.landUnits_mv _ hvops, MvSt.land_of_single hload hops]

theorem vuResultWrite_yields (s : State) (die core r bits mask due : Nat) (hs : s.RunsIn die core due)
    (hvops : (s.core die core).vops = [⟨due, [.pred r bits mask]⟩]) (hdue : due ≤ (s.core die core).nextDue) :
    Yields (.vuResultWrite die core) s (fun t => (t.core die core).vops = [] ∧
      mget (t.core die core).preg r 0 = clearBits (mget (s.core die core).preg r 0) mask ||| (bits &&& mask) ∧
      SameMemBut 0 0 s t ∧ SameRegsBut [] s t ∧ t.out = s.out) := by
  simp only [← and_assoc (a := (State.core _ die core).vops = [])]
  refine yields_landUnits (fun c => c.vops = [] ∧
    mget c.preg r 0 = clearBits (mget (s.core die core).preg r 0) mask ||| (bits &&& mask)) ?_ hs hdue ?_
  · simp [exec, execVuResultWrite, hvops]
  · simp [CoreSt.landUnits_vops, CoreSt.landUnits_preg, CoreSt.landVu_of_pred hvops]

/-! ### A run of bytes written (06_scratchpad R136) -/

theorem Memory.put_append (m : List Host.Cell) (a : Nat) (xs ys : List Byte) :
    Memory.put m a (xs ++ ys) = Memory.put (Memory.put m a xs) (a + xs.length) ys := by
  induction xs generalizing m a with
  | nil => rfl
  | cons x xs ih =>
    simp only [List.cons_append, Memory.put, ih, List.length_cons]
    congr 1
    omega

/-- Memory with a run of bytes written holds them, and is elsewhere as before. -/
theorem holds_and_sameMemBut_of_put {s t : State} {a : Nat} {bs : List Byte} (h : t.mem = Memory.put s.mem a bs) :
    Holds t a bs ∧ SameMemBut a bs.length s t :=
  ⟨fun i hi => by rw [h, Memory.get_put_inside _ _ _ _ hi], fun b hb => by rw [h, Memory.get_put_outside _ _ _ _ hb]⟩

/-- The places of an endpoint lie side by side. -/
theorem epAddr_add (u off n : Nat) : epAddr u (off + n) = epAddr u off + n := by simp only [epAddr, Nat.add_assoc]

@[simp] theorem State.performWrites_mem_nil (s : State) (die core : Nat) : (s.performWrites die core []).mem = s.mem := rfl

theorem State.performWrites_mem_cons (s : State) (die core port off len : Nat) (bs : List Byte) (l : List SAcc) :
    (s.performWrites die core (⟨port, off, len, false, [(off, bs)]⟩ :: l)).mem =
      ((s.putBytes (epAddr (spU die core) off) bs).performWrites die core l).mem := rfl

@[simp] theorem State.performWrites_rd (s : State) (die core : Nat) (l : List SAcc) (u : Nat) (f : Field) :
    (s.performWrites die core l).rd u f = s.rd u f := s.performWrites_frame die core l .regs (by simp) u f

@[simp] theorem State.performWrites_core (s : State) (die core : Nat) (l : List SAcc) (d k : Nat) :
    (s.performWrites die core l).core d k = s.core d k :=
  congrArg (fun m => mget m (d * 16 + k) ({} : CoreSt)) (s.performWrites_frame die core l .cores (by simp))

/-! ### Banks of a cycle's accesses (06_scratchpad R136, R142) -/

/-- Accesses that need no bank twice do not conflict. -/
theorem conflictBanks_of_nodup {l : List SAcc} (h : (l.flatMap SAcc.banks).Nodup) : conflictBanks l = [] := by
  refine List.filter_eq_nil_iff.2 fun b _ => ?_
  have hcount := List.nodup_iff_count_le_one.1 h b
  rw [List.count_eq_length_filter] at hcount
  simpa using hcount

/-- Up to 32 banks in a row are different ones. -/
theorem nodup_banks_run (q n : Nat) (hn : n ≤ 32) : ((List.range n).map (fun i => (q + i) % 32)).Nodup := by
  refine List.Nodup.map_on (fun i hi j hj h => ?_) List.nodup_range
  rw [List.mem_range] at hi hj
  omega

/-- An access of at most 512 bytes from a row's start needs no bank twice. -/
theorem SAcc.nodup_banks {a : SAcc} (hoff : a.off % 64 = 0) (hlen : a.len ≤ 512) : a.banks.Nodup :=
  nodup_banks_run _ _ (by omega)

end Sys2Proof.Machine
end

section
/-!
Where tiles and groups of the drain are written (03_cube_array R84, R86, R88).
-/
namespace Sys2Proof.Machine

/-! ### A bubble in which the drain only writes (03_cube_array R84, R88) -/

theorem CoreSt.landUnits_of_drain (due : Nat) (d : DrainSt) (t : Nat) :
    ({ nextDue := due, drain := d } : CoreSt).landUnits t = { nextDue := due, drain := d } := rfl

/-- Accesses as the drain makes them. -/
def drainSlots (l : List SAcc) : List SlotAcc := l.map (fun a => (100, a))

theorem drainSlots_append (l r : List SAcc) : drainSlots l ++ drainSlots r = drainSlots (l ++ r) := List.map_append.symm

theorem drainSlots_accesses (l : List SAcc) : (drainSlots l).map (fun a => a.2) = l := by simp [drainSlots, Function.comp_def]

/-- What a bubble does last, once its accesses are known and none of them reads. -/
def State.bubbleWrites (s : State) (die core x : Nat) (l : List SAcc) : State :=
  (((s.setCore die core (s.core die core)).performWrites die core l).drainStat die core).countCycle die core x

/-- A bubble of a running core whose accesses are writes that need no bank twice. -/
theorem State.bubble_of_writes {s s2 s3 : State} {die core x : Nat} {c : CoreSt} {tiles groups : List SAcc}
    (hrun : s.rd (seqU die core) Reg.SEQ_STAT_RUN = 1) (hland : (s.core die core).landUnits x = c)
    (hthird : c.drain.thirdReads x = [])
    (htiles : (s.setCore die core c).tileWrites die core x 0 = (s2, drainSlots tiles))
    (hgroups : s2.groupWrites die core x (Nat.min 2 tiles.length) = (s3, drainSlots groups))
    (hwrites : ∀ a ∈ tiles ++ groups, a.read = false) (hbanks : ((tiles ++ groups).flatMap SAcc.banks).Nodup) :
    s.bubble die core x = s3.bubbleWrites die core x (tiles ++ groups) := by
  have hresolve (pc : Nat) : s3.resolve die core pc x (drainSlots (tiles ++ groups)) = (s3, drainSlots (tiles ++ groups), []) := by
    simp only [State.resolve, drainSlots_accesses, conflictBanks_of_nodup hbanks]
    rfl
  have hreads : s3.performReads die core x (drainSlots (tiles ++ groups)) = (s3, [], []) := by
    rw [State.performReads, List.filter_eq_nil_iff.2 fun p hp => ?_]
    · rfl
    · obtain ⟨a, ha, rfl⟩ := List.mem_map.1 hp
      simp [hwrites a ha]
  have hlength : (drainSlots tiles).length = tiles.length := List.length_map _
  unfold State.bubble
  simp only [hland, hthird, List.nil_append, List.length_nil, Nat.zero_add, htiles, hlength, hgroups, drainSlots_append,
    hresolve, hreads, drainSlots_accesses]
  rw [if_neg (by omega)]
  rfl

theorem seqU_ne_idlU (die core : Nat) : seqU die core ≠ idlU die := by
  simp only [seqU, idlU, unitOf]
  omega

theorem drainU_ne_idlU (die core : Nat) : drainU die core ≠ idlU die := by
  simp only [drainU, idlU, unitOf]
  omega

theorem drainU_ne_seqU (die core : Nat) : drainU die core ≠ seqU die core := by
  simp only [drainU, seqU, unitOf]
  omega

/-- The counts of a cycle are those of the idle counters' unit and SEQ_CYC. -/
theorem State.rd_countCycle_other (s : State) {die core u : Nat} (x : Nat) {f : Field} (hcore : core < 16) (hu : u ≠ idlU die)
    (hf : f.off < 2 ^ 24 ∧ f.lo < 32) (hne : fieldKey u f ≠ fieldKey (seqU die core) Reg.SEQ_CYC_LO_VALUE) :
    (s.countCycle die core x).rd u f = s.rd u f := by
  have hadv : fieldKey u f ≠ fieldKey (idlU die) (Reg.IDL_ADV_LO_COUNT core) :=
    fieldKey_ne_of_unit _ _ hu hf ⟨by simp only [Reg.IDL_ADV_LO_COUNT]; omega, by simp [Reg.IDL_ADV_LO_COUNT]⟩
  have hslow : fieldKey u f ≠ fieldKey (idlU die) (Reg.IDL_C_LO_COUNT core 8) :=
    fieldKey_ne_of_unit _ _ hu hf ⟨by simp only [Reg.IDL_C_LO_COUNT]; omega, by simp [Reg.IDL_C_LO_COUNT]⟩
  simp only [State.countCycle]
  rw [State.rd_wr_other _ _ _ _ _ _ hne]
  split
  · exact State.rd_wr_other _ _ _ _ _ _ hadv
  · exact (State.rd_wr_other _ _ _ _ _ _ hslow).trans (State.rd_wr_other _ _ _ _ _ _ hadv)

theorem State.rd_countCycle_cyc (s : State) (die core x : Nat) :
    (s.countCycle die core x).rd (seqU die core) Reg.SEQ_CYC_LO_VALUE = (x + 1) % 2 ^ 64 := State.rd_wr_same _ _ _ _

theorem State.rd_bubbleWrites_cyc (s : State) (die core x : Nat) (l : List SAcc) :
    (s.bubbleWrites die core x l).rd (seqU die core) Reg.SEQ_CYC_LO_VALUE = (x + 1) % 2 ^ 64 := State.rd_countCycle_cyc _ _ _ _

theorem State.rd_bubbleWrites_run (s : State) {die core : Nat} (x : Nat) (l : List SAcc) (hcore : core < 16) :
    (s.bubbleWrites die core x l).rd (seqU die core) Reg.SEQ_STAT_RUN = s.rd (seqU die core) Reg.SEQ_STAT_RUN := by
  have hne := (drainU_ne_seqU die core).symm
  rw [State.bubbleWrites, State.rd_countCycle_other _ _ hcore (seqU_ne_idlU die core) (by decide)
    (by simp [fieldKey, Reg.SEQ_STAT_RUN, Reg.SEQ_CYC_LO_VALUE])]
  simp only [State.drainStat]
  rw [State.rd_wr_other _ _ _ _ _ _ (fieldKey_ne_of_unit _ _ hne), State.rd_wrB_other _ _ _ _ _ _ (fieldKey_ne_of_unit _ _ hne),
    State.performWrites_rd, State.setCore_rd]

theorem State.bubbleWrites_core (s : State) (die core x : Nat) (l : List SAcc) :
    (s.bubbleWrites die core x l).core die core = s.core die core := by
  have hcores : (s.bubbleWrites die core x l).cores = ((s.setCore die core (s.core die core)).performWrites die core l).cores :=
    (State.countCycle_frame _ die core x .cores (by simp)).trans (State.drainStat_frame _ die core .cores (by simp))
  rw [State.core, hcores]
  exact (State.performWrites_core _ _ _ _ _ _).trans (State.core_setCore_same _ _ _ _)

theorem State.bubbleWrites_mem (s : State) (die core x : Nat) (l : List SAcc) :
    (s.bubbleWrites die core x l).mem = ((s.setCore die core (s.core die core)).performWrites die core l).mem := by
  simp only [State.bubbleWrites, State.countCycle]
  split <;> rfl

/-- A bubble shows a drain with nothing in flight as idle, and with no band as having none open. -/
theorem State.rd_bubbleWrites_busy (s : State) {die core : Nat} (x : Nat) (l : List SAcc) (hcore : core < 16)
    (hops : (s.core die core).drain.ops = []) (hwrites : (s.core die core).drain.writes = [])
    (hbands : (s.core die core).drain.bands = []) :
    (s.bubbleWrites die core x l).rd (drainU die core) Reg.DRAIN_STAT_BUSY = 0 ∧
      (s.bubbleWrites die core x l).rd (drainU die core) Reg.DRAIN_STAT_OPEN = 0 := by
  have hcount (t : State) (f : Field) (hf : f.off < 2 ^ 24 ∧ f.lo < 32) :=
    t.rd_countCycle_other x hcore (drainU_ne_idlU die core) hf
      (fieldKey_ne_of_unit f Reg.SEQ_CYC_LO_VALUE (drainU_ne_seqU die core) hf)
  have hkey : fieldKey (drainU die core) Reg.DRAIN_STAT_BUSY ≠ fieldKey (drainU die core) Reg.DRAIN_STAT_OPEN := by
    simp [fieldKey, Reg.DRAIN_STAT_BUSY, Reg.DRAIN_STAT_OPEN]
  rw [State.bubbleWrites, hcount _ _ (by decide), hcount _ _ (by decide)]
  simp only [State.drainStat, State.performWrites_core, State.core_setCore_same, hops, hwrites, hbands]
  exact ⟨(State.rd_wr_other _ _ _ _ _ _ hkey).trans (State.rd_wrB_same _ _ _ (by decide)), State.rd_wr_same _ _ _ _⟩

/-! ### The drain's part of a cycle (03_cube_array R84, R88) -/

theorem State.tileWrites_of_nil {s : State} {die core : Nat} (x n : Nat) (h : (s.core die core).drain.ops = []) :
    s.tileWrites die core x n = (s.setCore die core (s.core die core), drainSlots []) := by
  have hsame : ({ s.core die core with drain := { (s.core die core).drain with ops := [] } } : CoreSt) = s.core die core := by
    rw [← h]
  simp only [State.tileWrites, h, List.filter_nil, List.foldl_nil, List.map_nil, hsame, drainSlots]

/-- A bubble opens no group where every band is in the queue of writes. -/
theorem State.openGroups_of_queued {s : State} {die core x : Nat}
    (h : ∀ k b, mget (s.core die core).drain.bands k none = some b →
      ((s.core die core).drain.writes.any (fun w => w.sbuf == k)) = true) : s.openGroups die core x = s := by
  unfold State.openGroups forEach
  refine List.foldl_fixed' (fun k => ?_) _
  cases hb : mget (s.core die core).drain.bands k none with
  | none => simp only [hb]
  | some b =>
    simp only [hb, h k b hb]
    cases b.ready <;> simp

theorem State.groupWrites_of_idle {s : State} {die core due : Nat} (x : Nat) (hc : s.core die core = { nextDue := due }) :
    s.groupWrites die core x 2 = (s.setCore die core { nextDue := due }, drainSlots []) := by
  have hopen : s.openGroups die core x = s := State.openGroups_of_queued fun k b hb => by simp [hc, mget] at hb
  simp only [State.groupWrites, hopen, hc]
  rfl

/-- The core of which the last access of a group write, from a buffer `k`, is all that is in flight. -/
def lastAccessCore (k : Nat) (b : BandSt) (since off : Nat) (bs : List Byte) (due : Nat) : CoreSt :=
  { nextDue := due, drain := { bands := [(k, some b)], writes := [⟨k, since, [(off, bs)]⟩] } }

/-- The access goes, and its buffer is free. -/
theorem State.groupWrites_of_lastAccess {s : State} {die core k since off due : Nat} {b : BandSt} {bs : List Byte} (x : Nat)
    (hc : s.core die core = lastAccessCore k b since off bs due) :
    s.groupWrites die core x 0 =
      (s.setCore die core { nextDue := due }, drainSlots [⟨5, off, bs.length, false, [(off, bs)]⟩]) := by
  have hopen : s.openGroups die core x = s := State.openGroups_of_queued fun j b' hb => by
    have hj : k = j := by
      simp only [hc, lastAccessCore, mget] at hb
      by_contra hne
      simp [hne] at hb
    simp [hc, lastAccessCore, hj]
  simp [State.groupWrites, hopen, hc, lastAccessCore, DrainSt.takeParts, mset, mdel, drainSlots]

/-! ### A tile of zeros drained as it stands (03_cube_array R86) -/

/-- A drain start of cycle `d` of a zero accumulator through record 0, to the place `out`. -/
def zeroStart (d out : Nat) : DrainOp := ⟨d, 0, 0, 16, List.replicate 256 0, 0, out, 0, false, 0, [], [], [], none⟩

theorem leBytes_zero (n : Nat) : leBytes n 0 = List.replicate n 0 := by
  induction n with
  | zero => rfl
  | succ n ih => simp [leBytes, ih, List.replicate_succ]

theorem getD_replicate_default {α : Type} (n i : Nat) (a : α) : (List.replicate n a).getD i a = a := by
  rw [List.getD_eq_getElem?_getD, List.getElem?_getD_replicate_default_eq]

theorem tileBytes_zero (f : Fmt) (n : Nat) : tileBytes f (List.replicate n 0) = List.replicate (256 * f.bytes) 0 := by
  simp only [tileBytes, getD_replicate_default, leBytes_zero, List.flatMap_def, List.map_const', List.length_range,
    List.flatten_replicate_replicate]

/-- Events of which there are none are counted nowhere but in the drain's own registers. -/
theorem State.drainEvents_none (s : State) (die core layer : Nat) :
    s.drainEvents die core layer Events.none =
      ((s.bump (drainU die core) Reg.DRAIN_CLAMP_COUNT 0).bump (drainU die core) Reg.DRAIN_NONFIN_COUNT 0).bump
        (drainU die core) Reg.DRAIN_QSAT_COUNT 0 := by
  simp [State.drainEvents, State.addEvents, State.ltAdd, Events.none]

theorem State.rd_drainEvents_none_other (s : State) {die core u : Nat} (layer : Nat) {f : Field} (hu : u ≠ drainU die core)
    (hf : f.off < 2 ^ 24 ∧ f.lo < 32) : (s.drainEvents die core layer Events.none).rd u f = s.rd u f := by
  have hbump (t : State) (g : Field) (hg : g.off < 2 ^ 24 ∧ g.lo < 32) :=
    t.rd_bump_other _ _ g _ 0 (fieldKey_ne_of_unit f g hu hf hg)
  rw [State.drainEvents_none, hbump _ _ (by decide), hbump _ _ (by decide), hbump _ _ (by decide)]

/-! Record 0 scales, biases and converts nothing: it applies no function, has no side operand, writes FP32 and offers no amax. -/

theorem epiOutF_zero : epiOutF 0 = .fp32 := rfl

theorem epiOffers_zero : epiOffers 0 = false := rfl

theorem epiDeriv_zero : epiDeriv 0 = false := rfl

theorem epiSideKind_zero : epiSideKind 0 = 0 := rfl

theorem epiPre_zeroStart (d out : Nat) : epiPre 0 (zeroStart d out) = fun _ => 0 :=
  funext fun i => getD_replicate_default 256 i 0

theorem epiPost_zero (o : DrainOp) (i : Nat) : epiPost 0 o i 0 = 0 := by
  have hfn : drainF (epiFn 0) 0 = 0 := by decide
  exact hfn

theorem encodeElem_zero (ovf : Ovf) (rd : Rounding) (e : Int) :
    encodeElem .fp32 ovf rd ((ofF32 0).scale e) = (0, Events.none) := by
  have h : ofF32 0 = .fin false 0 (-149) := by decide
  rw [h]
  rfl

@[simp] theorem tileElems_length (rows : Nat) : (tileElems rows).length = 16 * rows := List.length_range

/-- In cycle d + 11 such a start brings its tile of zeros, and no event. -/
theorem State.drainTile_zeroStart {s : State} {die core : Nat} (d out : Nat) (hepi : mget (s.core die core).drain.epi 0 0 = 0) :
    s.drainTile die core (zeroStart d out) = (s.drainEvents die core 0 Events.none, [], [(out, List.replicate 1024 0)]) := by
  have hrec : mget (s.core die core).drain.epi (zeroStart d out).epi 0 = 0 := hepi
  have hrows : (zeroStart d out).rows = 16 := rfl
  have hevents : (tileElems 16).foldl (fun a _ => a.add (Events.none.once Events.none)) ⟨0, 0, 0⟩ = Events.none :=
    List.foldl_fixed' (fun _ => rfl) _
  simp only [State.drainTile, hrec, hrows, epiOutF_zero, epiOffers_zero, epiSideKind_zero, Fmt.isMX, epiPre_zeroStart, epiPost_zero,
    epiDeriv_zero, encodeElem_zero, List.map_const', List.map_replicate, getD_replicate_default, tileBytes_zero,
    tileElems_length, Nat.reduceBEq, Bool.and_false, Bool.false_eq_true, if_false, List.getD_nil]
  rw [show (zeroStart d out).sats = 0 from rfl, hevents]
  rfl

/-! ### The accesses of a tile of 1,024 bytes (06_scratchpad R136) -/

@[simp] theorem slice_length (l : List Byte) (off n : Nat) : (slice l off n).length = n := by simp [slice]

/-- A string is its first `m` bytes and those after them. -/
theorem slice_append_slice {l : List Byte} {m n : Nat} (h : l.length = m + n) : slice l 0 m ++ slice l m n = l := by
  refine List.ext_getElem (by simp [h]) fun i h1 h2 => ?_
  rw [List.getElem_append]
  split
  case isTrue hi => simp [slice, h2]
  case isFalse hi =>
    have hback : m + (i - m) = i := by
      rw [slice_length] at hi
      omega
    simp [slice, hback, h2]

/-- The two accesses of a tile's bytes at a place, on the two drain ports. -/
def tileAccesses (out : Nat) (bs : List Byte) : List SAcc :=
  [⟨5, out, 512, false, [(out, slice bs 0 512)]⟩, ⟨6, out + 512, 512, false, [(out + 512, slice bs 512 512)]⟩]

theorem tileAccesses_read (out : Nat) (bs : List Byte) : ∀ a ∈ tileAccesses out bs, a.read = false := by simp [tileAccesses]

theorem drainAccesses_of_tile {out : Nat} {bs : List Byte} (hout : out % 64 = 0) (hbs : bs.length = 1024) :
    drainAccesses 0 [(out, bs)] = tileAccesses out bs := by
  have hsecond : ¬ (out + 512 + 512 ≤ out + 512) := by omega
  have hrow : (out + 512) % 64 = 0 := by omega
  simp [drainAccesses, tileAccesses, hbs, ceilDiv, List.range_succ, hsecond, hout, hrow]

/-- The two accesses of a tile need each bank once. -/
theorem nodup_banks_tileAccesses (m : Nat) (bs : List Byte) : ((tileAccesses (2048 * m) bs).flatMap SAcc.banks).Nodup := by
  have hbanks : (tileAccesses (2048 * m) bs).flatMap SAcc.banks = (List.range 16).map (fun i => (32 * m + i) % 32) := by
    have hfirst : 2048 * m / 64 = 32 * m := by omega
    have hsecond : (2048 * m + 512) / 64 = 32 * m + 8 := by omega
    have hrow : (2048 * m + 512) % 64 = 0 := by omega
    have hrow0 : 2048 * m % 64 = 0 := by omega
    simp only [tileAccesses, SAcc.banks, List.flatMap_cons, List.flatMap_nil, hfirst, hsecond, hrow, hrow0]
    rfl
  rw [hbanks]
  exact nodup_banks_run _ _ (by decide)

theorem State.performWrites_mem_of_tile (s : State) (die core out : Nat) {bs : List Byte} (hbs : bs.length = 1024) :
    (s.performWrites die core (tileAccesses out bs)).mem = Memory.put s.mem (epAddr (spU die core) out) bs := by
  have hsplit : Memory.put s.mem (epAddr (spU die core) out) bs =
      Memory.put s.mem (epAddr (spU die core) out) (slice bs 0 512 ++ slice bs 512 512) := by rw [slice_append_slice hbs]
  rw [hsplit, Memory.put_append, slice_length, ← epAddr_add]
  simp only [tileAccesses, State.performWrites_mem_cons, State.performWrites_mem_nil, State.putBytes]

/-- The core of which a drain start of a zero tile is all that is in flight. -/
def zeroCore (d out due : Nat) : CoreSt := { nextDue := due, drain := { ops := [zeroStart d out] } }

theorem State.tileWrites_zeroCore {s : State} {die core d out due : Nat} (hout : out % 64 = 0)
    (hc : s.core die core = zeroCore d out due) :
    s.tileWrites die core (d + 11) 0 = ((s.drainEvents die core 0 Events.none).setCore die core { nextDue := due },
      drainSlots (tileAccesses out (List.replicate 1024 0))) := by
  have hcore : (s.drainEvents die core 0 Events.none).core die core = zeroCore d out due := by
    rw [State.drainEvents_none]
    exact hc
  have hepi : mget (s.core die core).drain.epi 0 0 = 0 := by rw [hc]; rfl
  have hops : (zeroCore d out due).drain.ops = [zeroStart d out] := rfl
  have hd : (zeroStart d out).d = d := rfl
  have hside : drainAccesses 0 [] = [] := rfl
  simp only [State.tileWrites, hc, hops, List.filter_cons, List.filter_nil, hd, beq_self_eq_true, if_true, List.foldl_cons,
    List.foldl_nil, State.drainTile_zeroStart d out hepi, hcore, Bool.not_true, Bool.false_eq_true, if_false,
    List.length_nil, Nat.add_zero, hside, List.nil_append, drainAccesses_of_tile hout List.length_replicate]
  rfl

/-! ### The two commands (03_cube_array R84 to R88) -/

@[simp] theorem State.canon_core (s : State) (die core : Nat) : s.canon.core die core = s.core die core := rfl

/-- What has come about in cycle `x` where the drain has written its last bytes, `bs` at address `a`. -/
structure Drained (s t : State) (die core x a : Nat) (bs : List Byte) : Prop where
  holds : Holds t a bs
  sameMem : SameMemBut a bs.length s t
  drain : (t.core die core).drain = {}
  busy : t.rd (drainU die core) Reg.DRAIN_STAT_BUSY = 0
  noneOpen : t.rd (drainU die core) Reg.DRAIN_STAT_OPEN = 0
  cyc : t.rd (seqU die core) Reg.SEQ_CYC_LO_VALUE = (x + 1) % 2 ^ 64

/-- A core advanced over one bubble, whose writes leave nothing in flight. -/
theorem State.advanceTo_drained {s s3 : State} {die core x due a : Nat} {l : List SAcc} {bs : List Byte} (hcore : core < 16)
    (hs : s.RunsIn die core x) (hx : x + 1 ≤ (s.core die core).nextDue)
    (hb : s.bubble die core x = s3.bubbleWrites die core x l) (hrun3 : s3.rd (seqU die core) Reg.SEQ_STAT_RUN = 1)
    (hcore3 : s3.core die core = { nextDue := due })
    (hmem : ((s3.setCore die core { nextDue := due }).performWrites die core l).mem = Memory.put s.mem a bs) :
    Drained s (s.advanceTo die core (x + 1)).canon die core x a bs := by
  have ht : s.advanceTo die core (x + 1) = (s3.bubbleWrites die core x l).setCore die core { nextDue := due } := by
    rw [hs.advanceTo hx ((State.bubblesTo_succ hs.cyc).trans hb)
      ((s3.rd_bubbleWrites_run x l hcore).trans hrun3), State.bubbleWrites_core, hcore3]
    rfl
  have hput : (s.advanceTo die core (x + 1)).mem = Memory.put s.mem a bs := by
    rw [ht, State.setCore_mem, State.bubbleWrites_mem, hcore3, hmem]
  obtain ⟨hholds, hsame⟩ := holds_and_sameMemBut_of_put hput
  obtain ⟨hbusy, hopen⟩ := s3.rd_bubbleWrites_busy x l hcore (by rw [hcore3]) (by rw [hcore3]) (by rw [hcore3])
  refine ⟨fun i hi => (State.canon_get _ _).trans (hholds i hi), SameMemBut.canon.2 hsame, ?_, ?_, ?_, ?_⟩
  · rw [ht, State.canon_core, State.core_setCore_same]
  · rw [ht, State.canon_rd, State.setCore_rd, hbusy]
  · rw [ht, State.canon_rd, State.setCore_rd, hopen]
  · rw [ht, State.canon_rd, State.setCore_rd]
    exact State.rd_bubbleWrites_cyc _ _ _ _ _

theorem drainTileWrite_yields (s : State) (die core d m : Nat) (hcore : core < 16) (hd : d < 2 ^ 32)
    (hs : s.RunsIn die core (d + 11)) (hc : s.core die core = zeroCore d (2048 * m) (d + 12)) :
    Yields (.drainTileWrite die core) s (fun t => Holds t (epAddr (spU die core) (2048 * m)) (List.replicate 1024 0) ∧
      SameMemBut (epAddr (spU die core) (2048 * m)) 1024 s t ∧ (t.core die core).drain.ops = [] ∧
      t.rd (drainU die core) Reg.DRAIN_STAT_BUSY = 0 ∧ t.rd (seqU die core) Reg.SEQ_CYC_LO_VALUE = d + 12) := by
  have hexec : exec (.drainTileWrite die core) s = done (s.advanceTo die core (d + 11 + 1)) := by
    simp only [exec, execDrainTileWrite, hc]
    rfl
  have hland : (s.core die core).landUnits (d + 11) = zeroCore d (2048 * m) (d + 12) := by
    rw [hc]
    exact CoreSt.landUnits_of_drain _ _ _
  have htiles := State.tileWrites_zeroCore (by omega) (s.core_setCore_same die core (zeroCore d (2048 * m) (d + 12)))
  have hbubble := State.bubble_of_writes hs.run hland rfl htiles
    (State.groupWrites_of_idle (d + 11) (State.core_setCore_same _ _ _ _)) (by rw [List.append_nil]; exact tileAccesses_read _ _)
    (by rw [List.append_nil]; exact nodup_banks_tileAccesses m _)
  have hdrained := State.advanceTo_drained (a := epAddr (spU die core) (2048 * m)) (bs := List.replicate 1024 0) hcore hs
    (by rw [hc]; exact Nat.le_refl _) hbubble ?_ (State.core_setCore_same _ _ _ _) ?_
  · refine .of_done hexec ⟨hdrained.holds, ?_, ?_, hdrained.busy, ?_⟩
    · simpa only [List.length_replicate] using hdrained.sameMem
    · rw [hdrained.drain]
    · rw [hdrained.cyc]
      omega
  · rw [State.setCore_rd, State.setCore_rd, State.rd_drainEvents_none_other _ _ (drainU_ne_seqU die core).symm (by decide),
      State.setCore_rd, hs.run]
  · rw [List.append_nil, State.performWrites_mem_of_tile _ _ _ _ List.length_replicate]
    simp only [State.setCore_mem, State.drainEvents_none, State.bump_mem]

theorem drainGroupWrite_yields (s : State) (die core k cyc off : Nat) (b : BandSt) (bs : List Byte) (hcore : core < 16)
    (hoff : off % 64 = 0) (hlen : bs.length ≤ 512) (hs : s.RunsIn die core cyc)
    (hc : s.core die core = lastAccessCore k { b with ready := some cyc } cyc off bs (cyc + 1)) :
    Yields (.drainGroupWrite die core) s (fun t => Holds t (epAddr (spU die core) off) bs ∧
      SameMemBut (epAddr (spU die core) off) bs.length s t ∧ (t.core die core).drain.writes = [] ∧
      mget (t.core die core).drain.bands k none = none ∧ t.rd (drainU die core) Reg.DRAIN_STAT_OPEN = 0) := by
  have hexec : exec (.drainGroupWrite die core) s = done (s.advanceTo die core (cyc + 1)) := by
    simp [exec, execDrainGroupWrite, hc, lastAccessCore, hs.run, hs.cyc]
  have hland : (s.core die core).landUnits cyc = lastAccessCore k { b with ready := some cyc } cyc off bs (cyc + 1) := by
    rw [hc]
    exact CoreSt.landUnits_of_drain _ _ _
  have hcore1 := s.core_setCore_same die core (lastAccessCore k { b with ready := some cyc } cyc off bs (cyc + 1))
  have htiles := State.tileWrites_of_nil cyc 0 (congrArg (fun c => c.drain.ops) hcore1)
  rw [hcore1] at htiles
  have hbubble := State.bubble_of_writes hs.run hland rfl htiles
    (State.groupWrites_of_lastAccess cyc (State.core_setCore_same _ _ _ _)) (by simp)
    (by rw [List.nil_append, List.flatMap_singleton]; exact SAcc.nodup_banks hoff hlen)
  have hdrained := State.advanceTo_drained (a := epAddr (spU die core) off) (bs := bs) hcore hs
    (by rw [hc]; exact Nat.le_refl _) hbubble hs.run (State.core_setCore_same _ _ _ _) ?_
  · refine .of_done hexec ⟨hdrained.holds, hdrained.sameMem, ?_, ?_, hdrained.noneOpen⟩
    · rw [hdrained.drain]
    · rw [hdrained.drain]
      rfl
  · rw [List.nil_append, State.performWrites_mem_cons]
    rfl

/-- Settles O7, command by command: what falls due in a cycle lands in it, and the drain's writes of a cycle go in its bubble. -/
theorem unitResultsLand : Obligations.UnitResultsLand := by
  unfold Obligations.UnitResultsLand
  exact ⟨fun s die core k q o _ _ hrun hfrozen hcyc => cubeAccumulate_yields s die core k q o ⟨hrun, hfrozen, hcyc⟩,
    fun s die core o _ _ hrun hfrozen hcyc => mvAccumulate_yields s die core o ⟨hrun, hfrozen, hcyc⟩,
    fun s die core r bits mask due _ _ hrun hfrozen hcyc =>
      vuResultWrite_yields s die core r bits mask due ⟨hrun, hfrozen, hcyc⟩,
    fun s die core d m _ hcore hd _ hrun hfrozen hcyc => drainTileWrite_yields s die core d m hcore hd ⟨hrun, hfrozen, hcyc⟩,
    fun s die core k cyc off b bs _ hcore _ _ hoff _ hlen _ hrun hfrozen hcyc =>
      drainGroupWrite_yields s die core k cyc off b bs hcore hoff hlen ⟨hrun, hfrozen, hcyc⟩⟩

end Sys2Proof.Machine
end

section
/-!
Accesses of engines to a page that their translation unit holds (07_streams_layout R163, R167; 08_bonded_dram R188 to R197).
-/
namespace Sys2Proof.Machine

/-! ### A page as a translation unit maps it (08_bonded_dram R192 to R197) -/

/-- A 2 MiB page `p` as a die's translation unit maps it by the entry `e`: to page `q` of the stack `home`. -/
structure PageMap where
  die : Nat
  p : Nat
  e : Nat
  home : Nat
  q : Nat

/-- The virtual address of byte `i` of the page. -/
def PageMap.va (w : PageMap) (i : Nat) : Nat := w.p * 2 ^ 21 + i

/-- The place in memory of byte `i` of the page. -/
def PageMap.byte (w : PageMap) (i : Nat) : Nat := pageByte w.home w.q i

theorem PageMap.byte_add (w : PageMap) (i n : Nat) : w.byte (i + n) = w.byte i + n := by
  simp only [PageMap.byte, pageByte, dramAddr, Nat.add_assoc]

/-- The target address of byte `i` of the page, in module `m`. -/
def PageMap.target (w : PageMap) (m i : Nat) : Nat := m * 2 ^ 48 + w.byte i

/-- The page's leaf is the newest that the translation unit holds, and no bit of memory or of the next packets has failed. -/
structure State.Paged (s : State) (w : PageMap) : Prop where
  page : s.pageAt w.die w.p w.e w.home w.q = true
  ecc : s.ecc = []
  net : s.net = []

theorem State.pageAt_iff {s : State} {die p e home q : Nat} : s.pageAt die p e home q = true ↔
    (mget s.tus die {}).small.head? = some (p, e) ∧ entryAllows e permRead = true ∧ entryAllows e permWrite = true ∧ p < 2 ^ 35 ∧
      home < 24 ∧ (q + 1) * 2 ^ 21 ≤ reservedOff ∧ s.job.modId < 2 ^ 15 ∧
      bitsOf e 62 21 * 2 ^ 21 = s.job.modId * 2 ^ 48 + dramAddr home (q * 2 ^ 21) := by
  simp [State.pageAt, entryAllows, permRead, permWrite, and_assoc]

/-- A page is still held where only registers and the power controller's state have changed. -/
theorem State.Paged.of_sameBut {s t : State} {w : PageMap} (h : s.Paged w) (hf : SameBut [.regs, .pwr] s t) : t.Paged w := by
  have htus : t.tus = s.tus := hf .tus (by simp)
  have hjob : t.job = s.job := hf .job (by simp)
  refine ⟨?_, (hf .ecc (by simp)).trans h.ecc, (hf .net (by simp)).trans h.net⟩
  simpa only [State.pageAt, htus, hjob] using h.page

theorem canonical_of_page {p i : Nat} (hp : p < 2 ^ 35) (hi : i < 2 ^ 21) : canonical (p * 2 ^ 21 + i) = true := by
  have h56 : bitAt (p * 2 ^ 21 + i) 56 = false := by simp only [bitAt, beq_eq_false_iff_ne]; omega
  have h57 : bitsOf (p * 2 ^ 21 + i) 63 57 = 0 := by simp only [bitsOf]; omega
  simp only [canonical, h56, h57]
  rfl

theorem lruPut_head {n : Nat} (hn : 0 < n) (l : List (Nat × Nat)) (k v : Nat) : (lruPut n l k v).head? = some (k, v) := by
  obtain ⟨m, rfl⟩ : ∃ m, n = m + 1 := ⟨n - 1, by omega⟩
  rfl

/-- The page's leaf is found in the cache, and stays the newest. -/
theorem State.Paged.leafOf {s : State} {w : PageMap} {i : Nat} (h : s.Paged w) (hi : i < 2 ^ 21) :
    ∃ t, s.leafOf w.die (w.va i) = (t, 0, 0, w.e) ∧ t.Paged w ∧ SameBut [.tus] s t := by
  obtain ⟨hhead, hread, hwrite, hp, hhome, hq, hmod, hleaf⟩ := State.pageAt_iff.1 h.page
  have hkey : w.va i % 2 ^ 57 / 2 ^ 21 = w.p := by
    simp only [PageMap.va]
    omega
  have hfind : (mget s.tus w.die {}).small.find? (fun x => x.1 == w.p) = some (w.p, w.e) := by
    obtain ⟨rest, hrest⟩ := List.head?_eq_some_iff.1 hhead
    simp [hrest]
  let tu : TuSt := { mget s.tus w.die {} with small := lruPut 4096 (mget s.tus w.die {}).small w.p w.e }
  have hnew : (mget (mset {} s.tus w.die tu) w.die {}).small.head? = some (w.p, w.e) := by
    rw [mget_mset_same]
    exact lruPut_head (by decide) _ _ _
  exact ⟨{ s with tus := mset {} s.tus w.die tu }, by simp only [State.leafOf, hkey, hfind, tu],
    ⟨State.pageAt_iff.2 ⟨hnew, hread, hwrite, hp, hhome, hq, hmod, hleaf⟩, h.ecc, h.net⟩, by simp⟩

theorem State.Paged.leafTarget {s : State} {w : PageMap} {i : Nat} (h : s.Paged w) (hi : i < 2 ^ 21) :
    leafTarget w.e 0 (w.va i) = w.target s.job.modId i := by
  obtain ⟨-, -, -, -, -, -, -, hleaf⟩ := State.pageAt_iff.1 h.page
  simp only [Machine.leafTarget, PageMap.target, PageMap.byte, PageMap.va, pageByte, dramAddr] at hleaf ⊢
  rw [if_neg (by decide)]
  omega

theorem State.Paged.translate {s : State} {w : PageMap} {i need : Nat} (agent : Nat) (h : s.Paged w) (hi : i < 2 ^ 21)
    (hneed : entryAllows w.e need = true) :
    ∃ t, s.translate w.die agent (w.va i) need = (t, 0, w.target s.job.modId i) ∧ t.Paged w ∧ SameBut [.regs, .tus, .pwr] s t := by
  obtain ⟨-, -, -, hp, -⟩ := State.pageAt_iff.1 h.page
  have hup := s.stackUp_frame w.die
  obtain ⟨t, ht, hpage, hframe⟩ := (h.of_sameBut hup).leafOf hi
  refine ⟨t, ?_, hpage, (hup.widen (by simp)).through (hframe.widen (by simp))⟩
  simp [State.translate, show canonical (w.va i) = true from canonical_of_page hp hi, ht, hneed, h.leafTarget hi]

/-! ### The stack that serves it (08_bonded_dram R188, R190, R191) -/

theorem State.badWords_of_sound {s : State} (h : s.ecc = []) (a n : Nat) {k : Nat} (hk : 0 < k) : s.badWords a n k = [] := by
  simp [State.badWords, h, mget]
  omega

theorem State.dramRead_of_sound {s : State} (h : s.ecc = []) (die off n src : Nat) :
    s.dramRead die off n src = (s, .ok (s.bytesAt (dramAddr die off) n)) := by
  simp [State.dramRead, State.badWords_of_sound h, forEach]

theorem State.dramWrite_of_sound {s : State} (h : s.ecc = []) (die off src : Nat) (bs : List Byte) :
    s.dramWrite die off src bs = (s.putBytes (dramAddr die off) bs, .ok) := by
  simp [State.dramWrite, h, mget, forEach]

/-- The target address of a byte of a page below the reserved region names that byte of the stack. -/
theorem PageMap.target_names {w : PageMap} {m i : Nat} (hm : m < 2 ^ 15) (hhome : w.home < 24)
    (hq : (w.q + 1) * 2 ^ 21 ≤ reservedOff) (hi : i < 2 ^ 21) :
    taModule (w.target m i) = m ∧ taDie (w.target m i) = w.home ∧ taEp (w.target m i) = false ∧
      taOff (w.target m i) = w.q * 2 ^ 21 + i ∧ taNames (w.target m i) = true := by
  simp only [reservedOff] at hq
  generalize ht : w.target m i = t
  replace ht : t = m * 2 ^ 48 + (2 ^ 42 * w.home + (w.q * 2 ^ 21 + i)) := ht.symm
  have hmod : taModule t = m := by simp only [taModule, bitsOf]; omega
  have hdie : taDie t = w.home := by simp only [taDie, bitsOf]; omega
  have hep : taEp t = false := by simp only [taEp, bitAt, beq_eq_false_iff_ne]; omega
  have hoff : taOff t = w.q * 2 ^ 21 + i := by simp only [taOff, hep, bitsOf, Bool.false_eq_true, if_false]; omega
  have h63 : bitAt t 63 = false := by simp only [bitAt, beq_eq_false_iff_ne]; omega
  have hzero : bitsOf t 40 36 = 0 := by simp only [bitsOf]; omega
  have hlow : w.q * 2 ^ 21 + i < 0xC00000000 := by omega
  refine ⟨hmod, hdie, hep, hoff, ?_⟩
  simp only [taNames, hep, h63, hdie, hhome, hzero, hoff, hlow]
  rfl

theorem State.netFlips_of_nil {s : State} (h : s.net = []) (die : Nat) : s.netFlips die = (0, s) := by
  cases s
  cases h
  rfl

/-- An access to DRAM, which is no scratchpad window, is served as one. -/
theorem State.serveRun_of_dram {s : State} {t : Nat} (src : Nat) (data : Option (List Byte)) (n : Nat) (hep : taEp t = false) :
    s.serveRun src t data n = (s.stackUp (taDie t)).serveAt src t data n := by
  unfold State.serveRun
  rw [if_neg (by simp [hep]), if_neg (by simp [hep])]

/-- An access to this module of whose packets no bit fails is served there. -/
theorem State.access_of_here {s : State} {t : Nat} (src : Nat) (data : Option (List Byte)) (n : Nat) (hnet : s.net = [])
    (hmod : taModule t = s.job.modId) : s.access src t data n = s.serveRun src t data n := by
  unfold State.access
  rw [if_pos (by simp [hmod]), State.netFlips_of_nil hnet]
  exact ite_self _

/-- What the stack answers to an access to a page's bytes. -/
def State.served (s : State) (a : Nat) (data : Option (List Byte)) (n : Nat) : State × Ans :=
  match data with
  | none => (s, .ok (s.bytesAt a n))
  | some bs => (s.putBytes a bs, .ok)

theorem State.Paged.serveAt {s : State} {w : PageMap} {i n : Nat} (src : Nat) (data : Option (List Byte)) (h : s.Paged w)
    (hi : i < 2 ^ 21) (hn : i + n ≤ 2 ^ 21) :
    s.serveAt src (w.target s.job.modId i) data n = s.served (w.byte i) data n := by
  obtain ⟨-, -, -, -, hhome, hq, hm, -⟩ := State.pageAt_iff.1 h.page
  obtain ⟨-, hdie, hep, hoff, hnames⟩ := w.target_names hm hhome hq hi
  have hlow : ¬ reservedOff < w.q * 2 ^ 21 + i + n := by omega
  cases data <;>
    simp only [State.serveAt, hnames, hep, hdie, hoff, hlow, Bool.not_true, Bool.false_eq_true, if_false, decide_false,
      Bool.false_and, State.dramRead_of_sound h.ecc, State.dramWrite_of_sound h.ecc] <;> rfl

/-! ### Accesses to the page (07_streams_layout R167; 08_bonded_dram R195) -/

/-- A state that accesses to a page have brought about from one of the contents of `b`: the page is still held, and what they left
beside the contents is of the translation units, the registers and the power controller. -/
structure State.Sees (b s : State) (w : PageMap) : Prop where
  paged : s.Paged w
  frame : SameBut [.regs, .tus, .pwr] b s

theorem State.Sees.of_paged {s : State} {w : PageMap} (h : s.Paged w) : s.Sees s w := ⟨h, SameBut.of_self _ s⟩

theorem State.Sees.through {b s t : State} {w : PageMap} (h : b.Sees s w) (k : s.Sees t w) : b.Sees t w :=
  ⟨k.paged, h.frame.through k.frame⟩

theorem State.Sees.get {b s : State} {w : PageMap} (h : b.Sees s w) (a : Nat) : Memory.get s.mem a = Memory.get b.mem a :=
  h.frame .mem (by simp) a

theorem State.Sees.bytesAt {b s : State} {w : PageMap} (h : b.Sees s w) (a n : Nat) : s.bytesAt a n = b.bytesAt a n := by
  simp only [State.bytesAt, h.get]

theorem State.putBytes_ecc_of_sound {s : State} (h : s.ecc = []) (a : Nat) (bs : List Byte) : (s.putBytes a bs).ecc = [] := by
  refine List.foldlRecOn (motive := (· = [])) _ _ h fun e he w _ => ?_
  simp [he, mdel]

/-- Bytes written there are written in the contents. -/
theorem State.Sees.putBytes {b s : State} {w : PageMap} (h : b.Sees s w) (a : Nat) (bs : List Byte) :
    (b.putBytes a bs).Sees (s.putBytes a bs) w := by
  have hecc : b.ecc = [] := (h.frame .ecc (by simp)).symm.trans h.paged.ecc
  refine ⟨⟨h.paged.page, State.putBytes_ecc_of_sound h.paged.ecc a bs, h.paged.net⟩, fun x hx => ?_⟩
  have hsame := h.frame x hx
  cases x
  case mem =>
    intro j
    simp only [State.putBytes_get, h.get]
  case ecc => exact (State.putBytes_ecc_of_sound h.paged.ecc a bs).trans (State.putBytes_ecc_of_sound hecc a bs).symm
  all_goals exact hsame

/-- An access to the page is translated and then served by its stack. -/
theorem State.Paged.access {s : State} {w : PageMap} {i need n : Nat} (ag : Agent) (data : Option (List Byte)) (h : s.Paged w)
    (hi : i < 2 ^ 21) (hn : i + n ≤ 2 ^ 21) (hneed : entryAllows w.e need = true) :
    ∃ s1 s2 ta, s.translate w.die ag.code (w.va i) need = (s1, 0, ta) ∧
      s1.access ag.src ta data n = s2.served (w.byte i) data n ∧ s.Sees s2 w := by
  obtain ⟨s1, htr, hp1, hf1⟩ := h.translate ag.code hi hneed
  obtain ⟨-, -, -, -, hhome, hq, hm, -⟩ := State.pageAt_iff.1 hp1.page
  obtain ⟨hmod, hdie, hep, -, -⟩ := w.target_names hm hhome hq hi
  have hup := s1.stackUp_frame w.home
  have hp2 := hp1.of_sameBut hup
  have hjob : s1.job = s.job := hf1 .job (by simp)
  have hjob2 : (s1.stackUp w.home).job = s1.job := hup .job (by simp)
  refine ⟨s1, s1.stackUp w.home, _, htr, ?_, hp2, hf1.through (hup.widen (by simp))⟩
  rw [← hjob, State.access_of_here _ _ _ hp1.net hmod, State.serveRun_of_dram _ _ _ hep, hdie, ← hjob2]
  exact hp2.serveAt _ _ hi hn

/-- A run of bytes that lies within a block of 64 is one access. -/
theorem blocks64_of_block {va n : Nat} (hn : 0 < n) (hva : va % 64 + n ≤ 64) : blocks64 (n + 1) va n = [(va, n)] := by
  have hmin : Nat.min n (64 - va % 64) = n := Nat.min_eq_left (by omega)
  obtain ⟨k, rfl⟩ : ∃ k, n = k + 1 := ⟨n - 1, by omega⟩
  simp [blocks64, hmin]

theorem PageMap.va_mod (w : PageMap) (i : Nat) : w.va i % 64 = i % 64 := by
  simp only [PageMap.va]
  omega

theorem State.vread_of_block {s s1 s2 : State} {ag : Agent} {va n need ta : Nat} {bs : List Byte} (hn : 0 < n)
    (hva : va % 64 + n ≤ 64) (htr : s.translate (s.tuOf ag va) ag.code va need = (s1, 0, ta))
    (hacc : s1.access ag.src ta none n = (s2, .ok bs)) : s.vread ag va n need = (s2, ⟨0, va, bs, none⟩) := by
  simp [State.vread, blocks64_of_block hn hva, htr, hacc, Ans.ok]

theorem slice_self (l : List Byte) : slice l 0 l.length = l := by
  have hwhole := slice_append_slice (l := l) (m := l.length) (n := 0) (by simp)
  rwa [List.eq_nil_of_length_eq_zero (slice_length l l.length 0), List.append_nil] at hwhole

theorem State.vwrite_of_block {s s1 s2 : State} {ag : Agent} {va ta : Nat} {bs : List Byte} (hn : 0 < bs.length)
    (hva : va % 64 + bs.length ≤ 64) (htr : s.translate (s.tuOf ag va) ag.code va permWrite = (s1, 0, ta))
    (hacc : s1.access ag.src ta (some bs) bs.length = (s2, .ok)) : s.vwrite ag va bs = (s2, ⟨0, va, [], none⟩) := by
  simp [State.vwrite, blocks64_of_block hn hva, htr, hacc, slice_self, Ans.ok]

/-- An engine reads the page's bytes within a block. -/
theorem State.Paged.vread {s : State} {w : PageMap} {i need n : Nat} {ag : Agent} (h : s.Paged w)
    (hag : s.tuOf ag (w.va i) = w.die) (hi : i < 2 ^ 21) (hn : 0 < n) (hblock : i % 64 + n ≤ 64)
    (hneed : entryAllows w.e need = true) :
    ∃ t, s.vread ag (w.va i) n need = (t, ⟨0, w.va i, s.bytesAt (w.byte i) n, none⟩) ∧ s.Sees t w := by
  obtain ⟨s1, t, ta, htr, hacc, hsees⟩ := h.access (n := n) ag none hi (by omega) hneed
  rw [← hag] at htr
  exact ⟨t, hsees.bytesAt _ n ▸ State.vread_of_block hn (w.va_mod i ▸ hblock) htr hacc, hsees⟩

/-- An engine writes the page's bytes within a block. -/
theorem State.Paged.vwrite {s : State} {w : PageMap} {i : Nat} {bs : List Byte} {ag : Agent} (h : s.Paged w)
    (hag : s.tuOf ag (w.va i) = w.die) (hi : i < 2 ^ 21) (hn : 0 < bs.length) (hblock : i % 64 + bs.length ≤ 64) :
    ∃ t, s.vwrite ag (w.va i) bs = (t, ⟨0, w.va i, [], none⟩) ∧ (s.putBytes (w.byte i) bs).Sees t w := by
  obtain ⟨-, -, hwrite, -⟩ := State.pageAt_iff.1 h.page
  obtain ⟨s1, t, ta, htr, hacc, hsees⟩ := h.access (n := bs.length) ag (some bs) hi (by omega) hwrite
  rw [← hag] at htr
  exact ⟨_, State.vwrite_of_block hn (w.va_mod i ▸ hblock) htr hacc, hsees.putBytes _ _⟩

end Sys2Proof.Machine
end

section
/-!
The accesses of a gather-merge operation, where the page is held (05_gather_merge R116 to R124, R131, R132).
-/
namespace Sys2Proof.Machine

/-! ### Operands on the page (05_gather_merge R116) -/

/-- An operand's address is that of the page's byte `x`, at which a block begins. -/
structure PageMap.Names (w : PageMap) (va x : Nat) : Prop where
  eq : va = w.va x
  aligned : x % 64 = 0
  low : x < 2 ^ 21

theorem rowAt_of_lt {base stride i : Nat} (h : base + i * stride < 2 ^ 64) : rowAt base stride i = base + i * stride := by
  have hcast : (base : Int) + (i : Int) * (stride : Int) = ((base + i * stride : Nat) : Int) := by push_cast; rfl
  rw [rowAt, hcast, wrapInt, ← Int.natCast_mod, Int.toNat_natCast, Nat.mod_eq_of_lt h]

theorem PageMap.va_lt {w : PageMap} {i : Nat} (hp : w.p < 2 ^ 35) (hi : i < 2 ^ 21) : w.va i < 2 ^ 56 := by
  simp only [PageMap.va]
  omega

/-- The page's number is one of an address of 57 bits. -/
theorem State.Paged.p_lt {s : State} {w : PageMap} (h : s.Paged w) : w.p < 2 ^ 35 := by
  obtain ⟨-, -, -, hp, -⟩ := State.pageAt_iff.1 h.page
  exact hp

theorem PageMap.Names.row_zero {w : PageMap} {va x : Nat} (h : w.Names va x) (hp : w.p < 2 ^ 35) (stride : Nat) :
    rowAt va stride 0 = w.va x := by
  obtain ⟨rfl, -, hlow⟩ := h
  have hlt := PageMap.va_lt hp hlow
  simpa using rowAt_of_lt (stride := stride) (i := 0) (by omega : w.va x + 0 * stride < 2 ^ 64)

theorem PageMap.Names.word {w : PageMap} {va x : Nat} (h : w.Names va x) (hp : w.p < 2 ^ 35) {k : Nat} (hk : k < 16) :
    rowAt va 4 k = w.va (x + 4 * k) := by
  obtain ⟨rfl, hx, hlow⟩ := h
  have hlt := PageMap.va_lt hp hlow
  rw [rowAt_of_lt (by omega), PageMap.va, PageMap.va]
  omega

/-! ### An operation that goes on without fault or event (05_gather_merge R123, R131 to R135) -/

/-- An operation that has met no fault and no event: its accesses to the page have made the contents of `b`, and it holds the
rows `l`. -/
structure GmeAcc.Runs (g : GmeAcc) (w : PageMap) (b : State) (l : List (Int × List Byte)) : Prop where
  sees : b.Sees g.s w
  held : g.held = l
  fault : g.fault = none
  noEvent : g.idxev = 0 ∧ g.fev = 0 ∧ g.drops = 0 ∧ g.spills = 0 ∧ g.nonfin = 0

section
variable {g : GmeAcc} {w : PageMap} {b : State} {l : List (Int × List Byte)}

theorem GmeAcc.Runs.p_lt (h : g.Runs w b l) : w.p < 2 ^ 35 := h.sees.paged.p_lt

/-- The engine of the page's die. -/
def PageMap.engine (w : PageMap) (src : Nat) : Agent := ⟨src, w.die, 1⟩

theorem State.tuOf_engine (s : State) (w : PageMap) (src va : Nat) : s.tuOf (w.engine src) va = w.die := rfl

theorem GmeAcc.Runs.read (h : g.Runs w b l) (src pos : Nat) {i n : Nat} (hi : i < 2 ^ 21) (hn : 0 < n) (hblock : i % 64 + n ≤ 64) :
    ∃ g', g.read (w.engine src) pos (w.va i) n = (g', b.bytesAt (w.byte i) n) ∧ g'.Runs w b l := by
  obtain ⟨-, hread, -⟩ := State.pageAt_iff.1 h.sees.paged.page
  obtain ⟨t, ht, hsees⟩ := h.sees.paged.vread (State.tuOf_engine _ w src _) hi hn hblock hread
  refine ⟨{ g with s := t }, ?_, h.sees.through hsees, h.held, h.fault, h.noEvent⟩
  simp [GmeAcc.read, h.fault, ht, h.sees.bytesAt]

theorem State.Sees.through_put {b s t : State} {w : PageMap} {a : Nat} {bs : List Byte} (h : b.Sees s w)
    (k : (s.putBytes a bs).Sees t w) : (b.putBytes a bs).Sees t w := (h.putBytes a bs).through k

theorem GmeAcc.Runs.write (h : g.Runs w b l) (src pos : Nat) {i : Nat} {bs : List Byte} (hi : i < 2 ^ 21) (hn : 0 < bs.length)
    (hblock : i % 64 + bs.length ≤ 64) : (g.write (w.engine src) pos (w.va i) bs).Runs w (b.putBytes (w.byte i) bs) l := by
  obtain ⟨t, ht, hsees⟩ := h.sees.paged.vwrite (State.tuOf_engine _ w src _) hi hn hblock
  have hwrite : g.write (w.engine src) pos (w.va i) bs = { g with s := t } := by simp [GmeAcc.write, h.fault, ht]
  rw [hwrite]
  exact ⟨h.sees.through_put hsees, h.held, h.fault, h.noEvent⟩

theorem GmeAcc.Runs.word (h : g.Runs w b l) (src pos : Nat) {va x k : Nat} (hx : w.Names va x) (hk : k < 16) :
    ∃ g', g.word (w.engine src) pos va k = (g', b.numAt (w.byte (x + 4 * k)) 4) ∧ g'.Runs w b l := by
  have hal := hx.aligned
  have hlow := hx.low
  obtain ⟨g', hg, hruns⟩ := h.read src pos (i := x + 4 * k) (n := 4) (by omega) (by decide) (by omega)
  refine ⟨g', ?_, hruns⟩
  simp only [GmeAcc.word, hx.word h.p_lt hk, hg]
  rfl

theorem GmeAcc.Runs.putWord (h : g.Runs w b l) (src pos v : Nat) {va x k : Nat} (hx : w.Names va x) (hk : k < 16) :
    (g.putWord (w.engine src) pos va k v).Runs w (b.putBytes (w.byte (x + 4 * k)) (leBytes 4 v)) l := by
  have hal := hx.aligned
  have hlow := hx.low
  rw [GmeAcc.putWord, hx.word h.p_lt hk]
  exact h.write src pos (by omega) (by simp) (by simp; omega)

/-- The first word of an array. -/
theorem GmeAcc.Runs.firstWord (h : g.Runs w b l) (src pos : Nat) {va x v : Nat} (hx : w.Names va x)
    (hv : b.numAt (w.byte x) 4 = v) : ∃ g', g.word (w.engine src) pos va 0 = (g', v) ∧ g'.Runs w b l := by
  simpa [hv] using h.word src pos hx (k := 0) (by decide)

theorem GmeAcc.Runs.putFirstWord (h : g.Runs w b l) (src pos v : Nat) {va x : Nat} (hx : w.Names va x) :
    (g.putWord (w.engine src) pos va 0 v).Runs w (b.putBytes (w.byte x) (leBytes 4 v)) l := by
  simpa using h.putWord src pos v hx (k := 0) (by decide)

/-- A row of 64 bytes at the start of a block. -/
theorem GmeAcc.Runs.readRow (h : g.Runs w b l) (src pos stride : Nat) {va y : Nat} (hy : w.Names va y) :
    ∃ g', g.read (w.engine src) pos (rowAt va stride 0) 64 = (g', b.bytesAt (w.byte y) 64) ∧ g'.Runs w b l := by
  have hal := hy.aligned
  rw [hy.row_zero h.p_lt]
  exact h.read src pos hy.low (by decide) (by omega)

theorem GmeAcc.Runs.writeRow (h : g.Runs w b l) (src pos stride : Nat) {va z : Nat} {bs : List Byte} (hz : w.Names va z)
    (hn : 0 < bs.length) (hbs : bs.length ≤ 64) :
    (g.write (w.engine src) pos (rowAt va stride 0) bs).Runs w (b.putBytes (w.byte z) bs) l := by
  have hal := hz.aligned
  rw [hz.row_zero h.p_lt]
  exact h.write src pos hz.low hn (by omega)

/-- A single position that meets no fault keeps its effects. -/
theorem GmeAcc.Runs.each_singleton {α : Type} {f : GmeAcc → α → GmeAcc} {a : α} {b' : State} {l' : List (Int × List Byte)}
    (h : g.Runs w b l) (hf : (f g a).Runs w b' l') : (g.each [a] f).Runs w b' l' := by
  have heach : g.each [a] f = f g a := by simp [GmeAcc.each, h.fault, GmeAcc.undo, hf.fault]
  rwa [heach]

/-- The first row of a table is one that an index may name. -/
theorem GmeAcc.resolve_zero (hg : g.fault = none) (d pos : Nat) {n : Nat} (hn : 0 < n) : g.resolve d pos 0 n = (g, some 0) := by
  have hzero : sext 32 0 = 0 := by decide
  simp [GmeAcc.resolve, hg, hzero, nullIdx, hn]

/-- A row of 64 bytes that is not held is read into the cache. -/
theorem GmeAcc.Runs.cached (h : g.Runs w b []) (src pos : Nat) {d y : Nat} (hy : w.Names (gSrc d) y) (hlen : gRowLen d = 64) :
    ∃ g', g.cached (w.engine src) d pos 0 = (g', b.bytesAt (w.byte y) 64) ∧
      g'.Runs w b [(0, b.bytesAt (w.byte y) 64)] := by
  obtain ⟨g', hg, hsees, hheld, hfault, hev⟩ := h.readRow src pos (gSstride d) hy
  refine ⟨_, ?_, (⟨hsees, ?_, hfault, hev⟩ :
    ({ g' with held := ((0, b.bytesAt (w.byte y) 64) :: g'.held).take 64, misses := g'.misses + 1 } : GmeAcc).Runs w b _)⟩
  · simp [GmeAcc.cached, h.held, hlen, hg]
  · simp [hheld]

/-- An engine that may write the page's bytes within a block meets no fault there. -/
theorem GmeAcc.Runs.mayWrite (h : g.Runs w b l) (src pos : Nat) {i n : Nat} (hi : i < 2 ^ 21) (hn : 0 < n)
    (hblock : i % 64 + n ≤ 64) : (g.mayWrite (w.engine src) pos (w.va i) n).Runs w b l := by
  obtain ⟨-, -, hwrite, -⟩ := State.pageAt_iff.1 h.sees.paged.page
  obtain ⟨t, ht, hpaged, hframe⟩ := h.sees.paged.translate (w.engine src).code hi hwrite
  have hmay : g.mayWrite (w.engine src) pos (w.va i) n = { g with s := t } := by
    rw [GmeAcc.mayWrite, blocks64_of_block hn (w.va_mod i ▸ hblock)]
    simp [h.fault, show (w.engine src).die = w.die from rfl, ht]
  rw [hmay]
  exact ⟨h.sees.through ⟨hpaged, hframe⟩, h.held, h.fault, h.noEvent⟩

/-- The first target row of 64 bytes is read into the merge buffer. -/
theorem GmeAcc.Runs.hold (h : g.Runs w b []) (src pos : Nat) {d z : Nat} (hz : w.Names (gDst d) z) (hlen : gRowLen d = 64) :
    ∃ g', g.hold (w.engine src) d pos 0 = (g', b.bytesAt (w.byte z) 64) ∧ g'.Runs w b [] := by
  have hal := hz.aligned
  have hroom : g.makeRoom (w.engine src) d pos = g := by simp [GmeAcc.makeRoom, h.held]
  obtain ⟨g', hg, hsees, hheld, hfault, hev⟩ :=
    (h.mayWrite src pos (n := 64) hz.low (by decide) (by omega)).read src pos (n := 64) hz.low (by decide) (by omega)
  refine ⟨_, ?_, (⟨hsees, hheld, hfault, hev⟩ : ({ g' with misses := g'.misses + 1 } : GmeAcc).Runs w b [])⟩
  simp [GmeAcc.hold, h.held, hroom, hlen, hz.row_zero h.p_lt, hg]

/-- A held row of 64 bytes is written back to the first target. -/
theorem GmeAcc.Runs.writeBack (h : g.Runs w b l) (src pos : Nat) {d z : Nat} {bs : List Byte} (hz : w.Names (gDst d) z)
    (hbs : bs.length = 64) : (g.writeBack (w.engine src) d pos (0, bs)).Runs w (b.putBytes (w.byte z) bs) l := by
  have hal := hz.aligned
  obtain ⟨t, ht, hsees⟩ := h.sees.paged.vwrite (bs := bs) (State.tuOf_engine _ w src _) hz.low (by omega) (by omega)
  have hback : g.writeBack (w.engine src) d pos (0, bs) = { g with s := t } := by
    simp [GmeAcc.writeBack, hz.row_zero h.p_lt, ht]
  rw [hback]
  exact ⟨h.sees.through_put hsees, h.held, h.fault, h.noEvent⟩

/-- The offsets of one segment, in order and within the indices. -/
theorem GmeAcc.Runs.offsets (h : g.Runs w b l) (src : Nat) {d x n : Nat} (hx : w.Names (gIdx d) x) (hseg : gNseg d = 1)
    (hlo : b.numAt (w.byte x) 4 = 0) (hhi : b.numAt (w.byte x + 4) 4 = n) (hn : n < 2 ^ 31) (hidx : n ≤ gNidx d) :
    ∃ g', g.offsets (w.engine src) d = (g', [0, n]) ∧ g'.Runs w b l := by
  obtain ⟨g1, hg1, h1⟩ := h.word src 0 hx (k := 0) (by decide)
  obtain ⟨g2, hg2, h2⟩ := h1.word src 1 hx (k := 1) (by decide)
  rw [Nat.mul_zero, Nat.add_zero, hlo] at hg1
  rw [Nat.mul_one, w.byte_add, hhi] at hg2
  have hzero : sext 32 0 = 0 := by decide
  have hsext : sext 32 n = n := by
    have hmod : n % 2 ^ 32 = n := Nat.mod_eq_of_lt (by omega)
    simp only [sext, hmod]
    exact if_pos hn
  refine ⟨g2, ?_, h2⟩
  have hle : (n : Int) ≤ (gNidx d : Int) := by exact_mod_cast hidx
  simp [GmeAcc.offsets, hseg, List.range_succ, h.fault, hg1, h1.fault, hzero, hg2, h2.fault, hsext, hle]

end

end Sys2Proof.Machine
end

section
/-!
What each operation of a gather-merge engine writes, in its form of one row (05_gather_merge R124 to R130).
-/
namespace Sys2Proof.Machine

section
variable {g : GmeAcc} {w : PageMap} {b : State} {d x y z : Nat}

/-! ### Row operations (05_gather_merge R124 to R127) -/

theorem GmeAcc.Runs.gather (h : g.Runs w b []) (src : Nat) (hx : w.Names (gIdx d) x) (hy : w.Names (gSrc d) y)
    (hz : w.Names (gDst d) z) (hlen : gRowLen d = 64) (hidx : gNidx d = 1) (hrows : 0 < gNrows d)
    (hzero : b.numAt (w.byte x) 4 = 0) :
    (g.gather (w.engine src) d).Runs w (b.putBytes (w.byte z) (b.bytesAt (w.byte y) 64))
      [(0, b.bytesAt (w.byte y) 64)] := by
  obtain ⟨g1, hg1, h1⟩ := h.firstWord src 0 hx hzero
  obtain ⟨g2, hg2, h2⟩ := h1.cached src 0 hy hlen
  have h3 := h2.writeRow src 0 (gDstride d) (bs := b.bytesAt (w.byte y) 64) hz (by simp) (by simp)
  rw [GmeAcc.gather, hidx]
  refine h.each_singleton ?_
  simpa only [hg1, GmeAcc.resolve_zero h1.fault d 0 hrows, hg2, Nat.cast_zero] using h3

theorem GmeAcc.Runs.scatter (h : g.Runs w b []) (src : Nat) (hx : w.Names (gIdx d) x) (hy : w.Names (gSrc d) y)
    (hz : w.Names (gDst d) z) (hlen : gRowLen d = 64) (hidx : gNidx d = 1) (hrows : 0 < gNrows d)
    (hzero : b.numAt (w.byte x) 4 = 0) :
    (g.scatter (w.engine src) d).Runs w (b.putBytes (w.byte z) (b.bytesAt (w.byte y) 64)) [] := by
  obtain ⟨g1, hg1, h1⟩ := h.firstWord src 0 hx hzero
  obtain ⟨g2, hg2, h2⟩ := h1.readRow src 0 (gSstride d) hy
  have h3 := h2.writeRow src 0 (gDstride d) (bs := b.bytesAt (w.byte y) 64) hz (by simp) (by simp)
  rw [GmeAcc.scatter, hidx]
  refine h.each_singleton ?_
  simpa only [hg1, GmeAcc.resolve_zero h1.fault d 0 hrows, hlen, hg2, Nat.cast_zero] using h3

theorem codeBytes_length (ws : List Nat) : (codeBytes 32 ws).length = 4 * ws.length := by
  rw [codeBytes, leBytes_length]
  omega

theorem addRows_length (r c : List Nat) : (addRows r c).1.length = min r.length c.length := by simp [addRows]

theorem rowWords_length (bs : List Byte) : (rowWords bs).length = bs.length / 4 := by simp [rowWords, codesOf]

/-- The sum of two rows of 64 bytes. -/
def rowSum (r c : List Byte) : List Byte := codeBytes 32 (addRows (rowWords r) (rowWords c)).1

theorem rowSum_length {r c : List Byte} (hr : r.length = 64) (hc : c.length = 64) : (rowSum r c).length = 64 := by
  simp [rowSum, codeBytes_length, addRows_length, rowWords_length, hr, hc]

/-- The one row held at the end is written back. -/
theorem GmeAcc.Runs.writeHeld {bs : List Byte} (src pos : Nat) (hz : w.Names (gDst d) z) (hbs : bs.length = 64)
    (h : g.Runs w b [(0, bs)]) :
    (g.held.reverse.foldl (fun g p => g.writeBack (w.engine src) d pos p) g).Runs w (b.putBytes (w.byte z) bs) [(0, bs)] := by
  rw [h.held]
  exact h.writeBack src pos hz hbs

theorem GmeAcc.Runs.scatterAdd (h : g.Runs w b []) (src : Nat) (hx : w.Names (gIdx d) x) (hy : w.Names (gSrc d) y)
    (hz : w.Names (gDst d) z) (hlen : gRowLen d = 64) (hidx : gNidx d = 1) (hrows : 0 < gNrows d)
    (hzero : b.numAt (w.byte x) 4 = 0)
    (hev : (addRows (rowWords (b.bytesAt (w.byte z) 64)) (rowWords (b.bytesAt (w.byte y) 64))).2 = 0) :
    (g.scatterAdd (w.engine src) d).Runs w
      (b.putBytes (w.byte z) (rowSum (b.bytesAt (w.byte z) 64) (b.bytesAt (w.byte y) 64)))
      [(0, rowSum (b.bytesAt (w.byte z) 64) (b.bytesAt (w.byte y) 64))] := by
  obtain ⟨g1, hg1, h1⟩ := h.firstWord src 0 hx hzero
  obtain ⟨g2, hg2, h2⟩ := h1.readRow src 0 (gSstride d) hy
  obtain ⟨g3, hg3, hsees, hheld, hfault, hevents⟩ := h2.hold src 0 hz hlen
  rw [GmeAcc.scatterAdd, hidx]
  refine GmeAcc.Runs.writeHeld src 0 hz (rowSum_length (State.bytesAt_length _ _ _) (State.bytesAt_length _ _ _)) (h.each_singleton ?_)
  simp only [hg1, GmeAcc.resolve_zero h1.fault d 0 hrows, hlen, Nat.cast_zero, hg2, hg3, hev]
  exact ⟨hsees, congrArg _ hheld, hfault, hevents⟩

theorem numAt_eight_eq_zero {b : State} {a : Nat} (h : b.numAt a 8 = 0) : b.numAt a 4 = 0 ∧ b.numAt (a + 4) 4 = 0 := by
  simp only [State.numAt, State.bytesAt, List.range_succ, List.range_zero, List.nil_append, List.cons_append, List.map_cons, List.map_nil,
    leNat, Nat.add_assoc, Nat.reduceAdd] at h ⊢
  omega

/-- An empty segment is reduced to a row of zeros. -/
theorem GmeAcc.Runs.segmentReduce (h : g.Runs w b []) (src : Nat) (hx : w.Names (gIdx d) x) (hz : w.Names (gDst d) z)
    (hlen : gRowLen d = 64) (hseg : gNseg d = 1) (hzero : b.numAt (w.byte x) 8 = 0) :
    (g.segmentReduce (w.engine src) d).Runs w (b.putBytes (w.byte z) (List.replicate 64 0)) [] := by
  obtain ⟨hlo, hhi⟩ := numAt_eight_eq_zero hzero
  obtain ⟨g1, hg1, h1⟩ := h.offsets src hx hseg hlo hhi (by decide) (Nat.zero_le _)
  have hrow : codeBytes 32 (List.replicate 16 0) = List.replicate 64 0 := by decide
  have h2 := h1.writeRow src 0 (gDstride d) (bs := List.replicate 64 0) hz (by simp) (by simp)
  simp only [GmeAcc.segmentReduce, hg1, hseg]
  refine h1.each_singleton ?_
  simpa [-List.reduceReplicate, hlen, hrow] using h2

theorem GmeAcc.Runs.pack (h : g.Runs w b []) (src : Nat) (hx : w.Names (gIdx d) x) (hy : w.Names (gSrc d) y)
    (hz : w.Names (gDst d) z) (hlen : gRowLen d = 64) (hseg : gNseg d = 1) (hrows : 0 < gNrows d) (hidx : gNidx d = 1)
    (hlo : b.numAt (w.byte x) 4 = 0) (hhi : b.numAt (w.byte x + 4) 4 = 1) :
    (g.pack (w.engine src) d).Runs w (b.putBytes (w.byte z) (b.bytesAt (w.byte y) 64)) [(0, b.bytesAt (w.byte y) 64)] := by
  obtain ⟨g1, hg1, h1⟩ := h.offsets src hx hseg hlo hhi (by decide) hidx.ge
  obtain ⟨g2, hg2, h2⟩ := h1.cached src 0 hy hlen
  have h3 := h2.writeRow src 0 (gDstride d) (bs := b.bytesAt (w.byte y) 64) hz (by simp) (by simp)
  simp only [GmeAcc.pack, hg1, hseg]
  refine h1.each_singleton (a := (0, 0, 0)) ?_
  simpa [GmeAcc.resolve_zero h1.fault d 0 hrows, hg2] using h3

theorem GmeAcc.Runs.unpack (h : g.Runs w b []) (src : Nat) (hx : w.Names (gIdx d) x) (hy : w.Names (gSrc d) y)
    (hz : w.Names (gDst d) z) (hlen : gRowLen d = 64) (hseg : gNseg d = 1) (hrows : gNrows d = 1) (hidx : gNidx d = 1)
    (hlo : b.numAt (w.byte x) 4 = 0) (hhi : b.numAt (w.byte x + 4) 4 = 1) :
    (g.unpack (w.engine src) d).Runs w (b.putBytes (w.byte z) (b.bytesAt (w.byte y) 64)) [] := by
  obtain ⟨g1, hg1, h1⟩ := h.offsets src hx hseg hlo hhi (by decide) hidx.ge
  obtain ⟨g2, hg2, h2⟩ := h1.readRow src 0 (gSstride d) hy
  have h3 := h2.writeRow src 0 (gDstride d) (bs := b.bytesAt (w.byte y) 64) hz (by simp) (by simp)
  simp only [GmeAcc.unpack, hg1, hseg, hrows]
  refine h1.each_singleton (a := (0, 0, 0, true)) ?_
  simpa [GmeAcc.resolve_zero h1.fault d 0 (n := 1) (by decide), hlen, hg2] using h3

/-! ### Sorting, routing and compaction (05_gather_merge R128 to R130) -/

theorem leBytes_numAt (b : State) (a n : Nat) : leBytes n (b.numAt a n) = b.bytesAt a n := by
  simpa [State.numAt] using leBytes_leNat (b.bytesAt a n)

theorem sortBy_singleton {α : Type} (le : α → α → Bool) (a : α) : sortBy le [a] = [a] := rfl

/-- A single key is written with its position, 0. -/
theorem GmeAcc.Runs.sortByKey {v : Nat} (h : g.Runs w b []) (src : Nat) (hx : w.Names (gIdx d) x) (hz : w.Names (gDst d) z)
    (hv : w.Names (gAux d) v) (hlen : gRowLen d = 0) (hidx : gNidx d = 1) :
    (g.sortByKey (w.engine src) d).Runs w
      ((b.putBytes (w.byte v) (b.bytesAt (w.byte x) 4)).putBytes (w.byte z) (leBytes 4 0)) [] := by
  obtain ⟨g1, hg1, h1⟩ := h.firstWord src 0 hx rfl
  have h3 := (h1.putFirstWord src 0 (b.numAt (w.byte x) 4) hv).putFirstWord src 0 0 hz
  rw [leBytes_numAt] at h3
  simp only [GmeAcc.sortByKey, hidx, List.range_one, List.foldl_cons, List.foldl_nil, hg1, hlen, List.reverse_singleton,
    sortBy_singleton, List.zipIdx_singleton, if_true]
  exact h1.each_singleton h3

theorem GmeAcc.undo_of_runs {before : GmeAcc} {l : List (Int × List Byte)} (h : g.Runs w b l) : before.undo g = g := by
  simp [GmeAcc.undo, h.fault]

theorem GmeAcc.each_nil {α : Type} (f : GmeAcc → α → GmeAcc) : g.each [] f = g := rfl

/-- One word of a list, as the position that writes it. -/
theorem GmeAcc.Runs.each_putWord {l : List (Int × List Byte)} {va k : Nat} (v : Nat → Nat) (h : g.Runs w b l) (src pos : Nat)
    (hx : w.Names va x) (hk : k < 16) :
    (g.each [k] fun g k => g.putWord (w.engine src) pos va k (v k)).Runs w (b.putBytes (w.byte (x + 4 * k)) (leBytes 4 (v k))) l :=
  h.each_singleton (h.putWord src pos (v k) hx hk)

/-- A key of the one bucket, which has capacity for it, takes its first place. -/
theorem GmeAcc.Runs.bucket {v : Nat} (h : g.Runs w b []) (src : Nat) (hx : w.Names (gIdx d) x) (hy : w.Names (gSrc d) y)
    (hz : w.Names (gDst d) z) (hv : w.Names (gAux d) v) (hidx : gNidx d = 1) (hseg : gNseg d = 1) (hcap : gCap d = 1)
    (hrows : gNrows d = 0) (hzero : b.numAt (w.byte x) 4 = 0) :
    (g.bucket (w.engine src) d).Runs w
      ((((b.putBytes (w.byte z) (leBytes 4 0)).putBytes (w.byte y) (leBytes 4 0)).putBytes (w.byte v) (leBytes 4 1)).putBytes
        (w.byte (v + 4)) (leBytes 4 0)) [] := by
  obtain ⟨g1, hg1, h1⟩ := h.firstWord src 0 hx hzero
  have hplaced := (h1.putFirstWord src 0 0 hz).putFirstWord src 0 0 hy
  have hcounts := hplaced.each_putWord (fun k => mget (mset 0 [] 0 1) k 0) src 1 hv (k := 0) (by decide)
  have hspilled := hcounts.each_putWord (fun _ => 0) src 1 hv (k := 1) (by decide)
  have hnone : mget ([] : SMap Nat) 0 0 = 0 := rfl
  have hone : mget (mset 0 ([] : SMap Nat) 0 1) 0 0 = 1 := by decide
  simpa [GmeAcc.bucket, hidx, hseg, hcap, hrows, h.fault, hg1, GmeAcc.resolve_zero h1.fault d 0 (n := 1) (by decide), h1.fault,
    hnone, GmeAcc.undo_of_runs hplaced, hone, GmeAcc.each_nil] using hspilled

/-- The two positions set of a mask of eight, and their count. -/
theorem GmeAcc.Runs.maskCompact {v : Nat} (h : g.Runs w b []) (src : Nat) (hx : w.Names (gIdx d) x)
    (hz : w.Names (gDst d) z) (hv : w.Names (gAux d) v) (hseg : gNseg d = 1) (hidx : gNidx d = 8)
    (hrows : gNrows d = 2) (hpol : gOvfPol d = 0) (hmask : Memory.get b.mem (w.byte x) = 0x90) :
    (g.maskCompact (w.engine src) d).Runs w
      ((b.putBytes (w.byte z) (leBytes 4 4 ++ leBytes 4 7)).putBytes (w.byte v) (leBytes 4 2)) [] := by
  have hal := hx.aligned
  obtain ⟨g1, hg1, h1⟩ := h.read src 0 (n := 1) hx.low (by decide) (by omega)
  have hbyte : b.bytesAt (w.byte x) 1 = [0x90] := by simp [State.bytesAt, hmask]
  have hbits : setBits 8 (leNat [0x90]) = [4, 7] := by decide
  have hlist : [4, 7].flatMap (fun v => leBytes 4 v) = leBytes 4 4 ++ leBytes 4 7 := rfl
  rw [← hx.row_zero h.p_lt (gSstride d), hbyte] at hg1
  have h2 := h1.writeRow src 0 (gDstride d) (bs := leBytes 4 4 ++ leBytes 4 7) hz (by simp) (by simp)
  have h3 := h2.putFirstWord src 0 2 hv
  rw [GmeAcc.maskCompact, hseg]
  refine h.each_singleton ?_
  simp only [hidx, ceilDiv, Nat.cast_zero, hg1, hbits, hrows, hpol]
  exact h3

end

end Sys2Proof.Machine
end

section
/-!
Where an operation of a gather-merge engine completes (05_gather_merge R114, R115, R123, R135).
-/
namespace Sys2Proof.Machine

/-! ### The writes of an operation -/

/-- The state with runs of bytes of a page written, in order. -/
def State.puts (s : State) (w : PageMap) (ws : List (Nat × List Byte)) : State :=
  ws.foldl (fun s p => s.putBytes (w.byte p.1) p.2) s

theorem State.puts_frame (s : State) (w : PageMap) (ws : List (Nat × List Byte)) : SameBut [.mem, .ecc] s (s.puts w ws) :=
  SameBut.fold (π := id) ws (fun s p => s.putBytes (w.byte p.1) p.2) (fun t _ => t.putBytes_frame _ _) s

/-- Writes to memories of the same contents give memories of the same contents. -/
theorem State.puts_get_congr {s t : State} (h : ∀ a, Memory.get t.mem a = Memory.get s.mem a) (w : PageMap)
    (ws : List (Nat × List Byte)) (a : Nat) : Memory.get (t.puts w ws).mem a = Memory.get (s.puts w ws).mem a := by
  induction ws generalizing s t with
  | nil => exact h a
  | cons p ws ih => exact ih fun j => by simp only [State.putBytes_get, h]

/-! ### The events of an operation without any (05_gather_merge R135) -/

theorem State.ltAdd_zero (s : State) (layer off len : Nat) : s.ltAdd layer off len 0 = s := by simp [State.ltAdd]

theorem GmeAcc.Runs.finish {g : GmeAcc} {w : PageMap} {b : State} {l : List (Int × List Byte)} (h : g.Runs w b l)
    (die e layer : Nat) : SameBut [.regs] g.s (g.finish die e layer) := by
  obtain ⟨hidx, hfev, hdrops, hspills, hnonfin⟩ := h.noEvent
  simp [GmeAcc.finish, hidx, hfev, hdrops, hspills, hnonfin, State.addIrreg, State.addEvents, State.ltAdd_zero]

/-! ### The run of an operation (05_gather_merge R114, R115) -/

/-- An idle engine whose one queued operation, of the code `op`, has its descriptor `d` at byte `i` of the page, and its tag
free. -/
structure State.Queued (s : State) (w : PageMap) (eng core op i d tag : Nat) : Prop where
  paged : s.Paged w
  aligned : i % 64 = 0
  low : i < 2 ^ 21
  idle : (s.gme w.die eng).run = none
  queue : (s.gme w.die eng).queue = [(core, w.va i)]
  tagFree : mget (s.core w.die core).tags tag .free = .free
  desc : s.numAt (w.byte i) 64 = d
  op : gOp d = op
  tag : gTag d = tag

/-- What has come about of such an operation that makes the writes `ws`: its contents, the operation under way, and its tag out. -/
def Ran (s t : State) (w : PageMap) (eng core i d tag : Nat) (ws : List (Nat × List Byte)) : Prop :=
  (∀ a, Memory.get t.mem a = Memory.get (s.puts w ws).mem a) ∧
    (t.gme w.die eng).run = some ⟨core, w.va i, d, true, none⟩ ∧ mget (t.core w.die core).tags tag .free = .out

theorem CoreSt.takeTag_of_free {c : CoreSt} {tag : Nat} (h : mget c.tags tag .free = .free) :
    c.takeTag tag = some { c with tags := mset .free c.tags tag .out } := by
  simp [CoreSt.takeTag, h]

/-- The state in which the last operation of an engine's queue starts: its tag out, the engine busy with it. -/
def State.gmeStart (s : State) (die e op core tag : Nat) : State :=
  ((((s.setGme die e {}).wr (gmeU die e) Reg.GME_STAT_QDEPTH 0).setCore die core
    { s.core die core with tags := mset .free (s.core die core).tags tag .out }).wr (gmeU die e) Reg.GME_STAT_BUSY 1).wr
    (gmeU die e) Reg.GME_STAT_OP op

theorem State.tag_gmeStart (s : State) (die e op core tag : Nat) :
    mget ((s.gmeStart die e op core tag).core die core).tags tag .free = .out := by
  have hcore : (s.gmeStart die e op core tag).core die core =
      { s.core die core with tags := mset .free (s.core die core).tags tag .out } := State.core_setCore_same _ _ _ _
  rw [hcore, mget_mset_same]

/-- A start writes neither memory nor what tells that the page is held. -/
theorem State.Sees.gmeStart {b s : State} {w : PageMap} (h : b.Sees s w) (e op core tag : Nat) :
    (s.gmeStart w.die e op core tag).Paged w ∧ ∀ a, Memory.get (s.gmeStart w.die e op core tag).mem a = Memory.get b.mem a :=
  ⟨⟨h.paged.page, h.paged.ecc, h.paged.net⟩, h.get⟩

@[simp] theorem State.gme_setGme_same (s : State) (die e : Nat) (g : GmeSt) : (s.setGme die e g).gme die e = g :=
  mget_mset_same {} s.gmes (die * 2 + e) g

theorem State.core_congr {s t : State} (h : t.cores = s.cores) (die core : Nat) : t.core die core = s.core die core := by
  simp only [State.core, h]

theorem State.gmeRunOp_of_start {s s1 : State} {die e op core addr : Nat} {r : VRes} (f : GmeAcc → Agent → Nat → GmeAcc)
    (hidle : (s.gme die e).run = none) (hqueue : (s.gme die e).queue = [(core, addr)])
    (hread : s.vread (s.gmeAgent die e) addr 64 permRead = (s1, r)) (herr : r.err = 0) (hop : gOp (leNat r.data) = op)
    (hfree : mget (s1.core die core).tags (gTag (leNat r.data)) .free = .free) :
    let acc := f { s := s1.gmeStart die e op core (gTag (leNat r.data)) } (s.gmeAgent die e) (leNat r.data)
    s.gmeRunOp die e op f = (acc.finish die e (gLayer (leNat r.data))).setGme die e
      { queue := [], run := some ⟨core, addr, leNat r.data, true, acc.fault⟩ } := by
  have hcore : ((s1.setGme die e {}).wr (gmeU die e) Reg.GME_STAT_QDEPTH 0).core die core = s1.core die core := rfl
  simp [State.gmeRunOp, State.gmeStart, hidle, hqueue, hread, herr, hop, hcore, CoreSt.takeTag_of_free hfree]

/-- The agent of the engine of the page's die. -/
theorem State.gmeAgent_eq (s : State) (w : PageMap) (eng : Nat) :
    s.gmeAgent w.die eng = w.engine (s.unitAddr (gmeU w.die eng)) := rfl

/-- An operation that makes its writes without fault or event is under way, its tag out. -/
theorem State.Queued.ran {s : State} {w : PageMap} {eng core op i d tag : Nat} {ws : List (Nat × List Byte)}
    {f : GmeAcc → Agent → Nat → GmeAcc} (hs : s.Queued w eng core op i d tag)
    (hf : ∀ src g b, (∀ a n, b.bytesAt a n = s.bytesAt a n) → GmeAcc.Runs g w b [] →
      ∃ l, (f g (w.engine src) d).Runs w (b.puts w ws) l) : Ran s (s.gmeRunOp w.die eng op f) w eng core i d tag ws := by
  have hal := hs.aligned
  obtain ⟨-, hread, -⟩ := State.pageAt_iff.1 hs.paged.page
  obtain ⟨s1, hdesc, hsees⟩ := hs.paged.vread (State.tuOf_engine s w (s.unitAddr (gmeU w.die eng)) _) hs.low
    (by decide : 0 < 64) (by omega) hread
  have hd : leNat (s.bytesAt (w.byte i) 64) = d := hs.desc
  have htagd := hs.tag
  have hcore : s1.core w.die core = s.core w.die core := State.core_congr (hsees.frame .cores (by simp)) _ _
  have hrun := State.gmeRunOp_of_start f hs.idle hs.queue hdesc rfl (hd ▸ hs.op) (by rw [hd, hcore, htagd]; exact hs.tagFree)
  have htag := s1.tag_gmeStart w.die eng op core tag
  obtain ⟨hpaged, hmem⟩ := hsees.gmeStart eng op core tag
  simp only [hd, htagd, State.gmeAgent_eq] at hrun
  generalize s1.gmeStart w.die eng op core tag = s3 at hrun htag hpaged hmem
  obtain ⟨l, hend⟩ := hf (s.unitAddr (gmeU w.die eng)) { s := s3 } s3 (by simp [State.bytesAt, hmem])
    ⟨.of_paged hpaged, rfl, rfl, rfl, rfl, rfl, rfl, rfl⟩
  have hwrote := hend.sees.frame.through ((hend.finish w.die eng (gLayer d)).widen (by simp))
  have hkept := ((s3.puts_frame w ws).widen (m := [.mem, .ecc, .regs, .tus, .pwr]) (by simp)).through (hwrote.widen (by simp))
  rw [hend.fault] at hrun
  rw [hrun]
  generalize (f { s := s3 } (w.engine (s.unitAddr (gmeU w.die eng))) d).finish w.die eng (gLayer d) = t at hwrote hkept
  refine ⟨fun a => (hwrote .mem (by simp) a).trans (State.puts_get_congr hmem w ws a), ?_, ?_⟩
  · rw [State.gme_setGme_same]
  · exact (congrArg (fun c : CoreSt => mget c.tags tag .free) (State.core_congr (hkept .cores (by simp)) _ _)).trans htag

/-- A command that runs the engine's operation completes with the operation's writes. -/
theorem State.Queued.yields {s : State} {w : PageMap} {eng core op i d tag : Nat} {ws : List (Nat × List Byte)} {cmd : Instr}
    {f : GmeAcc → Agent → Nat → GmeAcc} {P : State → Prop} (hs : s.Queued w eng core op i d tag) (heng : eng < 2)
    (hc : exec cmd s = done (s.gmeRunOp w.die (eng % 2) op f))
    (hf : ∀ src g b, (∀ a n, b.bytesAt a n = s.bytesAt a n) → GmeAcc.Runs g w b [] →
      ∃ l, (f g (w.engine src) d).Runs w (b.puts w ws) l)
    (hP : ∀ t, Ran s t w eng core i d tag ws → P t) : Yields cmd s P := by
  rw [Nat.mod_eq_of_lt heng] at hc
  obtain ⟨hmem, hrest⟩ := hs.ran hf
  exact .of_done hc (hP _ ⟨fun a => (State.canon_get _ a).trans (hmem a), hrest⟩)

/-! ### What the writes leave in memory -/

theorem Holds.of_get {s t : State} {a : Nat} {bs : List Byte} (h : Holds s a bs)
    (hst : ∀ j, Memory.get t.mem j = Memory.get s.mem j) : Holds t a bs := fun i hi => (hst _).trans (h i hi)

theorem holds_putBytes (s : State) (a : Nat) (bs : List Byte) : Holds (s.putBytes a bs) a bs :=
  (holds_and_sameMemBut_of_put rfl).1

/-- A run of bytes stands where others are written. -/
theorem Holds.putBytes {s : State} {a b : Nat} {bs cs : List Byte} (h : Holds s a bs)
    (hd : a + bs.length ≤ b ∨ b + cs.length ≤ a) : Holds (s.putBytes b cs) a bs := fun i hi => by
  rw [State.putBytes_get, if_neg (by omega)]
  exact h i hi

theorem Holds.append {s : State} {a : Nat} {bs cs : List Byte} (h : Holds s a bs) (k : Holds s (a + bs.length) cs) :
    Holds s a (bs ++ cs) := fun i hi => by
  rw [List.getD_eq_getElem?_getD, List.getElem?_append]
  split
  case isTrue hlt => rw [h i hlt, List.getD_eq_getElem?_getD]
  case isFalse hge =>
    have hback := k (i - bs.length) (by rw [List.length_append] at hi; omega)
    rw [← List.getD_eq_getElem?_getD, ← hback]
    congr 1
    omega

/-- Blocks of the page lie apart. -/
theorem PageMap.byte_apart {w : PageMap} {x y : Nat} (hx : x % 64 = 0) (hy : y % 64 = 0) (h : x ≠ y) :
    w.byte x + 64 ≤ w.byte y ∨ w.byte y + 64 ≤ w.byte x := by
  have hbx := w.byte_add 0 x
  have hby := w.byte_add 0 y
  rw [Nat.zero_add] at hbx hby
  omega

/-- One run of bytes written. -/
theorem Ran.holds_one {s t : State} {w : PageMap} {eng core i d tag z : Nat} {bs : List Byte} (h : Ran s t w eng core i d tag [(z, bs)]) :
    Holds t (w.byte z) bs ∧ SameMemBut (w.byte z) bs.length s t := by
  obtain ⟨hmem, -⟩ := h
  obtain ⟨hholds, hsame⟩ := holds_and_sameMemBut_of_put (s := s) (t := s.putBytes (w.byte z) bs) rfl
  exact ⟨hholds.of_get hmem, fun a ha => (hmem a).trans (hsame a ha)⟩

end Sys2Proof.Machine
end

section
/-!
The operations of a gather-merge engine in their forms of one row, and how they end (05_gather_merge R115, R123 to R130).
-/
namespace Sys2Proof.Machine

section
variable {s : State} {w : PageMap} {eng core i x y z v d tag : Nat}

theorem State.numAt_congr {b : State} (h : ∀ a n, b.bytesAt a n = s.bytesAt a n) (a n : Nat) : b.numAt a n = s.numAt a n :=
  congrArg leNat (h a n)

/-- An operation that writes one row of 64 bytes. -/
theorem State.Queued.yields_row {op : Nat} {cmd : Instr} {f : GmeAcc → Agent → Nat → GmeAcc} {bs : List Byte}
    (hs : s.Queued w eng core op i d tag) (heng : eng < 2) (hc : exec cmd s = done (s.gmeRunOp w.die (eng % 2) op f))
    (hbs : bs.length = 64)
    (hf : ∀ src g b, (∀ a n, b.bytesAt a n = s.bytesAt a n) → GmeAcc.Runs g w b [] →
      ∃ l, (f g (w.engine src) d).Runs w (b.putBytes (w.byte z) bs) l) :
    Yields cmd s (fun t => Holds t (w.byte z) bs ∧ SameMemBut (w.byte z) 64 s t ∧
      (t.gme w.die eng).run = some ⟨core, w.va i, d, true, none⟩ ∧ mget (t.core w.die core).tags tag .free = .out) := by
  refine hs.yields (ws := [(z, bs)]) heng hc hf fun t ht => ?_
  obtain ⟨hholds, hsame⟩ := ht.holds_one
  obtain ⟨-, hrun, htag⟩ := ht
  exact ⟨hholds, hbs ▸ hsame, hrun, htag⟩

theorem gather_yields (hs : s.Queued w eng core 0 i d tag) (heng : eng < 2) (hx : w.Names (gIdx d) x) (hy : w.Names (gSrc d) y)
    (hz : w.Names (gDst d) z) (hlen : gRowLen d = 64) (hidx : gNidx d = 1) (hrows : 0 < gNrows d)
    (hzero : s.numAt (w.byte x) 4 = 0) :
    Yields (.gather w.die eng []) s (fun t => Holds t (w.byte z) (s.bytesAt (w.byte y) 64) ∧ SameMemBut (w.byte z) 64 s t ∧
      (t.gme w.die eng).run = some ⟨core, w.va i, d, true, none⟩ ∧ mget (t.core w.die core).tags tag .free = .out) :=
  hs.yields_row heng rfl (State.bytesAt_length _ _ _) fun src _ _ hb hg =>
    ⟨_, hb _ _ ▸ hg.gather src hx hy hz hlen hidx hrows ((State.numAt_congr hb _ _).trans hzero)⟩

theorem scatter_yields (hs : s.Queued w eng core 1 i d tag) (heng : eng < 2) (hx : w.Names (gIdx d) x) (hy : w.Names (gSrc d) y)
    (hz : w.Names (gDst d) z) (hlen : gRowLen d = 64) (hidx : gNidx d = 1) (hrows : 0 < gNrows d)
    (hzero : s.numAt (w.byte x) 4 = 0) :
    Yields (.scatter w.die eng []) s (fun t => Holds t (w.byte z) (s.bytesAt (w.byte y) 64) ∧ SameMemBut (w.byte z) 64 s t ∧
      (t.gme w.die eng).run = some ⟨core, w.va i, d, true, none⟩ ∧ mget (t.core w.die core).tags tag .free = .out) :=
  hs.yields_row heng rfl (State.bytesAt_length _ _ _) fun src _ _ hb hg =>
    ⟨_, hb _ _ ▸ hg.scatter src hx hy hz hlen hidx hrows ((State.numAt_congr hb _ _).trans hzero)⟩

theorem scatterAdd_yields (hs : s.Queued w eng core 2 i d tag) (heng : eng < 2) (hx : w.Names (gIdx d) x)
    (hy : w.Names (gSrc d) y) (hz : w.Names (gDst d) z) (hlen : gRowLen d = 64) (hidx : gNidx d = 1) (hrows : 0 < gNrows d)
    (hzero : s.numAt (w.byte x) 4 = 0)
    (hev : (addRows (rowWords (s.bytesAt (w.byte z) 64)) (rowWords (s.bytesAt (w.byte y) 64))).2 = 0) :
    Yields (.scatterAdd w.die eng []) s (fun t =>
      Holds t (w.byte z) (rowSum (s.bytesAt (w.byte z) 64) (s.bytesAt (w.byte y) 64)) ∧ SameMemBut (w.byte z) 64 s t ∧
      (t.gme w.die eng).run = some ⟨core, w.va i, d, true, none⟩ ∧ mget (t.core w.die core).tags tag .free = .out) :=
  hs.yields_row heng rfl (rowSum_length (State.bytesAt_length _ _ _) (State.bytesAt_length _ _ _)) fun src g b hb hg => by
    have hsum := hg.scatterAdd src hx hy hz hlen hidx hrows ((State.numAt_congr hb _ _).trans hzero) (by simpa only [hb] using hev)
    simp only [hb] at hsum
    exact ⟨_, hsum⟩

theorem segmentReduce_yields (hs : s.Queued w eng core 3 i d tag) (heng : eng < 2) (hx : w.Names (gIdx d) x)
    (hz : w.Names (gDst d) z) (hlen : gRowLen d = 64) (hseg : gNseg d = 1) (hzero : s.numAt (w.byte x) 8 = 0) :
    Yields (.segmentReduce w.die eng []) s (fun t => Holds t (w.byte z) (List.replicate 64 0) ∧ SameMemBut (w.byte z) 64 s t ∧
      (t.gme w.die eng).run = some ⟨core, w.va i, d, true, none⟩ ∧ mget (t.core w.die core).tags tag .free = .out) :=
  hs.yields_row heng rfl List.length_replicate fun src _ _ hb hg =>
    ⟨_, hg.segmentReduce src hx hz hlen hseg ((State.numAt_congr hb _ _).trans hzero)⟩

theorem packRows_yields (hs : s.Queued w eng core 6 i d tag) (heng : eng < 2) (hx : w.Names (gIdx d) x) (hy : w.Names (gSrc d) y)
    (hz : w.Names (gDst d) z) (hlen : gRowLen d = 64) (hseg : gNseg d = 1) (hrows : 0 < gNrows d) (hidx : gNidx d = 1)
    (hlo : s.numAt (w.byte x) 4 = 0) (hhi : s.numAt (w.byte x + 4) 4 = 1) :
    Yields (.packRows w.die eng []) s (fun t => Holds t (w.byte z) (s.bytesAt (w.byte y) 64) ∧ SameMemBut (w.byte z) 64 s t ∧
      (t.gme w.die eng).run = some ⟨core, w.va i, d, true, none⟩ ∧ mget (t.core w.die core).tags tag .free = .out) :=
  hs.yields_row heng rfl (State.bytesAt_length _ _ _) fun src _ _ hb hg =>
    ⟨_, hb _ _ ▸ hg.pack src hx hy hz hlen hseg hrows hidx ((State.numAt_congr hb _ _).trans hlo)
      ((State.numAt_congr hb _ _).trans hhi)⟩

theorem unpack_yields (hs : s.Queued w eng core 7 i d tag) (heng : eng < 2) (hx : w.Names (gIdx d) x) (hy : w.Names (gSrc d) y)
    (hz : w.Names (gDst d) z) (hlen : gRowLen d = 64) (hseg : gNseg d = 1) (hrows : gNrows d = 1) (hidx : gNidx d = 1)
    (hlo : s.numAt (w.byte x) 4 = 0) (hhi : s.numAt (w.byte x + 4) 4 = 1) :
    Yields (.unpack w.die eng []) s (fun t => Holds t (w.byte z) (s.bytesAt (w.byte y) 64) ∧ SameMemBut (w.byte z) 64 s t ∧
      (t.gme w.die eng).run = some ⟨core, w.va i, d, true, none⟩ ∧ mget (t.core w.die core).tags tag .free = .out) :=
  hs.yields_row heng rfl (State.bytesAt_length _ _ _) fun src _ _ hb hg =>
    ⟨_, hb _ _ ▸ hg.unpack src hx hy hz hlen hseg hrows hidx ((State.numAt_congr hb _ _).trans hlo)
      ((State.numAt_congr hb _ _).trans hhi)⟩

theorem sortByKey_yields (hs : s.Queued w eng core 4 i d tag) (heng : eng < 2) (hx : w.Names (gIdx d) x) (hz : w.Names (gDst d) z)
    (hv : w.Names (gAux d) v) (hlen : gRowLen d = 0) (hidx : gNidx d = 1) (hzv : z ≠ v) :
    Yields (.sortByKey w.die eng []) s (fun t => Holds t (w.byte v) (s.bytesAt (w.byte x) 4) ∧ Holds t (w.byte z) (leBytes 4 0) ∧
      (t.gme w.die eng).run = some ⟨core, w.va i, d, true, none⟩ ∧ mget (t.core w.die core).tags tag .free = .out) := by
  refine hs.yields (ws := [(v, s.bytesAt (w.byte x) 4), (z, leBytes 4 0)]) heng rfl (fun src g b hb hg =>
    ⟨_, hb _ _ ▸ hg.sortByKey src hx hz hv hlen hidx⟩) fun t ⟨hmem, hrest⟩ => ?_
  have hapart := PageMap.byte_apart (w := w) hz.aligned hv.aligned hzv
  exact ⟨((holds_putBytes _ _ _).putBytes (by simp; omega)).of_get hmem, (holds_putBytes _ _ _).of_get hmem, hrest⟩

theorem bucket_yields (hs : s.Queued w eng core 5 i d tag) (heng : eng < 2) (hx : w.Names (gIdx d) x) (hy : w.Names (gSrc d) y)
    (hz : w.Names (gDst d) z) (hv : w.Names (gAux d) v) (hidx : gNidx d = 1) (hseg : gNseg d = 1) (hcap : gCap d = 1)
    (hrows : gNrows d = 0) (hzv : z ≠ v) (hyv : y ≠ v) (hyz : y ≠ z) (hzero : s.numAt (w.byte x) 4 = 0) :
    Yields (.bucket w.die eng []) s (fun t => Holds t (w.byte z) (leBytes 4 0) ∧ Holds t (w.byte y) (leBytes 4 0) ∧
      Holds t (w.byte v) (leBytes 4 1 ++ leBytes 4 0) ∧
      (t.gme w.die eng).run = some ⟨core, w.va i, d, true, none⟩ ∧ mget (t.core w.die core).tags tag .free = .out) := by
  refine hs.yields (ws := [(z, leBytes 4 0), (y, leBytes 4 0), (v, leBytes 4 1), (v + 4, leBytes 4 0)]) heng rfl
    (fun src _ _ hb hg => ⟨_, hg.bucket src hx hy hz hv hidx hseg hcap hrows ((State.numAt_congr hb _ _).trans hzero)⟩)
    fun t ⟨hmem, hrest⟩ => ?_
  have hapart := PageMap.byte_apart (w := w) hz.aligned hv.aligned hzv
  have hapart' := PageMap.byte_apart (w := w) hy.aligned hv.aligned hyv
  have hapart'' := PageMap.byte_apart (w := w) hy.aligned hz.aligned hyz
  have hnext := w.byte_add v 4
  refine ⟨Holds.of_get ?_ hmem, Holds.of_get ?_ hmem, Holds.of_get ?_ hmem, hrest⟩
  · exact (((holds_putBytes _ _ _).putBytes (by simp; omega)).putBytes (by simp; omega)).putBytes (by simp; omega)
  · exact ((holds_putBytes _ _ _).putBytes (by simp; omega)).putBytes (by simp; omega)
  · refine ((holds_putBytes _ _ _).putBytes (by simp; omega)).append ?_
    rw [leBytes_length, ← hnext]
    exact holds_putBytes _ _ _

theorem maskCompact_yields (hs : s.Queued w eng core 8 i d tag) (heng : eng < 2) (hx : w.Names (gIdx d) x)
    (hz : w.Names (gDst d) z) (hv : w.Names (gAux d) v) (hseg : gNseg d = 1) (hidx : gNidx d = 8) (hrows : gNrows d = 2)
    (hzv : z ≠ v) (hmask : Memory.get s.mem (w.byte x) = 0x90) (hpol : gOvfPol d = 0) :
    Yields (.maskCompact w.die eng []) s (fun t => Holds t (w.byte z) (leBytes 4 4 ++ leBytes 4 7) ∧
      Holds t (w.byte v) (leBytes 4 2) ∧
      (t.gme w.die eng).run = some ⟨core, w.va i, d, true, none⟩ ∧ mget (t.core w.die core).tags tag .free = .out) := by
  refine hs.yields (ws := [(z, leBytes 4 4 ++ leBytes 4 7), (v, leBytes 4 2)]) heng rfl
    (fun src _ b hb hg => ⟨_, hg.maskCompact src hx hz hv hseg hidx hrows hpol ?_⟩) fun t ⟨hmem, hrest⟩ => ?_
  · simpa [State.bytesAt, hmask] using hb (w.byte x) 1
  · have hapart := PageMap.byte_apart (w := w) hz.aligned hv.aligned hzv
    exact ⟨((holds_putBytes _ _ _).putBytes (by simp; omega)).of_get hmem, (holds_putBytes _ _ _).of_get hmem, hrest⟩

end

end Sys2Proof.Machine
end

section
/-!
How a finished operation of a gather-merge engine leaves it, and how one with a fault does (05_gather_merge R115, R123).
-/
namespace Sys2Proof.Machine

/-- A tag that is out is recorded as returned, whatever the near miss. -/
theorem State.tag_returnTag {s : State} {die core tag : Nat} (err : Nat) (h : mget (s.core die core).tags tag .free = .out) :
    mget ((s.returnTag die core tag err).core die core).tags tag .free = if err = 0 then .done else .err (haltCause err) := by
  have hrec : s.recordTag die core tag err = s.setCore die core
      { s.core die core with tags := mset .free (s.core die core).tags tag (if err = 0 then .done else .err (haltCause err)) } := by
    simp only [State.recordTag, h]
  have hkept := (s.recordTag die core tag err).mayMiss_frame die core 1 tag
  have hout : s.tagOut die core tag = true := by simp [State.tagOut, h]
  rw [State.returnTag, if_pos hout, State.core_congr (hkept .cores (by simp)), hrec, State.core_setCore_same, mget_mset_same]

/-- The return of a tag may count a near miss at the core's sequencer. -/
theorem State.rd_returnTag (s : State) (die core tag err : Nat) {u : Nat} {f : Field}
    (h : fieldKey u f ≠ fieldKey (seqU die core) Reg.SEQ_NEARMISS_COUNT) : (s.returnTag die core tag err).rd u f = s.rd u f := by
  have hrec : (s.recordTag die core tag err).rd u f = s.rd u f := s.recordTag_frame die core tag err .regs (by simp) u f
  unfold State.returnTag State.mayMiss
  split
  case isFalse => rfl
  case isTrue =>
    split
    case isFalse => exact hrec
    case isTrue => exact (State.rd_bump_other _ _ _ _ _ _ h).trans hrec

/-- Fields of a unit at different places have different keys. -/
theorem fieldKey_ne_of_place {f g : Field} (u : Nat)
    (h : f.off < 2 ^ 24 ∧ g.off < 2 ^ 24 ∧ f.lo < 32 ∧ g.lo < 32 ∧ (f.off ≠ g.off ∨ f.lo ≠ g.lo)) :
    fieldKey u f ≠ fieldKey u g := by
  obtain ⟨hf, hg, hl, hk, hne⟩ := h
  intro he
  obtain ⟨-, hoff, hlo⟩ := fieldKey_inj u u f g hf hg hl hk he
  exact hne.elim (· hoff) (· hlo)

/-- An engine is neither a core's sequencer nor the keeper. -/
theorem gmeU_ne_of_mod {eng u : Nat} (die : Nat) (heng : eng < 2) (hu : u % 64 = 0) : gmeU die eng ≠ u := by
  simp only [gmeU, unitOf]
  omega

/-- The state in which an operation's tag has returned and its engine is idle. -/
def State.gmeRetire (s : State) (die eng core tag err : Nat) (g : GmeSt) : State :=
  ((s.returnTag die core tag err).setGme die eng { g with run := none }).wr (gmeU die eng) Reg.GME_STAT_BUSY 0

section
variable {s : State} {die eng core tag : Nat} (err : Nat) (g : GmeSt)

theorem State.run_gmeRetire : ((s.gmeRetire die eng core tag err g).gme die eng).run = none :=
  congrArg GmeSt.run ((s.returnTag die core tag err).gme_setGme_same die eng { g with run := none })

theorem State.tag_gmeRetire (h : mget (s.core die core).tags tag .free = .out) :
    mget ((s.gmeRetire die eng core tag err g).core die core).tags tag .free = if err = 0 then .done else .err (haltCause err) :=
  s.tag_returnTag err h

theorem State.sameMemBut_gmeRetire : SameMemBut 0 0 s (s.gmeRetire die eng core tag err g) := fun a _ =>
  s.returnTag_frame die core tag err .mem (by simp) a

theorem State.rd_gmeRetire {f : Field} (heng : eng < 2) (hf : f.off < 2 ^ 24 ∧ f.lo < 32)
    (hbusy : fieldKey (gmeU die eng) f ≠ fieldKey (gmeU die eng) Reg.GME_STAT_BUSY) :
    (s.gmeRetire die eng core tag err g).rd (gmeU die eng) f = s.rd (gmeU die eng) f :=
  (State.rd_wr_other _ _ _ _ _ _ hbusy).trans
    (s.rd_returnTag die core tag err (fieldKey_ne_of_unit _ _ (gmeU_ne_of_mod die heng (by simp only [seqU, unitOf]; omega)) hf))

theorem State.busy_gmeRetire : (s.gmeRetire die eng core tag err g).rd (gmeU die eng) Reg.GME_STAT_BUSY = 0 :=
  State.rd_wr_same _ _ _ _

end

theorem gmeOpComplete_yields {s : State} {die eng core addr d : Nat} (heng : eng < 2)
    (hrun : (s.gme die eng).run = some ⟨core, addr, d, true, none⟩) (htag : mget (s.core die core).tags (gTag d) .free = .out) :
    Yields (.gmeOpComplete die eng) s (fun t => (t.gme die eng).run = none ∧ t.rd (gmeU die eng) Reg.GME_STAT_BUSY = 0 ∧
      mget (t.core die core).tags (gTag d) .free = .done ∧ SameMemBut 0 0 s t) := by
  have hexec : exec (.gmeOpComplete die eng) s = done (s.gmeRetire die eng core (gTag d) 0 (s.gme die eng)) := by
    change execGmeOpComplete die eng s = _
    simp [execGmeOpComplete, State.gmeRetire, Nat.mod_eq_of_lt heng, hrun]
  exact .of_done hexec ⟨State.run_gmeRetire 0 _, State.busy_gmeRetire 0 _, State.tag_gmeRetire (eng := eng) 0 (s.gme die eng) htag,
    SameMemBut.canon.2 (State.sameMemBut_gmeRetire 0 _)⟩

/-- A log entry of an engine writes no field of an engine. -/
theorem State.rd_logEvent_gme (s : State) (die code u d0 d1 d2 d3 : Nat) {eng : Nat} {f : Field} (heng : eng < 2)
    (hf : f.off < 2 ^ 24 ∧ f.lo < 32) : (s.logEvent code u d0 d1 d2 d3).rd (gmeU die eng) f = s.rd (gmeU die eng) f := by
  have hunit : gmeU die eng ≠ keeperU := gmeU_ne_of_mod die heng (by decide)
  refine s.logEvent_regs code u d0 d1 d2 d3 _ _ fun p hp => ?_
  simp only [logShows, List.mem_cons, List.not_mem_nil, or_false] at hp
  rcases hp with rfl | rfl | rfl | rfl <;> exact fieldKey_ne_of_unit _ _ hunit hf

/-- The fields that an index out of range writes (R123). -/
def State.idxFault (s : State) (u addr pos val : Nat) : State :=
  ((((s.wr u Reg.GME_STAT_FAULTED 1).wr u Reg.GME_FDESC_LO_ADDR addr).wr u Reg.GME_FDESC_HI_ADDR (addr / 2 ^ 32)).wr u
    Reg.GME_FPOS_POS pos).wr u Reg.GME_FVAL_VALUE val

theorem State.gmeFault_idxRange (s : State) (die eng addr pos val tag : Nat) :
    s.gmeFault die eng addr eIDX_RANGE pos val tag =
      (s.idxFault (gmeU die eng) addr pos val).logEvent eIDX_RANGE (gmeU die eng) addr pos val := by
  simp only [State.gmeFault, if_true, State.idxFault]

theorem State.idxFault_shows {s : State} {eng pos val : Nat} (die addr : Nat) (hpos : pos < 2 ^ 32) (hval : val < 2 ^ 32) :
    (s.idxFault (gmeU die eng) addr pos val).rd (gmeU die eng) Reg.GME_STAT_FAULTED = 1 ∧
      (s.idxFault (gmeU die eng) addr pos val).rd (gmeU die eng) Reg.GME_FPOS_POS = pos ∧
      (s.idxFault (gmeU die eng) addr pos val).rd (gmeU die eng) Reg.GME_FVAL_VALUE = val := by
  simp only [State.idxFault]
  refine ⟨?_, ?_, ?_⟩
  · rw [State.rd_wr_other _ _ _ _ _ _ (fieldKey_ne_of_place _ (by decide)),
      State.rd_wr_other _ _ _ _ _ _ (fieldKey_ne_of_place _ (by decide)),
      State.rd_wr_other _ _ _ _ _ _ (fieldKey_ne_of_place _ (by decide)),
      State.rd_wr_other _ _ _ _ _ _ (fieldKey_ne_of_place _ (by decide))]
    exact State.rd_wr_same _ _ _ _
  · rw [State.rd_wr_other _ _ _ _ _ _ (fieldKey_ne_of_place _ (by decide)), State.rd_wr_same]
    exact Nat.mod_eq_of_lt hpos
  · exact (State.rd_wr_same _ _ _ _).trans (Nat.mod_eq_of_lt hval)

theorem gmeOpFault_yields {s : State} {die eng core addr d pos val : Nat} (heng : eng < 2) (hpos : pos < 2 ^ 32)
    (hval : val < 2 ^ 32) (hrun : (s.gme die eng).run = some ⟨core, addr, d, true, some (eIDX_RANGE, pos, val)⟩)
    (htag : mget (s.core die core).tags (gTag d) .free = .out) :
    Yields (.gmeOpFault die eng) s (fun t => (t.gme die eng).run = none ∧ t.rd (gmeU die eng) Reg.GME_STAT_FAULTED = 1 ∧
      t.rd (gmeU die eng) Reg.GME_FPOS_POS = pos ∧ t.rd (gmeU die eng) Reg.GME_FVAL_VALUE = val ∧
      mget (t.core die core).tags (gTag d) .free = .err 7 ∧ SameMemBut 0 0 s t) := by
  have hexec : exec (.gmeOpFault die eng) s = done ((s.gmeFault die eng addr eIDX_RANGE pos val (gTag d)).gmeRetire die eng core
      (gTag d) eIDX_RANGE (s.gme die eng)) := by
    change execGmeOpFault die eng s = _
    simp [execGmeOpFault, State.gmeRetire, Nat.mod_eq_of_lt heng, hrun]
  have hkept := s.gmeFault_frame die eng addr eIDX_RANGE pos val (gTag d)
  obtain ⟨hfaulted, hfpos, hfval⟩ := s.idxFault_shows (eng := eng) die addr hpos hval
  have hshown (f : Field) (hf : f.off < 2 ^ 24 ∧ f.lo < 32)
      (hbusy : fieldKey (gmeU die eng) f ≠ fieldKey (gmeU die eng) Reg.GME_STAT_BUSY) :
      ((s.gmeFault die eng addr eIDX_RANGE pos val (gTag d)).gmeRetire die eng core (gTag d) eIDX_RANGE (s.gme die eng)).rd
        (gmeU die eng) f = (s.idxFault (gmeU die eng) addr pos val).rd (gmeU die eng) f := by
    rw [State.rd_gmeRetire _ _ heng hf hbusy, State.gmeFault_idxRange, State.rd_logEvent_gme _ _ _ _ _ _ _ _ heng hf]
  have htag' := (congrArg (fun c : CoreSt => mget c.tags (gTag d) .free)
    (State.core_congr (hkept .cores (by simp)) die core)).trans htag
  exact .of_done hexec ⟨State.run_gmeRetire _ _, (hshown _ (by decide) (fieldKey_ne_of_place _ (by decide))).trans hfaulted,
    (hshown _ (by decide) (fieldKey_ne_of_place _ (by decide))).trans hfpos,
    (hshown _ (by decide) (fieldKey_ne_of_place _ (by decide))).trans hfval,
    State.tag_gmeRetire (eng := eng) eIDX_RANGE (s.gme die eng) htag', SameMemBut.canon.2 fun a ha =>
      (State.sameMemBut_gmeRetire _ _ a ha).trans (hkept .mem (by simp) a)⟩

end Sys2Proof.Machine
end

section
/-!
The operations of the gather-merge engines (05_gather_merge R124 to R130).
-/
namespace Sys2Proof.Machine

/-- Settles O10: each operation runs from the state its descriptor's page is read in, through the rules of its reads and writes. -/
theorem mergeOperationsComplete : Obligations.MergeOperationsComplete := by
  unfold Obligations.MergeOperationsComplete
  exact ⟨fun s die eng core tag p e home q i x y z d _ heng _ _ hpage hecc hnet hi hil hx hxl hy hyl hz hzl hidle hqueue hfree hdesc hop htag
      hidx hsrc hdst hlen hnidx hrows hzero =>
      gather_yields (w := ⟨die, p, e, home, q⟩)
        ⟨⟨hpage, hecc, hnet⟩, hi, hil, hidle, hqueue, hfree, hdesc, hop, htag⟩ heng
        ⟨hidx, hx, hxl⟩ ⟨hsrc, hy, hyl⟩ ⟨hdst, hz, hzl⟩ hlen hnidx hrows hzero,
    fun s die eng core tag p e home q i x y z d _ heng _ _ hpage hecc hnet hi hil hx hxl hy hyl hz hzl hidle hqueue hfree hdesc hop htag
      hidx hsrc hdst hlen hnidx hrows hzero =>
      scatter_yields (w := ⟨die, p, e, home, q⟩)
        ⟨⟨hpage, hecc, hnet⟩, hi, hil, hidle, hqueue, hfree, hdesc, hop, htag⟩ heng
        ⟨hidx, hx, hxl⟩ ⟨hsrc, hy, hyl⟩ ⟨hdst, hz, hzl⟩ hlen hnidx hrows hzero,
    fun s die eng core tag p e home q i x y z d _ heng _ _ hpage hecc hnet hi hil hx hxl hy hyl hz hzl hidle hqueue hfree hdesc hop htag
      hidx hsrc hdst hlen hnidx hrows hzero hev =>
      scatterAdd_yields (w := ⟨die, p, e, home, q⟩)
        ⟨⟨hpage, hecc, hnet⟩, hi, hil, hidle, hqueue, hfree, hdesc, hop, htag⟩ heng
        ⟨hidx, hx, hxl⟩ ⟨hsrc, hy, hyl⟩ ⟨hdst, hz, hzl⟩ hlen hnidx hrows hzero hev,
    fun s die eng core tag p e home q i x y z d _ heng _ _ hpage hecc hnet hi hil hx hxl _ _ hz hzl hidle hqueue hfree hdesc hop htag
      hidx _ hdst hlen hseg hzero _ _ =>
      segmentReduce_yields (w := ⟨die, p, e, home, q⟩)
        ⟨⟨hpage, hecc, hnet⟩, hi, hil, hidle, hqueue, hfree, hdesc, hop, htag⟩ heng
        ⟨hidx, hx, hxl⟩ ⟨hdst, hz, hzl⟩ hlen hseg hzero,
    fun s die eng core tag p e home q i x y z v d _ heng _ _ hpage hecc hnet hi hil hx hxl _ _ hz hzl hv hvl hidle hqueue hfree hdesc
      hop htag hidx _ hdst haux hlen hnidx hzv =>
      sortByKey_yields (w := ⟨die, p, e, home, q⟩)
        ⟨⟨hpage, hecc, hnet⟩, hi, hil, hidle, hqueue, hfree, hdesc, hop, htag⟩ heng
        ⟨hidx, hx, hxl⟩ ⟨hdst, hz, hzl⟩ ⟨haux, hv, hvl⟩ hlen hnidx hzv,
    fun s die eng core tag p e home q i x y z v d _ heng _ _ hpage hecc hnet hi hil hx hxl hy hyl hz hzl hv hvl hidle hqueue hfree hdesc
      hop htag hidx hsrc hdst haux _ hnidx hseg hcap hrows hzv hyv hyz hzero =>
      bucket_yields (w := ⟨die, p, e, home, q⟩)
        ⟨⟨hpage, hecc, hnet⟩, hi, hil, hidle, hqueue, hfree, hdesc, hop, htag⟩ heng
        ⟨hidx, hx, hxl⟩ ⟨hsrc, hy, hyl⟩ ⟨hdst, hz, hzl⟩ ⟨haux, hv, hvl⟩ hnidx hseg hcap hrows hzv hyv hyz hzero,
    fun s die eng core tag p e home q i x y z d _ heng _ _ hpage hecc hnet hi hil hx hxl hy hyl hz hzl hidle hqueue hfree hdesc hop htag
      hidx hsrc hdst hlen hseg hrows hnidx hlo hhi =>
      packRows_yields (w := ⟨die, p, e, home, q⟩)
        ⟨⟨hpage, hecc, hnet⟩, hi, hil, hidle, hqueue, hfree, hdesc, hop, htag⟩ heng
        ⟨hidx, hx, hxl⟩ ⟨hsrc, hy, hyl⟩ ⟨hdst, hz, hzl⟩ hlen hseg hrows hnidx hlo hhi,
    fun s die eng core tag p e home q i x y z d _ heng _ _ hpage hecc hnet hi hil hx hxl hy hyl hz hzl hidle hqueue hfree hdesc hop htag
      hidx hsrc hdst hlen hseg hrows hnidx hlo hhi =>
      unpack_yields (w := ⟨die, p, e, home, q⟩)
        ⟨⟨hpage, hecc, hnet⟩, hi, hil, hidle, hqueue, hfree, hdesc, hop, htag⟩ heng
        ⟨hidx, hx, hxl⟩ ⟨hsrc, hy, hyl⟩ ⟨hdst, hz, hzl⟩ hlen hseg hrows hnidx hlo hhi,
    fun s die eng core tag p e home q i x y z v d _ heng _ _ hpage hecc hnet hi hil hx hxl _ _ hz hzl hv hvl hidle hqueue hfree hdesc
      hop htag hidx _ hdst haux _ hseg hnidx hrows hzv hmask hpol =>
      maskCompact_yields (w := ⟨die, p, e, home, q⟩)
        ⟨⟨hpage, hecc, hnet⟩, hi, hil, hidle, hqueue, hfree, hdesc, hop, htag⟩ heng
        ⟨hidx, hx, hxl⟩ ⟨hdst, hz, hzl⟩ ⟨haux, hv, hvl⟩ hseg hnidx hrows hzv hmask hpol,
    fun _ _ _ _ _ _ _ heng _ hrun htag => gmeOpComplete_yields heng hrun htag,
    fun _ _ _ _ _ _ _ _ _ heng _ _ hpos hval hrun htag => gmeOpFault_yields heng hpos hval hrun htag⟩

end Sys2Proof.Machine
end

section
/-!
What the operations of the gather-merge engines leave as it is (05_gather_merge R115, R123, R124).
-/
namespace Sys2Proof.Machine

/-! ### The parts of the state that an operation's accesses may change -/

/-- The parts that a read or a write of virtual memory may change. -/
def accParts : List Part :=
  [.regs, .mem, .ecc, .net, .cores, .arbs, .tus, .ports, .apps, .stqs, .red, .arrivals, .sb, .pwr, .log, .fix, .scrubQ]

/-- An operation under way whose state differs from `s` in those parts alone. -/
def GmeAcc.Within (g : GmeAcc) (s : State) : Prop := SameBut accParts s g.s

section
variable {g : GmeAcc} {s : State} (ag : Agent) (d pos : Nat)

theorem GmeAcc.Within.foldl {α β : Type} {π : β → GmeAcc} {f : β → α → β} {b : β} (h : (π b).Within s)
    (hf : ∀ b x, (π b).Within s → (π (f b x)).Within s) (l : List α) : (π (l.foldl f b)).Within s := by
  induction l generalizing b with
  | nil => exact h
  | cons x l ih => exact ih (hf b x h)

theorem GmeAcc.Within.read (h : g.Within s) (va n : Nat) : (g.read ag pos va n).1.Within s := by
  have hread := SameBut.through h (g.s.vread_frame ag va n permRead)
  unfold GmeAcc.read
  split
  · exact h
  · simp only []
    split <;> exact hread

theorem GmeAcc.Within.write (h : g.Within s) (va : Nat) (bs : List Byte) : (g.write ag pos va bs).Within s := by
  have hwrite := SameBut.through h (g.s.vwrite_frame ag va bs)
  unfold GmeAcc.write
  split
  · exact h
  · simp only []
    split <;> exact hwrite

theorem GmeAcc.Within.word (h : g.Within s) (base i : Nat) : (g.word ag pos base i).1.Within s := by
  unfold GmeAcc.word
  exact h.read ag pos _ _

theorem GmeAcc.Within.putWord (h : g.Within s) (base i v : Nat) : (g.putWord ag pos base i v).Within s := h.write ag pos _ _

theorem GmeAcc.Within.undo {before : GmeAcc} (h : g.Within s) (hb : before.Within s) : (before.undo g).Within s := by
  unfold GmeAcc.undo
  split
  · exact h
  · exact (SameBut.with_regs_net_arbs_tus_sb_log_scrubQ_free _ _ _ _ _ _ _ _ (by decide) (by decide) (by decide) (by decide)
      (by decide) (by decide) (by decide)).2 hb

theorem GmeAcc.Within.each {α : Type} {f : GmeAcc → α → GmeAcc} (h : g.Within s)
    (hf : ∀ g x, g.Within s → (f g x).Within s) (l : List α) : (g.each l f).Within s :=
  h.foldl (π := id) (fun g x hg => by
    simp only [id]
    split
    · exact hg
    · exact (hf g x hg).undo hg) l

theorem GmeAcc.Within.cached (h : g.Within s) (row : Int) : (g.cached ag d pos row).1.Within s := by
  unfold GmeAcc.cached
  split
  · exact h
  · exact h.read ag pos _ _

theorem GmeAcc.Within.resolve (h : g.Within s) (v n : Nat) : (g.resolve d pos v n).1.Within s := by
  unfold GmeAcc.resolve
  simp only []
  (repeat' split) <;> exact h

theorem GmeAcc.Within.offsets (h : g.Within s) : (g.offsets ag d).1.Within s := by
  refine GmeAcc.Within.foldl (π := Prod.fst) h (fun p k hp => ?_) _
  have hword := hp.word ag k (gIdx d) k
  simp only []
  (repeat' split)
  · exact hp
  all_goals exact hword

theorem GmeAcc.Within.writeBack (h : g.Within s) (p : Int × List Byte) : (g.writeBack ag d pos p).Within s :=
  SameBut.through h (g.s.vwrite_frame ag _ _)

theorem GmeAcc.Within.makeRoom (h : g.Within s) : (g.makeRoom ag d pos).Within s := by
  have hfresh : SameBut accParts s g.s.fresh.2 := SameBut.fresh.2 h
  unfold GmeAcc.makeRoom
  split
  case isTrue => exact h
  case isFalse =>
    simp only []
    split
    · exact GmeAcc.Within.writeBack (g := { g with s := g.s.fresh.2, held := _ }) ag d pos hfresh _
    · exact hfresh

theorem GmeAcc.Within.mayWrite (h : g.Within s) (va n : Nat) : (g.mayWrite ag pos va n).Within s :=
  h.foldl (π := id) (fun g b hg => by
    simp only [id]
    split
    · exact hg
    · exact SameBut.through hg ((g.s.translate_frame _ _ _ _).widen (by decide))) _

theorem GmeAcc.Within.hold (h : g.Within s) (row : Int) : (g.hold ag d pos row).1.Within s := by
  unfold GmeAcc.hold
  split
  · exact h
  · exact ((h.makeRoom ag d pos).mayWrite ag pos _ _).read ag pos _ _

/-! ### Each operation -/

theorem GmeAcc.Within.gather (h : g.Within s) : (g.gather ag d).Within s := by
  refine h.each (fun g i hg => ?_) _
  have hrow := (hg.word ag i (gIdx d) i).resolve d i (g.word ag i (gIdx d) i).2 (gNrows d)
  simp only []
  refine GmeAcc.Within.write ag i ?_ _ _
  split
  · exact hrow.cached ag d i _
  · exact hrow

theorem GmeAcc.Within.scatter (h : g.Within s) : (g.scatter ag d).Within s := by
  refine h.each (fun g i hg => ?_) _
  have hrow := (hg.word ag i (gIdx d) i).resolve d i (g.word ag i (gIdx d) i).2 (gNrows d)
  simp only []
  split
  · exact (hrow.read ag i _ _).write ag i _ _
  · exact hrow

theorem GmeAcc.Within.scatterAdd (h : g.Within s) : (g.scatterAdd ag d).Within s := by
  refine GmeAcc.Within.foldl (π := id) (h.each (fun g i hg => ?_) _) (fun g p hg => hg.writeBack ag d _ p) _
  have hrow := (hg.word ag i (gIdx d) i).resolve d i (g.word ag i (gIdx d) i).2 (gNrows d)
  simp only []
  split
  · exact (hrow.read ag i _ _).hold ag d i _
  · exact hrow

theorem GmeAcc.Within.segmentReduce (h : g.Within s) : (g.segmentReduce ag d).Within s := by
  refine (h.offsets ag d).each (fun g k hg => ?_) _
  simp only []
  refine GmeAcc.Within.write ag _ (GmeAcc.Within.foldl (π := Prod.fst) hg (fun p j hp => ?_) _) _ _
  (repeat' split) <;> exact hp.read ag _ _ _

theorem GmeAcc.Within.pack (h : g.Within s) : (g.pack ag d).Within s := by
  refine (h.offsets ag d).each (fun g p hg => ?_) _
  have hrow := hg.resolve d p.2.1 p.2.2 (gNrows d)
  simp only []
  refine GmeAcc.Within.write ag _ ?_ _ _
  split
  · exact hrow.cached ag d _ _
  · exact hrow

theorem GmeAcc.Within.unpack (h : g.Within s) : (g.unpack ag d).Within s := by
  refine (h.offsets ag d).each (fun g p hg => ?_) _
  have hrow := hg.resolve d p.2.1 p.2.2.1 (gNrows d)
  simp only []
  split
  · split
    · exact (hrow.read ag _ _ _).write ag _ _ _
    · exact hrow
  · exact hg.write ag _ _ _

theorem GmeAcc.Within.sortByKey (h : g.Within s) : (g.sortByKey ag d).Within s := by
  refine GmeAcc.Within.each ?_ (fun g p hg => ?_) _
  · refine GmeAcc.Within.foldl (π := Prod.fst) (b := (g, [])) h (fun p i hp => ?_) _
    exact hp.word ag i (gIdx d) i
  · have hput := hg.putWord ag p.2 (gAux d) p.2 p.1.2.1
    simp only []
    split
    · exact hput.putWord ag _ _ _ _
    · exact (hput.cached ag d _ _).write ag _ _ _

theorem GmeAcc.Within.bucket (h : g.Within s) : (g.bucket ag d).Within s := by
  refine ((GmeAcc.Within.each (GmeAcc.Within.foldl (π := Prod.fst) h (fun p i hp => ?_) _)
    (fun g k hg => hg.putWord ag _ _ _ _) _).each (fun g k hg => hg.putWord ag _ _ _ _) _).each
    (fun g k hg => hg.putWord ag _ _ _ _) _
  have hrow := (hp.word ag i (gIdx d) i).resolve d i (p.1.word ag i (gIdx d) i).2 (gNseg d)
  simp only []
  split
  · exact hp
  split
  · exact hrow.undo hp
  split
  · exact (hrow.putWord ag _ _ _ _).undo hp
  split
  · exact ((hrow.putWord ag _ _ _ _).putWord ag _ _ _ _).undo hp
  split
  · refine GmeAcc.Within.undo (GmeAcc.Within.putWord ag _ (GmeAcc.Within.putWord ag _ ?_ _ _ _) _ _ _) hp
    exact hrow
  split
  · exact GmeAcc.Within.undo hrow hp
  · refine GmeAcc.Within.undo (GmeAcc.Within.putWord ag _ ?_ _ _ _) hp
    exact hrow

theorem GmeAcc.Within.maskCompact (h : g.Within s) : (g.maskCompact ag d).Within s := by
  refine h.each (fun g k hg => ?_) _
  have hmask := hg.read ag k (rowAt (gIdx d) (gSstride d) k) (ceilDiv (gNidx d) 8)
  simp only []
  split
  · exact hmask
  · refine GmeAcc.Within.putWord ag k (GmeAcc.Within.write ag k ?_ _ _) _ _ _
    exact hmask

end

/-! ### The commands -/

/-- The parts that the run of an operation may change: those of its accesses, the engines, and what the stop of its core
changes. -/
def runParts : List Part := accParts ++ [.gmes, .ues, .streams, .qps, .rcv, .job, .ck, .kpr]

theorem GmeAcc.finish_frame (g : GmeAcc) (die e layer : Nat) :
    SameBut [.regs, .mem, .ecc, .log, .sb, .fix] g.s (g.finish die e layer) := by
  simp [GmeAcc.finish]

theorem State.gmeRunOp_frame (s : State) (die e op : Nat) {f : GmeAcc → Agent → Nat → GmeAcc}
    (hf : ∀ s g ag d, GmeAcc.Within g s → (f g ag d).Within s) : SameBut runParts s (s.gmeRunOp die e op f) := by
  unfold State.gmeRunOp
  simp only []
  split
  case h_2 => exact .of_self _ _
  case h_1 core addr rest _ _ =>
    have hread : SameBut runParts s (s.vread (s.gmeAgent die e) addr 64 permRead).1 :=
      (s.vread_frame _ _ _ _).widen (by decide)
    generalize s.vread (s.gmeAgent die e) addr 64 permRead = q at hread
    have hqueue (g : GmeSt) : SameBut runParts s ((q.1.setGme die e g).wr (gmeU die e) Reg.GME_STAT_QDEPTH rest.length) :=
      (SameBut.wr _ _ _ (by decide)).2 ((SameBut.setGme _ _ _ (by decide)).2 hread)
    split
    case isTrue => exact .of_self _ _
    case isFalse =>
      split
      case h_1 =>
        split
        · exact (hqueue _).through ((State.haltCoreAt_frame _ _ _ _).widen (by decide))
        · exact hqueue _
      case h_2 c _ =>
        refine (SameBut.setGme _ _ _ (by decide)).2 (SameBut.through ?_ ((GmeAcc.finish_frame _ _ _ _).widen (by decide)))
        refine SameBut.through ?_ ((hf _ _ _ _ (SameBut.of_self _ _)).widen (by decide))
        exact (SameBut.wr _ _ _ (by decide)).2 ((SameBut.wr _ _ _ (by decide)).2 ((SameBut.setCore _ _ _ (by decide)).2 (hqueue _)))

/-- The parts that no operation of an engine may change. -/
def runLeaves : List Part :=
  [.routes, .disc, .awaiting, .patrol, .heldTx, .groups, .eths, .auLog, .bridge, .dkr, .tap, .pcie, .provId, .fwVer, .sheets,
   .gshift, .pending]

theorem leaves_of_gmeRunOp {cmd : Instr} {upsets : List (Nat × Nat)} {die e op : Nat} {f : GmeAcc → Agent → Nat → GmeAcc}
    (hc : ∀ s, exec cmd s = done ((s.upset upsets).gmeRunOp die e op f))
    (hf : ∀ s g ag d, GmeAcc.Within g s → (f g ag d).Within s) : Leaves cmd runLeaves :=
  .of_keeps (.of_done _ hc fun s => ((s.upset_frame upsets).widen (by decide)).through (State.gmeRunOp_frame _ die e op hf))
    (by decide)

theorem gmeOpComplete_keeps (die eng : Nat) : Keeps (.gmeOpComplete die eng) [.regs, .cores, .gmes] := by
  intro s t ht
  change execGmeOpComplete die eng s = _ at ht
  unfold execGmeOpComplete at ht
  simp only [] at ht
  (repeat' split at ht) <;> exact SameBut.of_done (by simp) ht

/-- The parts that a fault of an engine may change. -/
def faultParts : List Part := .gmes :: accParts

theorem gmeOpFault_keeps (die eng : Nat) : Keeps (.gmeOpFault die eng) faultParts := by
  intro s t ht
  change execGmeOpFault die eng s = _ at ht
  unfold execGmeOpFault at ht
  simp only [] at ht
  split at ht
  case h_1 r _ _ =>
    split at ht
    · exact SameBut.of_done (by simp [faultParts, accParts]) ht
    · exact SameBut.of_done (.of_self _ _) ht
  case h_2 core addr rest _ _ =>
    have hread : SameBut faultParts s (s.vread (s.gmeAgent die (eng % 2)) addr 64 permRead).1 :=
      (s.vread_frame _ _ _ _).widen (by decide)
    generalize s.vread (s.gmeAgent die (eng % 2)) addr 64 permRead = q at hread ht
    split at ht
    · exact SameBut.of_done (.of_self _ _) ht
    · have hlogged (code pos val tag : Nat) (g : GmeSt) : SameBut faultParts s
          (((q.1.fresh.2.gmeFault die (eng % 2) addr code pos val tag).setGme die (eng % 2) g).wr (gmeU die (eng % 2))
            Reg.GME_STAT_QDEPTH rest.length) := by
        simpa [faultParts, accParts] using hread
      split at ht
      · exact SameBut.of_done ((SameBut.returnTag _ _ _ _ (by decide) (by decide)).2
          ((SameBut.setCore _ _ _ (by decide)).2 (hlogged _ _ _ _ _))) ht
      · exact SameBut.of_done (hlogged _ _ _ _ _) ht
  case h_3 => exact SameBut.of_done (.of_self _ _) ht

/-- Settles O52: every access of an operation stays within the parts that virtual memory's accesses may change, and so does each
operation. -/
theorem gatherMergeFrames : Obligations.GatherMergeFrames := by
  unfold Obligations.GatherMergeFrames
  exact ⟨fun _ _ _ => leaves_of_gmeRunOp (fun _ => rfl) fun _ _ ag d h => h.gather ag d,
    fun _ _ _ => leaves_of_gmeRunOp (fun _ => rfl) fun _ _ ag d h => h.scatter ag d,
    fun _ _ _ => leaves_of_gmeRunOp (fun _ => rfl) fun _ _ ag d h => h.scatterAdd ag d,
    fun _ _ _ => leaves_of_gmeRunOp (fun _ => rfl) fun _ _ ag d h => h.segmentReduce ag d,
    fun _ _ _ => leaves_of_gmeRunOp (fun _ => rfl) fun _ _ ag d h => h.sortByKey ag d,
    fun _ _ _ => leaves_of_gmeRunOp (fun _ => rfl) fun _ _ ag d h => h.bucket ag d,
    fun _ _ _ => leaves_of_gmeRunOp (fun _ => rfl) fun _ _ ag d h => h.pack ag d,
    fun _ _ _ => leaves_of_gmeRunOp (fun _ => rfl) fun _ _ ag d h => h.unpack ag d,
    fun _ _ _ => leaves_of_gmeRunOp (fun _ => rfl) fun _ _ ag d h => h.maskCompact ag d,
    fun die eng => .of_keeps (gmeOpFault_keeps die eng) (by decide), gmeOpComplete_keeps⟩

end Sys2Proof.Machine
end

section
/-!
What scratchpad, DRAM, translation and stack commands leave as it is (06_scratchpad R145, R157; 08_bonded_dram R188, R197;
11_backward_pass R274, R275).
-/
namespace Sys2Proof.Machine

/-- A command under which bits fail goes on from the state in which they have failed. -/
theorem SameBut.of_upset {l : List Part} {s t : State} (upsets : List (Nat × Nat)) (hl : ∀ p ∈ [Part.ecc, Part.net], p ∈ l)
    (h : SameBut l (s.upset upsets) t) : SameBut l s t :=
  ((s.upset_frame upsets).widen hl).through h

/-! ### Scratchpads (06_scratchpad R145 to R157) -/

/-- A count that is made under a condition only. -/
theorem SameBut.bump_if {l : List Part} {s t : State} {c : Prop} [Decidable c] (h : SameBut l s t) (u : Nat) (f : Field)
    (hregs : .regs ∈ l) : SameBut l s (if c then t.bump u f 1 else t) :=
  .choose ((SameBut.bump u f 1 hregs).2 h) h

theorem arbitratedAccess_keeps (die core sched next : Nat) (upsets : List (Nat × Nat)) :
    Keeps (.arbitratedAccess die core sched next upsets) [.regs, .mem, .ecc, .net, .arbs, .sb, .log, .scrubQ] := by
  intro s t ht
  refine .of_upset upsets (by decide) ?_
  simp only [exec, execArbitratedAccess] at ht
  generalize s.upset upsets = r at ht ⊢
  refine SameBut.of_done ((SameBut.forEach_iff _ _ fun _ _ => by simp).2 ?_) ht
  refine .bump_if (.bump_if (.bump_if ?_ _ _ (by decide)) _ _ (by decide)) _ _ (by decide)
  simp

theorem requestPromotion_keeps (die core : Nat) : Keeps (.requestPromotion die core) [.regs, .arbs] :=
  .of_done _ (fun _ => rfl) fun s => by simp

theorem scratchpadScrub_keeps (die core bank : Nat) (sched : Bool) (upsets : List (Nat × Nat)) :
    Keeps (.scratchpadScrub die core bank sched upsets) [.regs, .ecc, .net, .arbs, .sb, .log, .scrubQ] := by
  intro s t ht
  refine .of_upset upsets (by decide) ?_
  simp only [exec, execScratchpadScrub] at ht
  generalize s.upset upsets = r at ht ⊢
  (repeat' split at ht) <;> exact SameBut.of_done (by simp) ht

/-! ### DRAM and translation (08_bonded_dram R188 to R202) -/

theorem dramRead_keeps (src die off len : Nat) (upsets : List (Nat × Nat)) :
    Keeps (.dramRead src die off len upsets) [.regs, .ecc, .net, .heldTx, .sb, .log] := by
  intro s t ht
  refine .of_upset upsets (by decide) ?_
  simp only [exec, execDramRead] at ht
  generalize s.upset upsets = r at ht ⊢
  (repeat' split at ht) <;> exact SameBut.of_done (by simp) ht

theorem dramWrite_keeps (src die off : Nat) (data : List Byte) (upsets : List (Nat × Nat)) :
    Keeps (.dramWrite src die off data upsets) [.regs, .mem, .ecc, .net, .heldTx, .sb, .log] := by
  intro s t ht
  refine .of_upset upsets (by decide) ?_
  simp only [exec, execDramWrite] at ht
  generalize s.upset upsets = r at ht ⊢
  (repeat' split at ht) <;> exact SameBut.of_done (by simp) ht

theorem patrolScrub_keeps (die channel : Nat) (upsets : List (Nat × Nat)) :
    Keeps (.patrolScrub die channel upsets) [.regs, .ecc, .net, .patrol, .sb, .log] := by
  intro s t ht
  refine .of_upset upsets (by decide) ?_
  simp only [exec, execPatrolScrub] at ht
  generalize s.upset upsets = r at ht ⊢
  split at ht <;> exact SameBut.of_done (by simp) ht

theorem dramRefresh_keeps (die delayed : Nat) : Keeps (.dramRefresh die delayed) [.regs] := by
  intro s t ht
  simp only [exec, execDramRefresh] at ht
  split at ht <;> exact SameBut.of_done (by simp) ht

theorem translationWalk_keeps (die agent va need : Nat) (upsets : List (Nat × Nat)) :
    Keeps (.translationWalk die agent va need upsets) [.regs, .ecc, .net, .tus, .sb, .pwr, .log] := by
  intro s t ht
  refine .of_upset upsets (by decide) ?_
  simp only [exec, execTranslationWalk] at ht
  generalize s.upset upsets = r at ht ⊢
  exact SameBut.of_done (by simp) ht

theorem tuInval_keeps (src die : Nat) :
    Keeps (.tuInval src die) [.regs, .mem, .ecc, .cores, .arbs, .ports, .apps, .stqs, .red, .sb, .log, .fix, .scrubQ] :=
  .of_done _ (fun _ => rfl) fun s => by simp

theorem invalidationDone_keeps (die : Nat) : Keeps (.invalidationDone die) [.regs, .tus] := by
  intro s t ht
  simp only [exec, execInvalidationDone] at ht
  split at ht <;> exact SameBut.of_done (by simp) ht

/-! ### Stacks of cores (11_backward_pass R274, R275) -/

/-- The parts that the end of a frame and the halt of its core may change. -/
def frameEndParts : List Part :=
  [.regs, .mem, .ecc, .cores, .apps, .stqs, .red, .ues, .streams, .qps, .rcv, .sb, .log, .job, .fix, .ck, .kpr]

/-- The parts that a frame's start and its header may change: those, and those of its accesses to virtual memory. -/
def frameParts : List Part := accParts ++ frameEndParts

theorem State.setFront_frameParts (s : State) (die core : Nat) (o : StackOp) : SameBut frameParts s (s.setFront die core o) :=
  (s.setFront_frame die core o).widen (by decide)

theorem State.endFrame_frameParts (s : State) (die core : Nat) : SameBut frameParts s (s.endFrame die core) :=
  (s.endFrame_frame die core).widen (by decide)

theorem State.startFrame_frameParts (s : State) (die core : Nat) (o : StackOp) (payload : Nat) :
    SameBut frameParts s (s.startFrame die core o payload) :=
  (s.startFrame_frame die core o payload).widen (by decide)

theorem State.localRead_frameParts {s : State} {src die core off n : Nat} {q : State × Option (List Byte) × Option XferFault}
    (h : s.localRead src die core off n = q) : SameBut frameParts s q.1 :=
  h ▸ (s.localRead_frame src die core off n).widen (by decide)

theorem State.vread_frameParts (s : State) (ag : Agent) (va n need : Nat) : SameBut frameParts s (s.vread ag va n need).1 :=
  (s.vread_frame ag va n need).widen (by decide)

theorem State.vwrite_frameParts (s : State) (ag : Agent) (va : Nat) (bs : List Byte) :
    SameBut frameParts s (s.vwrite ag va bs).1 :=
  (s.vwrite_frame ag va bs).widen (by decide)

theorem State.staleStamps_frameParts (s : State) (die core layer : Nat) (l : List (Nat × Nat × Nat)) :
    SameBut frameParts s (s.staleStamps die core layer l) :=
  (s.staleStamps_frame die core layer l).widen (by decide)

/-- A stack command that halts its core stays within the parts of a frame. -/
theorem SameBut.of_done_stackHalt {s r t : State} {die core code d0 d1 : Nat} (h : SameBut frameParts s r)
    (hd : done (r.stackHalt die core code d0 d1) = .next t) : SameBut frameParts s t :=
  (h.through ((r.stackHalt_frame die core code d0 d1).widen (by decide))).of_done hd

theorem stackPushStart_keeps (die core : Nat) (upsets : List (Nat × Nat)) :
    Keeps (.stackPushStart die core upsets) frameParts := by
  intro s t ht
  refine .of_upset upsets (by decide) ?_
  simp only [exec, execStackPushStart] at ht
  generalize s.upset upsets = r at ht ⊢
  split at ht
  case h_1 => exact SameBut.of_done (.of_self _ r) ht
  case h_2 o _ =>
    -- The stamps reach past the scratchpad.
    split at ht
    · exact SameBut.of_done_stackHalt (.of_self _ r) ht
    -- The frame does not fit.
    split at ht
    · exact SameBut.of_done_stackHalt (by simp [frameParts, accParts, frameEndParts]) ht
    generalize hs1 : State.setFront _ die core _ = s1 at ht
    have hplaced : SameBut frameParts r s1 := by simp [← hs1, frameParts, accParts, frameEndParts]
    split at ht
    case h_1 heq =>
      exact SameBut.of_done_stackHalt (hplaced.through (State.localRead_frameParts heq)) ht
    case h_2 s2 stamps _ heq =>
      have hstamps : SameBut frameParts r s2 := hplaced.through (State.localRead_frameParts heq)
      have hwrite := fun ag va bs => hstamps.through (s2.vwrite_frameParts ag va bs)
      split at ht
      · exact SameBut.of_done_stackHalt (hwrite _ _ _) ht
      · exact SameBut.of_done (.through (hwrite _ _ _) (State.startFrame_frameParts _ die core _ _)) ht

theorem frameHeaderWrite_keeps (die core : Nat) : Keeps (.frameHeaderWrite die core) frameParts := by
  intro s t ht
  simp only [exec, execFrameHeaderWrite] at ht
  (repeat' split at ht)
  case isTrue.isTrue => exact SameBut.of_done_stackHalt (s.vwrite_frameParts _ _ _) ht
  case isTrue.isFalse => exact SameBut.of_done (.through (s.vwrite_frameParts _ _ _) (State.endFrame_frameParts _ die core)) ht
  all_goals exact SameBut.of_done (.of_self _ s) ht

theorem stackPopStart_keeps (die core : Nat) (upsets : List (Nat × Nat)) :
    Keeps (.stackPopStart die core upsets) frameParts := by
  intro s t ht
  refine .of_upset upsets (by decide) ?_
  simp only [exec, execStackPopStart] at ht
  generalize s.upset upsets = r at ht ⊢
  split at ht
  case h_1 => exact SameBut.of_done (.of_self _ r) ht
  case h_2 o _ =>
    -- The stamps reach past the scratchpad.
    split at ht
    · exact SameBut.of_done_stackHalt (.of_self _ r) ht
    -- The stack is empty.
    split at ht
    · exact SameBut.of_done_stackHalt (by simp [frameParts, accParts, frameEndParts]) ht
    have hheader := r.vread_frameParts (r.dmaAgent die core)
      (r.stkBase (stkU die core) + r.rd (stkU die core) Reg.STK_LAST_LO_OFF) 64 permRead
    generalize r.vread _ _ _ _ = q at ht hheader
    -- The header cannot be read, or is not that of the frame expected.
    split at ht
    · exact hheader.of_done_stackHalt ht
    split at ht
    · exact SameBut.of_done_stackHalt (by simpa [frameParts, accParts, frameEndParts] using hheader) ht
    split at ht
    case h_1 heq =>
      exact SameBut.of_done_stackHalt (hheader.through (State.localRead_frameParts heq)) ht
    case h_2 s2 mine _ heq =>
      have hmine : SameBut frameParts r s2 := hheader.through (State.localRead_frameParts heq)
      have hstamps := fun ag va n need => hmine.through (s2.vread_frameParts ag va n need)
      split at ht
      · exact SameBut.of_done_stackHalt (hstamps _ _ _ _) ht
      · refine SameBut.of_done (.through ?_ (State.startFrame_frameParts _ die core _ _)) ht
        refine .through ?_ (State.setFront_frameParts _ die core _)
        exact (hstamps _ _ _ _).through (State.staleStamps_frameParts _ die core _ _)

theorem popComplete_keeps (die core : Nat) : Keeps (.popComplete die core) frameEndParts := by
  intro s t ht
  simp only [exec, execPopComplete] at ht
  (repeat' split at ht)
  case isTrue => exact SameBut.of_done (.through (by simp [frameEndParts]) (State.endFrame_frame _ die core)) ht
  all_goals exact SameBut.of_done (.of_self _ s) ht

/-- Settles O53: the frame of each command, and for the stack commands the parts that a frame of a stack does not touch. -/
theorem memoryFrames : Obligations.MemoryFrames := by
  unfold Obligations.MemoryFrames
  exact ⟨arbitratedAccess_keeps, requestPromotion_keeps, scratchpadScrub_keeps, dramRead_keeps, dramWrite_keeps,
    patrolScrub_keeps, dramRefresh_keeps, translationWalk_keeps, tuInval_keeps, invalidationDone_keeps,
    fun die core upsets => .of_keeps (stackPushStart_keeps die core upsets) (by decide),
    fun die core => .of_keeps (frameHeaderWrite_keeps die core) (by decide),
    fun die core upsets => .of_keeps (stackPopStart_keeps die core upsets) (by decide),
    fun die core => .of_keeps (popComplete_keeps die core) (by decide)⟩

end Sys2Proof.Machine
end

section
/-!
What the scrubber of a scratchpad bank leaves in its unit's registers (06_scratchpad R157).
-/
namespace Sys2Proof.Machine

/-- A scrubber keeps a word in which no bit has failed. -/
theorem State.scrubWord_of_sound {s : State} {die core w : Nat} (h : mget s.ecc w 0 = 0) : s.scrubWord die core w = s := by
  simp only [State.scrubWord, h]

/-- The visit of a row of sound words that does not end a pass of bank 0 moves the scrubber on and changes nothing else. -/
theorem State.scrubRow_frame_of_sound {s : State} {die core bank : Nat} (hecc : s.ecc = [])
    (hpass : ¬ (bank = 0 ∧ mget (mget s.arbs (die * 16 + core) {}).rows bank 0 = 3071)) :
    SameBut [.arbs] s (s.scrubRow die core bank) := by
  have hrow (ws : List Nat) : forEach ws (fun s w => s.scrubWord die core w) s = s := by
    induction ws with
    | nil => rfl
    | cons w ws ih => rwa [forEach, List.foldl_cons, State.scrubWord_of_sound (by simp [hecc, mget])]
  simp only [State.scrubRow, hrow]
  rw [if_neg (by simpa using hpass)]
  simp

/-- A bank's scrubber with no word queued visits its row where no request waits and no bank is held. -/
theorem exec_scratchpadScrub_of_idle {s : State} {die core bank : Nat} (hq : s.scrubQ = [])
    (hreqs : (mget s.arbs (die * 16 + core) {}).reqs = []) (hheld : (mget s.arbs (die * 16 + core) {}).held = []) :
    exec (.scratchpadScrub die core bank false []) s = done (s.scrubRow die core (bank % 32)) := by
  have hup : s.upset [] = s := rfl
  have hsched : s.scheduled die core (b2n false) = 0 := by simp [State.scheduled, b2n]
  simp [exec, execScratchpadScrub, hup, hsched, hq, hreqs, hheld]

/-- A state whose register store lists for a count of 16 bits, the scrub passes of scratchpad 0 of die 0, a value of 17. -/
def passesPastWidth : State := { regs := [(fieldKey (spU 0 0) Reg.SP_STAT_SCRUB_PASSES, 2 ^ 16)] }

theorem passesPastWidth_rd : passesPastWidth.rd (spU 0 0) Reg.SP_STAT_SCRUB_PASSES = 2 ^ 16 := by decide

/-- Refutes O3: the scrubber of bank 1 goes to its next row and leaves the count of passes as it is, where the statement asks
that it read cut to its 16 bits. `State.wr` keeps a field within its width, but the statement is of every state, and a state
may list a value that is wider than its field. -/
theorem not_scratchpadTrafficCompletes : ¬ Obligations.ScratchpadTrafficCompletes := by
  unfold Obligations.ScratchpadTrafficCompletes
  intro h
  obtain ⟨-, -, -, hrow⟩ := h
  obtain ⟨t, ht, -, -, hcut⟩ :=
    hrow passesPastWidth 0 0 1 0 (by decide) (by decide) (by decide) (by decide) rfl rfl rfl rfl rfl
  have hvisit : SameBut [.arbs] passesPastWidth (passesPastWidth.scrubRow 0 0 1) := State.scrubRow_frame_of_sound rfl (by decide)
  rw [exec_scratchpadScrub_of_idle rfl rfl rfl] at ht
  have hkept := hvisit.of_done ht .regs (by decide) (spU 0 0) Reg.SP_STAT_SCRUB_PASSES
  rw [hkept, passesPastWidth_rd] at hcut
  exact absurd hcut (by decide)

end Sys2Proof.Machine
end

section
/-!
What the commands of the DMA engine leave as it is (07_streams_layout R162, R174, R177, R178, R180; 04_weight_sparsity R110,
R111).
-/
namespace Sys2Proof.Machine

/-! ### What a transfer reads and writes -/

section
variable {s : State} {α : Type}

theorem State.localRead_accParts {src die core off n : Nat} {q : State × Option (List Byte) × Option XferFault}
    (h : s.localRead src die core off n = q) : SameBut accParts s q.1 :=
  h ▸ (s.localRead_frame src die core off n).widen (by decide)

theorem State.localWrite_accParts {src die core off : Nat} {bs : List Byte} {q : State × Option XferFault}
    (h : s.localWrite src die core off bs = q) : SameBut accParts s q.1 :=
  h ▸ (s.localWrite_frame src die core off bs).widen (by decide)

theorem State.writeRuns_accParts {ag : Agent} {remote : Nat} {accs : List (Nat × List Byte)}
    {q : State × List (Nat × Nat) × Option XferFault} (h : s.writeRuns ag remote accs = q) : SameBut accParts s q.1 :=
  h ▸ (s.writeRuns_frame ag remote accs).widen (by decide)

/-- Reading a source as it stood at issue changes what the reads themselves change. -/
theorem State.asIssued_accParts {x : Xfer} {f : State → State × α} {q : State × α} (h : s.asIssued x f = q)
    (hf : ∀ r, SameBut accParts r (f r).1) : SameBut accParts s q.1 := by
  subst h
  simp only [State.asIssued]
  refine (SameBut.with_mem _ (by decide)).2 (SameBut.through ?_ (hf _))
  exact (SameBut.with_mem _ (by decide)).2 (.of_self _ s)

end

theorem State.loadData_accParts (ag : Agent) (d remote first : Nat) (s : State) :
    SameBut accParts s (s.loadData ag d remote first).1 := (s.loadData_frame ag d remote first).widen (by decide)

theorem State.storeData_accParts (ag : Agent) (die core d : Nat) (s : State) :
    SameBut accParts s (s.storeData ag die core d).1 := (s.storeData_frame ag die core d).widen (by decide)

theorem State.packNext_accParts (ag : Agent) (die core d remote : Nat) (x : Xfer) (s : State) :
    SameBut accParts s (s.packNext ag die core d remote x).1 := by
  unfold State.packNext
  split
  case h_2 => exact .of_self _ s
  case h_1 f g _ _ =>
    simp only []
    have hhead := s.readRuns_frame ag permWrite remote (joinRuns [((dBase d + x.pos) % 2 ^ 64, 32)])
    generalize s.readRuns ag permWrite remote _ = q at hhead ⊢
    split
    · exact hhead
    · exact hhead
    · split
      case h_1 heq => exact SameBut.through hhead (State.localRead_accParts heq)
      case h_2 heq =>
        have hread := SameBut.through hhead (State.localRead_accParts heq)
        split <;> exact hread

theorem State.expandNext_accParts (ag : Agent) (d remote : Nat) (x : Xfer) (s : State) :
    SameBut accParts s (s.expandNext ag d remote x).1 := by
  unfold State.expandNext
  split
  case h_2 => exact .of_self _ s
  case h_1 f g _ _ =>
    simp only []
    have hhead := s.readRuns_frame ag permRead remote (joinRuns [((dBase d + x.pos) % 2 ^ 64, 32)])
    generalize s.readRuns ag permRead remote _ = q at hhead ⊢
    split
    · exact hhead
    · split <;> exact hhead.through (State.readRuns_frame _ _ _ _ _)

/-! ### The commands -/

theorem dmaTransferStart_keeps (die core : Nat) : Keeps (.dmaTransferStart die core) [.regs, .cores] := by
  intro s t ht
  simp only [exec, execDmaTransferStart] at ht
  split at ht
  case h_1 => exact SameBut.of_done (.of_self _ s) ht
  case h_2 =>
    split at ht
    case h_2 => exact SameBut.of_done (.of_self _ s) ht
    case h_1 =>
      split at ht
      · exact SameBut.of_done (by simp) ht
      · exact SameBut.of_done (.of_self _ s) ht

theorem dmaTransferComplete_keeps (die core tag : Nat) (upsets : List (Nat × Nat)) :
    Keeps (.dmaTransferComplete die core tag upsets) accParts := by
  intro s t ht
  refine .of_upset upsets (by decide) ?_
  simp only [exec, execDmaTransferComplete] at ht
  generalize s.upset upsets = r at ht ⊢
  have hidle (h : done r = .next t) : SameBut accParts r t := SameBut.of_done (.of_self _ r) h
  split at ht
  case h_1 => exact hidle ht
  case h_2 i x _ =>
    split at ht
    · exact hidle ht
    -- A pack or an expand transfer ends with its last tile, a multicast with its last copy.
    split at ht
    · exact SameBut.of_done (by simp [accParts]) ht
    split at ht
    · exact SameBut.of_done (by simp [accParts]) ht
    -- A store, then a load.
    split at ht
    · split at ht
      case h_1 => exact hidle ht
      case h_2 heq =>
        have hsource := State.asIssued_accParts heq (State.storeData_accParts _ die core _)
        split at ht
        case h_1 => exact hidle ht
        case h_2 heq =>
          have hwritten := hsource.through (State.writeRuns_accParts heq)
          split at ht
          · exact SameBut.of_done (by simpa [accParts] using hwritten) ht
          · exact SameBut.of_done (by simpa [accParts] using hwritten) ht
    · split at ht
      case h_1 => exact hidle ht
      case h_2 heq =>
        have hsource := State.asIssued_accParts heq (State.loadData_accParts _ _ _ _)
        split at ht
        case h_1 => exact hidle ht
        case h_2 heq =>
          have hwritten := hsource.through (State.localWrite_accParts heq)
          exact SameBut.of_done (by simpa [accParts] using hwritten) ht

theorem packTileWrite_keeps (die core tag : Nat) (upsets : List (Nat × Nat)) :
    Keeps (.packTileWrite die core tag upsets) accParts := by
  intro s t ht
  refine .of_upset upsets (by decide) ?_
  simp only [exec, execPackTileWrite] at ht
  generalize s.upset upsets = r at ht ⊢
  have hidle (h : done r = .next t) : SameBut accParts r t := SameBut.of_done (.of_self _ r) h
  split at ht
  case h_1 => exact hidle ht
  case h_2 i x _ =>
    split at ht
    · exact hidle ht
    split at ht
    case h_1 heq =>
      have htile := State.asIssued_accParts heq (State.packNext_accParts _ die core _ 0 x)
      split at ht
      case h_1 heq =>
        have hwritten := htile.through (State.writeRuns_accParts heq)
        exact SameBut.of_done (by simpa [accParts] using hwritten) ht
      case h_2 => exact hidle ht
    case h_2 heq =>
      have htile := State.asIssued_accParts heq (State.packNext_accParts _ die core _ 0 x)
      exact SameBut.of_done (by simpa [accParts] using htile) ht
    case h_3 => exact hidle ht

theorem expandTile_keeps (die core tag : Nat) (upsets : List (Nat × Nat)) :
    Keeps (.expandTile die core tag upsets) accParts := by
  intro s t ht
  refine .of_upset upsets (by decide) ?_
  simp only [exec, execExpandTile] at ht
  generalize s.upset upsets = r at ht ⊢
  have hidle (h : done r = .next t) : SameBut accParts r t := SameBut.of_done (.of_self _ r) h
  split at ht
  case h_1 => exact hidle ht
  case h_2 i x _ =>
    split at ht
    · exact hidle ht
    split at ht
    case h_1 heq =>
      have htile := State.asIssued_accParts heq (State.expandNext_accParts _ _ 0 x)
      split at ht
      case h_1 heq =>
        have hwritten := htile.through (State.localWrite_accParts heq)
        exact SameBut.of_done (by simpa [accParts] using hwritten) ht
      case h_2 => exact hidle ht
    case h_2 => exact hidle ht

theorem descriptorFetch_keeps (die core ring : Nat) (upsets : List (Nat × Nat)) :
    Keeps (.descriptorFetch die core ring upsets) frameParts := by
  intro s t ht
  refine .of_upset upsets (by decide) ?_
  simp only [exec, execDescriptorFetch] at ht
  generalize s.upset upsets = r at ht ⊢
  split at ht
  · exact SameBut.of_done (.of_self _ r) ht
  · generalize hq : r.vread _ _ _ _ = q at ht
    have hread : SameBut frameParts r q.1 := hq ▸ r.vread_frameParts _ _ _ _
    split at ht
    · exact SameBut.of_done (by simpa [frameParts, accParts, frameEndParts] using hread) ht
    · exact SameBut.of_done (by simpa [frameParts, accParts, frameEndParts] using hread) ht

theorem multicastCopyComplete_keeps (die core tag leaf : Nat) (upsets : List (Nat × Nat)) :
    Keeps (.multicastCopyComplete die core tag leaf upsets) frameParts := by
  intro s t ht
  refine .of_upset upsets (by decide) ?_
  simp only [exec, execMulticastCopyComplete] at ht
  generalize s.upset upsets = r at ht ⊢
  have hidle (h : done r = .next t) : SameBut frameParts r t := SameBut.of_done (.of_self _ r) h
  split at ht
  case h_1 => exact hidle ht
  case h_2 i x _ =>
    split at ht
    case h_1 => exact hidle ht
    case h_2 ld lc _ =>
      split at ht
      · exact hidle ht
      -- The source is read with the first copy.
      cases hbuf : x.buf with
      | some b =>
        simp only [hbuf] at ht
        split at ht
        case h_1 => exact hidle ht
        case h_2 heq =>
          have hwritten : SameBut frameParts r _ := (State.localWrite_accParts heq).widen (by decide)
          exact SameBut.of_done (by simpa [frameParts, accParts, frameEndParts] using hwritten) ht
      | none =>
        simp only [hbuf] at ht
        have hsource := State.asIssued_accParts (x := x) (s := r) rfl
          (State.loadData_accParts (r.dmaAgent die core) (x.desc.getD 0) 0 0)
        generalize r.asIssued x _ = q at ht hsource
        split at ht
        case h_1 => exact hidle ht
        case h_2 =>
          split at ht
          case h_1 => exact hidle ht
          case h_2 heq =>
            have hwritten := SameBut.through (l := accParts) (s := r) (by simpa [accParts] using hsource)
              (State.localWrite_accParts heq)
            have hwide : SameBut frameParts r _ := hwritten.widen (by decide)
            exact SameBut.of_done (by simpa [frameParts, accParts, frameEndParts] using hwide) ht

/-- What a fault mixes into every part of every leaf stays within the parts that accesses may change. -/
theorem mixed_accParts {α β : Type} {f : α → State → β → State} {leaves : List α} {parts : List β} {s : State}
    (hf : ∀ a r b, SameBut accParts r (f a r b)) :
    SameBut accParts s (forEach leaves (fun r a => forEach parts (f a) r) s) :=
  SameBut.forEach leaves _ (fun r a => SameBut.forEach parts _ (fun q b => hf a q b) r) s

theorem dmaAccessFault_keeps (die core tag first remote : Nat) (upsets : List (Nat × Nat)) :
    Keeps (.dmaAccessFault die core tag first remote upsets) frameParts := by
  intro s t ht
  refine .of_upset upsets (by decide) ?_
  simp only [exec, execDmaAccessFault] at ht
  generalize s.upset upsets = r at ht ⊢
  have hidle (h : done r = .next t) : SameBut frameParts r t := SameBut.of_done (.of_self _ r) h
  have hfault {q : State} {i : Nat} {x : Xfer} {e : XferFault} (hq : SameBut accParts r q)
      (h : done (q.xferFault die core i x e) = .next t) : SameBut frameParts r t :=
    SameBut.of_done ((hq.widen (by decide)).through ((q.xferFault_frame die core i x e).widen (by decide))) h
  split at ht
  case h_1 => exact hidle ht
  case h_2 i x _ =>
    -- A pack transfer, an expand transfer, a store, then a load.
    split at ht
    · split at ht
      case h_1 heq => exact hfault (State.asIssued_accParts heq (State.packNext_accParts _ die core _ remote x)) ht
      case h_2 heq =>
        have htile := State.asIssued_accParts heq (State.packNext_accParts _ die core _ remote x)
        split at ht
        case h_1 => exact hfault (htile.through (by simp [accParts])) ht
        case h_2 => exact hidle ht
      case h_3 => exact hidle ht
    split at ht
    · split at ht
      case h_1 heq => exact hfault (State.asIssued_accParts heq (State.expandNext_accParts _ _ remote x)) ht
      case h_2 heq =>
        have htile := State.asIssued_accParts heq (State.expandNext_accParts _ _ remote x)
        split at ht
        case h_1 => exact hfault (htile.through (by simp [accParts])) ht
        case h_2 => exact hidle ht
      case h_3 => exact hidle ht
    split at ht
    · split at ht
      case h_1 heq => exact hfault (State.asIssued_accParts heq (State.storeData_accParts _ die core _)) ht
      case h_2 heq =>
        have hsource := State.asIssued_accParts heq (State.storeData_accParts _ die core _)
        split at ht
        case h_1 => exact hfault (hsource.through (by simp [accParts])) ht
        case h_2 => exact hidle ht
    · split at ht
      case h_1 =>
        split at ht
        case h_1 => exact hfault (mixed_accParts fun _ _ _ => by split <;> simp [accParts]) ht
        case h_2 => exact hidle ht
      case h_2 =>
        split at ht
        case h_1 heq =>
          have hsource := State.asIssued_accParts heq (State.loadData_accParts _ _ remote first)
          exact hfault (hsource.through (mixed_accParts fun _ _ _ => by split <;> simp [accParts])) ht
        case h_2 heq =>
          have hsource := State.asIssued_accParts heq (State.loadData_accParts _ _ remote first)
          split at ht
          case h_1 => exact hfault (hsource.through (mixed_accParts fun _ _ _ => by split <;> simp [accParts])) ht
          case h_2 => exact hidle ht

/-- Settles O51: what a transfer reads and writes stays within the parts that accesses may change, and beyond them go only the
commands that may halt a core: a fetch, a copy to a leaf and a fault. -/
theorem transferFrames : Obligations.TransferFrames := by
  unfold Obligations.TransferFrames
  exact ⟨fun die core ring upsets => .of_keeps (descriptorFetch_keeps die core ring upsets) (by decide), dmaTransferStart_keeps,
    fun die core tag first remote upsets => .of_keeps (dmaAccessFault_keeps die core tag first remote upsets) (by decide),
    fun die core tag upsets => .of_keeps (dmaTransferComplete_keeps die core tag upsets) (by decide),
    fun die core tag leaf upsets => .of_keeps (multicastCopyComplete_keeps die core tag leaf upsets) (by decide),
    fun die core tag upsets => .of_keeps (packTileWrite_keeps die core tag upsets) (by decide),
    fun die core tag upsets => .of_keeps (expandTile_keeps die core tag upsets) (by decide)⟩

end Sys2Proof.Machine
end

section
/-!
Descriptors of one element, and what such a descriptor moves (07_streams_layout R160 to R171, Tables 7-1, 7-2).
-/
namespace Sys2Proof.Machine

/-! ### A descriptor of one element (07_streams_layout Tables 7-1, 7-2) -/

/-- A descriptor of one FP32 element between the address `va` and the offset `loc`, a load or a store. -/
structure OneElem (d va loc : Nat) (store : Bool) : Prop where
  base : dBase d = va
  base_lt : va < 2 ^ 64
  cnt : ∀ n < 5, dCnt d n = 1
  padLo : ∀ n, dPadLo d n = 0
  padHi : ∀ n, dPadHi d n = 0
  fmt : dFmt d = some .fp32
  cvtFmt : dCvtFmt d = some .fp32
  perm : dPerm d = 0
  dir : dStore d = store
  mcast : dMcast d = false
  pack : dPack d = false
  expand : dExpand d = false
  bell : ctlBit d 10 = false
  offset : dLocal d = loc

/-- The words of such a descriptor. -/
theorem oneElem_of_eq {d va tag loc : Nat} {store : Bool} (hva : va < 2 ^ 64) (htag : tag < 256) (hloc : loc < 2 ^ 32)
    (hd : d = va + 2 ^ 104 + 2 ^ 168 + 2 ^ 232 + 2 ^ 296 + 2 ^ 360 + tag * 2 ^ 448 + loc * 2 ^ 480 + b2n store * 2 ^ 463) :
    OneElem d va loc store ∧ dTag d = tag := by
  have hs : b2n store < 2 := by cases store <;> decide
  have hpad : d / 2 ^ 384 % 2 ^ 64 = 0 := by omega
  have hctl : d / 2 ^ 456 % 2 ^ 24 = 128 * b2n store := by omega
  have hfmt : bitsOf d 436 432 = 0 := by simp only [bitsOf]; omega
  have hcvt : convCode (dCvt d) = 0 := by simp only [convCode, dCvt, bitsOf]; omega
  have hbit (i : Nat) (hi : i < 16) (hi0 : i ≠ 0) : ctlBit d i = false := by
    simp only [ctlBit, bitAt, beq_eq_false_iff_ne]
    interval_cases i <;> omega
  refine ⟨⟨?_, hva, fun n hn => ?_, fun n => ?_, fun n => ?_, ?_, ?_, ?_, ?_, hbit 1 (by decide) (by decide),
    hbit 7 (by decide) (by decide), hbit 8 (by decide) (by decide), hbit 10 (by decide) (by decide), ?_⟩, ?_⟩
  · simp only [dBase, bitsOf]; omega
  · simp only [dCnt, bitsOf]
    interval_cases n <;> omega
  · simp only [dPadLo, bitsOf]
    split
    · interval_cases n <;> omega
    · rfl
  · simp only [dPadHi, bitsOf]
    split
    · interval_cases n <;> omega
    · rfl
  · simp only [dFmt, hfmt, fmtOfCode]
  · simp only [dCvtFmt, hcvt, fmtOfCode]
  · simp only [dPerm, bitsOf]; omega
  · have hdir : d / 2 ^ 463 % 2 = b2n store := by omega
    simp only [dStore, ctlBit, bitAt, Nat.reduceAdd, hdir]
    cases store <;> rfl
  · simp only [dLocal, bitsOf]; omega
  · simp only [dTag, bitsOf]; omega

section
variable {d va loc : Nat} {store : Bool} (h : OneElem d va loc store)
include h

theorem OneElem.exts : dExts d = [1, 1, 1, 1, 1] := by
  simp [dExts, dExt, h.padLo, h.padHi, h.cnt, List.range_succ]

theorem OneElem.total : dTotal d = 1 := by simp [dTotal, h.exts]

theorem OneElem.index : dIndex d 0 = [0, 0, 0, 0, 0] := by simp [dIndex, h.exts, digits, h.padLo]

theorem OneElem.inner : dIsPad d (dIndex d 0) = false := by simp [h.index, dIsPad, h.cnt]

theorem OneElem.addr : dAddr d (dIndex d 0) = va := by
  have hva := h.base_lt
  simp only [h.index, dAddr, h.base, wrapInt]
  simp
  omega

theorem OneElem.remotePos : dRemotePos d 0 = 0 := by
  simp only [dRemotePos, h.perm, h.exts]
  rfl

theorem OneElem.localPos : dLocalPos d 0 = 0 := by
  simp only [dLocalPos, h.perm, h.exts]
  rfl

theorem OneElem.interior : interiorPos d 0 = 0 := by simp [interiorPos, h.index, undigits, List.range_succ]

end

/-! ### What it moves -/

theorem joinRuns_of_block {a n : Nat} (hn : 0 < n) (ha : a % 64 + n ≤ 64) : joinRuns [(a, n)] = [(a, n)] := by
  simp [joinRuns, blocks64_of_block hn ha]

theorem joinWrites_of_block {a : Nat} {bs : List Byte} (hn : 0 < bs.length) (ha : a % 64 + bs.length ≤ 64) :
    joinWrites [(a, bs)] = [(a, bs)] := by
  simp [joinWrites, joinRuns_of_block hn ha, slice_self]

theorem convElem_elemOf_same {f : Fmt} {bs : List Byte} (cvt : Nat) (hbs : bs.length = f.bytes) :
    convElem f f cvt (elemOf f bs) = (bs, Events.none) := by
  simp [convElem, elemOf, ← hbs, leBytes_leNat]

theorem allRead_map_some (bs : List Byte) : allRead (bs.map some) = some bs := by
  simp [allRead]

section
variable {d va loc : Nat} {store : Bool} {bs : List Byte} (h : OneElem d va loc store)
include h

theorem OneElem.loadRuns_eq : loadRuns d .fp32 = [(va, 4)] := by
  have hrange : List.range 1 = [0] := rfl
  simp [loadRuns, Fmt.isMX, h.total, hrange, h.inner, h.addr, Fmt.bytes, Fmt.bits]

theorem OneElem.loadParts_eq (els : List (Option Elem)) : loadParts d .fp32 .fp32 els =
    [⟨0, 4, (els.getD 0 none).map (fun x => (convElem .fp32 .fp32 (dCvt d) x).1), Events.none⟩] := by
  have hrange : List.range 1 = [0] := rfl
  have hlocal : localElems d els = [some (els.getD 0 none)] := by
    simp [localElems, h.total, hrange, h.remotePos, h.inner, h.interior]
  generalize els.getD 0 none = e at hlocal ⊢
  cases e <;> simp [loadParts, Fmt.isMX, hlocal, convElem, Fmt.bytes, Fmt.bits]

theorem OneElem.localRuns_eq : localRuns d .fp32 = [(0, 4)] := by
  have hrange : List.range 1 = [0] := rfl
  simp [localRuns, Fmt.isMX, h.total, hrange, h.remotePos, h.inner, Fmt.bytes, Fmt.bits]

theorem OneElem.storeRuns_eq (hbs : bs.length = 4) :
    storeRuns d .fp32 .fp32 (storeElems d .fp32 bs) = ([(va, bs)], Events.none) := by
  have hrange : List.range 1 = [0] := rfl
  have hslice : slice bs 0 4 = bs := hbs ▸ slice_self bs
  have hconv := convElem_elemOf_same (f := .fp32) (dCvt d) hbs
  have hels : storeElems d .fp32 bs = [elemOf .fp32 bs] := by
    simp [storeElems, Fmt.isMX, h.total, hrange, Fmt.bytes, Fmt.bits, hslice]
  simp [storeRuns, Fmt.isMX, h.total, hrange, h.inner, h.addr, h.localPos, hels, hconv, Events.add, Events.none]

end

theorem loadElems_of_read {bs : List Byte} (d : Nat) (hbs : bs.length = 4) : loadElems d .fp32 (bs.map some) = [some (elemOf .fp32 bs)] := by
  have hrange : List.range 1 = [0] := rfl
  have htake : (bs.map some).take 4 = bs.map some := List.take_of_length_le (by simp [hbs])
  simp [loadElems, Fmt.isMX, Fmt.bytes, Fmt.bits, hbs, hrange, htake, allRead_map_some]

end Sys2Proof.Machine
end

section
/-!
Transfers in flight, and how they leave the engine: with their tag done, or in error after a fault (07_streams_layout R162, R180).
-/
namespace Sys2Proof.Machine

/-! ### Transfers in flight (07_streams_layout R162, R180) -/

/-- The one transfer `x` of a core has started by the descriptor `d` and its data have still to move. -/
structure State.Moves (s : State) (die core tag d : Nat) (x : Xfer) : Prop where
  xfers : (s.core die core).xfers = [x]
  desc : x.desc = some d
  started : x.started = true
  moved : x.moved = false
  held : x.held = []
  tag : dTag d = tag

theorem dTag_lt (d : Nat) : dTag d < 256 := Nat.mod_lt _ (by decide)

section
variable {s t : State} {die core tag d : Nat} {x : Xfer} (h : s.Moves die core tag d x)
include h

theorem State.Moves.tag_lt : tag < 256 := h.tag ▸ dTag_lt d

theorem State.Moves.congr (hcores : t.cores = s.cores) : t.Moves die core tag d x :=
  { h with xfers := (congrArg CoreSt.xfers (State.core_congr hcores die core)).trans h.xfers }

/-- The transfer is found by its tag. -/
theorem State.Moves.xferOf : (s.core die core).xferOf (tag % 256) = some (0, x) := by
  rw [Nat.mod_eq_of_lt h.tag_lt]
  simp [CoreSt.xferOf, h.xfers, h.started, h.moved, h.held, h.desc, h.tag]

end

theorem State.core_recordTag_of_out {s : State} {die core tag : Nat} (err : Nat) (h : mget (s.core die core).tags tag .free = .out) :
    (s.recordTag die core tag err).core die core =
      { s.core die core with tags := mset .free (s.core die core).tags tag (if err = 0 then .done else .err (haltCause err)) } := by
  simp [State.recordTag, h]

theorem State.xfers_recordTag (s : State) (die core tag err : Nat) :
    ((s.recordTag die core tag err).core die core).xfers = (s.core die core).xfers := by
  unfold State.recordTag
  simp only []
  split <;> simp

theorem State.xfers_returnTag (s : State) (die core tag err : Nat) :
    ((s.returnTag die core tag err).core die core).xfers = (s.core die core).xfers := by
  unfold State.returnTag
  split
  case isTrue =>
    have hkept := (s.recordTag die core tag err).mayMiss_frame die core 1 tag
    rw [State.core_congr (hkept .cores (by simp)), State.xfers_recordTag]
  case isFalse => rfl

/-- The core's transfer is over: none is in flight, and its tag has come back as `r`. -/
def State.Freed (t : State) (die core tag : Nat) (r : TagSt) : Prop :=
  (t.core die core).xfers = [] ∧ mget (t.core die core).tags tag .free = r

theorem State.Freed.congr {s t : State} {die core tag : Nat} {r : TagSt} (h : s.Freed die core tag r) (hcores : t.cores = s.cores) :
    t.Freed die core tag r := by
  rw [State.Freed, State.core_congr hcores]
  exact h

/-- The tag of a transfer that has left the list returns. -/
theorem State.freed_returnTag {s : State} {die core tag : Nat} (err : Nat) (hx : (s.core die core).xfers = [])
    (htag : mget (s.core die core).tags tag .free = .out) :
    (s.returnTag die core tag err).Freed die core tag (if err = 0 then .done else .err (haltCause err)) :=
  ⟨(s.xfers_returnTag die core tag err).trans hx, State.tag_returnTag err htag⟩

/-! ### The end of a transfer (R162, R180) -/

section
variable {s : State} {die core tag d : Nat} {x : Xfer} (h : s.Moves die core tag d x)
include h

theorem State.Moves.endXfer (hbell : ctlBit d 10 = false) (htag : mget (s.core die core).tags tag .free = .out) :
    (s.endXfer die core 0).Freed die core tag .done := by
  have hd : bitsOf d 455 448 = tag := h.tag
  let s1 := (s.setCore die core { s.core die core with xfers := (s.core die core).xfers.eraseIdx 0 }).bump (dmaU die core)
    Reg.DMA_XFERS_COUNT 1
  have hs1 : s1.core die core = { s.core die core with xfers := (s.core die core).xfers.eraseIdx 0 } :=
    State.core_setCore_same _ _ _ _
  have hend : s.endXfer die core 0 = (s1.returnTag die core tag 0).dmaStat die core := by
    simp [State.endXfer, h.xfers, h.desc, hbell, hd, s1]
  have hfreed : (s1.returnTag die core tag 0).Freed die core tag .done :=
    State.freed_returnTag 0 (by rw [hs1, h.xfers]; rfl) (by rw [hs1]; exact htag)
  rw [hend]
  exact hfreed.congr ((State.dmaStat_frame _ die core) .cores (by simp))

/-- A transfer whose data have moved, and that is not the last of a stack's frame, ends. -/
theorem State.Moves.ended (hlast : x.last = false) (hperm : dPerm d = 0) (hbell : ctlBit d 10 = false)
    (htag : mget (s.core die core).tags tag .free = .out) :
    (s.xferMoved die core 0 x).Freed die core tag .done ∧ SameMemBut 0 0 s (s.xferMoved die core 0 x) := by
  refine ⟨?_, fun a _ => (s.xferMoved_frame die core 0 x) .mem (by simp) a⟩
  have hmoved : s.xferMoved die core 0 x = (s.endXfer die core 0).packStat die core := by
    simp [State.xferMoved, State.countSlow, h.desc, hperm, hlast]
  rw [hmoved]
  exact (h.endXfer hbell htag).congr ((State.packStat_frame _ die core) .cores (by simp))

end

/-- The fields that show which transfers are in flight. -/
def xferShows : List Field := [Reg.DMA_STAT_BUSY, Reg.DMA_STAT_TAGS_OUT, Reg.SPK_STAT_BUSY]

/-- A field of a core's engine lies at another place than those. -/
def Field.apart (f : Field) : Bool :=
  decide (f.off < 2 ^ 24) && decide (f.lo < 32) && xferShows.all (fun g => decide (f.off ≠ g.off ∨ f.lo ≠ g.lo))

theorem Field.apart_iff {f : Field} : f.apart = true ↔
    (f.off < 2 ^ 24 ∧ f.lo < 32) ∧ ∀ g ∈ xferShows, f.off ≠ g.off ∨ f.lo ≠ g.lo := by
  simp [Field.apart]

theorem dmaU_ne_of_mod {u : Nat} (die core : Nat) (hu : u % 64 = 0) : dmaU die core ≠ u := by
  simp only [dmaU, unitOf]
  omega

section
variable {f : Field} (hf : f.apart = true) (s : State) (die core : Nat)
include hf

theorem fieldKey_ne_of_xferShows {g : Field} (u : Nat) (hg : g ∈ xferShows) : fieldKey u f ≠ fieldKey u g := by
  obtain ⟨⟨hoff, hlo⟩, hne⟩ := Field.apart_iff.1 hf
  have hplace : ∀ g ∈ xferShows, g.off < 2 ^ 24 ∧ g.lo < 32 := by decide
  exact fieldKey_ne_of_place u ⟨hoff, (hplace g hg).1, hlo, (hplace g hg).2, hne g hg⟩

theorem State.rd_dmaStat : (s.dmaStat die core).rd (dmaU die core) f = s.rd (dmaU die core) f := by
  simp only [State.dmaStat]
  rw [State.rd_wr_other _ _ _ _ _ _ (fieldKey_ne_of_xferShows hf _ (by decide)),
    State.rd_wrB_other _ _ _ _ _ _ (fieldKey_ne_of_xferShows hf _ (by decide))]

theorem State.rd_packStat : (s.packStat die core).rd (dmaU die core) f = s.rd (dmaU die core) f :=
  State.rd_wrB_other _ _ _ _ _ _ (fieldKey_ne_of_xferShows hf _ (by decide))

theorem State.rd_returnTag_dma (tag err : Nat) : (s.returnTag die core tag err).rd (dmaU die core) f = s.rd (dmaU die core) f :=
  s.rd_returnTag die core tag err
    (fieldKey_ne_of_unit _ _ (dmaU_ne_of_mod die core (by simp only [seqU, unitOf]; omega)) (Field.apart_iff.1 hf).1)

theorem State.rd_logEvent_dma (code u d0 d1 d2 d3 : Nat) :
    (s.logEvent code u d0 d1 d2 d3).rd (dmaU die core) f = s.rd (dmaU die core) f := by
  refine s.logEvent_regs code u d0 d1 d2 d3 _ _ fun p hp => ?_
  simp only [logShows, List.mem_cons, List.not_mem_nil, or_false] at hp
  rcases hp with rfl | rfl | rfl | rfl <;>
    exact fieldKey_ne_of_unit _ _ (dmaU_ne_of_mod die core (by decide)) (Field.apart_iff.1 hf).1

end

section
variable {s : State} {die core tag d : Nat} {x : Xfer} {e : XferFault} (h : s.Moves die core tag d x)
  (hmcast : dMcast d = false) (hstack : x.stack = false)
include h hmcast hstack

theorem State.Moves.failXfer : ∃ (q : State) (d1 d2 d3 : Nat), q.core die core = { s.core die core with xfers := [] } ∧
    (∀ f, q.rd (dmaU die core) f = (s.dmaCapture die core e tag x.ring (dStore d) false false).rd (dmaU die core) f) ∧
    s.failXfer die core 0 x e = ((q.returnTag die core tag e.code).dmaStat die core).logEvent e.code (dmaU die core) e.addr d1 d2 d3 := by
  have hd : bitsOf d 455 448 = tag := h.tag
  have hm : ctlBit d 1 = false := hmcast
  have hcore : (s.dmaCapture die core e tag x.ring (ctlBit d 0) false false).core die core = s.core die core := rfl
  simp only [State.failXfer, h.desc, Option.getD_some, hd, hm, hstack, Bool.false_eq_true, if_false, hcore, h.xfers,
    List.eraseIdx_cons_zero]
  exact ⟨_, _, _, _, State.core_setCore_same _ _ _ _, fun f => State.setCore_rd _ _ _ _ _ _, rfl⟩

/-- A transfer that an access has faulted ends with what was captured of the fault, its tag in error. -/
theorem State.Moves.faulted (herr : e.code ≠ 0) (htag : mget (s.core die core).tags tag .free = .out) :
    (s.xferFault die core 0 x e).Freed die core tag (.err (haltCause e.code)) ∧ SameMemBut 0 0 s (s.xferFault die core 0 x e) ∧
      ∀ f : Field, f.apart = true → (s.xferFault die core 0 x e).rd (dmaU die core) f =
        (s.dmaCapture die core e tag x.ring (dStore d) false false).rd (dmaU die core) f := by
  have hfault : s.xferFault die core 0 x e = (s.failXfer die core 0 x e).packStat die core := by
    simp [State.xferFault, h.desc, hmcast, forEach]
  obtain ⟨q, d1, d2, d3, hcore, hrd, hfail⟩ := h.failXfer hmcast hstack (e := e)
  have hfreed := State.freed_returnTag (s := q) (die := die) (core := core) (tag := tag) e.code (by rw [hcore]) (by rw [hcore]; exact htag)
  rw [if_neg herr] at hfreed
  refine ⟨?_, fun a _ => ?_, fun f hf => ?_⟩
  · rw [hfault, hfail]
    have hcores : SameBut [.regs, .log, .sb] (q.returnTag die core tag e.code)
        ((((q.returnTag die core tag e.code).dmaStat die core).logEvent e.code (dmaU die core) e.addr d1 d2 d3).packStat die core) := by
      simp
    exact hfreed.congr (hcores .cores (by simp))
  · rw [hfault]
    exact ((State.packStat_frame _ die core) .mem (by simp) a).trans ((s.failXfer_frame die core 0 x e) .mem (by simp) a)
  · rw [hfault, State.rd_packStat hf, hfail, State.rd_logEvent_dma hf, State.rd_dmaStat hf, State.rd_returnTag_dma hf, hrd]
end

end Sys2Proof.Machine
end

section
/-!
The commands of the DMA engine that reach no virtual memory of their own: the start of a transfer, the last copy of a multicast, a
tag's return, and a tile whose data are at hand (07_streams_layout R174, R177; 04_weight_sparsity R110, R111; 09_core_sequencer R228).
-/
namespace Sys2Proof.Machine

/-! ### Vote flags and the registers of the engine (12_update_and_fixer R300) -/

theorem State.flagEvent_regs (s : State) (u flag code : Nat) : SameRegsBut logShows s (s.flagEvent u flag code) := by
  unfold State.flagEvent
  extract_lets s1
  split
  case isTrue => exact .of_self _ s
  case isFalse => exact State.pushEntry_regs _ _

theorem SameRegsBut.through {l : List (Nat × Field)} {s t r : State} (h : SameRegsBut l s t) (k : SameRegsBut l t r) :
    SameRegsBut l s r := fun u f hf => (k u f hf).trans (h u f hf)

theorem State.addEvents_regs (s : State) (u layer : Nat) (ev : Events) : SameRegsBut logShows s (s.addEvents u layer ev) := by
  unfold State.addEvents
  extract_lets s1 s2
  have h1 : SameRegsBut logShows s s1 := by
    unfold s1
    split
    · exact .of_self _ s
    · exact s.flagEvent_regs u _ _
  have h2 : SameRegsBut logShows s1 s2 := by
    unfold s2
    split
    · exact .of_self _ s1
    · exact s1.flagEvent_regs u _ _
  have hcount (t : State) (off len n : Nat) : SameRegsBut logShows t (t.ltAdd layer off len n) := fun v f _ =>
    t.ltAdd_frame layer off len n .regs (by simp) v f
  exact (((h1.through h2).through (hcount _ _ _ _)).through (hcount _ _ _ _)).through (hcount _ _ _ _)

/-- A field of a core's engine is none that a log entry writes. -/
theorem SameRegsBut.dma {s t : State} (h : SameRegsBut logShows s t) (die core : Nat) {f : Field} (hf : f.off < 2 ^ 24 ∧ f.lo < 32) :
    t.rd (dmaU die core) f = s.rd (dmaU die core) f := by
  refine h _ _ fun p hp => ?_
  simp only [logShows, List.mem_cons, List.not_mem_nil, or_false] at hp
  rcases hp with rfl | rfl | rfl | rfl <;> exact fieldKey_ne_of_unit _ _ (dmaU_ne_of_mod die core (by decide)) hf

/-- Conversion events are counted in the engine's three counters of them alone (R171). -/
theorem State.rd_dmaEvents (s : State) (die core ring : Nat) (ev : Events) {f : Field} (hf : f.off < 2 ^ 24 ∧ f.lo < 32)
    (hne : ∀ g ∈ [Reg.DMA_CLAMP_COUNT, Reg.DMA_NONFIN_COUNT, Reg.DMA_QSAT_COUNT], f.off ≠ g.off ∨ f.lo ≠ g.lo) :
    (s.dmaEvents die core ring ev).rd (dmaU die core) f = s.rd (dmaU die core) f := by
  have hplace : ∀ g ∈ [Reg.DMA_CLAMP_COUNT, Reg.DMA_NONFIN_COUNT, Reg.DMA_QSAT_COUNT], g.off < 2 ^ 24 ∧ g.lo < 32 := by decide
  have hother {g : Field} (hg : g ∈ [Reg.DMA_CLAMP_COUNT, Reg.DMA_NONFIN_COUNT, Reg.DMA_QSAT_COUNT]) :
      fieldKey (dmaU die core) f ≠ fieldKey (dmaU die core) g :=
    fieldKey_ne_of_place _ ⟨hf.1, (hplace g hg).1, hf.2, (hplace g hg).2, hne g hg⟩
  rw [State.dmaEvents, (State.addEvents_regs _ _ _ _).dma die core hf, State.rd_bump_other _ _ _ _ _ _ (hother (by simp)),
    State.rd_bump_other _ _ _ _ _ _ (hother (by simp)), State.rd_bump_other _ _ _ _ _ _ (hother (by simp))]

/-- Data without conversion events change no byte of the layer table. -/
theorem State.dmaEvents_none_frame (s : State) (die core ring : Nat) : SameBut [.regs] s (s.dmaEvents die core ring Events.none) := by
  simp [State.dmaEvents, State.addEvents, Events.none, State.ltAdd_zero]

/-! ### A transfer starts (R177) -/

theorem State.xfers_setXfer {s : State} {die core : Nat} {x : Xfer} (h : (s.core die core).xfers = [x]) (y : Xfer) :
    ((s.setXfer die core 0 y).core die core).xfers = [y] := by
  simp [State.setXfer, h]

/-- The descriptors of a ring that have arrived, less those that start. -/
theorem State.rd_ringNext (s : State) (die core n : Nat) {r : Nat} (hr : r < 8) :
    (s.ringNext die core r n).rd (dmaU die core) (Reg.RING_POS_AHEAD r) =
      (s.rd (dmaU die core) (Reg.RING_POS_AHEAD r) - n) % 2 ^ 6 := by
  have hkey : fieldKey (dmaU die core) (Reg.RING_POS_AHEAD r) ≠ fieldKey (dmaU die core) (Reg.RING_POS_NEXT r) :=
    fieldKey_ne_of_place _ (by simp only [Reg.RING_POS_AHEAD, Reg.RING_POS_NEXT]; omega)
  have hwidth : (Reg.RING_POS_AHEAD r).width = 6 := rfl
  simp only [State.ringNext, State.rd_wr_same, hwidth]
  split
  · rfl
  · rw [State.rd_wr_other _ _ _ _ _ _ hkey]

theorem Reg.ringPosAhead_apart {r : Nat} (hr : r < 8) : (Reg.RING_POS_AHEAD r).apart = true := by
  have hall : ∀ k, k < 8 → (Reg.RING_POS_AHEAD k).apart = true := by decide
  exact hall r hr

theorem dmaTransferStart_yields {s : State} {die core r d n : Nat} (hr : r < 8) (hn : n < 32)
    (hx : (s.core die core).xfers = [{ ring := r, desc := some d }]) (hahead : s.rd (dmaU die core) (Reg.RING_POS_AHEAD r) = n + 1) :
    Yields (.dmaTransferStart die core) s (fun t => (t.core die core).xfers = [{ ring := r, desc := some d, started := true }] ∧
      t.rd (dmaU die core) (Reg.RING_POS_AHEAD r) = n ∧ SameMemBut 0 0 s t) := by
  let s1 := s.setCore die core { s.core die core with xfers := [{ ring := r, desc := some d, started := true }] }
  have hexec : exec (.dmaTransferStart die core) s = done ((s1.ringNext die core r 1).packStat die core) := by
    change execDmaTransferStart die core s = _
    simp [execDmaTransferStart, hx, s1]
  have hs1 : s1.core die core = _ := State.core_setCore_same _ _ _ _
  have hframe : SameBut [.regs] s1 ((s1.ringNext die core r 1).packStat die core) := by simp
  refine .of_done hexec ⟨?_, ?_, SameMemBut.canon.2 fun a _ => hframe .mem (by simp) a⟩
  · rw [State.canon_core, State.core_congr (hframe .cores (by simp)), hs1]
  · rw [State.canon_rd, State.rd_packStat (Reg.ringPosAhead_apart hr)]
    have hahead1 : s1.rd (dmaU die core) (Reg.RING_POS_AHEAD r) = n + 1 := hahead
    rw [State.rd_ringNext _ _ _ _ hr, hahead1, Nat.add_sub_cancel, Nat.mod_eq_of_lt (by omega)]

/-! ### The last copy of a multicast, and tags that return (R174; 09_core_sequencer R228) -/

theorem dmaTransferComplete_multicast_yields {s : State} {die core tag d : Nat} {x : Xfer} (h : s.Moves die core tag d x)
    (hlast : x.last = false) (hmcast : dMcast d = true) (hpack : dPack d = false) (hexpand : dExpand d = false)
    (hfmt : dFmt d = some .fp32) (hcvt : dCvtFmt d = some .fp32) (hperm : dPerm d = 0) (hbell : ctlBit d 10 = false)
    (hcopies : ∀ k, k < (s.mcastLeaves die core d).length → k ∈ x.copies)
    (htag : mget (s.core die core).tags tag .free = .out) :
    Yields (.dmaTransferComplete die core tag []) s (fun t => (t.core die core).xfers = [] ∧
      mget (t.core die core).tags tag .free = .done ∧ SameMemBut 0 0 s t) := by
  have hexec : exec (.dmaTransferComplete die core tag []) s = done (s.xferMoved die core 0 x) := by
    change execDmaTransferComplete die core tag [] s = _
    have hup : s.upset [] = s := rfl
    have hall : (List.range (s.mcastLeaves die core d).length).all (fun k => x.copies.contains k) = true := by simpa using hcopies
    simp only [execDmaTransferComplete, hup, h.xferOf, h.desc, Option.getD_some, hfmt, hcvt, hpack, hexpand, hmcast, hall]
    rfl
  obtain ⟨⟨hxfers, hdone⟩, hmem⟩ := h.ended hlast hperm hbell htag
  exact .of_done hexec ⟨hxfers, hdone, SameMemBut.canon.2 hmem⟩

/-- A tag that is out is recorded done, whatever near miss its recording counts. -/
theorem State.recordTag_nearMiss {s : State} {die core tag : Nat} (period : Nat)
    (htag : mget (s.core die core).tags tag .free = .out) :
    (((s.recordTag die core tag 0).nearMiss die core 1 tag period).core die core =
      { s.core die core with tags := mset .free (s.core die core).tags tag .done }) ∧
      (∀ a, Memory.get ((s.recordTag die core tag 0).nearMiss die core 1 tag period).mem a = Memory.get s.mem a) ∧
      ((s.recordTag die core tag 0).nearMiss die core 1 tag period).out = s.out := by
  have hmiss := (s.recordTag die core tag 0).nearMiss_frame die core 1 tag period
  have hrecord := s.recordTag_frame die core tag 0
  refine ⟨?_, fun a => (hmiss .mem (by simp) a).trans (hrecord .mem (by simp) a), ?_⟩
  · rw [State.core_congr (hmiss .cores (by simp)), State.core_recordTag_of_out 0 htag]
    rfl
  · have hout : (s.recordTag die core tag 0).out = s.out := by
      rw [State.recordTag, htag]
      rfl
    rw [← hout, State.nearMiss]
    split <;> rfl

theorem tagReturn_yields {s : State} {die core tag : Nat} (hlt : tag < 256) (hloads : (s.core die core).iloads = [])
    (htag : mget (s.core die core).tags tag .free = .out) :
    Yields (.tagReturn die core tag 0 0 []) s (fun t => mget (t.core die core).tags tag .free = .done ∧ SameMemBut 0 0 s t ∧
      t.out = s.out) := by
  have hexec : exec (.tagReturn die core tag 0 0 []) s = done ((s.recordTag die core tag 0).nearMiss die core 1 tag 0) := by
    change execTagReturn die core tag 0 0 [] s = _
    have hup : s.upset [] = s := rfl
    simp only [execTagReturn, hup, hloads, List.find?_nil, Nat.mod_eq_of_lt hlt, htag]
    rfl
  obtain ⟨hcore, hmem, hout⟩ := State.recordTag_nearMiss 0 htag
  refine .of_done hexec ⟨?_, SameMemBut.canon.2 fun a _ => hmem a, hout⟩
  rw [State.canon_core, hcore, mget_mset_same]

/-! ### Tiles of a pack and of an expand transfer (04_weight_sparsity R110, R111) -/

section
variable {s s1 s2 : State} {die core tag d : Nat} {x : Xfer} (h : s.Moves die core tag d x) (htiles : x.tiles < dCnt d 2)
include h htiles

theorem packTileWrite_yields {st : PackStep} {held : List (Nat × Nat)} (hpack : dPack d = true)
    (hnext : s.asIssued x (fun v => v.packNext (s.dmaAgent die core) die core d 0 x) = (s1, some st, none))
    (hwrite : s1.writeRuns (s.dmaAgent die core) 0 (joinWrites [((dBase d + x.pos) % 2 ^ 64, st.tile)]) = (s2, held, none))
    (hx : (s2.core die core).xfers = [x]) :
    Yields (.packTileWrite die core tag []) s (fun t =>
      (t.core die core).xfers = [{ x with tiles := x.tiles + 1, pos := x.pos + st.stride }] ∧
      t.rd (dmaU die core) Reg.SPK_TILES_COUNT = Nat.min (s2.rd (dmaU die core) Reg.SPK_TILES_COUNT + 1) (2 ^ 32 - 1)) := by
  let s3 := (((s2.bump (dmaU die core) Reg.SPK_TILES_COUNT 1).bump (dmaU die core) Reg.SPK_OVERFULL_COUNT st.ovr).bump
    (dmaU die core) Reg.SPK_CAPDROP_COUNT st.drops).dmaEvents die core x.ring st.ev
  let s4 := s3.addIrreg (s3.rd (dmaU die core) (Reg.RING_CFG_LAYER x.ring)) (st.ovr + st.drops)
  have hexec : exec (.packTileWrite die core tag []) s =
      done (s4.setXfer die core 0 { x with tiles := x.tiles + 1, pos := x.pos + st.stride }) := by
    change execPackTileWrite die core tag [] s = _
    have hup : s.upset [] = s := rfl
    simp only [execPackTileWrite, hup, h.xferOf, h.desc, Option.getD_some, hpack, hnext, hwrite, Bool.not_true, Bool.false_or,
      decide_eq_true_eq, if_neg (Nat.not_le.2 htiles)]
    rfl
  have hs3 : SameBut [.regs, .mem, .ecc, .log, .sb, .fix] s2 s4 := by
    simp only [s4, s3, SameBut.addIrreg, List.mem_cons, true_or, or_true]
    exact SameBut.through (by simp) ((State.dmaEvents_frame _ die core x.ring st.ev).widen (by decide))
  refine .of_done hexec ⟨?_, ?_⟩
  · rw [State.canon_core]
    exact State.xfers_setXfer ((congrArg CoreSt.xfers (State.core_congr (hs3 .cores (by simp)) die core)).trans hx) _
  · rw [State.canon_rd, (State.setXfer_frame _ die core 0 _) .regs (by simp), (State.addIrreg_frame _ _ _) .regs (by simp),
      State.rd_dmaEvents _ die core x.ring st.ev (by decide) (by decide),
      State.rd_bump_other _ _ _ _ _ _ (fieldKey_ne_of_place _ (by decide)),
      State.rd_bump_other _ _ _ _ _ _ (fieldKey_ne_of_place _ (by decide)), State.rd_bump_same]
    rfl

theorem expandTile_yields {off size : Nat} {bs : List Byte} (hexpand : dExpand d = true)
    (hnext : s.asIssued x (fun v => v.expandNext (s.dmaAgent die core) d 0 x) = (s1, some (off, bs, size, Events.none), none))
    (hwrite : s1.localWrite (s.unitAddr (dmaU die core)) die core off bs = (s2, none)) (hx : (s2.core die core).xfers = [x]) :
    Yields (.expandTile die core tag []) s (fun t =>
      (t.core die core).xfers = [{ x with tiles := x.tiles + 1, pos := x.pos + size }] ∧
      ∀ a, Memory.get t.mem a = Memory.get s2.mem a) := by
  have hexec : exec (.expandTile die core tag []) s =
      done ((s2.dmaEvents die core x.ring Events.none).setXfer die core 0 { x with tiles := x.tiles + 1, pos := x.pos + size }) := by
    change execExpandTile die core tag [] s = _
    have hup : s.upset [] = s := rfl
    have hsrc : (s.dmaAgent die core).src = s.unitAddr (dmaU die core) := rfl
    simp only [execExpandTile, hup, h.xferOf, h.desc, Option.getD_some, hexpand, hnext, hsrc, hwrite, Bool.not_true, Bool.false_or,
      decide_eq_true_eq, if_neg (Nat.not_le.2 htiles)]
  have hevents := s2.dmaEvents_none_frame die core x.ring
  refine .of_done hexec ⟨?_, fun a => ?_⟩
  · rw [State.canon_core]
    exact State.xfers_setXfer ((congrArg CoreSt.xfers (State.core_congr (hevents .cores (by simp)) die core)).trans hx) _
  · rw [State.canon_get]
    exact (State.setXfer_frame _ die core 0 _ .mem (by simp) a).trans (hevents .mem (by simp) a)

end

end Sys2Proof.Machine
end

section
/-!
A transfer whose first access faults (07_streams_layout R180).
-/
namespace Sys2Proof.Machine

/-! ### A load whose first access faults (07_streams_layout R180) -/

/-- The accesses of some runs begin where the first of them does. -/
theorem joinRuns_head (a : Nat) {n : Nat} (hn : 0 < n) (runs : List (Nat × Nat)) : ∃ k l, joinRuns ((a, n) :: runs) = (a, k) :: l := by
  obtain ⟨m, rest, hblocks⟩ : ∃ m rest, blocks64 (n + 1) a n = (a, m) :: rest := by
    simp [blocks64, Nat.pos_iff_ne_zero.1 hn]
  suffices hlast : ∃ k, (joinRuns ((a, n) :: runs)).head? = some (a, k) by
    obtain ⟨k, hk⟩ := hlast
    exact ⟨k, List.head?_eq_some_iff.1 hk⟩
  simp only [joinRuns, List.flatMap_cons, hblocks, List.cons_append, List.foldl_cons, List.head?_reverse]
  refine List.foldlRecOn (motive := fun acc : List (Nat × Nat) => ∃ k, acc.getLast? = some (a, k)) _ _ ⟨m, rfl⟩ fun acc hacc r _ => ?_
  obtain ⟨k, hk⟩ := hacc
  match acc with
  | [] => simp at hk
  | x :: rest =>
    simp only []
    split
    · cases rest with
      | nil =>
        obtain rfl : x = (a, k) := by simpa using hk
        exact ⟨_, rfl⟩
      | cons y l => exact ⟨k, by simpa using hk⟩
    · exact ⟨k, by simpa using hk⟩

theorem mem_of_mem_rotate {α : Type} {k : Nat} {l : List α} {x : α} (h : x ∈ rotate k l) : x ∈ l := by
  simp only [rotate] at h
  split at h
  · exact h
  · exact (List.mem_append.1 h).elim List.mem_of_mem_drop List.mem_of_mem_take

theorem rotate_zero {α : Type} (l : List α) : rotate 0 l = l := by simp [rotate]

section
variable {s t : State} {ag : Agent} {need remote a k : Nat} {l : List (Nat × Nat)} {r : Ans}
  (hacc : s.remoteAcc ag need remote a none k = (t, r)) (herr : r.err ≠ 0)
include hacc herr

/-- Reads of which the first faults read nothing. -/
theorem State.readRuns_of_fault :
    ∃ got, s.readRuns ag need remote ((a, k) :: l) = (t, got, some ⟨r.err, a, false⟩) ∧ ∀ g ∈ got, g = none := by
  simp only [State.readRuns, List.foldl_cons, hacc, if_neg herr]
  suffices hrest : ∀ q : State × List (Option (List Byte)) × Option XferFault,
      (q.1 = t ∧ q.2.2 = some ⟨r.err, a, false⟩) ∧ (∀ g ∈ q.2.1, g = none) →
      ∃ got, q = (t, got, some ⟨r.err, a, false⟩) ∧ ∀ g ∈ got, g = none by
    refine hrest _ (List.foldlRecOn (motive := fun q : State × List (Option (List Byte)) × Option XferFault =>
      (q.1 = t ∧ q.2.2 = some ⟨r.err, a, false⟩) ∧ ∀ g ∈ q.2.1, g = none) _ _ (by simp) ?_)
    rintro ⟨s1, got, flt⟩ ⟨⟨rfl, rfl⟩, hgot⟩ b _
    refine ⟨⟨rfl, rfl⟩, fun g hg => ?_⟩
    exact (List.mem_append.1 hg).elim (hgot g) (by simp)
  rintro ⟨s1, got, flt⟩ ⟨⟨rfl, rfl⟩, hgot⟩
  exact ⟨got, rfl, hgot⟩

theorem State.readAll_of_fault :
    ∃ bytes, s.readAll ag need remote 0 ((a, k) :: l) = (t, bytes, some ⟨r.err, a, false⟩) ∧ ∀ b ∈ bytes, b = none := by
  obtain ⟨got, hreads, hgot⟩ := State.readRuns_of_fault (l := l) hacc herr
  simp only [State.readAll, rotate_zero, hreads, List.length_cons, Nat.add_one_ne_zero, if_false]
  refine ⟨_, rfl, fun b hb => ?_⟩
  obtain ⟨⟨g, acc⟩, hmem, hb⟩ := List.mem_flatMap.1 hb
  obtain rfl : g = none := hgot g (mem_of_mem_rotate (List.of_mem_zip hmem).1)
  exact List.eq_of_mem_replicate hb

end

/-- Bytes of which none was read give no element. -/
theorem loadElems_of_unread (d : Nat) {bytes : List (Option Byte)} (h : ∀ b ∈ bytes, b = none) :
    (loadElems d .fp32 bytes).getD 0 none = none := by
  simp only [loadElems, Fmt.isMX, Bool.false_eq_true, if_false, List.getD_eq_getElem?_getD, List.getElem?_map]
  cases hlen : bytes.length / Fmt.fp32.bytes with
  | zero => simp
  | succ m =>
    cases bytes with
    | nil => simp [Fmt.bytes] at hlen
    | cons b rest =>
      obtain rfl := h b (by simp)
      simp [allRead, Fmt.bytes, Fmt.bits]

/-- An address that is not canonical has no target (08_data_and_memory, Table 8-5). -/
theorem State.remoteAcc_of_not_canonical {s : State} {ag : Agent} {va : Nat} (need remote n : Nat) (data : Option (List Byte))
    (h : canonical va = false) :
    s.remoteAcc ag need remote va data n = (s.tuFault ag.die ag.code va 3 eXLATE, .bad eXLATE) := by
  have herr : eXLATE ≠ 0 := by decide
  simp [State.remoteAcc, State.translate, h, herr]

/-- The load of one element from such an address reads nothing. -/
theorem OneElem.loadData_of_not_canonical {s : State} {ag : Agent} {d va loc : Nat} (h : OneElem d va loc false)
    (hva : canonical va = false) :
    s.loadData ag d 0 0 = (s.tuFault ag.die ag.code va 3 eXLATE, [⟨0, 4, none, Events.none⟩], some ⟨eXLATE, va, false⟩) := by
  obtain ⟨k, l, hruns⟩ := joinRuns_head va (n := 4) (by decide) []
  obtain ⟨bytes, hread, hnone⟩ := State.readAll_of_fault (l := l)
    (State.remoteAcc_of_not_canonical (s := s) (ag := ag) permRead 0 k none hva) (by decide)
  have hmx : stripFault d .fp32 = none := rfl
  simp only [State.loadData, h.fmt, h.cvtFmt, h.mcast, hmx, h.loadRuns_eq, hruns, Bool.false_eq_true, if_false, hread, h.loadParts_eq,
    loadElems_of_unread d hnone, Option.map_none]
  rfl

/-- What a capture of an address that has no target shows. -/
theorem State.dmaCapture_shows (s : State) (die core tag ring va : Nat) (store : Bool) (htag : tag < 256) (hva : va < 2 ^ 64) :
    let t := s.dmaCapture die core ⟨eXLATE, va, false⟩ tag ring store false false
    t.rd (dmaU die core) Reg.DMA_STAT_FAULTED = 1 ∧ t.rd (dmaU die core) Reg.DMA_FADDR_LO_ADDR = va ∧
      t.rd (dmaU die core) Reg.DMA_FINFO_CAUSE = 1 ∧ t.rd (dmaU die core) Reg.DMA_FINFO_TAG = tag := by
  have hcause : [eXLATE, ePROT, eECC_UE, ePACK_OVERFULL, eALIGN, eBUSY, eLINK_DOWN, ePARTNER, eMBX_ABORTED].findIdx?
      (fun c => c == eXLATE) = some 0 := by decide
  have hkept (t : State) {f g : Field} (v : Nat)
      (h : f.off < 2 ^ 24 ∧ g.off < 2 ^ 24 ∧ f.lo < 32 ∧ g.lo < 32 ∧ (f.off ≠ g.off ∨ f.lo ≠ g.lo)) :
      (t.wr (dmaU die core) g v).rd (dmaU die core) f = t.rd (dmaU die core) f :=
    State.rd_wr_other _ _ _ _ _ _ (fieldKey_ne_of_place _ h)
  simp only [State.dmaCapture, hcause, State.wrB]
  refine ⟨?_, ?_, ?_, ?_⟩ <;> simp (disch := decide) only [hkept, State.rd_wr_same]
  · rfl
  · exact Nat.mod_eq_of_lt hva
  · rfl
  · exact Nat.mod_eq_of_lt htag

theorem dmaAccessFault_yields {s : State} {die core tag r va d : Nat} (htag : tag < 256) (hcanon : canonical va = false)
    (hva : va < 2 ^ 64) (hx : (s.core die core).xfers = [{ ring := r, desc := some d, started := true }])
    (hout : mget (s.core die core).tags tag .free = .out) (h : OneElem d va 0 false) (hd : dTag d = tag) :
    Yields (.dmaAccessFault die core tag 0 0 []) s (fun t => t.rd (dmaU die core) Reg.DMA_STAT_FAULTED = 1 ∧
      t.rd (dmaU die core) Reg.DMA_FADDR_LO_ADDR = va ∧ t.rd (dmaU die core) Reg.DMA_FINFO_CAUSE = 1 ∧
      t.rd (dmaU die core) Reg.DMA_FINFO_TAG = tag ∧ (t.core die core).xfers = [] ∧
      mget (t.core die core).tags tag .free = .err 4 ∧ SameMemBut 0 0 s t) := by
  let x : Xfer := { ring := r, desc := some d, started := true }
  let s1 : State := s.tuFault die 0 va 3 eXLATE
  have hmoves : s.Moves die core tag d x := ⟨hx, rfl, rfl, rfl, rfl, hd⟩
  have hframe : SameBut [.regs] s s1 := s.tuFault_frame die 0 va 3 eXLATE
  have hissued : s.asIssued x (fun v => v.loadData (s.dmaAgent die core) d 0 0) =
      (s1, [⟨0, 4, none, Events.none⟩], some ⟨eXLATE, va, false⟩) := by
    simp only [State.asIssued, x, Option.getD_none, List.foldl_nil]
    rw [h.loadData_of_not_canonical hcanon]
    rfl
  have hexec : exec (.dmaAccessFault die core tag 0 0 []) s = done (s1.xferFault die core 0 x ⟨eXLATE, va, false⟩) := by
    change execDmaAccessFault die core tag 0 0 [] s = _
    have hup : s.upset [] = s := rfl
    have hdesc : x.desc = some d := rfl
    have hbuf : x.buf = none := rfl
    simp only [execDmaAccessFault, hup, hmoves.xferOf, hdesc, hbuf, Option.getD_some, h.pack, h.expand, h.dir, h.mcast, hissued,
      Bool.false_eq_true, if_false, forEach, List.foldl_cons, List.foldl_nil]
  have hcode : eXLATE ≠ 0 := by decide
  have hhalt : haltCause eXLATE = 4 := by decide
  have hmoves1 : s1.Moves die core tag d x := hmoves.congr (hframe .cores (by simp))
  have hout1 : mget (s1.core die core).tags tag .free = .out := (State.core_congr (hframe .cores (by simp)) die core) ▸ hout
  obtain ⟨⟨hxfers, herr⟩, hmem, hrd⟩ := hmoves1.faulted h.mcast rfl (e := ⟨eXLATE, va, false⟩) hcode hout1
  obtain ⟨hfaulted, haddr, hcause, hfinfo⟩ := s1.dmaCapture_shows die core tag x.ring va (dStore d) htag hva
  refine .of_done hexec ?_
  simp only [State.canon_rd, State.canon_core, SameMemBut.canon]
  refine ⟨(hrd _ (by decide)).trans hfaulted, (hrd _ (by decide)).trans haddr, (hrd _ (by decide)).trans hcause,
    (hrd _ (by decide)).trans hfinfo, hxfers, hhalt ▸ herr, fun a ha => ?_⟩
  exact (hmem a ha).trans (hframe .mem (by simp) a)

end Sys2Proof.Machine
end

section
/-!
The two ends of a transfer: a run of bytes within a block of a scratchpad, and one within a block of a cached page
(06_scratchpad R139, R144; 07_streams_layout R167; 08_bonded_dram R195).
-/
namespace Sys2Proof.Machine

/-! ### The local end of a transfer (06_scratchpad R139, R144) -/

theorem spSrc_dma (s : State) {die core : Nat} (hdie : die < 24) (hcore : core < 16) : spSrc (s.unitAddr (dmaU die core)) = 1 := by
  have hu : s.unitAddr (dmaU die core) % 65536 = 1024 * die + 64 * core + 2 := by
    simp only [State.unitAddr, dmaU, unitOf]
    omega
  have hd : dieOf (1024 * die + 64 * core + 2) = die := by simp only [dieOf]; omega
  have he : epOf (1024 * die + 64 * core + 2) = 2 := by simp only [epOf]; omega
  simp [spSrc, hu, hd, he, hdie]

section
variable {s : State} {src off : Nat} (die core : Nat) (hsrc : spSrc src = 1)
include hsrc

theorem State.spBar_of_block {n : Nat} (hfit : off + n ≤ spBytes) (hblock : off % 64 + n ≤ 64) : s.spBar src die core off n = 0 := by
  simp [State.spBar, narrow, hsrc, Nat.not_lt.2 hfit, Nat.not_lt.2 hblock]

/-- A write within an aligned block of a scratchpad none of whose words has failed. -/
theorem State.localWrite_of_block {bs : List Byte} (hecc : s.ecc = []) (hn : 0 < bs.length) (hfit : off + bs.length ≤ spBytes)
    (hblock : off % 64 + bs.length ≤ 64) : s.localWrite src die core off bs = (s.putBytes (epAddr (spU die core) off) bs, none) := by
  have hword (w : Nat) : mget s.ecc w 0 = 0 := by simp [hecc, mget]
  simp [State.localWrite, blocks64_of_block hn hblock, State.spBar_of_block die core hsrc hfit hblock, slice_self, State.spAccess,
    hword, forEach, State.spWrite, Ans.ok]

theorem State.localRead_of_block {n : Nat} (hecc : s.ecc = []) (hn : 0 < n) (hfit : off + n ≤ spBytes) (hblock : off % 64 + n ≤ 64) :
    s.localRead src die core off n = (s, some (s.bytesAt (epAddr (spU die core) off) n), none) := by
  simp [State.localRead, blocks64_of_block hn hblock, State.spBar_of_block die core hsrc hfit hblock, State.spAccess, State.spRead,
    State.badWords_of_sound hecc, forEach, Ans.ok]

/-- One run that fills its region. -/
theorem State.localGather_of_block {n : Nat} (hecc : s.ecc = []) (hn : 0 < n) (hfit : off + n ≤ spBytes)
    (hblock : off % 64 + n ≤ 64) : s.localGather src die core off n [(off, n)] =
      (s, some (s.bytesAt (epAddr (spU die core) off) n), none) := by
  simp [State.localGather, State.localRead_of_block die core hsrc hecc hn hfit hblock]

end

/-! ### The remote end of a transfer (07_streams_layout R167; 08_bonded_dram R195) -/

/-- An access that is translated is made. -/
theorem State.remoteAcc_of_target {s t : State} {ag : Agent} {need va ta : Nat} (data : Option (List Byte)) (n : Nat)
    (h : s.translate ag.die ag.code va need = (t, 0, ta)) : s.remoteAcc ag need 0 va data n = t.access ag.src ta data n := by
  unfold State.remoteAcc
  rw [h]
  dsimp only
  rw [if_neg (by decide), if_neg (by simp)]

section
variable {s t : State} {ag : Agent} {need remote a : Nat} {bs : List Byte}

/-- One access that reads. -/
theorem State.readAll_of_read {n : Nat} (hn : bs.length = n) (h : s.remoteAcc ag need remote a none n = (t, .ok bs)) :
    s.readAll ag need remote 0 [(a, n)] = (t, bs.map some, none) := by
  subst hn
  have hbytes : (List.range bs.length).map (fun k => some (bs.getD k 0)) = bs.map some :=
    List.ext_getElem (by simp) fun k hk _ => by simp at hk; simp [hk]
  have hread : s.readRuns ag need remote [(a, bs.length)] = (t, [some bs], none) := by
    simp only [State.readRuns, List.foldl_cons, List.foldl_nil, h]
    rfl
  simp only [State.readAll, rotate_zero, hread, List.length_cons, List.length_nil]
  simpa [rotate] using hbytes

/-- One access that writes, which nothing holds open. -/
theorem State.writeRuns_of_write (h : s.remoteAcc ag permWrite remote a (some bs) bs.length = (t, .ok)) :
    s.writeRuns ag remote [(a, bs)] = (t, [], none) := by
  simp only [State.writeRuns, List.foldl_cons, List.foldl_nil, h]
  rfl

end

section
variable {s : State} {w : PageMap} {i n need : Nat} {ag : Agent} (h : s.Paged w) (hag : ag.die = w.die) (hi : i < 2 ^ 21)
include h hag hi

theorem State.Paged.remoteAcc (data : Option (List Byte)) (hn : i + n ≤ 2 ^ 21) (hneed : entryAllows w.e need = true) :
    ∃ t, s.remoteAcc ag need 0 (w.va i) data n = t.served (w.byte i) data n ∧ s.Sees t w := by
  obtain ⟨s1, t, ta, htr, hacc, hsees⟩ := h.access (n := n) ag data hi hn hneed
  exact ⟨t, (State.remoteAcc_of_target data n (hag.symm ▸ htr)).trans hacc, hsees⟩

theorem State.Paged.readAll (hn : i + n ≤ 2 ^ 21) (hneed : entryAllows w.e need = true) :
    ∃ t, s.readAll ag need 0 0 [(w.va i, n)] = (t, (s.bytesAt (w.byte i) n).map some, none) ∧ s.Sees t w := by
  obtain ⟨t, hacc, hsees⟩ := h.remoteAcc hag hi none hn hneed
  rw [State.served, hsees.bytesAt] at hacc
  exact ⟨t, State.readAll_of_read (State.bytesAt_length _ _ _) hacc, hsees⟩

theorem State.Paged.writeRuns {bs : List Byte} (hn : i + bs.length ≤ 2 ^ 21) (hneed : entryAllows w.e permWrite = true) :
    ∃ t, s.writeRuns ag 0 [(w.va i, bs)] = (t.putBytes (w.byte i) bs, [], none) ∧ s.Sees t w := by
  obtain ⟨t, hacc, hsees⟩ := h.remoteAcc hag hi (some bs) hn hneed
  exact ⟨t, State.writeRuns_of_write hacc, hsees⟩

end

/-! ### What a transfer of one element reads -/

section
variable {s : State} {w : PageMap} {d i loc : Nat} {ag : Agent} (h : s.Paged w) (hi : i % 4 = 0) (hfit : i + 4 ≤ 2 ^ 21)
include h hi hfit

theorem OneElem.loadData_of_page (hone : OneElem d (w.va i) loc false) (hag : ag.die = w.die) :
    ∃ t, s.loadData ag d 0 0 = (t, [⟨0, 4, some (s.bytesAt (w.byte i) 4), Events.none⟩], none) ∧ s.Sees t w := by
  obtain ⟨-, hread, -⟩ := State.pageAt_iff.1 h.page
  obtain ⟨t, ht, hsees⟩ := h.readAll hag (by omega) hfit hread
  refine ⟨t, ?_, hsees⟩
  have hva := w.va_mod i
  have hmx : stripFault d .fp32 = none := rfl
  have hconv := convElem_elemOf_same (f := .fp32) (dCvt d) (State.bytesAt_length s (w.byte i) 4)
  simp only [State.loadData, hone.fmt, hone.cvtFmt, hone.mcast, hmx, hone.loadRuns_eq, Bool.false_eq_true, if_false,
    joinRuns_of_block (by decide : 0 < 4) (by omega : w.va i % 64 + 4 ≤ 64), ht,
    loadElems_of_read d (State.bytesAt_length s (w.byte i) 4), hone.loadParts_eq, List.getD_cons_zero, Option.map_some, hconv]

end

/-- What a store of one element reads, and where it writes it. -/
theorem OneElem.storeData_of_block {s : State} {ag : Agent} {d va loc die core : Nat} (hone : OneElem d va loc true) (hva : va % 64 + 4 ≤ 64) (hsrc : spSrc ag.src = 1)
    (hecc : s.ecc = []) (hloc : loc % 4 = 0) (hlocal : loc + 4 ≤ spBytes) :
    s.storeData ag die core d = (s, [(va, s.bytesAt (epAddr (spU die core) loc) 4)], Events.none, none) := by
  have hmx : stripFault d .fp32 = none := rfl
  have hbytes : dLocalBytes d = 4 := by
    simp [dLocalBytes, dLocalFmt, hone.fmt, hone.dir, Fmt.isMX, hone.total, Fmt.bytes, Fmt.bits]
  have haccs : localAccs d .fp32 = [(loc, 4)] := by
    simp only [localAccs, hone.localRuns_eq, hone.offset, List.map_cons, List.map_nil, Nat.add_zero]
    exact joinRuns_of_block (by decide) (by omega)
  have hlen := State.bytesAt_length s (epAddr (spU die core) loc) 4
  simp only [State.storeData, hone.fmt, hone.cvtFmt, hmx, hone.offset, hbytes, haccs,
    State.localGather_of_block die core hsrc hecc (by decide : 0 < 4) hlocal (by omega), hone.storeRuns_eq hlen]
  rw [joinWrites_of_block (by omega) (by omega)]

end Sys2Proof.Machine
end

section
/-!
The load and the store of one element (07_streams_layout R162).
-/
namespace Sys2Proof.Machine

/-! ### A load and a store of one element (07_streams_layout R162) -/

/-- The state as a transfer's reads find it: the bytes of its source stand as they stood at its issue. -/
def State.issued (s : State) (x : Xfer) : State :=
  { s with mem := (x.snap.getD []).foldl (fun m c => Memory.set m c.1 c.2) s.mem }

theorem State.asIssued_of_issued {α : Type} {s t : State} {x : Xfer} {f : State → State × α} {a : α} (h : f (s.issued x) = (t, a)) :
    s.asIssued x f = ({ t with mem := s.mem }, a) := by
  show ({ (f (s.issued x)).1 with mem := s.mem }, (f (s.issued x)).2) = _
  rw [h]

/-- Reads that change nothing, of a source that stands as it did. -/
theorem State.asIssued_of_unchanged {α : Type} {s : State} {x : Xfer} {f : State → State × α} {a : α} (hsnap : x.snap = none)
    (h : f s = (s, a)) : s.asIssued x f = (s, a) := by
  have hissued : s.issued x = s := by simp [State.issued, hsnap]
  exact State.asIssued_of_issued (hissued.symm ▸ h)

/-- A transfer whose bytes `bs` stand at `a` ends: its tag returns, and no other byte has changed. -/
theorem State.Moves.stored {s t : State} {die core tag d a : Nat} {x : Xfer} {bs : List Byte} (h : t.Moves die core tag d x)
    (hmem : ∀ j, Memory.get t.mem j = Memory.get (s.putBytes a bs).mem j) (hlast : x.last = false) (hperm : dPerm d = 0) (hbell : ctlBit d 10 = false)
    (htag : mget (t.core die core).tags tag .free = .out) :
    Holds (t.xferMoved die core 0 x) a bs ∧ SameMemBut a bs.length s (t.xferMoved die core 0 x) ∧
      (t.xferMoved die core 0 x).Freed die core tag .done := by
  obtain ⟨hfreed, hsame⟩ := h.ended hlast hperm hbell htag
  have hget (b : Nat) : Memory.get (t.xferMoved die core 0 x).mem b = Memory.get (s.putBytes a bs).mem b :=
    (hsame b (by omega)).trans (hmem b)
  obtain ⟨hholds, hbut⟩ := holds_and_sameMemBut_of_put (s := s) (t := s.putBytes a bs) (a := a) (bs := bs) rfl
  exact ⟨hholds.of_get hget, fun b hb => (hget b).trans (hbut b hb), hfreed⟩

section
variable {s s1 s2 : State} {die core tag d va loc : Nat} {store : Bool} {x : Xfer} {ev : Events} (h : s.Moves die core tag d x)
  (hone : OneElem d va loc store)
include h hone

theorem exec_dmaTransferComplete_load {parts : List DestPart} {bs : List Byte} (hstore : store = false)
    (hread : s.asIssued x (fun v => v.loadData (s.dmaAgent die core) d 0 0) = (s1, parts, none))
    (hbs : parts.flatMap (fun p => p.data.getD []) = bs) (hev : parts.foldl (fun a p => a.add p.ev) Events.none = ev)
    (hwrite : s1.localWrite (s.dmaAgent die core).src die core loc bs = (s2, none)) :
    exec (.dmaTransferComplete die core tag []) s = done ((s2.dmaEvents die core x.ring ev).xferMoved die core 0 x) := by
  subst hstore
  change execDmaTransferComplete die core tag [] s = _
  have hup : s.upset [] = s := rfl
  simp only [execDmaTransferComplete, hup, h.xferOf, h.desc, Option.getD_some, hone.fmt, hone.cvtFmt, hone.pack, hone.expand,
    hone.mcast, hone.dir, hone.offset, Option.isNone_some, Bool.or_self, Bool.false_eq_true, if_false, hread, hbs, hev, hwrite]

theorem exec_dmaTransferComplete_store {runs : List (Nat × List Byte)} (hstore : store = true)
    (hread : s.asIssued x (fun v => v.storeData (s.dmaAgent die core) die core d) = (s1, runs, ev, none))
    (hwrite : s1.writeRuns (s.dmaAgent die core) 0 runs = (s2, [], none)) :
    exec (.dmaTransferComplete die core tag []) s = done ((s2.dmaEvents die core x.ring ev).xferMoved die core 0 x) := by
  subst hstore
  change execDmaTransferComplete die core tag [] s = _
  have hup : s.upset [] = s := rfl
  simp only [execDmaTransferComplete, hup, h.xferOf, h.desc, Option.getD_some, hone.fmt, hone.cvtFmt, hone.pack, hone.expand,
    hone.mcast, hone.dir, Option.isNone_some, Bool.or_self, Bool.false_eq_true, if_false, if_true, hread, hwrite, List.isEmpty_nil]

end

section
variable {s : State} {w : PageMap} {core tag d i loc : Nat} {x : Xfer} (h : s.Moves w.die core tag d x) (hp : s.Paged w)
  (hdie : w.die < 24) (hcore : core < 16) (hloc : loc % 4 = 0) (hlocal : loc + 4 ≤ spBytes) (hi : i % 4 = 0)
  (hfit : i + 4 ≤ 2 ^ 21) (hlast : x.last = false) (htag : mget (s.core w.die core).tags tag .free = .out)
include h hp hdie hcore hloc hlocal hi hfit hlast htag

theorem dmaTransferComplete_load_yields (hone : OneElem d (w.va i) loc false) :
    Yields (.dmaTransferComplete w.die core tag []) s (fun t =>
      Holds t (epAddr (spU w.die core) loc) ((s.issued x).bytesAt (w.byte i) 4) ∧
      SameMemBut (epAddr (spU w.die core) loc) 4 s t ∧ (t.core w.die core).xfers = [] ∧
      mget (t.core w.die core).tags tag .free = .done) := by
  have hissued : (s.issued x).Paged w := ⟨hp.page, hp.ecc, hp.net⟩
  obtain ⟨r, hload, hsees⟩ := OneElem.loadData_of_page hissued hi hfit hone (ag := s.dmaAgent w.die core) rfl
  have hsrc : spSrc (s.dmaAgent w.die core).src = 1 := spSrc_dma s hdie hcore
  have hlen := State.bytesAt_length (s.issued x) (w.byte i) 4
  let s1 : State := { r with mem := s.mem }
  let s2 := s1.putBytes (epAddr (spU w.die core) loc) ((s.issued x).bytesAt (w.byte i) 4)
  have hwrite : s1.localWrite (s.dmaAgent w.die core).src w.die core loc ((s.issued x).bytesAt (w.byte i) 4) = (s2, none) :=
    State.localWrite_of_block w.die core hsrc hsees.paged.ecc (by omega) (by omega) (by omega)
  have hexec : exec (.dmaTransferComplete w.die core tag []) s =
      done ((s2.dmaEvents w.die core x.ring Events.none).xferMoved w.die core 0 x) :=
    exec_dmaTransferComplete_load h hone rfl (State.asIssued_of_issued hload) (List.append_nil _) rfl hwrite
  have hevents := s2.dmaEvents_none_frame w.die core x.ring
  have hcores : (s2.dmaEvents w.die core x.ring Events.none).cores = s.cores :=
    (hevents .cores (by simp)).trans (hsees.frame .cores (by simp))
  have hmem (j : Nat) : Memory.get (s2.dmaEvents w.die core x.ring Events.none).mem j = Memory.get (s.putBytes
      (epAddr (spU w.die core) loc) ((s.issued x).bytesAt (w.byte i) 4)).mem j := hevents .mem (by simp) j
  obtain ⟨hholds, hsame, hxfers, hdone⟩ := (h.congr hcores).stored hmem hlast hone.perm hone.bell
    ((State.core_congr hcores w.die core) ▸ htag)
  exact .of_done hexec ⟨hholds.of_get (State.canon_get _), SameMemBut.canon.2 (hlen ▸ hsame), hxfers, hdone⟩

theorem dmaTransferComplete_store_yields (hone : OneElem d (w.va i) loc true) (hsnap : x.snap = none) :
    Yields (.dmaTransferComplete w.die core tag []) s (fun t =>
      Holds t (w.byte i) (s.bytesAt (epAddr (spU w.die core) loc) 4) ∧ SameMemBut (w.byte i) 4 s t ∧
      (t.core w.die core).xfers = [] ∧ mget (t.core w.die core).tags tag .free = .done) := by
  obtain ⟨-, -, hneed, -⟩ := State.pageAt_iff.1 hp.page
  have hva := w.va_mod i
  have hlen := State.bytesAt_length s (epAddr (spU w.die core) loc) 4
  have hsrc : spSrc (s.dmaAgent w.die core).src = 1 := spSrc_dma s hdie hcore
  have hread := OneElem.storeData_of_block (die := w.die) (core := core) hone (by omega) hsrc hp.ecc hloc hlocal
  obtain ⟨r, hwrite, hsees⟩ := hp.writeRuns (ag := s.dmaAgent w.die core) (bs := s.bytesAt (epAddr (spU w.die core) loc) 4)
    rfl (by omega : i < 2 ^ 21) (by omega) hneed
  let s2 := r.putBytes (w.byte i) (s.bytesAt (epAddr (spU w.die core) loc) 4)
  have hexec : exec (.dmaTransferComplete w.die core tag []) s =
      done ((s2.dmaEvents w.die core x.ring Events.none).xferMoved w.die core 0 x) :=
    exec_dmaTransferComplete_store h hone rfl (State.asIssued_of_unchanged hsnap hread) hwrite
  have hevents := s2.dmaEvents_none_frame w.die core x.ring
  have hcores : (s2.dmaEvents w.die core x.ring Events.none).cores = s.cores :=
    (hevents .cores (by simp)).trans (hsees.frame .cores (by simp))
  have hmem (j : Nat) : Memory.get (s2.dmaEvents w.die core x.ring Events.none).mem j = Memory.get (s.putBytes
      (w.byte i) (s.bytesAt (epAddr (spU w.die core) loc) 4)).mem j :=
    (hevents .mem (by simp) j).trans ((hsees.putBytes _ _).get j)
  obtain ⟨hholds, hsame, hxfers, hdone⟩ := (h.congr hcores).stored hmem hlast hone.perm hone.bell
    ((State.core_congr hcores w.die core) ▸ htag)
  exact .of_done hexec ⟨hholds.of_get (State.canon_get _), SameMemBut.canon.2 (hlen ▸ hsame), hxfers, hdone⟩

end

end Sys2Proof.Machine
end

section
/-!
The copy of a multicast for a leaf, and an instruction load (07_streams_layout R174, R175; 09_core_sequencer R210, R228).
-/
namespace Sys2Proof.Machine

/-! ### A copy of a multicast (07_streams_layout R174, R175) -/

/-- A free tag of a leaf is recorded done, and no other core is touched. -/
theorem State.leafTag_of_free {s : State} {die core tag : Nat} (hcode : (s.core die core).hasCode = true)
    (htag : mget (s.core die core).tags tag .free = .free) :
    mget ((s.leafTag die core tag 0).core die core).tags tag .free = .done ∧ SameBut [.regs, .cores] s (s.leafTag die core tag 0) ∧
      ∀ d k, d * 16 + k ≠ die * 16 + core → (s.leafTag die core tag 0).core d k = s.core d k := by
  let s1 := s.setCore die core { s.core die core with tags := mset .free (s.core die core).tags tag .done }
  have hleaf : s.leafTag die core tag 0 = s1.mayMiss die core 1 tag := by
    simp [State.leafTag, hcode, htag, s1]
  have hcores : (s1.mayMiss die core 1 tag).cores = s1.cores := s1.mayMiss_frame die core 1 tag .cores (by simp)
  rw [hleaf]
  refine ⟨?_, by simp [s1], fun d k hdk => ?_⟩
  · rw [State.core_congr hcores, State.core_setCore_same, mget_mset_same]
  · rw [State.core_congr hcores, State.core_setCore_other _ _ _ _ _ _ hdk]

theorem multicastCopyComplete_yields {s : State} {die core tag leaf ld lc d : Nat} {x : Xfer} {bs : List Byte}
    (h : s.Moves die core tag d x) (hdie : die < 24) (hcore : core < 16) (hlc : lc < 16) (hne : (ld, lc) ≠ (die, core))
    (hbuf : x.buf = some bs) (hcopies : x.copies = []) (hmcast : dMcast d = true) (hfmt : dFmt d = some .fp32)
    (hcvt : dCvtFmt d = some .fp32) (hleaf : (s.mcastLeaves die core d)[leaf]? = some (ld, lc)) (hlen : bs.length = 64)
    (halign : dLocal d % 64 = 0) (hfit : dLocal d + 64 ≤ spBytes) (hecc : s.ecc = []) (hcode : (s.core ld lc).hasCode = true)
    (htag : mget (s.core ld lc).tags tag .free = .free) :
    Yields (.multicastCopyComplete die core tag leaf []) s (fun t => Holds t (epAddr (spU ld lc) (dLocal d)) bs ∧
      SameMemBut (epAddr (spU ld lc) (dLocal d)) 64 s t ∧ (t.core die core).xfers = [{ x with copies := [leaf] }] ∧
      mget (t.core ld lc).tags tag .free = .done) := by
  have hapart : die * 16 + core ≠ ld * 16 + lc := by
    intro he
    exact hne (Prod.ext (by omega) (by omega))
  let s1 := s.putBytes (epAddr (spU ld lc) (dLocal d)) bs
  let s2 := s1.setXfer die core 0 { x with copies := [leaf] }
  have hwrite : s.localWrite (s.dmaAgent die core).src ld lc (dLocal d) bs = (s1, none) :=
    State.localWrite_of_block ld lc (spSrc_dma s hdie hcore) hecc (by omega) (by omega) (by omega)
  have hexec : exec (.multicastCopyComplete die core tag leaf []) s = done (s2.leafTag ld lc tag 0) := by
    change execMulticastCopyComplete die core tag leaf [] s = _
    have hup : s.upset [] = s := rfl
    have hother : ¬ (ld = die ∧ lc = core) := fun ⟨he, hk⟩ => hne (Prod.ext he hk)
    simp [execMulticastCopyComplete, hup, h.xferOf, h.desc, hleaf, hmcast, hcopies, hfmt, hcvt, hbuf, hwrite, h.tag, hother, s2]
  have hcore2 : s2.core ld lc = s.core ld lc := State.core_setCore_other _ _ _ _ _ _ hapart.symm
  obtain ⟨hdone, hframe, hothers⟩ := State.leafTag_of_free (s := s2) (hcore2.symm ▸ hcode) (hcore2.symm ▸ htag)
  have hmem (j : Nat) : Memory.get (s2.leafTag ld lc tag 0).mem j = Memory.get s1.mem j :=
    (hframe .mem (by simp) j).trans (State.setXfer_frame _ _ _ _ _ .mem (by simp) j)
  obtain ⟨hholds, hsame⟩ := holds_and_sameMemBut_of_put (s := s) (t := s1) (bs := bs) rfl
  refine .of_done hexec ⟨hholds.of_get fun j => (State.canon_get _ _).trans (hmem j),
    SameMemBut.canon.2 fun b hb => (hmem b).trans (hsame b (hlen.symm ▸ hb)), ?_, hdone⟩
  rw [State.canon_core, hothers _ _ hapart]
  exact State.xfers_setXfer (s := s1) h.xfers _

/-! ### An instruction load at its end (09_core_sequencer R210, R228) -/

theorem State.iloadEnd_of_read {s t : State} {die core a : Nat} {l : Iload} {bs : List Byte} (haligned : l.src % 64 = 0)
    (hloads : (s.core die core).iloads = [l])
    (hread : (s.setCore die core { s.core die core with iloads := [] }).vread (s.dmaAgent die core) l.src (64 * l.count) permRead =
      (t, ⟨0, a, bs, none⟩)) :
    s.iloadEnd die core l = (t.putBytes (epAddr (seqU die core) (0x100000 + 64 * l.dst))
      (bs.take (64 * (8192 - Nat.min 8192 l.dst))), 0) := by
  have hrest : [l].filter (fun x => !(x == l)) = [] := by simp
  have hag : (s.setCore die core { s.core die core with iloads := [] }).dmaAgent die core = s.dmaAgent die core := rfl
  unfold State.iloadEnd
  extract_lets c s1 ag u bad
  simp only [s1, ag, c, hloads, hrest, hag]
  rw [if_neg (by simp [haligned]), hread]
  rfl

/-- The tag of an instruction load that has ended returns with it. -/
theorem exec_tagReturn_of_iload {s t : State} {die core : Nat} {l : Iload} (hlt : l.tag < 256)
    (hloads : (s.core die core).iloads = [l]) (hend : s.iloadEnd die core l = (t, 0))
    (htag : mget (t.core die core).tags l.tag .free = .out) :
    exec (.tagReturn die core l.tag 0 0 []) s = done ((t.recordTag die core l.tag 0).nearMiss die core 1 l.tag 0) := by
  change execTagReturn die core l.tag 0 0 [] s = _
  have hup : s.upset [] = s := rfl
  have hfind : [l].find? (fun x => x.tag == l.tag) = some l := by simp
  simp only [execTagReturn, hup, hloads, Nat.mod_eq_of_lt hlt, hfind, hend, htag]
  rfl

section
variable {s : State} {w : PageMap} {core tag dst i : Nat} (hp : s.Paged w) (hdst : dst < 8192) (hi : i % 64 = 0)
  (hfit : i + 64 ≤ 2 ^ 21) (hloads : (s.core w.die core).iloads = [⟨tag, w.va i, dst, 1⟩])
include hp hdst hi hfit hloads

/-- A load of one bundle writes it, and leaves the core's other state as it was. -/
theorem State.iloadEnd_of_page : ∃ t,
    s.iloadEnd w.die core ⟨tag, w.va i, dst, 1⟩ =
      (t.putBytes (epAddr (seqU w.die core) (0x100000 + 64 * dst)) (s.bytesAt (w.byte i) 64), 0) ∧
    (s.setCore w.die core { s.core w.die core with iloads := [] }).Sees t w := by
  let s1 := s.setCore w.die core { s.core w.die core with iloads := [] }
  have hs1 : s1.Paged w := ⟨hp.page, hp.ecc, hp.net⟩
  obtain ⟨-, hread, -⟩ := State.pageAt_iff.1 hp.page
  obtain ⟨t, ht, hsees⟩ := hs1.vread (ag := s1.dmaAgent w.die core) (n := 64) rfl (by omega : i < 2 ^ 21) (by omega) (by omega) hread
  have haligned : w.va i % 64 = 0 := (w.va_mod i).trans hi
  have hmin : Nat.min 8192 dst ≤ dst := Nat.min_le_right _ _
  have hroom : (s.bytesAt (w.byte i) 64).length ≤ 64 * (8192 - Nat.min 8192 dst) := by
    rw [State.bytesAt_length]
    omega
  refine ⟨t, ?_, hsees⟩
  rw [State.iloadEnd_of_read (l := ⟨tag, w.va i, dst, 1⟩) haligned hloads ht]
  exact congrArg (fun bs => (t.putBytes _ bs, 0)) (List.take_of_length_le hroom)

theorem tagReturn_iload_yields (htag : mget (s.core w.die core).tags tag .free = .out) (hlt : tag < 256) :
    Yields (.tagReturn w.die core tag 0 0 []) s (fun t =>
      Holds t (epAddr (seqU w.die core) (0x100000 + 64 * dst)) (s.bytesAt (w.byte i) 64) ∧
      SameMemBut (epAddr (seqU w.die core) (0x100000 + 64 * dst)) 64 s t ∧ (t.core w.die core).iloads = [] ∧
      mget (t.core w.die core).tags tag .free = .done) := by
  obtain ⟨r, hend, hsees⟩ := State.iloadEnd_of_page hp hdst hi hfit hloads
  generalize epAddr (seqU w.die core) (0x100000 + 64 * dst) = a at hend ⊢
  have hlen := State.bytesAt_length s (w.byte i) 64
  have hcore1 : (r.putBytes a (s.bytesAt (w.byte i) 64)).core w.die core = { s.core w.die core with iloads := [] } :=
    (State.core_congr (hsees.frame .cores (by simp)) w.die core).trans (State.core_setCore_same _ _ _ _)
  have htag1 : mget ((r.putBytes a (s.bytesAt (w.byte i) 64)).core w.die core).tags tag .free = .out := by
    rw [hcore1]
    exact htag
  obtain ⟨hcore, hmem, -⟩ := State.recordTag_nearMiss 0 htag1
  have hget (j : Nat) := (hmem j).trans ((hsees.putBytes a (s.bytesAt (w.byte i) 64)).get j)
  obtain ⟨hholds, hsame⟩ := holds_and_sameMemBut_of_put (s := s) (a := a) (bs := s.bytesAt (w.byte i) 64)
    (t := (s.setCore w.die core { s.core w.die core with iloads := [] }).putBytes a (s.bytesAt (w.byte i) 64)) rfl
  have hexec := exec_tagReturn_of_iload (l := ⟨tag, w.va i, dst, 1⟩) hlt hloads hend htag1
  refine .of_done hexec ⟨hholds.of_get fun j => (State.canon_get _ j).trans (hget j),
    SameMemBut.canon.2 fun b hb => (hget b).trans (hsame b (hlen.symm ▸ hb)), ?_, ?_⟩
  · rw [State.canon_core, hcore, hcore1]
  · rw [State.canon_core, hcore, mget_mset_same]

end

end Sys2Proof.Machine
end

section
/-!
The fetch of sixteen descriptors of a ring (07_streams_layout R178).
-/
namespace Sys2Proof.Machine

/-! ### A read of whole blocks of a page (07_streams_layout R167) -/

theorem blocks64_of_aligned {f va k : Nat} (hf : k ≤ f) (hva : va % 64 = 0) (hlt : va + 64 * k ≤ 2 ^ 64) :
    blocks64 f va (64 * k) = (List.range k).map (fun j => (va + 64 * j, 64)) := by
  induction k generalizing f va with
  | zero => cases f <;> simp [blocks64]
  | succ k ih =>
    obtain ⟨g, rfl⟩ : ∃ g, f = g + 1 := ⟨f - 1, by omega⟩
    have hmin : Nat.min (64 * (k + 1)) (64 - va % 64) = 64 := by
      rw [hva]
      exact Nat.min_eq_right (by omega)
    have hrest : 64 * (k + 1) - 64 = 64 * k := by omega
    have hshift (j : Nat) : va + 64 + 64 * j = va + 64 * (j + 1) := by omega
    rw [blocks64, if_neg (by omega)]
    simp only [hmin, hrest, List.range_succ_eq_map, List.map_cons, List.map_map, Nat.mul_zero, Nat.add_zero]
    congr 1
    cases k with
    | zero => cases g <;> simp [blocks64]
    | succ k =>
      rw [Nat.mod_eq_of_lt (by omega), ih (by omega) (by omega) (by omega)]
      simp only [Function.comp_def, hshift, Nat.succ_eq_add_one]

theorem State.bytesAt_add (s : State) (a m n : Nat) : s.bytesAt a (m + n) = s.bytesAt a m ++ s.bytesAt (a + m) n := by
  simp [State.bytesAt, List.range_add, Nat.add_assoc]

theorem slice_bytesAt (s : State) {a m off n : Nat} (h : off + n ≤ m) : slice (s.bytesAt a m) off n = s.bytesAt (a + off) n := by
  refine List.ext_getElem (by simp) fun k hk _ => ?_
  have hk' : off + k < m := by simp at hk; omega
  simp [slice, State.bytesAt, hk', Nat.add_assoc]

/-- A read of one block of those that make up a read of virtual memory. -/
def vreadBlock (ag : Agent) (need : Nat) (p : State × VRes) (b : Nat × Nat) : State × VRes :=
  if p.2.err ≠ 0 || p.2.held.isSome then p
  else
    let (s1, err, t) := p.1.translate (p.1.tuOf ag b.1) ag.code b.1 need
    if err ≠ 0 then (s1, ⟨err, b.1, [], none⟩)
    else
      let (s2, a) := s1.access ag.src t none b.2
      (s2, ⟨a.err, b.1, p.2.data ++ a.data, a.held⟩)

theorem State.vread_eq_foldl (s : State) (ag : Agent) (va n need : Nat) :
    s.vread ag va n need = (blocks64 (n + 1) va n).foldl (vreadBlock ag need) (s, ⟨0, 0, [], none⟩) := rfl

theorem vreadBlock_of_access {s s1 s2 : State} {ag : Agent} {need va n a ta : Nat} {data bs : List Byte}
    (htr : s.translate (s.tuOf ag va) ag.code va need = (s1, 0, ta)) (hacc : s1.access ag.src ta none n = (s2, .ok bs)) :
    vreadBlock ag need (s, ⟨0, a, data, none⟩) (va, n) = (s2, ⟨0, va, data ++ bs, none⟩) := by
  unfold vreadBlock
  rw [if_neg (by simp)]
  dsimp only
  rw [htr]
  dsimp only
  rw [if_neg (by decide), hacc]
  rfl

/-- A read over several blocks of a page. -/
theorem State.Paged.vread_blocks {s : State} {w : PageMap} {i need : Nat} {ag : Agent} (h : s.Paged w)
    (hag : ∀ (t : State) va, t.tuOf ag va = w.die) (hneed : entryAllows w.e need = true) (hi : i % 64 = 0) (k : Nat)
    (hfit : i + 64 * k ≤ 2 ^ 21) :
    ∃ t a, s.vread ag (w.va i) (64 * k) need = (t, ⟨0, a, s.bytesAt (w.byte i) (64 * k), none⟩) ∧ s.Sees t w := by
  have hp := h.p_lt
  have hva := (w.va_mod i).trans hi
  have hlt : w.va i + 64 * k ≤ 2 ^ 64 := by
    simp only [PageMap.va]
    omega
  rw [State.vread_eq_foldl, blocks64_of_aligned (by omega) hva hlt]
  clear hlt
  induction k with
  | zero => exact ⟨s, 0, rfl, .of_paged h⟩
  | succ k ih =>
    obtain ⟨t, a, ht, hsees⟩ := ih (by omega)
    obtain ⟨s1, s2, ta, htr, hacc, hsees2⟩ := hsees.paged.access (n := 64) ag none (by omega : i + 64 * k < 2 ^ 21) (by omega) hneed
    have hplace : w.va i + 64 * k = w.va (i + 64 * k) := by simp only [PageMap.va, Nat.add_assoc]
    rw [← hag t (w.va (i + 64 * k))] at htr
    rw [State.served] at hacc
    refine ⟨s2, w.va (i + 64 * k), ?_, hsees.through hsees2⟩
    rw [List.range_succ, List.map_append, List.foldl_append, ht, Nat.mul_succ, State.bytesAt_add, ← w.byte_add,
      ← (hsees.through hsees2).bytesAt (w.byte (i + 64 * k))]
    rw [List.map_singleton, List.foldl_cons, List.foldl_nil, hplace]
    exact vreadBlock_of_access htr hacc

/-! ### A fetch of descriptors that nothing waits for (07_streams_layout R178) -/

/-- A core that keeps descriptors of a ring. -/
def CoreSt.keptDescs (c : CoreSt) (ring : Nat) (ds : List Nat) : CoreSt :=
  { c with fetched := mset [] c.fetched ring (mget c.fetched ring [] ++ ds) }

theorem CoreSt.placeDescs_of_idle {c : CoreSt} {ds : List Nat} (hx : c.xfers = []) (ring : Nat) (hds : ds ≠ []) :
    c.placeDescs ring ds = (c.keptDescs ring ds, true) := by
  obtain ⟨d, rest, rfl⟩ := List.exists_cons_of_ne_nil hds
  simp [CoreSt.placeDescs, CoreSt.keptDescs, hx]

theorem CoreSt.feedStack_of_idle {c : CoreSt} (hstk : c.stk = []) (ring n : Nat) : c.feedStack ring n = (c, 0, true) := by
  cases n with
  | zero => rfl
  | succ n =>
    simp only [CoreSt.feedStack, hstk, List.findIdx?_nil]
    split <;> simp_all

/-- Descriptors that no transfer and no stack issue waits for stay with the core. -/
theorem State.feedStack_of_idle {s : State} {die core : Nat} (hx : (s.core die core).xfers = []) (hstk : (s.core die core).stk = [])
    (ring : Nat) : ∃ t, (s.keepSources die core).feedStack die core ring = t.ringNext die core ring 0 ∧ SameBut [.cores] s t ∧
      t.core die core = s.core die core := by
  let s1 := s.setCore die core (s.core die core)
  have hs1 : s1.core die core = s.core die core := State.core_setCore_same _ _ _ _
  have hkeep : s.keepSources die core = s1 := by
    have heta : { s.core die core with xfers := [] } = s.core die core := by rw [← hx]
    simp only [State.keepSources, hx, List.map_nil, heta, s1]
  refine ⟨s1.setCore die core (s1.core die core), ?_, by simp [s1], (State.core_setCore_same _ _ _ _).trans hs1⟩
  simp [hkeep, State.feedStack, CoreSt.feedStack_of_idle (hs1.symm ▸ hstk)]

theorem va57_of_lt {a : Nat} (h : a < 2 ^ 56) : va57 a = a := by
  have hbit : bitAt a 56 = false := by simp only [bitAt, beq_eq_false_iff_ne]; omega
  simp only [va57, hbit, Bool.false_eq_true, if_false]
  omega

/-- The descriptors that 1 KiB of a ring hold. -/
def ringDescs (bs : List Byte) : List Nat := (List.range 16).map (fun k => leNat (slice bs (64 * k) 64))

theorem exec_descriptorFetch_of_idle {s s1 : State} {die core r a base : Nat} {bs : List Byte} (hr : r < 8)
    (hslots : s.ringSlots die core r = 16) (hahead : s.rd (dmaU die core) (Reg.RING_POS_AHEAD r) = 0)
    (hnext : s.rd (dmaU die core) (Reg.RING_POS_NEXT r) = 0)
    (hbase : va57 (s.rd (dmaU die core) (Reg.RING_BASE_LO_ADDR r) + 2 ^ 32 * s.rd (dmaU die core) (Reg.RING_BASE_HI_ADDR r)) = base)
    (hread : s.vread (s.dmaAgent die core) base 1024 permRead = (s1, ⟨0, a, bs, none⟩)) (hx : (s1.core die core).xfers = [])
    (hstk : (s1.core die core).stk = []) :
    ∃ t, exec (.descriptorFetch die core r []) s = done (t.ringNext die core r 0) ∧
      SameBut [.cores] (s1.wr (dmaU die core) (Reg.RING_POS_AHEAD r) 16) t ∧
      t.core die core = (s1.core die core).keptDescs r (ringDescs bs) := by
  let s2 := s1.wr (dmaU die core) (Reg.RING_POS_AHEAD r) 16
  let s3 := s2.setCore die core ((s1.core die core).keptDescs r (ringDescs bs))
  have hs3 : s3.core die core = (s1.core die core).keptDescs r (ringDescs bs) := State.core_setCore_same _ _ _ _
  obtain ⟨t, ht, hframe, hcore⟩ := State.feedStack_of_idle (s := s3) ((congrArg CoreSt.xfers hs3).trans hx) ((congrArg CoreSt.stk hs3).trans hstk) r
  refine ⟨t, ?_, SameBut.through (by simp [s3, s2]) hframe, hcore.trans hs3⟩
  change execDescriptorFetch die core r [] s = _
  have hup : s.upset [] = s := rfl
  have hplace : (s2.core die core).placeDescs r (ringDescs bs) = ((s1.core die core).keptDescs r (ringDescs bs), true) :=
    CoreSt.placeDescs_of_idle hx r (List.ne_nil_of_length_pos (by simp [ringDescs]))
  unfold execDescriptorFetch
  simp only [hup, Nat.mod_eq_of_lt hr, hslots, hahead, hnext, hbase, Nat.add_zero, Nat.zero_mod, Nat.mul_zero, hread]
  rw [if_neg (by decide), if_neg (by decide)]
  change done (if ((s2.core die core).placeDescs r (ringDescs bs)).2 = true then
    ((s2.setCore die core ((s2.core die core).placeDescs r (ringDescs bs)).1).keepSources die core).feedStack die core r else _) = _
  rw [hplace, if_pos rfl]
  exact congrArg done ht

section
variable {s : State} {w : PageMap} {core r i : Nat} (hp : s.Paged w) (hr : r < 8) (hi : i % 1024 = 0) (hfit : i + 1024 ≤ 2 ^ 21)
  (hx : (s.core w.die core).xfers = []) (hstk : (s.core w.die core).stk = []) (hfetched : (s.core w.die core).fetched = [])
  (hslots : s.ringSlots w.die core r = 16) (hahead : s.rd (dmaU w.die core) (Reg.RING_POS_AHEAD r) = 0)
  (hnext : s.rd (dmaU w.die core) (Reg.RING_POS_NEXT r) = 0)
  (hbase : s.rd (dmaU w.die core) (Reg.RING_BASE_LO_ADDR r) + 2 ^ 32 * s.rd (dmaU w.die core) (Reg.RING_BASE_HI_ADDR r) = w.va i)
include hp hr hi hfit hx hstk hfetched hslots hahead hnext hbase

theorem descriptorFetch_yields : Yields (.descriptorFetch w.die core r []) s (fun t =>
    t.rd (dmaU w.die core) (Reg.RING_POS_AHEAD r) = 16 ∧
    mget (t.core w.die core).fetched r [] = (List.range 16).map (fun k => s.numAt (w.byte (i + 64 * k)) 64) ∧ SameMemBut 0 0 s t) := by
  obtain ⟨-, hneed, -⟩ := State.pageAt_iff.1 hp.page
  have hva : va57 (w.va i) = w.va i := va57_of_lt (PageMap.va_lt hp.p_lt (by omega))
  obtain ⟨s1, a, hread, hsees⟩ := hp.vread_blocks (ag := s.dmaAgent w.die core) (fun _ _ => rfl) hneed (by omega : i % 64 = 0) 16 hfit
  have hcore : s1.core w.die core = s.core w.die core := State.core_congr (hsees.frame .cores (by simp)) w.die core
  obtain ⟨t, hexec, hframe, hkept⟩ := exec_descriptorFetch_of_idle hr hslots hahead hnext (hbase ▸ hva) hread
    ((congrArg CoreSt.xfers hcore).trans hx) ((congrArg CoreSt.stk hcore).trans hstk)
  have hring := t.ringNext_frame w.die core r 0
  refine .of_done hexec ⟨?_, ?_, SameMemBut.canon.2 fun b _ => ?_⟩
  · have hwritten : t.rd (dmaU w.die core) (Reg.RING_POS_AHEAD r) = 16 :=
      (hframe .regs (by simp) _ _).trans (State.rd_wr_same _ _ _ _)
    rw [State.canon_rd, State.rd_ringNext _ _ _ _ hr, hwritten]
    rfl
  · have hdescs : ringDescs (s.bytesAt (w.byte i) 1024) = (List.range 16).map (fun k => s.numAt (w.byte (i + 64 * k)) 64) := by
      refine List.map_congr_left fun k hk => ?_
      have hk16 := List.mem_range.1 hk
      rw [slice_bytesAt s (by omega), ← w.byte_add]
      rfl
    rw [State.canon_core, State.core_congr (hring .cores (by simp)), hkept, CoreSt.keptDescs, mget_mset_same, hcore, hfetched]
    exact hdescs
  · exact ((hring .mem (by simp) b).trans (hframe .mem (by simp) b)).trans (hsees.get b)

end

end Sys2Proof.Machine
end

section
/-!
Where the transfers of the DMA engine complete (07_streams_layout R162 to R180).
-/
namespace Sys2Proof.Machine

theorem b2n_false_mul (n : Nat) : b2n false * n = 0 := Nat.zero_mul n
theorem b2n_true_mul (n : Nat) : b2n true * n = n := Nat.one_mul n

section
variable {s : State} {w : PageMap} (h : s.Paged w) {d i tag loc : Nat} (hi : i + 4 ≤ 2 ^ 21) (htag : tag < 256)
  (hloc : loc + 4 ≤ spBytes)
include h hi htag hloc

/-- The descriptor of one element of a page. -/
theorem State.Paged.oneElem {store : Bool} (hd : d = w.p * 2 ^ 21 + i + 2 ^ 104 + 2 ^ 168 + 2 ^ 232 + 2 ^ 296 + 2 ^ 360 +
    tag * 2 ^ 448 + loc * 2 ^ 480 + b2n store * 2 ^ 463) : OneElem d (w.va i) loc store ∧ dTag d = tag := by
  have hva := PageMap.va_lt h.p_lt (by omega : i < 2 ^ 21)
  have hloc32 : loc < 2 ^ 32 := by simp only [spBytes] at hloc; omega
  exact oneElem_of_eq (by omega) htag hloc32 hd

theorem State.Paged.oneElem_load (hd : d = w.p * 2 ^ 21 + i + 2 ^ 104 + 2 ^ 168 + 2 ^ 232 + 2 ^ 296 + 2 ^ 360 +
    tag * 2 ^ 448 + loc * 2 ^ 480) : OneElem d (w.va i) loc false ∧ dTag d = tag :=
  h.oneElem hi htag hloc (by rw [hd, b2n_false_mul, Nat.add_zero])

theorem State.Paged.oneElem_store (hd : d = w.p * 2 ^ 21 + i + 2 ^ 104 + 2 ^ 168 + 2 ^ 232 + 2 ^ 296 + 2 ^ 360 +
    tag * 2 ^ 448 + loc * 2 ^ 480 + 2 ^ 463) : OneElem d (w.va i) loc true ∧ dTag d = tag :=
  h.oneElem hi htag hloc (by rw [hd, b2n_true_mul])

end

/-- The descriptor of a load to the start of the scratchpad, from any address. -/
theorem oneElem_at_zero {d va tag : Nat} (hva : va < 2 ^ 64) (htag : tag < 256)
    (hd : d = va + 2 ^ 104 + 2 ^ 168 + 2 ^ 232 + 2 ^ 296 + 2 ^ 360 + tag * 2 ^ 448) : OneElem d va 0 false ∧ dTag d = tag := by
  have hzero (n : Nat) : n = n + 0 * 2 ^ 480 + b2n false * 2 ^ 463 := by
    rw [b2n_false_mul, Nat.zero_mul, Nat.add_zero]
  exact oneElem_of_eq hva htag (by decide) (hd.trans (hzero _))

/-- The four cells of a snapshot are what its transfer reads. -/
theorem State.bytesAt_issued_of_four (s : State) {x : Xfer} {a : Nat} {b0 b1 b2 b3 : Byte}
    (h : x.snap = some [(a, b0), (a + 1, b1), (a + 2, b2), (a + 3, b3)]) : (s.issued x).bytesAt a 4 = [b0, b1, b2, b3] := by
  have hrange : List.range 4 = [0, 1, 2, 3] := rfl
  simp [State.bytesAt, State.issued, h, hrange, Memory.get_set]

/-- Settles O8, one command at a time: a transfer of one element through the page that holds its remote end, a fault through the
first access, and the others through what their steps leave of the core. -/
theorem transfersComplete : Obligations.TransfersComplete := by
  unfold Obligations.TransfersComplete
  refine ⟨fun s die core r d n _ _ hr hn hx hahead => dmaTransferStart_yields hr hn hx hahead, ?_, ?_, ?_, ?_, ?_, ?_, ?_, ?_, ?_,
    fun s die core tag _ _ htag hloads hout => tagReturn_yields htag hloads hout, ?_⟩
  · intro s die core r p e home q i _ _ hr hi hfit hpage hecc hnet hx hstk hfetched hslots hahead hnext hbase
    exact descriptorFetch_yields (w := ⟨die, p, e, home, q⟩) ⟨hpage, hecc, hnet⟩ hr hi hfit hx hstk hfetched hslots hahead hnext hbase
  · intro s die core tag r loc p e home q i d hdie hcore htag _ hpage hecc hnet hx hout hloc hlocal hi hfit hd
    have hp : s.Paged ⟨die, p, e, home, q⟩ := ⟨hpage, hecc, hnet⟩
    obtain ⟨hone, hdt⟩ := hp.oneElem_load hfit htag hlocal hd
    exact dmaTransferComplete_load_yields (w := ⟨die, p, e, home, q⟩) ⟨hx, rfl, rfl, rfl, rfl, hdt⟩ hp hdie hcore hloc hlocal hi hfit rfl hout hone
  · intro s die core tag r loc p e home q i d hdie hcore htag _ hpage hecc hnet hx hout hloc hlocal hi hfit hd
    have hp : s.Paged ⟨die, p, e, home, q⟩ := ⟨hpage, hecc, hnet⟩
    obtain ⟨hone, hdt⟩ := hp.oneElem_store hfit htag hlocal hd
    exact dmaTransferComplete_store_yields (w := ⟨die, p, e, home, q⟩) ⟨hx, rfl, rfl, rfl, rfl, hdt⟩ hp hdie hcore hloc hlocal hi hfit rfl hout hone rfl
  · intro s die core tag r loc p e home q i d b0 b1 b2 b3 hdie hcore htag _ hpage hecc hnet hx hout hloc hlocal hi hfit hd
    have hp : s.Paged ⟨die, p, e, home, q⟩ := ⟨hpage, hecc, hnet⟩
    obtain ⟨hone, hdt⟩ := hp.oneElem_load hfit htag hlocal hd
    have hload := dmaTransferComplete_load_yields (w := ⟨die, p, e, home, q⟩) ⟨hx, rfl, rfl, rfl, rfl, hdt⟩ hp hdie hcore hloc hlocal hi hfit rfl hout hone
    rwa [State.bytesAt_issued_of_four s rfl] at hload
  · intro s die core tag r leaf ld lc d x bs hdie hcore _ _ _ hlc hne hx hdesc hstarted hmoved hheld hbuf hcopies hdt hmcast hfmt hcvt
      hleaf hlen halign hfit hecc hcode hout
    exact multicastCopyComplete_yields ⟨hx, hdesc, hstarted, hmoved, hheld, hdt⟩ hdie hcore hlc hne hbuf hcopies hmcast hfmt hcvt hleaf
      hlen halign hfit hecc hcode hout
  · intro s die core tag d x _ _ _ hx hdesc hstarted hmoved hheld hlast hdt hmcast hpack hexpand hfmt hcvt hperm hbell hcopies hout
    exact dmaTransferComplete_multicast_yields ⟨hx, hdesc, hstarted, hmoved, hheld, hdt⟩ hlast hmcast hpack hexpand hfmt hcvt hperm
      hbell hcopies hout
  · intro s die core tag r va d _ _ htag _ hcanon hva hx hout hd
    obtain ⟨hone, hdt⟩ := oneElem_at_zero hva htag hd
    exact dmaAccessFault_yields htag hcanon hva hx hout hone hdt
  · intro s die core tag d x st _ _ _ hx hdesc hstarted hmoved hheld hdt hpack htiles hnext hfault hwrite hx2
    exact packTileWrite_yields ⟨hx, hdesc, hstarted, hmoved, hheld, hdt⟩ htiles hpack (Prod.ext rfl (Prod.ext hnext hfault))
      (Prod.ext rfl (Prod.ext rfl hwrite)) hx2
  · intro s die core tag d off size x bs _ _ _ hx hdesc hstarted hmoved hheld hdt _ hexpand htiles hnext hfault hwrite hx2
    exact expandTile_yields ⟨hx, hdesc, hstarted, hmoved, hheld, hdt⟩ htiles hexpand (Prod.ext rfl (Prod.ext hnext hfault))
      (Prod.ext rfl hwrite) hx2
  · intro s die core tag dst p e home q i _ _ htag hdst hi hfit hpage hecc hnet hloads hout
    exact tagReturn_iload_yields (w := ⟨die, p, e, home, q⟩) ⟨hpage, hecc, hnet⟩ hdst hi hfit hloads hout htag

end Sys2Proof.Machine
end

section
/-!
Where commands of DRAM and of the translation units complete (08_bonded_dram R188, R194, R197, R199 to R202; 07_streams_layout
R163).
-/
namespace Sys2Proof.Machine

theorem State.upset_nil (s : State) : s.upset [] = s := rfl

theorem answer_ok (s : State) (data : List Byte) : answer (s, .ok data) = s.ok data := rfl

theorem selfRef_ne_one {s : State} {die : Nat} (h : s.rd (dramU die) Reg.DRAM_STAT_SELF_REF = 0) :
    s.rd (dramU die) Reg.DRAM_STAT_SELF_REF ≠ 1 := by omega

/-! ### Reads and writes of a stack (08_bonded_dram R188, R199) -/

/-- An access below the reserved region lies within its stack. -/
theorem inStack_of_reserved {die off n : Nat} (hdie : die < 24) (h : off + n ≤ reservedOff) :
    (decide (die < 24) && decide (off + n ≤ 0xC00000000)) = true := by
  have hle : off + n ≤ 0xC00000000 := h.trans (by decide)
  simp [hdie, hle]

theorem barred_of_reserved (s : State) (src : Nat) {off n : Nat} (h : off + n ≤ reservedOff) :
    (decide (reservedOff < off + n) && !s.isKeeper src) = false := by
  simp [Nat.not_lt.2 h]

@[simp] theorem State.dramCorrected_out (s : State) (die src w : Nat) : (s.dramCorrected die src w).out = s.out := by
  simp [State.dramCorrected]

theorem State.dramCorrected_ecc (s : State) (die src w : Nat) : (s.dramCorrected die src w).ecc = mdel s.ecc w := rfl

/-- The words of a list corrected, one after the other: their failed bits are gone, those of the others stay, and nothing is
sent. -/
theorem State.forEach_dramCorrected (die src : Nat) (l : List Nat) (s : State) :
    (∀ w, mget (forEach l (fun s w => s.dramCorrected die src w) s).ecc w 0 = if w ∈ l then 0 else mget s.ecc w 0) ∧
      (forEach l (fun s w => s.dramCorrected die src w) s).out = s.out := by
  induction l generalizing s with
  | nil => exact ⟨fun w => by simp [forEach], rfl⟩
  | cons x l ih =>
    obtain ⟨hecc, hout⟩ := ih (s.dramCorrected die src x)
    refine ⟨fun w => (hecc w).trans ?_, hout.trans (s.dramCorrected_out die src x)⟩
    rw [State.dramCorrected_ecc, mget_mdel]
    by_cases hl : w ∈ l <;> by_cases hx : w = x <;> simp [hl, hx]

/-- A read of words of which none has a double-bit error returns their bytes, and leaves no failed bit in them. -/
theorem State.dramRead_of_correctable {s : State} {die off n : Nat} (src : Nat)
    (h : ∀ w ∈ wordsOf (dramAddr die off) n, mget s.ecc w 0 ≤ 1) :
    ∃ t, s.dramRead die off n src = (t, .ok (s.bytesAt (dramAddr die off) n)) ∧ t.out = s.out ∧
      ∀ w ∈ wordsOf (dramAddr die off) n, mget t.ecc w 0 = 0 := by
  have hue : s.badWords (dramAddr die off) n 2 = [] := by
    refine List.filter_eq_nil_iff.2 fun w hw => ?_
    have hle := h w hw
    rw [decide_eq_true_eq]
    omega
  obtain ⟨hecc, hout⟩ := s.forEach_dramCorrected die src (s.badWords (dramAddr die off) n 1)
  refine ⟨_, by simp only [State.dramRead, hue]; rfl, hout, fun w hw => (hecc w).trans ?_⟩
  have hle := h w hw
  split
  next => rfl
  next hgood =>
    have hne : mget s.ecc w 0 ≠ 1 := fun he => hgood (List.mem_filter.2 ⟨hw, decide_eq_true he⟩)
    omega

/-- A write over words without failed bits stores its bytes. -/
theorem State.dramWrite_of_clean {s : State} {die off : Nat} {bs : List Byte} (src : Nat)
    (h : ∀ w ∈ wordsOf (dramAddr die off) bs.length, mget s.ecc w 0 = 0) :
    s.dramWrite die off src bs = (s.putBytes (dramAddr die off) bs, .ok) := by
  have hnone (k : Nat) (hk : k ≠ 0) : (partWords (dramAddr die off) bs.length).filter (fun w => mget s.ecc w 0 == k) = [] := by
    refine List.filter_eq_nil_iff.2 fun w hw => ?_
    rw [h w (List.mem_of_mem_filter hw), beq_iff_eq]
    exact hk.symm
  simp only [State.dramWrite, hnone 1 (by decide), hnone 2 (by decide)]
  rfl

theorem dramRead_yields {s : State} {die off len : Nat} (src : Nat) (hdie : die < 24)
    (hawake : s.rd (dramU die) Reg.DRAM_STAT_SELF_REF = 0) (hoff : off + len ≤ reservedOff)
    (hecc : ∀ w ∈ wordsOf (dramAddr die off) len, mget s.ecc w 0 ≤ 1) :
    Yields (.dramRead src die off len []) s (fun t => t.out = .answer 0 0 (s.bytesAt (dramAddr die off) len) :: s.out ∧
      (∀ w ∈ wordsOf (dramAddr die off) len, mget t.ecc w 0 = 0) ∧ SameMemBut 0 0 s t) := by
  obtain ⟨t, ht, hout, hclean⟩ := State.dramRead_of_correctable (s.dramSrc die src) hecc
  have hmem : SameMemBut 0 0 s t := fun a _ => by
    simpa only [ht] using s.dramRead_frame die off len (s.dramSrc die src) .mem (by decide) a
  have hexec : exec (.dramRead src die off len []) s = done (t.ok (s.bytesAt (dramAddr die off) len)) := by
    change execDramRead src die off len [] s = _
    simp only [execDramRead, State.upset_nil, inStack_of_reserved hdie hoff, selfRef_ne_one hawake, barred_of_reserved s src hoff,
      Bool.false_eq_true, if_true, if_false, ht, answer_ok]
  exact .of_done hexec ⟨congrArg _ hout, hclean, SameMemBut.canon.2 hmem⟩

theorem dramWrite_yields {s : State} {die off : Nat} {data : List Byte} (src : Nat) (hdie : die < 24)
    (hawake : s.rd (dramU die) Reg.DRAM_STAT_SELF_REF = 0) (hoff : off + data.length ≤ reservedOff)
    (hecc : ∀ w ∈ wordsOf (dramAddr die off) data.length, mget s.ecc w 0 = 0) :
    Yields (.dramWrite src die off data []) s (fun t => Holds t (dramAddr die off) data ∧
      SameMemBut (dramAddr die off) data.length s t ∧ t.out = .answer 0 0 [] :: s.out) := by
  have hexec : exec (.dramWrite src die off data []) s = done (s.putBytes (dramAddr die off) data).ok := by
    change execDramWrite src die off data [] s = _
    simp only [execDramWrite, State.upset_nil, inStack_of_reserved hdie hoff, selfRef_ne_one hawake, barred_of_reserved s src hoff,
      Bool.false_eq_true, if_true, if_false, State.dramWrite_of_clean _ hecc]
    rfl
  obtain ⟨hholds, hmem⟩ := holds_and_sameMemBut_of_put (s := s) (t := (s.putBytes (dramAddr die off) data).ok) rfl
  exact .of_done hexec ⟨fun i hi => (State.canon_get _ _).trans (hholds i hi), SameMemBut.canon.2 hmem, rfl⟩

/-! ### Scrubbing and refresh (08_bonded_dram R201, R202) -/

theorem patrolScrub_yields {s : State} {die ch : Nat} (hdie : die < 24) (hch : ch < 32)
    (hen : s.rd (dramU die) Reg.DRAM_SCRUB_EN = 1) (hawake : s.rd (dramU die) Reg.DRAM_STAT_SELF_REF = 0) :
    Yields (.patrolScrub die ch []) s (fun t =>
      mget t.patrol (die * 32 + ch) 0 = nextBlock ch 64 (mget s.patrol (die * 32 + ch) 0) + 64 ∧ SameMemBut 0 0 s t) := by
  let off := nextBlock ch 64 (mget s.patrol (die * 32 + ch) 0)
  let s1 := (s.dramRead die off 64 5).1
  let s2 : State := { s1 with patrol := mset 0 s1.patrol (die * 32 + ch) (off + 64) }
  let wraps := decide (off < mget s.patrol (die * 32 + ch) 0) && decide (ch = 0)
  have hexec : exec (.patrolScrub die ch []) s = done (if wraps then s2.bump (dramU die) Reg.DRAM_SCRUB_PASSES 1 else s2) := by
    change execPatrolScrub die ch [] s = _
    simp only [execPatrolScrub, State.upset_nil, Nat.mod_eq_of_lt hch, hdie, hen, hawake, decide_true, Bool.and_self, if_true]
    rfl
  have hmem : SameMemBut 0 0 s s1 := fun a _ => s.dramRead_frame die off 64 5 .mem (by decide) a
  refine .of_done hexec ⟨?_, SameMemBut.canon.2 fun a ha => ?_⟩
  · cases wraps <;> exact mget_mset_same 0 s1.patrol (die * 32 + ch) (off + 64)
  · cases wraps <;> exact hmem a ha

theorem dramRefresh_yields (s : State) {die : Nat} (delayed : Nat) (hdie : die < 24) :
    Yields (.dramRefresh die delayed) s (fun t =>
      t.rd (dramU die) Reg.DRAM_REFWAIT_COUNT = Nat.min (s.rd (dramU die) Reg.DRAM_REFWAIT_COUNT + delayed) (2 ^ 32 - 1) ∧
        SameRegsBut [(dramU die, Reg.DRAM_REFWAIT_COUNT)] s t) :=
  .of_done (if_pos hdie) ⟨State.rd_bump_same s _ _ delayed, (SameRegsBut.of_self _ s).wr _ (by simp)⟩

/-! ### Translation (08_bonded_dram R194; 07_streams_layout R163) -/

/-- An address of which the newest 2 MiB leaf cached is the page is translated by it, and only the order of the cache changes. -/
theorem State.translate_of_newest {s : State} {die va need e : Nat} {rest : List (Nat × Nat)} (agent : Nat)
    (hawake : s.rd (dramU die) Reg.DRAM_STAT_SELF_REF = 0) (hcanon : canonical va = true)
    (hleaf : (mget s.tus die {}).small = (va % 2 ^ 57 / 2 ^ 21, e) :: rest) (hneed : entryAllows e need = true) :
    ∃ m, s.translate die agent va need = ({ s with tus := m }, 0, leafTarget e 0 va) := by
  have hup : s.stackUp die = s := if_neg (selfRef_ne_one hawake)
  have hfind : (mget s.tus die {}).small.find? (fun p => p.1 == va % 2 ^ 57 / 2 ^ 21) = some (va % 2 ^ 57 / 2 ^ 21, e) := by
    simp [hleaf]
  refine ⟨mset {} s.tus die
    { mget s.tus die {} with small := lruPut 4096 (mget s.tus die {}).small (va % 2 ^ 57 / 2 ^ 21) e }, ?_⟩
  simp only [State.translate, hcanon, Bool.not_true, Bool.false_eq_true, if_false, hup, State.leafOf, hfind, ne_eq,
    not_true_eq_false, hneed, if_true]

theorem translationWalk_yields {s : State} {die va need e : Nat} {rest : List (Nat × Nat)} (agent : Nat) (hdie : die < 24)
    (hawake : s.rd (dramU die) Reg.DRAM_STAT_SELF_REF = 0) (hcanon : canonical va = true)
    (hleaf : (mget s.tus die {}).small = (va % 2 ^ 57 / 2 ^ 21, e) :: rest) (hneed : entryAllows e need = true) :
    Yields (.translationWalk die agent va need []) s (fun t =>
      t.out = .answer 0 0 (leBytes 8 (leafTarget e 0 va)) :: s.out ∧ SameRegsBut [] s t ∧ SameMemBut 0 0 s t) := by
  obtain ⟨m, htr⟩ := State.translate_of_newest agent hawake hcanon hleaf hneed
  have hexec : exec (.translationWalk die agent va need []) s =
      done (({ s with tus := m } : State).ok (leBytes 8 (leafTarget e 0 va))) := by
    change execTranslationWalk die agent va need [] s = _
    simp only [execTranslationWalk, State.upset_nil, Nat.mod_eq_of_lt hdie, htr, if_true]
  exact .of_done hexec ⟨rfl, fun _ _ _ => rfl, SameMemBut.canon.2 fun _ _ => rfl⟩

/-- What a captured fault of an address that is not canonical shows. -/
theorem State.tuFault_shows (s : State) (die agent va : Nat) :
    (s.tuFault die agent va 3 eXLATE).rd (tuU die) Reg.TU_STAT_FAULTED = 1 ∧
      (s.tuFault die agent va 3 eXLATE).rd (tuU die) Reg.TU_FINFO_CAUSE = 1 := by
  have hkept (t : State) {f g : Field} (v : Nat)
      (h : f.off < 2 ^ 24 ∧ g.off < 2 ^ 24 ∧ f.lo < 32 ∧ g.lo < 32 ∧ (f.off ≠ g.off ∨ f.lo ≠ g.lo)) :
      (t.wr (tuU die) g v).rd (tuU die) f = t.rd (tuU die) f := State.rd_wr_other _ _ _ _ _ _ (fieldKey_ne_of_place _ h)
  simp only [State.tuFault]
  constructor <;> simp (disch := decide) only [hkept, State.rd_wr_same] <;> rfl

theorem translationWalk_noncanonical_yields (s : State) {die va : Nat} (agent need : Nat) (hdie : die < 24)
    (hcanon : canonical va = false) :
    Yields (.translationWalk die agent va need []) s (fun t => t.out = .answer eXLATE 0 [] :: s.out ∧
      t.rd (tuU die) Reg.TU_STAT_FAULTED = 1 ∧ t.rd (tuU die) Reg.TU_FINFO_CAUSE = 1) := by
  have hexec : exec (.translationWalk die agent va need []) s = done ((s.tuFault die agent va 3 eXLATE).err eXLATE) := by
    change execTranslationWalk die agent va need [] s = _
    have hcode : eXLATE ≠ 0 := by decide
    simp only [execTranslationWalk, State.upset_nil, Nat.mod_eq_of_lt hdie, State.translate, hcanon, Bool.not_false, if_true, hcode,
      if_false]
  exact .of_done hexec ⟨rfl, s.tuFault_shows die agent va⟩

/-! ### Invalidation (08_bonded_dram R197) -/

/-- The parts of a translation unit's address. -/
theorem tuU_parts {die : Nat} (hdie : die < 24) : dieOf (tuU die) = die ∧ coreOf (tuU die) = 0 ∧ epOf (tuU die) = 40 := by
  unfold dieOf coreOf epOf tuU unitOf
  omega

/-- A translation unit is no unit of another die. -/
theorem tuU_ne {die u : Nat} (hdie : die < 24) (hu : 24 ≤ dieOf u) : tuU die ≠ u := by
  rintro rfl
  have hpart := (tuU_parts hdie).1
  omega

/-- A write of one aligned word of registers is the write of that word. -/
theorem State.writeRegs_of_word {s t : State} {src u off : Nat} {bs : List Byte} (hlen : bs.length = 4) (hoff : off % 4 = 0)
    (h : s.writeWord src u off (leNat bs) (2 ^ 32 - 1) = (t, .ok)) : s.writeRegs src u off bs = (t, .ok) := by
  have htouched : touched off 4 = [off] := by
    have hcount : (off + 4 + 3) / 4 - off / 4 = 1 := by omega
    have hself : 4 * (off / 4) = off := by omega
    simp [touched, hcount, hself]
  have hval : leNat bs % 2 ^ 32 = leNat bs := Nat.mod_eq_of_lt (by simpa [hlen] using leNat_lt bs)
  have hmask : (2 ^ 32 - 1) % 2 ^ 32 = 2 ^ 32 - 1 := rfl
  simp only [State.writeRegs, hlen, htouched, hoff, List.zipIdx_cons, List.zipIdx_nil, List.foldl_cons, List.foldl_nil, Nat.mul_zero,
    Nat.pow_zero, Nat.mul_one, Nat.div_one, hval, Nat.reduceMul, hmask, h]
  rfl

/-- A translation unit has a register TU_INVAL, which the keeper may write. -/
theorem State.tuInval_open (s : State) {die : Nat} (hdie : die < 24) :
    s.regThere (tuU die) 0x10 = true ∧ s.writeBar (s.unitAddr keeperU) (tuU die) 0x10 4 = 0 := by
  obtain ⟨hd, -, he⟩ := tuU_parts hdie
  have hmap : s.regMap (tuU die) = Reg.tuMap := by simp [State.regMap, hd, he, hdie]
  have hfields : (fieldsAt Reg.tuMap 0x10).isEmpty = false := rfl
  exact ⟨by simp [State.regThere, hmap, hfields],
    by simp [State.writeBar, tuU_ne hdie (u := dkrU) (by decide), hd, he, hdie, State.isKeeper]⟩

/-- The keeper's write of TU_INVAL.ALL begins an invalidation. -/
theorem State.epWrite_tuInval (s : State) {die : Nat} (hdie : die < 24) :
    s.epWrite (s.unitAddr keeperU) (tuU die) 0x10 (leBytes 4 1) = (s.wr (tuU die) Reg.TU_STAT_INVAL_BUSY 1, .ok) := by
  obtain ⟨hd, hc, he⟩ := tuU_parts hdie
  obtain ⟨hthere, hbar⟩ := s.tuInval_open hdie
  have hexists : epExists (tuU die) = true := by simp [epExists, hd, hc, he, hdie]
  have hL : dieOf (tuU die) ≠ 37 := by omega
  have h32 : ¬ 32 ≤ dieOf (tuU die) := by omega
  have hm : tuU die ≠ mbxU := tuU_ne hdie (by decide)
  have hdoor : s.epDoor (s.unitAddr keeperU) (tuU die) 0x10 (leBytes 4 1) = none := by simp [State.epDoor, hm, hL, h32]
  have htouched : touched 0x10 4 = [0x10] := rfl
  have hone : leNat (leBytes 4 1) = 1 := rfl
  have hword : s.writeWord (s.unitAddr keeperU) (tuU die) 0x10 (leNat (leBytes 4 1)) (2 ^ 32 - 1) =
      (s.wr (tuU die) Reg.TU_STAT_INVAL_BUSY 1, .ok) := by
    simp [State.writeWord, State.wordDoor, hone, hm, hd, he, hdie]
  simp [State.epWrite, hexists, he, tuU_ne hdie (u := keeperU) (by decide), tuU_ne hdie (u := rdU 0) (by decide),
    tuU_ne hdie (u := portU 0) (by decide), hdoor, htouched, hthere, hbar, State.writeRegs_of_word rfl rfl hword]

theorem tuInval_yields (s : State) {die : Nat} (hdie : die < 24) :
    Yields (.tuInval (s.unitAddr keeperU) die) s (fun t => t.rd (tuU die) Reg.TU_STAT_INVAL_BUSY = 1 ∧
      SameRegsBut [(tuU die, Reg.TU_STAT_INVAL_BUSY)] s t ∧ t.tus = s.tus) := by
  have hexec : exec (.tuInval (s.unitAddr keeperU) die) s = done (s.wr (tuU die) Reg.TU_STAT_INVAL_BUSY 1).ok := by
    change execTuInval (s.unitAddr keeperU) die s = _
    simp only [execTuInval, Nat.mod_eq_of_lt hdie, s.epWrite_tuInval hdie, answer_ok]
  exact .of_done hexec ⟨s.rd_wr_same (tuU die) Reg.TU_STAT_INVAL_BUSY 1, (SameRegsBut.of_self _ s).wr 1 (List.mem_singleton_self _), rfl⟩

theorem invalidationDone_yields {s : State} {die : Nat} (hdie : die < 24) (hbusy : s.rd (tuU die) Reg.TU_STAT_INVAL_BUSY = 1) :
    Yields (.invalidationDone die) s (fun t => t.rd (tuU die) Reg.TU_STAT_INVAL_BUSY = 0 ∧ mget t.tus die {} = {} ∧
      SameRegsBut [(tuU die, Reg.TU_STAT_INVAL_BUSY)] s t) := by
  let s1 : State := { s with tus := mdel s.tus die }
  have hexec : exec (.invalidationDone die) s = done (s1.wr (tuU die) Reg.TU_STAT_INVAL_BUSY 0) := by
    change execInvalidationDone die s = _
    simp only [execInvalidationDone, Nat.mod_eq_of_lt hdie, hbusy, if_true]
    rfl
  refine .of_done hexec ⟨s1.rd_wr_same (tuU die) Reg.TU_STAT_INVAL_BUSY 0, ?_,
    SameRegsBut.wr (t := s1) (fun _ _ _ => rfl) 0 (List.mem_singleton_self _)⟩
  exact (mget_mdel s.tus die die {}).trans (if_pos rfl)

/-- Settles O2: accesses of a stack by what its reads and writes do to sound and correctable words, translations by the newest
leaf and by the captured fault, invalidations by what the keeper's write of TU_INVAL does. -/
theorem dramAndTranslationComplete : Obligations.DramAndTranslationComplete := by
  unfold Obligations.DramAndTranslationComplete
  exact ⟨fun _ src _ _ _ hdie hawake hoff hecc => dramRead_yields src hdie hawake hoff hecc,
    fun _ src _ _ _ hdie hawake hoff hecc => dramWrite_yields src hdie hawake hoff hecc,
    fun _ _ _ hdie hch hen hawake => patrolScrub_yields hdie hch hen hawake,
    fun s _ delayed hdie => dramRefresh_yields s delayed hdie,
    fun _ _ agent _ _ _ _ hdie hawake hcanon hleaf hneed => translationWalk_yields agent hdie hawake hcanon hleaf hneed,
    fun s _ agent _ need hdie hcanon => translationWalk_noncanonical_yields s agent need hdie hcanon,
    fun s _ hdie => tuInval_yields s hdie,
    fun _ _ hdie hbusy => invalidationDone_yields hdie hbusy⟩

end Sys2Proof.Machine
end

section
/-!
What a step can answer: a state as `done` leaves it, its memory in canonical form, or the refusal of a bundle (08_bonded_dram R190).
-/
namespace Sys2Proof.Machine

/-! ### Outcomes that are a state -/

/-- An outcome that is `done` of some state. -/
def Completes (o : Host.Outcome State Fault Refusal) : Prop := ∃ r, o = done r

theorem Completes.done (r : State) : Completes (Machine.done r) := ⟨r, rfl⟩

theorem Completes.ite {c : Prop} [Decidable c] {a b : Host.Outcome State Fault Refusal} (ha : Completes a) (hb : Completes b) :
    Completes (if c then a else b) := by
  split
  · exact ha
  · exact hb

theorem Completes.sound {o : Host.Outcome State Fault Refusal} {t : State} (h : Completes o) (ht : o = .next t) : t.Sound := by
  obtain ⟨r, rfl⟩ := h
  exact done_sound r t ht

/-! ### Commands of several accesses, which may end after each of them -/

theorem execDmaAccessFault_completes (die core tag first remote : Nat) (upsets : List (Nat × Nat)) (s : State) :
    Completes (execDmaAccessFault die core tag first remote upsets s) := by
  simp only [execDmaAccessFault]
  (repeat' split) <;> exact .done _

theorem execDmaTransferComplete_completes (die core tag : Nat) (upsets : List (Nat × Nat)) (s : State) :
    Completes (execDmaTransferComplete die core tag upsets s) := by
  simp only [execDmaTransferComplete]
  (repeat' split) <;> exact .done _

theorem execStackPopStart_completes (die core : Nat) (upsets : List (Nat × Nat)) (s : State) :
    Completes (execStackPopStart die core upsets s) := by
  simp only [execStackPopStart]
  (repeat' split) <;> exact .done _

theorem execSampleStart_completes (slot : Nat) (upsets : List (Nat × Nat)) (s : State) :
    Completes (execSampleStart slot upsets s) := by
  simp only [execSampleStart]
  (repeat' split) <;> exact .done _

theorem execReadResponseReceive_completes (qp psn kind syndrome : Nat) (data : List Byte) (ce : Bool) (s : State) :
    Completes (execReadResponseReceive qp psn kind syndrome data ce s) := by
  simp only [execReadResponseReceive]
  (repeat' split) <;> exact .done _

theorem execAccessUnitConsume_completes (slot : Nat) (upsets : List (Nat × Nat)) (s : State) :
    Completes (execAccessUnitConsume slot upsets s) := by
  simp only [execAccessUnitConsume]
  (repeat' split) <;> exact .done _

/-- The issue of a bundle may be refused: of one that is due in a running core, waits for nothing and has a reserved code
(09_core_sequencer R225). -/
theorem execBundleIssue_completes_or_refused (die core frozen : Nat) (upsets : List (Nat × Nat)) (s : State) :
    Completes (execBundleIssue die core frozen upsets s) ∨
      execBundleIssue die core frozen upsets s = .refused .reservedBundle := by
  unfold execBundleIssue
  extract_lets s1 u c t s2 pc b op s3
  split
  · exact .inl (.done _)
  split
  · exact .inl (.done _)
  split
  · exact .inl (.done _)
  split
  · exact .inl (.done _)
  · exact .inl (.done _)
  split
  · exact .inl (.done _)
  · exact .inr rfl

/-! ### Every command -/

/-- Every command but the issue of a bundle ends in a state. The commands stand by the shape of their meanings: one state, a choice
between two, the lemmas above, and last those that look at what they find before they end, in a state on every branch. -/
theorem exec_completes (c : Instr) (s : State) (h : ∀ die core frozen upsets, c ≠ .bundleIssue die core frozen upsets) :
    Completes (exec c s) := by
  cases c with
  | bundleIssue die core frozen upsets => exact absurd rfl (h die core frozen upsets)
  | inputVoltageChange | perstNRelease | pcieLinkTraining | functionLevelReset | thermalTrip | inletOverTemp | dramTempChange |
  wakeComplete | status | resetCause | serial | power | cool | setCap | getCap | smbClockLowTimeout | extest | idcode |
  samplePreload | bypass | tapReset | registerWrite | rcFieldRead | loCaptureRead | cubeAccumulate | mvAccumulate |
  vuResultWrite | drainTileWrite | tagReturn | seqEvt | gather | scatter | scatterAdd | segmentReduce | sortByKey | bucket |
  packRows | unpack | maskCompact | arbitratedAccess | requestPromotion | translationWalk | tuInval | rdReady | strArrLoRead |
  strAuprod | exit | appException | nakReceive | creditReturn | ackDue | replayTimeout | portDown | beaconSend | beaconReceive |
  fabKhb | kokExpiry | idBlockReceive | stqPost | stqRel | mbxBufWrite | mbxSend | mbxDone | mbxLockBreak | mbxKrst | dbSet |
  dbClr | dbMaskWrite | queryDevice | setWakeTolerance | loadJob | startJob | stopJob | checkpointRequest | restore |
  hostRingConsPoll | readLog | clearLog | readTelemetry | fwStage | fwCommit | attest | fabricDiscover | fabricRouteSet |
  reliefTakeover | injectLinkFault | resetUnit | ethLinkChange =>
    exact .done _
  | powerGoodRise | powerGoodFall | modRstNAssert | pllLossOfLock | pcieLinkLoss | powerWindowEnd | powerStateEntry |
  smbAlertResponse | dkrChal | dkrUnlock | waitLimitExpiry | patrolScrub | dramRefresh | invalidationDone | voteSend |
  decisionReceive | roceAckTimeout | dbWait | arrWait | appFence | retrainComplete | childReceive | reportReceive |
  assignReceive | releaseFlitReceive | surveyReplyReceive | reliefCabled | loadCablingTimeout | perstNAssert | pcieLinkUp =>
    exact .ite (.done _) (.done _)
  | dmaAccessFault die core tag first remote upsets => exact execDmaAccessFault_completes die core tag first remote upsets s
  | dmaTransferComplete die core tag upsets => exact execDmaTransferComplete_completes die core tag upsets s
  | stackPopStart die core upsets => exact execStackPopStart_completes die core upsets s
  | sampleStart slot upsets => exact execSampleStart_completes slot upsets s
  | readResponseReceive qp psn kind syndrome data ce => exact execReadResponseReceive_completes qp psn kind syndrome data ce s
  | accessUnitConsume slot upsets => exact execAccessUnitConsume_completes slot upsets s
  | modRstNRelease | pllLock | startUpStageDone | packetArrive | groupWriteComplete | scratchpadScrub | dramRead | dramWrite |
  mbxBufRead | drainGroupWrite | barrierArrival | descriptorFetch | dmaTransferStart | multicastCopyComplete | packTileWrite |
  expandTile | gmeOpFault | gmeOpComplete | stackPushStart | frameHeaderWrite | popComplete | updateRecordStart |
  updateRecordDone | updateFault | voteReceive | fixerCommit | checkpointDrainComplete | drained | checkpointDrainFault |
  laneSegmentSend | rsegReceive | rwordReceive | checkSampleRead | chkReceive | cwordReceive | reductionFault | ethFrameReceive
  | roceWriteReceive | tsPacket | decodeFrame | tensorizeFrame | slotWriteComplete | monitorWaitExpiry | flitSend | flitReceive
  | beaconSilence | tsoffUpdate | offerReceive | offerCollectEnd | reportSend | hostBar0Access | hostBar2Access |
  hostWindowAccess | configurationRequest | stageEntrySend | stageEntryArrive | stagePostComplete | stageEntryWait | fogReceive
  | stepWatchdogExpiry | surveyReplyTimeout | cableWaitExpiry | minilReplyReceive | replyResend =>
    simp only [exec, execModRstNRelease, execPllLock, execStartUpStageDone, execPacketArrive, execGroupWriteComplete,
      execScratchpadScrub, execDramRead, execDramWrite, execMbxBufRead, execDrainGroupWrite, execBarrierArrival,
      execDescriptorFetch, execDmaTransferStart, execMulticastCopyComplete, execPackTileWrite, execExpandTile, execGmeOpFault,
      execGmeOpComplete, execStackPushStart, execFrameHeaderWrite, execPopComplete, execUpdateRecordStart, execUpdateRecordDone,
      execUpdateFault, execVoteReceive, execFixerCommit, execCheckpointDrainComplete, execDrained, execCheckpointDrainFault,
      execLaneSegmentSend, execRsegReceive, execRwordReceive, execCheckSampleRead, execChkReceive, execCwordReceive,
      execReductionFault, execEthFrameReceive, execRoceWriteReceive, execTsPacket, execDecodeFrame, execTensorizeFrame,
      execSlotWriteComplete, execMonitorWaitExpiry, execFlitSend, execFlitReceive, execBeaconSilence, execTsoffUpdate,
      execOfferReceive, execOfferCollectEnd, execReportSend, execHostBar0Access, execHostBar2Access, execHostWindowAccess,
      execConfigurationRequest, execStageEntrySend, execStageEntryArrive, execStagePostComplete, execStageEntryWait,
      execFogReceive, execStepWatchdogExpiry, execSurveyReplyTimeout, execCableWaitExpiry, execMinilReplyReceive,
      execReplyResend]
    (repeat' split) <;> exact .done _

theorem exec_sound {c : Instr} {s t : State} (ht : exec c s = .next t) : t.Sound := by
  by_cases hc : ∃ die core frozen upsets, c = .bundleIssue die core frozen upsets
  · obtain ⟨die, core, frozen, upsets, rfl⟩ := hc
    have hissue : execBundleIssue die core frozen upsets s = .next t := ht
    rcases execBundleIssue_completes_or_refused die core frozen upsets s with hdone | hrefused
    · exact hdone.sound hissue
    · cases hrefused.symm.trans hissue
  · exact (exec_completes c s fun die core frozen upsets h => hc ⟨die, core, frozen, upsets, h⟩).sound ht

/-! ### Steps -/

theorem idleStep_mem (s : State) : (idleStep s).mem = s.mem := by
  by_cases hl : s.rd clkU Reg.CLK_STAT_ROOT_LOCK = 1
  · rw [idleStep_of_lock hl]
    rfl
  · rw [idleStep_of_noLock hl]

/-- Settles O44: a step without a command leaves memory as it is, and every command ends in a state as `done` answers it. -/
theorem stepKeepsMemoryForm : Obligations.StepKeepsMemoryForm := by
  unfold Obligations.StepKeepsMemoryForm
  intro s t hs ht
  cases hp : s.pending with
  | nil =>
    have hidle : idleStep s = t := by simpa only [step, hp, Host.Outcome.next.injEq] using ht
    subst hidle
    simpa only [State.Sound, idleStep_mem] using hs
  | cons c l => exact exec_sound ((stepRunsFrontCommand c l s hp).symm.trans ht)

end Sys2Proof.Machine
end

section
/-!
Which commands answer a next state in every state (09_core_sequencer R225).
-/
namespace Sys2Proof.Machine

/-- Settles O45: every other command ends in a state, and the issue of a bundle does too or is refused. -/
theorem onlyBundlesRefuse : Obligations.OnlyBundlesRefuse := by
  unfold Obligations.OnlyBundlesRefuse
  intro c s
  by_cases hc : ∃ die core frozen upsets, c = .bundleIssue die core frozen upsets
  · obtain ⟨die, core, frozen, upsets, rfl⟩ := hc
    rcases execBundleIssue_completes_or_refused die core frozen upsets s with ⟨r, hr⟩ | hrefused
    · exact .inl ⟨_, hr⟩
    · exact .inr ⟨⟨die, core, frozen, upsets, rfl⟩, hrefused⟩
  · obtain ⟨r, hr⟩ := exec_completes c s fun die core frozen upsets h => hc ⟨die, core, frozen, upsets, h⟩
    exact .inl ⟨_, hr⟩

end Sys2Proof.Machine
end

section
/-!
What the arrival that completes a barrier's group counts at a core that waits for the barrier's tag under a limit
(09_core_sequencer R232, R235).
-/
namespace Sys2Proof.Machine

/-- The arrivals of a barrier with that of core `src` for a generation among them. -/
def withArrival (got : List (Nat × Nat)) (gen src : Nat) : List (Nat × Nat) :=
  if got.contains (gen, src) then got else got ++ [(gen, src)]

theorem mem_withArrival {got : List (Nat × Nat)} {gen src g l : Nat} :
    (g, l) ∈ withArrival got gen src ↔ (g, l) ∈ got ∨ g = gen ∧ l = src := by
  unfold withArrival
  split
  case isTrue h => exact ⟨.inl, fun k => k.elim id fun ⟨hg, hl⟩ => hg ▸ hl ▸ List.contains_iff_mem.1 h⟩
  case isFalse => simp

/-- A core of which barrier `b` has had the last arrival of generation `gen`, that of core `src`. -/
def CoreSt.barrierDone (c : CoreSt) (b gen src : Nat) (got : List (Nat × Nat)) : CoreSt :=
  let br : BarrierSt := { gen := gen + 1, tag := none, got := (withArrival got gen src).filter (fun g => !(g.1 == gen)) }
  { c with bars := mset {} c.bars b br }

/-- The arrival that completes a barrier's group returns the barrier's tag. -/
theorem exec_barrierArrival_of_complete {s : State} {die core b grp src gen tag : Nat} {got : List (Nat × Nat)}
    (hgen : gen < 65535) (hgroup : (s.core die core).barGroup = [(b, grp)])
    (hbar : mget (s.core die core).bars b {} = { gen := gen + 1, tag := some tag, got := got })
    (hall : ∀ l ∈ s.leaves grp, l = src ∨ (gen, l) ∈ got) :
    exec (.barrierArrival die core grp src gen) s =
      done ((s.setCore die core ((s.core die core).barrierDone b gen src got)).returnTag die core tag 0) := by
  have hcur : (gen + 1 + 65535) % 65536 = gen := by omega
  have hcomplete : ((s.leaves grp).all fun l => (withArrival got gen src).contains (gen, l)) = true :=
    List.all_eq_true.2 fun l hl => List.contains_iff_mem.2 (mem_withArrival.2 ((hall l hl).symm.imp_right fun h => ⟨rfl, h⟩))
  unfold withArrival at hcomplete
  simp only [exec, execBarrierArrival, hgroup, hbar, hcur, List.find?_cons, beq_self_eq_true, hcomplete, if_true,
    CoreSt.barrierDone, withArrival]

/-- A tag that returns to a core which waits for it under a limit counts a near miss or none, by a free value. -/
theorem State.rd_returnTag_nearMiss {s : State} {die core tag : Nat} (err : Nat)
    (hout : mget (s.core die core).tags tag .free = .out) (hlimited : s.limited die core 1 tag = true) :
    (s.returnTag die core tag err).rd (seqU die core) Reg.SEQ_NEARMISS_COUNT =
      Nat.min (s.rd (seqU die core) Reg.SEQ_NEARMISS_COUNT + Config.freeNat s.free % 2) (2 ^ 32 - 1) := by
  have htag : s.tagOut die core tag = true := by simp [State.tagOut, hout]
  have hrec : s.recordTag die core tag err = s.setCore die core ((s.recordTag die core tag err).core die core) := by
    simp only [State.recordTag, hout, State.core_setCore_same]
  have hstill : (s.recordTag die core tag err).limited die core 1 tag = true := by rw [hrec]; exact hlimited
  rw [State.returnTag, if_pos htag, State.mayMiss, if_pos hstill]
  refine (State.rd_bump_same _ _ _ _).trans ?_
  rw [hrec]
  rfl

/-- A core frozen in a limited wait for the tag of a barrier of which one arrival is missing, its count of near misses listed in
the register store with a value past its 32 bits. -/
def nearMissesPastWidth : State :=
  let u := seqU 0 0
  let s : State := {
    cores := [(0, { tags := [(9, .out)], barGroup := [(2, 5)], bars := [(2, { gen := 1, tag := some 9 })] })]
    regs := [(fieldKey u Reg.SEQ_NEARMISS_COUNT, 2 ^ 32)] }
  ((((s.wr u Reg.SEQ_STAT_RUN 1).wr u Reg.SEQ_STAT_FROZEN 1).wr u Reg.SEQ_WAIT_KIND 1).wr u Reg.SEQ_WAIT_ID 9).wr u
    (Reg.SEQ_WLIM_COUNT 0) 1

theorem nearMissesPastWidth_limited : nearMissesPastWidth.limited 0 0 1 9 = true := by decide

theorem nearMissesPastWidth_rd : nearMissesPastWidth.rd (seqU 0 0) Reg.SEQ_NEARMISS_COUNT = 2 ^ 32 := by decide

/-- Refutes O6: the arrival that completes a barrier's group is to change no register field, but at a core that waits for the
barrier's tag under a limit the model counts a near miss or none, by a free value. Where the register store lists the count with
a value past its 32 bits, as the statement is of every state, the counting cuts it whatever the free value. -/
theorem not_sequencerCompletes : ¬ Obligations.SequencerCompletes := by
  unfold Obligations.SequencerCompletes
  intro h
  obtain ⟨-, -, -, hbarrier, -⟩ := h
  have hall : ∀ l ∈ nearMissesPastWidth.leaves 5, l = 5 ∨ (0, l) ∈ ([] : List (Nat × Nat)) := by decide
  have hexec := exec_barrierArrival_of_complete (s := nearMissesPastWidth) (die := 0) (core := 0) (b := 2) (gen := 0) (tag := 9)
    (by decide) rfl rfl hall
  have hout : mget ((nearMissesPastWidth.setCore 0 0 ((nearMissesPastWidth.core 0 0).barrierDone 2 0 5 [])).core 0 0).tags 9
      .free = .out := by
    rw [State.core_setCore_same]
    rfl
  have hcounted := State.rd_returnTag_nearMiss 0 hout nearMissesPastWidth_limited
  obtain ⟨t, ht, -, -, -, hregs, -⟩ :=
    hbarrier nearMissesPastWidth 0 0 2 5 5 0 9 [] (by decide) (by decide) (by decide) rfl rfl rfl hall
  have hkept := hregs (seqU 0 0) Reg.SEQ_NEARMISS_COUNT (by simp)
  obtain rfl : State.canon _ = t := Host.Outcome.next.inj (hexec.symm.trans ht)
  rw [State.canon_rd, hcounted, nearMissesPastWidth_rd] at hkept
  exact absurd (hkept.symm.trans_le (Nat.min_le_right _ _)) (by decide)

end Sys2Proof.Machine
end

section
/-!
What the commands of a core's sequencer and its units leave as it is (09_core_sequencer R211, R228; 03_cube_array R74).
-/
namespace Sys2Proof.Machine

/-! ### The control and transfer slots (09_core_sequencer R224, R226, R235) -/

/-- An operation that answers more than the state, as a step from a state that already keeps the rest. -/
theorem SameBut.through_fst {α : Type} {l m : List Part} {s t : State} {q r : State × α} (h : SameBut l s t)
    (k : SameBut m t q.1) (hm : ∀ p ∈ m, p ∈ l) (hq : q = r) : SameBut l s r.1 :=
  hq ▸ h.through (k.widen hm)

theorem State.doBar_frame {s t : State} {die core tag bnum : Nat} (h : s.doBar die core tag bnum = some t) :
    SameBut [.cores] s t := by
  simp only [State.doBar] at h
  split at h
  · cases h
  · cases h
    simp

theorem State.doCtl_frame (s : State) (die core pc t b : Nat) (sld : Option (List Byte)) :
    SameBut [.regs, .cores] s (s.doCtl die core pc t b sld).1 := by
  unfold State.doCtl
  extract_lets ctl c put
  have hput (v r x : Nat) : SameBut [.regs, .cores] s (put v r x).1 := by simp [put]
  -- A tag wait, an event wait, a barrier, a cube's mode, an immediate, a scalar operation, SLD, HALT, then the others.
  split
  case h_1 => simp
  case h_2 => simp
  case h_3 =>
    split
    case h_1 heq => exact (State.doBar_frame heq).widen (by decide)
    case h_2 => exact .of_self _ s
  case h_4 => simp
  case h_5 => exact hput _ _ _
  case h_6 => exact hput _ _ _
  case h_7 =>
    split
    case h_1 => exact hput _ _ _
    case h_2 => exact .of_self _ s
  case h_8 => exact .of_self _ s
  case h_9 => exact .of_self _ s

/-- The sources of a core's transfers are kept in the core. -/
theorem State.keepSources_cores (s : State) (die core : Nat) : SameBut [.cores] s (s.keepSources die core) :=
  s.setCore_frame die core _

/-- The parts that the transfer slot may change. -/
def xferParts : List Part := [.regs, .cores, .gmes, .apps]

theorem State.doXfer_xferParts (s : State) (die core pc t b : Nat) : SameBut xferParts s (s.doXfer die core pc t b).1 := by
  unfold State.doXfer
  extract_lets x c
  -- Transfers, a gather-merge operation, a stack operation, an instruction load, doorbells, then none.
  split
  case h_1 =>
    refine (SameBut.dmaStat die core (by decide)).2 (.through ?_ ((State.keepSources_cores _ die core).widen (by decide)))
    exact (s.setCore_frame die core _).widen (by decide)
  case h_2 => split <;> simp [xferParts]
  case h_3 => simp [xferParts]
  case h_4 => split <;> simp [xferParts]
  case h_5 => simp [xferParts]
  case h_6 => exact .of_self _ s

/-! ### The cycles of a core (09_core_sequencer R206 to R208, R217) -/

/-- The parts that a cycle of a core, with the halt it may end in, may change. -/
def cycleParts : List Part := .scrubQ :: frameEndParts

theorem State.haltIn_cycleParts (s : State) (die core t : Nat) (h : Halt) : SameBut cycleParts s (s.haltIn die core t h) :=
  (s.haltIn_frame die core t h).widen (by decide)

theorem State.bubble_frame (s : State) (die core x : Nat) : SameBut cycleParts s (s.bubble die core x) := by
  unfold State.bubble
  extract_lets u
  split
  · exact .of_self _ s
  · have hlanded : SameBut cycleParts s (s.setCore die core ((s.core die core).landUnits x)) :=
      (s.setCore_frame die core _).widen (by decide)
    split
    next htiles =>
    have htiled := hlanded.through_fst (State.tileWrites_frame _ _ _ _ _) (by decide) htiles
    split
    next hgroups =>
    have hgrouped := htiled.through_fst (State.groupWrites_frame _ _ _ _ _) (by decide) hgroups
    split
    next hresolve =>
    have hresolved := hgrouped.through_fst (State.resolve_frame _ _ _ _ _ _) (by decide) hresolve
    split
    next hreads =>
    have hread := hresolved.through_fst (State.performReads_frame _ _ _ _ _) (by decide) hreads
    split
    · refine .through ?_ (State.haltIn_cycleParts _ _ _ _ _)
      simpa [cycleParts, frameEndParts] using hread
    · simpa [cycleParts, frameEndParts] using hread

theorem State.bubblesTo_frame (s : State) (die core t : Nat) : SameBut cycleParts s (s.bubblesTo die core t) :=
  SameBut.forEach _ _ (fun r _ => r.bubble_frame die core _) s

theorem State.advanceTo_frame (s : State) (die core x : Nat) : SameBut cycleParts s (s.advanceTo die core x) := by
  simp only [State.advanceTo]
  have hbubbles := s.bubblesTo_frame die core x
  split
  · split
    · exact (SameBut.setCore die core _ (by decide)).2 hbubbles
    · exact hbubbles
  · exact .of_self _ s

theorem State.advanceNext_frame (s : State) (die core : Nat) (l : List Nat) : SameBut cycleParts s (s.advanceNext die core l) := by
  unfold State.advanceNext
  split
  · exact s.advanceTo_frame die core _
  · exact .of_self _ s

/-- The parts that the issue of a bundle may change. -/
def bundleParts : List Part := .net :: .gmes :: cycleParts

theorem State.issueBundle_frame (s : State) (die core pc t b : Nat) : SameBut bundleParts s (s.issueBundle die core pc t b) := by
  unfold State.issueBundle
  extract_lets u c0 s0 rnd ds rec0 used
  have hlanded : SameBut bundleParts s s0 := (s.setCore_frame die core c0).widen (by decide)
  -- A split without a name is of a value that leaves the state as it is: an offset, the accesses of a slot, the cubes' issues.
  split
  split
  next htiles =>
  have htiled := hlanded.through_fst (State.tileWrites_frame _ _ _ _ _) (by decide) htiles
  split
  next hgroups =>
  have hgrouped := htiled.through_fst (State.groupWrites_frame _ _ _ _ _) (by decide) hgroups
  split
  split
  split
  extract_lets hout
  split
  next hresolve =>
  have hresolved := hgrouped.through_fst (State.resolve_frame _ _ _ _ _ _) (by decide) hresolve
  split
  next hreads =>
  have hread := hresolved.through_fst (State.performReads_frame _ _ _ _ _) (by decide) hreads
  extract_lets word c4 flow s5
  have hfed : SameBut bundleParts s s5 := (SameBut.setCore die core _ (by decide)).2 hread
  split
  extract_lets c6 s6 s7
  have hissued : SameBut bundleParts s s6 := (SameBut.setCore die core _ (by decide)).2 hfed
  have hdrained : SameBut bundleParts s s7 :=
    .choose ((SameBut.doDrain die core t b _ _ (by decide) (by decide)).2 hissued) hissued
  split
  next hctl =>
  have hcontrolled := hdrained.through_fst (State.doCtl_frame _ _ _ _ _ _ _) (by decide) hctl
  split
  next hxfer =>
  have hsent := hcontrolled.through_fst (State.doXfer_xferParts _ _ _ _ _ _) (by decide) hxfer
  extract_lets s10
  have hdone : SameBut bundleParts s s10 := by simpa [s10, bundleParts, cycleParts, frameEndParts] using hsent
  have hhalt (h : Halt) : SameBut bundleParts s (s10.haltIn die core t h) :=
    hdone.through ((s10.haltIn_cycleParts die core t h).widen (by decide))
  split
  · exact hhalt _
  · clear_value flow
    split
    · exact hhalt _
    · simpa [bundleParts, cycleParts, frameEndParts] using hdone

/-! ### The commands -/

theorem bundleIssue_keeps (die core frozen : Nat) (upsets : List (Nat × Nat)) :
    Keeps (.bundleIssue die core frozen upsets) bundleParts := by
  intro s t ht
  refine .of_upset upsets (by decide) ?_
  change execBundleIssue die core frozen upsets s = .next t at ht
  unfold execBundleIssue at ht
  extract_lets r u c due s1 pc b op s2 at ht
  change SameBut bundleParts r t
  have hbubbles : SameBut bundleParts r s1 := (r.bubblesTo_frame die core due).widen (by decide)
  have hnoted : SameBut bundleParts r s2 := .choose (by simpa [bundleParts, cycleParts, frameEndParts] using hbubbles) hbubbles
  split at ht
  · exact SameBut.of_done (.of_self _ r) ht
  split at ht
  · exact SameBut.of_done (by simp [bundleParts, cycleParts, frameEndParts]) ht
  split at ht
  · exact hbubbles.of_done ht
  split at ht
  case h_1 => exact SameBut.of_done ((SameBut.wr _ _ _ (by decide)).2 hnoted) ht
  case h_2 => exact SameBut.of_done (hnoted.through ((s2.haltViaTag_frame die core _ _).widen (by decide))) ht
  case h_3 =>
    split at ht
    · exact SameBut.of_done (hnoted.through (s2.issueBundle_frame die core pc due b)) ht
    · cases ht

theorem cubeAccumulate_keeps (die core : Nat) : Keeps (.cubeAccumulate die core) cycleParts :=
  .of_done _ (fun _ => rfl) fun s => s.advanceNext_frame die core _

theorem mvAccumulate_keeps (die core : Nat) : Keeps (.mvAccumulate die core) cycleParts :=
  .of_done _ (fun _ => rfl) fun s => s.advanceNext_frame die core _

theorem vuResultWrite_keeps (die core : Nat) : Keeps (.vuResultWrite die core) cycleParts :=
  .of_done _ (fun _ => rfl) fun s => s.advanceNext_frame die core _

theorem drainTileWrite_keeps (die core : Nat) : Keeps (.drainTileWrite die core) cycleParts :=
  .of_done _ (fun _ => rfl) fun s => s.advanceNext_frame die core _

theorem drainGroupWrite_keeps (die core : Nat) : Keeps (.drainGroupWrite die core) cycleParts := by
  intro s t ht
  simp only [exec, execDrainGroupWrite] at ht
  split at ht
  · exact SameBut.of_done (.of_self _ s) ht
  · split at ht
    · exact SameBut.of_done (s.advanceTo_frame die core _) ht
    · exact SameBut.of_done (.of_self _ s) ht

theorem tagReturn_keeps (die core tag err period : Nat) (upsets : List (Nat × Nat)) :
    Keeps (.tagReturn die core tag err period upsets) accParts := by
  intro s t ht
  refine .of_upset upsets (by decide) ?_
  simp only [exec, execTagReturn] at ht
  generalize s.upset upsets = r at ht ⊢
  split at ht
  · exact SameBut.of_done (by simp [accParts]) ht
  · exact SameBut.of_done (by simp [accParts]) ht

theorem waitLimitExpiry_keeps (die core : Nat) : Keeps (.waitLimitExpiry die core) frameEndParts := by
  intro s t ht
  simp only [exec, execWaitLimitExpiry] at ht
  split at ht
  · exact SameBut.of_done ((State.haltCore_frame _ _ _ _ _ _ _ _ _ _).widen (by decide)) ht
  · exact SameBut.of_done (.of_self _ s) ht

theorem barrierArrival_keeps (die core group src gen : Nat) :
    Keeps (.barrierArrival die core group src gen) [.regs, .cores] := by
  intro s t ht
  change execBarrierArrival die core group src gen s = .next t at ht
  unfold execBarrierArrival at ht
  extract_lets c at ht
  split at ht
  · exact SameBut.of_done (.of_self _ s) ht
  · extract_lets br got cur all at ht
    split at ht
    · split at ht
      · exact SameBut.of_done (by simp) ht
      · exact SameBut.of_done (by simp) ht
    · exact SameBut.of_done (by simp) ht

theorem seqEvt_keeps (die core bits period : Nat) : Keeps (.seqEvt die core bits period) [.regs] := by
  refine .of_done _ (fun _ => rfl) fun s => ?_
  simp

/-- Settles O50: every cycle of a core stays within the parts that its units, its drain and a halt may change, the issue of a
bundle adds those of the transfer slot and of upset bits, and the return of a tag changes what an instruction load may. -/
theorem coreFrames : Obligations.CoreFrames := by
  unfold Obligations.CoreFrames
  exact ⟨fun die core frozen upsets => .of_keeps (bundleIssue_keeps die core frozen upsets) (by decide),
    fun die core => .of_keeps (cubeAccumulate_keeps die core) (by decide),
    fun die core => .of_keeps (mvAccumulate_keeps die core) (by decide),
    fun die core => .of_keeps (vuResultWrite_keeps die core) (by decide),
    fun die core => .of_keeps (drainTileWrite_keeps die core) (by decide),
    fun die core => .of_keeps (drainGroupWrite_keeps die core) (by decide),
    fun die core tag err period upsets => .of_keeps (tagReturn_keeps die core tag err period upsets) (by decide),
    fun die core => .of_keeps (waitLimitExpiry_keeps die core) (by decide), barrierArrival_keeps, seqEvt_keeps⟩

end Sys2Proof.Machine
end

section
/-!
What the end of a transfer, a stack's wake and a stack issue that leaves its unit write of the registers and of the core
(07_streams_layout R162, R182; 08_bonded_dram R203; 11_backward_pass R279).
-/
namespace Sys2Proof.Machine

/-! ### Registers that a transfer's end, a doorbell and a stack's wake write -/

theorem SameRegsBut.widen {l m : List (Nat × Field)} {s t : State} (h : SameRegsBut l s t) (hl : ∀ p ∈ l, p ∈ m) :
    SameRegsBut m s t := fun u f hf => h u f fun p hp => hf p (hl p hp)

theorem SameRegsBut.forEach {α : Type} {l : List (Nat × Field)} {L : List α} {f : State → α → State}
    (h : ∀ s, ∀ a ∈ L, SameRegsBut l s (f s a)) (s : State) : SameRegsBut l s (forEach L f s) := by
  induction L generalizing s with
  | nil => exact .of_self l s
  | cons a L ih => exact (h s a (by simp)).through (ih (fun t b hb => h t b (by simp [hb])) (f s a))

/-- Of the registers, a doorbell bit is shown in DB_STAT alone (19_keeper_minil R450, R451). -/
def bellShows : List (Nat × Field) := [(mbxU, Reg.DB_STAT_BITS)]

theorem State.endDbWait_regs (s : State) (i : Nat) : SameRegsBut bellShows s (s.endDbWait i) := by
  unfold State.endDbWait
  simp only []
  (repeat' split)
  case isTrue => exact SameRegsBut.wr (fun _ _ _ => rfl) _ (by simp [bellShows])
  all_goals exact .of_self _ s

theorem State.dbSet_regs (s : State) (bits : Nat) : SameRegsBut bellShows s (s.dbSet bits) := by
  have hset := (SameRegsBut.of_self bellShows s).wr (s.rd mbxU Reg.DB_STAT_BITS ||| bits % 2 ^ 32) (List.mem_singleton_self _)
  have hemit (t : State) (b : Nat) : SameRegsBut bellShows t (t.emit (.msix b)) := fun _ _ _ => rfl
  exact hset.through (.through (.forEach (fun t b _ => hemit t b) _) (.forEach (fun t i _ => t.endDbWait_regs i) _))

/-- The registers in which the end of a transfer shows (07_streams_layout R162, R182). -/
def endShows (die core : Nat) : List (Nat × Field) :=
  [(dmaU die core, Reg.DMA_XFERS_COUNT), (seqU die core, Reg.SEQ_NEARMISS_COUNT), (dmaU die core, Reg.DMA_STAT_BUSY),
    (dmaU die core, Reg.DMA_STAT_TAGS_OUT), (mbxU, Reg.DB_STAT_BITS)]

theorem State.dmaStat_regs (s : State) (die core : Nat) : SameRegsBut (endShows die core) s (s.dmaStat die core) :=
  ((SameRegsBut.of_self _ s).wr _ (by simp [endShows])).wr _ (by simp [endShows])

theorem State.endXfer_regs (s : State) (die core i : Nat) : SameRegsBut (endShows die core) s (s.endXfer die core i) := by
  unfold State.endXfer
  extract_lets c s1
  split
  case h_1 => exact .of_self _ s
  case h_2 =>
    extract_lets d s2
    have hcounted : SameRegsBut (endShows die core) s s1 :=
      ((SameRegsBut.of_self _ s).of_regs (State.setCore_regs s die core _)).bump 1 (by simp [endShows])
    have hreturned : SameRegsBut (endShows die core) s1 (s1.returnTag die core (bitsOf d 455 448) 0) := fun _ _ hf =>
      s1.rd_returnTag die core _ 0 (hf (seqU die core, Reg.SEQ_NEARMISS_COUNT) (by simp [endShows]))
    have hshown := hcounted.through (hreturned.through (State.dmaStat_regs _ die core))
    split
    case isTrue => exact hshown.through ((s2.dbSet_regs _).widen (by simp [bellShows, endShows]))
    case isFalse => exact hshown

/-- SELF_REF of every stack, which an access that wakes the stacks clears (08_bonded_dram R203). -/
def selfRefs : List (Nat × Field) := (List.range 24).map fun d => (dramU d, Reg.DRAM_STAT_SELF_REF)

theorem State.stackUp_regs (s : State) (die : Nat) : SameRegsBut selfRefs s (s.stackUp die) := by
  unfold State.stackUp
  split
  case isFalse => exact .of_self _ s
  case isTrue =>
    have hcause : SameRegsBut selfRefs s s.wakeCause := by
      unfold State.wakeCause
      split <;> exact fun _ _ _ => rfl
    have hwake (t : State) (d : Nat) (hd : d ∈ List.range 24) :
        SameRegsBut selfRefs t (t.wr (dramU d) Reg.DRAM_STAT_SELF_REF 0) :=
      (SameRegsBut.of_self _ t).wr 0 (List.mem_map.2 ⟨d, hd, rfl⟩)
    exact hcause.through (.forEach hwake _)

/-! ### The registers of a stack unit (Table 11-3) -/

/-- What a stack unit shows of its frames: where the next one goes, where the newest one lies, and how many there are. -/
def stackFields : List Field := [Reg.STK_TOP_LO_OFF, Reg.STK_LAST_LO_OFF, Reg.STK_STAT_DEPTH]

theorem stkU_ne_of_mod {u : Nat} (die core : Nat) (hu : u % 64 < 4) : stkU die core ≠ u := by
  simp only [stkU, unitOf]
  omega

/-- A write of a field keeps what the fields at the unit's other places hold. -/
theorem State.rd_wr_of_place (s : State) (u : Nat) {f g : Field} (v : Nat)
    (h : f.off < 2 ^ 24 ∧ g.off < 2 ^ 24 ∧ f.lo < 32 ∧ g.lo < 32 ∧ (f.off ≠ g.off ∨ f.lo ≠ g.lo)) :
    (s.wr u g v).rd u f = s.rd u f := State.rd_wr_other _ _ _ _ _ _ (fieldKey_ne_of_place u h)

/-- The end of a transfer shows in none of a stack unit's registers. -/
theorem State.rd_endXfer_stk (s : State) (die core i : Nat) {f : Field} (hf : f.off < 2 ^ 24 ∧ f.lo < 32) :
    (s.endXfer die core i).rd (stkU die core) f = s.rd (stkU die core) f := by
  refine s.endXfer_regs die core i _ _ fun p hp => ?_
  have hunit : ∀ p ∈ endShows die core, p.1 % 64 < 4 := by
    simp [endShows, dmaU, seqU, mbxU, unitOf, Nat.add_mod, Nat.mul_mod]
  have hplace : ∀ g ∈ (endShows die core).map Prod.snd, g.off < 2 ^ 24 ∧ g.lo < 32 := by
    simp only [endShows, List.map]
    decide
  exact fieldKey_ne_of_unit _ _ (stkU_ne_of_mod die core (hunit p hp)) hf (hplace _ (List.mem_map_of_mem hp))

/-- A ring's position lies in the last word of 16 bytes, whatever the ring: no field of another word is one of it. -/
theorem State.rd_ringNext_other (s : State) (die core ring n u : Nat) {f : Field} (hoff : f.off % 16 ≠ 12) (hlo : f.lo < 32) :
    (s.ringNext die core ring n).rd u f = s.rd u f := by
  have hnext : fieldKey u f ≠ fieldKey (dmaU die core) (Reg.RING_POS_NEXT ring) := by
    simp only [fieldKey, Reg.RING_POS_NEXT]
    omega
  have hahead : fieldKey u f ≠ fieldKey (dmaU die core) (Reg.RING_POS_AHEAD ring) := by
    simp only [fieldKey, Reg.RING_POS_AHEAD]
    omega
  simp only [State.ringNext]
  rw [State.rd_wr_other _ _ _ _ _ _ hahead]
  split
  · rfl
  · exact State.rd_wr_other _ _ _ _ _ _ hnext

/-! ### The end of a frame (R274, R275) -/

theorem State.core_endXfer {s : State} {die core d : Nat} {x : Xfer} (hx : (s.core die core).xfers = [x]) (hd : x.desc = some d)
    (htag : mget (s.core die core).tags (dTag d) .free = .out) : (s.endXfer die core 0).core die core =
      { s.core die core with xfers := [], tags := mset .free (s.core die core).tags (dTag d) .done } := by
  let s1 := (s.setCore die core { s.core die core with xfers := [] }).bump (dmaU die core) Reg.DMA_XFERS_COUNT 1
  let s2 := (s1.returnTag die core (dTag d) 0).dmaStat die core
  have hs1 : s1.core die core = { s.core die core with xfers := [] } := State.core_setCore_same _ _ _ _
  have hout : mget (s1.core die core).tags (dTag d) .free = .out := by rw [hs1]; exact htag
  have hend : s.endXfer die core 0 = if ctlBit d 10 then s2.dbSet (2 ^ bitsOf d 478 474) else s2 := by
    simp only [State.endXfer, hx, hd, List.getElem?_cons_zero, Option.getD_some, List.eraseIdx_cons_zero]
    rfl
  have hbell : SameBut [.regs, .apps] s2 (s.endXfer die core 0) := by
    rw [hend]
    split <;> simp
  have hreturn : s1.returnTag die core (dTag d) 0 = (s1.recordTag die core (dTag d) 0).mayMiss die core 1 (dTag d) :=
    if_pos (by simp [State.tagOut, hout])
  have hs2 : SameBut [.regs] (s1.recordTag die core (dTag d) 0) s2 := by
    simp only [s2, hreturn]
    simp
  rw [State.core_congr (hbell .cores (by simp)), State.core_congr (hs2 .cores (by simp)), State.core_recordTag_of_out 0 hout, hs1]
  rfl

/-- The last issue of a stack unit leaves it: what is left of its core, its frames' registers and of everything else. -/
theorem State.popFront_of_last {s : State} {die core : Nat} {o : StackOp} (h : (s.core die core).stk = [o]) :
    (s.popFront die core).core die core = { s.core die core with stk := [] } ∧
      SameBut [.regs, .cores] s (s.popFront die core) ∧
      ∀ f ∈ stackFields, (s.popFront die core).rd (stkU die core) f = s.rd (stkU die core) f := by
  let s1 := ((s.setCore die core { s.core die core with stk := [] }).wr (stkU die core) Reg.STK_STAT_QUEUED 0).wr
    (stkU die core) Reg.STK_STAT_BUSY 0
  have hs1 : s1.core die core = { s.core die core with stk := [] } := State.core_setCore_same _ _ _ _
  let s2 := s1.setCore die core (s1.core die core)
  have hpop : s.popFront die core = s2.ringNext die core o.ring 0 := by
    have hfeed : (s1.core die core).feedStack o.ring 64 = (s1.core die core, 0, true) :=
      CoreSt.feedStack_of_idle (by rw [hs1]) o.ring 64
    have hstart : s.popFront die core = s1.feedStack die core o.ring := by
      simp only [State.popFront, h, List.tail_cons, List.length_nil]
      rfl
    simp [hstart, State.feedStack, hfeed, s2]
  rw [hpop]
  have hring := s2.ringNext_frame die core o.ring 0
  refine ⟨?_, by simp [s2, s1], fun f hf => ?_⟩
  · rw [State.core_congr (hring .cores (by simp)), State.core_setCore_same, hs1]
  · have hplace : ∀ f ∈ stackFields, f.off % 16 ≠ 12 ∧ f.off < 2 ^ 24 ∧ f.lo < 32 ∧
        ∀ g ∈ [Reg.STK_STAT_BUSY, Reg.STK_STAT_QUEUED], f.off ≠ g.off ∨ f.lo ≠ g.lo := by decide
    obtain ⟨hword, hoff, hlo, hne⟩ := hplace f hf
    have hkept (t : State) (v : Nat) {g : Field} (hg : g ∈ [Reg.STK_STAT_BUSY, Reg.STK_STAT_QUEUED])
        (hp : g.off < 2 ^ 24 ∧ g.lo < 32) : (t.wr (stkU die core) g v).rd (stkU die core) f = t.rd (stkU die core) f :=
      t.rd_wr_of_place _ v ⟨hoff, hp.1, hlo, hp.2, hne g hg⟩
    rw [State.rd_ringNext_other _ _ _ _ _ _ hword hlo, State.setCore_rd, hkept _ _ (by simp) (by decide),
      hkept _ _ (by simp) (by decide), State.setCore_rd]

end Sys2Proof.Machine
end

section
/-!
The start of a frame's transfers, and the pushes whose frame fits the stack (11_backward_pass R273, R274).
-/
namespace Sys2Proof.Machine

/-! ### The start of a frame's transfers (R274, R275) -/

/-- The transfers of a frame as they start, before their sources are kept. -/
def StackOp.frameXfers (o : StackOp) (payload : Nat) : List Xfer :=
  o.descs.zipIdx.map fun a =>
    { ring := o.ring, desc := some (atPayload a.1 payload), started := true, stack := true, last := decide (a.2 + 1 = o.descs.length) }

/-- A transfer without what it keeps of its source. -/
def Xfer.bare (x : Xfer) : Xfer := { x with snap := none }

theorem State.keepSources_eq (s : State) (die core : Nat) : ∃ keep : Xfer → Xfer, (∀ x, (keep x).bare = x.bare) ∧
    s.keepSources die core = s.setCore die core { s.core die core with xfers := (s.core die core).xfers.map keep } := by
  refine ⟨_, fun x => ?_, rfl⟩
  split <;> rfl

/-- A frame is under way: its transfers are those of the issue `o`, and the stack unit is busy. -/
structure State.Framed (t : State) (die core : Nat) (o : StackOp) (payload : Nat) : Prop where
  xfers : (t.core die core).xfers.map Xfer.bare = o.frameXfers payload
  busy : t.rd (stkU die core) Reg.STK_STAT_BUSY = 1

theorem State.Framed.canon {t : State} {die core payload : Nat} {o : StackOp} (h : t.Framed die core o payload) :
    t.canon.Framed die core o payload := ⟨h.xfers, h.busy⟩

theorem State.startFrame_of_idle {s : State} {die core : Nat} (hx : (s.core die core).xfers = []) (o : StackOp) (payload : Nat) :
    (s.startFrame die core o payload).Framed die core o payload ∧
      ((s.startFrame die core o payload).core die core).stk = (s.core die core).stk ∧
      (∀ a, Memory.get (s.startFrame die core o payload).mem a = Memory.get s.mem a) ∧
      ∀ f ∈ stackFields, (s.startFrame die core o payload).rd (stkU die core) f = s.rd (stkU die core) f := by
  let s1 := s.setCore die core { s.core die core with xfers := o.frameXfers payload }
  obtain ⟨keep, hkeep, hkept⟩ := s1.keepSources_eq die core
  have hs1 : s1.core die core = { s.core die core with xfers := o.frameXfers payload } := State.core_setCore_same _ _ _ _
  let s2 := s1.setCore die core { s.core die core with xfers := (o.frameXfers payload).map keep }
  let s3 := s2.wr (stkU die core) Reg.STK_STAT_BUSY 1
  have hstart : s.startFrame die core o payload = s3.dmaStat die core := by
    have hs2 : s1.keepSources die core = s2 := by rw [hkept, hs1]
    have hraw : s.startFrame die core o payload =
        ((s1.keepSources die core).wr (stkU die core) Reg.STK_STAT_BUSY 1).dmaStat die core := by
      simp only [State.startFrame, hx, List.nil_append]
      rfl
    rw [hraw, hs2]
  have hstat := s3.dmaStat_frame die core
  have hcore : (s3.dmaStat die core).core die core = { s.core die core with xfers := (o.frameXfers payload).map keep } :=
    (State.core_congr (hstat .cores (by simp)) die core).trans (State.core_setCore_same s1 die core _)
  have hrd {f : Field} (hf : f.off < 2 ^ 24 ∧ f.lo < 32) : (s3.dmaStat die core).rd (stkU die core) f = s3.rd (stkU die core) f := by
    have hne {g : Field} (hg : g.off < 2 ^ 24 ∧ g.lo < 32) : fieldKey (stkU die core) f ≠ fieldKey (dmaU die core) g :=
      fieldKey_ne_of_unit _ _ (stkU_ne_of_mod die core (by simp only [dmaU, unitOf]; omega)) hf hg
    exact (State.rd_wr_other _ _ _ _ _ _ (hne (by decide))).trans (State.rd_wrB_other _ _ _ _ _ _ (hne (by decide)))
  rw [hstart]
  refine ⟨⟨?_, ?_⟩, by rw [hcore], fun a => hstat .mem (by simp) a, fun f hf => ?_⟩
  · have hbare (l : List Xfer) : (l.map keep).map Xfer.bare = l.map Xfer.bare := by simp [hkeep]
    rw [hcore, hbare]
    exact List.map_map
  · exact (hrd (by decide)).trans (State.rd_wr_same _ _ _ _)
  · have hplace : ∀ f ∈ stackFields, (f.off < 2 ^ 24 ∧ f.lo < 32) ∧
        (f.off ≠ Reg.STK_STAT_BUSY.off ∨ f.lo ≠ Reg.STK_STAT_BUSY.lo) := by decide
    obtain ⟨hf, hne⟩ := hplace f hf
    exact (hrd hf).trans (State.rd_wr_of_place _ _ _ ⟨hf.1, by decide, hf.2, by decide, hne⟩)

/-! ### A push (R274) -/

theorem State.setFront_core {s : State} {die core : Nat} {o o' : StackOp} {rest : List StackOp}
    (h : (s.core die core).stk = o :: rest) :
    (s.setFront die core o').core die core = { s.core die core with stk := o' :: rest } := by
  have hfront : ((o :: rest).zipIdx.map fun p => if p.2 = 0 then o' else p.1) = o' :: rest := by
    refine List.ext_getElem (by simp) fun k hk _ => ?_
    cases k <;> simp
  rw [State.setFront, State.core_setCore_same, h, hfront]

theorem State.localRead_zero (s : State) (src die core off : Nat) : s.localRead src die core off 0 = (s, some [], none) := rfl

theorem State.vread_zero (s : State) (ag : Agent) (va need : Nat) : s.vread ag va 0 need = (s, ⟨0, 0, [], none⟩) := rfl

theorem State.vwrite_nil (s : State) (ag : Agent) (va : Nat) : s.vwrite ag va [] = (s, ⟨0, 0, [], none⟩) := rfl

/-- The issue `o` is the front one of a core's stack unit, may start, and its frame has no stamps: every descriptor has arrived,
and no transfer is in flight. -/
structure State.Fronts (s : State) (die core : Nat) (o : StackOp) (rest : List StackOp) : Prop where
  stk : (s.core die core).stk = o :: rest
  idle : (s.core die core).xfers = []
  run : o.run = none
  count : o.descs.length = o.count
  nst : o.nst = 0
  stoff : o.stoff ≤ spBytes

theorem State.Fronts.ready {s : State} {die core : Nat} {o : StackOp} {rest : List StackOp} (h : s.Fronts die core o rest) :
    (s.core die core).stackReady o.pop = some o := by
  simp [CoreSt.stackReady, h.stk, h.run, h.count]

theorem State.Fronts.block {s : State} {die core : Nat} {o : StackOp} {rest : List StackOp} (h : s.Fronts die core o rest) :
    o.block = 0 := by simp [StackOp.block, h.nst, roundUp]

/-- The bytes of a frame without stamps. -/
def StackOp.frameSize (o : StackOp) : Nat := 64 + roundUp (payloadEnd o.descs) 64

/-- The state in which a frame without stamps has its place at `top`. -/
def State.placed (s : State) (die core : Nat) (o : StackOp) (top : Nat) : State :=
  let u := stkU die core
  ((((s.wr u Reg.STK_TOP_LO_OFF (top + o.frameSize)).wr u Reg.STK_LAST_LO_OFF top).wr u Reg.STK_STAT_DEPTH
    (s.rd u Reg.STK_STAT_DEPTH + 1)).wr u Reg.STK_HWM_LO_OFF (Nat.max (top + o.frameSize) (s.rd u Reg.STK_HWM_LO_OFF))).setFront
    die core { o with run := some (roundUp (payloadEnd o.descs) 64,
      if s.rd u Reg.STK_STAT_DEPTH = 0 then 2 ^ 64 - 1 else s.rd u Reg.STK_LAST_LO_OFF) }

/-- The fields in which the place of a frame shows. -/
def placeFields : List Field := stackFields ++ [Reg.STK_HWM_LO_OFF]

theorem State.placed_regs (s : State) (die core : Nat) (o : StackOp) (top : Nat) :
    SameRegsBut (placeFields.map fun f => (stkU die core, f)) s (s.placed die core o top) := by
  refine SameRegsBut.of_regs ?_ (State.setCore_regs _ die core _)
  exact ((((SameRegsBut.of_self _ s).wr _ (by simp [placeFields, stackFields])).wr _ (by simp [placeFields, stackFields])).wr _
    (by simp [placeFields, stackFields])).wr _ (by simp [placeFields, stackFields])

/-- Another field of the stack unit reads as before. -/
theorem State.rd_placed_other (s : State) (die core : Nat) (o : StackOp) (top : Nat) {f : Field} (hf : f.off < 2 ^ 24 ∧ f.lo < 32)
    (hne : ∀ g ∈ placeFields, f.off ≠ g.off ∨ f.lo ≠ g.lo) :
    (s.placed die core o top).rd (stkU die core) f = s.rd (stkU die core) f := by
  refine s.placed_regs die core o top _ _ fun p hp => ?_
  obtain ⟨g, hg, rfl⟩ := List.mem_map.1 hp
  have hplace : ∀ g ∈ placeFields, g.off < 2 ^ 24 ∧ g.lo < 32 := by decide
  exact fieldKey_ne_of_place _ ⟨hf.1, (hplace g hg).1, hf.2, (hplace g hg).2, hne g hg⟩

theorem State.stkBase_placed (s : State) (die core : Nat) (o : StackOp) (top : Nat) :
    (s.placed die core o top).stkBase (stkU die core) = s.stkBase (stkU die core) := by
  simp only [State.stkBase]
  rw [s.rd_placed_other die core o top (by decide) (by decide), s.rd_placed_other die core o top (by decide) (by decide)]

/-- What the stack unit shows of a frame that has its place within 64 GiB of the stack's base. -/
theorem State.placed_shows {s : State} {die core : Nat} {o : StackOp} {top : Nat} (hfit : top + o.frameSize < 2 ^ 36)
    (hdepth : s.rd (stkU die core) Reg.STK_STAT_DEPTH < 2 ^ 16 - 1) :
    (s.placed die core o top).rd (stkU die core) Reg.STK_TOP_LO_OFF = top + o.frameSize ∧
      (s.placed die core o top).rd (stkU die core) Reg.STK_LAST_LO_OFF = top ∧
      (s.placed die core o top).rd (stkU die core) Reg.STK_STAT_DEPTH = s.rd (stkU die core) Reg.STK_STAT_DEPTH + 1 := by
  simp only [State.placed, State.setFront, State.setCore_rd]
  refine ⟨?_, ?_, ?_⟩ <;> simp (disch := decide) only [State.rd_wr_of_place, State.rd_wr_same]
  · exact Nat.mod_eq_of_lt hfit
  · exact Nat.mod_eq_of_lt (by omega : top < 2 ^ 36)
  · exact Nat.mod_eq_of_lt (by omega : s.rd (stkU die core) Reg.STK_STAT_DEPTH + 1 < 2 ^ 16)

section
variable {s : State} {die core top : Nat} {o : StackOp} {rest : List StackOp} (h : s.Fronts die core o rest) (hpop : o.pop = false)
  (htop : s.rd (stkU die core) Reg.STK_TOP_LO_OFF = top) (hfit : top + o.frameSize ≤ s.stkSize (stkU die core))
include h hpop htop hfit

/-- A push without stamps whose frame fits places it and starts its transfers. -/
theorem exec_stackPushStart_of_fit : exec (.stackPushStart die core []) s =
    done ((s.placed die core o top).startFrame die core o (s.stkBase (stkU die core) + top + 64)) := by
  have hready := hpop ▸ h.ready
  have hup : s.upset [] = s := rfl
  have hpad : padTo 0 [] = [] := rfl
  have hsize : 64 + roundUp (payloadEnd o.descs) 64 = o.frameSize := rfl
  change execStackPushStart die core [] s = _
  simp only [execStackPushStart, hup, hready, h.block, h.nst, htop, Nat.add_zero, Nat.mul_zero,
    State.localRead_zero, hpad, State.vwrite_nil, hsize]
  rw [if_neg (Nat.not_lt.2 h.stoff), if_neg (Nat.not_lt.2 hfit), if_neg (by decide), ← s.stkBase_placed die core o top]
  rfl

theorem stackPushStart_yields (hsize : s.stkSize (stkU die core) < 2 ^ 36)
    (hdepth : s.rd (stkU die core) Reg.STK_STAT_DEPTH < 2 ^ 16 - 1) :
    Yields (.stackPushStart die core []) s (fun t => t.rd (stkU die core) Reg.STK_TOP_LO_OFF = top + o.frameSize ∧
      t.rd (stkU die core) Reg.STK_LAST_LO_OFF = top ∧
      t.rd (stkU die core) Reg.STK_STAT_DEPTH = s.rd (stkU die core) Reg.STK_STAT_DEPTH + 1 ∧
      t.Framed die core o (s.stkBase (stkU die core) + top + 64) ∧ SameMemBut 0 0 s t) := by
  have hplaced : ((s.placed die core o top).core die core).xfers = [] := by
    rw [State.placed, State.setFront_core (rest := rest) (o := o) (by exact h.stk)]
    exact h.idle
  obtain ⟨htop', hlast, hdepth'⟩ := State.placed_shows (s := s) (die := die) (core := core) (o := o) (top := top) (by omega) hdepth
  obtain ⟨hframed, -, hmem, hrd⟩ := State.startFrame_of_idle hplaced o (s.stkBase (stkU die core) + top + 64)
  refine .of_done (exec_stackPushStart_of_fit h hpop htop hfit) ?_
  simp only [State.canon_rd, hrd Reg.STK_TOP_LO_OFF (by decide), hrd Reg.STK_LAST_LO_OFF (by decide),
    hrd Reg.STK_STAT_DEPTH (by decide), SameMemBut.canon]
  exact ⟨htop', hlast, hdepth', hframed.canon, fun a _ => hmem a⟩

end

end Sys2Proof.Machine
end

section
/-!
A frame's header read from a page, and the pops that find the header they expect (11_backward_pass R273, R275).
-/
namespace Sys2Proof.Machine

/-! ### A frame's header (Table 11-2) -/

theorem slice_append_left {xs : List Byte} (ys : List Byte) {off n : Nat} (h : off + n ≤ xs.length) :
    slice (xs ++ ys) off n = slice xs off n := by
  refine List.map_congr_left fun i hi => ?_
  have hlt : off + i < xs.length := by
    have hin := List.mem_range.1 hi
    omega
  simp [List.getElem?_append_left hlt]

theorem slice_append_right {xs : List Byte} (ys : List Byte) {off n : Nat} (h : xs.length ≤ off) :
    slice (xs ++ ys) off n = slice ys (off - xs.length) n := by
  refine List.map_congr_left fun i _ => ?_
  have hsub : off + i - xs.length = off - xs.length + i := by omega
  simp [List.getElem?_append_right (show xs.length ≤ off + i by omega), hsub]

theorem leNat_slice_leBytes (n v : Nat) : leNat (slice (leBytes n v) 0 n) = v % 2 ^ (8 * n) := by
  have hwhole := slice_self (leBytes n v)
  rw [leBytes_length] at hwhole
  rw [hwhole, leNat_leBytes]

theorem frameHeader_length (layer nst nxfer step psize prev : Nat) : (frameHeader layer nst nxfer step psize prev).length = 64 := by
  simp [frameHeader]

/-- What a frame's header holds is read back. -/
theorem frameHeader_fields (layer nst nxfer step psize prev : Nat) :
    let h := frameHeader layer nst nxfer step psize prev
    leAt h 0 2 = layer % 2 ^ 16 ∧ leAt h 2 1 = nst % 2 ^ 8 ∧ leAt h 4 2 = nxfer % 2 ^ 16 ∧ leAt h 8 8 = step % 2 ^ 64 ∧
      leAt h 0x10 4 = psize % 2 ^ 32 ∧ leAt h 0x18 8 = prev % 2 ^ 64 := by
  simp [frameHeader, leAt, slice_append_left, slice_append_right, leNat_slice_leBytes]

/-! ### The read of a header (08_bonded_dram R195, R203) -/

section
variable {s : State} {w : PageMap} {i : Nat} (h : s.Paged w) (hi : i < 2 ^ 21)
include h hi

/-- An access of this module to the page, by its target, is made by the page's stack. -/
theorem State.Paged.access_target {n : Nat} (src : Nat) (data : Option (List Byte)) (hn : i + n ≤ 2 ^ 21) :
    s.access src (w.target s.job.modId i) data n = (s.stackUp w.home).served (w.byte i) data n := by
  obtain ⟨-, -, -, -, hhome, hq, hm, -⟩ := State.pageAt_iff.1 h.page
  obtain ⟨hmod, hdie, hep, -, -⟩ := w.target_names hm hhome hq hi
  have hup := s.stackUp_frame w.home
  have hjob : (s.stackUp w.home).job = s.job := hup .job (by simp)
  rw [State.access_of_here _ _ _ h.net hmod, State.serveRun_of_dram _ _ _ hep, hdie, ← hjob]
  exact (h.of_sameBut hup).serveAt _ _ hi hn

/-- A translation through the leaf that the unit holds writes no register but SELF_REF. -/
theorem State.Paged.translate_regs {need : Nat} (agent : Nat) (hneed : entryAllows w.e need = true) :
    SameRegsBut selfRefs s (s.translate w.die agent (w.va i) need).1 := by
  obtain ⟨-, -, -, hp, -⟩ := State.pageAt_iff.1 h.page
  obtain ⟨t, ht, -, hframe⟩ := (h.of_sameBut (s.stackUp_frame w.die)).leafOf hi
  have htr : (s.translate w.die agent (w.va i) need).1 = t := by
    simp [State.translate, show canonical (w.va i) = true from canonical_of_page hp hi, ht, hneed]
  rw [htr]
  exact (s.stackUp_regs w.die).through fun u f _ => hframe .regs (by simp) u f

/-- A read of the page's bytes within a block writes no register but SELF_REF. -/
theorem State.Paged.vread_regs {n need : Nat} {ag : Agent} (hag : s.tuOf ag (w.va i) = w.die) (hn : 0 < n)
    (hblock : i % 64 + n ≤ 64) (hneed : entryAllows w.e need = true) : SameRegsBut selfRefs s (s.vread ag (w.va i) n need).1 := by
  have htrregs := h.translate_regs hi ag.code hneed
  obtain ⟨s1, htr, hp1, hframe⟩ := h.translate ag.code hi hneed
  have hjob : s1.job = s.job := hframe .job (by simp)
  have hacc := hp1.access_target hi (n := n) ag.src none (by omega)
  rw [htr] at htrregs
  rw [hjob] at hacc
  rw [← hag] at htr
  rw [State.vread_of_block hn (w.va_mod i ▸ hblock) htr hacc]
  exact htrregs.through (s1.stackUp_regs w.home)

end

/-- No stack's SELF_REF is a register of the keeper. -/
theorem SameRegsBut.keeper {s t : State} (h : SameRegsBut selfRefs s t) {f : Field} (hf : f.off < 2 ^ 24 ∧ f.lo < 32) :
    t.rd keeperU f = s.rd keeperU f := by
  refine h _ _ fun p hp => ?_
  obtain ⟨d, hd, rfl⟩ := List.mem_map.1 hp
  exact fieldKey_ne_of_unit _ _ (by simp only [keeperU, dramU, unitOf]; omega) hf
    (by decide : Reg.DRAM_STAT_SELF_REF.off < 2 ^ 24 ∧ Reg.DRAM_STAT_SELF_REF.lo < 32)

/-! ### A pop (R275) -/

/-- The issue `o` at the front of a stack unit with a frame's size and the place of the one before. -/
def StackOp.running (o : StackOp) (psize prev : Nat) : StackOp := { o with run := some (psize, prev) }

/-- The step, the size and the place of the one before that a header of an issue's frame holds: each fits its field, and the
payload holds the issue's transfers. -/
structure StackOp.Header (o : StackOp) (step psize prev : Nat) : Prop where
  count_lt : o.count < 2 ^ 16
  step_lt : step < 2 ^ 64
  psize_lt : psize < 2 ^ 32
  prev_lt : prev < 2 ^ 64
  fits : payloadEnd o.descs ≤ psize

/-- Such a header is read back as it stands. -/
theorem StackOp.Header.fields {o : StackOp} {step psize prev : Nat} (h : o.Header step psize prev) :
    let b := frameHeader o.tag 0 o.count step psize prev
    leAt b 0 2 = o.tag ∧ leAt b 2 1 = 0 ∧ leAt b 4 2 = o.count ∧ leAt b 8 8 = step ∧ leAt b 0x10 4 = psize ∧
      leAt b 0x18 8 = prev := by
  have htag : o.tag % 2 ^ 16 = o.tag := Nat.mod_eq_of_lt (Nat.mod_lt _ (by decide))
  simpa only [htag, Nat.zero_mod, Nat.mod_eq_of_lt h.count_lt, Nat.mod_eq_of_lt h.step_lt, Nat.mod_eq_of_lt h.psize_lt,
    Nat.mod_eq_of_lt h.prev_lt] using frameHeader_fields o.tag 0 o.count step psize prev

section
variable {s s1 : State} {die core psize prev a : Nat} {o : StackOp} {rest : List StackOp} (h : s.Fronts die core o rest)
  (hpop : o.pop = true) (hdepth : s.rd (stkU die core) Reg.STK_STAT_DEPTH ≠ 0)
  (hheader : o.Header (s.rd keeperU Reg.FX_STEP_LO_VALUE) psize prev)
  (hread : s.vread (s.dmaAgent die core) (s.stkBase (stkU die core) + s.rd (stkU die core) Reg.STK_LAST_LO_OFF) 64 permRead =
    (s1, ⟨0, a, frameHeader o.tag 0 o.count (s.rd keeperU Reg.FX_STEP_LO_VALUE) psize prev, none⟩))
  (hstep : s1.rd keeperU Reg.FX_STEP_LO_VALUE = s.rd keeperU Reg.FX_STEP_LO_VALUE)
include h hpop hdepth hheader hread hstep

/-- A pop without stamps of the frame whose header it expects starts the frame's transfers. -/
theorem exec_stackPopStart_of_match : exec (.stackPopStart die core []) s =
    done ((s1.setFront die core (o.running psize prev)).startFrame die core o
      (s.stkBase (stkU die core) + s.rd (stkU die core) Reg.STK_LAST_LO_OFF + 64)) := by
  have hready := hpop ▸ h.ready
  have hup : s.upset [] = s := rfl
  obtain ⟨hlayer, hstamps, hxfers, hstep', hsize, hback⟩ := hheader.fields
  change execStackPopStart die core [] s = _
  simp only [execStackPopStart, hup, hready, h.block, h.nst, Nat.add_zero, Nat.mul_zero, hread, hlayer,
    hstamps, hxfers, hstep', hsize, hback, hstep, State.localRead_zero, State.vread_zero]
  rw [if_neg (Nat.not_lt.2 h.stoff), if_neg hdepth, if_neg (by decide), if_neg (by simpa using hheader.fits), if_neg (by decide)]
  rfl

theorem stackPopStart_yields (hcore : s1.core die core = s.core die core)
    (hmem : ∀ b, Memory.get s1.mem b = Memory.get s.mem b) :
    Yields (.stackPopStart die core []) s (fun t => (t.core die core).stk = o.running psize prev :: rest ∧
      t.Framed die core o (s.stkBase (stkU die core) + s.rd (stkU die core) Reg.STK_LAST_LO_OFF + 64) ∧ SameMemBut 0 0 s t) := by
  have hfront : (s1.setFront die core (o.running psize prev)).core die core =
      { s1.core die core with stk := o.running psize prev :: rest } := State.setFront_core (hcore ▸ h.stk)
  have hidle : ((s1.setFront die core (o.running psize prev)).core die core).xfers = [] := by
    rw [hfront, hcore]
    exact h.idle
  obtain ⟨hframed, hstarted, hsame, -⟩ := State.startFrame_of_idle hidle o
    (s.stkBase (stkU die core) + s.rd (stkU die core) Reg.STK_LAST_LO_OFF + 64)
  refine .of_done (exec_stackPopStart_of_match h hpop hdepth hheader hread hstep)
    ⟨?_, hframed.canon, SameMemBut.canon.2 fun b _ => (hsame b).trans (hmem b)⟩
  rw [State.canon_core, hstarted, hfront]

end

end Sys2Proof.Machine
end

section
/-!
Where the pushes and pops of an activation stack complete (11_backward_pass R273 to R275).
-/
namespace Sys2Proof.Machine

/-! ### The end of a push and of a pop (R274, R275) -/

/-- The transfers of the core's one stack issue `o` have moved their data, and the last of them, `x`, holds its tag back. -/
structure State.FrameMoved (s : State) (die core d : Nat) (o : StackOp) (x : Xfer) : Prop where
  stk : (s.core die core).stk = [o]
  xfers : (s.core die core).xfers = [x]
  stack : x.stack = true
  last : x.last = true
  moved : x.moved = true
  desc : x.desc = some d
  tag : mget (s.core die core).tags (dTag d) .free = .out

section
variable {s t : State} {die core d : Nat} {o : StackOp} {x : Xfer} (h : s.FrameMoved die core d o x)
include h

theorem State.FrameMoved.congr (hcores : t.cores = s.cores) : t.FrameMoved die core d o x := by
  have hcore := State.core_congr hcores die core
  exact { h with stk := hcore ▸ h.stk, xfers := hcore ▸ h.xfers, tag := hcore ▸ h.tag }

theorem State.FrameMoved.frameMoved : (s.core die core).frameMoved = true := by
  simp [CoreSt.frameMoved, h.xfers, h.stack, h.last, h.moved]

theorem State.FrameMoved.endFrame_eq : s.endFrame die core = (s.endXfer die core 0).popFront die core := by
  simp [State.endFrame, h.xfers, h.stack]

/-- The end of a frame returns the last tag and frees the stack unit. -/
theorem State.FrameMoved.ended : (s.endFrame die core).Freed die core (dTag d) .done ∧
    ((s.endFrame die core).core die core).stk = [] ∧
    (∀ a, Memory.get (s.endFrame die core).mem a = Memory.get s.mem a) ∧
    ∀ f ∈ stackFields, (s.endFrame die core).rd (stkU die core) f = s.rd (stkU die core) f := by
  have hend := State.core_endXfer h.xfers h.desc h.tag
  have hxfer := s.endXfer_frame die core 0
  obtain ⟨hcore, hpop, hrd⟩ := State.popFront_of_last (s := s.endXfer die core 0) (o := o) (by rw [hend]; exact h.stk)
  have hplace : ∀ f ∈ stackFields, f.off < 2 ^ 24 ∧ f.lo < 32 := by decide
  rw [h.endFrame_eq]
  refine ⟨⟨by rw [hcore, hend], ?_⟩, by rw [hcore], fun a => (hpop .mem (by simp) a).trans (hxfer .mem (by simp) a), fun f hf => ?_⟩
  · rw [hcore, hend, mget_mset_same]
  · exact (hrd f hf).trans (s.rd_endXfer_stk die core 0 (hplace f hf))

/-- A push of which every transfer has moved its data writes its header and ends. -/
theorem frameHeaderWrite_yields {w : PageMap} {i psize prev : Nat} (hw : w.die = die) (hp : s.Paged w) (hi : i % 64 = 0)
    (hfit : i + 64 ≤ 2 ^ 21)
    (hat : s.stkBase (stkU die core) + s.rd (stkU die core) Reg.STK_LAST_LO_OFF = w.va i) (hpop : o.pop = false)
    (hrun : o.run = some (psize, prev)) (hfailed : o.failed = false) :
    Yields (.frameHeaderWrite die core) s (fun t =>
      Holds t (w.byte i) (frameHeader o.tag o.nst o.count (s.rd keeperU Reg.FX_STEP_LO_VALUE) psize prev) ∧
      SameMemBut (w.byte i) 64 s t ∧ (t.core die core).stk = [] ∧ t.Freed die core (dTag d) .done) := by
  have hlen := frameHeader_length o.tag o.nst o.count (s.rd keeperU Reg.FX_STEP_LO_VALUE) psize prev
  generalize hheader : frameHeader o.tag o.nst o.count (s.rd keeperU Reg.FX_STEP_LO_VALUE) psize prev = header at hlen ⊢
  obtain ⟨t, hwrite, hsees⟩ := hp.vwrite (ag := s.dmaAgent die core) (bs := header) hw.symm (by omega : i < 2 ^ 21)
    (by omega) (by omega)
  have hput : SameBut [.mem, .ecc] s (s.putBytes (w.byte i) header) := s.putBytes_frame _ _
  have hcores : t.cores = s.cores := (hsees.frame .cores (by simp)).trans (hput .cores (by simp))
  obtain ⟨hfreed, hstk, hmem, -⟩ := (h.congr hcores).ended
  have hexec : exec (.frameHeaderWrite die core) s = done (t.endFrame die core) := by
    change execFrameHeaderWrite die core s = _
    simp only [execFrameHeaderWrite, h.stk, hrun, hpop, hfailed, h.frameMoved, hat, hheader]
    rw [hwrite]
    rfl
  obtain ⟨hholds, hsame⟩ := holds_and_sameMemBut_of_put (s := s) (t := s.putBytes (w.byte i) header) rfl
  rw [hlen] at hsame
  have hget (a : Nat) : Memory.get (t.endFrame die core).canon.mem a = Memory.get (s.putBytes (w.byte i) header).mem a :=
    (State.canon_get _ a).trans ((hmem a).trans (hsees.get a))
  exact .of_done hexec ⟨hholds.of_get hget, fun a ha => (hget a).trans (hsame a ha), hstk, hfreed⟩

/-- A pop of which every transfer has moved its data takes its frame off the stack and ends. -/
theorem popComplete_yields {psize prev : Nat} (hprev : prev < 2 ^ 36)
    (hlast : s.rd (stkU die core) Reg.STK_LAST_LO_OFF < 2 ^ 36) (hdepth : s.rd (stkU die core) Reg.STK_STAT_DEPTH < 2 ^ 16)
    (hpop : o.pop = true) (hrun : o.run = some (psize, prev)) (hfailed : o.failed = false) :
    Yields (.popComplete die core) s (fun t =>
      t.rd (stkU die core) Reg.STK_TOP_LO_OFF = s.rd (stkU die core) Reg.STK_LAST_LO_OFF ∧
      t.rd (stkU die core) Reg.STK_LAST_LO_OFF = prev ∧
      t.rd (stkU die core) Reg.STK_STAT_DEPTH = s.rd (stkU die core) Reg.STK_STAT_DEPTH - 1 ∧
      (t.core die core).stk = [] ∧ t.Freed die core (dTag d) .done ∧ SameMemBut 0 0 s t) := by
  let s1 := ((s.wr (stkU die core) Reg.STK_TOP_LO_OFF (s.rd (stkU die core) Reg.STK_LAST_LO_OFF)).wr (stkU die core)
    Reg.STK_LAST_LO_OFF prev).wr (stkU die core) Reg.STK_STAT_DEPTH (s.rd (stkU die core) Reg.STK_STAT_DEPTH - 1)
  have hmoved : s1.FrameMoved die core d o x := h.congr rfl
  obtain ⟨hfreed, hstk, hmem, hrd⟩ := hmoved.ended
  have hexec : exec (.popComplete die core) s = done (s1.endFrame die core) := by
    change execPopComplete die core s = _
    simp only [execPopComplete, h.stk, hrun, hpop, hfailed, h.frameMoved]
    rfl
  refine .of_done hexec ?_
  simp only [State.canon_rd, hrd Reg.STK_TOP_LO_OFF (by decide), hrd Reg.STK_LAST_LO_OFF (by decide),
    hrd Reg.STK_STAT_DEPTH (by decide), SameMemBut.canon, s1]
  refine ⟨?_, ?_, ?_, hstk, hfreed, fun a _ => hmem a⟩ <;> simp (disch := decide) only [State.rd_wr_of_place, State.rd_wr_same]
  · exact Nat.mod_eq_of_lt hlast
  · exact Nat.mod_eq_of_lt hprev
  · exact Nat.mod_eq_of_lt (by omega : s.rd (stkU die core) Reg.STK_STAT_DEPTH - 1 < 2 ^ 16)

end

/-- Settles O9, command by command: a push and a pop start their frame's transfers from the place that the stack unit gives it, and
the end of a frame returns the last tag after the header is written or the frame is off the stack. -/
theorem stackFramesComplete : Obligations.StackFramesComplete := by
  unfold Obligations.StackFramesComplete
  refine ⟨?_, ?_, ?_, ?_⟩
  · intro s die core p i top sz o rest _ _ hstk hx hpop hrun hcount hnst hst htop hsize hsz hdepth hat hfit
    subst hsize
    obtain ⟨t, hexec, htop', hlast, hdepth', hframed, hmem⟩ :=
      stackPushStart_yields ⟨hstk, hx, hrun, hcount, hnst, hst⟩ hpop htop hfit hsz hdepth
    rw [hat] at hframed
    exact ⟨t, hexec, htop', hlast, hdepth', hframed.busy, hframed.xfers, hmem⟩
  · intro s die core p e home q i psize prev d o x _ _ hpage hecc hnet hi hfit hat hstk _ hpop hrun hfailed hx hstack hlast hmoved
      hdesc htag
    have hframe : s.FrameMoved die core d o x := ⟨hstk, hx, hstack, hlast, hmoved, hdesc, htag⟩
    obtain ⟨t, hexec, hholds, hmem, hempty, hxfers, hdone⟩ :=
      frameHeaderWrite_yields (w := ⟨die, p, e, home, q⟩) hframe rfl ⟨hpage, hecc, hnet⟩ hi hfit hat hpop hrun hfailed
    exact ⟨t, hexec, hholds, hmem, hempty, hxfers, hdone⟩
  · intro s die core p e home q i psize prev o rest _ _ hpage hecc hnet hi hfit hat hstk hx hpop hrun hcount hcount16 hnst hst hdepth
      hpsize hprev hstep hpayload hheader
    have hp : s.Paged ⟨die, p, e, home, q⟩ := ⟨hpage, hecc, hnet⟩
    have hlow : i < 2 ^ 21 := by omega
    obtain ⟨-, hneed, -⟩ := State.pageAt_iff.1 hpage
    have hregs := hp.vread_regs (ag := s.dmaAgent die core) hlow rfl (by decide : 0 < 64) (by omega) hneed
    obtain ⟨s1, hread, hsees⟩ := hp.vread (ag := s.dmaAgent die core) rfl hlow (by decide : 0 < 64) (by omega) hneed
    rw [hread] at hregs
    have hcore : s1.core die core = s.core die core := State.core_congr (hsees.frame .cores (by simp)) die core
    obtain ⟨t, hexec, hrunning, hframed, hmem⟩ :=
      stackPopStart_yields ⟨hstk, hx, hrun, hcount, hnst, hst⟩ hpop hdepth ⟨hcount16, hstep, hpsize, hprev, hpayload⟩
        (by rw [hat, ← hheader]; exact hread) (hregs.keeper (by decide)) hcore hsees.get
    rw [hat] at hframed
    exact ⟨t, hexec, hrunning, hframed.xfers, hframed.busy, hmem⟩
  · intro s die core psize prev d o x _ _ hprev hlast' hdepth hstk _ hpop hrun hfailed hx hstack hlast hmoved hdesc htag
    have hframe : s.FrameMoved die core d o x := ⟨hstk, hx, hstack, hlast, hmoved, hdesc, htag⟩
    obtain ⟨t, hexec, htop, hback, hdepth', hempty, ⟨hxfers, hdone⟩, hmem⟩ :=
      popComplete_yields hframe hprev hlast' hdepth hpop hrun hfailed
    exact ⟨t, hexec, htop, hback, hdepth', hempty, hxfers, hdone, hmem⟩

end Sys2Proof.Machine
end
section
/-!
What update, vote, checkpoint and reduction commands leave as it is (12_update_and_fixer R293, R299 to R307;
13_gradient_reduction R318 to R328, R522).
-/
namespace Sys2Proof.Machine

/-- A command that ends with the halt of a unit. -/
theorem SameBut.of_done_logHalt {s r t : State} {code u d0 d1 d2 d3 : Nat} (h : SameBut frameParts s r)
    (hd : done (r.logHalt code u d0 d1 d2 d3) = .next t) : SameBut frameParts s t :=
  (h.through ((r.logHalt_frame code u d0 d1 d2 d3).widen (by decide))).of_done hd

/-! ### Accesses of an update engine (12_update_and_fixer R289 to R298) -/

/-- An engine's accesses have left a state that differs from `s` in what accesses may change. -/
def UeAcc.Within (a : UeAcc) (s : State) : Prop := SameBut accParts s a.st

section
variable {a : UeAcc} {s : State} (ag : Agent)

theorem UeAcc.Within.start (s : State) (err addr : Nat) : UeAcc.Within ⟨s, err, addr⟩ s := SameBut.of_self _ s

theorem UeAcc.Within.read (h : a.Within s) (va n : Nat) : (a.read ag va n).1.Within s := by
  unfold UeAcc.read
  split
  · exact h
  · exact SameBut.through h (a.st.vread_frame ag (va % 2 ^ 64) n permRead)

theorem UeAcc.Within.write (h : a.Within s) (va : Nat) (bs : List Byte) : (a.write ag va bs).Within s := by
  unfold UeAcc.write
  split
  · exact h
  · exact SameBut.through h (a.st.vwrite_frame ag (va % 2 ^ 64) bs)

theorem UeAcc.Within.num (h : a.Within s) (va n : Nat) : (a.num ag va n).1.Within s := by
  unfold UeAcc.num
  exact h.read ag va n

theorem UeAcc.Within.record (h : a.Within s) (list k : Nat) : (a.record ag list k).1.Within s := by
  unfold UeAcc.record
  exact (h.num ag _ 4).num ag _ 64

theorem UeAcc.Within.hyper (h : a.Within s) (list r upd : Nat) : (a.hyper ag list r upd).1.Within s := by
  unfold UeAcc.hyper
  simp only []
  exact (((h.num ag _ 4).num ag _ 8).read ag _ 20).num ag _ 4

theorem UeRun.elem_within {u : UeRun} (h : u.acc.Within s) (r : Nat) (hy : UeHyper) (rshift : Int) (src dst i : Nat) :
    (u.elem ag r hy rshift src dst i).acc.Within s := by
  have hread := ((h.num ag (urGrad r + 6 * i) 6).num ag (src + 4 * i) 4).num ag (src + urMoff r + urMw r * i) (urMw r)
  have hboth : (if (urOpt r == 1) = true then
      (((u.acc.num ag (urGrad r + 6 * i) 6).1.num ag (src + 4 * i) 4).1.num ag (src + urMoff r + urMw r * i) (urMw r)).1.num ag
        (src + urVoff r + urMw r * i) (urMw r)
      else ((((u.acc.num ag (urGrad r + 6 * i) 6).1.num ag (src + 4 * i) 4).1.num ag (src + urMoff r + urMw r * i)
        (urMw r)).1, 0)).1.Within s := by
    split
    · exact hread.num ag _ _
    · exact hread
  unfold UeRun.elem
  split
  · exact h
  simp only []
  generalize (if (urOpt r == 1) = true then _ else _ : UeAcc × Nat) = q at hboth ⊢
  split
  · exact hboth
  · simp only []
    split
    · exact (((hboth.write ag _ _).write ag _ _).write ag _ _).write ag _ _
    · exact ((hboth.write ag _ _).write ag _ _).write ag _ _

theorem UeRun.strips_within {u : UeRun} (h : u.acc.Within s) (r dst : Nat) : (u.strips ag r dst).acc.Within s := by
  unfold UeRun.strips
  split
  · exact h
  · refine SameBut.through h (SameBut.fold (fun u : UeRun => u.acc.st) _ _ (fun u x => ?_) u)
    split
    · exact .of_self _ _
    · exact UeAcc.Within.write ag (.of_self _ _) _ _

theorem UeRun.stamp_within {u : UeRun} (h : u.acc.Within s) (r dst active : Nat) : (u.stamp ag r dst active).acc.Within s := by
  unfold UeRun.stamp
  split
  · exact h
  · exact (h.read ag _ _).write ag _ _

end

theorem State.ueRun_frame (s : State) (die : Nat) : SameBut accParts s (s.ueRun die).1.acc.st := by
  unfold State.ueRun
  simp only []
  refine UeRun.stamp_within _ (UeRun.strips_within _ ?_ _ _) _ _ _
  refine SameBut.through ?_ (SameBut.fold (fun u : UeRun => u.acc.st) _ _
    (fun u i => UeRun.elem_within _ (.of_self _ _) _ _ _ _ _ i) _)
  dsimp only
  exact ((UeAcc.Within.start s 0 0).record _ _ _).hyper _ _ _ _


theorem UeRun.counted_frame (u : UeRun) (die layer : Nat) : SameBut accParts u.acc.st (u.counted die layer) := by
  simp [UeRun.counted, accParts]

/-! ### The commands of an update engine -/

/-- The parts that a record may change: those of its accesses, and the engine. -/
def recordParts : List Part := .ues :: accParts

theorem updateRecordStart_keeps (die : Nat) (upsets : List (Nat × Nat)) : Keeps (.updateRecordStart die upsets) recordParts := by
  intro s t ht
  refine .of_upset upsets (by decide) ?_
  simp only [exec, execUpdateRecordStart] at ht
  generalize s.upset upsets = r at ht ⊢
  have hlist : SameBut recordParts r (UeAcc.record ⟨r, 0, 0⟩ (r.ueAgent die) (r.ueList die) (r.ue die).next).1.st :=
    SameBut.widen ((UeAcc.Within.start r 0 0).record _ _ _) (by decide)
  split at ht
  · split at ht
    · exact SameBut.of_done ((SameBut.wr _ _ _ (by decide)).2 ((SameBut.wr _ _ _ (by decide)).2
        ((SameBut.setUe _ _ (by decide)).2 hlist))) ht
    · exact SameBut.of_done (.of_self _ r) ht
  · exact SameBut.of_done (.of_self _ r) ht

theorem updateRecordDone_keeps (die : Nat) (upsets : List (Nat × Nat)) : Keeps (.updateRecordDone die upsets) recordParts := by
  intro s t ht
  refine .of_upset upsets (by decide) ?_
  simp only [exec, execUpdateRecordDone] at ht
  generalize s.upset upsets = r at ht ⊢
  have hrun : SameBut recordParts r ((r.ueRun die).1.counted die (urLayer (r.ueRun die).2)) :=
    ((r.ueRun_frame die).through (UeRun.counted_frame _ _ _)).widen (by decide)
  split at ht
  · split at ht
    · exact SameBut.of_done ((SameBut.wr _ _ _ (by decide)).2 ((SameBut.setUe _ _ (by decide)).2 hrun)) ht
    · exact SameBut.of_done (.of_self _ r) ht
  · exact SameBut.of_done (.of_self _ r) ht

theorem updateFault_keeps (die : Nat) (upsets : List (Nat × Nat)) : Keeps (.updateFault die upsets) frameParts := by
  intro s t ht
  refine .of_upset upsets (by decide) ?_
  simp only [exec, execUpdateFault] at ht
  generalize s.upset upsets = r at ht ⊢
  have hrun : SameBut frameParts r ((r.ueRun die).1.counted die (urLayer (r.ueRun die).2)) :=
    ((r.ueRun_frame die).through (UeRun.counted_frame _ _ _)).widen (by decide)
  have hlist : SameBut frameParts r (UeAcc.record ⟨r, 0, 0⟩ (r.ueAgent die) (r.ueList die) (r.ue die).next).1.st :=
    SameBut.widen ((UeAcc.Within.start r 0 0).record _ _ _) (by decide)
  have hstop {r1 : State} (u : UeSt) (h : SameBut frameParts r r1) : SameBut frameParts r
      (((r1.setUe die u).wr (ueU die) Reg.UE_STAT_BUSY 0).wr (ueU die) Reg.UE_STAT_FAULTED 1) :=
    (SameBut.wr _ _ _ (by decide)).2 ((SameBut.wr _ _ _ (by decide)).2 ((SameBut.setUe _ _ (by decide)).2 h))
  split at ht
  · split at ht <;> split at ht
    · exact SameBut.of_done (.of_self _ r) ht
    · exact SameBut.of_done_logHalt (hstop _ hrun) ht
    · exact SameBut.of_done (.of_self _ r) ht
    · exact SameBut.of_done_logHalt (hstop _ hlist) ht
  · exact SameBut.of_done (.of_self _ r) ht

end Sys2Proof.Machine
end
section
/-!
What votes, decisions and drains of checkpoints leave as it is (12_update_and_fixer R301 to R307; 18_faults_and_relief R434).
-/
namespace Sys2Proof.Machine

/-! ### The boundary (11_backward_pass R286; 12_update_and_fixer R303) -/

/-- The parts that a step boundary may change. -/
def boundaryParts : List Part := [.ues, .streams, .ck, .sheets, .gshift] ++ accParts

theorem State.blocks_frame (s : State) (active : Nat) : SameBut accParts s (s.blocks active).1 := by
  unfold State.blocks
  refine SameBut.fold (fun p : UeAcc × List Byte => p.1.st) _ _ (fun p e => ?_) (⟨s, 0, 0⟩, [])
  refine SameBut.fold (fun p : UeAcc × List Byte => p.1.st) _ _ (fun p k => ?_) p
  exact UeAcc.Within.read _ (UeAcc.Within.record _ (SameBut.of_self _ _) _ _) _ _

theorem State.snapshot_frame (s : State) : SameBut boundaryParts s s.snapshot := by
  have hblocks : SameBut boundaryParts s (s.blocks (s.rd keeperU Reg.FX_STAT_ACTIVE)).1 :=
    (s.blocks_frame _).widen (by decide)
  unfold State.snapshot
  simp only []
  split
  · exact (SameBut.with_ck _ (by decide)).2 hblocks
  · refine (SameBut.forEach_iff _ _ fun _ _ => (SameBut.wr _ _ _ (by decide)).2 (.of_self _ _)).2 ?_
    refine (SameBut.wr _ _ _ (by decide)).2 ((SameBut.with_ck _ (by decide)).2 ?_)
    exact (SameBut.with_ck _ (by decide)).2 hblocks

theorem State.spoilIdle_frame (s : State) : SameBut [.mem] s s.spoilIdle := by
  unfold State.spoilIdle
  refine SameBut.forEach _ _ (fun s e => SameBut.forEach _ _ (fun s k => ?_) s) s
  simp only []
  split
  · exact .of_self _ s
  · exact (SameBut.with_mem _ (by decide)).2 ((SameBut.freshBytes _).2 (.of_self _ s))

theorem State.boundary_frame (s : State) (d : Vote) : SameBut boundaryParts s (s.boundary d) := by
  unfold State.boundary
  extract_lets layers used s0 s1 s2 s3 s4 s5
  have h0 : SameBut boundaryParts s s0 :=
    (SameBut.commitOrSkip d (by decide)).2 ((SameBut.wr _ _ _ (by decide)).2 (.of_self _ s))
  have h1 : SameBut boundaryParts s s1 := .choose h0 (h0.through (s0.spoilIdle_frame.widen (by decide)))
  have h2 : SameBut boundaryParts s s2 :=
    h1.through (.forEach _ _ (fun t n => by simp [boundaryParts, accParts]) s1)
  have h3 : SameBut boundaryParts s s3 :=
    (h2.through ((s2.writeSheet_frame used d).widen (by decide))).through ((State.writeWindow_frame _).widen (by decide))
  have h4 : SameBut boundaryParts s s4 :=
    h3.through (.forEach _ _ (fun t k => (t.emptyStack_frame _ _).widen (by decide)) s3)
  have h5 : SameBut boundaryParts s s5 := .choose (h4.through s4.snapshot_frame) h4
  exact (h5.through (s5.release_frame.widen (by decide))).through ((State.fillRing_frame _ 0).widen (by decide))

/-! ### Votes and decisions (12_update_and_fixer R301 to R303) -/

theorem State.takeDecision_frame (s : State) (d : Vote) : SameBut boundaryParts s (s.takeDecision d) := by
  unfold State.takeDecision
  simp only []
  have hsent : SameBut boundaryParts s (forEach s.voteKids (fun s c => s.emit (.decision c d.bytes)) s) :=
    .forEach _ _ (fun t c => (t.emit_frame _).widen (by simp)) s
  generalize forEach s.voteKids _ s = s1 at hsent ⊢
  have hdecided (f : FixSt) : SameBut boundaryParts s { s1 with fix := f } := (SameBut.with_fix f (by decide)).2 hsent
  split
  · exact (SameBut.wr _ _ _ (by decide)).2 (hdecided _)
  · exact (hdecided _).through (State.boundary_frame _ d)

theorem State.voteOn_frame (s : State) : SameBut boundaryParts s s.voteOn := by
  unfold State.voteOn
  split
  · exact .of_self _ s
  split
  · exact .of_self _ s
  have hsent : SameBut boundaryParts s { s with fix := { s.fix with sent := true } } :=
    (SameBut.with_fix _ (by decide)).2 (.of_self _ s)
  simp only []
  split
  · exact hsent.through (State.takeDecision_frame _ _)
  · exact (SameBut.emit _).2 hsent

theorem voteSend_keeps : Keeps .voteSend boundaryParts := by
  intro s t ht
  change execVoteSend s = _ at ht
  unfold execVoteSend at ht
  split at ht
  · extract_lets ck flags v fix s1 s2 src s3 at ht
    have h2 : SameBut boundaryParts s s2 := by simp [s2, s1, boundaryParts, accParts]
    have h3 : SameBut boundaryParts s s3 :=
      .choose ((SameBut.wr _ _ _ (by decide)).2 ((SameBut.with_ck _ (by decide)).2 h2)) h2
    exact SameBut.of_done (h3.through s3.voteOn_frame) ht
  · exact SameBut.of_done (.of_self _ s) ht

theorem voteReceive_keeps (child step flags count : Nat) (amax : List Nat) :
    Keeps (.voteReceive child step flags count amax) boundaryParts := by
  intro s t ht
  simp only [exec, execVoteReceive] at ht
  split at ht
  · exact SameBut.of_done ((s.logEvent_frame _ _ _ _ _ _).widen (by decide)) ht
  split at ht
  · exact SameBut.of_done (.through ((SameBut.with_fix _ (by decide)).2 (.of_self _ s)) (State.voteOn_frame _)) ht
  · exact SameBut.of_done (.of_self _ s) ht

theorem decisionReceive_keeps (step flags count : Nat) (amax : List Nat) :
    Keeps (.decisionReceive step flags count amax) boundaryParts := by
  intro s t ht
  simp only [exec, execDecisionReceive] at ht
  split at ht
  · exact SameBut.of_done (s.takeDecision_frame _) ht
  · exact SameBut.of_done (.of_self _ s) ht

theorem fixerCommit_keeps (mclk : Nat) : Keeps (.fixerCommit mclk) boundaryParts := by
  intro s t ht
  simp only [exec, execFixerCommit] at ht
  split at ht
  · exact SameBut.of_done (.of_self _ s) ht
  split at ht
  · refine SameBut.of_done (.through ?_ (State.boundary_frame _ _)) ht
    exact (SameBut.bump _ _ _ (by decide)).2 ((SameBut.wr _ _ _ (by decide)).2 (.of_self _ s))
  · exact SameBut.of_done (.of_self _ s) ht

/-! ### Drains (12_update_and_fixer R307; 18_faults_and_relief R434) -/

/-- The parts that the end of a drain may change: those of its writes, the drain and the keeper's messages. -/
def drainParts : List Part := [.ck, .kpr] ++ accParts

theorem State.countDrained_accParts (s : State) (active : Nat) : SameBut accParts s (s.countDrained active) :=
  .forEach _ _ (fun t e => (t.bump_frame _ _ _).widen (by decide)) s

theorem checkpointDrainComplete_keeps : Keeps .checkpointDrainComplete drainParts := by
  intro s t ht
  simp only [exec, execCheckpointDrainComplete] at ht
  split at ht
  · exact SameBut.of_done (.of_self _ s) ht
  case h_2 d _ =>
    have hwritten : SameBut drainParts s (if d.req.kind = 1 then (s, 0) else s.putTarget d.req.dest d.data).1 := by
      split
      · exact .of_self _ s
      · exact (s.putTarget_frame _ _).widen (by decide)
    generalize (if d.req.kind = 1 then (s, 0) else s.putTarget d.req.dest d.data) = q at ht hwritten
    split at ht
    · exact SameBut.of_done (.of_self _ s) ht
    · refine SameBut.of_done (.through ?_ ((State.drainedOn_frame _).widen (by decide))) ht
      have hcounted := hwritten.through ((q.1.countDrained_accParts (d.data.getD 0x20 0).toNat).widen (by decide))
      split
      · simpa [drainParts, accParts] using hcounted
      · simpa [drainParts, accParts] using hcounted

theorem drained_keeps (child step : Nat) (down : Bool) : Keeps (.drained child step down) [.regs, .ck] := by
  intro s t ht
  simp only [exec, execDrained] at ht
  (repeat' split at ht) <;> exact SameBut.of_done (by simp) ht

end Sys2Proof.Machine
end
section
/-!
What the commands of the reduction units leave as it is (13_gradient_reduction R318 to R328, R522).
-/
namespace Sys2Proof.Machine

/-! ### Staged values (13_gradient_reduction R314, R319) -/

theorem RdAcc.read_frame (a : RdAcc) (ag : Agent) (va n : Nat) : SameBut accParts a.st (a.read ag va n).1.st := by
  unfold RdAcc.read
  split
  · exact .of_self _ _
  · exact a.st.vread_frame ag va n permRead

theorem State.contribs_frame (s : State) (ag : Agent) (e : RedEnt) (rshift : Int) (e0 n : Nat) :
    SameBut accParts s (s.contribs ag e rshift e0 n).acc.st := by
  have hread : SameBut accParts s ((List.range e.npart).foldl (fun (p : RdAcc × List (List Nat)) j =>
      ((p.1.read ag ((e.stage + 4 * (j * e.nelem + e0)) % 2 ^ 64) (4 * n)).1,
        p.2 ++ [codesOf 32 n (p.1.read ag ((e.stage + 4 * (j * e.nelem + e0)) % 2 ^ 64) (4 * n)).2])) (⟨s, 0, 0⟩, [])).1.st :=
    SameBut.fold (fun p : RdAcc × List (List Nat) => p.1.st) _ _ (fun p j => p.1.read_frame _ _ _) (⟨s, 0, 0⟩, [])
  unfold State.contribs
  simp only []
  generalize List.foldl _ _ _ = q at hread ⊢
  refine hread.through (SameBut.fold (fun c : Contrib => c.acc.st) _ _ (fun c i => ?_) ⟨q.1, [], 0, 0, 0, 0⟩)
  exact .of_self _ _

/-! ### The ring (13_gradient_reduction R318, R322) -/

theorem State.segmentSend_frame (s : State) (e : RedEnt) (p layer j : Nat) :
    SameBut accParts s (s.segmentSend e p layer j).1 := by
  unfold State.segmentSend
  extract_lets lane ag r n c l inc outs sums sat o flags l1 u s1 s2 s3
  have hsums : SameBut accParts s c.acc.st := s.contribs_frame ag e _ _ n
  split
  · exact hsums
  · have h2 : SameBut accParts s s2 := by simpa [s2, s1, accParts] using hsums
    split
    · have hwritten := h2.through (s2.vwrite_frame ag ((e.sums + 6 * (40 * j - 40 * e.lo r)) % 2 ^ 64) (sumBytes (sums.take n)))
      simp only []
      split <;> exact hwritten
    · exact (h2.through ((s2.emit_frame _).widen (by decide))).through ((State.bump_frame _ _ _ _).widen (by decide))

/-! ### The check path (13_gradient_reduction R325 to R327) -/

theorem State.compareSamples_frame (s : State) (e : RedEnt) (p layer : Nat) (tot : SMap Nat) :
    SameBut accParts s (s.compareSamples e p layer tot).1 := by
  unfold State.compareSamples
  refine SameBut.fold (fun q : RdAcc × Nat => q.1.st) _ _ (fun q x => ?_) (⟨s, 0, 0⟩, 0)
  have hread := q.1.read_frame (s.rdAgent 4) ((e.sums + 6 * (x.1 - 40 * e.lo p)) % 2 ^ 64) 6
  simp only []
  generalize q.1.read _ _ _ = r at hread ⊢
  have hsample := (SameBut.bump (rdU 4) Reg.RD_SAMPLES_COUNT 1 (by decide)).2 hread
  (repeat' split)
  · exact .of_self _ _
  · exact hread
  · exact hread
  · exact hsample
  · exact hsample.through ((State.redMismatch_frame _ _ _ _ _ _ _).widen (by decide))

theorem State.totalsHere_frame (s : State) (e : RedEnt) (p layer n : Nat) :
    SameBut accParts s (s.totalsHere e p layer n).1 := by
  have hcmp := s.compareSamples_frame e p layer (s.redLayer layer).down
  unfold State.totalsHere
  simp only []
  generalize s.compareSamples _ _ _ _ = r at hcmp ⊢
  (repeat' split)
  · exact hcmp
  · exact (SameBut.setRedLayer _ _ (by decide)).2 hcmp
  · exact .of_self _ s

theorem State.checkGoOn_frame (s : State) (layer : Nat) : SameBut accParts s (s.checkGoOn layer).1 := by
  unfold State.checkGoOn
  split
  · exact .of_self _ s
  case h_2 e p _ =>
    split
    · exact .of_self _ s
    · refine (SameBut.redStat (by decide)).2 (SameBut.through ?_ (State.totalsHere_frame _ e p layer _))
      exact ((s.sumsUp_frame _ _ _ _).widen (by decide)).through ((State.wordUp_frame _ _ _ _).widen (by decide))

theorem State.readSamples_frame (s : State) (e : RedEnt) (layer : Nat) : SameBut accParts s (s.readSamples e layer).1 := by
  unfold State.readSamples
  refine (SameBut.setRedLayer _ _ (by decide)).2 ?_
  refine SameBut.fold (fun q : State × List Nat × Option (Nat × Nat) => q.1) _ _ (fun q x => ?_) (s, [], none)
  simp only []
  split
  · exact .of_self _ _
  · exact q.1.contribs_frame _ _ _ _ _

theorem State.redOn_frame (s : State) (layer : Nat) : SameBut accParts s (s.redOn layer) := by
  have hon := s.checkGoOn_frame layer
  unfold State.redOn
  split
  case h_1 heq =>
    rw [heq] at hon
    exact hon
  case h_2 => exact .of_self _ s

/-! ### The commands -/

theorem laneSegmentSend_keeps (layer seg : Nat) (upsets : List (Nat × Nat)) :
    Keeps (.laneSegmentSend layer seg upsets) accParts := by
  intro s t ht
  refine .of_upset upsets (by decide) ?_
  simp only [exec, execLaneSegmentSend] at ht
  generalize s.upset upsets = r at ht ⊢
  split at ht
  · exact SameBut.of_done (.of_self _ r) ht
  case h_2 e p _ =>
    have hsent := r.segmentSend_frame e p layer seg
    split at ht
    · split at ht
      case h_1 s1 heq =>
        rw [heq] at hsent
        refine SameBut.of_done (.through ?_ (State.redOn_frame _ layer)) ht
        refine .through ?_ ((State.redWords_frame _ layer).widen (by decide))
        exact .choose hsent (hsent.through ((s1.laneTaken_frame _).widen (by decide)))
      case h_2 => exact SameBut.of_done (.of_self _ r) ht
    · exact SameBut.of_done (.of_self _ r) ht

theorem rdReady_keeps (layer step : Nat) : Keeps (.rdReady layer step) [.regs, .red, .sb, .log, .fix] :=
  .of_done _ (fun _ => rfl) fun s => by simp

theorem rsegReceive_keeps (layer seg step : Nat) (data : List Byte) :
    Keeps (.rsegReceive layer seg step data) [.regs, .red, .sb, .log] := by
  intro s t ht
  simp only [exec, execRsegReceive] at ht
  (repeat' split at ht) <;> exact SameBut.of_done (by simp) ht

/-- A flit that fits no layer is only logged. -/
theorem SameBut.of_done_redStray {s t : State} {u layer step : Nat} (hd : done (s.redStray u layer step) = .next t) :
    SameBut accParts s t :=
  ((s.redStray_frame u layer step).widen (by decide)).of_done hd

/-- A command that ends with the check path's going on. -/
theorem SameBut.of_done_redOn {s r t : State} {layer : Nat} (h : SameBut accParts s r) (hd : done (r.redOn layer) = .next t) :
    SameBut accParts s t :=
  (h.through (r.redOn_frame layer)).of_done hd

theorem rwordReceive_keeps (lane chunk : Nat) (data : List Byte) : Keeps (.rwordReceive lane chunk data) accParts := by
  intro s t ht
  simp only [exec, execRwordReceive] at ht
  (repeat' split at ht)
  · exact .of_done_redStray ht
  · refine .of_done_redOn (.through ?_ ((State.redWords_frame _ _).widen (by decide))) ht
    exact (SameBut.setRedLayer _ _ (by decide)).2 (.of_self _ s)
  · exact .of_done_redStray ht

theorem checkSampleRead_keeps (layer : Nat) (upsets : List (Nat × Nat)) : Keeps (.checkSampleRead layer upsets) accParts := by
  intro s t ht
  refine .of_upset upsets (by decide) ?_
  simp only [exec, execCheckSampleRead] at ht
  generalize s.upset upsets = r at ht ⊢
  split at ht
  · exact SameBut.of_done (.of_self _ r) ht
  case h_2 e p _ =>
    have hread : SameBut accParts r (if (r.redLayer layer).samples.isSome = true then (r, none) else r.readSamples e layer).1 := by
      split
      · exact .of_self _ r
      · exact r.readSamples_frame e layer
    generalize (if (r.redLayer layer).samples.isSome = true then (r, none) else r.readSamples e layer) = q at ht hread
    have hon := hread.through (q.1.checkGoOn_frame layer)
    (repeat' split at ht)
    · exact SameBut.of_done (.of_self _ r) ht
    · exact SameBut.of_done (.of_self _ r) ht
    case h_1 heq =>
      rw [heq] at hon
      exact SameBut.of_done hon ht
    case h_2 => exact SameBut.of_done (.of_self _ r) ht

theorem chkReceive_keeps (layer pos ord step : Nat) (data : List Byte) : Keeps (.chkReceive layer pos ord step data) accParts := by
  intro s t ht
  simp only [exec, execChkReceive] at ht
  split at ht
  · exact .of_done_redStray ht
  have hlayer (l : RedLayer) : SameBut accParts s (s.setRedLayer layer l) := (s.setRedLayer_frame layer l).widen (by decide)
  split at ht
  · exact .of_done_redStray ht
  split at ht
  · exact .of_done_redOn (hlayer _) ht
  split at ht
  · refine .of_done_redOn (.choose ?_ (hlayer _)) ht
    exact (s.passDown_frame _ _ _ _ _).widen (by decide)
  · exact .of_done_redStray ht

theorem cwordReceive_keeps (pos : Nat) (data : List Byte) : Keeps (.cwordReceive pos data) accParts := by
  intro s t ht
  simp only [exec, execCwordReceive] at ht
  split at ht
  · exact .of_done_redStray ht
  split at ht
  · exact .of_done_redStray ht
  split at ht
  · exact .of_done_redOn ((s.setRedLayer_frame _ _).widen (by decide)) ht
  split at ht
  · refine SameBut.of_done ((SameBut.redStat (by decide)).2 ?_) ht
    exact (s.storeWord_frame _ _ _ _).widen (by decide)
  · exact .of_done_redStray ht

theorem State.redFaultNow_frame {s s1 : State} {e : RedEnt} {p layer u code addr : Nat}
    (h : s.redFaultNow e p layer = some (s1, u, code, addr)) : SameBut accParts s s1 := by
  unfold State.redFaultNow at h
  simp only [] at h
  split at h
  case h_1 j _ =>
    have hsent := s.segmentSend_frame e p layer j
    split at h
    case h_1 heq =>
      cases h
      rw [heq] at hsent
      exact hsent
    case h_2 => cases h
  case h_2 =>
    have hread : SameBut accParts s (if (s.redLayer layer).samples.isSome = true then (s, none) else s.readSamples e layer).1 := by
      split
      · exact .of_self _ s
      · exact s.readSamples_frame e layer
    generalize (if (s.redLayer layer).samples.isSome = true then (s, none) else s.readSamples e layer) = q at h hread
    have hon := hread.through (q.1.checkGoOn_frame layer)
    split at h
    case h_1 =>
      cases h
      exact hread
    case h_2 =>
      split at h
      case h_1 heq =>
        cases h
        rw [heq] at hon
        exact hon
      case h_2 => cases h

theorem reductionFault_keeps (layer : Nat) (upsets : List (Nat × Nat)) : Keeps (.reductionFault layer upsets) frameParts := by
  intro s t ht
  refine .of_upset upsets (by decide) ?_
  simp only [exec, execReductionFault] at ht
  generalize s.upset upsets = r at ht ⊢
  split at ht
  · exact SameBut.of_done (.of_self _ r) ht
  split at ht
  · exact SameBut.of_done (.of_self _ r) ht
  split at ht
  · exact SameBut.of_done (.of_self _ r) ht
  case h_2 heq =>
    refine SameBut.of_done_logHalt ((SameBut.wr _ _ _ (by decide)).2 ((SameBut.setRedLayer _ _ (by decide)).2 ?_)) ht
    exact (SameBut.with_red _ (by decide)).2 ((State.redFaultNow_frame heq).widen (by decide))

/-- Settles O54: the frame of each command, and the parts that it leaves. -/
theorem stepFrames : Obligations.StepFrames := by
  unfold Obligations.StepFrames
  exact ⟨fun die upsets => .of_keeps (updateRecordStart_keeps die upsets) (by decide),
    fun die upsets => .of_keeps (updateRecordDone_keeps die upsets) (by decide),
    fun die upsets => .of_keeps (updateFault_keeps die upsets) (by decide),
    .of_keeps voteSend_keeps (by decide),
    fun child step flags count amax => .of_keeps (voteReceive_keeps child step flags count amax) (by decide),
    fun step flags count amax => .of_keeps (decisionReceive_keeps step flags count amax) (by decide),
    fun mclk => .of_keeps (fixerCommit_keeps mclk) (by decide),
    .of_keeps checkpointDrainComplete_keeps (by decide),
    drained_keeps, rdReady_keeps,
    fun layer seg upsets => .of_keeps (laneSegmentSend_keeps layer seg upsets) (by decide),
    rsegReceive_keeps,
    fun lane chunk data => .of_keeps (rwordReceive_keeps lane chunk data) (by decide),
    fun layer upsets => .of_keeps (checkSampleRead_keeps layer upsets) (by decide),
    fun layer pos ord step data => .of_keeps (chkReceive_keeps layer pos ord step data) (by decide),
    fun pos data => .of_keeps (cwordReceive_keeps pos data) (by decide),
    fun layer upsets => .of_keeps (reductionFault_keeps layer upsets) (by decide)⟩

end Sys2Proof.Machine
end

section
/-!
What messages and halts write in the registers (18_faults_and_relief R431 to R433; 19_keeper_minil R445 to R456).
-/
namespace Sys2Proof.Machine

/-! ### Registers named by a predicate -/

/-- `t` comes from `s` by writes of registers that `W` allows: a field keeps a value `x` it holds, where every write that
`W` allows of its key is of the field itself and leaves `x`. -/
def Wrote (W : Nat → Field → Nat → Prop) (s t : State) : Prop :=
  ∀ u f x, (∀ w g v, W w g v → fieldKey u f = fieldKey w g → g = f ∧ v % 2 ^ f.width = x) → s.rd u f = x → t.rd u f = x

section
variable {W V : Nat → Field → Nat → Prop} {s t r : State}

theorem Wrote.of_self (W : Nat → Field → Nat → Prop) (s : State) : Wrote W s s := fun _ _ _ _ h => h

theorem Wrote.through (h : Wrote W s t) (k : Wrote W t r) : Wrote W s r := fun u f x hw hx => k u f x hw (h u f x hw hx)

theorem Wrote.mono (h : Wrote W s t) (hv : ∀ u f v, W u f v → V u f v) : Wrote V s t :=
  fun u f x hw hx => h u f x (fun w g v hg => hw w g v (hv w g v hg)) hx

theorem Wrote.of_regs (h : Wrote W s t) (hr : r.regs = t.regs) : Wrote W s r := fun u f x hw hx => by
  rw [← h u f x hw hx, State.rd, State.rd, hr]

theorem Wrote.wr (h : Wrote W s t) {u : Nat} {f : Field} {v : Nat} (hw : W u f v) : Wrote W s (t.wr u f v) :=
  fun w g x hx hs => by
    by_cases hk : fieldKey w g = fieldKey u f
    · obtain ⟨rfl, hv⟩ := hx u f v hw hk
      rw [← hv, State.rd, hk]
      exact t.rd_wr_same u f v
    · exact (t.rd_wr_other u w f g v hk).trans (h w g x hx hs)

theorem Wrote.bump (h : Wrote W s t) {u : Nat} {f : Field} (n : Nat) (hw : ∀ v, W u f v) : Wrote W s (t.bump u f n) := h.wr (hw _)

theorem Wrote.forEach {α : Type} {f : State → α → State} {l : List α} (h : ∀ s, ∀ a ∈ l, Wrote W s (f s a)) (s : State) :
    Wrote W s (forEach l f s) := by
  induction l generalizing s with
  | nil => exact .of_self W s
  | cons a l ih => exact (h s a (by simp)).through (ih (fun t b hb => h t b (by simp [hb])) (f s a))

theorem Wrote.foldl_fst {α β : Type} {f : State × β → α → State × β} (h : ∀ p a, Wrote W p.1 (f p a).1) (l : List α)
    (p : State × β) : Wrote W p.1 (l.foldl f p).1 := by
  induction l generalizing p with
  | nil => exact .of_self W p.1
  | cons a l ih => exact (h p a).through (ih (f p a))

/-- What agrees outside some fields comes by writes of them. -/
theorem SameRegsBut.wrote {l : List (Nat × Field)} (h : SameRegsBut l s t)
    (hl : ∀ p ∈ l, 0 < p.2.width ∧ ∀ v, W p.1 p.2 v) : Wrote W s t := fun u f x hw hx => by
  refine (h u f fun p hp hk => ?_).trans hx
  obtain ⟨hwidth, hall⟩ := hl p hp
  obtain ⟨rfl, h0⟩ := hw p.1 p.2 0 (hall 0) hk
  obtain ⟨-, h1⟩ := hw p.1 p.2 1 (hall 1) hk
  rw [Nat.zero_mod] at h0
  rw [Nat.mod_eq_of_lt (Nat.one_lt_two_pow hwidth.ne')] at h1
  exact absurd (h0.trans h1.symm) Nat.zero_ne_one

/-- A field whose key no write of `W` has keeps its value. -/
theorem Wrote.rd_eq (h : Wrote W s t) {u : Nat} {f : Field} (hw : ∀ w g v, W w g v → fieldKey u f ≠ fieldKey w g) :
    t.rd u f = s.rd u f := h u f _ (fun w g v hg hk => absurd hk (hw w g v hg)) rfl

end

/-! ### Messages (19_keeper_minil R445 to R456) -/

/-- What messages write: registers of the mailbox beside MNL_STAT. -/
def mailWrites (u : Nat) (f : Field) (_ : Nat) : Prop := u = mbxU ∧ f.lo < 32 ∧ f.off ≠ 0x20100

/-- A register of a unit before the mailbox unit is none that messages write. -/
theorem mailWrites.spare {u : Nat} {f : Field} (hu : u < mbxU) (hf : f.off < 2 ^ 24 ∧ f.lo < 32) (w : Nat) (g : Field) (v : Nat)
    (h : mailWrites w g v) : fieldKey u f ≠ fieldKey w g := by
  obtain ⟨rfl, -, -⟩ := h
  simp only [fieldKey]
  omega

/-- MNL_STAT is none that messages write. -/
theorem mailWrites.spare_stat {f : Field} (hf : f.off = 0x20100 ∧ f.lo < 32) (w : Nat) (g : Field) (v : Nat)
    (h : mailWrites w g v) : fieldKey mbxU f ≠ fieldKey w g := by
  obtain ⟨rfl, hlo, hoff⟩ := h
  simp only [fieldKey]
  omega

theorem mailWrites_stat (c v : Nat) : mailWrites mbxU (Reg.MBX_STAT_STATE c) v :=
  ⟨rfl, by simp [Reg.MBX_STAT_STATE], by simp only [Reg.MBX_STAT_STATE]; omega⟩

theorem mailWrites_result (c v : Nat) : mailWrites mbxU (Reg.MBX_STAT_RESULT c) v :=
  ⟨rfl, by simp [Reg.MBX_STAT_RESULT], by simp only [Reg.MBX_STAT_RESULT]; omega⟩

theorem mailWrites_len (c v : Nat) : mailWrites mbxU (Reg.MBX_STAT_LEN c) v :=
  ⟨rfl, by simp [Reg.MBX_STAT_LEN], by simp only [Reg.MBX_STAT_LEN]; omega⟩

theorem mailWrites_src (c v : Nat) : mailWrites mbxU (Reg.MBX_SRC_UNIT c) v :=
  ⟨rfl, by simp [Reg.MBX_SRC_UNIT], by simp only [Reg.MBX_SRC_UNIT]; omega⟩

theorem mailWrites_refused (c v : Nat) : mailWrites mbxU (Reg.MBX_REFUSED_COUNT c) v :=
  ⟨rfl, by simp [Reg.MBX_REFUSED_COUNT], by simp only [Reg.MBX_REFUSED_COUNT]; omega⟩

theorem mailWrites_bits (v : Nat) : mailWrites mbxU Reg.DB_STAT_BITS v := ⟨rfl, by decide, by decide⟩

theorem State.dbSet_mail (s : State) (bits : Nat) : Wrote mailWrites s (s.dbSet bits) :=
  (s.dbSet_regs bits).wrote fun _ hp => List.mem_singleton.1 hp ▸ ⟨by decide, mailWrites_bits⟩

theorem State.mbxRefuse_mail (s : State) (c code : Nat) : Wrote mailWrites s (s.mbxRefuse c code).1 :=
  (Wrote.of_self _ s).bump 1 (mailWrites_refused c)

theorem State.mbxWrite_mail (s : State) (src c off : Nat) (bs : List Byte) : Wrote mailWrites s (s.mbxWrite src c off bs).1 := by
  unfold State.mbxWrite
  simp only []
  (repeat' split)
  · exact s.mbxRefuse_mail c _
  · exact s.mbxRefuse_mail c _
  · exact s.mbxRefuse_mail c _
  · exact (((Wrote.of_self _ s).wr (mailWrites_stat c _)).wr (mailWrites_src c _)).of_regs rfl

theorem State.mbxSend_mail (s : State) (src c len : Nat) : Wrote mailWrites s (s.mbxSend src c len).1 := by
  unfold State.mbxSend
  (repeat' split)
  · exact s.mbxRefuse_mail c _
  · exact s.mbxRefuse_mail c _
  · exact s.mbxRefuse_mail c _
  · exact ((((Wrote.of_self _ s).wr (mailWrites_stat c _)).wr (mailWrites_len c _)).wr (mailWrites_result c _)).through
      (State.dbSet_mail _ _)

theorem State.mbxClear_mail (s : State) (c : Nat) : Wrote mailWrites s (s.mbxClear c) :=
  (((Wrote.of_regs (.of_self _ s) rfl).wr (mailWrites_stat c _)).wr (mailWrites_len c _)).wr (mailWrites_bits _)

theorem State.putMsg_mail (s : State) (chan : Nat) (bs : List Byte) : Wrote mailWrites s (s.putMsg chan bs).1 := by
  unfold State.putMsg
  extract_lets src pad
  have hfold := Wrote.foldl_fst (W := mailWrites) (f := fun (p : State × Nat) i =>
    if p.2 ≠ 0 then p else p.1.mbxWrite src chan (4 * i) (slice pad (4 * i) 4))
    (fun p i => by
      split
      case isTrue => exact .of_self _ p.1
      case isFalse => exact p.1.mbxWrite_mail src chan _ _) (List.range (pad.length / 4)) (s, 0)
  revert hfold
  generalize List.foldl _ _ _ = p
  intro hfold
  obtain ⟨s1, e⟩ := p
  simp only []
  split
  case isTrue => exact hfold
  case isFalse => exact hfold.through (s1.mbxSend_mail _ _ _)

theorem State.sendMsg_mail (s : State) (m : OutMsg) : Wrote mailWrites s (s.sendMsg m) := by
  unfold State.sendMsg State.msgLost
  have hput := s.putMsg_mail m.chan m.data
  simp only []
  (repeat' split)
  · exact hput
  · exact hput.of_regs rfl
  · exact hput.bump 1 fun _ => ⟨rfl, by decide, by decide⟩
  · exact Wrote.of_regs (.of_self _ s) rfl

theorem State.notice_mail (s : State) (dst chan seq : Nat) (prov : Bool) (kind : Nat) (fields : List Byte) :
    Wrote mailWrites s (s.notice dst chan seq prov kind fields) := s.sendMsg_mail _

theorem State.reply_mail (s : State) (m : Minil) (status : Nat) (payload : List Byte) :
    Wrote mailWrites s (s.reply m status payload) := s.sendMsg_mail _

/-- A register of a unit before the mailbox unit, which a notice keeps. -/
theorem State.rd_notice (s : State) (dst chan seq : Nat) (prov : Bool) (kind : Nat) (fields : List Byte) {u : Nat} {f : Field}
    (hu : u < mbxU := by decide) (hf : f.off < 2 ^ 24 ∧ f.lo < 32 := by decide) :
    (s.notice dst chan seq prov kind fields).rd u f = s.rd u f := (s.notice_mail dst chan seq prov kind fields).rd_eq (mailWrites.spare hu hf)

/-- A register of a unit before the mailbox unit, which a reply keeps. -/
theorem State.rd_reply (s : State) (m : Minil) (status : Nat) (payload : List Byte) {u : Nat} {f : Field}
    (hu : u < mbxU := by decide) (hf : f.off < 2 ^ 24 ∧ f.lo < 32 := by decide) :
    (s.reply m status payload).rd u f = s.rd u f := (s.reply_mail m status payload).rd_eq (mailWrites.spare hu hf)

end Sys2Proof.Machine
end

section
/-!
Where drains of checkpoints end (12_update_and_fixer R307; 18_faults_and_relief R434).
-/
namespace Sys2Proof.Machine

/-! ### What a block sends to each of a list -/

/-- What is sent to each of a list stands newest first. -/
theorem forEach_emit {α : Type} (l : List α) (g : α → Out) (s : State) :
    forEach l (fun s a => s.emit (g a)) s = { s with out := (l.map g).reverse ++ s.out } := by
  induction l generalizing s with
  | nil => rfl
  | cons a l ih =>
    refine (ih (s.emit (g a))).trans ?_
    simp [State.emit]

/-! ### The end of a drain (R307, R434) -/

theorem State.ckJob_eq (s : State) (step : Nat) :
    s.ckJob step = { s.wr keeperU Reg.RCV_CKJOB_LO_VALUE step with
      out := (s.voteKids.map (fun c => Out.drained c step true)).reverse ++ s.out } := forEach_emit _ _ _

/-- The registers in which the job-wide checkpoint step shows. -/
def ckJobShows : List (Nat × Field) := [(keeperU, Reg.RCV_CKJOB_LO_VALUE)]

theorem State.ckJob_regs (s : State) (step : Nat) : SameRegsBut ckJobShows s (s.ckJob step) := by
  rw [State.ckJob_eq]
  exact ((SameRegsBut.of_self _ s).wr step (List.mem_singleton_self _)).of_regs rfl

theorem State.drainedOn_regs (s : State) : SameRegsBut ckJobShows s s.drainedOn := by
  unfold State.drainedOn
  simp only []
  (repeat' split)
  · exact .of_self _ s
  · exact (SameRegsBut.of_regs (.of_self _ s) rfl).through (State.ckJob_regs _ _)
  · exact SameRegsBut.of_regs (.of_self _ s) rfl
  · exact .of_self _ s

/-- Of the checkpoints, a DRAINED passed on changes what the children have reported alone. -/
theorem State.drainedOn_ck (s : State) : ∃ kids, s.drainedOn.ck = { s.ck with kids := kids } := by
  unfold State.drainedOn
  simp only []
  (repeat' split)
  · exact ⟨_, rfl⟩
  · exact ⟨_, by rw [State.ckJob_eq]; rfl⟩
  · exact ⟨_, rfl⟩
  · exact ⟨_, rfl⟩

theorem keeperU_key_ne_ueU (die : Nat) {f g : Field} (hf : f.off < 2 ^ 24 ∧ f.lo < 32 := by decide)
    (hg : g.off < 2 ^ 24 ∧ g.lo < 32 := by decide) : fieldKey keeperU f ≠ fieldKey (ueU die) g :=
  fieldKey_ne_of_unit _ _ (by simp only [keeperU, ueU, unitOf]; omega) hf hg

/-- A drain that ends clears its registers, and keeps of the keeper's every one beside FX_STAT.DRAINING. -/
theorem State.rd_drainEnded_draining (s : State) : s.drainEnded.rd keeperU Reg.FX_STAT_DRAINING = 0 := by
  have hues : SameRegsBut (s.ues.map fun e => (ueU e.1, Reg.UE_STAT_DRAINING))
      (State.wr { s with ck := { s.ck with drain := none } } keeperU Reg.FX_STAT_DRAINING 0) s.drainEnded :=
    .forEach (fun t d hd => (SameRegsBut.of_self _ t).wr 0 (by
      obtain ⟨e, he, rfl⟩ := List.mem_map.1 hd
      exact List.mem_map.2 ⟨e, he, rfl⟩)) _
  refine (hues _ _ fun p hp => ?_).trans (State.rd_wr_same _ _ _ _)
  obtain ⟨e, -, rfl⟩ := List.mem_map.1 hp
  exact keeperU_key_ne_ueU (g := Reg.UE_STAT_DRAINING) e.1

theorem State.rd_drainEnded_step (s : State) :
    s.drainEnded.rd keeperU Reg.FX_CKSTEP_LO_VALUE = s.rd keeperU Reg.FX_CKSTEP_LO_VALUE := by
  have hues : SameRegsBut ((keeperU, Reg.FX_STAT_DRAINING) :: s.ues.map fun e => (ueU e.1, Reg.UE_STAT_DRAINING)) s s.drainEnded :=
    (SameRegsBut.wr (s := s) (t := { s with ck := { s.ck with drain := none } }) (fun _ _ _ => rfl) 0 (by simp)).through
      (.forEach (fun t d hd => (SameRegsBut.of_self _ t).wr 0 (by
        obtain ⟨e, he, rfl⟩ := List.mem_map.1 hd
        exact List.mem_cons_of_mem _ (List.mem_map.2 ⟨e, he, rfl⟩))) _)
  refine hues _ _ fun p hp => ?_
  rcases List.mem_cons.1 hp with rfl | hp
  · decide
  · obtain ⟨e, -, rfl⟩ := List.mem_map.1 hp
    exact keeperU_key_ne_ueU (g := Reg.UE_STAT_DRAINING) e.1

theorem State.drainEnded_ck (s : State) : s.drainEnded.ck = { s.ck with drain := none } :=
  SameBut.forEach (l := [.regs]) _ _ (fun t d => (t.wr_frame _ _ _)) _ .ck (by decide)

/-- The state with a drain ended, its step shown and its destination kept. -/
def State.drainKept (s : State) (d : CkDrain) : State :=
  State.wr { s.drainEnded with
    ck := { s.drainEnded.ck with last := some d.step, dests := (d.req :: s.drainEnded.ck.dests).take 2 } }
    keeperU Reg.FX_CKSTEP_LO_VALUE d.step

/-! ### The statements, clause by clause -/

theorem checkpointDrainComplete_yields (s : State) (d : CkDrain) (hd : s.ck.drain = some d) (hkind : d.req.kind = 1)
    (hfault : d.fault = 0) (hpages : ceilDiv d.data.length 4096 ≤ d.pages) (hues : s.ues = []) (hstep : d.step < 2 ^ 64) :
    Yields .checkpointDrainComplete s (fun t => t.ck.drain = none ∧ t.ck.last = some d.step ∧
      t.rd keeperU Reg.FX_CKSTEP_LO_VALUE = d.step ∧ t.ck.dests = (d.req :: s.ck.dests).take 2 ∧
      t.rd keeperU Reg.FX_STAT_DRAINING = 0) := by
  let s4 := (s.drainKept d).ckNotice d.req 1 (leBytes 8 d.step ++ leBytes 8 d.data.length)
  let s5 := if s4.job.nmod ≤ 1 then s4 else s4.emit (.escrow ((s4.job.modId + 1) % s4.job.nmod) d.req)
  have hcount (n : Nat) : s.countDrained n = s := by simp [State.countDrained, hues, forEach]
  have hexec : exec .checkpointDrainComplete s = done s5.drainedOn := by
    change execCheckpointDrainComplete s = _
    simp only [execCheckpointDrainComplete, hd, if_pos hkind, hcount]
    exact if_neg (by simp [hfault, hpages])
  have h5 : s5.ck = s4.ck ∧ s5.regs = s4.regs := by unfold s5; split <;> exact ⟨rfl, rfl⟩
  have h4 : s4.ck = (s.drainKept d).ck := State.ckNotice_frame _ _ _ _ .ck (by decide)
  obtain ⟨kids, hkids⟩ := s5.drainedOn_ck
  have hck : s5.drainedOn.ck =
      { s.ck with drain := none, last := some d.step, dests := (d.req :: s.ck.dests).take 2, kids := kids } := by
    rw [hkids, h5.1, h4]
    simp only [State.drainKept, State.wr_ck, State.drainEnded_ck]
  have hrd {f : Field} (hf : fieldKey keeperU f ≠ fieldKey keeperU Reg.RCV_CKJOB_LO_VALUE)
      (hlow : f.off < 2 ^ 24 ∧ f.lo < 32) :
      s5.drainedOn.rd keeperU f = (s.drainKept d).rd keeperU f :=
    (s5.drainedOn_regs _ _ (by simpa [ckJobShows] using hf)).trans <|
      (show s5.rd keeperU f = s4.rd keeperU f by rw [State.rd, State.rd, h5.2]).trans <|
        State.rd_notice _ _ _ _ _ _ _ (by decide) hlow
  refine .of_done hexec ⟨congrArg CkSt.drain hck, congrArg CkSt.last hck, ?_, congrArg CkSt.dests hck, ?_⟩
  · refine (hrd (by decide) (by decide)).trans ((State.rd_wr_same _ _ _ _).trans (Nat.mod_eq_of_lt hstep))
  · exact (hrd (by decide) (by decide)).trans ((State.rd_wr_other _ _ _ _ _ _ (by decide)).trans s.rd_drainEnded_draining)

theorem checkpointDrainFault_yields (s : State) (code : Nat) (d : CkDrain) (hd : s.ck.drain = some d) (hfault : d.fault ≠ 0) :
    Yields (.checkpointDrainFault code) s (fun t => t.ck.drain = none ∧ t.ck.last = s.ck.last ∧
      t.rd keeperU Reg.FX_CKSTEP_LO_VALUE = s.rd keeperU Reg.FX_CKSTEP_LO_VALUE ∧ t.rd keeperU Reg.FX_STAT_DRAINING = 0) := by
  have hexec : exec (.checkpointDrainFault code) s = done (s.abortDrain d.fault) := by
    change execCheckpointDrainFault code s = _
    simp [execCheckpointDrainFault, hd, hfault]
  have habort : s.abortDrain d.fault = s.drainEnded.ckNotice d.req 2 (leBytes 8 d.step ++ leBytes 2 d.fault) := by
    simp only [State.abortDrain, hd]
  have hck : (s.abortDrain d.fault).ck = { s.ck with drain := none } := by
    rw [habort, ← State.drainEnded_ck]
    exact State.ckNotice_frame _ _ _ _ .ck (by decide)
  have hrd {f : Field} (hlow : f.off < 2 ^ 24 ∧ f.lo < 32) : (s.abortDrain d.fault).rd keeperU f = s.drainEnded.rd keeperU f := by
    rw [habort]
    exact State.rd_notice _ _ _ _ _ _ _ (by decide) hlow
  have hlast : (s.abortDrain d.fault).ck.last = s.ck.last := by rw [hck]
  exact .of_done hexec ⟨congrArg CkSt.drain hck, hlast,
    (hrd (by decide)).trans s.rd_drainEnded_step, (hrd (by decide)).trans s.rd_drainEnded_draining⟩

theorem drained_down_yields (s : State) (child step : Nat) (hstep : step < 2 ^ 64) :
    Yields (.drained child step true) s (fun t => t.rd keeperU Reg.RCV_CKJOB_LO_VALUE = step ∧
      SameRegsBut [(keeperU, Reg.RCV_CKJOB_LO_VALUE)] s t ∧ SameMemBut 0 0 s t ∧
      t.out = (s.voteKids.map (fun c => Out.drained c step true)).reverse ++ s.out) := by
  refine .of_done (r := s.ckJob step) rfl ?_
  simp only [State.canon_rd, SameRegsBut.canon, SameMemBut.canon, State.canon_out]
  refine ⟨?_, s.ckJob_regs step, ?_, ?_⟩ <;> rw [State.ckJob_eq]
  · exact (s.rd_wr_same keeperU Reg.RCV_CKJOB_LO_VALUE step).trans (Nat.mod_eq_of_lt hstep)
  · exact fun _ _ => rfl

/-- Settles O13, clause by clause: a drain that completes, one that is aborted, and the step that comes down the tree. -/
theorem checkpointDrainsComplete : Obligations.CheckpointDrainsComplete := by
  unfold Obligations.CheckpointDrainsComplete
  exact ⟨checkpointDrainComplete_yields, checkpointDrainFault_yields, drained_down_yields⟩

end Sys2Proof.Machine
end

section
/-!
Where votes, decisions and commits complete (12_update_and_fixer R300 to R304).
-/
namespace Sys2Proof.Machine

/-! ### Votes (R301, R302) -/

theorem State.voteOn_of_none {s : State} (h : s.fix.own = none) : s.voteOn = s := by
  simp only [State.voteOn, h]

/-- The vote of a module without children goes to its parent as it is. -/
theorem State.voteOn_of_leaf {s : State} {own : Vote} (hown : s.fix.own = some own) (hsent : s.fix.sent = false)
    (hvotes : s.fix.votes = []) (hkids : s.voteKids = []) (hid : 0 < s.job.modId) :
    s.voteOn = State.emit { s with fix := { s.fix with sent := true } } (.vote ((s.job.modId - 1) / 32) own.bytes) := by
  simp [State.voteOn, hown, hsent, hvotes, hkids, hid.ne']

/-- The vote that a module forms where no checkpoint is requested. -/
def State.ownVote (s : State) : Vote :=
  { step := s.stepNow, flags := s.fix.flags % 16, count := 1, amax := (List.range s.job.nlayer).map (fun n => s.lt n 8 4) }

theorem voteSend_yields (s : State) (hrun : s.running = true) (hown : s.fix.own = none) (hsent : s.fix.sent = false)
    (hvotes : s.fix.votes = []) (hmay : s.mayVote = true) (hkids : s.voteKids = []) (hid : 0 < s.job.modId)
    (hreq : s.ck.req = none) :
    Yields .voteSend s (fun t => (t.fix.own.map Vote.flags) = some (s.fix.flags % 16) ∧
      (t.fix.own.map Vote.count) = some 1 ∧ t.fix.sent = true ∧ t.rd keeperU Reg.FX_VOTE_FLAGS = s.fix.flags % 16 ∧
      (∀ v, t.fix.own = some v → t.out = .vote ((s.job.modId - 1) / 32) v.bytes :: s.out) ∧ SameMemBut 0 0 s t) := by
  have hexec : exec .voteSend s =
      done (State.voteOn (State.wr { s with fix := { s.fix with own := some s.ownVote } } keeperU Reg.FX_VOTE_FLAGS (s.fix.flags % 16))) := by
    change execVoteSend s = _
    unfold execVoteSend
    rw [if_pos (by simp [hrun, hown, hmay])]
    simp only [hreq]
    rfl
  refine .of_done (hexec.trans (congrArg done (State.voteOn_of_leaf (own := s.ownVote) rfl hsent hvotes hkids hid))) ⟨rfl, rfl, rfl, ?_, ?_, ?_⟩
  · exact (State.rd_wr_same _ _ _ _).trans (Nat.mod_eq_of_lt (Nat.lt_trans (Nat.mod_lt _ (by decide)) (by decide)))
  · rintro v hv
    obtain rfl : s.ownVote = v := Option.some.inj hv
    rfl
  · exact SameMemBut.canon.2 fun _ _ => rfl

theorem voteReceive_kept_yields (s : State) (child step flags count : Nat) (amax : List Nat) (hrun : s.running = true)
    (hown : s.fix.own = none) (hchild : child ∈ s.voteKids) (hvotes : s.fix.votes = []) (hstep : step = s.stepNow)
    (hflags : flags < 32) :
    Yields (.voteReceive child step flags count amax) s (fun t => t.fix.votes = [(child, ⟨step, flags, count, amax⟩)] ∧
      t.out = s.out ∧ SameMemBut 0 0 s t ∧ SameRegsBut [] s t) := by
  have hexec : exec (.voteReceive child step flags count amax) s = done (State.voteOn
      { s with fix := { s.fix with votes := (child, ⟨step, flags % 32, count, amax⟩) :: s.fix.votes } }) := by
    change execVoteReceive child step flags count amax s = _
    unfold execVoteReceive
    rw [if_neg (by simp [hstep]), if_pos (by simp [hrun, hchild, hvotes])]
  rw [Nat.mod_eq_of_lt hflags, hvotes] at hexec
  exact .of_done (hexec.trans (congrArg done (State.voteOn_of_none hown))) ⟨rfl, rfl, SameMemBut.canon.2 fun _ _ => rfl, fun _ _ _ => rfl⟩

theorem voteReceive_stray_yields (s : State) (child step flags count : Nat) (amax : List Nat) (hstep : step ≠ s.stepNow) :
    Yields (.voteReceive child step flags count amax) s (fun t => (t.log.ring.head?.map LogEntry.code) = some ePARTNER ∧
      t.fix = s.fix ∧ t.out = s.out ∧ SameMemBut 0 0 s t) :=
  .of_done (r := s.logEvent ePARTNER keeperU child step s.stepNow) (if_pos hstep)
    ⟨State.logEvent_head_code _ _ _ _ _ _ _, State.logEvent_frame _ _ _ _ _ _ _ .fix (by decide), State.logEvent_out _ _ _ _ _ _ _,
      SameMemBut.canon.2 fun a _ => State.logEvent_get _ _ _ _ _ _ _ a⟩

/-! ### The boundary of a bare module (R303, R304) -/

/-- A module without layers, cores, update engines, streams or a drain. -/
structure State.Bare (s : State) : Prop where
  nlayer : s.job.nlayer = 0
  cores : s.cores = []
  ues : s.ues = []
  streams : s.streams = []
  drain : s.ck.drain = none

theorem State.Bare.wr {s : State} (h : s.Bare) (u : Nat) (f : Field) (v : Nat) : (s.wr u f v).Bare :=
  ⟨h.nlayer, h.cores, h.ues, h.streams, h.drain⟩

theorem State.Bare.commitOrSkip {s : State} (h : s.Bare) (d : Vote) : (s.commitOrSkip d).Bare := by
  unfold State.commitOrSkip
  split
  · exact ((h.wr _ _ _).wr _ _ _).wr _ _ _
  · exact (h.wr _ _ _).wr _ _ _

/-- What a step of a list keeps, the whole list keeps. -/
theorem forEach_keeps {α β : Type} (π : State → β) {f : State → α → State} {l : List α}
    (h : ∀ s, ∀ a ∈ l, π (f s a) = π s) (s : State) : π (forEach l f s) = π s := by
  induction l generalizing s with
  | nil => rfl
  | cons a l ih => exact (ih (fun s b hb => h s b (by simp [hb])) (f s a)).trans (h s a (by simp))

theorem State.rd_resetIdl (s : State) (die : Nat) (f : Field) (hf : f.off < 2 ^ 24 ∧ f.lo < 32) :
    (s.resetUnit (idlU die)).rd keeperU f = s.rd keeperU f := by
  rw [State.rd_resetUnit _ _ _ _ hf.1 hf.2, if_neg (by simp only [keeperU, idlU, unitOf]; omega)]

theorem State.writeSheet_nil (s : State) (d : Vote) :
    ∃ sheets, s.writeSheet [] d = { forEach (List.range 24) (fun s die => s.resetUnit (idlU die)) s with sheets := sheets } := by
  unfold State.writeSheet
  extract_lets layers cores sheet s2 s3
  exact ⟨_, rfl⟩

theorem State.rd_writeSheet (s : State) (d : Vote) (f : Field) (hf : f.off < 2 ^ 24 ∧ f.lo < 32) :
    (s.writeSheet [] d).rd keeperU f = s.rd keeperU f := by
  obtain ⟨sheets, he⟩ := s.writeSheet_nil d
  simp only [he, State.rd]
  exact State.rd_forEach_other (List.range 24) (fun t die _ => t.rd_resetIdl die f hf) s

theorem State.writeSheet_out (s : State) (d : Vote) : (s.writeSheet [] d).out = s.out := by
  obtain ⟨sheets, he⟩ := s.writeSheet_nil d
  simp only [he]
  exact forEach_keeps State.out (l := List.range 24) (fun t die _ => t.resetUnit_out (idlU die)) s

theorem State.Bare.writeSheet {s : State} (h : s.Bare) (d : Vote) : (s.writeSheet [] d).Bare := by
  have hsheet := s.writeSheet_frame [] d
  exact ⟨by rw [hsheet .job (by decide), h.nlayer], (hsheet .cores (by decide)).trans h.cores, (hsheet .ues (by decide)).trans h.ues,
    (hsheet .streams (by decide)).trans h.streams, by rw [hsheet .ck (by decide), h.drain]⟩

theorem State.rd_redStat (s : State) (f : Field) (hf : f.off < 2 ^ 24 ∧ f.lo < 32) : s.redStat.rd keeperU f = s.rd keeperU f := by
  have hkey {n : Nat} (hn : n ∈ List.range 5) (g : Field) (hg : g.off < 2 ^ 24 ∧ g.lo < 32) :
      fieldKey keeperU f ≠ fieldKey (rdU n) g :=
    fieldKey_ne_of_unit f g (by simp only [List.mem_range] at hn; simp only [keeperU, rdU, unitOf]; omega) hf hg
  exact State.rd_forEach_other _ (fun _ n hn =>
    (State.rd_wr_other _ _ _ _ _ _ (hkey hn _ (by decide))).trans (State.rd_wr_other _ _ _ _ _ _ (hkey hn _ (by decide)))) s

theorem State.redStat_out (s : State) : s.redStat.out = s.out := by
  unfold State.redStat
  extract_lets left
  exact forEach_keeps State.out (l := List.range 5) (fun t n _ => (State.wr_out _ (rdU n) _ _).trans (State.wr_out t (rdU n) _ _)) s

/-- The release of a bare module. -/
structure State.Released (s t : State) : Prop where
  step : t.rd keeperU Reg.FX_STEP_LO_VALUE = (s.rd keeperU Reg.FX_STEP_LO_VALUE + 1) % 2 ^ 64
  rd : ∀ f : Field, f.off < 2 ^ 24 ∧ f.lo < 32 → fieldKey keeperU f ≠ fieldKey keeperU Reg.FX_STEP_LO_VALUE →
    t.rd keeperU f = s.rd keeperU f
  out : t.out = s.out
  sent : t.fix.sent = false
  drain : t.ck.drain = none

theorem State.Bare.released {s : State} (h : s.Bare) : s.Released s.release := by
  have hregs (f : Field) (hf : f.off < 2 ^ 24 ∧ f.lo < 32) :
      s.release.rd keeperU f = (s.wr keeperU Reg.FX_STEP_LO_VALUE (s.stepNow + 1)).rd keeperU f := by
    simp only [State.release, h.cores, h.streams, List.map_nil, forEach, List.foldl_nil, State.zeroRange_streams, State.wr_streams, State.wr_cores]
    exact State.rd_redStat _ f hf
  refine ⟨(hregs _ (by decide)).trans (State.rd_wr_same _ _ _ _),
    fun f hf hne => (hregs f hf).trans (State.rd_wr_other _ _ _ _ _ _ hne), ?_, ?_, ?_⟩
  · simp only [State.release, h.cores, h.streams, List.map_nil, forEach, List.foldl_nil, State.zeroRange_streams, State.wr_streams, State.wr_cores]
    exact State.redStat_out _
  · simp only [State.release, h.cores, h.streams, List.map_nil, forEach, List.foldl_nil, State.zeroRange_streams, State.wr_streams, State.wr_cores]
    rw [State.redStat_frame _ .fix (by decide)]
    rfl
  · rw [s.release_frame .ck (by decide), h.drain]

theorem State.Bare.boundary_eq {s : State} (h : s.Bare) (d : Vote) (hbit : bitAt d.flags 4 = false) :
    s.boundary d = (((s.wr keeperU Reg.FX_JVOTE_FLAGS d.flags).commitOrSkip d).writeSheet [] d).release := by
  have hbare := ((h.wr keeperU Reg.FX_JVOTE_FLAGS d.flags).commitOrSkip d)
  have hspoil : State.spoilIdle ((s.wr keeperU Reg.FX_JVOTE_FLAGS d.flags).commitOrSkip d) =
      (s.wr keeperU Reg.FX_JVOTE_FLAGS d.flags).commitOrSkip d := by
    simp only [State.spoilIdle, hbare.ues, forEach, List.foldl_nil]
  have hlayers : s.ltLayers = [] := by simp [State.ltLayers, h.nlayer]
  have hsheet := hbare.writeSheet d
  have hwindow {t : State} (ht : t.Bare) : t.writeWindow = t := if_pos ht.nlayer
  have hring {t : State} (ht : t.ck.drain = none) : t.fillRing 0 = t := by simp only [State.fillRing, ht]
  unfold State.boundary
  simp only [hlayers, hspoil, ite_self, List.map_nil, hbit, hwindow hsheet, hsheet.cores, forEach, List.foldl_nil, Bool.false_eq_true,
    if_false]
  exact hring hsheet.released.drain

/-- What a boundary of a bare module leaves, beside the commit or the skip itself. -/
theorem State.Bare.boundary {s : State} (h : s.Bare) (d : Vote) (hbit : bitAt d.flags 4 = false) :
    ((s.wr keeperU Reg.FX_JVOTE_FLAGS d.flags).commitOrSkip d).Released (s.boundary d) := by
  rw [h.boundary_eq d hbit]
  have hr := (((h.wr keeperU Reg.FX_JVOTE_FLAGS d.flags).commitOrSkip d).writeSheet d).released
  have hrd (f : Field) (hf : f.off < 2 ^ 24 ∧ f.lo < 32) := ((s.wr keeperU Reg.FX_JVOTE_FLAGS d.flags).commitOrSkip d).rd_writeSheet d f hf
  exact ⟨by rw [hr.step, hrd _ (by decide)], fun f hf hne => (hr.rd f hf hne).trans (hrd f hf), hr.out.trans (State.writeSheet_out _ _),
    hr.sent, hr.drain⟩

/-- The commit of a bare module: the step advances, the buffers change places, and the update is counted (R303). -/
theorem State.Bare.commits {s : State} (h : s.Bare) {d : Vote} (hflags : d.flags = 0)
    (hstep : s.rd keeperU Reg.FX_STEP_LO_VALUE < 2 ^ 64 - 1) :
    (s.boundary d).rd keeperU Reg.FX_STEP_LO_VALUE = s.rd keeperU Reg.FX_STEP_LO_VALUE + 1 ∧
      (s.boundary d).rd keeperU Reg.FX_STAT_ACTIVE = 1 - s.rd keeperU Reg.FX_STAT_ACTIVE ∧
      (s.boundary d).rd keeperU Reg.FX_UPD_LO_VALUE = (s.rd keeperU Reg.FX_UPD_LO_VALUE + 1) % 2 ^ 64 ∧
      (s.boundary d).rd keeperU Reg.FX_STAT_SKIPPED = 0 ∧
      (s.boundary d).rd keeperU Reg.FX_STAT_DWAIT = s.rd keeperU Reg.FX_STAT_DWAIT ∧
      (s.boundary d).fix.sent = false ∧ (s.boundary d).out = s.out := by
  have hr := h.boundary d (by rw [hflags]; rfl)
  rw [State.commitOrSkip, if_pos (by rw [hflags])] at hr
  refine ⟨?_, ?_, ?_, ?_, ?_, hr.sent, hr.out⟩
  · rw [hr.step]
    simp (disch := decide) only [State.rd_wr_other]
    exact Nat.mod_eq_of_lt (by omega)
  · rw [hr.rd _ (by decide) (by decide)]
    simp (disch := decide) only [State.rd_wr_other, State.rd_wr_same]
    exact Nat.mod_eq_of_lt (Nat.lt_of_le_of_lt (Nat.sub_le _ _) (by decide))
  · rw [hr.rd _ (by decide) (by decide)]
    simp (disch := decide) only [State.rd_wr_other, State.rd_wr_same]
    rfl
  · rw [hr.rd _ (by decide) (by decide), State.rd_wr_same]
    rfl
  · rw [hr.rd _ (by decide) (by decide)]
    simp (disch := decide) only [State.rd_wr_other]

/-- A skip of a bare module: the step advances, the skip is counted, and buffer and updates stay (R304). -/
theorem State.Bare.skips {s : State} (h : s.Bare) {d : Vote} (hflags : 0 < d.flags ∧ d.flags < 16)
    (hstep : s.rd keeperU Reg.FX_STEP_LO_VALUE < 2 ^ 64 - 1) :
    (s.boundary d).rd keeperU Reg.FX_STEP_LO_VALUE = s.rd keeperU Reg.FX_STEP_LO_VALUE + 1 ∧
      (s.boundary d).rd keeperU Reg.FX_STAT_ACTIVE = s.rd keeperU Reg.FX_STAT_ACTIVE ∧
      (s.boundary d).rd keeperU Reg.FX_UPD_LO_VALUE = s.rd keeperU Reg.FX_UPD_LO_VALUE ∧
      (s.boundary d).rd keeperU Reg.FX_STAT_SKIPPED = 1 ∧
      (s.boundary d).rd keeperU Reg.FX_SKIPS_COUNT = Nat.min (s.rd keeperU Reg.FX_SKIPS_COUNT + 1) (2 ^ 32 - 1) ∧
      (s.boundary d).fix.sent = false ∧ (s.boundary d).out = s.out := by
  have hr := h.boundary d (by simp [bitAt, Nat.div_eq_of_lt hflags.2])
  rw [State.commitOrSkip, if_neg (by rw [Nat.mod_eq_of_lt hflags.2]; exact hflags.1.ne')] at hr
  refine ⟨?_, ?_, ?_, ?_, ?_, hr.sent, hr.out⟩
  · rw [hr.step]
    simp (disch := decide) only [State.rd_bump_other, State.rd_wr_other]
    exact Nat.mod_eq_of_lt (by omega)
  · rw [hr.rd _ (by decide) (by decide)]
    simp (disch := decide) only [State.rd_bump_other, State.rd_wr_other]
  · rw [hr.rd _ (by decide) (by decide)]
    simp (disch := decide) only [State.rd_bump_other, State.rd_wr_other]
  · rw [hr.rd _ (by decide) (by decide)]
    simp (disch := decide) only [State.rd_bump_other, State.rd_wr_same]
    rfl
  · rw [hr.rd _ (by decide) (by decide), State.rd_bump_same]
    simp (disch := decide) only [State.rd_wr_other]
    rfl

/-! ### Decisions and held commits (R303, R304) -/

/-- A decision taken: the time and the watchdog, before the boundary. -/
def State.decidedNow (s : State) : State := { s with fix := { s.fix with decided := s.jobTime, watch := false } }

theorem exec_decisionReceive {s : State} {step flags count : Nat} {amax : List Nat} (hrun : s.running = true)
    (hid : s.job.modId ≠ 0) (hsent : s.fix.sent = true) (hnone : s.fix.decision = none) (hstep : step = s.stepNow)
    (hkids : s.voteKids = []) (hdrain : s.ck.drain = none) (hflags : flags < 16) :
    exec (.decisionReceive step flags count amax) s = done (s.decidedNow.boundary ⟨step, flags, count, amax⟩) := by
  change execDecisionReceive step flags count amax s = _
  unfold execDecisionReceive
  rw [if_pos (by simp [hrun, hid, hsent, hnone, hstep]), Nat.mod_eq_of_lt (by omega : flags < 32)]
  unfold State.takeDecision
  simp only [hkids, forEach, List.foldl_nil, hdrain, Option.isSome_none, Bool.and_false, Bool.false_eq_true, if_false]
  rfl

theorem decisionReceive_commit_yields (s : State) (step count : Nat) (amax : List Nat) (hrun : s.running = true)
    (hid : s.job.modId ≠ 0) (hsent : s.fix.sent = true) (hnone : s.fix.decision = none) (hstep : step = s.stepNow)
    (hkids : s.voteKids = []) (hdrain : s.ck.drain = none) (hlayer : s.job.nlayer = 0) (hcores : s.cores = [])
    (hues : s.ues = []) (hstreams : s.streams = []) (_ : s.red.ents = []) (_ : s.job.ovr = 0)
    (hlt : s.rd keeperU Reg.FX_STEP_LO_VALUE < 2 ^ 64 - 1) :
    Yields (.decisionReceive step 0 count amax) s (fun t => t.rd keeperU Reg.FX_STEP_LO_VALUE = s.rd keeperU Reg.FX_STEP_LO_VALUE + 1 ∧
      t.rd keeperU Reg.FX_STAT_ACTIVE = 1 - s.rd keeperU Reg.FX_STAT_ACTIVE ∧
      t.rd keeperU Reg.FX_UPD_LO_VALUE = (s.rd keeperU Reg.FX_UPD_LO_VALUE + 1) % 2 ^ 64 ∧
      t.rd keeperU Reg.FX_STAT_SKIPPED = 0 ∧ t.fix.sent = false ∧ t.out = s.out) := by
  have hbare : s.decidedNow.Bare := ⟨hlayer, hcores, hues, hstreams, hdrain⟩
  obtain ⟨hst, hactive, hupd, hskip, -, hs, hout⟩ := hbare.commits (d := ⟨step, 0, count, amax⟩) rfl hlt
  exact .of_done (exec_decisionReceive hrun hid hsent hnone hstep hkids hdrain (by decide)) ⟨hst, hactive, hupd, hskip, hs, hout⟩

theorem decisionReceive_skip_yields (s : State) (step flags count : Nat) (amax : List Nat) (hrun : s.running = true)
    (hid : s.job.modId ≠ 0) (hsent : s.fix.sent = true) (hnone : s.fix.decision = none) (hstep : step = s.stepNow)
    (hkids : s.voteKids = []) (hdrain : s.ck.drain = none) (hlayer : s.job.nlayer = 0) (hcores : s.cores = [])
    (hues : s.ues = []) (hstreams : s.streams = []) (_ : s.red.ents = []) (_ : s.job.ovr = 0)
    (hlt : s.rd keeperU Reg.FX_STEP_LO_VALUE < 2 ^ 64 - 1) (hpos : 0 < flags) (hflags : flags < 16) :
    Yields (.decisionReceive step flags count amax) s (fun t => t.rd keeperU Reg.FX_STEP_LO_VALUE = s.rd keeperU Reg.FX_STEP_LO_VALUE + 1 ∧
      t.rd keeperU Reg.FX_STAT_ACTIVE = s.rd keeperU Reg.FX_STAT_ACTIVE ∧
      t.rd keeperU Reg.FX_UPD_LO_VALUE = s.rd keeperU Reg.FX_UPD_LO_VALUE ∧ t.rd keeperU Reg.FX_STAT_SKIPPED = 1 ∧
      t.rd keeperU Reg.FX_SKIPS_COUNT = Nat.min (s.rd keeperU Reg.FX_SKIPS_COUNT + 1) (2 ^ 32 - 1) ∧ t.fix.sent = false ∧
      t.out = s.out) :=
  have hbare : s.decidedNow.Bare := ⟨hlayer, hcores, hues, hstreams, hdrain⟩
  .of_done (exec_decisionReceive hrun hid hsent hnone hstep hkids hdrain hflags)
    (hbare.skips (d := ⟨step, flags, count, amax⟩) ⟨hpos, hflags⟩ hlt)

theorem fixerCommit_yields (s : State) (mclk step count : Nat) (amax : List Nat) (hrun : s.running = true)
    (hheld : s.fix.decision = some ⟨step, 0, count, amax⟩) (hdrain : s.ck.drain = none) (hlayer : s.job.nlayer = 0)
    (hcores : s.cores = []) (hues : s.ues = []) (hstreams : s.streams = []) (_ : s.red.ents = []) (_ : s.job.ovr = 0)
    (hlt : s.rd keeperU Reg.FX_STEP_LO_VALUE < 2 ^ 64 - 1) :
    Yields (.fixerCommit mclk) s (fun t => t.rd keeperU Reg.FX_STEP_LO_VALUE = s.rd keeperU Reg.FX_STEP_LO_VALUE + 1 ∧
      t.rd keeperU Reg.FX_STAT_ACTIVE = 1 - s.rd keeperU Reg.FX_STAT_ACTIVE ∧
      t.rd keeperU Reg.FX_UPD_LO_VALUE = (s.rd keeperU Reg.FX_UPD_LO_VALUE + 1) % 2 ^ 64 ∧
      t.rd keeperU Reg.FX_STAT_SKIPPED = 0 ∧ t.rd keeperU Reg.FX_STAT_DWAIT = 0 ∧ t.out = s.out) := by
  let s1 := (s.wr keeperU Reg.FX_STAT_DWAIT 0).bump keeperU Reg.FX_DWAIT_CYC_COUNT mclk
  have hexec : exec (.fixerCommit mclk) s = done (s1.boundary ⟨step, 0, count, amax⟩) := by
    change execFixerCommit mclk s = _
    simp [execFixerCommit, hheld, hrun, hdrain, s1]
  have hbare : s1.Bare := ⟨hlayer, hcores, hues, hstreams, hdrain⟩
  have hrd {f : Field} (hd : fieldKey keeperU f ≠ fieldKey keeperU Reg.FX_STAT_DWAIT)
      (hc : fieldKey keeperU f ≠ fieldKey keeperU Reg.FX_DWAIT_CYC_COUNT) : s1.rd keeperU f = s.rd keeperU f :=
    (State.rd_bump_other _ _ _ _ _ _ hc).trans (State.rd_wr_other _ _ _ _ _ _ hd)
  obtain ⟨hst, hactive, hupd, hskip, hwait, -, hout⟩ :=
    hbare.commits (d := ⟨step, 0, count, amax⟩) rfl (by rw [hrd (by decide) (by decide)]; exact hlt)
  rw [hrd (by decide) (by decide)] at hst hactive hupd
  refine .of_done hexec ⟨hst, hactive, hupd, hskip, hwait.trans ?_, hout⟩
  exact (State.rd_bump_other _ _ _ _ _ _ (by decide)).trans (State.rd_wr_same _ _ _ _)

/-- Settles O12, clause by clause: a vote sent, kept and dropped, a decision that commits and one that skips, and a held
commit. -/
theorem stepMachineryCompletes : Obligations.StepMachineryCompletes := by
  unfold Obligations.StepMachineryCompletes
  exact ⟨voteSend_yields, voteReceive_kept_yields, voteReceive_stray_yields, decisionReceive_commit_yields,
    decisionReceive_skip_yields, fixerCommit_yields⟩

end Sys2Proof.Machine
end

section
/-!
What a halt that stops the job writes in the registers (09_core_sequencer R233, R237; 18_faults_and_relief R431 to R433;
19_keeper_minil R449).
-/
namespace Sys2Proof.Machine

/-! ### Registers that a stop of the engines writes (18_faults_and_relief R433) -/

/-- What halts and stops of the engines write: what messages write, and registers beside MNL_STAT; of the update engines', DRAINING
alone, and BUSY, which they clear. -/
def haltWrites (u : Nat) (f : Field) (v : Nat) : Prop :=
  mailWrites u f v ∨ f.off < 2 ^ 24 ∧ f.lo < 32 ∧ f.off ≠ 0x20100 ∧
    ∀ d < 24, u = ueU d → f = Reg.UE_STAT_DRAINING ∨ f = Reg.UE_STAT_BUSY ∧ v = 0

/-- MNL_STAT is none that halts write. -/
theorem haltWrites.spare_stat {f : Field} (hf : f.off = 0x20100 ∧ f.lo < 32) (w : Nat) (g : Field) (v : Nat)
    (h : haltWrites w g v) : fieldKey mbxU f ≠ fieldKey w g := by
  rcases h with hmail | ⟨hoff, hlo, hne, -⟩
  · exact mailWrites.spare_stat hf w g v hmail
  · intro hk
    obtain ⟨-, he, -⟩ := fieldKey_inj mbxU w f g (by rw [hf.1]; decide) hoff hf.2 hlo hk
    exact hne (he.symm.trans hf.1)

/-- A halt's write of a key of UE_STAT of a compute die is of DRAINING, or clears BUSY. -/
theorem haltWrites.of_ueU {die : Nat} (hdie : die < 24) {f : Field} (hf : f.off = 0 ∧ f.lo < 32) {w : Nat} {g : Field} {v : Nat}
    (h : haltWrites w g v) (hk : fieldKey (ueU die) f = fieldKey w g) :
    g.lo = f.lo ∧ (g = Reg.UE_STAT_DRAINING ∨ g = Reg.UE_STAT_BUSY ∧ v = 0) := by
  have hlow : f.off < 2 ^ 24 := by rw [hf.1]; decide
  rcases h with hmail | ⟨hoff, hlo, -, hue⟩
  · exact absurd hk (mailWrites.spare (by simp only [ueU, mbxU, unitOf]; omega) ⟨hlow, hf.2⟩ w g v hmail)
  · obtain ⟨rfl, -, hplace⟩ := fieldKey_inj _ _ _ _ hlow hoff hf.2 hlo hk
    exact ⟨hplace.symm, hue die hdie rfl⟩

/-- FAULTED of an update engine stays through what halts write. -/
theorem Wrote.rd_faulted {s t : State} (h : Wrote haltWrites s t) {die : Nat} (hdie : die < 24) :
    t.rd (ueU die) Reg.UE_STAT_FAULTED = s.rd (ueU die) Reg.UE_STAT_FAULTED :=
  h.rd_eq fun w g v hg hk => by
    obtain ⟨hlo, rfl | ⟨rfl, -⟩⟩ := hg.of_ueU hdie (by decide) hk <;> simp [Reg.UE_STAT_DRAINING, Reg.UE_STAT_BUSY, Reg.UE_STAT_FAULTED] at hlo

/-- An update engine that is not busy stays so through what halts write. -/
theorem Wrote.rd_busy {s t : State} (h : Wrote haltWrites s t) {die : Nat} (hdie : die < 24)
    (hbusy : s.rd (ueU die) Reg.UE_STAT_BUSY = 0) : t.rd (ueU die) Reg.UE_STAT_BUSY = 0 :=
  h (ueU die) Reg.UE_STAT_BUSY 0 (fun w g v hg hk => by
    obtain ⟨hlo, rfl | ⟨rfl, rfl⟩⟩ := hg.of_ueU hdie (by decide) hk
    · simp [Reg.UE_STAT_DRAINING, Reg.UE_STAT_BUSY] at hlo
    · exact ⟨rfl, rfl⟩) hbusy

theorem Wrote.halt {s t : State} (h : Wrote mailWrites s t) : Wrote haltWrites s t := h.mono fun _ _ _ hw => .inl hw

/-- A register of a unit that is no update engine of a compute die. -/
theorem haltWrites.of_unit {u : Nat} (hu : ∀ d < 24, u ≠ ueU d) {f : Field}
    (hf : f.off < 2 ^ 24 ∧ f.lo < 32 ∧ f.off ≠ 0x20100) (v : Nat) : haltWrites u f v :=
  .inr ⟨hf.1, hf.2.1, hf.2.2, fun d hd he => absurd he (hu d hd)⟩

/-- A unit whose endpoint is not that of an update engine. -/
theorem unitOf_ne_ueU {die core ep : Nat} (hep : ep % 64 ≠ 35 := by decide) (d : Nat) (_ : d < 24) : unitOf die core ep ≠ ueU d := by
  simp only [ueU, unitOf]
  omega

theorem haltWrites_unit {die core ep : Nat} {f : Field} {v : Nat} (hep : ep % 64 ≠ 35 := by decide)
    (hf : f.off < 2 ^ 24 ∧ f.lo < 32 ∧ f.off ≠ 0x20100 := by decide) : haltWrites (unitOf die core ep) f v :=
  .of_unit (unitOf_ne_ueU hep) hf v

theorem haltWrites_keeper {f : Field} {v : Nat} (hf : f.off < 2 ^ 24 ∧ f.lo < 32 ∧ f.off ≠ 0x20100 := by decide) :
    haltWrites keeperU f v := haltWrites_unit (by decide) hf

theorem haltWrites_acU (i v : Nat) : haltWrites (acU i) Reg.AC_STAT_RUN v :=
  .of_unit (fun d hd => by simp only [acU, ueU, unitOf]; split <;> omega) (by decide) v

theorem haltWrites_strU (k : Nat) {f : Field} {v : Nat} (hf : f.off < 2 ^ 24 ∧ f.lo < 32 ∧ f.off ≠ 0x20100 := by decide) :
    haltWrites (strU k) f v :=
  .of_unit (fun d hd => by simp only [strU, ueU, unitOf]; omega) hf v

theorem haltWrites_draining (die v : Nat) : haltWrites (ueU die) Reg.UE_STAT_DRAINING v :=
  .inr ⟨by decide, by decide, by decide, fun _ _ _ => .inl rfl⟩

theorem haltWrites_idle (die : Nat) : haltWrites (ueU die) Reg.UE_STAT_BUSY 0 :=
  .inr ⟨by decide, by decide, by decide, fun _ _ _ => .inr ⟨rfl, rfl⟩⟩

/-! ### The log and the cores (09_core_sequencer R233, R237; 18_faults_and_relief R424) -/

/-- The registers of a log entry are the keeper's. -/
theorem haltWrites_of_logShows {s t : State} (h : SameRegsBut logShows s t) : Wrote haltWrites s t :=
  h.wrote fun p hp => by
    simp only [logShows, List.mem_cons, List.not_mem_nil, or_false] at hp
    rcases hp with rfl | rfl | rfl | rfl <;> exact ⟨by decide, fun _ => haltWrites_unit⟩

theorem State.logEvent_halt (s : State) (code u d0 d1 d2 d3 : Nat) : Wrote haltWrites s (s.logEvent code u d0 d1 d2 d3) :=
  haltWrites_of_logShows (s.logEvent_regs code u d0 d1 d2 d3)

theorem State.haltRegs_halt (s : State) (die core cause : Nat) (via : Bool) (tag : Nat) :
    Wrote haltWrites s (s.haltRegs die core cause via tag) :=
  ((((((Wrote.of_self _ s).wr haltWrites_unit).wr haltWrites_unit).wr haltWrites_unit).wr haltWrites_unit).wr haltWrites_unit).wr
    haltWrites_unit

theorem State.coreDown_halt (s : State) (die core cause : Nat) (via : Bool) (tag : Nat) :
    Wrote haltWrites s (s.coreDown die core cause via tag) :=
  (((Wrote.of_regs (.of_self _ s) (by rw [← State.setCore_regs s die core _])).wr haltWrites_unit).wr haltWrites_unit).through
    (State.haltRegs_halt _ _ _ _ _ _)

theorem State.stopCore_halt (s : State) (die core : Nat) : Wrote haltWrites s (s.stopCore die core) := by
  unfold State.stopCore
  simp only []
  split
  case isTrue => exact (s.coreDown_halt die core 13 false 0).through (State.logEvent_halt _ _ _ _ _ _ _)
  case isFalse => exact .of_self _ s

theorem State.stopCores_halt (s : State) : Wrote haltWrites s s.stopCores := .forEach (fun t p _ => t.stopCore_halt p.1 p.2) s

/-! ### Transfers whose write is answered (07_streams_layout R180, R181) -/

/-- The fields that the end of a transfer writes, whatever the core. -/
def endFields : List Field :=
  [Reg.DMA_XFERS_COUNT, Reg.SEQ_NEARMISS_COUNT, Reg.DMA_STAT_BUSY, Reg.DMA_STAT_TAGS_OUT, Reg.DB_STAT_BITS]

theorem endFields_ok : ∀ f ∈ endFields, 0 < f.width ∧ f.off < 2 ^ 24 ∧ f.lo < 32 ∧ f.off ≠ 0x20100 := by decide

theorem endShows_halt {die core : Nat} (p : Nat × Field) (hp : p ∈ endShows die core) :
    0 < p.2.width ∧ ∀ v, haltWrites p.1 p.2 v := by
  have hf : p.2 ∈ endFields ∧ ∀ d < 24, p.1 ≠ ueU d := by
    simp only [endShows, List.mem_cons, List.not_mem_nil, or_false] at hp
    rcases hp with rfl | rfl | rfl | rfl | rfl <;> exact ⟨by simp [endFields], unitOf_ne_ueU⟩
  exact ⟨(endFields_ok _ hf.1).1, .of_unit hf.2 (endFields_ok _ hf.1).2⟩

theorem State.returnTag_halt (s : State) (die core tag err : Nat) : Wrote haltWrites s (s.returnTag die core tag err) :=
  SameRegsBut.wrote (l := endShows die core)
    (fun _ _ hf => s.rd_returnTag die core tag err (hf (seqU die core, Reg.SEQ_NEARMISS_COUNT) (by simp [endShows]))) endShows_halt

theorem State.dmaStat_halt (s : State) (die core : Nat) : Wrote haltWrites s (s.dmaStat die core) :=
  ((Wrote.of_self _ s).wr haltWrites_unit).wr haltWrites_unit

theorem State.endXfer_halt (s : State) (die core i : Nat) : Wrote haltWrites s (s.endXfer die core i) :=
  (s.endXfer_regs die core i).wrote endShows_halt

theorem State.dmaCapture_halt (s : State) (die core : Nat) (e : XferFault) (tag ring : Nat) (dir mcast fetch : Bool) :
    Wrote haltWrites s (s.dmaCapture die core e tag ring dir mcast fetch) :=
  (((((((((Wrote.of_self _ s).wr haltWrites_unit).wr haltWrites_unit).wr haltWrites_unit).wr haltWrites_unit).wr haltWrites_unit).wr
    haltWrites_unit).wr haltWrites_unit).wr haltWrites_unit).wr haltWrites_unit

theorem State.failXfer_halt (s : State) (die core i : Nat) (x : Xfer) (e : XferFault) :
    Wrote haltWrites s (s.failXfer die core i x e) :=
  ((((s.dmaCapture_halt die core e _ _ _ _ _).of_regs (State.setCore_regs _ _ _ _)).through (State.returnTag_halt _ _ _ _ _)).through
    (State.dmaStat_halt _ _ _)).through (State.logEvent_halt _ _ _ _ _ _ _)

theorem State.answerHeld_halt (s : State) (src key err : Nat) : Wrote haltWrites s (s.answerHeld src key err) := by
  unfold State.answerHeld
  simp only []
  (repeat' split)
  · exact .of_self _ s
  · exact s.failXfer_halt _ _ _ _ _
  · exact s.endXfer_halt _ _ _
  · exact Wrote.of_regs (.of_self _ s) (State.setCore_regs _ _ _ _)
  · exact .of_self _ s

theorem State.mbxReset_halt (s : State) (chans : List Nat) : Wrote haltWrites s (s.mbxReset chans) := by
  refine .forEach (fun t c _ => ?_) s
  simp only []
  have hclear := (t.mbxClear_mail c).halt
  split
  case isTrue =>
    refine .through (.through (.of_regs (hclear.wr (.inl (mailWrites_result c 2))) ?_) (State.logEvent_halt _ _ _ _ _ _ _))
      (State.answerHeld_halt _ _ _ _)
    exact State.emit_regs _ _
  case isFalse => exact hclear

/-! ### The stop of the engines (18_faults_and_relief R433) -/

theorem State.drainEnded_halt (s : State) : Wrote haltWrites s s.drainEnded := by
  refine Wrote.through (t := State.wr { s with ck := { s.ck with drain := none } } keeperU Reg.FX_STAT_DRAINING 0)
    (Wrote.wr (.of_regs (.of_self _ s) rfl) haltWrites_keeper) ?_
  exact .forEach (fun t die _ => (Wrote.of_self _ t).wr (haltWrites_draining die 0)) _

theorem State.abortDrain_halt (s : State) (code : Nat) : Wrote haltWrites s (s.abortDrain code) := by
  unfold State.abortDrain
  split
  case h_1 => exact .of_self _ s
  case h_2 => exact s.drainEnded_halt.through (State.notice_mail _ _ _ _ _ _ _).halt

theorem State.stopApps_halt (s : State) : Wrote haltWrites s s.stopApps := by
  unfold State.stopApps
  refine .through (.forEach (fun t i _ => .wr ?_ (haltWrites_acU i 0)) s) (State.mbxReset_halt _ _)
  exact Wrote.of_regs (.of_self _ t) rfl

theorem State.stopUpdates_halt (s : State) : Wrote haltWrites s s.stopUpdates := by
  unfold State.stopUpdates
  extract_lets red s1 s2
  have h1 : Wrote haltWrites s s1 := .of_regs (.of_self _ s) rfl
  have h2 : Wrote haltWrites s1 s2 := .forEach (fun t die _ => (Wrote.of_self _ t).wr (haltWrites_idle die)) s1
  exact (h1.through h2).through (.forEach (fun t n _ => ((Wrote.of_self _ t).wr haltWrites_unit).wr haltWrites_unit) s2)

theorem State.stopStreams_halt (s : State) : Wrote haltWrites s s.stopStreams := by
  unfold State.stopStreams
  extract_lets s1
  have h1 : Wrote haltWrites s s1 := .of_regs (.of_self _ s) rfl
  exact h1.through (.forEach (fun t k _ =>
    (((Wrote.of_self _ t).wr (haltWrites_strU k)).wr (haltWrites_strU k)).wr (haltWrites_strU k)) s1)

theorem State.stopEngines_halt (s : State) (code : Nat) : Wrote haltWrites s (s.stopEngines code) := by
  have hstages (t : State) : Wrote haltWrites t t.emptyStages := .of_regs (.of_self _ t) rfl
  have hstop : Wrote haltWrites s (s.stopApps.stopUpdates.emptyStages.stopStreams.abortDrain code) :=
    (((s.stopApps_halt.through (State.stopUpdates_halt _)).through (hstages _)).through (State.stopStreams_halt _)).through
      (State.abortDrain_halt _ code)
  unfold State.stopEngines
  extract_lets s1 fix
  refine .wr (.of_regs hstop ?_) haltWrites_keeper
  rfl

/-! ### Fog signals (18_faults_and_relief R431 to R433) -/

theorem State.flood_halt (s : State) (f : Fog) (except : Nat) : Wrote haltWrites s (s.flood f except) :=
  .forEach (fun t p _ => Wrote.of_regs (.of_self _ t) (t.emit_regs (.fog p f))) s

theorem State.noteFog_halt (s : State) (f : Fog) : Wrote haltWrites s (s.noteFog f) := by
  unfold State.noteFog
  split
  case isTrue => exact (((Wrote.of_self _ s).wr haltWrites_keeper).wr haltWrites_keeper).wr haltWrites_keeper
  case isFalse => exact .of_self _ s

theorem State.fogActions_halt (s : State) (f : Fog) (unit : Nat) : Wrote haltWrites s (s.fogActions f unit) := by
  unfold State.fogActions
  extract_lets halts links rcv log s1 s2 job stopped s3
  have h1 : Wrote haltWrites s s1 := .of_regs (.of_self _ s) rfl
  have h2 : Wrote haltWrites s s2 := (h1.wr haltWrites_keeper).bump 1 fun _ => haltWrites_keeper
  have h3 : Wrote haltWrites s s3 := by
    unfold s3
    split
    case isTrue =>
      have hstopped : Wrote haltWrites s stopped := .of_regs h2 rfl
      exact ((hstopped.through (State.stopCores_halt _)).through (State.stopEngines_halt _ _)).wr haltWrites_keeper
    case isFalse => exact h2
  split
  case isTrue => exact h3.through (State.notice_mail _ _ _ _ _ _ _).halt
  case isFalse => exact h3

theorem State.logFault_halt (s : State) (code cls u suspect port d0 d1 d2 d3 : Nat) :
    Wrote haltWrites s (s.logFault code cls u suspect port d0 d1 d2 d3) := by
  unfold State.logFault
  extract_lets raise s1 f log s2
  have h1 : Wrote haltWrites s s1 := haltWrites_of_logShows (s.pushEntry_regs _)
  have h2 : Wrote haltWrites s s2 := .of_regs h1 rfl
  split
  case isTrue =>
    exact ((h2.through (State.flood_halt _ _ _)).through (State.noteFog_halt _ _)).through (State.fogActions_halt _ _ _)
  case isFalse => exact h1

end Sys2Proof.Machine
end

section
/-!
Where records of the update engines complete (12_update_and_fixer R293, R297, R299).
-/
namespace Sys2Proof.Machine

/-! ### An engine's accesses to a page (R293) -/

section
variable {s : State} {w : PageMap} {ag : Agent}

theorem UeAcc.num_of_vread {a : UeAcc} {t : State} {r : VRes} {va x n : Nat} (herr : a.err = 0)
    (hva : va % 2 ^ 64 = x) (h : a.st.vread ag x n permRead = (t, r)) : a.num ag va n = (⟨t, r.err, r.addr⟩, leNat r.data) := by
  simp only [UeAcc.num, UeAcc.read, herr, ne_eq, not_true_eq_false, if_false, hva, h]

theorem UeAcc.num_of_page {a : UeAcc} {b : State} {i n : Nat} (h : b.Sees a.st w) (herr : a.err = 0) (hag : ag.die = w.die ∧ ag.code = 2)
    (hi : i < 2 ^ 21) (hn : 0 < n) (hblock : i % 64 + n ≤ 64) :
    ∃ t, a.num ag (w.va i) n = (⟨t, 0, w.va i⟩, b.numAt (w.byte i) n) ∧ b.Sees t w := by
  obtain ⟨-, hread, -, hp, -⟩ := State.pageAt_iff.1 h.paged.page
  have htu : a.st.tuOf ag (w.va i) = w.die := by simp [State.tuOf, hag]
  obtain ⟨t, ht, hsees⟩ := h.paged.vread htu hi hn hblock hread
  refine ⟨t, ?_, h.through hsees⟩
  have hva : w.va i % 2 ^ 64 = w.va i := Nat.mod_eq_of_lt (Nat.lt_trans (PageMap.va_lt hp hi) (by decide))
  rw [UeAcc.num_of_vread herr hva ht, h.bytesAt, State.numAt]

theorem UeAcc.record_of_num {a a1 a2 : UeAcc} {list k nset r : Nat} (h1 : a.num ag (list + 4) 4 = (a1, nset))
    (h2 : a1.num ag (list + 64 + 32 * nset + 64 * k) 64 = (a2, r)) : a.record ag list k = (a2, r) := by
  simp only [UeAcc.record, h1, h2]

/-- A record of a list that stands in the page and has no hyperparameter sets. -/
theorem UeAcc.record_of_page {i k : Nat} (h : s.Paged w) (hag : ag.die = w.die ∧ ag.code = 2) (halign : i % 64 = 0)
    (hroom : i + 128 + 64 * k ≤ 2 ^ 21) (hsets : s.numAt (w.byte (i + 4)) 4 = 0) :
    ∃ t, UeAcc.record ⟨s, 0, 0⟩ ag (w.va i) k = (⟨t, 0, w.va (i + 64 + 64 * k)⟩, s.numAt (w.byte (i + 64 + 64 * k)) 64) ∧ s.Sees t w := by
  obtain ⟨t1, h1, hs1⟩ := UeAcc.num_of_page (a := ⟨s, 0, 0⟩) (i := i + 4) (n := 4) (.of_paged h) rfl hag (by omega) (by decide) (by omega)
  obtain ⟨t2, h2, hs2⟩ := UeAcc.num_of_page (a := ⟨t1, 0, w.va (i + 4)⟩) (i := i + 64 + 64 * k) (n := 64) hs1 rfl hag (by omega) (by decide)
    (by omega)
  refine ⟨t2, ?_, hs2⟩
  have hva1 : w.va i + 4 = w.va (i + 4) := by simp only [PageMap.va]; omega
  have hva2 : w.va i + 64 + 32 * 0 + 64 * k = w.va (i + 64 + 64 * k) := by simp only [PageMap.va]; omega
  exact UeAcc.record_of_num (by rw [hva1, h1, hsets]) (by rw [hva2, h2])

end

/-- A list's base below the upper half of the addresses. -/
theorem State.ueList_eq {s : State} {die a : Nat} (h : s.rd (ueU die) Reg.UE_LIST_LO_ADDR + 2 ^ 32 * s.rd (ueU die) Reg.UE_LIST_HI_ADDR = a)
    (ha : a < 2 ^ 56) : s.ueList die = a := by
  rw [State.ueList, h, va57_of_lt ha]

/-- Whether a layer's sums are delivered follows from the reductions and the job. -/
theorem State.redDelivered_congr {s t : State} (hred : t.red = s.red) (hjob : t.job = s.job) (layer : Nat) :
    t.redDelivered layer = s.redDelivered layer := by
  simp only [State.redDelivered, State.redEnt, State.redStarted, State.redLayer, hred, hjob]

theorem State.ue_setUe (s : State) (die : Nat) (u : UeSt) : (s.setUe die u).ue die = u := mget_mset_same _ _ _ _

/-! ### A record's start (R293) -/

theorem updateRecordStart_yields (s : State) (die p e home q i n : Nat) (hdie : die < 24) (hn : n < 2 ^ 16)
    (hpage : s.pageAt die p e home q = true) (hecc : s.ecc = []) (hnet : s.net = []) (halign : i % 64 = 0)
    (hroom : i + 128 + 64 * n ≤ 2 ^ 21)
    (hlist : s.rd (ueU die) Reg.UE_LIST_LO_ADDR + 2 ^ 32 * s.rd (ueU die) Reg.UE_LIST_HI_ADDR = p * 2 ^ 21 + i)
    (hrun : s.running = true) (hstopped : (s.ue die).stopped = false) (hbusy : (s.ue die).busy = false)
    (hnext : (s.ue die).next = n) (hrecs : n < (s.ue die).recs) (hsets : s.numAt (pageByte home q (i + 4)) 4 = 0)
    (hsums : s.redDelivered (urLayer (s.numAt (pageByte home q (i + 64 + 64 * n)) 64)) = true) :
    Yields (.updateRecordStart die []) s (fun t => (t.ue die).busy = true ∧ (t.ue die).next = n ∧
      t.rd (ueU die) Reg.UE_STAT_BUSY = 1 ∧ t.rd (ueU die) Reg.UE_STAT_REC = n ∧ SameMemBut 0 0 s t) := by
  let w : PageMap := ⟨die, p, e, home, q⟩
  have hpaged : s.Paged w := ⟨hpage, hecc, hnet⟩
  have hbase : s.ueList die = w.va i := State.ueList_eq hlist (PageMap.va_lt (w := w) hpaged.p_lt (by omega))
  obtain ⟨t, hrec, hsees⟩ := UeAcc.record_of_page (ag := s.ueAgent die) (k := n) hpaged ⟨rfl, rfl⟩ halign hroom hsets
  have hdelivered : t.redDelivered (urLayer (s.numAt (w.byte (i + 64 + 64 * n)) 64)) = true :=
    (State.redDelivered_congr (hsees.frame .red (by decide)) (hsees.frame .job (by decide)) _).trans hsums
  have hexec : exec (.updateRecordStart die []) s =
      done (((t.setUe die { s.ue die with busy := true }).wr (ueU die) Reg.UE_STAT_BUSY 1).wr (ueU die) Reg.UE_STAT_REC n) := by
    change execUpdateRecordStart die [] s = _
    simp only [execUpdateRecordStart, State.upset_nil, hnext, hbase, hrec]
    rw [if_pos (by simp [State.ueMay, hrun, hdie, hstopped, hbusy, hnext, hrecs]), if_pos (by simp [hdelivered])]
  refine .of_done hexec ⟨?_, ?_, ?_, ?_, ?_⟩
  · exact congrArg UeSt.busy (State.ue_setUe t die _)
  · exact (congrArg UeSt.next (State.ue_setUe t die _)).trans hnext
  · exact (State.rd_wr_other _ _ _ _ _ _ (fieldKey_ne_of_place _ (by decide))).trans (State.rd_wr_same _ _ _ _)
  · exact (State.rd_wr_same _ _ _ _).trans (Nat.mod_eq_of_lt hn)
  · exact SameMemBut.canon.2 fun a _ => hsees.get a

/-! ### A record's completion (R293, R297) -/

theorem State.addEvents_none (s : State) (u layer : Nat) : s.addEvents u layer Events.none = s := by
  simp [State.addEvents, Events.none, State.ltAdd_zero]

/-- A record without events counts its elements alone. -/
theorem UeRun.counted_of_none {u : UeRun} (h : u.ev = Events.none) (die layer : Nat) :
    SameBut [.regs] u.acc.st (u.counted die layer) ∧ (u.counted die layer).rd (ueU die) Reg.UE_ELEMS_COUNT =
      Nat.min (u.acc.st.rd (ueU die) Reg.UE_ELEMS_COUNT + u.count) (2 ^ 32 - 1) := by
  unfold UeRun.counted
  rw [h, State.addEvents_none]
  refine ⟨by simp, ?_⟩
  rw [State.rd_bump_same]
  have hother (t : State) {g : Field} (m : Nat) (hg : g.off < 2 ^ 24 ∧ g.lo < 32 ∧ g.off ≠ Reg.UE_ELEMS_COUNT.off) :
      (t.bump (ueU die) g m).rd (ueU die) Reg.UE_ELEMS_COUNT = t.rd (ueU die) Reg.UE_ELEMS_COUNT :=
    State.rd_bump_other _ _ _ _ _ _ (fieldKey_ne_of_place _ ⟨by decide, hg.1, by decide, hg.2.1, .inl hg.2.2.symm⟩)
  rw [hother _ _ (by decide), hother _ _ (by decide)]
  rfl

theorem updateRecordDone_yields (s : State) (die : Nat) (_ : die < 24) (hmay : s.ueMay die = true) (hbusy : (s.ue die).busy = true)
    (herr : (s.ueRun die).1.acc.err = 0) (hev : (s.ueRun die).1.ev = Events.none) :
    Yields (.updateRecordDone die []) s (fun t => (t.ue die).busy = false ∧ (t.ue die).next = (s.ue die).next + 1 ∧
      t.rd (ueU die) Reg.UE_STAT_BUSY = 0 ∧ t.rd (ueU die) Reg.UE_ELEMS_COUNT =
        Nat.min ((s.ueRun die).1.acc.st.rd (ueU die) Reg.UE_ELEMS_COUNT + (s.ueRun die).1.count) (2 ^ 32 - 1) ∧
      (∀ a, Memory.get t.mem a = Memory.get (s.ueRun die).1.acc.st.mem a)) := by
  generalize hu : s.ueRun die = run at herr hev ⊢
  obtain ⟨u, r⟩ := run
  obtain ⟨hframe, helems⟩ := u.counted_of_none hev die (urLayer r)
  have hexec : exec (.updateRecordDone die []) s = done ((State.setUe (u.counted die (urLayer r)) die
      { s.ue die with
        busy := false, next := (s.ue die).next + 1, sums := mset (0, 0, 0) (s.ue die).sums (urLayer r) u.sums }).wr
      (ueU die) Reg.UE_STAT_BUSY 0) := by
    change execUpdateRecordDone die [] s = _
    simp only [execUpdateRecordDone, State.upset_nil, hu]
    rw [if_pos (by simp [hmay, hbusy]), if_pos herr]
  refine .of_done hexec ?_
  simp only [State.canon_rd, State.canon_get]
  refine ⟨?_, ?_, State.rd_wr_same _ _ _ _, ?_, ?_⟩
  · exact congrArg UeSt.busy (State.ue_setUe _ die _)
  · exact congrArg UeSt.next (State.ue_setUe _ die _)
  · exact (State.rd_wr_other _ _ _ _ _ _ (fieldKey_ne_of_place _ (by decide))).trans helems
  · exact fun a => hframe .mem (by decide) a

/-! ### An engine that a fault stops (R299, 18_faults_and_relief R433) -/

/-- The engine of a die is stopped. -/
def State.UeStopped (s : State) (die : Nat) : Prop := (mget s.ues die {}).stopped = true

theorem SameBut.ueStopped {l : List Part} {s t : State} {die : Nat} (h : SameBut l s t) (hl : .ues ∉ l) (hs : s.UeStopped die) :
    t.UeStopped die := by
  have hues : t.ues = s.ues := h .ues hl
  rwa [State.UeStopped, hues]

/-- An engine as the stop of the engines leaves it. -/
def UeSt.halted (u : UeSt) : UeSt := { u with busy := false, stopped := true }

theorem stopped_of_map (l : SMap UeSt) (die : Nat) (h : (mget l die {}).stopped = true) :
    (mget (l.map fun e : Nat × UeSt => (e.1, e.2.halted)) die {}).stopped = true := by
  induction l with
  | nil => exact h
  | cons e l ih =>
    simp only [mget, List.map_cons] at h ⊢
    split
    case isTrue => rfl
    case isFalse hne => exact ih (by rwa [if_neg hne] at h)

theorem State.UeStopped.stopUpdates {s : State} {die : Nat} (h : s.UeStopped die) : s.stopUpdates.UeStopped die := by
  unfold State.stopUpdates
  extract_lets red s1 s2
  have h1 : s1.UeStopped die := stopped_of_map s.ues die h
  have h2 : SameBut [.regs] s1 s2 := .forEach _ _ (fun t die => t.wr_frame _ _ _) s1
  refine SameBut.ueStopped (l := [.regs]) (.forEach _ _ (fun t n => ?_) s2) (by decide) (h2.ueStopped (by decide) h1)
  simp

theorem State.UeStopped.stopEngines {s : State} {die : Nat} (h : s.UeStopped die) (code : Nat) : (s.stopEngines code).UeStopped die := by
  have hupdates := (s.stopApps_frame.ueStopped (by decide) h).stopUpdates
  have hstages := (State.emptyStages_frame _).ueStopped (by decide) hupdates
  have hdrain := (State.abortDrain_frame _ code).ueStopped (by decide) ((State.stopStreams_frame _).ueStopped (by decide) hstages)
  unfold State.stopEngines
  generalize State.abortDrain _ code = drained at hdrain ⊢
  exact (State.wr_frame _ _ _ _).ueStopped (by decide) hdrain

theorem State.UeStopped.fogActions {s : State} {die : Nat} (h : s.UeStopped die) (f : Fog) (unit : Nat) :
    (s.fogActions f unit).UeStopped die := by
  unfold State.fogActions
  extract_lets halts links rcv log s1 s2 job stopped s3
  have hstopped : stopped.UeStopped die := h
  have h3 : s3.UeStopped die := by
    unfold s3
    split
    case isTrue => 
      have hcores := stopped.stopCores_frame.ueStopped (by decide) hstopped
      exact (State.wr_frame _ _ _ _).ueStopped (by decide) (hcores.stopEngines f.code)
    case isFalse => exact hstopped
  split
  case isTrue => exact (State.notice_frame _ _ _ _ _ _ _).ueStopped (by decide) h3
  case isFalse => exact h3

theorem State.UeStopped.logFault {s : State} {die : Nat} (h : s.UeStopped die) (code cls u suspect port d0 d1 d2 d3 : Nat) :
    (s.logFault code cls u suspect port d0 d1 d2 d3).UeStopped die := by
  unfold State.logFault
  extract_lets raise s1 f log s2
  have h1 : s1.UeStopped die := (State.pushEntry_frame _ _).ueStopped (by decide) h
  have h2 : s2.UeStopped die := h1
  split
  case isTrue =>
    have hflood := (State.flood_frame s2 f 12).ueStopped (by decide) h2
    exact ((State.noteFog_frame _ f).ueStopped (by decide) hflood).fogActions f _
  case isFalse => exact h1

/-! ### A page that may not be read (R299; 08_bonded_dram R193, R194) -/

/-- A read in a page whose newest leaf does not allow it is faulted. -/
theorem State.vread_of_denied {s : State} {ag : Agent} {p i n e : Nat} {rest : List (Nat × Nat)} (hp : p < 2 ^ 35) (hi : i < 2 ^ 21)
    (hn : 0 < n) (hblock : i % 64 + n ≤ 64) (hag : ag.code = 2) (hleaf : (mget s.tus ag.die {}).small = (p, e) :: rest)
    (hdeny : entryAllows e permRead = false) :
    ∃ t, s.vread ag (p * 2 ^ 21 + i) n permRead = (t, ⟨ePROT, p * 2 ^ 21 + i, [], none⟩) := by
  have htus : (s.stackUp ag.die).tus = s.tus := s.stackUp_frame ag.die .tus (by decide)
  have hkey : (p * 2 ^ 21 + i) % 2 ^ 57 / 2 ^ 21 = p := by omega
  have hmod : (p * 2 ^ 21 + i) % 64 + n ≤ 64 := by omega
  have htu : s.tuOf ag (p * 2 ^ 21 + i) = ag.die := by simp [State.tuOf, hag]
  have htr : ∃ t, s.translate ag.die ag.code (p * 2 ^ 21 + i) permRead = (t, ePROT, 0) := by
    simp only [State.translate, canonical_of_page hp hi, State.leafOf, htus, hkey, hleaf, List.find?_cons, beq_self_eq_true, hdeny]
    exact ⟨_, rfl⟩
  obtain ⟨t, ht⟩ := htr
  refine ⟨t, ?_⟩
  simp only [State.vread, blocks64_of_block hn hmod, List.foldl_cons, List.foldl_nil, htu, ht]
  rfl

theorem UeAcc.num_of_err {a : UeAcc} {ag : Agent} {va n : Nat} (h : a.err ≠ 0) : a.num ag va n = (a, leNat []) := by
  simp only [UeAcc.num, UeAcc.read, if_pos h]

/-- A record of a list in such a page is faulted at its first access. -/
theorem UeAcc.record_of_denied {s : State} {ag : Agent} {p i e k : Nat} {rest : List (Nat × Nat)} (hp : p < 2 ^ 35)
    (halign : i % 64 = 0) (hi : i + 64 ≤ 2 ^ 21) (hag : ag.code = 2) (hleaf : (mget s.tus ag.die {}).small = (p, e) :: rest)
    (hdeny : entryAllows e permRead = false) :
    ∃ t r, UeAcc.record ⟨s, 0, 0⟩ ag (p * 2 ^ 21 + i) k = (⟨t, ePROT, p * 2 ^ 21 + (i + 4)⟩, r) := by
  obtain ⟨t, ht⟩ := State.vread_of_denied (s := s) (i := i + 4) (n := 4) hp (by omega) (by decide) (by omega) hag hleaf hdeny
  have hva : (p * 2 ^ 21 + i + 4) % 2 ^ 64 = p * 2 ^ 21 + (i + 4) := by omega
  have hsets : UeAcc.num ⟨s, 0, 0⟩ ag (p * 2 ^ 21 + i + 4) 4 = (⟨t, ePROT, p * 2 ^ 21 + (i + 4)⟩, leNat []) :=
    UeAcc.num_of_vread (a := ⟨s, 0, 0⟩) rfl hva ht
  exact ⟨t, leNat [], UeAcc.record_of_num hsets (UeAcc.num_of_err (show ePROT ≠ 0 by decide))⟩

/-- The fault's entry of an engine: stopped, idle and shown faulted, before the halt is logged. -/
def State.ueFaulted (s : State) (die : Nat) (e : UeSt) : State :=
  ((s.setUe die { e with busy := false, stopped := true }).wr (ueU die) Reg.UE_STAT_BUSY 0).wr (ueU die) Reg.UE_STAT_FAULTED 1

theorem updateFault_yields (s : State) (die p i e : Nat) (rest : List (Nat × Nat)) (hdie : die < 24) (hp : p < 2 ^ 35)
    (halign : i % 64 = 0) (hi : i + 64 ≤ 2 ^ 21) (hmay : s.ueMay die = true) (hbusy : (s.ue die).busy = false)
    (hlist : s.rd (ueU die) Reg.UE_LIST_LO_ADDR + 2 ^ 32 * s.rd (ueU die) Reg.UE_LIST_HI_ADDR = p * 2 ^ 21 + i)
    (hleaf : (mget s.tus die {}).small = (p, e) :: rest) (hdeny : entryAllows e permRead = false) :
    Yields (.updateFault die []) s (fun t => (t.ue die).stopped = true ∧ t.rd (ueU die) Reg.UE_STAT_FAULTED = 1 ∧
      t.rd (ueU die) Reg.UE_STAT_BUSY = 0) := by
  have hbase : s.ueList die = p * 2 ^ 21 + i := State.ueList_eq hlist (by omega)
  obtain ⟨t, r, hrec⟩ := UeAcc.record_of_denied (s := s) (ag := s.ueAgent die) (k := (s.ue die).next) hp halign hi rfl hleaf hdeny
  have hexec : ∃ a d0 d1 d2 d3, exec (.updateFault die []) s = done ((t.ueFaulted die (s.ue die)).logHalt a (ueU die) d0 d1 d2 d3) := by
    exact ⟨ePROT, _, _, _, _, by
      change execUpdateFault die [] s = _
      simp only [execUpdateFault, State.upset_nil, hbase, hrec, hmay, hbusy, if_true, Bool.false_eq_true, if_false]
      rfl⟩
  obtain ⟨code, d0, d1, d2, d3, hexec⟩ := hexec
  have hregs : Wrote haltWrites (t.ueFaulted die (s.ue die)) ((t.ueFaulted die (s.ue die)).logHalt code (ueU die) d0 d1 d2 d3) :=
    State.logFault_halt _ _ _ _ _ _ _ _ _ _
  refine .of_done hexec ⟨?_, ?_, ?_⟩
  · have hset : (t.ueFaulted die (s.ue die)).UeStopped die := congrArg UeSt.stopped (State.ue_setUe t die _)
    exact hset.logFault _ _ _ _ _ _ _ _ _
  · exact (hregs.rd_faulted hdie).trans (State.rd_wr_same _ _ _ _)
  · exact hregs.rd_busy hdie ((State.rd_wr_other _ _ _ _ _ _ (fieldKey_ne_of_place _ (by decide))).trans (State.rd_wr_same _ _ _ _))

/-- Settles O11, clause by clause: a record that starts, one that completes, and a list that may not be read. -/
theorem updateRecordsComplete : Obligations.UpdateRecordsComplete := by
  unfold Obligations.UpdateRecordsComplete
  exact ⟨updateRecordStart_yields, updateRecordDone_yields, updateFault_yields⟩

end Sys2Proof.Machine
end

section
/-!
Where a RESTORE from a host ring ends whose count pair names nothing (08_bonded_dram R191; 19_keeper_minil R467, R469).
-/
namespace Sys2Proof.Machine

/-! ### The end of a long command (19_keeper_minil R458) -/

theorem State.awake_of_active {s : State} (h : s.rd keeperU Reg.PWR_STAT_PSTATE = 0) : s.awake = s := if_pos h

theorem State.long_end {s : State} {code : Nat} {m : Minil} {take finish : State → Minil → State} (hrun : s.kpr.run = some m)
    (hcode : m.cmd = code) (hactive : s.rd keeperU Reg.PWR_STAT_PSTATE = 0) : s.long code true take finish = finish s m := by
  simp only [State.long, if_true, hrun, hcode, ne_eq, not_true_eq_false, if_false, State.awake_of_active hactive]

/-! ### Bytes that the keeper writes at another module (08_bonded_dram R191) -/

theorem State.ownTa_of_elsewhere {s : State} {ta : Nat} (h : s.elsewhere ta = true) : s.ownTa ta = ta := by
  simp only [State.elsewhere, Bool.and_eq_true, bne_iff_ne] at h
  simp [State.ownTa, h.1.2]

/-- A run of bytes within one aligned block is one access. -/
theorem blocks64_of_fits {va n : Nat} (hn : 0 < n) (hfits : n ≤ 64 - va % 64) : blocks64 (n + 1) va n = [(va, n)] := by
  obtain ⟨k, rfl⟩ : ∃ k, n = k + 1 := ⟨n - 1, by omega⟩
  have hmin : Nat.min (k + 1) (64 - va % 64) = k + 1 := Nat.min_eq_left hfits
  simp only [blocks64, hmin, Nat.succ_ne_zero, if_false, Nat.sub_self, if_true]

/-- A write at another module to an address that names nothing goes out and is answered with XLATE_FAULT. -/
theorem State.access_unnamed {s : State} {ta : Nat} (src : Nat) (bs : List Byte) (n : Nat) (h : s.elsewhere ta = true)
    (hnone : taNames ta = false) : s.access src ta (some bs) n = (s.emit (.write src ta bs), .bad eXLATE) := by
  obtain ⟨⟨hmod, -⟩, h63⟩ : (taModule ta ≠ s.job.modId ∧ s.job.modId ≠ 0x7FFF) ∧ bitAt ta 63 = false := by
    simpa [State.elsewhere] using h
  unfold State.access
  rw [if_neg (by simp [hmod, h63])]
  simp only [hnone, Bool.false_eq_true, if_false]

theorem State.putTarget_unnamed {s : State} {ta : Nat} {bs : List Byte} (hlen : 0 < bs.length) (hfits : bs.length ≤ 64 - ta % 64)
    (h : s.elsewhere ta = true) (hnone : taNames ta = false) :
    s.putTarget ta bs = (s.emit (.write (s.unitAddr keeperU) ta bs), eXLATE) := by
  simp only [State.putTarget, State.ownTa_of_elsewhere h, blocks64_of_fits hlen hfits, List.foldl_cons, List.foldl_nil, ne_eq,
    not_true_eq_false, if_false, Nat.sub_self, slice_self, State.access_unnamed _ _ _ h hnone]
  rfl

/-! ### The restore (19_keeper_minil R467, R469) -/

/-- A restore from a host ring writes CONS before it checks the checkpoint, and stops where that write meets an error. -/
theorem State.restore_stopped {s : State} {r : Nat → State} {pl : List Byte} {code : Nat} (ck : List Byte)
    (hring : leAt pl 8 1 = 1) (hok : ringOk (leAt pl 0x10 8) (leAt pl 0x18 8) (leAt pl 0x20 8) = true) (hcode : code ≠ 0)
    (hcons : ∀ n, s.putTarget (leAt pl 0x20 8 + 8) (leBytes 8 n) = (r n, code)) : ∃ n, s.restore pl ck = (r n, code) :=
  let need := 64 + 64 * s.job.nlayer + 528 + s.stateSize (leAt (slice ck 0 64) 0x20 4 % 2)
  ⟨ceilDiv need 4096, by simp [need, State.restore, hring, hok, hcons, hcode]⟩

/-- The end of a RESTORE whose CONS lies at an address that names nothing: only that write, and the status XLATE_FAULT. -/
theorem exec_restore_of_unnamed {s : State} {m : Minil} (ck : List Byte) (hrun : s.kpr.run = some m) (hcode : m.cmd = cmdRESTORE)
    (hactive : s.rd keeperU Reg.PWR_STAT_PSTATE = 0) (hring : leAt m.payload 8 1 = 1)
    (hok : ringOk (leAt m.payload 0x10 8) (leAt m.payload 0x18 8) (leAt m.payload 0x20 8) = true)
    (haway : s.elsewhere (leAt m.payload 0x20 8 + 8) = true) (hnone : taNames (leAt m.payload 0x20 8 + 8) = false) :
    ∃ w, exec (.restore true ck) s = done ((s.emit w).endLong eXLATE) := by
  have halign : leAt m.payload 0x20 8 % 16 = 0 := by
    simp only [ringOk, Bool.and_eq_true, beq_iff_eq] at hok
    obtain ⟨⟨⟨-, halign⟩, -⟩, -⟩ := hok
    exact halign
  have hcons (n : Nat) := State.putTarget_unnamed (s := s) (bs := leBytes 8 n) (by simp) (by rw [leBytes_length]; omega) haway hnone
  obtain ⟨n, hstop⟩ := State.restore_stopped ck hring hok (by decide) hcons
  refine ⟨.write (s.unitAddr keeperU) (leAt m.payload 0x20 8 + 8) (leBytes 8 n), ?_⟩
  change done (s.long cmdRESTORE true _ _) = _
  rw [State.long_end hrun hcode hactive, hstop]

/-! ### A host ring whose count pair names nothing -/

/-- A RESTORE of step 12 of module 3 from a host ring of module 6 whose CTRL has a reserved bit set: bit 34 of R190. -/
def restoreFromUnnamedRing : Minil :=
  { cmd := cmdRESTORE, seq := 3, status := 0, sender := 77 * 65536 + portU 0, reply := false, rch := 9, prov := true,
    payload := leBytes 8 12 ++ leBytes 4 1 ++ leBytes 4 3 ++ leBytes 8 (6 * 2 ^ 48 + 32 * 2 ^ 42 + 2 ^ 41) ++ leBytes 8 4 ++
      leBytes 8 (6 * 2 ^ 48 + 32 * 2 ^ 42 + 2 ^ 41 + 2 ^ 34) }

/-- Module 5 with that RESTORE running. -/
def unnamedRingRestoring : State := { job := { modId := 5 }, kpr := { run := some restoreFromUnnamedRing } }

/-- A checkpoint of step 12 of module 3 without layers or blocks: its header (12_update_and_fixer Table 12-4), and 528 zeros. -/
def emptyCheckpoint : List Byte :=
  leBytes 64 0x9930fc112e7a33f600000210000000000000000000000000000000000000000100000000000000050000000000000004000000000000000c000301004b435856 ++
    List.replicate 528 0

theorem foldl_replicate_add {α β : Type} (f : β → α → β) (b : β) (a : α) (m n : Nat) :
    (List.replicate (m + n) a).foldl f b = (List.replicate n a).foldl f ((List.replicate m a).foldl f b) := by
  rw [List.replicate_add, List.foldl_append]

/-- The CRC-32 of 528 zeros, evaluated in four parts. -/
theorem crc32_zeros : crc32 (List.replicate 528 0) = 0x2e7a33f6 := by
  have h1 : (List.replicate 132 (0 : Byte)).foldl crcByte max32 = 980843233 := by decide +kernel
  have h2 : (List.replicate 132 (0 : Byte)).foldl crcByte 980843233 = 4120853599 := by decide +kernel
  have h3 : (List.replicate 132 (0 : Byte)).foldl crcByte 4120853599 = 1247406387 := by decide +kernel
  have h4 : (List.replicate 132 (0 : Byte)).foldl crcByte 1247406387 = 3515206665 := by decide +kernel
  rw [crc32, show 528 = 132 + 132 + 132 + 132 from rfl, foldl_replicate_add, foldl_replicate_add, foldl_replicate_add, h1, h2, h3, h4]
  decide

theorem emptyCheckpoint_length : emptyCheckpoint.length = 592 := by
  rw [emptyCheckpoint, List.length_append, leBytes_length, List.length_replicate]

theorem emptyCheckpoint_ok : unnamedRingRestoring.ckOk emptyCheckpoint 592 12 3 = true := by
  have hbody : emptyCheckpoint.drop 64 = List.replicate 528 0 := List.drop_left' (leBytes_length _ _)
  rw [State.ckOk, hbody, crc32_zeros, emptyCheckpoint_length]
  decide +kernel

/-- Refutes O31: a RESTORE from a host ring whose CTRL has a reserved bit set passes the checks of R469 that the model makes,
but names nothing (R191), so that the write of CONS ends with XLATE_FAULT and nothing is brought back. -/
theorem not_keeperJobCommandsComplete : ¬ Obligations.KeeperJobCommandsComplete := by
  unfold Obligations.KeeperJobCommandsComplete
  intro h
  obtain ⟨-, -, -, -, -, -, -, -, hrestore⟩ := h
  obtain ⟨t, ht, hjob, -⟩ := hrestore unnamedRingRestoring restoreFromUnnamedRing emptyCheckpoint rfl (by decide) rfl (by decide)
    (by decide) (by decide) (by decide) rfl rfl rfl emptyCheckpoint_length emptyCheckpoint_ok
  obtain ⟨w, hexec⟩ := exec_restore_of_unnamed emptyCheckpoint (s := unnamedRingRestoring) (m := restoreFromUnnamedRing) rfl rfl
    (by decide) (by decide) (by decide) (by decide) (by decide)
  have hkept : t.job = unnamedRingRestoring.job :=
    ((unnamedRingRestoring.emit w).endLong_frame eXLATE []).of_done (hexec.symm.trans ht) .job (by decide)
  have hrestored : t.job.restored = true := by rw [hjob]
  rw [hkept] at hrestored
  exact absurd hrestored (by decide)

end Sys2Proof.Machine
end

section
/-!
Messages, beacons, fog signals and flag words read from their bytes as they were written (13_gradient_reduction R322;
16_hormen_fabric R385; 18_faults_and_relief R431; 19_keeper_minil R453).
-/
namespace Sys2Proof.Machine

/-! ### Fields packed into a number (00_scope R10) -/

/-- The low byte of a number written in two bytes. -/
theorem leNat_slice_low_byte (v : Nat) : leNat (slice (leBytes 2 v) 0 1) = v % 2 ^ 8 := by
  simp [slice, leBytes, leNat]

/-- The control word of a Minil message holds its three fields (Table 19-2). -/
theorem control_word_fields (reply prov : Bool) {rch : Nat} (h : rch < 32) :
    let c := (b2n reply + 2 * (rch % 32) + 64 * b2n prov) % 2 ^ 32
    bitAt c 0 = reply ∧ bitsOf c 5 1 = rch ∧ bitAt c 6 = prov := by
  have hreply : b2n reply ≤ 1 := by cases reply <;> decide
  have hprov : b2n prov ≤ 1 := by cases prov <;> decide
  have hbit (v i : Nat) (b : Bool) (hv : v / 2 ^ i % 2 = b2n b) : bitAt v i = b := by
    rw [bitAt, hv]
    cases b <;> rfl
  refine ⟨hbit _ _ _ ?_, ?_, hbit _ _ _ ?_⟩
  · omega
  · simp only [bitsOf]
    omega
  · omega

/-- The first half-word of a beacon holds the module id and KOK (16_hormen_fabric R385). -/
theorem beacon_half_word_fields (kok : Bool) {modId : Nat} (h : modId < 2 ^ 15) :
    let c := (modId % 2 ^ 15 + 2 ^ 15 * b2n kok) % 2 ^ 16
    c % 2 ^ 15 = modId ∧ bitAt c 15 = kok := by
  cases kok <;> simp only [bitAt, b2n, Bool.false_eq_true, if_false, if_true, beq_eq_false_iff_ne, beq_iff_eq] <;> omega

/-! ### The four encodings -/

theorem Minil.ofBytes_bytes {m : Minil} (hcmd : m.cmd < 2 ^ 16) (hseq : m.seq < 2 ^ 16) (hstatus : m.status < 2 ^ 16)
    (hsender : m.sender < 2 ^ 32) (hrch : m.rch < 32) (hlen : m.payload.length < 2 ^ 16) : Minil.ofBytes m.bytes = m := by
  obtain ⟨hreply, hchan, hprov⟩ := control_word_fields m.reply m.prov hrch
  have hcontrol : leAt m.bytes 12 4 = (b2n m.reply + 2 * (m.rch % 32) + 64 * b2n m.prov) % 2 ^ 32 := by
    simp [Minil.bytes, leAt, slice_append_left, slice_append_right, leNat_slice_leBytes]
  have hwords : leAt m.bytes 0 2 = m.cmd ∧ leAt m.bytes 2 2 = m.seq ∧ leAt m.bytes 4 2 = m.payload.length ∧
      leAt m.bytes 6 2 = m.status ∧ leAt m.bytes 8 4 = m.sender := by
    simp [Minil.bytes, leAt, slice_append_left, slice_append_right, leNat_slice_leBytes]
    omega
  have hpayload : slice m.bytes 16 m.payload.length = m.payload := by
    simp [Minil.bytes, slice_append_right, slice_self]
  obtain ⟨h0, h2, h4, h6, h8⟩ := hwords
  simp only [Minil.ofBytes, hcontrol, h0, h2, h4, h6, h8, hpayload, hreply, hchan, hprov]

theorem Beacon.ofBytes_bytes {b : Beacon} (hmod : b.modId < 2 ^ 15) (hid : b.prov < 2 ^ 15) (hepoch : b.epoch < 2 ^ 32)
    (hsend : b.tSend < 2 ^ 64) (hrx : b.tLastRx < 2 ^ 64) (htx : b.tLastTx < 2 ^ 64) (hoff : b.tsoff < 2 ^ 64) :
    Beacon.ofBytes b.bytes = b := by
  obtain ⟨hmodule, hkok⟩ := beacon_half_word_fields b.kok hmod
  have hhead : leAt b.bytes 0 2 = (b.modId % 2 ^ 15 + 2 ^ 15 * b2n b.kok) % 2 ^ 16 := by
    simp [Beacon.bytes, leAt, slice_append_left, leNat_slice_leBytes]
  have hprov : leAt b.bytes 2 2 % 2 ^ 15 = b.prov := by
    have hword : leAt b.bytes 2 2 = b.prov % 2 ^ 15 % 2 ^ 16 := by
      simp [Beacon.bytes, leAt, slice_append_left, slice_append_right, leNat_slice_leBytes]
    omega
  have hwords : leAt b.bytes 4 4 = b.epoch ∧ leAt b.bytes 8 8 = b.tSend ∧ leAt b.bytes 16 8 = b.tLastRx ∧
      leAt b.bytes 24 8 = b.tLastTx ∧ leAt b.bytes 32 8 = b.tsoff := by
    simp [Beacon.bytes, leAt, slice_append_left, slice_append_right, leNat_slice_leBytes]
    omega
  obtain ⟨h4, h8, h16, h24, h32⟩ := hwords
  simp only [Beacon.ofBytes, hhead, hmodule, hkok, hprov, h4, h8, h16, h24, h32]

theorem Fog.ofBytes_bytes {f : Fog} (horigin : f.origin < 2 ^ 16) (hsuspect : f.suspect < 2 ^ 16) (hcode : f.code < 2 ^ 16)
    (hkind : f.kind < 4) (hport : f.port < 16) (hhops : f.hops < 256) (hepoch : f.epoch < 2 ^ 32) (hseq : f.fseq < 2 ^ 32)
    (hstep : f.step < 2 ^ 64) (htime : f.time < 2 ^ 64) : Fog.ofBytes f.bytes = f := by
  have hplace : leAt f.bytes 6 1 = f.kind + 16 * f.port := by
    have hbyte : leAt f.bytes 6 1 = (f.kind % 4 + 16 * (f.port % 16)) % 2 ^ 8 := by
      simp [Fog.bytes, leAt, slice_append_left, slice_append_right, leNat_slice_leBytes]
    omega
  have hfields : (f.kind + 16 * f.port) % 4 = f.kind ∧ (f.kind + 16 * f.port) / 16 = f.port := by omega
  have hwords : leAt f.bytes 0 2 = f.origin ∧ leAt f.bytes 2 2 = f.suspect ∧ leAt f.bytes 4 2 = f.code ∧
      leAt f.bytes 7 1 = f.hops ∧ leAt f.bytes 8 4 = f.epoch ∧ leAt f.bytes 0x0C 4 = f.fseq ∧ leAt f.bytes 0x10 8 = f.step ∧
      leAt f.bytes 0x18 8 = f.time := by
    simp [Fog.bytes, leAt, slice_append_left, slice_append_right, leNat_slice_leBytes]
    omega
  obtain ⟨h0, h2, h4, h7, h8, h12, h16, h24⟩ := hwords
  simp only [Fog.ofBytes, hplace, hfields, h0, h2, h4, h7, h8, h12, h16, h24]

theorem FlagWord.ofBytes_bytes {w : FlagWord} (hflags : w.flags < 4) (hlayer : w.layer < 2 ^ 16) (hamax : w.ramax < 2 ^ 32)
    (hstep : w.step < 2 ^ 32) (hhops : w.hops < 2 ^ 16) : FlagWord.ofBytes w.bytes = w := by
  have hlow : leAt w.bytes 0 1 % 4 = w.flags := by
    have hbyte : leAt w.bytes 0 1 = w.flags % 4 % 2 ^ 8 := by
      simp [FlagWord.bytes, leAt, slice_append_left, leNat_slice_low_byte]
    omega
  have hwords : leAt w.bytes 2 2 = w.layer ∧ leAt w.bytes 4 4 = w.ramax ∧ leAt w.bytes 8 4 = w.step ∧
      leAt w.bytes 12 2 = w.hops := by
    simp [FlagWord.bytes, leAt, slice_append_left, slice_append_right, leNat_slice_leBytes]
    omega
  obtain ⟨h2, h4, h8, h12⟩ := hwords
  simp only [FlagWord.ofBytes, hlow, h2, h4, h8, h12]

/-- Settles O40: each of the four encodings is read back where its fields fit their widths. -/
theorem messagesReadBack : Obligations.MessagesReadBack := by
  unfold Obligations.MessagesReadBack
  exact ⟨fun _ => Minil.ofBytes_bytes, fun _ => Beacon.ofBytes_bytes, fun _ => Fog.ofBytes_bytes,
    fun _ => FlagWord.ofBytes_bytes⟩

end Sys2Proof.Machine
end

section
/-!
What the commands of the reduction units and their accesses keep of a layer in reduction (13_gradient_reduction R318 to R328).
-/
namespace Sys2Proof.Machine

/-! ### What a layer has taken in, sent and met (13_gradient_reduction R318, R322, R326) -/

/-- A layer without the marks of how far its words and its samples have gone: what it has taken in and sent, its own sums
and flags, and whether it was stopped. -/
def RedLayer.base (l : RedLayer) : RedLayer :=
  { l with wordsDone := [], final := none, upSent := false, upWord := false, down := [], compared := false, stored := none }

/-- The layers in reduction without those marks. -/
def State.redBase (s : State) (layer : Nat) : RedLayer := (s.redLayer layer).base

theorem State.redLayer_setRedLayer (s : State) (layer n : Nat) (l : RedLayer) :
    (s.setRedLayer layer l).redLayer n = if n = layer then l else s.redLayer n := mget_mset _ _ _ _ _

@[simp] theorem State.redLayer_setRedLayer_same (s : State) (layer : Nat) (l : RedLayer) :
    (s.setRedLayer layer l).redLayer layer = l := mget_mset_same _ _ _ _

theorem State.redBase_of_red {s t : State} (h : t.red = s.red) : t.redBase = s.redBase := by
  funext n
  rw [State.redBase, State.redBase, State.redLayer, State.redLayer, h]

theorem SameBut.redBase {l : List Part} {s t : State} (h : SameBut l s t) (hl : .red ∉ l) : t.redBase = s.redBase :=
  State.redBase_of_red (h .red hl)

/-- A layer changed in its marks alone. -/
theorem State.redBase_setRedLayer {s : State} {layer : Nat} {l : RedLayer} (h : l.base = s.redBase layer) :
    (s.setRedLayer layer l).redBase = s.redBase := by
  funext n
  rw [State.redBase, State.redLayer_setRedLayer]
  split
  case isTrue hn => rw [hn, h]
  case isFalse => rfl

section
variable {s t : State} (h : t.redBase = s.redBase) (layer : Nat)
include h

theorem State.sent_of_redBase : (t.redLayer layer).sent = (s.redLayer layer).sent := (congrArg RedLayer.sent (congrFun h layer) :)
theorem State.wordIn_of_redBase : (t.redLayer layer).wordIn = (s.redLayer layer).wordIn :=
  (congrArg RedLayer.wordIn (congrFun h layer) :)
theorem State.samples_of_redBase : (t.redLayer layer).samples = (s.redLayer layer).samples :=
  (congrArg RedLayer.samples (congrFun h layer) :)
theorem State.childTot_of_redBase : (t.redLayer layer).childTot = (s.redLayer layer).childTot :=
  (congrArg RedLayer.childTot (congrFun h layer) :)
theorem State.childWord_of_redBase : (t.redLayer layer).childWord = (s.redLayer layer).childWord :=
  (congrArg RedLayer.childWord (congrFun h layer) :)

end

/-! ### Flag words (R322, R323) -/

theorem State.redWord_redBase (s : State) (e : RedEnt) (p layer r : Nat) : (s.redWord e p layer r).redBase = s.redBase := by
  unfold State.redWord
  extract_lets l o mine w l1 s1 lane
  split
  case isTrue =>
    have hkept : s1.redBase = s.redBase := State.redBase_setRedLayer rfl
    split
    case isTrue => exact hkept
    case isFalse => exact ((State.redMismatch_frame _ _ _ _ _ _ _).redBase (by decide)).trans hkept
  case isFalse => exact State.redBase_setRedLayer (s := s) rfl

theorem State.redWords_redBase (s : State) (layer : Nat) : (s.redWords layer).redBase = s.redBase := by
  unfold State.redWords
  split
  case h_1 => rfl
  case h_2 e p _ =>
    refine ((State.redStat_frame _).redBase (by decide)).trans (forEach_keeps State.redBase (fun t r _ => ?_) s)
    simp only []
    split
    case isTrue => exact t.redWord_redBase e p layer r
    case isFalse => rfl

theorem State.rdReady_redBase (s : State) (layer step : Nat) : (s.rdReady layer step).redBase = s.redBase := by
  have hextra (t : State) (code u d0 d1 : Nat) : ((t.bump u Reg.RD_EXTRA_COUNT 1).logEvent code u d0 d1).redBase = t.redBase :=
    SameBut.redBase (l := [.regs, .sb, .log]) (by simp) (by decide)
  unfold State.rdReady
  simp only []
  split
  case h_1 => exact hextra _ _ _ _ _
  case h_2 =>
    split
    case isTrue => exact hextra _ _ _ _ _
    case isFalse =>
      split
      case isTrue => rfl
      case isFalse => exact State.redWords_redBase _ layer

/-! ### Accesses (01_module_dies_clocks R30; 08_bonded_dram R191)

An access may reach L0 with a ready word, which starts a layer. It changes no other part of a reduction. -/

/-- The parts other than the reductions' that an access may change. -/
def quietParts : List Part :=
  [.regs, .mem, .ecc, .net, .cores, .arbs, .tus, .ports, .apps, .stqs, .arrivals, .sb, .pwr, .log, .fix, .scrubQ]

theorem SameBut.redBase_of_quiet {s t : State} (h : SameBut quietParts s t) : t.redBase = s.redBase := h.redBase (by decide)

theorem State.epDoor_redBase {s : State} {src u off : Nat} {bs : List Byte} {r : State × Ans} (h : s.epDoor src u off bs = some r) :
    r.1.redBase = s.redBase := by
  unfold State.epDoor at h
  simp only [] at h
  split at h
  case isTrue =>
    split at h <;> cases h
    · exact SameBut.redBase_of_quiet (by simp [quietParts])
    · rfl
  split at h
  case isTrue =>
    cases h
    refine SameBut.redBase_of_quiet ?_
    simp only []
    split <;> simp [quietParts]
  split at h
  case isTrue =>
    split at h
    case isTrue =>
      cases h
      split
      · exact s.rdReady_redBase _ _
      · rfl
    case isFalse => split at h <;> cases h; rfl
  case isFalse => cases h

theorem State.epWrite_redBase (s : State) (src u off : Nat) (bs : List Byte) : (s.epWrite src u off bs).1.redBase = s.redBase := by
  have quiet {r : State × Ans} (h : SameBut quietParts s r.1) : r.1.redBase = s.redBase := h.redBase_of_quiet
  unfold State.epWrite
  simp only []
  split
  · exact quiet (by simp [quietParts])
  split
  · split <;> exact quiet (by simp [quietParts])
  split
  · (repeat' split) <;> exact quiet (by simp [quietParts])
  split
  · split <;> exact quiet (by simp [quietParts])
  split
  · exact quiet (by simp [quietParts])
  split
  · (repeat' split) <;> exact quiet (by simp [quietParts])
  split
  case h_1 hdoor => exact State.epDoor_redBase hdoor
  case h_2 => (repeat' split) <;> exact quiet (by simp [quietParts])

theorem State.serveAt_redBase (s : State) (src a : Nat) (data : Option (List Byte)) (n : Nat) :
    (s.serveAt src a data n).1.redBase = s.redBase := by
  have quiet {r : State × Ans} (h : SameBut quietParts s r.1) : r.1.redBase = s.redBase := h.redBase_of_quiet
  unfold State.serveAt
  split
  · exact quiet (by simp [quietParts])
  split
  · cases data with
    | none => exact quiet (by simp [quietParts])
    | some bs => exact s.epWrite_redBase _ _ _ _
  split
  · rfl
  · cases data <;> exact quiet (by simp [quietParts])

/-- What a step of a fold keeps of the state that it carries, the whole fold keeps. -/
theorem foldl_redBase {α β : Type} (π : β → State) {f : β → α → β} (h : ∀ b a, (π (f b a)).redBase = (π b).redBase)
    (l : List α) (b : β) : (π (l.foldl f b)).redBase = (π b).redBase := by
  induction l generalizing b with
  | nil => rfl
  | cons a l ih => exact (ih (f b a)).trans (h b a)

theorem State.serveRun_redBase (s : State) (src a : Nat) (data : Option (List Byte)) (n : Nat) :
    (s.serveRun src a data n).1.redBase = s.redBase := by
  unfold State.serveRun
  split
  case isTrue =>
    refine foldl_redBase Prod.fst (fun q b => ?_) _ (s, Ans.ok)
    simp only []
    split
    · rfl
    · exact q.1.serveAt_redBase _ _ _ _
  case isFalse =>
    refine (State.serveAt_redBase _ _ _ _ _).trans ?_
    split
    · rfl
    · exact (s.stackUp_frame _).redBase (by decide)

theorem State.access_redBase (s : State) (src a : Nat) (data : Option (List Byte)) (n : Nat) :
    (s.access src a data n).1.redBase = s.redBase := by
  unfold State.access
  simp only []
  split
  case isTrue =>
    have hsent (flips : Nat) : ((s.netFlips (taDie a)).2.netError src a flips).redBase = s.redBase :=
      ((State.netError_frame _ _ _ _).redBase (by decide)).trans ((s.netFlips_frame _).redBase (by decide))
    split
    · exact s.serveRun_redBase _ _ _ _
    split
    · exact hsent _
    · exact (State.serveRun_redBase _ _ _ _ _).trans (hsent _)
  case isFalse =>
    split
    · split <;> rfl
    · rfl

theorem State.translate_redBase (s : State) (die agent va need : Nat) : (s.translate die agent va need).1.redBase = s.redBase :=
  (s.translate_frame die agent va need).redBase (by decide)

theorem State.vread_redBase (s : State) (ag : Agent) (va n need : Nat) : (s.vread ag va n need).1.redBase = s.redBase := by
  unfold State.vread
  refine foldl_redBase Prod.fst (fun q b => ?_) _ (s, (⟨0, 0, [], none⟩ : VRes))
  have htr := q.1.translate_redBase (q.1.tuOf ag b.1) ag.code b.1 need
  simp only []
  split
  · rfl
  split
  · exact htr
  · exact (State.access_redBase _ _ _ _ _).trans htr

theorem State.vwrite_redBase (s : State) (ag : Agent) (va : Nat) (bs : List Byte) : (s.vwrite ag va bs).1.redBase = s.redBase := by
  unfold State.vwrite
  refine foldl_redBase Prod.fst (fun q b => ?_) _ (s, (⟨0, 0, [], none⟩ : VRes), 0)
  have htr := q.1.translate_redBase (q.1.tuOf ag b.1) ag.code b.1 permWrite
  simp only []
  split
  · rfl
  split
  · exact htr
  · exact (State.access_redBase _ _ _ _ _).trans htr

/-! ### Staged values and the check path (R314, R325 to R327) -/

theorem RdAcc.read_redBase (a : RdAcc) (ag : Agent) (va n : Nat) : (a.read ag va n).1.st.redBase = a.st.redBase := by
  unfold RdAcc.read
  split
  · rfl
  · exact a.st.vread_redBase ag va n permRead

theorem State.contribs_redBase (s : State) (ag : Agent) (e : RedEnt) (rshift : Int) (e0 n : Nat) :
    (s.contribs ag e rshift e0 n).acc.st.redBase = s.redBase := by
  unfold State.contribs
  simp only []
  refine (foldl_redBase (fun c : Contrib => c.acc.st) ?_ _ _).trans ?_
  · exact fun c i => rfl
  · exact foldl_redBase (fun q : RdAcc × List (List Nat) => q.1.st) (fun q j => q.1.read_redBase _ _ _) _ (⟨s, 0, 0⟩, [])

theorem State.compareSamples_redBase (s : State) (e : RedEnt) (p layer : Nat) (tot : SMap Nat) :
    (s.compareSamples e p layer tot).1.redBase = s.redBase := by
  unfold State.compareSamples
  refine foldl_redBase (fun q : RdAcc × Nat => q.1.st) (fun q x => ?_) _ (⟨s, 0, 0⟩, 0)
  have hread := q.1.read_redBase (s.rdAgent 4) ((e.sums + 6 * (x.1 - 40 * e.lo p)) % 2 ^ 64) 6
  simp only []
  generalize q.1.read _ _ _ = r at hread ⊢
  (repeat' split)
  · rfl
  · exact hread
  · exact hread
  · exact hread
  · exact ((State.redMismatch_frame _ _ _ _ _ _ _).redBase (by decide)).trans hread

theorem State.totalsHere_redBase (s : State) (e : RedEnt) (p layer n : Nat) :
    (s.totalsHere e p layer n).1.redBase = s.redBase := by
  have hcmp := s.compareSamples_redBase e p layer (s.redLayer layer).down
  unfold State.totalsHere
  simp only []
  generalize s.compareSamples _ _ _ _ = r at hcmp ⊢
  (repeat' split)
  · exact hcmp
  · refine .trans (State.redBase_setRedLayer ?_) hcmp
    rfl
  · rfl

theorem State.passDown_redBase (s : State) (e : RedEnt) (p layer n : Nat) (tot : SMap Nat) :
    (s.passDown e p layer n tot).redBase = s.redBase := by
  unfold State.passDown
  refine (forEach_keeps State.redBase (fun t c _ => (t.sendTotals_frame e c layer n tot).redBase (by decide)) _).trans ?_
  exact State.redBase_setRedLayer (s := s) rfl

theorem State.sumsUp_redBase (s : State) (e : RedEnt) (p layer n : Nat) : (s.sumsUp e p layer n).redBase = s.redBase := by
  unfold State.sumsUp
  simp only []
  split
  case h_1 => rfl
  case h_2 =>
    split
    case isTrue => rfl
    case isFalse =>
      have hmarked : (s.setRedLayer layer { s.redLayer layer with upSent := true }).redBase = s.redBase :=
        State.redBase_setRedLayer rfl
      split
      · exact (State.passDown_redBase _ _ _ _ _ _).trans hmarked
      · exact ((State.sendTotals_frame _ _ _ _ _ _).redBase (by decide)).trans hmarked

theorem State.storeWord_redBase (s : State) (e : RedEnt) (p layer : Nat) (w : FlagWord) :
    (s.storeWord e p layer w).redBase = s.redBase := by
  unfold State.storeWord
  extract_lets stored s1 s2
  have hstored : s1.redBase = s.redBase := State.redBase_setRedLayer rfl
  exact (forEach_keeps (l := treeKids p e.len) State.redBase (fun t c _ => (t.emit_frame _).redBase (by decide)) s2).trans hstored

theorem State.wordUp_redBase (s : State) (e : RedEnt) (p layer : Nat) : (s.wordUp e p layer).redBase = s.redBase := by
  unfold State.wordUp
  simp only []
  split
  case h_1 => rfl
  case h_2 =>
    split
    case isTrue => rfl
    case isFalse =>
      have hmarked : (s.setRedLayer layer { s.redLayer layer with upWord := true }).redBase = s.redBase :=
        State.redBase_setRedLayer rfl
      split
      · refine (State.storeWord_redBase _ _ _ _ _).trans ?_
        split
        · exact hmarked
        · exact ((State.redMismatch_frame _ _ _ _ _ _ _).redBase (by decide)).trans hmarked
      · exact hmarked

theorem State.checkGoOn_redBase (s : State) (layer : Nat) : (s.checkGoOn layer).1.redBase = s.redBase := by
  unfold State.checkGoOn
  split
  case h_1 => rfl
  case h_2 e p _ =>
    split
    · rfl
    · refine ((State.redStat_frame _).redBase (by decide)).trans ((State.totalsHere_redBase _ _ _ _ _).trans ?_)
      exact (State.wordUp_redBase _ _ _ _).trans (s.sumsUp_redBase _ _ _ _)

theorem State.redOn_redBase (s : State) (layer : Nat) : (s.redOn layer).redBase = s.redBase := by
  have hon := s.checkGoOn_redBase layer
  unfold State.redOn
  split
  case h_1 heq => rwa [heq] at hon
  case h_2 => rfl

end Sys2Proof.Machine
end

section
/-!
What a halt that stops the job leaves of the reductions (13_gradient_reduction R522; 18_faults_and_relief R431 to R433).
-/
namespace Sys2Proof.Machine

/-! ### FAULTED of the reduction units (Table 13-4)

FAULTED stays through a halt. What a halt writes is of other units or of other places, but for FAULTED of a DMA engine, which has
the endpoint, the offset and the place of a reduction unit's; a halt sets it and never clears it. -/

/-- What a halt writes: what messages write, and registers of which none at the place of a reduction unit's FAULTED clears it. -/
def stopWrites (u : Nat) (f : Field) (v : Nat) : Prop :=
  mailWrites u f v ∨ f.off < 2 ^ 24 ∧ f.lo < 32 ∧ ∀ n < 5, u = rdU n → f.lo = 1 → f = Reg.RD_STAT_FAULTED ∧ v = 1

/-- FAULTED of a reduction unit, once set, stays through what halts write. -/
theorem Wrote.rd_rdFaulted {s t : State} (h : Wrote stopWrites s t) {n : Nat} (hn : n < 5)
    (hset : s.rd (rdU n) Reg.RD_STAT_FAULTED = 1) : t.rd (rdU n) Reg.RD_STAT_FAULTED = 1 := by
  refine h _ _ _ (fun w g v hw hk => ?_) hset
  rcases hw with hmail | ⟨hoff, hlo, hplace⟩
  · exact absurd hk (mailWrites.spare (by simp only [rdU, mbxU, unitOf]; omega) (by decide) w g v hmail)
  · obtain ⟨hu, -, hbit⟩ := fieldKey_inj _ _ _ _ (by decide) hoff (by decide) hlo hk
    obtain ⟨hg, rfl⟩ := hplace n hn hu.symm hbit.symm
    exact ⟨hg, rfl⟩

theorem Wrote.stop {s t : State} (h : Wrote mailWrites s t) : Wrote stopWrites s t := h.mono fun _ _ _ hw => .inl hw

/-- A register whose place is not that of FAULTED. -/
theorem stopWrites.of_place {u : Nat} {f : Field} {v : Nat} (hf : f.off < 2 ^ 24 ∧ f.lo < 32 ∧ f.lo ≠ 1) : stopWrites u f v :=
  .inr ⟨hf.1, hf.2.1, fun _ _ _ hlo => absurd hlo hf.2.2⟩

/-- A register of a unit that is no reduction unit. -/
theorem stopWrites.of_unit {u : Nat} {f : Field} {v : Nat} (hu : ∀ n < 5, u ≠ rdU n)
    (hf : f.off < 2 ^ 24 ∧ f.lo < 32) : stopWrites u f v :=
  .inr ⟨hf.1, hf.2, fun n hn he => absurd he (hu n hn)⟩

theorem stopWrites.of_ep {die core ep : Nat} {f : Field} {v : Nat} (h : ep % 64 ≠ 2 ∧ f.off < 2 ^ 24 ∧ f.lo < 32) :
    stopWrites (unitOf die core ep) f v :=
  .of_unit (fun n _ => by have hep := h.1; simp only [rdU, unitOf]; omega) h.2

theorem Wrote.wr_of_place {s t : State} (h : Wrote stopWrites s t) {u : Nat} {f : Field} {v : Nat}
    (hf : f.off < 2 ^ 24 ∧ f.lo < 32 ∧ f.lo ≠ 1) : Wrote stopWrites s (t.wr u f v) := h.wr (.of_place hf)

theorem Wrote.wr_of_ep {s t : State} (h : Wrote stopWrites s t) {die core ep : Nat} {f : Field} {v : Nat}
    (hf : ep % 64 ≠ 2 ∧ f.off < 2 ^ 24 ∧ f.lo < 32) : Wrote stopWrites s (t.wr (unitOf die core ep) f v) := h.wr (.of_ep hf)

/-! ### What is written on the way to a halt (07_streams_layout R180, R181; 09_core_sequencer R233, R237) -/

theorem stopWrites.of_logShows {s t : State} (h : SameRegsBut logShows s t) : Wrote stopWrites s t :=
  h.wrote fun p hp => by
    simp only [logShows, List.mem_cons, List.not_mem_nil, or_false] at hp
    rcases hp with rfl | rfl | rfl | rfl <;> exact ⟨by decide, fun _ => .of_ep (by decide)⟩

theorem State.logEvent_stopWrites (s : State) (code u d0 d1 d2 d3 : Nat) : Wrote stopWrites s (s.logEvent code u d0 d1 d2 d3) :=
  stopWrites.of_logShows (s.logEvent_regs code u d0 d1 d2 d3)

theorem State.stopCore_stopWrites (s : State) (die core : Nat) : Wrote stopWrites s (s.stopCore die core) := by
  have hhalt (t : State) : Wrote stopWrites t (t.haltRegs die core 13 false 0) :=
    ((((((Wrote.of_self _ t).wr_of_ep (by decide)).wr_of_ep (by decide)).wr_of_ep (by decide)).wr_of_ep (by decide)).wr_of_ep
      (by decide)).wr_of_ep (by decide)
  have hdown : Wrote stopWrites s (s.coreDown die core 13 false 0) :=
    (((Wrote.of_regs (.of_self _ s) (by rw [← State.setCore_regs s die core _])).wr_of_ep (by decide)).wr_of_ep
      (by decide)).through (hhalt _)
  unfold State.stopCore
  simp only []
  split
  case isTrue => exact hdown.through (State.logEvent_stopWrites _ _ _ _ _ _ _)
  case isFalse => exact .of_self _ s

theorem stopWrites.of_endShows {die core : Nat} {s t : State} (h : SameRegsBut (endShows die core) s t) : Wrote stopWrites s t :=
  h.wrote fun p hp => by
    have hfields : ∀ f ∈ endFields, f.lo ≠ 1 := by decide
    have hf : p.2 ∈ endFields := by
      simp only [endShows, List.mem_cons, List.not_mem_nil, or_false] at hp
      rcases hp with rfl | rfl | rfl | rfl | rfl <;> simp [endFields]
    obtain ⟨hwidth, hoff, hlo, -⟩ := endFields_ok _ hf
    exact ⟨hwidth, fun _ => .of_place ⟨hoff, hlo, hfields _ hf⟩⟩

theorem State.failXfer_stopWrites (s : State) (die core i : Nat) (x : Xfer) (e : XferFault) :
    Wrote stopWrites s (s.failXfer die core i x e) := by
  have hfaulted : Wrote stopWrites s (s.wr (dmaU die core) Reg.DMA_STAT_FAULTED 1) :=
    (Wrote.of_self _ s).wr (.inr ⟨by decide, by decide, fun _ _ _ _ => ⟨rfl, rfl⟩⟩)
  have hcapture (tag ring : Nat) (dir mcast fetch : Bool) : Wrote stopWrites s (s.dmaCapture die core e tag ring dir mcast fetch) :=
    (((((((hfaulted.wr_of_place (by decide)).wr_of_place (by decide)).wr_of_place (by decide)).wr_of_place (by decide)).wr_of_place
      (by decide)).wr_of_place (by decide)).wr_of_place (by decide)).wr_of_place (by decide)
  have hreturn (t : State) (tag err : Nat) : Wrote stopWrites t (t.returnTag die core tag err) :=
    stopWrites.of_endShows (die := die) (core := core) fun _ _ hf =>
      t.rd_returnTag die core tag err (hf (seqU die core, Reg.SEQ_NEARMISS_COUNT) (by simp [endShows]))
  exact ((((hcapture _ _ _ _ _).of_regs (State.setCore_regs _ _ _ _)).through (hreturn _ _ _)).through
    (stopWrites.of_endShows (State.dmaStat_regs _ die core))).through (State.logEvent_stopWrites _ _ _ _ _ _ _)

theorem State.answerHeld_stopWrites (s : State) (src key err : Nat) : Wrote stopWrites s (s.answerHeld src key err) := by
  unfold State.answerHeld
  simp only []
  (repeat' split)
  · exact .of_self _ s
  · exact s.failXfer_stopWrites _ _ _ _ _
  · exact stopWrites.of_endShows (s.endXfer_regs _ _ _)
  · exact Wrote.of_regs (.of_self _ s) (State.setCore_regs _ _ _ _)
  · exact .of_self _ s

/-! ### What the stop of the engines writes (18_faults_and_relief R433) -/

theorem State.stopApps_stopWrites (s : State) : Wrote stopWrites s s.stopApps := by
  unfold State.stopApps
  refine .through (.forEach (fun t i _ => .wr_of_place ?_ (by decide)) s) (.forEach (fun t c _ => ?_) _)
  case refine_1 => exact Wrote.of_regs (.of_self _ t) rfl
  case refine_2 =>
    have hclear := (t.mbxClear_mail c).stop
    simp only []
    split
    case isTrue =>
      refine .through (.through (.of_regs (hclear.wr (.inl (mailWrites_result c 2))) ?_) (State.logEvent_stopWrites _ _ _ _ _ _ _))
        (State.answerHeld_stopWrites _ _ _ _)
      exact State.emit_regs _ _
    case isFalse => exact hclear

theorem State.stopUpdates_stopWrites (s : State) : Wrote stopWrites s s.stopUpdates := by
  unfold State.stopUpdates
  extract_lets red s1 s2
  have h1 : Wrote stopWrites s s1 := .of_regs (.of_self _ s) rfl
  have h2 : Wrote stopWrites s1 s2 := .forEach (fun t die _ => (Wrote.of_self _ t).wr_of_place (by decide)) s1
  exact (h1.through h2).through (.forEach (fun t n _ =>
    ((Wrote.of_self _ t).wr_of_place (by decide)).wr_of_place (by decide)) s2)

theorem State.stopStreams_stopWrites (s : State) : Wrote stopWrites s s.stopStreams := by
  have hunit (k n : Nat) (hn : n < 5) : strU k ≠ rdU n := by
    simp only [strU, rdU, unitOf]
    omega
  unfold State.stopStreams
  extract_lets s1
  have h1 : Wrote stopWrites s s1 := .of_regs (.of_self _ s) rfl
  exact h1.through (.forEach (fun t k _ =>
    (((Wrote.of_self _ t).wr (.of_unit (hunit k) (by decide))).wr (.of_unit (hunit k) (by decide))).wr
      (.of_unit (hunit k) (by decide))) s1)

theorem State.abortDrain_stopWrites (s : State) (code : Nat) : Wrote stopWrites s (s.abortDrain code) := by
  unfold State.abortDrain
  split
  case h_1 => exact .of_self _ s
  case h_2 =>
    refine .through ?_ (State.notice_mail _ _ _ _ _ _ _).stop
    unfold State.drainEnded
    extract_lets ck s1
    have h1 : Wrote stopWrites s s1 := .of_regs (.of_self _ s) rfl
    exact (h1.wr_of_ep (by decide)).through (.forEach (fun t die _ => (Wrote.of_self _ t).wr_of_ep (by decide)) _)

theorem State.stopEngines_stopWrites (s : State) (code : Nat) : Wrote stopWrites s (s.stopEngines code) := by
  have hstages (t : State) : Wrote stopWrites t t.emptyStages := .of_regs (.of_self _ t) rfl
  have hstop : Wrote stopWrites s (s.stopApps.stopUpdates.emptyStages.stopStreams.abortDrain code) :=
    (((s.stopApps_stopWrites.through (State.stopUpdates_stopWrites _)).through (hstages _)).through
      (State.stopStreams_stopWrites _)).through (State.abortDrain_stopWrites _ code)
  unfold State.stopEngines
  extract_lets s1 fix
  refine .wr_of_ep (.of_regs hstop ?_) (by decide)
  rfl

theorem State.fogActions_stopWrites (s : State) (f : Fog) (unit : Nat) : Wrote stopWrites s (s.fogActions f unit) := by
  unfold State.fogActions
  extract_lets halts links rcv log s1 s2 job stopped s3
  have h1 : Wrote stopWrites s s1 := .of_regs (.of_self _ s) rfl
  have h2 : Wrote stopWrites s s2 := (h1.wr_of_ep (by decide)).bump 1 fun _ => .of_ep (by decide)
  have h3 : Wrote stopWrites s s3 := by
    unfold s3
    split
    case isTrue =>
      have hstopped : Wrote stopWrites s stopped := .of_regs h2 rfl
      have hcores : Wrote stopWrites stopped stopped.stopCores := .forEach (fun t p _ => t.stopCore_stopWrites p.1 p.2) _
      exact ((hstopped.through hcores).through (State.stopEngines_stopWrites _ _)).wr_of_ep (by decide)
    case isFalse => exact h2
  split
  case isTrue => exact h3.through (State.notice_mail _ _ _ _ _ _ _).stop
  case isFalse => exact h3

theorem State.logFault_stopWrites (s : State) (code cls u suspect port d0 d1 d2 d3 : Nat) :
    Wrote stopWrites s (s.logFault code cls u suspect port d0 d1 d2 d3) := by
  unfold State.logFault
  extract_lets raise s1 f log s2
  have h1 : Wrote stopWrites s s1 := stopWrites.of_logShows (s.pushEntry_regs _)
  split
  case isTrue =>
    have hflood : Wrote stopWrites s (s2.flood f 12) :=
      (Wrote.of_regs h1 rfl).through (.forEach (fun t p _ => Wrote.of_regs (.of_self _ t) (t.emit_regs (.fog p f))) s2)
    have hnote : Wrote stopWrites (s2.flood f 12) ((s2.flood f 12).noteFog f) := by
      unfold State.noteFog
      split
      case isTrue => exact (((Wrote.of_self _ _).wr_of_ep (by decide)).wr_of_ep (by decide)).wr_of_ep (by decide)
      case isFalse => exact .of_self _ _
    exact (hflood.through hnote).through (State.fogActions_stopWrites _ _ _)
  case isFalse => exact h1

/-! ### The reductions abandoned (R522; 18_faults_and_relief R433) -/

/-- The stop of the engines abandons every layer in reduction. -/
theorem State.stopEngines_layers (s : State) (code : Nat) : (s.stopEngines code).red.layers = [] := by
  have hupdates (t : State) : t.stopUpdates.red.layers = [] := by
    unfold State.stopUpdates
    extract_lets red s1 s2
    have h2 : s2.red = s1.red := forEach_keeps State.red (fun t die _ => State.wr_red t _ _ _) s1
    exact (congrArg RedSt.layers (forEach_keeps State.red (l := List.range 5)
      (fun t n _ => (State.wr_red _ (rdU n) _ _).trans (State.wr_red t (rdU n) _ _)) s2)).trans (congrArg RedSt.layers h2)
  calc (s.stopEngines code).red.layers = (s.stopApps.stopUpdates.emptyStages.stopStreams.abortDrain code).red.layers := rfl
    _ = s.stopApps.stopUpdates.emptyStages.stopStreams.red.layers := by rw [State.abortDrain_frame _ code .red (by decide)]
    _ = s.stopApps.stopUpdates.emptyStages.red.layers := by rw [State.stopStreams_frame _ .red (by decide)]
    _ = [] := hupdates s.stopApps

/-- A signal that meets a running job stops it and abandons its reductions. -/
theorem State.fogActions_of_running {s : State} (h : s.running = true) (f : Fog) (unit : Nat) :
    (s.fogActions f unit).running = false ∧ (s.fogActions f unit).red.layers = [] := by
  unfold State.fogActions
  extract_lets halts links rcv log s1 s2 job stopped s3
  have hs2 : s2.running = true := h
  have hs3 : s3 = (stopped.stopCores.stopEngines f.code).wr keeperU Reg.RCV_STAT_STATE 2 := if_pos hs2
  have hjob : s3.job = stopped.job := by
    rw [hs3, State.wr_job, State.stopEngines_frame _ _ .job (by decide), State.stopCores_frame _ .job (by decide)]
  have hlayers : s3.red.layers = [] := by
    rw [hs3, State.wr_red, State.stopEngines_layers]
  have hrunning : s3.running = false := by
    rw [State.running, hjob]
    rfl
  split
  case isTrue =>
    have hnotice := s3.notice_frame s3.job.modId 9 0 false 3 f.bytes
    exact ⟨by rwa [State.running, hnotice .job (by decide)], by rwa [hnotice .red (by decide)]⟩
  case isFalse => exact ⟨hrunning, hlayers⟩

/-- After an entry of class HALT the job does not run; where it ran, its reductions are abandoned. -/
theorem State.logHalt_stops (s : State) (code u d0 d1 d2 d3 : Nat) :
    (s.logHalt code u d0 d1 d2 d3).running = false ∧
      ((s.logHalt code u d0 d1 d2 d3).red.layers = [] ∨ (s.logHalt code u d0 d1 d2 d3).red = s.red) := by
  unfold State.logHalt State.logFault
  extract_lets raise s1 f log s2
  have hentry : SameBut [.regs, .log, .sb] s s1 := s.pushEntry_frame _
  split
  case isTrue hrun =>
    have hsent : SameBut [.regs, .log, .sb] s ((s2.flood f 12).noteFog f) := by simp [s2, hentry]
    have hjob : ((s2.flood f 12).noteFog f).running = true := by rwa [State.running, hsent .job (by decide)]
    obtain ⟨hstopped, hlayers⟩ := State.fogActions_of_running hjob f (s.unitAddr u)
    exact ⟨hstopped, .inl hlayers⟩
  case isFalse hrun =>
    have hjob : s1.running = s.running := by rw [State.running, hentry .job (by decide), State.running]
    exact ⟨hjob.trans (Bool.eq_false_iff.2 hrun), .inr (hentry .red (by decide))⟩

end Sys2Proof.Machine
end

section
/-!
Where commands of the reduction units complete (13_gradient_reduction R317, R318, R322, R323, R326, R522).
-/
namespace Sys2Proof.Machine

/-! ### Ready words (R317, R318) -/

/-- What has been passed on of flag words touches neither the start order nor the counts of ready words. -/
theorem State.redWords_starts (s : State) (layer : Nat) :
    (s.redWords layer).red.order = s.red.order ∧ (s.redWords layer).red.ready = s.red.ready := by
  have hword (t : State) (e : RedEnt) (p r : Nat) :
      (t.redWord e p layer r).red.order = t.red.order ∧ (t.redWord e p layer r).red.ready = t.red.ready := by
    unfold State.redWord
    extract_lets l o mine w l1 s1 lane
    split
    case isTrue =>
      split
      · exact ⟨rfl, rfl⟩
      · rw [State.redMismatch_frame _ _ _ _ _ _ _ .red (by decide)]
        exact ⟨rfl, rfl⟩
    case isFalse => exact ⟨rfl, rfl⟩
  unfold State.redWords
  split
  case h_1 => exact ⟨rfl, rfl⟩
  case h_2 e p _ =>
    rw [State.redStat_frame _ .red (by decide)]
    constructor
    · refine forEach_keeps (fun t => t.red.order) (fun t r _ => ?_) s
      simp only []
      split
      · exact (hword t e p r).1
      · rfl
    · refine forEach_keeps (fun t => t.red.ready) (fun t r _ => ?_) s
      simp only []
      split
      · exact (hword t e p r).2
      · rfl

/-- The last ready word of a layer of the current step starts it. -/
theorem State.rdReady_of_last {s : State} {layer : Nat} {e : RedEnt} {p : Nat} (hent : s.redEnt layer = some (e, p))
    (hnew : layer ∉ s.red.order) (hlast : mget s.red.ready layer 0 + 1 = e.nsrc) :
    s.rdReady layer (s.rd keeperU Reg.FX_STEP_LO_VALUE % 2 ^ 32) =
      ({ s with red := { s.red with ready := mset 0 s.red.ready layer e.nsrc, order := s.red.order ++ [layer] } } :
        State).redWords layer := by
  unfold State.rdReady
  simp [hent, hnew, hlast]

theorem rdReady_yields (s : State) (layer step : Nat) (e : RedEnt) (p : Nat) (hlayer : layer < 65536) (_ : step < 2 ^ 32)
    (hstep : step = s.rd keeperU Reg.FX_STEP_LO_VALUE % 2 ^ 32) (hent : s.redEnt layer = some (e, p))
    (hnew : layer ∉ s.red.order) (hlast : mget s.red.ready layer 0 + 1 = e.nsrc) :
    Yields (.rdReady layer step) s (fun t => t.red.order = s.red.order ++ [layer] ∧ mget t.red.ready layer 0 = e.nsrc ∧
      SameMemBut 0 0 s t) := by
  have hexec : exec (.rdReady layer step) s = done ((s.rdReady layer step).redStat.ok) := by
    change execRdReady layer step s = _
    rw [execRdReady, Nat.mod_eq_of_lt hlayer, hstep, Nat.mod_mod]
  have hred : (s.rdReady layer step).redStat.red = (s.rdReady layer step).red := State.redStat_frame _ .red (by decide)
  have hframe := rdReady_keeps layer step s _ hexec
  obtain ⟨horder, hready⟩ := State.redWords_starts
    { s with red := { s.red with ready := mset 0 s.red.ready layer e.nsrc, order := s.red.order ++ [layer] } } layer
  rw [← State.rdReady_of_last hent hnew hlast, ← hstep, ← hred] at horder hready
  refine .of_done hexec ⟨horder, ?_, fun a _ => hframe .mem (by decide) a⟩
  exact (congrArg (fun m => mget m layer 0) hready).trans (mget_mset_same _ _ _ _)

/-! ### Segments (R318, R322, R323) -/

/-- A segment that meets no fault is recorded as sent, whatever its sums. -/
theorem State.segmentSend_sent {s : State} {e : RedEnt} {p layer j : Nat} (h : (s.segmentSend e p layer j).2 = none) :
    ((s.segmentSend e p layer j).1.redLayer layer).sent = j :: (s.redLayer layer).sent := by
  revert h
  unfold State.segmentSend
  extract_lets lane ag r n c l inc outs sums sat o flags l1 u s1 s2 s3
  have hsums : l.sent = (s.redLayer layer).sent := State.sent_of_redBase (s.contribs_redBase ag e _ _ n) layer
  have hmarked : (s2.redLayer layer).sent = j :: (s.redLayer layer).sent := by
    have hred : s2.red = (c.acc.st.setRedLayer layer l1).red := State.addEvents_frame _ _ _ _ .red (by decide)
    rw [State.redLayer, hred, ← hsums]
    exact congrArg RedLayer.sent (State.redLayer_setRedLayer_same _ _ _)
  split
  case isTrue =>
    intro h
    cases h
  case isFalse =>
    intro _
    split
    case isTrue =>
      have hwritten := s2.vwrite_redBase ag ((e.sums + 6 * (40 * j - 40 * e.lo r)) % 2 ^ 64) (sumBytes (sums.take n))
      have hsent := (State.sent_of_redBase hwritten layer).trans hmarked
      simp only []
      split <;> exact hsent
    case isFalse =>
      have hred : s3.red = s2.red := by rw [State.bump_red, State.emit_red]
      exact (State.sent_of_redBase (State.redBase_of_red hred) layer).trans hmarked

theorem laneSegmentSend_yields (s : State) (layer seg : Nat) (e : RedEnt) (p : Nat) (hent : s.redEnt layer = some (e, p))
    (hready : s.segReady e p layer seg = true) (hok : (s.segmentSend e p layer seg).2 = none) :
    Yields (.laneSegmentSend layer seg []) s (fun t => (t.redLayer layer).sent = seg :: (s.redLayer layer).sent) := by
  let s1 := (s.segmentSend e p layer seg).1
  let s2 := if e.first p (e.chunkOf seg) then s1 else s1.laneTaken (seg % 4)
  have hexec : exec (.laneSegmentSend layer seg []) s = done ((s2.redWords layer).redOn layer) := by
    change execLaneSegmentSend layer seg [] s = _
    have hsend : s.segmentSend e p layer seg = (s1, none) := Prod.ext rfl hok
    simp only [execLaneSegmentSend, State.upset_nil, hent, hready, if_true, hsend]
    rfl
  have htaken : s2.redBase = s1.redBase := by
    unfold s2
    split
    · rfl
    · exact (s1.laneTaken_frame _).redBase (by decide)
  have hend : ((s2.redWords layer).redOn layer).redBase = s1.redBase :=
    (State.redOn_redBase _ _).trans ((State.redWords_redBase _ _).trans htaken)
  exact .of_done hexec ((State.sent_of_redBase hend layer).trans (State.segmentSend_sent hok))

theorem rsegReceive_yields (s : State) (layer seg step : Nat) (e : RedEnt) (p : Nat) (data : List Byte)
    (hent : s.redEnt layer = some (e, p)) (hstep : step % 512 = s.step32 % 512) (hseg : seg < e.segs)
    (hfirst : e.first p (e.chunkOf seg) = false) (hsent : seg ∉ (s.redLayer layer).sent)
    (hinbox : (s.redLayer layer).inbox = []) :
    Yields (.rsegReceive layer seg step data) s (fun t => mget (t.redLayer layer).inbox seg [] = sumsOf 40 data ∧
      (t.redLayer layer).sent = (s.redLayer layer).sent ∧ SameMemBut 0 0 s t ∧ SameRegsBut [] s t ∧ t.out = s.out) := by
  let l := { s.redLayer layer with inbox := [(seg, sumsOf 40 data)] }
  have hexec : exec (.rsegReceive layer seg step data) s = done (s.setRedLayer layer l) := by
    change execRsegReceive layer seg step data s = _
    simp [execRsegReceive, hent, hstep, hseg, hfirst, hsent, hinbox, mins, l]
  have hlayer : (s.setRedLayer layer l).canon.redLayer layer = l := s.redLayer_setRedLayer_same layer l
  refine .of_done hexec ⟨?_, ?_, SameMemBut.canon.2 fun _ _ => rfl, fun _ _ _ => rfl, rfl⟩
  · rw [hlayer]
    exact if_pos rfl
  · rw [hlayer]

/-! ### Flag words (R322, R323) -/

theorem rwordReceive_yields (s : State) (lane chunk layer : Nat) (e : RedEnt) (p : Nat) (data : List Byte)
    (hlayer : (FlagWord.ofBytes data).layer = layer) (hent : s.redEnt layer = some (e, p))
    (hstep : (FlagWord.ofBytes data).step = s.step32) (hchunk : chunk < e.len) (hfirst : e.first p chunk = false)
    (hin : (s.redLayer layer).wordIn = []) :
    Yields (.rwordReceive lane chunk data) s
      (fun t => (t.redLayer layer).wordIn = [(chunk, (FlagWord.ofBytes data))]) := by
  let s1 := s.setRedLayer layer { s.redLayer layer with wordIn := [(chunk, FlagWord.ofBytes data)] }
  have hexec : exec (.rwordReceive lane chunk data) s = done ((s1.redWords layer).redOn layer) := by
    change execRwordReceive lane chunk data s = _
    simp [execRwordReceive, hlayer, hent, hstep, hchunk, hfirst, hin, s1]
  have hend : ((s1.redWords layer).redOn layer).redBase = s1.redBase :=
    (State.redOn_redBase _ _).trans (State.redWords_redBase _ _)
  refine .of_done hexec ((State.wordIn_of_redBase hend layer).trans ?_)
  exact congrArg RedLayer.wordIn (s.redLayer_setRedLayer_same layer _)

/-! ### The check path (R326, R327) -/

theorem checkSampleRead_yields (s : State) (layer : Nat) (e : RedEnt) (p : Nat) (hent : s.redEnt layer = some (e, p))
    (hstarted : s.redStarted layer = true) (hfault : (s.redLayer layer).fault = false)
    (hnone : (s.redLayer layer).samples = none) (hread : (s.readSamples e layer).2 = none)
    (hon : ((s.readSamples e layer).1.checkGoOn layer).2 = none) :
    Yields (.checkSampleRead layer []) s (fun t => (t.redLayer layer).samples.isSome = true) := by
  let s1 := (s.readSamples e layer).1
  have hexec : exec (.checkSampleRead layer []) s = done (s1.checkGoOn layer).1 := by
    change execCheckSampleRead layer [] s = _
    have hsamples : s.readSamples e layer = (s1, none) := Prod.ext rfl hread
    have hpath : s1.checkGoOn layer = ((s1.checkGoOn layer).1, none) := Prod.ext rfl hon
    simp only [execCheckSampleRead, State.upset_nil, hent, hstarted, hfault, hnone, hsamples, Bool.not_true, Bool.or_self,
      Option.isSome_none, Bool.false_eq_true, if_false]
    rw [hpath]
  have hkept : ((s1.checkGoOn layer).1.redLayer layer).samples = (s1.redLayer layer).samples :=
    State.samples_of_redBase (s1.checkGoOn_redBase layer) layer
  have hsome : (s1.redLayer layer).samples.isSome = true := by
    unfold s1 State.readSamples
    simp
  exact .of_done hexec ((congrArg Option.isSome hkept).trans hsome)

/-- Values put in a map at consecutive keys are found there. -/
theorem mget_foldl_mins_zipIdx {α : Type} (l : List α) (m : SMap α) (ord n i : Nat) (d : α) (h : i < l.length) :
    mget ((l.zipIdx n).foldl (fun m x => mins m (ord + x.2) x.1) m) (ord + (n + i)) d = l.getD i d := by
  have hbelow (l : List α) (m : SMap α) (n j : Nat) (hj : j < n) :
      mget ((l.zipIdx n).foldl (fun m x => mins m (ord + x.2) x.1) m) (ord + j) d = mget m (ord + j) d := by
    induction l generalizing m n with
    | nil => rfl
    | cons a l ih =>
      rw [List.zipIdx_cons, List.foldl_cons, ih _ _ (by omega), mget_mins, if_neg (by omega)]
  induction l generalizing m n i with
  | nil => simp at h
  | cons a l ih =>
    rw [List.zipIdx_cons, List.foldl_cons]
    cases i with
    | zero =>
      change mget _ (ord + n) d = a
      rw [hbelow l _ (n + 1) n (by omega), mget_mins, if_pos rfl]
    | succ i =>
      rw [show n + (i + 1) = n + 1 + i by omega, ih _ _ _ (by simpa using h)]
      rfl

/-- Of two counts of sums of the same payload, the first agree. -/
theorem sumsOf_getD {i k n : Nat} (bs : List Byte) (hk : i < k) (hn : i < n) :
    (sumsOf k bs).getD i 0 = (sumsOf n bs).getD i 0 := by
  simp [sumsOf, hk, hn]

theorem chkReceive_yields (s : State) (layer pos ord step n : Nat) (e : RedEnt) (p : Nat) (data : List Byte)
    (hent : s.redEnt layer = some (e, p)) (hstep : step % 512 = s.step32 % 512)
    (hn : n = (sampled e.nelem s.step32).length) (hord : ord < n) (hfault : (s.redLayer layer).fault = false)
    (hpos : pos ∈ treeKids p e.len) :
    Yields (.chkReceive layer pos ord step data) s (fun t => (∀ i, i < Nat.min 40 (n - ord) →
      mget (mget (t.redLayer layer).childTot pos []) (ord + i) 0 = (sumsOf 40 data).getD i 0)) := by
  let tot := (sumsOf (Nat.min 40 (n - ord)) data).zipIdx.foldl (fun m x => mins m (ord + x.2) x.1)
    (mget (s.redLayer layer).childTot pos [])
  let s1 := s.setRedLayer layer { s.redLayer layer with childTot := mins (s.redLayer layer).childTot pos tot }
  have hexec : exec (.chkReceive layer pos ord step data) s = done (s1.redOn layer) := by
    change execChkReceive layer pos ord step data s = _
    subst hn
    simp only [execChkReceive, hent]
    rw [if_neg (by simp [hstep, hord, hfault]), if_pos (by simpa using hpos)]
  have hkept : ((s1.redOn layer).redLayer layer).childTot = mins (s.redLayer layer).childTot pos tot :=
    (State.childTot_of_redBase (s1.redOn_redBase layer) layer).trans
      (congrArg RedLayer.childTot (s.redLayer_setRedLayer_same layer _))
  refine .of_done hexec fun i hi => ?_
  have hin : mget tot (ord + i) 0 = (sumsOf (Nat.min 40 (n - ord)) data).getD i 0 := by
    have hput := mget_foldl_mins_zipIdx (sumsOf (Nat.min 40 (n - ord)) data) (mget (s.redLayer layer).childTot pos []) ord 0 i 0
      (by simpa [sumsOf] using hi)
    rwa [Nat.zero_add] at hput
  calc mget (mget ((s1.redOn layer).redLayer layer).childTot pos []) (ord + i) 0
      = mget tot (ord + i) 0 := by rw [hkept, mget_mins, if_pos rfl]
    _ = (sumsOf 40 data).getD i 0 := hin.trans (sumsOf_getD data hi (Nat.lt_of_lt_of_le hi (Nat.min_le_left _ _)))

theorem cwordReceive_yields (s : State) (pos layer : Nat) (e : RedEnt) (p : Nat) (data : List Byte)
    (hlayer : (FlagWord.ofBytes data).layer = layer) (hent : s.redEnt layer = some (e, p))
    (hstep : (FlagWord.ofBytes data).step = s.step32) (hfault : (s.redLayer layer).fault = false)
    (hpos : pos ∈ treeKids p e.len) :
    Yields (.cwordReceive pos data) s (fun t => (pos, (FlagWord.ofBytes data)) ∈ (t.redLayer layer).childWord) := by
  let words := (pos, FlagWord.ofBytes data) :: (s.redLayer layer).childWord.filter (fun x => !(x.1 == pos))
  let s1 := s.setRedLayer layer { s.redLayer layer with childWord := words }
  have hexec : exec (.cwordReceive pos data) s = done (s1.redOn layer) := by
    change execCwordReceive pos data s = _
    simp only [execCwordReceive, hlayer, hent]
    rw [if_neg (by simp [hstep, hfault]), if_pos (by simpa using hpos)]
  have hkept : ((s1.redOn layer).redLayer layer).childWord = words :=
    (State.childWord_of_redBase (s1.redOn_redBase layer) layer).trans
      (congrArg RedLayer.childWord (s.redLayer_setRedLayer_same layer _))
  exact .of_done hexec (hkept ▸ List.mem_cons_self)

/-! ### Faults (R522) -/

/-- A fault is met by a lane or by the check unit. -/
theorem State.redFaultNow_unit {s s1 : State} {e : RedEnt} {p layer u code addr : Nat}
    (h : s.redFaultNow e p layer = some (s1, u, code, addr)) : ∃ n < 5, u = rdU n := by
  unfold State.redFaultNow at h
  simp only [] at h
  split at h
  case h_1 j _ =>
    split at h <;> cases h
    exact ⟨j % 4, by omega, rfl⟩
  case h_2 =>
    split at h
    case h_1 =>
      cases h
      exact ⟨4, by decide, rfl⟩
    case h_2 =>
      split at h <;> cases h
      exact ⟨4, by decide, rfl⟩

/-- The state in which a layer's fault is shown at its unit, before it is logged. -/
def State.redFaulted (s : State) (layer u : Nat) : State :=
  (s.setRedLayer layer { s.redLayer layer with fault := true }).wr u Reg.RD_STAT_FAULTED 1

theorem reductionFault_yields (s : State) (layer u code : Nat) (e : RedEnt) (p : Nat) (hent : s.redEnt layer = some (e, p))
    (hstarted : s.redStarted layer = true) (hfault : (s.redLayer layer).fault = false)
    (hnow : (s.redFaultNow e p layer).map (fun x => (x.2.1, x.2.2.1)) = some (u, code)) :
    Yields (.reductionFault layer []) s (fun t => t.rd u Reg.RD_STAT_FAULTED = 1 ∧ t.running = false ∧
      ((t.redLayer layer).fault = true ∨ t.red.layers = [])) := by
  obtain ⟨⟨s1, u', code', addr⟩, hmet, heq⟩ := Option.map_eq_some_iff.1 hnow
  obtain ⟨rfl, rfl⟩ := Prod.mk.inj heq
  obtain ⟨n, hn, rfl⟩ := State.redFaultNow_unit hmet
  let s2 := State.redFaulted { s1 with red := s.red } layer (rdU n)
  have hexec : ∃ d1, exec (.reductionFault layer []) s = done (s2.logHalt code' (rdU n) addr d1 layer 0) :=
    ⟨_, by
      change execReductionFault layer [] s = _
      simp only [execReductionFault, State.upset_nil, hent, hstarted, hfault, hmet, Bool.not_true, Bool.or_self,
        Bool.false_eq_true, if_false]
      rfl⟩
  obtain ⟨d1, hexec⟩ := hexec
  obtain ⟨hstopped, hlayers⟩ := s2.logHalt_stops code' (rdU n) addr d1 layer 0
  refine .of_done hexec ⟨?_, hstopped, ?_⟩
  · exact (State.logFault_stopWrites s2 _ _ _ _ _ _ _ _ _).rd_rdFaulted hn (State.rd_wr_same _ _ _ _)
  · refine hlayers.symm.imp (fun hred => ?_) id
    have hmarked : (s2.redLayer layer).fault = true := congrArg RedLayer.fault (State.redLayer_setRedLayer_same _ _ _)
    rwa [State.redLayer, ← hred] at hmarked

/-- Settles O14, clause by clause: ready words, segments, flag words, the check path, and a fault. -/
theorem reductionsComplete : Obligations.ReductionsComplete := by
  unfold Obligations.ReductionsComplete
  exact ⟨rdReady_yields, laneSegmentSend_yields, rsegReceive_yields, rwordReceive_yields, checkSampleRead_yields,
    chkReceive_yields, cwordReceive_yields, reductionFault_yields⟩

end Sys2Proof.Machine
end
